-- ==== Sys2Proof/Word.lean ====
section
/-! DEFINITION. Bytes, register words, and sparse tables keyed by a natural number. Fixed data types only; the operations
on tables stand in Machine/Tab.lean, where a repair may mend them. -/

namespace Sys2Proof

/-- One byte. -/
abbrev Byte := BitVec 8

/-- The content of a register, right-justified in 64 bits. -/
abbrev Word := BitVec 64

/-- A sparse table: pairs of key and value, keys strictly rising, no entry equal to what an unlisted key reads as. -/
abbrev Tab (α : Type) := List (Nat × α)

end Sys2Proof
end

