-- ==== Sys2Proof/Operand.lean ====
section
/-! DEFINITION. The records that commands carry as operands: register and memory accesses, Leash messages, CAN and
Ethernet frames, what a start finds, physical upsets. Plain data; nothing here acts on a state. -/

namespace Sys2Proof

/-- A fabric access to an address: the requester ID of R655, the world tag the requester offers (used for the requesters
whose tag R636 leaves to their chapters), its width in bits, and the 40-bit address. -/
structure Access where
  req   : Nat
  world : Bool
  bits  : Nat
  addr  : Nat
  deriving DecidableEq, Repr

/-- A physical upset found by a read: byte `byte` of die `die` of DRAM granule `gran` (its index from 0x40_0000_0000 in
64-byte units) has been XORed with `xor` since it was last written (R267). -/
structure DramUpset where
  gran : Nat
  die  : Nat
  byte : Nat
  xor  : Byte
  deriving DecidableEq, Repr

/-- A physical upset of one bit (0 to 71, 64 to 71 the check bits) of an 8-byte shared-SRAM word, named by its index from
0x00_0100_0000 in 8-byte units (R287). -/
structure SramUpset where
  word : Nat
  bit  : Nat
  deriving DecidableEq, Repr

/-- A cache or TCM error met by a core's access (R631 to R633). -/
inductive CacheFault where
  | l1Parity | l2Single | l2Uncorrectable | safetyParity
  deriving DecidableEq, Repr

/-- A Leash message as it arrives at the management port (R111, R113). -/
structure LeashMsg where
  etherType : Nat
  dst       : Nat
  tagged    : Bool
  version   : Nat
  typ       : Nat
  status    : Nat
  role      : Nat
  sessionId : Nat
  seq       : Nat
  length    : Nat
  reserved  : Nat
  payload   : List Byte
  tag       : List Byte
  deriving DecidableEq, Repr

/-- One stage-1 copy as the Boot ROM reads it from flash: its 8 KiB header and its image (R234, R235). -/
structure Stage1Copy where
  header : List Byte
  image  : List Byte
  deriving DecidableEq, Repr

/-- What the hardware meets during the device part of a start, and no rule computes: the flash copies, whether the AON SRAM
passes its code check, the first step that fails for a physical reason (and whether it found a failed unit), alarms
raised on the way, CIM macros whose recomputed CRC differs, parameter copies whose tag fails, the length of the device
part in µs. -/
structure StartEnv where
  copyA        : Stage1Copy
  copyB        : Stage1Copy
  aonGood      : Bool
  failStep     : Option (Nat × Bool)
  alarms       : List Nat
  badMacros    : List (Nat × Nat)
  badParams    : List Nat
  badRecords   : List Nat
  deviceUs     : Nat
  railsSteady  : Bool
  deriving DecidableEq, Repr

/-- A CAN frame (R688, R692): identifier and format bits, and the data bytes. -/
structure CanFrame where
  ident : Nat
  ide   : Bool
  fdf   : Bool
  brs   : Bool
  esi   : Bool
  rtr   : Bool
  data  : List Byte
  deriving DecidableEq, Repr

/-- An Ethernet frame without its FCS (R674): addresses, the 802.1Q tag when there is one (PCP, VID), the R-TAG sequence
number when there is one, EtherType and payload. -/
structure EthFrame where
  dst     : Nat
  src     : Nat
  tag     : Option (Nat × Nat)
  rtag    : Option Nat
  etype   : Nat
  payload : List Byte
  deriving DecidableEq, Repr

/-- A Tether frame as terminated at port 0 or 1 (R722). -/
structure TetherFrame where
  port      : Nat
  srcMac    : Nat
  vlan      : Nat
  version   : Nat
  opcode    : Nat
  flags     : Nat
  status    : Nat
  connId    : Nat
  psn       : Nat
  ackPsn    : Nat
  regionTag : Nat
  offset    : Nat
  length    : Nat
  imm       : Nat
  reserved  : Nat
  payload   : List Byte
  deriving DecidableEq, Repr

/-- How the header of a CSI-2 packet came out of its ECC (R550). -/
inductive HeaderEcc where
  | clean | corrected | bad
  deriving DecidableEq, Repr

/-- The RISC-V atomic operations a fabric AMO carries (18_splice_bridge.md, Atomic sequences). -/
inductive AmoOp where
  | swap | add | xor | and | or | min | max | minu | maxu
  deriving DecidableEq, Repr

/-- What a far side answers to a request that leaves the device: the bytes read (empty for a write), or the way it ended
without completing. `stall n` is a beat-by-beat access that stopped after `n` beats; `poisoned` and `refused` are
PCIe completions (R804). -/
inductive FarAnswer where
  | data (bytes : List Byte)
  | stall (beats : Nat)
  | poisoned
  | refused
  deriving DecidableEq, Repr

/-- A memory write a submission of the Raster engine commits: a 64-byte line and the bytes its shaders wrote (R592). -/
structure LineWrite where
  line  : Nat
  bytes : List (Option Byte)
  deriving DecidableEq, Repr

end Sys2Proof
end

