-- ==== Sys2Proof/Syntax.lean ====
section
/-! DEFINITION. The commands of the block: one constructor per row of spec/opcode_table.json, in the table's order, with the
operands the row's rules give it. Times are in nanoseconds, temperatures in tenths of a degree. -/

namespace Sys2Proof

/-- The 289 operations and events of the OMK-7264. -/
inductive Instr where
  -- supply, resets and starts (05, 21)
  | vddAonPowerOn (porstHigh : Bool) (splitStrap pcieMode : Bool) (env : StartEnv)
  | vddAonRemoved
  | porstNAssert (lowNs : Nat)
  | porstNRelease (splitStrap pcieMode : Bool) (env : StartEnv)
  | retentionRailExcursion (rail : Fin 5)
  | coreRailUndervoltage (rail : Fin 8)
  | railWindow (rail : Fin 8)
  | vsenseSample (tapUv : Int)
  | braceReturn
  | controlledResetDone
  | restartExit (env : StartEnv)
  | startReady (acc : Access) (value : Word)
  | readyTimeout
  | warmReqNFall (lowNs : Nat)
  | restartRequest (m : LeashMsg)
  | tempSensorUpdate (temps : List Int)
  | pmicPoll (words : List (Option Nat))
  | pmbAlert (words : List (Option Nat))
  -- Sheepdog (04)
  | alarm (numbers : List Nat)
  | alarmLine (equalNs : Nat)
  | sdgSelf
  | safeAckNChange (low : Bool)
  | safeAckConfirmed
  | safeAckMissing
  | restartFrameWaitEnd
  | aliveToggle
  | safetyStatusPeriodic
  | safetyStatusTxDone
  | safetyMsgFail
  | wdgKick (n : Fin 16) (acc : Access) (value : Word)
  | wdgWindowOpen (n : Fin 16)
  | wdgWindowClose (n : Fin 16)
  | swAlarm (acc : Access) (value : Word)
  | clockMon (clock : Fin 12) (count : Nat)
  | clkSdgMonitor (hz : Nat) (forNs : Nat)
  | latentTest (failing : List (Fin 7))
  | fabricTimeout (waitedNs : Nat)
  -- register access (02)
  | registerWrite (acc : Access) (value : Word)
  | lowHalfRead (acc : Access)
  | highHalfRead (acc : Access)
  | lowHalfWrite (acc : Access) (value : Word)
  | highHalfWrite (acc : Access) (value : Word)
  | generationWaitEnd (n : Fin 256)
  | generationWaitTimeout (n : Fin 256)
  -- object dictionary, Leash, CANopen FD (03)
  | leashHello (m : LeashMsg)
  | leashProve (m : LeashMsg)
  | leashRead (m : LeashMsg)
  | leashWrite (m : LeashMsg)
  | leashSegReadInit (m : LeashMsg)
  | leashSegRead (m : LeashMsg)
  | leashSegWriteInit (m : LeashMsg)
  | leashSegWrite (m : LeashMsg)
  | leashClose (m : LeashMsg)
  | leashNop (m : LeashMsg)
  | proveTimeout (slot : Fin 4)
  | idleTimeout (slot : Fin 4)
  | lockoutExpiry (role : Fin 4)
  | storeAllParameters (m : LeashMsg)
  | storeDone (tagValid : Bool)
  | restoreDefaultParameters (m : LeashMsg)
  | errorHistoryClear (m : LeashMsg)
  | credentialWrite (m : LeashMsg) (committed : Bool)
  | usdoUpload (index sub : Nat)
  | usdoDownload (index sub : Nat)
  | nmtCommand (command node : Nat)
  | heartbeatProducer
  | tpdoEventTimer (n : Fin 16)
  -- memory (06)
  | dramRead (acc : Access) (len : Nat) (upsets : List DramUpset) (cache : Option (CacheFault × Bool))
  | demandScrub (addr : Nat)
  | sramRead (acc : Access) (len : Nat) (upsets : List SramUpset)
  | codedWrite (acc : Access) (posted : Bool) (bytes : List (Option Byte))
  | patrolScrub (upsets : List DramUpset) (sramUpsets : List SramUpset) (packSymbols : Nat)
  | patrolPassStart
  -- redundant execution (07)
  | lockstepMismatch (pair : Fin 4)
  | coreRelease (acc : Access) (value : Word)
  | handoverSplit (acc : Access) (pair : Fin 4) (mismatch : Option Bool)
  | handoverRejoin (acc : Access) (pair : Fin 4) (mismatch : Option Bool)
  | handoverConfirm (acc : Access) (value : Word)
  | handoverConfirmTimeout
  -- Pack queues, control commands, engine commands (08, 09, 11)
  | packDoorbell (n q : Fin 256) (acc : Access) (tail : Nat)
  | queueConfigWrite (n q : Fin 256) (acc : Access) (value : Word)
  | queueStop (n q : Fin 256) (acc : Access)
  | queueStart (n q : Fin 256) (acc : Access)
  | queueFlush (n q : Fin 256) (acc : Access)
  | cqHeadWrite (n q : Fin 256) (acc : Access) (head : Nat)
  | descriptorFetch (n q : Fin 256)
  | nop (n q : Fin 256)
  | fence (n q : Fin 256)
  | checkpoint (n q : Fin 256)
  | knotWait (n q : Fin 256)
  | knotSignal (n q : Fin 256)
  | copy (n q : Fin 256)
  | matmul (n q : Fin 256)
  | conv2d (n q : Fin 256)
  | vecAdd (n q : Fin 256)
  | vecMul (n q : Fin 256)
  | vecMax (n q : Fin 256)
  | vecMin (n q : Fin 256)
  | vecAxpb (n q : Fin 256)
  | vecRelu (n q : Fin 256)
  | vecClamp (n q : Fin 256)
  | vecGelu (n q : Fin 256)
  | vecSigmoid (n q : Fin 256)
  | vecTanh (n q : Fin 256)
  | vecExp (n q : Fin 256)
  | vecRsqrt (n q : Fin 256)
  | vecSoftmax (n q : Fin 256)
  | vecLayernorm (n q : Fin 256)
  | vecRmsnorm (n q : Fin 256)
  | vecRowSum (n q : Fin 256)
  | vecRowMax (n q : Fin 256)
  | vecConvert (n q : Fin 256)
  | cimRun (n q : Fin 256)
  | cimLoad (n q : Fin 256)
  | attn (n q : Fin 256)
  | attnVerifyAttend (n q : Fin 256)
  | attnVerifyAccept (n q : Fin 256)
  | tileStart (n q : Fin 256) (packUncorrectable : Bool)
  | tileCommit (n q : Fin 256) (signaturesDiffer : Bool) (referenceOff : List (Fin 16 × Fin 64 × Nat))
  | tileHang (n q : Fin 256)
  | completionWrite (n q : Fin 256)
  | knotWaitRelease (n q : Fin 256)
  | knotWaitTimeout (n q : Fin 256)
  -- CIM calibration (09)
  | calDue (tile : Fin 16) (macroNo : Fin 64) (tempC10 : Int)
  | calibrationStart (tile : Fin 16)
  | calibrationDone (tile : Fin 16) (fit : List (Nat × Nat)) (residualOk : Bool)
  | calOverdue (tile : Fin 16) (macroNo : Fin 64)
  -- scheduling (10)
  | engineKindWrite (m : LeashMsg)
  | rosterTableWrite (m : LeashMsg)
  | rosterSelect (m : LeashMsg)
  | rosterFrameStart
  | slotStart (index : Fin 256)
  | slotEnd (index : Fin 256)
  | slowdownWindow (n : Fin 256) (occupied contended : Nat)
  | packModeWrite (m : LeashMsg)
  | packScrubDone (tookUs : Nat)
  -- Kennel (11)
  | kseqAlloc (n : Fin 256) (acc : Access)
  | kseqFree (n : Fin 256) (acc : Access) (handle : Fin 4096)
  | kseqTrim (n : Fin 256) (acc : Access) (handle : Fin 4096)
  | kseqResume (n : Fin 256) (acc : Access) (handle : Fin 4096)
  | kseqQuery (n : Fin 256) (acc : Access) (handle : Fin 4096)
  | swapOutDone (handle : Fin 4096)
  | swapInDone (handle : Fin 4096)
  | pageZeroed (page : Nat)
  | kennelAllocGrant (handle : Fin 4096)
  -- Pack instances (12)
  | instanceCreate (m : LeashMsg)
  | instanceReset (n : Fin 256) (acc : Access) (od : Option LeashMsg)
  | instanceRemove (m : LeashMsg)
  -- camera ingest (13)
  | frameStartPacket (rx : Fin 8) (vc : Fin 16)
  | csiLongPacket (rx : Fin 8) (vc : Fin 16) (dataType : Nat) (ecc : HeaderEcc) (crcOk : Bool) (payload : List Byte)
  | embeddedDataPacket (rx : Fin 8) (vc : Fin 16) (payload : List Byte)
  | frameEndPacket (rx : Fin 8) (vc : Fin 16)
  | testLinesAtDma (stream : Fin 128) (observed : List Byte)
  | testLineTimeout (stream : Fin 128)
  | frameTimeout (stream : Fin 128)
  | releasedWrite (stream : Fin 128) (acc : Access) (value : Word)
  | streamEnable (m : LeashMsg)
  | streamDisable (m : LeashMsg)
  -- Raster engine (14)
  | gfxDoorbell (q : Fin 32) (acc : Access) (tail : Nat)
  | gfxSubmissionFetch (q : Fin 32)
  | gfxSubmissionStart (q : Fin 32) (draw : Bool) (primitives : List (Nat × Nat))
  | gfxPreemptionPoint (q : Fin 32) (writes : List LineWrite)
  | gfxSubmissionDone (q : Fin 32) (renderPasses : Nat) (writes : List LineWrite) (failure : Option (Nat × Nat))
  | timesliceExpiry
  | preemptTimeout (q : Fin 32)
  | shaderFault (q : Fin 32)
  | gfxCoreStopTimeout
  | gfxQueueStop (q : Fin 32) (acc : Access)
  | gfxQueueStart (q : Fin 32) (acc : Access)
  | gfxQueueFlush (q : Fin 32) (acc : Access)
  -- displays (14)
  | dispFrameStart (pipe : Fin 4)
  | dispRegionCrc (pipe : Fin 4) (region : Fin 16) (flips : List (Nat × Byte))
  | scanoutUnderflow (pipe : Fin 4)
  | planeAddrWrite (pipe : Fin 4) (plane : Fin 4) (acc : Access) (value : Word)
  | expCommit (pipe : Fin 4) (acc : Access) (value : Word)
  | pipeEnable (m : LeashMsg)
  -- clusters, worlds, trusted services (15)
  | appRelease (acc : Access) (value : Word)
  | mworldWrite (core : Fin 12) (csr : Nat) (value : Word) (machineMode : Bool) (pc : Nat)
  | filterLock (acc : Access) (value : Word)
  | derivationRequest (acc : Access) (salt info : List Byte) (length : Nat)
  | attestationSign (acc : Access) (digest : List Byte)
  | measGo (acc : Access) (value : Word)
  | measurementDone
  | mboxDoorbell (m : Fin 16) (acc : Access) (value : Word)
  | mboxResp (m : Fin 16) (acc : Access) (value : Word)
  | twKick (acc : Access) (value : Word)
  | trustedWdg
  | lifecycleAdvance (m : LeashMsg)
  | rollbackRaise (m : LeashMsg)
  | splitMaskProgram (m : LeashMsg)
  -- interrupt messages and knots (15)
  | msgRouteWrite (source : Fin 4096) (acc : Access) (value : Word)
  | knotSignalWrite (knot : Fin 4096) (acc : Access) (value : Word)
  | waitArm (safety : Bool) (slot : Fin 1024) (acc : Access) (value : Word)
  | waitSlotTimeout (safety : Bool) (slot : Fin 1024)
  | knotAssign (m : LeashMsg)
  -- switch, TSN, gPTP (16)
  | ethFrameRx (port : Fin 10) (frame : EthFrame)
  | egressTransmit (port : Fin 10)
  | cbRecoveryReset (entry : Fin 512)
  | gateControlListWrite (m : LeashMsg)
  | gptpSync (port : Fin 10) (offsetNs : Int)
  | syncLoss
  | holdover100ms
  | portLinkDown (port : Fin 10)
  | portLinkUp (port : Fin 10)
  -- CAN FD and routing (16)
  | canFrameRx (c : Fin 12) (frame : CanFrame)
  | canTxDoorbell (c : Fin 12) (safety : Bool) (acc : Access) (tail : Nat)
  | canTransmitStart (c : Fin 12)
  | canTxDone (c : Fin 12)
  | busOff (c : Fin 12)
  | canRecover (m : LeashMsg)
  | busOffRecovered (c : Fin 12)
  | tpCmRts (c : Fin 12) (frame : CanFrame)
  | tpCmBam (c : Fin 12) (frame : CanFrame)
  | tpDt (c : Fin 12) (frame : CanFrame)
  | tpTimeout (c : Fin 12) (session : Fin 8)
  | tpRelease (c : Fin 12) (acc : Access) (value : Word)
  | ruleTableWrite (m : LeashMsg)
  | internalTxDoorbell (port : Fin 2) (ring : Fin 4) (acc : Access) (tail : Nat)
  -- Tether (17)
  | tetherSqWrite (sq : Fin 64)
  | tetherSqWriteImm (sq : Fin 64)
  | tetherSqRead (sq : Fin 64)
  | tetherSqFlush (sq : Fin 64)
  | tetherSqDoorbell (sq : Fin 64) (acc : Access) (tail : Nat)
  | tetherRxWrite (f : TetherFrame) (contextParity : Bool)
  | tetherRxWriteImm (f : TetherFrame)
  | tetherRxRead (f : TetherFrame)
  | tetherRxReadResp (f : TetherFrame)
  | tetherRxFlush (f : TetherFrame)
  | flushAck (conn : Fin 4096)
  | tetherRxFlushAck (f : TetherFrame)
  | tetherRxAck (f : TetherFrame)
  | tetherRxNak (f : TetherFrame)
  | goBackRound (conn : Fin 4096)
  | connEnable (handle : Fin 4096) (acc : Access)
  | connDisable (handle : Fin 4096) (acc : Access)
  | connQuery (handle : Fin 4096) (acc : Access)
  | register (index : Fin 4096) (acc : Access)
  | deregister (index : Fin 4096) (acc : Access)
  -- Splice (18)
  | hawserAccess (acc : Access) (len : Nat) (wr : Option (List Byte)) (far : FarAnswer)
  | spliceTimeout (acc : Access) (isWrite : Bool) (beats : Nat)
  | hawserAmo (acc : Access) (op : AmoOp) (operand : Word) (far : FarAnswer)
  | hawserLr (acc : Access) (far : FarAnswer)
  | hawserSc (acc : Access) (value : Word) (far : FarAnswer)
  | lockExpiry
  | semaphoreAmo (acc : Access) (op : AmoOp) (operand : Word) (far : FarAnswer)
  | semaphoreLr (acc : Access) (far : FarAnswer)
  | semaphoreSc (acc : Access) (value : Word) (far : FarAnswer)
  | semaphoreExpiry (granule : Nat)
  | pcieOutboundAccess (acc : Access) (len : Nat) (wr : Option (List Byte)) (far : FarAnswer)
  | pcieInboundRequest (busAddr : Nat) (len : Nat) (wr : Option (List (Option Byte)))
  | pcieIntx
  | epMsi (acc : Access) (value : Word) (hostEnabled : Bool)
  | pollRead (entry : Fin 64) (far : FarAnswer)
  | pollListWrite (m : LeashMsg)
  | prefetchExpiry (line : Fin 8)
  | farMasterRequest
  | farMasterRelease
  | farMasterCycle (farAddr : Nat) (len : Nat) (wr : Option (List (Option Byte)))
  -- Whistle (19)
  | ambientSample (channel : Fin 4) (code : Nat)
  | carrierFlood (channel : Fin 4) (presentNs : Nat)
  | floodClear (channel : Fin 4)
  | whistleCodingError (channel : Fin 4)
  | whistleStop (channel : Fin 4) (body : Word)
  | whistleHold (channel : Fin 4) (body : Word)
  | hitchUp (channel : Fin 4) (body : Word)
  | hitchDown (channel : Fin 4) (body : Word)
  | creepFwd (channel : Fin 4) (body : Word)
  | creepRev (channel : Fin 4) (body : Word)
  | whistleHeartbeat (channel : Fin 4) (body : Word)
  | whistleArm (channel : Fin 4) (body : Word)
  | whistleDisarm (channel : Fin 4) (body : Word)
  | heartbeatLost (slot : Fin 8)
  | disarmAll (acc : Access) (value : Word)
  | recPop (acc : Access) (value : Word)
  | pendantKeyWrite (m : LeashMsg) (committed : Bool)
  | pendantSlotEnable (m : LeashMsg)
  -- freeze-frame (20)
  | frzTriggerNow (m : LeashMsg)
  | frzTrigPin (lowNs highNs : Nat)
  | frzSwTrig (acc : Access) (value : Word)
  | frzSchedule (m : LeashMsg)
  | frzScheduledAccept
  | frzLatch
  | frzBankFull (unconfirmed : List Nat)
  | frzRecord
  | frzRelease (acc : Access) (value : Word) (od : Option LeashMsg)
  | frzClearRecords (m : LeashMsg)
  -- rows at the table's end
  | rejectedFrame (channel : Fin 4) (body : Word)
  | aerError
  | grandmasterSync
  deriving DecidableEq, Repr

end Sys2Proof
end

