-- ==== Sys2Proof/Decode.lean ====
section
/-! DEFINITION. Words of the command table. No row of spec/opcode_table.json gives bits: a command is an access, a message, a
frame or an event on a pin, and carries its operands as they are. -/

namespace Sys2Proof

/-- The command that a word spells by the table's bits: no row has bits, so every word is rejected. -/
def decodeTableWord (_nbits _w : Nat) : Option Instr := none

end Sys2Proof
end

