-- ==== Sys2Proof/Machine/Tab.lean ====
section
/-! DEFINITION. Sparse tables (read, write, canonical form), bit fields of numbers and byte strings, in one place. -/

namespace Sys2Proof.Machine

/-- What key `k` holds; an unlisted key reads as `d k`. -/
def tabGet {α : Type} (d : Nat → α) : Tab α → Nat → α
  | [], k => d k
  | (j, v) :: t, k => if k = j then v else tabGet d t k

/-- `t` with the entry `(k, v)` at its place among rising keys. -/
def tabInsert {α : Type} (k : Nat) (v : α) : Tab α → Tab α
  | [] => [(k, v)]
  | (j, u) :: t => if k < j then (k, v) :: (j, u) :: t else (j, u) :: tabInsert k v t

/-- `t` without the entry of key `k`. -/
def tabErase {α : Type} (t : Tab α) (k : Nat) : Tab α := t.filter (fun p => decide (p.1 ≠ k))

/-- `t` with `v` at key `k`: the entry is dropped when `v` is what an unlisted key reads as, so equal tables are equal data. -/
def tabSet {α : Type} [DecidableEq α] (d : Nat → α) (t : Tab α) (k : Nat) (v : α) : Tab α :=
  if v = d k then tabErase t k else tabInsert k v (tabErase t k)

/-- `t` with the entry of key `k` replaced by its image. -/
def tabUpd {α : Type} [DecidableEq α] (d : Nat → α) (t : Tab α) (k : Nat) (f : α → α) : Tab α :=
  tabSet d t k (f (tabGet d t k))

/-- The canonical form above a lower bound: keys strictly rising from `lo`, no entry equal to its default. -/
def tabWfFrom {α : Type} [DecidableEq α] (d : Nat → α) : Nat → Tab α → Bool
  | _, [] => true
  | lo, (j, v) :: t => decide (lo ≤ j) && (!decide (v = d j)) && tabWfFrom d (j + 1) t

/-- The canonical form of a table. -/
def tabWf {α : Type} [DecidableEq α] (d : Nat → α) (t : Tab α) : Bool := tabWfFrom d 0 t

/-- Bits `hi` down to `lo` of a number. -/
def bits (w hi lo : Nat) : Nat := w / 2 ^ lo % 2 ^ (hi + 1 - lo)

/-- Bit `b` of a number. -/
def bit (w b : Nat) : Bool := w.testBit b

/-- A condition as the number 1 or 0. -/
def b2n (b : Bool) : Nat := if b then 1 else 0

/-- `w` with bits `hi` down to `lo` replaced by `v`. -/
def putBits (w hi lo v : Nat) : Nat := w - bits w hi lo * 2 ^ lo + v % 2 ^ (hi + 1 - lo) * 2 ^ lo

/-- `w` with bit `b` set to `v`. -/
def putBit (w b : Nat) (v : Bool) : Nat := putBits w b b (b2n v)

/-- `n` as a signed number of `w` bits. -/
def toSigned (w n : Nat) : Int :=
  if n % 2 ^ w < 2 ^ (w - 1) then (n % 2 ^ w : Nat) else ((n % 2 ^ w : Nat) : Int) - (2 ^ w : Nat)

/-- A signed number in `w` bits of two's complement. -/
def ofSigned (w : Nat) (i : Int) : Nat := (i % ((2 ^ w : Nat) : Int)).toNat

/-- Saturating count: `n + by` but at most `cap`. -/
def satAdd (n inc cap : Nat) : Nat := if n + inc ≤ cap then n + inc else cap

/-- The set bits of a mask among 0 to `n` - 1, lowest first. -/
def setBits (n mask : Nat) : List Nat := (List.range n).filter (fun b => mask.testBit b)

/-- The mask whose set bits are the members of a list. -/
def maskOf : List Nat → Nat
  | [] => 0
  | b :: t => maskOf t ||| 2 ^ b

/-- The number that little-endian bytes spell. -/
def leNat : List Byte → Nat
  | [] => 0
  | b :: t => b.toNat + 256 * leNat t

/-- The number that big-endian bytes spell. -/
def beNat (l : List Byte) : Nat := l.foldl (fun a b => a * 256 + b.toNat) 0

/-- `n` in `k` little-endian bytes. -/
def leBytes : Nat → Nat → List Byte
  | 0, _ => []
  | k + 1, n => BitVec.ofNat 8 n :: leBytes k (n / 256)

/-- `n` in `k` big-endian bytes. -/
def beBytes (k n : Nat) : List Byte := (leBytes k n).reverse

/-- `len` bytes of a byte string from offset `off`. -/
def slice (l : List Byte) (off len : Nat) : List Byte := (l.drop off).take len

/-- The little-endian number of `len` bytes at `off` of a byte string. -/
def leAt (l : List Byte) (off len : Nat) : Nat := leNat (slice l off len)

/-- The big-endian number of `len` bytes at `off` of a byte string. -/
def beAt (l : List Byte) (off len : Nat) : Nat := beNat (slice l off len)

/-- `n` zero bytes. -/
def zeros (n : Nat) : List Byte := List.replicate n 0

/-- A byte string cut or filled with zeros to `n` bytes. -/
def padTo (n : Nat) (l : List Byte) : List Byte := l.take n ++ zeros (n - l.length)

/-- ASCII bytes of a string. -/
def ascii (s : String) : List Byte := s.toList.map (fun c => BitVec.ofNat 8 c.toNat)

/-- The first `some` of a list of alternatives. -/
def firstSome {α β : Type} (f : α → Option β) : List α → Option β
  | [] => none
  | a :: t => match f a with
    | some b => some b
    | none => firstSome f t

/-- The image of element `i` of a list replaced by `f`; a list without an element `i` is unchanged. -/
def listUpd {α : Type} (f : α → α) : List α → Nat → List α
  | [], _ => []
  | a :: t, 0 => f a :: t
  | a :: t, n + 1 => a :: listUpd f t n

/-- `f` applied `n` times, with the indexes 0 to `n` - 1. -/
def iterate {α : Type} (n : Nat) (f : Nat → α → α) (a : α) : α := (List.range n).foldl (fun x i => f i x) a

end Sys2Proof.Machine
end

