-- ==== Sys2Proof/Machine/Codes.lean ====
section
/-! DEFINITION. The codes and algorithms the spec names by standard: CRC-32C and CRC-8, Reed-Solomon check symbols over
GF(2^8), SHA-256, SHA-384, HMAC, HKDF, AES-128 and CMAC. Pure functions on byte strings. -/

namespace Sys2Proof.Machine

/-! ### CRC -/

/-- One bit of a reflected CRC-32 with polynomial 0x1EDC6F41 (R319). -/
def crc32Bit (c : BitVec 32) : BitVec 32 :=
  if c.getLsbD 0 then (c >>> 1) ^^^ 0x82F63B78 else c >>> 1

/-- One byte of CRC-32C. -/
def crc32Byte (c : BitVec 32) (b : Byte) : BitVec 32 :=
  (List.range 8).foldl (fun x _ => crc32Bit x) (c ^^^ b.setWidth 32)

/-- CRC-32C with the parameters of R319. -/
def crc32c (l : List Byte) : Nat := ((l.foldl crc32Byte 0xFFFFFFFF) ^^^ 0xFFFFFFFF).toNat

/-- One byte of CRC-8 with polynomial 0x1D, not reflected (R188). -/
def crc8Byte (c : Byte) (b : Byte) : Byte :=
  (List.range 8).foldl (fun x _ => if x.getLsbD 7 then (x <<< 1) ^^^ 0x1D else x <<< 1) (c ^^^ b)

/-- CRC-8 with the parameters of R188. -/
def crc8 (l : List Byte) : Byte := (l.foldl crc8Byte 0xFF) ^^^ 0xFF

/-! ### Reed-Solomon check symbols (R265, R266, R289) -/

/-- Multiplication by x in GF(2^8) modulo a polynomial given by its low byte. -/
def gfDouble (poly : Byte) (a : Byte) : Byte := if a.getLsbD 7 then (a <<< 1) ^^^ poly else a <<< 1

/-- Product in GF(2^8) modulo x^8 + poly. -/
def gfMul (poly : Byte) (a b : Byte) : Byte :=
  ((List.range 8).foldl (fun (p : Byte × Byte) i =>
    ((if b.getLsbD i then p.1 ^^^ p.2 else p.1), gfDouble poly p.2)) (0, a)).1

/-- Powers of alpha = 0x02 in the field of R265. -/
def gfAlpha : Nat → Byte
  | 0 => 1
  | n + 1 => gfDouble 0x1D (gfAlpha n)

/-- Coefficients, lowest first, of the generator with roots alpha^0 to alpha^(n - 1) (R266), without the leading 1. -/
def rsGen : Nat → List Byte
  | 0 => []
  | n + 1 =>
    let g := rsGen n ++ [1]
    List.zipWith (fun a b => gfMul 0x1D (gfAlpha n) a ^^^ b) g (0 :: g)

/-- Check symbols of data symbols given highest first: the remainder of m(x) x^n by the generator, highest first. -/
def rsCheck (n : Nat) (data : List Byte) : List Byte :=
  data.foldl (fun (r : List Byte) d =>
    let f := d ^^^ (r.headD 0)
    List.zipWith (fun a g => a ^^^ gfMul 0x1D f g) (r.drop 1 ++ [0]) (rsGen n).reverse) (zeros n)

/-- The even or odd bytes of a granule, in address order: the data symbols of codeword A or B (R267). -/
def codewordData (odd : Bool) : List Byte → List Byte
  | [] => []
  | [a] => if odd then [] else [a]
  | a :: b :: t => (if odd then b else a) :: codewordData odd t

/-! ### SHA-256 and SHA-384 (FIPS 180-4) -/

/-- Constants 0 to 15 of SHA-256. -/
def sha256K0 : List (BitVec 32) := [
   0x428a2f98, 0x71374491, 0xb5c0fbcf, 0xe9b5dba5,
   0x3956c25b, 0x59f111f1, 0x923f82a4, 0xab1c5ed5,
   0xd807aa98, 0x12835b01, 0x243185be, 0x550c7dc3,
   0x72be5d74, 0x80deb1fe, 0x9bdc06a7, 0xc19bf174]

/-- Constants 16 to 31 of SHA-256. -/
def sha256K1 : List (BitVec 32) := [
   0xe49b69c1, 0xefbe4786, 0xfc19dc6, 0x240ca1cc,
   0x2de92c6f, 0x4a7484aa, 0x5cb0a9dc, 0x76f988da,
   0x983e5152, 0xa831c66d, 0xb00327c8, 0xbf597fc7,
   0xc6e00bf3, 0xd5a79147, 0x6ca6351, 0x14292967]

/-- Constants 32 to 47 of SHA-256. -/
def sha256K2 : List (BitVec 32) := [
   0x27b70a85, 0x2e1b2138, 0x4d2c6dfc, 0x53380d13,
   0x650a7354, 0x766a0abb, 0x81c2c92e, 0x92722c85,
   0xa2bfe8a1, 0xa81a664b, 0xc24b8b70, 0xc76c51a3,
   0xd192e819, 0xd6990624, 0xf40e3585, 0x106aa070]

/-- Constants 48 to 63 of SHA-256. -/
def sha256K3 : List (BitVec 32) := [
   0x19a4c116, 0x1e376c08, 0x2748774c, 0x34b0bcb5,
   0x391c0cb3, 0x4ed8aa4a, 0x5b9cca4f, 0x682e6ff3,
   0x748f82ee, 0x78a5636f, 0x84c87814, 0x8cc70208,
   0x90befffa, 0xa4506ceb, 0xbef9a3f7, 0xc67178f2]

/-- The round constants of SHA-256 (FIPS 180-4). -/
def sha256K : List (BitVec 32) := sha256K0 ++ sha256K1 ++ sha256K2 ++ sha256K3

/-- Constants 0 to 15 of SHA-384 and SHA-512. -/
def sha384K0 : List (BitVec 64) := [
   0x428a2f98d728ae22, 0x7137449123ef65cd,
   0xb5c0fbcfec4d3b2f, 0xe9b5dba58189dbbc,
   0x3956c25bf348b538, 0x59f111f1b605d019,
   0x923f82a4af194f9b, 0xab1c5ed5da6d8118,
   0xd807aa98a3030242, 0x12835b0145706fbe,
   0x243185be4ee4b28c, 0x550c7dc3d5ffb4e2,
   0x72be5d74f27b896f, 0x80deb1fe3b1696b1,
   0x9bdc06a725c71235, 0xc19bf174cf692694]

/-- Constants 16 to 31 of SHA-384 and SHA-512. -/
def sha384K1 : List (BitVec 64) := [
   0xe49b69c19ef14ad2, 0xefbe4786384f25e3,
   0xfc19dc68b8cd5b5, 0x240ca1cc77ac9c65,
   0x2de92c6f592b0275, 0x4a7484aa6ea6e483,
   0x5cb0a9dcbd41fbd4, 0x76f988da831153b5,
   0x983e5152ee66dfab, 0xa831c66d2db43210,
   0xb00327c898fb213f, 0xbf597fc7beef0ee4,
   0xc6e00bf33da88fc2, 0xd5a79147930aa725,
   0x6ca6351e003826f, 0x142929670a0e6e70]

/-- Constants 32 to 47 of SHA-384 and SHA-512. -/
def sha384K2 : List (BitVec 64) := [
   0x27b70a8546d22ffc, 0x2e1b21385c26c926,
   0x4d2c6dfc5ac42aed, 0x53380d139d95b3df,
   0x650a73548baf63de, 0x766a0abb3c77b2a8,
   0x81c2c92e47edaee6, 0x92722c851482353b,
   0xa2bfe8a14cf10364, 0xa81a664bbc423001,
   0xc24b8b70d0f89791, 0xc76c51a30654be30,
   0xd192e819d6ef5218, 0xd69906245565a910,
   0xf40e35855771202a, 0x106aa07032bbd1b8]

/-- Constants 48 to 63 of SHA-384 and SHA-512. -/
def sha384K3 : List (BitVec 64) := [
   0x19a4c116b8d2d0c8, 0x1e376c085141ab53,
   0x2748774cdf8eeb99, 0x34b0bcb5e19b48a8,
   0x391c0cb3c5c95a63, 0x4ed8aa4ae3418acb,
   0x5b9cca4f7763e373, 0x682e6ff3d6b2b8a3,
   0x748f82ee5defb2fc, 0x78a5636f43172f60,
   0x84c87814a1f0ab72, 0x8cc702081a6439ec,
   0x90befffa23631e28, 0xa4506cebde82bde9,
   0xbef9a3f7b2c67915, 0xc67178f2e372532b]

/-- Constants 64 to 79 of SHA-384 and SHA-512. -/
def sha384K4 : List (BitVec 64) := [
   0xca273eceea26619c, 0xd186b8c721c0c207,
   0xeada7dd6cde0eb1e, 0xf57d4f7fee6ed178,
   0x6f067aa72176fba, 0xa637dc5a2c898a6,
   0x113f9804bef90dae, 0x1b710b35131c471b,
   0x28db77f523047d84, 0x32caab7b40c72493,
   0x3c9ebe0a15c9bebc, 0x431d67c49c100d4c,
   0x4cc5d4becb3e42b6, 0x597f299cfc657e2a,
   0x5fcb6fab3ad6faec, 0x6c44198c4a475817]

/-- The round constants of SHA-384 and SHA-512 (FIPS 180-4). -/
def sha384K : List (BitVec 64) := sha384K0 ++ sha384K1 ++ sha384K2 ++ sha384K3 ++ sha384K4

/-- Initial hash value of SHA-256. -/
def sha256Init : List (BitVec 32) := [
   0x6a09e667, 0xbb67ae85, 0x3c6ef372, 0xa54ff53a,
   0x510e527f, 0x9b05688c, 0x1f83d9ab, 0x5be0cd19]

/-- Initial hash value of SHA-384. -/
def sha384Init : List (BitVec 64) := [
   0xcbbb9d5dc1059ed8, 0x629a292a367cd507,
   0x9159015a3070dd17, 0x152fecd8f70e5939,
   0x67332667ffc00b31, 0x8eb44a8768581511,
   0xdb0c2e0d64f98fa7, 0x47b5481dbefa4fa4]

/-- Rotation amounts of a SHA-2 function of word width `w`: the two big sigmas, then the small sigmas with their shifts. -/
structure ShaParam where
  s0 : Nat × Nat × Nat
  s1 : Nat × Nat × Nat
  t0 : Nat × Nat × Nat
  t1 : Nat × Nat × Nat
  deriving DecidableEq, Repr

/-- Rotations of SHA-256. -/
def sha256Param : ShaParam := { s0 := (2, 13, 22), s1 := (6, 11, 25), t0 := (7, 18, 3), t1 := (17, 19, 10) }

/-- Rotations of SHA-384. -/
def sha384Param : ShaParam := { s0 := (28, 34, 39), s1 := (14, 18, 41), t0 := (1, 8, 7), t1 := (19, 61, 6) }

/-- Exclusive or of three rotations. -/
def shaBig {w : Nat} (p : Nat × Nat × Nat) (x : BitVec w) : BitVec w :=
  x.rotateRight p.1 ^^^ x.rotateRight p.2.1 ^^^ x.rotateRight p.2.2

/-- Exclusive or of two rotations and a shift. -/
def shaSmall {w : Nat} (p : Nat × Nat × Nat) (x : BitVec w) : BitVec w :=
  x.rotateRight p.1 ^^^ x.rotateRight p.2.1 ^^^ (x >>> p.2.2)

/-- One round over the eight working variables. -/
def shaRound {w : Nat} (p : ShaParam) (v : List (BitVec w)) (kw : BitVec w) : List (BitVec w) :=
  match v with
  | [a, b, c, d, e, f, g, h] =>
    let t1 := h + shaBig p.s1 e + ((e &&& f) ^^^ ((~~~e) &&& g)) + kw
    let t2 := shaBig p.s0 a + ((a &&& b) ^^^ (a &&& c) ^^^ (b &&& c))
    [t1 + t2, a, b, c, d + t1, e, f, g]
  | _ => v

/-- Extend a message schedule, held newest first, by `n` words. -/
def shaExtend {w : Nat} (p : ShaParam) : Nat → List (BitVec w) → List (BitVec w)
  | 0, l => l
  | n + 1, l =>
    shaExtend p n ((shaSmall p.t1 (l.getD 1 0) + l.getD 6 0 + shaSmall p.t0 (l.getD 14 0) + l.getD 15 0) :: l)

/-- Words of `k` big-endian bytes of a block, `n` of them. -/
def shaWords (w k : Nat) : Nat → List Byte → List (BitVec w)
  | 0, _ => []
  | n + 1, l => BitVec.ofNat w (beNat (l.take k)) :: shaWords w k n (l.drop k)

/-- Compress one block into a hash value. -/
def shaBlock {w : Nat} (p : ShaParam) (ks : List (BitVec w)) (k : Nat) (h : List (BitVec w)) (blk : List Byte) :
    List (BitVec w) :=
  let sched := (shaExtend p (ks.length - 16) (shaWords w k 16 blk).reverse).reverse
  List.zipWith (· + ·) h ((List.zipWith (· + ·) sched ks).foldl (shaRound p) h)

/-- Blocks of `n` bytes, `c` of them. -/
def shaBlocks (n : Nat) : Nat → List Byte → List (List Byte)
  | 0, _ => []
  | c + 1, l => l.take n :: shaBlocks n c (l.drop n)

/-- The padded message of a SHA-2 function with blocks of `bs` bytes and a length field of `lf` bytes. -/
def shaPad (bs lf : Nat) (l : List Byte) : List Byte :=
  l ++ [0x80] ++ zeros ((bs - (l.length + 1 + lf) % bs) % bs) ++ beBytes lf (l.length * 8)

/-- SHA-256 of a byte string. -/
def sha256 (l : List Byte) : List Byte :=
  let m := shaPad 64 8 l
  ((shaBlocks 64 (m.length / 64) m).foldl (shaBlock sha256Param sha256K 4) sha256Init).flatMap (fun x => beBytes 4 x.toNat)

/-- SHA-384 of a byte string. -/
def sha384 (l : List Byte) : List Byte :=
  let m := shaPad 128 16 l
  (((shaBlocks 128 (m.length / 128) m).foldl (shaBlock sha384Param sha384K 8) sha384Init).flatMap
    (fun x => beBytes 8 x.toNat)).take 48

/-- HMAC-SHA-256 (R103, R118). -/
def hmac256 (key msg : List Byte) : List Byte :=
  let k := padTo 64 (if 64 < key.length then sha256 key else key)
  sha256 (k.map (· ^^^ 0x5C) ++ sha256 (k.map (· ^^^ 0x36) ++ msg))

/-- hkdf-extract of RFC 5869 with SHA-256 (R117). -/
def hkdfExtract (salt ikm : List Byte) : List Byte := hmac256 (if salt = [] then zeros 32 else salt) ikm

/-- Blocks of hkdf-expand from block `i` on, `n` of them. -/
def hkdfBlocks (prk info : List Byte) : Nat → Nat → List Byte → List Byte
  | 0, _, _ => []
  | n + 1, i, prev =>
    let t := hmac256 prk (prev ++ info ++ [BitVec.ofNat 8 i])
    t ++ hkdfBlocks prk info n (i + 1) t

/-- hkdf-expand of RFC 5869 with SHA-256 (R117, R646). -/
def hkdfExpand (prk info : List Byte) (len : Nat) : List Byte := (hkdfBlocks prk info ((len + 31) / 32) 1 []).take len

/-! ### AES-128 and CMAC (R815) -/

/-- The AES S-box of FIPS 197: its sixteen rows, column 0 in the highest byte. -/
def aesRows : List Nat :=
  [0x637C777BF26B6FC53001672BFED7AB76, 0xCA82C97DFA5947F0ADD4A2AF9CA472C0,
   0xB7FD9326363FF7CC34A5E5F171D83115, 0x04C723C31896059A071280E2EB27B275,
   0x09832C1A1B6E5AA0523BD6B329E32F84, 0x53D100ED20FCB15B6ACBBE394A4C58CF,
   0xD0EFAAFB434D338545F9027F503C9FA8, 0x51A3408F929D38F5BCB6DA2110FFF3D2,
   0xCD0C13EC5F974417C4A77E3D645D1973, 0x60814FDC222A908846EEB814DE5E0BDB,
   0xE0323A0A4906245CC2D3AC629195E479, 0xE7C8376D8DD54EA96C56F4EA657AAE08,
   0xBA78252E1CA6B4C6E8DD741F4BBD8B8A, 0x703EB5664803F60E613557B986C11D9E,
   0xE1F8981169D98E949B1E87E9CE5528DF, 0x8CA1890DBFE6426841992D0FB054BB16]

/-- The S-box: row by the high digit, column by the low one. -/
def aesSub (a : Byte) : Byte := BitVec.ofNat 8 (aesRows.getD (a.toNat / 16) 0 >>> (8 * (15 - a.toNat % 16)))

/-- The next round key from a round key, with round constant `rc`. -/
def aesNextKey (rc : Byte) (k : List Byte) : List Byte :=
  let g := fun i => k.getD i 0
  let w0 := [g 0 ^^^ aesSub (g 13) ^^^ rc, g 1 ^^^ aesSub (g 14), g 2 ^^^ aesSub (g 15), g 3 ^^^ aesSub (g 12)]
  let w1 := List.zipWith (· ^^^ ·) w0 (slice k 4 4)
  let w2 := List.zipWith (· ^^^ ·) w1 (slice k 8 4)
  let w3 := List.zipWith (· ^^^ ·) w2 (slice k 12 4)
  w0 ++ w1 ++ w2 ++ w3

/-- ShiftRows on a state in column order. -/
def aesShift (l : List Byte) : List Byte := (List.range 16).map (fun i => l.getD ((i + 4 * (i % 4)) % 16) 0)

/-- MixColumns on one column. -/
def aesMixCol : List Byte → List Byte
  | [a, b, c, d] =>
    let x := gfDouble 0x1B
    [x a ^^^ (x b ^^^ b) ^^^ c ^^^ d, a ^^^ x b ^^^ (x c ^^^ c) ^^^ d,
     a ^^^ b ^^^ x c ^^^ (x d ^^^ d), (x a ^^^ a) ^^^ b ^^^ c ^^^ x d]
  | l => l

/-- MixColumns. -/
def aesMix (l : List Byte) : List Byte :=
  aesMixCol (slice l 0 4) ++ aesMixCol (slice l 4 4) ++ aesMixCol (slice l 8 4) ++ aesMixCol (slice l 12 4)

/-- Rounds 1 to 10 of AES-128. -/
def aesRounds : Nat → Byte → List Byte → List Byte → List Byte
  | 0, rc, k, st => List.zipWith (· ^^^ ·) (aesShift (st.map aesSub)) (aesNextKey rc k)
  | n + 1, rc, k, st =>
    let k' := aesNextKey rc k
    aesRounds n (gfDouble 0x1B rc) k' (List.zipWith (· ^^^ ·) (aesMix (aesShift (st.map aesSub))) k')

/-- AES-128 encryption of one block. -/
def aes128 (key blk : List Byte) : List Byte := aesRounds 9 1 key (List.zipWith (· ^^^ ·) blk key)

/-- The CMAC subkey K1: L doubled in GF(2^128). -/
def cmacK1 (key : List Byte) : List Byte :=
  let l := beNat (aes128 key (zeros 16))
  let d := l * 2 % 2 ^ 128
  beBytes 16 (if 2 ^ 127 ≤ l then Nat.xor d 0x87 else d)

/-- AES-128 CMAC of one whole 16-byte block (SP 800-38B). -/
def cmac16 (key blk : List Byte) : List Byte := aes128 key (List.zipWith (· ^^^ ·) blk (cmacK1 key))

end Sys2Proof.Machine
end

