-- ==== Sys2Proof/Config.lean ====
section
/-! DEFINITION. What each device or its surroundings fix and the spec leaves open: constants with no body, so that no proof
can see what they are. -/

namespace Sys2Proof.Config

/-- Fresh value number `n` where the spec leaves a value open (log entry 3). -/
opaque freeWord : Nat → Word

/-- Byte `i` of the per-device secret or identity number `kind`: 0 and 1 the fused root-key hashes (R645), 2 the device-unique
secret (R645), 3 the public half of the attestation key (R647), 4 the initial OWNER credential (R145), 5 the serial number
(R5), 6 and up the MAC addresses (R136, R720). Log entry 11. -/
opaque deviceByte : (kind i : Nat) → Byte

/-- Contents of the Boot ROM, not published (R32). Log entry 13. -/
opaque bootRom : Nat → Byte

/-- Whether an ECDSA P-384 signature (key, message, signature) verifies under FIPS 186-5 (R236). Log entry 14. -/
opaque ecdsaVerify : List Byte → List Byte → List Byte → Bool

/-- Whether an ML-DSA-65 signature (key, message, signature) verifies under FIPS 204 (R236). Log entry 14. -/
opaque mldsaVerify : List Byte → List Byte → List Byte → Bool

/-- Byte `i` of the attestation signature over a digest (R647). Log entry 14. -/
opaque attestSign : List Byte → Nat → Byte

/-- The FP32 result of transcendental function number `f` at the FP32 bit patterns `x`, within 2 ulp (R343). Log entry 15. -/
opaque fpFun : (f x : Nat) → Nat

/-- The INT32 accumulator after a sum outside INT32 (R338 states exactness only for sums inside). Log entry 15. -/
opaque intOverflow : Int → BitVec 32

/-- Index of the page-list granule that the Kennel gives entry `i` of a sequence's page list (R482). Log entry 25. -/
opaque listGranule : (handle i : Nat) → Nat

/-- Byte `i` of free block number `n`: content that the spec does not give, such as the output of the image signal processor
(log entry 16) or a saved shader context (log entry 30). -/
opaque freeByte : (n i : Nat) → Byte

/-- Whether the link of display pipe `p` comes up when the pipe is enabled: it depends on the panel (log entry 32). -/
opaque linkUp : (p : Nat) → Bool

/-- The PCIe link as its link partner lets it train, as 0x3200:04 codes it: 0 for down. Log entry 43. -/
opaque pcieLink : Nat

/-- Bytes that an egress buffer holds beyond one frame of the longest length; the spec names the buffer (R677) and not its size. Log
entry 35. -/
opaque egressBytes : Nat

end Sys2Proof.Config
end

