-- ==== Sys2Proof/Machine/OdTable.lean ====
section
/-! DEFINITION. The object dictionary: one row per entry or run of entries of the chapters' tables, with type, access, roles,
default, persistence, plain range, visibility on CAN and whether it is start-applied. -/

namespace Sys2Proof.Machine

/-- Data types of entries (R80); strings, octet strings and DOMAINs carry their stated or maximum size. -/
inductive OdType where
  | bool | u8 | u16 | u32 | u64 | i8 | i16
  | str (max : Nat)
  | oct (size : Nat)
  | dom (max : Nat)
  deriving DecidableEq, Repr

/-- Access codes of entries (R80). -/
inductive OdAcc where
  | const | ro | wo | rw
  deriving DecidableEq, Repr

/-- Entries `idx` to `idx + n - 1`, subindices `s0` to `s1`. Roles are a mask: 1 OBSERVER, 2 OPERATOR, 4 SERVICE, 8 OWNER. -/
structure OdRow where
  idx    : Nat
  n      : Nat := 1
  s0     : Nat
  s1     : Nat
  typ    : OdType
  acc    : OdAcc
  roles  : Nat
  dflt   : Nat := 0
  stored : Bool := false
  lo     : Int := 0
  hi     : Int := 0
  can    : Bool := false
  start  : Bool := false
  deriving DecidableEq, Repr

/-- Entries of indices 0x10XX. -/
def odRows10 : List OdRow := [
  { idx := 0x1008, s0 := 0, s1 := 0, typ := .str 8, acc := .const, roles := 15 },
  { idx := 0x1009, s0 := 0, s1 := 0, typ := .str 2, acc := .const, roles := 15 },
  { idx := 0x1018, s0 := 0, s1 := 0, typ := .u8, acc := .const, roles := 15, dflt := 4, hi := 0xff },
  { idx := 0x1018, s0 := 1, s1 := 1, typ := .u32, acc := .const, roles := 15, dflt := 0x4c7, hi := 0xffffffff },
  { idx := 0x1018, s0 := 2, s1 := 2, typ := .u32, acc := .const, roles := 15, dflt := 0x7264, hi := 0xffffffff },
  { idx := 0x1018, s0 := 3, s1 := 3, typ := .u32, acc := .const, roles := 15, dflt := 0x4230, hi := 0xffffffff },
  { idx := 0x1018, s0 := 4, s1 := 4, typ := .u32, acc := .const, roles := 15, hi := 0xffffffff },
  { idx := 0x1000, s0 := 0, s1 := 0, typ := .u32, acc := .const, roles := 15, hi := 0xffffffff, can := true },
  { idx := 0x1001, s0 := 0, s1 := 0, typ := .u8, acc := .ro, roles := 15, hi := 0xff, can := true },
  { idx := 0x1003, s0 := 0, s1 := 0, typ := .u8, acc := .rw, roles := 4, hi := 0xff, can := true },
  { idx := 0x1003, s0 := 1, s1 := 8, typ := .u32, acc := .ro, roles := 15, hi := 0xffffffff, can := true },
  { idx := 0x100a, s0 := 0, s1 := 0, typ := .str 32, acc := .ro, roles := 15, can := true },
  { idx := 0x1010, s0 := 0, s1 := 0, typ := .u8, acc := .const, roles := 15, dflt := 1, hi := 0xff },
  { idx := 0x1010, s0 := 1, s1 := 1, typ := .u32, acc := .rw, roles := 8, dflt := 1, hi := 0xffffffff },
  { idx := 0x1011, s0 := 0, s1 := 0, typ := .u8, acc := .const, roles := 15, dflt := 1, hi := 0xff },
  { idx := 0x1011, s0 := 1, s1 := 1, typ := .u32, acc := .rw, roles := 8, dflt := 1, hi := 0xffffffff },
  { idx := 0x1017, s0 := 0, s1 := 0, typ := .u16, acc := .rw, roles := 12, dflt := 0x64, stored := true, hi := 0xffff, can := true }]

/-- Entries of indices 0x20XX. -/
def odRows20 : List OdRow := [
  { idx := 0x2000, s0 := 0, s1 := 0, typ := .u8, acc := .const, roles := 15, dflt := 2, hi := 0xff, can := true },
  { idx := 0x2000, s0 := 1, s1 := 1, typ := .u8, acc := .ro, roles := 15, dflt := 1, hi := 0xff, can := true },
  { idx := 0x2000, s0 := 2, s1 := 2, typ := .u64, acc := .ro, roles := 15, hi := 0xffffffffffffffff, can := true },
  { idx := 0x2001, s0 := 0, s1 := 0, typ := .u8, acc := .const, roles := 15, dflt := 3, hi := 0xff },
  { idx := 0x2001, s0 := 1, s1 := 1, typ := .u32, acc := .ro, roles := 15, hi := 0xffffffff },
  { idx := 0x2001, s0 := 2, s1 := 2, typ := .u32, acc := .ro, roles := 15, hi := 0xffffffff },
  { idx := 0x2001, s0 := 3, s1 := 3, typ := .u64, acc := .ro, roles := 12, hi := 0xffffffffffffffff },
  { idx := 0x2004, s0 := 0, s1 := 0, typ := .u8, acc := .const, roles := 15, dflt := 3, hi := 0xff },
  { idx := 0x2004, s0 := 1, s1 := 1, typ := .u32, acc := .ro, roles := 15, hi := 0xffffffff },
  { idx := 0x2004, s0 := 2, s1 := 2, typ := .u8, acc := .ro, roles := 15, hi := 0xff },
  { idx := 0x2004, s0 := 3, s1 := 3, typ := .bool, acc := .ro, roles := 15, hi := 1 },
  { idx := 0x2002, s0 := 0, s1 := 0, typ := .u8, acc := .const, roles := 15, dflt := 8, hi := 0xff },
  { idx := 0x2002, s0 := 1, s1 := 1, typ := .u64, acc := .const, roles := 15, hi := 0xffffffffffffffff },
  { idx := 0x2002, s0 := 2, s1 := 2, typ := .u16, acc := .rw, roles := 8, dflt := 0x88b6, stored := true, hi := 0xffff, start := true },
  { idx := 0x2002, s0 := 3, s1 := 3, typ := .u16, acc := .rw, roles := 12, dflt := 0x1e, stored := true, lo := 5, hi := 0x258, start := true },
  { idx := 0x2002, s0 := 4, s1 := 4, typ := .u8, acc := .ro, roles := 15, hi := 0xff },
  { idx := 0x2002, s0 := 5, s1 := 7, typ := .u32, acc := .ro, roles := 15, hi := 0xffffffff },
  { idx := 0x2002, s0 := 8, s1 := 8, typ := .bool, acc := .ro, roles := 15, hi := 1 },
  { idx := 0x2003, s0 := 0, s1 := 0, typ := .u8, acc := .const, roles := 15, dflt := 4, hi := 0xff },
  { idx := 0x2003, s0 := 1, s1 := 1, typ := .u8, acc := .rw, roles := 12, dflt := 0xff, stored := true, hi := 0xff, start := true },
  { idx := 0x2003, s0 := 2, s1 := 2, typ := .u8, acc := .rw, roles := 12, dflt := 0x40, stored := true, lo := 1, hi := 0x7f, start := true },
  { idx := 0x2003, s0 := 3, s1 := 4, typ := .u32, acc := .ro, roles := 15, hi := 0xffffffff },
  { idx := 0x2010, n := 16, s0 := 0, s1 := 0, typ := .u8, acc := .const, roles := 15, dflt := 0x14, hi := 0xff },
  { idx := 0x2010, n := 16, s0 := 1, s1 := 1, typ := .u32, acc := .rw, roles := 12, dflt := 0x80000000, stored := true, hi := 0xffffffff },
  { idx := 0x2010, n := 16, s0 := 2, s1 := 2, typ := .u16, acc := .rw, roles := 12, dflt := 0x64, stored := true, lo := 10, hi := 0xffff },
  { idx := 0x2010, n := 16, s0 := 3, s1 := 3, typ := .bool, acc := .rw, roles := 12, dflt := 1, stored := true, hi := 1 },
  { idx := 0x2010, n := 16, s0 := 4, s1 := 4, typ := .u8, acc := .rw, roles := 12, stored := true, hi := 0x10 },
  { idx := 0x2010, n := 16, s0 := 5, s1 := 0x14, typ := .u32, acc := .rw, roles := 12, stored := true, hi := 0xffffffff }]

/-- Entries of indices 0x21XX. -/
def odRows21 : List OdRow := [
  { idx := 0x2100, s0 := 0, s1 := 0, typ := .u8, acc := .const, roles := 15, dflt := 0xc, hi := 0xff, can := true },
  { idx := 0x2100, s0 := 1, s1 := 1, typ := .u8, acc := .rw, roles := 12, dflt := 0xc, stored := true, hi := 0xff, start := true },
  { idx := 0x2100, s0 := 2, s1 := 2, typ := .u16, acc := .rw, roles := 12, dflt := 0x4e20, stored := true, lo := 5000, hi := 0x9c40, start := true },
  { idx := 0x2100, s0 := 3, s1 := 3, typ := .u16, acc := .rw, roles := 12, dflt := 0x2328, stored := true, lo := 5000, hi := 0x7530, start := true },
  { idx := 0x2100, s0 := 4, s1 := 4, typ := .u16, acc := .rw, roles := 12, dflt := 0x1770, stored := true, lo := 4000, hi := 0x7148, start := true },
  { idx := 0x2100, s0 := 5, s1 := 5, typ := .u16, acc := .ro, roles := 15, hi := 0xffff, can := true },
  { idx := 0x2100, s0 := 6, s1 := 6, typ := .u16, acc := .ro, roles := 15, dflt := 0xffff, hi := 0xffff, can := true },
  { idx := 0x2100, s0 := 7, s1 := 7, typ := .u16, acc := .ro, roles := 15, hi := 0xffff, can := true },
  { idx := 0x2100, s0 := 8, s1 := 8, typ := .u32, acc := .ro, roles := 15, hi := 0xffffffff, can := true },
  { idx := 0x2100, s0 := 9, s1 := 9, typ := .u32, acc := .ro, roles := 15, hi := 0xffffffff },
  { idx := 0x2100, s0 := 0xa, s1 := 0xa, typ := .i16, acc := .rw, roles := 12, stored := true, lo := -500, hi := 0x1f4, start := true },
  { idx := 0x2100, s0 := 0xb, s1 := 0xb, typ := .u8, acc := .rw, roles := 12, dflt := 0x40, stored := true, lo := 8, hi := 0x77, start := true },
  { idx := 0x2100, s0 := 0xc, s1 := 0xc, typ := .u8, acc := .rw, roles := 12, dflt := 0xff, stored := true, lo := 1, hi := 0xff, start := true },
  { idx := 0x2101, s0 := 0, s1 := 0, typ := .u8, acc := .const, roles := 15, dflt := 3, hi := 0xff, can := true },
  { idx := 0x2101, s0 := 1, s1 := 1, typ := .i16, acc := .ro, roles := 15, lo := -32768, hi := 0x7fff, can := true },
  { idx := 0x2101, s0 := 2, s1 := 2, typ := .i16, acc := .ro, roles := 15, dflt := 0xfe70, lo := -32768, hi := 0x7fff, can := true },
  { idx := 0x2101, s0 := 3, s1 := 3, typ := .u32, acc := .ro, roles := 15, hi := 0xffffffff, can := true }]

/-- Entries of indices 0x22XX. -/
def odRows22 : List OdRow := [
  { idx := 0x2200, s0 := 0, s1 := 0, typ := .u8, acc := .const, roles := 15, dflt := 0x11, hi := 0xff, can := true },
  { idx := 0x2200, s0 := 1, s1 := 1, typ := .u8, acc := .rw, roles := 8, dflt := 2, stored := true, lo := 1, hi := 2, start := true },
  { idx := 0x2200, s0 := 2, s1 := 2, typ := .u8, acc := .rw, roles := 8, dflt := 1, stored := true, lo := 1, hi := 2, start := true },
  { idx := 0x2200, s0 := 3, s1 := 3, typ := .u8, acc := .rw, roles := 8, dflt := 1, stored := true, lo := 1, hi := 2, start := true },
  { idx := 0x2200, s0 := 4, s1 := 4, typ := .u8, acc := .rw, roles := 8, dflt := 1, stored := true, lo := 1, hi := 2, start := true },
  { idx := 0x2200, s0 := 5, s1 := 5, typ := .u8, acc := .rw, roles := 8, dflt := 2, stored := true, lo := 1, hi := 2, start := true },
  { idx := 0x2200, s0 := 6, s1 := 6, typ := .u8, acc := .rw, roles := 8, dflt := 1, stored := true, lo := 1, hi := 2, start := true },
  { idx := 0x2200, s0 := 7, s1 := 7, typ := .u8, acc := .rw, roles := 8, dflt := 1, stored := true, lo := 1, hi := 2, start := true },
  { idx := 0x2200, s0 := 8, s1 := 8, typ := .u8, acc := .rw, roles := 8, stored := true, hi := 0xb, start := true },
  { idx := 0x2200, s0 := 9, s1 := 9, typ := .u32, acc := .rw, roles := 8, dflt := 0x10, stored := true, hi := 0xffffffff, start := true },
  { idx := 0x2200, s0 := 0xa, s1 := 0xa, typ := .u16, acc := .rw, roles := 8, dflt := 0xa, stored := true, lo := 10, hi := 0x64, start := true },
  { idx := 0x2200, s0 := 0xb, s1 := 0xb, typ := .u16, acc := .rw, roles := 8, dflt := 0x7264, stored := true, hi := 0xffff, start := true },
  { idx := 0x2200, s0 := 0xc, s1 := 0xc, typ := .u16, acc := .rw, roles := 8, dflt := 0x28, stored := true, lo := 5, hi := 0x28, start := true },
  { idx := 0x2200, s0 := 0xd, s1 := 0xd, typ := .u16, acc := .rw, roles := 8, dflt := 0x1388, stored := true, lo := 1000, hi := 0x2710, start := true },
  { idx := 0x2200, s0 := 0xe, s1 := 0xe, typ := .u16, acc := .ro, roles := 15, hi := 0xffff, can := true },
  { idx := 0x2200, s0 := 0xf, s1 := 0xf, typ := .u16, acc := .ro, roles := 15, hi := 0xffff, can := true },
  { idx := 0x2200, s0 := 0x10, s1 := 0x10, typ := .u64, acc := .ro, roles := 15, hi := 0xffffffffffffffff, can := true },
  { idx := 0x2200, s0 := 0x11, s1 := 0x11, typ := .bool, acc := .ro, roles := 15, hi := 1, can := true },
  { idx := 0x2201, s0 := 0, s1 := 0, typ := .u8, acc := .const, roles := 15, dflt := 0xa2, hi := 0xff },
  { idx := 0x2201, s0 := 0x10, s1 := 0x13, typ := .u8, acc := .rw, roles := 8, dflt := 1, stored := true, lo := 1, hi := 7, start := true },
  { idx := 0x2201, s0 := 0x14, s1 := 0x14, typ := .u8, acc := .rw, roles := 8, dflt := 1, stored := true, lo := 1, hi := 7, start := true },
  { idx := 0x2201, s0 := 0x20, s1 := 0x20, typ := .u8, acc := .rw, roles := 8, dflt := 1, stored := true, lo := 1, hi := 7, start := true },
  { idx := 0x2201, s0 := 0x30, s1 := 0x30, typ := .u8, acc := .rw, roles := 8, dflt := 2, stored := true, lo := 1, hi := 7, start := true },
  { idx := 0x2201, s0 := 0x31, s1 := 0x31, typ := .u8, acc := .rw, roles := 8, dflt := 2, stored := true, lo := 1, hi := 7, start := true },
  { idx := 0x2201, s0 := 0x32, s1 := 0x32, typ := .u8, acc := .rw, roles := 8, dflt := 2, stored := true, lo := 1, hi := 7, start := true },
  { idx := 0x2201, s0 := 0x33, s1 := 0x33, typ := .u8, acc := .rw, roles := 8, dflt := 2, stored := true, lo := 1, hi := 7, start := true },
  { idx := 0x2201, s0 := 0x34, s1 := 0x34, typ := .u8, acc := .rw, roles := 8, stored := true, hi := 7, start := true },
  { idx := 0x2201, s0 := 0x35, s1 := 0x35, typ := .u8, acc := .rw, roles := 8, stored := true, hi := 7, start := true },
  { idx := 0x2201, s0 := 0x40, s1 := 0x40, typ := .u8, acc := .rw, roles := 8, dflt := 3, stored := true, lo := 1, hi := 7, start := true },
  { idx := 0x2201, s0 := 0x41, s1 := 0x41, typ := .u8, acc := .rw, roles := 8, dflt := 3, stored := true, lo := 1, hi := 7, start := true },
  { idx := 0x2201, s0 := 0x42, s1 := 0x42, typ := .u8, acc := .rw, roles := 8, dflt := 3, stored := true, lo := 1, hi := 7, start := true },
  { idx := 0x2201, s0 := 0x43, s1 := 0x43, typ := .u8, acc := .rw, roles := 8, dflt := 3, stored := true, lo := 1, hi := 7, start := true },
  { idx := 0x2201, s0 := 0x44, s1 := 0x44, typ := .u8, acc := .const, roles := 8, hi := 7 },
  { idx := 0x2201, s0 := 0x50, s1 := 0x50, typ := .u8, acc := .rw, roles := 8, dflt := 1, stored := true, lo := 1, hi := 7, start := true },
  { idx := 0x2201, s0 := 0x51, s1 := 0x51, typ := .u8, acc := .const, roles := 8, dflt := 6, lo := 1, hi := 7 },
  { idx := 0x2201, s0 := 0x60, s1 := 0x60, typ := .u8, acc := .rw, roles := 8, dflt := 4, stored := true, lo := 1, hi := 7, start := true },
  { idx := 0x2201, s0 := 0x61, s1 := 0x61, typ := .u8, acc := .rw, roles := 8, dflt := 4, stored := true, lo := 1, hi := 7, start := true },
  { idx := 0x2201, s0 := 0x62, s1 := 0x62, typ := .u8, acc := .rw, roles := 8, dflt := 4, stored := true, lo := 1, hi := 7, start := true },
  { idx := 0x2201, s0 := 0x70, s1 := 0x70, typ := .u8, acc := .rw, roles := 8, dflt := 5, stored := true, lo := 1, hi := 7, start := true },
  { idx := 0x2201, s0 := 0x71, s1 := 0x7f, typ := .u8, acc := .rw, roles := 8, dflt := 5, stored := true, hi := 7, start := true },
  { idx := 0x2201, s0 := 0x80, s1 := 0x80, typ := .u8, acc := .rw, roles := 8, dflt := 5, stored := true, lo := 1, hi := 7, start := true },
  { idx := 0x2201, s0 := 0x81, s1 := 0x81, typ := .u8, acc := .rw, roles := 8, stored := true, hi := 7, start := true },
  { idx := 0x2201, s0 := 0x90, s1 := 0x94, typ := .u8, acc := .rw, roles := 8, stored := true, hi := 7, start := true },
  { idx := 0x2201, s0 := 0x95, s1 := 0x95, typ := .u8, acc := .const, roles := 8, hi := 7 },
  { idx := 0x2201, s0 := 0x96, s1 := 0x98, typ := .u8, acc := .rw, roles := 8, stored := true, hi := 7, start := true },
  { idx := 0x2201, s0 := 0xa0, s1 := 0xa0, typ := .u8, acc := .rw, roles := 8, dflt := 6, stored := true, lo := 1, hi := 7, start := true },
  { idx := 0x2201, s0 := 0xa1, s1 := 0xa1, typ := .u8, acc := .rw, roles := 8, dflt := 6, stored := true, lo := 1, hi := 7, start := true },
  { idx := 0x2201, s0 := 0xa2, s1 := 0xa2, typ := .u8, acc := .const, roles := 8, dflt := 6, lo := 1, hi := 7 },
  { idx := 0x2202, s0 := 0, s1 := 0, typ := .u8, acc := .const, roles := 15, dflt := 0x10, hi := 0xff },
  { idx := 0x2202, s0 := 1, s1 := 1, typ := .u32, acc := .rw, roles := 8, dflt := 0xa000f0, stored := true, hi := 0xffffffff, start := true },
  { idx := 0x2202, s0 := 2, s1 := 0x10, typ := .u32, acc := .rw, roles := 8, stored := true, hi := 0xffffffff, start := true }]

/-- Entries of indices 0x23XX. -/
def odRows23 : List OdRow := [
  { idx := 0x2300, s0 := 0, s1 := 0, typ := .u8, acc := .const, roles := 15, dflt := 9, hi := 0xff, can := true },
  { idx := 0x2300, s0 := 1, s1 := 1, typ := .u8, acc := .wo, roles := 12, lo := 1, hi := 1 },
  { idx := 0x2300, s0 := 2, s1 := 2, typ := .u8, acc := .rw, roles := 12, dflt := 0x23, stored := true, hi := 0xff },
  { idx := 0x2300, s0 := 3, s1 := 3, typ := .u64, acc := .wo, roles := 12, hi := 0xffffffffffffffff },
  { idx := 0x2300, s0 := 4, s1 := 4, typ := .u8, acc := .ro, roles := 15, hi := 0xff },
  { idx := 0x2300, s0 := 5, s1 := 5, typ := .u8, acc := .wo, roles := 12, lo := 1, hi := 3 },
  { idx := 0x2300, s0 := 6, s1 := 6, typ := .u32, acc := .ro, roles := 15, hi := 0xffffffff },
  { idx := 0x2300, s0 := 7, s1 := 7, typ := .u32, acc := .ro, roles := 15, hi := 0xffffffff, can := true },
  { idx := 0x2300, s0 := 8, s1 := 8, typ := .u32, acc := .ro, roles := 15, hi := 0xffffffff },
  { idx := 0x2300, s0 := 9, s1 := 9, typ := .u8, acc := .wo, roles := 12, lo := 1, hi := 1 },
  { idx := 0x2301, s0 := 0, s1 := 0, typ := .u8, acc := .const, roles := 15, dflt := 2, hi := 0xff },
  { idx := 0x2301, s0 := 1, s1 := 2, typ := .dom 1048576, acc := .ro, roles := 12 }]

/-- Entries of indices 0x24XX. -/
def odRows24 : List OdRow := [
  { idx := 0x2400, s0 := 0, s1 := 0, typ := .u8, acc := .const, roles := 15, dflt := 0xd, hi := 0xff, can := true },
  { idx := 0x2400, s0 := 1, s1 := 1, typ := .u8, acc := .rw, roles := 12, stored := true, hi := 0x40 },
  { idx := 0x2400, s0 := 2, s1 := 2, typ := .u8, acc := .rw, roles := 12, dflt := 0xa, stored := true, hi := 0x28, start := true },
  { idx := 0x2400, s0 := 3, s1 := 3, typ := .u8, acc := .rw, roles := 12, dflt := 0xc, stored := true, lo := 1, hi := 0xa8, start := true },
  { idx := 0x2400, s0 := 4, s1 := 4, typ := .u8, acc := .ro, roles := 15, hi := 0xff },
  { idx := 0x2400, s0 := 5, s1 := 8, typ := .u8, acc := .ro, roles := 15, dflt := 0xff, hi := 0xff, can := true },
  { idx := 0x2400, s0 := 9, s1 := 9, typ := .u64, acc := .ro, roles := 15, hi := 0xffffffffffffffff },
  { idx := 0x2400, s0 := 0xa, s1 := 0xb, typ := .u32, acc := .ro, roles := 15, hi := 0xffffffff },
  { idx := 0x2400, s0 := 0xc, s1 := 0xc, typ := .u64, acc := .ro, roles := 12, hi := 0xffffffffffffffff },
  { idx := 0x2400, s0 := 0xd, s1 := 0xd, typ := .u16, acc := .ro, roles := 15, hi := 0xffff },
  { idx := 0x2401, s0 := 0, s1 := 0, typ := .u8, acc := .const, roles := 15, dflt := 0x10, hi := 0xff },
  { idx := 0x2401, s0 := 1, s1 := 0x10, typ := .u64, acc := .rw, roles := 8, stored := true, hi := 0xffffffffffffffff, start := true }]

/-- Entries of indices 0x25XX. -/
def odRows25 : List OdRow := [
  { idx := 0x2500, s0 := 0, s1 := 0, typ := .u8, acc := .const, roles := 15, dflt := 0x10, hi := 0xff, can := true },
  { idx := 0x2500, s0 := 1, s1 := 1, typ := .u8, acc := .wo, roles := 12, lo := 1, hi := 2 },
  { idx := 0x2500, s0 := 2, s1 := 2, typ := .u8, acc := .ro, roles := 15, dflt := 1, hi := 0xff, can := true },
  { idx := 0x2500, s0 := 3, s1 := 3, typ := .u8, acc := .ro, roles := 15, dflt := 1, hi := 0xff, can := true },
  { idx := 0x2500, s0 := 4, s1 := 6, typ := .u32, acc := .ro, roles := 15, hi := 0xffffffff },
  { idx := 0x2500, s0 := 7, s1 := 7, typ := .u8, acc := .ro, roles := 15, hi := 0xff },
  { idx := 0x2500, s0 := 8, s1 := 9, typ := .u32, acc := .ro, roles := 15, hi := 0xffffffff },
  { idx := 0x2500, s0 := 0xa, s1 := 0xa, typ := .u8, acc := .ro, roles := 15, hi := 0xff, can := true },
  { idx := 0x2500, s0 := 0xb, s1 := 0xb, typ := .u32, acc := .ro, roles := 15, hi := 0xffffffff },
  { idx := 0x2500, s0 := 0xc, s1 := 0xe, typ := .u8, acc := .ro, roles := 15, hi := 0xff },
  { idx := 0x2500, s0 := 0xf, s1 := 0xf, typ := .u8, acc := .rw, roles := 12, dflt := 0x18, stored := true, lo := 1, hi := 0x18 },
  { idx := 0x2500, s0 := 0x10, s1 := 0x10, typ := .u16, acc := .rw, roles := 12, dflt := 0x2710, stored := true, lo := 100, hi := 0xea60 },
  { idx := 0x2502, s0 := 0, s1 := 0, typ := .u8, acc := .const, roles := 15, dflt := 0x10, hi := 0xff },
  { idx := 0x2502, s0 := 1, s1 := 0x10, typ := .u64, acc := .rw, roles := 12, stored := true, hi := 0xffffffffffffffff, start := true }]

/-- Entries of indices 0x28XX. -/
def odRows28 : List OdRow := [
  { idx := 0x2801, s0 := 0, s1 := 0, typ := .u8, acc := .const, roles := 15, dflt := 2, hi := 0xff, can := true },
  { idx := 0x2801, s0 := 1, s1 := 2, typ := .u32, acc := .ro, roles := 15, hi := 0xffffffff, can := true },
  { idx := 0x2800, s0 := 0, s1 := 0, typ := .u8, acc := .const, roles := 15, dflt := 6, hi := 0xff },
  { idx := 0x2800, s0 := 1, s1 := 1, typ := .u16, acc := .ro, roles := 15, hi := 0xffff },
  { idx := 0x2800, s0 := 2, s1 := 3, typ := .u64, acc := .ro, roles := 15, hi := 0xffffffffffffffff },
  { idx := 0x2800, s0 := 4, s1 := 6, typ := .u32, acc := .ro, roles := 15, hi := 0xffffffff },
  { idx := 0x2802, s0 := 0, s1 := 0, typ := .u8, acc := .const, roles := 15, dflt := 0x20, hi := 0xff },
  { idx := 0x2802, s0 := 1, s1 := 0x20, typ := .u16, acc := .rw, roles := 14, stored := true, hi := 0xffff },
  { idx := 0x2803, s0 := 0, s1 := 0, typ := .u8, acc := .const, roles := 15, dflt := 0x10, hi := 0xff },
  { idx := 0x2803, s0 := 1, s1 := 0x10, typ := .u16, acc := .rw, roles := 14, stored := true, hi := 0xffff },
  { idx := 0x2804, s0 := 0, s1 := 0, typ := .u8, acc := .const, roles := 15, dflt := 8, hi := 0xff },
  { idx := 0x2804, s0 := 1, s1 := 8, typ := .u16, acc := .rw, roles := 14, stored := true, hi := 0xffff },
  { idx := 0x2805, s0 := 0, s1 := 0, typ := .u8, acc := .const, roles := 15, dflt := 3, hi := 0xff },
  { idx := 0x2805, s0 := 1, s1 := 1, typ := .u8, acc := .rw, roles := 8, stored := true, hi := 1 },
  { idx := 0x2805, s0 := 2, s1 := 2, typ := .u8, acc := .rw, roles := 8, stored := true, hi := 0xff },
  { idx := 0x2805, s0 := 3, s1 := 3, typ := .u32, acc := .ro, roles := 15, hi := 0xffffffff }]

/-- Entries of indices 0x29XX. -/
def odRows29 : List OdRow := [
  { idx := 0x2900, s0 := 0, s1 := 0, typ := .u8, acc := .const, roles := 15, dflt := 8, hi := 0xff },
  { idx := 0x2900, s0 := 1, s1 := 2, typ := .dom 1048576, acc := .rw, roles := 14, stored := true },
  { idx := 0x2900, s0 := 3, s1 := 3, typ := .u8, acc := .rw, roles := 14, stored := true, hi := 2 },
  { idx := 0x2900, s0 := 4, s1 := 4, typ := .u64, acc := .rw, roles := 12, stored := true, hi := 0xffffffffffffffff },
  { idx := 0x2900, s0 := 5, s1 := 5, typ := .u8, acc := .ro, roles := 15, hi := 0xff },
  { idx := 0x2900, s0 := 6, s1 := 8, typ := .u32, acc := .ro, roles := 15, hi := 0xffffffff }]

/-- Entries of indices 0x2AXX. -/
def odRows2A : List OdRow := [
  { idx := 0x2a00, s0 := 0, s1 := 0, typ := .u8, acc := .const, roles := 15, dflt := 9, hi := 0xff, can := true },
  { idx := 0x2a00, s0 := 1, s1 := 1, typ := .u16, acc := .rw, roles := 12, dflt := 0xc8, stored := true, lo := 50, hi := 0x3e8, start := true },
  { idx := 0x2a00, s0 := 2, s1 := 2, typ := .u8, acc := .rw, roles := 12, dflt := 0x1e, stored := true, lo := 10, hi := 0x64, start := true },
  { idx := 0x2a00, s0 := 3, s1 := 3, typ := .u16, acc := .rw, roles := 12, dflt := 0x7d0, stored := true, lo := 100, hi := 0x7d0, start := true },
  { idx := 0x2a00, s0 := 4, s1 := 8, typ := .u32, acc := .ro, roles := 15, hi := 0xffffffff },
  { idx := 0x2a00, s0 := 9, s1 := 9, typ := .u16, acc := .ro, roles := 15, hi := 0xffff, can := true },
  { idx := 0x2a10, n := 16, s0 := 0, s1 := 0, typ := .u8, acc := .const, roles := 15, dflt := 3, hi := 0xff },
  { idx := 0x2a10, n := 16, s0 := 1, s1 := 1, typ := .u64, acc := .ro, roles := 12, dflt := 0xffffffffffffffff, hi := 0xffffffffffffffff },
  { idx := 0x2a10, n := 16, s0 := 2, s1 := 3, typ := .dom 528384, acc := .ro, roles := 12 }]

/-- Entries of indices 0x2BXX. -/
def odRows2B : List OdRow := [
  { idx := 0x2b00, s0 := 0, s1 := 0, typ := .u8, acc := .const, roles := 15, dflt := 8, hi := 0xff },
  { idx := 0x2b00, s0 := 1, s1 := 1, typ := .u16, acc := .rw, roles := 12, stored := true, hi := 0xffff },
  { idx := 0x2b00, s0 := 2, s1 := 2, typ := .u16, acc := .rw, roles := 12, stored := true, hi := 0x2000 },
  { idx := 0x2b00, s0 := 3, s1 := 3, typ := .u64, acc := .ro, roles := 12, hi := 0xffffffffffffffff },
  { idx := 0x2b00, s0 := 4, s1 := 4, typ := .u16, acc := .ro, roles := 12, hi := 0xffff },
  { idx := 0x2b00, s0 := 5, s1 := 8, typ := .u32, acc := .ro, roles := 12, hi := 0xffffffff },
  { idx := 0x2b01, s0 := 0, s1 := 0, typ := .u8, acc := .const, roles := 15, dflt := 2, hi := 0xff },
  { idx := 0x2b01, s0 := 1, s1 := 1, typ := .u16, acc := .rw, roles := 12, hi := 0xfff },
  { idx := 0x2b01, s0 := 2, s1 := 2, typ := .dom 1048576, acc := .ro, roles := 12 }]

/-- Entries of indices 0x2CXX. -/
def odRows2C : List OdRow := [
  { idx := 0x2c00, s0 := 0, s1 := 0, typ := .u8, acc := .const, roles := 15, dflt := 0xb, hi := 0xff },
  { idx := 0x2c00, s0 := 1, s1 := 1, typ := .u8, acc := .rw, roles := 12, dflt := 0x38, stored := true, hi := 0x3e, start := true },
  { idx := 0x2c00, s0 := 2, s1 := 2, typ := .u8, acc := .rw, roles := 12, dflt := 8, stored := true, lo := 2, hi := 0x20, start := true },
  { idx := 0x2c00, s0 := 3, s1 := 5, typ := .u8, acc := .rw, roles := 12, dflt := 8, stored := true, lo := 1, hi := 0x7f, start := true },
  { idx := 0x2c00, s0 := 6, s1 := 6, typ := .u8, acc := .ro, roles := 15, dflt := 8, hi := 0xff },
  { idx := 0x2c00, s0 := 7, s1 := 7, typ := .u8, acc := .rw, roles := 12, dflt := 5, stored := true, lo := 1, hi := 0x64 },
  { idx := 0x2c00, s0 := 8, s1 := 8, typ := .u8, acc := .rw, roles := 12, dflt := 2, stored := true, lo := 1, hi := 0x32 },
  { idx := 0x2c00, s0 := 9, s1 := 0xb, typ := .u32, acc := .ro, roles := 15, hi := 0xffffffff },
  { idx := 0x2c20, n := 32, s0 := 0, s1 := 0, typ := .u8, acc := .const, roles := 15, dflt := 0x17, hi := 0xff },
  { idx := 0x2c20, n := 32, s0 := 1, s1 := 1, typ := .u8, acc := .rw, roles := 14, dflt := 1, stored := true, hi := 3 },
  { idx := 0x2c20, n := 32, s0 := 2, s1 := 2, typ := .u8, acc := .rw, roles := 8, stored := true, hi := 1 },
  { idx := 0x2c20, n := 32, s0 := 0x10, s1 := 0x17, typ := .u64, acc := .rw, roles := 12, stored := true, hi := 0xffffffffffffffff },
  { idx := 0x2c40, n := 4, s0 := 0, s1 := 0, typ := .u8, acc := .const, roles := 15, dflt := 0x13, hi := 0xff, can := true },
  { idx := 0x2c40, n := 4, s0 := 1, s1 := 1, typ := .bool, acc := .rw, roles := 14, stored := true, hi := 1 },
  { idx := 0x2c40, n := 4, s0 := 2, s1 := 2, typ := .u8, acc := .rw, roles := 12, dflt := 4, stored := true, hi := 0xff },
  { idx := 0x2c40, n := 2, s0 := 3, s1 := 3, typ := .u16, acc := .rw, roles := 12, dflt := 2, stored := true, hi := 0xffff },
  { idx := 0x2c42, n := 2, s0 := 3, s1 := 3, typ := .u16, acc := .rw, roles := 12, dflt := 0x5dc, stored := true, hi := 0xffff },
  { idx := 0x2c40, n := 4, s0 := 4, s1 := 4, typ := .u8, acc := .rw, roles := 12, dflt := 0x18, stored := true, hi := 0xff },
  { idx := 0x2c40, n := 4, s0 := 5, s1 := 5, typ := .oct 24, acc := .rw, roles := 12, stored := true },
  { idx := 0x2c40, n := 4, s0 := 6, s1 := 6, typ := .bool, acc := .rw, roles := 8, stored := true, hi := 1, start := true },
  { idx := 0x2c40, n := 4, s0 := 7, s1 := 7, typ := .u8, acc := .rw, roles := 8, dflt := 2, stored := true, lo := 1, hi := 4 },
  { idx := 0x2c40, n := 4, s0 := 8, s1 := 8, typ := .u16, acc := .rw, roles := 12, dflt := 0xffff, stored := true, hi := 0xffff },
  { idx := 0x2c40, n := 4, s0 := 9, s1 := 9, typ := .bool, acc := .rw, roles := 14, stored := true, hi := 1 },
  { idx := 0x2c40, n := 4, s0 := 0xa, s1 := 0xa, typ := .u32, acc := .ro, roles := 15, hi := 0xffffffff, can := true },
  { idx := 0x2c40, n := 4, s0 := 0xb, s1 := 0xc, typ := .u32, acc := .ro, roles := 15, hi := 0xffffffff },
  { idx := 0x2c40, n := 4, s0 := 0x10, s1 := 0x13, typ := .oct 24, acc := .rw, roles := 14, stored := true }]

/-- Entries of indices 0x2DXX. -/
def odRows2D : List OdRow := [
  { idx := 0x2d00, s0 := 0, s1 := 0, typ := .u8, acc := .const, roles := 15, dflt := 5, hi := 0xff, can := true },
  { idx := 0x2d00, s0 := 1, s1 := 2, typ := .u32, acc := .ro, roles := 15, hi := 0xffffffff, can := true },
  { idx := 0x2d00, s0 := 3, s1 := 5, typ := .u32, acc := .ro, roles := 15, hi := 0xffffffff },
  { idx := 0x2d01, n := 8, s0 := 0, s1 := 0, typ := .u8, acc := .const, roles := 15, dflt := 2, hi := 0xff },
  { idx := 0x2d01, n := 8, s0 := 1, s1 := 1, typ := .u8, acc := .rw, roles := 12, dflt := 4, stored := true, hi := 0xff, start := true },
  { idx := 0x2d01, n := 8, s0 := 2, s1 := 2, typ := .u16, acc := .rw, roles := 12, dflt := 0x5dc, stored := true, lo := 80, hi := 0x9c4, start := true },
  { idx := 0x2d10, n := 128, s0 := 0, s1 := 0, typ := .u8, acc := .const, roles := 15, dflt := 0x11, hi := 0xff },
  { idx := 0x2d10, n := 128, s0 := 1, s1 := 1, typ := .bool, acc := .rw, roles := 14, hi := 1 },
  { idx := 0x2d10, n := 128, s0 := 2, s1 := 2, typ := .u8, acc := .rw, roles := 12, stored := true, hi := 7 },
  { idx := 0x2d10, n := 128, s0 := 3, s1 := 3, typ := .u8, acc := .rw, roles := 12, stored := true, hi := 0xf },
  { idx := 0x2d10, n := 128, s0 := 4, s1 := 4, typ := .u8, acc := .rw, roles := 12, dflt := 0x2c, stored := true, hi := 0xff },
  { idx := 0x2d10, n := 128, s0 := 5, s1 := 5, typ := .u16, acc := .rw, roles := 12, dflt := 0x780, stored := true, lo := 16, hi := 0xf00 },
  { idx := 0x2d10, n := 128, s0 := 6, s1 := 6, typ := .u16, acc := .rw, roles := 12, dflt := 0x438, stored := true, lo := 16, hi := 0x870 },
  { idx := 0x2d10, n := 128, s0 := 7, s1 := 7, typ := .u8, acc := .rw, roles := 12, stored := true, hi := 0xff },
  { idx := 0x2d10, n := 128, s0 := 8, s1 := 8, typ := .u8, acc := .rw, roles := 12, dflt := 1, stored := true, lo := 1, hi := 3 },
  { idx := 0x2d10, n := 128, s0 := 9, s1 := 9, typ := .u8, acc := .rw, roles := 12, dflt := 0x11, stored := true, hi := 0xff },
  { idx := 0x2d10, n := 128, s0 := 0xa, s1 := 0xa, typ := .u16, acc := .rw, roles := 12, dflt := 0x100, stored := true, lo := 64, hi := 0x2000 },
  { idx := 0x2d10, n := 128, s0 := 0xb, s1 := 0xb, typ := .u16, acc := .rw, roles := 12, dflt := 0xffff, stored := true, hi := 0xffff },
  { idx := 0x2d10, n := 128, s0 := 0xc, s1 := 0xc, typ := .u16, acc := .rw, roles := 12, dflt := 0x64, stored := true, lo := 5, hi := 0x3e8 },
  { idx := 0x2d10, n := 128, s0 := 0xd, s1 := 0xd, typ := .bool, acc := .rw, roles := 8, dflt := 1, stored := true, hi := 1 },
  { idx := 0x2d10, n := 128, s0 := 0xe, s1 := 0xe, typ := .dom 1048576, acc := .rw, roles := 12, stored := true },
  { idx := 0x2d10, n := 128, s0 := 0xf, s1 := 0xf, typ := .bool, acc := .rw, roles := 14, stored := true, hi := 1 },
  { idx := 0x2d10, n := 128, s0 := 0x10, s1 := 0x11, typ := .u32, acc := .ro, roles := 15, hi := 0xffffffff }]

/-- Entries of indices 0x2EXX. -/
def odRows2E : List OdRow := [
  { idx := 0x2e00, s0 := 0, s1 := 0, typ := .u8, acc := .const, roles := 15, dflt := 0xa, hi := 0xff, can := true },
  { idx := 0x2e00, s0 := 1, s1 := 1, typ := .u8, acc := .rw, roles := 12, stored := true, hi := 2, start := true },
  { idx := 0x2e00, s0 := 2, s1 := 2, typ := .u8, acc := .rw, roles := 12, stored := true, hi := 0xff, start := true },
  { idx := 0x2e00, s0 := 3, s1 := 3, typ := .u8, acc := .rw, roles := 12, stored := true, hi := 7, start := true },
  { idx := 0x2e00, s0 := 4, s1 := 4, typ := .i8, acc := .rw, roles := 12, dflt := 0xfd, stored := true, lo := -7, start := true },
  { idx := 0x2e00, s0 := 5, s1 := 5, typ := .u16, acc := .rw, roles := 12, dflt := 0x32, stored := true, lo := 1, hi := 0x3e8 },
  { idx := 0x2e00, s0 := 6, s1 := 6, typ := .u8, acc := .ro, roles := 15, hi := 0xff, can := true },
  { idx := 0x2e00, s0 := 7, s1 := 8, typ := .u32, acc := .ro, roles := 15, hi := 0xffffffff },
  { idx := 0x2e00, s0 := 0xa, s1 := 0xa, typ := .dom 1048576, acc := .rw, roles := 12, stored := true },
  { idx := 0x2e01, n := 10, s0 := 0, s1 := 0, typ := .u8, acc := .const, roles := 15, dflt := 4, hi := 0xff },
  { idx := 0x2e01, n := 10, s0 := 1, s1 := 1, typ := .bool, acc := .rw, roles := 12, stored := true, hi := 1 },
  { idx := 0x2e01, n := 2, s0 := 2, s1 := 2, typ := .u16, acc := .rw, roles := 12, dflt := 0x2710, stored := true, hi := 0xffff, start := true },
  { idx := 0x2e01, n := 10, s0 := 3, s1 := 3, typ := .dom 1048576, acc := .rw, roles := 12, stored := true },
  { idx := 0x2e01, n := 10, s0 := 4, s1 := 4, typ := .u64, acc := .const, roles := 15, hi := 0xffffffffffffffff }]

/-- Entries of indices 0x2FXX. -/
def odRows2F : List OdRow := [
  { idx := 0x2f00, s0 := 0, s1 := 0, typ := .u8, acc := .const, roles := 15, dflt := 6, hi := 0xff },
  { idx := 0x2f00, s0 := 1, s1 := 1, typ := .u64, acc := .ro, roles := 15, hi := 0xffffffffffffffff },
  { idx := 0x2f00, s0 := 2, s1 := 6, typ := .u32, acc := .ro, roles := 15, hi := 0xffffffff },
  { idx := 0x2f01, n := 12, s0 := 0, s1 := 0, typ := .u8, acc := .const, roles := 15, dflt := 0xc, hi := 0xff, can := true },
  { idx := 0x2f01, n := 12, s0 := 1, s1 := 1, typ := .u8, acc := .rw, roles := 12, stored := true, hi := 2, start := true },
  { idx := 0x2f01, n := 12, s0 := 2, s1 := 2, typ := .u16, acc := .rw, roles := 12, dflt := 0xfa, stored := true, hi := 0xffff, start := true },
  { idx := 0x2f01, n := 12, s0 := 3, s1 := 3, typ := .u16, acc := .rw, roles := 12, dflt := 0x320, stored := true, lo := 500, hi := 0x384, start := true },
  { idx := 0x2f01, n := 12, s0 := 4, s1 := 4, typ := .u16, acc := .rw, roles := 12, dflt := 0x7d0, stored := true, hi := 0xffff, start := true },
  { idx := 0x2f01, n := 12, s0 := 5, s1 := 5, typ := .u16, acc := .rw, roles := 12, dflt := 0x2ee, stored := true, lo := 500, hi := 0x384, start := true },
  { idx := 0x2f01, n := 12, s0 := 6, s1 := 7, typ := .bool, acc := .rw, roles := 12, stored := true, hi := 1 },
  { idx := 0x2f01, n := 12, s0 := 8, s1 := 8, typ := .u8, acc := .wo, roles := 14, lo := 1, hi := 1 },
  { idx := 0x2f01, n := 12, s0 := 9, s1 := 9, typ := .u8, acc := .ro, roles := 15, hi := 0xff, can := true },
  { idx := 0x2f01, n := 12, s0 := 0xa, s1 := 0xa, typ := .u16, acc := .ro, roles := 15, hi := 0xffff, can := true },
  { idx := 0x2f01, n := 12, s0 := 0xb, s1 := 0xb, typ := .bool, acc := .rw, roles := 12, stored := true, hi := 1, start := true },
  { idx := 0x2f01, n := 12, s0 := 0xc, s1 := 0xc, typ := .u8, acc := .rw, roles := 12, dflt := 0x10, stored := true, lo := 1, hi := 0xff },
  { idx := 0x2f10, s0 := 0, s1 := 0, typ := .u8, acc := .const, roles := 15, dflt := 3, hi := 0xff },
  { idx := 0x2f10, s0 := 1, s1 := 1, typ := .dom 1048576, acc := .rw, roles := 12, stored := true },
  { idx := 0x2f10, s0 := 2, s1 := 2, typ := .u16, acc := .ro, roles := 15, hi := 0xffff },
  { idx := 0x2f10, s0 := 3, s1 := 3, typ := .oct 512, acc := .rw, roles := 14, stored := true },
  { idx := 0x2f20, s0 := 0, s1 := 0, typ := .u8, acc := .const, roles := 15, dflt := 0xff, hi := 0xff },
  { idx := 0x2f20, s0 := 1, s1 := 0xff, typ := .u32, acc := .rw, roles := 12, stored := true, hi := 0xffffffff }]

/-- Entries of indices 0x31XX. -/
def odRows31 : List OdRow := [
  { idx := 0x3100, s0 := 0, s1 := 0, typ := .u8, acc := .const, roles := 15, dflt := 9, hi := 0xff, can := true },
  { idx := 0x3100, s0 := 1, s1 := 1, typ := .u16, acc := .rw, roles := 8, dflt := 0x88b5, stored := true, lo := 1536, hi := 0xffff, start := true },
  { idx := 0x3100, s0 := 2, s1 := 2, typ := .u16, acc := .rw, roles := 12, dflt := 1, stored := true, lo := 1, hi := 0xffff, start := true },
  { idx := 0x3100, s0 := 3, s1 := 3, typ := .bool, acc := .rw, roles := 12, stored := true, hi := 1, start := true },
  { idx := 0x3100, s0 := 4, s1 := 4, typ := .u64, acc := .ro, roles := 15, hi := 0xffffffffffffffff },
  { idx := 0x3100, s0 := 5, s1 := 5, typ := .u32, acc := .ro, roles := 15, hi := 0xffffffff },
  { idx := 0x3100, s0 := 6, s1 := 6, typ := .u32, acc := .ro, roles := 15, hi := 0xffffffff, can := true },
  { idx := 0x3100, s0 := 7, s1 := 9, typ := .u32, acc := .ro, roles := 15, hi := 0xffffffff }]

/-- Entries of indices 0x32XX. -/
def odRows32 : List OdRow := [
  { idx := 0x3200, s0 := 0, s1 := 0, typ := .u8, acc := .const, roles := 15, dflt := 0x10, hi := 0xff },
  { idx := 0x3200, s0 := 1, s1 := 1, typ := .u8, acc := .rw, roles := 12, dflt := 4, stored := true, lo := 2, hi := 0x10, start := true },
  { idx := 0x3200, s0 := 2, s1 := 2, typ := .u8, acc := .rw, roles := 12, stored := true, hi := 1, start := true },
  { idx := 0x3200, s0 := 3, s1 := 4, typ := .u8, acc := .ro, roles := 15, hi := 0xff },
  { idx := 0x3200, s0 := 5, s1 := 5, typ := .u64, acc := .rw, roles := 12, dflt := 0xc000000004000600, stored := true, hi := 0xffffffffffffffff },
  { idx := 0x3200, s0 := 6, s1 := 6, typ := .u32, acc := .rw, roles := 12, stored := true, hi := 0xffffffff },
  { idx := 0x3200, s0 := 7, s1 := 7, typ := .dom 1048576, acc := .rw, roles := 14, stored := true },
  { idx := 0x3200, s0 := 8, s1 := 8, typ := .u32, acc := .rw, roles := 12, dflt := 0x40000000, stored := true, hi := 0xffffffff, start := true },
  { idx := 0x3200, s0 := 9, s1 := 9, typ := .u64, acc := .rw, roles := 12, dflt := 0x4000000000, stored := true, hi := 0xffffffffffffffff, start := true },
  { idx := 0x3200, s0 := 0xa, s1 := 0xa, typ := .bool, acc := .rw, roles := 12, stored := true, hi := 1, start := true },
  { idx := 0x3200, s0 := 0xb, s1 := 0xe, typ := .u32, acc := .ro, roles := 15, hi := 0xffffffff },
  { idx := 0x3200, s0 := 0xf, s1 := 0xf, typ := .u8, acc := .rw, roles := 8, stored := true, hi := 1, start := true },
  { idx := 0x3200, s0 := 0x10, s1 := 0x10, typ := .u64, acc := .rw, roles := 12, dflt := 0xfee00000, stored := true, hi := 0xffffffffffffffff, start := true },
  { idx := 0x3210, n := 16, s0 := 0, s1 := 0, typ := .u8, acc := .const, roles := 15, dflt := 3, hi := 0xff },
  { idx := 0x3210, n := 16, s0 := 1, s1 := 2, typ := .u32, acc := .rw, roles := 12, stored := true, hi := 0xffffffff },
  { idx := 0x3210, n := 16, s0 := 3, s1 := 3, typ := .u32, acc := .rw, roles := 12, dflt := 0x10011100, stored := true, hi := 0xffffffff },
  { idx := 0x3220, n := 8, s0 := 0, s1 := 0, typ := .u8, acc := .const, roles := 15, dflt := 2, hi := 0xff },
  { idx := 0x3220, n := 8, s0 := 1, s1 := 2, typ := .u64, acc := .rw, roles := 12, stored := true, hi := 0xffffffffffffffff }]

/-- Entries of indices 0x33XX. -/
def odRows33 : List OdRow := [
  { idx := 0x3300, s0 := 0, s1 := 0, typ := .u8, acc := .const, roles := 15, dflt := 5, hi := 0xff, can := true },
  { idx := 0x3300, s0 := 1, s1 := 1, typ := .u8, acc := .rw, roles := 12, dflt := 0xf, stored := true, hi := 0xf },
  { idx := 0x3300, s0 := 2, s1 := 2, typ := .u16, acc := .rw, roles := 12, dflt := 0xdac, stored := true, lo := 256, hi := 0xfff },
  { idx := 0x3300, s0 := 3, s1 := 3, typ := .u16, acc := .ro, roles := 15, hi := 0xffff, can := true },
  { idx := 0x3300, s0 := 4, s1 := 5, typ := .u32, acc := .ro, roles := 15, hi := 0xffffffff },
  { idx := 0x3301, n := 8, s0 := 0, s1 := 0, typ := .u8, acc := .const, roles := 15, dflt := 5, hi := 0xff },
  { idx := 0x3301, n := 8, s0 := 1, s1 := 1, typ := .bool, acc := .rw, roles := 12, stored := true, hi := 1 },
  { idx := 0x3301, n := 8, s0 := 2, s1 := 2, typ := .u16, acc := .rw, roles := 12, stored := true, hi := 0xffff },
  { idx := 0x3301, n := 8, s0 := 3, s1 := 3, typ := .oct 16, acc := .wo, roles := 12 },
  { idx := 0x3301, n := 8, s0 := 4, s1 := 4, typ := .u32, acc := .ro, roles := 15, hi := 0xffffffff },
  { idx := 0x3301, n := 8, s0 := 5, s1 := 5, typ := .u32, acc := .rw, roles := 12, stored := true, hi := 0xffffffff }]

/-- Entries of indices 0x34XX. -/
def odRows34 : List OdRow := [
  { idx := 0x3401, s0 := 0, s1 := 0, typ := .u8, acc := .const, roles := 15, dflt := 5, hi := 0xff },
  { idx := 0x3401, s0 := 1, s1 := 4, typ := .oct 32, acc := .wo, roles := 8 },
  { idx := 0x3401, s0 := 5, s1 := 5, typ := .u8, acc := .ro, roles := 12, hi := 0xff },
  { idx := 0x3400, s0 := 0, s1 := 0, typ := .u8, acc := .const, roles := 15, dflt := 8, hi := 0xff },
  { idx := 0x3400, s0 := 1, s1 := 1, typ := .u8, acc := .ro, roles := 15, dflt := 1, hi := 0xff },
  { idx := 0x3400, s0 := 2, s1 := 3, typ := .oct 48, acc := .ro, roles := 15 },
  { idx := 0x3400, s0 := 4, s1 := 4, typ := .u32, acc := .ro, roles := 15, hi := 0xffffffff },
  { idx := 0x3400, s0 := 5, s1 := 5, typ := .u8, acc := .wo, roles := 8, hi := 0xff },
  { idx := 0x3400, s0 := 6, s1 := 6, typ := .u32, acc := .wo, roles := 8, hi := 0xffffffff },
  { idx := 0x3400, s0 := 7, s1 := 7, typ := .u8, acc := .wo, roles := 8, hi := 0xff },
  { idx := 0x3400, s0 := 8, s1 := 8, typ := .oct 97, acc := .ro, roles := 15 }]

/-- Entries of indices 0x35XX. -/
def odRows35 : List OdRow := [
  { idx := 0x3501, s0 := 0, s1 := 0, typ := .u8, acc := .const, roles := 15, dflt := 0x18, hi := 0xff, can := true },
  { idx := 0x3501, s0 := 1, s1 := 1, typ := .u8, acc := .ro, roles := 15, hi := 0xff },
  { idx := 0x3501, s0 := 2, s1 := 2, typ := .bool, acc := .ro, roles := 15, hi := 1 },
  { idx := 0x3501, s0 := 3, s1 := 3, typ := .u8, acc := .ro, roles := 15, hi := 0xff, can := true },
  { idx := 0x3501, s0 := 4, s1 := 7, typ := .u8, acc := .rw, roles := 8, dflt := 1, stored := true, lo := 1, hi := 2, start := true },
  { idx := 0x3501, s0 := 8, s1 := 0xb, typ := .u64, acc := .rw, roles := 8, stored := true, hi := 0x7ffff, start := true },
  { idx := 0x3501, s0 := 0xc, s1 := 0x13, typ := .u64, acc := .rw, roles := 12, stored := true, hi := 0xffffffffffffffff, start := true },
  { idx := 0x3501, s0 := 0x14, s1 := 0x18, typ := .u16, acc := .ro, roles := 15, hi := 0xffff, can := true },
  { idx := 0x3500, s0 := 0, s1 := 0, typ := .u8, acc := .const, roles := 15, dflt := 7, hi := 0xff, can := true },
  { idx := 0x3500, s0 := 1, s1 := 1, typ := .u16, acc := .ro, roles := 15, hi := 0xffff },
  { idx := 0x3500, s0 := 2, s1 := 2, typ := .u64, acc := .rw, roles := 12, stored := true, hi := 0xffffffffffffffff },
  { idx := 0x3500, s0 := 3, s1 := 3, typ := .u32, acc := .ro, roles := 12, hi := 0xffffffff },
  { idx := 0x3500, s0 := 4, s1 := 4, typ := .u32, acc := .ro, roles := 15, hi := 0xffffffff, can := true },
  { idx := 0x3500, s0 := 5, s1 := 5, typ := .u32, acc := .ro, roles := 12, hi := 0xffffffff },
  { idx := 0x3500, s0 := 6, s1 := 6, typ := .u8, acc := .ro, roles := 15, hi := 0xff, can := true },
  { idx := 0x3500, s0 := 7, s1 := 7, typ := .u32, acc := .ro, roles := 12, hi := 0xffffffff },
  { idx := 0x3520, n := 32, s0 := 0, s1 := 0, typ := .u8, acc := .const, roles := 15, dflt := 0x80, hi := 0xff },
  { idx := 0x3520, n := 32, s0 := 1, s1 := 0x80, typ := .u32, acc := .rw, roles := 12, dflt := 0xffffffff, stored := true, hi := 0xffffffff }]

/-- Entries of indices 0x38XX. -/
def odRows38 : List OdRow := [
  { idx := 0x3800, n := 256, s0 := 0, s1 := 0, typ := .u8, acc := .const, roles := 15, dflt := 0x29, hi := 0xff },
  { idx := 0x3800, n := 256, s0 := 1, s1 := 1, typ := .bool, acc := .rw, roles := 12, stored := true, hi := 1 },
  { idx := 0x3800, n := 256, s0 := 2, s1 := 2, typ := .u8, acc := .wo, roles := 14, lo := 1, hi := 1 },
  { idx := 0x3800, n := 256, s0 := 3, s1 := 3, typ := .u16, acc := .rw, roles := 12, stored := true, hi := 0x100 },
  { idx := 0x3800, n := 256, s0 := 4, s1 := 4, typ := .u16, acc := .rw, roles := 12, stored := true, hi := 0x3ff },
  { idx := 0x3800, n := 256, s0 := 5, s1 := 5, typ := .u8, acc := .rw, roles := 8, stored := true, hi := 1 },
  { idx := 0x3800, n := 256, s0 := 6, s1 := 6, typ := .u8, acc := .ro, roles := 15, hi := 0xff },
  { idx := 0x3800, n := 256, s0 := 7, s1 := 8, typ := .u16, acc := .ro, roles := 15, hi := 0xffff },
  { idx := 0x3800, n := 256, s0 := 9, s1 := 0xa, typ := .u32, acc := .ro, roles := 15, hi := 0xffffffff },
  { idx := 0x3800, n := 256, s0 := 0x10, s1 := 0x1f, typ := .u64, acc := .rw, roles := 12, stored := true, hi := 0xffffffffffffffff },
  { idx := 0x3800, n := 256, s0 := 0x20, s1 := 0x20, typ := .u8, acc := .rw, roles := 14, stored := true, hi := 1 },
  { idx := 0x3800, n := 256, s0 := 0x21, s1 := 0x21, typ := .u8, acc := .rw, roles := 14, dflt := 0x10, stored := true, lo := 1, hi := 0xff },
  { idx := 0x3800, n := 256, s0 := 0x22, s1 := 0x22, typ := .u16, acc := .rw, roles := 14, stored := true, hi := 0xffff },
  { idx := 0x3800, n := 256, s0 := 0x23, s1 := 0x23, typ := .u16, acc := .rw, roles := 14, dflt := 0x40, stored := true, lo := 1, hi := 0x400 },
  { idx := 0x3800, n := 256, s0 := 0x24, s1 := 0x24, typ := .u32, acc := .rw, roles := 14, stored := true, hi := 0xffffffff },
  { idx := 0x3800, n := 256, s0 := 0x25, s1 := 0x25, typ := .u32, acc := .rw, roles := 14, dflt := 0x400, stored := true, lo := 64, hi := 0x10000 },
  { idx := 0x3800, n := 256, s0 := 0x26, s1 := 0x26, typ := .u8, acc := .rw, roles := 14, stored := true, hi := 0x30 },
  { idx := 0x3800, n := 256, s0 := 0x27, s1 := 0x27, typ := .bool, acc := .rw, roles := 14, stored := true, hi := 1 },
  { idx := 0x3800, n := 256, s0 := 0x28, s1 := 0x28, typ := .u16, acc := .rw, roles := 14, stored := true, hi := 0x4000 },
  { idx := 0x3800, n := 256, s0 := 0x29, s1 := 0x29, typ := .u32, acc := .rw, roles := 12, stored := true, hi := 0xffffffff },
  { idx := 0x5000, n := 8, s0 := 0, s1 := 0, typ := .u8, acc := .const, roles := 15, dflt := 1, hi := 0xff },
  { idx := 0x5000, n := 8, s0 := 1, s1 := 1, typ := .oct 128, acc := .ro, roles := 15 }]

/-- The object dictionary: every entry whose index has the high byte `h`. -/
def odRowsOf (h : Nat) : List OdRow :=
  match h with
  | 0x10 => odRows10
  | 0x20 => odRows20
  | 0x21 => odRows21
  | 0x22 => odRows22
  | 0x23 => odRows23
  | 0x24 => odRows24
  | 0x25 => odRows25
  | 0x28 => odRows28
  | 0x29 => odRows29
  | 0x2A => odRows2A
  | 0x2B => odRows2B
  | 0x2C => odRows2C
  | 0x2D => odRows2D
  | 0x2E => odRows2E
  | 0x2F => odRows2F
  | 0x31 => odRows31
  | 0x32 => odRows32
  | 0x33 => odRows33
  | 0x34 => odRows34
  | 0x35 => odRows35
  | 0x38 => odRows38
  | 0x50 => odRows38
  | _ => []

end Sys2Proof.Machine
end

