-- ==== Sys2Proof/Machine/RegTable.lean ====
section
/-! DEFINITION. The register map: one row per register or array of registers of the chapters' tables, with its access masks,
reset value, writer class and whether freeze-frame snapshots it. Offsets that a table leaves inside a range are log
entry 17. -/

namespace Sys2Proof.Machine

/-- Which requesters a register accepts writes from (R886): any, safety cores only (R194), trusted world only. -/
inductive Writer where
  | any | safety | trusted
  deriving DecidableEq, Repr

/-- A register, or `n1` by `n2` registers at strides `s1` and `s2` from `base`; masks of its fields by access code (R39). -/
structure RegRow where
  base  : Nat
  n1    : Nat := 1
  s1    : Nat := 0
  n2    : Nat := 1
  s2    : Nat := 0
  wide  : Bool := false
  rw    : Nat := 0
  w1c   : Nat := 0
  w1s   : Nat := 0
  wo    : Nat := 0
  ro    : Nat := 0
  by'   : Writer := .any
  reset : Nat := 0
  snap  : Bool := false
  deriving DecidableEq, Repr

/-- Registers of SYS (02, 07, 15). -/
def regsSys : List RegRow := [
  /- BAD_ACCESS_ADDR R42 -/ { base := 0x10000100, wide := true, ro := 0xffffffffff },
  /- BAD_ACCESS_INFO R42 -/ { base := 0x10000108, w1c := 0x80000000, ro := 0xffffc0, snap := true },
  /- BAD_ACCESS_COUNT R42 -/ { base := 0x1000010c, ro := 0xffffffff },
  /- LOCK_STATUS R332 -/ { base := 0x10000200, ro := 0xffff, snap := true },
  /- HANDOVER R332 -/ { base := 0x10000204, wo := 0x303, by' := .safety },
  /- HANDOVER_STATUS R332 -/ { base := 0x10000208, ro := 0x7ff, snap := true },
  /- HANDOVER_CONFIRM R332 -/ { base := 0x1000020c, wo := 1, by' := .safety },
  /- CORE_RELEASE R332 -/ { base := 0x10000210, w1s := 0xff, by' := .safety },
  /- LOCK_WDG_p R332 -/ { base := 0x10000220, n1 := 4, s1 := 4, ro := 0xffffffff, snap := true },
  /- LOCK_RESTARTS_p R332 -/ { base := 0x10000230, n1 := 4, s1 := 4, ro := 0xffffffff, snap := true },
  /- APP_RELEASE R671 -/ { base := 0x10000240, w1s := 0xfff, by' := .safety }]

/-- Registers of SDG, FRZ and PWR (04, 20, 05). -/
def regsSdg : List RegRow := [
  /- SDG_STATUS R200 -/ { base := 0x10100020, ro := 0xfffffff, reset := 0x8000001, snap := true },
  /- ALARM_MAP_m R200 -/ { base := 0x10100040, n1 := 8, s1 := 4, ro := 0xffffffff, snap := true },
  /- SW_ALARM R200 -/ { base := 0x10100060, wo := 1, by' := .safety },
  /- WDG_KICK_n R200 -/ { base := 0x10100100, n1 := 16, s1 := 8, wo := 0xffff, by' := .safety },
  /- WDG_STATE_n R200 -/ { base := 0x10100104, n1 := 16, s1 := 8, ro := 0xc000ffff, snap := true },
  /- FRZ_STATUS R853 -/ { base := 0x10200020, ro := 0x833f0fff, reset := 0xff },
  /- BANK_TARGET_b R853 -/ { base := 0x10200040, n1 := 2, s1 := 0x20, wide := true, ro := 0xffffffffffffffff },
  /- BANK_INFO_b R853 -/ { base := 0x10200048, n1 := 2, s1 := 0x20, ro := 0xff3fffff, reset := 0xff000000 },
  /- FRZ_SW_TRIG R853 -/ { base := 0x10200080, wo := 1 },
  /- FRZ_RELEASE R853 -/ { base := 0x10200084, wo := 3 },
  /- FRZ_DROPPED R853 -/ { base := 0x10200088, ro := 0xffffffff },
  /- PWR_STATUS R252 -/ { base := 0x10300020, ro := 7, snap := true },
  /- VBAT_MV R252 -/ { base := 0x10300024, ro := 0xffffffff, reset := 0xffff0000, snap := true },
  /- RAIL_STATUS R252 -/ { base := 0x10300028, ro := 0xffff, snap := true },
  /- START_CTRL R252 -/ { base := 0x10300030, wo := 1, by' := .safety },
  /- JUNCTION_TEMP R872 -/ { base := 0x10300034, ro := 0x1fffff }]

/-- Registers of MEM (06). -/
def regsMem : List RegRow := [
  /- STRAND_STATUS_n R296 -/ { base := 0x10400020, n1 := 4, s1 := 4, ro := 0xc10f, snap := true },
  /- CORR_COUNT_n R296 -/ { base := 0x10400030, n1 := 4, s1 := 4, ro := 0xffffffff, snap := true },
  /- UNCORR_COUNT R296 -/ { base := 0x10400040, ro := 0xffffffff, snap := true },
  /- LAST_UNCORR_ADDR R296 -/ { base := 0x10400048, wide := true, ro := 0xffffffffff, snap := true },
  /- NARROW_DROP_COUNT R296 -/ { base := 0x10400050, ro := 0xffffffff, snap := true },
  /- NARROW_DROP_INFO R296 -/ { base := 0x10400054, w1c := 0x80000000, ro := 0xff0000, snap := true },
  /- NARROW_DROP_ADDR R296 -/ { base := 0x10400058, wide := true, ro := 0xffffffffff },
  /- PATROL_STATUS R296 -/ { base := 0x10400060, ro := 0xffff0007, snap := true },
  /- SRAM_CORR_COUNT R296 -/ { base := 0x10400064, ro := 0xffffffff, snap := true },
  /- PACKBUF_CORR_COUNT R296 -/ { base := 0x10400068, ro := 0xffffffff, snap := true },
  /- PARITY_ERR_COUNT R296 -/ { base := 0x1040006c, ro := 0xffffffff, snap := true }]

/-- Registers of PACK global (08, 10). -/
def regsPack : List RegRow := [
  /- INFLIGHT R384 -/ { base := 0x11000020, ro := 0x7ff, snap := true },
  /- MC_BUSY R384 -/ { base := 0x11000024, ro := 0xffffffff, snap := true },
  /- VE_BUSY R384 -/ { base := 0x11000028, ro := 0xff, snap := true },
  /- TILES R384 -/ { base := 0x11000030, wide := true, ro := 0xffffffffffffffff, snap := true },
  /- PREEMPTIONS R384 -/ { base := 0x11000038, ro := 0xffffffff, snap := true },
  /- MAX_PREEMPT_NS R384 -/ { base := 0x1100003c, ro := 0xffffffff, snap := true },
  /- MAX_TILE_NS R384 -/ { base := 0x11000040, ro := 0xffffffff, snap := true },
  /- ROSTER_STATUS R474 -/ { base := 0x11000050, ro := 0xc003ffff, snap := true }]

/-- Registers of Pack instance pages (07, 08, 09, 10, 11, 12). -/
def regsPage : List RegRow := [
  /- INST_ID R545 -/ { base := 0x12000020, n1 := 256, s1 := 0x10000, ro := 0xffffffff, snap := true },
  /- INST_STATE R545 -/ { base := 0x12000024, n1 := 256, s1 := 0x10000, ro := 0x187, snap := true },
  /- INST_EVENT R545 -/ { base := 0x12000028, n1 := 256, s1 := 0x10000, w1c := 0xf, snap := true },
  /- INST_CTRL R545 -/ { base := 0x1200002c, n1 := 256, s1 := 0x10000, wo := 1 },
  /- QUEUE_MAP R545 -/ { base := 0x12000030, n1 := 256, s1 := 0x10000, ro := 0x1ff03ff, snap := true },
  /- EVENT_SOURCE R545 -/ { base := 0x12000034, n1 := 256, s1 := 0x10000, ro := 0xfff, snap := true },
  /- INFLIGHT R545 -/ { base := 0x12000038, n1 := 256, s1 := 0x10000, ro := 0x7ff, snap := true },
  /- STALE_TOTAL R545 -/ { base := 0x1200003c, n1 := 256, s1 := 0x10000, ro := 0xffffffff, snap := true },
  /- PAIR_MAP_k MC_A R332 -/ { base := 0x12000400, n1 := 256, s1 := 0x10000, n2 := 8, s2 := 0x10, rw := 0xffffffff },
  /- PAIR_MAP_k MC_B R332 -/ { base := 0x12000404, n1 := 256, s1 := 0x10000, n2 := 8, s2 := 0x10, rw := 0xffffffff },
  /- PAIR_MAP_k CT R332 -/ { base := 0x12000408, n1 := 256, s1 := 0x10000, n2 := 8, s2 := 0x10, rw := 0xffffffff },
  /- PAIR_MAP_k VE R332 -/ { base := 0x1200040c, n1 := 256, s1 := 0x10000, n2 := 8, s2 := 0x10, rw := 0xffff },
  /- CAL_HOLD R430 -/ { base := 0x12000480, n1 := 256, s1 := 0x10000, rw := 0xffff },
  /- CAL_STATUS R430 -/ { base := 0x12000484, n1 := 256, s1 := 0x10000, ro := 0xffffffff, snap := true },
  /- SLOWDOWN R474 -/ { base := 0x12000500, n1 := 256, s1 := 0x10000, ro := 0xffff00ff, snap := true },
  /- SLOWDOWN_THRESH R474 -/ { base := 0x12000504, n1 := 256, s1 := 0x10000, rw := 0xff },
  /- CMD_RATE_HITS R474 -/ { base := 0x12000508, n1 := 256, s1 := 0x10000, ro := 0xffffffff, snap := true },
  /- BYTE_RATE_HITS R474 -/ { base := 0x1200050c, n1 := 256, s1 := 0x10000, ro := 0xffffffff, snap := true },
  /- HELD_MC R474 -/ { base := 0x12000510, n1 := 256, s1 := 0x10000, ro := 0xffffffff, snap := true },
  /- HELD_CT_VE R474 -/ { base := 0x12000514, n1 := 256, s1 := 0x10000, ro := 0xffff00ff, snap := true },
  /- SLOT_STATUS R474 -/ { base := 0x12000518, n1 := 256, s1 := 0x10000, ro := 0x800001ff, reset := 0x1ff, snap := true },
  /- KSEQ_SWAP_ADDR R514 -/ { base := 0x12000600, n1 := 256, s1 := 0x10000, wide := true, rw := 0xffffffffffffffff },
  /- KSEQ_SWAP_BYTES R514 -/ { base := 0x12000608, n1 := 256, s1 := 0x10000, wide := true, rw := 0xffffffffffffffff },
  /- KSEQ_SHAPE R514 -/ { base := 0x12000610, n1 := 256, s1 := 0x10000, rw := 0xffffffff },
  /- KSEQ_POS R514 -/ { base := 0x12000614, n1 := 256, s1 := 0x10000, rw := 0xffffffff },
  /- KSEQ_CMD R514 -/ { base := 0x12000618, n1 := 256, s1 := 0x10000, wo := 0xf0000fff },
  /- KSEQ_RESULT R514 -/ { base := 0x1200061c, n1 := 256, s1 := 0x10000, w1c := 0x40000000, ro := 0x80ff0fff },
  /- KSEQ_INFO R514 -/ { base := 0x12000620, n1 := 256, s1 := 0x10000, ro := 0xffffffff },
  /- KSEQ_LENGTH R514 -/ { base := 0x12000624, n1 := 256, s1 := 0x10000, ro := 0xffffffff },
  /- SWAP_RING_BASE R514 -/ { base := 0x12000628, n1 := 256, s1 := 0x10000, wide := true, rw := 0xffffffffc0 },
  /- SWAP_CFG R514 -/ { base := 0x12000630, n1 := 256, s1 := 0x10000, rw := 0x1000f },
  /- SWAP_TAIL_HEAD R514 -/ { base := 0x12000634, n1 := 256, s1 := 0x10000, rw := 0xffff, ro := 0xffff0000 },
  /- KENNEL_USE R514 -/ { base := 0x12000638, n1 := 256, s1 := 0x10000, ro := 0xffffffff },
  /- SWAP_LOST R514 -/ { base := 0x1200063c, n1 := 256, s1 := 0x10000, ro := 0xffffffff },
  /- SQ_BASE R344 -/ { base := 0x12001000, n1 := 256, s1 := 0x10000, n2 := 256, s2 := 0x40, wide := true, rw := 0xffffffffc0 },
  /- CQ_BASE R344 -/ { base := 0x12001008, n1 := 256, s1 := 0x10000, n2 := 256, s2 := 0x40, wide := true, rw := 0xffffffffc0 },
  /- QCFG R344 -/ { base := 0x12001010, n1 := 256, s1 := 0x10000, n2 := 256, s2 := 0x40, rw := 0x10f0f },
  /- TAIL R344 -/ { base := 0x12001014, n1 := 256, s1 := 0x10000, n2 := 256, s2 := 0x40, wo := 0xffff },
  /- SQ_HEAD R344 -/ { base := 0x12001018, n1 := 256, s1 := 0x10000, n2 := 256, s2 := 0x40, ro := 0xffff },
  /- CQ_TAIL R344 -/ { base := 0x1200101c, n1 := 256, s1 := 0x10000, n2 := 256, s2 := 0x40, ro := 0xffff },
  /- CQ_HEAD R344 -/ { base := 0x12001020, n1 := 256, s1 := 0x10000, n2 := 256, s2 := 0x40, rw := 0xffff },
  /- QCTRL R344 -/ { base := 0x12001024, n1 := 256, s1 := 0x10000, n2 := 256, s2 := 0x40, wo := 7 },
  /- QSTATUS R344 -/ { base := 0x12001028, n1 := 256, s1 := 0x10000, n2 := 256, s2 := 0x40, w1c := 0x600, ro := 0xff000007, snap := true },
  /- RESUME R344 -/ { base := 0x1200102c, n1 := 256, s1 := 0x10000, n2 := 256, s2 := 0x40, ro := 0xffffffff },
  /- STALE_COUNT R344 -/ { base := 0x12001030, n1 := 256, s1 := 0x10000, n2 := 256, s2 := 0x40, ro := 0xffffffff }]

/-- Registers of CIM (09). -/
def regsCim : List RegRow := [
  /- CT_STATUS_t R429 -/ { base := 0x13000020, n1 := 16, s1 := 4, ro := 0xf03fffff, snap := true },
  /- LOADING_MASK_t R429 -/ { base := 0x13000100, n1 := 16, s1 := 8, wide := true, ro := 0xffffffffffffffff, reset := 0xffffffffffffffff, snap := true },
  /- CAL_COUNT R429 -/ { base := 0x13000200, ro := 0xffffffff, snap := true },
  /- CAL_WAITS R429 -/ { base := 0x13000204, ro := 0xffffffff, snap := true },
  /- MAX_CAL_WAIT_NS R429 -/ { base := 0x13000208, ro := 0xffffffff, snap := true },
  /- REF_TRIGGERS R429 -/ { base := 0x1300020c, ro := 0xffffffff, snap := true },
  /- CONV_FAULTS R429 -/ { base := 0x13000210, ro := 0xffffffff, snap := true },
  /- CRC_FAILS R429 -/ { base := 0x13000214, ro := 0xffffffff, snap := true }]

/-- Registers of GFX and DISP (14). -/
def regsGfx : List RegRow := [
  /- GFX_STATUS R624 -/ { base := 0x14000020, ro := 0xffff00ff, reset := 0xff000000, snap := true },
  /- SQ_BASE R624 -/ { base := 0x14010000, n1 := 32, s1 := 0x1000, wide := true, rw := 0xffffffffc0 },
  /- CQ_BASE R624 -/ { base := 0x14010008, n1 := 32, s1 := 0x1000, wide := true, rw := 0xffffffffc0 },
  /- CTX_SAVE R624 -/ { base := 0x14010010, n1 := 32, s1 := 0x1000, wide := true, rw := 0xffffffffc0 },
  /- QCFG R624 -/ { base := 0x14010018, n1 := 32, s1 := 0x1000, rw := 0x10f0f },
  /- TAIL R624 -/ { base := 0x1401001c, n1 := 32, s1 := 0x1000, wo := 0xffff },
  /- SQ_HEAD R624 -/ { base := 0x14010020, n1 := 32, s1 := 0x1000, ro := 0xffff },
  /- CQ_TAIL R624 -/ { base := 0x14010024, n1 := 32, s1 := 0x1000, ro := 0xffff },
  /- CQ_HEAD R624 -/ { base := 0x14010028, n1 := 32, s1 := 0x1000, rw := 0xffff },
  /- QCTRL R624 -/ { base := 0x1401002c, n1 := 32, s1 := 0x1000, wo := 7 },
  /- QSTATUS R624 -/ { base := 0x14010030, n1 := 32, s1 := 0x1000, w1c := 0x600, ro := 0xff000007, snap := true },
  /- PIPE_STATUS R624 -/ { base := 0x14801000, n1 := 4, s1 := 0x200, ro := 0xe000ffff, snap := true },
  /- FRAMES R624 -/ { base := 0x14801008, n1 := 4, s1 := 0x200, wide := true, ro := 0xffffffffffffffff, snap := true },
  /- PLANE_ADDR_k R624 -/ { base := 0x14801010, n1 := 4, s1 := 0x200, n2 := 4, s2 := 8, wide := true, rw := 0xffffffffc0 },
  /- FLIP_STATUS R624 -/ { base := 0x14801030, n1 := 4, s1 := 0x200, w1c := 0x100, ro := 0xf },
  /- OVL_ADDR R624 -/ { base := 0x14802000, n1 := 4, s1 := 0x400, wide := true, rw := 0xffffffffc0, by' := .safety },
  /- HOLD_ADDR R624 -/ { base := 0x14802008, n1 := 4, s1 := 0x400, wide := true, rw := 0xffffffffc0, by' := .safety },
  /- OVL_PITCH R624 -/ { base := 0x14802010, n1 := 4, s1 := 0x400, rw := 0xffffffff, by' := .safety },
  /- REGION_XY_r R624 -/ { base := 0x14802040, n1 := 4, s1 := 0x400, n2 := 16, s2 := 8, rw := 0xffffffff, by' := .safety },
  /- REGION_WH_r R624 -/ { base := 0x14802044, n1 := 4, s1 := 0x400, n2 := 16, s2 := 8, rw := 0xffffffff, by' := .safety },
  /- EXP_CRC_r R624 -/ { base := 0x148020c0, n1 := 4, s1 := 0x400, n2 := 16, s2 := 4, rw := 0xffffffff, by' := .safety },
  /- EXP_COMMIT R624 -/ { base := 0x14802100, n1 := 4, s1 := 0x400, wo := 0xffffffff, by' := .safety },
  /- CRC_STATUS R624 -/ { base := 0x14802104, n1 := 4, s1 := 0x400, w1c := 0x80000000, ro := 0xffffff, by' := .safety, snap := true },
  /- LAST_CRC_r R624 -/ { base := 0x14802140, n1 := 4, s1 := 0x400, n2 := 16, s2 := 4, ro := 0xffffffff, snap := true }]

/-- Registers of CAM (13). -/
def regsCam : List RegRow := [
  /- RX_STATUS_r R574 -/ { base := 0x15000020, n1 := 8, s1 := 4, ro := 0xffffff1f, snap := true },
  /- BUF_BASE R574 -/ { base := 0x15001000, n1 := 128, s1 := 0x40, wide := true, rw := 0xffffffffc0 },
  /- REC_BASE R574 -/ { base := 0x15001008, n1 := 128, s1 := 0x40, wide := true, rw := 0xffffffffc0 },
  /- NUC_BASE R574 -/ { base := 0x15001010, n1 := 128, s1 := 0x40, wide := true, rw := 0xffffffffc0 },
  /- BUF_COUNT R574 -/ { base := 0x15001018, n1 := 128, s1 := 0x40, rw := 0x3f },
  /- BUF_STRIDE R574 -/ { base := 0x1500101c, n1 := 128, s1 := 0x40, rw := 0xffffffff },
  /- REC_CFG R574 -/ { base := 0x15001020, n1 := 128, s1 := 0x40, rw := 0xf },
  /- FILLED R574 -/ { base := 0x15001024, n1 := 128, s1 := 0x40, ro := 0xffff },
  /- RELEASED R574 -/ { base := 0x15001028, n1 := 128, s1 := 0x40, rw := 0xffff },
  /- REC_TAIL_HEAD R574 -/ { base := 0x1500102c, n1 := 128, s1 := 0x40, rw := 0xffff, ro := 0xffff0000 },
  /- STREAM_STATUS R574 -/ { base := 0x15001030, n1 := 128, s1 := 0x40, w1c := 0x30000000, ro := 0xc000ffff, snap := true },
  /- LAST_COUNTER R574 -/ { base := 0x15001034, n1 := 128, s1 := 0x40, ro := 0xffffffff, snap := true }]

/-- Registers of NET (16). -/
def regsNet : List RegRow := [
  /- PORT_STATUS_p R719 -/ { base := 0x16000020, n1 := 10, s1 := 4, ro := 0x8000ffff, snap := true },
  /- PTP_STATUS R719 -/ { base := 0x16000060, ro := 0xc0ffffff, snap := true },
  /- port TX ring BASE R693 -/ { base := 0x16001800, n1 := 4, s1 := 0x20, wide := true, rw := 0xffffffffc0 },
  /- port TX ring CFG R693 -/ { base := 0x16001808, n1 := 4, s1 := 0x20, rw := 0x1000f },
  /- port TX ring FLAGS R693 -/ { base := 0x16001814, n1 := 4, s1 := 0x20, w1c := 0x600 },
  /- port TX ring TAIL R719 -/ { base := 0x1600180c, n1 := 4, s1 := 0x20, wo := 0xffff },
  /- port TX ring HEAD R719 -/ { base := 0x16001810, n1 := 4, s1 := 0x20, ro := 0xffff },
  /- port RX ring BASE R693 -/ { base := 0x16001880, n1 := 4, s1 := 0x20, wide := true, rw := 0xffffffffc0 },
  /- port RX ring CFG R693 -/ { base := 0x16001888, n1 := 4, s1 := 0x20, rw := 0x1000f },
  /- port RX ring FLAGS R693 -/ { base := 0x16001894, n1 := 4, s1 := 0x20, w1c := 0x600 },
  /- port RX ring TAIL R719 -/ { base := 0x1600188c, n1 := 4, s1 := 0x20, ro := 0xffff },
  /- port RX ring HEAD R719 -/ { base := 0x16001890, n1 := 4, s1 := 0x20, rw := 0xffff },
  /- port RX ring RX_BUF R719 -/ { base := 0x16001898, n1 := 4, s1 := 0x20, wide := true, rw := 0xffffffffc0 },
  /- port TX ring BASE R693 -/ { base := 0x16001900, n1 := 4, s1 := 0x20, wide := true, rw := 0xffffffffc0 },
  /- port TX ring CFG R693 -/ { base := 0x16001908, n1 := 4, s1 := 0x20, rw := 0x1000f },
  /- port TX ring FLAGS R693 -/ { base := 0x16001914, n1 := 4, s1 := 0x20, w1c := 0x600 },
  /- port TX ring TAIL R719 -/ { base := 0x1600190c, n1 := 4, s1 := 0x20, wo := 0xffff },
  /- port TX ring HEAD R719 -/ { base := 0x16001910, n1 := 4, s1 := 0x20, ro := 0xffff },
  /- port RX ring BASE R693 -/ { base := 0x16001980, n1 := 4, s1 := 0x20, wide := true, rw := 0xffffffffc0 },
  /- port RX ring CFG R693 -/ { base := 0x16001988, n1 := 4, s1 := 0x20, rw := 0x1000f },
  /- port RX ring FLAGS R693 -/ { base := 0x16001994, n1 := 4, s1 := 0x20, w1c := 0x600 },
  /- port RX ring TAIL R719 -/ { base := 0x1600198c, n1 := 4, s1 := 0x20, ro := 0xffff },
  /- port RX ring HEAD R719 -/ { base := 0x16001990, n1 := 4, s1 := 0x20, rw := 0xffff },
  /- port RX ring RX_BUF R719 -/ { base := 0x16001998, n1 := 4, s1 := 0x20, wide := true, rw := 0xffffffffc0 },
  /- STREAM_DROPS_s R719 -/ { base := 0x16002000, n1 := 512, s1 := 4, ro := 0xffffffff }]

/-- Registers of TETHER (17). -/
def regsTether : List RegRow := [
  /- TETHER_STATUS R759 -/ { base := 0x16400020, ro := 0x800301ff, snap := true },
  /- EVQ_BASE R759 -/ { base := 0x16400100, wide := true, rw := 0xffffffffc0 },
  /- EVQ_CFG R759 -/ { base := 0x16400108, rw := 0x1000f, w1c := 0x600 },
  /- EVQ_TAIL_HEAD R759 -/ { base := 0x1640010c, rw := 0xffff, ro := 0xffff0000 },
  /- EV_LOST R759 -/ { base := 0x16400110, ro := 0xffffffff },
  /- CONN_CTX_i R759 -/ { base := 0x16400200, n1 := 16, s1 := 4, rw := 0xffffffff },
  /- CONN_CMD R759 -/ { base := 0x16400240, wo := 0xf0000fff },
  /- CONN_RESULT R759 -/ { base := 0x16400244, w1c := 0x40000000, ro := 0x80ff0000 },
  /- CONN_INFO_i R759 -/ { base := 0x16400248, n1 := 4, s1 := 4, ro := 0xffffffff },
  /- REG_BASE R759 -/ { base := 0x16400300, wide := true, rw := 0xffffffffffffffff },
  /- REG_SIZE R759 -/ { base := 0x16400308, wide := true, rw := 0xffffffffffffffff },
  /- REG_ATTR R759 -/ { base := 0x16400310, rw := 0xfffff007 },
  /- REG_CONN R759 -/ { base := 0x16400314, rw := 0xffffffff },
  /- REG_CMD R759 -/ { base := 0x16400318, wo := 0xf0000fff },
  /- REG_RESULT R759 -/ { base := 0x1640031c, ro := 0x80ff0000 },
  /- REG_RESULT_TAG R759 -/ { base := 0x16400320, ro := 0xffffffff },
  /- send queue SQ_BASE R759 -/ { base := 0x16401000, n1 := 64, s1 := 0x40, wide := true, rw := 0xffffffffc0 },
  /- send queue CQ_BASE R759 -/ { base := 0x16401008, n1 := 64, s1 := 0x40, wide := true, rw := 0xffffffffc0 },
  /- send queue QCFG R759 -/ { base := 0x16401010, n1 := 64, s1 := 0x40, rw := 0x10f0f },
  /- send queue TAIL R759 -/ { base := 0x16401014, n1 := 64, s1 := 0x40, wo := 0xffff },
  /- send queue SQ_HEAD R759 -/ { base := 0x16401018, n1 := 64, s1 := 0x40, ro := 0xffff },
  /- send queue CQ_TAIL R759 -/ { base := 0x1640101c, n1 := 64, s1 := 0x40, ro := 0xffff },
  /- send queue CQ_HEAD R759 -/ { base := 0x16401020, n1 := 64, s1 := 0x40, rw := 0xffff },
  /- send queue QSTATUS R759 -/ { base := 0x16401028, n1 := 64, s1 := 0x40, w1c := 0x600, ro := 0xff000007 },
  /- receive queue BASE R759 -/ { base := 0x16402000, n1 := 64, s1 := 0x40, wide := true, rw := 0xffffffffc0 },
  /- receive queue CFG R759 -/ { base := 0x16402008, n1 := 64, s1 := 0x40, rw := 0x1000f, w1c := 0x600 },
  /- receive queue TAIL R759 -/ { base := 0x1640200c, n1 := 64, s1 := 0x40, ro := 0xffff },
  /- receive queue HEAD R759 -/ { base := 0x16402010, n1 := 64, s1 := 0x40, rw := 0xffff },
  /- receive queue KNOT R759 -/ { base := 0x16402014, n1 := 64, s1 := 0x40, rw := 0x80000fff }]

/-- Registers of CAN and gateway (16). -/
def regsCan : List RegRow := [
  /- CAN_STATUS_c R719 -/ { base := 0x16801000, n1 := 12, s1 := 0x400, ro := 0x7ffffff, snap := true },
  /- CAN RX ring BASE R693 -/ { base := 0x16801010, n1 := 12, s1 := 0x400, wide := true, rw := 0xffffffffc0 },
  /- CAN RX ring CFG R693 -/ { base := 0x16801018, n1 := 12, s1 := 0x400, rw := 0x1000f },
  /- CAN RX ring FLAGS R693 -/ { base := 0x16801024, n1 := 12, s1 := 0x400, w1c := 0x600 },
  /- CAN RX ring TAIL R693 -/ { base := 0x1680101c, n1 := 12, s1 := 0x400, ro := 0xffff },
  /- CAN RX ring HEAD R693 -/ { base := 0x16801020, n1 := 12, s1 := 0x400, rw := 0xffff },
  /- CAN TX ring BASE R693 -/ { base := 0x16801030, n1 := 12, s1 := 0x400, wide := true, rw := 0xffffffffc0 },
  /- CAN TX ring CFG R693 -/ { base := 0x16801038, n1 := 12, s1 := 0x400, rw := 0x1000f },
  /- CAN TX ring FLAGS R693 -/ { base := 0x16801044, n1 := 12, s1 := 0x400, w1c := 0x600 },
  /- CAN TX ring TAIL R693 -/ { base := 0x1680103c, n1 := 12, s1 := 0x400, wo := 0xffff },
  /- CAN TX ring HEAD R693 -/ { base := 0x16801040, n1 := 12, s1 := 0x400, ro := 0xffff },
  /- CAN safety TX ring BASE R693 -/ { base := 0x16801050, n1 := 12, s1 := 0x400, wide := true, rw := 0xffffffffc0, by' := .safety },
  /- CAN safety TX ring CFG R693 -/ { base := 0x16801058, n1 := 12, s1 := 0x400, rw := 0x1000f, by' := .safety },
  /- CAN safety TX ring FLAGS R693 -/ { base := 0x16801064, n1 := 12, s1 := 0x400, w1c := 0x600, by' := .safety },
  /- CAN safety TX ring TAIL R693 -/ { base := 0x1680105c, n1 := 12, s1 := 0x400, wo := 0xffff, by' := .safety },
  /- CAN safety TX ring HEAD R693 -/ { base := 0x16801060, n1 := 12, s1 := 0x400, ro := 0xffff, by' := .safety },
  /- CAN TP ring BASE R693 -/ { base := 0x16801070, n1 := 12, s1 := 0x400, wide := true, rw := 0xffffffffc0 },
  /- CAN TP ring CFG R693 -/ { base := 0x16801078, n1 := 12, s1 := 0x400, rw := 0x1000f },
  /- CAN TP ring FLAGS R693 -/ { base := 0x16801084, n1 := 12, s1 := 0x400, w1c := 0x600 },
  /- CAN TP ring TAIL R693 -/ { base := 0x1680107c, n1 := 12, s1 := 0x400, ro := 0xffff },
  /- CAN TP ring HEAD R693 -/ { base := 0x16801080, n1 := 12, s1 := 0x400, rw := 0xffff },
  /- RX_DROPS_DECAP_GAPS_c R719 -/ { base := 0x16801090, n1 := 12, s1 := 0x400, ro := 0xffffffff, snap := true },
  /- TP_ADDR_c R719 -/ { base := 0x168010a0, n1 := 12, s1 := 0x400, n2 := 8, s2 := 4, rw := 0xffffffff },
  /- TP_BASE R719 -/ { base := 0x168010c0, n1 := 12, s1 := 0x400, wide := true, rw := 0xffffffffc0 },
  /- TP_SLOTS R719 -/ { base := 0x168010c8, n1 := 12, s1 := 0x400, rw := 0x1f },
  /- TP_RELEASE R719 -/ { base := 0x168010cc, n1 := 12, s1 := 0x400, wo := 0xffff }]

/-- Registers of SPLICE (18). -/
def regsSplice : List RegRow := [
  /- SPL_STATUS R805 -/ { base := 0x17000020, ro := 0xe03f00ff, snap := true },
  /- SPLICE_ERR_ADDR R805 -/ { base := 0x17000028, wide := true, ro := 0xffffffffff },
  /- SPLICE_ERR_INFO R805 -/ { base := 0x17000030, w1c := 0x80000000, ro := 0xffff9f, snap := true },
  /- ERR_COUNT R805 -/ { base := 0x17000034, ro := 0xffffffff, snap := true },
  /- FAR_DROPS R805 -/ { base := 0x17000038, ro := 0xffffffff, snap := true },
  /- EP_MSI R805 -/ { base := 0x17000040, wo := 0x1f },
  /- POLL_STATE_e value R805 -/ { base := 0x17001000, n1 := 64, s1 := 0x10, ro := 0xffffffff, snap := true },
  /- POLL_STATE_e flags R805 -/ { base := 0x17001004, n1 := 64, s1 := 0x10, ro := 0xc000ffff, snap := true },
  /- POLL_STATE_e time R805 -/ { base := 0x17001008, n1 := 64, s1 := 0x10, wide := true, ro := 0xffffffffffffffff, snap := true }]

/-- Registers of WHISTLE (19). -/
def regsWh : List RegRow := [
  /- WH_STATUS R830 -/ { base := 0x17800020, ro := 0xffffff, snap := true },
  /- AMB_n R830 -/ { base := 0x17800030, n1 := 4, s1 := 4, ro := 0xfff, snap := true },
  /- REC_INFO R830 -/ { base := 0x17800040, ro := 0x801fff73 },
  /- REC_BODY R830 -/ { base := 0x17800048, wide := true, ro := 0xffffffffffffffff },
  /- REC_GTIME R830 -/ { base := 0x17800050, wide := true, ro := 0xffffffffffffffff },
  /- REC_COUNTER R830 -/ { base := 0x17800058, ro := 0xffffffff },
  /- REC_POP R830 -/ { base := 0x1780005c, wo := 1, by' := .safety },
  /- DISARM_ALL R830 -/ { base := 0x17800060, wo := 1, by' := .safety },
  /- REJ_COUNT_k R830 -/ { base := 0x17800070, n1 := 8, s1 := 4, ro := 0xffffffff, snap := true }]

/-- Registers of the interrupt router, KNOT and SEC (15). -/
def regsCpu : List RegRow := [
  /- ROUTER_STATUS R671 -/ { base := 0x18000020, w1c := 1 },
  /- MSG_ROUTE_s R656 -/ { base := 0x18010000, n1 := 4096, s1 := 8, wide := true, rw := 0x8000ff00000007ff, ro := 0x6000000000000000 },
  /- SAFE_ROUTE_e R661 -/ { base := 0x18020000, n1 := 256, s1 := 8, wide := true, rw := 0x8fffff00000007ff, ro := 0x6000000000000000, by' := .safety },
  /- KNOT_STATUS R671 -/ { base := 0x18400020, w1c := 1 },
  /- KNOT_VALUE_k R671 -/ { base := 0x18410000, n1 := 4096, s1 := 8, wide := true, ro := 0xffffffffffffffff },
  /- KNOT_SIGNAL_k R671 -/ { base := 0x18420000, n1 := 4096, s1 := 8, wide := true, wo := 0xffffffffffffffff },
  /- WAIT_w KNOT R671 -/ { base := 0x18440000, n1 := 1024, s1 := 0x20, rw := 0xfff },
  /- WAIT_w THRESHOLD R671 -/ { base := 0x18440008, n1 := 1024, s1 := 0x20, wide := true, rw := 0xffffffffffffffff },
  /- WAIT_w TIMEOUT R671 -/ { base := 0x18440010, n1 := 1024, s1 := 0x20, rw := 0xffffffff },
  /- WAIT_w ARM R671 -/ { base := 0x18440014, n1 := 1024, s1 := 0x20, wo := 1 },
  /- WAIT_w STATUS R671 -/ { base := 0x18440018, n1 := 1024, s1 := 0x20, ro := 0xff000001 },
  /- SAFE_WAIT_w KNOT R671 -/ { base := 0x18450000, n1 := 32, s1 := 0x20, rw := 0xfff, by' := .safety },
  /- SAFE_WAIT_w THRESHOLD R671 -/ { base := 0x18450008, n1 := 32, s1 := 0x20, wide := true, rw := 0xffffffffffffffff, by' := .safety },
  /- SAFE_WAIT_w TIMEOUT R671 -/ { base := 0x18450010, n1 := 32, s1 := 0x20, rw := 0xffffffff, by' := .safety },
  /- SAFE_WAIT_w ARM R671 -/ { base := 0x18450014, n1 := 32, s1 := 0x20, wo := 1, by' := .safety },
  /- SAFE_WAIT_w STATUS R671 -/ { base := 0x18450018, n1 := 32, s1 := 0x20, ro := 0xff000001, by' := .safety },
  /- TW_KICK R671 -/ { base := 0x19000020, wo := 1 },
  /- TW_STATUS R671 -/ { base := 0x19000024, ro := 3 },
  /- FILTER_LOCK R671 -/ { base := 0x19000040, w1s := 1, by' := .trusted },
  /- DENY_ADDR R671 -/ { base := 0x19000048, wide := true, ro := 0xffffffffff },
  /- DENY_INFO R671 -/ { base := 0x19000050, w1c := 0x80000000, ro := 0xffffc0 },
  /- MEAS_SLOT R671 -/ { base := 0x19000080, rw := 7 },
  /- MEAS_BASE R671 -/ { base := 0x19000084, wide := true, rw := 0xffffffffff },
  /- MEAS_SIZE R671 -/ { base := 0x1900008c, rw := 0xffffffff },
  /- MEAS_GO R671 -/ { base := 0x19000090, wo := 1 },
  /- MEAS_STATUS R671 -/ { base := 0x19000094, ro := 0xff },
  /- MBOX_REQ_m R671 -/ { base := 0x19000200, n1 := 16, s1 := 0x20, wide := true, rw := 0xffffffffc0 },
  /- MBOX_DOORBELL_m R671 -/ { base := 0x19000208, n1 := 16, s1 := 0x20, wo := 1 },
  /- MBOX_RESP_m R671 -/ { base := 0x1900020c, n1 := 16, s1 := 0x20, wo := 0xff, by' := .trusted },
  /- MBOX_STATUS_m R671 -/ { base := 0x19000210, n1 := 16, s1 := 0x20, ro := 0x800000ff },
  /- FILTER_n low R639 -/ { base := 0x19001000, n1 := 256, s1 := 0x10, wide := true, rw := 0x800000fffffff000, by' := .trusted },
  /- FILTER_n high R639 -/ { base := 0x19001008, n1 := 256, s1 := 0x10, wide := true, rw := 0xf80000fffffff000, by' := .trusted }]

/-- Every register of the device outside the common header of R41. -/
def regTable : List RegRow :=
  regsSys ++ regsSdg ++ regsMem ++ regsPack ++ regsPage ++ regsCim ++ regsGfx ++ regsCam ++ regsNet ++ regsTether ++ regsCan ++ regsSplice ++ regsWh ++ regsCpu

/-- The rows of the register map that describe the block with the base address `b` (R33). -/
def regRowsOf (b : Nat) : List RegRow :=
  if Nat.blt b 0x10100000 then regsSys
  else if Nat.blt b 0x10400000 then regsSdg
  else if Nat.blt b 0x11000000 then regsMem
  else if Nat.blt b 0x12000000 then regsPack
  else if Nat.blt b 0x13000000 then regsPage
  else if Nat.blt b 0x14000000 then regsCim
  else if Nat.blt b 0x15000000 then regsGfx
  else if Nat.blt b 0x16000000 then regsCam
  else if Nat.blt b 0x16400000 then regsNet
  else if Nat.blt b 0x16800000 then regsTether
  else if Nat.blt b 0x17000000 then regsCan
  else if Nat.blt b 0x17800000 then regsSplice
  else if Nat.blt b 0x18000000 then regsWh
  else regsCpu

end Sys2Proof.Machine
end

