-- ==== Sys2Proof/Machine/StateBase.lean ====
section
/-! DEFINITION. The state of the supply, the starts, Sheepdog, freeze-frame, Leash, the parameter area, memory, the lockstep
pairs, the clusters and SEC: one structure per block, plain data, each field at its reset value. -/

namespace Sys2Proof.Machine

/-- The eight device states (R15). -/
inductive Dev where
  | off | coldStart | warmStart | operational | brace | safeHold | restart | failed
  deriving DecidableEq, Repr

/-- Supply monitor and rails (05, 21). -/
structure Pwr where
  /-- VDD_AON present. -/
  aonOn      : Bool := false
  /-- PORST_N high. -/
  porstHigh  : Bool := false
  /-- Bit n: core rail n below its window (R223). -/
  railUnder  : Nat := 0
  /-- Bit n: core rail n above its window (R223). -/
  railOver   : Nat := 0
  /-- Consecutive samples under VWARN, at most 2 (R209). -/
  warnRun    : Nat := 0
  /-- Consecutive samples at or under VRESET, at most 2 (R209). -/
  resetRun   : Nat := 0
  /-- Consecutive samples at or above the return level, at most 501 (R210). -/
  returnRun  : Nat := 0
  /-- VSENSE_BAT declared below VWARN and the return condition not yet met (R209). -/
  below      : Bool := false
  /-- VSENSE_BAT declared at VRESET since the last return condition. -/
  atReset    : Bool := false
  /-- The return condition holds (R210). -/
  returnOk   : Bool := false
  nowMv      : Nat := 0
  minMv      : Nat := 0xFFFF
  /-- Time of the latest VSENSE_BAT sample (R204). -/
  lastSample : Nat := 0
  /-- Entry time of the BRACE in progress. -/
  braceAt    : Option Nat := none
  /-- Bit p: the previous word read of PMIC page p was nonzero (R227). -/
  pmicBad    : Nat := 0
  /-- Consecutive unanswered PMBus transactions (R227). -/
  pmicMiss   : Nat := 0
  lastPoll   : Nat := 0
  lastTemp   : Nat := 0
  /-- Junction sensors above the limit at the previous update (bit n). -/
  hotMask    : Nat := 0
  hotSensor  : Nat := 0
  hotTemp    : Int := 0
  /-- The controlled reset of R218 is in progress. -/
  ctrlPending : Bool := false
  /-- The last controlled reset completed and nothing since has lost DRAM retention (R248). -/
  retention  : Bool := false
  deriving DecidableEq, Repr

/-- The start-policy record (in the always-on domain) and the start in progress (05). -/
structure Start where
  /-- Cause code of R229 of the coming or latest start. -/
  cause      : Nat := 1
  /-- The coming start was requested as warm. -/
  wantWarm   : Bool := false
  /-- A start that ended in RESTART was a warm start, or a restart request arrived during one (R231, R252). -/
  forceCold  : Bool := false
  /-- A warm request arrived during a warm start: it is a warm request run cold (R231). -/
  requestInWarm : Bool := false
  failedCold : Nat := 0
  /-- FAILED latched, with its reason (0x2500:0A). -/
  failedReason : Nat := 0
  /-- Begin times of warm starts, newest first, at most three. -/
  warmTimes  : List Nat := []
  /-- Time of the last LBIST (R241 step 6). -/
  lbistAt    : Option Nat := none
  /-- READY deadline: step 15 is waiting for START_CTRL.READY (R246). -/
  readyBy    : Option Nat := none
  /-- Step 15 is waiting, READY written, entry to OPERATIONAL waits for the return condition (R217). -/
  readySeen  : Bool := false
  /-- The masked-fault record of the AON SRAM (R163, R247). -/
  maskedRec  : Bool := false
  /-- SPLIT_STRAP and PCIE_MODE as sampled (R875). -/
  splitStrap : Bool := false
  pcieMode   : Bool := false
  /-- Whether this mission began from RESTART (START_FROM of R848). -/
  fromRestart : Bool := false
  /-- Stage-1: version string, entry offset. -/
  version    : List Byte := []
  entryOff   : Nat := 0
  /-- CAL, training and PMIC supervision begin at step 5; FRZ accepts from its end (R852). -/
  pastStep5  : Bool := false
  deriving DecidableEq, Repr

/-- One software watchdog (R191 to R193). -/
structure Wdg where
  running : Bool := false
  seq     : Nat := 0
  /-- Start of the current window: the last accepted kick. -/
  from'   : Nat := 0
  open'   : Bool := false
  /-- The window closed without a kick and the next kick has not come. -/
  expired : Bool := false
  /-- The core that made its latest accepted kick; a joined pair is named by its main core (R312). -/
  unit    : Option Nat := none
  deriving DecidableEq, Repr

/-- Sheepdog (04). -/
structure Sdg where
  faultN      : Bool := false
  aliveA      : Bool := false
  aliveB      : Bool := false
  lastToggle  : Nat := 0
  firstAlarm  : Nat := 0
  firstClass  : Nat := 0
  lastAlarm   : Nat := 0
  /-- Bit n: alarm n raised this mission. -/
  alarmMap    : Nat := 0
  /-- A restart waits for the acknowledgement (R175). -/
  restartPending : Bool := false
  holdAt      : Option Nat := none
  /-- Filtered SAFE_ACK_N level is low. -/
  ackLow      : Bool := false
  /-- Filtered falling edge of SAFE_ACK_N since entry to SAFE_HOLD, while it has stayed low since. -/
  ackFall     : Option Nat := none
  /-- The SAFE_ACK wait ended without acknowledgement (R176). -/
  ackMissed   : Bool := false
  /-- RESTART entered; the SafetyStatus frame of R177 is awaited until this time. -/
  restartWait : Option Nat := none
  clkTripped  : Bool := false
  /-- CLK_SDG has stopped: Sheepdog does nothing (R890). -/
  clkStopped  : Bool := false
  /-- MASKED_FAULT this mission (R163). -/
  masked      : Bool := false
  ssCounter   : Nat := 0
  ssLast      : Nat := 0
  /-- A SafetyStatus frame is asked for; its transmission must start by this time (R190). -/
  ssBound     : Option Nat := none
  /-- The SafetyStatus frame in transmission. -/
  ssFlight    : Option CanFrame := none
  /-- End of the latest valid Whistle STOP frame. -/
  stopAt      : Option Nat := none
  wdg         : Tab Wdg := []
  /-- Whether OPERATIONAL has been entered since the start, and the time of the next latent-test run (R196). -/
  enteredOp   : Bool := false
  latentNext  : Nat := 0
  deriving DecidableEq, Repr

/-- A capture in progress (R834). -/
structure Capture where
  target  : Nat
  sources : Nat
  bank    : Nat
  /-- The device state at the latch, once latched. -/
  latched : Option Nat := none
  deriving DecidableEq, Repr

/-- Freeze-frame (20). -/
structure Frz where
  /-- FRZ accepts triggers (R852). -/
  on       : Bool := false
  pending  : Option Capture := none
  /-- Bit b: bank b FULL. -/
  full     : Nat := 0
  bank0    : Tab Word := []
  bank1    : Tab Word := []
  target0  : Nat := 0
  target1  : Nat := 0
  info0    : Nat := 0
  info1    : Nat := 0
  dropSources : Nat := 0
  scheduled : Option Nat := none
  /-- Instance pages that existed at the latch of each bank. -/
  pages0   : List Nat := []
  pages1   : List Nat := []
  /-- Records still to be written: bank and content. -/
  recordDue : List (Nat × List Byte) := []
  /-- The eight record slots of the AON SRAM; an absent slot is free. -/
  records  : Tab (List Byte) := []
  change0  : Nat := 0
  change1  : Nat := 0
  deriving DecidableEq, Repr

/-- The holding registers of one register block (R47, R50): held half, requester, register address. -/
structure Hold where
  rd : Option (Nat × Nat × Nat) := none
  wr : Option (Nat × Nat × Nat) := none
  deriving DecidableEq, Repr

/-- A segmented transfer (R131 to R135). -/
structure Seg where
  key     : Nat
  total   : Nat
  counter : Nat
  data    : List Byte
  done    : Nat
  deriving DecidableEq, Repr

/-- A Leash session (R116 to R135). -/
structure Session where
  id      : Nat
  role    : Nat
  opened  : Bool := false
  prk     : List Byte := []
  keyUp   : List Byte := []
  keyDown : List Byte := []
  lastSeq : Nat := 0
  cached  : Option LeashMsg := none
  /-- Time of the CHALLENGE, then of the last valid request. -/
  since   : Nat := 0
  /-- Its segmented read. -/
  seg     : Option Seg := none
  deriving DecidableEq, Repr

/-- A parameter store in progress (R103 to R105): the request, the captured values, the copy. -/
structure StoreRun where
  msg   : LeashMsg
  vals  : Tab Nat
  blobs : Tab (List Byte)
  copy  : Nat
  deriving DecidableEq, Repr

/-- Leash and the management controller (03). -/
structure Leash where
  up       : Bool := false
  sessions : Tab (Option Session) := []
  /-- Consecutive failed proofs of each role, and lockout end times (retention domain, R138). -/
  fails    : Tab Nat := []
  lockout  : Tab (Option Nat) := []
  /-- The role credentials: `none` disabled (R140, R143). Secure storage. -/
  creds    : Tab (Option (List Byte)) := []
  store    : Option StoreRun := none
  /-- The one segmented write, with the session slot that holds it (R133). -/
  segW     : Option (Nat × Seg) := none
  /-- A write whose answer waits for the end of a Pack scrub (R474). -/
  scrubReply : Option LeashMsg := none
  /-- Content of computed DOMAINs as last reported with a change counter (log entry 47). -/
  seen     : Tab (List Byte) := []
  deriving DecidableEq, Repr

/-- One parameter copy of the boot flash (R103). -/
structure ParamCopy where
  valid : Bool := false
  seq   : Nat := 0
  vals  : Tab Nat := []
  blobs : Tab (List Byte) := []
  deriving DecidableEq, Repr

/-- The parameter area (R103 to R107). -/
structure Params where
  copy0 : ParamCopy := {}
  copy1 : ParamCopy := {}
  /-- The mark of R107. -/
  mark  : Bool := false
  deriving DecidableEq, Repr

/-- The CANopen FD node (R146 to R155). -/
structure Canopen where
  active   : Bool := false
  lastBeat : Nat := 0
  lastPdo  : Tab Nat := []
  deriving DecidableEq, Repr

/-- Memory control (06). -/
structure MemCtl where
  /-- Symbol errors of stored granules since they were written: key granule × 80 + die × 8 + byte. -/
  dramErr  : Tab Byte := []
  /-- Granules that hold the poison word. -/
  poison   : Tab Bool := []
  /-- Flipped bits of stored shared-SRAM words: key word index, mask of 72 bits. -/
  sramErr  : Tab Nat := []
  /-- Landing-buffer and TCM bytes whose parity is wrong. -/
  parity   : Tab Bool := []
  /-- Marked die of each strand; 0xFF none (R271). -/
  marked   : Tab Nat := []
  /-- Corrections of each die: key strand × 16 + die, list of granule and time (R270). -/
  corr     : Tab (List (Nat × Nat)) := []
  /-- Demand-scrub write-backs still due: granules (R276). -/
  scrubDue : List Nat := []
  /-- Shared-SRAM words whose write-back is due (R892). -/
  sramDue  : List Nat := []
  trained  : Bool := false
  selfRefresh : Bool := false
  patrolOn : Bool := false
  patrolStopped : Bool := false
  /-- Next granule of the patrol, and the start of its pass. -/
  patrolPos : Nat := 0
  passAt   : Nat := 0
  passDone : Bool := false
  /-- F in force, 256 MiB units (R259). -/
  fixed    : Nat := 0
  deriving DecidableEq, Repr

/-- A hand-over in progress (R312 to R314). -/
structure Handover where
  pair     : Nat
  split    : Bool
  step     : Nat
  req      : Nat
  deadline : Nat
  /-- Bits 0 and 1: unit 0 and 1 of the pair has confirmed. -/
  confirmed : Nat := 0
  deriving DecidableEq, Repr

/-- The safety cluster's pairs (07). -/
structure Lock where
  /-- Bit p: pair p split now. -/
  split     : Nat := 0
  /-- Boot split mask in force. -/
  bootSplit : Nat := 0
  /-- Bit c: core c out of reset. -/
  running   : Nat := 0
  /-- Bit p: pair p stopped by a mismatch with fault reaction. -/
  stopped   : Nat := 0
  /-- Bit p: pair p held in reset by a hand-over that was not confirmed (R314). -/
  held      : Nat := 0
  handover  : Option Handover := none
  result    : Nat := 0
  /-- Times of the latest restarts of each pair. -/
  restarts  : Tab (List Nat) := []
  /-- Start address at which each core was released. -/
  entry     : Tab Nat := []
  deriving DecidableEq, Repr

/-- One application core's lemsyn CSRs (R634). -/
structure AppCore where
  released : Bool := false
  world    : Bool := true
  tcount   : Bool := false
  lock     : Bool := false
  monBase  : Nat := 0
  monLast  : Nat := 0
  mtvec    : Nat := 0
  /-- Address at which it was released. -/
  pc       : Nat := 0
  /-- Occurrences of the events 0x4C02 to 0x4C04 of R635 while its counters counted (R638). -/
  events   : Tab Nat := []
  deriving DecidableEq, Repr

/-- One measured-hash slot (R238, R239). -/
structure Slot where
  filled  : Bool := false
  hash    : List Byte := []
  base    : Nat := 0
  size    : Nat := 0
  written : Bool := false
  deriving DecidableEq, Repr

/-- SEC: slots, measurement, mailboxes, trusted watchdog (15). -/
structure Sec where
  slots    : Tab Slot := []
  /-- Measurement in progress: slot, base, size, and its start. -/
  meas     : Option (Nat × Nat × Nat × Nat) := none
  /-- Bit m: mailbox m BUSY. -/
  mboxBusy : Nat := 0
  /-- Last status of each mailbox. -/
  mboxStat : Tab Nat := []
  twUp     : Bool := false
  twDown   : Bool := false
  twKick   : Nat := 0
  deriving DecidableEq, Repr

/-- The fuses (R645): burned value, and the value that the last cold start loaded (R649). -/
structure Fuses where
  lifecycle : Nat := 1
  rollback  : Nat := 0
  splitMask : Nat := 0
  lifecycleIn : Nat := 1
  rollbackIn  : Nat := 0
  splitMaskIn : Nat := 0
  deriving DecidableEq, Repr

/-- A knot wait slot (R669). -/
structure WaitSlot where
  armed  : Bool := false
  knot   : Nat := 0
  thresh : Nat := 0
  until' : Option Nat := none
  status : Nat := 0
  deriving DecidableEq, Repr

end Sys2Proof.Machine
end

