-- ==== Sys2Proof/Machine/StateMedia.lean ====
section
/-! DEFINITION. The state of camera ingest (13), the Raster engine and the display pipes (14). -/

namespace Sys2Proof.Machine

/-- A frame of a camera stream, from its Frame Start packet to its record (R558). -/
structure CamFrame where
  gstart  : Nat
  gend    : Nat := 0
  /-- It has a buffer, and a record will be written (R556). -/
  kept    : Bool
  buffer  : Nat
  seq     : Nat
  /-- Packets seen on the first virtual channel since Frame Start, and embedded lines among them. -/
  packets : Nat := 0
  emb     : Nat := 0
  /-- State of the pattern generator of R561. -/
  gen     : Nat := 0
  counter : Option Nat := none
  sensorBad : Bool := false
  lines   : Nat := 0
  short   : Bool := false
  long    : Bool := false
  linkErr : Bool := false
  nucErr  : Bool := false
  /-- Time of the Frame End packet. -/
  endAt   : Nat := 0
  deriving DecidableEq, Repr

/-- A camera stream (R551 to R575). -/
structure CamStream where
  on      : Bool := false
  seq     : Nat := 0
  nextBuf : Nat := 0
  /-- Counter of the previous frame, and consecutive frames that set FROZEN. -/
  prev    : Option Nat := none
  frozen  : Nat := 0
  frame   : Option CamFrame := none
  /-- The frame whose test lines are awaited. -/
  tail    : Option CamFrame := none
  /-- Base of the frame timeout, and whether it has expired since the latest Frame End packet. -/
  mark    : Nat := 0
  expired : Bool := false
  /-- COUNTER of the latest frame with a record (R571). -/
  latest  : Option Nat := none
  deriving DecidableEq, Repr

/-- A submission of the Raster engine. -/
structure GfxSub where
  entry   : List Byte
  status  : Option Nat := none
  begun   : Bool := false
  gstart  : Nat := 0
  passes  : Nat := 0
  partials : Nat := 0
  preempts : Nat := 0
  faultAt : Nat := 0
  /-- Lines in the cache, by line address. -/
  lines   : List (Nat × List Byte) := []
  /-- Bytes that it has binned in its partition. -/
  binned  : Nat := 0
  /-- The queue's access windows as in force for it (R595). -/
  wins    : List Nat := []
  deriving DecidableEq, Repr

/-- A Raster queue (R584). States: 0 DISABLED, 1 IDLE, 2 RUNNING or WAITING, 4 STOPPED. -/
structure GfxQueue where
  state  : Nat := 0
  tail   : Nat := 0
  sqHead : Nat := 0
  cqTail : Nat := 0
  last   : Nat := 0
  subs   : List GfxSub := []
  /-- STOP is requested: the running submission yields at its next pre-emption point. -/
  stop   : Bool := false
  deriving DecidableEq, Repr

/-- The Raster engine. -/
structure Gfx where
  queues : Tab GfxQueue := []
  /-- Queue whose submission holds the shader cores. -/
  run    : Option Nat := none
  /-- When it last started, and when it was asked to yield. -/
  ranAt  : Nat := 0
  yieldAt : Option Nat := none
  /-- Time of the latest GMC stop of a submission whose cores have still to stop (R607). -/
  gmcStop : Option Nat := none
  deriving DecidableEq, Repr

/-- An overlay set (R619): FRAME, region mask, overlay address, regions (x, y, width, height) and expected CRCs. -/
structure OvlSet where
  frame   : Nat
  mask    : Nat
  addr    : Nat
  regions : List (List Nat)
  crcs    : List Nat
  deriving DecidableEq, Repr

/-- A display pipe. -/
structure Pipe where
  on      : Bool := false
  /-- Time of the latest frame start. -/
  frameAt : Option Nat := none
  underflow : Bool := false
  /-- Plane addresses and layouts taken at the latest frame start. -/
  planes  : List Nat := [0, 0, 0, 0]
  layouts : List (List Byte) := []
  committed : Option OvlSet := none
  inUse   : Option OvlSet := none
  /-- The overlay scans the hold image (R624). -/
  hold    : Option Nat := none
  stale   : Nat := 0
  deriving DecidableEq, Repr

end Sys2Proof.Machine
end

