-- ==== Sys2Proof/Machine/StateNet.lean ====
section
/-! DEFINITION. The state of the switch, gPTP, the CAN controllers, the routing engine and the transport assist (16). -/

namespace Sys2Proof.Machine

/-- A routing rule (R705), its fields as numbers. -/
structure Rule where
  index   : Nat
  flags   : Nat
  ingress : Nat
  action  : Nat
  meter   : Nat
  matchV  : Nat
  mask    : Nat
  egress  : Nat
  stream  : Nat
  newId   : Nat
  tag     : Nat
  dmac    : Nat
  qual    : Nat
  crc     : Nat
  dataId  : Nat
  deps    : Nat
  deriving DecidableEq, Repr

/-- What a SAFETY_OUT rule forces in a frame (R715, R716): the data are `len` bytes at `off` of the payload. -/
structure Force where
  qual   : Nat
  crc    : Nat
  dataId : Nat
  deps   : Nat
  off    : Nat
  len    : Nat
  deriving DecidableEq, Repr

/-- A CAN frame offered for transmission: of a ring (with its entry) or of the gateway queue. -/
structure CanOut where
  frame : CanFrame
  force : Option Force := none
  entry : List Byte := []
  deriving DecidableEq, Repr

/-- A session of the transport assist (R700 to R702). KIND 0 TP, 1 BAM, 2 ETP. -/
structure TpSession where
  kind   : Nat
  sa     : Nat
  da     : Nat
  pgn    : Nat
  size   : Nat
  slot   : Nat
  /-- Packets allowed per CTS by the sender, next packet expected, last packet of the window, packet offset of an ETP window. -/
  most   : Nat
  next   : Nat := 1
  upTo   : Nat := 0
  offset : Nat := 0
  data   : List Byte := []
  gtime  : Nat := 0
  /-- When its timeout expires. -/
  until' : Nat
  deriving DecidableEq, Repr

/-- One CAN FD controller (R688 to R703). States: 0 off, 1 error-active, 2 error-passive, 3 bus-off, 4 recovering. -/
structure CanCtl where
  state  : Nat := 0
  tec    : Nat := 0
  rec'   : Nat := 0
  /-- The gateway queue, oldest first. -/
  gw     : List CanOut := []
  /-- Heads of the safety TX ring and of the general TX ring, once read. -/
  saf    : Option CanOut := none
  gen    : Option CanOut := none
  /-- The frame on the bus: source (1 safety ring, 2 general ring, 3 gateway queue) and the frame as sent. -/
  flight : Option (Nat × CanFrame) := none
  sessions : Tab (Option TpSession) := []
  /-- Bit k: TP slot k in use. -/
  tpBusy : Nat := 0
  deriving DecidableEq, Repr

/-- A frame in an egress queue: rule index, ingress code and ingress GTIME for an internal port's descriptor. -/
structure EthOut where
  frame   : EthFrame
  force   : Option Force := none
  rule    : Nat := 0
  ingress : Nat := 0
  gtime   : Nat := 0
  /-- A Tether frame: its connection, and its operation when it is the last frame of a write. -/
  tether  : Option (Nat × Option Nat) := none
  deriving DecidableEq, Repr

/-- A token bucket by its deficit (in billionths of a token) at a time; an unlisted bucket is full. -/
structure Bucket where
  used : Nat := 0
  at'  : Nat := 0
  deriving DecidableEq, Repr

/-- A sequence recovery function (R679, R681): `takeAny` after a reset. -/
structure CbRec where
  takeAny : Bool := true
  seq     : Nat := 0
  /-- Bit k: the sequence number `seq` - k has been seen. -/
  hist    : Nat := 0
  last    : Nat := 0
  deriving DecidableEq, Repr

/-- A gate control list that waits for its time to take over. -/
structure GateChange where
  time : Nat
  list : List Byte
  deriving DecidableEq, Repr

/-- gPTP, the switch and the routing engine. gPTP states (R683): 0 FREE, 1 ACQUIRING, 2 LOCKED, 3 HOLDOVER. -/
structure Net where
  /-- TIME_UNSYNC: more than 100 ms of holdover (R70). -/
  unsync : Bool := false
  ptp    : Nat := 0
  /-- LOCKED has been reached since the end of the start (R683). -/
  locked : Bool := false
  /-- The next Sync is the first since entering ACQUIRING or HOLDOVER (R684). -/
  first  : Bool := true
  holdAt : Nat := 0
  lastSync : Nat := 0
  /-- Rate correction in force, ppm. -/
  rate   : Int := 0
  offset : Int := 0
  /-- A step of GTIME deferred by a pending capture (R840). -/
  stepDue : Option Int := none
  /-- Bit p: link of port p up; the internal ports 8 and 9 have no link to lose. -/
  link   : Nat := 0x300
  /-- Egress queues by port × 8 + queue, oldest first. -/
  queues : Tab (List EthOut) := []
  /-- Gate control lists in force and waiting, by port. -/
  gates  : Tab (List Byte) := []
  change : Tab (Option GateChange) := []
  /-- Meters of R713, and flow meters of the stream table. -/
  meters : Tab Bucket := []
  flows  : Tab Bucket := []
  cbRec  : Tab CbRec := []
  cbGen  : Tab Nat := []
  /-- Sequence numbers of encapsulation, and the latest received by each DECAP rule. -/
  encapSeq : Tab Nat := []
  decapSeq : Tab (Option Nat) := []
  /-- A drop has been announced since the last read of 0x2F00 (R719). -/
  dropSent : Bool := false
  deriving DecidableEq, Repr

end Sys2Proof.Machine
end

