-- ==== Sys2Proof/Machine/StatePack.lean ====
section
/-! DEFINITION. The state of the Pack: commands in flight, queues, instances, the Roster (07, 08, 10, 12). -/

namespace Sys2Proof.Machine

/-- Why a running command is to stop at its next tile boundary (R366). -/
inductive StopReason where
  /-- Pre-empted by the scheduler (R367). -/
  | preempt
  /-- Queue STOP (R368). -/
  | stop
  /-- It ends with this status: SAFE_HOLD (R371), RESOURCE_REVOKED (R443), ACCESS_DENIED (R358), SWAPPED_OUT (R510). -/
  | ends (status : Nat)
  /-- It waits behind a failed command of its queue, without a report (R370). -/
  | silent
  deriving DecidableEq, Repr

/-- A tile that has started: its index, its engines (0 to 31 MC, 32 to 47 CT, 48 to 55 VE), start time and the bytes its commit
writes; `err` is the status that ends the command at this tile instead of a commit. -/
structure Tile where
  index  : Nat
  engines : List Nat
  at'    : Nat
  writes : List (Nat × List Byte)
  /-- What its commit adds to DETAIL (CIM_RUN), the chunk it wrote (CIM_LOAD), the accepted path (ACCEPT). -/
  note   : Nat := 0
  path   : List Nat := []
  cells  : List Byte := []
  /-- The copies of a paired tile computed different bytes. -/
  differ : Bool := false
  err    : Option Nat := none
  deriving DecidableEq, Repr

/-- The engine sets of a pair map (R332's registers): masks of MC, CT, VE for sets A and B. -/
structure Sets where
  mcA : Nat := 0
  ctA : Nat := 0
  veA : Nat := 0
  mcB : Nat := 0
  ctB : Nat := 0
  veB : Nat := 0
  deriving DecidableEq, Repr

/-- A command in flight (R348): fetched, its completion not yet written. -/
structure Cmd where
  /-- Submission index of its descriptor, modulo 2^16. -/
  index   : Nat
  desc    : List Byte
  /-- Generation of the instance when it was fetched. -/
  gen     : Nat
  /-- The status it ends with, once decided; its completion is then due. -/
  status  : Option Nat := none
  /-- It executes now: begun and not pre-empted since. -/
  started : Bool := false
  /-- It has begun executing once; its sets are then fixed. -/
  begun   : Bool := false
  /-- GTIME at which it began executing (R359). -/
  gstart  : Nat := 0
  sets    : Sets := {}
  tiles   : Nat := 0
  /-- Tiles dispatched and tiles committed. -/
  disp    : Nat := 0
  done    : Nat := 0
  run     : List Tile := []
  stop    : Option StopReason := none
  /-- Time of the pre-emption request. -/
  stopAt  : Nat := 0
  detail  : Nat := 0
  retries : Nat := 0
  /-- A PREEMPTED completion is due, with this resume token. -/
  report  : Option Nat := none
  /-- When a KNOT_WAIT expires; `none` never. -/
  expires : Option Nat := none
  /-- Time since which its next work tile waits for a calibration (R411). -/
  waitAt  : Option Nat := none
  /-- The macros and CRCs of a weight image's records (R421); the accepted path of an ACCEPT (R507). -/
  recs    : List (Nat × Nat) := []
  path    : List Nat := []
  /-- It is a re-run after a retry of a command whose completion was already written (R332). -/
  silent  : Bool := false
  deriving DecidableEq, Repr

/-- A Pack queue (R344). States: 0 DISABLED, 1 IDLE, 2 RUNNING, 3 SUSPENDED, 4 STOPPED. -/
structure Queue where
  state   : Nat := 0
  tail    : Nat := 0
  sqHead  : Nat := 0
  cqTail  : Nat := 0
  last    : Nat := 0
  stale   : Nat := 0
  cmds    : List Cmd := []
  /-- Commands completed since the restart point, oldest first (R327, R332). -/
  since   : List Cmd := []
  /-- Restart point: tile of the first command since it, and retries since it moved (R328). -/
  rpTile  : Nat := 0
  retries : Nat := 0
  /-- A Brace checkpoint is requested (R212). -/
  brace   : Bool := false
  deriving DecidableEq, Repr

/-- A Pack instance (R517): state 0 FREE, 1 ACTIVE, 2 RESETTING, 3 REMOVING. -/
structure Inst where
  state   : Nat := 0
  gen     : Nat := 0
  cfgGen  : Nat := 0
  /-- A reset or removal waits for operations of the colliding generation until this time (R75). -/
  waitBy  : Option Nat := none
  /-- Results still to come of operations of an older generation: queue, or 256 plus the handle of a swap, and generation
  (R75, R538). -/
  late    : List (Nat × Nat) := []
  /-- CONFIG_CHANGED to be shown after step 6 of a reset (R541). -/
  cfgDue  : Bool := false
  /-- Command tokens in millionths, bytes in thousandths, and the times they were last filled (R446, R447). -/
  cmdTok  : Nat := 64000000
  cmdAt   : Nat := 0
  byteTok : Int := 1048576000
  byteAt  : Nat := 0
  /-- Latest Roster slot that names it (R474). -/
  slot    : Nat := 0x1FF
  deriving DecidableEq, Repr

/-- A layer in a tile's layer table (R417). -/
structure Layer where
  model : Nat
  num   : Nat
  first : Nat
  gr    : Nat
  gc    : Nat
  flags : Nat
  k     : Nat
  n     : Nat
  deriving DecidableEq, Repr

/-- A CIM macro (09). -/
structure Macro where
  /-- Not in LOADING. -/
  ready   : Bool := false
  crc     : Nat := 0
  /-- Time it became due; `none` when it is not. -/
  due     : Option Nat := none
  overdue : Bool := false
  calAt   : Nat := 0
  calTemp : Int := 0
  fit     : List (Nat × Nat) := []
  /-- The CIM_LOAD that claimed it last: queue key and submission index, plus 1 (R427). -/
  claim   : Nat := 0
  deriving DecidableEq, Repr

/-- A CIM tile's layer table, sensor and maintenance port. -/
structure CimTile where
  layers  : Tab (Option Layer) := []
  temp    : Int := 0
  /-- Macro being calibrated, with the end of its calibration and whether a CIM_LOAD waits for it. -/
  cal     : Option (Nat × Nat) := none
  writing : Option Nat := none
  deriving DecidableEq, Repr

/-- The CIM tiles. Cells are kept per 16 KiB chunk, key tile × 512 + macro × 8 + chunk; an absent chunk is zeros. -/
structure Cim where
  tiles  : Tab CimTile := []
  macros : Tab Macro := []
  cells  : Tab (List Byte) := []
  deriving DecidableEq, Repr

/-- A page of a sequence: address, size code, first position, positions held (R487). -/
structure Page where
  addr  : Nat
  code  : Nat
  first : Nat
  held  : Nat
  deriving DecidableEq, Repr

/-- A Kennel sequence (R488). States: 0 FREE, 1 RESIDENT, 2 SWAPPING_OUT, 3 SWAPPED, 4 SWAPPING_IN. -/
structure Seq where
  state    : Nat := 0
  prio     : Nat := 0
  inst     : Nat := 0
  gen      : Nat := 0
  base     : Nat := 0
  length   : Nat := 0
  pages    : List Page := []
  layers   : Nat := 0
  heads    : Nat := 0
  dim      : Nat := 0
  typ      : Nat := 0
  swapAddr : Nat := 0
  swapBytes : Nat := 0
  lastUse  : Nat := 0
  /-- Chosen as a victim; its swap-out begins once no started command names it (R510). -/
  doomed   : Bool := false
  /-- Pages are to be released once these commands (queue key, submission index) have ended (R495). -/
  relDue   : Bool := false
  relAfter : List (Nat × Nat) := []
  /-- The descriptor that its latest swap-out wrote (R511, R512). -/
  image    : List Byte := []
  deriving DecidableEq, Repr

/-- The Kennel (11). -/
structure Kennel where
  /-- Pool base and size in force, 2 MiB units (R479). -/
  base    : Nat := 0
  size    : Nat := 0
  seqs    : Tab Seq := []
  /-- Freed pages still to be zeroed (R483): address and size code. -/
  zeroing : List (Nat × Nat) := []
  /-- Requests waiting under R509: handle, queue key plus 1 (0 for a swap-in), time since. -/
  waits   : List (Nat × Nat × Nat) := []
  deriving DecidableEq, Repr

/-- The Pack as a whole. -/
structure Pack where
  queues  : Tab Queue := []
  insts   : Tab Inst := []
  /-- Roster: table in force, pending switch, EPOCH-based frame number, frame start, active and begun slots. -/
  table   : Nat := 0
  switch  : Option Nat := none
  frames  : Nat := 0
  frameAt : Nat := 0
  active  : List Nat := []
  begun   : List Nat := []
  /-- A Pack scrub is running since this time (R474). -/
  scrub   : Option Nat := none
  /-- DRAM bytes read since the latest tile began to be fetched; they count for that tile (R447). -/
  fetched : Nat := 0
  /-- The end time of the latest 10 ms slowdown window, by instance. -/
  window  : Tab Nat := []
  deriving DecidableEq, Repr

end Sys2Proof.Machine
end

