-- ==== Sys2Proof/Machine/StateSplice.lean ====
section
/-! DEFINITION. The state of Splice (18): the lock of the Hawser bus, bridge semaphores, prefetch lines, polls. -/

namespace Sys2Proof.Machine

/-- A lock or a semaphore held for an LR: requester, address, and when it was taken. -/
structure Held where
  req  : Nat
  addr : Nat
  at'  : Nat
  deriving DecidableEq, Repr

/-- A valid prefetch line: the fabric address of its 64 bytes, its window (Hawser 0 to 15, 16 for the PCIe 64-bit window), when it
was fetched. -/
structure PfLine where
  addr : Nat
  win  : Nat
  data : List Byte
  at'  : Nat
  deriving DecidableEq, Repr

/-- A poll entry's state. -/
structure Poll where
  /-- The next read sets the baseline. -/
  base   : Bool := true
  value  : Nat := 0
  hit    : Bool := false
  err    : Bool := false
  count  : Nat := 0
  gtime  : Nat := 0
  /-- When its latest read started. -/
  last   : Option Nat := none
  deriving DecidableEq, Repr

/-- Splice. -/
structure Splice where
  /-- HW_LOCK_N held low for an LR. -/
  lock    : Option Held := none
  /-- Semaphores held, by 64-byte granule. -/
  sems    : Tab (Option Held) := []
  /-- The eight lines, and the lines from the most to the least recently used. -/
  lines   : Tab (Option PfLine) := []
  lru     : List Nat := []
  /-- The far master's request is low; the grant is asserted. -/
  farReq  : Bool := false
  granted : Bool := false
  polls   : Tab Poll := []
  /-- PCIE_PERST_N driven low (R805). -/
  perst   : Bool := false
  deriving DecidableEq, Repr

end Sys2Proof.Machine
end

