-- ==== Sys2Proof/Machine/StateTether.lean ====
section
/-! DEFINITION. The state of Tether (17): connections, operations, regions, queues. -/

namespace Sys2Proof.Machine

/-- An operation of a connection, from its fetch until it is decided and acknowledged. -/
structure TOp where
  id    : Nat
  sq    : Nat
  entry : List Byte
  /-- First PSN, PSNs that it consumes in all, and PSNs sent so far. -/
  first : Nat := 0
  psns  : Nat
  sent  : Nat := 0
  /-- PSNs of a READ whose responses are placed. -/
  got   : Nat := 0
  /-- Its status is decided. -/
  decided : Bool := false
  deriving DecidableEq, Repr

/-- A connection (R728, R730). States: 0 DISABLED, 1 ACTIVE, 2 ERROR. -/
structure TConn where
  state  : Nat := 0
  mac    : Nat := 0
  tci    : Nat := 0
  remote : Nat := 0
  port   : Nat := 0
  jumbo  : Bool := false
  world  : Bool := false
  rq     : Nat := 0
  rto    : Nat := 0
  /-- PSN to send next, PSN after the highest sent, oldest unacknowledged PSN, expected PSN. -/
  psn    : Nat := 0
  high   : Nat := 0
  oldest : Nat := 0
  epsn   : Nat := 0
  /-- When the oldest unacknowledged PSN last advanced or was last sent again, and rounds since it advanced. -/
  since  : Nat := 0
  rounds : Nat := 0
  /-- The value of ePSN for which a SEQUENCE NAK was sent. -/
  nak    : Option Nat := none
  /-- FLUSHes to answer. -/
  flush  : List Nat := []
  ops    : List TOp := []
  /-- Offset and length so far of the write being received. -/
  wrOff  : Nat := 0
  wrLen  : Nat := 0
  deriving DecidableEq, Repr

/-- A registered region (R738). -/
structure TRegion where
  key   : Nat
  base  : Nat
  size  : Nat
  world : Bool
  rd    : Bool
  wr    : Bool
  conn  : Nat
  deriving DecidableEq, Repr

/-- An operation of a send queue whose completion is not written. -/
structure TPend where
  id     : Nat
  entry  : List Byte
  first  : Nat := 0
  last   : Nat := 0
  bytes  : Nat := 0
  status : Option Nat := none
  deriving DecidableEq, Repr

/-- A send queue. States: 0 DISABLED, 1 IDLE, 2 RUNNING, 4 STOPPED. -/
structure TSq where
  state  : Nat := 0
  tail   : Nat := 0
  sqHead : Nat := 0
  cqTail : Nat := 0
  last   : Nat := 0
  ops    : List TPend := []
  deriving DecidableEq, Repr

/-- Tether. -/
structure Tether where
  conns   : Tab TConn := []
  regions : Tab (Option TRegion) := []
  sqs     : Tab TSq := []
  /-- Notifications written on each receive queue since it was enabled. -/
  notes   : Tab Nat := []
  /-- Cached contexts, the most recently used first (R731). -/
  cache   : List Nat := []
  nextId  : Nat := 0
  /-- When a NAK CONN_INVALID was last sent for a handle (R758). -/
  invalid : Tab (Option Nat) := []
  deriving DecidableEq, Repr

end Sys2Proof.Machine
end

