-- ==== Sys2Proof/Machine/StateWhistle.lean ====
section
/-! DEFINITION. The state of the Whistle receiver (19). -/

namespace Sys2Proof.Machine

/-- A pendant slot: H and the bitmap (retention domain; bit k for the counter H - 1 - k), the committed H and the key (secure
storage), armed mode. -/
structure Pendant where
  h         : Nat := 0
  seen      : Nat := 0
  accepted  : Nat := 0
  committed : Nat := 0
  key       : Option (List Byte) := none
  armed     : Bool := false
  /-- The latest accepted frame, while its 320 ms run. -/
  timer     : Option Nat := none
  deriving DecidableEq, Repr

/-- A record of the FIFO. -/
structure WhRec where
  channel : Nat
  slot    : Nat
  command : Nat
  body    : Nat
  gtime   : Nat
  counter : Nat
  deriving DecidableEq, Repr

/-- The receiver. -/
structure Whistle where
  /-- Bit s: HEARTBEAT_LOST raised for slot s and not yet cleared. -/
  lost     : Nat := 0
  pendants : Tab Pendant := []
  /-- Accepted frames, oldest first. -/
  fifo     : List WhRec := []
  /-- Bit n: channel n flooded; the GTIME of its latest FLOOD event; its latest moment above FLOOD_LEVEL or with carrier. -/
  flooded  : Nat := 0
  floodAt  : Tab Nat := []
  noisyAt  : Tab Nat := []
  /-- When a rejection was last announced (R825). -/
  rejAt    : Option Nat := none
  deriving DecidableEq, Repr

end Sys2Proof.Machine
end

