-- ==== Sys2Proof/Machine/State.lean ====
section
/-! DEFINITION. The whole state of the block as plain data, its reset, the faults and refusals, and what it sends outside. -/

namespace Sys2Proof.Machine

/-- What the device drives or sends, in order, newest first in `State.out` (log entry 4). -/
inductive Output where
  /-- A register or memory read answered (requester, address, bytes little-endian). -/
  | readData (req addr : Nat) (data : List Byte)
  /-- A write answered without error. -/
  | writeOk (req addr : Nat)
  /-- An error response with a status of R58 (0x00 where the rule names none). -/
  | errorResp (req addr status : Nat)
  | pins (faultN aliveA aliveB : Bool)
  | canStart (ctrl : Nat) (frame : CanFrame)
  | ethFrame (port : Nat) (frame : EthFrame)
  /-- A gPTP Sync of the grandmaster, with its GTIME (R679). -/
  | gptpSync (port gtime : Nat)
  | leash (m : LeashMsg)
  /-- A write to an IMSIC interrupt file: safety router or not, hart, file, identity (R657). -/
  | message (safety : Bool) (hart file eiid : Nat)
  /-- A machine-level interrupt on an application core (R653). -/
  | machineInterrupt (core : Nat)
  /-- An exception taken by a core (illegal instruction, access fault). -/
  | coreTrap (req : Nat)
  | pmbus (page command : Nat)
  /-- A service response of SEC: status and bytes. -/
  | secAnswer (req status : Nat) (data : List Byte)
  /-- A beat of the Hawser bus (R772 to R775): chip select, far address, whether it has an address phase, the byte enables
  asserted (bit n for HW_BE_N[n] low), and what a write drives on HW_AD. -/
  | hawserBeat (cs farAddr : Nat) (phase : Bool) (be : Nat) (wr : Option Nat)
  | hawserLock (held : Bool)
  | hawserGrant (held : Bool)
  /-- A request to the PCIe link, to the memory or (`config`) the configuration space: bus address, length, bytes written. -/
  | pcieReq (config : Bool) (busAddr len : Nat) (wr : Option (List Byte))
  /-- The answer to an inbound PCIe request or to a far master's cycle; `refused` is Unsupported Request. -/
  | farAnswer (a : FarAnswer)
  | pciePerst (low : Bool)
  | msi (vector : Nat)
  /-- A CANopen FD server answer: node identifier and payload, or an abort. -/
  | usdo (key : Nat) (value : Option (List Byte))
  /-- A core, named by its requester ID, put in reset or released at an address. -/
  | release (core addr : Nat)
  | holdReset (core : Nat)
  deriving DecidableEq, Repr

/-- Reasons for the model to stop: none. No command ends in a fault; what the spec answers with an error is an output or a state. -/
inductive Fault where
  deriving DecidableEq, Repr

/-- Reasons for the model to refuse a command. -/
inductive Refusal where
  /-- The command has no meaning yet. Raised only by arms of `exec`. Safe. -/
  | notModelled (mnemonic : String)
  deriving DecidableEq, Repr

/-- The state of the OMK-7264. -/
structure State where
  dev     : Dev := .off
  /-- The model's own clock, ns (log entry 2). -/
  now     : Nat := 0
  /-- Counter of the free values taken so far (log entry 3). -/
  free    : Nat := 0
  /-- Register contents by address, in every block (R33). -/
  regs    : Tab Word := []
  /-- Holding registers of each block, by block base (R47, R50). -/
  hold    : Tab Hold := []
  /-- Live values of numeric object dictionary entries, key index × 256 + subindex. -/
  od      : Tab Nat := []
  /-- Live values of string and DOMAIN entries. -/
  odBlob  : Tab (List Byte) := []
  /-- Change counters of DOMAIN entries (R132). -/
  odChange : Tab Nat := []
  /-- Values in force of start-applied entries: the live values at the latest start (R93). -/
  odStart : Tab Nat := []
  /-- Bytes of DRAM, shared SRAM, landing buffer and TCM. -/
  mem     : Tab Byte := []
  memCtl  : MemCtl := {}
  pwr     : Pwr := {}
  start   : Start := {}
  sdg     : Sdg := {}
  frz     : Frz := {}
  leash   : Leash := {}
  params  : Params := {}
  canopen : Canopen := {}
  lock    : Lock := {}
  apps    : Tab AppCore := []
  sec     : Sec := {}
  fuses   : Fuses := {}
  /-- Knot counters (R662). -/
  knots   : Tab Nat := []
  pack    : Pack := {}
  cim     : Cim := {}
  kennel  : Kennel := {}
  cams    : Tab CamStream := []
  gfx     : Gfx := {}
  pipes   : Tab Pipe := []
  net     : Net := {}
  can     : Tab CanCtl := []
  tether  : Tether := {}
  splice  : Splice := {}
  wh      : Whistle := {}
  slots   : Tab WaitSlot := []
  safeSlots : Tab WaitSlot := []
  /-- GTIME in ns (R682), held beside the clock because steps and rates change it. -/
  gtime   : Nat := 0
  /-- What the device has sent, newest first. -/
  out     : List Output := []
  /-- The commands waiting, first in, first out. -/
  pending : List Instr := []
  deriving DecidableEq, Repr

/-- The machine after reset: no supply, every register at the value the spec gives for reset, nothing stored, nothing sent,
no command waiting (log entry 1). -/
def State.reset : State := {}

end Sys2Proof.Machine
end

