-- ==== Sys2Proof/Machine/Ops.lean ====
section
/-! DEFINITION. The named operations over the state: time, outputs, free values, registers, object dictionary entries, memory
bytes and interrupt messages. Every meaning goes through them. -/

namespace Sys2Proof.Machine

/-! ### Time, outputs, free values -/

/-- Append an output. -/
def emit (o : Output) (s : State) : State := { s with out := o :: s.out }

/-- What GTIME counts in `d` ns of the model clock under the rate correction in force (R684). -/
def gtimeRun (s : State) (d : Nat) : Nat := ((d : Int) + (d : Int) * s.net.rate / 1000000).toNat

/-- Let time pass until the model clock reads at least `t`; GTIME passes with it (R682, log entry 2). -/
def advanceTo (t : Nat) (s : State) : State :=
  { s with now := max s.now t, gtime := (s.gtime + gtimeRun s (max s.now t - s.now)) % 2 ^ 64 }

/-- Let GTIME reach a value, when it lies ahead. -/
def gtimeReach (g : Nat) (s : State) : State :=
  let t := advanceTo (s.now + (g - s.gtime)) s
  { t with gtime := if s.gtime < g ∧ t.gtime < g then g else t.gtime }

/-- GTIME as it is read and stamped: it resolves 8 ns (R682). -/
def gnow (s : State) : Nat := s.gtime / 8 * 8

/-- One idle nanosecond: what a step on an empty queue does (log entry 2). -/
def tick (s : State) : State := { s with now := s.now + 1, gtime := (s.gtime + 1) % 2 ^ 64 }

/-- The next free value (log entry 3). -/
def freeValue (s : State) : Nat := (Config.freeWord s.free).toNat

/-- Count a free value as taken. -/
def takeFree (s : State) : State := { s with free := s.free + 1 }

/-- Bytes of a per-device constant. -/
def deviceBytes (kind n : Nat) : List Byte := (List.range n).map (Config.deviceByte kind)

/-- Milliseconds, microseconds and seconds in ns. -/
def ms (n : Nat) : Nat := n * 1000000

/-- Microseconds in ns. -/
def us (n : Nat) : Nat := n * 1000

/-! ### Device state -/

/-- The state code of R15. -/
def devCode : Dev → Nat
  | .off => 0 | .coldStart => 1 | .warmStart => 2 | .operational => 3
  | .brace => 4 | .safeHold => 5 | .restart => 6 | .failed => 7

/-- OPERATIONAL or BRACE. -/
def isRunning (s : State) : Bool := s.dev = .operational || s.dev = .brace

/-- OPERATIONAL, BRACE or SAFE_HOLD: the states in which the blocks work (R62, R187, R696). -/
def isUp (s : State) : Bool := s.dev = .operational || s.dev = .brace || s.dev = .safeHold

/-- COLD_START or WARM_START. -/
def isStarting (s : State) : Bool := s.dev = .coldStart || s.dev = .warmStart

/-- Blocks are out of reset: not in OFF, RESTART or FAILED. -/
def blocksOn (s : State) : Bool := isUp s || isStarting s

/-! ### Registers -/

/-- Base addresses of the register blocks with their codes (R33). -/
def blockBases : List (Nat × Nat) :=
  [(0x10000000, 0x01), (0x10100000, 0x02), (0x10200000, 0x03), (0x10300000, 0x04), (0x10400000, 0x05),
   (0x11000000, 0x10), (0x12000000, 0x11), (0x13000000, 0x12), (0x14000000, 0x20), (0x14800000, 0x21),
   (0x15000000, 0x22), (0x16000000, 0x30), (0x16400000, 0x31), (0x16800000, 0x32), (0x17000000, 0x33),
   (0x17800000, 0x34), (0x18000000, 0x40), (0x18400000, 0x41), (0x19000000, 0x50), (0x1A000000, 0x51)]

/-- Base of the register page of Pack instance `n` (R34). -/
def instPage (n : Nat) : Nat := 0x12000000 + n * 0x10000

/-- The block, or Pack instance page, that an address of the register space lies in: its base. -/
def blockOf (addr : Nat) : Option Nat :=
  if 0x12000000 ≤ addr ∧ addr < 0x13000000 then some (instPage ((addr - 0x12000000) / 0x10000))
  else if addr < 0x10000000 ∨ 0x1B000000 ≤ addr then none
  else (blockBases.filter (fun p => p.1 ≤ addr)).getLast?.map Prod.fst

/-- The block code of a block base (R33). -/
def blockCode (base : Nat) : Nat :=
  if 0x12000000 ≤ base ∧ base < 0x13000000 then 0x11
  else ((blockBases.find? (fun p => p.1 = base)).map Prod.snd).getD 0

/-- Where in a register row an address falls: the address of its register. -/
def rowElem (r : RegRow) (addr : Nat) : Option Nat :=
  if Nat.blt addr r.base then none else
  let d := addr - r.base
  let i := if Nat.beq r.n1 1 then 0 else d / r.s1
  if Nat.ble r.n1 i then none else
  let e := d - i * r.s1
  let j := if Nat.beq r.n2 1 then 0 else e / r.s2
  if Nat.ble r.n2 j then none else
  let f := e - j * r.s2
  if Nat.blt f (bif r.wide then 8 else 4) then some (addr - f) else none

/-- The row of the common header of a block at offset `off` (R41). -/
def headerRow (base off : Nat) : Option RegRow :=
  if off < 4 then some { base := base, ro := 0xFFFFFF,
                         reset := blockCode base * 0x10000 + (if 0x12000000 ≤ base ∧ base < 0x13000000 then (base - 0x12000000) / 0x10000 else 0) }
  else if off < 8 then some { base := base + 4, w1c := 7, snap := true }
  else if off < 12 then some { base := base + 8, ro := 0xFFFFFFFF }
  else none

/-- The register that an address lies in, with the register's own address. -/
def regAt (addr : Nat) : Option (RegRow × Nat) :=
  match blockOf addr with
  | none => none
  | some b => match headerRow b (addr - b) with
    | some r => some (r, r.base)
    | none => firstSome (fun r => (rowElem r addr).map (fun a => (r, a))) (regRowsOf b)

/-- The snapshot copy that an address is: bank and address of the copied register word (R843). -/
def snapAt (addr : Nat) : Option (Nat × Nat) :=
  match blockOf addr with
  | none => none
  | some b =>
    let o := addr - b
    let cand : Option (Nat × Nat) :=
      if 0x12000000 ≤ b ∧ b < 0x13000000 then
        (if 0x6000 ≤ o ∧ o < 0xB000 then some (0, addr - 0x6000)
         else if 0xB000 ≤ o ∧ o < 0x10000 then some (1, addr - 0xB000) else none)
      else if 0x80000 ≤ o ∧ o < 0xC0000 then some (0, addr - 0x80000)
      else if 0xC0000 ≤ o ∧ o < 0x100000 then some (1, addr - 0xC0000) else none
    match cand with
    | none => none
    | some (k, a) => match regAt a with
      | some (r, _) => if r.snap then some (k, a) else none
      | none => none

/-- What a register reads as before anything was written to it: its reset value. -/
def regDflt (addr : Nat) : Word :=
  match regAt addr with
  | some (r, a) => if a = addr then BitVec.ofNat 64 r.reset else 0
  | none => 0

/-- The stored content of the register at an address. -/
def regRaw (s : State) (addr : Nat) : Nat := (tabGet regDflt s.regs addr).toNat

/-- Store a register's content. -/
def regPut (addr v : Nat) (s : State) : State := { s with regs := tabSet regDflt s.regs addr (BitVec.ofNat 64 v) }

/-- Change a register's stored content. -/
def regUpd (addr : Nat) (f : Nat → Nat) (s : State) : State := regPut addr (f (regRaw s addr)) s

/-- Set bits of a register. -/
def regSetBits (addr mask : Nat) (s : State) : State := regUpd addr (fun v => v ||| mask) s

/-- Add to a 32-bit counter register that saturates. -/
def regCount (addr n : Nat) (s : State) : State := regUpd addr (fun v => satAdd v n 0xFFFFFFFF) s

/-- Count in a 64-bit register, modulo 2^64. -/
def regCount64 (addr n : Nat) (s : State) : State := regUpd addr (fun v => (v + n) % 2 ^ 64) s

/-! ### Object dictionary -/

/-- The key of an entry. -/
def odKey (idx sub : Nat) : Nat := idx * 256 + sub

/-- The row that describes an entry. -/
def odRow (k : Nat) : Option OdRow :=
  (odRowsOf (k / 0x10000)).find? (fun r =>
    Nat.ble r.idx (k / 256) && Nat.blt (k / 256) (r.idx + r.n) && Nat.ble r.s0 (k % 256) && Nat.ble (k % 256) r.s1)

/-- The default of a numeric entry; per-device entries come from the device (log entry 11). -/
def odDflt (k : Nat) : Nat :=
  if k = odKey 0x1018 4 then beNat (deviceBytes 5 4)
  else if k = odKey 0x2002 1 then beNat (deviceBytes 6 6)
  else if odKey 0x2E01 4 ≤ k ∧ k < odKey 0x2E0B 4 ∧ k % 256 = 4 then beNat (deviceBytes (7 + (k / 256 - 0x2E01)) 6)
  else match odRow k with
    | some r => r.dflt
    | none => 0

/-- The default of a string or octet entry: names (R5), the eDP and DSI timing record (R627, log entry 18), the rule enable
mask (R720), the root-key hashes and the attestation key. -/
def odBlobDflt (k : Nat) : List Byte :=
  if k = odKey 0x1008 0 then ascii "OMK-7264"
  else if k = odKey 0x1009 0 then ascii "B0"
  else if k = odKey 0x3400 2 then deviceBytes 0 48
  else if k = odKey 0x3400 3 then deviceBytes 1 48
  else if k = odKey 0x3400 8 then deviceBytes 3 97
  else if k = odKey 0x2F10 3 then List.replicate 512 0xFF
  else if k % 256 = 5 ∧ 0x2C40 ≤ k / 256 ∧ k / 256 < 0x2C44 then
    leBytes 4 148500 ++ leBytes 2 1920 ++ leBytes 2 88 ++ leBytes 2 44 ++ leBytes 2 148 ++
    leBytes 2 1080 ++ leBytes 2 4 ++ leBytes 2 5 ++ leBytes 2 36 ++ [3, 0, 0, 0]
  else match odRow k with
    | some r => match r.typ with
      | .oct n => zeros n
      | _ => []
    | none => []

/-- The stored live value of a numeric entry. -/
def odGet (s : State) (k : Nat) : Nat := tabGet odDflt s.od k

/-- The value a block uses: for a start-applied entry the value in force since the latest start (R93). -/
def odUse (s : State) (k : Nat) : Nat :=
  match odRow k with
  | some r => if r.start then tabGet odDflt s.odStart k else odGet s k
  | none => odGet s k

/-- Store the live value of a numeric entry. -/
def odPut (k v : Nat) (s : State) : State := { s with od := tabSet odDflt s.od k v }

/-- The bytes of a string or DOMAIN entry. -/
def blobGet (s : State) (k : Nat) : List Byte := tabGet odBlobDflt s.odBlob k

/-- Store the bytes of a string or DOMAIN entry; a change moves its change counter (R132). -/
def blobPut (k : Nat) (v : List Byte) (s : State) : State :=
  { s with odBlob := tabSet odBlobDflt s.odBlob k v,
           odChange := if blobGet s k = v then s.odChange else tabUpd (fun _ => 0) s.odChange k (fun n => (n + 1) % 2 ^ 32) }

/-- The largest value of a numeric type, where its counters saturate. -/
def odCap (k : Nat) : Nat :=
  match odRow k with
  | some r => match r.typ with
    | .bool => 1 | .u8 | .i8 => 0xFF | .u16 | .i16 => 0xFFFF | .u32 => 0xFFFFFFFF | _ => 2 ^ 64 - 1
  | none => 2 ^ 64 - 1

/-- Count events in an entry, saturating at its type's largest value (log entry 19). -/
def odCount (k n : Nat) (s : State) : State := odPut k (satAdd (odGet s k) n (odCap k)) s

/-- Raise an entry that holds a maximum. -/
def odMax (k v : Nat) (s : State) : State := odPut k (min (max (odGet s k) v) (odCap k)) s

/-! ### Memory bytes -/

/-- What a byte of memory that nothing has written reads as (log entry 9). -/
def memDflt (_ : Nat) : Byte := 0

/-- The byte at an address. -/
def memByte (s : State) (a : Nat) : Byte := tabGet memDflt s.mem a

/-- The bytes at `a` to `a + n - 1`. -/
def memBytes (s : State) (a : Nat) : Nat → List Byte
  | 0 => []
  | n + 1 => memByte s a :: memBytes s (a + 1) n

/-- The cells of a byte list placed at `a` upward; bytes that an unlisted address reads as are left out. -/
def memCells (a : Nat) : List Byte → Tab Byte
  | [] => []
  | b :: t => if b = memDflt a then memCells (a + 1) t else (a, b) :: memCells (a + 1) t

/-- Memory with the bytes of a list written at `a` upward. -/
def memWrite (m : Tab Byte) (a : Nat) (l : List Byte) : Tab Byte :=
  m.filter (fun p => decide (p.1 < a)) ++ memCells a l ++ m.filter (fun p => decide (a + l.length ≤ p.1))

/-- Write bytes at `a` upward. -/
def memPut (a : Nat) (l : List Byte) (s : State) : State := { s with mem := memWrite s.mem a l }

/-- The canonical form of the memory. -/
def Memory.wf (m : Tab Byte) : Bool := tabWf memDflt m

/-- The little-endian number in `n` bytes of memory. -/
def memLe (s : State) (a n : Nat) : Nat := leNat (memBytes s a n)

/-! ### Interrupt messages (R656 to R661) -/

/-- Address of MSG_ROUTE_s. -/
def routeAddr (src : Nat) : Nat := 0x18010000 + 8 * src

/-- Address of SAFE_ROUTE_e. -/
def safeRouteAddr (e : Nat) : Nat := 0x18020000 + 8 * e

/-- The hart that a route names: in the safety router a checker of a joined pair stands for its main core (R661). -/
def routeHart (s : State) (safety : Bool) (h : Nat) : Nat := if safety && !bit s.lock.split (h / 2) then h / 2 * 2 else h

/-- Deliver one event of a route entry, or leave it PENDING while the entry is disabled (R657, R658). -/
def routeEvent (safety : Bool) (addr : Nat) (s : State) : State :=
  let v := regRaw s addr
  if bit v 63 then emit (.message safety (routeHart s safety (bits v 43 40)) (bits v 47 44) (bits v 10 0)) s
  else regPut addr (putBit v 62 true) s

/-- One event of a safety source. -/
def safeMsg (e : Nat) (s : State) : State := routeEvent true (safeRouteAddr e) s

/-- The taps that copy a main source: entries 64 to 255 of the safety router whose TAP names it (R661; reset value 0). -/
def tapsOf (s : State) (src : Nat) : List Nat :=
  ((List.range 192).map (· + 64)).filter
    (fun e => decide (bits (tabGet (fun _ => 0) s.regs (safeRouteAddr e)).toNat 59 48 = src))

/-- One event of a main message source, copied by every tap that names it. -/
def sendMsg (src : Nat) (s : State) : State :=
  (tapsOf s src).foldl (fun t e => safeMsg e t) (routeEvent false (routeAddr src) s)

/-! ### Device state changes -/

/-- Drive the safety pins, and report the levels that changed. Once the CLK_AON monitor has tripped, all three stay low until the
next start (R183). -/
def setPins (f a b : Bool) (s : State) : State :=
  let on := !s.sdg.clkTripped
  if s.sdg.faultN = (f && on) ∧ s.sdg.aliveA = (a && on) ∧ s.sdg.aliveB = (b && on) then s else
  emit (.pins (f && on) (a && on) (b && on))
    { s with sdg := { s.sdg with faultN := f && on, aliveA := a && on, aliveB := b && on } }

/-- The device states in which FAULT_N is high and the ALIVE pins toggle (R180, R182). -/
def devUp (d : Dev) : Bool := d = .operational || d = .brace

/-- Change the device state and drive the pins as the new one asks (R181, R182). -/
def driveDev (d : Dev) (s : State) : State :=
  setPins (devUp d) (devUp d && s.sdg.aliveA) (devUp d && s.sdg.aliveB) { s with dev := d }

/-- Enter a device state: drive the pins, record the time (R17) and send the state-change messages (R660, R661). FAILED is left only
by removing VDD_AON (R20). -/
def setDev (d : Dev) (s : State) : State :=
  if s.dev = d ∨ s.dev = .failed then s else
  safeMsg 0 (sendMsg 1811 (odPut (odKey 0x2000 2) (gnow s) (driveDev d s)))

/-- Requesters of the application cluster (R655). -/
def isApp (req : Nat) : Bool := decide (req < 12)

/-- Requesters of the safety cluster (R655). -/
def isSafety (req : Nat) : Bool := decide (16 ≤ req ∧ req < 24)

end Sys2Proof.Machine
end

