-- ==== Sys2Proof/Machine/PackCore.lean ====
section
/-! DEFINITION. The Pack's queues and commands as data: lookup, stopping a running command at its tile boundary, settling a
stop once its started tiles have committed (R366 to R371). -/

namespace Sys2Proof.Machine

/-- Queue `q` of instance `n`. -/
def getQ (s : State) (n q : Nat) : Queue := tabGet (fun _ => {}) s.pack.queues (n * 256 + q)

/-- Replace a queue. -/
def putQ (n q : Nat) (v : Queue) (s : State) : State :=
  { s with pack := { s.pack with queues := tabSet (fun _ => {}) s.pack.queues (n * 256 + q) v } }

/-- Instance `n`. -/
def getInst (s : State) (n : Nat) : Inst := tabGet (fun _ => {}) s.pack.insts n

/-- Replace an instance. -/
def putInst (n : Nat) (v : Inst) (s : State) : State :=
  { s with pack := { s.pack with insts := tabSet (fun _ => {}) s.pack.insts n v } }

/-- Every queue of the Pack through a function; queues left at their default stay unlisted. -/
def mapQueues (f : Nat → Queue → Queue) (s : State) : State :=
  { s with pack := { s.pack with queues :=
      (s.pack.queues.map (fun p => (p.1, f p.1 p.2))).filter (fun p => decide (p.2 ≠ {})) } }

/-- A command that runs: it has started and its status is not decided. -/
def cmdRunning (c : Cmd) : Bool := c.started && decide (c.status = none)

/-- What becomes of a stopped command once no started tile is left: it ends with its status, or waits at its resume token
with a PREEMPTED completion where one is due (R366 to R368, R371). Also the queue state it leaves. -/
def settleCmd (c : Cmd) : Cmd × Option Nat :=
  if c.run ≠ [] then (c, none) else
  match c.stop with
  | none => (c, none)
  | some .silent => ({ c with stop := none, started := false, disp := c.done }, none)
  | some (.ends st) => ({ c with stop := none, status := some st }, none)
  | some .preempt =>
    ({ c with stop := none, started := false, disp := c.done,
              report := if bit (leAt c.desc 1 1) 7 then some c.done else none }, some 3)
  | some .stop => ({ c with stop := none, started := false, disp := c.done, report := some c.done }, some 4)

/-- Ask a running command to stop. -/
def stopCmd (now : Nat) (r : StopReason) (c : Cmd) : Cmd :=
  if cmdRunning c then { c with stop := some r, stopAt := now } else c

/-- Settle every command of a queue. -/
def settleQueue (q : Queue) : Queue :=
  let rs := q.cmds.map settleCmd
  { q with cmds := rs.map Prod.fst, state := ((rs.filterMap Prod.snd).head?).getD q.state }

/-- Stop the running commands of a queue for a reason and settle those without a started tile. -/
def stopQueue (now : Nat) (r : StopReason) (q : Queue) : Queue :=
  settleQueue { q with cmds := q.cmds.map (stopCmd now r) }

/-- Entry to SAFE_HOLD: every running command stops and completes with SAFE_HOLD (R371). -/
def packSafeHold (s : State) : State := mapQueues (fun _ q => stopQueue s.now (.ends 0x0C) q) s

/-- A Brace checkpoint is requested of every queue with a running command (R212, R325). -/
def packCheckpoint (s : State) : State :=
  mapQueues (fun _ q => { q with brace := q.brace || q.cmds.any cmdRunning }) s

end Sys2Proof.Machine
end

