-- ==== Sys2Proof/Machine/Alarm.lean ====
section
/-! DEFINITION. Sheepdog's shared operations: freeze-frame triggers, the SafetyStatus frame, alarms and their reactions, entry to
SAFE_HOLD (04, 20). -/

namespace Sys2Proof.Machine

/-! ### Freeze-frame triggers (R833 to R837, R852) -/

/-- A free bank: bank 0 when both are free (R837). -/
def frzFreeBank (s : State) : Option Nat :=
  if bit s.frz.full 0 = false then some 0 else if bit s.frz.full 1 = false then some 1 else none

/-- A trigger of source `src` at the present GTIME with the given target: it joins the pending capture, begins a capture, or is
dropped and counted. -/
def frzAccept (src target : Nat) (s : State) : State :=
  match s.frz.pending with
  | some c => { s with frz := { s.frz with pending := some { c with sources := c.sources ||| 2 ^ src } } }
  | none => match frzFreeBank s with
    | some b => odCount (odKey 0x2300 6) 1
        { s with frz := { s.frz with pending := some { target := target, sources := 2 ^ src, bank := b } } }
    | none => odCount (odKey 0x2300 7) 1 (regCount 0x10200088 1
        { s with frz := { s.frz with dropSources := s.frz.dropSources ||| 2 ^ src } })

/-- Whether a trigger source is accepted: FRZ runs, and a maskable source is enabled (R833, R852). -/
def frzOpen (src : Nat) (s : State) : Bool :=
  s.frz.on && (!(src = 0 || src = 1 || src = 5) || bit (odGet s (odKey 0x2300 2)) src)

/-- A trigger of source `src`, whose target is 2,000 ns ahead (R834). -/
def frzTrigger (src : Nat) (s : State) : State :=
  if frzOpen src s then frzAccept src ((gnow s) + 2000) s else s

/-! ### The SafetyStatus message (R185 to R190) -/

/-- The controller that carries SafetyStatus. -/
def ssCtrl (s : State) : Nat := odUse s (odKey 0x2200 8)

/-- A CAN controller. -/
def getCan (s : State) (c : Nat) : CanCtl := tabGet (fun _ => {}) s.can c

/-- Replace a CAN controller. -/
def putCan (c : Nat) (v : CanCtl) (s : State) : State := { s with can := tabSet (fun _ => {}) s.can c v }

/-- Error-active or error-passive: the controller takes part in the bus. -/
def canRunning (s : State) (c : Nat) : Bool := (getCan s c).state = 1 || (getCan s c).state = 2

/-- A Whistle STOP frame ended within the last 200 ms. -/
def stopRequested (s : State) : Bool :=
  match s.sdg.stopAt with
  | some t => decide (s.now ≤ t + ms 200)
  | none => false

/-- Bytes 0 to 6 of SafetyStatus (R188). -/
def ssBody (s : State) : List Byte :=
  [BitVec.ofNat 8 (devCode s.dev),
   BitVec.ofNat 8 (b2n (!s.sdg.faultN) + 2 * b2n (decide (s.dev = .brace)) + 4 * b2n s.net.unsync + 8 * b2n (stopRequested s) +
     16 * b2n (decide (s.wh.lost ≠ 0)) + 32 * b2n s.sdg.masked + 64 * b2n s.sdg.ackLow),
   BitVec.ofNat 8 s.sdg.firstAlarm, BitVec.ofNat 8 s.sdg.lastAlarm, BitVec.ofNat 8 s.sdg.firstClass,
   BitVec.ofNat 8 s.sdg.ssCounter, 0]

/-- The SafetyStatus frame of the present moment (R185, R188). -/
def ssFrame (s : State) : CanFrame :=
  let id := odUse s (odKey 0x2200 9)
  { ident := bits id 28 0, ide := bit id 29, fdf := false, brs := false, esi := false, rtr := false,
    data := ssBody s ++ [crc8 (beBytes 2 (odUse s (odKey 0x2200 0x0B)) ++ ssBody s)] }

/-- Start the transmission of a SafetyStatus frame. -/
def ssStart (s : State) : State :=
  emit (.canStart (ssCtrl s) (ssFrame s))
    { s with sdg := { s.sdg with ssFlight := some (ssFrame s), ssLast := s.now, ssBound := none } }

/-- A SafetyStatus frame is asked for with a bound: it starts at once when the controller is free, and stays asked for
otherwise (R187, R190). -/
def ssRequest (bound : Nat) (s : State) : State :=
  if (isUp s || s.dev = .restart) && !s.sdg.clkStopped then
    (if canRunning s (ssCtrl s) && s.sdg.ssFlight.isNone && (s.dev = .restart || (getCan s (ssCtrl s)).flight.isNone) then ssStart s
     else { s with sdg := { s.sdg with ssBound := some (match s.sdg.ssBound with | some b => min b (s.now + bound) | none => s.now + bound) } })
  else s

/-- A SafetyStatus frame in flight is lost and asked for again, until `t`. -/
def ssAgain (t : Nat) (s : State) : State := { s with sdg := { s.sdg with ssFlight := none, ssBound := some t } }

/-- The next latent-fault test is due at `t`. -/
def setLatentNext (t : Nat) (s : State) : State := { s with sdg := { s.sdg with latentNext := t } }

/-! ### SAFE_HOLD (R170, R175) -/

/-- A BRACE ends: its length enters 0x2100:08. -/
def endBrace (s : State) : State :=
  match s.pwr.braceAt with
  | some t => odMax (odKey 0x2100 8) ((s.now - t) / 1000) { s with pwr := { s.pwr with braceAt := none } }
  | none => s

/-- Enter SAFE_HOLD, with or without a restart to follow the acknowledgement. -/
def enterSafeHold (restart : Bool) (s : State) : State :=
  ssRequest (ms 2) (packSafeHold (setDev .safeHold (endBrace
    { s with sdg := { s.sdg with restartPending := restart, holdAt := some s.now, ackFall := none, ackMissed := false } })))

/-! ### Alarms (R165 to R174, R99) -/

/-- The class in force of an alarm (0x2201). -/
def alarmClass (s : State) (n : Nat) : Nat := odUse s (odKey 0x2201 n)

/-- The emergency error code of a class (R165). -/
def emergencyCode (cls : Nat) : Nat :=
  match cls with
  | 0 => 0xFF00 | 1 => 0x5010 | 2 => 0x5020 | 3 => 0x3000 | 4 => 0x9000 | 5 => 0x6000 | 6 => 0x8000 | _ => 0xFF10

/-- The alarms of R166. -/
def alarmNumbers : List Nat :=
  [0x10, 0x11, 0x12, 0x13, 0x14, 0x20, 0x30, 0x31, 0x32, 0x33, 0x34, 0x35, 0x40, 0x41, 0x42, 0x43, 0x44, 0x50, 0x51,
   0x60, 0x61, 0x62, 0x70, 0x71, 0x72, 0x73, 0x74, 0x75, 0x76, 0x77, 0x78, 0x79, 0x7A, 0x7B, 0x7C, 0x7D, 0x7E, 0x7F,
   0x80, 0x81, 0x90, 0x91, 0x92, 0x93, 0x94, 0x95, 0x96, 0x97, 0x98, 0xA0, 0xA1, 0xA2]

/-- The distinct alarms of a list, ascending (R889). -/
def alarmSort (l : List Nat) : List Nat := alarmNumbers.filter (fun n => l.contains n)

/-- One entry of the error history: newest at 0x1003:01, the oldest of eight is lost (R99). -/
def historyPush (v : Nat) (s : State) : State :=
  let old := (List.range 7).map (fun i => odGet s (odKey 0x1003 (i + 1)))
  let s := odPut (odKey 0x1003 0) (min 8 (odGet s (odKey 0x1003 0) + 1)) (odPut (odKey 0x1003 1) v s)
  (List.zip (List.range 7) old).foldl (fun t p => odPut (odKey 0x1003 (p.1 + 2)) p.2 t) s

/-- Record one alarm: error history, ALARM_MAP, counts, latest alarm (R99, R168, R201). -/
def alarmRecord (n : Nat) (s : State) : State :=
  let s := odCount (odKey 0x2200 0x0E) 1 (historyPush (n * 0x10000 + emergencyCode (alarmClass s n)) s)
  { s with sdg := { s.sdg with alarmMap := s.sdg.alarmMap ||| 2 ^ n, lastAlarm := n } }

/-- The first safety alarm of the mission (R173). -/
def alarmFirst (n : Nat) (s : State) : State :=
  if s.sdg.firstAlarm ≠ 0 then s else
  odPut (odKey 0x2200 0x10) (gnow s) (odPut (odKey 0x2200 0x0F) (alarmClass s n * 256 + n)
    { s with sdg := { s.sdg with firstAlarm := n, firstClass := alarmClass s n } })

/-- Whether a safety alarm's reaction is SAFE_HOLD: its class says so, or it is SDG_SELF (R167). -/
def reactsHold (s : State) (n : Nat) : Bool := n = 0xA2 || odUse s (odKey 0x2200 (alarmClass s n)) = 1

/-- The reaction to the safety alarms of one cycle (R170, R173, R174). -/
def alarmReact (safety : List Nat) (s : State) : State :=
  let hold := safety.any (reactsHold s)
  if isRunning s then enterSafeHold (!hold) { s with start := { s.start with cause := if hold then s.start.cause else 5 } }
  else if s.dev = .safeHold then
    ssRequest (ms 2) (if hold then { s with sdg := { s.sdg with restartPending := false } } else s)
  else s

/-- The alarms detected in one CLK_SDG cycle (R168, R173, R889); in OFF and FAILED none is raised (R22), and none while CLK_SDG
stands (log entry 24). -/
def raiseAll (ns : List Nat) (s : State) : State :=
  if s.dev = .off || s.dev = .failed || s.sdg.clkStopped then s else
  let l := alarmSort ns
  let safety := l.filter (fun n => decide (alarmClass s n ≠ 0))
  let s := l.foldl (fun t n => alarmRecord n t) s
  match safety with
  | [] => s
  | n :: _ => alarmReact safety (frzTrigger 2 (alarmFirst n s))

/-- One alarm. -/
def raiseAlarm (n : Nat) (s : State) : State := raiseAll [n] s

/-- A fault was masked: record it in the always-on domain and for the mission (R163). -/
def maskedFault (s : State) : State :=
  { s with sdg := { s.sdg with masked := true }, start := { s.start with maskedRec := true } }

end Sys2Proof.Machine
end

