-- ==== Sys2Proof/Machine/Bridge.lean ====
section
/-! DEFINITION. What a fabric access through Splice waits for and ends: the Hawser lock and the bridge semaphores (18). A waiting
access is served when its wait ends (log entry 42). -/

namespace Sys2Proof.Machine

/-- The far master gets the bus, once it asks and no lock is held (R794). -/
def grantNow (s : State) : State :=
  if s.splice.farReq && !s.splice.granted && s.splice.lock.isNone then
    emit (.hawserGrant true) { s with splice := { s.splice with granted := true } }
  else s

/-- HW_LOCK_N goes high. -/
def lockRelease (s : State) : State :=
  if s.splice.lock.isNone then s else grantNow (emit (.hawserLock false) { s with splice := { s.splice with lock := none } })

/-- Release the semaphore of a granule. -/
def semRelease (gran : Nat) (s : State) : State :=
  { s with splice := { s.splice with sems := tabSet (fun _ => none) s.splice.sems gran none } }

/-- Count and announce an expiry (R784). -/
def expiryCount (s : State) : State := sendMsg 1794 (odCount (odKey 0x3200 0x0D) 1 s)

/-- The lock ends 10 µs after it was taken (R781). -/
def lockExpire (s : State) : State :=
  match s.splice.lock with
  | some l => expiryCount (lockRelease (advanceTo (l.at' + us 10) s))
  | none => s

/-- The semaphore of a granule. -/
def semOf (s : State) (gran : Nat) : Option Held := tabGet (fun _ => none) s.splice.sems gran

/-- The semaphore of a granule ends 10 µs after it was taken (R784). -/
def semExpire (gran : Nat) (s : State) : State :=
  match semOf s gran with
  | some h => expiryCount (semRelease gran (advanceTo (h.at' + us 10) s))
  | none => s

/-- Any other Splice access of a hart ends its lock and its semaphores (R781, R784). -/
def ownDrop (req : Nat) (s : State) : State :=
  let s := if s.splice.lock.any (fun l => l.req = req) then lockRelease s else s
  { s with splice := { s.splice with sems := s.splice.sems.filter (fun p => decide (p.2.map Held.req ≠ some req)) } }

/-- Wait while another hart holds the lock. -/
def lockWait (req : Nat) (s : State) : State := if s.splice.lock.any (fun l => decide (l.req ≠ req)) then lockExpire s else s

/-- Wait while another hart holds the semaphore of an address's granule. -/
def semWait (req addr : Nat) (s : State) : State :=
  if (semOf s (addr / 64)).any (fun h => decide (h.req ≠ req)) then semExpire (addr / 64) s else s

/-- A register access over the peripheral bus is a Splice access (R764, R783). -/
def bridgeEnter (req addr : Nat) (s : State) : State :=
  if 0x16800000 ≤ addr ∧ addr < 0x18000000 then semWait req addr (ownDrop req s) else s

/-- Computed registers of SPLICE (18, Registers). -/
def viewSplice (s : State) (a : Nat) : Option Nat :=
  let x := s.splice
  if a = 0x17000020 then
    some (b2n x.granted * 2 ^ 31 + b2n x.lock.isSome * 2 ^ 30 + b2n (isUp s && decide (Config.pcieLink ≠ 0)) * 2 ^ 29 +
      min 63 x.sems.length * 65536 + maskOf (x.lines.map Prod.fst))
  else if 0x17001000 ≤ a ∧ a < 0x17001400 then
    let p := tabGet (fun _ => ({} : Poll)) x.polls ((a - 0x17001000) / 16)
    some (match (a - 0x17001000) % 16 with
      | 0 => p.value
      | 4 => b2n p.hit * 2 ^ 31 + b2n p.err * 2 ^ 30 + p.count % 65536
      | _ => p.gtime)
  else none

end Sys2Proof.Machine
end

