-- ==== Sys2Proof/Machine/View.lean ====
section
/-! DEFINITION. Registers whose content is computed from the structured state (R40, R84): each is stored once, in its block's
structure, and read here. -/

namespace Sys2Proof.Machine

/-- SDG_STATUS (R200). -/
def viewSdgStatus (s : State) : Nat :=
  b2n (!s.sdg.ackLow) * 2 ^ 27 + b2n s.sdg.faultN * 2 ^ 26 + b2n s.sdg.aliveB * 2 ^ 25 + b2n s.sdg.aliveA * 2 ^ 24 +
  s.sdg.firstAlarm * 2 ^ 16 + s.sdg.lastAlarm * 256 + (if s.dev = .off then 1 else devCode s.dev)

/-- A software watchdog. -/
def getWdg (s : State) (n : Nat) : Wdg := tabGet (fun _ => {}) s.sdg.wdg n

/-- WDG_STATE_n (R200). -/
def viewWdg (s : State) (n : Nat) : Nat :=
  let w := getWdg s n
  b2n w.open' * 2 ^ 31 + b2n w.running * 2 ^ 30 + w.seq

/-- Record slots in use. -/
def frzSlotsUsed (s : State) : Nat := s.frz.records.length

/-- FRZ_STATUS (R853). -/
def viewFrzStatus (s : State) : Nat :=
  b2n s.frz.pending.isSome * 2 ^ 31 + s.frz.full * 2 ^ 24 + s.frz.dropSources * 2 ^ 16 + frzSlotsUsed s * 256 +
  (match s.frz.pending with | some c => c.bank | none => 0xFF)

/-- Registers of SDG, FRZ and PWR. -/
def viewSdg (s : State) (a : Nat) : Option Nat :=
  if a = 0x10100020 then some (viewSdgStatus s)
  else if 0x10100040 ≤ a ∧ a < 0x10100060 then some (bits s.sdg.alarmMap (8 * (a - 0x10100040) + 31) (8 * (a - 0x10100040)))
  else if 0x10100104 ≤ a ∧ a < 0x10100184 ∧ a % 8 = 4 then some (viewWdg s ((a - 0x10100104) / 8))
  else if a = 0x10200020 then some (viewFrzStatus s)
  else if a = 0x10200040 then some s.frz.target0
  else if a = 0x10200060 then some s.frz.target1
  else if a = 0x10200048 then some (if s.frz.info0 = 0 then 0xFF000000 else s.frz.info0)
  else if a = 0x10200068 then some (if s.frz.info1 = 0 then 0xFF000000 else s.frz.info1)
  else if a = 0x10300020 then
    some (b2n (decide (s.dev = .brace)) + 2 * b2n s.pwr.below + 4 * b2n (decide (0 < s.pwr.returnRun ∧ s.pwr.returnRun < 501)))
  else if a = 0x10300024 then some (s.pwr.minMv * 65536 + s.pwr.nowMv)
  else if a = 0x10300028 then some (s.pwr.railOver * 256 + (255 - (255 &&& (s.pwr.railUnder ||| s.pwr.railOver))))
  else if a = 0x10300034 then some (s.pwr.hotSensor * 65536 + ofSigned 16 s.pwr.hotTemp)
  else none

/-- Watchdogs bound to a core: bit w (R332). -/
def wdgBound (s : State) (core : Nat) : Nat :=
  maskOf ((List.range 16).filter (fun w => decide ((getWdg s w).unit = some core)))

/-- Registers of the lockstep pairs in SYS (R332). -/
def viewLock (s : State) (a : Nat) : Option Nat :=
  if a = 0x10000200 then some (s.lock.running * 256 + s.lock.bootSplit * 16 + s.lock.split)
  else if a = 0x10000208 then some ((match s.lock.handover with | some h => h.step | none => 0) * 256 + s.lock.result)
  else if 0x10000220 ≤ a ∧ a < 0x10000230 then
    let p := (a - 0x10000220) / 4
    some ((if bit s.lock.split p then wdgBound s (2 * p + 1) else 0) * 65536 + wdgBound s (2 * p))
  else none

/-- The patrol period in force, ns. -/
def patrolPeriod (s : State) : Nat := odUse s (odKey 0x2400 3) * 3600 * 1000000000

/-- The patrol is behind its pace (R264). -/
def patrolBehind (s : State) : Bool :=
  s.memCtl.patrolOn && !s.memCtl.passDone &&
  decide (s.memCtl.patrolPos * patrolPeriod s < min (s.now - s.memCtl.passAt) (patrolPeriod s) * 2 ^ 28)

/-- Registers of MEM (R296). -/
def viewMem (s : State) (a : Nat) : Option Nat :=
  if 0x10400020 ≤ a ∧ a < 0x10400030 then
    let d := tabGet (fun _ => 0xFF) s.memCtl.marked ((a - 0x10400020) / 4)
    some (b2n s.memCtl.selfRefresh * 2 ^ 15 + b2n s.memCtl.trained * 2 ^ 14 + (if d = 0xFF then 0 else 256 + d))
  else if a = 0x10400060 then
    some (bits (odGet s (odKey 0x2400 0x0D)) 15 0 * 65536 + 4 * b2n (patrolBehind s) + 2 * b2n s.memCtl.patrolStopped +
      b2n (s.memCtl.patrolOn && !s.memCtl.patrolStopped))
  else none

/-- Commands of an instance in flight. -/
def instInFlight (s : State) (n : Nat) : Nat :=
  ((s.pack.queues.filter (fun p => decide (p.1 / 256 = n))).map (fun p => p.2.cmds.length)).sum

/-- Commands in flight across the device (R348). -/
def packInFlight (s : State) : Nat := (s.pack.queues.map (fun p => p.2.cmds.length)).sum

/-- Engines running a tile, as a mask over 56 engines: MC 0 to 31, CT 32 to 47, VE 48 to 55. -/
def enginesBusy (s : State) : Nat :=
  maskOf ((s.pack.queues.flatMap (fun p => p.2.cmds)).flatMap (fun c => c.run.flatMap (fun t => t.engines)))

/-- Registers of PACK global (R384, R474). -/
def viewPack (s : State) (a : Nat) : Option Nat :=
  if a = 0x11000020 then some (packInFlight s)
  else if a = 0x11000024 then some (bits (enginesBusy s) 31 0)
  else if a = 0x11000028 then some (bits (enginesBusy s) 55 48)
  else if a = 0x11000050 then
    some (b2n s.pack.switch.isSome * 2 ^ 31 + b2n s.pack.scrub.isSome * 2 ^ 30 + s.pack.table * 65536 +
      bits (odGet s (odKey 0x2900 6)) 15 0)
  else none

/-- Key of an entry of Pack instance `n`. -/
def instKey (n sub : Nat) : Nat := odKey (0x3800 + n) sub

/-- Kind, and named instance, of an engine (R475); engine codes as in `Tile.engine`. -/
def engineKind (s : State) (e : Nat) : Nat × Option Nat :=
  let v := if e < 32 then odGet s (odKey 0x2802 (e + 1)) else if e < 48 then odGet s (odKey 0x2803 (e - 31))
    else odGet s (odKey 0x2804 (e - 47))
  (bits v 15 12, if bit v 8 then some (bits v 7 0) else none)

/-- Little-endian field of slot entry `i` of a Roster table (R463). -/
def slotField (t : List Byte) (i off len : Nat) : Nat := leAt t (64 + 32 * i + off) len

/-- The Roster table in force. -/
def rosterTable (s : State) : List Byte :=
  if s.pack.table = 1 then blobGet s (odKey 0x2900 1) else if s.pack.table = 2 then blobGet s (odKey 0x2900 2) else []

/-- Whether slot `i` of a table is an enabled instance slot. -/
def slotEnabled (t : List Byte) (i : Nat) : Bool := decide (i < leAt t 6 2) && decide (slotField t i 2 2 ≠ 0)

/-- Whether slot `i` grants engine `e`. -/
def slotGrants (t : List Byte) (i e : Nat) : Bool :=
  decide (slotField t i 4 1 = 0) &&
  (if e < 32 then bit (slotField t i 8 4) e else if e < 48 then bit (slotField t i 12 2) (e - 32)
   else bit (slotField t i 14 1) (e - 48))

/-- The instance that holds an engine now (R435, R436): its owner, the instance of an active slot that grants it, or its fill
instance. A shared engine is held by none. -/
def engineHolder (s : State) (e : Nat) : Option Nat :=
  if odGet s (odKey 0x2805 1) = 1 then some (odGet s (odKey 0x2805 2)) else
  match engineKind s e with
  | (1, some n) => some n
  | (2, fill) =>
    let t := rosterTable s
    match s.pack.active.find? (fun i => slotGrants t i e) with
    | some i => some (slotField t i 5 1)
    | none => fill
  | _ => none

/-- Whether an engine may run a tile of instance `n` now: it holds it, or the engine is shared and the instance has the
permission (R437). -/
def engineUsable (s : State) (n e : Nat) : Bool :=
  decide (engineHolder s e = some n) ||
  (decide (odGet s (odKey 0x2805 1) ≠ 1) && decide ((engineKind s e).1 = 3) && decide (odGet s (instKey n 0x27) = 1))

/-- Registers of a Pack instance page (R344, R474, R545). -/
def viewPage (s : State) (a : Nat) : Option Nat :=
  let n := (a - 0x12000000) / 0x10000
  let o := (a - 0x12000000) % 0x10000
  let i := getInst s n
  if o = 0x20 then some (i.gen * 65536 + i.cfgGen)
  else if o = 0x24 then some (odGet s (instKey n 0x20) * 256 + odGet s (instKey n 5) * 128 + i.state)
  else if o < 0x28 then none
  else if i.state = 0 then some 0
  else if o = 0x30 then some (odGet s (instKey n 3) * 65536 + odGet s (instKey n 4))
  else if o = 0x34 then some (1024 + n)
  else if o = 0x38 then some (instInFlight s n)
  else if o = 0x510 then some (maskOf ((List.range 32).filter (fun e => engineUsable s n e)))
  else if o = 0x514 then
    some (maskOf ((List.range 16).filter (fun e => engineUsable s n (e + 32))) * 65536 +
      maskOf ((List.range 8).filter (fun e => engineUsable s n (e + 48))))
  else if o = 0x518 then
    some (b2n (s.pack.active.any (fun k => decide (slotField (rosterTable s) k 4 1 = 0 ∧ slotField (rosterTable s) k 5 1 = n))) *
      2 ^ 31 + i.slot)
  else if 0x1000 ≤ o ∧ o < 0x5000 then
    let q := (o - 0x1000) / 0x40
    let f := (o - 0x1000) % 0x40
    if odGet s (instKey n 3) ≤ q then some 0 else
    let v := getQ s n q
    if f = 0x18 then some v.sqHead else if f = 0x1C then some v.cqTail
    else if f = 0x28 then some (v.last * 2 ^ 24 + (regRaw s a &&& 0x600) + v.state)
    else if f = 0x2C then some (match v.cmds with | c :: _ => c.done | [] => 0)
    else if f = 0x30 then some v.stale
    else none
  else none

/-- Registers of the clusters, SEC and KNOT (R671). -/
def viewCpu (s : State) (a : Nat) : Option Nat :=
  if a = 0x19000024 then some (b2n s.sec.twUp + 2 * b2n s.sec.twDown)
  else if 0x19000210 ≤ a ∧ a < 0x19000410 ∧ (a - 0x19000210) % 0x20 = 0 then
    let m := (a - 0x19000210) / 0x20
    some (b2n (bit s.sec.mboxBusy m) * 2 ^ 31 + tabGet (fun _ => 0) s.sec.mboxStat m)
  else if 0x18410000 ≤ a ∧ a < 0x18418000 then some (tabGet (fun _ => 0) s.knots ((a - 0x18410000) / 8))
  else if 0x18440000 ≤ a ∧ a < 0x18448000 ∧ a % 0x20 = 0x18 then
    let w := tabGet (fun _ => ({} : WaitSlot)) s.slots ((a - 0x18440000) / 0x20)
    some (w.status * 2 ^ 24 + b2n w.armed)
  else if 0x18450000 ≤ a ∧ a < 0x18450400 ∧ a % 0x20 = 0x18 then
    let w := tabGet (fun _ => ({} : WaitSlot)) s.safeSlots ((a - 0x18450000) / 0x20)
    some (w.status * 2 ^ 24 + b2n w.armed)
  else none

/-- TRUSTED_SRC of a message source: the mailboxes, and Pack instances whose tag is trusted (R656, log entry 20). -/
def trustedSource (s : State) (src : Nat) : Bool :=
  decide (1820 ≤ src ∧ src < 1836) ||
  (decide (1024 ≤ src ∧ src < 1280) && decide (odGet s (instKey (src - 1024) 5) = 1)) ||
  (decide (1280 ≤ src ∧ src < 1312) && decide (odGet s (odKey (0x2C20 + (src - 1280)) 2) = 1)) ||
  (decide (src < 1024) && s.pack.insts.any (fun p =>
    decide (odGet s (instKey p.1 4) ≤ src ∧ src < odGet s (instKey p.1 4) + odGet s (instKey p.1 3)) &&
    decide (odGet s (instKey p.1 5) = 1)))

end Sys2Proof.Machine
end

