-- ==== Sys2Proof/Machine/ViewCim.lean ====
section
/-! DEFINITION. Engine assignment (R438, R472), CIM tiles and macros by number, and the registers of CIM (R430 to R432). -/

namespace Sys2Proof.Machine

/-- Whether an enabled slot of the table in force grants engine `e` to instance `n`. -/
def grantedTo (s : State) (n e : Nat) : Bool :=
  let t := rosterTable s
  (List.range (leAt t 6 2)).any (fun i => slotEnabled t i && slotGrants t i e && decide (slotField t i 5 1 = n))

/-- Whether an engine is assigned to an instance (R438, R472). -/
def assignedTo (s : State) (n e : Nat) : Bool :=
  if odGet s (odKey 0x2805 1) = 1 then decide (odGet s (odKey 0x2805 2) = n) else
  match engineKind s e with
  | (1, o) => decide (o = some n)
  | (2, f) => decide (f = some n) || grantedTo s n e
  | (3, _) => decide (odGet s (instKey n 0x27) = 1)
  | _ => false

/-- CIM tile `t`. -/
def getCt (s : State) (t : Nat) : CimTile := tabGet (fun _ => {}) s.cim.tiles t

/-- Replace a CIM tile. -/
def putCt (t : Nat) (v : CimTile) (s : State) : State :=
  { s with cim := { s.cim with tiles := tabSet (fun _ => {}) s.cim.tiles t v } }

/-- Macro `m` of tile `t`. -/
def getMacro (s : State) (t m : Nat) : Macro := tabGet (fun _ => {}) s.cim.macros (t * 64 + m)

/-- Replace a macro. -/
def putMacro (t m : Nat) (v : Macro) (s : State) : State :=
  { s with cim := { s.cim with macros := tabSet (fun _ => {}) s.cim.macros (t * 64 + m) v } }

/-- Tiles with CAL_OVERDUE (R414). -/
def overdueMask (s : State) : Nat :=
  maskOf ((List.range 16).filter (fun t => s.cim.macros.any (fun p => decide (p.1 / 64 = t) && p.2.overdue)))

/-- Whether an instance holds a tile's calibration (R412, R430). -/
def calHeld (s : State) (t : Nat) : Bool :=
  s.pack.insts.any (fun p => bit (regRaw s (instPage p.1 + 0x480)) t && assignedTo s p.1 (32 + t))

/-- Whether a macro of a tile is due. -/
def tileDue (s : State) (t : Nat) : Bool := s.cim.macros.any (fun p => decide (p.1 / 64 = t) && p.2.due.isSome)

/-- Whether a due macro of a tile is deferred by a hold: due, not overdue. -/
def calDeferred (s : State) (t : Nat) : Bool :=
  calHeld s t && s.cim.macros.any (fun p => decide (p.1 / 64 = t) && p.2.due.isSome && !p.2.overdue)

/-- Registers of the CIM block. -/
def viewCim (s : State) (a : Nat) : Option Nat :=
  if 0x13000020 ≤ a ∧ a < 0x13000060 then
    let t := (a - 0x13000020) / 4
    let c := getCt s t
    some (b2n (bit (overdueMask s) t) * 2 ^ 31 + b2n (calDeferred s t) * 2 ^ 30 + b2n c.cal.isSome * 2 ^ 29 +
      b2n c.writing.isSome * 2 ^ 28 +
      (match c.cal, c.writing with | some m, _ => m.1 | none, some m => m | _, _ => 0) * 65536 + ofSigned 16 c.temp)
  else if 0x13000100 ≤ a ∧ a < 0x13000180 then
    let t := (a - 0x13000100) / 8
    some (maskOf ((List.range 64).filter (fun m => !(getMacro s t m).ready)))
  else none

/-- CAL_HOLD and CAL_STATUS of an instance page (R430). -/
def viewCalPage (s : State) (a : Nat) : Option Nat :=
  if a < 0x12000000 ∨ 0x13000000 ≤ a then none else
  let n := (a - 0x12000000) / 0x10000
  let o := (a - 0x12000000) % 0x10000
  let own := maskOf ((List.range 16).filter (fun t => assignedTo s n (32 + t)))
  if (getInst s n).state = 0 then none
  else if o = 0x480 then some (regRaw s a &&& own)
  else if o = 0x484 then
    some ((overdueMask s &&& own) * 65536 + (maskOf ((List.range 16).filter (fun t => calDeferred s t)) &&& own))
  else none

/-- Bytes of the pages that an instance's sequences hold. -/
def kennelUse (s : State) (n : Nat) : Nat :=
  ((s.kennel.seqs.filter (fun p => decide (p.2.inst = n))).map (fun p => (p.2.pages.map (fun g => 4096 * 2 ^ g.code)).sum)).sum

/-- KENNEL_USE of an instance page (11, Registers). -/
def viewKennel (s : State) (a : Nat) : Option Nat :=
  if a < 0x12000000 ∨ 0x13000000 ≤ a ∨ (a - 0x12000000) % 0x10000 ≠ 0x638 then none
  else some (kennelUse s ((a - 0x12000000) / 0x10000) / 4096)

end Sys2Proof.Machine
end

