-- ==== Sys2Proof/Machine/ViewGfx.lean ====
section
/-! DEFINITION. Raster queues and display pipes by number, and their computed registers (14, Registers). -/

namespace Sys2Proof.Machine

/-- Raster queue `q`. -/
def getGq (s : State) (q : Nat) : GfxQueue := tabGet (fun _ => {}) s.gfx.queues q

/-- Replace a Raster queue. -/
def putGq (q : Nat) (v : GfxQueue) (s : State) : State :=
  { s with gfx := { s.gfx with queues := tabSet (fun _ => {}) s.gfx.queues q v } }

/-- Address of a register of Raster queue `q`. -/
def gReg (q off : Nat) : Nat := 0x14010000 + 0x1000 * q + off

/-- Key of an entry of Raster queue `q`. -/
def gKey (q sub : Nat) : Nat := odKey (0x2C20 + q) sub

/-- Priority of a queue (R602). -/
def gPrio (s : State) (q : Nat) : Nat := odGet s (gKey q 1)

/-- Bytes of the partition of a priority (R598, R625). -/
def partitionBytes (s : State) (p : Nat) : Nat :=
  (if p < 3 then odUse s (odKey 0x2C00 (3 + p))
   else odUse s (odKey 0x2C00 2) * 4 - (odUse s (odKey 0x2C00 3) + odUse s (odKey 0x2C00 4) + odUse s (odKey 0x2C00 5))) * 0x40000

/-- Bytes in use in the partition of a priority. -/
def partitionUse (s : State) (p : Nat) : Nat :=
  ((s.gfx.queues.filter (fun x => decide (gPrio s x.1 = p))).map (fun x => (x.2.subs.map (fun b => b.binned)).sum)).sum

/-- GFX_STATUS; a running submission holds all eight cores (R602). -/
def viewGfxStatus (s : State) : Nat :=
  match s.gfx.run with
  | none => 0xFF000000
  | some q => q * 2 ^ 24 + min 255 (partitionUse s (gPrio s q) * 256 / max 1 (partitionBytes s (gPrio s q))) * 65536 + 255

/-- Display pipe `p`. -/
def getPipe (s : State) (p : Nat) : Pipe := tabGet (fun _ => {}) s.pipes p

/-- Replace a display pipe. -/
def putPipe (p : Nat) (v : Pipe) (s : State) : State := { s with pipes := tabSet (fun _ => {}) s.pipes p v }

/-- Key of an entry of pipe `p`. -/
def pKey (p sub : Nat) : Nat := odKey (0x2C40 + p) sub

/-- Address of a register of pipe `p`. -/
def pReg (p off : Nat) : Nat := 0x14801000 + 0x200 * p + off

/-- Address of a register of the overlay block of pipe `p`. -/
def oReg (p off : Nat) : Nat := 0x14802000 + 0x400 * p + off

/-- A timing record (R609). -/
structure Timing where
  khz : Nat
  h   : List Nat
  v   : List Nat
  pol : Nat
  pad : Nat
  deriving DecidableEq, Repr

/-- The timing record of a pipe. -/
def timingOf (l : List Byte) : Timing :=
  { khz := leAt l 0 4, h := (List.range 4).map (fun i => leAt l (4 + 2 * i) 2), v := (List.range 4).map (fun i => leAt l (12 + 2 * i) 2),
    pol := leAt l 20 1, pad := leAt l 21 3 }

/-- The timing of pipe `p`. -/
def pTiming (s : State) (p : Nat) : Timing := timingOf (blobGet s (pKey p 5))

/-- Active pixels of a line, and active lines. -/
def hActive (t : Timing) : Nat := t.h.headD 0

/-- Active lines. -/
def vActive (t : Timing) : Nat := t.v.headD 0

/-- Whether a pipe is between its frame start and the end of its vertical blanking (R610). -/
def inVblank (s : State) (p : Nat) : Bool :=
  let t := pTiming s p
  match (getPipe s p).frameAt with
  | some a => decide (s.now < a + (t.v.sum - vActive t) * t.h.sum * 1000000 / max 1 t.khz)
  | none => false

/-- Registers of GFX and DISP. -/
def viewGfx (s : State) (a : Nat) : Option Nat :=
  if a = 0x14000020 then some (viewGfxStatus s)
  else if 0x14010000 ≤ a ∧ a < 0x14030000 then
    let q := (a - 0x14010000) / 0x1000
    let o := (a - 0x14010000) % 0x1000
    let v := getGq s q
    if o = 0x20 then some v.sqHead else if o = 0x24 then some v.cqTail
    else if o = 0x30 then
      some (v.last * 2 ^ 24 + (regRaw s a &&& 0x600) + (if v.state = 2 ∧ s.gfx.run ≠ some q then 3 else v.state))
    else none
  else if 0x14801000 ≤ a ∧ a < 0x14801800 ∧ (a - 0x14801000) % 0x200 = 0 then
    let p := (a - 0x14801000) / 0x200
    let v := getPipe s p
    some (b2n v.on * 2 ^ 31 + b2n (v.on && Config.linkUp p) * 2 ^ 30 + b2n (inVblank s p) * 2 ^ 29 + min 0xFFFF (odGet s (pKey p 0x0C)))
  else if 0x14802000 ≤ a ∧ a < 0x14803000 ∧ (a - 0x14802000) % 0x400 = 0x104 then
    some (putBits (regRaw s a) 23 16 (min 255 (getPipe s ((a - 0x14802000) / 0x400)).stale))
  else none

end Sys2Proof.Machine
end

