-- ==== Sys2Proof/Machine/ViewNet.lean ====
section
/-! DEFINITION. Computed registers of NET and CAN (16, Registers). -/

namespace Sys2Proof.Machine

/-- Key of an entry of controller `c`. -/
def canKey (c sub : Nat) : Nat := odKey (0x2F01 + c) sub

/-- Registers of NET and CAN; every counter saturates. -/
def viewNet (s : State) (a : Nat) : Option Nat :=
  if 0x16000020 ≤ a ∧ a < 0x16000048 then
    some (b2n (bit s.net.link ((a - 0x16000020) / 4)) * 2 ^ 31 + regRaw s a % 65536)
  else if a = 0x16000060 then
    some (s.net.ptp * 2 ^ 30 + ofSigned 24 (max (-8388608) (min 8388607 s.net.offset)))
  else if 0x16801000 ≤ a ∧ a < 0x16804000 ∧ (a - 0x16801000) % 0x400 = 0 then
    let c := (a - 0x16801000) / 0x400
    let v := getCan s c
    some (v.state * 2 ^ 24 + min 255 v.rec' * 65536 + min 255 v.tec * 256 + min 255 (odGet s (canKey c 0x0A)))
  else none

end Sys2Proof.Machine
end

