-- ==== Sys2Proof/Machine/ViewTether.lean ====
section
/-! DEFINITION. Computed registers of TETHER (17, Registers). -/

namespace Sys2Proof.Machine

/-- Registers of TETHER. -/
def viewTether (s : State) (a : Nat) : Option Nat :=
  if a = 0x16400020 then
    some (b2n (decide (odUse s (odKey 0x3100 3) = 1)) * 2 ^ 31 + bits s.net.link 1 0 * 65536 + s.tether.cache.length)
  else if 0x16401000 ≤ a ∧ a < 0x16402000 then
    let v := tabGet (fun _ => ({} : TSq)) s.tether.sqs ((a - 0x16401000) / 0x40)
    let f := (a - 0x16401000) % 0x40
    if f = 0x18 then some v.sqHead else if f = 0x1C then some v.cqTail
    else if f = 0x28 then some (v.last * 2 ^ 24 + (regRaw s a &&& 0x600) + v.state)
    else none
  else none

end Sys2Proof.Machine
end

