-- ==== Sys2Proof/Machine/ViewWhistle.lean ====
section
/-! DEFINITION. Computed registers of WHISTLE (19, Registers). -/

namespace Sys2Proof.Machine

/-- Computed registers of WHISTLE. -/
def viewWhistle (s : State) (a : Nat) : Option Nat :=
  let w := s.wh
  let r : WhRec := w.fifo.headD { channel := 0, slot := 0, command := 0, body := 0, gtime := 0, counter := 0 }
  if a = 0x17800020 then
    some (maskOf ((List.range 8).filter (fun k => (tabGet (fun _ => ({} : Pendant)) w.pendants k).armed)) * 65536 + w.lost * 256 +
      w.flooded * 16)
  else if a = 0x17800040 then
    some (if w.fifo = [] then 0 else 2 ^ 31 + w.fifo.length * 65536 + r.command * 256 + r.slot * 16 + r.channel)
  else if a = 0x17800048 then some r.body
  else if a = 0x17800050 then some r.gtime
  else if a = 0x17800058 then some r.counter
  else none

end Sys2Proof.Machine
end

