-- ==== Sys2Proof/Machine/ViewAll.lean ====
section
/-! DEFINITION. What a read of any register returns: the computed views of the blocks over the stored content. -/

namespace Sys2Proof.Machine

/-- The content of the register at an address, as a read returns it. -/
def regLive (s : State) (a : Nat) : Nat :=
  match firstSome (fun f => f a) [viewSdg s, viewLock s, viewMem s, viewPack s, viewCim s, viewCalPage s, viewKennel s, viewGfx s, viewNet s, viewTether s, viewSplice s, viewWhistle s, viewPage s,
      viewCpu s] with
  | some v => v
  | none =>
    if 0x18010000 ≤ a ∧ a < 0x18018000 then
      putBit (regRaw s a) 61 (trustedSource s ((a - 0x18010000) / 8))
    else regRaw s a

end Sys2Proof.Machine
end

