-- ==== Sys2Proof/Machine/Access.lean ====
section
/-! DEFINITION. Register access: the address map, world filters, bad accesses, reads and writes by halves, the shared checked
read and write that every register command goes through (R30 to R51, R636 to R644, R884 to R887). -/

namespace Sys2Proof.Machine

/-! ### Address map (R30, R31) -/

/-- The ranges of the physical address space. -/
inductive Region where
  | rom | sram | landing | regs | hawser | pcie32 | pcie64 | dram
  deriving DecidableEq, Repr

/-- First and last address of each range. -/
def regions : List (Nat × Nat × Region) :=
  [(0x0, 0x3FFFF, .rom), (0x1000000, 0x4FFFFFF, .sram), (0x6000000, 0x603FFFF, .landing),
   (0x10000000, 0x1FFFFFFF, .regs), (0x20000000, 0x2FFFFFFF, .hawser), (0x30000000, 0x3FFFFFFF, .pcie32),
   (0x1000000000, 0x1FFFFFFFFF, .pcie64), (0x4000000000, 0x4FFFFFFFFF, .dram)]

/-- The range that holds all `len` bytes from an address; none when they do not lie in one range (R31). -/
def regionOf (addr len : Nat) : Option Region :=
  (regions.find? (fun r => decide (r.1 ≤ addr ∧ addr + len ≤ r.2.1 + 1))).map (fun r => r.2.2)

/-! ### Worlds and filters (R636, R639 to R643) -/

/-- An application core. -/
def getApp (s : State) (c : Nat) : AppCore := tabGet (fun _ => {}) s.apps c

/-- Replace an application core. -/
def putApp (c : Nat) (v : AppCore) (s : State) : State := { s with apps := tabSet (fun _ => {}) s.apps c v }

/-- One occurrence of an event of R635 on a core, unless its counters stand (R638). -/
def coreEvent (c ev : Nat) (s : State) : State :=
  let a := getApp s c
  if !isApp c || !a.released || (a.world && !a.tcount) then s
  else putApp c { a with events := tabUpd (fun _ => 0) a.events ev (fun n => n + 1) } s

/-- The world tag of an access: true for trusted (R636). -/
def tagOf (s : State) (req : Nat) (offered : Bool) : Bool :=
  if isApp req then (getApp s req).world
  else if isSafety req then true
  else if req = 0x29 || req = 0x2A || (0x40 ≤ req && req ≤ 0x45) then true
  else offered

/-- Requesters the filters do not check: MGMT, SEC, Sheepdog, FRZ, MEM (R643). -/
def filterExempt (req : Nat) : Bool := decide (0x40 ≤ req ∧ req ≤ 0x44)

/-- The enabled world-filter regions: low word and high word. -/
def filterRegions (s : State) : List (Nat × Nat) :=
  (s.regs.filter (fun p => decide (0x19001000 ≤ p.1 ∧ p.1 < 0x19002000 ∧ p.1 % 16 = 0) && bit p.2.toNat 63)).map
    (fun p => (p.2.toNat, (tabGet (fun _ => 0) s.regs (p.1 + 8)).toNat))

/-- Whether an enabled region that overlaps the range turns the request away (R640). -/
def regionDenies (req : Nat) (tag wr : Bool) (addr len : Nat) (f : Nat × Nat) : Bool :=
  let base := bits f.1 39 12 * 4096
  let last := bits f.2 39 12 * 4096 + 4095
  decide (base < addr + max len 1 ∧ addr ≤ last) &&
  (!bit f.2 (if tag then (if wr then 60 else 61) else (if wr then 62 else 63)) || (bit f.2 59 && !isSafety req))

/-- Whether the world filters admit a request with a given tag (R640, R643). -/
def filterAdmits (s : State) (req : Nat) (tag wr : Bool) (addr len : Nat) : Bool :=
  filterExempt req || !(filterRegions s).any (regionDenies req tag wr addr len)

/-- Latch an access in registers with the layout of R42, unless they hold one. -/
def latchAccess (addrReg infoReg : Nat) (req reason : Nat) (wr tag : Bool) (addr : Nat) (s : State) : State :=
  if bit (regRaw s infoReg) 31 then s
  else regPut addrReg addr (regPut infoReg (2 ^ 31 + req * 65536 + reason * 256 + b2n wr * 128 + b2n tag * 64) s)

/-- A request that the filters turn away: counted, and the first one latched (R641). -/
def filterDenied (req : Nat) (tag wr : Bool) (addr : Nat) (s : State) : State :=
  latchAccess 0x19000048 0x19000050 req 0 wr tag addr (odCount (odKey 0x3500 5) 1 (coreEvent req 0x4C04 s))

/-! ### Bad accesses (R36, R42 to R44) -/

/-- Log a bad access: block status, count, latch, alarm and error response. -/
def badAccess (acc : Access) (wr : Bool) (reason : Nat) (s : State) : State :=
  let tag := tagOf s acc.req acc.world
  let s := match blockOf acc.addr with
    | some b => regSetBits (b + 4) 4 s
    | none => s
  let s := odCount (odKey 0x2001 1) 1 (regCount 0x1000010C 1 s)
  let s := if bit (regRaw s 0x10000108) 31 then s else odPut (odKey 0x2001 3) acc.addr s
  emit (.errorResp acc.req acc.addr 0) (raiseAlarm 0x92 (latchAccess 0x10000100 0x10000108 acc.req reason wr tag acc.addr s))

/-- An access that is turned away with a status. -/
def accessRefused (acc : Access) (status : Nat) (s : State) : State := emit (.errorResp acc.req acc.addr status) s

/-! ### Where an access goes -/

/-- A register, or the snapshot copy of one. -/
inductive Loc where
  | reg (row : RegRow) (addr : Nat)
  | snap (row : RegRow) (bank addr : Nat)
  deriving DecidableEq, Repr

/-- The register or snapshot copy at an address. -/
def locate (addr : Nat) : Option Loc :=
  match regAt addr with
  | some (r, a) => some (.reg r a)
  | none => match snapAt addr with
    | some (b, x) => (regAt x).map (fun p => .snap p.1 b p.2)
    | none => none

/-- The address of a location's first word, for an access at `addr`. -/
def locBase (addr : Nat) : Loc → Nat
  | .reg _ a => a
  | .snap r _ a => if r.wide ∧ addr % 8 ≠ a % 8 then addr - 4 else addr

/-- Whether a location is a 64-bit register. -/
def locWide : Loc → Bool
  | .reg r _ => r.wide
  | .snap r _ _ => r.wide

/-- Whether a location is a register whose fields are all RO (R39, R843). -/
def locReadOnly : Loc → Bool
  | .reg r _ => decide (r.rw = 0 ∧ r.w1c = 0 ∧ r.w1s = 0 ∧ r.wo = 0)
  | .snap _ _ _ => true

/-- An offset from 0x28 of the page of a FREE Pack instance (R519). -/
def freePage (s : State) (addr : Nat) : Bool :=
  decide (0x12000000 ≤ addr ∧ addr < 0x13000000 ∧ 0x28 ≤ addr % 0x10000) &&
  decide ((getInst s ((addr - 0x12000000) / 0x10000)).state = 0)

/-- A register of a Pack queue that its instance does not have (R344). -/
def absentQueue (s : State) (addr : Nat) : Bool :=
  decide (0x12000000 ≤ addr ∧ addr < 0x13000000 ∧ 0x1000 ≤ addr % 0x10000 ∧ addr % 0x10000 < 0x5000) &&
  decide (odGet s (instKey ((addr - 0x12000000) / 0x10000) 3) ≤ (addr % 0x10000 - 0x1000) / 0x40)

/-- What a location holds. -/
def locValue (s : State) : Loc → Nat
  | .reg r a => (if freePage s a then 0 else regLive s a) &&& (r.rw ||| r.w1c ||| r.w1s ||| r.ro)
  | .snap _ b a => if freePage s a then 0 else (tabGet (fun _ => (0 : Word)) (if b = 0 then s.frz.bank0 else s.frz.bank1) a).toNat

/-! ### Knots as resources (R662, R663) -/

/-- Signaller and waiter of a knot. -/
def knotRoles (s : State) (k : Nat) : Nat × Nat :=
  let v := odGet s (odKey (0x3520 + k / 128) (k % 128 + 1))
  (v / 65536, v % 65536)

/-- The function code of a requester (R662). -/
def functionOf (s : State) (req : Nat) : Option Nat :=
  if isApp req then some (if (getApp s req).world then 0x105 else 0x104)
  else if isSafety req then some 0x106 else none

/-- Whether a knot is open to a function for signalling. -/
def knotSignals (s : State) (k : Nat) (f : Nat) : Bool := decide ((knotRoles s k).1 = f)

/-- Whether a knot is open to a function for waiting and reading. -/
def knotWaits (s : State) (k : Nat) (f : Nat) : Bool := decide ((knotRoles s k).2 = f ∨ (knotRoles s k).2 = 0xFFFE)

/-- Whether a register access is to a knot that is not open to its requester. -/
def knotClosed (s : State) (req a : Nat) : Bool :=
  if 0x18410000 ≤ a ∧ a < 0x18418000 then
    !((functionOf s req).any (knotWaits s ((a - 0x18410000) / 8)))
  else if 0x18420000 ≤ a ∧ a < 0x18428000 then
    !((functionOf s req).any (knotSignals s ((a - 0x18420000) / 8)))
  else false

/-! ### The checks of a register access, in their order (R885, R884, R886) -/

/-- The outcome of the checks. -/
inductive Check where
  | ok (l : Loc)
  /-- Turned away by the world filters. -/
  | filtered
  /-- BAD_ACCESS with this reason. -/
  | bad (reason : Nat)
  /-- An error response with this status. -/
  | refused (status : Nat)
  /-- Not an access to the register space. -/
  | other (r : Region)
  deriving DecidableEq, Repr

/-- The writer class of a location admits a requester (R886). -/
def writerOk (s : State) (acc : Access) : Loc → Bool
  | .reg r _ => match r.by' with
    | .any => true
    | .safety => isSafety acc.req
    | .trusted => tagOf s acc.req acc.world
  | .snap _ _ _ => true

/-- A FILTER register under FILTER_LOCK: read-only until the next start (R642). -/
def filterLocked (s : State) (a : Nat) : Bool := decide (0x19001000 ≤ a ∧ a < 0x19002000) && bit (regRaw s 0x19000040) 0

/-- The checks of an access to a register that exists. -/
def checkLoc (s : State) (acc : Access) (wr : Bool) (l : Loc) : Check :=
  if acc.bits < 32 then .bad 1
  else if acc.addr % 4 ≠ 0 ∨ (32 < acc.bits ∧ acc.addr % 8 ≠ 0) then .bad 2
  else if 64 < acc.bits ∨ (32 < acc.bits ∧ !locWide l) then .bad 3
  else if wr && (locReadOnly l || filterLocked s acc.addr) then .bad 5
  else if wr && (!writerOk s acc l || freePage s acc.addr || absentQueue s acc.addr) then .refused 3
  else if knotClosed s acc.req (locBase acc.addr l) then .refused 3
  else .ok l

/-- The checks of an access. -/
def checkAccess (s : State) (acc : Access) (wr : Bool) : Check :=
  if !filterAdmits s acc.req (tagOf s acc.req acc.world) wr acc.addr (acc.bits / 8) then .filtered
  else match regionOf acc.addr (acc.bits / 8) with
    | none => .bad 4
    | some .rom => if wr then .bad 6 else .other .rom
    | some .regs => match locate acc.addr with
      | none => .bad 4
      | some l => checkLoc s acc wr l
    | some r => .other r

/-- What a failed check does. -/
def checkFailed (acc : Access) (wr : Bool) (s : State) : Check → State
  | .filtered =>
    accessRefused acc 3 (filterDenied acc.req (tagOf s acc.req acc.world) wr acc.addr s)
  | .bad reason => badAccess acc wr reason s
  | .refused st => accessRefused acc st s
  | _ => s

/-! ### Reads (R45 to R49) -/

/-- The holding registers of a block. -/
def getHold (s : State) (b : Nat) : Hold := tabGet (fun _ => {}) s.hold b

/-- Replace the holding registers of a block. -/
def putHold (b : Nat) (h : Hold) (s : State) : State := { s with hold := tabSet (fun _ => {}) s.hold b h }

/-- A split access out of order: its status bit and the count of 0x2001:02. -/
def tornEvent (b bitNo : Nat) (s : State) : State := odCount (odKey 0x2001 2) 1 (regSetBits (b + 4) (2 ^ bitNo) s)

/-- Answer a read with `n` bytes. -/
def readAnswer (acc : Access) (n v : Nat) (s : State) : State := emit (.readData acc.req acc.addr (leBytes n v)) s

/-- A read of a register location that passed its checks. -/
def readLoc (acc : Access) (l : Loc) (s : State) : State :=
  let v := locValue s l
  let a := locBase acc.addr l
  let b := (blockOf a).getD 0
  if acc.bits = 64 then readAnswer acc 8 v s
  else if !locWide l then readAnswer acc 4 (v % 2 ^ 32) s
  else if acc.addr = a then
    readAnswer acc 4 (v % 2 ^ 32) (putHold b { getHold s b with rd := some (v / 2 ^ 32, acc.req, a) } s)
  else match (getHold s b).rd with
    | some (h, q, x) =>
      if q = acc.req ∧ x = a then readAnswer acc 4 h (putHold b { getHold s b with rd := none } s)
      else readAnswer acc 4 (v / 2 ^ 32) (tornEvent b 0 s)
    | none => readAnswer acc 4 (v / 2 ^ 32) (tornEvent b 0 s)

/-- A read access to the register space, or to the Boot ROM (R32). Accesses to memory are the rows of chapter 06 and 18. -/
def regRead (acc : Access) (s : State) : State :=
  if !blocksOn s then s else
  let s := bridgeEnter acc.req acc.addr s
  match checkAccess s acc false with
  | .ok l => readLoc acc l s
  | .other .rom => emit (.readData acc.req acc.addr ((List.range (acc.bits / 8)).map (fun i => Config.bootRom (acc.addr + i)))) s
  | c => checkFailed acc false s c

/-! ### Writes (R50, R51, R887) -/

/-- What a register's own effect answers: the write was taken (with its effect, or ignored by its block), or gets an error
response. -/
inductive WriteRes where
  | done (s : State)
  | denied (status : Nat) (s : State)
  deriving DecidableEq, Repr

/-- Bits of `a` outside a mask. -/
def clearMask (a m : Nat) : Nat := a ^^^ (a &&& m)

/-- A write applied by the access codes of the register's fields (R38, R39). -/
def maskedWrite (r : RegRow) (old v : Nat) : Nat :=
  clearMask (clearMask old r.rw ||| (v &&& r.rw)) (v &&& r.w1c) ||| (v &&& r.w1s)

/-- The effect of a write to a register without an effect of its own. -/
def genericWrite (a v : Nat) (s : State) : State :=
  match regAt a with
  | some (r, x) => regPut x (maskedWrite r (regRaw s x) v) s
  | none => s

/-- Carry out the effect of a committed write and answer it. Every write without an error response counts in WRITE_COUNT, one
that its block ignores included: R887 names the only kinds that do not count (log entry 21). -/
def commitWrite (eff : Nat → Nat → Access → State → WriteRes) (a v : Nat) (acc : Access) (s : State) : State :=
  match eff a v acc s with
  | .done t => emit (.writeOk acc.req acc.addr) (regUpd ((blockOf a).getD 0 + 8) (fun n => (n + 1) % 2 ^ 32) t)
  | .denied st t => accessRefused acc st t

/-- A write to a register location that passed its checks. -/
def writeLoc (eff : Nat → Nat → Access → State → WriteRes) (acc : Access) (v : Nat) (l : Loc) (s : State) : State :=
  let a := locBase acc.addr l
  let b := (blockOf a).getD 0
  if acc.bits = 64 then commitWrite eff a (v % 2 ^ 64) acc s
  else if !locWide l then commitWrite eff a (v % 2 ^ 32) acc s
  else if acc.addr = a then
    emit (.writeOk acc.req acc.addr) (putHold b { getHold s b with wr := some (v % 2 ^ 32, acc.req, a) } s)
  else match (getHold s b).wr with
    | some (lo, q, x) =>
      if q = acc.req ∧ x = a then
        commitWrite eff a (lo + v % 2 ^ 32 * 2 ^ 32) acc (putHold b { getHold s b with wr := none } s)
      else commitWrite eff a (regRaw s a % 2 ^ 32 + v % 2 ^ 32 * 2 ^ 32) acc (tornEvent b 1 s)
    | none => commitWrite eff a (regRaw s a % 2 ^ 32 + v % 2 ^ 32 * 2 ^ 32) acc (tornEvent b 1 s)

/-- A write access to the register space with the effects that `eff` gives. -/
def regWriteWith (eff : Nat → Nat → Access → State → WriteRes) (acc : Access) (v : Nat) (s : State) : State :=
  if !blocksOn s then s else
  let s := bridgeEnter acc.req acc.addr s
  match checkAccess s acc true with
  | .ok l => writeLoc eff acc v l s
  | c => checkFailed acc true s c

/-- The access of a command that writes one 32-bit register. -/
def atReg (acc : Access) (a : Nat) : Access := { acc with addr := a }

/-- The access of a command that writes one 64-bit register: whole, or the half it names. -/
def atWide (acc : Access) (a : Nat) : Access := { acc with addr := if acc.addr = a + 4 then a + 4 else a }

end Sys2Proof.Machine
end

