-- ==== Sys2Proof/Machine/Memory.lean ====
section
/-! DEFINITION. Coded memory: strands, decoding with errors, die marking, poison, SECDED, narrow writes, scrubbing, and the
commands of chapter 06. -/

namespace Sys2Proof.Machine

/-! ### Strands (R257, R258) -/

/-- The strand of a DRAM granule, by its index from 0x40_0000_0000. -/
def strandOf (s : State) (gran : Nat) : Nat :=
  let o := gran * 64
  let f := s.memCtl.fixed * 0x10000000
  let i := 4 * (0x400000000 - f)
  if o < i then bits o 13 12 else if f = 0 then 0 else (o - i) / f % 4

/-- The granule at strand-local granule index `l` of a strand. -/
def granOf (s : State) (strand l : Nat) : Nat :=
  let f := s.memCtl.fixed * 0x10000000
  let a := l * 64
  if a < 0x400000000 - f then (a / 4096 * 16384 + strand * 4096 + a % 4096) / 64
  else (4 * (0x400000000 - f) + strand * f + (a - (0x400000000 - f))) / 64

/-- Address of a granule. -/
def granAddr (gran : Nat) : Nat := 0x4000000000 + 64 * gran

/-- Whether a safety region of 0x2401 holds a byte of a granule (R298). -/
def inSafetyRegion (s : State) (gran : Nat) : Bool :=
  (List.range 16).any (fun n =>
    let v := odUse s (odKey 0x2401 (n + 1))
    bit v 63 && decide (bits v 51 32 * 1024 ≤ gran ∧ gran < (bits v 51 32 + bits v 19 0) * 1024))

/-! ### Sealed ranges (R238, R286) -/

/-- The written flag of every filled slot whose range a write of `len` bytes at `addr` touches. -/
def sealTouch (addr len : Nat) (s : State) : State :=
  { s with sec := { s.sec with slots := s.sec.slots.map (fun p =>
      if p.2.filled ∧ p.2.base < addr + len ∧ addr < p.2.base + p.2.size ∧ 0 < len then (p.1, { p.2 with written := true }) else p) } }

/-! ### Events -/

/-- A correction or an uncorrectable event sends a message (R660, log entry 22). -/
def memMsg (s : State) : State := sendMsg 1810 s

/-- One uncorrectable event: counts, address, message, alarm (R284, R288). -/
def uncorrEvent (addr : Nat) (alarm : Nat) (s : State) : State :=
  raiseAlarm alarm (memMsg (regPut 0x10400048 addr (odCount (odKey 0x2400 0x0A) 1 (regCount 0x10400040 1 s))))

/-- An uncorrectable event in a granule. -/
def dramEvent (gran : Nat) (s : State) : State :=
  uncorrEvent (granAddr gran) (if inSafetyRegion s gran then 0x30 else 0x34) s

/-! ### Granules (R268 to R274, R281, R282) -/

/-- The marked die of a strand, 0xFF for none. -/
def markOf (s : State) (strand : Nat) : Nat := tabGet (fun _ => 0xFF) s.memCtl.marked strand

/-- The symbol error stored at byte `k` of die `d` of a granule. -/
def symErr (s : State) (gran d k : Nat) : Byte := tabGet (fun _ => 0) s.memCtl.dramErr (gran * 80 + d * 8 + k)

/-- The wrong symbols of one codeword (`odd` false for A) of a granule: dies, one entry per symbol. -/
def badSyms (s : State) (gran : Nat) (odd : Bool) : List Nat :=
  (List.range 40).filterMap (fun i => if symErr s gran (i / 4) (2 * (i % 4) + b2n odd) ≠ 0 then some (i / 4) else none)

/-- Whether a codeword can be corrected: up to 4 wrong symbols, or up to 2 outside a marked die (R268, R272). More than these
are taken as detected (log entry 23). -/
def codewordOk (mark : Nat) (bad : List Nat) : Bool :=
  decide ((bad.filter (fun d => decide (d ≠ mark))).length ≤ if mark = 0xFF then 4 else 2)

/-- Forget the symbol errors, the pending write-back and the poison of a granule, as a write of all its bytes does. -/
def granClean (gran : Nat) (s : State) : State :=
  { s with memCtl := { s.memCtl with
      dramErr := s.memCtl.dramErr.filter (fun p => decide (p.1 / 80 ≠ gran)),
      scrubDue := s.memCtl.scrubDue.filter (fun g => decide (g ≠ gran)),
      poison := tabSet (fun _ => false) s.memCtl.poison gran false } }

/-- Write the poison word over a granule (R281, R286). -/
def granPoison (gran : Nat) (s : State) : State :=
  let s := sealTouch (granAddr gran) 64 (granClean gran s)
  let s := memPut (granAddr gran) (zeros 64) s
  { s with memCtl := { s.memCtl with poison := tabSet (fun _ => false) s.memCtl.poison gran true } }

/-- Whether the raw bytes of a granule match the poison word outside the marked die (R282). -/
def granPoisoned (s : State) (gran : Nat) : Bool :=
  tabGet (fun _ => false) s.memCtl.poison gran &&
  !((badSyms s gran false ++ badSyms s gran true).any (fun d => decide (d ≠ markOf s (strandOf s gran))))

/-- Mark a die (R270): 0x2400:05 to :08, DIE_FAILED, masked fault. -/
def markDie (strand d : Nat) (s : State) : State :=
  raiseAlarm 0x35 (maskedFault (odPut (odKey 0x2400 (5 + strand)) d
    { s with memCtl := { s.memCtl with marked := tabSet (fun _ => 0xFF) s.memCtl.marked strand d } }))

/-- Note a correction of die `d` in a granule: its corrections of the last second (R270). -/
def noteCorr (strand gran d : Nat) (s : State) : State :=
  { s with memCtl := { s.memCtl with corr := tabUpd (fun _ => []) s.memCtl.corr (strand * 16 + d) (fun l =>
      (gran, s.now) :: l.filter (fun p => decide (p.1 ≠ gran ∧ s.now < p.2 + ms 1000))) } }

/-- Whether a die meets a criterion of R270 after an access with these wrong symbols. -/
def dieMeets (s : State) (strand : Nat) (a b : List Nat) (d : Nat) : Bool :=
  decide (3 ≤ a.count d) || decide (3 ≤ b.count d) ||
  decide (16 ≤ (tabGet (fun _ => []) s.memCtl.corr (strand * 16 + d)).length)

/-- The die to mark: of those that meet a criterion, the one with more symbols corrected, the lower number on a tie (R271). -/
def dieToMark (s : State) (strand : Nat) (a b : List Nat) : Option Nat :=
  ((List.range 10).filter (fun d => (a ++ b).contains d && dieMeets s strand a b d)).foldl
    (fun r d => match r with
      | none => some d
      | some e => if (a ++ b).count e < (a ++ b).count d then some d else some e) none

/-- The corrections of a granule's decode: marking, counts, message, write-back due (R270, R276). -/
def granCorrect (gran : Nat) (a b : List Nat) (s : State) : State :=
  let st := strandOf s gran
  let s := if markOf s st = 0xFF then
      let s := (List.range 10).foldl (fun t d => if (a ++ b).contains d then noteCorr st gran d t else t) s
      match dieToMark s st a b with
      | some d => markDie st d s
      | none => s
    else s
  if (a ++ b).any (fun d => decide (d ≠ markOf s st)) then
    memMsg (odCount (odKey 0x2400 9) 1 (regCount (0x10400030 + 4 * st) 1
      { s with memCtl := { s.memCtl with scrubDue := gran :: s.memCtl.scrubDue.filter (fun g => decide (g ≠ gran)) } }))
  else s

/-- Read one granule; false when it is uncorrectable or poisoned. A scrub that finds a granule already poisoned counts
nothing (R284). -/
def granRead (scrub : Bool) (gran : Nat) (s : State) : State × Bool :=
  if granPoisoned s gran then (if scrub then s else dramEvent gran s, false) else
  let a := badSyms s gran false
  let b := badSyms s gran true
  let m := markOf s (strandOf s gran)
  if tabGet (fun _ => false) s.memCtl.poison gran || !codewordOk m a || !codewordOk m b then
    (dramEvent gran (granPoison gran s), false)
  else if a ++ b = [] then (s, true)
  else (granCorrect gran a b s, true)

/-- XOR an upset into a stored symbol. -/
def applyUpset (s : State) (u : DramUpset) : State :=
  { s with memCtl := { s.memCtl with
      dramErr := tabUpd (fun _ => 0) s.memCtl.dramErr (u.gran * 80 + u.die * 8 + u.byte) (fun e => e ^^^ u.xor) } }

/-! ### Shared SRAM and landing buffer (R287, R288, R295, R892) -/

/-- Flip an upset bit: of a shared-SRAM word, or of a landing-buffer byte, whose parity is then wrong. -/
def applySramUpset (s : State) (u : SramUpset) : State :=
  let a := 0x1000000 + 8 * u.word
  if a < 0x5000000 then
    { s with memCtl := { s.memCtl with sramErr := tabUpd (fun _ => 0) s.memCtl.sramErr u.word (fun m => m ^^^ 2 ^ u.bit) } }
  else
    { s with memCtl := { s.memCtl with parity := tabUpd (fun _ => false) s.memCtl.parity (a + u.bit % 8) (fun p => !p) } }

/-- Forget the flipped bits and the pending write-back of a word. -/
def wordClean (w : Nat) (s : State) : State :=
  { s with memCtl := { s.memCtl with sramErr := tabSet (fun _ => 0) s.memCtl.sramErr w 0,
                                     sramDue := s.memCtl.sramDue.filter (fun x => decide (x ≠ w)) } }

/-- One corrected word: count, message, write-back due. -/
def wordCorrect (w : Nat) (s : State) : State :=
  memMsg (regCount 0x10400064 1 { s with memCtl := { s.memCtl with
    sramDue := w :: s.memCtl.sramDue.filter (fun x => decide (x ≠ w)) } })

/-- Read one shared-SRAM word: the state, whether it is good, and the XOR of its data against what was written. For three or
more flipped bits the device's result is not defined: a free value decides among the three outcomes of R287. -/
def wordRead (w : Nat) (s : State) : State × Bool × Nat :=
  let m := tabGet (fun _ => 0) s.memCtl.sramErr w
  match (setBits 72 m).length with
  | 0 => (s, true, 0)
  | 1 => (wordCorrect w s, true, 0)
  | 2 => (uncorrEvent (0x1000000 + 8 * w) 0x31 s, false, 0)
  | _ =>
    let k := freeValue s % 3
    let s := takeFree s
    if k = 0 then (uncorrEvent (0x1000000 + 8 * w) 0x31 s, false, 0)
    else if k = 1 then
      let v := freeValue s
      let s := memPut (0x1000000 + 8 * w) (leBytes 8 v) (wordClean w (takeFree s))
      (memMsg (regCount 0x10400064 1 s), true, 0)
    else (s, true, m % 2 ^ 64)

/-! ### Reads and writes of a range -/

/-- Read every granule that a range of DRAM touches. -/
def dramTouch (scrub : Bool) (addr len : Nat) (s : State) : State × Bool :=
  let g0 := (addr - 0x4000000000) / 64
  let g1 := (addr + len - 1 - 0x4000000000) / 64
  (List.range (g1 + 1 - g0)).foldl (fun r i => let x := granRead scrub (g0 + i) r.1; (x.1, r.2 && x.2)) (s, true)

/-- Read every word that a range of shared SRAM touches; the data with the bytes as returned. -/
def sramTouch (addr len : Nat) (s : State) : State × Bool × List (Nat × Nat) :=
  let w0 := (addr - 0x1000000) / 8
  let w1 := (addr + len - 1 - 0x1000000) / 8
  (List.range (w1 + 1 - w0)).foldl
    (fun r i => let x := wordRead (w0 + i) r.1
                (x.1, r.2.1 && x.2.1, if x.2.2 = 0 then r.2.2 else (w0 + i, x.2.2) :: r.2.2)) (s, true, [])

/-- The bytes of a range with the XOR of undefined words applied. -/
def xorWords (addr : Nat) (x : List (Nat × Nat)) (l : List Byte) : List Byte :=
  if x = [] then l else
  (List.zip (List.range l.length) l).map (fun p =>
    let o := addr + p.1 - 0x1000000
    match x.find? (fun q => q.1 = o / 8) with
    | some q => p.2 ^^^ BitVec.ofNat 8 (q.2 / 2 ^ (8 * (o % 8)))
    | none => p.2)

/-- Read a range of memory: the state after decoding, and its bytes, or none when it gets UNCORRECTABLE (R283, R288, R295).
A range of no memory reads as none. -/
def readRange (addr len : Nat) (s : State) : State × Option (List Byte) :=
  if len = 0 then (s, some []) else
  match regionOf addr len with
  | some .dram => let r := dramTouch false addr len s
                  (r.1, if r.2 then some (memBytes r.1 addr len) else none)
  | some .sram => let r := sramTouch addr len s
                  (r.1, if r.2.1 then some (xorWords addr r.2.2 (memBytes r.1 addr len)) else none)
  | some .landing =>
    if (List.range len).any (fun i => tabGet (fun _ => false) s.memCtl.parity (addr + i)) then (regCount 0x1040006C 1 s, none)
    else (s, some (memBytes s addr len))
  | some .rom => (s, some ((List.range len).map (fun i => Config.bootRom (addr + i))))
  | _ => (s, none)

/-- Clear what a write of whole code words clears: errors, poison, pending write-backs, parity (R278, R285, R288). -/
def cleanRange (addr len : Nat) (s : State) : State :=
  match regionOf addr len with
  | some .dram =>
    (List.range (len / 64)).foldl (fun t i => granClean ((addr - 0x4000000000) / 64 + i) t) s
  | some .sram => (List.range (len / 8)).foldl (fun t i => wordClean ((addr - 0x1000000) / 8 + i) t) s
  | some .landing =>
    { s with memCtl := { s.memCtl with parity := s.memCtl.parity.filter (fun p => decide (p.1 < addr ∨ addr + len ≤ p.1)) } }
  | _ => s

/-- Write whole code words, or any bytes of the landing buffer, as every engine of the device does. -/
def writeRange (addr : Nat) (l : List Byte) (s : State) : State :=
  sealTouch addr l.length (memPut addr l (cleanRange addr l.length s))

/-- Whether a range touches a carve-out that only its owner may access: the KV pool (R481), the Tether area
(R727) or the bin memory (R597). -/
def carveDenied (s : State) (req addr len : Nat) : Bool :=
  let meets := fun (b n : Nat) => decide (b < addr + max len 1 ∧ addr < b + n)
  (decide (req ≠ 0x22) && meets (0x4000000000 + s.kennel.base * 0x200000) (s.kennel.size * 0x200000)) ||
  (decide (req ≠ 0x31) && meets (0x4000000000 + odUse s (odKey 0x3100 2) * 0x200000) 0x80000) ||
  (decide (req ≠ 0x28) && meets (0x1000000 + odUse s (odKey 0x2C00 1) * 0x100000) (odUse s (odKey 0x2C00 2) * 0x100000))

/-- Whether a requester of the device may reach a range of memory (DRAM, shared SRAM or landing buffer) with a tag. -/
def memoryOpen (s : State) (req : Nat) (tag wr : Bool) (addr len : Nat) : Bool :=
  (match regionOf addr len with | some .dram => true | some .sram => true | some .landing => true | _ => false) &&
  filterAdmits s req tag wr addr len && !carveDenied s req addr len

/-- Whether a write covers whole code words of its memory (R65); the landing buffer takes any. -/
def wholeWords (addr len : Nat) : Bool :=
  match regionOf addr len with
  | some .dram => decide (addr % 64 = 0 ∧ len % 64 = 0 ∧ 0 < len)
  | some .sram => decide (addr % 8 = 0 ∧ len % 8 = 0 ∧ 0 < len)
  | _ => true

/-- Write the enabled bytes of a landing-buffer write. -/
def landingWrite (addr : Nat) : List (Option Byte) → State → State
  | [], s => s
  | none :: t, s => landingWrite (addr + 1) t s
  | some b :: t, s => landingWrite (addr + 1) t (writeRange addr [b] s)

/-- A posted narrow write is dropped: counted, the first address latched (R67, R294). -/
def narrowDrop (req addr : Nat) (s : State) : State :=
  let s := if odGet s (odKey 0x2400 0x0B) = 0 then odPut (odKey 0x2400 0x0C) addr s else s
  let s := odCount (odKey 0x2400 0x0B) 1 (regCount 0x10400050 1 s)
  if bit (regRaw s 0x10400054) 31 then s else regPut 0x10400058 addr (regPut 0x10400054 (2 ^ 31 + req * 65536) s)

/-- A write that reached its memory: `none` when it is done, the status of its error otherwise. -/
def memoryWrite (req : Nat) (posted : Bool) (addr : Nat) (l : List (Option Byte)) (s : State) : State × Option Nat :=
  match regionOf addr l.length with
  | some .landing => (landingWrite addr l s, none)
  | _ =>
    if wholeWords addr l.length ∧ l.all Option.isSome then (writeRange addr (l.filterMap id) s, none)
    else if posted then (narrowDrop req addr s, some 2) else (s, some 2)

/-! ### The commands of chapter 06 -/

/-- The status of a failed memory access. -/
def answerRead (acc : Access) (r : State × Option (List Byte)) : State :=
  match r.2 with
  | some l => emit (.readData acc.req acc.addr l) r.1
  | none => accessRefused acc 9 r.1

/-- The checks before an access to memory, then `f`; `bits` counts the access's bytes. -/
def memoryAccess (acc : Access) (wr : Bool) (len : Nat) (f : State → State) (s : State) : State :=
  if !blocksOn s then s else
  if !filterAdmits s acc.req (tagOf s acc.req acc.world) wr acc.addr len then checkFailed acc wr s .filtered
  else match regionOf acc.addr len with
    | none => badAccess acc wr 4 s
    | some .rom => if wr then badAccess acc wr 6 s else f s
    | _ => if carveDenied s acc.req acc.addr len then accessRefused acc 3 s else f s

/-- A cache or TCM error met by a core's access: the state, and whether the access still completes (R631 to R633). -/
def cacheError (acc : Access) (fault : CacheFault) (dirty : Bool) (s : State) : State × Bool :=
  match fault with
  | .safetyParity => (raiseAlarm 0x33 (odCount (odKey 0x3500 4) 1 s), false)
  | .l2Single => (odCount (odKey 0x3500 3) 1 (coreEvent acc.req 0x4C02 s), true)
  | _ =>
    if !dirty then (odCount (odKey 0x3500 3) 1 (coreEvent acc.req 0x4C02 s), true)
    else if 0x4000000000 ≤ acc.addr then
      let g := (acc.addr - 0x4000000000) / 64
      (dramEvent g (granPoison g s), false)
    else
      let w := (acc.addr - 0x1000000) / 64 * 8
      let s := (List.range 8).foldl (fun t i =>
        { t with memCtl := { t.memCtl with sramErr := tabSet (fun _ => 0) t.memCtl.sramErr (w + i) 3 } }) s
      (uncorrEvent (0x1000000 + 8 * w) 0x31 s, false)

/-- DRAM_READ (R268 to R286, R631 to R633). -/
def execDramRead (acc : Access) (len : Nat) (upsets : List DramUpset) (cache : Option (CacheFault × Bool)) (s : State) :
    Host.Outcome State Fault Refusal :=
  .next (memoryAccess acc false len (fun s =>
    let s := upsets.foldl applyUpset s
    match cache with
    | none => answerRead acc (readRange acc.addr len s)
    | some c => let r := cacheError acc c.1 c.2 s
                if r.2 then answerRead acc (readRange acc.addr len r.1)
                else emit (.coreTrap acc.req) (accessRefused acc 9 r.1)) s)

/-- SRAM_READ (R287, R288, R295). -/
def execSramRead (acc : Access) (len : Nat) (upsets : List SramUpset) (s : State) : Host.Outcome State Fault Refusal :=
  .next (memoryAccess acc false len (fun s => answerRead acc (readRange acc.addr len (upsets.foldl applySramUpset s))) s)

/-- CODED_WRITE (R65 to R69, R285, R288, R294). -/
def execCodedWrite (acc : Access) (posted : Bool) (bytes : List (Option Byte)) (s : State) : Host.Outcome State Fault Refusal :=
  .next (memoryAccess acc true bytes.length (fun s =>
    match memoryWrite acc.req posted acc.addr bytes s with
    | (s, none) => emit (.writeOk acc.req acc.addr) s
    | (s, some st) => if posted then s else accessRefused acc st s) s)

/-- DEMAND_SCRUB (R276, R278, R892): the write-back of a corrected granule or word, if it is still due. -/
def execDemandScrub (addr : Nat) (s : State) : Host.Outcome State Fault Refusal :=
  .next (if !blocksOn s then s
    else if 0x4000000000 ≤ addr then
      let g := (addr - 0x4000000000) / 64
      if s.memCtl.scrubDue.contains g then granClean g s else s
    else
      let w := (addr - 0x1000000) / 8
      if s.memCtl.sramDue.contains w then wordClean w s else s)

/-- Whether the patrol runs now (R280). -/
def patrolRuns (s : State) : Bool :=
  (s.dev = .operational || s.dev = .safeHold) && s.memCtl.patrolOn && !s.memCtl.patrolStopped && !s.memCtl.passDone

/-- What the patrol does with a Pack-buffer word with `n` symbol errors (R277, R289, R892); beyond the code the result is not
defined. -/
def packBufWord (n : Nat) (s : State) : State :=
  let bad := fun s => raiseAlarm 0x32 (memMsg (odCount (odKey 0x2400 0x0A) 1 (regCount 0x10400040 1 s)))
  let good := fun s => memMsg (regCount 0x10400068 1 s)
  if n = 0 then s else if n = 1 then good s else if n ≤ 3 then bad s
  else
    let k := freeValue s % 3
    let s := takeFree s
    if k = 0 then bad s else if k = 1 then good s else s

/-- PATROL_SCRUB (R277, R280): granule `patrolPos` of every strand, and at the same fraction of the pass the words of shared
SRAM and of the Pack buffers. -/
def execPatrolScrub (upsets : List DramUpset) (sramUpsets : List SramUpset) (packSymbols : Nat) (s : State) :
    Host.Outcome State Fault Refusal :=
  .next (let s := sramUpsets.foldl applySramUpset (upsets.foldl applyUpset s)
    if !patrolRuns s then s else
    let p := s.memCtl.patrolPos
    let s := advanceTo (s.memCtl.passAt + (p + 1) * patrolPeriod s / 2 ^ 28) s
    let s := (List.range 4).foldl (fun t st => (granRead true (granOf t st p) t).1) s
    let s := if p % 32 = 0 then packBufWord packSymbols (wordRead (p / 32) s).1 else s
    if p + 1 = 2 ^ 28 then
      odCount (odKey 0x2400 0x0D) 1 { s with memCtl := { s.memCtl with patrolPos := 0, passDone := true } }
    else { s with memCtl := { s.memCtl with patrolPos := p + 1 } })

/-- PATROL_PASS_START (R277): one period after the previous pass began, or at its end if that is later. -/
def execPatrolPassStart (s : State) : Host.Outcome State Fault Refusal :=
  .next (if isUp s && s.memCtl.patrolOn && s.memCtl.passDone then
      let s := advanceTo (s.memCtl.passAt + patrolPeriod s) s
      { s with memCtl := { s.memCtl with passDone := false, passAt := s.now } }
    else s)

end Sys2Proof.Machine
end

