-- ==== Sys2Proof/Machine/Knots.lean ====
section
/-! DEFINITION. Knots: counters, signals, wait slots, and the commands on them (R662 to R671). -/

namespace Sys2Proof.Machine

/-- The counter of a knot. -/
def knotValue (s : State) (k : Nat) : Nat := tabGet (fun _ => 0) s.knots k

/-- A wait slot, of the main router or of the safety cluster. -/
def getSlot (safety : Bool) (s : State) (w : Nat) : WaitSlot :=
  tabGet (fun _ => {}) (if safety then s.safeSlots else s.slots) w

/-- Replace a wait slot. -/
def putSlot (safety : Bool) (w : Nat) (v : WaitSlot) (s : State) : State :=
  if safety then { s with safeSlots := tabSet (fun _ => {}) s.safeSlots w v }
  else { s with slots := tabSet (fun _ => {}) s.slots w v }

/-- A wait slot completes with a status and sends its message (R660, R661, R669). -/
def slotComplete (safety : Bool) (w status : Nat) (s : State) : State :=
  let s := putSlot safety w { getSlot safety s w with armed := false, until' := none, status := status } s
  if safety then safeMsg (32 + w) s else sendMsg (1872 + w) s

/-- The armed slots of a table that wait on a knot. -/
def slotsOn (t : Tab WaitSlot) (k : Nat) : List (Nat × WaitSlot) :=
  t.filter (fun p => p.2.armed && decide (p.2.knot = k))

/-- Complete every armed slot whose threshold its knot has reached (R665, R669). -/
def slotsReached (k : Nat) (s : State) : State :=
  let go := fun safety (t : State) =>
    (slotsOn (if safety then t.safeSlots else t.slots) k).foldl
      (fun u p => if p.2.thresh ≤ knotValue u k then slotComplete safety p.1 0 u else u) t
  go true (go false s)

/-- A signal of a value to a knot: the counter takes it when it is greater (R664). -/
def knotRaise (k v : Nat) (s : State) : State :=
  if knotValue s k < v then slotsReached k { s with knots := tabSet (fun _ => 0) s.knots k v } else s

/-- KNOT_SIGNAL_k: a register signal; one that does not raise the counter sets BACKWARD (R664). -/
def knotWriteEff (a v : Nat) (s : State) : WriteRes :=
  let k := (a - 0x18420000) / 8
  if knotValue s k < v then .done (knotRaise k v s) else .done (regSetBits 0x18400020 1 s)

/-- Whether a knot is open to the arming side of a wait slot. -/
def armOpen (safety : Bool) (s : State) (acc : Access) (k : Nat) : Bool :=
  knotWaits s k (if safety then 0x106 else if tagOf s acc.req acc.world then 0x105 else 0x104)

/-- A write of 1 to ARM (R669): TIMEOUT 0 tests once, 0xFFFF_FFFF never expires. -/
def armEff (safety : Bool) (w v : Nat) (acc : Access) (s : State) : WriteRes :=
  let base := (if safety then 0x18450000 else 0x18440000) + 0x20 * w
  let x := getSlot safety s w
  if v % 2 = 0 ∨ x.armed then .done s else
  let k := regRaw s base
  let lim := regRaw s (base + 0x10)
  let x := { x with knot := k, thresh := regRaw s (base + 8) }
  if !armOpen safety s acc k then .done (slotComplete safety w 3 (putSlot safety w x s))
  else if x.thresh ≤ knotValue s k then .done (slotComplete safety w 0 (putSlot safety w x s))
  else if lim = 0 then .done (odCount (odKey 0x3500 7) 1 (slotComplete safety w 0x0A (putSlot safety w x s)))
  else
    let by' := if lim = 0xFFFFFFFF then none else some (s.now + us lim)
    .done (putSlot safety w { x with armed := true, until' := by' } s)

/-- Revoke every wait slot on a knot (R666). -/
def slotsRevoke (k : Nat) (s : State) : State :=
  let go := fun safety (t : State) =>
    (slotsOn (if safety then t.safeSlots else t.slots) k).foldl (fun u p => slotComplete safety p.1 4 u) t
  go true (go false s)

/-- KNOT_SIGNAL_WRITE (R663, R664, R668). -/
def execKnotSignalWrite (knot : Fin 4096) (acc : Access) (value : Word) (s : State) : Host.Outcome State Fault Refusal :=
  .next (regWriteWith (fun a v _ t => knotWriteEff a v t) (atWide acc (0x18420000 + 8 * knot.val)) value.toNat s)

/-- WAIT_ARM (R669): the safety slots are 0 to 31, and no register lies beyond them. -/
def execWaitArm (safety : Bool) (slot : Fin 1024) (acc : Access) (value : Word) (s : State) :
    Host.Outcome State Fault Refusal :=
  let w := slot.val
  .next (regWriteWith (fun _ v c t => armEff safety w v c t)
    (atReg acc ((if safety then 0x18450014 else 0x18440014) + 0x20 * w)) value.toNat s)

/-- WAIT_SLOT_TIMEOUT (R669 to R671): a slot whose threshold is reached completes with DONE instead. -/
def execWaitSlotTimeout (safety : Bool) (slot : Fin 1024) (s : State) : Host.Outcome State Fault Refusal :=
  let w := slot.val
  let x := getSlot safety s w
  .next (match x.until' with
    | some t =>
      if !x.armed || !blocksOn s then s
      else if x.thresh ≤ knotValue s x.knot then slotComplete safety w 0 (advanceTo t s)
      else odCount (odKey 0x3500 7) 1 (slotComplete safety w 0x0A (advanceTo t s))
    | none => s)

end Sys2Proof.Machine
end

