-- ==== Sys2Proof/Machine/PackMath.lean ====
section
/-! DEFINITION. The arithmetic of the engines (08, 09, 11): element types, exact products, FP32 sums rounded to nearest even, output
conversion, and the bit-serial CIM sums. Pure functions on numbers and byte strings. -/

namespace Sys2Proof.Machine

/-- A floating-point datum: m × 2^e with a sign, an infinity or NaN. -/
inductive Fp where
  | nan
  | inf (neg : Bool)
  | fin (neg : Bool) (m : Nat) (e : Int)
  deriving DecidableEq, Repr

/-! ### Rounding -/

/-- `m` shifted right by `k`, rounded to nearest, ties to even. -/
def shiftRne (m k : Nat) : Nat :=
  let q := m / 2 ^ k
  let r := m % 2 ^ k
  if 2 * r < 2 ^ k ∨ k = 0 then q else if 2 ^ k < 2 * r then q + 1 else q + q % 2

/-- `m` × 2^e rounded to `p` significant bits, but to no unit below 2^`lsb`. -/
def roundTo (p : Nat) (lsb : Int) (m : Nat) (e : Int) : Nat × Int :=
  let q := max (e + (Nat.log2 m + 1 : Nat) - (p : Int)) lsb
  if m = 0 then (0, 0) else if q ≤ e then (m, e) else (shiftRne m (q - e).toNat, q)

/-- Whether m × 2^e is at least M × 2^E. -/
def dyadicGe (m : Nat) (e : Int) (m' : Nat) (e' : Int) : Bool :=
  let b := min e e'
  decide (m' * 2 ^ (e' - b).toNat ≤ m * 2 ^ (e - b).toNat)

/-- A datum rounded to FP32 under IEEE 754, to nearest even, subnormals kept. -/
def r32 : Fp → Fp
  | .fin s m e =>
    let r := roundTo 24 (-149) m e
    if r.1 ≠ 0 ∧ dyadicGe r.1 r.2 1 128 then .inf s else .fin s r.1 r.2
  | x => x

/-! ### Operations, each rounded to FP32 -/

/-- Exact product. -/
def mulExact : Fp → Fp → Fp
  | .nan, _ => .nan
  | _, .nan => .nan
  | .inf s, .inf t => .inf (s ^^ t)
  | .inf s, .fin t m _ => if m = 0 then .nan else .inf (s ^^ t)
  | .fin s m _, .inf t => if m = 0 then .nan else .inf (s ^^ t)
  | .fin s m e, .fin t n f => .fin (s ^^ t) (m * n) (e + f)

/-- Sum rounded to FP32. -/
def add32 : Fp → Fp → Fp
  | .nan, _ => .nan
  | _, .nan => .nan
  | .inf s, .inf t => if s = t then .inf s else .nan
  | .inf s, _ => .inf s
  | _, .inf t => .inf t
  | .fin s m e, .fin t n f =>
    let b := min e f
    let x : Int := (m * 2 ^ (e - b).toNat : Nat)
    let y : Int := (n * 2 ^ (f - b).toNat : Nat)
    let z := (if s then -x else x) + (if t then -y else y)
    if z = 0 then .fin (s && t) 0 0 else r32 (.fin (decide (z < 0)) z.natAbs b)

/-- Product rounded to FP32. -/
def mul32 (a b : Fp) : Fp := r32 (mulExact a b)

/-- The negated datum. -/
def neg32 : Fp → Fp
  | .nan => .nan
  | .inf s => .inf (!s)
  | .fin s m e => .fin (!s) m e

/-- Quotient rounded to FP32. -/
def div32 : Fp → Fp → Fp
  | .nan, _ => .nan
  | _, .nan => .nan
  | .inf _, .inf _ => .nan
  | .inf s, .fin t _ _ => .inf (s ^^ t)
  | .fin s _ _, .inf t => .fin (s ^^ t) 0 0
  | .fin s m e, .fin t n f =>
    if n = 0 then (if m = 0 then .nan else .inf (s ^^ t)) else
    let k := 64 + Nat.log2 n
    let q := m * 2 ^ k / n
    r32 (.fin (s ^^ t) (2 * q + b2n (decide (m * 2 ^ k % n ≠ 0))) (e - f - (k : Int) - 1))

/-- Integer square root of a number below 2^(2 n). -/
def isqrt (n v : Nat) : Nat :=
  ((List.range n).reverse).foldl (fun r i => if (r + 2 ^ i) * (r + 2 ^ i) ≤ v then r + 2 ^ i else r) 0

/-- Square root rounded to FP32. -/
def sqrt32 : Fp → Fp
  | .nan => .nan
  | .inf s => if s then .nan else .inf false
  | .fin s m e =>
    if m = 0 then .fin s 0 0 else if s then .nan else
    let m1 := if e % 2 = 0 then m else 2 * m
    let e1 := if e % 2 = 0 then e else e - 1
    let v := m1 * 2 ^ 120
    let q := isqrt (Nat.log2 v / 2 + 1) v
    r32 (.fin false (2 * q + b2n (decide (q * q ≠ v))) (e1 / 2 - 61))

/-- a < b; false when either is NaN. -/
def lt32 : Fp → Fp → Bool
  | .nan, _ => false
  | _, .nan => false
  | .inf s, .inf t => s && !t
  | .inf s, .fin _ _ _ => s
  | .fin _ _ _, .inf t => !t
  | .fin s m e, .fin t n f =>
    let b := min e f
    let x : Int := (m * 2 ^ (e - b).toNat : Nat)
    let y : Int := (n * 2 ^ (f - b).toNat : Nat)
    decide ((if s then -x else x) < (if t then -y else y))

/-- The larger; NaN when either is (log entry 15). -/
def max32 (a b : Fp) : Fp := if a = .nan ∨ b = .nan then .nan else if lt32 a b then b else a

/-- The smaller; NaN when either is (log entry 15). -/
def min32 (a b : Fp) : Fp := if a = .nan ∨ b = .nan then .nan else if lt32 b a then b else a

/-! ### Encodings (R339) -/

/-- A binary format with `man` mantissa bits, `ex` exponent bits, bias; `ieee` when the top exponent means infinity or NaN. -/
def decFormat (man ex bias : Nat) (ieee : Bool) (v : Nat) : Fp :=
  let s := bit v (man + ex)
  let x := bits v (man + ex - 1) man
  let m := v % 2 ^ man
  if ieee ∧ x = 2 ^ ex - 1 then (if m = 0 then .inf s else .nan)
  else if x = 0 then .fin s m (1 - (bias : Int) - man)
  else .fin s (m + 2 ^ man) ((x : Int) - bias - man)

/-- Bits of a finite datum already rounded to a format. -/
def encFormat (man ex bias : Nat) (s : Bool) (m : Nat) (e : Int) : Nat :=
  let sign := b2n s * 2 ^ (man + ex)
  if m = 0 then sign else
  let l := Nat.log2 m
  let x := e + l + bias
  if x < 1 then sign + m * 2 ^ (e - (1 - (bias : Int) - man)).toNat
  else
    let frac := if l ≤ man then m * 2 ^ (man - l) else m / 2 ^ (l - man)
    sign + x.toNat * 2 ^ man + (frac - 2 ^ man)

/-- The datum that FP32 bits are. -/
def dec32 (v : Nat) : Fp := decFormat 23 8 127 true v

/-- FP32 bits of a datum already rounded; NaN is the canonical quiet NaN. -/
def enc32 : Fp → Nat
  | .nan => 0x7FC00000
  | .inf s => if s then 0xFF800000 else 0x7F800000
  | .fin s m e => encFormat 23 8 127 s m e

/-- Bits of an element of a type. -/
def typeBits (t : Nat) : Nat :=
  match t with
  | 1 => 8 | 2 => 4 | 3 => 8 | 4 => 8 | 5 => 16 | 6 => 16 | 7 => 32 | 8 => 32 | _ => 0

/-- An integer as a datum. -/
def ofInt (i : Int) : Fp := .fin (decide (i < 0)) i.natAbs 0

/-- The datum that an element's bits are. -/
def decElem (t v : Nat) : Fp :=
  match t with
  | 1 => ofInt (toSigned 8 v)
  | 2 => ofInt (toSigned 4 v)
  | 3 => if v % 128 = 127 then .nan else decFormat 3 4 7 false v
  | 4 => decFormat 2 5 15 true v
  | 5 => decFormat 10 5 15 true v
  | 6 => decFormat 7 8 127 true v
  | 7 => dec32 v
  | _ => ofInt (toSigned 32 v)

/-- Bits of element `i` of a row of bytes. -/
def rawElem (t : Nat) (row : List Byte) (i : Nat) : Nat :=
  if t = 2 then bits (leAt row (i / 2) 1) (4 * (i % 2) + 3) (4 * (i % 2)) else leAt row (i * (typeBits t / 8)) (typeBits t / 8)

/-- The first `n` elements of a row. -/
def rowElems (t n : Nat) (row : List Byte) : List Fp := (List.range n).map (fun i => decElem t (rawElem t row i))

/-- Bytes that `n` elements of a type fill. -/
def rowBytes (t n : Nat) : Nat := (n * typeBits t + 7) / 8

/-- Rounding to an integer, saturating at the ends of `w` signed bits; NaN is 0 (R340). -/
def satInt (w : Nat) : Fp → Nat
  | .nan => 0
  | .inf s => if s then 2 ^ (w - 1) else 2 ^ (w - 1) - 1
  | .fin s m e =>
    let n := if 0 ≤ e then m * 2 ^ e.toNat else shiftRne m (-e).toNat
    if s then (if 2 ^ (w - 1) ≤ n then 2 ^ (w - 1) else ofSigned w (-(n : Int)))
    else (if 2 ^ (w - 1) ≤ n then 2 ^ (w - 1) - 1 else n)

/-- Rounding to a small float format, saturating at its largest finite value `mm` × 2^`me`. -/
def satFloat (man ex bias : Nat) (mm : Nat) (me : Int) (qnan : Nat) : Fp → Nat
  | .nan => qnan
  | .inf s => encFormat man ex bias s mm me
  | .fin s m e =>
    let r := roundTo (man + 1) (1 - (bias : Int) - man) m e
    if r.1 ≠ 0 ∧ dyadicGe r.1 r.2 mm me then encFormat man ex bias s mm me else encFormat man ex bias s r.1 r.2

/-- Step 3 and 4 of R340: a result converted to an output type. INT4 saturates at −8 and 7 (log entry 15). -/
def convertTo (t : Nat) (x : Fp) : Nat :=
  match t with
  | 1 => satInt 8 x
  | 2 => satInt 4 x
  | 3 => satFloat 3 4 7 14 5 0x7F x
  | 4 => satFloat 2 5 15 7 13 0x7F x
  | 5 => satFloat 10 5 15 2047 5 0x7E00 x
  | 6 => satFloat 7 8 127 255 120 0x7FC0 x
  | 7 => enc32 (r32 x)
  | _ => satInt 32 x

/-- Bytes of a row of element bits; INT4 elements lie two in a byte, the lower index low. -/
def packRow (t : Nat) (l : List Nat) : List Byte :=
  if t = 2 then
    (List.range ((l.length + 1) / 2)).map (fun i => BitVec.ofNat 8 (l.getD (2 * i) 0 % 16 + 16 * (l.getD (2 * i + 1) 0 % 16)))
  else l.flatMap (fun v => leBytes (typeBits t / 8) v)

/-- A row extended with zeros to whole granules (R365). -/
def padRow (l : List Byte) : List Byte := padTo ((l.length + 63) / 64 * 64) l

/-! ### Matrix Cores (R337, R338, R340) -/

/-- Whether an input type pair exists, with its K_MAX (R337). -/
def pairKMax (a b : Nat) : Option Nat :=
  if (a = 1 ∨ a = 2) ∧ (b = 1 ∨ b = 2) then some 4096
  else if (a = 3 ∨ a = 4) ∧ (b = 3 ∨ b = 4) then some 4096
  else if (a = 5 ∧ b = 5) ∨ (a = 6 ∧ b = 6) then some 1024
  else none

/-- Whether the accumulator of an input type is INT32. -/
def intAcc (a : Nat) : Bool := decide (a ≤ 2)

/-- An accumulator. -/
inductive Acc where
  | int (i : Int)
  | fp (x : Fp)
  deriving DecidableEq, Repr

/-- The integer that an integer datum is. -/
def toInt : Fp → Int
  | .fin s m e => if s then -((m * 2 ^ e.toNat : Nat) : Int) else ((m * 2 ^ e.toNat : Nat) : Int)
  | _ => 0

/-- An INT32 accumulator: exact inside INT32, unstated outside (log entry 15). -/
def acc32 (i : Int) : Int :=
  if -(2 ^ 31 : Int) ≤ i ∧ i < 2 ^ 31 then i else (Config.intOverflow i).toInt

/-- The accumulator of a dot product added to a starting value, in ascending k. -/
def dotAcc (isInt : Bool) (init : Fp) (a b : List Fp) : Acc :=
  if isInt then .int (acc32 ((List.zip a b).foldl (fun z p => z + toInt p.1 * toInt p.2) (toInt init)))
  else .fp ((List.zip a b).foldl (fun z p => add32 z (mulExact p.1 p.2)) init)

/-- Negative values become 0. -/
def relu32 : Fp → Fp
  | .inf true => .fin false 0 0
  | .fin true _ _ => .fin false 0 0
  | x => x

/-- Steps 1 to 4 of R340: an accumulator with its column's scale and bias, as output bits. -/
def matOut (t : Nat) (relu : Bool) (scale : Option (Fp × Fp)) (z : Acc) : Nat :=
  let x := match z, scale with
    | .int i, none => ofInt i
    | .int i, some p => add32 (mul32 (r32 (ofInt i)) p.1) p.2
    | .fp y, none => y
    | .fp y, some p => add32 (mul32 y p.1) p.2
  convertTo t (if relu then relu32 x else x)

/-- The {scale, bias} entries of a table. -/
def scaleEntry (tbl : List Byte) (j : Nat) : Fp × Fp := (dec32 (leAt tbl (8 * j) 4), dec32 (leAt tbl (8 * j + 4) 4))

/-! ### Vector Engines (R342, R343, R381) -/

/-- A transcendental function of the table of R343: 1 EXP, 2 TANH, 3 SIGMOID, 4 RSQRT. -/
def fun32 (f : Nat) (x : Fp) : Fp := dec32 (Config.fpFun f (enc32 x) % 2 ^ 32)

/-- GELU by the formula of R343, each operation rounded (log entry 15). -/
def gelu32 (x : Fp) : Fp :=
  let inner := add32 x (mul32 (dec32 0x3D372713) (mul32 (mul32 x x) x))
  mul32 (mul32 (dec32 0x3F000000) x) (add32 (dec32 0x3F800000) (fun32 2 (mul32 (dec32 0x3F4C422A) inner)))

/-- Sum in ascending order. -/
def sum32 (l : List Fp) : Fp := l.foldl add32 (.fin false 0 0)

/-- Largest element. -/
def maxRow : List Fp → Fp
  | [] => .inf true
  | a :: t => t.foldl max32 a

/-- The result of a VEC operation on one row: `a` the row, `b` the second source's row, `g` gains and biases. -/
def vecRow (vop cols s0 s1 : Nat) (a b g : List Fp) : List Fp :=
  let c0 := dec32 s0
  let c1 := dec32 s1
  let n := r32 (ofInt cols)
  match vop with
  | 0x01 => List.zipWith add32 a b
  | 0x02 => List.zipWith mul32 a b
  | 0x03 => List.zipWith max32 a b
  | 0x04 => List.zipWith min32 a b
  | 0x05 => a.map (fun x => add32 (mul32 c0 x) c1)
  | 0x10 => a.map (fun x => max32 x (.fin false 0 0))
  | 0x11 => a.map (fun x => min32 (max32 x c0) c1)
  | 0x12 => a.map gelu32
  | 0x13 => a.map (fun32 3)
  | 0x14 => a.map (fun32 2)
  | 0x15 => a.map (fun32 1)
  | 0x16 => a.map (fun32 4)
  | 0x20 =>
    let m := maxRow a
    let e := a.map (fun x => fun32 1 (add32 x (neg32 m)))
    let z := sum32 e
    e.map (fun x => div32 x z)
  | 0x21 =>
    let mean := div32 (sum32 a) n
    let d := a.map (fun x => add32 x (neg32 mean))
    let sd := sqrt32 (add32 (div32 (sum32 (d.map (fun x => mul32 x x))) n) c0)
    (List.zip (List.zip d (g.take cols)) (g.drop cols)).map (fun p => add32 (mul32 (div32 p.1.1 sd) p.1.2) p.2)
  | 0x22 =>
    let rms := sqrt32 (add32 (div32 (sum32 (a.map (fun x => mul32 x x))) n) c0)
    (List.zip (List.zip a (g.take cols)) (g.drop cols)).map (fun p => add32 (mul32 (div32 p.1.1 rms) p.1.2) p.2)
  | 0x23 => [sum32 a]
  | 0x24 => [maxRow a]
  | _ => a

/-! ### CIM tiles (R390 to R395) -/

/-- The weight of output column `n` at a row of a macro's cells (R390, R391, R419). -/
def cimWeight (eight : Bool) (row : List Byte) (n : Nat) : Int :=
  let nib := fun (j : Nat) => bits (leAt row (j / 2) 1) (4 * (j % 2) + 3) (4 * (j % 2))
  if eight then 16 * ((nib (2 * n + 1) : Int) - 8) + nib (2 * n) else (nib n : Int) - 8

/-- The 24-bit saturating sum, counting saturations (R394). -/
def sat24 (z : Int × Nat) (d : Int) : Int × Nat :=
  let v := z.1 + d
  if v < -(2 ^ 23 : Int) then (-(2 ^ 23 : Int), z.2 + 1) else if 2 ^ 23 - 1 < v then (2 ^ 23 - 1, z.2 + 1) else (v, z.2)

/-- The weight of a bit-plane (R392). -/
def planeWeight (unsigned : Bool) (b : Nat) : Int := if b = 7 ∧ !unsigned then -128 else 2 ^ b

/-- One output of a layer: for each grid row in turn (its inputs and its weights), planes 0 to 7 are added (R394, R395, log
entry 26). -/
def cimDot (unsigned : Bool) (grid : List (List Nat × List Int)) : Int × Nat :=
  grid.foldl (fun z g =>
    (List.range 8).foldl (fun y b =>
      sat24 y (planeWeight unsigned b * ((List.zip g.1 g.2).foldl (fun t p => if p.1.testBit b then t + p.2 else t) 0))) z) (0, 0)

/-- Ones of a bit-plane in rows `lo` to `lo + n - 1`. -/
def onesIn (x : List Nat) (b lo n : Nat) : Nat := ((x.drop lo).take n).countP (fun v => v.testBit b)

/-- Conversions of one bit-plane from segment `s` on, with `e` segments merged so far holding `total` ones (R393). -/
def planeConversions (fine : Bool) (x : List Nat) (b : Nat) : Nat → Nat → Nat → Nat
  | 0, _, total => b2n (decide (total ≠ 0))
  | left + 1, s, total =>
    let c := onesIn x b (64 * s) 64
    let lim := if fine then 32 else 64
    if lim < c then
      b2n (decide (total ≠ 0)) + b2n (decide (onesIn x b (64 * s) 32 ≠ 0)) + b2n (decide (onesIn x b (64 * s + 32) 32 ≠ 0)) +
        planeConversions fine x b left (s + 1) 0
    else if total + c ≤ lim then planeConversions fine x b left (s + 1) (total + c)
    else b2n (decide (total ≠ 0)) + planeConversions fine x b left (s + 1) c

/-- Conversions of one vector on one grid row. -/
def rowConversions (fine : Bool) (x : List Nat) : Nat :=
  ((List.range 8).map (fun b => planeConversions fine x b 8 0 0)).sum

end Sys2Proof.Machine
end

