-- ==== Sys2Proof/Machine/PackBody.lean ====
section
/-! DEFINITION. Descriptors of the Pack (08): fields, ranges, submission checks, pair maps and engine assignment, and the bytes that
a tile of MATMUL, CONV2D, VEC or COPY writes. -/

namespace Sys2Proof.Machine

/-! ### Fields -/

/-- Opcode of a descriptor (R354). -/
def dOp (d : List Byte) : Nat := leAt d 0 1

/-- PAIRED. -/
def dPaired (d : List Byte) : Bool := bit (leAt d 1 1) 0

/-- PAIR_MAP. -/
def dMap (d : List Byte) : Nat := bits (leAt d 1 1) 3 1

/-- MISMATCH_ACTION is RETRY. -/
def dRetry (d : List Byte) : Bool := bit (leAt d 1 1) 4

/-- NOTIFY. -/
def dNotify (d : List Byte) : Bool := bit (leAt d 1 1) 5

/-- OVERLAP. -/
def dOverlap (d : List Byte) : Bool := bit (leAt d 1 1) 6

/-- `n` rounded up to a multiple of 64. -/
def up64 (n : Nat) : Nat := (n + 63) / 64 * 64

/-- `a` / `b` rounded up. -/
def ceilDiv (a b : Nat) : Nat := (a + b - 1) / b

/-- The engine kinds a command needs: bit 0 MC, bit 1 CT, bit 2 VE. -/
def dNeeds (d : List Byte) : Nat :=
  match dOp d with
  | 0x08 => 1 | 0x10 => 1 | 0x11 => 1 | 0x18 => 4 | 0x20 => 2 | 0x21 => 2 | 0x28 => 5 | 0x29 => 5 | _ => 0

/-- The opcodes of R354. -/
def opcodes : List Nat := [0x01, 0x02, 0x03, 0x04, 0x05, 0x08, 0x10, 0x11, 0x18, 0x20, 0x21, 0x28, 0x29]

/-- Whether bytes `a` to `b` of a descriptor are 0. -/
def dZero (d : List Byte) (a b : Nat) : Bool := (slice d a (b + 1 - a)).all (fun x => x = 0)

/-- Whether the 8-byte address at `o` has bits 63 to 40 zero. -/
def dAddrOk (d : List Byte) (o : Nat) : Bool := decide (leAt d o 8 < 2 ^ 40)

/-! ### CONV2D as a matrix product (R377, R378) -/

/-- Field group of a CONV2D. -/
structure Conv where
  batch : Nat
  h : Nat
  w : Nat
  cin : Nat
  cout : Nat
  pix : Nat
  kh : Nat
  kw : Nat
  sh : Nat
  sw : Nat
  dh : Nat
  dw : Nat
  pt : Nat
  pl : Nat
  pb : Nat
  pr : Nat
  it : Nat
  wt : Nat
  ot : Nat
  relu : Bool
  deriving DecidableEq, Repr

/-- The fields of a CONV2D descriptor. -/
def convOf (d : List Byte) : Conv :=
  { batch := leAt d 40 2, h := leAt d 42 2, w := leAt d 44 2, cin := leAt d 46 2, cout := leAt d 48 2, pix := leAt d 50 2,
    kh := bits (leAt d 52 1) 3 0, kw := bits (leAt d 52 1) 7 4,
    sh := bits (leAt d 53 1) 1 0 + 1, sw := bits (leAt d 53 1) 3 2 + 1,
    dh := bits (leAt d 53 1) 5 4 + 1, dw := bits (leAt d 53 1) 7 6 + 1,
    pt := bits (leAt d 54 1) 3 0, pl := bits (leAt d 54 1) 7 4, pb := bits (leAt d 55 1) 3 0, pr := bits (leAt d 55 1) 7 4,
    it := bits (leAt d 56 1) 3 0, wt := bits (leAt d 56 1) 7 4, ot := bits (leAt d 57 1) 3 0, relu := bit (leAt d 57 1) 4 }

/-- One output dimension (R378); 0 when no output position exists. -/
def convOut (n padLo padHi dil k stride : Nat) : Nat :=
  if n + padLo + padHi < dil * (k - 1) + 1 then 0 else (n + padLo + padHi - dil * (k - 1) - 1) / stride + 1

/-- OH. -/
def convOh (c : Conv) : Nat := convOut c.h c.pt c.pb c.dh c.kh c.sh

/-- OW. -/
def convOw (c : Conv) : Nat := convOut c.w c.pl c.pr c.dw c.kw c.sw

/-- K. -/
def convK (c : Conv) : Nat := c.kh * c.kw * c.cin

/-- M. -/
def convM (c : Conv) : Nat := c.batch * convOh c * convOw c

/-! ### Ranges (R356) -/

/-- Bounding range of `rows` rows of `len` bytes at a stride. -/
def rowsRange (addr rows stride len : Nat) : Nat × Nat := (addr, (rows - 1) * stride + len)

/-- VEC operations that use SRC1 elementwise. -/
def vopBinary (v : Nat) : Bool := decide (1 ≤ v ∧ v ≤ 4)

/-- LAYERNORM and RMSNORM. -/
def vopNorm (v : Nat) : Bool := decide (v = 0x21 ∨ v = 0x22)

/-- Columns of the destination of a VEC. -/
def vecDstCols (d : List Byte) : Nat := if leAt d 38 1 = 0x23 ∨ leAt d 38 1 = 0x24 then 1 else leAt d 36 2

/-- Source ranges of a MATMUL, CONV2D, VEC, COPY or CIM_RUN: address and length. -/
def srcRanges (d : List Byte) : List (Nat × Nat) :=
  match dOp d with
  | 0x10 =>
    let m := leAt d 48 2
    let n := leAt d 50 2
    let k := leAt d 52 2
    let at' := bits (leAt d 54 1) 3 0
    let bt := bits (leAt d 54 1) 7 4
    let tr := bit (leAt d 55 1) 4
    [rowsRange (leAt d 8 8) m (leAt d 56 2) (rowBytes at' k),
     rowsRange (leAt d 16 8) (if tr then n else k) (leAt d 58 2) (rowBytes bt (if tr then k else n))] ++
    (if leAt d 24 8 = 0 then [] else [rowsRange (leAt d 24 8) m (64 * leAt d 60 2) (4 * n)]) ++
    (if leAt d 40 8 = 0 then [] else [(leAt d 40 8, 8 * n)])
  | 0x11 =>
    let c := convOf d
    [rowsRange (leAt d 8 8) (c.batch * c.h * c.w) c.pix (rowBytes c.it c.cin),
     rowsRange (leAt d 16 8) c.cout (up64 (rowBytes c.wt (convK c))) (rowBytes c.wt (convK c))] ++
    (if leAt d 32 8 = 0 then [] else [(leAt d 32 8, 8 * c.cout)])
  | 0x18 =>
    let rows := leAt d 32 4
    let cols := leAt d 36 2
    let v := leAt d 38 1
    let st := bits (leAt d 39 1) 3 0
    rowsRange (leAt d 8 8) rows (leAt d 40 4) (rowBytes st cols) ::
    (if vopNorm v then [(leAt d 16 8, 8 * cols)]
     else if vopBinary v then [rowsRange (leAt d 16 8) rows (leAt d 44 4) (rowBytes st cols)] else [])
  | 0x08 => [rowsRange (leAt d 8 8) (leAt d 28 4) (leAt d 32 4) (leAt d 24 4)]
  | 0x20 =>
    rowsRange (leAt d 8 8) (leAt d 40 4) (leAt d 48 4) (leAt d 38 2) ::
    (if leAt d 24 8 = 0 then [] else [(leAt d 24 8, 8 * leAt d 44 2)])
  | 0x21 => [(leAt d 8 8, leAt d 16 4)]
  | _ => []

/-- Destination ranges, with the padding of R365. -/
def dstRanges (d : List Byte) : List (Nat × Nat) :=
  match dOp d with
  | 0x10 => [rowsRange (leAt d 32 8) (leAt d 48 2) (64 * leAt d 62 2) (up64 (rowBytes (bits (leAt d 55 1) 3 0) (leAt d 50 2)))]
  | 0x11 =>
    let c := convOf d
    let r := up64 (rowBytes c.ot c.cout)
    [rowsRange (leAt d 24 8) (convM c) r r]
  | 0x18 => [rowsRange (leAt d 24 8) (leAt d 32 4) (leAt d 48 4) (up64 (rowBytes (bits (leAt d 39 1) 7 4) (vecDstCols d)))]
  | 0x08 => [rowsRange (leAt d 16 8) (leAt d 28 4) (leAt d 36 4) (leAt d 24 4)]
  | 0x20 => [rowsRange (leAt d 16 8) (leAt d 40 4) (leAt d 52 4) (up64 (rowBytes (bits (leAt d 47 1) 3 0) (leAt d 44 2)))]
  | _ => []

/-- Whether two ranges share a byte. -/
def rangesMeet (a b : Nat × Nat) : Bool := decide (a.1 < b.1 + b.2 ∧ b.1 < a.1 + a.2)

/-! ### Submission checks (R61, R341, R356, R376, R379, R381 to R383, R415) -/

/-- The counts whose 0 is ZERO_LENGTH. -/
def dCounts (d : List Byte) : List Nat :=
  match dOp d with
  | 0x10 => [leAt d 48 2, leAt d 50 2, leAt d 52 2]
  | 0x11 => let c := convOf d; [c.batch, c.h, c.w, c.cin, c.cout, c.kh, c.kw]
  | 0x18 => [leAt d 32 4, leAt d 36 2]
  | 0x08 => [leAt d 24 4, leAt d 28 4]
  | 0x20 => [leAt d 38 2, leAt d 40 4, leAt d 44 2]
  | 0x21 => [leAt d 16 4]
  | 0x28 => [leAt d 48 2, leAt d 53 1]
  | 0x29 => if bit (leAt d 55 1) 0 then [leAt d 48 2] else [leAt d 48 2, leAt d 53 1]
  | _ => []

/-- Whether any of its counts is 0. -/
def dZeroCount (d : List Byte) : Bool := (dCounts d).any (fun n => n = 0)

/-- Output types of a Matrix Core or CIM result: INT32 only from an unscaled integer accumulator (R341). -/
def outTypeOk (isInt : Bool) (scaleAddr t : Nat) : Bool := decide ((1 ≤ t ∧ t ≤ 7) ∨ (t = 8 ∧ isInt ∧ scaleAddr = 0))

/-- Types a Vector Engine takes. -/
def vecTypeOk (t : Nat) : Bool := decide (t = 1 ∨ (3 ≤ t ∧ t ≤ 7))

/-- The VOPs of R381. -/
def vops : List Nat := [1, 2, 3, 4, 5, 0x10, 0x11, 0x12, 0x13, 0x14, 0x15, 0x16, 0x20, 0x21, 0x22, 0x23, 0x24, 0x30]

/-- Whether every source overlaps no destination, but for the in-place pairs that a command allows: sources whose address and stride
equal the destination's. -/
def disjointOk (d : List Byte) : Bool :=
  let place : List (Nat × Bool) :=
    match dOp d with
    | 0x10 => [(leAt d 24 8, decide (leAt d 60 2 = leAt d 62 2))]
    | 0x18 => [(leAt d 8 8, decide (leAt d 40 4 = leAt d 48 4))]
    | _ => []
  (dstRanges d).all (fun t => (srcRanges d).all (fun r =>
    !rangesMeet r t || (decide (r.1 = t.1) && place.any (fun p => decide (p.1 = r.1) && p.2))))

/-- The rules of a body whose breach is BAD_DESCRIPTOR. Those derived from dimensions are passed over when a count is 0, which is
ZERO_LENGTH (log entry 28). -/
def bodyOk (d : List Byte) : Bool :=
  let z := dZeroCount d
  match dOp d with
  | 0x01 => dZero d 8 63
  | 0x02 => dZero d 9 63 && decide (leAt d 8 1 < 2)
  | 0x03 => dZero d 8 63
  | 0x04 => dZero d 10 15 && dZero d 28 63 && decide (leAt d 8 2 < 4096)
  | 0x05 => dZero d 10 15 && dZero d 24 63 && decide (leAt d 8 2 < 4096)
  | 0x08 => dAddrOk d 8 && dAddrOk d 16 && dZero d 40 63 &&
      (z || (disjointOk d && (decide (leAt d 28 4 ≤ 1) || decide (leAt d 24 4 ≤ leAt d 36 4))))
  | 0x10 =>
    let at' := bits (leAt d 54 1) 3 0
    let dt := bits (leAt d 55 1) 3 0
    dAddrOk d 8 && dAddrOk d 16 && dAddrOk d 24 && dAddrOk d 32 && dAddrOk d 40 && decide (leAt d 55 1 < 64) &&
    outTypeOk (intAcc at') (leAt d 40 8) dt &&
    (match pairKMax at' (bits (leAt d 54 1) 7 4) with
     | none => false
     | some m => z || (decide (leAt d 52 2 ≤ m) && decide (up64 (rowBytes dt (leAt d 50 2)) ≤ 64 * leAt d 62 2) && disjointOk d))
  | 0x11 =>
    let c := convOf d
    dAddrOk d 8 && dAddrOk d 16 && dAddrOk d 24 && dAddrOk d 32 && dZero d 58 63 && decide (leAt d 57 1 < 32) &&
    outTypeOk (intAcc c.it) (leAt d 32 8) c.ot &&
    (match pairKMax c.it c.wt with
     | none => false
     | some m => z || (decide (convK c ≤ m ∧ 1 ≤ convOh c ∧ 1 ≤ convOw c ∧ convM c ≤ 16777216 ∧ rowBytes c.it c.cin ≤ c.pix) &&
         disjointOk d))
  | 0x18 =>
    let v := leAt d 38 1
    dAddrOk d 8 && dAddrOk d 16 && dAddrOk d 24 && dZero d 60 63 && vops.contains v &&
    vecTypeOk (bits (leAt d 39 1) 3 0) && vecTypeOk (bits (leAt d 39 1) 7 4) &&
    decide (leAt d 32 4 ≤ 16777215 ∧ leAt d 36 2 ≤ 16384) &&
    (decide (leAt d 16 8 = 0) || vopBinary v || vopNorm v) && (z || disjointOk d)
  | 0x20 =>
    dAddrOk d 8 && dAddrOk d 16 && dAddrOk d 24 && dZero d 56 63 && decide (leAt d 46 1 < 4) && decide (leAt d 47 1 < 16) &&
    decide (leAt d 47 1 ≠ 2) && outTypeOk true (leAt d 24 8) (leAt d 47 1) &&
    decide (leAt d 40 4 < 2 ^ 24 ∧ leAt d 38 2 ≤ 4096 ∧ leAt d 44 2 ≤ 32768) &&
    (z || (decide (leAt d 38 2 ≤ leAt d 48 4) && disjointOk d))
  | 0x21 => dAddrOk d 8 && dZero d 21 63 && decide (leAt d 20 1 < 16)
  | 0x28 => dAddrOk d 8 && dAddrOk d 16 && dAddrOk d 24 && dAddrOk d 32 && decide (leAt d 55 1 < 2) && decide (leAt d 48 2 ≤ 1024)
  | 0x29 =>
    dAddrOk d 56 && decide (leAt d 55 1 < 2) && decide (leAt d 48 2 ≤ 16) &&
    (if bit (leAt d 55 1) 0 then dZero d 8 43 && dZero d 52 54
     else dAddrOk d 8 && dAddrOk d 16 && dAddrOk d 24 && dAddrOk d 32)
  | _ => false

/-- Destination addresses, strides and sizes that must be multiples of 64. -/
def dAligned (d : List Byte) : Bool :=
  match dOp d with
  | 0x10 => decide (leAt d 32 8 % 64 = 0)
  | 0x11 => decide (leAt d 24 8 % 64 = 0)
  | 0x18 => decide (leAt d 24 8 % 64 = 0 ∧ leAt d 48 4 % 64 = 0)
  | 0x08 => decide (leAt d 16 8 % 64 = 0 ∧ leAt d 24 4 % 64 = 0 ∧ leAt d 36 4 % 64 = 0)
  | 0x20 => decide (leAt d 16 8 % 64 = 0 ∧ leAt d 52 4 % 64 = 0)
  | 0x21 => decide (leAt d 16 4 % 64 = 0)
  | 0x28 => decide (leAt d 24 8 % 64 = 0 ∧ leAt d 32 8 % 64 = 0)
  | 0x29 => decide (leAt d 24 8 % 64 = 0 ∧ leAt d 32 8 % 64 = 0)
  | _ => true

/-! ### Engines and pair maps (R316, R317, R355, R438) -/

/-- The engines of a mask, from engine number `first`. -/
def engineList (n mask first : Nat) : List Nat := (setBits n mask).map (· + first)

/-- A pair map of an instance as sets (07, PAIR_MAP_k). -/
def pairMap (s : State) (n k : Nat) : Sets :=
  let b := instPage n + 0x400 + 16 * k
  let ct := regRaw s (b + 8)
  let ve := regRaw s (b + 12)
  { mcA := regRaw s b, mcB := regRaw s (b + 4), ctA := bits ct 15 0, ctB := bits ct 31 16, veA := bits ve 7 0, veB := bits ve 15 8 }

/-- The engines of set A. -/
def setA (x : Sets) : List Nat := engineList 32 x.mcA 0 ++ engineList 16 x.ctA 32 ++ engineList 8 x.veA 48

/-- The engines of set B. -/
def setB (x : Sets) : List Nat := engineList 32 x.mcB 0 ++ engineList 16 x.ctB 32 ++ engineList 8 x.veB 48

/-- The kinds a list of engines holds: bit 0 MC, bit 1 CT, bit 2 VE. -/
def kindsOf (l : List Nat) : Nat :=
  b2n (l.any (fun e => decide (e < 32))) + 2 * b2n (l.any (fun e => decide (32 ≤ e ∧ e < 48))) + 4 * b2n (l.any (fun e => decide (48 ≤ e)))

/-- The engines that a command's sets name. -/
def cmdEngines (d : List Byte) (x : Sets) : List Nat := if dPaired d then setA x ++ setB x else setA x

/-- The status of the engine checks: BAD_DESCRIPTOR for a lacking kind, a shared engine or a TILE outside set A; RESOURCE_REVOKED for
an engine that is not assigned. -/
def engineCheck (s : State) (n : Nat) (d : List Byte) (x : Sets) : Option Nat :=
  let need := dNeeds d
  if need = 0 then none
  else if (kindsOf (setA x) &&& need) ≠ need then some 0x10
  else if dPaired d ∧ ((kindsOf (setB x) &&& need) ≠ need ∨ (setA x).any (fun e => (setB x).contains e)) then some 0x10
  else if dOp d = 0x21 ∧ !(setA x).contains (32 + leAt d 20 1) then some 0x10
  else if (cmdEngines d x).all (assignedTo s n) then none else some 4

/-! ### Openness (R522) -/

/-- The world tag of an instance. -/
def instTag (s : State) (n : Nat) : Bool := decide (odGet s (instKey n 5) = 1)

/-- Whether an access window of an instance holds a range. -/
def windowHolds (s : State) (n : Nat) (wr : Bool) (addr len w : Nat) : Bool :=
  let v := odGet s (instKey n (0x10 + w))
  bit v 63 && (!wr || bit v 62) &&
  decide (bits v 23 0 * 65536 ≤ addr ∧ addr + len ≤ bits v 23 0 * 65536 + bits v 47 24 * 65536)

/-- Whether a range is open to an instance (R522, log entry 27). -/
def openTo (s : State) (n : Nat) (wr : Bool) (addr len : Nat) : Bool :=
  (List.range 16).any (windowHolds s n wr addr len) && memoryOpen s 0x20 (instTag s n) wr addr len

/-- Whether every range and knot of a descriptor is open to an instance. -/
def rangesOpen (s : State) (n : Nat) (d : List Byte) : Bool :=
  (srcRanges d).all (fun r => openTo s n false r.1 r.2) && (dstRanges d).all (fun r => openTo s n true r.1 r.2) &&
  (if dOp d = 4 then knotWaits s (leAt d 8 2) n else if dOp d = 5 then knotSignals s (leAt d 8 2) n else true)

/-- The submission checks of a descriptor of instance `n`, in the order of R61; 5 means that it is stale (R357). -/
def submitCheck (s : State) (n : Nat) (d : List Byte) : Option Nat :=
  let e := engineCheck s n d (pairMap s n (dMap d))
  if s.dev = .safeHold then some 0x0C
  else if !opcodes.contains (dOp d) || !bodyOk d || (dPaired d && (dNeeds d = 0 || dOp d = 0x21)) || e = some 0x10 then some 0x10
  else if leAt d 2 2 ≠ (getInst s n).gen then some 5
  else if e.isSome || (odGet s (odKey 0x2805 1) = 1 && odGet s (odKey 0x2805 2) ≠ n) then some 4
  else if !dZeroCount d && !rangesOpen s n d then some 3
  else if dZeroCount d then some 1
  else if !dAligned d then some 0x11
  else none

/-! ### Tiles (R360) -/

/-- Number of tiles of a MATMUL, CONV2D, VEC or COPY. -/
def bodyTiles (d : List Byte) : Nat :=
  match dOp d with
  | 0x10 => ceilDiv (leAt d 48 2) 128 * ceilDiv (leAt d 50 2) 128
  | 0x11 => ceilDiv (convM (convOf d)) 128 * ceilDiv (convOf d).cout 128
  | 0x18 => ceilDiv (leAt d 32 4) (32768 / leAt d 36 2)
  | 0x08 => leAt d 28 4 * ceilDiv (leAt d 24 4) 65536
  | _ => 0

/-- Read a list of ranges; none when one of them is uncorrectable. The bytes read from DRAM are noted for the byte bucket (R447). -/
def readAll (l : List (Nat × Nat)) (s : State) : State × Option (List (List Byte)) :=
  let r := l.foldl (fun (a : State × Option (List (List Byte))) p =>
    let x := readRange p.1 p.2 a.1
    (x.1, match a.2, x.2 with
      | some t, some b => some (b :: t)
      | _, _ => none)) (s, some [])
  ({ r.1 with pack := { r.1.pack with fetched := r.1.pack.fetched +
      ((l.filter (fun p => decide (0x4000000000 ≤ p.1))).map Prod.snd).sum } }, r.2.map List.reverse)

/-- The rows that a tile's blocks form: from A rows, B columns, starting values and scales. -/
def blockRows (t : Nat) (relu isInt : Bool) (scales : Option (List Byte)) (as bs : List (List Fp)) (cs : List (List Fp)) :
    List (List Byte) :=
  (List.zip as cs).map (fun r =>
    padRow (packRow t ((List.zip (List.zip bs r.2) (List.range bs.length)).map (fun q =>
      matOut t relu (scales.map (fun l => scaleEntry l q.2)) (dotAcc isInt q.1.2 r.1 q.1.1)))))

/-- The transposed list of rows, each of `n` elements. -/
def columns (n : Nat) (rows : List (List Fp)) : List (List Fp) :=
  (List.range n).map (fun j => rows.map (fun r => r.getD j (.fin false 0 0)))

/-- What a tile of MATMUL writes (R360, R375). -/
def matmulTile (d : List Byte) (t : Nat) (s : State) : State × Option (List (Nat × List Byte)) :=
  let m := leAt d 48 2
  let n := leAt d 50 2
  let k := leAt d 52 2
  let at' := bits (leAt d 54 1) 3 0
  let bt := bits (leAt d 54 1) 7 4
  let dt := bits (leAt d 55 1) 3 0
  let tr := bit (leAt d 55 1) 4
  let nb := ceilDiv n 128
  let r0 := t / nb * 128
  let c0 := t % nb * 128
  let rn := min 128 (m - r0)
  let cn := min 128 (n - c0)
  let reads := (List.range rn).map (fun i => (leAt d 8 8 + (r0 + i) * leAt d 56 2, rowBytes at' k)) ++
    (if tr then (List.range cn).map (fun j => (leAt d 16 8 + (c0 + j) * leAt d 58 2, rowBytes bt k))
     else (List.range k).map (fun j => (leAt d 16 8 + j * leAt d 58 2 + c0 * typeBits bt / 8, rowBytes bt cn))) ++
    (if leAt d 24 8 = 0 then [] else (List.range rn).map (fun i => (leAt d 24 8 + (r0 + i) * leAt d 60 2 * 64 + 4 * c0, 4 * cn))) ++
    (if leAt d 40 8 = 0 then [] else [(leAt d 40 8 + 8 * c0, 8 * cn)])
  match readAll reads s with
  | (s, none) => (s, none)
  | (s, some rows) =>
    let as := (rows.take rn).map (rowElems at' k)
    let nB := if tr then cn else k
    let bRows := (rows.drop rn).take nB
    let bs := if tr then bRows.map (rowElems bt k) else columns cn (bRows.map (rowElems bt cn))
    let rest := rows.drop (rn + nB)
    let cs := if leAt d 24 8 = 0 then List.replicate rn (List.replicate cn (.fin false 0 0))
      else (rest.take rn).map (rowElems (if intAcc at' then 8 else 7) cn)
    let sc := if leAt d 40 8 = 0 then none else rest.getLast?
    (s, some ((List.zip (List.range rn) (blockRows dt (bit (leAt d 55 1) 5) (intAcc at') sc as bs cs)).map (fun p =>
      (leAt d 32 8 + (r0 + p.1) * leAt d 62 2 * 64 + c0 * typeBits dt / 8, p.2))))

/-- The reads of one patch: the input pixel of each kernel position, none in the padding. -/
def patchPixels (d : List Byte) (c : Conv) (p : Nat) : List (Option Nat) :=
  let ow := convOw c
  let oh := convOh c
  let img := p / (oh * ow)
  let oy := p / ow % oh
  let ox := p % ow
  (List.range (c.kh * c.kw)).map (fun i =>
    let y := oy * c.sh + i / c.kw * c.dh
    let x := ox * c.sw + i % c.kw * c.dw
    if c.pt ≤ y ∧ y - c.pt < c.h ∧ c.pl ≤ x ∧ x - c.pl < c.w then
      some (leAt d 8 8 + ((img * c.h + (y - c.pt)) * c.w + (x - c.pl)) * c.pix)
    else none)

/-- What a tile of CONV2D writes (R377). -/
def convTile (d : List Byte) (t : Nat) (s : State) : State × Option (List (Nat × List Byte)) :=
  let c := convOf d
  let k := convK c
  let nb := ceilDiv c.cout 128
  let r0 := t / nb * 128
  let c0 := t % nb * 128
  let rn := min 128 (convM c - r0)
  let cn := min 128 (c.cout - c0)
  let pix := (List.range rn).map (fun i => patchPixels d c (r0 + i))
  let addrs := (pix.flatMap id).filterMap id
  let reads := addrs.map (fun a => (a, rowBytes c.it c.cin)) ++
    (List.range cn).map (fun j => (leAt d 16 8 + (c0 + j) * up64 (rowBytes c.wt k), rowBytes c.wt k)) ++
    (if leAt d 32 8 = 0 then [] else [(leAt d 32 8 + 8 * c0, 8 * cn)])
  match readAll reads s with
  | (s, none) => (s, none)
  | (s, some rows) =>
    let look := List.zip addrs rows
    let zero := List.replicate c.cin (Fp.fin false 0 0)
    let as := pix.map (fun l => l.flatMap (fun o => match o with
      | none => zero
      | some a => match look.find? (fun q => q.1 = a) with
        | some q => rowElems c.it c.cin q.2
        | none => zero))
    let bs := ((rows.drop addrs.length).take cn).map (rowElems c.wt k)
    let cs := List.replicate rn (List.replicate cn (Fp.fin false 0 0))
    let sc := if leAt d 32 8 = 0 then none else rows.getLast?
    (s, some ((List.zip (List.range rn) (blockRows c.ot c.relu (intAcc c.it) sc as bs cs)).map (fun p =>
      (leAt d 24 8 + (r0 + p.1) * up64 (rowBytes c.ot c.cout) + c0 * typeBits c.ot / 8, p.2))))

/-- What a tile of VEC writes (R380, R381). -/
def vecTile (d : List Byte) (t : Nat) (s : State) : State × Option (List (Nat × List Byte)) :=
  let rows := leAt d 32 4
  let cols := leAt d 36 2
  let v := leAt d 38 1
  let st := bits (leAt d 39 1) 3 0
  let dt := bits (leAt d 39 1) 7 4
  let per := 32768 / cols
  let r0 := t * per
  let rn := min per (rows - r0)
  let reads := (List.range rn).map (fun i => (leAt d 8 8 + (r0 + i) * leAt d 40 4, rowBytes st cols)) ++
    (if vopBinary v then (List.range rn).map (fun i => (leAt d 16 8 + (r0 + i) * leAt d 44 4, rowBytes st cols)) else []) ++
    (if vopNorm v then [(leAt d 16 8, 8 * cols)] else [])
  match readAll reads s with
  | (s, none) => (s, none)
  | (s, some got) =>
    let g := if vopNorm v then rowElems 7 (2 * cols) (got.getLast?.getD []) else []
    (s, some ((List.range rn).map (fun i =>
      let a := rowElems st cols (got.getD i [])
      let b := if vopBinary v then rowElems st cols (got.getD (rn + i) []) else []
      (leAt d 24 8 + (r0 + i) * leAt d 48 4,
       padRow (packRow dt ((vecRow v cols (leAt d 52 4) (leAt d 56 4) a b g).map (convertTo dt)))))))

/-- What a tile of COPY writes (R382). -/
def copyTile (d : List Byte) (t : Nat) (s : State) : State × Option (List (Nat × List Byte)) :=
  let rb := leAt d 24 4
  let per := ceilDiv rb 65536
  let off := t % per * 65536
  let len := min 65536 (rb - off)
  match readAll [(leAt d 8 8 + t / per * leAt d 32 4 + off, len)] s with
  | (s, none) => (s, none)
  | (s, some b) => (s, some [(leAt d 16 8 + t / per * leAt d 36 4 + off, b.flatten)])

/-- The 16-bit distance `a` - `b` modulo 2^16. -/
def dist16 (a b : Nat) : Nat := (a + 65536 - b % 65536) % 65536

end Sys2Proof.Machine
end

