-- ==== Sys2Proof/Machine/CimOps.lean ====
section
/-! DEFINITION. CIM tiles (09): layer tables, macros, calibration, weight images, and the commands of calibration. -/

namespace Sys2Proof.Machine

/-! ### Tiles and macros -/

/-- Cell row `r` of a macro: 256 bytes (R419). -/
def cellRow (s : State) (t m r : Nat) : List Byte :=
  padTo 256 (slice (tabGet (fun _ => []) s.cim.cells (t * 512 + m * 8 + r / 64)) (r % 64 * 256) 256)

/-- The layers of a tile. -/
def ctLayers (s : State) (t : Nat) : List Layer := (getCt s t).layers.filterMap Prod.snd

/-- The layer (MODEL_ID, LAYER) of a tile. -/
def findLayer (s : State) (t model num : Nat) : Option Layer :=
  (ctLayers s t).find? (fun l => decide (l.model = model ∧ l.num = num))

/-- The macros of a layer (R418). -/
def layerMacros (l : Layer) : List Nat := (List.range (l.gr * l.gc)).map (· + l.first)

/-- Whether a layer has 8-bit weights. -/
def layerEight (l : Layer) : Bool := bit l.flags 0

/-- Whether a layer runs in fine mode. -/
def layerFine (l : Layer) : Bool := bit l.flags 1

/-- Whether a macro of a layer is in LOADING. -/
def layerLoading (s : State) (t : Nat) (l : Layer) : Bool := (layerMacros l).any (fun m => !(getMacro s t m).ready)

/-- Empty a tile's layer table and put every macro in LOADING (R429, R474). -/
def ctEmpty (t : Nat) (s : State) : State :=
  { s with cim := { s.cim with
      tiles := tabUpd (fun _ => {}) s.cim.tiles t (fun v => { v with layers := [], cal := none, writing := none })
      macros := s.cim.macros.filter (fun p => decide (p.1 / 64 ≠ t)) } }

/-! ### CIM_RUN (R400 to R404) -/

/-- The layer that a CIM_RUN names on a tile. -/
def runLayer (s : State) (d : List Byte) (t : Nat) : Option Layer := findLayer s t (leAt d 32 4) (leAt d 36 2)

/-- The checks of R403 on the tiles of the sets; the third only at the start. -/
def cimRunCheck (s : State) (d : List Byte) (tiles : List Nat) (first : Bool) : Option Nat :=
  if tiles.any (fun t => (runLayer s d t).isNone) then some 0x90
  else if tiles.any (fun t => (runLayer s d t).any (layerLoading s t)) then some 6
  else if !first then none
  else
    let shape := fun (l : Layer) => (l.k, l.n, l.flags % 4)
    let ls := tiles.filterMap (runLayer s d)
    if ls.all (fun l => decide (l.k = leAt d 38 2 ∧ l.n = leAt d 44 2)) && ls.all (fun l => some (shape l) = ls.head?.map shape) &&
      decide (rowBytes (leAt d 47 1) (leAt d 44 2) ≤ leAt d 52 4) then none else some 0x10

/-- Vectors per work tile (R398). -/
def workVectors (l : Layer) : Nat := if layerFine l then 2 else 4

/-- What a work tile writes, its saturations and its conversions (R394, R395, R402, R404). -/
def cimRunTile (d : List Byte) (t work : Nat) (s : State) : State × Option (List (Nat × List Byte) × Nat × Nat) :=
  match runLayer s d t with
  | none => (s, none)
  | some l =>
    let v := workVectors l
    let v0 := work * v
    let vn := min v (leAt d 40 4 - v0)
    let reads := (List.range vn).map (fun i => (leAt d 8 8 + (v0 + i) * leAt d 48 4, l.k)) ++
      (if leAt d 24 8 = 0 then [] else [(leAt d 24 8, 8 * l.n)])
    match readAll reads s with
    | (s, none) => (s, none)
    | (s, some rows) =>
      let w := if layerEight l then 256 else 512
      let sc := if leAt d 24 8 = 0 then none else rows.getLast?
      let uns := bit (leAt d 46 1) 0
      let cells := fun (r c : Nat) => (List.range 512).map (fun k => cellRow s t (l.first + r * l.gc + c) k)
      let one := fun (x : List Byte) =>
        let gridIn := (List.range l.gr).map (fun r => padTo 512 (slice x (512 * r) 512))
        let outs := (List.range l.gc).flatMap (fun c =>
          let cs := (List.range l.gr).map (fun r => cells r c)
          (List.range (min w (l.n - c * w))).map (fun j =>
            cimDot uns (List.zipWith (fun (g : List Byte) (rw : List (List Byte)) =>
              (g.map BitVec.toNat, rw.map (fun cr => cimWeight (layerEight l) cr j))) gridIn cs)))
        let conv := (gridIn.map (fun g => rowConversions (layerFine l) (g.map BitVec.toNat))).sum * l.gc
        (padRow (packRow (leAt d 47 1) ((List.zip outs (List.range outs.length)).map (fun p =>
            matOut (leAt d 47 1) (bit (leAt d 46 1) 1) (sc.map (fun q => scaleEntry q p.2)) (.int p.1.1)))),
          (outs.map Prod.snd).sum, conv)
      let res := (rows.take vn).map one
      (s, some ((List.zip (List.range vn) res).map (fun p => (leAt d 16 8 + (v0 + p.1) * leAt d 52 4, p.2.1)),
        (res.map (fun p => p.2.1)).sum, (res.map (fun p => p.2.2)).sum))

/-! ### Weight images (R415 to R422) -/

/-- A layer table entry of an image. -/
def imageLayer (model : Nat) (e : List Byte) : Layer :=
  { model := model, num := leAt e 0 2, first := leAt e 2 1, gr := leAt e 3 1, gc := leAt e 4 1, flags := leAt e 5 1,
    k := leAt e 6 2, n := leAt e 8 2 }

/-- Whether a layer table entry is as R417 and R418 lay down. -/
def layerOk (e : List Byte) : Bool :=
  let l := imageLayer 0 e
  let w := if layerEight l then 256 else 512
  decide (l.flags < 4 ∧ 1 ≤ l.k ∧ l.k ≤ 4096 ∧ 1 ≤ l.n ∧ l.n ≤ (if layerEight l then 16384 else 32768) ∧
    l.gr = ceilDiv l.k 512 ∧ l.gc = ceilDiv l.n w ∧ l.first ≤ 63 ∧ l.first + l.gr * l.gc ≤ 64) && dZero e 10 31

/-- Offset of the first macro record of an image with `n` layers. -/
def imageRecords (n : Nat) : Nat := 64 + up64 (32 * n)

/-- Whether the members of a list are distinct. -/
def distinct : List Nat → Bool
  | [] => true
  | a :: t => !t.contains a && distinct t

/-- Header and layer table of an image: its layers, when they are valid (R416 to R418). -/
def imageHead (size : Nat) (h : List Byte) (table : List Byte) : Option (List Layer) :=
  let n := leAt h 8 2
  let es := (List.range n).map (fun i => slice table (32 * i) 32)
  let ls := es.map (imageLayer (leAt h 12 4))
  if h.take 4 = ascii "CIMW" ∧ leAt h 4 2 = 1 ∧ 1 ≤ leAt h 6 2 ∧ leAt h 6 2 ≤ 64 ∧ 1 ≤ n ∧ n ≤ 64 ∧ leAt h 10 2 = 0 ∧
    leAt h 16 4 = size ∧ size = imageRecords n + leAt h 6 2 * 131136 ∧ dZero h 20 59 ∧
    (table.drop (32 * n)).all (fun b => b = 0) ∧ leAt h 60 4 = crc32c (h.take 60 ++ table) ∧
    es.all layerOk ∧ distinct (ls.flatMap layerMacros) then some ls else none

/-- The record headers of an image: macro and CRC, when they are valid (R419, R421). -/
def imageRecs (ls : List Layer) (hs : List (List Byte)) : Option (List (Nat × Nat)) :=
  let rs := hs.map (fun h => (leAt h 0 1, leAt h 4 4))
  if hs.all (fun h => decide (leAt h 0 1 ≤ 63) && dZero h 1 3 && dZero h 8 63) ∧ distinct (rs.map Prod.fst) ∧
    (ls.flatMap layerMacros).all (fun m => (rs.map Prod.fst).contains m) then some rs else none

/-- The claim number of a command (R427). -/
def claimOf (n q index : Nat) : Nat := (n * 256 + q) * 65536 + index + 1

/-- The lowest empty slot of a layer table takes a layer (log entry 29). -/
def addLayer (t : Tab (Option Layer)) (l : Layer) : Tab (Option Layer) :=
  match (List.range 64).find? (fun i => (tabGet (fun _ => none) t i).isNone) with
  | some i => tabSet (fun _ => none) t i (some l)
  | none => t

/-- The start of a valid CIM_LOAD (R422): its macros enter LOADING, the layers that use one of them go, the image's layers come. -/
def loadBegin (t claim : Nat) (ls : List Layer) (recs : List (Nat × Nat)) (s : State) : State :=
  let ms := recs.map Prod.fst
  let s := ms.foldl (fun u m => putMacro t m { claim := claim } u) s
  let keep := (getCt s t).layers.filter (fun p => !(p.2.any (fun l => (layerMacros l).any (fun m => ms.contains m))))
  putCt t { getCt s t with layers := ls.foldl addLayer keep } s

/-- Read and check the image of a CIM_LOAD at its start: a status, or its layers and records (R421). -/
def loadImage (d : List Byte) (s : State) : State × Except Nat (List Layer × List (Nat × Nat)) :=
  let a := leAt d 8 8
  let size := leAt d 16 4
  match readRange a (min 64 size) s with
  | (s, none) => (s, .error 9)
  | (s, some h) =>
    let n := leAt h 8 2
    let lim := imageRecords n
    if size < lim ∨ 64 < n then (s, .error 0x91) else
    match readRange (a + 64) (lim - 64) s with
    | (s, none) => (s, .error 9)
    | (s, some table) =>
      match imageHead size h table with
      | none => (s, .error 0x91)
      | some ls =>
        match readAll ((List.range (leAt h 6 2)).map (fun i => (a + lim + i * 131136, 64))) s with
        | (s, none) => (s, .error 9)
        | (u, some hs) =>
          let u := { u with pack := s.pack }
          match imageRecs ls hs with
          | none => (u, .error 0x91)
          | some rs => (u, .ok (ls, rs))

/-- CRC of the cells of a macro as written. -/
def macroCrc (s : State) (t m : Nat) : Nat :=
  crc32c ((List.range 8).flatMap (fun c => padTo 16384 (tabGet (fun _ => []) s.cim.cells (t * 512 + m * 8 + c))))

/-! ### Calibration (R405 to R414) -/

/-- Enabled calibration windows of the table in force. -/
def calWindows (s : State) : List Nat :=
  (List.range (leAt (rosterTable s) 6 2)).filter (fun i => slotEnabled (rosterTable s) i && decide (slotField (rosterTable s) i 4 1 = 1))

/-- Whether an enabled instance slot uses a CIM tile (R461). -/
def slotUses (s : State) (tbl : List Byte) (i t : Nat) : Bool :=
  slotEnabled tbl i && decide (slotField tbl i 4 1 = 0) &&
  (bit (slotField tbl i 12 2) t || decide (engineKind s (32 + t) = (1, some (slotField tbl i 5 1))))

/-- Whether a calibration of a tile may start now under R413. -/
def windowOpen (s : State) (t : Nat) : Bool :=
  let tbl := rosterTable s
  if calWindows s = [] || !(List.range (leAt tbl 6 2)).any (fun i => slotUses s tbl i t) then true
  else s.pack.active.any (fun i => decide (slotField tbl i 4 1 = 1) && bit (slotField tbl i 12 2) t &&
    decide ((gnow s) + 24000 ≤ s.pack.frameAt + (slotField tbl i 0 2 + slotField tbl i 2 2) * 50000))

/-- Whether a work tile of a CIM tile has started and not committed. -/
def ctBusy (s : State) (t : Nat) : Bool := bit (enginesBusy s) (32 + t)

/-- The macro that the maintenance port takes next: the earliest due that no hold defers, the lower number on a tie (R410). -/
def nextDue (s : State) (t : Nat) : Option Nat :=
  let held := calHeld s t
  ((List.range 64).filter (fun m => (getMacro s t m).due.isSome && ((getMacro s t m).overdue || !held))).foldl
    (fun r m => match r with
      | none => some m
      | some b => if (getMacro s t m).due.getD 0 < (getMacro s t b).due.getD 0 then some m else some b) none

/-- A macro becomes due now. -/
def makeDue (t m : Nat) (s : State) : State :=
  let x := getMacro s t m
  if x.ready && x.due.isNone then putMacro t m { x with due := some s.now } s else s

/-- CAL_DUE (R408): the calibration period has passed, or the tile's sensor has moved by the step. -/
def execCalDue (tile : Fin 16) (macroNo : Fin 64) (tempC10 : Int) (s : State) : Host.Outcome State Fault Refusal :=
  let t := tile.val
  let x := getMacro s t macroNo.val
  .next (if !isUp s || !x.ready || x.due.isSome then s else
    let s := putCt t { getCt s t with temp := tempC10 } s
    if odUse s (odKey 0x2A00 2) ≤ (tempC10 - x.calTemp).natAbs then makeDue t macroNo.val s
    else makeDue t macroNo.val (advanceTo (x.calAt + ms (odUse s (odKey 0x2A00 1))) s))

/-- CALIBRATION_START (R410 to R413): at a work-tile boundary, with the port free. -/
def execCalibrationStart (tile : Fin 16) (s : State) : Host.Outcome State Fault Refusal :=
  let t := tile.val
  let c := getCt s t
  .next (if !isUp s || c.cal.isSome || c.writing.isSome || ctBusy s t || !windowOpen s t then s else
    match nextDue s t with
    | some m => putCt t { c with cal := some (m, s.now + 24000) } s
    | none => s)

/-- Finish every CIM_LOAD whose tiles are all committed and whose macros have all left LOADING (R425). -/
def loadsFinish (t : Nat) (s : State) : State :=
  let fin := fun (c : Cmd) => cmdRunning c && dOp c.desc = 0x21 && leAt c.desc 20 1 = t && decide (c.done = c.tiles) &&
    c.recs.all (fun r => (getMacro s t r.1).ready)
  let k := ((s.pack.queues.flatMap (fun p => p.2.cmds)).filter fin).length
  odCount (odKey 0x2A00 6) k (mapQueues (fun _ q =>
    let ended := (q.cmds.filter fin).map (fun c => { c with run := [] })
    { q with cmds := (q.cmds.filter (fun c => !(fin c && c.silent))).map (fun c => if fin c then { c with status := some 0, started := false } else c),
             since := q.since ++ ended }) s)

/-- Whether fitted values lie in their ranges (R405). -/
def fitOk (fit : List (Nat × Nat)) : Bool := fit.all (fun p => decide (1 ≤ p.1 ∧ p.1 ≤ 4095 ∧ p.2 ≤ 4095))

/-- CALIBRATION_DONE (R406, R407, R424): the macro is calibrated; one of a CIM_LOAD leaves LOADING. -/
def execCalibrationDone (tile : Fin 16) (fit : List (Nat × Nat)) (residualOk : Bool) (s : State) :
    Host.Outcome State Fault Refusal :=
  let t := tile.val
  .next (match (getCt s t).cal with
    | none => s
    | some (m, e) =>
      if !blocksOn s then s else
      let s := advanceTo e s
      let s := putCt t { getCt s t with cal := none } s
      if !fitOk fit || !residualOk then raiseAlarm 0x14 s else
      let x := getMacro s t m
      let s := putMacro t m { x with ready := true, due := none, overdue := false, calAt := s.now, calTemp := (getCt s t).temp, fit := fit } s
      loadsFinish t (odCount (odKey 0x2A00 4) 1 (regCount 0x13000200 1 s)))

/-- CAL_OVERDUE (R412, R413): a due macro has been deferred for the hold limit. -/
def execCalOverdue (tile : Fin 16) (macroNo : Fin 64) (s : State) : Host.Outcome State Fault Refusal :=
  let t := tile.val
  let x := getMacro s t macroNo.val
  .next (match x.due with
    | none => s
    | some b =>
      if !isUp s || x.overdue || (getCt s t).cal.any (fun c => c.1 = macroNo.val) then s else
      let s := advanceTo (b + ms (odUse s (odKey 0x2A00 3))) s
      raiseAlarm 0x91 (putMacro t macroNo.val { x with overdue := true } s))

end Sys2Proof.Machine
end

