-- ==== Sys2Proof/Machine/Kennel.lean ====
section
/-! DEFINITION. The Kennel (11): pages, sequences, victims and swaps, the KSEQ_CMD operations; and the events of an instance page
(R513, R538, R541). -/

namespace Sys2Proof.Machine

/-! ### Events of an instance page -/

/-- Set a bit of INST_EVENT and send a message to the event source of an instance. -/
def instEvent (n b : Nat) (s : State) : State := sendMsg (1024 + n) (regSetBits (instPage n + 0x28) (2 ^ b) s)

/-- Count a late result that is discarded (R538). -/
def lateResult (n : Nat) (s : State) : State :=
  odCount (instKey n 0x0A) 1 (regCount (instPage n + 0x3C) 1 s)

/-- One increment of an instance's configuration generation (R540, R541). -/
def configChanged (n : Nat) (s : State) : State :=
  let i := getInst s n
  let j := { i with cfgGen := (i.cfgGen + 1) % 65536 }
  if i.state = 1 then instEvent n 0 (putInst n j s)
  else putInst n { j with cfgDue := j.cfgDue || i.state = 2 } s

/-! ### Sequences and pages (R482 to R489) -/

/-- Sequence `h`. -/
def getSeq (s : State) (h : Nat) : Seq := tabGet (fun _ => {}) s.kennel.seqs h

/-- Replace a sequence. -/
def putSeq (h : Nat) (v : Seq) (s : State) : State :=
  { s with kennel := { s.kennel with seqs := tabSet (fun _ => {}) s.kennel.seqs h v } }

/-- VB of R485 for a type and HEAD_DIM. -/
def vecBytes (typ dim : Nat) : Nat := up64 (dim * typeBits typ / 8)

/-- ENTRY_BYTES. -/
def entryBytes (q : Seq) : Nat := q.layers * q.heads * 2 * vecBytes q.typ q.dim

/-- Bytes of a page of size code `c` (R487). -/
def pageSize (c : Nat) : Nat := 4096 * 2 ^ c

/-- Size code of the first page of a sequence. -/
def firstCode (eb : Nat) : Nat := ((List.range 10).find? (fun c => decide (eb ≤ pageSize c))).getD 9

/-- Size code and first position of the page after a list of pages. -/
def nextPage (q : Seq) (pages : List Page) : Nat × Nat :=
  match pages.getLast? with
  | none => (firstCode (entryBytes q), q.base)
  | some g => (min 9 (g.code + 1), g.first + g.held)

/-- First byte of the pool's pages, behind the sequence table and the page lists (R482). -/
def pageArea (s : State) : Nat := 0x4000000000 + (s.kennel.base + 2) * 0x200000

/-- Address and length of every page in use or still to be zeroed. -/
def pagesTaken (s : State) : List (Nat × Nat) :=
  (s.kennel.seqs.flatMap (fun p => p.2.pages.map (fun g => (g.addr, pageSize g.code)))) ++
  s.kennel.zeroing.map (fun z => (z.1, pageSize z.2))

/-- The first free place of a page from place `i` on, cyclically among `count` places. -/
def freePlace (taken : List (Nat × Nat)) (lo size count : Nat) : Nat → Nat → Option Nat
  | 0, _ => none
  | f + 1, i =>
    let a := lo + i % count * size
    if taken.any (fun r => rangesMeet r (a, size)) then freePlace taken lo size count f (i + 1) else some a

/-- Take a free page of a size code; which one is a free value. -/
def takePage (extra : List (Nat × Nat)) (c : Nat) (s : State) : State × Option Nat :=
  let count := (s.kennel.size - 2) * 2 ^ (9 - c)
  (takeFree s, if count = 0 then none else freePlace (extra ++ pagesTaken s) (pageArea s) (pageSize c) count count (freeValue s % count))

/-- Add pages to a list until it covers the positions below `lim`; none when no free page is found. -/
def growPages (q : Seq) (lim : Nat) : Nat → List Page → State → State × Option (List Page)
  | 0, acc, s => (s, some acc)
  | f + 1, acc, s =>
    let nx := nextPage q acc
    if lim ≤ nx.2 then (s, some acc) else
    match takePage (acc.map (fun g => (g.addr, pageSize g.code))) nx.1 s with
    | (s, none) => (s, none)
    | (s, some a) => growPages q lim f (acc ++ [{ addr := a, code := nx.1, first := nx.2, held := pageSize nx.1 / entryBytes q }]) s

/-- Size codes that an allocation up to `lim` needs. -/
def needCodes (q : Seq) (lim : Nat) : Nat → List Page → List Nat
  | 0, _ => []
  | f + 1, acc =>
    let nx := nextPage q acc
    if lim ≤ nx.2 then []
    else nx.1 :: needCodes q lim f (acc ++ [{ addr := 0, code := nx.1, first := nx.2, held := pageSize nx.1 / entryBytes q }])

/-- What an allocation finds: the pages taken, a quota shortfall, or no free page of the size. -/
inductive AllocRes where
  | granted
  | overQuota
  | noPage
  deriving DecidableEq, Repr

/-- Allocate the pages that sequence `h` needs to cover the positions below `lim` (R487, R509). -/
def tryAlloc (h lim : Nat) (s : State) : State × AllocRes :=
  let q := getSeq s h
  let need := needCodes q lim lim q.pages
  if need ≠ [] ∧ odGet s (instKey q.inst 0x28) * 0x100000 < kennelUse s q.inst + (need.map pageSize).sum then (s, .overQuota) else
  match growPages q lim lim q.pages s with
  | (t, some l) => (putSeq h { q with pages := l } t, .granted)
  | (t, none) => (t, .noPage)

/-- Address of the entry of a position, when a page holds it. -/
def entryAddr (q : Seq) (p : Nat) : Option Nat :=
  (q.pages.find? (fun g => decide (g.first ≤ p ∧ p < g.first + g.held))).map (fun g => g.addr + (p - g.first) * entryBytes q)

/-- Offset of the K vector of a layer and head within an entry (R486). -/
def kOffset (q : Seq) (layer head : Nat) : Nat := (layer * q.heads + head) * 2 * vecBytes q.typ q.dim

/-- Zero a range: bytes, symbol errors and poison go. -/
def memZero (a len : Nat) (s : State) : State :=
  let out := fun (x : Nat) => decide (x < a ∨ a + len ≤ x)
  let g := fun (x : Nat) => decide (0x4000000000 + x * 64 < a ∨ a + len ≤ 0x4000000000 + x * 64)
  { s with mem := s.mem.filter (fun p => out p.1),
           memCtl := { s.memCtl with
             dramErr := s.memCtl.dramErr.filter (fun p => g (p.1 / 80))
             poison := s.memCtl.poison.filter (fun p => g p.1)
             scrubDue := s.memCtl.scrubDue.filter g } }

/-- Pages given back, to be zeroed before they are free (R483). -/
def giveBack (l : List Page) (s : State) : State :=
  { s with kennel := { s.kennel with zeroing := s.kennel.zeroing ++ l.map (fun g => (g.addr, g.code)) } }

/-- Free a sequence: its pages go back, a swapped image is abandoned, a waiting request goes. -/
def freeSeq (h : Nat) (s : State) : State :=
  let s := giveBack (getSeq s h).pages s
  let s := putSeq h {} s
  { s with kennel := { s.kennel with waits := s.kennel.waits.filter (fun w => decide (w.1 ≠ h)) } }

/-- Release the pages wholly below BASE or at or beyond LENGTH (R495). -/
def releasePages (h : Nat) (s : State) : State :=
  let q := getSeq s h
  let keep := fun (g : Page) => decide (q.base < g.first + g.held ∧ g.first < q.length)
  giveBack (q.pages.filter (fun g => !keep g))
    (putSeq h { q with pages := q.pages.filter keep, relDue := false, relAfter := [] } s)

/-- A command names a sequence: ATTN or ATTN_VERIFY with SEQ = `h`. -/
def cmdNames (h : Nat) (c : Cmd) : Bool := (dOp c.desc = 0x28 || dOp c.desc = 0x29) && decide (leAt c.desc 50 2 = h)

/-- A command that has started and not yet ended. -/
def cmdLive (c : Cmd) : Bool := c.begun && c.status.isNone

/-- Queue key and index of every started command that names a sequence. -/
def namedBy (s : State) (h : Nat) : List (Nat × Nat) :=
  s.pack.queues.flatMap (fun p => (p.2.cmds.filter (fun c => cmdLive c && cmdNames h c)).map (fun c => (p.1, c.index)))

/-- What follows once started commands have ended: pages are released, and victims begin their swap-out (R495, R510). -/
def kennelSettle (s : State) : State :=
  s.kennel.seqs.foldl (fun t p =>
    let names := namedBy t p.1
    let t := if p.2.relDue && !(p.2.relAfter.any (fun c => names.contains c)) then releasePages p.1 t else t
    if p.2.doomed && names.isEmpty then putSeq p.1 { getSeq t p.1 with state := 2, doomed := false } t else t) s

/-! ### Victims (R509, R510) -/

/-- The order in which victims are chosen. -/
def seqBefore (a b : Nat × Seq) : Bool :=
  decide (a.2.prio < b.2.prio) || (decide (a.2.prio = b.2.prio) && (decide (a.2.lastUse < b.2.lastUse) ||
    (decide (a.2.lastUse = b.2.lastUse) && decide (a.1 < b.1))))

/-- The victim of a request for sequence `h`. -/
def victimOf (s : State) (h : Nat) (swapIn quota : Bool) : Option Nat :=
  let own := (getSeq s h).inst
  let cand := s.kennel.seqs.filter (fun p => decide (p.2.state = 1 ∧ p.1 ≠ h) && !p.2.doomed &&
    (decide (p.2.inst = own) || (!quota && !swapIn && decide (odGet s (instKey p.2.inst 0x20) = 0))))
  (cand.foldl (fun (r : Option (Nat × Seq)) p => match r with
    | none => some p
    | some b => if seqBefore p b then some p else some b) none).map Prod.fst

/-- Choose a victim: a started ATTN that names it stops with SWAPPED_OUT at its next tile boundary. -/
def makeVictim (h : Nat) (s : State) : State :=
  let s := putSeq h { getSeq s h with doomed := true } s
  let hit := fun (c : Cmd) => decide (dOp c.desc = 0x28) && cmdNames h c && cmdLive c
  kennelSettle (mapQueues (fun _ q => settleQueue { q with cmds := q.cmds.map (fun c =>
    if hit c then (if c.started then { c with stop := some (.ends 0x0E), stopAt := s.now } else { c with status := some 0x0E })
    else c) }) s)

/-- Whether a swap-out in progress can bring relief to a request. -/
def reliefDue (s : State) (h : Nat) (quota : Bool) : Bool :=
  s.kennel.seqs.any (fun p => (p.2.doomed || p.2.state = 2) && (!quota || p.2.inst = (getSeq s h).inst))

/-- The outcome of a request for pages. -/
inductive PageRes where
  | granted
  | waits
  | failed
  deriving DecidableEq, Repr

/-- A shortfall: the request waits for a swap-out in progress, or for that of a new victim, or fails (R509, R511). -/
def shortfall (h : Nat) (swapIn quota relief : Bool) (s : State) : State × PageRes :=
  if relief then (s, .waits) else
  match victimOf s h swapIn quota with
  | some v => (makeVictim v s, .waits)
  | none => (s, .failed)

/-- Request the pages of sequence `h` below `lim` for the queue with a key (0 for a swap-in). -/
def requestPages (h key lim : Nat) (s : State) : State × PageRes :=
  match tryAlloc h lim s with
  | (s, .granted) => (s, .granted)
  | (s, r) =>
    let quota := decide (r = .overQuota)
    match shortfall h (decide (key = 0)) quota (reliefDue s h quota) s with
    | (s, .waits) =>
      (odCount (odKey 0x2B00 7) 1 { s with kennel := { s.kennel with waits := s.kennel.waits ++ [(h, key, s.now)] } }, .waits)
    | r => r

/-- Try a waiting request again: while a swap-out is in progress or a page is being zeroed, it keeps waiting. -/
def retryPages (h key since lim : Nat) (s : State) : State × PageRes :=
  let done := fun (t : State) => { t with kennel := { t.kennel with waits := t.kennel.waits.filter (fun w => decide (w.1 ≠ h ∨ w.2.1 ≠ key)) } }
  match tryAlloc h lim s with
  | (s, .granted) => (odMax (odKey 0x2B00 8) (s.now - since) (done s), .granted)
  | (s, r) =>
    let quota := decide (r = .overQuota)
    match shortfall h (decide (key = 0)) quota (reliefDue s h quota || (!quota && decide (s.kennel.zeroing ≠ []))) s with
    | (s, .failed) => (done s, .failed)
    | r => r

/-! ### Swaps (R511 to R514) -/

/-- The descriptor of a sequence (R488). -/
def seqDesc (h : Nat) (q : Seq) : List Byte :=
  leBytes 2 h ++ leBytes 1 q.state ++ leBytes 1 q.prio ++ leBytes 1 q.inst ++ [0] ++ leBytes 2 q.gen ++ leBytes 4 q.base ++
  leBytes 4 q.length ++ leBytes 2 q.pages.length ++ leBytes 1 q.layers ++ leBytes 1 q.heads ++ leBytes 2 q.dim ++
  leBytes 1 q.typ ++ [0] ++ leBytes 4 (entryBytes q) ++ zeros 4 ++
  leBytes 8 (if q.pages = [] then 0 else Config.listGranule h 0) ++ leBytes 8 q.swapAddr ++ leBytes 8 q.swapBytes ++
  leBytes 8 q.lastUse

/-- The page-list granules of a sequence (R489). -/
def pageList (h : Nat) (q : Seq) : List Byte :=
  (List.range ((q.pages.length + 6) / 7)).flatMap (fun i =>
    let here := (q.pages.drop (7 * i)).take 7
    padTo 56 (here.flatMap (fun g => leBytes 8 (2 ^ 63 + g.code * 2 ^ 56 + g.held * 2 ^ 40 + g.addr))) ++
    leBytes 8 (if 7 * (i + 1) < q.pages.length then 2 ^ 63 + Config.listGranule h (i + 1) else 0))

/-- A record of the swap ring, or one dropped and counted, and its message (R513). -/
def swapRecord (n gen status kind h len moved : Nat) (s : State) : State :=
  if gen ≠ (getInst s n).gen then lateResult n s else
  let p := instPage n
  let cfg := regRaw s (p + 0x630)
  let th := regRaw s (p + 0x634)
  let size := 2 ^ bits cfg 3 0
  let tail := bits th 31 16
  if !bit cfg 16 ∨ dist16 tail (bits th 15 0) = size then sendMsg (1024 + n) (regCount (p + 0x63C) 1 s)
  else
    let body := leBytes 1 status ++ leBytes 1 kind ++ leBytes 2 h ++ leBytes 2 gen ++ zeros 2 ++ leBytes 4 len ++ zeros 4 ++
      leBytes 8 (gnow s) ++ leBytes 8 moved ++ zeros 31 ++ leBytes 1 (1 - tail / size % 2)
    let s := writeRange (regRaw s (p + 0x628) + tail % size * 64) body s
    instEvent n 2 (regPut (p + 0x634) ((tail + 1) % 65536 * 65536 + bits th 15 0) s)

/-- The positions that a sequence retains. -/
def seqPositions (q : Seq) : List Nat := (List.range (q.length - q.base)).map (· + q.base)

/-- A late swap of an older generation ends here: its record is discarded (R538). -/
def lateSwap (h : Nat) (s : State) : Option State :=
  (s.pack.insts.find? (fun p => p.2.late.any (fun l => l.1 = 256 + h))).map (fun p =>
    lateResult p.1 (putInst p.1 { p.2 with late := p.2.late.filter (fun l => decide (l.1 ≠ 256 + h)) } s))

/-- SWAP_OUT_DONE (R511, R513). -/
def execSwapOutDone (handle : Fin 4096) (s : State) : Host.Outcome State Fault Refusal :=
  let h := handle.val
  .next (if !blocksOn s then s else
    match lateSwap h s with
    | some t => t
    | none =>
      let s := kennelSettle s
      let q := getSeq s h
      if q.state ≠ 2 then s else
      match readAll ((seqPositions q).map (fun p => ((entryAddr q p).getD 0, entryBytes q))) s with
      | (s, none) => swapRecord q.inst q.gen 9 1 h q.length 0 (freeSeq h s)
      | (s, some es) =>
        let img := seqDesc h q
        let s := writeRange q.swapAddr (img ++ es.flatten) s
        let s := giveBack q.pages (putSeq h { q with state := 3, pages := [], image := img } s)
        swapRecord q.inst q.gen 0x0E 1 h q.length (64 + es.length * entryBytes q) (odCount (odKey 0x2B00 5) 1 s))

/-- Whether the image of a sequence carries the descriptor that its swap-out wrote; none when it cannot be read. -/
def imageGood (q : Seq) (s : State) : State × Option Bool :=
  match readRange q.swapAddr 64 s with
  | (s, none) => (s, none)
  | (s, some b) => (s, some (decide (b = q.image)))

/-- A swap-in begins: the image is checked, then its pages are requested (R512). -/
def swapInBegin (h : Nat) (s : State) : State :=
  let q := getSeq s h
  let s := putSeq h { q with state := 4 } s
  match imageGood q s with
  | (s, some true) =>
    match requestPages h 0 q.length s with
    | (s, .failed) => swapRecord q.inst q.gen 0x0D 2 h q.length 0 (putSeq h { getSeq s h with state := 3 } s)
    | (s, _) => s
  | (s, _) => s

/-- A swap-in ends without its entries: the sequence stays SWAPPED and its pages go back (R514). -/
def swapInFail (h status : Nat) (s : State) : State :=
  let q := getSeq s h
  swapRecord q.inst q.gen status 2 h q.length 0 (giveBack q.pages (putSeq h { q with state := 3, pages := [] } s))

/-- SWAP_IN_DONE (R512, R513, R514). -/
def execSwapInDone (handle : Fin 4096) (s : State) : Host.Outcome State Fault Refusal :=
  let h := handle.val
  .next (if !blocksOn s then s else
    match lateSwap h s with
    | some t => t
    | none =>
      let q := getSeq s h
      if q.state ≠ 4 ∨ s.kennel.waits.any (fun w => w.1 = h) then s else
      match imageGood q s with
      | (s, none) => swapInFail h 9 s
      | (s, some false) => swapRecord q.inst q.gen 0xA2 2 h q.length 0 (freeSeq h s)
      | (s, some true) =>
        let b0 := leAt q.image 8 4
        let ps := seqPositions q
        match readAll (ps.map (fun p => (q.swapAddr + 64 + (p - b0) * entryBytes q, entryBytes q))) s with
        | (s, none) => swapInFail h 9 s
        | (s, some es) =>
          let s := (List.zip ps es).foldl (fun t e => writeRange ((entryAddr q e.1).getD 0) e.2 t) s
          swapRecord q.inst q.gen 0 2 h q.length (64 + es.length * entryBytes q)
            (odCount (odKey 0x2B00 6) 1 (putSeq h { q with state := 1 } s)))

/-- PAGE_ZEROED (R483): a page given back is filled with zeros and free again. -/
def execPageZeroed (page : Nat) (s : State) : Host.Outcome State Fault Refusal :=
  .next (match s.kennel.zeroing.find? (fun z => z.1 = page) with
    | some z => memZero z.1 (pageSize z.2) { s with kennel := { s.kennel with zeroing := s.kennel.zeroing.filter (fun y => decide (y.1 ≠ page)) } }
    | none => s)

/-- Free every sequence of an instance; swaps in progress become late (R494, R529 step 3). -/
def kennelFreeInst (n : Nat) (s : State) : State :=
  (s.kennel.seqs.filter (fun p => decide (p.2.inst = n))).foldl (fun t p =>
    let i := getInst t n
    let t := if p.2.state = 2 ∨ p.2.state = 4 then putInst n { i with late := i.late ++ [(256 + p.1, p.2.gen)] } t else t
    freeSeq p.1 t) s

/-! ### Managing sequences (R490 to R493) -/

/-- First handle and count of an instance's handle range (R493). -/
def handleRange (s : State) (n : Nat) : Nat × Nat :=
  let v := odGet s (instKey n 0x29)
  (bits v 27 16, bits v 12 0)

/-- Whether a handle is a sequence of an instance (R492). -/
def ownsSeq (s : State) (n h : Nat) : Bool :=
  let r := handleRange s n
  decide (r.1 ≤ h ∧ h < r.1 + r.2 ∧ (getSeq s h).state ≠ 0 ∧ (getSeq s h).inst = n)

/-- Set KSEQ_RESULT. -/
def kseqResult (n status h : Nat) (s : State) : State :=
  regUpd (instPage n + 0x61C) (fun v => (v &&& 0x40000000) + status * 65536 + h) s

/-- ALLOC. -/
def seqAlloc (n : Nat) (s : State) : State :=
  let p := instPage n
  let sh := regRaw s (p + 0x610)
  let q : Seq := { state := 1, prio := bits sh 11 9, inst := n, gen := (getInst s n).gen, layers := bits sh 31 24,
                   heads := bits sh 23 16, dim := bits sh 8 0, typ := bits sh 15 12, swapAddr := regRaw s (p + 0x600),
                   swapBytes := regRaw s (p + 0x608) }
  let r := handleRange s n
  let h := ((List.range r.2).map (· + r.1)).find? (fun k => decide ((getSeq s k).state = 0))
  if ¬(1 ≤ q.layers ∧ 1 ≤ q.heads ∧ q.heads ≤ 64 ∧ 16 ≤ q.dim ∧ q.dim ≤ 256 ∧ q.dim % 16 = 0 ∧ 3 ≤ q.typ ∧ q.typ ≤ 6 ∧
      entryBytes q ≤ 0x200000) then kseqResult n 0x10 0 s
  else if !openTo s n true q.swapAddr q.swapBytes then kseqResult n 3 0 s
  else if q.swapBytes = 0 then kseqResult n 1 0 s
  else if q.swapAddr % 64 ≠ 0 ∨ q.swapBytes % 64 ≠ 0 then kseqResult n 0x11 0 s
  else match h with
    | none => kseqResult n 0x0D 0 s
    | some k => if s.kennel.size = 0 then kseqResult n 0x0F 0 s else kseqResult n 0 k (putSeq k q s)

/-- FREE. -/
def seqFree (n h : Nat) (s : State) : State :=
  if !ownsSeq s n h then kseqResult n 0xA0 h s
  else if (getSeq s h).state = 2 ∨ (getSeq s h).state = 4 ∨ namedBy s h ≠ [] then kseqResult n 0xA1 h s
  else kseqResult n 0 h (freeSeq h s)

/-- TRIM. -/
def seqTrim (n h : Nat) (s : State) : State :=
  let q := getSeq s h
  if !ownsSeq s n h then kseqResult n 0xA0 h s
  else if q.state = 2 ∨ q.state = 4 then kseqResult n 0xA1 h s
  else kseqResult n 0 h (putSeq h { q with base := min (max q.base (regRaw s (instPage n + 0x614))) q.length } s)

/-- RESUME. -/
def seqResume (n h : Nat) (s : State) : State :=
  if !ownsSeq s n h then kseqResult n 0xA0 h s
  else if (getSeq s h).state = 2 then kseqResult n 0xA1 h s
  else if (getSeq s h).state = 3 then swapInBegin h (kseqResult n 0 h s)
  else kseqResult n 0 h s

/-- QUERY. -/
def seqQuery (n h : Nat) (s : State) : State :=
  let q := getSeq s h
  if !ownsSeq s n h then kseqResult n 0xA0 h s
  else kseqResult n 0 h (regPut (instPage n + 0x620) (q.state * 2 ^ 29 + q.pages.length % 4096 * 65536 + q.base % 65536)
    (regPut (instPage n + 0x624) q.length s))

/-- A write of KSEQ_CMD (R490, R491, R529 step 1). -/
def kseqEff (n v : Nat) (s : State) : WriteRes :=
  let h := bits v 11 0
  if (getInst s n).state ≠ 1 then .done s
  else if bit (regRaw s (instPage n + 0x61C)) 31 then .done (regSetBits (instPage n + 0x61C) 0x40000000 s)
  else .done (match bits v 31 28 with
    | 1 => seqAlloc n s
    | 2 => seqFree n h s
    | 3 => seqTrim n h s
    | 4 => seqResume n h s
    | 5 => seqQuery n h s
    | _ => kseqResult n 0x10 h s)

/-- A command on the register KSEQ_CMD. -/
def kseqWrite (n : Nat) (acc : Access) (op h : Nat) (s : State) : State :=
  regWriteWith (fun _ v _ t => kseqEff n v t) (atReg acc (instPage n + 0x618)) (op * 2 ^ 28 + h) s

/-- KSEQ_ALLOC. -/
def execKseqAlloc (n : Fin 256) (acc : Access) (s : State) : Host.Outcome State Fault Refusal :=
  .next (kseqWrite n.val acc 1 0 s)

/-- KSEQ_FREE. -/
def execKseqFree (n : Fin 256) (acc : Access) (handle : Fin 4096) (s : State) : Host.Outcome State Fault Refusal :=
  .next (kseqWrite n.val acc 2 handle.val s)

/-- KSEQ_TRIM. -/
def execKseqTrim (n : Fin 256) (acc : Access) (handle : Fin 4096) (s : State) : Host.Outcome State Fault Refusal :=
  .next (kseqWrite n.val acc 3 handle.val s)

/-- KSEQ_RESUME. -/
def execKseqResume (n : Fin 256) (acc : Access) (handle : Fin 4096) (s : State) : Host.Outcome State Fault Refusal :=
  .next (kseqWrite n.val acc 4 handle.val s)

/-- KSEQ_QUERY. -/
def execKseqQuery (n : Fin 256) (acc : Access) (handle : Fin 4096) (s : State) : Host.Outcome State Fault Refusal :=
  .next (kseqWrite n.val acc 5 handle.val s)

/-- A write of SWAP_CFG: while ENABLE is 1 only clearing it takes effect; a ring outside a writable window, or a size outside 4 to
12, is not enabled (R524, 11 Registers). -/
def swapCfgEff (n v : Nat) (s : State) : WriteRes :=
  let a := instPage n + 0x630
  let old := regRaw s a
  if bit old 16 then .done (if bit v 16 then s else regPut a (old - 65536) s)
  else if bit v 16 && (decide (bits v 3 0 < 4 ∨ 12 < bits v 3 0) ||
      !openTo s n true (regRaw s (instPage n + 0x628)) (64 * 2 ^ bits v 3 0)) then .done s
  else .done (regPut a (v &&& 0x1000F) s)

end Sys2Proof.Machine
end

