-- ==== Sys2Proof/Machine/PackAttn.lean ====
section
/-! DEFINITION. ATTN and ATTN_VERIFY (R496 to R508): fields, checks at the start, step boundaries, and the bytes each tile writes. -/

namespace Sys2Proof.Machine

/-! ### Fields (R496, R504) -/

/-- The command is an ATTN_VERIFY. -/
def aVerify (d : List Byte) : Bool := decide (dOp d = 0x29)

/-- The command is an ATTN_VERIFY in ACCEPT mode. -/
def aAccept (d : List Byte) : Bool := aVerify d && bit (leAt d 55 1) 0

/-- Query tokens or candidates. -/
def aTokens (d : List Byte) : Nat := leAt d 48 2

/-- First query position. -/
def aPos (d : List Byte) : Nat := leAt d 44 4

/-- Query heads. -/
def aHeads (d : List Byte) : Nat := leAt d 53 1

/-- CAUSAL; a candidate too attends to no later position (R506). -/
def aCausal (d : List Byte) : Bool := aVerify d || bit (leAt d 55 1) 0

/-- WINDOW. -/
def aWindow (d : List Byte) : Nat := if aVerify d then 0 else leAt d 56 4

/-- VBq for a HEAD_DIM. -/
def aVbq (d : List Byte) (dim : Nat) : Nat := vecBytes (bits (leAt d 54 1) 3 0) dim

/-- VBo for a HEAD_DIM. -/
def aVbo (d : List Byte) (dim : Nat) : Nat := vecBytes (bits (leAt d 54 1) 7 4) dim

/-- Bytes between the query rows of two tokens. -/
def aQStride (d : List Byte) (dim : Nat) : Nat := if aVerify d then aHeads d * aVbq d dim else leAt d 60 2 * 64

/-- Bytes between the output rows of two tokens. -/
def aOStride (d : List Byte) (dim : Nat) : Nat := if aVerify d then aHeads d * aVbo d dim else leAt d 62 2 * 64

/-- Whether the command appends. -/
def aAppends (d : List Byte) : Bool := decide (leAt d 16 8 ≠ 0)

/-- First key position (R499). -/
def aLo (d : List Byte) (base : Nat) : Nat := if aWindow d = 0 then base else max base (aPos d + 1 - aWindow d)

/-- One past the last key position (R499). -/
def aHi (d : List Byte) (length : Nat) : Nat := if aCausal d then aPos d + aTokens d else length

/-- Chunks (R501). -/
def aChunks (d : List Byte) (base length : Nat) : Nat := ceilDiv (aHi d length - aLo d base) 512

/-- Append tiles. -/
def aAppendTiles (d : List Byte) : Nat := if aAppends d then ceilDiv (aTokens d) 128 else 0

/-- Pairs. -/
def aPairs (d : List Byte) : Nat := ceilDiv (aTokens d) 128 * aHeads d

/-- Bytes of a partial record (R502). -/
def partialBytes (dim : Nat) : Nat := 128 * (4 * dim + 8)

/-- Pieces of an entry that ACCEPT moves (R507). -/
def aPieces (q : Seq) : Nat := ceilDiv (entryBytes q) 65536

/-- LENGTH that the command leaves at its start (R498). -/
def aNewLength (d : List Byte) (q : Seq) : Nat :=
  if !aAccept d && aAppends d && decide (leAt d 52 1 = 0) then aPos d + aTokens d else q.length

/-- Tiles of the command (R501, R507). -/
def aTiles (d : List Byte) (q : Seq) (base length : Nat) : Nat :=
  if aAccept d then 1 + aTokens d * aPieces q else aAppendTiles d + aChunks d base length * aPairs d

/-! ### Ranges and checks (R356, R497, R505, R507) -/

/-- Ranges read. -/
def aReads (d : List Byte) (q : Seq) : List (Nat × Nat) :=
  let tree := if aVerify d then [(leAt d 56 8, 256)] else []
  if aAccept d then tree else
  let len := aNewLength d q
  let qb := q.dim * typeBits (bits (leAt d 54 1) 3 0) / 8
  let kb := q.dim * typeBits q.typ / 8
  (leAt d 8 8, (aTokens d - 1) * aQStride d q.dim + (aHeads d - 1) * aVbq d q.dim + qb) ::
  (if aAppends d then [(leAt d 16 8, (aTokens d * q.heads - 1) * 2 * vecBytes q.typ q.dim + vecBytes q.typ q.dim + kb)] else []) ++
  (if 1 < aChunks d q.base len then [(leAt d 32 8, aPairs d * partialBytes q.dim)] else []) ++ tree

/-- Ranges written. -/
def aWrites (d : List Byte) (q : Seq) : List (Nat × Nat) :=
  if aAccept d then [] else
  (leAt d 24 8, (aTokens d - 1) * aOStride d q.dim + aHeads d * aVbo d q.dim) ::
  (if 1 < aChunks d q.base (aNewLength d q) then [(leAt d 32 8, aPairs d * partialBytes q.dim)] else [])

/-- Output and sources disjoint; the partial records disjoint from both (R356). -/
def aDisjoint (d : List Byte) (q : Seq) : Bool :=
  let part := leAt d 32 8
  (aWrites d q).all (fun w => (aReads d q).all (fun r => (decide (w.1 = part) && decide (r.1 = part)) || !rangesMeet w r)) &&
  (match aWrites d q with | [a, b] => !rangesMeet a b | _ => true)

/-- Rules of R497 and R507 whose breach is BAD_DESCRIPTOR. -/
def aBodyOk (d : List Byte) (q : Seq) : Bool :=
  if aAccept d then decide (q.base ≤ aPos d ∧ aPos d + aTokens d = q.length) else
  let qt := bits (leAt d 54 1) 3 0
  let ot := bits (leAt d 54 1) 7 4
  let newLen := aNewLength d q
  (pairKMax qt q.typ).isSome && decide (3 ≤ ot ∧ ot ≤ 7) && decide (leAt d 52 1 < q.layers) && decide (aHeads d % q.heads = 0) &&
  decide (q.base ≤ aPos d ∧ aPos d ≤ q.length ∧ aPos d + aTokens d ≤ newLen) &&
  decide (aHeads d * aVbq d q.dim ≤ aQStride d q.dim ∧ aHeads d * aVbo d q.dim ≤ aOStride d q.dim) &&
  (decide (leAt d 32 8 ≠ 0) || decide (aChunks d q.base newLen ≤ 1)) &&
  (!aAppends d || decide (aPos d + aTokens d - q.base ≤ (q.swapBytes - 64) / entryBytes q))

/-- The status that an attention command ends with at its start, if any, before the tree is read. -/
def aCheck (s : State) (n : Nat) (d : List Byte) : Option Nat :=
  let h := leAt d 50 2
  let q := getSeq s h
  if !ownsSeq s n h then some 0xA0
  else if !aDisjoint d q then some 0x10
  else if !((aReads d q).all (fun r => openTo s n false r.1 r.2) && (aWrites d q).all (fun r => openTo s n true r.1 r.2)) then some 3
  else if q.state ≠ 1 ∨ q.doomed then some 0x0E
  else if !aBodyOk d q then some 0x10
  else none

/-- Whether a tree block is as R505 lays down for `n` candidates. -/
def treeOk (n : Nat) (t : List Byte) : Bool :=
  dZero t 16 63 && dZero t 196 255 &&
  (List.range n).all (fun i => decide (leAt t i 1 = 0xFF ∨ leAt t i 1 < i))

/-- Read and check the tree block of an ATTN_VERIFY: a status, or the parents of its candidates. -/
def readTree (d : List Byte) (s : State) : State × Except Nat (List Nat) :=
  if !aVerify d then (s, .ok []) else
  match readRange (leAt d 56 8) 256 s with
  | (s, none) => (s, .error 9)
  | (s, some t) => (s, if treeOk (aTokens d) t then .ok ((t.take 16).map BitVec.toNat) else .error 0xA3)

/-! ### The start (R495, R498) -/

/-- A step boundary of sequence `h`, whose LENGTH is to become `len`: pages outside BASE to `len` - 1 go, or wait for the commands
that started earlier. -/
def stepBoundary (h len : Nat) (s : State) : State :=
  let q := getSeq s h
  let names := namedBy s h
  if names = [] then
    let t := releasePages h (putSeq h { q with length := len } s)
    putSeq h { getSeq t h with length := q.length } t
  else putSeq h { q with relDue := true, relAfter := names } s

/-- How an attention command starts. -/
inductive AttnStart where
  /-- It starts, with its tile count, its DETAIL, BASE and LENGTH in force, and the tree's parents. -/
  | go (tiles detail base length : Nat) (parents : List Nat)
  | ends (status : Nat)
  | waits
  deriving DecidableEq, Repr

/-- What follows once the pages are there. -/
def attnGo (d : List Byte) (parents : List Nat) (s : State) : State × AttnStart :=
  let h := leAt d 50 2
  let q := getSeq s h
  let len := aNewLength d q
  (putSeq h { q with length := len, lastUse := (gnow s) } s,
   .go (aTiles d q q.base len) (if aAccept d then 0 else len) q.base len parents)

/-- The start of an attention command of instance `n` from the queue with a key. -/
def attnStart (n key : Nat) (d : List Byte) (s : State) : State × AttnStart :=
  let h := leAt d 50 2
  match aCheck s n d with
  | some st => (s, .ends st)
  | none => match readTree d s with
    | (s, .error st) => (s, .ends st)
    | (s, .ok parents) =>
      let len := aNewLength d (getSeq s h)
      if aAccept d ∨ leAt d 52 1 ≠ 0 then attnGo d parents s
      else if s.kennel.waits.any (fun w => decide (w.1 = h ∧ w.2.1 = key + 1)) then (s, .waits) else
      match requestPages h (key + 1) len (stepBoundary h len s) with
      | (s, .granted) => attnGo d parents s
      | (s, .waits) => (s, .waits)
      | (s, .failed) => (s, .ends 0x0D)

/-! ### Tiles (R499 to R502) -/

/-- Whether candidate `j` is candidate `i` or one of its ancestors. -/
def isAncestor (parents : List Nat) (j : Nat) : Nat → Nat → Bool
  | 0, i => decide (i = j)
  | f + 1, i => decide (i = j) || (decide (parents.getD i 0xFF ≠ 0xFF) && isAncestor parents j f (parents.getD i 0xFF))

/-- Whether query token `i` attends to key position `k`. -/
def admits (d : List Byte) (parents : List Nat) (i k : Nat) : Bool :=
  if aVerify d then decide (k < aPos d) || (decide (k < aPos d + aTokens d) && isAncestor parents (k - aPos d) 16 i)
  else (!aCausal d || decide (k ≤ aPos d + i)) && (decide (aWindow d = 0) || decide (aPos d + i < k + aWindow d))

/-- The running state of a row: m, l, acc. -/
structure RowState where
  m   : Fp
  l   : Fp
  acc : List Fp
  deriving DecidableEq, Repr

/-- The state of a row before its first chunk. -/
def rowStart (dim : Nat) : RowState :=
  { m := .inf true, l := .fin false 0 0, acc := List.replicate dim (.fin false 0 0) }

/-- One chunk of one row (R500): the query vector, and the admissible keys and values in ascending order. -/
def rowChunk (typ : Nat) (scale : Fp) (q : List Fp) (kv : List (List Fp × List Fp)) (r : RowState) : RowState :=
  if kv = [] then r else
  let dot := fun (k : List Fp) => (List.zip q k).foldl (fun z p => add32 z (mulExact p.1 p.2)) (.fin false 0 0)
  let sc := kv.map (fun p => mul32 (dot p.1) scale)
  let m2 := sc.foldl max32 r.m
  let ps := sc.map (fun x => fun32 1 (add32 x (neg32 m2)))
  let e := fun32 1 (add32 r.m (neg32 m2))
  let pk := ps.map (fun p => decElem typ (convertTo typ p))
  { m := m2, l := add32 (mul32 r.l e) (sum32 ps),
    acc := (List.zip r.acc (List.range r.acc.length)).map (fun a =>
      add32 (mul32 a.1 e) ((List.zip pk kv).foldl (fun z p => add32 z (mulExact p.1 (p.2.2.getD a.2 (.fin false 0 0)))) (.fin false 0 0))) }

/-- What an append tile writes (R501): the vectors of 128 tokens. -/
def appendTile (d : List Byte) (b : Nat) (s : State) : State × Option (List (Nat × List Byte)) :=
  let q := getSeq s (leAt d 50 2)
  let vb := vecBytes q.typ q.dim
  let kb := q.dim * typeBits q.typ / 8
  let toks := (List.range (min 128 (aTokens d - 128 * b))).map (· + 128 * b)
  let what := toks.flatMap (fun i => (List.range q.heads).flatMap (fun g =>
    let src := leAt d 16 8 + (i * q.heads + g) * 2 * vb
    let dst := (entryAddr q (aPos d + i)).getD 0 + kOffset q (leAt d 52 1) g
    [(src, dst), (src + vb, dst + vb)]))
  match readAll (what.map (fun w => (w.1, kb))) s with
  | (s, none) => (s, none)
  | (s, some l) => (s, some ((List.zip what l).map (fun p => (p.1.2, padTo vb p.2))))

/-- A partial record read back. -/
def readPartial (dim : Nat) (b : List Byte) : List RowState :=
  (List.range 128).map (fun i =>
    { m := dec32 (leAt b (128 * 4 * dim + 4 * i) 4), l := dec32 (leAt b (128 * 4 * dim + 512 + 4 * i) 4),
      acc := (List.range dim).map (fun j => dec32 (leAt b ((i * dim + j) * 4) 4)) })

/-- A partial record. -/
def writePartial (rows : List RowState) : List Byte :=
  rows.flatMap (fun r => r.acc.flatMap (fun x => leBytes 4 (enc32 x))) ++ rows.flatMap (fun r => leBytes 4 (enc32 r.m)) ++
  rows.flatMap (fun r => leBytes 4 (enc32 r.l))

/-- What an attention tile writes: pair `p` and chunk `c`, with BASE and LENGTH in force and the tree's parents. -/
def attendTile (d : List Byte) (base length : Nat) (parents : List Nat) (c p : Nat) (s : State) :
    State × Option (List (Nat × List Byte)) :=
  let q := getSeq s (leAt d 50 2)
  let vb := vecBytes q.typ q.dim
  let kb := q.dim * typeBits q.typ / 8
  let head := p % aHeads d
  let block := p / aHeads d
  let g := head * q.heads / aHeads d
  let qt := bits (leAt d 54 1) 3 0
  let ot := bits (leAt d 54 1) 7 4
  let toks := (List.range (min 128 (aTokens d - 128 * block))).map (· + 128 * block)
  let lo := aLo d base + 512 * c
  let keys := (List.range (min 512 (aHi d length - lo))).map (· + lo)
  let kAddr := fun (k : Nat) => (entryAddr q k).getD 0 + kOffset q (leAt d 52 1) g
  let part := leAt d 32 8 + p * partialBytes q.dim
  let reads := toks.map (fun i => (leAt d 8 8 + i * aQStride d q.dim + head * aVbq d q.dim, q.dim * typeBits qt / 8)) ++
    keys.map (fun k => (kAddr k, kb)) ++ keys.map (fun k => (kAddr k + vb, kb)) ++
    (if c = 0 then [] else [(part, partialBytes q.dim)])
  match readAll reads s with
  | (s, none) => (s, none)
  | (s, some l) =>
    let qs := (l.take toks.length).map (rowElems qt q.dim)
    let ks := ((l.drop toks.length).take keys.length).map (rowElems q.typ q.dim)
    let vs := ((l.drop (toks.length + keys.length)).take keys.length).map (rowElems q.typ q.dim)
    let kv := List.zip keys (List.zip ks vs)
    let before := if c = 0 then List.replicate 128 (rowStart q.dim) else readPartial q.dim (l.getLast?.getD [])
    let after := (List.zip before (List.range 128)).map (fun b =>
      match (List.zip toks qs)[b.2]? with
      | some t => rowChunk q.typ (dec32 (leAt d 40 4)) t.2 ((kv.filter (fun e => admits d parents t.1 e.1)).map Prod.snd) b.1
      | none => b.1)
    (s, some (if c + 1 < aChunks d base length then [(part, writePartial after)]
      else (List.zip toks after).map (fun t =>
        (leAt d 24 8 + t.1 * aOStride d q.dim + head * aVbo d q.dim,
         padTo (aVbo d q.dim) (packRow ot (t.2.acc.map (fun x => convertTo ot (div32 x t.2.l))))))))

/-- The path that ACCEPT keeps (R507): from node `cur`, with the prediction that follows it. -/
def acceptPath (t : List Byte) (n : Nat) : Nat → Nat → Nat → List Nat
  | 0, _, _ => []
  | f + 1, cur, pred =>
    match (List.range n).find? (fun j => decide (leAt t j 1 = cur ∧ leAt t (64 + 4 * j) 4 = pred)) with
    | none => []
    | some j => j :: acceptPath t n f j (leAt t (128 + 4 * j) 4)

/-- What a move tile of ACCEPT writes. -/
def moveTile (d : List Byte) (path : List Nat) (t : Nat) (s : State) : State × Option (List (Nat × List Byte)) :=
  let q := getSeq s (leAt d 50 2)
  let i := (t - 1) / aPieces q
  let off := (t - 1) % aPieces q * 65536
  match path[i]? with
  | none => (s, some [])
  | some j =>
    if j = i then (s, some []) else
    match readRange ((entryAddr q (aPos d + j)).getD 0 + off) (min 65536 (entryBytes q - off)) s with
    | (s, none) => (s, none)
    | (s, some b) => (s, some [((entryAddr q (aPos d + i)).getD 0 + off, b)])

/-- What a tile of an attention command writes, and the path that tile 0 of an ACCEPT decides. -/
def attnTile (d : List Byte) (base length : Nat) (path : List Nat) (t : Nat) (s : State) :
    State × Option (List (Nat × List Byte) × List Nat) :=
  if aAccept d then
    (if t = 0 then
      match readRange (leAt d 56 8) 256 s with
      | (s, none) => (s, none)
      | (s, some b) => (s, some ([], acceptPath b (aTokens d) 16 0xFF (leAt b 192 4)))
    else match moveTile d path t s with
      | (s, r) => (s, r.map (fun w => (w, path))))
  else if t < aAppendTiles d then
    match appendTile d t s with
    | (s, r) => (s, r.map (fun w => (w, path)))
  else match attendTile d base length path ((t - aAppendTiles d) / aPairs d) ((t - aAppendTiles d) % aPairs d) s with
    | (s, r) => (s, r.map (fun w => (w, path)))

/-- Whether what tile `t` reads of earlier tiles has been committed, `done` being the tiles committed: appended vectors, the pair's
record of the chunk before, the path. -/
def attnReady (d : List Byte) (t done : Nat) : Bool :=
  if aAccept d then decide (t = 0 ∨ 1 ≤ done)
  else if t < aAppendTiles d then true
  else decide (aAppendTiles d ≤ done ∧ t < done + aPairs d)

/-- The engines that tile `t` runs on: an MC, and a VE too for an attention tile (R501). -/
def attnNeeds (d : List Byte) (t : Nat) : Nat := if aAccept d ∨ t < aAppendTiles d then 1 else 5

end Sys2Proof.Machine
end

