-- ==== Sys2Proof/Machine/PackQueue.lean ====
section
/-! DEFINITION. Pack queues (08): configuration, doorbells, control, descriptor fetch, the end of a command, completions. -/

namespace Sys2Proof.Machine

/-! ### Registers of a queue (R344 to R346, R524) -/

/-- Address of a register of queue `q` of instance `n`. -/
def qReg (n q off : Nat) : Nat := instPage n + 0x1000 + 0x40 * q + off

/-- QCFG. -/
def qCfg (s : State) (n q : Nat) : Nat := regRaw s (qReg n q 0x10)

/-- ENABLE. -/
def qEnabled (s : State) (n q : Nat) : Bool := bit (qCfg s n q) 16

/-- Entries of the submission ring. -/
def sqSize (s : State) (n q : Nat) : Nat := 2 ^ bits (qCfg s n q) 3 0

/-- Entries of the completion ring. -/
def cqSize (s : State) (n q : Nat) : Nat := 2 ^ bits (qCfg s n q) 11 8

/-- Set a W1C bit of QSTATUS: 9 DB_ERR, 10 CFG_ERR. -/
def qErr (n q b : Nat) (s : State) : State := regSetBits (qReg n q 0x28) (2 ^ b) s

/-- The completion ring is full (R351). -/
def cqFull (s : State) (n q : Nat) : Bool :=
  decide (dist16 (getQ s n q).cqTail (regRaw s (qReg n q 0x20)) = cqSize s n q)

/-- A queue that is enabled, of an ACTIVE instance. -/
def qUp (s : State) (n q : Nat) : Bool := blocksOn s && (getInst s n).state = 1 && qEnabled s n q

/-- A doorbell (R346, R529 step 1). -/
def doorbellEff (n q v : Nat) (s : State) : WriteRes :=
  let x := getQ s n q
  let tail := bits v 15 0
  if (getInst s n).state ≠ 1 then .done s
  else if !qEnabled s n q || decide (sqSize s n q < dist16 tail x.sqHead) || decide (dist16 tail x.sqHead < dist16 x.tail x.sqHead) then
    .done (qErr n q 9 s)
  else .done (putQ n q { x with tail := tail, state := if x.state = 1 ∧ tail ≠ x.sqHead then 2 else x.state } s)

/-- Whether a QCFG value enables a queue that R345 and R524 allow. -/
def qCfgOk (s : State) (n q v : Nat) : Bool :=
  decide (6 ≤ bits v 3 0 ∧ bits v 3 0 ≤ 12 ∧ 6 ≤ bits v 11 8 ∧ bits v 11 8 ≤ 12) &&
  openTo s n false (regRaw s (qReg n q 0)) (64 * 2 ^ bits v 3 0) && openTo s n true (regRaw s (qReg n q 8)) (64 * 2 ^ bits v 11 8)

/-- A write of SQ_BASE, CQ_BASE or QCFG (R345, R524). -/
def qCfgEff (n q off v : Nat) (s : State) : WriteRes :=
  let x := getQ s n q
  if qEnabled s n q then
    (if off = 0x10 ∧ !bit v 16 ∧ (x.state = 1 ∨ x.state = 4) then
      .done (putQ n q { last := x.last, stale := x.stale } (regPut (qReg n q 0x10) (qCfg s n q - 65536) s))
    else .done (qErr n q 10 s))
  else if off = 0x10 ∧ bit v 16 then
    (if qCfgOk s n q v then
      .done (putQ n q { last := x.last, stale := x.stale, state := 1 }
        (regPut (qReg n q 0x20) 0 (genericWrite (qReg n q 0x10) v s)))
    else .done (qErr n q 10 s))
  else .done (genericWrite (qReg n q off) v s)

/-! ### The end of a command -/

/-- The commands of a queue after the first `k` through a function. -/
def cmdsFrom (k : Nat) (f : Cmd → Cmd) (l : List Cmd) : List Cmd := l.take k ++ (l.drop k).map f

/-- Command `k` of a queue ends with a status: DONE of a tiled command joins the commands since the restart point; any other status
stops the started commands behind it (R349, R370). A re-run that ends with DONE goes without a completion. -/
def endCmd (k st : Nat) (now : Nat) (q : Queue) : Queue :=
  match q.cmds[k]? with
  | none => q
  | some c =>
    let e : Cmd := { c with status := some st, started := false, stop := none, run := [], waitAt := none }
    let q1 := { q with cmds := q.cmds.set k e, since := if st = 0 ∧ c.tiles ≠ 0 then q.since ++ [{ c with run := [], stop := none }] else q.since }
    if st = 0 then { q1 with cmds := if c.silent then q1.cmds.eraseIdx k else q1.cmds }
    else settleQueue { q1 with cmds := cmdsFrom (k + 1) (stopCmd now .silent) (q1.cmds.set k { e with silent := false }) }

/-- End command `k` of queue `q` of instance `n`; retries of a command that ends with DONE are counted (R335). -/
def finish (n q k st : Nat) (s : State) : State :=
  let c := (getQ s n q).cmds[k]?
  let s := putQ n q (endCmd k st s.now (getQ s n q)) s
  match c with
  | some c => if st = 0 ∧ c.retries ≠ 0 then odCount (odKey 0x2801 2) c.retries s else s
  | none => s

/-- Replace command `k` of a queue. -/
def putCmd (n q k : Nat) (c : Cmd) (s : State) : State :=
  let x := getQ s n q
  putQ n q { x with cmds := x.cmds.set k c } s

/-- Count pre-emption requests (R385). -/
def countPreempts (k : Nat) (s : State) : State := odCount (odKey 0x2800 4) k (regCount 0x11000038 k s)

/-- Pre-empt the running commands of a queue: they wait at their resume tokens (R366, R367). -/
def preemptQueue (key : Nat) (s : State) : State :=
  let n := key / 256
  let q := key % 256
  let x := getQ s n q
  let k := (x.cmds.filter (fun c => cmdRunning c && c.stop.isNone)).length
  if k = 0 then s else
  putQ n q (settleQueue { x with cmds := x.cmds.map (fun c =>
    if cmdRunning c && c.stop.isNone then { c with stop := some .preempt, stopAt := s.now } else c) }) (countPreempts k s)

/-! ### Queue control (R368 to R370) -/

/-- STOP: the running command stops with a PREEMPTED completion, one behind it silently. -/
def queueStopEff (n q : Nat) (s : State) : State :=
  let x := getQ s n q
  if x.state = 0 ∨ x.state = 4 then s else
  let first := x.cmds.findIdx cmdRunning
  if x.cmds.length ≤ first then putQ n q { x with state := 4 } s else
  let l := x.cmds.set first (stopCmd s.now .stop (x.cmds.getD first { index := 0, desc := [], gen := 0 }))
  putQ n q (settleQueue { x with cmds := cmdsFrom (first + 1) (stopCmd s.now .silent) l }) (countPreempts 1 s)

/-- One descriptor read by FLUSH. -/
def flushOne (n q : Nat) (s : State) : State :=
  let x := getQ s n q
  match readRange (regRaw s (qReg n q 0) + x.sqHead % sqSize s n q * 64) 64 s with
  | (s, r) =>
    let i := (getInst s n).gen
    let x := { x with sqHead := (x.sqHead + 1) % 65536 }
    match r with
    | none => putQ n q { x with cmds := x.cmds ++ [{ index := (x.sqHead + 65535) % 65536, desc := zeros 64, gen := i, status := some 9, gstart := (gnow s) }] } s
    | some d =>
      if leAt d 2 2 ≠ i then putQ n q { x with stale := satAdd x.stale 1 0xFFFFFFFF } s
      else putQ n q { x with cmds := x.cmds ++ [{ index := (x.sqHead + 65535) % 65536, desc := d, gen := i, status := some 0x0B, gstart := (gnow s) }] } s

/-- FLUSH: every command up to TAIL completes with FLUSHED (R369). -/
def queueFlushEff (n q : Nat) (s : State) : State :=
  let x := getQ s n q
  if x.state ≠ 1 ∧ x.state ≠ 4 then qErr n q 10 s else
  let l := (x.cmds.filter (fun c => !(c.silent && c.status.isNone))).map (fun c =>
    if c.status.isNone || !c.begun then { c with status := some 0x0B, report := none } else c)
  let s := putQ n q { x with cmds := l, since := [], rpTile := 0, retries := 0 } s
  let s := iterate (dist16 x.tail x.sqHead) (fun _ t => flushOne n q t) s
  putQ n q { getQ s n q with state := 1 } s

/-- START: a STOPPED queue goes on. -/
def queueStartEff (n q : Nat) (s : State) : State :=
  let x := getQ s n q
  if x.state ≠ 4 then s else putQ n q { x with state := if x.cmds = [] ∧ x.tail = x.sqHead then 1 else 2 } s

/-- A write of the queue control register: STOP, FLUSH, START in this order. -/
def queueCtlEff (n q v : Nat) (s : State) : WriteRes :=
  if (getInst s n).state ≠ 1 then .done s else
  let s := if bit v 0 then queueStopEff n q s else s
  let s := if bit v 2 then queueFlushEff n q s else s
  .done (kennelSettle (if bit v 1 then queueStartEff n q s else s))

/-- PACK_DOORBELL (R346). -/
def execPackDoorbell (n q : Fin 256) (acc : Access) (tail : Nat) (s : State) : Host.Outcome State Fault Refusal :=
  .next (regWriteWith (fun _ v _ t => doorbellEff n.val q.val v t) (atReg acc (qReg n.val q.val 0x14)) tail s)

/-- QUEUE_CONFIG_WRITE (R345): SQ_BASE or CQ_BASE when the access names one, else QCFG. -/
def execQueueConfigWrite (n q : Fin 256) (acc : Access) (value : Word) (s : State) : Host.Outcome State Fault Refusal :=
  let off := acc.addr - qReg n.val q.val 0
  let acc := if qReg n.val q.val 0 ≤ acc.addr ∧ off < 0x10 then acc else atReg acc (qReg n.val q.val 0x10)
  .next (regWriteWith (fun a v _ t => qCfgEff n.val q.val (a - qReg n.val q.val 0) v t) acc value.toNat s)

/-- QUEUE_STOP (R368). -/
def execQueueStop (n q : Fin 256) (acc : Access) (s : State) : Host.Outcome State Fault Refusal :=
  .next (regWriteWith (fun _ v _ t => queueCtlEff n.val q.val v t) (atReg acc (qReg n.val q.val 0x24)) 1 s)

/-- QUEUE_START (R368, R370). -/
def execQueueStart (n q : Fin 256) (acc : Access) (s : State) : Host.Outcome State Fault Refusal :=
  .next (regWriteWith (fun _ v _ t => queueCtlEff n.val q.val v t) (atReg acc (qReg n.val q.val 0x24)) 2 s)

/-- QUEUE_FLUSH (R369). -/
def execQueueFlush (n q : Fin 256) (acc : Access) (s : State) : Host.Outcome State Fault Refusal :=
  .next (regWriteWith (fun _ v _ t => queueCtlEff n.val q.val v t) (atReg acc (qReg n.val q.val 0x24)) 4 s)

/-- CQ_HEAD_WRITE (R351): any value is taken. -/
def execCqHeadWrite (n q : Fin 256) (acc : Access) (head : Nat) (s : State) : Host.Outcome State Fault Refusal :=
  .next (regWriteWith (fun a v _ t => .done (genericWrite a v t)) (atReg acc (qReg n.val q.val 0x20)) head s)

/-! ### Descriptor fetch (R347, R348, R356, R357, R372, R446, R449) -/

/-- The command bucket of an instance filled up to the present (R446). -/
def fillCmd (n : Nat) (s : State) : Nat :=
  let i := getInst s n
  min (odGet s (instKey n 0x23) * 1000000) (i.cmdTok + odGet s (instKey n 0x22) * (s.now - i.cmdAt))

/-- Take a command token, waiting for one when the bucket is empty; a wait counts once (R446, R448). -/
def takeToken (n : Nat) (s : State) : State :=
  let r := odGet s (instKey n 0x22)
  if r = 0 then s else
  let tok := fillCmd n s
  let s := if 1000000 ≤ tok then s
    else regCount (instPage n + 0x508) 1 (advanceTo (s.now + ceilDiv (1000000 - tok) r) s)
  putInst n { getInst s n with cmdTok := fillCmd n s - 1000000, cmdAt := s.now } s

/-- Whether a descriptor of a queue may be fetched now. -/
def mayFetch (n q : Nat) (s : State) : Bool :=
  let x := getQ s n q
  qUp s n q && decide (x.state ≠ 4) && decide (x.sqHead ≠ x.tail) && decide (x.cmds.length ≤ 8) && decide (packInFlight s < 1024) &&
  s.pack.scrub.isNone && (decide (odGet s (instKey n 0x20) = 1) || decide (packInFlight s ≤ 896))

/-- Fetch and check the next descriptor. -/
def fetchOne (n q : Nat) (s : State) : State :=
  let x := getQ s n q
  let idx := x.sqHead
  let g := (getInst s n).gen
  let x := { x with sqHead := (x.sqHead + 1) % 65536, state := if x.state = 1 then 2 else x.state }
  match readRange (regRaw s (qReg n q 0) + idx % sqSize s n q * 64) 64 s with
  | (s, none) => putQ n q { x with cmds := x.cmds ++ [{ index := idx, desc := zeros 64, gen := g, status := some 9, gstart := (gnow s) }] } s
  | (s, some d) =>
    match submitCheck s n d with
    | some 5 => putQ n q { x with stale := satAdd x.stale 1 0xFFFFFFFF } s
    | st => putQ n q { x with cmds := x.cmds ++ [{ index := idx, desc := d, gen := g, status := st, gstart := if st.isSome then (gnow s) else 0 }] } s

/-- DESCRIPTOR_FETCH (R347). -/
def execDescriptorFetch (n q : Fin 256) (s : State) : Host.Outcome State Fault Refusal :=
  .next (if mayFetch n.val q.val s then fetchOne n.val q.val (takeToken n.val s) else s)

/-! ### Completions (R350 to R352, R359, R538) -/

/-- The 64 bytes of a completion. -/
def completionBytes (s : State) (n q : Nat) (c : Cmd) (status token phase : Nat) : List Byte :=
  leBytes 1 status ++ slice c.desc 0 1 ++ slice c.desc 2 2 ++ slice c.desc 4 4 ++ leBytes 4 token ++ leBytes 4 c.tiles ++ leBytes 2 q ++
  leBytes 2 (getInst s n).cfgGen ++ leBytes 2 c.index ++ leBytes 1 c.retries ++ [0] ++ leBytes 8 c.gstart ++ leBytes 8 (gnow s) ++
  leBytes 8 c.detail ++ zeros 15 ++ leBytes 1 phase

/-- Write a completion of command `c` and send its message. -/
def writeCompletion (n q : Nat) (c : Cmd) (status token : Nat) (s : State) : State :=
  let x := getQ s n q
  let size := cqSize s n q
  let s := writeRange (regRaw s (qReg n q 8) + x.cqTail % size * 64)
    (completionBytes s n q c status token (1 - x.cqTail / size % 2)) s
  let s := putQ n q { x with cqTail := (x.cqTail + 1) % 65536, last := status } s
  if dNotify c.desc ∨ status ≠ 0 then sendMsg (odGet s (instKey n 4) + q) s else s

/-- The final completion of the head command: a failure leaves the queue STOPPED (R370). -/
def writeFinal (n q : Nat) (c : Cmd) (st : Nat) (s : State) : State :=
  let s := odCount (odKey 0x2800 2) 1 (writeCompletion n q c st c.done s)
  let x := getQ s n q
  let rest := x.cmds.drop 1
  let state := if st ≠ 0 ∧ st ≠ 0x0B then 4 else if x.state = 2 ∧ rest = [] ∧ x.sqHead = x.tail then 1 else x.state
  kennelSettle (putQ n q { x with cmds := rest, state := state } s)

/-- COMPLETION_WRITE (R350): a late result of an older generation, a reported pre-emption, or the head command's end. A command that
failed its checks and never began waits while its queue is STOPPED (R370). -/
def execCompletionWrite (n q : Fin 256) (s : State) : Host.Outcome State Fault Refusal :=
  let i := getInst s n.val
  let x := getQ s n.val q.val
  .next (if !blocksOn s then s
    else match i.late.find? (fun l => l.1 = q.val) with
    | some l => lateResult n.val (putInst n.val { i with late := i.late.erase l } s)
    | none =>
      if !qUp s n.val q.val || cqFull s n.val q.val then s else
      match x.cmds with
      | [] => s
      | c :: t => match c.report with
        | some tok => writeCompletion n.val q.val c 7 tok (putQ n.val q.val { x with cmds := { c with report := none } :: t } s)
        | none => match c.status with
          | some st => if x.state = 4 ∧ st ≠ 0 ∧ st ≠ 0x0B ∧ !c.begun then s else writeFinal n.val q.val c st s
          | none => s)

end Sys2Proof.Machine
end

