-- ==== Sys2Proof/Machine/PackRun.lean ====
section
/-! DEFINITION. Running commands (07, 08, 09, 10, 11): who may start where, control commands, tiles from start to commit, paired
comparison and retry. -/

namespace Sys2Proof.Machine

/-! ### Engines in force (R436, R439, R442, R453 to R455, R460) -/

/-- Whether a slot of a table names queue `q` of instance `n`. -/
def slotNames (t : List Byte) (i n q : Nat) : Bool :=
  slotEnabled t i && decide (slotField t i 4 1 = 0 ∧ slotField t i 5 1 = n ∧ slotField t i 16 2 ≤ q ∧ q ≤ slotField t i 18 2)

/-- A queue is gated (R453). -/
def gated (s : State) (n q : Nat) : Bool := (List.range (leAt (rosterTable s) 6 2)).any (fun i => slotNames (rosterTable s) i n q)

/-- An active slot names a queue. -/
def slotted (s : State) (n q : Nat) : Bool := s.pack.active.any (fun i => slotNames (rosterTable s) i n q)

/-- A queue has a command that could run: it is neither disabled nor STOPPED, and something is undecided or still to be fetched. -/
def queueReady (s : State) (n q : Nat) : Bool :=
  let x := getQ s n q
  qUp s n q && decide (x.state ≠ 0 ∧ x.state ≠ 4) && (x.cmds.any (fun c => c.status.isNone) || decide (x.sqHead ≠ x.tail))

/-- A slot's named queues have no ready command. -/
def slotIdle (s : State) (i : Nat) : Bool :=
  let t := rosterTable s
  let lo := slotField t i 16 2
  !((List.range (slotField t i 18 2 + 1 - lo)).any (fun k => queueReady s (slotField t i 5 1) (lo + k)))

/-- An engine is lent to its fill instance by the active slot that grants it (R460). -/
def lentTo (s : State) (n e : Nat) : Bool :=
  decide (odGet s (odKey 0x2805 1) ≠ 1) && decide (engineKind s e = (2, some n)) &&
  s.pack.active.any (fun i => slotGrants (rosterTable s) i e && bit (slotField (rosterTable s) i 6 1) 0 && slotIdle s i)

/-- Whether a tile of an instance may be dispatched on an engine now. -/
def mayUse (s : State) (n e : Nat) : Bool := engineUsable s n e || lentTo s n e

/-- The engines of set A, or B, that a command still runs on: one for a CIM_LOAD, all that are assigned otherwise. -/
def liveSet (s : State) (n : Nat) (c : Cmd) (b : Bool) : List Nat :=
  let l := if b then setB c.sets else setA c.sets
  (if dOp c.desc = 0x21 then l.filter (fun e => decide (e = 32 + leAt c.desc 20 1)) else l).filter (assignedTo s n)

/-- Whether both sets of a command hold every kind it needs among the engines that `p` admits. -/
def setsCover (c : Cmd) (a b : List Nat) (p : Nat → Bool) : Bool :=
  let need := dNeeds c.desc
  decide ((kindsOf (a.filter p) &&& need) = need) && (!dPaired c.desc || decide ((kindsOf (b.filter p) &&& need) = need))

/-- A running command whose engines went: it stops with RESOURCE_REVOKED when too few are assigned, and is pre-empted when too few
are held (R443). -/
def lossReason (s : State) (n : Nat) (c : Cmd) : Option StopReason :=
  if !cmdRunning c || c.stop.isSome || decide (dNeeds c.desc = 0) then none else
  let a := liveSet s n c false
  let b := liveSet s n c true
  if !setsCover c a b (fun _ => true) then some (.ends 4)
  else if !setsCover c a b (mayUse s n) then some .preempt else none

/-- Stop every running command that no longer has the engines it needs. -/
def rescanEngines (s : State) : State :=
  let hit := (s.pack.queues.map (fun p => (p.2.cmds.filter (fun c => decide (lossReason s (p.1 / 256) c = some .preempt))).length)).sum
  let t := mapQueues (fun k q => settleQueue { q with cmds := q.cmds.map (fun c => match lossReason s (k / 256) c with
    | some r => { c with stop := some r, stopAt := s.now }
    | none => c) }) s
  countPreempts hit t

/-- Running commands of other queues that hold an engine of a list; shared Vector Engines serve several (R437, R455). -/
def holdersOf (s : State) (key : Nat) (l : List Nat) : List Nat :=
  let own := l.filter (fun e => decide ((engineKind s e).1 ≠ 3))
  (s.pack.queues.filter (fun p => decide (p.1 ≠ key) && p.2.cmds.any (fun c => cmdRunning c && dNeeds c.desc ≠ 0 &&
    (cmdEngines c.desc c.sets).any (fun e => own.contains e)))).map Prod.fst

/-! ### Which command starts (R349, R351, R367, R370) -/

/-- The first command of a queue that is neither decided nor running. -/
def nextCmd (x : Queue) : Option (Nat × Cmd) :=
  let k := x.cmds.findIdx (fun c => c.status.isNone && !c.started)
  x.cmds[k]?.map (fun c => (k, c))

/-- Whether the commands before `k` let command `c` start (R349): each has ended with DONE, or `c` overlaps the one that has dispatched
its last tile. -/
def orderOk (x : Queue) (k : Nat) (c : Cmd) : Bool :=
  let before := x.cmds.take k
  let open' := before.filter (fun p => p.status.isNone)
  before.all (fun p => p.status = none || p.status = some 0) &&
  (match open' with
   | [] => true
   | [p] => dOverlap c.desc && dNeeds c.desc ≠ 0 && !c.begun && cmdRunning p && p.stop.isNone && dNeeds p.desc ≠ 0 &&
       decide (p.disp = p.tiles) && p.run.all (fun t => t.err.isNone)
   | _ => false)

/-- Whether the next command of a queue may start, apart from its engines. -/
def mayStart (s : State) (n q k : Nat) (c : Cmd) : Bool :=
  let x := getQ s n q
  qUp s n q && decide (x.state ≠ 0 ∧ x.state ≠ 4) && !cqFull s n q && s.pack.scrub.isNone && c.report.isNone && orderOk x k c &&
  (!gated s n q || slotted s n q)

/-- Mark command `k` as running with its tiles. -/
def beginCmd (n q k : Nat) (c : Cmd) (s : State) : State :=
  let x := getQ s n q
  let c := { c with started := true, begun := true, gstart := if c.begun then c.gstart else (gnow s) }
  let s := putQ n q { x with cmds := x.cmds.set k c, state := 2 } s
  let whole := dOp c.desc ≠ 0x21 ∨ c.recs.all (fun r => (getMacro s (leAt c.desc 20 1) r.1).ready)
  if c.tiles ≤ c.done ∧ whole ∧ dOp c.desc ≠ 4 then finish n q k 0 s else s

/-- Command `k` ends at its start. -/
def endAtStart (n q k st : Nat) (c : Cmd) (s : State) : State :=
  let c := { c with begun := true, gstart := if c.begun then c.gstart else (gnow s) }
  let x := getQ s n q
  finish n q k st (putQ n q { x with cmds := x.cmds.set k c, state := 2 } s)

/-- The restart point moves to the next command, tile 0 (R323, R324, R328). -/
def moveRestart (n q : Nat) (s : State) : State :=
  putQ n q { getQ s n q with since := [], rpTile := 0, retries := 0 } s

/-- A control command runs (R383, R323, R324). -/
def runControl (n q k : Nat) (c : Cmd) (s : State) : State :=
  let knot := leAt c.desc 8 2
  let v := leAt c.desc 16 8
  match dOp c.desc with
  | 2 => if bit (leAt c.desc 8 1) 0 ∧ k ≠ 0 then s else endAtStart n q k 0 c s
  | 3 => endAtStart n q k 0 c (moveRestart n q s)
  | 4 =>
    if !knotWaits s knot n then endAtStart n q k 3 c s
    else if v ≤ knotValue s knot then endAtStart n q k 0 { c with detail := knotValue s knot } s
    else if c.begun ∧ c.expires.any (fun t => decide (t ≤ s.now)) ∨ leAt c.desc 24 4 = 0 then
      endAtStart n q k 0x0A { c with detail := knotValue s knot } s
    else
      let lim := leAt c.desc 24 4
      beginCmd n q k { c with expires := if c.begun then c.expires else if lim = 0xFFFFFFFF then none else some (s.now + us lim) } s
  | 5 =>
    if !knotSignals s knot n then endAtStart n q k 3 c s
    else if v ≤ knotValue s knot then endAtStart n q k 0x80 c s
    else endAtStart n q k 0 c (moveRestart n q (knotRaise knot v s))
  | _ => endAtStart n q k 0 c s

/-- The CIM tiles that a CIM_RUN uses. -/
def cimTilesOf (l : List Nat) : List Nat := (l.filter (fun e => decide (32 ≤ e ∧ e < 48))).map (fun e => e - 32)

/-- A command with its tiles is given its first start: tile count and checks of its own (R360, R402, R403, R421, R422, R497). -/
def firstStart (n q k : Nat) (c : Cmd) (s : State) : State :=
  let d := c.desc
  match dOp d with
  | 0x20 =>
    let cts := cimTilesOf (cmdEngines d c.sets)
    (match cimRunCheck s d cts true with
     | some st => endAtStart n q k st c s
     | none =>
       let v := ((cts.head?).bind (runLayer s d)).elim 4 workVectors
       beginCmd n q k { c with tiles := ceilDiv (leAt d 40 4) v } s)
  | 0x21 =>
    (match loadImage d s with
     | (s, .error st) => endAtStart n q k st c s
     | (s, .ok (ls, recs)) =>
       beginCmd n q k { c with tiles := 8 * recs.length, recs := recs } (loadBegin (leAt d 20 1) (claimOf n q c.index) ls recs s))
  | 0x28 | 0x29 =>
    (match attnStart n (n * 256 + q) d s with
     | (s, .ends st) => endAtStart n q k st c s
     | (s, .waits) => s
     | (s, .go tiles detail base length parents) =>
       beginCmd n q k { c with tiles := tiles, detail := detail, recs := [(base, length)], path := parents } s)
  | _ => beginCmd n q k { c with tiles := bodyTiles d } s

/-- Make way for a gated command: pre-empt the ungated commands, and the fill work, on its engines (R454, R458). -/
def makeWay (n q : Nat) (l : List Nat) (s : State) : State :=
  if !gated s n q then s else
  (holdersOf s (n * 256 + q) l).foldl (fun t key => if slotted t (key / 256) (key % 256) then t else preemptQueue key t) s

/-- The start of a command with tiles, once nothing stands before it. -/
def startTiled (n q k : Nat) (c : Cmd) (s : State) : State :=
  let c := if c.begun then c else { c with sets := pairMap s n (dMap c.desc) }
  let check := if c.begun then (if setsCover c (liveSet s n c false) (liveSet s n c true) (fun _ => true) then none else some 4)
    else engineCheck s n c.desc c.sets
  match check with
  | some st => endAtStart n q k st c s
  | none =>
    let l := if c.begun then liveSet s n c false ++ (if dPaired c.desc then liveSet s n c true else []) else cmdEngines c.desc c.sets
    if !l.all (mayUse s n) then s else
    let s := makeWay n q l s
    if holdersOf s (n * 256 + q) l ≠ [] then s
    else if c.begun && !(c.silent && decide (dOp c.desc = 0x21 ∧ c.done = 0)) then beginCmd n q k { c with disp := c.done } s
    else firstStart n q k c s

/-- The next command of a queue starts, when it is one that `p` accepts and may start; in SAFE_HOLD it ends instead (R371). -/
def startCmd (p : List Byte → Bool) (n q : Nat) (s : State) : State :=
  match nextCmd (getQ s n q) with
  | none => s
  | some (k, c) =>
    if !p c.desc || !mayStart s n q k c then s
    else if s.dev = .safeHold then endAtStart n q k 0x0C c s
    else if dNeeds c.desc = 0 then runControl n q k c s
    else kennelSettle (startTiled n q k c s)

/-- A start by opcode. -/
def startOp (op : Nat) (n q : Fin 256) (s : State) : State := startCmd (fun d => decide (dOp d = op)) n.val q.val s

/-- A start of a VEC by its VOP. -/
def startVop (v : Nat) (n q : Fin 256) (s : State) : State :=
  startCmd (fun d => decide (dOp d = 0x18 ∧ leAt d 38 1 = v)) n.val q.val s

/-! ### Tiles (R360 to R366) -/

/-- Engine of tile `t` among the engines of one kind of a set that may be used now (R361, R442). -/
def pickEngine (s : State) (n : Nat) (l : List Nat) (lo hi t : Nat) : Option Nat :=
  let u := (l.filter (fun e => decide (lo ≤ e ∧ e < hi))).filter (mayUse s n)
  u[t % u.length]?

/-- The engines of one copy of a tile; none when a kind is missing. -/
def copyEngines (s : State) (n : Nat) (c : Cmd) (l : List Nat) (t : Nat) : Option (List Nat) :=
  let need := match dOp c.desc with
    | 0x21 => 0
    | 0x28 | 0x29 => attnNeeds c.desc t
    | _ => dNeeds c.desc
  let mc := pickEngine s n l 0 32 t
  let ct := pickEngine s n l 32 48 t
  let ve := pickEngine s n l 48 56 t
  if (bit need 0 && mc.isNone) || (bit need 1 && ct.isNone) || (bit need 2 && ve.isNone) then none
  else some ((if bit need 0 then mc.toList else []) ++ (if bit need 1 then ct.toList else []) ++ (if bit need 2 then ve.toList else []))

/-- The engines of a tile: of copy A, and of copy B when the command is paired. -/
def tileEngines (s : State) (n : Nat) (c : Cmd) (t : Nat) : Option (List Nat × List Nat) :=
  match copyEngines s n c (liveSet s n c false) t with
  | none => none
  | some a => if !dPaired c.desc then some (a, []) else (copyEngines s n c (liveSet s n c true) t).map (fun b => (a, b))

/-- Whether every range of a command is open to its instance now (R358). -/
def stillOpen (s : State) (n : Nat) (c : Cmd) : Bool :=
  if dOp c.desc = 0x28 ∨ dOp c.desc = 0x29 then
    let q := getSeq s (leAt c.desc 50 2)
    (aReads c.desc q).all (fun r => openTo s n false r.1 r.2) && (aWrites c.desc q).all (fun r => openTo s n true r.1 r.2)
  else rangesOpen s n c.desc

/-- The byte bucket of an instance filled up to the present, in thousandths of a byte (R447). -/
def fillBytes (n : Nat) (s : State) : Int :=
  let i := getInst s n
  min ((odGet s (instKey n 0x25) * 1024000 : Nat) : Int) (i.byteTok + (odGet s (instKey n 0x24) * (s.now - i.byteAt) : Nat))

/-- Wait until the byte bucket is above 0; a wait counts once (R447, R448). -/
def byteWait (n : Nat) (s : State) : State :=
  let r := odGet s (instKey n 0x24)
  let tok := fillBytes n s
  if r = 0 ∨ 0 < tok then s
  else regCount (instPage n + 0x50C) 1 (advanceTo (s.now + (-tok).toNat / r + 1) s)

/-- Charge the bytes of a tile to the byte bucket. -/
def byteCharge (n : Nat) (bytes : Nat) (s : State) : State :=
  if odGet s (instKey n 0x24) = 0 then s
  else putInst n { getInst s n with byteTok := fillBytes n s - (1000 * bytes : Nat), byteAt := s.now } s

/-- What a tile computes. -/
structure TileOut where
  writes : List (Nat × List Byte)
  note   : Nat := 0
  path   : List Nat := []
  cells  : List Byte := []
  differ : Bool := false
  deriving DecidableEq, Repr

/-- One copy of a tile: what it reads and computes. -/
def computeCopy (c : Cmd) (t ct : Nat) (s : State) : State × Option TileOut :=
  let d := c.desc
  let plain := fun (r : State × Option (List (Nat × List Byte))) => (r.1, r.2.map (fun w => ({ writes := w } : TileOut)))
  match dOp d with
  | 0x10 => plain (matmulTile d t s)
  | 0x11 => plain (convTile d t s)
  | 0x18 => plain (vecTile d t s)
  | 0x08 => plain (copyTile d t s)
  | 0x20 => match cimRunTile d ct t s with
    | (s, r) => (s, r.map (fun w => { writes := w.1, note := w.2.1 + w.2.2 % 2 ^ 32 * 2 ^ 32 }))
  | 0x21 =>
    match readAll [(leAt d 8 8 + (leAt d 16 4 - c.tiles / 8 * 131136) + t / 8 * 131136 + 64 + t % 8 * 16384, 16384)] s with
    | (s, r) => (s, r.map (fun b => { writes := [], cells := b.flatten }))
  | _ => match c.recs.head? with
    | some (base, length) => match attnTile d base length c.path t s with
      | (s, r) => (s, r.map (fun w => { writes := w.1, path := w.2 }))
    | none => (s, none)

/-- Both copies of a tile. -/
def computeTile (c : Cmd) (t : Nat) (a b : List Nat) (s : State) : State × Option TileOut :=
  let ct := fun (l : List Nat) => ((l.find? (fun e => decide (32 ≤ e ∧ e < 48))).getD 32) - 32
  match computeCopy c t (ct a) s with
  | (s, none) => (s, none)
  | (s, some x) =>
    if !dPaired c.desc then (s, some x) else
    match computeCopy c t (ct b) s with
    | (s, none) => (s, none)
    | (s, some y) => (s, some { x with differ := decide (x.writes ≠ y.writes ∨ x.path ≠ y.path) })

/-- Why a tile cannot start yet, or what ends its command at this boundary (R358, R403, R411, R423, R427). -/
inductive TileGate where
  | go
  | waits
  /-- It waits for a calibration. -/
  | calibrating
  | stops (r : StopReason)
  deriving DecidableEq, Repr

/-- The gate of a CIM_RUN work tile on its CIM tiles. -/
def cimRunGate (s : State) (c : Cmd) (l : List Nat) : TileGate :=
  match cimRunCheck s c.desc (cimTilesOf (cmdEngines c.desc c.sets)) false with
  | some st => .stops (.ends st)
  | none =>
    let busy := (cimTilesOf l).any (fun t => match (getCt s t).cal, runLayer s c.desc t with
      | some m, some y => (layerMacros y).contains m.1
      | _, _ => false)
    if busy then .calibrating else .go

/-- The gate of a CIM_LOAD chunk. -/
def cimLoadGate (s : State) (n q : Nat) (c : Cmd) (t : Nat) : TileGate :=
  let ct := leAt c.desc 20 1
  let m := (c.recs.getD (t / 8) (0, 0)).1
  let v := getCt s ct
  if (getMacro s ct m).claim ≠ claimOf n q c.index then .stops (.ends 0x94)
  else if v.cal.isSome || v.writing.isSome || (t % 8 = 0 && ctBusy s ct) || (t % 8 = 0 && t ≠ 0 && !(getMacro s ct (c.recs.getD (t / 8 - 1) (0, 0)).1).ready)
  then .waits else .go

/-- The gate of a tile. -/
def tileGate (s : State) (n q : Nat) (c : Cmd) (t : Nat) (l : List Nat) : TileGate :=
  if !stillOpen s n c then .stops (.ends 3)
  else if l.any (fun e => bit (enginesBusy s) e) then
    (if dOp c.desc = 0x20 ∧ cimRunCheck s c.desc (cimTilesOf (cmdEngines c.desc c.sets)) false ≠ none then cimRunGate s c l else .waits)
  else match dOp c.desc with
    | 0x20 => cimRunGate s c l
    | 0x21 => cimLoadGate s n q c t
    | 0x28 | 0x29 => if attnReady c.desc t c.done then .go else .waits
    | _ => .go

/-- Stop command `k` at this tile boundary. -/
def stopAtTile (n q k : Nat) (r : StopReason) (s : State) : State :=
  let x := getQ s n q
  let now := s.now
  let x := { x with cmds := x.cmds.modify k (stopCmd now r) }
  putQ n q (settleQueue x) s

/-- Record the end of a calibration wait (R411). -/
def calWaited (c : Cmd) (s : State) : State :=
  match c.waitAt with
  | none => s
  | some w => odMax (odKey 0x2A00 5) (s.now - w)
      (regUpd 0x13000208 (fun v => max v (min (s.now - w) 0xFFFFFFFF)) (regCount 0x13000204 1 s))

/-- The fetch and start of tile `t` of command `k`. -/
def startTile (n q k : Nat) (c : Cmd) (t : Nat) (a b : List Nat) (packBad : Bool) (s : State) : State :=
  let s := calWaited c (byteWait n s)
  let s := { s with pack := { s.pack with fetched := 0 } }
  match computeTile c t a b s with
  | (s, r) =>
    let out : TileOut := r.getD { writes := [] }
    let bytes := s.pack.fetched + ((out.writes.filter (fun w => decide (0x4000000000 ≤ w.1))).map (fun w => w.2.length)).sum
    let s := byteCharge n bytes { s with pack := { s.pack with fetched := 0 } }
    let s := if packBad then raiseAlarm 0x32 (memMsg (odCount (odKey 0x2400 0x0A) 1 (regCount 0x10400040 1 s))) else s
    let tile : Tile := { index := t, engines := a ++ b, at' := s.now, writes := out.writes, note := out.note, path := out.path,
                         cells := out.cells, differ := out.differ, err := if r.isNone ∨ packBad then some 9 else none }
    let s := if dOp c.desc = 0x21 then putCt (leAt c.desc 20 1) { getCt s (leAt c.desc 20 1) with
      writing := some (c.recs.getD (t / 8) (0, 0)).1 } s else s
    match (getQ s n q).cmds[k]? with
    | some c => putCmd n q k { c with run := c.run ++ [tile], disp := t + 1, waitAt := none } s
    | none => s

/-- The command of a queue that dispatches tiles: the first running one with tiles left. -/
def dispatching (x : Queue) : Option (Nat × Cmd) :=
  let k := x.cmds.findIdx (fun c => cmdRunning c && c.stop.isNone && decide (c.disp < c.tiles) && c.run.all (fun t => t.err.isNone))
  x.cmds[k]?.map (fun c => (k, c))

/-- The next tile of a queue starts. -/
def tileStart (n q : Nat) (packBad : Bool) (s : State) : State :=
  match dispatching (getQ s n q) with
  | none => s
  | some (k, c) =>
    if !qUp s n q || s.pack.scrub.isSome || (gated s n q && !slotted s n q) then s else
    match tileEngines s n c c.disp with
    | none => rescanEngines s
    | some (a, b) =>
      match tileGate s n q c c.disp (a ++ b) with
      | .go => startTile n q k c c.disp a b packBad s
      | .waits => s
      | .calibrating => putCmd n q k { c with waitAt := some (c.waitAt.getD s.now) } s
      | .stops r => stopAtTile n q k r s

/-! ### Commit (R320, R322, R325 to R331, R364, R385, R408, R409, R424) -/

/-- The running command of a queue whose next tile to commit has started. -/
def committing (x : Queue) : Option (Nat × Cmd × Tile) :=
  let k := x.cmds.findIdx (fun c => c.status.isNone && decide (c.run ≠ []))
  match x.cmds[k]? with
  | some c => c.run.head?.map (fun t => (k, c, t))
  | none => none

/-- Reference columns off by more than 0.25 count make their macro due (R408). -/
def referenceDrift (c : Cmd) (t : Tile) (off : List (Fin 16 × Fin 64 × Nat)) (s : State) : State :=
  off.foldl (fun u o =>
    let m := getMacro u o.1.val o.2.1.val
    let used := t.engines.contains (32 + o.1.val) && (runLayer u c.desc o.1.val).any (fun l => (layerMacros l).contains o.2.1.val)
    if used && decide (25 < o.2.2) && m.ready && m.due.isNone then regCount 0x1300020C 1 (makeDue o.1.val o.2.1.val u) else u) s

/-- Whether a reference column is off by 0.5 count or more (R409). -/
def referenceFault (s : State) (c : Cmd) (t : Tile) (off : List (Fin 16 × Fin 64 × Nat)) : Bool :=
  off.any (fun o => t.engines.contains (32 + o.1.val) && decide (50 ≤ o.2.2) &&
    (runLayer s c.desc o.1.val).any (fun l => (layerMacros l).contains o.2.1.val))

/-- A retry (R327, R332): the commands since the restart point run again, from its tile. -/
def retryQueue (k : Nat) (c : Cmd) (x : Queue) : Queue :=
  let again := x.since.map (fun (p : Cmd) =>
    { p with status := none, started := false, done := 0, disp := 0, run := [], report := none, silent := true, stop := none, waitAt := none })
  let cur := { c with started := false, done := 0, disp := 0, run := [], retries := c.retries + 1, stop := none, waitAt := none }
  let l := match again with
    | [] => [{ cur with done := x.rpTile, disp := x.rpTile }]
    | p :: t => { p with done := x.rpTile, disp := x.rpTile } :: t ++ [cur]
  let behind := (x.cmds.drop (k + 1)).map (fun p => if p.status.isNone then { p with started := false, disp := p.done, run := [], stop := none } else p)
  { x with cmds := x.cmds.take k ++ l ++ behind, since := [], retries := x.retries + 1 }

/-- A mismatch of the two copies of a tile (R326 to R330). -/
def tileMismatch (n q k : Nat) (c : Cmd) (s : State) : State :=
  let s := frzTrigger 4 (odCount (odKey 0x2801 1) 1 s)
  let x := getQ s n q
  if dRetry c.desc ∧ x.retries < 2 then
    let x := retryQueue k c x
    match c.stop with
    | some (.ends st) => putQ n q (endCmd k st s.now x) s
    | some .stop => putQ n q { x with state := 4 } s
    | some .preempt => putQ n q { x with state := 3 } s
    | _ => putQ n q x s
  else raiseAlarm 0x20 (finish n q k 8 s)

/-- A conversion fault ends the command (R409). -/
def conversionFault (n q k : Nat) (s : State) : State :=
  finish n q k 0x93 (odCount (odKey 0x2A00 8) 1 (regCount 0x13000210 1 s))

/-- The effect of a CIM_LOAD chunk: its cells, and after the last one of a macro the CRC comparison (R423, R424). The status that ends
the command, if any. -/
def commitChunk (c : Cmd) (t : Tile) (s : State) : State × Option Nat :=
  let ct := leAt c.desc 20 1
  let r := c.recs.getD (t.index / 8) (0, 0)
  let s := { s with cim := { s.cim with cells := tabSet (fun _ => []) s.cim.cells (ct * 512 + r.1 * 8 + t.index % 8) t.cells } }
  let s := putCt ct { getCt s ct with writing := none } s
  if t.index % 8 ≠ 7 then (s, none)
  else if macroCrc s ct r.1 = r.2 then
    (putCt ct { getCt s ct with cal := some (r.1, s.now + 24000) } (putMacro ct r.1 { getMacro s ct r.1 with crc := r.2 } s), none)
  else (odCount (odKey 0x2A00 7) 1 (regCount 0x13000214 1 s), some 0x92)

/-- DETAIL after a tile: saturations and conversions of a CIM_RUN, the path of an ACCEPT, the failing macro of a CIM_LOAD. -/
def detailAfter (c : Cmd) (t : Tile) : Nat :=
  match dOp c.desc with
  | 0x20 => (c.detail % 2 ^ 32 + t.note % 2 ^ 32) % 2 ^ 32 + (c.detail / 2 ^ 32 + t.note / 2 ^ 32) % 2 ^ 32 * 2 ^ 32
  | 0x29 => if aAccept c.desc && decide (t.index = 0) then
      t.path.length + (t.path.getLast?.getD 0xFF) * 256 + (aPos c.desc + t.path.length) * 2 ^ 32 else c.detail
  | _ => c.detail

/-- The longest time from a slot's start to free engines: a tile of another instance commits on an engine that an active slot
grants (0x2900:08). -/
def slotLatency (n : Nat) (t : Tile) (s : State) : State :=
  let tbl := rosterTable s
  (s.pack.active.filter (fun i => decide (slotField tbl i 5 1 ≠ n) && t.engines.any (fun e => slotGrants tbl i e))).foldl
    (fun u i => odMax (odKey 0x2900 8) ((gnow u) - (u.pack.frameAt + slotField tbl i 0 2 * 50000)) u) s

/-- Bookkeeping of a committed tile (R385). -/
def countTile (n : Nat) (t : Tile) (s : State) : State :=
  let ns := s.now - t.at'
  let s := slotLatency n t s
  odMax (odKey 0x2800 6) ns (odCount (odKey 0x2800 3) 1 (regUpd 0x11000040 (fun v => max v (min ns 0xFFFFFFFF)) (regCount64 0x11000030 1 s)))

/-- After a commit: a stop takes hold once no started tile is left, and its latency is recorded (R366, R385). -/
def settleAfter (n q : Nat) (c : Cmd) (s : State) : State :=
  let s := if c.stop.isSome && decide (c.run = []) then
      odMax (odKey 0x2800 5) (s.now - c.stopAt) (regUpd 0x1100003C (fun v => max v (min (s.now - c.stopAt) 0xFFFFFFFF)) s) else s
  putQ n q (settleQueue (getQ s n q)) s

/-- The commit of a matching tile. -/
def commitTile (n q k : Nat) (c : Cmd) (t : Tile) (s : State) : State :=
  let s := t.writes.foldl (fun u w => writeRange w.1 w.2 u) s
  let s := countTile n t s
  let s := if aAccept c.desc ∧ dOp c.desc = 0x29 ∧ t.index = 0 then
      putSeq (leAt c.desc 50 2) { getSeq s (leAt c.desc 50 2) with length := aPos c.desc + t.path.length } s else s
  match (if dOp c.desc = 0x21 then commitChunk c t s else (s, none)) with
  | (s, some st) =>
    finish n q k st (putCmd n q k { c with run := c.run.drop 1, done := t.index + 1, detail := (c.recs.getD (t.index / 8) (0, 0)).1 } s)
  | (s, none) =>
    let c := { c with run := c.run.drop 1, done := t.index + 1, detail := detailAfter c t,
                      path := if dOp c.desc = 0x29 ∧ aAccept c.desc ∧ t.index = 0 then t.path else c.path }
    let x := getQ s n q
    let x := if x.brace then { x with brace := false, since := [], rpTile := c.done, retries := 0 } else x
    let s := putQ n q { x with cmds := x.cmds.set k c } s
    if c.tiles ≤ c.done ∧ dOp c.desc ≠ 0x21 then finish n q k 0 s else settleAfter n q c s

/-- The next started tile of a queue ends: mismatch, error, conversion fault or commit. -/
def tileCommit (n q : Nat) (differ : Bool) (off : List (Fin 16 × Fin 64 × Nat)) (s : State) : State :=
  match committing (getQ s n q) with
  | none => s
  | some (k, c, t) =>
    let s := if dOp c.desc = 0x20 then referenceDrift c t off s else s
    match t.err with
    | some st => finish n q k st s
    | none =>
      if dOp c.desc = 0x20 ∧ referenceFault s c t off then conversionFault n q k s
      else if dPaired c.desc ∧ (differ ∨ t.differ) then tileMismatch n q k c s
      else commitTile n q k c t s

/-- Every started tile of a queue runs to its commit (R364). -/
def drainQueue (key : Nat) (s : State) : State :=
  iterate (((getQ s (key / 256) (key % 256)).cmds.map (fun c => c.run.length)).sum)
    (fun _ t => tileCommit (key / 256) (key % 256) false [] t) s

/-- Every started tile of the queues that `p` accepts runs to its commit. -/
def drainWhere (p : Nat → Queue → Bool) (s : State) : State :=
  ((s.pack.queues.filter (fun x => p x.1 x.2)).map Prod.fst).foldl (fun t k => drainQueue k t) s

/-! ### The commands -/

/-- NOP. -/
def execNop (n q : Fin 256) (s : State) : Host.Outcome State Fault Refusal := .next (startOp 1 n q s)

/-- FENCE (R383). -/
def execFence (n q : Fin 256) (s : State) : Host.Outcome State Fault Refusal := .next (startOp 2 n q s)

/-- CHECKPOINT (R323). -/
def execCheckpoint (n q : Fin 256) (s : State) : Host.Outcome State Fault Refusal := .next (startOp 3 n q s)

/-- KNOT_WAIT (R383). -/
def execKnotWait (n q : Fin 256) (s : State) : Host.Outcome State Fault Refusal := .next (startOp 4 n q s)

/-- KNOT_SIGNAL (R383). -/
def execKnotSignal (n q : Fin 256) (s : State) : Host.Outcome State Fault Refusal := .next (startOp 5 n q s)

/-- COPY (R382). -/
def execCopy (n q : Fin 256) (s : State) : Host.Outcome State Fault Refusal := .next (startOp 0x08 n q s)

/-- MATMUL (R375). -/
def execMatmul (n q : Fin 256) (s : State) : Host.Outcome State Fault Refusal := .next (startOp 0x10 n q s)

/-- CONV2D (R377). -/
def execConv2d (n q : Fin 256) (s : State) : Host.Outcome State Fault Refusal := .next (startOp 0x11 n q s)

/-- VEC, VOP 0x01 ADD (R381). -/
def execVecAdd (n q : Fin 256) (s : State) : Host.Outcome State Fault Refusal := .next (startVop 0x01 n q s)

/-- VEC, VOP 0x02 MUL (R381). -/
def execVecMul (n q : Fin 256) (s : State) : Host.Outcome State Fault Refusal := .next (startVop 0x02 n q s)

/-- VEC, VOP 0x03 MAX (R381). -/
def execVecMax (n q : Fin 256) (s : State) : Host.Outcome State Fault Refusal := .next (startVop 0x03 n q s)

/-- VEC, VOP 0x04 MIN (R381). -/
def execVecMin (n q : Fin 256) (s : State) : Host.Outcome State Fault Refusal := .next (startVop 0x04 n q s)

/-- VEC, VOP 0x05 AXPB (R381). -/
def execVecAxpb (n q : Fin 256) (s : State) : Host.Outcome State Fault Refusal := .next (startVop 0x05 n q s)

/-- VEC, VOP 0x10 RELU (R381). -/
def execVecRelu (n q : Fin 256) (s : State) : Host.Outcome State Fault Refusal := .next (startVop 0x10 n q s)

/-- VEC, VOP 0x11 CLAMP (R381). -/
def execVecClamp (n q : Fin 256) (s : State) : Host.Outcome State Fault Refusal := .next (startVop 0x11 n q s)

/-- VEC, VOP 0x12 GELU (R381). -/
def execVecGelu (n q : Fin 256) (s : State) : Host.Outcome State Fault Refusal := .next (startVop 0x12 n q s)

/-- VEC, VOP 0x13 SIGMOID (R381). -/
def execVecSigmoid (n q : Fin 256) (s : State) : Host.Outcome State Fault Refusal := .next (startVop 0x13 n q s)

/-- VEC, VOP 0x14 TANH (R381). -/
def execVecTanh (n q : Fin 256) (s : State) : Host.Outcome State Fault Refusal := .next (startVop 0x14 n q s)

/-- VEC, VOP 0x15 EXP (R381). -/
def execVecExp (n q : Fin 256) (s : State) : Host.Outcome State Fault Refusal := .next (startVop 0x15 n q s)

/-- VEC, VOP 0x16 RSQRT (R381). -/
def execVecRsqrt (n q : Fin 256) (s : State) : Host.Outcome State Fault Refusal := .next (startVop 0x16 n q s)

/-- VEC, VOP 0x20 SOFTMAX (R381). -/
def execVecSoftmax (n q : Fin 256) (s : State) : Host.Outcome State Fault Refusal := .next (startVop 0x20 n q s)

/-- VEC, VOP 0x21 LAYERNORM (R381). -/
def execVecLayernorm (n q : Fin 256) (s : State) : Host.Outcome State Fault Refusal := .next (startVop 0x21 n q s)

/-- VEC, VOP 0x22 RMSNORM (R381). -/
def execVecRmsnorm (n q : Fin 256) (s : State) : Host.Outcome State Fault Refusal := .next (startVop 0x22 n q s)

/-- VEC, VOP 0x23 ROWSUM (R381). -/
def execVecRowSum (n q : Fin 256) (s : State) : Host.Outcome State Fault Refusal := .next (startVop 0x23 n q s)

/-- VEC, VOP 0x24 ROWMAX (R381). -/
def execVecRowMax (n q : Fin 256) (s : State) : Host.Outcome State Fault Refusal := .next (startVop 0x24 n q s)

/-- VEC, VOP 0x30 CONVERT (R381). -/
def execVecConvert (n q : Fin 256) (s : State) : Host.Outcome State Fault Refusal := .next (startVop 0x30 n q s)

/-- CIM_RUN (R400). -/
def execCimRun (n q : Fin 256) (s : State) : Host.Outcome State Fault Refusal := .next (startOp 0x20 n q s)

/-- CIM_LOAD (R415). -/
def execCimLoad (n q : Fin 256) (s : State) : Host.Outcome State Fault Refusal := .next (startOp 0x21 n q s)

/-- ATTN (R496). -/
def execAttn (n q : Fin 256) (s : State) : Host.Outcome State Fault Refusal := .next (startOp 0x28 n q s)

/-- ATTN_VERIFY in ATTEND mode (R506). -/
def execAttnVerifyAttend (n q : Fin 256) (s : State) : Host.Outcome State Fault Refusal :=
  .next (startCmd (fun d => decide (dOp d = 0x29) && !aAccept d) n.val q.val s)

/-- ATTN_VERIFY in ACCEPT mode (R507). -/
def execAttnVerifyAccept (n q : Fin 256) (s : State) : Host.Outcome State Fault Refusal :=
  .next (startCmd (fun d => decide (dOp d = 0x29) && aAccept d) n.val q.val s)

/-- TILE_START (R362); `packUncorrectable` says that its operands met an uncorrectable Pack-buffer word (R290). -/
def execTileStart (n q : Fin 256) (packUncorrectable : Bool) (s : State) : Host.Outcome State Fault Refusal :=
  .next (kennelSettle (tileStart n.val q.val packUncorrectable s))

/-- TILE_COMMIT (R364); `signaturesDiffer` says that a fault made the signatures of the two copies differ, `referenceOff` by how many
hundredths of a count reference columns were off. -/
def execTileCommit (n q : Fin 256) (signaturesDiffer : Bool) (referenceOff : List (Fin 16 × Fin 64 × Nat)) (s : State) :
    Host.Outcome State Fault Refusal :=
  .next (if !blocksOn s then s else kennelSettle (tileCommit n.val q.val signaturesDiffer referenceOff s))

/-- TILE_HANG (R363): the tile never commits; its engine is a failed unit. -/
def execTileHang (n q : Fin 256) (s : State) : Host.Outcome State Fault Refusal :=
  .next (if !blocksOn s then s else
    match committing (getQ s n.val q.val) with
    | none => s
    | some (k, c, t) =>
      let s := advanceTo (t.at' + 16000) s
      raiseAlarm 0x14 (settleAfter n.val q.val { c with run := [] } (putCmd n.val q.val k { c with run := [], disp := c.tiles } s)))

/-- The waiting KNOT_WAIT of a queue. -/
def waitingCmd (x : Queue) : Option (Nat × Cmd) :=
  let k := x.cmds.findIdx (fun c => cmdRunning c && dOp c.desc = 4)
  x.cmds[k]?.map (fun c => (k, c))

/-- KNOT_WAIT_RELEASE (R383): the counter has reached the threshold. -/
def execKnotWaitRelease (n q : Fin 256) (s : State) : Host.Outcome State Fault Refusal :=
  .next (if !blocksOn s then s else
    match waitingCmd (getQ s n.val q.val) with
    | none => s
    | some (k, c) =>
      let v := knotValue s (leAt c.desc 8 2)
      if leAt c.desc 16 8 ≤ v then finish n.val q.val k 0 (putCmd n.val q.val k { c with detail := v } s) else s)

/-- KNOT_WAIT_TIMEOUT (R383): its time has come; a threshold already reached completes with DONE. -/
def execKnotWaitTimeout (n q : Fin 256) (s : State) : Host.Outcome State Fault Refusal :=
  .next (if !blocksOn s then s else
    match waitingCmd (getQ s n.val q.val) with
    | none => s
    | some (k, c) => match c.expires with
      | none => s
      | some t =>
        let s := advanceTo t s
        let v := knotValue s (leAt c.desc 8 2)
        finish n.val q.val k (if leAt c.desc 16 8 ≤ v then 0 else 0x0A) (putCmd n.val q.val k { c with detail := v } s))

/-- KENNEL_ALLOC_GRANT (R511): a waiting request is tried again; when it is met, its command starts, and a swap-in goes on. -/
def execKennelAllocGrant (handle : Fin 4096) (s : State) : Host.Outcome State Fault Refusal :=
  let h := handle.val
  .next (if !blocksOn s then s else
    match s.kennel.waits.find? (fun w => w.1 = h) with
    | none => s
    | some w =>
      let y := getSeq s h
      if w.2.1 = 0 then
        (match retryPages h 0 w.2.2 y.length s with
         | (s, .failed) => swapInFail h 0x0D s
         | (s, _) => s)
      else
        let key := w.2.1 - 1
        let n := key / 256
        let q := key % 256
        match nextCmd (getQ s n q) with
        | none => { s with kennel := { s.kennel with waits := s.kennel.waits.erase w } }
        | some (k, c) =>
          if !cmdNames h c then { s with kennel := { s.kennel with waits := s.kennel.waits.erase w } } else
          match retryPages h w.2.1 w.2.2 (aNewLength c.desc y) s with
          | (s, .waits) => s
          | (s, .failed) => endAtStart n q k 0x0D c s
          | (s, .granted) => startCmd (fun d => decide (dOp d = 0x28 ∨ dOp d = 0x29)) n q s)

end Sys2Proof.Machine
end

