-- ==== Sys2Proof/Machine/Roster.lean ====
section
/-! DEFINITION. Scheduling (10): the Roster, slots, slowdown windows, engine kinds, modes, and the Pack scrub. -/

namespace Sys2Proof.Machine

/-! ### Tables (R462 to R465) -/

/-- Slot count of a table. -/
def tableSlots (t : List Byte) : Nat := leAt t 6 2

/-- Frame length of a table, ns. -/
def frameNs (t : List Byte) : Nat := leAt t 8 2 * 50000

/-- A slot entry is as R463 lays down. -/
def slotFormat (t : List Byte) (i : Nat) : Bool :=
  let f := slotField t i
  decide (f 7 1 = 0 ∧ f 15 1 = 0) && (List.range 12).all (fun k => decide (f (20 + k) 1 = 0)) &&
  (if f 4 1 = 0 then decide (f 6 1 < 2 ∧ f 16 2 ≤ f 18 2 ∧ f 18 2 ≤ 255)
   else decide (f 4 1 = 1 ∧ f 5 1 = 0 ∧ f 6 1 = 0 ∧ f 8 4 = 0 ∧ f 14 1 = 0 ∧ f 16 2 = 0 ∧ f 18 2 = 0))

/-- Two slots are active at the same time. -/
def slotsMeet (t : List Byte) (i j : Nat) : Bool :=
  decide (slotField t i 0 2 < slotField t j 0 2 + slotField t j 2 2 ∧ slotField t j 0 2 < slotField t i 0 2 + slotField t i 2 2)

/-- An enabled slot by itself (R464). -/
def slotOk (s : State) (t : List Byte) (i : Nat) : Bool :=
  decide (slotField t i 0 2 + slotField t i 2 2 ≤ leAt t 8 2) &&
  (if slotField t i 4 1 = 0 then decide (odGet s (instKey (slotField t i 5 1) 0x20) = 1) &&
      (List.range 56).all (fun e => !slotGrants t i e || decide ((engineKind s e).1 = 2))
   else decide (slotField t i 12 2 ≠ 0))

/-- Two enabled slots together (R464). -/
def slotPairOk (s : State) (t : List Byte) (i j : Nat) : Bool :=
  if i = j ∨ !slotsMeet t i j then true
  else match slotField t i 4 1, slotField t j 4 1 with
    | 0, 0 => (List.range 56).all (fun e => !(slotGrants t i e && slotGrants t j e))
    | 1, 0 => (List.range 16).all (fun c => !(bit (slotField t i 12 2) c && slotUses s t j c))
    | _, _ => true

/-- A table holds its promises (R464). -/
def tableOk (s : State) (t : List Byte) : Bool :=
  let n := tableSlots t
  let on := (List.range n).filter (slotEnabled t)
  decide (t.take 4 = ascii "ROST" ∧ leAt t 4 2 = 1 ∧ n ≤ 256 ∧ 1 ≤ leAt t 8 2 ∧ leAt t 8 2 ≤ 2000 ∧ t.length = 64 + 32 * n) &&
  dZero t 10 59 && decide (leAt t 60 4 = crc32c (t.take 60 ++ t.drop 64)) &&
  (List.range n).all (slotFormat t) && on.all (slotOk s t) && on.all (fun i => on.all (slotPairOk s t i))

/-- The bytes of table bank 1 or 2. -/
def tableBank (s : State) (b : Nat) : List Byte := if b = 0 then [] else blobGet s (odKey 0x2900 b)

/-- Banks that R467 protects: the table in force and that of a pending switch. -/
def banksHeld (s : State) : List Nat :=
  (s.pack.table :: s.pack.switch.toList).filter (fun b => decide (b ≠ 0))

/-- A table names an instance in an enabled slot. -/
def tableNames (t : List Byte) (n : Nat) : Bool :=
  (List.range (tableSlots t)).any (fun i => slotEnabled t i && decide (slotField t i 4 1 = 0 ∧ slotField t i 5 1 = n))

/-- A table grants an engine in an enabled slot. -/
def tableGrants (t : List Byte) (e : Nat) : Bool :=
  (List.range (tableSlots t)).any (fun i => slotEnabled t i && slotGrants t i e)

/-! ### Frames and slots (R456 to R459, R466, R477) -/

/-- The slot's place in GTIME: its start and end. -/
def slotBegin (s : State) (i : Nat) : Nat := s.pack.frameAt + slotField (rosterTable s) i 0 2 * 50000

/-- Its planned end. -/
def slotFinish (s : State) (i : Nat) : Nat := slotBegin s i + slotField (rosterTable s) i 2 2 * 50000

/-- Queues that slot `i` named and no active slot names, with a running command. -/
def slotQueues (s : State) (i : Nat) : List Nat :=
  (s.pack.queues.filter (fun p => slotNames (rosterTable s) i (p.1 / 256) (p.1 % 256) && !slotted s (p.1 / 256) (p.1 % 256) &&
    p.2.cmds.any (fun c => cmdRunning c && c.stop.isNone))).map Prod.fst

/-- A slot ends: the commands of its queues wait for the next slot that names them (R459). -/
def endSlot (i : Nat) (s : State) : State :=
  let s := { s with pack := { s.pack with active := s.pack.active.filter (fun j => decide (j ≠ i)) } }
  let l := slotQueues s i
  rescanEngines (l.foldl (fun t k => preemptQueue k (odCount (odKey 0x2900 7) 1 t)) s)

/-- A slot begins: what its grants take from other instances stops (R458). -/
def beginSlot (i : Nat) (s : State) : State :=
  let t := rosterTable s
  let s := { s with pack := { s.pack with begun := s.pack.begun ++ [i], active := s.pack.active ++ [i] } }
  if slotField t i 4 1 ≠ 0 then s else
  let n := slotField t i 5 1
  rescanEngines (putInst n { getInst s n with slot := i } s)

/-- The first boundary of a frame grid after a time. -/
def gridAfter (epoch len g : Nat) : Nat := if g < epoch then epoch else epoch + ((g - epoch) / len + 1) * len

/-- The latest boundary of a frame grid up to a time. -/
def gridUpTo (epoch len g : Nat) : Option Nat := if g < epoch then none else some (epoch + (g - epoch) / len * len)

/-- Every instance that a table names or grants an engine to. -/
def tableInsts (t : List Byte) : List Nat := (List.range 256).filter (tableNames t)

/-- A table takes over at a boundary (R466, R540). -/
def takeOver (b : Nat) (s : State) : State :=
  let old := rosterTable s
  let s := s.pack.active.foldl (fun t i => endSlot i t) s
  let s := { s with pack := { s.pack with table := b, switch := none } }
  let now := rosterTable s
  rescanEngines (((List.range 256).filter (fun n => tableNames old n || tableNames now n)).foldl (fun t n => configChanged n t)
    (odPut (odKey 0x2900 5) b s))

/-- ROSTER_FRAME_START (R456): at a boundary of the table in force, or of the table that is to take over when none is. -/
def execRosterFrameStart (s : State) : Host.Outcome State Fault Refusal :=
  .next (
    let t := if s.pack.table = 0 then tableBank s (s.pack.switch.getD 0) else rosterTable s
    if !isUp s || t = [] then s else
    let len := frameNs t
    let epoch := odGet s (odKey 0x2900 4)
    let passed := (gridUpTo epoch len s.gtime).filter (fun b => decide (s.pack.table ≠ 0 ∧ s.pack.frameAt < b))
    let at' := passed.getD (gridAfter epoch len s.gtime)
    let s := gtimeReach at' s
    let s := s.pack.active.foldl (fun u i => endSlot i u) s
    let s := match s.pack.switch with
      | some b => takeOver b s
      | none => s
    if s.pack.table = 0 then s else
    odPut (odKey 0x2900 6) ((odGet s (odKey 0x2900 6) + 1) % 2 ^ 32)
      { s with pack := { s.pack with frameAt := at', begun := [], frames := s.pack.frames + 1 } })

/-- SLOT_START (R456 to R458). -/
def execSlotStart (index : Fin 256) (s : State) : Host.Outcome State Fault Refusal :=
  let i := index.val
  .next (if !isUp s || s.pack.table = 0 || !slotEnabled (rosterTable s) i || s.pack.begun.contains i then s
    else beginSlot i (gtimeReach (slotBegin s i) s))

/-- SLOT_END (R459). -/
def execSlotEnd (index : Fin 256) (s : State) : Host.Outcome State Fault Refusal :=
  let i := index.val
  .next (if !isUp s || !s.pack.active.contains i then s else endSlot i (gtimeReach (slotFinish s i) s))

/-! ### Slowdown (R469 to R471) -/

/-- SLOWDOWN_WINDOW: the end of a 10 ms window of instance `n`, with its occupied and contended cycles. -/
def execSlowdownWindow (n : Fin 256) (occupied contended : Nat) (s : State) : Host.Outcome State Fault Refusal :=
  let k := n.val
  .next (if !blocksOn s || (getInst s k).state ≠ 1 then s else
    let w := ms 10
    let last := tabGet (fun _ => 0) s.pack.window k
    let at' := if last < s.gtime / w then s.gtime / w else s.gtime / w + 1
    let s := gtimeReach (at' * w) s
    let s := { s with pack := { s.pack with window := tabSet (fun _ => 0) s.pack.window k at' } }
    let v := if occupied = 0 then 0 else if occupied ≤ contended then 255 else min 255 (16 * occupied / (occupied - contended))
    let s := regPut (instPage k + 0x500) ((at' - 1) % 65536 * 65536 + v) s
    let lim := bits (regRaw s (instPage k + 0x504)) 7 0
    if lim ≠ 0 ∧ lim ≤ v then instEvent k 1 s else s)

/-! ### Object dictionary entries of chapter 10 -/

/-- The engine that a kind entry sets (R475). -/
def engineOfKey (k : Nat) : Option Nat :=
  if odKey 0x2802 1 ≤ k ∧ k ≤ odKey 0x2802 0x20 then some (k - odKey 0x2802 1)
  else if odKey 0x2803 1 ≤ k ∧ k ≤ odKey 0x2803 0x10 then some (k - odKey 0x2803 1 + 32)
  else if odKey 0x2804 1 ≤ k ∧ k ≤ odKey 0x2804 8 then some (k - odKey 0x2804 1 + 48)
  else none

/-- Instance number and subindex of an entry of an instance's index. -/
def instOfKey (k : Nat) : Option (Nat × Nat) :=
  if odKey 0x3800 0 ≤ k ∧ k < odKey 0x3900 0 then some (k / 256 - 0x3800, k % 256) else none

/-- ENTRY_BUSY of R467. -/
def rosterBusy (s : State) (k : Nat) : Bool :=
  (decide (k = odKey 0x2900 1) && (banksHeld s).contains 1) || (decide (k = odKey 0x2900 2) && (banksHeld s).contains 2) ||
  (match engineOfKey k with
   | some e => decide ((engineKind s e).1 = 2) && (banksHeld s).any (fun b => tableGrants (tableBank s b) e)
   | none => false) ||
  (match instOfKey k with
   | some (n, 0x20) => (banksHeld s).any (fun b => tableNames (tableBank s b) n)
   | _ => false)

/-- The range rules of chapter 10 (R451, R464, R466, R475). -/
def rosterRange (s : State) (k v : Nat) (blob : List Byte) : Bool :=
  if k = odKey 0x2900 1 ∨ k = odKey 0x2900 2 then tableOk s blob
  else if k = odKey 0x2900 3 then decide (v = 0) || tableOk s (tableBank s v)
  else match engineOfKey k with
    | some e => decide (v % 4096 / 512 = 0) && (bit v 8 || decide (bits v 7 0 = 0)) &&
        (match bits v 15 12 with | 0 => true | 1 => bit v 8 | 2 => true | 3 => decide (48 ≤ e) | _ => false)
    | none => match instOfKey k with
      | some (n, 0x26) => decide (v + (((List.range 256).filter (fun m => decide (m ≠ n))).map (fun m => odGet s (instKey m 0x26))).sum ≤ 48)
      | _ => true

/-- Stop every running command of every instance with RESOURCE_REVOKED, and let started tiles commit (R473). -/
def revokeAll (s : State) : State :=
  kennelSettle (drainWhere (fun _ _ => true) (mapQueues (fun _ q => stopQueue s.now (.ends 4) q) s))

/-- An engine's kind changed (R440 to R444, R429): `s0` is the state before the write. -/
def engineChanged (e : Nat) (s0 s : State) : State :=
  let diff := (List.range 256).filter (fun n => decide (assignedTo s0 n e ≠ assignedTo s n e))
  let s := rescanEngines s
  let s := drainWhere (fun key q => assignedTo s0 (key / 256) e && !assignedTo s (key / 256) e &&
    q.cmds.any (fun c => c.run.any (fun t => t.engines.contains e))) s
  let s := if 32 ≤ e ∧ e < 48 ∧ diff.any (fun n => assignedTo s0 n e) then ctEmpty (e - 32) s else s
  kennelSettle (diff.foldl (fun t n => configChanged n t) s)

/-- Start a Pack scrub after a mode change (R473, R540). -/
def modeChanged (s : State) : State :=
  let s := revokeAll s
  let s := { s with pack := { s.pack with scrub := some s.now } }
  ((List.range 256).filter (fun n => decide ((getInst s n).state = 1))).foldl (fun t n => configChanged n t) s

/-- What follows an accepted write of an entry of chapter 10; `s0` is the state before it. -/
def rosterApply (k v : Nat) (s0 s : State) : State :=
  if k = odKey 0x2900 3 then
    let w := if !isUp s then none else if v = s.pack.table then none else some v
    { s with pack := { s.pack with switch := w } }
  else if k = odKey 0x2805 1 then (if odGet s0 k ≠ v then modeChanged s else s)
  else if k = odKey 0x2805 2 then (if odGet s0 k ≠ v ∧ odGet s (odKey 0x2805 1) = 1 then modeChanged s else s)
  else match engineOfKey k with
    | some e => if odGet s0 k ≠ v then engineChanged e s0 s else s
    | none => match instOfKey k with
      | some (_, 0x27) => if odGet s0 k ≠ v then rescanEngines s else s
      | _ => s

/-- After each start the selected table comes into force at the first frame boundary (R477). -/
def rosterEnter (s : State) : State :=
  let b := odGet s (odKey 0x2900 3)
  { s with pack := { s.pack with switch := if b = 0 then none else some b } }

/-- What a Pack scrub does (R474). -/
def packScrub (s : State) : State :=
  let s := (List.range 16).foldl (fun t c => ctEmpty c t) s
  let s := { s with cim := { s.cim with cells := [] } }
  let s := memZero (pageArea s) ((s.kennel.size - 2) * 0x200000) s
  { s with kennel := { s.kennel with seqs := [], zeroing := [], waits := [] } }

end Sys2Proof.Machine
end

