-- ==== Sys2Proof/Machine/Instances.lean ====
section
/-! DEFINITION. Pack instances (12): creation, reset, removal, the waits for a colliding generation, and the rules of their entries. -/

namespace Sys2Proof.Machine

/-- The next instance generation (R73). -/
def nextGen (g : Nat) : Nat := if g = 0xFFFF then 1 else g + 1

/-- Every register of an instance page but its common header returns to its reset value, and its queues with them. -/
def clearPage (n : Nat) (s : State) : State :=
  let p := instPage n
  { s with regs := s.regs.filter (fun x => decide (x.1 < p + 0x20 ∨ p + 0x10000 ≤ x.1)),
           hold := s.hold.filter (fun x => decide (x.1 ≠ p)),
           pack := { s.pack with queues := s.pack.queues.filter (fun x => decide (x.1 / 256 ≠ n)) } }

/-- Token buckets full (R446, R447). -/
def fullBuckets (s : State) (n : Nat) (i : Inst) : Inst :=
  { i with cmdTok := odGet s (instKey n 0x23) * 1000000, cmdAt := s.now,
           byteTok := ((odGet s (instKey n 0x25) * 1024000 : Nat) : Int), byteAt := s.now, slot := 0x1FF }

/-- Create an instance (R526). -/
def createInst (n : Nat) (s : State) : State :=
  let i := getInst s n
  let s := clearPage n s
  configChanged n (putInst n { fullBuckets s n i with state := 1, gen := if i.gen = 0 then 1 else i.gen, waitBy := none, cfgDue := false } s)

/-- Whether an instance's queue range is as R525 requires. -/
def createOk (s : State) (n : Nat) : Bool :=
  let lo := fun (m : Nat) => odGet s (instKey m 4)
  let cnt := fun (m : Nat) => odGet s (instKey m 3)
  decide (cnt n ≠ 0 ∧ lo n + cnt n ≤ 1024) &&
  (List.range 256).all (fun m => decide (m = n) || decide (odGet s (instKey m 1) ≠ 1) ||
    !(decide (lo n < lo m + cnt m ∧ lo m < lo n + cnt n)))

/-- Steps 4 to 6 of a reset or removal, once the new generation is free (R529, R537). -/
def resetFinish (n : Nat) (s : State) : State :=
  let i := getInst s n
  let s := clearPage n s
  let j := { fullBuckets s n i with gen := nextGen i.gen, waitBy := none, cfgDue := false }
  if i.state = 3 then putInst n { j with state := 0 } s
  else
    let s := instEvent n 3 (putInst n { j with state := 1 } s)
    if i.cfgDue then instEvent n 0 s else s

/-- Whether the next generation of an instance is still carried by an operation in flight (R75). -/
def genCollides (i : Inst) : Bool := i.late.any (fun l => l.2 = nextGen i.gen)

/-- Steps 1 to 3: started tiles commit, commands in flight are abandoned, and what they still owe becomes late; the sequences go. -/
def resetBegin (n st : Nat) (s : State) : State :=
  let s := putInst n { getInst s n with state := st } s
  let s := mapQueues (fun key q => if key / 256 = n then stopQueue s.now .silent q else q) s
  let s := drainWhere (fun key _ => key / 256 = n) s
  let owed := (s.pack.queues.filter (fun p => decide (p.1 / 256 = n))).flatMap (fun p =>
    (p.2.cmds.filter (fun c => c.status.isSome || c.report.isSome)).map (fun c => (p.1 % 256, c.gen)))
  let s := { s with pack := { s.pack with queues := s.pack.queues.filter (fun p => decide (p.1 / 256 ≠ n)) } }
  kennelFreeInst n (putInst n { getInst s n with late := (getInst s n).late ++ owed } s)

/-- A reset (state 2) or removal (state 3) of an ACTIVE instance (R529, R537, R75). -/
def resetInst (n st : Nat) (s : State) : State :=
  let s := resetBegin n st (if st = 2 then odCount (instKey n 9) 1 s else s)
  if genCollides (getInst s n) then putInst n { getInst s n with waitBy := some (s.now + ms 100) } s else resetFinish n s

/-- A write of INST_CTRL (R529, R533). -/
def instCtrlEff (n v : Nat) (s : State) : WriteRes :=
  .done (if bit v 0 ∧ (getInst s n).state = 1 then resetInst n 2 s else s)

/-- GENERATION_WAIT_END (R75): no operation carries the colliding generation any more. -/
def execGenerationWaitEnd (n : Fin 256) (s : State) : Host.Outcome State Fault Refusal :=
  let i := getInst s n.val
  .next (if i.waitBy.isSome && !genCollides i && blocksOn s then resetFinish n.val s else s)

/-- GENERATION_WAIT_TIMEOUT (R76): the instance stays as it is, and the Pack is a failed unit. -/
def execGenerationWaitTimeout (n : Fin 256) (s : State) : Host.Outcome State Fault Refusal :=
  let i := getInst s n.val
  .next (match i.waitBy with
    | none => s
    | some t =>
      if !blocksOn s then s else
      let s := advanceTo t s
      if genCollides i then raiseAlarm 0x14 (putInst n.val { i with waitBy := none } s) else resetFinish n.val s)

/-! ### Object dictionary entries (R493, R523, R525, R528, R536, R547) -/

/-- An engine kind names an instance. -/
def kindNames (s : State) (n : Nat) : Bool :=
  (List.range 56).any (fun e => match engineKind s e with
    | (1, o) => decide (o = some n)
    | (2, o) => decide (o = some n)
    | _ => false)

/-- A knot is assigned to an instance. -/
def knotNames (s : State) (n : Nat) : Bool :=
  s.od.any (fun p => decide (odKey 0x3520 0 ≤ p.1 ∧ p.1 < odKey 0x3540 0 ∧ p.1 % 256 ≠ 0) && decide (p.2 / 65536 = n ∨ p.2 % 65536 = n))

/-- Whether an instance may not be removed (R536). -/
def removeBusy (s : State) (n : Nat) : Bool :=
  decide ((getInst s n).state = 2 ∨ (getInst s n).state = 3) ||
  (decide ((getInst s n).state = 1) && (kindNames s n || tableNames (rosterTable s) n ||
    decide (odGet s (odKey 0x2805 1) = 1 ∧ odGet s (odKey 0x2805 2) = n) || knotNames s n))

/-- ENTRY_BUSY of R493, R528, R533, R536, R547. -/
def instBusy (s : State) (k v : Nat) : Bool :=
  match instOfKey k with
  | none => false
  | some (n, sub) =>
    let st := (getInst s n).state
    if sub = 1 then (if v = 0 then removeBusy s n else decide (odGet s k = 0 ∧ st ≠ 0))
    else if sub = 2 then decide (st ≠ 1)
    else if 3 ≤ sub ∧ sub ≤ 5 then decide (st ≠ 0)
    else if 0x10 ≤ sub ∧ sub ≤ 0x1F then decide (st ≠ 0 ∧ st ≠ 1)
    else if sub = 0x29 then s.kennel.seqs.any (fun p => decide (p.2.inst = n))
    else false

/-- The range of an access window value: base address and length (R523). -/
def windowRange (v : Nat) : Nat × Nat := (bits v 23 0 * 65536, bits v 47 24 * 65536)

/-- Ranges that no enabled window may overlap: Boot ROM, register space, KV pool, Tether area. -/
def windowBarred (s : State) : List (Nat × Nat) :=
  [(0, 0x40000), (0x10000000, 0x10000000),
   (0x4000000000 + odGet s (odKey 0x2B00 1) * 0x200000, odGet s (odKey 0x2B00 2) * 0x200000),
   (0x4000000000 + odGet s (odKey 0x3100 2) * 0x200000, 0x80000)]

/-- A window value is in range. -/
def windowOk (s : State) (v : Nat) : Bool :=
  let r := windowRange v
  decide (v / 2 ^ 48 % 2 ^ 14 = 0) && (!bit v 63 ||
    (decide (r.2 ≠ 0 ∧ r.1 + r.2 ≤ 2 ^ 40) && (windowBarred s).all (fun b => b.2 = 0 || !rangesMeet r b)))

/-- A handle range is in range (R493). -/
def handlesOk (s : State) (n v : Nat) : Bool :=
  let lo := bits v 27 16
  let cnt := bits v 12 0
  decide (lo + cnt ≤ 4096) && (List.range 256).all (fun m =>
    let r := handleRange s m
    decide (m = n) || !(decide (lo < r.1 + r.2 ∧ r.1 < lo + cnt)))

/-- The range rules of chapter 12. -/
def instRange (s : State) (k v : Nat) : Bool :=
  match instOfKey k with
  | none => true
  | some (n, sub) =>
    if sub = 1 then decide (v = 0 ∨ odGet s k = 1) || createOk s n
    else if 0x10 ≤ sub ∧ sub ≤ 0x1F then windowOk s v
    else if sub = 0x29 then handlesOk s n v
    else true

/-- What follows an accepted write of an entry of an instance's index (R525, R529, R537, R540). -/
def instApply (k v : Nat) (s0 s : State) : State :=
  match instOfKey k with
  | none => s
  | some (n, sub) =>
    if sub = 1 then
      (if odGet s0 k = v ∨ !blocksOn s then s
       else if v = 1 then createInst n s
       else if (getInst s n).state = 1 then configChanged n (resetInst n 3 s) else s)
    else if sub = 2 then resetInst n 2 s
    else configChanged n s

/-- Every enabled instance whose queue range is valid comes up (R527, R535). -/
def createAll (s : State) : State :=
  (List.range 256).foldl (fun t n => if odGet t (instKey n 1) = 1 && createOk t n then createInst n t else t) s

end Sys2Proof.Machine
end

