-- ==== Sys2Proof/Machine/Camera.lean ====
section
/-! DEFINITION. Camera ingest (13): packets, the sensor-side and device-side checks, frame records, streams. -/

namespace Sys2Proof.Machine

/-! ### Streams and their settings (R551 to R555, R576, R577) -/

/-- Camera stream `i`. -/
def getCam (s : State) (i : Nat) : CamStream := tabGet (fun _ => {}) s.cams i

/-- Replace a camera stream. -/
def putCam (i : Nat) (v : CamStream) (s : State) : State := { s with cams := tabSet (fun _ => {}) s.cams i v }

/-- Key of an entry of stream `i`. -/
def camKey (i sub : Nat) : Nat := odKey (0x2D10 + i) sub

/-- Address of a register of stream `i`. -/
def camReg (i off : Nat) : Nat := 0x15001000 + 0x40 * i + off

/-- Path of a stream. -/
def camPath (s : State) (i : Nat) : Nat := odGet s (camKey i 7)

/-- Exposures that a stream takes: more than one on the ISP path only (R551, R553). -/
def camExposures (s : State) (i : Nat) : Nat := if camPath s i = 1 then odGet s (camKey i 8) else 1

/-- Virtual channels of a stream. -/
def camChannels (s : State) (i : Nat) : List Nat := (List.range (camExposures s i)).map (· + odGet s (camKey i 3))

/-- Output line length in bytes (R551, R553). -/
def camLine (s : State) (i : Nat) : Nat :=
  if camPath s i = 1 then odGet s (camKey i 5) / bits (odGet s (camKey i 9)) 7 4 * 2 else odGet s (camKey i 5) * 2

/-- Output lines. -/
def camHeight (s : State) (i : Nat) : Nat :=
  if camPath s i = 1 then odGet s (camKey i 6) / bits (odGet s (camKey i 9)) 3 0 else odGet s (camKey i 6)

/-- LS: the output line length in whole granules (R555). -/
def camLs (s : State) (i : Nat) : Nat := up64 (camLine s i)

/-- The stream that a packet on a virtual channel of a receiver belongs to. -/
def camStream (s : State) (rx vc : Nat) : Option Nat :=
  (s.cams.find? (fun p => p.2.on && decide (odGet s (camKey p.1 2) = rx) && (camChannels s p.1).contains vc)).map Prod.fst

/-- Whether a virtual channel is a stream's first. -/
def camFirst (s : State) (i vc : Nat) : Bool := decide (odGet s (camKey i 3) = vc)

/-- SAFETY of a stream. -/
def camSafety (s : State) (i : Nat) : Bool := decide (odGet s (camKey i 0x0D) = 1)

/-! ### The pattern generator (R561) -/

/-- One bit: the next state. -/
def patBit (g : Nat) : Nat × Bool :=
  let b := bit g 30 ^^ bit g 27
  ((g * 2 + b2n b) % 2 ^ 31, b)

/-- One byte, most significant bit first. -/
def patByte (g : Nat) : Nat × Byte :=
  let r := (List.range 8).foldl (fun (a : Nat × Nat) _ => let n := patBit a.1; (n.1, a.2 * 2 + b2n n.2)) (g, 0)
  (r.1, BitVec.ofNat 8 r.2)

/-- `n` bytes. -/
def patBytes (n g : Nat) : Nat × List Byte :=
  let r := (List.range n).foldl (fun (a : Nat × List Byte) _ => let b := patByte a.1; (b.1, b.2 :: a.2)) (g, [])
  (r.1, r.2.reverse)

/-- The seed for a counter value. -/
def patSeed (c : Nat) : Nat := if c % 2 ^ 31 = 0 then 0x7FFFFFFF else c % 2 ^ 31

/-- The two test lines of a frame (R563). -/
def testLines (s : State) (i seq : Nat) : List Byte := (patBytes (2 * camLine s i) (patSeed seq)).2

/-! ### Pixels (R549, R551, R554) -/

/-- Bytes of a received line of `w` pixels of a data type. -/
def rawBytes (dt w : Nat) : Nat :=
  match dt with
  | 0x1E => 2 * w | 0x2B => w * 10 / 8 | 0x2C => w * 12 / 8 | 0x2D => w * 14 / 8 | _ => 2 * w

/-- Pixel `k` of a received RAW line (MIPI CSI-2 packing, log entry 31). -/
def rawPixel (dt : Nat) (l : List Byte) (k : Nat) : Nat :=
  let b := fun (i : Nat) => (l.getD i 0).toNat
  match dt with
  | 0x2B => b (k / 4 * 5 + k % 4) * 4 + bits (b (k / 4 * 5 + 4)) (2 * (k % 4) + 1) (2 * (k % 4))
  | 0x2C => b (k / 2 * 3 + k % 2) * 16 + bits (b (k / 2 * 3 + 2)) (4 * (k % 2) + 3) (4 * (k % 2))
  | 0x2D => b (k / 4 * 7 + k % 4) * 64 + leAt l (k / 4 * 7 + 4) 3 / 64 ^ (k % 4) % 64
  | _ => b (2 * k) * 256 + b (2 * k + 1)

/-- Whole pixels in `n` received bytes. -/
def pixelsIn (dt n : Nat) : Nat :=
  match dt with
  | 0x2B => n / 5 * 4 | 0x2C => n / 3 * 2 | 0x2D => n / 7 * 4 | _ => n / 2

/-- A free block of `n` bytes. -/
def freeBlock (n : Nat) (s : State) : State × List Byte := (takeFree s, (List.range n).map (Config.freeByte s.free))

/-- A line of the THERMAL path (R554): the table entry of each pixel, or none when its read failed; then the tone map, identity while
no parameters are set. -/
def thermalLine (i y : Nat) (px : List Nat) (s : State) : State × List Byte × Bool :=
  let w := odGet s (camKey i 5)
  match readRange (regRaw s (camReg i 0x10) + y * w * 4) (4 * px.length) s with
  | (s, r) =>
    let out := match r with
      | none => px
      | some t => (List.zip px (List.range px.length)).map (fun (p : Nat × Nat) =>
          let v : Int := ((p.1 * leAt t (4 * p.2) 2 / 256 : Nat) : Int) + toSigned 16 (leAt t (4 * p.2 + 2) 2)
          if v < 0 then 0 else min v.toNat 65535)
    if blobGet s (camKey i 0x0E) = [] then (s, out.flatMap (leBytes 2), r.isNone)
    else
      let f := freeBlock (2 * px.length) s
      (f.1, f.2, r.isNone)

/-- The output bytes of a received image line: what fits in the stream's width, and whether a NUC table read failed. -/
def camOutput (i y : Nat) (payload : List Byte) (s : State) : State × List Byte × Bool :=
  let w := odGet s (camKey i 5)
  let dt := odGet s (camKey i 4)
  let n := min w (pixelsIn dt payload.length)
  let px := (List.range n).map (rawPixel dt payload)
  if camPath s i = 1 then
    (match freeBlock (camLine s i) s with
     | (s, b) => (s, b, false))
  else if camPath s i = 2 then thermalLine i y px s
  else if dt = 0x1E then (s, payload.take (2 * w), false)
  else (s, px.flatMap (leBytes 2), false)

/-! ### Packets (R549, R550, R556, R559, R562) -/

/-- Count in a byte of RX_STATUS_r. -/
def rxCount (rx lo : Nat) (s : State) : State :=
  regUpd (0x15000020 + 4 * rx) (fun v => putBits v (lo + 7) lo (satAdd (bits v (lo + 7) lo) 1 0xFF)) s

/-- Packets arrive: the configured lanes are active and in high-speed mode. -/
def rxActive (rx : Nat) (s : State) : State :=
  regUpd (0x15000020 + 4 * rx) (fun v => putBits v 4 0 (16 + (2 ^ odUse s (odKey (0x2D01 + rx) 1) - 1))) s

/-- Image data types and embedded data. -/
def dataTypes : List Nat := [0x1E, 0x2B, 0x2C, 0x2D, 0x2E, 0x12]

/-- Change the frame in progress of a stream. -/
def updFrame (i : Nat) (f : CamFrame → CamFrame) (s : State) : State :=
  putCam i { getCam s i with frame := (getCam s i).frame.map f } s

/-- One more packet on the first virtual channel. -/
def notePacket (i : Nat) (s : State) : State := updFrame i (fun f => { f with packets := f.packets + 1 }) s

/-- An embedded line compared with the expected bytes (R561, R562). -/
def embeddedLine (n : Nat) (payload : List Byte) (f : CamFrame) : CamFrame :=
  if 2 ≤ f.emb then f else
  let late := decide (f.packets ≠ f.emb)
  let first := decide (f.emb = 0)
  let c := leAt payload 0 4
  let g := patBytes (if first then n - 4 else n) (if first then patSeed c else f.gen)
  let want := if first then payload.take 4 ++ g.2 else g.2
  { f with emb := f.emb + 1, gen := g.1, counter := if first ∧ 4 ≤ payload.length then some c else f.counter,
           sensorBad := f.sensorBad || late || decide (payload.length < n) || decide (payload.take n ≠ want) }

/-- An embedded data packet of stream `i`. -/
def camEmbedded (i vc : Nat) (payload : List Byte) (s : State) : State :=
  if !camFirst s i vc then s else
  notePacket i (updFrame i (embeddedLine (odGet s (camKey i 0x0A)) payload) s)

/-- Write the output bytes of an image line, with the padding of R555 behind a whole line. -/
def camWrite (i y : Nat) (f : CamFrame) (out : List Byte) (s : State) : State :=
  if !f.kept then s else
  let len := camLine s i
  let l := out.take len
  writeRange (regRaw s (camReg i 0) + f.buffer * regRaw s (camReg i 0x1C) + y * camLs s i)
    (if l.length = len then padTo (camLs s i) l else l) s

/-- An image line on the first virtual channel. -/
def camImage (i : Nat) (payload : List Byte) (s : State) : State :=
  match (getCam s i).frame with
  | none => s
  | some f =>
    let y := f.lines
    let h := odGet s (camKey i 6)
    let s := updFrame i (fun f => { f with lines := f.lines + 1, long := f.long || decide (h ≤ y) }) s
    let vd := if camPath s i = 1 then bits (odGet s (camKey i 9)) 3 0 else 1
    if h ≤ y ∨ (y + 1) % vd ≠ 0 ∨ camHeight s i ≤ y / vd then s else
    match camOutput i y payload s with
    | (s, out, nuc) => updFrame i (fun f => { f with nucErr := f.nucErr || nuc }) (camWrite i (y / vd) f out s)

/-- A long packet of an image data type of stream `i`. -/
def camLong (i vc dt : Nat) (payload : List Byte) (s : State) : State :=
  let s := if camFirst s i vc then notePacket i s else s
  if dt ≠ odGet s (camKey i 4) then s else
  let want := rawBytes dt (odGet s (camKey i 5))
  let s := updFrame i (fun f => { f with short := f.short || decide (payload.length < want), long := f.long || decide (want < payload.length) }) s
  if camFirst s i vc then camImage i payload s else s

/-- CSI_LONG_PACKET (R549, R550, R559). -/
def execCsiLongPacket (rx : Fin 8) (vc : Fin 16) (dataType : Nat) (ecc : HeaderEcc) (crcOk : Bool) (payload : List Byte) (s : State) :
    Host.Outcome State Fault Refusal :=
  .next (if !isUp s then s else
    let s := rxActive rx.val s
    if ecc = .bad then rxCount rx.val 8 s
    else if !dataTypes.contains dataType then
      (match camStream s rx.val vc.val with
       | some i => rxCount rx.val 24 (if camFirst s i vc.val then notePacket i s else s)
       | none => rxCount rx.val 24 s)
    else
      let s := if crcOk then s else rxCount rx.val 16 s
      match camStream s rx.val vc.val with
      | none => s
      | some i =>
        let s := if crcOk then s else updFrame i (fun f => { f with linkErr := true }) s
        if dataType = 0x12 then camEmbedded i vc.val payload s else camLong i vc.val dataType payload s)

/-- EMBEDDED_DATA_PACKET (R561, R562). -/
def execEmbeddedDataPacket (rx : Fin 8) (vc : Fin 16) (payload : List Byte) (s : State) : Host.Outcome State Fault Refusal :=
  .next (if !isUp s then s else
    let s := rxActive rx.val s
    match camStream s rx.val vc.val with
    | some i => camEmbedded i vc.val payload s
    | none => s)

/-! ### Records (R558, R560, R566 to R572) -/

/-- FLAGS of a record, FLAGGED included. -/
def camFlags (sensor device frozen aborted skip : Bool) (f : CamFrame) : Nat :=
  let v := b2n sensor + 2 * b2n device + 4 * b2n frozen + 8 * b2n f.short + 16 * b2n f.long + 32 * b2n f.linkErr + 64 * b2n f.nucErr +
    128 * b2n aborted
  v + 256 * b2n skip + (if v = 0 then 0 else 32768)

/-- Write a frame record (R558). -/
def camRecord (i flags counter sig want : Nat) (f : CamFrame) (s : State) : State :=
  let th := regRaw s (camReg i 0x2C)
  let tail := bits th 31 16
  let size := 2 ^ bits (regRaw s (camReg i 0x20)) 3 0
  let body := leBytes 2 flags ++ leBytes 1 i ++ leBytes 1 f.buffer ++ leBytes 4 counter ++ leBytes 8 f.gstart ++ leBytes 8 f.gend ++
    leBytes 2 f.lines ++ zeros 2 ++ leBytes 4 f.seq ++ leBytes 4 sig ++ leBytes 4 want ++ zeros 23 ++ leBytes 1 (1 - tail / size % 2)
  let s := writeRange (regRaw s (camReg i 8) + tail % size * 64) body s
  let s := regPut (camReg i 0x2C) ((tail + 1) % 65536 * 65536 + bits th 15 0) s
  let s := odCount (camKey i 0x10) 1 s
  if bit flags 15 then odCount (camKey i 0x11) 1 s else s

/-- An event of R566 or R568 on stream `i`: an alarm when the stream is a safety stream, else a count (R569). -/
def camEvent (i alarm : Nat) (s : State) : State :=
  if camSafety s i then raiseAlarm alarm (odCount (odKey 0x2D00 (if alarm = 0x60 then 1 else 2)) 1 s)
  else odCount (odKey 0x2D00 5) 1 s

/-- The group of a stream's knot: the enabled streams that name it (R571). -/
def camGroup (s : State) (k : Nat) : List Nat :=
  (s.cams.filter (fun p => p.2.on && decide (odGet s (camKey p.1 0x0B) = k))).map Prod.fst

/-- After a record, the knot takes the smallest latest counter of its group (R571). -/
def camKnot (i : Nat) (s : State) : State :=
  let k := odGet s (camKey i 0x0B)
  if 4096 ≤ k ∨ !knotSignals s k 0x100 then s else
  let ls := (camGroup s k).map (fun j => (getCam s j).latest)
  if ls.any Option.isNone then s else
  match ls.filterMap id with
  | [] => s
  | a :: t => knotRaise k (t.foldl min a) s

/-- The end of a frame whose checks are complete: record, alarms, knot, message, in that order (R560). -/
def camFinish (i : Nat) (f : CamFrame) (deviceBad aborted : Bool) (sig want : Nat) (s : State) : State :=
  let c := f.counter.getD (freeValue s % 2 ^ 32)
  let s := if f.counter.isSome then s else takeFree s
  let v := getCam s i
  let step := match v.prev with
    | some p => some ((c + 2 ^ 32 - p) % 2 ^ 32)
    | none => none
  let frozen := step.any (fun d => decide (d = 0 ∨ 2 ^ 31 ≤ d))
  let skip := step.any (fun d => decide (1 < d ∧ d < 2 ^ 31))
  let run := if frozen then v.frozen + 1 else 0
  let s := putCam i { v with prev := some c, frozen := run, latest := if f.kept then some c else v.latest } s
  let s := regPut (camReg i 0x34) c s
  let flags := camFlags f.sensorBad deviceBad frozen aborted skip f
  let s := if f.kept then camRecord i flags c sig want f s else s
  let s := if !aborted && (f.sensorBad || deviceBad) then camEvent i 0x60 s else s
  let s := if !aborted && decide (run = 2) then camEvent i 0x61 s else s
  if !f.kept then s else
  let s := camKnot i s
  if bit flags 15 ∨ odGet s (camKey i 0x0F) = 1 then sendMsg (1316 + i) s else s

/-- The signature expected of a frame's test lines (R565). -/
def camWant (s : State) (i : Nat) (f : CamFrame) : Nat := crc32c (testLines s i f.seq)

/-- A frame without test lines ends as ABORTED; the signature observed is open. -/
def camAbort (i : Nat) (f : CamFrame) (s : State) : State :=
  camFinish i { f with gend := (gnow s), short := f.short || decide (f.lines < odGet s (camKey i 6)) } false true
    (freeValue s % 2 ^ 32) (camWant s i f) (takeFree s)

/-- End as ABORTED whatever frames of a stream are in progress (R574). -/
def camAbortAll (i : Nat) (s : State) : State :=
  let v := getCam s i
  let s := putCam i { v with frame := none, tail := none } s
  let s := match v.tail with
    | some f => camAbort i f s
    | none => s
  match v.frame with
  | some f => camAbort i f s
  | none => s

/-- FRAME_START_PACKET (R556): the next buffer is claimed, or the frame is dropped. A frame still in progress ends as ABORTED. -/
def execFrameStartPacket (rx : Fin 8) (vc : Fin 16) (s : State) : Host.Outcome State Fault Refusal :=
  .next (if !isUp s then s else
    let s := rxActive rx.val s
    match camStream s rx.val vc.val with
    | none => s
    | some i =>
      if !camFirst s i vc.val then s else
      let s := match (getCam s i).frame with
        | some f => camAbort i f (putCam i { getCam s i with frame := none } s)
        | none => s
      let v := getCam s i
      let filled := regRaw s (camReg i 0x24)
      let th := regRaw s (camReg i 0x2C)
      let count := bits (regRaw s (camReg i 0x18)) 5 0
      let owed := b2n (v.tail.any (fun f => f.kept))
      let kept := decide (dist16 filled (regRaw s (camReg i 0x28)) < count ∧
        dist16 (bits th 31 16) (bits th 15 0) + owed < 2 ^ bits (regRaw s (camReg i 0x20)) 3 0)
      let f : CamFrame := { gstart := (gnow s), kept := kept, buffer := v.nextBuf, seq := (v.seq + 1) % 2 ^ 32 }
      let s := putCam i { v with seq := (v.seq + 1) % 2 ^ 32, frame := some f, nextBuf := if kept then (v.nextBuf + 1) % count else v.nextBuf } s
      let s := regUpd (camReg i 0x30) (fun x => x ||| 0x40000000) s
      if kept then regPut (camReg i 0x24) ((filled + 1) % 65536) s
      else odCount (odKey 0x2D00 4) 1 (regUpd (camReg i 0x30) (fun x => putBits x 15 0 (satAdd (bits x 15 0) 1 0xFFFF)) s))

/-- FRAME_END_PACKET (R559, R562, R563, R566): the frame awaits its test lines. -/
def execFrameEndPacket (rx : Fin 8) (vc : Fin 16) (s : State) : Host.Outcome State Fault Refusal :=
  .next (if !isUp s then s else
    let s := rxActive rx.val s
    match camStream s rx.val vc.val with
    | none => s
    | some i =>
      if !camFirst s i vc.val then s else
      let s := putCam i { getCam s i with mark := s.now, expired := false } s
      let v := getCam s i
      match v.frame with
      | none => s
      | some f =>
        let f := { f with gend := (gnow s), endAt := s.now, sensorBad := f.sensorBad || decide (f.emb < 2),
                          short := f.short || decide (f.lines < odGet s (camKey i 6)) }
        let s := match v.tail with
          | some t => camFinish i t true false (freeValue s % 2 ^ 32) (camWant s i t) (takeFree (putCam i { v with tail := none } s))
          | none => s
        regUpd (camReg i 0x30) (fun x => putBit x 30 false) (putCam i { getCam s i with frame := none, tail := some f } s))

/-- TEST_LINES_AT_DMA (R564, R565). -/
def execTestLinesAtDma (stream : Fin 128) (observed : List Byte) (s : State) : Host.Outcome State Fault Refusal :=
  let i := stream.val
  let v := getCam s i
  .next (match v.tail with
    | none => s
    | some f =>
      if !isUp s then s else
      let want := camWant s i f
      camFinish i f (decide (crc32c observed ≠ want)) false (crc32c observed) want (putCam i { v with tail := none } s))

/-- TEST_LINE_TIMEOUT (R565): the test lines have not arrived within 1 ms; the signature observed is open. -/
def execTestLineTimeout (stream : Fin 128) (s : State) : Host.Outcome State Fault Refusal :=
  let i := stream.val
  let v := getCam s i
  .next (match v.tail with
    | none => s
    | some f =>
      if !isUp s then s else
      let s := advanceTo (f.endAt + ms 1) s
      camFinish i f true false (freeValue s % 2 ^ 32) (camWant s i f) (takeFree (putCam i { v with tail := none } s)))

/-- FRAME_TIMEOUT (R566): later expirations before a Frame End packet are counted only. -/
def execFrameTimeout (stream : Fin 128) (s : State) : Host.Outcome State Fault Refusal :=
  let i := stream.val
  let v := getCam s i
  .next (if !isUp s || !v.on then s else
    let due := v.mark + ms (odGet s (camKey i 0x0C))
    let s := putCam i { v with mark := due, expired := true } (advanceTo due s)
    if v.expired && camSafety s i then odCount (odKey 0x2D00 1) 1 s else camEvent i 0x60 s)

/-! ### Registers (R557, R575) -/

/-- Whether an address lies in a stream block: stream and offset. -/
def camOf (a : Nat) : Option (Nat × Nat) :=
  if 0x15001000 ≤ a ∧ a < 0x15003000 then some ((a - 0x15001000) / 0x40, (a - 0x15001000) % 0x40) else none

/-- A write to a register of a stream block. -/
def camEff (i off v : Nat) (s : State) : WriteRes :=
  let bad := fun (b : Nat) => WriteRes.done (regSetBits (camReg i 0x30) (2 ^ b) s)
  let th := regRaw s (camReg i 0x2C)
  if off ≤ 0x20 then (if (getCam s i).on then bad 29 else .done (genericWrite (camReg i off) v s))
  else if off = 0x28 then
    let rel := regRaw s (camReg i 0x28)
    if dist16 (regRaw s (camReg i 0x24)) rel < dist16 (bits v 15 0) rel then bad 28 else .done (genericWrite (camReg i off) v s)
  else if off = 0x2C then
    (if (getCam s i).on ∧ dist16 (bits th 31 16) (bits th 15 0) < dist16 (bits v 15 0) (bits th 15 0) then bad 29
     else .done (genericWrite (camReg i off) v s))
  else .done (genericWrite (camReg i off) v s)

/-- RELEASED_WRITE (R557). -/
def execReleasedWrite (stream : Fin 128) (acc : Access) (value : Word) (s : State) : Host.Outcome State Fault Refusal :=
  .next (regWriteWith (fun _ v _ t => camEff stream.val 0x28 v t) (atReg acc (camReg stream.val 0x28)) value.toNat s)

/-! ### Object dictionary entries (R577, R578) -/

/-- Stream and subindex of an entry of 0x2D10 to 0x2D8F. -/
def camOfKey (k : Nat) : Option (Nat × Nat) :=
  if odKey 0x2D10 0 ≤ k ∧ k < odKey 0x2D90 0 then some (k / 256 - 0x2D10, k % 256) else none

/-- ENTRY_BUSY of R577. -/
def camBusy (s : State) (k : Nat) : Bool :=
  match camOfKey k with
  | some (i, sub) => decide (2 ≤ sub ∧ sub ≤ 0x0E) && (getCam s i).on
  | none => false

/-- Whether a stream's data type suits its path (R551). -/
def camTypeOk (path dt : Nat) : Bool :=
  match path with
  | 0 => dt ≠ 0x12
  | 1 => decide (0x2B ≤ dt ∧ dt ≤ 0x2E)
  | 2 => decide (dt = 0x2D ∨ dt = 0x2E)
  | _ => false

/-- Whether stream `i` may be enabled (R552, R578). -/
def camEnableOk (s : State) (i : Nat) : Bool :=
  let p := camPath s i
  let others := s.cams.filter (fun c => c.2.on && decide (c.1 ≠ i))
  let r := fun (o : Nat) => regRaw s (camReg i o)
  let k := odGet s (camKey i 0x0B)
  camTypeOk p (odGet s (camKey i 4)) &&
  (decide (p ≠ 1) || decide ((others.filter (fun c => camPath s c.1 = 1)).length < 4)) &&
  (decide (p ≠ 2) || (decide ((others.filter (fun c => camPath s c.1 = 2)).length < 2) &&
    decide (odGet s (camKey i 5) * odGet s (camKey i 6) ≤ 1024 * 768) && decide (r 0x10 ≠ 0))) &&
  (camChannels s i).all (fun c => decide (c ≤ 15)) &&
  others.all (fun c => decide (odGet s (camKey c.1 2) ≠ odGet s (camKey i 2)) ||
    (camChannels s c.1).all (fun x => !(camChannels s i).contains x)) &&
  decide (r 0 ≠ 0 ∧ r 8 ≠ 0 ∧ r 0x20 ≠ 0 ∧ r 0x18 ≠ 0 ∧ camLs s i * camHeight s i ≤ r 0x1C) &&
  (decide (k = 0xFFFF) || knotSignals s k 0x100)

/-- The range rules of chapter 13. -/
def camRange (s : State) (k v : Nat) : Bool :=
  if odKey 0x2D01 0 ≤ k ∧ k < odKey 0x2D09 0 ∧ k % 256 = 1 then decide (v = 1 ∨ v = 2 ∨ v = 4) else
  match camOfKey k with
  | none => true
  | some (i, sub) =>
    if sub = 1 then decide (v = 0) || (getCam s i).on || camEnableOk s i
    else if sub = 4 then dataTypes.contains v
    else if sub = 7 then decide (v ≤ 2)
    else if sub = 9 then decide (1 ≤ v / 16 ∧ v / 16 ≤ 8 ∧ 1 ≤ v % 16 ∧ v % 16 ≤ 8)
    else if sub = 0x0A then decide (v % 4 = 0)
    else if sub = 0x0B then decide (v < 4096 ∨ v = 0xFFFF)
    else true

/-- What follows an accepted write of Enable (R574, R578). -/
def camApply (k v : Nat) (s : State) : State :=
  match camOfKey k with
  | some (i, 1) =>
    let on := (getCam s i).on
    if v = 1 ∧ !on then
      regUpd (camReg i 0x30) (fun x => putBit x 31 true) (regPut (camReg i 0x24) 0 (putCam i { on := true, mark := s.now } s))
    else if v = 0 ∧ on then
      let s := camAbortAll i s
      regUpd (camReg i 0x30) (fun x => putBit (putBit x 31 false) 30 false) (putCam i {} s)
    else s
  | _ => s

/-- Enabled streams (0x2D00:03). -/
def camsOn (s : State) : Nat := (s.cams.filter (fun p => p.2.on)).length

end Sys2Proof.Machine
end

