-- ==== Sys2Proof/Machine/Raster.lean ====
section
/-! DEFINITION. The Raster engine (14): queues, submissions, binning, priorities and pre-emption, write-back, completions. -/

namespace Sys2Proof.Machine

/-! ### Openness (R594, R595) -/

/-- The values of a queue's access windows. -/
def gWindows (s : State) (q : Nat) : List Nat := (List.range 8).map (fun w => odGet s (gKey q (0x10 + w)))

/-- Whether a list of window values holds a range. -/
def gHolds (wins : List Nat) (wr : Bool) (addr len : Nat) : Bool :=
  wins.any (fun v => bit v 63 && (!wr || bit v 62) &&
    decide (bits v 23 0 * 65536 ≤ addr ∧ addr + len ≤ bits v 23 0 * 65536 + bits v 47 24 * 65536))

/-- The world tag of a queue. -/
def gTag (s : State) (q : Nat) : Bool := decide (odGet s (gKey q 2) = 1)

/-- Whether a range is open to a queue under given windows. -/
def gOpen (s : State) (q : Nat) (wins : List Nat) (wr : Bool) (addr len : Nat) : Bool :=
  gHolds wins wr addr len && memoryOpen s 0x28 (gTag s q) wr addr len

/-! ### Queues (R584, R345, R346, R351, R604) -/

/-- QCFG of a queue. -/
def gCfg (s : State) (q : Nat) : Nat := regRaw s (gReg q 0x18)

/-- ENABLE. -/
def gEnabled (s : State) (q : Nat) : Bool := bit (gCfg s q) 16

/-- Entries of the submission ring. -/
def gSqSize (s : State) (q : Nat) : Nat := 2 ^ bits (gCfg s q) 3 0

/-- Entries of the completion ring. -/
def gCqSize (s : State) (q : Nat) : Nat := 2 ^ bits (gCfg s q) 11 8

/-- The completion ring is full. -/
def gCqFull (s : State) (q : Nat) : Bool := decide (dist16 (getGq s q).cqTail (regRaw s (gReg q 0x28)) = gCqSize s q)

/-- Set a W1C bit of QSTATUS: 9 DB_ERR, 10 CFG_ERR. -/
def gErr (q b : Nat) (s : State) : State := regSetBits (gReg q 0x30) (2 ^ b) s

/-! ### Submissions (R585, R587 to R590) -/

/-- The submission at the head of a queue. -/
def gHead (s : State) (q : Nat) : Option GfxSub := (getGq s q).subs.head?

/-- Replace the head submission. -/
def updGHead (q : Nat) (f : GfxSub → GfxSub) (s : State) : State :=
  putGq q { getGq s q with subs := listUpd f (getGq s q).subs 0 } s

/-- WAIT_KNOT and SIGNAL_KNOT. -/
def gWaitKnot (e : List Byte) : Nat := leAt e 20 2

/-- SIGNAL_KNOT. -/
def gSignalKnot (e : List Byte) : Nat := leAt e 22 2

/-- Whether the wait of a submission is satisfied (R587). -/
def gWaitMet (s : State) (e : List Byte) : Bool := gWaitKnot e = 0xFFFF || decide (leAt e 24 8 ≤ knotValue s (gWaitKnot e))

/-- Whether the head submission of a queue is ready to run (R602). -/
def gReady (s : State) (q : Nat) : Bool :=
  match gHead s q with
  | some b => b.status.isNone && decide ((getGq s q).state = 2) && !gCqFull s q && (b.begun || gWaitMet s b.entry)
  | none => false

/-- Queues other than `q` whose head is ready, with at least a given priority. -/
def gRivals (s : State) (q prio : Nat) : Bool :=
  s.gfx.queues.any (fun x => decide (x.1 ≠ q ∧ prio ≤ gPrio s x.1) && gReady s x.1)

/-- The running submission is asked to yield when a ready one of higher priority appears (R602). -/
def gSettle (s : State) : State :=
  match s.gfx.run with
  | none => s
  | some q =>
    if s.gfx.yieldAt.isNone && gRivals s q (gPrio s q + 1) then { s with gfx := { s.gfx with yieldAt := some s.now } } else s

/-- The 64 bytes of a completion (R589). -/
def gCompletion (s : State) (q : Nat) (b : GfxSub) (st phase : Nat) : List Byte :=
  leBytes 1 st ++ [0] ++ leBytes 2 q ++ slice b.entry 4 4 ++ leBytes 8 b.gstart ++ leBytes 8 (gnow s) ++ leBytes 4 b.passes ++
  leBytes 4 b.partials ++ leBytes 4 b.preempts ++ zeros 4 ++ leBytes 8 b.faultAt ++ zeros 15 ++ leBytes 1 phase

/-- Write the head submission's completion and send its message; a failure leaves the queue STOPPED (R350, R589, R590). A ring that
the queue's tag cannot reach takes nothing. -/
def gWriteOne (q st : Nat) (b : GfxSub) (s : State) : State :=
  let x := getGq s q
  let size := gCqSize s q
  let a := regRaw s (gReg q 8) + x.cqTail % size * 64
  let c := gCompletion s q b st (1 - x.cqTail / size % 2)
  let s := if memoryOpen s 0x28 (gTag s q) true a 64 then writeRange a c s else s
  let rest := x.subs.drop 1
  let state := if st ≠ 0 ∧ st ≠ 0x0B then 4 else if x.state = 2 ∧ rest = [] ∧ x.sqHead = x.tail then 1 else x.state
  let s := putGq q { x with subs := rest, cqTail := (x.cqTail + 1) % 65536, last := st, state := state } s
  if bit (leAt b.entry 1 1) 0 ∨ st ≠ 0 then sendMsg (1280 + q) s else s

/-- Write the completions that are due, in order (R350, R351); a submission that failed its checks waits while its queue is
STOPPED (R370). -/
def gCompleteN (q : Nat) : Nat → State → State
  | 0, s => s
  | n + 1, s =>
    match gHead s q with
    | none => s
    | some b => match b.status with
      | none => s
      | some st =>
        if gCqFull s q || ((getGq s q).state = 4 && decide (st ≠ 0 ∧ st ≠ 0x0B) && !b.begun) then s
        else gCompleteN q n (gWriteOne q st b s)

/-- Write every completion of a queue that is due. -/
def gComplete (q : Nat) (s : State) : State := gSettle (gCompleteN q (getGq s q).subs.length s)

/-- The head submission leaves the shader cores. -/
def gLeave (s : State) : State := { s with gfx := { s.gfx with run := none, yieldAt := none } }

/-- Write back and invalidate the lines of the head submission (R592). -/
def gWriteBack (q : Nat) (s : State) : State :=
  match gHead s q with
  | none => s
  | some b => updGHead q (fun b => { b with lines := [] }) (b.lines.foldl (fun t l => writeRange l.1 l.2 t) s)

/-- The head submission ends with a status: write-back, completion (R590, R592). -/
def gEnd (q st : Nat) (s : State) : State :=
  let s := gWriteBack q s
  let s := updGHead q (fun b => { b with status := some st, binned := 0 }) s
  let x := getGq s q
  let s := putGq q { x with stop := false, state := if x.stop then 4 else x.state } s
  gComplete q (if s.gfx.run = some q then gLeave s else s)

/-- The signal of a submission that ran to its end (R588, R664). -/
def gSignal (q : Nat) (b : GfxSub) (s : State) : State :=
  let k := gSignalKnot b.entry
  let v := leAt b.entry 32 8
  if k = 0xFFFF then gEnd q 0 s
  else if !knotSignals s k 0x101 then gEnd q 3 s
  else if v ≤ knotValue s k then gEnd q 0xB2 s
  else gEnd q 0 (knotRaise k v (gWriteBack q s))

/-! ### The cache (R592, R594) -/

/-- Bytes written over the bytes of a line. -/
def overlayBytes : List Byte → List (Option Byte) → List Byte
  | b :: t, o :: u => o.getD b :: overlayBytes t u
  | l, _ => l

/-- One line write of the running submission: the state, or the status and address of its failure. A line's bytes that are not
written come from memory at its first write. -/
def gLineWrite (q : Nat) (w : LineWrite) (s : State) : State × Option (Nat × Nat) :=
  let a := w.line / 64 * 64
  match gHead s q with
  | none => (s, none)
  | some b =>
    if !gOpen s q b.wins true a 64 then (s, some (3, a)) else
    let put := fun (l : List Byte) (t : State) =>
      updGHead q (fun b => { b with lines := (a, overlayBytes l w.bytes) :: b.lines.filter (fun (x : Nat × List Byte) => decide (x.1 ≠ a)) }) t
    match b.lines.find? (fun (x : Nat × List Byte) => decide (x.1 = a)) with
    | some x => (put x.2 s, none)
    | none =>
      if w.bytes.length = 64 ∧ w.bytes.all Option.isSome then (put (zeros 64) s, none)
      else match readRange a 64 s with
        | (s, some l) => (put l s, none)
        | (s, none) => (s, some (9, 0))

/-- The line writes of a submission in order, up to the first that fails. -/
def gLineWrites (q : Nat) : List LineWrite → State → State × Option (Nat × Nat)
  | [], s => (s, none)
  | w :: t, s => match gLineWrite q w s with
    | (s, none) => gLineWrites q t s
    | r => r

/-- The head submission ends with a failure and its address. -/
def gFail (q : Nat) (f : Nat × Nat) (s : State) : State :=
  gEnd q f.1 (updGHead q (fun b => { b with faultAt := if f.1 = 3 then f.2 else 0 }) s)

/-! ### Registers of a queue -/

/-- A doorbell (R346). -/
def gDoorbellEff (q v : Nat) (s : State) : WriteRes :=
  let x := getGq s q
  let tail := bits v 15 0
  if !gEnabled s q || decide (gSqSize s q < dist16 tail x.sqHead) || decide (dist16 tail x.sqHead < dist16 x.tail x.sqHead) then
    .done (gErr q 9 s)
  else .done (putGq q { x with tail := tail, state := if x.state = 1 ∧ tail ≠ x.sqHead then 2 else x.state } s)

/-- A write of SQ_BASE, CQ_BASE, CTX_SAVE or QCFG (R345, R584, R604). -/
def gCfgEff (q off v : Nat) (s : State) : WriteRes :=
  let x := getGq s q
  let lim := fun (n : Nat) => decide (4 ≤ n ∧ n ≤ 10)
  if gEnabled s q then
    (if off = 0x18 ∧ !bit v 16 ∧ (x.state = 1 ∨ x.state = 4) then
      .done (putGq q { last := x.last } (regPut (gReg q 0x18) (gCfg s q - 65536) s))
    else .done (gErr q 10 s))
  else if off = 0x18 ∧ bit v 16 then
    (if lim (bits v 3 0) && lim (bits v 11 8) && gHolds (gWindows s q) true (regRaw s (gReg q 0x10)) 0x40000 then
      .done (putGq q { last := x.last, state := 1 } (regPut (gReg q 0x28) 0 (genericWrite (gReg q 0x18) v s)))
    else .done (gErr q 10 s))
  else .done (genericWrite (gReg q off) v s)

/-- STOP: the running submission yields at its next pre-emption point and leaves the queue STOPPED. -/
def gStopEff (q : Nat) (s : State) : State :=
  let x := getGq s q
  if x.state = 0 ∨ x.state = 4 then s
  else if s.gfx.run = some q then
    let s := putGq q { x with stop := true } s
    { s with gfx := { s.gfx with yieldAt := some (s.gfx.yieldAt.getD s.now) } }
  else putGq q { x with state := 4 } s

/-- One submission read by FLUSH. -/
def gFlushOne (q : Nat) (s : State) : State :=
  let x := getGq s q
  let a := regRaw s (gReg q 0) + x.sqHead % gSqSize s q * 64
  let x := { x with sqHead := (x.sqHead + 1) % 65536 }
  let put := fun (e : List Byte) (st : Nat) (t : State) => putGq q { x with subs := x.subs ++ [{ entry := e, status := some st }] } t
  if !memoryOpen s 0x28 (gTag s q) false a 64 then put (zeros 64) 3 s
  else match readRange a 64 s with
    | (s, some e) => put e 0x0B s
    | (s, none) => put (zeros 64) 9 s

/-- FLUSH: every submission up to TAIL completes with FLUSHED (R369, R590). -/
def gFlushEff (q : Nat) (s : State) : State :=
  let x := getGq s q
  if x.state ≠ 1 ∧ x.state ≠ 4 then gErr q 10 s else
  let s := gWriteBack q s
  let x := getGq s q
  let l := x.subs.map (fun b => if b.status.isNone || !b.begun then { b with status := some 0x0B, binned := 0 } else b)
  let s := iterate (dist16 x.tail x.sqHead) (fun _ t => gFlushOne q t) (putGq q { x with subs := l } s)
  gComplete q (putGq q { getGq s q with state := 1 } s)

/-- START: a STOPPED queue goes on. -/
def gStartEff (q : Nat) (s : State) : State :=
  let x := getGq s q
  if x.state ≠ 4 then s
  else gComplete q (putGq q { x with state := if x.subs = [] ∧ x.tail = x.sqHead then 1 else 2 } s)

/-- A write of QCTRL: STOP, FLUSH, START in this order. -/
def gCtlEff (q v : Nat) (s : State) : WriteRes :=
  let s := if bit v 0 then gStopEff q s else s
  let s := if bit v 2 then gFlushEff q s else s
  .done (if bit v 1 then gStartEff q s else s)

/-- A write to a register of a queue block. -/
def gfxEff (q off v : Nat) (s : State) : WriteRes :=
  if off ≤ 0x18 then gCfgEff q off v s
  else if off = 0x1C then gDoorbellEff q v s
  else if off = 0x28 then .done (gComplete q (genericWrite (gReg q off) v s))
  else if off = 0x2C then gCtlEff q v s
  else .done (genericWrite (gReg q off) v s)

/-- GFX_DOORBELL (R346, R584). -/
def execGfxDoorbell (q : Fin 32) (acc : Access) (tail : Nat) (s : State) : Host.Outcome State Fault Refusal :=
  .next (regWriteWith (fun _ v _ t => gDoorbellEff q.val v t) (atReg acc (gReg q.val 0x1C)) tail s)

/-- GFX_QUEUE_STOP (R590, R603). -/
def execGfxQueueStop (q : Fin 32) (acc : Access) (s : State) : Host.Outcome State Fault Refusal :=
  .next (regWriteWith (fun _ v _ t => gCtlEff q.val v t) (atReg acc (gReg q.val 0x2C)) 1 s)

/-- GFX_QUEUE_START (R590). -/
def execGfxQueueStart (q : Fin 32) (acc : Access) (s : State) : Host.Outcome State Fault Refusal :=
  .next (regWriteWith (fun _ v _ t => gCtlEff q.val v t) (atReg acc (gReg q.val 0x2C)) 2 s)

/-- GFX_QUEUE_FLUSH (R369, R590). -/
def execGfxQueueFlush (q : Fin 32) (acc : Access) (s : State) : Host.Outcome State Fault Refusal :=
  .next (regWriteWith (fun _ v _ t => gCtlEff q.val v t) (atReg acc (gReg q.val 0x2C)) 4 s)

/-! ### Fetch and checks (R347, R585, R586) -/

/-- A submission's fixed fields are as R585 gives them. -/
def gEntryOk (e : List Byte) : Bool :=
  decide (leAt e 0 1 = 1 ∧ leAt e 1 1 / 2 = 0 ∧ leAt e 2 2 = 0) && (e.drop 40).all (fun b => b = 0)

/-- The checks of R586 in the order of R61 (log entry 28). -/
def gCheck (s : State) (q : Nat) (e : List Byte) : Option Nat :=
  let a := leAt e 8 8
  let n := leAt e 16 4
  let kw := gWaitKnot e
  let ks := gSignalKnot e
  if !gEntryOk e then some 0x10
  else if (kw ≠ 0xFFFF && !knotWaits s kw 0x101) || (ks ≠ 0xFFFF && !knotSignals s ks 0x101) then some 3
  else if n = 0 then some 1
  else if !gOpen s q (gWindows s q) false a n then some 3
  else if a % 64 ≠ 0 ∨ n % 64 ≠ 0 then some 0x11
  else none

/-- Fetch the next submission of a queue. -/
def gFetchOne (q : Nat) (s : State) : State :=
  let x := getGq s q
  let a := regRaw s (gReg q 0) + x.sqHead % gSqSize s q * 64
  let x := { x with sqHead := (x.sqHead + 1) % 65536, state := if x.state = 1 then 2 else x.state }
  let put := fun (e : List Byte) (st : Option Nat) (t : State) => putGq q { x with subs := x.subs ++ [{ entry := e, status := st }] } t
  if !memoryOpen s 0x28 (gTag s q) false a 64 then put (zeros 64) (some 3) s
  else match readRange a 64 s with
    | (s, some e) => put e (gCheck s q e) s
    | (s, none) => put (zeros 64) (some 9) s

/-- GFX_SUBMISSION_FETCH (R586). -/
def execGfxSubmissionFetch (q : Fin 32) (s : State) : Host.Outcome State Fault Refusal :=
  let x := getGq s q.val
  .next (if isUp s && gEnabled s q.val && decide (x.state ≠ 4 ∧ x.sqHead ≠ x.tail) then gComplete q.val (gFetchOne q.val s) else s)

/-! ### Running (R583, R587, R597 to R607) -/

/-- Bin one primitive, as (varyings, tiles touched): its bytes join the partition, after a partial render when they do not fit
(R599, R600). -/
def gBin (q : Nat) (s : State) (p : Nat × Nat) : State :=
  let size := 32 + 16 * p.1 + 4 * p.2
  let prio := gPrio s q
  if partitionUse s prio + size ≤ partitionBytes s prio then updGHead q (fun b => { b with binned := b.binned + size }) s
  else odCount (odKey 0x2C00 9) 1 (updGHead q (fun b => { b with binned := size, partials := b.partials + 1 }) s)

/-- GFX_SUBMISSION_START (R583, R587, R600, R602): the head submission of a queue takes the idle shader cores, first or again after
a pre-emption. -/
def execGfxSubmissionStart (q : Fin 32) (draw : Bool) (primitives : List (Nat × Nat)) (s : State) :
    Host.Outcome State Fault Refusal :=
  let q := q.val
  .next (if !isUp s || s.gfx.run.isSome || !gReady s q || gRivals s q (gPrio s q + 1) then s else
    let s := { s with gfx := { s.gfx with run := some q, ranAt := s.now, yieldAt := none, gmcStop := none } }
    let g := (gnow s)
    let w := gWindows s q
    let s := updGHead q (fun b => { b with begun := true, gstart := if b.begun then b.gstart else g, wins := w }) s
    if draw ∧ 16 ≤ q then gEnd q 0x10 s else primitives.foldl (gBin q) s)

/-- Save the context of a pre-empted submission: its content is open (log entry 30). -/
def gSaveContext (q : Nat) (s : State) : State :=
  let a := regRaw s (gReg q 0x10)
  if gOpen s q (gWindows s q) true a 0x40000 then
    writeRange a ((List.range 0x40000).map (Config.freeByte s.free)) (takeFree s)
  else s

/-- The running submission yields: it keeps what it has binned and resumes later where it stopped (R598, R604). -/
def gYield (q : Nat) (s : State) : State :=
  let s := gSaveContext q (updGHead q (fun b => { b with preempts := b.preempts + 1 }) s)
  let x := getGq s q
  gLeave (putGq q { x with stop := false, state := if x.stop then 4 else x.state } s)

/-- Whether the running submission yields now (R602, R603). -/
def gYields (s : State) (q : Nat) : Bool :=
  (getGq s q).stop || gRivals s q (gPrio s q + 1) ||
  (decide (s.gfx.ranAt + ms (odGet s (odKey 0x2C00 8)) ≤ s.now) && gRivals s q (gPrio s q))

/-- GFX_PREEMPTION_POINT (R592, R595, R602 to R604). -/
def execGfxPreemptionPoint (q : Fin 32) (writes : List LineWrite) (s : State) : Host.Outcome State Fault Refusal :=
  let q := q.val
  .next (if !isUp s || s.gfx.run ≠ some q then s else
    match gLineWrites q writes s with
    | (s, some f) => gFail q f s
    | (s, none) =>
      if gYields s q then gYield q s else
      let w := gWindows s q
      updGHead q (fun b => { b with wins := w }) s)

/-- GFX_SUBMISSION_DONE (R588 to R592, R594, R596): the running submission ends, or fails by an access or an attachment. -/
def execGfxSubmissionDone (q : Fin 32) (renderPasses : Nat) (writes : List LineWrite) (failure : Option (Nat × Nat)) (s : State) :
    Host.Outcome State Fault Refusal :=
  let q := q.val
  .next (if !isUp s || s.gfx.run ≠ some q then s else
    match gLineWrites q writes (updGHead q (fun b => { b with passes := b.passes + renderPasses }) s) with
    | (s, some f) => gFail q f s
    | (s, none) => match failure with
      | some f => gFail q f s
      | none => match gHead s q with
        | some b => gSignal q b s
        | none => s)

/-- TIMESLICE_EXPIRY (R602): with another ready submission of the same priority the running one is asked to yield. -/
def execTimesliceExpiry (s : State) : Host.Outcome State Fault Refusal :=
  .next (match s.gfx.run with
    | none => s
    | some q =>
      if !isUp s then s else
      let s := advanceTo (s.gfx.ranAt + ms (odGet s (odKey 0x2C00 8))) s
      if s.gfx.yieldAt.isNone && gRivals s q (gPrio s q) then { s with gfx := { s.gfx with yieldAt := some s.now } } else s)

/-- PREEMPT_TIMEOUT (R605). -/
def execPreemptTimeout (q : Fin 32) (s : State) : Host.Outcome State Fault Refusal :=
  let q := q.val
  .next (if !isUp s || s.gfx.run ≠ some q || !(s.gfx.yieldAt.isSome || gYields s q) then s else
    let s := advanceTo (s.gfx.yieldAt.getD s.now + ms (odGet s (odKey 0x2C00 7))) s
    let s := { s with gfx := { s.gfx with gmcStop := some s.now } }
    gEnd q 0xB0 (odCount (odKey 0x2C00 0x0A) 1 s))

/-- SHADER_FAULT (R606). -/
def execShaderFault (q : Fin 32) (s : State) : Host.Outcome State Fault Refusal :=
  .next (if !isUp s || s.gfx.run ≠ some q.val then s else gEnd q.val 0xB1 (odCount (odKey 0x2C00 0x0B) 1 s))

/-- GFX_CORE_STOP_TIMEOUT (R607): a core has not stopped 100 µs after the GMC stopped a submission. -/
def execGfxCoreStopTimeout (s : State) : Host.Outcome State Fault Refusal :=
  .next (match s.gfx.gmcStop with
    | none => s
    | some t =>
      if !isUp s then s else
      let s := advanceTo (t + us 100) s
      raiseAlarm 0x14 { s with gfx := { s.gfx with gmcStop := none } })

/-- A knot's assignment changed: every submission that waits on it completes with RESOURCE_REVOKED (R666). -/
def gfxRevoke (k : Nat) (s : State) : State :=
  (s.gfx.queues.map Prod.fst).foldl (fun t q =>
    let x := getGq t q
    gComplete q (putGq q { x with subs := x.subs.map (fun b =>
      if b.status.isNone && !b.begun && decide (gWaitKnot b.entry = k) then { b with status := some 4 } else b) } t)) s

/-! ### Object dictionary entries (R625, R626) -/

/-- Queue and subindex of an entry of 0x2C20 to 0x2C3F. -/
def gfxOfKey (k : Nat) : Option (Nat × Nat) :=
  if odKey 0x2C20 0 ≤ k ∧ k < odKey 0x2C40 0 then some (k / 256 - 0x2C20, k % 256) else none

/-- ENTRY_BUSY of R626. -/
def gfxBusy (s : State) (k : Nat) : Bool :=
  match gfxOfKey k with
  | some (q, sub) => decide (sub = 1 ∨ sub = 2) && gEnabled s q
  | none => false

/-- The range rules of R625 and R523. -/
def gfxRange (s : State) (k v : Nat) : Bool :=
  let g := fun (i : Nat) => if k = odKey 0x2C00 i then v else odGet s (odKey 0x2C00 i)
  if odKey 0x2C00 1 ≤ k ∧ k ≤ odKey 0x2C00 5 then decide (g 1 + g 2 ≤ 64 ∧ g 3 + g 4 + g 5 + 1 ≤ 4 * g 2)
  else match gfxOfKey k with
    | some (_, sub) => if 0x10 ≤ sub then windowOk s v else true
    | none => true

end Sys2Proof.Machine
end

