-- ==== Sys2Proof/Machine/Display.lean ====
section
/-! DEFINITION. Display pipes and the safety overlay (14): frame starts, scanout, region checks, commits, pipe enables. -/

namespace Sys2Proof.Machine

/-! ### Plane layouts (R612, R613) -/

/-- Bytes per pixel of a plane format. -/
def planeBpp (f : Nat) : Nat := if f ≤ 2 then 4 else 2

/-- Field `i` of the eight 16-bit numbers of a layout record: source X, Y, W, H, destination X, Y, W, H. -/
def layField (l : List Byte) (i : Nat) : Nat := leAt l (4 + 2 * i) 2

/-- PITCH of a layout record. -/
def layPitch (l : List Byte) : Nat := leAt l 20 4

/-- ENABLE of a layout record. -/
def layOn (l : List Byte) : Bool := bit (leAt l 0 1) 0

/-- A scale ratio from 1/4 to 8. -/
def scaleOk (src dst : Nat) : Bool := decide (0 < src ∧ src ≤ 4 * dst ∧ dst ≤ 8 * src)

/-- Whether a layout record is in range for a timing (R613). -/
def layoutOk (t : Timing) (l : List Byte) : Bool :=
  let f := layField l
  let fmt := leAt l 1 1
  !layOn l ||
  (decide (1 ≤ fmt ∧ fmt ≤ 4) && decide (f 4 + f 6 ≤ hActive t ∧ f 5 + f 7 ≤ vActive t) && scaleOk (f 2) (f 6) && scaleOk (f 3) (f 7) &&
   decide (layPitch l % 64 = 0 ∧ (f 0 + f 2) * planeBpp fmt ≤ layPitch l) &&
   (decide (fmt ≠ 4) || decide (f 0 % 2 = 0 ∧ f 2 % 2 = 0)))

/-! ### Enabling a pipe (R608 to R610) -/

/-- The link payload of a pipe, kb/s: lanes × rate, × 0.8 on eDP. -/
def linkPayload (s : State) (p : Nat) : Nat :=
  let lanes := odGet s (pKey p 2)
  let r := odGet s (pKey p 3)
  if p < 2 then lanes * (match r with | 0 => 1296000 | 1 => 2160000 | 2 => 4320000 | _ => 6480000) else lanes * r * 1000

/-- A timing record is in range and its refresh rate and blanking are allowed. -/
def timingOk (t : Timing) : Bool :=
  decide (25000 ≤ t.khz ∧ t.khz ≤ 600000) && decide (320 ≤ hActive t ∧ hActive t ≤ 3840) && decide (240 ≤ vActive t ∧ vActive t ≤ 2160) &&
  decide (t.pol < 4 ∧ t.pad = 0) && decide (80 ≤ t.h.sum - hActive t ∧ 8 ≤ t.v.sum - vActive t) &&
  decide (24 * (t.h.sum * t.v.sum) ≤ t.khz * 1000 ∧ t.khz * 10000 ≤ 605 * (t.h.sum * t.v.sum))

/-- Whether pipe `p` may be enabled (R610). -/
def pipeEnableOk (s : State) (p : Nat) : Bool :=
  timingOk (pTiming s p) && decide ((pTiming s p).khz * odGet s (pKey p 4) ≤ linkPayload s p)

/-! ### Scanout (R616, R618, R624) -/

/-- Whether row-wise scanout of `h` rows of `len` bytes at a pitch touches the granule at address `g`. -/
def rowsTouch (base pitch len h g : Nat) : Bool :=
  if pitch = 0 then decide (0 < h ∧ base < g + 64 ∧ g < base + len) else
  let row := fun (y : Nat) => decide (y < h ∧ base + y * pitch < g + 64 ∧ g < base + y * pitch + len)
  row ((g - base) / pitch) || row ((g + 63 - base) / pitch)

/-- The overlay image scanned: the hold image in SAFE_HOLD, or the set in use. -/
def overlayBase (v : Pipe) : Option Nat :=
  match v.hold with
  | some a => some a
  | none => v.inUse.map OvlSet.addr

/-- OVL_PITCH. -/
def ovlPitch (s : State) (p : Nat) : Nat := regRaw s (oReg p 0x10)

/-- Whether the pipe's scanout of this frame reads a granule: an enabled plane, or the overlay. -/
def scanTouches (s : State) (p g : Nat) : Bool :=
  let v := getPipe s p
  let t := pTiming s p
  (List.zip v.planes v.layouts).any (fun (x : Nat × List Byte) =>
    let l := x.2
    let b := planeBpp (leAt l 1 1)
    layOn l && rowsTouch (x.1 + layField l 1 * layPitch l + layField l 0 * b) (layPitch l) (layField l 2 * b) (layField l 3) g) ||
  (match overlayBase v with
   | some a => rowsTouch a (ovlPitch s p) (4 * hActive t) (vActive t) g
   | none => false)

/-- The scanout of a frame meets the granules that hold errors or poison (R616, R284). -/
def scanErrors (p : Nat) (s : State) : State :=
  let gs := (s.memCtl.dramErr.map (fun (x : Nat × Byte) => x.1 / 80) ++ s.memCtl.poison.map Prod.fst).eraseDups
  gs.foldl (fun t g => if scanTouches t p (granAddr g) then (granRead false g t).1 else t) s

/-! ### Frame starts (R611, R619, R623, R624) -/

/-- FRAMES of a pipe. -/
def pFrames (s : State) (p : Nat) : Nat := regRaw s (pReg p 8)

/-- Whether the safety overlay of a pipe is enabled. -/
def overlayOn (s : State) (p : Nat) : Bool := decide (odUse s (pKey p 6) = 1)

/-- One more stale frame of an overlay. -/
def staleFrame (p : Nat) (v : Pipe) (s : State) : State :=
  let s := odCount (pKey p 0x0B) 1 (putPipe p { v with stale := v.stale + 1 } s)
  if odGet s (pKey p 7) < v.stale + 1 then raiseAlarm 0x62 s else s

/-- Take the committed overlay set, or count the frame as stale (R619, R623). -/
def takeOverlay (p : Nat) (s : State) : State :=
  if !overlayOn s p then s else
  let v := getPipe s p
  match v.committed with
  | some c =>
    if c.frame = pFrames s p % 65536 then putPipe p { v with inUse := some c, committed := none, stale := 0 } s
    else staleFrame p v s
  | none => staleFrame p v s

/-- Take the pending plane addresses and layouts. -/
def takePlanes (p : Nat) (s : State) : State :=
  let planes := (List.range 4).map (fun k => regRaw s (pReg p (0x10 + 8 * k)))
  let layouts := (List.range 4).map (fun k => blobGet s (pKey p (0x10 + k)))
  let a := regRaw s (oReg p 8)
  let hold := if s.dev = .safeHold ∧ a ≠ 0 then some a else none
  let v := getPipe s p
  regUpd (pReg p 0x30) (fun x => putBits x 3 0 0)
    (putPipe p { v with planes := planes, layouts := layouts, hold := hold, frameAt := some s.now, underflow := false } s)

/-- The vblank knot and message (R611). -/
def frameSignals (p : Nat) (s : State) : State :=
  let k := odGet s (pKey p 8)
  let s := if k < 4096 && knotSignals s k 0x101 then knotRaise k (pFrames s p) s else s
  if odGet s (pKey p 9) = 1 then sendMsg (1312 + p) s else s

/-- DISP_FRAME_START (R611, R612, R616, R619, R623, R624). -/
def execDispFrameStart (pipe : Fin 4) (s : State) : Host.Outcome State Fault Refusal :=
  let p := pipe.val
  .next (if !isUp s || !(getPipe s p).on then s else
    scanErrors p (frameSignals p (takeOverlay p (takePlanes p (regCount64 (pReg p 8) 1 s)))))

/-! ### Region checks (R618, R621, R622) -/

/-- The output pixels of a region of the overlay, 3 bytes each; a granule that cannot be read shows black. -/
def regionBytes (s : State) (base pitch : Nat) (r : List Nat) : List Byte :=
  let x0 := r.getD 0 0
  let y0 := r.getD 1 0
  (List.range (r.getD 3 0)).flatMap (fun y => (List.range (r.getD 2 0)).flatMap (fun x =>
    let a := base + (y0 + y) * pitch + 4 * (x0 + x)
    if 0x4000000000 ≤ a && granPoisoned s ((a - 0x4000000000) / 64) then [0, 0, 0]
    else [memByte s (a + 2), memByte s (a + 1), memByte s a]))

/-- Faults of the display path: XOR of output bytes by position. -/
def flipBytes (l : List Byte) (flips : List (Nat × Byte)) : List Byte :=
  flips.foldl (fun l f => listUpd (fun b => b ^^^ f.2) l f.1) l

/-- Record the CRC of a region, and compare it with the expected value. -/
def regionCheck (p r crc want : Nat) (s : State) : State :=
  let s := regPut (oReg p (0x140 + 4 * r)) crc s
  let bad := decide (crc ≠ want)
  let s := regUpd (oReg p 0x104) (fun x => putBit x r bad) s
  if bad then raiseAlarm 0x62 (odCount (pKey p 0x0A) 1 s) else s

/-- DISP_REGION_CRC (R618, R621, R622). -/
def execDispRegionCrc (pipe : Fin 4) (region : Fin 16) (flips : List (Nat × Byte)) (s : State) : Host.Outcome State Fault Refusal :=
  let p := pipe.val
  let r := region.val
  let v := getPipe s p
  .next (if !isUp s || !v.on || !overlayOn s p || v.frameAt.isNone then s else
    match v.inUse with
    | none => s
    | some c =>
      if !bit c.mask r then s else
      let px := regionBytes s ((overlayBase v).getD c.addr) (ovlPitch s p) (c.regions.getD r [])
      regionCheck p r (crc32c (flipBytes px flips)) (c.crcs.getD r 0) s)

/-- SCANOUT_UNDERFLOW (R615): the frame counts once. -/
def execScanoutUnderflow (pipe : Fin 4) (s : State) : Host.Outcome State Fault Refusal :=
  let p := pipe.val
  let v := getPipe s p
  .next (if !isUp s || !v.on || v.frameAt.isNone || v.underflow then s
    else odCount (pKey p 0x0C) 1 (putPipe p { v with underflow := true } s))

/-! ### Registers (R614, R617, R619, R620) -/

/-- A write to PLANE_ADDR_k. -/
def planeAddrEff (p k v : Nat) (s : State) : WriteRes :=
  if v % 64 ≠ 0 ∨ 2 ^ 40 ≤ v then .done (regSetBits (pReg p 0x30) 0x100 s)
  else .done (regSetBits (pReg p 0x30) (2 ^ k) (genericWrite (pReg p (0x10 + 8 * k)) v s))

/-- The region registers of a pipe: X, Y, W, H. -/
def regionRegs (s : State) (p r : Nat) : List Nat :=
  let xy := regRaw s (oReg p (0x40 + 8 * r))
  let wh := regRaw s (oReg p (0x44 + 8 * r))
  [bits xy 15 0, bits xy 31 16, bits wh 15 0, bits wh 31 16]

/-- Whether region registers name a region within the active area. -/
def regionOk (t : Timing) (r : List Nat) : Bool :=
  decide (0 < r.getD 2 0 ∧ 0 < r.getD 3 0 ∧ r.getD 0 0 + r.getD 2 0 ≤ hActive t ∧ r.getD 1 0 + r.getD 3 0 ≤ vActive t)

/-- A write to EXP_COMMIT. -/
def expCommitEff (p v : Nat) (s : State) : WriteRes :=
  let mask := bits v 31 16
  let rs := (List.range 16).map (regionRegs s p)
  if (setBits 16 mask).all (fun r => regionOk (pTiming s p) (rs.getD r [])) then
    let c : OvlSet := { frame := bits v 15 0, mask := mask, addr := regRaw s (oReg p 0), regions := rs,
                        crcs := (List.range 16).map (fun r => regRaw s (oReg p (0xC0 + 4 * r))) }
    .done (putPipe p { getPipe s p with committed := some c } s)
  else .done (regSetBits (oReg p 0x104) 0x80000000 s)

/-- PLANE_ADDR_WRITE (R614). -/
def execPlaneAddrWrite (pipe : Fin 4) (plane : Fin 4) (acc : Access) (value : Word) (s : State) : Host.Outcome State Fault Refusal :=
  .next (regWriteWith (fun _ v _ t => planeAddrEff pipe.val plane.val v t) (atWide acc (pReg pipe.val (0x10 + 8 * plane.val)))
    value.toNat s)

/-- EXP_COMMIT (R617, R619, R620). -/
def execExpCommit (pipe : Fin 4) (acc : Access) (value : Word) (s : State) : Host.Outcome State Fault Refusal :=
  .next (regWriteWith (fun _ v _ t => expCommitEff pipe.val v t) (atReg acc (oReg pipe.val 0x100)) value.toNat s)

/-! ### Object dictionary entries (R627) -/

/-- Pipe and subindex of an entry of 0x2C40 to 0x2C43. -/
def dispOfKey (k : Nat) : Option (Nat × Nat) :=
  if odKey 0x2C40 0 ≤ k ∧ k < odKey 0x2C44 0 then some (k / 256 - 0x2C40, k % 256) else none

/-- ENTRY_BUSY of R627. -/
def dispBusy (s : State) (k : Nat) : Bool :=
  match dispOfKey k with
  | some (p, sub) => decide (2 ≤ sub ∧ sub ≤ 5 ∧ odGet s (pKey p 1) = 1)
  | none => false

/-- The range rules of R610, R613 and R627. -/
def dispRange (s : State) (k v : Nat) (blob : List Byte) : Bool :=
  match dispOfKey k with
  | none => true
  | some (p, sub) =>
    if sub = 1 then decide (v = 0) || (getPipe s p).on || pipeEnableOk s p
    else if sub = 2 then decide (v = 1 ∨ v = 2 ∨ v = 4)
    else if sub = 3 then (if p < 2 then decide (v ≤ 3) else decide (80 ≤ v ∧ v ≤ 4500))
    else if sub = 4 then decide (v = 24 ∨ (v = 30 ∧ p < 2))
    else if sub = 8 then decide (v < 4096 ∨ v = 0xFFFF)
    else if 0x10 ≤ sub then layoutOk (pTiming s p) blob
    else true

/-- A pipe starts or stops as its Enable says; a stored configuration that R610 refuses leaves it off. -/
def pipeSet (p v : Nat) (s : State) : State :=
  let on := (getPipe s p).on
  if v = 1 ∧ !on ∧ pipeEnableOk s p then putPipe p { on := true } s
  else if v = 0 ∧ on then regUpd (pReg p 0x30) (fun x => putBits x 3 0 0) (putPipe p {} s)
  else s

/-- What follows an accepted write of a pipe's Enable. -/
def dispApply (k v : Nat) (s : State) : State :=
  match dispOfKey k with
  | some (p, 1) => if blocksOn s then pipeSet p v s else s
  | _ => s

end Sys2Proof.Machine
end

