-- ==== Sys2Proof/Machine/Clusters.lean ====
section
/-! DEFINITION. Clusters, worlds, trusted services and routes (15): core release, lemsyn CSRs, world filters, SEC, mailboxes, the
trusted watchdog, fuses, route entries, knot assignments. -/

namespace Sys2Proof.Machine

/-! ### Application cores (R630, R634, R637) -/

/-- A write to APP_RELEASE: a core leaves reset in M-mode and the trusted world, and runs until the next start. -/
def appReleaseEff (v : Nat) (s : State) : WriteRes :=
  .done ((setBits 12 v).foldl (fun t c =>
    if (getApp t c).released then t else
    let a := odGet t (odKey 0x3500 2)
    emit (.release c a) (putApp c { released := true, pc := a } (regSetBits 0x10000240 (2 ^ c) t))) s)

/-- APP_RELEASE (R630). -/
def execAppRelease (acc : Access) (value : Word) (s : State) : Host.Outcome State Fault Refusal :=
  .next (regWriteWith (fun _ v _ t => appReleaseEff v t) (atReg acc 0x10000240) value.toNat s)

/-- Whether an address lies in the monitor region of a core. -/
def inMonitor (a : AppCore) (addr : Nat) : Bool := decide (a.monBase ≤ addr / 4096 ∧ addr / 4096 ≤ a.monLast)

/-- A machine-mode write of MWORLD; once the trusted world is down a write of 1 to WORLD is ignored (R653). -/
def mworldPut (s : State) (v : Nat) (a : AppCore) : AppCore :=
  { a with lock := a.lock || bit v 63, tcount := bit v 1, world := if s.sec.twDown ∧ bit v 0 then a.world else bit v 0 }

/-- MWORLD_WRITE (R634, R637, R653): a write of a lemsyn CSR, or of mtvec (0x305), by a released core. -/
def execMworldWrite (core : Fin 12) (csr : Nat) (value : Word) (machineMode : Bool) (pc : Nat) (s : State) :
    Host.Outcome State Fault Refusal :=
  let c := core.val
  let a := getApp s c
  let v := value.toNat
  .next (if !blocksOn s || !a.released then s
    else if !machineMode then emit (.coreTrap c) s
    else if csr = 0x7C0 then
      (if a.lock ∧ !inMonitor a pc then emit (.coreTrap c) s else
        let b := mworldPut s v a
        (if b.world = a.world then putApp c b s else coreEvent c 0x4C03 (putApp c b s)))
    else if csr = 0x7C1 then (if a.lock then s else putApp c { a with monBase := bits v 39 12 } s)
    else if csr = 0x7C2 then (if a.lock then s else putApp c { a with monLast := bits v 39 12 } s)
    else if csr = 0x305 then (if a.lock ∧ !inMonitor a v then s else putApp c { a with mtvec := v } s)
    else s)

/-! ### World filters (R642) -/

/-- FILTER_LOCK (R642). -/
def execFilterLock (acc : Access) (value : Word) (s : State) : Host.Outcome State Fault Refusal :=
  .next (regWriteWith (fun a v _ t => .done (genericWrite a v t)) (atReg acc 0x19000040) value.toNat s)

/-! ### Services of SEC (R646, R647, R650, R654) -/

/-- Whether the trusted world is up. -/
def trustedUp (s : State) : Bool := s.sec.twUp && !s.sec.twDown

/-- The requester checks of a SEC service: UNAVAILABLE, then ACCESS_DENIED (R654, R646). -/
def secCheck (s : State) (acc : Access) : Option Nat :=
  if !trustedUp s then some 0x0F else if !tagOf s acc.req acc.world then some 3 else none

/-- The info strings that the derivation service refuses. -/
def reservedInfo (info : List Byte) : Bool :=
  [ascii "PARAM", ascii "LEASH", ascii "WRAP", ascii "ATTEST"].any (fun p => decide (info.take p.length = p))

/-- The device-unique secret (R645). -/
def deviceSecret : List Byte := deviceBytes 2 32

/-- DERIVATION_REQUEST (R646, R654). The status of a request for more than 64 bytes is open (log entry 33). -/
def execDerivationRequest (acc : Access) (salt info : List Byte) (length : Nat) (s : State) : Host.Outcome State Fault Refusal :=
  .next (if !blocksOn s then s else
    match secCheck s acc with
    | some st => emit (.secAnswer acc.req st []) s
    | none =>
      if reservedInfo info then emit (.secAnswer acc.req 3 []) s
      else if 64 < length then emit (.secAnswer acc.req (freeValue s % 256) []) (takeFree s)
      else emit (.secAnswer acc.req 0 (hkdfExpand (hkdfExtract salt deviceSecret) info length)) s)

/-- ATTESTATION_SIGN (R647, R654). -/
def execAttestationSign (acc : Access) (digest : List Byte) (s : State) : Host.Outcome State Fault Refusal :=
  .next (if !blocksOn s then s else
    match secCheck s acc with
    | some st => emit (.secAnswer acc.req st []) s
    | none => emit (.secAnswer acc.req 0 ((List.range 96).map (Config.attestSign digest))) s)

/-- A measured-hash slot (R238). -/
def getMeas (s : State) (i : Nat) : Slot := tabGet (fun _ => {}) s.sec.slots i

/-- Whether a range meets the range of a filled slot. -/
def meetsSlot (s : State) (base size : Nat) : Bool :=
  s.sec.slots.any (fun p => p.2.filled && rangesMeet (base, size) (p.2.base, p.2.size))

/-- The first status of R650 that stops a measurement. -/
def measCheck (s : State) (acc : Access) (slot base size : Nat) : Option Nat :=
  match secCheck s acc with
  | some st => some st
  | none =>
    if (getMeas s slot).filled then some 3
    else if size = 0 then some 1
    else if base % 64 ≠ 0 ∨ size % 64 ≠ 0 then some 0x11
    else if regionOf base size ≠ some .dram ∨ 2 ^ 30 < size ∨ meetsSlot s base size then some 0x10
    else none

/-- A write to MEAS_GO. One made while a measurement runs has no effect. -/
def measGoEff (v : Nat) (acc : Access) (s : State) : WriteRes :=
  let slot := regRaw s 0x19000080
  let base := regRaw s 0x19000084
  let size := regRaw s 0x1900008C
  .done (if v % 2 = 0 ∨ s.sec.meas.isSome then s else
    match measCheck s acc slot base size with
    | some st => regPut 0x19000094 st s
    | none => { s with sec := { s.sec with meas := some (slot, base, size, s.now) } })

/-- MEAS_GO (R650). -/
def execMeasGo (acc : Access) (value : Word) (s : State) : Host.Outcome State Fault Refusal :=
  .next (regWriteWith (fun _ v c t => measGoEff v c t) (atReg acc 0x19000090) value.toNat s)

/-- MEASUREMENT_DONE (R650, R238): at 2 GB/s; a range that cannot be read gets UNCORRECTABLE (R283). -/
def execMeasurementDone (s : State) : Host.Outcome State Fault Refusal :=
  .next (match s.sec.meas with
    | none => s
    | some (slot, base, size, t) =>
      if !blocksOn s then s else
      let s := { advanceTo (t + size / 2) s with sec := { s.sec with meas := none } }
      match readRange base size s with
      | (s, none) => regPut 0x19000094 9 s
      | (s, some l) =>
        let v : Slot := { filled := true, hash := sha384 l, base := base, size := size }
        regPut 0x19000094 0 { s with sec := { s.sec with slots := tabSet (fun _ => {}) s.sec.slots slot v } })

/-! ### Mailboxes and the trusted watchdog (R651 to R654) -/

/-- A mailbox completes with a status. -/
def mboxComplete (m st : Nat) (s : State) : State :=
  sendMsg (1836 + m) { s with sec := { s.sec with
    mboxBusy := clearMask s.sec.mboxBusy (2 ^ m), mboxStat := tabSet (fun _ => 0) s.sec.mboxStat m st } }

/-- A write to MBOX_DOORBELL. -/
def mboxDoorbellEff (m v : Nat) (s : State) : WriteRes :=
  .done (if v % 2 = 0 ∨ bit s.sec.mboxBusy m then s
    else if trustedUp s then sendMsg (1820 + m) { s with sec := { s.sec with mboxBusy := s.sec.mboxBusy ||| 2 ^ m } }
    else mboxComplete m 0x0F s)

/-- A write to MBOX_RESP; without a request it has no effect. -/
def mboxRespEff (m v : Nat) (s : State) : WriteRes :=
  .done (if bit s.sec.mboxBusy m then mboxComplete m (v % 256) s else s)

/-- MBOX_DOORBELL (R651, R654). -/
def execMboxDoorbell (m : Fin 16) (acc : Access) (value : Word) (s : State) : Host.Outcome State Fault Refusal :=
  .next (regWriteWith (fun _ v _ t => mboxDoorbellEff m.val v t) (atReg acc (0x19000208 + 0x20 * m.val)) value.toNat s)

/-- MBOX_RESP (R651). -/
def execMboxResp (m : Fin 16) (acc : Access) (value : Word) (s : State) : Host.Outcome State Fault Refusal :=
  .next (regWriteWith (fun _ v _ t => mboxRespEff m.val v t) (atReg acc (0x1900020C + 0x20 * m.val)) value.toNat s)

/-- A write to TW_KICK. -/
def twKickEff (v : Nat) (acc : Access) (s : State) : WriteRes :=
  .done (if v % 2 = 1 ∧ isApp acc.req ∧ tagOf s acc.req acc.world ∧ !s.sec.twDown ∧ (!s.sec.twUp ∨ s.now < s.sec.twKick + ms 50) then
    odPut (odKey 0x3500 6) 1 { s with sec := { s.sec with twUp := true, twKick := s.now } }
  else s)

/-- TW_KICK (R652). -/
def execTwKick (acc : Access) (value : Word) (s : State) : Host.Outcome State Fault Refusal :=
  .next (regWriteWith (fun _ v c t => twKickEff v c t) (atReg acc 0x19000020) value.toNat s)

/-- TRUSTED_WDG (R652, R653). -/
def execTrustedWdg (s : State) : Host.Outcome State Fault Refusal :=
  .next (if !blocksOn s || !trustedUp s then s else
    let s := advanceTo (s.sec.twKick + ms 50) s
    let s := odPut (odKey 0x3500 6) 2 { s with sec := { s.sec with twUp := false, twDown := true } }
    let s := sendMsg 1812 (raiseAlarm 0x81 s)
    let s := (List.range 12).foldl (fun t c =>
      if (getApp t c).released && (getApp t c).world then emit (.machineInterrupt c) t else t) s
    (setBits 16 s.sec.mboxBusy).foldl (fun t m => mboxComplete m 0x0F t) s)

/-! ### Route entries (R656 to R661) -/

/-- Store a route entry; enabling it with an event PENDING sends one message (R658). -/
def routePut (safety : Bool) (a w : Nat) (s : State) : State :=
  let p := bit (regRaw s a) 62
  let s := regPut a (putBit w 62 p) s
  if p && bit w 63 then routeEvent safety a (regPut a (putBit w 62 false) s) else s

/-- A write to MSG_ROUTE_s (R659). -/
def msgRouteEff (src v : Nat) (acc : Access) (s : State) : WriteRes :=
  let w := v &&& 0x8000FF00000007FF
  let bad := bits w 10 0 = 0 || decide (11 < bits w 43 40) || decide (8 < bits w 47 44) ||
    ((trustedSource s src || bits w 47 44 = 8) && !tagOf s acc.req acc.world)
  .done (if bad then regSetBits 0x18000020 1 s else routePut false (routeAddr src) w s)

/-- A write to SAFE_ROUTE_e (R661). -/
def safeRouteEff (e v : Nat) (s : State) : WriteRes :=
  let w := v &&& 0x8FFFFF00000007FF
  let bad := bits w 10 0 = 0 || decide (7 < bits w 43 40) || !(bits w 47 44 = 0 || bits w 47 44 = 8)
  .done (if bad then regSetBits 0x18000020 1 s else routePut true (safeRouteAddr e) w s)

/-- MSG_ROUTE_WRITE (R656 to R659). -/
def execMsgRouteWrite (source : Fin 4096) (acc : Access) (value : Word) (s : State) : Host.Outcome State Fault Refusal :=
  .next (regWriteWith (fun _ v c t => msgRouteEff source.val v c t) (atWide acc (routeAddr source.val)) value.toNat s)

/-! ### Knot assignments (R662, R666) -/

/-- The knot of an assignment entry. -/
def knotOfKey (k : Nat) : Option Nat :=
  if odKey 0x3520 0 ≤ k ∧ k < odKey 0x3540 0 ∧ 1 ≤ k % 256 ∧ k % 256 ≤ 128 then some ((k / 256 - 0x3520) * 128 + k % 256 - 1) else none

/-- The codes of R662 that a signaller may have. -/
def knotCode (c : Nat) : Bool := decide (c ≤ 0x106 ∨ c = 0xFFFF)

/-- Whether an assignment value is in range. -/
def knotRange (k v : Nat) : Bool := (knotOfKey k).isNone || (knotCode (v / 65536) && (knotCode (v % 65536) || v % 65536 = 0xFFFE))

/-- Every Pack KNOT_WAIT on a knot ends with RESOURCE_REVOKED. -/
def packRevoke (k : Nat) (s : State) : State :=
  (s.pack.queues.map Prod.fst).foldl (fun t key =>
    match waitingCmd (getQ t (key / 256) (key % 256)) with
    | some (i, c) => if leAt c.desc 8 2 = k then finish (key / 256) (key % 256) i 4 t else t
    | none => t) s

/-- What follows a changed assignment. -/
def knotApply (k v : Nat) (s0 s : State) : State :=
  match knotOfKey k with
  | none => s
  | some n =>
    if odGet s0 k = v then s else
    slotsRevoke n (gfxRevoke n (packRevoke n { s with knots := tabSet (fun _ => 0) s.knots n 0 }))

/-! ### Fuses (R645, R649, R673) -/

/-- The range rules of 0x3400:05 to :07. -/
def fuseRange (s : State) (k v : Nat) : Bool :=
  if k = odKey 0x3400 5 then decide (v = 2 ∧ s.fuses.lifecycle = 1)
  else if k = odKey 0x3400 6 then decide (s.fuses.rollback < v ∧ v ≤ 255)
  else if k = odKey 0x3400 7 then decide (v < 16)
  else true

/-- A write in BRACE is UNAVAILABLE. -/
def fuseUnavailable (s : State) (k : Nat) : Bool := s.dev = .brace && decide (odKey 0x3400 5 ≤ k ∧ k ≤ odKey 0x3400 7)

/-- Program fuses: a burned fuse stays burned (R649). They take effect at the next cold start. -/
def fuseApply (k v : Nat) (s : State) : State :=
  let f := s.fuses
  if k = odKey 0x3400 5 then { s with fuses := { f with lifecycle := max f.lifecycle v } }
  else if k = odKey 0x3400 6 then { s with fuses := { f with rollback := max f.rollback v } }
  else if k = odKey 0x3400 7 then { s with fuses := { f with splitMask := f.splitMask ||| v } }
  else s

end Sys2Proof.Machine
end

