-- ==== Sys2Proof/Machine/Frames.lean ====
section
/-! DEFINITION. Frames and tables of the gateway as bytes (16): routing rules and their checks, gate control lists, stream table,
CAN identifiers, Ethernet frames, IEEE 1722 encapsulation (log entry 34), ISO 11783 identifiers. -/

namespace Sys2Proof.Machine

/-! ### Routing rules (R705, R706) -/

/-- The rule in 64 bytes of the table, as rule `i`. -/
def parseRule (i : Nat) (l : List Byte) : Rule :=
  { index := i, flags := leAt l 0 1, ingress := leAt l 1 1, action := leAt l 2 1, meter := leAt l 3 1, matchV := leAt l 4 4,
    mask := leAt l 8 4, egress := leAt l 12 4, stream := leAt l 16 8, newId := leAt l 24 4, tag := leAt l 28 2, dmac := leAt l 30 6,
    qual := leAt l 36 1, crc := leAt l 37 1, dataId := leAt l 38 2, deps := leAt l 40 2 }

/-- Rule `i` of a table. -/
def ruleAt (t : List Byte) (i : Nat) : Rule := parseRule i (slice t (64 * i) 64)

/-- SAFETY_OUT. -/
def ruleSafety (r : Rule) : Bool := bit r.flags 2

/-- An Ethernet rule. -/
def ruleEth (r : Rule) : Bool := bit r.flags 1

/-- An ingress code of CAN receive. -/
def canRxCode (c : Nat) : Bool := decide ((0x10 ≤ c ∧ c ≤ 0x1B) ∨ c = 0xFE)

/-- An ingress code of a safety TX ring. -/
def safetyTxCode (c : Nat) : Bool := decide (0x20 ≤ c ∧ c ≤ 0x2B)

/-- The reserved bits of a rule are 0. -/
def ruleReserved (r : Rule) (l : List Byte) : Bool :=
  let id := fun (v : Nat) => if ruleEth r then decide (v < 65536) else decide (bits v 30 29 = 0)
  decide (r.flags < 32) && id r.matchV && id r.mask && decide (bits r.newId 30 29 = 0) && decide (bits r.tag 12 12 = 0) &&
  decide (bits r.egress 15 10 = 0 ∧ bits r.egress 30 28 = 0) && (slice l 42 22).all (fun b => b = 0)

/-- A rule is allowed (R706). -/
def ruleOk (l : List Byte) : Bool :=
  let r := parseRule 0 l
  let eth := decide (r.ingress ≤ 9 ∨ r.ingress = 0xFF)
  let can := canRxCode r.ingress || safetyTxCode r.ingress
  ruleReserved r l && (if ruleEth r then eth else can) && decide (1 ≤ r.action ∧ r.action ≤ 4) &&
  (decide (r.action ≠ 2) || can) && (decide (r.action ≠ 3) || eth) &&
  (!ruleSafety r || decide (r.ingress = 9) || safetyTxCode r.ingress) &&
  decide (r.qual ≠ r.crc ∨ r.qual = 0xFF) && (!bit r.egress 31 || canRxCode r.ingress) &&
  (decide (bits r.egress 27 16 = 0) || can || decide (r.action = 3)) && (decide (bits r.egress 9 0 = 0) || decide (r.action ≠ 3))

/-- A rule table is allowed (R704, R706). -/
def ruleTableOk (t : List Byte) : Bool :=
  decide (t.length % 64 = 0 ∧ t.length ≤ 262144) && (List.range (t.length / 64)).all (fun i => ruleOk (slice t (64 * i) 64))

/-- A frame of `len` data bytes is too short for a rule's positions (R717). -/
def ruleShort (r : Rule) (len : Nat) : Bool :=
  ruleSafety r && (decide (r.qual ≠ 0xFF ∧ len ≤ r.qual) || decide (r.crc ≠ 0xFF ∧ len ≤ r.crc))

/-- What a rule forces, in data at an offset of the payload. -/
def ruleForce (r : Rule) (off len : Nat) : Option Force :=
  if ruleSafety r then some { qual := r.qual, crc := r.crc, dataId := r.dataId, deps := r.deps, off := off, len := len } else none

/-! ### Gate control lists (R680) and the stream table (R681) -/

/-- Base time of a gate control list. -/
def gateBase (l : List Byte) : Nat := leAt l 0 8

/-- Cycle time, ns. -/
def gateCycle (l : List Byte) : Nat := leAt l 8 4

/-- The entries: interval and gate states. -/
def gateEntries (l : List Byte) : List (Nat × Nat) :=
  (List.range (leAt l 12 2)).map (fun i => (leAt l (16 + 8 * i) 4, leAt l (20 + 8 * i) 1))

/-- A gate control list is allowed. -/
def gateListOk (l : List Byte) : Bool :=
  decide (l = []) ||
  (decide (1 ≤ leAt l 12 2 ∧ leAt l 12 2 ≤ 1024 ∧ l.length = 16 + 8 * leAt l 12 2 ∧ leAt l 14 2 = 0) &&
   decide (1000 ≤ gateCycle l ∧ gateCycle l ≤ 1000000000 ∧ ((gateEntries l).map Prod.fst).sum = gateCycle l) &&
   (List.range (leAt l 12 2)).all (fun i => decide (leAt l (16 + 8 * i) 4 % 8 = 0 ∧ leAt l (21 + 8 * i) 3 = 0)))

/-- Time from an offset of the cycle until queue `q`'s gate closes: `some 0` when it is closed, none when it never closes. -/
def gateSpan (es : List (Nat × Nat)) (q off : Nat) : Option Nat :=
  let rec go : List (Nat × Nat) → Nat → List (Nat × Nat) → List (Nat × Nat)
    | [], _, _ => []
    | e :: t, o, seen => if o < e.1 then (e.1 - o, e.2) :: t ++ seen.reverse ++ [e] else go t (o - e.1) (e :: seen)
  let r := go es off []
  if r.all (fun e => bit e.2 q) then none else some (((r.takeWhile (fun e => bit e.2 q)).map Prod.fst).sum)

/-- A stream table is allowed. -/
def streamTableOk (t : List Byte) : Bool :=
  let cb := fun (k : Nat) => ((List.range (t.length / 32)).filter (fun i => leAt t (32 * i + 20) 1 = k)).length
  decide (t.length % 32 = 0 ∧ t.length ≤ 16384 ∧ cb 1 ≤ 128 ∧ cb 2 ≤ 128)

/-! ### CAN frames (R692, R710) -/

/-- Data lengths that a frame can have. -/
def canLenOk (fdf : Bool) (n : Nat) : Bool := decide (n ≤ 8) || (fdf && [12, 16, 20, 24, 32, 48, 64].contains n)

/-- Identifier with its IDE bit, as MATCH gives it. -/
def canId (f : CanFrame) : Nat := b2n f.ide * 2 ^ 31 + (if f.ide then f.ident % 2 ^ 29 else f.ident % 2 ^ 11)

/-- The place of an identifier in arbitration: the lower one wins. -/
def canOrder (f : CanFrame) : Nat :=
  if f.ide then f.ident % 2 ^ 29 / 2 ^ 18 * 2 ^ 19 + 2 ^ 18 + f.ident % 2 ^ 18 else f.ident % 2 ^ 11 * 2 ^ 19

/-- A frame with the identifier NEW_ID. -/
def withNewId (v : Nat) (f : CanFrame) : CanFrame :=
  { f with ide := bit v 31, ident := if bit v 31 then bits v 28 0 else bits v 10 0 }

/-- The form in which a controller of a mode (1 classical, 2 FD) sends a frame; none when it cannot. -/
def canFormFor (mode : Nat) (fdOut : Bool) (f : CanFrame) : Option CanFrame :=
  if f.rtr then none
  else if mode = 1 then (if f.fdf ∧ 8 < f.data.length then none else some { f with fdf := false, brs := false, esi := false })
  else if f.fdf then some { f with esi := false }
  else some (if fdOut then { f with fdf := true, brs := true } else f)

/-- The header granule of an RX entry. -/
def canHeader (f : CanFrame) (code gtime phase : Nat) : List Byte :=
  [0, BitVec.ofNat 8 (b2n f.ide + 2 * b2n f.fdf + 4 * b2n f.brs + 8 * b2n f.esi + 16 * b2n f.rtr), BitVec.ofNat 8 f.data.length,
   BitVec.ofNat 8 code] ++ leBytes 4 (canId f % 2 ^ 31) ++ leBytes 8 gtime ++ zeros 47 ++ leBytes 1 phase

/-- The frame in a TX entry of 128 bytes, when the entry is well formed for a controller of a mode. -/
def canEntry (mode : Nat) (l : List Byte) : Option CanFrame :=
  let b := leAt l 1 1
  let n := leAt l 2 1
  let id := leAt l 4 4
  let fdf := bit b 1
  if bit b 4 || decide (64 ≤ b) || !canLenOk fdf n || decide (leAt l 3 1 ≠ 0) || decide (2 ^ 29 ≤ id) ||
    !((slice l 20 43).all (fun x => x = 0)) || decide (leAt l 63 1 ≥ 2) || (fdf && mode = 1) then none
  else some { ident := if bit b 0 then id else id % 2 ^ 11, ide := bit b 0, fdf := fdf, brs := fdf && bit b 2, esi := false, rtr := false,
              data := slice l 64 n }

/-! ### Ethernet frames -/

/-- Bytes of a frame on the wire with its FCS, without padding. -/
def ethLen (f : EthFrame) : Nat :=
  18 + (if f.tag.isSome then 4 else 0) + (if f.rtag.isSome then 6 else 0) + f.payload.length

/-- PCP of a frame: 0 when untagged (R676). -/
def ethPcp (f : EthFrame) : Nat := match f.tag with | some t => t.1 | none => 0

/-- VID of a frame. -/
def ethVid (f : EthFrame) : Nat := match f.tag with | some t => t.2 | none => 0

/-- The bytes of a frame without FCS. -/
def ethBytes (f : EthFrame) : List Byte :=
  beBytes 6 f.dst ++ beBytes 6 f.src ++
  (match f.tag with | some t => beBytes 2 0x8100 ++ beBytes 2 (t.1 * 8192 + t.2 % 4096) | none => []) ++
  (match f.rtag with | some q => beBytes 2 0xF1C1 ++ beBytes 2 0 ++ beBytes 2 q | none => []) ++ beBytes 2 f.etype ++ f.payload

/-- The frame that bytes without FCS spell. -/
def ethParse (l : List Byte) : EthFrame :=
  let a := l.drop 12
  let tag := if beAt a 0 2 = 0x8100 then some (beAt a 2 2 / 8192, beAt a 2 2 % 4096) else none
  let b := if tag.isSome then a.drop 4 else a
  let rtag := if beAt b 0 2 = 0xF1C1 then some (beAt b 4 2) else none
  let c := if rtag.isSome then b.drop 6 else b
  { dst := beAt l 0 6, src := beAt l 6 6, tag := tag, rtag := rtag, etype := beAt c 0 2, payload := c.drop 2 }

/-! ### IEEE 1722 (R711, R712; log entry 34) -/

/-- Stream ID of an AVTP frame that carries one. -/
def avtpStream (f : EthFrame) : Option Nat :=
  if f.etype = 0x22F0 ∧ 12 ≤ f.payload.length then some (beAt f.payload 4 8) else none

/-- Offset of the CAN data in the payload of an encapsulated frame. -/
def encapOffset (brief : Bool) : Nat := if brief then 20 else 28

/-- The NTSCF payload that carries one CAN frame of controller `bus`. -/
def encapPayload (brief : Bool) (stream seq bus gtime : Nat) (f : CanFrame) : List Byte :=
  let pad := (4 - f.data.length % 4) % 4
  let quads := ((if brief then 8 else 16) + f.data.length + pad) / 4
  let flags := pad * 64 + (if brief then 0 else 32) + b2n f.rtr * 16 + b2n f.ide * 8 + b2n f.brs * 4 + b2n f.fdf * 2 + b2n f.esi
  let acf := beBytes 2 ((if brief then 2 else 1) * 512 + quads) ++ [BitVec.ofNat 8 flags, BitVec.ofNat 8 bus] ++
    (if brief then [] else beBytes 8 gtime) ++ beBytes 4 (canId f % 2 ^ 29) ++ f.data ++ zeros pad
  [0x82] ++ beBytes 2 (0x8000 + acf.length) ++ leBytes 1 seq ++ beBytes 8 stream ++ acf

/-- The ACF messages of a payload, as CAN frames; none for a message that is skipped. -/
def acfMessages : Nat → List Byte → List (Option CanFrame)
  | 0, _ => []
  | n + 1, l =>
    let w := beAt l 0 2
    let len := w % 512 * 4
    if len = 0 ∨ l.length < len then [] else
    let typ := w / 512
    let fl := leAt l 2 1
    let o := if typ = 1 then 12 else 4
    let dlen := len - (o + 4) - fl / 64
    let f : CanFrame := { ident := if bit fl 3 then beAt l o 4 % 2 ^ 29 else beAt l o 4 % 2 ^ 11, ide := bit fl 3, fdf := bit fl 1, brs := bit fl 2,
                          esi := bit fl 0, rtr := false, data := slice l (o + 4) dlen }
    (if (typ = 1 ∨ typ = 2) ∧ !bit fl 4 ∧ canLenOk (bit fl 1) dlen then some f else none) :: acfMessages n (l.drop len)

/-- The messages of an NTSCF or TSCF frame, and its sequence_num; none for another frame. -/
def decapFrame (f : EthFrame) : Option (Nat × List (Option CanFrame)) :=
  let p := f.payload
  if f.etype ≠ 0x22F0 then none
  else if leAt p 0 1 = 0x82 then some (leAt p 3 1, acfMessages p.length (slice p 12 (beAt p 1 2 % 2048)))
  else if leAt p 0 1 = 0x05 then some (leAt p 2 1, acfMessages p.length (slice p 24 (beAt p 20 2)))
  else none

/-! ### ISO 11783-3 (R700; log entry 38) -/

/-- PF of an extended identifier. -/
def tpPf (f : CanFrame) : Nat := bits f.ident 23 16

/-- Destination address. -/
def tpDa (f : CanFrame) : Nat := bits f.ident 15 8

/-- Source address. -/
def tpSa (f : CanFrame) : Nat := bits f.ident 7 0

/-- A frame of the assist at priority 7. -/
def tpFrame (pf da sa : Nat) (data : List Byte) : CanFrame :=
  { ident := 7 * 2 ^ 26 + pf * 65536 + da * 256 + sa, ide := true, fdf := false, brs := false, esi := false, rtr := false, data := data }

end Sys2Proof.Machine
end

