-- ==== Sys2Proof/Machine/Gateway.lean ====
section
/-! DEFINITION. The routing engine (16): drops, meters, qualifier forcing, rings, the gateway and egress queues, routing of CAN
frames, the CAN controllers and their commands. -/

namespace Sys2Proof.Machine

/-! ### Drops and meters (R713, R719) -/

/-- Frames dropped and counted in 0x2F00:02 to :04; the first drop since the last read of 0x2F00 sends a message. -/
def netDrop (sub n : Nat) (s : State) : State :=
  if n = 0 then s else
  let s := odCount (odKey 0x2F00 sub) n s
  if s.net.dropSent then s else sendMsg 1721 { s with net := { s.net with dropSent := true } }

/-- A token bucket of rate `rate` per second and `burst` tokens takes `n` tokens: the bucket after, and whether it could. -/
def bucketTake (b : Bucket) (rate burst n now : Nat) : Bucket × Bool :=
  let used := b.used - rate * (now - b.at')
  if used + n * 1000000000 ≤ burst * 1000000000 then ({ used := used + n * 1000000000, at' := now }, true)
  else ({ used := used, at' := now }, false)

/-- Meter `m` lets a frame pass (R713). -/
def meterTake (m : Nat) (s : State) : State × Bool :=
  let v := odGet s (odKey 0x2F20 m)
  if m = 0 ∨ v = 0 then (s, true) else
  let r := bucketTake (tabGet (fun _ => {}) s.net.meters m) (v % 65536) (v / 65536) 1 s.now
  ({ s with net := { s.net with meters := tabSet (fun _ => {}) s.net.meters m r.1 } }, r.2)

/-! ### Rule lookup (R704, R707) -/

/-- The rule table in force. -/
def ruleTable (s : State) : List Byte := blobGet s (odKey 0x2F10 1)

/-- Rules in force. -/
def ruleCount (s : State) : Nat := (ruleTable s).length / 64

/-- Whether a rule is active. -/
def ruleActive (s : State) (r : Rule) : Bool :=
  bit r.flags 0 && bit (leAt (blobGet s (odKey 0x2F10 3)) (r.index / 8) 1) (r.index % 8)

/-- Whether an ingress code of a rule covers an ingress. -/
def ingressMatch (code ingress : Nat) : Bool :=
  decide (code = ingress) || (decide (code = 0xFE) && decide (0x10 ≤ ingress ∧ ingress ≤ 0x1B)) || (decide (code = 0xFF) && decide (ingress ≤ 9))

/-- The rule that handles a frame: ingress code, kind, the value compared, its 1722 stream. -/
def ruleLookup (s : State) (ingress : Nat) (eth : Bool) (x : Nat) (stream : Option Nat) : Option Rule :=
  let t := ruleTable s
  firstSome (fun i =>
    let r := ruleAt t i
    if ruleActive s r && ingressMatch r.ingress ingress && decide (ruleEth r = eth) && decide ((x ^^^ r.matchV) &&& r.mask = 0) &&
        (!eth || decide (r.stream = 0) || decide (stream = some r.stream)) then some r else none) (List.range (ruleCount s))

/-! ### Forcing the qualifier (R71, R715, R716) -/

/-- The qualifier as forced. -/
def forcedQual (s : State) (deps q : Nat) : Nat :=
  let valid := isRunning s && !bit s.lock.bootSplit 0
  (if valid then q % 2 else 0) + 2 * b2n (decide (s.dev = .brace)) + 4 * b2n s.net.unsync +
  8 * b2n (decide (overdueMask s &&& deps ≠ 0)) + 16 * b2n (bit q 4)

/-- Force qualifier and CRC in a payload; true when the qualifier changed. -/
def forceData (s : State) (f : Force) (l : List Byte) : List Byte × Bool :=
  let d := slice l f.off f.len
  let q := leAt d f.qual 1
  let v := forcedQual s f.deps q
  let d1 := if f.qual = 0xFF then d else listUpd (fun _ => BitVec.ofNat 8 v) d f.qual
  let d2 := if f.crc = 0xFF then d1 else listUpd (fun _ => crc8 (beBytes 2 f.dataId ++ d1.take f.crc ++ d1.drop (f.crc + 1))) d1 f.crc
  (l.take f.off ++ d2 ++ l.drop (f.off + f.len), decide (f.qual ≠ 0xFF ∧ v ≠ q))

/-- Force what a frame's rule says; each frame changed is counted (R717). -/
def forcePayload (f : Option Force) (l : List Byte) (s : State) : State × List Byte :=
  match f with
  | none => (s, l)
  | some f => let r := forceData s f l
              (if r.2 then odCount (odKey 0x2F00 5) 1 s else s, r.1)

/-! ### Rings (R693) -/

/-- Address of ring `r` of controller `c`: 0 RX, 1 TX, 2 safety TX, 3 TP. -/
def canRing (c r : Nat) : Nat := 0x16801010 + 0x400 * c + 0x20 * r

/-- Address of ring `r` of internal port `p`: 0 to 3 TX, 4 to 7 RX. -/
def portRing (p r : Nat) : Nat := 0x16001000 + 0x100 * p + 0x20 * r

/-- ENABLE of a ring. -/
def ringOn (s : State) (b : Nat) : Bool := bit (regRaw s (b + 8)) 16

/-- Entries of a ring. -/
def ringSize (s : State) (b : Nat) : Nat := 2 ^ bits (regRaw s (b + 8)) 3 0

/-- TAIL. -/
def ringTail (s : State) (b : Nat) : Nat := regRaw s (b + 0x0C) % 65536

/-- HEAD. -/
def ringHead (s : State) (b : Nat) : Nat := regRaw s (b + 0x10) % 65536

/-- Address of the entry of an index. -/
def ringSlot (s : State) (b stride i : Nat) : Nat := regRaw s b + i % ringSize s b * stride

/-- PHASE of an index. -/
def ringPhase (s : State) (b i : Nat) : Nat := 1 - i / ringSize s b % 2

/-- Set an error flag of a ring: 9 DB_ERR, 10 CFG_ERR. -/
def ringErr (b n : Nat) (s : State) : State := regSetBits (b + 0x14) (2 ^ n) s

/-- An RX or TP ring has room. -/
def ringRoom (s : State) (b : Nat) : Bool := ringOn s b && decide (dist16 (ringTail s b) (ringHead s b) < ringSize s b)

/-- A configuration write of a ring without pending work: BASE or CFG (R345). -/
def ringCfg (b off v : Nat) (s : State) : State :=
  if ringOn s b then
    (if off = 8 ∧ !bit v 16 then regPut (b + 8) (regRaw s (b + 8) - 65536) s else ringErr b 10 s)
  else if off = 8 ∧ bit v 16 then
    (if 4 ≤ bits v 3 0 ∧ bits v 3 0 ≤ 10 then regPut (b + 0x0C) 0 (regPut (b + 0x10) 0 (genericWrite (b + 8) v s)) else ringErr b 10 s)
  else genericWrite (b + off) v s

/-- Whether a doorbell of a TX ring is accepted (R346). -/
def ringDoorOk (s : State) (b tail : Nat) : Bool :=
  ringOn s b && decide (dist16 tail (ringHead s b) ≤ ringSize s b ∧ dist16 (ringTail s b) (ringHead s b) ≤ dist16 tail (ringHead s b))

/-- A write of an RX ring's HEAD: not back, and not past TAIL. -/
def ringHeadEff (b v : Nat) (s : State) : State :=
  let h := bits v 15 0
  if dist16 (ringTail s b) (ringHead s b) < dist16 h (ringHead s b) then ringErr b 9 s else regPut (b + 0x10) h s

/-! ### RX rings (R692, R693, R708) -/

/-- A frame that finds its RX ring full, disabled or closed to the gateway's DMA. -/
def rxDrop (c : Nat) (s : State) : State :=
  regUpd (0x16801090 + 0x400 * c) (fun v => putBits v 31 16 (satAdd (bits v 31 16) 1 0xFFFF)) s

/-- Write a received frame to its controller's RX ring. -/
def rxWrite (c : Nat) (f : CanFrame) (s : State) : State :=
  let b := canRing c 0
  let i := ringTail s b
  let a := ringSlot s b 128 i
  if !ringRoom s b || !memoryOpen s 0x32 false true a 128 then rxDrop c s else
  let s := writeRange a (canHeader f (0x10 + c) (gnow s) (ringPhase s b i)) (writeRange (a + 64) (padTo 64 f.data) s)
  sendMsg (1700 + c) (regPut (b + 0x0C) ((i + 1) % 65536) s)

/-! ### Egress (R677, R695, R710) -/

/-- Mode of a controller: 0 off, 1 classical, 2 FD; the SafetyStatus controller runs in classical mode when its mode is 0 (R186). -/
def canMode (s : State) (c : Nat) : Nat :=
  let v := odUse s (canKey c 1)
  if v = 0 ∧ c = ssCtrl s then 1 else v

/-- A routed frame joins a controller's gateway queue. -/
def gwPut (c : Nat) (o : CanOut) (s : State) : State :=
  let v := getCan s c
  if isUp s && canRunning s c && decide (v.gw.length < 64) then putCan c { v with gw := v.gw ++ [o] } s else netDrop 4 1 s

/-- A port's MAC runs: enabled, with its link up. -/
def portUp (s : State) (p : Nat) : Bool := isUp s && bit s.net.link p && decide (odGet s (odKey (0x2E01 + p) 1) = 1)

/-- Egress queue `q` of a port. -/
def egressQueue (s : State) (p q : Nat) : List EthOut := tabGet (fun _ => []) s.net.queues (p * 8 + q)

/-- Replace an egress queue. -/
def putEgress (p q : Nat) (l : List EthOut) (s : State) : State :=
  { s with net := { s.net with queues := tabSet (fun _ => []) s.net.queues (p * 8 + q) l } }

/-- Bytes in a port's egress buffer. -/
def egressUse (s : State) (p : Nat) : Nat :=
  ((List.range 8).map (fun q => ((egressQueue s p q).map (fun o => ethLen o.frame)).sum)).sum

/-- Bytes that a port's egress buffer holds: a frame of the longest length that ports accept finds an empty one not full (R674, R677, log
entry 35). -/
def egressRoom : Nat := 9216 + Config.egressBytes

/-- A frame joins the egress queue of its PCP. -/
def ethPut (p pcp : Nat) (o : EthOut) (s : State) : State :=
  if portUp s p && decide (egressUse s p + ethLen o.frame ≤ egressRoom) then
    putEgress p (pcp % 8) (egressQueue s p (pcp % 8) ++ [o]) s
  else netDrop 4 1 s

/-! ### Routing a CAN frame (R709, R711) -/

/-- One Ethernet egress of a CAN frame: encapsulated. -/
def encapPut (bus : Nat) (r : Rule) (f : CanFrame) (p : Nat) (s : State) : State :=
  let seq := tabGet (fun _ => 0) s.net.encapSeq r.index
  let brief := bit r.flags 4
  let e : EthFrame := { dst := r.dmac, src := odGet s (odKey (0x2E01 + p) 4), tag := some (r.tag / 8192, r.tag % 4096), rtag := none,
                        etype := 0x22F0, payload := encapPayload brief r.stream seq bus (gnow s) f }
  let o : EthOut := { frame := e, force := ruleForce r (encapOffset brief) f.data.length, rule := r.index, ingress := r.ingress, gtime := gnow s }
  ethPut p (r.tag / 8192) o s

/-- One CAN egress of a frame. -/
def canPut (r : Rule) (f : CanFrame) (c : Nat) (s : State) : State :=
  match canFormFor (canMode s c) (bit r.flags 3) f with
  | some g => gwPut c { frame := g, force := ruleForce r 0 g.data.length } s
  | none => netDrop 4 1 s

/-- The copies of a CAN frame of controller `c` under a rule: CAN egresses other than its own, and Ethernet egresses. One NTSCF frame
per CAN frame: the sequence number advances once. -/
def canCopies (c : Nat) (r : Rule) (f : CanFrame) (s : State) : State :=
  let cans := (setBits 12 (bits r.egress 27 16)).filter (fun x => decide (x ≠ c))
  let s := if f.rtr then (if cans = [] then s else odCount (odKey 0x2F00 6) 1 s) else cans.foldl (fun t x => canPut r f x t) s
  let ports := setBits 10 (bits r.egress 9 0)
  let s := ports.foldl (fun t p => encapPut c r f p t) s
  if ports = [] then s else
    { s with net := { s.net with encapSeq := tabUpd (fun _ => 0) s.net.encapSeq r.index (fun n => (n + 1) % 256) } }

/-- The frame that a rule's action forwards. -/
def ruleFrame (r : Rule) (f : CanFrame) : CanFrame := if r.action = 2 then withNewId r.newId f else f

/-- A received frame is routed, or goes to its RX ring; `taken`: the transport assist consumes it (R703, R707 to R709). -/
def canRoute (c : Nat) (taken : Bool) (f : CanFrame) (s : State) : State :=
  match ruleLookup s (0x10 + c) false (canId f) none with
  | none => if taken then s else rxWrite c f s
  | some r =>
    let s := odCount (odKey 0x2F00 1) 1 s
    match meterTake r.meter s with
    | (s, false) => netDrop 3 1 s
    | (s, true) =>
      if r.action = 4 then s else
      let g := ruleFrame r f
      let s := canCopies c r g s
      if bit r.egress 31 && !taken then rxWrite c g s else s

/-! ### TX rings (R691 to R693, R708, R717) -/

/-- Complete the entry at the head of a TX ring: its header granule is written back. -/
def txComplete (c ring st : Nat) (entry : List Byte) (done : Bool) (s : State) : State :=
  let b := canRing c ring
  let i := ringHead s b
  let a := ringSlot s b 128 i
  let h := [BitVec.ofNat 8 st] ++ slice entry 1 7 ++ (if done then leBytes 8 (gnow s) else slice entry 8 8) ++ slice entry 16 47 ++
    leBytes 1 (ringPhase s b i)
  let s := if memoryOpen s 0x32 false true a 64 then writeRange a (padTo 64 h) s else s
  let s := regPut (b + 0x10) ((i + 1) % 65536) s
  if bit (leAt entry 1 1) 5 then sendMsg (1700 + c) s else s

/-- The head entry of a ring as the controller holds it. -/
def ringOut (v : CanCtl) (ring : Nat) : Option CanOut := if ring = 2 then v.saf else v.gen

/-- Set or clear the head entry of a ring. -/
def putRingOut (c ring : Nat) (o : Option CanOut) (s : State) : State :=
  let v := getCan s c
  putCan c (if ring = 2 then { v with saf := o } else { v with gen := o }) s

/-- What becomes of a well-formed entry of the safety TX ring under its rule: it waits for transmission, or completes. -/
def safetyEntry (c : Nat) (f : CanFrame) (entry : List Byte) (s : State) : State :=
  match ruleLookup s (0x20 + c) false (canId f) none with
  | none => txComplete c 2 0xC0 entry false (netDrop 2 1 s)
  | some r =>
    let s := odCount (odKey 0x2F00 1) 1 s
    match meterTake r.meter s with
    | (s, false) => txComplete c 2 0x0D entry false (netDrop 3 1 s)
    | (s, true) =>
      if r.action = 4 then txComplete c 2 0 entry false s
      else if ruleShort r f.data.length then txComplete c 2 0xC0 entry false (netDrop 2 1 s)
      else
        let g := ruleFrame r f
        let s := canCopies c r g s
        if !bit r.egress (16 + c) then txComplete c 2 0 entry false s
        else match canFormFor (canMode s c) (bit r.flags 3) g with
          | some h => putRingOut c 2 (some { frame := h, force := ruleForce r 0 h.data.length, entry := entry }) s
          | none => txComplete c 2 0 entry false (netDrop 4 1 s)

/-- Read the entry at the head of a TX ring and decide it. -/
def txRead (c ring : Nat) (s : State) : State :=
  let b := canRing c ring
  let a := ringSlot s b 128 (ringHead s b)
  if !memoryOpen s 0x32 false false a 128 then txComplete c ring 3 (zeros 64) false s else
  match readRange a 128 s with
  | (s, none) => txComplete c ring 9 (zeros 64) false s
  | (s, some l) => match canEntry (canMode s c) l with
    | none => txComplete c ring 0x10 l false s
    | some f => if ring = 2 then safetyEntry c f l s else putRingOut c ring (some { frame := f, entry := l }) s

/-- Read entries until one waits for transmission or none is left. -/
def txFill (c ring : Nat) : Nat → State → State
  | 0, s => s
  | n + 1, s =>
    let b := canRing c ring
    if (ringOut (getCan s c) ring).isSome || !ringOn s b || decide (ringHead s b = ringTail s b) then s
    else txFill c ring n (txRead c ring s)

/-- Keep the head of a TX ring of a running controller filled. -/
def txSettle (c ring : Nat) (s : State) : State :=
  if isUp s && canRunning s c then txFill c ring (dist16 (ringTail s (canRing c ring)) (ringHead s (canRing c ring))) s else s

/-- Complete the pending entries of a TX ring with FLUSHED. -/
def txFlush (c ring : Nat) (s : State) : State :=
  let b := canRing c ring
  let v := getCan s c
  let s := putRingOut c ring none (if v.flight.any (fun x => x.1 = (if ring = 2 then 1 else 2)) then putCan c { v with flight := none } s else s)
  iterate (dist16 (ringTail s b) (ringHead s b)) (fun _ t =>
    let a := ringSlot t b 128 (ringHead t b)
    let e := if memoryOpen t 0x32 false false a 64 then memBytes t a 64 else zeros 64
    txComplete c ring 0x0B e false t) s

/-- A write to a register of a CAN ring. -/
def canRingEff (c ring off v : Nat) (s : State) : WriteRes :=
  let b := canRing c ring
  let tx := decide (ring = 1 ∨ ring = 2)
  if off = 0 ∨ off = 8 then
    .done (ringCfg b off v (if tx && ringOn s b && decide (off = 8) && !bit v 16 then txFlush c ring s else s))
  else if off = 0x0C then
    (if ringDoorOk s b (bits v 15 0) then .done (txSettle c ring (regPut (b + 0x0C) (bits v 15 0) s)) else .done (ringErr b 9 s))
  else if off = 0x10 then .done (ringHeadEff b v s)
  else .done (genericWrite (b + off) v s)

/-- CAN_TX_DOORBELL (R693, R694, R708). -/
def execCanTxDoorbell (c : Fin 12) (safety : Bool) (acc : Access) (tail : Nat) (s : State) : Host.Outcome State Fault Refusal :=
  let r := if safety then 2 else 1
  .next (regWriteWith (fun _ v _ t => canRingEff c.val r 0x0C v t) (atReg acc (canRing c.val r + 0x0C)) tail s)

/-! ### Transmission (R695, R715 to R717) -/

/-- The frames that a controller offers: source and frame. -/
def canOffers (v : CanCtl) : List (Nat × CanOut) :=
  (match v.saf with | some o => [(1, o)] | none => []) ++ (match v.gen with | some o => [(2, o)] | none => []) ++
  (match v.gw with | o :: _ => [(3, o)] | [] => [])

/-- The offer with the lowest identifier, the first one on a tie. -/
def canBest : List (Nat × CanOut) → Option (Nat × CanOut)
  | [] => none
  | x :: t => match canBest t with
    | some y => if canOrder y.2.frame < canOrder x.2.frame then some y else some x
    | none => some x

/-- CAN_TRANSMIT_START (R695, R715): an attempt starts, the first or one after lost arbitration or an error frame. -/
def execCanTransmitStart (c : Fin 12) (s : State) : Host.Outcome State Fault Refusal :=
  let c := c.val
  .next (if !isUp s || !canRunning s c then s
    else if ssCtrl s = c ∧ s.sdg.ssFlight.isSome then s
    else if ssCtrl s = c ∧ s.sdg.ssBound.isSome then ssStart (putCan c { getCan s c with flight := none } s)
    else match canBest (canOffers (getCan s c)) with
      | none => s
      | some (src, o) =>
        match forcePayload o.force o.frame.data s with
        | (s, d) =>
          let f := { o.frame with data := d }
          emit (.canStart c f) (putCan c { getCan s c with flight := some (src, f) } s))

/-- CAN_TX_DONE (R692). -/
def execCanTxDone (c : Fin 12) (s : State) : Host.Outcome State Fault Refusal :=
  let c := c.val
  let v := getCan s c
  .next (if !isUp s || !canRunning s c then s else
    match v.flight with
    | none => s
    | some (src, _) =>
      let s := putCan c { v with flight := none, tec := v.tec - 1, gw := if src = 3 then v.gw.drop 1 else v.gw } s
      let s := if src = 3 then s else
        let ring := if src = 1 then 2 else 1
        match ringOut v ring with
        | some o => txSettle c ring (txComplete c ring 0 o.entry true (putRingOut c ring none s))
        | none => s
      if ssCtrl s = c ∧ s.sdg.ssBound.isSome ∧ s.sdg.ssFlight.isNone then ssStart s else s)

/-! ### Bus-off (R697 to R699) -/

/-- A controller's state, in 0x2F01 + c:09 too. -/
def setCanState (c st : Nat) (s : State) : State := odPut (canKey c 9) st (putCan c { getCan s c with state := st } s)

/-- BUS_OFF (R697, R698). -/
def execBusOff (c : Fin 12) (s : State) : Host.Outcome State Fault Refusal :=
  let c := c.val
  .next (if !isUp s || !canRunning s c then s else
    let v := getCan s c
    let s := netDrop 4 v.gw.length (putCan c { v with gw := [], flight := none, tec := 256 } s)
    let s := odCount (canKey c 0x0A) 1 (setCanState c (if odGet s (canKey c 7) = 1 then 4 else 3) s)
    let s := if ssCtrl s = c ∧ s.sdg.ssFlight.isSome then
        ssAgain (s.now + ms 2) s
      else s
    raiseAlarm (if ssCtrl s = c then 0xA1 else 0x96) (sendMsg (1700 + c) s))

/-- BUS_OFF_RECOVERED (R698). -/
def execBusOffRecovered (c : Fin 12) (s : State) : Host.Outcome State Fault Refusal :=
  let c := c.val
  .next (if !isUp s || decide ((getCan s c).state ≠ 4) then s else
    let s := setCanState c 1 (putCan c { getCan s c with tec := 0, rec' := 0 } s)
    let s := txSettle c 1 (txSettle c 2 s)
    if ssCtrl s = c ∧ s.sdg.ssBound.isSome then ssStart s else s)

/-- Start the recovery of a controller that is bus-off. -/
def canRecoverNow (c : Nat) (s : State) : State := if (getCan s c).state = 3 then setCanState c 4 s else s

/-! ### Transport assist (R700 to R703; ISO 11783-3, log entry 38) -/

/-- Whether software has claimed an address. -/
def tpClaimed (s : State) (c a : Nat) : Bool := bit (regRaw s (0x168010A0 + 0x400 * c + 4 * (a / 32))) (a % 32)

/-- The session of a sender and destination, by kind. -/
def tpFind (s : State) (c sa da : Nat) (kinds : List Nat) : Option (Nat × TpSession) :=
  firstSome (fun i => match tabGet (fun _ => none) (getCan s c).sessions i with
    | some x => if x.sa = sa ∧ x.da = da ∧ kinds.contains x.kind then some (i, x) else none
    | none => none) (List.range 8)

/-- Replace a session. -/
def putTp (c i : Nat) (x : Option TpSession) (s : State) : State :=
  let v := getCan s c
  putCan c { v with sessions := tabSet (fun _ => none) v.sessions i x } s

/-- Whether the assist consumes a frame (R700). -/
def tpTakes (s : State) (c : Nat) (f : CanFrame) : Bool :=
  let k := leAt f.data 0 1
  let da := tpDa f
  let sa := tpSa f
  decide (odUse s (canKey c 0x0B) = 1) && f.ide && !f.rtr && decide (bits f.ident 25 24 = 0) && decide (f.data.length = 8) &&
  (match tpPf f with
   | 0xEC => (decide (k = 16 ∧ da ≠ 0xFF) && tpClaimed s c da) || (decide (k = 32 ∧ da = 0xFF) && tpClaimed s c 0xFF) ||
             (decide (k = 255) && (tpFind s c sa da [0]).isSome)
   | 0xC8 => (decide (k = 20 ∧ da ≠ 0xFF) && tpClaimed s c da) || (decide (k = 22 ∨ k = 255) && (tpFind s c sa da [2]).isSome)
   | 0xEB => (tpFind s c sa da [0, 1]).isSome
   | 0xC7 => (tpFind s c sa da [2]).isSome
   | _ => false)

/-- PF of the assist's answers to a kind. -/
def tpCm (kind : Nat) : Nat := if kind = 2 then 0xC8 else 0xEC

/-- Send a frame of the assist. -/
def tpSend (c : Nat) (f : CanFrame) (s : State) : State := gwPut c { frame := f } s

/-- Connection Abort with a reason: 2 lack of resources, 3 timeout, 7 bad sequence number. -/
def tpAbort (c kind sa da pgn reason : Nat) (s : State) : State :=
  tpSend c (tpFrame (tpCm kind) sa da ([0xFF, BitVec.ofNat 8 reason, 0xFF, 0xFF, 0xFF] ++ leBytes 3 pgn)) s

/-- Packets of a message. -/
def tpPackets (size : Nat) : Nat := (size + 6) / 7

/-- Send the CTS for the next window of session `i`. -/
def tpCts (c i : Nat) (x : TpSession) (s : State) : State :=
  let left := tpPackets x.size + 1 - x.next
  let n := min left (min (odGet s (canKey c 0x0C)) x.most)
  let x := { x with upTo := x.next + n - 1, until' := s.now + ms 1250 }
  let d := if x.kind = 2 then [0x15, BitVec.ofNat 8 n] ++ leBytes 3 x.next ++ leBytes 3 x.pgn
    else [0x11, BitVec.ofNat 8 n, BitVec.ofNat 8 x.next, 0xFF, 0xFF] ++ leBytes 3 x.pgn
  tpSend c (tpFrame (tpCm x.kind) x.sa x.da d) (putTp c i (some x) s)

/-- Write a record to the TP ring, with its message; without room it is dropped. -/
def tpRecord (c st : Nat) (x : TpSession) (s : State) : State :=
  let b := canRing c 3
  let i := ringTail s b
  let a := ringSlot s b 128 i
  if !ringRoom s b || !memoryOpen s 0x32 false true a 64 then rxDrop c s else
  let r := [BitVec.ofNat 8 st, BitVec.ofNat 8 x.kind, BitVec.ofNat 8 x.sa, BitVec.ofNat 8 x.da] ++ leBytes 4 x.pgn ++ leBytes 4 x.size ++
    leBytes 2 (if st = 0 then x.slot else 0xFFFF) ++ zeros 2 ++ leBytes 8 x.gtime ++ zeros 39 ++ leBytes 1 (ringPhase s b i)
  sendMsg (1700 + c) (regPut (b + 0x0C) ((i + 1) % 65536) (writeRange a r s))

/-- Free a slot of the TP area. -/
def tpFree (c k : Nat) (s : State) : State := putCan c { getCan s c with tpBusy := clearMask (getCan s c).tpBusy (2 ^ k) } s

/-- End session `i` with a record of TP_ABORTED; its slot is free again. -/
def tpEnd (c i : Nat) (x : TpSession) (s : State) : State := tpRecord c 0xC1 x (tpFree c x.slot (putTp c i none s))

/-- The lowest free slot of the TP area. -/
def tpFreeSlot (s : State) (c : Nat) : Option Nat :=
  (List.range (min 16 (regRaw s (0x168010C8 + 0x400 * c)))).find? (fun k => !bit (getCan s c).tpBusy k)

/-- Open a session for an RTS or a BAM, or refuse it for lack of resources (R700, R701). -/
def tpOpen (c kind size pgn most : Nat) (f : CanFrame) (s : State) : State :=
  let sa := tpSa f
  let da := tpDa f
  let s := match tpFind s c sa da [kind] with
    | some (i, x) => tpFree c x.slot (putTp c i none s)
    | none => s
  let free := (List.range 8).find? (fun i => (tabGet (fun _ => none) (getCan s c).sessions i).isNone)
  match free, tpFreeSlot s c with
  | some i, some k =>
    if 65536 < size then (if kind = 1 then s else tpAbort c kind sa da pgn 2 s) else
    let x : TpSession := { kind := kind, sa := sa, da := da, pgn := pgn, size := size, slot := k, most := most, until' := s.now + ms 750 }
    let s := putTp c i (some x) (putCan c { getCan s c with tpBusy := (getCan s c).tpBusy ||| 2 ^ k } s)
    if kind = 1 then s else tpCts c i x s
  | _, _ => if kind = 1 then s else tpAbort c kind sa da pgn 2 s

/-- A completed message: its slot, EndOfMsgAck, its record (R702). -/
def tpComplete (c i : Nat) (x : TpSession) (s : State) : State :=
  let d := x.data.take x.size
  let a := regRaw s (0x168010C0 + 0x400 * c) + x.slot * 65536
  let s := if memoryOpen s 0x32 false true a (up64 x.size) then writeRange a (padTo (up64 x.size) d) s else s
  let s := putTp c i none s
  let ack := if x.kind = 2 then [0x17] ++ leBytes 4 x.size ++ leBytes 3 x.pgn
    else [0x13] ++ leBytes 2 x.size ++ leBytes 1 (tpPackets x.size) ++ [0xFF] ++ leBytes 3 x.pgn
  tpRecord c 0 x (if x.kind = 1 then s else tpSend c (tpFrame (tpCm x.kind) x.sa x.da ack) s)

/-- A data packet of session `i`. -/
def tpData (c i : Nat) (x : TpSession) (f : CanFrame) (s : State) : State :=
  if x.offset + leAt f.data 0 1 ≠ x.next then
    tpEnd c i x (if x.kind = 1 then s else tpAbort c x.kind x.sa x.da x.pgn 7 s)
  else
    let x := { x with data := x.data ++ f.data.drop 1, next := x.next + 1, gtime := gnow s, until' := s.now + ms 750 }
    if tpPackets x.size < x.next then tpComplete c i x s
    else if x.kind ≠ 1 ∧ x.upTo < x.next then tpCts c i x s
    else putTp c i (some x) s

/-- The assist handles a frame that it consumes. -/
def tpHandle (c : Nat) (f : CanFrame) (s : State) : State :=
  let k := leAt f.data 0 1
  let sa := tpSa f
  let da := tpDa f
  let pgn := leAt f.data 5 3
  match tpPf f with
  | 0xEC =>
    if k = 16 then tpOpen c 0 (leAt f.data 1 2) pgn (leAt f.data 4 1) f s
    else if k = 32 then tpOpen c 1 (leAt f.data 1 2) pgn 0 f s
    else (match tpFind s c sa da [0] with | some (i, x) => tpEnd c i x s | none => s)
  | 0xC8 =>
    if k = 20 then tpOpen c 2 (leAt f.data 1 4) pgn 255 f s
    else (match tpFind s c sa da [2] with
      | some (i, x) => if k = 22 then putTp c i (some { x with offset := leAt f.data 2 3, until' := s.now + ms 750 }) s else tpEnd c i x s
      | none => s)
  | pf => match tpFind s c sa da (if pf = 0xC7 then [2] else [0, 1]) with
    | some (i, x) => tpData c i x f s
    | none => s

/-! ### Reception (R690, R696, R703, R708) -/

/-- A frame received on a controller. -/
def canReceive (c : Nat) (f : CanFrame) (s : State) : State :=
  if !isUp s || !canRunning s c || (f.fdf && decide (canMode s c = 1)) then s else
  let s := putCan c { getCan s c with rec' := (getCan s c).rec' - 1 } s
  let t := tpTakes s c f
  let s := canRoute c t f s
  if t then tpHandle c f s else s

/-- CAN_FRAME_RX (R690, R708, R709). -/
def execCanFrameRx (c : Fin 12) (frame : CanFrame) (s : State) : Host.Outcome State Fault Refusal := .next (canReceive c.val frame s)

/-- TP_CM_RTS (R700, R701). -/
def execTpCmRts (c : Fin 12) (frame : CanFrame) (s : State) : Host.Outcome State Fault Refusal := .next (canReceive c.val frame s)

/-- TP_CM_BAM (R700). -/
def execTpCmBam (c : Fin 12) (frame : CanFrame) (s : State) : Host.Outcome State Fault Refusal := .next (canReceive c.val frame s)

/-- TP_DT (R702). -/
def execTpDt (c : Fin 12) (frame : CanFrame) (s : State) : Host.Outcome State Fault Refusal := .next (canReceive c.val frame s)

/-- TP_TIMEOUT (R700, R702): a timeout of ISO 11783-3 aborts a session. -/
def execTpTimeout (c : Fin 12) (session : Fin 8) (s : State) : Host.Outcome State Fault Refusal :=
  let c := c.val
  .next (if !isUp s then s else
    match tabGet (fun _ => none) (getCan s c).sessions session.val with
    | none => s
    | some x =>
      let s := advanceTo x.until' s
      tpEnd c session.val x (if x.kind = 1 then s else tpAbort c x.kind x.sa x.da x.pgn 3 s))

/-- A write to TP_RELEASE. -/
def tpReleaseEff (c v : Nat) (s : State) : WriteRes := .done (if bits v 15 0 < 16 then tpFree c (bits v 15 0) s else s)

/-- TP_RELEASE (R702). -/
def execTpRelease (c : Fin 12) (acc : Access) (value : Word) (s : State) : Host.Outcome State Fault Refusal :=
  .next (regWriteWith (fun _ v _ t => tpReleaseEff c.val v t) (atReg acc (0x168010CC + 0x400 * c.val)) value.toNat s)

end Sys2Proof.Machine
end

