-- ==== Sys2Proof/Machine/Switch.lean ====
section
/-! DEFINITION. The switch (16): stream filters, sequence recovery, Ethernet routing, gates and egress, internal port rings, gPTP. -/

namespace Sys2Proof.Machine

/-! ### Stream filtering, metering and sequence recovery (R676, R679, R681) -/

/-- The stream table. -/
def streamTable (s : State) : List Byte := blobGet s (odKey 0x2E00 0x0A)

/-- Field of entry `i` of the stream table. -/
def streamField (s : State) (i off len : Nat) : Nat := leAt (streamTable s) (32 * i + off) len

/-- The stream of a frame that arrives on a port: null stream identification. -/
def streamOf (s : State) (p : Nat) (f : EthFrame) : Option Nat :=
  (List.range ((streamTable s).length / 32)).find? (fun i =>
    bit (streamField s i 6 2) 15 && decide (bits (streamField s i 6 2) 11 0 = ethVid f) && decide (streamField s i 0 6 = f.dst) &&
    bit (streamField s i 8 2) p)

/-- A Qci drop of a stream. -/
def streamDrop (i : Nat) (s : State) : State := regCount (0x16002000 + 4 * i) 1 s

/-- The vector recovery algorithm: the function after a sequence number, and whether the frame passes. A number is judged by its
distance from the latest one, within half the number space. -/
def recoverSeq (c : CbRec) (hist seq now : Nat) : CbRec × Bool :=
  let ahead := (seq + 65536 - c.seq) % 65536
  let behind := (c.seq + 65536 - seq) % 65536
  if c.takeAny then ({ takeAny := false, seq := seq, hist := 1, last := now }, true)
  else if ahead ≠ 0 ∧ ahead < 32768 then
    (if hist ≤ ahead then (c, false) else ({ c with seq := seq, hist := (c.hist * 2 ^ ahead + 1) % 2 ^ hist, last := now }, true))
  else if hist ≤ behind ∨ bit c.hist behind then (c, false)
  else ({ c with hist := c.hist ||| 2 ^ behind, last := now }, true)

/-- Recovery or generation for a frame of stream `i`. A frame without an R-TAG does not pass a recovery function. -/
def streamCb (i : Nat) (f : EthFrame) (s : State) : State × Option EthFrame :=
  match streamField s i 20 1 with
  | 1 => match f.rtag with
    | none => (s, none)
    | some q =>
      let r := recoverSeq (tabGet (fun _ => {}) s.net.cbRec i) (streamField s i 21 1) q s.now
      ({ s with net := { s.net with cbRec := tabSet (fun _ => {}) s.net.cbRec i r.1 } }, if r.2 then some f else none)
  | 2 =>
    let q := tabGet (fun _ => 0) s.net.cbGen i
    ({ s with net := { s.net with cbGen := tabSet (fun _ => 0) s.net.cbGen i ((q + 1) % 65536) } }, some { f with rtag := some q })
  | _ => (s, some f)

/-- Stages 1 to 3 of R676: none when the frame is dropped. -/
def ethFilter (p : Nat) (f : EthFrame) (s : State) : State × Option EthFrame :=
  match streamOf s p f with
  | none => (s, some f)
  | some i =>
    let sdu := streamField s i 10 2
    let rate := streamField s i 12 4
    if sdu ≠ 0 ∧ sdu < f.payload.length then (streamDrop i s, none)
    else if rate = 0 then streamCb i f s
    else
      let r := bucketTake (tabGet (fun _ => {}) s.net.flows i) rate (streamField s i 16 4) (ethLen f) s.now
      let s := { s with net := { s.net with flows := tabSet (fun _ => {}) s.net.flows i r.1 } }
      if r.2 then streamCb i f s else (streamDrop i s, none)

/-- CB_RECOVERY_RESET (R681). -/
def execCbRecoveryReset (entry : Fin 512) (s : State) : Host.Outcome State Fault Refusal :=
  let i := entry.val
  let c := tabGet (fun _ => ({} : CbRec)) s.net.cbRec i
  .next (if !isUp s || c.takeAny || decide (streamField s i 20 1 ≠ 1) then s else
    let s := advanceTo (c.last + ms (streamField s i 22 2)) s
    { s with net := { s.net with cbRec := tabSet (fun _ => {}) s.net.cbRec i {} } })

/-! ### Ethernet routing (R675, R707, R709, R712, R717) -/

/-- Count a gap of sequence_num at each CAN egress of a DECAP rule. -/
def decapGap (r : Rule) (seq : Nat) (s : State) : State :=
  let gap := match tabGet (fun _ => none) s.net.decapSeq r.index with
    | some l => decide (seq ≠ (l + 1) % 256)
    | none => false
  let s := { s with net := { s.net with decapSeq := tabSet (fun _ => none) s.net.decapSeq r.index (some seq) } }
  if gap then (setBits 12 (bits r.egress 27 16)).foldl (fun t c =>
    regUpd (0x16801090 + 0x400 * c) (fun v => putBits v 15 0 (satAdd (bits v 15 0) 1 0xFFFF)) t) s else s

/-- One decapsulated message goes to each CAN egress. -/
def decapMessage (r : Rule) (m : Option CanFrame) (s : State) : State :=
  match m with
  | none => odCount (odKey 0x2F00 6) 1 s
  | some f =>
    if ruleShort r f.data.length then netDrop 2 1 s
    else (setBits 12 (bits r.egress 27 16)).foldl (fun t c => canPut r f c t) s

/-- DECAP (R712). -/
def decap (r : Rule) (f : EthFrame) (s : State) : State :=
  match decapFrame f with
  | none => s
  | some (seq, ms) => ms.foldl (fun t m => decapMessage r m t) (decapGap r seq s)

/-- Stages 5 and 6 of R676: the state, and the status that a TX descriptor completes with. -/
def ethRoute (p pcp : Nat) (f : EthFrame) (s : State) : State × Nat :=
  match ruleLookup s p true f.etype (avtpStream f) with
  | none => (netDrop 2 1 s, 0xC0)
  | some r =>
    let s := odCount (odKey 0x2F00 1) 1 s
    match meterTake r.meter s with
    | (s, false) => (netDrop 3 1 s, 0x0D)
    | (s, true) =>
      if r.action = 4 then (s, 0)
      else if r.action = 3 then (decap r f s, 0)
      else if ruleShort r f.payload.length then (netDrop 2 1 s, 0xC0)
      else
        let o : EthOut := { frame := f, force := ruleForce r 0 f.payload.length, rule := r.index, ingress := p, gtime := gnow s }
        (((setBits 10 (bits r.egress 9 0)).filter (fun q => decide (q ≠ p))).foldl (fun t q => ethPut q pcp o t) s, 0)

/-- A frame over 9,216 bytes is discarded and counted in OVERSIZE (R674). -/
def oversize (p : Nat) (s : State) : State := regUpd (0x16000020 + 4 * p) (fun v => satAdd v 1 0xFFFF) s

/-! ### Gates and egress (R677, R680) -/

/-- The gate control list of a port at the present GTIME; a waiting list whose time has come is in force. -/
def gateNow (s : State) (p : Nat) : List Byte :=
  match tabGet (fun _ => none) s.net.change p with
  | some g => if g.time ≤ s.gtime then g.list else tabGet (fun _ => []) s.net.gates p
  | none => tabGet (fun _ => []) s.net.gates p

/-- Time until queue `q`'s gate closes; none for never. -/
def gateOpen (s : State) (p q : Nat) : Option Nat :=
  let l := gateNow s p
  if l = [] then none
  else gateSpan (gateEntries l) q ((s.gtime + gateCycle l - gateBase l % gateCycle l) % gateCycle l)

/-- Rate of a port, Mb/s (R674). -/
def portRate (s : State) (p : Nat) : Nat := if p < 2 then odUse s (odKey (0x2E01 + p) 2) else if p < 8 then 1000 else 10000

/-- Time that a frame takes on its port with preamble, ns. -/
def frameTime (s : State) (p : Nat) (f : EthFrame) : Nat := (max 64 (ethLen f) + 8) * 8000 / max 1 (portRate s p)

/-- The queue that transmits: the highest one with a frame whose gate stays open long enough. -/
def egressPick (s : State) (p : Nat) : Option (Nat × EthOut) :=
  firstSome (fun q => match egressQueue s p q with
    | o :: _ => (match gateOpen s p q with
      | none => some (q, o)
      | some t => if frameTime s p o.frame ≤ t then some (q, o) else none)
    | [] => none) [7, 6, 5, 4, 3, 2, 1, 0]

/-- Message source of ring pair `r` of internal port `p` (R719). -/
def portSource (p r : Nat) : Nat := 1712 + 4 * (p - 8) + r

/-- Deliver a frame to an internal port's RX ring (R718). -/
def portDeliver (p pcp : Nat) (o : EthOut) (s : State) : State :=
  let r := pcp / 2 % 4
  let b := portRing p (4 + r)
  let i := ringTail s b
  let a := ringSlot s b 64 i
  let l := ethBytes o.frame
  let n := up64 l.length
  if !ringRoom s b || decide (regRaw s (b + 0x18) < l.length) || !memoryOpen s 0x30 false false a 64 || !memoryOpen s 0x30 false true a 64 then
    netDrop 4 1 s
  else match readRange a 64 s with
    | (s, none) => netDrop 4 1 s
    | (s, some d) =>
      let buf := leAt d 8 8
      if buf % 64 ≠ 0 || !memoryOpen s 0x30 false true buf n then netDrop 4 1 s else
      let h := [0, 0] ++ leBytes 1 o.ingress ++ [0] ++ leBytes 2 l.length ++ zeros 2 ++ leBytes 8 buf ++ leBytes 8 o.gtime ++ slice d 24 4 ++
        leBytes 2 o.rule ++ zeros 33 ++ leBytes 1 (ringPhase s b i)
      let s := writeRange a h (writeRange buf (padTo n l) s)
      sendMsg (portSource p r) (regPut (b + 0x0C) ((i + 1) % 65536) s)

/-! ### Internal port TX rings (R718) -/

/-- Complete the descriptor at the head of an internal TX ring. -/
def portComplete (p r st : Nat) (d : List Byte) (s : State) : State :=
  let b := portRing p r
  let i := ringHead s b
  let a := ringSlot s b 64 i
  let h := [BitVec.ofNat 8 st] ++ slice d 1 15 ++ (if bit (leAt d 1 1) 1 then leBytes 8 (gnow s) else slice d 16 8) ++ slice d 24 39 ++
    leBytes 1 (ringPhase s b i)
  let s := if memoryOpen s 0x30 false true a 64 then writeRange a (padTo 64 h) s else s
  let s := regPut (b + 0x10) ((i + 1) % 65536) s
  if bit (leAt d 1 1) 0 ∨ st ≠ 0 then sendMsg (portSource p r) s else s

/-- A TX descriptor's fixed fields are as R718 gives them. -/
def portDescOk (d : List Byte) : Bool :=
  decide (leAt d 1 1 < 4 ∧ leAt d 2 1 < 8 ∧ leAt d 3 1 = 0 ∧ leAt d 6 2 = 0 ∧ leAt d 63 1 < 2) && (slice d 28 35).all (fun b => b = 0)

/-- A frame from an internal port passes the ingress stages; the status of a frame that a stream filter drops is open (log entry 39). -/
def portFrame (p pcp : Nat) (l : List Byte) (s : State) : State × Nat :=
  if 9216 < l.length + 4 then (oversize p s, 0x10)
  else if l.length < 14 then (s, 0x10)
  else match ethFilter p (ethParse l) s with
    | (s, none) => (takeFree s, freeValue s % 256)
    | (s, some f) => ethRoute p pcp f s

/-- Read the descriptor at the head of an internal TX ring and send its frame. -/
def portSend (p r : Nat) (s : State) : State :=
  let b := portRing p r
  let a := ringSlot s b 64 (ringHead s b)
  if !memoryOpen s 0x30 false false a 64 then portComplete p r 3 (zeros 64) s else
  match readRange a 64 s with
  | (s, none) => portComplete p r 9 (zeros 64) s
  | (s, some d) =>
    let n := leAt d 4 2
    let buf := leAt d 8 8
    if !portDescOk d then portComplete p r 0x10 d s
    else if n = 0 then portComplete p r 1 d s
    else if !memoryOpen s 0x30 false false buf n then portComplete p r 3 d s
    else match readRange buf n s with
      | (s, none) => portComplete p r 9 d s
      | (s, some l) => match portFrame p (leAt d 2 1) l s with
        | (s, st) => portComplete p r st d s

/-- Send the pending frames of an internal TX ring. -/
def portDrain (p r : Nat) : Nat → State → State
  | 0, s => s
  | n + 1, s => if portUp s p && decide (ringHead s (portRing p r) ≠ ringTail s (portRing p r)) then portDrain p r n (portSend p r s) else s

/-- Complete the pending entries of an internal TX ring with FLUSHED. -/
def portFlush (p r : Nat) (s : State) : State :=
  let b := portRing p r
  iterate (dist16 (ringTail s b) (ringHead s b)) (fun _ t =>
    let a := ringSlot t b 64 (ringHead t b)
    portComplete p r 0x0B (if memoryOpen t 0x30 false false a 64 then memBytes t a 64 else zeros 64) t) s

/-- A write to a register of ring `r` of internal port `p`; the TX rings of port 9 take writes from safety-cluster requesters
only (R694). -/
def portRingEff (p r off v : Nat) (acc : Access) (s : State) : WriteRes :=
  let b := portRing p r
  if p = 9 ∧ r < 4 ∧ !isSafety acc.req then .denied 3 s
  else if off = 0 ∨ off = 8 then
    .done (ringCfg b off v (if r < 4 && ringOn s b && decide (off = 8) && !bit v 16 then portFlush p r s else s))
  else if off = 0x0C then
    (if ringDoorOk s b (bits v 15 0) then
      let s := regPut (b + 0x0C) (bits v 15 0) s
      .done (portDrain p r (dist16 (ringTail s b) (ringHead s b)) s)
    else .done (ringErr b 9 s))
  else if off = 0x10 then .done (ringHeadEff b v s)
  else .done (genericWrite (b + off) v s)

/-- INTERNAL_TX_DOORBELL (R718): port 0 of the command is port 8, port 1 is port 9. -/
def execInternalTxDoorbell (port : Fin 2) (ring : Fin 4) (acc : Access) (tail : Nat) (s : State) : Host.Outcome State Fault Refusal :=
  let p := 8 + port.val
  .next (regWriteWith (fun _ v c t => portRingEff p ring.val 0x0C v c t) (atReg acc (portRing p ring.val + 0x0C)) tail s)

/-! ### gPTP (R682 to R687, R840) -/

/-- Enter a gPTP state; each change sends a message (R683). -/
def setPtp (st : Nat) (s : State) : State :=
  if s.net.ptp = st then s else
  sendMsg 1720 (odPut (odKey 0x2E00 6) st { s with net := { s.net with ptp := st, locked := s.net.locked || decide (st = 2) } })

/-- Step GTIME (R684). -/
def gtimeStep (d : Int) (s : State) : State :=
  odCount (odKey 0x2E00 8) 1 { s with gtime := ((s.gtime : Int) + d).toNat % 2 ^ 64 }

/-- A step is due: it waits while a capture is pending (R840). -/
def gtimeStepDue (d : Int) (s : State) : State :=
  if s.frz.pending.isSome then { s with net := { s.net with stepDue := some (s.net.stepDue.getD 0 + d) } } else gtimeStep d s

/-- The sync interval, ns. -/
def syncInterval (s : State) : Nat :=
  let v := odUse s (odKey 0x2E00 4)
  if v = 0 then 1000000000 else 1000000000 / 2 ^ (256 - v)

/-- gPTP mode. -/
def ptpMode (s : State) : Nat := odUse s (odKey 0x2E00 1)

/-- GPTP_SYNC (R684, R686): the rate correction while slewing is open within ±200 ppm (log entry 36). -/
def execGptpSync (port : Fin 10) (offsetNs : Int) (s : State) : Host.Outcome State Fault Refusal :=
  .next (if !isUp s || ptpMode s ≠ 2 || decide (odUse s (odKey 0x2E00 3) ≠ port.val) || !portUp s port.val then s else
    let first := s.net.first
    let small := decide (offsetNs.natAbs ≤ 1000)
    let s := { s with net := { s.net with lastSync := s.now, offset := offsetNs, first := false, unsync := false } }
    let s := setPtp (if small then 2 else if s.net.ptp = 2 then 2 else 1) s
    if first ∨ us (odGet s (odKey 0x2E00 5)) < offsetNs.natAbs then gtimeStepDue offsetNs s
    else takeFree { s with net := { s.net with rate := ((freeValue s % 401 : Nat) : Int) - 200 } })

/-- Enter HOLDOVER (R685). Until LOCKED has been reached once the state stays ACQUIRING (R683). -/
def enterHoldover (s : State) : State :=
  if ptpMode s ≠ 2 || !s.net.locked || s.net.ptp = 3 then s else
  raiseAlarm 0x90 (odCount (odKey 0x2E00 7) 1 (setPtp 3 { s with net := { s.net with holdAt := s.now, first := true } }))

/-- SYNC_LOSS (R685). -/
def execSyncLoss (s : State) : Host.Outcome State Fault Refusal :=
  .next (if !isUp s || ptpMode s ≠ 2 || s.net.ptp = 3 || !s.net.locked then s
    else enterHoldover (advanceTo (s.net.lastSync + 3 * syncInterval s) s))

/-- HOLDOVER_100MS (R686). -/
def execHoldover100ms (s : State) : Host.Outcome State Fault Refusal :=
  .next (if !isUp s || s.net.ptp ≠ 3 then s else
    let s := advanceTo (s.net.holdAt + ms 100) s
    { s with net := { s.net with unsync := true } })

/-- GRANDMASTER_SYNC (R679): one sync interval after the previous Sync, on each gPTP port that runs. -/
def execGrandmasterSync (s : State) : Host.Outcome State Fault Refusal :=
  .next (if !isUp s || ptpMode s ≠ 1 then s else
    let s := advanceTo (s.net.lastSync + syncInterval s) s
    let s := { s with net := { s.net with lastSync := s.now } }
    (setBits 8 (odUse s (odKey 0x2E00 2))).foldl (fun t p => if portUp t p then emit (.gptpSync p (gnow t)) t else t) s)

/-- A port's link goes down: the slave port's loss is HOLDOVER (R685). -/
def linkDown (p : Nat) (s : State) : State :=
  let s := { s with net := { s.net with link := clearMask s.net.link (2 ^ p) } }
  if odUse s (odKey 0x2E00 3) = p then enterHoldover s else s

/-- A port's link comes up. -/
def linkUp (p : Nat) (s : State) : State := { s with net := { s.net with link := s.net.link ||| 2 ^ p } }

/-! ### Object dictionary entries (R680, R681, R689, R699, R706, R720) -/

/-- Controller and subindex of an entry of 0x2F01 to 0x2F0C. -/
def canOfKey (k : Nat) : Option (Nat × Nat) :=
  if odKey 0x2F01 0 ≤ k ∧ k < odKey 0x2F0D 0 then some (k / 256 - 0x2F01, k % 256) else none

/-- The range rules of chapter 16. -/
def netRange (k v : Nat) (blob : List Byte) : Bool :=
  if k = odKey 0x2E00 0x0A then streamTableOk blob
  else if odKey 0x2E01 0 ≤ k ∧ k < odKey 0x2E0B 0 ∧ k % 256 = 3 then gateListOk blob
  else if odKey 0x2E01 0 ≤ k ∧ k < odKey 0x2E0B 0 ∧ k % 256 = 2 then decide (v = 10000 ∨ v = 5000 ∨ v = 2500)
  else if k = odKey 0x2F10 1 then ruleTableOk blob
  else match canOfKey k with
    | some (_, 2) => decide (v = 125 ∨ v = 250 ∨ v = 500 ∨ v = 1000)
    | some (_, 4) => decide (1000 ≤ v ∧ v ≤ 8000 ∧ 80000 % v = 0)
    | _ => true

/-- A gate control list is to take over: at its base time, or at the next boundary of its cycle (802.1Qbv). -/
def gateArm (p : Nat) (l : List Byte) (s : State) : State :=
  if l = [] then
    { s with net := { s.net with gates := tabSet (fun _ => []) s.net.gates p [], change := tabSet (fun _ => none) s.net.change p none } }
  else
    let b := gateBase l
    let c := gateCycle l
    let t := if s.gtime ≤ b then b else b + ((s.gtime - b) / c + 1) * c
    let old := gateNow s p
    { s with net := { s.net with gates := tabSet (fun _ => []) s.net.gates p old,
                                 change := tabSet (fun _ => none) s.net.change p (some { time := t, list := l }) } }

/-- What follows an accepted write of an entry of chapter 16. -/
def netApply (k v : Nat) (blob : List Byte) (s : State) : State :=
  if !blocksOn s then s
  else if k = odKey 0x2E00 0x0A then { s with net := { s.net with flows := [], cbRec := [], cbGen := [] } }
  else if odKey 0x2E01 0 ≤ k ∧ k < odKey 0x2E0B 0 ∧ k % 256 = 3 then gateArm (k / 256 - 0x2E01) blob s
  else if odKey 0x2F20 0 < k ∧ k < odKey 0x2F21 0 then
    { s with net := { s.net with meters := tabSet (fun _ => {}) s.net.meters (k % 256) {} } }
  else match canOfKey k with
    | some (c, 6) => if v = 1 then canRecoverNow c (odPut (canKey c 7) 1 s) else s
    | some (c, 7) => if v = 1 then canRecoverNow c s else s
    | some (c, 8) => canRecoverNow c s
    | _ => s

end Sys2Proof.Machine
end

