-- ==== Sys2Proof/Machine/Tether.lean ====
section
/-! DEFINITION. Tether (17): frames, connections, regions, operations, sequencing and recovery, rings, and the commands on them. -/

namespace Sys2Proof.Machine

/-! ### State -/

/-- Tether runs: enabled, in OPERATIONAL, BRACE or SAFE_HOLD (R730). -/
def tetherOn (s : State) : Bool := isUp s && decide (odUse s (odKey 0x3100 3) = 1)

/-- A connection. -/
def getConn (s : State) (h : Nat) : TConn := tabGet (fun _ => {}) s.tether.conns h

/-- Replace a connection. -/
def putConn (h : Nat) (c : TConn) (s : State) : State :=
  { s with tether := { s.tether with conns := tabSet (fun _ => {}) s.tether.conns h c } }

/-- A send queue. -/
def getSq (s : State) (q : Nat) : TSq := tabGet (fun _ => {}) s.tether.sqs q

/-- Replace a send queue. -/
def putSq (q : Nat) (v : TSq) (s : State) : State :=
  { s with tether := { s.tether with sqs := tabSet (fun _ => {}) s.tether.sqs q v } }

/-- PSN arithmetic modulo 2^24. -/
def psnAdd (p n : Nat) : Nat := (p + n) % 2 ^ 24

/-- How far PSN `a` lies beyond PSN `b`. -/
def psnDist (a b : Nat) : Nat := (a + 2 ^ 24 - b % 2 ^ 24) % 2 ^ 24

/-- The MTU payload (R724). -/
def mtuOf (c : TConn) : Nat := if c.jumbo then 4096 else 1472

/-- Use the context of a connection: fetched, and the least recently used one evicted, unless it is cached (R731). -/
def cacheTouch (h : Nat) (s : State) : State :=
  let l := s.tether.cache
  if l.contains h then { s with tether := { s.tether with cache := h :: l.filter (fun x => decide (x ≠ h)) } }
  else odCount (odKey 0x3100 7) 1 { s with tether := { s.tether with cache := (h :: l).take 256 } }

/-- Whether Tether may access a range of memory with a world tag; the carve-outs, its own area among them, hold no data of a
connection (R727). -/
def tetherOpen (s : State) (world wr : Bool) (addr len : Nat) : Bool :=
  decide (len = 0) ||
  ((match regionOf addr len with | some .dram => true | some .sram => true | some .landing => true | _ => false) &&
   filterAdmits s 0x31 world wr addr len && !carveDenied s 0 addr len)

/-! ### Frames (R722 to R725) -/

/-- What varies in the header of a frame that Tether sends. -/
structure THead where
  opcode : Nat
  flags  : Nat := 0
  status : Nat := 0
  psn    : Nat := 0
  tag    : Nat := 0
  offset : Nat := 0
  len    : Nat := 0
  imm    : Nat := 0
  deriving DecidableEq, Repr

/-- The 32-byte header. -/
def tHeader (conn ack : Nat) (h : THead) : List Byte :=
  [1, BitVec.ofNat 8 h.opcode, BitVec.ofNat 8 h.flags, BitVec.ofNat 8 h.status] ++ beBytes 2 conn ++ beBytes 3 h.psn ++ beBytes 3 ack ++
  beBytes 4 h.tag ++ beBytes 6 h.offset ++ beBytes 2 h.len ++ beBytes 4 h.imm ++ zeros 4

/-- Put a frame into the egress queue of a port: handle, destination MAC, PCP and VID, peer's handle, ACK_PSN. -/
def tPut (conn port mac tci remote ack : Nat) (op : Option Nat) (h : THead) (data : List Byte) (s : State) : State :=
  let e : EthFrame := { dst := mac, src := odGet s (odKey (0x2E01 + port) 4), tag := some (tci / 8192, tci % 4096), rtag := none,
                        etype := odUse s (odKey 0x3100 1), payload := tHeader remote ack h ++ data }
  ethPut port (tci / 8192) { frame := e, tether := some (conn, op) } s

/-- Send a frame of connection `h`. -/
def tSend (h : Nat) (op : Option Nat) (x : THead) (data : List Byte) (s : State) : State :=
  let c := getConn s h
  tPut h c.port c.mac c.tci c.remote (psnAdd c.epsn (2 ^ 24 - 1)) op x data s

/-! ### Events (R752, R757, R759) -/

/-- Write an event, with its message; an event that finds no room is counted and lost. -/
def tEvent (ev port conn st : Nat) (unconf : Option (Nat × Nat)) (tag flushed : Nat) (s : State) : State :=
  let cfg := regRaw s 0x16400108
  let size := 2 ^ bits cfg 3 0
  let th := regRaw s 0x1640010C
  let t := th / 65536
  if !bit cfg 16 || decide (size ≤ dist16 t (th % 65536)) then regCount 0x16400110 1 s else
  let e := [BitVec.ofNat 8 ev, BitVec.ofNat 8 port] ++ leBytes 2 conn ++ [BitVec.ofNat 8 st, BitVec.ofNat 8 (b2n unconf.isSome)] ++ zeros 2 ++
    leBytes 4 (unconf.map Prod.fst |>.getD 0) ++ leBytes 4 (unconf.map Prod.snd |>.getD 0) ++ leBytes 8 (gnow s) ++ leBytes 4 tag ++
    leBytes 4 flushed ++ zeros 31 ++ leBytes 1 (1 - t / size % 2)
  sendMsg 1572 (regPut 0x1640010C ((t + 1) % 65536 * 65536 + th % 65536) (writeRange (regRaw s 0x16400100 + t % size * 64) e s))

/-! ### Send queues: completions (R744, R752, R753) -/

/-- Address of a register of send queue `q`. -/
def sqReg (q off : Nat) : Nat := 0x16401000 + 0x40 * q + off

/-- QCFG of a send queue. -/
def sqCfg (s : State) (q : Nat) : Nat := regRaw s (sqReg q 0x10)

/-- The completion ring is full (R351). -/
def sqFull (s : State) (q : Nat) : Bool :=
  decide (2 ^ bits (sqCfg s q) 11 8 ≤ dist16 (getSq s q).cqTail (regRaw s (sqReg q 0x20)))

/-- Write the completion of the oldest operation. -/
def sqComplete (q : Nat) (o : TPend) (st : Nat) (s : State) : State :=
  let v := getSq s q
  let size := 2 ^ bits (sqCfg s q) 11 8
  let c := [BitVec.ofNat 8 st] ++ slice o.entry 0 1 ++ slice o.entry 2 2 ++ slice o.entry 4 4 ++ leBytes 4 o.first ++ leBytes 4 o.last ++
    leBytes 4 o.bytes ++ zeros 4 ++ leBytes 8 (gnow s) ++ zeros 31 ++ leBytes 1 (1 - v.cqTail / size % 2)
  let s := writeRange (regRaw s (sqReg q 8) + v.cqTail % size * 64) c s
  let s := putSq q { v with ops := v.ops.drop 1, cqTail := (v.cqTail + 1) % 65536, last := st,
                            state := if st ≠ 0 then 4 else if v.state = 2 ∧ v.ops.length ≤ 1 ∧ v.sqHead = v.tail then 1 else v.state } s
  if bit (leAt o.entry 1 1) 0 ∨ st ≠ 0 then sendMsg (1444 + q) s else s

/-- Write the completions of the decided operations in front, while the ring has room. -/
def sqSettle (q : Nat) : Nat → State → State
  | 0, s => s
  | n + 1, s => match (getSq s q).ops with
    | [] => s
    | o :: _ => match o.status with
      | none => s
      | some st => if (getSq s q).state = 0 || sqFull s q then s else sqSettle q n (sqComplete q o st s)

/-- Settle a send queue. -/
def sqRun (q : Nat) (s : State) : State := sqSettle q (getSq s q).ops.length s

/-- Decide an operation: its completion gets its PSNs, bytes and status. -/
def opDecide (o : TOp) (bytes st : Nat) (s : State) : State :=
  let v := getSq s o.sq
  let last := if o.sent = 0 then 0 else psnAdd o.first (o.sent - 1)
  sqRun o.sq (putSq o.sq { v with ops := v.ops.map (fun p =>
    if p.id = o.id ∧ p.status = none then { p with first := o.first, last := last, bytes := bytes, status := some st } else p) } s)

/-! ### Operations as frames (R723, R734, R742, R745) -/

/-- Opcode, length, local address, region tag and remote offset of an entry. -/
def opCode (e : List Byte) : Nat := leAt e 0 1
/-- LENGTH. -/
def opLen (e : List Byte) : Nat := leAt e 20 4
/-- LOCAL_ADDR. -/
def opLocal (e : List Byte) : Nat := leAt e 8 8

/-- PSNs of one READ request of 65,472 bytes. -/
def readPsns (m : Nat) : Nat := (65472 + m - 1) / m

/-- PSNs that an operation consumes. A READ beyond 65,472 bytes is sent as READ frames of 65,472 bytes. -/
def opPsns (m : Nat) (e : List Byte) : Nat :=
  let n := opLen e
  if opCode e = 5 then 1
  else if opCode e = 3 then n / 65472 * readPsns m + (n % 65472 + m - 1) / m
  else max 1 ((n + m - 1) / m)

/-- The bytes that PSN number `k` of an operation stands for: offset and length. -/
def opSpan (m : Nat) (e : List Byte) (k : Nat) : Nat × Nat :=
  let n := opLen e
  if opCode e = 5 then (0, 0)
  else if opCode e = 3 then
    let r := k / readPsns m * 65472
    let o := k % readPsns m * m
    (r + o, min m (min 65472 (n - r) - o))
  else (k * m, min m (n - k * m))

/-- PSNs of the frame that starts at PSN number `k` of an operation: a READ stands for all its responses. -/
def opStep (m : Nat) (e : List Byte) (k : Nat) : Nat :=
  if opCode e = 3 then min (readPsns m - k % readPsns m) (opPsns m e - k) else 1

/-- The header of the frame at PSN number `k` of an operation. -/
def opHead (m : Nat) (o : TOp) (k : Nat) (retx : Bool) : THead :=
  let e := o.entry
  let psn := psnAdd o.first k
  let last := decide (k + opStep m e k = o.psns)
  let sp := opSpan m e k
  let len := if opCode e = 3 then min 65472 (opLen e - k / readPsns m * 65472) - k % readPsns m * m else sp.2
  { opcode := opCode e, flags := b2n (decide (k = 0)) + 2 * b2n last + 4 * b2n (last || decide (psn % 32 = 0)) + 8 * b2n retx, psn := psn,
    tag := leAt e 16 4, offset := if opCode e = 5 then 0 else leAt e 24 8 + sp.1, len := len, imm := if opCode e = 2 then leAt e 32 4 else 0 }

/-- Replace an operation of a connection. -/
def putOp (h : Nat) (o : TOp) (s : State) : State :=
  let c := getConn s h
  putConn h { c with ops := c.ops.map (fun x => if x.id = o.id then o else x) } s

/-- Send the frame at PSN number `k` of an operation. A source read that meets poison ends a write: it sends no further frame
(R754). -/
def opFrame (h : Nat) (o : TOp) (k : Nat) (retx : Bool) (s : State) : State :=
  let c := getConn s h
  let m := mtuOf c
  let sp := opSpan m o.entry k
  if opCode o.entry = 1 ∨ opCode o.entry = 2 then
    match readRange (opLocal o.entry + sp.1) sp.2 s with
    | (s, none) =>
      let s := putOp h { o with psns := o.sent, decided := true } s
      if o.decided then s else opDecide o (min (opLen o.entry) (o.sent * m)) 9 s
    | (s, some l) =>
      let o' := { o with sent := max o.sent (k + 1) }
      let s := putOp h o' s
      let s := putConn h { getConn s h with psn := psnAdd o.first (k + 1), high := if retx then c.high else psnAdd o.first (k + 1) } s
      tSend h (if k + 1 = o.psns then some o.id else none) (opHead m o k retx) l s
  else
    let n := k + opStep m o.entry k
    let o' := { o with sent := max o.sent n }
    let s := putOp h o' s
    let s := putConn h { getConn s h with psn := psnAdd o.first n, high := if retx then c.high else psnAdd o.first n } s
    tSend h none (opHead m o k retx) [] s

/-- The operation that PSN `p` belongs to. -/
def opAt (c : TConn) (p : Nat) : Option TOp := c.ops.find? (fun o => decide (psnDist p o.first < o.sent))

/-- Send one frame, if the window of 1,024 PSNs allows it: a frame to send again, or the next frame of the first operation that
still has frames (R735, R736, R745). -/
def pumpOne (h : Nat) (s : State) : State :=
  let c := getConn s h
  if c.state ≠ 1 ∨ 1024 ≤ psnDist c.psn c.oldest then s
  else if c.psn ≠ c.high then
    match opAt c c.psn with
    | some o =>
      if o.psns ≤ psnDist c.psn o.first then putConn h { c with psn := psnAdd c.psn 1 } s else opFrame h o (psnDist c.psn o.first) true s
    | none => putConn h { c with psn := psnAdd c.psn 1 } s
  else match c.ops.find? (fun o => decide (o.sent < o.psns)) with
    | some o =>
      let o' := if o.sent = 0 then { o with first := c.high } else o
      let s := putConn h { c with since := if c.oldest = c.high then s.now else c.since } s
      opFrame h o' o.sent false (putOp h o' s)
    | none => s

/-- Send all that the window allows: at most 1,024 PSNs, and every operation that fails once. -/
def pump (h : Nat) (s : State) : State := iterate (1025 + (getConn s h).ops.length) (fun _ t => pumpOne h t) s

/-! ### The end of a connection (R737, R755 to R757) -/

/-- Stop the frames of a connection. -/
def connFramesStop (h : Nat) (s : State) : State :=
  { s with net := { s.net with queues := (s.net.queues.map (fun p => (p.1, p.2.filter (fun o =>
      decide (o.tether.map Prod.fst ≠ some h))))).filter (fun p => decide (p.2 ≠ [])) } }

/-- Bytes of an operation sent or placed. -/
def opBytes (m : Nat) (o : TOp) : Nat :=
  if opCode o.entry = 3 then ((List.range o.got).map (fun k => (opSpan m o.entry k).2)).sum
  else if opCode o.entry = 5 then 0 else min (opLen o.entry) (o.sent * m)

/-- Complete the undecided operations of a connection with FLUSHED, and leave it in a state. -/
def connFlush (h st : Nat) (s : State) : State :=
  let c := getConn s h
  let s := connFramesStop h (putConn h { c with state := st, ops := [], flush := [] } s)
  (c.ops.filter (fun o => !o.decided)).foldl (fun t o => opDecide o (opBytes (mtuOf c) o) 0x0B t) s

/-- A connection enters ERROR with a status; the operation `only` completes with that status, every other with FLUSHED. -/
def enterError (h st : Nat) (only : Option Nat) (s : State) : State :=
  let c := getConn s h
  if c.state ≠ 1 then s else
  let own := c.ops.find? (fun o => decide (some o.id = only))
  let s := match own with
    | some o => if o.decided then s else opDecide o (opBytes (mtuOf c) o) st (putOp h { o with decided := true } s)
    | none => s
  let rest := ((getConn s h).ops.filter (fun o => !o.decided)).length
  let unconf := if c.oldest = c.high then none else some (c.oldest, psnAdd c.high (2 ^ 24 - 1))
  let tag := match opAt c c.oldest with
    | some o => if unconf.isSome then leAt o.entry 4 4 else 0
    | none => 0
  tEvent 3 c.port h st unconf tag rest (odCount (odKey 0x3100 6) 1 (connFlush h 2 s))

/-- A go-back round from a PSN; the eighth without progress ends the connection instead. -/
def goBack (h from' : Nat) (s : State) : State :=
  let c := getConn s h
  if c.state ≠ 1 ∨ psnDist c.high c.oldest ≤ psnDist from' c.oldest then s
  else if 7 ≤ c.rounds then enterError h 0x13 ((opAt c c.oldest).map TOp.id) s
  else pump h (odCount (odKey 0x3100 5) 1 (putConn h { c with psn := from', since := s.now, rounds := c.rounds + 1 } s))

/-! ### Acknowledgements (R735) -/

/-- The first PSN that an acknowledgement cannot pass: of the first missing response of a READ, or of a FLUSH without FLUSH_ACK. -/
def ackLimit (c : TConn) : Nat :=
  match c.ops.find? (fun o => decide (0 < o.sent) && !o.decided && decide (opCode o.entry = 3 ∨ opCode o.entry = 5)) with
  | some o => psnAdd o.first o.got
  | none => c.high

/-- PSN `p` is the next to be acknowledged: every earlier one is. -/
def ackTo (h p : Nat) (s : State) : State :=
  let c := getConn s h
  let lim := psnDist (ackLimit c) c.oldest
  let d := psnDist p c.oldest
  if c.state ≠ 1 ∨ d = 0 ∨ psnDist c.high c.oldest < d ∨ lim = 0 then s else
  let n := psnAdd c.oldest (min d lim)
  let keep := c.ops.filter (fun o => !o.decided || decide (o.sent ≠ 0 ∧ psnDist n o.first < o.sent))
  pump h (putConn h { c with oldest := n, since := s.now, rounds := 0, ops := keep,
                             psn := if psnDist c.psn c.oldest < min d lim then n else c.psn } s)

/-! ### Responder (R733, R740, R748 to R751) -/

/-- A NAK of connection `h`; a fatal one is counted and announced (R755, R759). -/
def sendNak (h psn st : Nat) (s : State) : State :=
  let s := tSend h none { opcode := 8, status := st, psn := psn } [] s
  if st = 0xD0 ∨ st = 0xD1 then s
  else tEvent 4 (getConn s h).port h st none 0 0 (odCount (odKey 0x3100 8) 1 s)

/-- A request to a handle without an ACTIVE connection of this peer: NAK CONN_INVALID, at most one per handle and ms (R758). The
peer's handle is not known then: a free value. -/
def connInvalid (f : TetherFrame) (s : State) : State :=
  let h := f.connId
  let recent := match tabGet (fun _ => none) s.tether.invalid h with
    | some t => decide (s.now < t + ms 1)
    | none => false
  if recent then s else
  let s := { s with tether := { s.tether with invalid := tabSet (fun _ => none) s.tether.invalid h (some s.now) } }
  let s := tPut h f.port f.srcMac f.vlan (freeValue s % 65536) (psnAdd (getConn s h).epsn (2 ^ 24 - 1)) none
    { opcode := 8, status := 0xD2, psn := f.psn } [] (takeFree s)
  tEvent 4 f.port h 0xD2 none 0 0 (odCount (odKey 0x3100 8) 1 s)

/-- The region of a tag. -/
def regionOfTag (s : State) (tag : Nat) : Option TRegion :=
  match tabGet (fun _ => none) s.tether.regions (tag % 4096) with
  | some r => if r.key = tag / 4096 then some r else none
  | none => none

/-- Checks 2 to 5 of R740: the address of the access, or none for ACCESS_DENIED. -/
def tagCheck (s : State) (h : Nat) (f : TetherFrame) (wr : Bool) : Option Nat :=
  let c := getConn s h
  match regionOfTag s f.regionTag with
  | none => none
  | some r =>
    if (if wr then r.wr else r.rd) && (decide (r.conn = 0xFFFF) || decide (r.conn = h)) && decide (r.world = c.world) &&
        decide (f.offset + f.length ≤ r.size) && tetherOpen s c.world wr (r.base + f.offset) f.length then some (r.base + f.offset)
    else none

/-- Address of a register of receive queue `r`. -/
def rqReg (r off : Nat) : Nat := 0x16402000 + 0x40 * r + off

/-- A receive queue has a free entry. -/
def rqRoom (s : State) (r : Nat) : Bool :=
  decide (r < 64) && bit (regRaw s (rqReg r 8)) 16 &&
  decide (dist16 (regRaw s (rqReg r 0x0C)) (regRaw s (rqReg r 0x10)) < 2 ^ bits (regRaw s (rqReg r 8)) 3 0)

/-- Write a notification, raise the queue's knot, send its message (R750, R752). -/
def notify (h : Nat) (f : TetherFrame) (s : State) : State :=
  let c := getConn s h
  let r := c.rq
  let size := 2 ^ bits (regRaw s (rqReg r 8)) 3 0
  let t := regRaw s (rqReg r 0x0C)
  let e := [0, 0] ++ leBytes 2 h ++ leBytes 4 f.imm ++ leBytes 4 f.regionTag ++ leBytes 4 c.wrLen ++ leBytes 8 c.wrOff ++ leBytes 8 (gnow s) ++
    zeros 31 ++ leBytes 1 (1 - t / size % 2)
  let n := tabGet (fun _ => 0) s.tether.notes r + 1
  let s := regPut (rqReg r 0x0C) ((t + 1) % 65536) (writeRange (regRaw s (rqReg r 0) + t % size * 64) e s)
  let s := { s with tether := { s.tether with notes := tabSet (fun _ => 0) s.tether.notes r n } }
  let k := regRaw s (rqReg r 0x14)
  let s := if bit k 31 && knotSignals s (k % 4096) 0x102 then knotRaise (k % 4096) n s else s
  sendMsg (1508 + r) s

/-- ACK, when a frame asks for it. -/
def ackIf (h : Nat) (f : TetherFrame) (s : State) : State := if bit f.flags 2 then tSend h none { opcode := 7 } [] s else s

/-- The expected PSN advances. -/
def advanceEpsn (h n : Nat) (s : State) : State :=
  let c := getConn s h
  if n = 0 then s else putConn h { c with epsn := psnAdd c.epsn n, nak := none } s

/-- A WRITE or WRITE_IMM in order. -/
def rxPlace (h : Nat) (f : TetherFrame) (s : State) : State :=
  let c := getConn s h
  let last := decide (f.opcode = 2) && bit f.flags 1
  if last && !rqRoom s c.rq then sendNak h f.psn 0xD1 s
  else match tagCheck s h f true with
    | none => sendNak h f.psn 3 s
    | some a =>
      let s := if f.length = 0 then s else writeRange a f.payload s
      let s := putConn h { c with wrOff := if bit f.flags 0 then f.offset else c.wrOff,
                                  wrLen := if bit f.flags 0 then f.length else c.wrLen + f.length } s
      let s := if last then notify h f s else s
      ackIf h f (advanceEpsn h 1 s)

/-- The responses of a READ: one frame for each MTU payload; poison ends them with a NAK (R754). -/
def readReply (h : Nat) (f : TetherFrame) (a : Nat) : Nat → Nat → State → State
  | 0, _, s => s
  | n + 1, i, s =>
    let m := mtuOf (getConn s h)
    let len := min m (f.length - i * m)
    match readRange (a + i * m) len s with
    | (s, none) => sendNak h f.psn 9 s
    | (s, some l) =>
      let x : THead := { opcode := 4, flags := b2n (decide (i = 0)) + 2 * b2n (decide (n = 0)), psn := psnAdd f.psn i, tag := f.regionTag,
                         offset := f.offset + i * m, len := len }
      readReply h f a n (i + 1) (tSend h none x l s)

/-- A READ, in order or again. -/
def rxReadIn (h : Nat) (again : Bool) (f : TetherFrame) (s : State) : State :=
  match tagCheck s h f false with
  | none => sendNak h f.psn 3 s
  | some a =>
    let m := mtuOf (getConn s h)
    let n := (f.length + m - 1) / m
    let s := if again then s else advanceEpsn h n s
    readReply h f a n 0 (ackIf h f s)

/-- A FLUSH, in order or again: FLUSH_ACK follows. -/
def rxFlushIn (h : Nat) (again : Bool) (f : TetherFrame) (s : State) : State :=
  let s := if again then s else advanceEpsn h 1 s
  let c := getConn s h
  ackIf h f (if c.flush.contains f.psn then s else putConn h { c with flush := c.flush ++ [f.psn] } s)

/-- A request by its place in the sequence (R733). -/
def rxRequest (h : Nat) (f : TetherFrame) (s : State) : State :=
  let c := getConn s h
  let d := psnDist f.psn c.epsn
  if d = 0 then
    (if f.opcode = 3 then rxReadIn h false f s else if f.opcode = 5 then rxFlushIn h false f s else rxPlace h f s)
  else if d < 2 ^ 23 then
    (if c.nak = some c.epsn then s else sendNak h f.psn 0xD0 (putConn h { c with nak := some c.epsn } s))
  else if f.opcode = 3 then rxReadIn h true f s
  else if f.opcode = 5 then rxFlushIn h true f s
  else tSend h none { opcode := 7 } [] s

/-! ### Requester (R736, R746, R755) -/

/-- The first READ of a connection whose responses are awaited. -/
def readAwaited (c : TConn) : Option TOp := c.ops.find? (fun o => decide (opCode o.entry = 3 ∧ 0 < o.sent) && !o.decided)

/-- A READ_RESP: placed in order, discarded otherwise. -/
def rxReadResp (h : Nat) (f : TetherFrame) (s : State) : State :=
  let c := getConn s h
  match readAwaited c with
  | none => s
  | some o =>
    let sp := opSpan (mtuOf c) o.entry o.got
    if o.sent ≤ o.got ∨ f.psn ≠ psnAdd o.first o.got ∨ f.length ≠ sp.2 then s else
    let s := writeRange (opLocal o.entry + sp.1) f.payload s
    let o' := { o with got := o.got + 1, decided := decide (o.got + 1 = o.psns) }
    let s := putOp h o' s
    let s := if o'.decided then opDecide o' (opLen o.entry) 0 s else s
    ackTo h (psnAdd f.psn 1) s

/-- A FLUSH_ACK: the FLUSH that it answers completes. -/
def rxFlushAck (h : Nat) (f : TetherFrame) (s : State) : State :=
  let c := getConn s h
  match c.ops.find? (fun o => decide (opCode o.entry = 5 ∧ 0 < o.sent ∧ o.first = f.psn) && !o.decided) with
  | none => s
  | some o => ackTo h (psnAdd f.psn 1) (opDecide o 0 0 (putOp h { o with decided := true } s))

/-- A NAK. -/
def rxNak (h : Nat) (f : TetherFrame) (s : State) : State :=
  if f.status = 0xD0 then goBack h (psnAdd f.ackPsn 1) s
  else if f.status = 0xD1 then goBack h f.psn s
  else enterError h f.status ((opAt (getConn s h) f.psn).map TOp.id) s

/-! ### Reception (R725, R726) -/

/-- Opcodes that carry data. -/
def carriesData (op : Nat) : Bool := decide (op = 1 ∨ op = 2 ∨ op = 4)

/-- A frame that is discarded (R726). -/
def tMalformed (s : State) (f : TetherFrame) : Bool :=
  let c := getConn s f.connId
  let m := if c.state = 1 then mtuOf c else 4096
  decide (f.version ≠ 1) || decide (f.opcode = 0 ∨ 8 < f.opcode) || decide (16 ≤ f.flags) || decide (f.reserved ≠ 0) ||
  (decide (f.opcode ≠ 8) && decide (f.status ≠ 0)) ||
  ((carriesData f.opcode || decide (f.opcode = 3)) && decide (f.length % 64 ≠ 0 ∨ f.offset % 64 ≠ 0)) ||
  (carriesData f.opcode && decide (m < f.length)) ||
  decide (f.payload.length ≠ if carriesData f.opcode then f.length else 0)

/-- A frame terminated at a port. -/
def tetherRx (f : TetherFrame) (s : State) : State :=
  if !tetherOn s || decide (2 ≤ f.port) || !portUp s f.port then s
  else if tMalformed s f then odCount (odKey 0x3100 9) 1 s
  else
    let h := f.connId
    let req := decide (f.opcode = 1 ∨ f.opcode = 2 ∨ f.opcode = 3 ∨ f.opcode = 5)
    let s := if h < 4096 then cacheTouch h s else s
    let c := getConn s h
    if 4096 ≤ h ∨ c.state ≠ 1 ∨ c.mac ≠ f.srcMac then (if req then connInvalid f s else s)
    else
      let s := ackTo h (psnAdd f.ackPsn 1) s
      match f.opcode with
      | 4 => rxReadResp h f s
      | 6 => rxFlushAck h f s
      | 7 => s
      | 8 => rxNak h f s
      | _ => rxRequest h f s

/-- A parity error in the cached context of a connection (R732). -/
def contextError (h : Nat) (s : State) : State :=
  if tetherOn s && s.tether.cache.contains h then enterError h 9 none s else s

/-- TETHER_RX_WRITE (R726, R732, R733, R740). -/
def execTetherRxWrite (f : TetherFrame) (contextParity : Bool) (s : State) : Host.Outcome State Fault Refusal :=
  .next (tetherRx { f with opcode := 1 } (if contextParity then contextError f.connId s else s))

/-- TETHER_RX_WRITE_IMM (R740, R750). -/
def execTetherRxWriteImm (f : TetherFrame) (s : State) : Host.Outcome State Fault Refusal := .next (tetherRx { f with opcode := 2 } s)

/-- TETHER_RX_READ (R740, R749, R754). -/
def execTetherRxRead (f : TetherFrame) (s : State) : Host.Outcome State Fault Refusal := .next (tetherRx { f with opcode := 3 } s)

/-- TETHER_RX_READ_RESP (R736, R746). -/
def execTetherRxReadResp (f : TetherFrame) (s : State) : Host.Outcome State Fault Refusal := .next (tetherRx { f with opcode := 4 } s)

/-- TETHER_RX_FLUSH (R751). -/
def execTetherRxFlush (f : TetherFrame) (s : State) : Host.Outcome State Fault Refusal := .next (tetherRx { f with opcode := 5 } s)

/-- TETHER_RX_FLUSH_ACK (R746). -/
def execTetherRxFlushAck (f : TetherFrame) (s : State) : Host.Outcome State Fault Refusal := .next (tetherRx { f with opcode := 6 } s)

/-- TETHER_RX_ACK (R735). -/
def execTetherRxAck (f : TetherFrame) (s : State) : Host.Outcome State Fault Refusal := .next (tetherRx { f with opcode := 7 } s)

/-- TETHER_RX_NAK (R736, R755). -/
def execTetherRxNak (f : TetherFrame) (s : State) : Host.Outcome State Fault Refusal := .next (tetherRx { f with opcode := 8 } s)

/-- FLUSH_ACK (R751): the oldest FLUSH to answer is answered. -/
def execFlushAck (conn : Fin 4096) (s : State) : Host.Outcome State Fault Refusal :=
  let h := conn.val
  let c := getConn s h
  .next (match c.flush with
    | p :: t => if tetherOn s && c.state = 1 then tSend h none { opcode := 6, psn := p } [] (putConn h { c with flush := t } s) else s
    | [] => s)

/-- The RTO of a connection, ns (R728). -/
def rtoOf (c : TConn) : Nat := us (if c.rto = 0 then 200 else c.rto)

/-- GO_BACK_ROUND (R736, R737): the oldest unacknowledged PSN has not advanced for one RTO. -/
def execGoBackRound (conn : Fin 4096) (s : State) : Host.Outcome State Fault Refusal :=
  let h := conn.val
  let c := getConn s h
  .next (if !tetherOn s || decide (c.state ≠ 1) || decide (c.oldest = c.high) then s
    else goBack h c.oldest (advanceTo (c.since + rtoOf c) s))

/-! ### Send queues: entries (R742 to R745) -/

/-- Operations in flight. -/
def tetherInFlight (s : State) : Nat := (s.tether.sqs.map (fun p => p.2.ops.length)).sum

/-- The checks of an entry at its fetch (R743): the status of the first failure. -/
def entryStatus (s : State) (e : List Byte) : Option Nat :=
  let op := opCode e
  let h := leAt e 2 2
  let len := opLen e
  let c := getConn s h
  if decide (4 ≤ leAt e 1 1) || !(decide (op = 1 ∨ op = 2 ∨ op = 3 ∨ op = 5)) || decide (0x1000000 < len) || decide (2 ^ 48 ≤ leAt e 24 8) ||
      decide (4096 ≤ h) || !(slice e 36 28).all (fun b => b = 0) ||
      (decide (op = 5) && decide (opLocal e ≠ 0 ∨ leAt e 16 4 ≠ 0 ∨ len ≠ 0)) then some 0x10
  else if op ≠ 5 ∧ !tetherOpen s c.world (decide (op = 3)) (opLocal e) len then some 3
  else if (op = 1 ∨ op = 3) ∧ len = 0 then some 1
  else if opLocal e % 64 ≠ 0 ∨ leAt e 24 8 % 64 ≠ 0 ∨ len % 64 ≠ 0 then some 0x11
  else if c.state ≠ 1 then some 0x0F
  else none

/-- A fetched entry: it completes at once with a status, or joins its connection's operations. -/
def sqEntry (q : Nat) (e : List Byte) (st : Option Nat) (s : State) : State :=
  let v := getSq s q
  let id := s.tether.nextId
  let s := putSq q { v with sqHead := (v.sqHead + 1) % 65536, ops := v.ops ++ [{ id := id, entry := e, status := st }] }
    { s with tether := { s.tether with nextId := id + 1 } }
  match st with
  | some _ => sqRun q s
  | none =>
    let h := leAt e 2 2
    let s := cacheTouch h s
    let c := getConn s h
    pump h (putConn h { c with ops := c.ops ++ [{ id := id, sq := q, entry := e, psns := opPsns (mtuOf c) e }] } s)

/-- Whether an entry belongs to the row of an opcode: it names the opcode, or none that exists. -/
def entryOf (op : Nat) (e : List Byte) : Bool := decide (opCode e = op) || !(decide (opCode e = 1 ∨ opCode e = 2 ∨ opCode e = 3 ∨ opCode e = 5))

/-- Fetch the next entry of a send queue, when it is of the given opcode and may start. -/
def sqFetch (op q : Nat) (s : State) : State :=
  let v := getSq s q
  let a := regRaw s (sqReg q 0) + v.sqHead % 2 ^ bits (sqCfg s q) 3 0 * 64
  let e := memBytes s a 64
  if !tetherOn s || decide (v.state ≠ 2) || decide (v.sqHead = v.tail) || sqFull s q || decide (4096 ≤ tetherInFlight s) ||
      !entryOf op e || (bit (leAt e 1 1) 1 && decide (v.ops ≠ [])) then s
  else match readRange a 64 s with
    | (s, none) => sqEntry q e (some 9) s
    | (s, some l) => sqEntry q l (entryStatus s l) s

/-- TETHER_SQ_WRITE (R742 to R747). -/
def execTetherSqWrite (sq : Fin 64) (s : State) : Host.Outcome State Fault Refusal := .next (sqFetch 1 sq.val s)

/-- TETHER_SQ_WRITE_IMM. -/
def execTetherSqWriteImm (sq : Fin 64) (s : State) : Host.Outcome State Fault Refusal := .next (sqFetch 2 sq.val s)

/-- TETHER_SQ_READ. -/
def execTetherSqRead (sq : Fin 64) (s : State) : Host.Outcome State Fault Refusal := .next (sqFetch 3 sq.val s)

/-- TETHER_SQ_FLUSH. -/
def execTetherSqFlush (sq : Fin 64) (s : State) : Host.Outcome State Fault Refusal := .next (sqFetch 5 sq.val s)

/-! ### Registers (R344 to R347, R729, R738, R739, R760) -/

/-- Set an error flag of a ring of Tether: 9 DB_ERR, 10 CFG_ERR. -/
def tErr (a n : Nat) (s : State) : State := regSetBits a (2 ^ n) s

/-- Whether the filters admit the writer of a register to a ring. -/
def ringAdmits (s : State) (acc : Access) (wr : Bool) (base entries : Nat) : Bool :=
  memoryOpen s acc.req (tagOf s acc.req acc.world) wr base (64 * entries)

/-- A write to a register of send queue `q`. -/
def sqEff (q off v : Nat) (acc : Access) (s : State) : WriteRes :=
  let x := getSq s q
  let cfg := sqCfg s q
  let err := fun n => WriteRes.done (tErr (sqReg q 0x28) n s)
  if off = 0x14 then
    let t := bits v 15 0
    (if x.state = 0 ∨ 2 ^ bits cfg 3 0 < dist16 t x.sqHead ∨ dist16 t x.sqHead < dist16 x.tail x.sqHead then err 9
     else .done (putSq q { x with tail := t, state := if x.state = 1 ∧ t ≠ x.sqHead then 2 else x.state } s))
  else if off = 0x20 then
    (if dist16 x.cqTail (regRaw s (sqReg q 0x20)) < dist16 (bits v 15 0) (regRaw s (sqReg q 0x20)) then err 9
     else .done (sqRun q (regPut (sqReg q 0x20) (bits v 15 0) s)))
  else if off = 0 ∨ off = 8 ∨ off = 0x10 then
    (if bit cfg 16 then
      (if off = 0x10 ∧ !bit v 16 ∧ (x.state = 1 ∨ x.state = 4) then .done (putSq q { last := x.last } (regPut (sqReg q 0x10) (cfg - 65536) s))
       else err 10)
    else if off = 0x10 ∧ bit v 16 then
      (if 4 ≤ bits v 3 0 ∧ bits v 3 0 ≤ 12 ∧ 4 ≤ bits v 11 8 ∧ bits v 11 8 ≤ 12 ∧ tetherOn s ∧
          ringAdmits s acc false (regRaw s (sqReg q 0)) (2 ^ bits v 3 0) ∧ ringAdmits s acc true (regRaw s (sqReg q 8)) (2 ^ bits v 11 8) then
        .done (putSq q { last := x.last, state := 1 } (regPut (sqReg q 0x20) 0 (genericWrite (sqReg q 0x10) v s)))
      else err 10)
    else .done (genericWrite (sqReg q off) v s))
  else .done (genericWrite (sqReg q off) v s)

/-- Whether a ring of notifications or events may be enabled. -/
def noteRingOk (s : State) (acc : Access) (base v : Nat) : Bool :=
  decide (4 ≤ bits v 3 0 ∧ bits v 3 0 ≤ 12) && tetherOn s && ringAdmits s acc true (regRaw s base) (2 ^ bits v 3 0)

/-- A write to a register of receive queue `r`. -/
def rqEff (r off v : Nat) (acc : Access) (s : State) : WriteRes :=
  let b := rqReg r 0
  let cfg := regRaw s (b + 8)
  let knot := regRaw s (b + 0x14)
  if off = 0x10 then
    (if dist16 (regRaw s (b + 0x0C)) (regRaw s (b + 0x10)) < dist16 (bits v 15 0) (regRaw s (b + 0x10)) then .done (tErr (b + 8) 9 s)
     else .done (regPut (b + 0x10) (bits v 15 0) s))
  else if off = 0 then (if bit cfg 16 then .done (tErr (b + 8) 10 s) else .done (genericWrite b v s))
  else if off = 8 then
    (if bit cfg 16 then
      (if bit v 16 then .done (tErr (b + 8) 10 (regPut (b + 8) (clearMask cfg (v &&& 0x600)) s))
       else .done (regPut (b + 8) (clearMask (cfg - 65536) (v &&& 0x600)) s))
    else if bit v 16 then
      (if noteRingOk s acc b v && !(bit knot 31 && decide ((knotRoles s (knot % 4096)).1 ≠ 0x102)) then
        let s := regPut (b + 0x0C) 0 (regPut (b + 0x10) 0 (genericWrite (b + 8) v s))
        .done { s with tether := { s.tether with notes := tabSet (fun _ => 0) s.tether.notes r 0 } }
      else .done (tErr (b + 8) 10 s))
    else .done (genericWrite (b + 8) v s))
  else .done (genericWrite (b + off) v s)

/-- A write to a register of the event ring. -/
def evqEff (off v : Nat) (acc : Access) (s : State) : WriteRes :=
  let cfg := regRaw s 0x16400108
  let th := regRaw s 0x1640010C
  if off = 0x0C then
    (if dist16 (th / 65536) (th % 65536) < dist16 (bits v 15 0) (th % 65536) then .done (tErr 0x16400108 9 s)
     else .done (regPut 0x1640010C (th / 65536 * 65536 + bits v 15 0) s))
  else if off = 0 then (if bit cfg 16 then .done (tErr 0x16400108 10 s) else .done (genericWrite 0x16400100 v s))
  else if off = 8 then
    (if bit cfg 16 then
      (if bit v 16 then .done (tErr 0x16400108 10 (regPut 0x16400108 (clearMask cfg (v &&& 0x600)) s))
       else .done (regPut 0x16400108 (clearMask (cfg - 65536) (v &&& 0x600)) s))
    else if bit v 16 then
      (if noteRingOk s acc 0x16400100 v then .done (regPut 0x1640010C 0 (genericWrite 0x16400108 v s)) else .done (tErr 0x16400108 10 s))
    else .done (genericWrite 0x16400108 v s))
  else .done s

/-- Byte `i` of the staged context. -/
def ctxAt (s : State) (off len : Nat) : Nat :=
  leAt ((List.range 16).flatMap (fun i => leBytes 4 (regRaw s (0x16400200 + 4 * i)))) off len

/-- The staged context keeps R728. -/
def ctxOk (s : State) : Bool :=
  decide (ctxAt s 22 42 = 0 ∧ ctxAt s 8 2 < 4096 ∧ ctxAt s 10 1 < 8) && decide (ctxAt s 11 1 < 64 ∨ ctxAt s 11 1 = 0xFF) &&
  decide (ctxAt s 20 2 = 0 ∨ (50 ≤ ctxAt s 20 2 ∧ ctxAt s 20 2 ≤ 10000))

/-- The connection of the staged context. -/
def ctxConn (s : State) : TConn :=
  { state := 1, mac := ctxAt s 0 6, tci := ctxAt s 6 2, remote := ctxAt s 8 2, port := ctxAt s 10 1 % 2, jumbo := bit (ctxAt s 10 1) 1,
    world := bit (ctxAt s 10 1) 2, rq := ctxAt s 11 1, rto := ctxAt s 20 2, psn := ctxAt s 12 3, high := ctxAt s 12 3, oldest := ctxAt s 12 3,
    epsn := ctxAt s 16 3, since := s.now }

/-- Set STATUS of CONN_RESULT. -/
def connResult (st : Nat) (s : State) : State := regUpd 0x16400244 (fun v => putBits v 23 16 st) s

/-- CONN_CMD: ENABLE, DISABLE, QUERY (R729). -/
def connCmdEff (v : Nat) (acc : Access) (s : State) : WriteRes :=
  let h := bits v 11 0
  let c := getConn s h
  if !tetherOn s then .done (connResult 0x0F s)
  else match bits v 31 28 with
    | 1 =>
      if c.state ≠ 0 || !ctxOk s then .done (connResult 0x10 s)
      else if (ctxConn s).world && !tagOf s acc.req acc.world then .done (connResult 3 s)
      else .done (connResult 0 (putConn h (ctxConn s) s))
    | 2 => .done (connResult 0 (if c.state = 0 then s else connFlush h 0 s))
    | 3 => .done (connResult 0 (regPut 0x16400248 c.state (regPut 0x1640024C c.high (regPut 0x16400250 c.oldest (regPut 0x16400254 c.epsn s)))))
    | _ => .done (connResult 0x10 s)

/-- Set STATUS of REG_RESULT. -/
def regResult (st : Nat) (s : State) : State := regPut 0x1640031C (st * 65536) s

/-- REG_CMD: REGISTER, DEREGISTER (R738, R739, R741). -/
def regCmdEff (v : Nat) (acc : Access) (s : State) : WriteRes :=
  let i := bits v 11 0
  let base := regRaw s 0x16400300
  let size := regRaw s 0x16400308
  let attr := regRaw s 0x16400310
  let world := bit attr 2
  let old := tabGet (fun _ => none) s.tether.regions i
  if !tetherOn s then .done (regResult 0x0F s)
  else match bits v 31 28 with
    | 1 =>
      if old.isSome ∨ base < 0x4000000000 ∨ 0x5000000000 < base + size then .done (regResult 0x10 s)
      else if size = 0 then .done (regResult 1 s)
      else if base % 64 ≠ 0 ∨ size % 64 ≠ 0 then .done (regResult 0x11 s)
      else if (world && !tagOf s acc.req acc.world) || (bit attr 0 && !filterAdmits s 0x31 world true base size) ||
          (bit attr 1 && !filterAdmits s 0x31 world false base size) then .done (regResult 3 s)
      else
        let r : TRegion := { key := attr / 4096, base := base, size := size, world := world, rd := bit attr 1, wr := bit attr 0,
                             conn := regRaw s 0x16400314 % 65536 }
        .done (regResult 0 (regPut 0x16400320 (attr / 4096 * 4096 + i)
          { s with tether := { s.tether with regions := tabSet (fun _ => none) s.tether.regions i (some r) } }))
    | 2 => .done (regResult 0 { s with tether := { s.tether with regions := tabSet (fun _ => none) s.tether.regions i none } })
    | _ => .done (regResult 0x10 s)

/-- A write to a register of the TETHER block. -/
def tetherEff (a v : Nat) (acc : Access) (s : State) : WriteRes :=
  if a = 0x16400240 then connCmdEff v acc s
  else if a = 0x16400318 then regCmdEff v acc s
  else if 0x16400100 ≤ a ∧ a < 0x16400120 then evqEff (a - 0x16400100) v acc s
  else if 0x16401000 ≤ a ∧ a < 0x16402000 then sqEff ((a - 0x16401000) / 0x40) ((a - 0x16401000) % 0x40) v acc s
  else if 0x16402000 ≤ a ∧ a < 0x16403000 then rqEff ((a - 0x16402000) / 0x40) ((a - 0x16402000) % 0x40) v acc s
  else .done (genericWrite a v s)

/-- TETHER_SQ_DOORBELL (R346, R760). -/
def execTetherSqDoorbell (sq : Fin 64) (acc : Access) (tail : Nat) (s : State) : Host.Outcome State Fault Refusal :=
  .next (regWriteWith tetherEff (atReg acc (sqReg sq.val 0x14)) tail s)

/-- A write of CONN_CMD with an operation. -/
def connCmd (op : Nat) (handle : Nat) (acc : Access) (s : State) : State :=
  regWriteWith tetherEff (atReg acc 0x16400240) (op * 2 ^ 28 + handle) s

/-- CONN_ENABLE (R728, R729). -/
def execConnEnable (handle : Fin 4096) (acc : Access) (s : State) : Host.Outcome State Fault Refusal := .next (connCmd 1 handle.val acc s)

/-- CONN_DISABLE (R729, R756). -/
def execConnDisable (handle : Fin 4096) (acc : Access) (s : State) : Host.Outcome State Fault Refusal := .next (connCmd 2 handle.val acc s)

/-- CONN_QUERY (R729). -/
def execConnQuery (handle : Fin 4096) (acc : Access) (s : State) : Host.Outcome State Fault Refusal := .next (connCmd 3 handle.val acc s)

/-- REGISTER (R738, R739). -/
def execRegister (index : Fin 4096) (acc : Access) (s : State) : Host.Outcome State Fault Refusal :=
  .next (regWriteWith tetherEff (atReg acc 0x16400318) (2 ^ 28 + index.val) s)

/-- DEREGISTER (R738, R741). -/
def execDeregister (index : Fin 4096) (acc : Access) (s : State) : Host.Outcome State Fault Refusal :=
  .next (regWriteWith tetherEff (atReg acc 0x16400318) (2 * 2 ^ 28 + index.val) s)

/-! ### At the ports (R725, R746, R759) -/

/-- The Tether frame in an Ethernet frame; octets that only fill the shortest frame are no payload. -/
def tetherParse (port : Nat) (e : EthFrame) : TetherFrame :=
  let l := e.payload
  let rest := l.drop 32
  { port := port, srcMac := e.src, vlan := ethPcp e * 8192 + ethVid e, version := beAt l 0 1, opcode := beAt l 1 1, flags := beAt l 2 1,
    status := beAt l 3 1, connId := beAt l 4 2, psn := beAt l 6 3, ackPsn := beAt l 9 3, regionTag := beAt l 12 4, offset := beAt l 16 6,
    length := beAt l 22 2, imm := beAt l 24 4, reserved := beAt l 28 4, payload := if rest.length ≤ 14 then [] else rest }

/-- Whether a frame that arrives is terminated as Tether. -/
def tetherTerminates (s : State) (port : Nat) (e : EthFrame) : Bool :=
  tetherOn s && decide (port < 2) && decide (e.etype = odUse s (odKey 0x3100 1)) && decide (e.dst = odGet s (odKey (0x2E01 + port) 4))

/-- A Tether frame has left its port: counted; a write whose last frame it is completes. -/
def tetherLeft (h : Nat) (op : Option Nat) (s : State) : State :=
  let s := odCount (odKey 0x3100 4) 1 s
  let c := getConn s h
  match op.bind (fun i => c.ops.find? (fun o => decide (o.id = i) && !o.decided)) with
  | some o => opDecide o (opLen o.entry) 0 (putOp h { o with decided := true } s)
  | none => s

/-- A port's link changes. -/
def tetherLink (up : Bool) (p : Nat) (s : State) : State :=
  if tetherOn s && decide (p < 2) then tEvent (if up then 2 else 1) p 0 0 none 0 0 s else s

end Sys2Proof.Machine
end

