-- ==== Sys2Proof/Machine/Ingress.lean ====
section
/-! DEFINITION. The ports of the switch: frames that arrive and frames that leave, Tether's among them, and links (16, 17). -/

namespace Sys2Proof.Machine

/-- ETH_FRAME_RX (R676): filter, meter, recover, terminate Tether, look up, forward. -/
def execEthFrameRx (port : Fin 10) (frame : EthFrame) (s : State) : Host.Outcome State Fault Refusal :=
  let p := port.val
  .next (if !portUp s p || decide (8 ≤ p) then s
    else if 9216 < ethLen frame then oversize p s
    else match ethFilter p frame s with
      | (s, none) => s
      | (s, some f) => if tetherTerminates s p f then tetherRx (tetherParse p f) s else (ethRoute p (ethPcp f) f s).1)

/-- EGRESS_TRANSMIT (R677, R715). -/
def execEgressTransmit (port : Fin 10) (s : State) : Host.Outcome State Fault Refusal :=
  let p := port.val
  .next (if !portUp s p then s else
    match egressPick s p with
    | none => s
    | some (q, o) =>
      let s := putEgress p q ((egressQueue s p q).drop 1) s
      match forcePayload o.force o.frame.payload s with
      | (s, l) =>
        let f := { o.frame with payload := l }
        let s := if p < 8 then emit (.ethFrame p f) s else portDeliver p q { o with frame := f } s
        match o.tether with
        | some (h, op) => tetherLeft h op s
        | none => s)

/-- PORT_LINK_DOWN (R678, R685, R759). -/
def execPortLinkDown (port : Fin 10) (s : State) : Host.Outcome State Fault Refusal :=
  let p := port.val
  .next (if 8 ≤ p ∨ !bit s.net.link p then s
    else if !isUp s then { s with net := { s.net with link := clearMask s.net.link (2 ^ p) } }
    else tetherLink false p (linkDown p s))

/-- PORT_LINK_UP (R678, R759). -/
def execPortLinkUp (port : Fin 10) (s : State) : Host.Outcome State Fault Refusal :=
  let p := port.val
  .next (if 8 ≤ p ∨ bit s.net.link p then s else if !isUp s then linkUp p s else tetherLink true p (linkUp p s))

end Sys2Proof.Machine
end

