-- ==== Sys2Proof/Machine/Splice.lean ====
section
/-! DEFINITION. Splice (18): Hawser windows and beats, atomic sequences, PCIe, polls, prefetch, the far master, and the commands on
them. -/

namespace Sys2Proof.Machine

/-! ### Errors (R765, R766) -/

/-- Latch, count and announce an error (R42, R766). -/
def spliceLatch (req status : Nat) (wr : Bool) (beats addr : Nat) (s : State) : State :=
  let s := if bit (regRaw s 0x17000030) 31 then s else
    regPut 0x17000028 addr (regPut 0x17000030 (2 ^ 31 + req * 65536 + status * 256 + b2n wr * 128 + min 31 beats) s)
  sendMsg 1792 (regCount 0x17000034 1 s)

/-- An error response of Splice; TIMEOUT and TORN endings are counted. -/
def spliceErr (acc : Access) (wr : Bool) (status beats : Nat) (s : State) : State :=
  let s := if status = 0x0A ∨ status = 0x14 then odCount (odKey 0x3200 0x0C) 1 s else s
  accessRefused acc status (spliceLatch acc.req status wr beats acc.addr s)

/-- The status of an access of which `beats` beats took effect (R765, R779). -/
def stallStatus (beats : Nat) : Nat := if beats = 0 then 0x0A else 0x14

/-- An error whose status the spec does not name. -/
def spliceErrFree (acc : Access) (wr : Bool) (s : State) : State := spliceErr acc wr (freeValue s % 256) 0 (takeFree s)

/-! ### Atomic operations -/

/-- The result of an atomic operation of `w` bits. -/
def amoApply (op : AmoOp) (w old x : Nat) : Nat :=
  let m := 2 ^ w
  let a := old % m
  let b := x % m
  match op with
  | .swap => b
  | .add => (a + b) % m
  | .xor => a ^^^ b
  | .and => a &&& b
  | .or => a ||| b
  | .min => if toSigned w a ≤ toSigned w b then a else b
  | .max => if toSigned w a < toSigned w b then b else a
  | .minu => min a b
  | .maxu => max a b

/-! ### Hawser windows (R768 to R771) -/

/-- Placement of window `w`: base and size in bytes from the start of the Hawser range, when it is enabled. -/
def hwPlace (v : Nat) : Option (Nat × Nat) :=
  if bit v 31 then some (bits v 11 0 * 65536, (if bits v 27 16 = 0 then 4096 else bits v 27 16) * 65536) else none

/-- Key of an entry of Hawser window `w`. -/
def hwKey (w sub : Nat) : Nat := odKey (0x3210 + w) sub

/-- The attribute word of window `w`. -/
def hwAttr (s : State) (w : Nat) : Nat := odGet s (hwKey w 3)

/-- The enabled window that holds a range of the Hawser range, with the offset in it. -/
def hwFind (s : State) (addr len : Nat) : Option (Nat × Nat) :=
  let o := addr - 0x20000000
  firstSome (fun w => match hwPlace (odGet s (hwKey w 1)) with
    | some (b, n) => if b ≤ o ∧ o + len ≤ b + n then some (w, o - b) else none
    | none => none) (List.range 16)

/-- Bytes of a beat of window `w`. -/
def hwUnit (s : State) (w : Nat) : Nat := if bit (hwAttr s w) 2 then 4 else 2

/-! ### Beats (R772 to R777) -/

/-- The lane of byte `j` of a beat. -/
def hwLane (s : State) (w j : Nat) : Nat := if bit (hwAttr s w) 3 then hwUnit s w - 1 - j else j

/-- The beat that covers the bytes `k` to `k + unit - 1` of a window, for an access of `len` bytes at offset `off` that drives
`data`; `all` asserts every lane. -/
def hwBeat (s : State) (w off len k : Nat) (all phase : Bool) (data : Option (List Byte)) : Output :=
  let js := (List.range (hwUnit s w)).filter (fun j => decide (off ≤ k + j ∧ k + j < off + len))
  let be := maskOf ((if all then List.range (hwUnit s w) else js).map (hwLane s w))
  let val := data.map (fun l => (js.map (fun j => (l.getD (k + j - off) 0).toNat * 2 ^ (8 * hwLane s w j))).sum)
  .hawserBeat (bits (hwAttr s w) 1 0) ((odGet s (hwKey w 2) + k) % 2 ^ 32) phase be val

/-- The first `n` beats of an access, from beat `i` of the burst at offset `k` on. -/
def hwBeats (w off len : Nat) (all : Bool) (data : Option (List Byte)) : Nat → Nat → Nat → State → State
  | 0, _, _, s => s
  | n + 1, i, k, s =>
    let cut := !bit (hwAttr s w) 4 || decide (i = 0 ∨ i = 16 ∨ (odGet s (hwKey w 2) + k) % 1024 = 0)
    let s := emit (hwBeat s w off len k all cut data) s
    hwBeats w off len all data n (if cut then 1 else i + 1) (k + hwUnit s w) s

/-- Number of beats of an access. -/
def hwCount (s : State) (w off len : Nat) : Nat := (off + len - 1) / hwUnit s w + 1 - off / hwUnit s w

/-- Carry out `n` beats of an access. -/
def hwRun (w off len : Nat) (data : Option (List Byte)) (n : Nat) (s : State) : State :=
  let all := data.isNone && bit (hwAttr s w) 5
  hwBeats w off len all data n 0 (off / hwUnit s w * hwUnit s w) s

/-- An access of more than one beat counts as split. -/
def hwSplit (w off len : Nat) (s : State) : State :=
  if 1 < hwCount s w off len then odCount (odKey 0x3200 0x0B) 1 s else s

/-! ### Prefetch (R791 to R793) -/

/-- The valid line that covers a read of a window. -/
def pfHit (s : State) (win addr len : Nat) : Option (Nat × PfLine) :=
  firstSome (fun p => match p.2 with
    | some l => if l.win = win ∧ l.addr ≤ addr ∧ addr + len ≤ l.addr + 64 ∧ s.now < l.at' + us 10 then some (p.1, l) else none
    | none => none) s.splice.lines

/-- Line `i` is the most recently used. -/
def pfTouch (i : Nat) (s : State) : State :=
  { s with splice := { s.splice with lru := i :: s.splice.lru.filter (fun j => decide (j ≠ i)) } }

/-- The line that a fill takes: a free one, else the least recently used. -/
def pfVictim (s : State) : Nat :=
  match (List.range 8).find? (fun i => decide (tabGet (fun _ => (none : Option PfLine)) s.splice.lines i = none)) with
  | some i => i
  | none => s.splice.lru.getLast?.getD 0

/-- Put a line into the buffer. -/
def pfPut (win addr : Nat) (data : List Byte) (s : State) : State :=
  let i := pfVictim s
  let l : PfLine := { addr := addr, win := win, data := data, at' := s.now }
  pfTouch i { s with splice := { s.splice with lines := tabSet (fun _ => none) s.splice.lines i (some l) } }

/-- Fill the buffer with the complete lines of the bytes read from `addr` on. -/
def pfFill (win addr : Nat) (data : List Byte) (s : State) : State :=
  iterate (data.length / 64) (fun i t => pfPut win (addr + 64 * i) (slice data (64 * i) 64) t) s

/-- Drop the lines of a window (R792). -/
def pfDrop (win : Nat) (s : State) : State :=
  { s with splice := { s.splice with lines := s.splice.lines.filter (fun p => decide (p.2.map PfLine.win ≠ some win)) } }

/-- Bytes that a miss may read: the missed line and up to 256 bytes ahead, within the window's end. -/
def pfReach (line fin : Nat) : Nat := min 320 (fin - line)

/-- PREFETCH_EXPIRY (R792): 10 µs after the line was fetched. -/
def execPrefetchExpiry (line : Fin 8) (s : State) : Host.Outcome State Fault Refusal :=
  .next (match tabGet (fun _ => (none : Option PfLine)) s.splice.lines line.val with
    | some l =>
      if !isUp s then s else
      let s := advanceTo (l.at' + us 10) s
      { s with splice := { s.splice with lines := tabSet (fun _ => none) s.splice.lines line.val none } }
    | none => s)

/-! ### The frame of an access from the fabric -/

/-- Whether an address range is one that Splice serves: Hawser, PCIe, or a register block of the peripheral bus (R764). -/
def spliceRangeOf (addr len : Nat) : Option Region :=
  match regionOf addr len with
  | some .hawser => some .hawser
  | some .pcie32 => some .pcie32
  | some .pcie64 => some .pcie64
  | some .regs => if 0x16800000 ≤ addr ∧ addr < 0x18000000 then some .regs else none
  | _ => none

/-- The checks before an access that Splice serves in one of the given ranges, then `f` on the range. -/
def spliceFrame (acc : Access) (wr : Bool) (len : Nat) (f : Region → State → State) (s : State) : State :=
  if !blocksOn s then s else
  if !filterAdmits s acc.req (tagOf s acc.req acc.world) wr acc.addr len then checkFailed acc wr s .filtered
  else match spliceRangeOf acc.addr len with
    | none => if (regionOf acc.addr len).isNone then badAccess acc wr 4 s else s
    | some r => if isUp s || r = .regs then f r s else spliceErr acc wr 0x0F 0 s

/-- The waits of an access to the Hawser bus: for another hart's lock, and for the far master's grant, which lasts beyond the bound
of R765. -/
def hwFrame (acc : Access) (wr : Bool) (f : State → State) (s : State) : State :=
  let s := lockWait acc.req s
  if s.splice.granted then spliceErr acc wr 0x0A 0 (advanceTo (s.now + us 80) s) else f s

/-- An access to a Hawser window: the window and the offset in it. -/
def hwWindow (acc : Access) (wr : Bool) (len : Nat) (f : Nat → Nat → State → State) (s : State) : State :=
  match hwFind s acc.addr len with
  | none => spliceErr acc wr 0x0F 0 s
  | some (w, off) =>
    if len = 0 ∨ acc.addr / 64 ≠ (acc.addr + len - 1) / 64 then spliceErrFree acc wr s
    else hwFrame acc wr (f w off) s

/-! ### Hawser accesses (R765, R776 to R779) -/

/-- What is left of a far answer to a Hawser access of `n` beats: the bytes, or the beats made before it stopped. -/
def hwAnswer (n : Nat) (far : FarAnswer) : List Byte ⊕ Nat :=
  match far with
  | .data l => .inl l
  | .stall k => .inr (min k (n - 1))
  | _ => .inr 0

/-- A read of a window without PREFETCH. -/
def hwRead (acc : Access) (len w off : Nat) (far : FarAnswer) (s : State) : State :=
  let n := hwCount s w off len
  let s := hwSplit w off len s
  match hwAnswer n far with
  | .inl l => emit (.readData acc.req acc.addr (padTo len l)) (hwRun w off len none n s)
  | .inr k => spliceErr acc false (stallStatus k) k (hwRun w off len none k s)

/-- A read of a window with PREFETCH; on a miss `far` gives the bytes from the missed line on. -/
def hwPrefetch (acc : Access) (len w off : Nat) (far : FarAnswer) (s : State) : State :=
  match pfHit s w acc.addr len with
  | some (i, l) => emit (.readData acc.req acc.addr (slice l.data (acc.addr - l.addr) len)) (pfTouch i s)
  | none =>
    let o := off / 64 * 64
    let fin := match hwPlace (odGet s (hwKey w 1)) with
      | some (_, n) => n
      | none => 0
    let lim := pfReach o fin
    match hwAnswer (hwCount s w o lim) far with
    | .inl l =>
      let l := l.take lim
      let s := hwRun w o (max l.length (off + len - o)) none (hwCount s w o (max l.length (off + len - o))) s
      emit (.readData acc.req acc.addr (padTo len (l.drop (off - o)))) (pfFill w (acc.addr / 64 * 64) l s)
    | .inr k => spliceErr acc false (stallStatus k) k (hwRun w o lim none k s)

/-- A write of a window. -/
def hwWrite (acc : Access) (data : List Byte) (w off : Nat) (far : FarAnswer) (s : State) : State :=
  let len := data.length
  let n := hwCount s w off len
  let s := pfDrop w (hwSplit w off len s)
  match hwAnswer n far with
  | .inl _ => emit (.writeOk acc.req acc.addr) (hwRun w off len (some data) n s)
  | .inr k => spliceErr acc true (stallStatus k) k (hwRun w off len (some data) k s)

/-- HAWSER_ACCESS (R771 to R779, R791, R792). -/
def execHawserAccess (acc : Access) (len : Nat) (wr : Option (List Byte)) (far : FarAnswer) (s : State) :
    Host.Outcome State Fault Refusal :=
  let n := match wr with
    | some l => l.length
    | none => len
  .next (spliceFrame acc wr.isSome n (fun r s => if r ≠ .hawser then s else
    hwWindow acc wr.isSome n (fun w off s => match wr with
      | some l => hwWrite acc l w off far s
      | none => if bit (hwAttr s w) 5 then hwPrefetch acc len w off far s else hwRead acc len w off far s) (ownDrop acc.req s)) s)

/-- SPLICE_TIMEOUT (R765): 80 µs after its acceptance an unfinished request ends. -/
def execSpliceTimeout (acc : Access) (isWrite : Bool) (beats : Nat) (s : State) : Host.Outcome State Fault Refusal :=
  .next (spliceFrame acc isWrite (acc.bits / 8) (fun _ s =>
    spliceErr acc isWrite (stallStatus beats) beats (advanceTo (s.now + us 80) (ownDrop acc.req s))) s)

/-! ### Atomic sequences on Hawser (R780 to R782) -/

/-- An atomic access to a LOCKABLE window. -/
def hwAtomic (acc : Access) (wr : Bool) (f : Nat → Nat → State → State) (s : State) : State :=
  spliceFrame acc wr (acc.bits / 8) (fun r s => if r ≠ .hawser then s else
    match hwFind s acc.addr (acc.bits / 8) with
    | some (w, _) =>
      if bit (hwAttr s w) 6 then hwWindow acc wr (acc.bits / 8) f s else spliceErr acc wr 0xE0 0 (ownDrop acc.req s)
    | none => spliceErr acc wr 0x0F 0 s) s

/-- HAWSER_AMO (R780, R782). -/
def execHawserAmo (acc : Access) (op : AmoOp) (operand : Word) (far : FarAnswer) (s : State) : Host.Outcome State Fault Refusal :=
  let len := acc.bits / 8
  .next (hwAtomic acc true (fun w off s =>
    let n := hwCount s w off len
    let s := emit (.hawserLock true) (pfDrop w (hwSplit w off len s))
    match hwAnswer (2 * n) far with
    | .inl l =>
      let v := amoApply op acc.bits (leNat (padTo len l)) operand.toNat
      let s := hwRun w off len (some (leBytes len v)) n (hwRun w off len none n s)
      emit (.readData acc.req acc.addr (padTo len l)) (emit (.hawserLock false) s)
    | .inr k =>
      let s := hwRun w off len none (min k n) s
      let s := if n < k then takeFree (hwRun w off len (some (leBytes len (freeValue s))) (k - n) s) else s
      spliceErr acc true (stallStatus k) k (emit (.hawserLock false) s)) (ownDrop acc.req s))

/-- HAWSER_LR (R781, R782). -/
def execHawserLr (acc : Access) (far : FarAnswer) (s : State) : Host.Outcome State Fault Refusal :=
  .next (hwAtomic acc false (fun w off s =>
    let h : Held := { req := acc.req, addr := acc.addr, at' := s.now }
    hwRead acc (acc.bits / 8) w off far
      (emit (.hawserLock true) (pfDrop w { s with splice := { s.splice with lock := some h } }))) (ownDrop acc.req s))

/-- HAWSER_SC (R781, R782): it writes while its hart's lock for the address is held, and the lock ends. -/
def execHawserSc (acc : Access) (value : Word) (far : FarAnswer) (s : State) : Host.Outcome State Fault Refusal :=
  let len := acc.bits / 8
  let mine := s.splice.lock.any (fun l => decide (l.req = acc.req ∧ l.addr = acc.addr ∧ s.now < l.at' + us 10))
  .next (if mine then
      hwAtomic acc true (fun w off s =>
        let n := hwCount s w off len
        let data := leBytes len value.toNat
        let s := pfDrop w (hwSplit w off len s)
        lockRelease (match hwAnswer n far with
          | .inl _ => emit (.readData acc.req acc.addr (leBytes len 0)) (hwRun w off len (some data) n s)
          | .inr k => spliceErr acc true (stallStatus k) k (hwRun w off len (some data) k s))) s
    else
      spliceFrame acc true len (fun r s => if r ≠ .hawser then s else
        match hwFind s acc.addr len with
        | some (w, _) =>
          if bit (hwAttr s w) 6 then emit (.readData acc.req acc.addr (leBytes len 1)) (pfDrop w s) else spliceErr acc true 0xE0 0 s
        | none => spliceErr acc true 0x0F 0 s) (ownDrop acc.req s))

/-- LOCK_EXPIRY (R781, R784). -/
def execLockExpiry (s : State) : Host.Outcome State Fault Refusal := .next (if isUp s then lockExpire s else s)

/-! ### PCIe (R798 to R805) -/

/-- Where an outbound access goes: whether to configuration space, and its bus address. -/
def pcieBus (s : State) (addr : Nat) : Bool × Nat :=
  if 0x1000000000 ≤ addr then (false, odUse s (odKey 0x3200 9) + (addr - 0x1000000000))
  else if 0x3F000000 ≤ addr ∧ !s.start.pcieMode then (true, addr - 0x3F000000)
  else (false, odUse s (odKey 0x3200 8) + (addr - 0x30000000))

/-- Whether an outbound access has a form that its space takes: the configuration space takes 32-bit accesses only (R800). -/
def pcieForm (s : State) (addr len : Nat) : Bool := !(pcieBus s addr).1 || decide (len = 4 ∧ addr % 4 = 0)

/-- The status of a read that did not complete with data, and the beats that took effect. -/
def pcieFail (far : FarAnswer) : Nat × Nat :=
  match far with
  | .poisoned => (9, 0)
  | .refused => (0xE1, 0)
  | .stall k => (stallStatus k, k)
  | .data _ => (0, 0)

/-- A read on the link. -/
def pcieRead (acc : Access) (len : Nat) (far : FarAnswer) (s : State) : State :=
  let s := emit (.pcieReq (pcieBus s acc.addr).1 (pcieBus s acc.addr).2 len none) s
  match far with
  | .data l => emit (.readData acc.req acc.addr (padTo len l)) s
  | f => spliceErr acc false (pcieFail f).1 (pcieFail f).2 s

/-- Whether an access may be served from prefetched lines: the 64-bit window while 0x3200:0A is set. -/
def pciePrefetches (s : State) (addr : Nat) : Bool := decide (0x1000000000 ≤ addr ∧ odUse s (odKey 0x3200 0x0A) = 1)

/-- A read that may be answered from a line. -/
def pciePrefetch (acc : Access) (len : Nat) (far : FarAnswer) (s : State) : State :=
  let line := acc.addr / 64 * 64
  if line ≠ (acc.addr + len - 1) / 64 * 64 then pcieRead acc len far s else
  match pfHit s 16 acc.addr len with
  | some (i, l) => emit (.readData acc.req acc.addr (slice l.data (acc.addr - l.addr) len)) (pfTouch i s)
  | none =>
    let lim := pfReach line 0x2000000000
    let s := emit (.pcieReq false (pcieBus s line).2 lim none) s
    match far with
    | .data l =>
      emit (.readData acc.req acc.addr (padTo len (l.drop (acc.addr - line)))) (pfFill 16 line (l.take lim) s)
    | f => spliceErr acc false (pcieFail f).1 (pcieFail f).2 s

/-- A posted write on the link. -/
def pcieWrite (acc : Access) (l : List Byte) (s : State) : State :=
  let s := if 0x1000000000 ≤ acc.addr then pfDrop 16 s else s
  emit (.writeOk acc.req acc.addr) (emit (.pcieReq (pcieBus s acc.addr).1 (pcieBus s acc.addr).2 l.length (some l)) s)

/-- PCIE_OUTBOUND_ACCESS (R783, R791, R800, R801, R804). -/
def execPcieOutboundAccess (acc : Access) (len : Nat) (wr : Option (List Byte)) (far : FarAnswer) (s : State) :
    Host.Outcome State Fault Refusal :=
  let n := match wr with
    | some l => l.length
    | none => len
  .next (spliceFrame acc wr.isSome n (fun r s =>
    if r = .hawser || r = .regs || decide (n = 0) then s else
    let s := semWait acc.req acc.addr (ownDrop acc.req s)
    if !pcieForm s acc.addr n then spliceErrFree acc wr.isSome s else
    match wr with
    | some l => pcieWrite acc l s
    | none => if pciePrefetches s acc.addr then pciePrefetch acc len far s else pcieRead acc len far s) s)

/-- PCIE_INTX (R798). -/
def execPcieIntx (s : State) : Host.Outcome State Fault Refusal := .next (if isUp s then odCount (odKey 0x3200 0x0E) 1 s else s)

/-- AER_ERROR (R804). -/
def execAerError (s : State) : Host.Outcome State Fault Refusal := .next (if isUp s then sendMsg 1793 s else s)

/-- The effect of a write of EP_MSI (R801). -/
def epMsiEff (v : Nat) (hostEnabled : Bool) (s : State) : WriteRes :=
  .done (if s.start.pcieMode && hostEnabled && isUp s then emit (.msi (v % 32)) s else s)

/-- EP_MSI (R801). -/
def execEpMsi (acc : Access) (value : Word) (hostEnabled : Bool) (s : State) : Host.Outcome State Fault Refusal :=
  .next (regWriteWith (fun _ v _ t => epMsiEff v hostEnabled t) (atReg acc 0x17000040) value.toNat s)

/-! ### Bridge semaphores (R783, R784) -/

/-- Wait until a semaphore is free: while all 64 are held, the one taken first expires first. -/
def semRoom (s : State) : State :=
  if s.splice.sems.length < 64 then s else
  match s.splice.sems.foldl (fun (r : Option (Nat × Nat)) p => match p.2, r with
      | some h, some (_, t) => if h.at' < t then some (p.1, h.at') else r
      | some h, none => some (p.1, h.at')
      | none, _ => r) none with
  | some (g, _) => semExpire g s
  | none => s

/-- An AMO or LR to a PCIe window or a peripheral register: the waits, then `f`. -/
def semFrame (acc : Access) (wr : Bool) (f : Region → State → State) (s : State) : State :=
  spliceFrame acc wr (acc.bits / 8) (fun r s => if r = .hawser then s else
    f r (semRoom (semWait acc.req acc.addr (ownDrop acc.req s)))) s

/-- The value of a register that an atomic access reads. -/
def atomicOld (acc : Access) (l : Loc) (s : State) : Nat :=
  if acc.bits = 64 then locValue s l else bits (locValue s l) (8 * (acc.addr - locBase acc.addr l) + 31) (8 * (acc.addr - locBase acc.addr l))

/-- A register write whose answer, where the write is taken, is `x`. -/
def writeAnswered (eff : Nat → Nat → Access → State → WriteRes) (acc : Access) (v : Nat) (m : Loc) (x : Output) (s : State) : State :=
  let t := writeLoc eff acc v m s
  match t.out with
  | .writeOk q a :: rest => if q = acc.req ∧ a = acc.addr then emit x { t with out := rest } else t
  | _ => t

/-- An atomic read and write of a register: the read's checks, then the write's; the answer is the old value. -/
def atomicReg (eff : Nat → Nat → Access → State → WriteRes) (acc : Access) (op : AmoOp) (operand : Nat) (s : State) : State :=
  match checkAccess s acc false with
  | .ok l =>
    let old := atomicOld acc l s
    let v := amoApply op acc.bits old operand
    (match checkAccess s acc true with
     | .ok m => writeAnswered eff acc v m (.readData acc.req acc.addr (leBytes (acc.bits / 8) old)) s
     | c => checkFailed acc true s c)
  | c => checkFailed acc false s c

/-- SEMAPHORE_AMO (R783, R784), with the effects of register writes that `eff` gives. -/
def semAmo (eff : Nat → Nat → Access → State → WriteRes) (acc : Access) (op : AmoOp) (operand : Nat) (far : FarAnswer) (s : State) :
    State :=
  let len := acc.bits / 8
  semFrame acc true (fun r s =>
    if r = .regs then atomicReg eff acc op operand s
    else if !pcieForm s acc.addr len then spliceErrFree acc true s else
    let b := pcieBus s acc.addr
    let s := emit (.pcieReq b.1 b.2 len none) s
    match far with
    | .data l =>
      let old := padTo len l
      let s := if 0x1000000000 ≤ acc.addr then pfDrop 16 s else s
      emit (.readData acc.req acc.addr old)
        (emit (.pcieReq b.1 b.2 len (some (leBytes len (amoApply op acc.bits (leNat old) operand)))) s)
    | f => spliceErr acc true (pcieFail f).1 (pcieFail f).2 s) s

/-- SEMAPHORE_LR (R783, R784). -/
def execSemaphoreLr (acc : Access) (far : FarAnswer) (s : State) : Host.Outcome State Fault Refusal :=
  let len := acc.bits / 8
  .next (semFrame acc false (fun r s =>
    let h : Held := { req := acc.req, addr := acc.addr, at' := s.now }
    let s := { s with splice := { s.splice with sems := tabSet (fun _ => none) s.splice.sems (acc.addr / 64) (some h) } }
    if r = .regs then
      (match checkAccess s acc false with
       | .ok l => readLoc acc l s
       | c => checkFailed acc false s c)
    else if !pcieForm s acc.addr len then spliceErrFree acc false s
    else pcieRead acc len far (if 0x1000000000 ≤ acc.addr then pfDrop 16 s else s)) s)

/-- Whether a requester holds the semaphore of an SC. -/
def semMine (s : State) (acc : Access) : Bool :=
  (semOf s (acc.addr / 64)).any (fun h => decide (h.req = acc.req ∧ h.addr = acc.addr ∧ s.now < h.at' + us 10))

/-- SEMAPHORE_SC (R784), with the effects of register writes that `eff` gives. -/
def semSc (eff : Nat → Nat → Access → State → WriteRes) (acc : Access) (v : Nat) (s : State) : State :=
  let len := acc.bits / 8
  let mine := semMine s acc
  let code := fun (c : Nat) => Output.readData acc.req acc.addr (leBytes len c)
  spliceFrame acc true len (fun r s => if r = .hawser then s else
    let s := ownDrop acc.req s
    if !mine then emit (code 1) s
    else if r = .regs then
      (match checkAccess s acc true with
       | .ok m => writeAnswered eff acc v m (code 0) s
       | c => checkFailed acc true s c)
    else if !pcieForm s acc.addr len then spliceErrFree acc true s
    else
      let b := pcieBus s acc.addr
      let s := if 0x1000000000 ≤ acc.addr then pfDrop 16 s else s
      emit (code 0) (emit (.pcieReq b.1 b.2 len (some (leBytes len v))) s)) s

/-- SEMAPHORE_EXPIRY (R784). -/
def execSemaphoreExpiry (granule : Nat) (s : State) : Host.Outcome State Fault Refusal :=
  .next (if isUp s then semExpire granule s else s)

/-! ### Requests from the far sides (R795, R796, R801 to R804) -/

/-- The range of a target window in the layout of R523: base and size, when it is enabled. -/
def targetRange (v : Nat) : Option (Nat × Nat) := if bit v 63 then some (bits v 23 0 * 65536, bits v 47 24 * 65536) else none

/-- World tag of the far sides' requests. -/
def farTag (s : State) : Bool := decide (odUse s (odKey 0x3200 0x0F) = 1)

/-- What a read of the far sides finds: bytes, a refusal, or poison. -/
def farRead (req local' len : Nat) (s : State) : State × FarAnswer :=
  if !filterAdmits s req (farTag s) false local' len then (filterDenied req (farTag s) false local' s, .refused)
  else if !memoryOpen s req (farTag s) false local' len then
    match checkAccess s { req := req, world := farTag s, bits := 8 * len, addr := local' } false with
    | .ok l => (s, .data (leBytes len (atomicOld { req := req, world := farTag s, bits := 8 * len, addr := local' } l s)))
    | _ => (s, .refused)
  else match readRange local' len s with
    | (s, some l) => (s, .data l)
    | (s, none) => (s, .poisoned)

/-- A posted write of the far sides, with the effects of register writes that `eff` gives. -/
def farWrite (eff : Nat → Nat → Access → State → WriteRes) (req local' : Nat) (l : List (Option Byte)) (s : State) : State :=
  let n := l.length
  if !filterAdmits s req (farTag s) true local' n then filterDenied req (farTag s) true local' s
  else if memoryOpen s req (farTag s) true local' n then (memoryWrite req true local' l s).1
  else if regionOf local' n = some .regs ∧ l.all Option.isSome then
    regWriteWith eff { req := req, world := farTag s, bits := 8 * n, addr := local' } (leNat (l.filterMap id)) s
  else s

/-- The inbound window that serves a request: window and local address (R801, R802). -/
def inWindow (s : State) (busAddr len : Nat) (wr : Bool) : Option Nat :=
  firstSome (fun i =>
    let v := odGet s (odKey (0x3220 + i) 1)
    let bus := odGet s (odKey (0x3220 + i) 2)
    match targetRange v with
    | some (b, n) => if bus ≤ busAddr ∧ busAddr + len ≤ bus + n ∧ (!wr || bit v 62) then some (b + (busAddr - bus)) else none
    | none => none) (List.range (if s.start.pcieMode then 2 else 8))

/-- An inbound request (R802 to R804). -/
def pcieInbound (eff : Nat → Nat → Access → State → WriteRes) (busAddr len : Nat) (wr : Option (List (Option Byte))) (s : State) :
    State :=
  if !isUp s then s else
  match wr with
  | some l =>
    if !s.start.pcieMode ∧ busAddr = odUse s (odKey 0x3200 0x10) then sendMsg (1796 + ((l.head?.bind id).getD 0).toNat % 4) s
    else match inWindow s busAddr l.length true with
      | some a => farWrite eff 0x38 a l s
      | none => emit (.farAnswer .refused) s
  | none => match inWindow s busAddr len false with
    | some a => (match farRead 0x38 a len s with
      | (s, r) => emit (.farAnswer r) s)
    | none => emit (.farAnswer .refused) s

/-! ### The far master (R794 to R796) -/

/-- FAR_MASTER_REQUEST (R794). -/
def execFarMasterRequest (s : State) : Host.Outcome State Fault Refusal :=
  .next (if isUp s ∧ odUse s (odKey 0x3200 2) = 1 then grantNow { s with splice := { s.splice with farReq := true } } else s)

/-- FAR_MASTER_RELEASE (R794). -/
def execFarMasterRelease (s : State) : Host.Outcome State Fault Refusal :=
  .next (if !isUp s || !s.splice.farReq then s else
    let s := if s.splice.granted then emit (.hawserGrant false) s else s
    { s with splice := { s.splice with farReq := false, granted := false } })

/-- The local address of a far address (R795). -/
def farLocal (s : State) (farAddr len : Nat) (wr : Bool) : Option Nat :=
  let v := odGet s (odKey 0x3200 5)
  let base := odGet s (odKey 0x3200 6)
  match targetRange v with
  | some (b, n) => if base ≤ farAddr ∧ farAddr + len ≤ base + n ∧ (!wr || bit v 62) then some (b + (farAddr - base)) else none
  | none => none

/-- A cycle of the far master (R795, R796). A read that the filters refuse returns bytes that the spec does not give. -/
def farCycle (eff : Nat → Nat → Access → State → WriteRes) (farAddr len : Nat) (wr : Option (List (Option Byte))) (s : State) : State :=
  if !isUp s || !s.splice.granted then s else
  match wr with
  | some l => (match farLocal s farAddr l.length true with
    | some a => farWrite eff 0x39 a l s
    | none => regCount 0x17000038 1 s)
  | none => match farLocal s farAddr len false with
    | none => emit (.farAnswer (.data (List.replicate len 0xFF))) (regCount 0x17000038 1 s)
    | some a => match farRead 0x39 a len s with
      | (s, .data l) => emit (.farAnswer (.data l)) s
      | (s, .poisoned) => emit (.farAnswer (.data (zeros len))) (spliceLatch 0x39 9 false 0 a s)
      | (s, _) => emit (.farAnswer (.data ((List.range len).map (Config.freeByte s.free)))) (takeFree s)

/-! ### Polls (R786 to R789) -/

/-- Field of poll entry `e`. -/
def pollField (l : List Byte) (e off len : Nat) : Nat := leAt l (32 * e + off) len

/-- The poll list. -/
def pollList (s : State) : List Byte := blobGet s (odKey 0x3200 7)

/-- The state of poll entry `e`. -/
def getPoll (s : State) (e : Nat) : Poll := tabGet (fun _ => {}) s.splice.polls e

/-- Replace the state of a poll entry. -/
def putPoll (e : Nat) (p : Poll) (s : State) : State :=
  { s with splice := { s.splice with polls := tabSet (fun _ => {}) s.splice.polls e p } }

/-- The bytes that a poll read finds, from the far side or from a register. -/
def pollFetch (addr : Nat) (far : FarAnswer) (s : State) : State × Option Nat :=
  let a : Access := { req := 0x3A, world := false, bits := 32, addr := addr }
  if !filterAdmits s 0x3A false false addr 4 then (filterDenied 0x3A false false addr s, none) else
  match spliceRangeOf addr 4 with
  | some .regs => (match checkAccess s a false with
    | .ok l => (s, some (atomicOld a l s))
    | _ => (s, none))
  | some .hawser => (match hwFind s addr 4 with
    | none => (s, none)
    | some (w, off) =>
      let n := hwCount s w off 4
      match hwAnswer n far with
      | .inl l => (hwRun w off 4 none n (hwSplit w off 4 s), some (leNat (padTo 4 l)))
      | .inr k => (hwRun w off 4 none k (hwSplit w off 4 s), none))
  | some _ =>
    let s := emit (.pcieReq (pcieBus s addr).1 (pcieBus s addr).2 4 none) s
    (match far with
     | .data l => (s, some (leNat (padTo 4 l)))
     | _ => (s, none))
  | none => (s, none)

/-- A change of the match state: recorded, announced; into matching it counts and sets the knot (R788). -/
def pollChange (e : Nat) (hit : Bool) (s : State) : State :=
  let p := getPoll s e
  let c := p.count + b2n hit
  let s := sendMsg (1728 + e) (putPoll e { p with hit := hit, count := c, gtime := gnow s } s)
  let k := pollField (pollList s) e 18 2
  if hit ∧ k < 4096 ∧ knotSignals s k 0x103 then knotRaise k c s else s

/-- POLL_READ (R787 to R789): PERIOD after the previous read of the entry started, once the bus is free. -/
def execPollRead (entry : Fin 64) (far : FarAnswer) (s : State) : Host.Outcome State Fault Refusal :=
  let e := entry.val
  let l := pollList s
  let per := pollField l e 16 2
  let addr := pollField l e 0 8
  .next (if !isUp s || per = 0 || decide (l.length < 32 * (e + 1)) then s else
    let s := match (getPoll s e).last with
      | some t => advanceTo (t + us per) s
      | none => s
    let s := if spliceRangeOf addr 4 = some .hawser then lockWait 0x3A s else s
    if s.splice.granted ∧ spliceRangeOf addr 4 = some .hawser then s else
    let s := putPoll e { getPoll s e with last := some s.now } s
    match pollFetch addr far s with
    | (s, none) => sendMsg (1728 + e) (putPoll e { getPoll s e with err := true } s)
    | (s, some v) =>
      let p := getPoll s e
      let hit := decide (v &&& pollField l e 8 4 = pollField l e 12 4)
      let s := putPoll e { p with value := v, base := false } s
      if (if p.base then hit else hit != p.hit) then pollChange e hit s else s)

/-! ### Entries (R770, R786, R806) -/

/-- Window and subindex of an entry of 0x3210 to 0x321F. -/
def hwOfKey (k : Nat) : Option (Nat × Nat) := if odKey 0x3210 0 ≤ k ∧ k < odKey 0x3220 0 then some (k / 256 - 0x3210, k % 256) else none

/-- Reserved bits of a placement and of an attribute word are 0. -/
def hwFormat (sub v : Nat) : Bool :=
  if sub = 1 then decide (v &&& 0x7000F000 = 0) else if sub = 2 then decide (v % 65536 = 0) else decide (v &&& 0x08808C00 = 0)

/-- The rule of R770 for window `w` with the given placement and attributes. -/
def hwOk (s : State) (w place attr : Nat) : Bool :=
  match hwPlace place with
  | none => true
  | some r =>
    decide (r.1 + r.2 ≤ 0x10000000) && decide (bits attr 19 16 ≠ 0 ∧ bits attr 31 28 ≠ 0) &&
    (decide (odUse s (odKey 0x3200 2) = 0) || decide (bits attr 1 0 < 2)) &&
    (List.range 16).all (fun m => decide (m = w) || match hwPlace (odGet s (hwKey m 1)) with
      | some q => decide (q.1 + q.2 ≤ r.1 ∨ r.1 + r.2 ≤ q.1)
      | none => true)

/-- A window in the layout of R523. -/
def targetOk (v : Nat) : Bool :=
  decide (v / 2 ^ 48 % 2 ^ 14 = 0) &&
  (match targetRange v with
   | some r => decide (r.2 ≠ 0 ∧ r.1 + r.2 ≤ 2 ^ 40)
   | none => true)

/-- Whether an address lies in a window or register block of Splice (R786). -/
def pollAddrOk (s : State) (a : Nat) : Bool :=
  match spliceRangeOf a 4 with
  | some .hawser => (hwFind s a 4).isSome
  | some _ => true
  | none => false

/-- The rule of R786 for the poll list. -/
def pollOk (s : State) (l : List Byte) : Bool :=
  decide (l.length % 32 = 0 ∧ l.length ≤ 2048) && (List.range (l.length / 32)).all (fun e =>
    let f := pollField l e
    let k := f 18 2
    (slice l (32 * e + 20) 12).all (fun b => b = 0) && decide (f 0 8 % 4 = 0 ∧ f 16 2 ≠ 1 ∧ (k < 4096 ∨ k = 0xFFFF)) &&
    (decide (f 16 2 = 0) || (pollAddrOk s (f 0 8) && (decide (k = 0xFFFF) || knotSignals s k 0x103))))

/-- The range rules of chapter 18. -/
def spliceRange (s : State) (k v : Nat) (blob : List Byte) : Bool :=
  if k = odKey 0x3200 7 then pollOk s blob
  else if k = odKey 0x3200 5 then targetOk v
  else if odKey 0x3220 0 ≤ k ∧ k < odKey 0x3228 0 then k % 256 ≠ 1 || targetOk v
  else match hwOfKey k with
    | some (w, sub) =>
      hwFormat sub v &&
      hwOk s w (if sub = 1 then v else odGet s (hwKey w 1)) (if sub = 3 then v else hwAttr s w)
    | none => true

/-- What follows an accepted write: a new poll list starts every entry anew. -/
def spliceApply (k : Nat) (s : State) : State := if k = odKey 0x3200 7 then { s with splice := { s.splice with polls := [] } } else s

end Sys2Proof.Machine
end

