-- ==== Sys2Proof/Machine/FreezeFrame.lean ====
section
/-! DEFINITION. Freeze-frame (20): the latch of a capture, the end of a capture, records, release, and the commands on them. -/

namespace Sys2Proof.Machine

/-! ### The snapshot catalogue (R853) -/

/-- Insert a number into an ascending list. -/
def insertAsc (n : Nat) : List Nat → List Nat
  | [] => [n]
  | m :: t => if n < m then n :: m :: t else if n = m then m :: t else m :: insertAsc n t

/-- Instance pages that exist. -/
def pagesNow (s : State) : List Nat := (List.range 256).filter (fun n => decide ((getInst s n).state ≠ 0))

/-- The registers of one row, of the pages of a list when the row belongs to the instance pages. -/
def rowRegs (pages : List Nat) (r : RegRow) : List Nat :=
  let firsts := if 0x12000000 ≤ r.base ∧ r.base < 0x13000000 then
      (if r.base - 0x12000000 < 0x28 then List.range 256 else pages).map (fun i => r.base + i * 0x10000)
    else (List.range r.n1).map (fun i => r.base + i * r.s1)
  firsts.flatMap (fun a => (List.range r.n2).map (fun j => a + j * r.s2))

/-- The registers that a capture latches, ascending. -/
def snapRegs (pages : List Nat) : List Nat :=
  let status := (blockBases.map (fun p => p.1 + 4)) ++ (List.range 256).map (fun n => instPage n + 4)
  ((regTable.filter RegRow.snap).flatMap (rowRegs pages) ++ status).foldl (fun l n => insertAsc n l) []

/-- The values of registers at this moment, those that are not zero. -/
def snapValues (s : State) (regs : List Nat) : Tab Word :=
  (regs.map (fun a => (a, BitVec.ofNat 64 (match regAt a with | some (r, x) => locValue s (.reg r x) | none => 0)))).filter
    (fun p => decide (p.2 ≠ 0))

/-- The values of bank `b`. -/
def bankTab (s : State) (b : Nat) : Tab Word := if b = 0 then s.frz.bank0 else s.frz.bank1

/-- A value of bank `b`. -/
def bankAt (s : State) (b a : Nat) : Nat := (tabGet (fun _ => (0 : Word)) (bankTab s b) a).toNat

/-- Replace the values of bank `b`. -/
def putBank (b : Nat) (t : Tab Word) (s : State) : State :=
  { s with frz := if b = 0 then { s.frz with bank0 := t } else { s.frz with bank1 := t } }

/-- The instance pages of bank `b`. -/
def bankPages (s : State) (b : Nat) : List Nat := if b = 0 then s.frz.pages0 else s.frz.pages1

/-! ### The latch and the end of a capture (R838 to R842) -/

/-- At the target every snapshot register is latched. -/
def frzLatch (s : State) : State :=
  match s.frz.pending with
  | none => s
  | some c =>
    if c.latched.isSome then s else
    let s := gtimeReach c.target s
    let pages := pagesNow s
    let s := putBank c.bank (snapValues s (snapRegs pages)) s
    let f := if c.bank = 0 then { s.frz with pages0 := pages } else { s.frz with pages1 := pages }
    { s with frz := { f with pending := some { c with latched := some (devCode s.dev) } } }

/-- FRZ_LATCH (R838, R839). -/
def execFrzLatch (s : State) : Host.Outcome State Fault Refusal := .next (frzLatch s)

/-- The device state at the latch as RECORD shows it, and the record of a capture (R848). Registers of the catalogue come from the
bank, everything else from the state. -/
def frzRecordOf (s : State) (c : Capture) (missing : Nat) : List Byte :=
  let v := bankAt s c.bank
  let sdg := v 0x10100020
  let body := leBytes 8 c.target ++ leBytes 1 c.sources ++ leBytes 1 c.bank ++ leBytes 1 (c.latched.getD (devCode s.dev)) ++
    leBytes 1 (if s.start.fromRestart then 6 else 0) ++ leBytes 4 (odGet s (odKey 0x2500 5) + odGet s (odKey 0x2500 6)) ++
    leBytes 1 (bits sdg 23 16) ++ leBytes 1 (bits sdg 15 8) ++ leBytes 1 s.sdg.firstClass ++ leBytes 1 missing ++
    leBytes 4 (v 0x10300024) ++ (List.range 8).flatMap (fun i => leBytes 4 (v (0x10100040 + 4 * i))) ++ leBytes 4 (v 0x10300028) ++
    (List.range 4).flatMap (fun i => leBytes 1 (markOf s i)) ++ leBytes 4 (v 0x10400040) ++ leBytes 8 (v 0x10400048) ++
    leBytes 4 (v 0x11000024) ++ leBytes 1 (v 0x11000028) ++ leBytes 1 s.net.ptp ++ leBytes 2 (overdueMask s) ++
    leBytes 4 (odGet s (odKey 0x2801 1)) ++ leBytes 4 (odGet s (odKey 0x2D00 1) + odGet s (odKey 0x2D00 2)) ++
    leBytes 4 (odGet s (odKey 0x2300 7))
  padTo 124 body ++ leBytes 4 (crc32c (padTo 124 body))

/-- The block of an address, for the confirmation of a latch. -/
def confirms (missing : List Nat) (a : Nat) : Bool := !missing.any (fun b => decide (blockOf a = some b))

/-- A capture ends: blocks that have not confirmed are missing, and their copies read 0. -/
def frzFill (unconfirmed : List Nat) (s : State) : State :=
  match s.frz.pending with
  | none => s
  | some c =>
    if c.latched.isNone then s else
    let lost := (unconfirmed.filter (fun b => decide (blockCode b ≠ 0))).foldl (fun l n => insertAsc n l) []
    let n := min 255 lost.length
    let s := putBank c.bank ((bankTab s c.bank).filter (fun p => confirms lost p.1)) s
    let info := 0xFF000000 + c.sources * 65536 + (match lost with | b :: _ => blockCode b | [] => 0) * 256 + n
    let r := frzRecordOf s c n
    let f := { s.frz with pending := none, full := s.frz.full ||| 2 ^ c.bank, recordDue := s.frz.recordDue ++ [(c.bank, r)] }
    let f := if c.bank = 0 then { f with target0 := c.target, info0 := info, change0 := (f.change0 + 1) % 2 ^ 32 }
      else { f with target1 := c.target, info1 := info, change1 := (f.change1 + 1) % 2 ^ 32 }
    let s := sendMsg 1809 { s with frz := f }
    match s.net.stepDue with
    | some d => gtimeStep d { s with net := { s.net with stepDue := none } }
    | none => s

/-- FRZ_BANK_FULL (R840 to R842). -/
def execFrzBankFull (unconfirmed : List Nat) (s : State) : Host.Outcome State Fault Refusal := .next (frzFill unconfirmed s)

/-- The record slot `i`: 128 zero bytes when it is free. -/
def recordSlot (s : State) (i : Nat) : List Byte := tabGet (fun _ => zeros 128) s.frz.records i

/-- The lowest free record slot. -/
def freeSlot (s : State) : Option Nat := (List.range 8).find? (fun i => decide (recordSlot s i = zeros 128))

/-- Write the record that is due (R847). -/
def writeRecord (s : State) : State :=
  match s.frz.recordDue with
  | [] => s
  | (b, r) :: t =>
    let s := { s with frz := { s.frz with recordDue := t } }
    match freeSlot s with
    | none => odCount (odKey 0x2300 8) 1 s
    | some i =>
      let f := { s.frz with records := tabSet (fun _ => zeros 128) s.frz.records i r }
      { s with frz := if b = 0 then { f with info0 := putBits f.info0 31 24 i } else { f with info1 := putBits f.info1 31 24 i } }

/-- FRZ_RECORD (R847, R848). -/
def execFrzRecord (s : State) : Host.Outcome State Fault Refusal := .next (writeRecord s)

/-! ### Triggers, release, clear (R833, R835, R845, R850) -/

/-- FRZ_TRIG_PIN (R833): high for 1 µs after having been low for at least 1 µs. -/
def execFrzTrigPin (lowNs highNs : Nat) (s : State) : Host.Outcome State Fault Refusal :=
  .next (if us 1 ≤ lowNs ∧ us 1 ≤ highNs then frzTrigger 1 s else s)

/-- FRZ_SCHEDULED_ACCEPT (R835). -/
def execFrzScheduledAccept (s : State) : Host.Outcome State Fault Refusal :=
  .next (match s.frz.scheduled with
    | none => s
    | some v =>
      let s := gtimeReach (v - 2000) s
      let s := { s with frz := { s.frz with scheduled := none } }
      if frzOpen 0 s then frzAccept 0 v s else s)

/-- Free FULL banks of a mask. -/
def frzFree (mask : Nat) (s : State) : State := { s with frz := { s.frz with full := clearMask s.frz.full (mask % 4) } }

/-- A write to a register of the FRZ block. -/
def frzEff (a v : Nat) (s : State) : WriteRes :=
  if a = 0x10200080 then .done (if bit v 0 then frzTrigger 5 s else s)
  else if a = 0x10200084 then .done (frzFree v s)
  else .done (genericWrite a v s)

/-- FRZ_SW_TRIG (R833). -/
def execFrzSwTrig (acc : Access) (value : Word) (s : State) : Host.Outcome State Fault Refusal :=
  .next (regWriteWith (fun a v _ t => frzEff a v t) (atReg acc 0x10200080) value.toNat s)

/-- The range rules of R835 and R854. -/
def frzRange (s : State) (k v : Nat) : Bool :=
  if k = odKey 0x2300 2 then decide (v &&& 0x23 = v)
  else if k = odKey 0x2300 3 then decide (s.gtime + 2000 ≤ v)
  else true

/-- A clear waits for the record that is due (R850). -/
def frzBusy (s : State) (k : Nat) : Bool := decide (k = odKey 0x2300 9) && decide (s.frz.recordDue ≠ [])

/-- What follows an accepted write of an entry of 0x2300. -/
def frzApply (k v : Nat) (s : State) : State :=
  if k = odKey 0x2300 1 then frzTrigger 0 s
  else if k = odKey 0x2300 3 then { s with frz := { s.frz with scheduled := some v } }
  else if k = odKey 0x2300 5 then frzFree v s
  else if k = odKey 0x2300 9 then { s with frz := { s.frz with records := [] } }
  else s

/-! ### Bank entries (R846) -/

/-- The items of one register: one, or two for a 64-bit register, low half first. -/
def bankItems (s : State) (b a : Nat) : List Byte :=
  match regAt a, blockOf a with
  | some (r, _), some base =>
    let v := bankAt s b a
    let unit := if 0x12000000 ≤ base ∧ base < 0x13000000 then (base - 0x12000000) / 0x10000 else 0
    let item := fun (o w : Nat) => leBytes 1 (blockCode base) ++ [0] ++ leBytes 2 unit ++ leBytes 4 o ++ leBytes 4 w
    if r.wide then item (a - base) (v % 2 ^ 32) ++ item (a - base + 4) (v / 2 ^ 32) else item (a - base) v
  | _, _ => []

/-- Entry 0x2301:(b + 1). -/
def bankBlob (s : State) (b : Nat) : List Byte := (snapRegs (bankPages s b)).flatMap (bankItems s b)

end Sys2Proof.Machine
end

