-- ==== Sys2Proof/Machine/Sheepdog.lean ====
section
/-! DEFINITION. Sheepdog: entry to RESTART, the acknowledgement, the safety pins, SafetyStatus, watchdogs, monitors and self-tests,
and the commands of chapter 04. -/

namespace Sys2Proof.Machine

/-! ### Entry to RESTART (R177, R218, R138) -/

/-- Splice at entry to RESTART: the Hawser outputs go idle, PCIE_PERST_N is asserted in root-port mode, and every semaphore, lock
and prefetch line is dropped (R805). -/
def spliceRestart (s : State) : State :=
  let low := !s.start.pcieMode
  let s := if s.splice.lock.isSome then emit (.hawserLock false) s else s
  let s := if low then emit (.pciePerst true) s else s
  { s with splice := { perst := low } }

/-- What a reset of the management controller leaves: the failed-PROVE counts, the lockouts and the credentials. Sessions, transfers
and a store in progress end (R138, R105). -/
def leashHeld (l : Leash) : Leash := { fails := l.fails, lockout := l.lockout, creds := l.creds, seen := l.seen }

/-- Enter RESTART for a cause, with the kind of start asked for: one SafetyStatus frame, awaited for at most 1 ms; the
management controller is reset, and freeze-frame takes no more triggers (R852). -/
def enterRestart (cause : Nat) (warm : Bool) (s : State) : State :=
  let s := endBrace s
  let s := ssRequest (ms 1) (spliceRestart (setDev .restart s))
  let wait := if s.sdg.clkStopped then none else some (s.now + ms 1)
  { s with
    start := { s.start with cause := cause, wantWarm := warm, readyBy := none, readySeen := false }
    sdg := { s.sdg with restartWait := wait, restartPending := false, holdAt := none, ackFall := none, ackMissed := false }
    pwr := { s.pwr with ctrlPending := true, retention := false }
    frz := { s.frz with on := false }
    leash := leashHeld s.leash }

/-! ### Failed starts (R19, R247, R250 to R252) -/

/-- Enter FAILED and latch it with its reason. -/
def enterFailed (reason : Nat) (s : State) : State :=
  let s := setDev .failed s
  odPut (odKey 0x2500 0x0A) reason
    { s with
      start := { s.start with failedReason := reason, readyBy := none, readySeen := false }
      frz := { s.frz with on := false, pending := none }
      leash := { s.leash with up := true }
      sdg := { s.sdg with ssFlight := none, ssBound := none, restartWait := none } }

/-- A start has failed at a step: the step, and the failed-cold count of a cold start (R250). -/
def failCount (step : Nat) (s : State) : State :=
  let cold := decide (s.dev = .coldStart)
  let n := s.start.failedCold + b2n cold
  odPut (odKey 0x2500 0x0E) step
    (odPut (odKey 0x2500 7) n { s with start := { s.start with failedCold := n, forceCold := s.start.forceCold || !cold } })

/-- A start step fails: with a failed unit to FAILED; otherwise to RESTART and a cold start, or to FAILED at the second failed cold
start in a row. -/
def startFailed (step : Nat) (unit : Bool) (s : State) : State :=
  let s := failCount step s
  if unit then enterFailed 2 s else if 2 ≤ s.start.failedCold then enterFailed 3 s else enterRestart 8 false s

/-! ### Alarms as they arrive -/

/-- ALARM (R165 to R174, R889): the alarms that blocks report in one CLK_SDG cycle. -/
def execAlarm (numbers : List Nat) (s : State) : Host.Outcome State Fault Refusal := .next (raiseAll numbers s)

/-- ALARM_LINE (R164). -/
def execAlarmLine (equalNs : Nat) (s : State) : Host.Outcome State Fault Refusal :=
  .next (if 1000 ≤ equalNs then raiseAlarm 0x51 s else s)

/-- SDG_SELF (R167). -/
def execSdgSelf (s : State) : Host.Outcome State Fault Refusal := .next (raiseAlarm 0xA2 s)

/-! ### SAFE_ACK_N (R175, R176, R184) -/

/-- End of the SAFE_ACK wait. -/
def ackDeadline (s : State) : Nat := (s.sdg.holdAt.getD 0) + ms (odUse s (odKey 0x2200 0x0C))

/-- SAFE_ACK_N_CHANGE (R184): the filtered level changes; in SAFE_HOLD a falling edge starts the 100 µs of R175. -/
def execSafeAckNChange (low : Bool) (s : State) : Host.Outcome State Fault Refusal :=
  .next (if s.sdg.ackLow = low then s else
    let fall := if low && s.dev = .safeHold then some s.now else none
    { s with sdg := { s.sdg with ackLow := low, ackFall := fall } })

/-- SAFE_ACK_CONFIRMED (R175, R176). -/
def execSafeAckConfirmed (s : State) : Host.Outcome State Fault Refusal :=
  .next (match s.sdg.ackFall with
    | some t =>
      if s.dev = .safeHold ∧ s.sdg.restartPending ∧ !s.sdg.ackMissed ∧ t + us 100 ≤ ackDeadline s then
        enterRestart 5 true (advanceTo (t + us 100) s)
      else s
    | none => s)

/-- SAFE_ACK_MISSING (R176). -/
def execSafeAckMissing (s : State) : Host.Outcome State Fault Refusal :=
  let acked := match s.sdg.ackFall with
    | some t => decide (t + us 100 ≤ ackDeadline s)
    | none => false
  .next (if s.dev = .safeHold ∧ s.sdg.restartPending ∧ !s.sdg.ackMissed ∧ !acked then
      let s := advanceTo (ackDeadline s) s
      raiseAlarm 0x95 { s with sdg := { s.sdg with ackMissed := true } }
    else s)

/-- RESTART_FRAME_WAIT_END (R177): the frame is sent, or 1 ms has passed and it is cut off. -/
def execRestartFrameWaitEnd (s : State) : Host.Outcome State Fault Refusal :=
  .next (match s.sdg.restartWait with
    | some t =>
      if s.dev = .restart then
        let s := if s.sdg.ssFlight.isSome || s.sdg.ssBound.isSome then advanceTo t s else s
        { s with sdg := { s.sdg with restartWait := none, ssFlight := none, ssBound := none } }
      else s
    | none => s)

/-! ### Pins and SafetyStatus (R180 to R190) -/

/-- The ALIVE pins of a running device toggle: they are complements, and the first toggle drives ALIVE_A high (R180, R181). -/
def toggleAlive (s : State) : State :=
  let a := if s.sdg.aliveA = s.sdg.aliveB then true else !s.sdg.aliveA
  if isRunning s then setPins true a (!a) s else s

/-- ALIVE_TOGGLE (R180, R181): 500 µs after the previous toggle; the first one drives ALIVE_A high. -/
def execAliveToggle (s : State) : Host.Outcome State Fault Refusal :=
  .next (if isRunning s && !s.sdg.clkTripped then
      let s := advanceTo (s.sdg.lastToggle + us 500) s
      toggleAlive { s with sdg := { s.sdg with lastToggle := s.now } }
    else s)

/-- SAFETYSTATUS_PERIODIC (R185, R190): one period after the start of the previous frame. -/
def execSafetyStatusPeriodic (s : State) : Host.Outcome State Fault Refusal :=
  .next (if isUp s then ssRequest (ms 2) (advanceTo (s.sdg.ssLast + ms (odUse s (odKey 0x2200 0x0A))) s) else s)

/-- SAFETYSTATUS_TX_DONE (R188): the counter advances; a frame asked for meanwhile starts. -/
def execSafetyStatusTxDone (s : State) : Host.Outcome State Fault Refusal :=
  .next (match s.sdg.ssFlight with
    | some _ =>
      let c := getCan s (ssCtrl s)
      let s := putCan (ssCtrl s) { c with tec := c.tec - 1 } s
      let s := { s with sdg := { s.sdg with ssFlight := none, ssCounter := (s.sdg.ssCounter + 1) % 16 } }
      if s.sdg.ssBound.isSome && (isUp s || s.dev = .restart) && canRunning s (ssCtrl s) then ssStart s else s
    | none => s)

/-- SAFETY_MSG_FAIL (R190): a frame has not started within its bound; in RESTART that raises nothing. -/
def execSafetyMsgFail (s : State) : Host.Outcome State Fault Refusal :=
  .next (match s.sdg.ssBound with
    | some t =>
      if isUp s then
        let s := advanceTo t s
        raiseAlarm 0xA1 { s with sdg := { s.sdg with ssBound := none } }
      else s
    | none => s)

/-! ### Watchdogs (R191 to R194) -/

/-- Replace a watchdog. -/
def putWdg (n : Nat) (w : Wdg) (s : State) : State := { s with sdg := { s.sdg with wdg := tabSet (fun _ => {}) s.sdg.wdg n w } }

/-- Time from an accepted kick to the opening of the window, ns. -/
def wdgOpens (s : State) (n : Nat) : Nat := us (50 * bits (odUse s (odKey 0x2202 (n + 1))) 31 16)

/-- Time from an accepted kick to the close of the window, ns. -/
def wdgCloses (s : State) (n : Nat) : Nat := us (50 * bits (odUse s (odKey 0x2202 (n + 1))) 15 0)

/-- An accepted kick: SEQ advances, the window restarts, and the watchdog is bound to the pair or core that kicked
(07_redundant_execution.md, Splitting and rejoining at run time). -/
def wdgAccept (n : Nat) (acc : Access) (s : State) : State :=
  let w := getWdg s n
  let unit := some (acc.req - 16)
  putWdg n { w with running := true, seq := (w.seq + 1) % 65536, from' := s.now, open' := false, expired := false, unit := unit } s

/-- A kick of watchdog `n` with a value. -/
def wdgKickEff (n v : Nat) (acc : Access) (s : State) : WriteRes :=
  let w := getWdg s n
  let good := decide (v % 65536 = (w.seq + 1) % 65536)
  .done (
    if odUse s (odKey 0x2202 (n + 1)) = 0 then s
    else if !w.running then
      if n = 0 then s else if v % 65536 = 1 then wdgAccept n acc s else raiseAlarm (0x70 + n) s
    else if w.expired then (if good then wdgAccept n acc s else raiseAlarm (0x70 + n) s)
    else if good && (w.open' || decide (w.from' + wdgOpens s n ≤ s.now)) then wdgAccept n acc s
    else raiseAlarm (0x70 + n) s)

/-- WDG_KICK (R191 to R194). -/
def execWdgKick (n : Fin 16) (acc : Access) (value : Word) (s : State) : Host.Outcome State Fault Refusal :=
  .next (regWriteWith (fun _ v c t => wdgKickEff n.val v c t) (atReg acc (0x10100100 + 8 * n.val)) value.toNat s)

/-- WDG_WINDOW_OPEN (R191). -/
def execWdgWindowOpen (n : Fin 16) (s : State) : Host.Outcome State Fault Refusal :=
  let w := getWdg s n.val
  .next (if blocksOn s && w.running && !w.expired then
      putWdg n.val { w with open' := true } (advanceTo (w.from' + wdgOpens s n.val) s)
    else s)

/-- WDG_WINDOW_CLOSE (R192). -/
def execWdgWindowClose (n : Fin 16) (s : State) : Host.Outcome State Fault Refusal :=
  let w := getWdg s n.val
  .next (if blocksOn s && w.running && !w.expired then
      raiseAlarm (0x70 + n.val) (putWdg n.val { w with open' := false, expired := true } (advanceTo (w.from' + wdgCloses s n.val) s))
    else s)

/-- The effect of a write to SW_ALARM. -/
def swAlarmEff (v : Nat) (s : State) : WriteRes := .done (if v % 2 = 1 then raiseAlarm 0x80 s else s)

/-- SW_ALARM (R166). -/
def execSwAlarm (acc : Access) (value : Word) (s : State) : Host.Outcome State Fault Refusal :=
  .next (regWriteWith (fun _ v _ t => swAlarmEff v t) (atReg acc 0x10100060) value.toNat s)

/-! ### Monitors and self-tests (R160, R183, R195, R196) -/

/-- Nominal count of a monitored clock and its window in percent: cycles in 8 µs of CLK_APP, SAFE, PACK, CIM, GFX, FAB, DRAM, PER,
the CAN clock, the Whistle clock and the 25 MHz CLK_AON; for the 32.768 kHz clock its frequency over 1 ms in Hz, 0 when it
stopped. -/
def clockNominal (n : Nat) : Nat × Nat :=
  match n with
  | 0 => (17600, 3) | 1 => (8000, 3) | 2 => (12000, 3) | 3 => (6400, 3) | 4 => (8800, 3) | 5 => (8000, 3) | 6 => (8536, 3)
  | 7 => (1600, 3) | 8 => (640, 3) | 9 => (32, 3) | 10 => (200, 5) | _ => (32768, 1)

/-- CLOCK_MON (R195). -/
def execClockMon (clock : Fin 12) (count : Nat) (s : State) : Host.Outcome State Fault Refusal :=
  let c := clockNominal clock.val
  .next (if c.1 * (100 - c.2) ≤ count * 100 ∧ count * 100 ≤ c.1 * (100 + c.2) then s else raiseAlarm 0x40 s)

/-- The CLK_AON monitor trips: it drives the pins low and holds them there (R183). -/
def clkTrip (freq : Nat) (s : State) : State :=
  setPins false false false { s with sdg := { s.sdg with clkTripped := true, clkStopped := decide (freq = 0) } }

/-- CLK_SDG_MONITOR (R183, R195): CLK_SDG at `freq` for `forNs`. The monitor itself drives the pins; a running Sheepdog also records
CLOCK_MON. -/
def execClkSdgMonitor (freq forNs : Nat) (s : State) : Host.Outcome State Fault Refusal :=
  .next (if us 50 ≤ forNs ∧ (freq < 19500000 ∨ 20500000 < freq) ∧ s.dev ≠ .off then
      raiseAlarm 0x40 (clkTrip freq s)
    else s)

/-- LATENT_TEST (R196). -/
def execLatentTest (failing : List (Fin 7)) (s : State) : Host.Outcome State Fault Refusal :=
  .next (if isRunning s && s.sdg.enteredOp then
      let s := advanceTo s.sdg.latentNext s
      let s := setLatentNext (s.sdg.latentNext + ms (odUse s (odKey 0x2200 0x0D))) s
      if failing = [] then s else raiseAlarm 0xA0 s
    else s)

/-- FABRIC_TIMEOUT (R160). -/
def execFabricTimeout (waitedNs : Nat) (s : State) : Host.Outcome State Fault Refusal :=
  .next (if us 100 ≤ waitedNs ∧ blocksOn s then raiseAlarm 0x50 s else s)

end Sys2Proof.Machine
end

