-- ==== Sys2Proof/Machine/Lockstep.lean ====
section
/-! DEFINITION. The safety cluster's pairs: mismatch reactions, release, hand-overs, and the commands of chapter 07 on them. -/

namespace Sys2Proof.Machine

/-- Whether pair `p` is joined. -/
def joined (s : State) (p : Nat) : Bool := !bit s.lock.split p

/-- The safety core of a requester. -/
def safetyCore (req : Nat) : Nat := req - 16

/-- Release a unit: core `c`, with its checker when its pair is joined, at an address. -/
def releaseUnit (c addr : Nat) (s : State) : State :=
  let mask := if joined s (c / 2) then 3 * 2 ^ (c / 2 * 2) else 2 ^ c
  emit (.release (16 + c) addr)
    { s with lock := { s.lock with running := s.lock.running ||| mask, entry := tabSet (fun _ => 0) s.lock.entry c addr } }

/-- The release entry of a core (0x3501:0C to :13). -/
def releaseEntry (s : State) (c : Nat) : Nat := odUse s (odKey 0x3501 (0x0C + c))

/-! ### Mismatch (R303 to R307) -/

/-- Reaction FAULT: the pair stays stopped and LOCKSTEP_Pp is raised. -/
def pairFault (p : Nat) (s : State) : State :=
  raiseAlarm (0x10 + p) { s with lock := { s.lock with stopped := s.lock.stopped ||| 2 ^ p } }

/-- Reaction RESET_RESTART: both cores restart at the restart entry, an offset into the pair's TCM; counted. -/
def pairRestart (p : Nat) (s : State) : State :=
  let s := odCount (odKey 0x3501 (0x14 + p)) 1 (regCount (0x10000230 + 4 * p) 1 s)
  let t := s.now :: (tabGet (fun _ => []) s.lock.restarts p).take 1
  releaseUnit (2 * p) (odUse s (odKey 0x3501 (8 + p)))
    { s with lock := { s.lock with restarts := tabSet (fun _ => []) s.lock.restarts p t } }

/-- Whether the pair restarted within the last second (R306). -/
def restartedLately (s : State) (p : Nat) : Bool :=
  (tabGet (fun _ => []) s.lock.restarts p).any (fun t => decide (s.now < t + ms 1000))

/-- The mismatch reaction of a pair. -/
def mismatchReact (p : Nat) (s : State) : State :=
  if odUse s (odKey 0x3501 (4 + p)) = 2 && !restartedLately s p then pairRestart p s else pairFault p s

/-- LOCKSTEP_MISMATCH (R300, R303 to R307): of a joined pair that runs; during a start it fails the step in progress. -/
def execLockstepMismatch (pair : Fin 4) (s : State) : Host.Outcome State Fault Refusal :=
  let p := pair.val
  .next (if !blocksOn s || !joined s p || !bit s.lock.running (2 * p) || bit s.lock.stopped p then s
    else if isStarting s then startFailed 15 false s
    else mismatchReact p s)

/-! ### CORE_RELEASE (R311) -/

/-- Whether start step 14 has ended. -/
def pastStep14 (s : State) : Bool := isUp s || (isStarting s && (s.start.readyBy.isSome || s.start.readySeen))

/-- Whether a release bit of core `c` has an effect. -/
def releasable (s : State) (c : Nat) : Bool :=
  pastStep14 s && !bit s.lock.running c && !bit s.lock.stopped (c / 2) && !bit s.lock.held (c / 2) &&
  (!joined s (c / 2) || c % 2 = 0)

/-- The effect of a write to CORE_RELEASE. -/
def coreReleaseEff (v : Nat) (s : State) : WriteRes :=
  .done ((setBits 8 v).foldl (fun t c =>
    if releasable t c then releaseUnit c (releaseEntry t c) (regSetBits 0x10000210 (2 ^ c) t) else t) s)

/-- CORE_RELEASE (R311). -/
def execCoreRelease (acc : Access) (value : Word) (s : State) : Host.Outcome State Fault Refusal :=
  .next (regWriteWith (fun _ v _ t => coreReleaseEff v t) (atReg acc 0x10000210) value.toNat s)

/-! ### Hand-overs (R312 to R315) -/

/-- A hand-over ends with a result (R661 source 3). -/
def handoverEnd (result : Nat) (s : State) : State := safeMsg 3 { s with lock := { s.lock with result := result } }

/-- Whether a running watchdog is bound to a pair or one of its cores. -/
def safetyBound (s : State) (p : Nat) : Bool :=
  (List.range 16).any (fun w => (getWdg s w).running &&
    match (getWdg s w).unit with
    | some c => decide (c / 2 = p)
    | none => false)

/-- The first failing check of R313. -/
def handoverCheck (s : State) (req p : Nat) (split : Bool) : Option Nat :=
  if s.lock.handover.isSome then some 1
  else if !joined s (safetyCore req / 2) || safetyCore req / 2 = p then some 4
  else if !isRunning s then some 3
  else if joined s p = !split then some 8
  else if safetyBound s p then some 2
  else none

/-- Steps 4 and 5: both cores reset in the new mode and released at their entries; step 6 awaits the confirmations. -/
def handoverSwitch (req p : Nat) (split : Bool) (s : State) : State :=
  let mask := 3 * 2 ^ (2 * p)
  let s := { s with lock := { s.lock with
    running := clearMask s.lock.running mask, stopped := clearMask s.lock.stopped (2 ^ p), held := clearMask s.lock.held (2 ^ p),
    split := if split then s.lock.split ||| 2 ^ p else clearMask s.lock.split (2 ^ p),
    handover := some { pair := p, split := split, step := 6, req := req, deadline := s.now + ms 10 } } }
  let s := releaseUnit (2 * p) (releaseEntry s (2 * p)) (emit (.holdReset (17 + 2 * p)) (emit (.holdReset (16 + 2 * p)) s))
  if split then releaseUnit (2 * p + 1) (releaseEntry s (2 * p + 1)) s else s

/-- A write to HANDOVER; `mismatch` is a mismatch before step 3, in the target (true) or in the requesting pair (false). -/
def handoverEff (v : Nat) (mismatch : Option Bool) (acc : Access) (s : State) : WriteRes :=
  let op := bits v 9 8
  let p := bits v 1 0
  .done (
    if op ≠ 1 ∧ op ≠ 2 then s else
    match handoverCheck s acc.req p (decide (op = 1)) with
    | some r => handoverEnd r s
    | none => match mismatch with
      | some target => mismatchReact (if target then p else safetyCore acc.req / 2) (handoverEnd 7 s)
      | none => handoverSwitch acc.req p (decide (op = 1)) s)

/-- HANDOVER_SPLIT (R312, R313, R315). -/
def execHandoverSplit (acc : Access) (pair : Fin 4) (mismatch : Option Bool) (s : State) : Host.Outcome State Fault Refusal :=
  .next (regWriteWith (fun _ v c t => handoverEff v mismatch c t) (atReg acc 0x10000204) (0x100 + pair.val) s)

/-- HANDOVER_REJOIN (R312, R313, R315). -/
def execHandoverRejoin (acc : Access) (pair : Fin 4) (mismatch : Option Bool) (s : State) : Host.Outcome State Fault Refusal :=
  .next (regWriteWith (fun _ v c t => handoverEff v mismatch c t) (atReg acc 0x10000204) (0x200 + pair.val) s)

/-- The effect of a write to HANDOVER_CONFIRM: the writing unit confirms; with the last one the hand-over ends with DONE. -/
def confirmEff (v : Nat) (acc : Access) (s : State) : WriteRes :=
  .done (match s.lock.handover with
    | none => s
    | some h =>
      let c := safetyCore acc.req
      if v % 2 = 0 ∨ c / 2 ≠ h.pair then s else
      let m := h.confirmed ||| 2 ^ (if h.split then c % 2 else 0)
      if m = (if h.split then 3 else 1) then
        odCount (odKey 0x3501 0x18) 1 (handoverEnd 0 { s with lock := { s.lock with handover := none } })
      else { s with lock := { s.lock with handover := some { h with confirmed := m } } })

/-- HANDOVER_CONFIRM (R312 step 6, R314). -/
def execHandoverConfirm (acc : Access) (value : Word) (s : State) : Host.Outcome State Fault Refusal :=
  .next (regWriteWith (fun _ v c t => confirmEff v c t) (atReg acc 0x1000020C) value.toNat s)

/-- HANDOVER_CONFIRM_TIMEOUT (R314): every unit of the target is held in reset in its new mode. -/
def execHandoverConfirmTimeout (s : State) : Host.Outcome State Fault Refusal :=
  .next (match s.lock.handover with
    | none => s
    | some h =>
      if !blocksOn s then s else
      let s := advanceTo h.deadline s
      let s := { s with lock := { s.lock with
        handover := none, held := s.lock.held ||| 2 ^ h.pair, running := clearMask s.lock.running (3 * 2 ^ (2 * h.pair)) } }
      handoverEnd 6 (emit (.holdReset (17 + 2 * h.pair)) (emit (.holdReset (16 + 2 * h.pair)) s)))

end Sys2Proof.Machine
end

