-- ==== Sys2Proof/Machine/Whistle.lean ====
section
/-! DEFINITION. Whistle (19): frames, authentication and replay, records, flood, armed mode, registers and entries. -/

namespace Sys2Proof.Machine

/-- A pendant slot. -/
def getPendant (s : State) (k : Nat) : Pendant := tabGet (fun _ => {}) s.wh.pendants k

/-- Replace a pendant slot. -/
def putPendant (k : Nat) (p : Pendant) (s : State) : State :=
  { s with wh := { s.wh with pendants := tabSet (fun _ => {}) s.wh.pendants k p } }

/-- Key of an entry of pendant slot `k`. -/
def pendantOd (k sub : Nat) : Nat := odKey (0x3301 + k) sub

/-- A channel of the receiver runs and is enabled. -/
def whChannelOn (s : State) (n : Nat) : Bool := isUp s && bit (odGet s (odKey 0x3300 1)) n

/-- Address of REJ_COUNT_k. -/
def rejCount (k : Nat) : Nat := 0x17800070 + 4 * k

/-! ### Frames (R812, R814 to R816, R822) -/

/-- The fields of a body. -/
def bodyId (b : Nat) : Nat := bits b 63 48
/-- COMMAND. -/
def bodyCommand (b : Nat) : Nat := bits b 47 40
/-- COUNTER. -/
def bodyCounter (b : Nat) : Nat := bits b 39 24
/-- MAC. -/
def bodyMac (b : Nat) : Nat := bits b 23 0

/-- The defined commands. -/
def whCommands : List Nat := [0x01, 0x02, 0x10, 0x11, 0x20, 0x21, 0x30, 0x40, 0x41]

/-- The full counter with the given low 16 bits, from H - 32,768 to H + 32,767 (R814). -/
def fullCounter (h low : Nat) : Int :=
  let lo : Int := (h : Int) - 32768
  lo + ((low : Int) - lo) % 65536

/-- The MAC of a body under a key (R815). -/
def whMac (s : State) (key : List Byte) (body : Nat) (c : Int) : Nat :=
  beAt (cmac16 key (beBytes 2 (bodyId body) ++ beBytes 1 (bodyCommand body) ++ beBytes 4 (ofSigned 32 c) ++
    beBytes 4 (odGet s (odKey 0x1018 4)) ++ ascii "WHS1" ++ [0])) 0 3

/-- The enabled slot of a pendant. -/
def pendantSlot (s : State) (id : Nat) : Option Nat :=
  (List.range 8).find? (fun k => decide (odGet s (pendantOd k 1) = 1 ∧ odGet s (pendantOd k 2) = id))

/-- Check 3 of R816: the reason code of a replay, 0 for none. -/
def replayCheck (p : Pendant) (c : Int) : Nat :=
  if (p.h : Int) < c then 0
  else if c = p.h then 3
  else if c < (p.h : Int) - 32 then 4
  else if bit p.seen (((p.h : Int) - 1 - c).toNat) then 3
  else 0

/-- The checks of a body: the reason code of the first failure, or its slot and full counter. -/
def whCheck (s : State) (body : Nat) : Except Nat (Nat × Int) :=
  match pendantSlot s (bodyId body) with
  | none => .error 1
  | some k =>
    let p := getPendant s k
    let c := fullCounter p.h (bodyCounter body)
    match p.key with
    | none => .error 2
    | some key =>
      if whMac s key body c ≠ bodyMac body then .error 2
      else if replayCheck p c ≠ 0 then .error (replayCheck p c)
      else if !whCommands.contains (bodyCommand body) then .error 5
      else .ok (k, c)

/-- A rejection: counted by its reason, announced at most once per 100 ms unless it is a duplicate (R825). -/
def whReject (reason : Nat) (s : State) : State :=
  let s := regCount (rejCount reason) 1 s
  let recent := match s.wh.rejAt with
    | some t => decide (s.now < t + ms 100)
    | none => false
  if decide (reason = 3) || recent then s else sendMsg 1803 { s with wh := { s.wh with rejAt := some s.now } }

/-- H and the bitmap after an accepted counter (R816). -/
def whAdvance (p : Pendant) (c : Int) : Pendant :=
  let d := (c - p.h).toNat
  if (p.h : Int) < c then
    { p with h := c.toNat, seen := if 32 < d then 0 else (p.seen * 2 ^ d + 2 ^ (d - 1)) % 2 ^ 32 }
  else { p with seen := p.seen ||| 2 ^ ((p.h : Int) - 1 - c).toNat }

/-- Arm or disarm a slot; its HEARTBEAT_LOST is cleared (R828). -/
def whArm (k : Nat) (on : Bool) (s : State) : State :=
  let s := putPendant k { getPendant s k with armed := on, timer := if on then some s.now else none } s
  { s with wh := { s.wh with lost := clearMask s.wh.lost (2 ^ k) } }

/-- Append a record (R823). -/
def whRecord (r : WhRec) (s : State) : State :=
  if s.wh.fifo.length < 16 then sendMsg 1800 { s with wh := { s.wh with fifo := s.wh.fifo ++ [r] } }
  else regCount (rejCount 7) 1 s

/-- An accepted frame (R816, R818, R823, R824, R828, R829). -/
def whAccept (n body k : Nat) (c : Int) (s : State) : State :=
  let p := whAdvance (getPendant s k) c
  let a := p.accepted + 1
  let commit := bodyCommand body = 0x40 || a % 256 = 0
  let p := { p with accepted := a, committed := if commit then p.h else p.committed, timer := if p.armed then some s.now else none }
  let s := odCount (odKey 0x3300 5) 1 (regCount (rejCount 0) 1 (putPendant k p s))
  let s := whRecord { channel := n, slot := k, command := bodyCommand body, body := body, gtime := gnow s, counter := ofSigned 32 c } s
  match bodyCommand body with
  | 0x01 => ssRequest (ms 5) (safeMsg 1 { s with sdg := { s.sdg with stopAt := some s.now } })
  | 0x40 => whArm k true s
  | 0x41 => whArm k false s
  | _ => s

/-- A frame decoded in full on a channel that hunts. -/
def whFrame (n : Nat) (body : Word) (s : State) : State :=
  if !whChannelOn s n || bit s.wh.flooded n then s else
  match whCheck s body.toNat with
  | .error r => whReject r s
  | .ok (k, c) => whAccept n body.toNat k c s

/-- A frame of the row of a command. -/
def whFrameOf (command n : Nat) (body : Word) (s : State) : State := if bodyCommand body.toNat = command then whFrame n body s else s

/-- WHISTLE_STOP (R816, R824). -/
def execWhistleStop (channel : Fin 4) (body : Word) (s : State) : Host.Outcome State Fault Refusal := .next (whFrameOf 0x01 channel.val body s)

/-- WHISTLE_HOLD (R816, R823). -/
def execWhistleHold (channel : Fin 4) (body : Word) (s : State) : Host.Outcome State Fault Refusal := .next (whFrameOf 0x02 channel.val body s)

/-- HITCH_UP (R816, R823). -/
def execHitchUp (channel : Fin 4) (body : Word) (s : State) : Host.Outcome State Fault Refusal := .next (whFrameOf 0x10 channel.val body s)

/-- HITCH_DOWN (R816, R823). -/
def execHitchDown (channel : Fin 4) (body : Word) (s : State) : Host.Outcome State Fault Refusal := .next (whFrameOf 0x11 channel.val body s)

/-- CREEP_FWD (R816, R823). -/
def execCreepFwd (channel : Fin 4) (body : Word) (s : State) : Host.Outcome State Fault Refusal := .next (whFrameOf 0x20 channel.val body s)

/-- CREEP_REV (R816, R823). -/
def execCreepRev (channel : Fin 4) (body : Word) (s : State) : Host.Outcome State Fault Refusal := .next (whFrameOf 0x21 channel.val body s)

/-- WHISTLE_HEARTBEAT (R816, R829). -/
def execWhistleHeartbeat (channel : Fin 4) (body : Word) (s : State) : Host.Outcome State Fault Refusal :=
  .next (whFrameOf 0x30 channel.val body s)

/-- WHISTLE_ARM (R816, R818, R828). -/
def execWhistleArm (channel : Fin 4) (body : Word) (s : State) : Host.Outcome State Fault Refusal := .next (whFrameOf 0x40 channel.val body s)

/-- WHISTLE_DISARM (R816, R828). -/
def execWhistleDisarm (channel : Fin 4) (body : Word) (s : State) : Host.Outcome State Fault Refusal :=
  .next (whFrameOf 0x41 channel.val body s)

/-- REJECTED_FRAME (R816, R825): a decoded body that fails a check. -/
def execRejectedFrame (channel : Fin 4) (body : Word) (s : State) : Host.Outcome State Fault Refusal :=
  .next (match whCheck s body.toNat with
    | .error _ => whFrame channel.val body s
    | .ok _ => s)

/-- WHISTLE_CODING_ERROR (R813). -/
def execWhistleCodingError (channel : Fin 4) (s : State) : Host.Outcome State Fault Refusal :=
  .next (if whChannelOn s channel.val && !bit s.wh.flooded channel.val then regCount (rejCount 6) 1 s else s)

/-! ### Flood (R826, R827) -/

/-- A channel is above FLOOD_LEVEL or has carried for too long: it floods, unless it is flooded already. -/
def whFlood (n : Nat) (s : State) : State :=
  let s := { s with wh := { s.wh with noisyAt := tabSet (fun _ => 0) s.wh.noisyAt n s.now } }
  if bit s.wh.flooded n then s else
  let s := { s with wh := { s.wh with flooded := s.wh.flooded ||| 2 ^ n, floodAt := tabSet (fun _ => 0) s.wh.floodAt n (gnow s) } }
  sendMsg 1801 (raiseAlarm 0x97 (odCount (odKey 0x3300 4) 1 s))

/-- AMBIENT_SAMPLE (R808, R826). -/
def execAmbientSample (channel : Fin 4) (code : Nat) (s : State) : Host.Outcome State Fault Refusal :=
  let n := channel.val
  let v := min code 4095
  .next (if !isUp s then s else
    let s := regPut (0x17800030 + 4 * n) v s
    if whChannelOn s n && decide (odGet s (odKey 0x3300 2) < v) then whFlood n s else s)

/-- CARRIER_FLOOD (R826): carrier without a break for more than 750 µs. -/
def execCarrierFlood (channel : Fin 4) (presentNs : Nat) (s : State) : Host.Outcome State Fault Refusal :=
  .next (if whChannelOn s channel.val && decide (us 750 < presentNs) then whFlood channel.val s else s)

/-- FLOOD_CLEAR (R827): 2 ms of samples at or below FLOOD_LEVEL without carrier. -/
def execFloodClear (channel : Fin 4) (s : State) : Host.Outcome State Fault Refusal :=
  let n := channel.val
  .next (if !isUp s || !bit s.wh.flooded n || decide (odGet s (odKey 0x3300 2) < regRaw s (0x17800030 + 4 * n)) then s else
    let s := advanceTo (tabGet (fun _ => 0) s.wh.noisyAt n + ms 2) s
    { s with wh := { s.wh with flooded := clearMask s.wh.flooded (2 ^ n) } })

/-! ### Armed mode (R828 to R830) -/

/-- HEARTBEAT_LOST (R829). -/
def execHeartbeatLost (slot : Fin 8) (s : State) : Host.Outcome State Fault Refusal :=
  let k := slot.val
  let p := getPendant s k
  .next (match p.timer with
    | none => s
    | some t =>
      if !isUp s || !p.armed then s else
      let s := putPendant k { p with timer := none } (advanceTo (t + ms 320) s)
      let s := odCount (odKey 0x3300 3) 1 { s with wh := { s.wh with lost := s.wh.lost ||| 2 ^ k } }
      sendMsg 1802 (safeMsg 2 (raiseAlarm 0x98 s)))

/-- A write to a register of the WHISTLE block. -/
def whEff (a v : Nat) (s : State) : WriteRes :=
  if a = 0x1780005C then
    .done (if bit v 0 then { s with wh := { s.wh with fifo := s.wh.fifo.drop 1 } } else s)
  else if a = 0x17800060 then
    .done (if bit v 0 then (List.range 8).foldl (fun t k => whArm k false t) s else s)
  else .done (genericWrite a v s)

/-- DISARM_ALL (R828). -/
def execDisarmAll (acc : Access) (value : Word) (s : State) : Host.Outcome State Fault Refusal :=
  .next (regWriteWith (fun a v _ t => whEff a v t) (atReg acc 0x17800060) value.toNat s)

/-- REC_POP (R823). -/
def execRecPop (acc : Access) (value : Word) (s : State) : Host.Outcome State Fault Refusal :=
  .next (regWriteWith (fun a v _ t => whEff a v t) (atReg acc 0x1780005C) value.toNat s)

/-! ### Entries (R819 to R821, R832) -/

/-- Slot and subindex of an entry of 0x3301 to 0x3308. -/
def pendantOfKey (k : Nat) : Option (Nat × Nat) := if odKey 0x3301 0 ≤ k ∧ k < odKey 0x3309 0 then some (k / 256 - 0x3301, k % 256) else none

/-- Writes that an enabled slot refuses (R820). -/
def whBusy (s : State) (k : Nat) : Bool :=
  match pendantOfKey k with
  | some (n, sub) => decide (sub = 2 ∨ sub = 3 ∨ sub = 5) && decide (odGet s (pendantOd n 1) = 1)
  | none => false

/-- The range rule of R820: a slot is enabled with a key and a PENDANT_ID of its own. -/
def whRange (s : State) (k v : Nat) : Bool :=
  match pendantOfKey k with
  | some (n, 1) =>
    decide (v = 0) ||
    ((getPendant s n).key.isSome &&
     (List.range 8).all (fun m => decide (m = n) || decide (odGet s (pendantOd m 1) = 0) ||
       decide (odGet s (pendantOd m 2) ≠ odGet s (pendantOd n 2))))
  | _ => true

/-- A new key of a slot: H is the counter base, the bitmap is clear (R821). -/
def whKey (n : Nat) (key : List Byte) (s : State) : State :=
  putPendant n { getPendant s n with key := some key, h := odGet s (pendantOd n 5), seen := 0 } s

/-- A pendant slot at a start (R818, R831): `cleared` when the start finds the AON SRAM cleared. -/
def pendantStart (cleared : Bool) (p : Pendant) : Pendant :=
  let q : Pendant := { p with armed := false, timer := none }
  if !cleared then q else if p.key.isNone then { q with h := 0, seen := 0 } else { q with h := p.committed + 256, seen := 2 ^ 32 - 1 }

/-- The receiver at a start. -/
def whStart (cleared : Bool) (w : Whistle) : Whistle :=
  { pendants := (w.pendants.map (fun p => (p.1, pendantStart cleared p.2))).filter (fun p => decide (p.2 ≠ {})) }

end Sys2Proof.Machine
end

