-- ==== Sys2Proof/Machine/Starts.lean ====
section
/-! DEFINITION. Supply, resets and starts (05, 21): VSENSE_BAT and Brace, resets, the device part of a start as one step, READY and
entry to OPERATIONAL, temperatures and the PMIC. -/

namespace Sys2Proof.Machine

/-! ### The CANopen FD node's frames (R146) -/

/-- A frame of the node joins the queue of its controller; it is left out when the controller does not run or the queue is full. -/
def nodeSend (f : CanFrame) (s : State) : State :=
  let c := odUse s (odKey 0x2003 1)
  let v := getCan s c
  if s.canopen.active && canRunning s c && decide (v.gw.length < 64) then putCan c { v with gw := v.gw ++ [{ frame := f }] } s else s

/-- The heartbeat or boot-up frame with a data byte. -/
def nodeBeat (s : State) (b : Byte) : CanFrame :=
  { ident := 0x700 + odUse s (odKey 0x2003 2), ide := false, fdf := false, brs := false, esi := false, rtr := false, data := [b] }

/-! ### Entry to OPERATIONAL (R181, R193, R196, R246, R250) -/

/-- What the first entry to OPERATIONAL after a start begins: watchdog 0, the latent tests, the patrol, the Roster, the boot-up
message. -/
def firstOperational (s : State) : State :=
  if s.sdg.enteredOp then s else
  let s := putWdg 0 { running := true, from' := s.now } s
  let s := setLatentNext (s.now + ms (odUse s (odKey 0x2200 0x0D))) { s with sdg := { s.sdg with enteredOp := true } }
  let s := if s.splice.perst then emit (.pciePerst false) { s with splice := { s.splice with perst := false } } else s
  nodeSend (nodeBeat s 0) (rosterEnter s)

/-- Enter OPERATIONAL from a start. -/
def enterOperational (s : State) : State :=
  let cold := decide (s.dev = .coldStart)
  let s := setDev .operational s
  let s := { s with sdg := { s.sdg with lastToggle := s.now }
                    start := { s.start with readyBy := none, readySeen := false, failedCold := if cold then 0 else s.start.failedCold } }
  firstOperational (ssRequest (ms 2) (if cold then odPut (odKey 0x2500 7) 0 s else s))

/-- The effect of a write of START_CTRL: READY completes step 15; OPERATIONAL follows unless it waits for the return condition. -/
def readyEff (v : Nat) (s : State) : WriteRes :=
  .done (if !bit v 0 || !isStarting s || s.start.readyBy.isNone then s
    else if s.pwr.below then { s with start := { s.start with readyBy := none, readySeen := true } }
    else enterOperational s)

/-- START_READY (R246, R217). -/
def execStartReady (acc : Access) (value : Word) (s : State) : Host.Outcome State Fault Refusal :=
  .next (regWriteWith (fun _ v _ t => readyEff v t) (atReg acc 0x10300030) value.toNat s)

/-- READY_TIMEOUT (R246): step 15 fails. -/
def execReadyTimeout (s : State) : Host.Outcome State Fault Refusal :=
  .next (match s.start.readyBy with
    | some t => if isStarting s then startFailed 15 false (advanceTo t s) else s
    | none => s)

/-! ### The choice of start (R231, R239, R248, R252) -/

/-- Whether a slot is intact. -/
def slotIntact (s : State) (i : Nat) : Bool := (getMeas s i).filled && !(getMeas s i).written

/-- Warm starts that have begun within the last 60 s. -/
def warmRecent (s : State) : Nat := (s.start.warmTimes.filter (fun t => decide (s.now ≤ t + ms 60000))).length

/-- Whether a start requested as warm runs cold under R231. -/
def warmBarred (s : State) (aonGood : Bool) : Bool :=
  !s.pwr.retention || !aonGood || !slotIntact s 0 || decide (3 ≤ warmRecent s)

/-! ### What a start resets (R52, R81, R82, R108, R244, R245, R277, R291) -/

/-- Volatile entries that keep their values at a start (R82). -/
def odKept (k : Nat) : Bool :=
  k = odKey 0x2100 9 || k = odKey 0x2101 3 || k = odKey 0x2300 8 || k / 256 = 0x1003 || k / 256 = 0x2004 ||
  decide (odKey 0x2500 2 ≤ k ∧ k ≤ odKey 0x2500 0x0E)

/-- The parameter copies whose tags are valid at this start. -/
def paramValid (bad : List Nat) (s : State) : List ParamCopy :=
  (if s.params.copy0.valid && !bad.contains 0 then [s.params.copy0] else []) ++
  (if s.params.copy1.valid && !bad.contains 1 then [s.params.copy1] else [])

/-- The copy that is loaded: the higher store sequence number among the valid ones, none under the mark of R107. -/
def paramPick (bad : List Nat) (s : State) : Option ParamCopy :=
  if s.params.mark then none else
  match paramValid bad s with
  | [a, b] => some (if a.seq < b.seq then b else a)
  | [a] => some a
  | _ => none

/-- The object dictionary at the beginning of a start (R82, R93, R107, R108). -/
def odStarted (bad : List Nat) (s : State) : State :=
  let p := paramPick bad s
  let c := p.getD {}
  let t : State := { s with od := s.od.filter (fun x => odKept x.1), odBlob := [] }
  let t := c.blobs.foldl (fun u x => blobPut x.1 x.2 u) (c.vals.foldl (fun u x => odPut x.1 x.2 u) t)
  let t := odPut (odKey 0x2004 3) (b2n p.isNone) (odPut (odKey 0x2004 1) c.seq t)
  let ks := (s.odBlob ++ t.odBlob).foldl (fun (l : List Nat) x => insertAsc x.1 l) []
  let moved := ks.filter (fun k => decide (blobGet s k ≠ blobGet t k))
  { t with odStart := t.od, odChange := moved.foldl (fun c k => tabUpd (fun _ => 0) c k (fun n => (n + 1) % 2 ^ 32)) s.odChange }

/-- PARAM_DEFAULTS is due: no valid copy, and no mark (R108). -/
def paramsLost (bad : List Nat) (s : State) : Bool := !s.params.mark && decide (paramValid bad s = [])

/-- Every block but those of the retention domain at its reset values. -/
def resetBlocks (s : State) : State :=
  { s with
    regs := [], hold := [], knots := [], slots := [], safeSlots := [], apps := [], cams := [], pipes := [], can := []
    canopen := {}, pack := {}, kennel := {}, gfx := {}, tether := {}
    splice := { perst := s.splice.perst }
    net := { link := s.net.link }
    wh := whStart false s.wh
    sec := { slots := s.sec.slots }
    leash := leashHeld s.leash
    frz := { records := s.frz.records }
    lock := { split := s.lock.bootSplit, bootSplit := s.lock.bootSplit }
    sdg := { ackLow := s.sdg.ackLow, ssLast := s.now } }

/-- The AON SRAM is cleared (R249): records, slots, the masked-fault record; the pendants' counters reload (R818). -/
def aonClear (s : State) : State :=
  { s with frz := { s.frz with records := [] }, sec := { s.sec with slots := [] },
           start := { s.start with maskedRec := false }, wh := whStart true s.wh }

/-- Bytes of the address ranges that a warm start leaves: DRAM. -/
def dramOnly {α : Type} (t : Tab α) : Tab α := t.filter (fun p => decide (0x4000000000 ≤ p.1))

/-- Memory control at a start: marks end, SRAM is filled with zeros, the patrol begins a pass. A cold start also writes all of
DRAM. -/
def memStarted (cold : Bool) (s : State) : State :=
  let old := s.memCtl
  let m : MemCtl := { fixed := if cold then odGet s (odKey 0x2400 1) else old.fixed
                      dramErr := if cold then [] else old.dramErr
                      poison := if cold then [] else old.poison
                      trained := true, patrolOn := true, passAt := s.now }
  odPut (odKey 0x2400 4) m.fixed { s with mem := if cold then [] else dramOnly s.mem, memCtl := m }

/-- The CIM tiles at a start (R244, R428): after a cold start every macro is in LOADING; after a warm one a macro whose CRC does
not match is. Every other macro is calibrated anew. -/
def cimStarted (cold : Bool) (bad : List (Nat × Nat)) (s : State) : State :=
  let temps := s.cim.tiles.map (fun p => (p.1, { p.2 with cal := none, writing := none, layers := if cold then [] else p.2.layers }))
  let keep := s.cim.macros.filter (fun p => decide (p.2.ready = true) && !bad.contains (p.1 / 64, p.1 % 64))
  let macros := keep.map (fun p =>
    (p.1, ({ ready := true, crc := p.2.crc, calAt := s.now, calTemp := (tabGet (fun _ => ({} : CimTile)) s.cim.tiles (p.1 / 64)).temp } : Macro)))
  { s with cim := { tiles := temps.filter (fun p => decide (p.2 ≠ {})), macros := if cold then [] else macros,
                    cells := if cold then [] else s.cim.cells } }

/-! ### Stage-1 (R235 to R237, R893) -/

/-- The image of a copy: as many bytes as its header says. -/
def copyImage (c : Stage1Copy) : List Byte := c.image.take (beAt c.header 8 4)

/-- The fixed fields of a stage-1 header. -/
def headerOk (h : List Byte) : Bool :=
  let n := beAt h 8 4
  decide (slice h 0 4 = ascii "OMK1" ∧ beAt h 4 2 = 1 ∧ slice h 6 2 = zeros 2 ∧ slice h 52 12 = zeros 12 ∧ slice h 209 7 = zeros 7 ∧
    slice h 5573 2619 = zeros 2619 ∧ n % 64 = 0 ∧ 64 ≤ n ∧ n ≤ 0x200000 ∧ h.length = 8192)

/-- Whether a copy is accepted (R236). -/
def copyOk (s : State) (c : Stage1Copy) : Bool :=
  let h := c.header
  headerOk h && decide (beAt h 8 4 ≤ c.image.length) &&
  decide (sha384 (slice h 112 97) = deviceBytes 0 48 ∧ sha384 (slice h 216 1952) = deviceBytes 1 48) &&
  Config.ecdsaVerify (slice h 112 97) (slice h 0 112) (slice h 2168 96) &&
  Config.mldsaVerify (slice h 216 1952) (slice h 0 112) (slice h 2264 3309) &&
  decide (sha384 (copyImage c) = slice h 64 48 ∧ s.fuses.rollbackIn ≤ beAt h 12 4)

/-- The copy used, with its number. -/
def copyPick (s : State) (env : StartEnv) : Option (Nat × Stage1Copy) :=
  if copyOk s env.copyA then some (0, env.copyA) else if copyOk s env.copyB then some (1, env.copyB) else none

/-- A zero-padded string without its padding. -/
def trimZeros (l : List Byte) : List Byte := l.takeWhile (fun b => decide (b ≠ 0))

/-- Stage-1 at a cold start: the version and the copy used (step 4). -/
def stage1Check (k : Nat) (c : Stage1Copy) (s : State) : State :=
  odPut (odKey 0x2500 0x0C) k { s with start := { s.start with version := trimZeros (slice c.header 20 32), entryOff := beAt c.header 16 4 } }

/-- Step 9 of a cold start: the image is copied into its region, and slot 0 is filled. -/
def stage1Copy (c : Stage1Copy) (s : State) : State :=
  let i := copyImage c
  let v : Slot := { filled := true, hash := slice c.header 64 48, base := 0x4000000000, size := i.length }
  let s := memPut 0x4000000000 i s
  { s with sec := { s.sec with slots := tabSet (fun _ => {}) s.sec.slots 0 v } }

/-! ### The steps (R241, R247) -/

/-- Whether the LBIST of a warm start is due (step 6). -/
def lbistDue (s : State) : Bool :=
  match s.start.lbistAt with
  | some t => decide (odGet s (odKey 0x2500 0x0F) * 3600 * 1000000000 < s.now - t)
  | none => true

/-- Whether a step runs. -/
def stepRuns (s : State) (cold : Bool) (k : Nat) : Bool :=
  if k = 1 ∨ k = 4 then cold else if k = 6 then cold || lbistDue s else if k = 11 then !cold else decide (k ≤ 14)

/-- The physical failure that a start meets, when its step runs: only the steps that test units find a failed unit. -/
def physicalFail (s : State) (cold : Bool) (env : StartEnv) : Option (Nat × Bool) :=
  match env.failStep with
  | some (k, u) => if stepRuns s cold k then some (k, u && (k = 6 || k = 7 || k = 8 || k = 10)) else none
  | none => none

/-- Steps 5 to 8: PMIC supervision begins, freeze-frame accepts triggers, LBIST. -/
def startTests (cold : Bool) (s : State) : State :=
  let pages := setBits 8 (odUse s (odKey 0x2100 0x0C))
  let s := pages.foldl (fun t p => emit (.pmbus p 3) t) s
  let lb := if cold || lbistDue s then some s.now else s.start.lbistAt
  { s with pwr := { s.pwr with pmicBad := 0, pmicMiss := 0, lastPoll := s.now }
           frz := { s.frz with on := true }
           start := { s.start with pastStep5 := true, lbistAt := lb } }

/-- A must-verify range or safety region: base and length in bytes from the start of DRAM, none when disabled (R255). -/
def rangeOf (v : Nat) : Option (Nat × Nat) := if bit v 63 then some (bits v 51 32 * 65536, bits v 19 0 * 65536) else none

/-- Step 9 of a warm start: the scrub of the must-verify ranges. Granules without a symbol error need no visit. -/
def verifyScrub (s : State) : State :=
  let rs := (List.range 16).filterMap (fun n => rangeOf (odUse s (odKey 0x2502 (n + 1))))
  let gs := (s.memCtl.dramErr.map (fun p => p.1 / 80)).foldl (fun l g => insertAsc g l) []
  (gs.filter (fun g => rs.any (fun r => decide (r.1 ≤ 64 * g ∧ 64 * g < r.1 + r.2)))).foldl (fun t g => (granRead true g t).1) s

/-- CAN controllers come up: those whose mode is not 0, and the SafetyStatus controller (R186). -/
def canStarted (s : State) : State :=
  (List.range 12).foldl (fun t c => if canMode t c = 0 then t else setCanState c 1 t) s

/-- The CANopen FD node at the end of a start (R149). -/
def canopenStarted (s : State) : State :=
  let c := odUse s (odKey 0x2003 1)
  if c = 0xFF then s
  else if odUse s (odKey (0x2F01 + c) 1) = 2 then
    let pdo := (List.range 16).foldl (fun t n => tabSet (fun _ => 0) t n s.now) []
    { s with canopen := { active := true, lastBeat := s.now, lastPdo := pdo } }
  else raiseAlarm 0x94 s

/-- gPTP, the gates and the display pipes come up from the loaded entries. -/
def netStarted (s : State) : State :=
  let s := { s with net := { s.net with ptp := if odUse s (odKey 0x2E00 1) = 2 then 1 else 0, lastSync := s.now } }
  let s := odPut (odKey 0x2E00 6) s.net.ptp s
  let s := (List.range 10).foldl (fun t p => gateArm p (blobGet t (odKey (0x2E01 + p) 3)) t) s
  (List.range 4).foldl (fun t p => pipeSet p (odGet t (pKey p 1)) t) s

/-- Steps 12 to 14: the instances, the controllers, the release of stage-1; step 15 waits for READY. -/
def startEnd (s : State) : State :=
  let s := { s with kennel := { base := odUse s (odKey 0x2B00 1), size := odUse s (odKey 0x2B00 2) } }
  let s := canopenStarted (canStarted (netStarted (createAll s)))
  let s := releaseUnit 0 (0x4000000000 + s.start.entryOff) { s with leash := { s.leash with up := true } }
  { s with start := { s.start with readyBy := some (s.now + ms (odGet s (odKey 0x2500 0x10))) } }

/-- Slots at the beginning of a start: a cold start empties them; a warm start reports the intact ones and clears the others
(R239, R893). -/
def slotsStarted (cold : Bool) (s : State) : State :=
  let keep := if cold then [] else (List.range 8).filter (slotIntact s)
  odPut (odKey 0x2500 0x0D) (maskOf keep)
    { s with sec := { s.sec with slots := s.sec.slots.filter (fun p => keep.contains p.1) } }

/-- The fuses and the boot split mask that a cold start takes (R308, R309, R649). -/
def fusesStarted (cold : Bool) (s : State) : State :=
  if !cold then s else
  let f := s.fuses
  let m := f.splitMask ||| (if s.start.splitStrap then 15 else 0)
  { s with fuses := { f with lifecycleIn := f.lifecycle, rollbackIn := f.rollback, splitMaskIn := f.splitMask }
           lock := { s.lock with split := m, bootSplit := m } }

/-- A start is entered: the AON SRAM where it was not kept, the state, every block outside the retention domain. -/
def startReset (cold : Bool) (env : StartEnv) (s : State) : State :=
  resetBlocks (setDev (if cold then .coldStart else .warmStart) (if env.aonGood then s else aonClear s))

/-- A start begins: the state, the counts and the records of the always-on domain (R81, R82, R209, R239, R254). -/
def startBegin (cold : Bool) (fromRestart : Bool) (env : StartEnv) (s : State) : State :=
  let s := startReset cold env s
  let stamp := odGet s (odKey 0x2000 2)
  let lost := paramsLost env.badParams s
  let s := odPut (odKey 0x2000 2) stamp (odStarted env.badParams (slotsStarted cold s))
  let s := odPut (odKey 0x2500 2) (if cold then 1 else 2) (odPut (odKey 0x2500 3) s.start.cause (odCount (odKey 0x2500 (if cold then 6 else 5)) 1 s))
  let times := if cold then s.start.warmTimes else (s.now :: s.start.warmTimes).take 3
  let s := { s with
    frz := { s.frz with records := s.frz.records.filter (fun p => !env.badRecords.contains p.1) }
    pwr := { s.pwr with warnRun := 0, resetRun := 0, returnRun := 0, minMv := 0xFFFF, railUnder := 0, railOver := 0, ctrlPending := false }
    start := { s.start with warmTimes := times, fromRestart := fromRestart, pastStep5 := false, readyBy := none, readySeen := false,
                            forceCold := if cold then false else s.start.forceCold, requestInWarm := false } }
  let s := fusesStarted cold s
  if lost then raiseAlarm 0x93 s else s

/-- Steps 5 to 14 of a start, or the failure that ends it before. -/
def startRest (cold : Bool) (copy : Option Stage1Copy) (env : StartEnv) (s : State) : State :=
  let fail := physicalFail s cold env
  let s := raiseAll env.alarms (startTests cold s)
  match fail with
  | some (k, u) => startFailed k u s
  | none =>
    let s := memStarted cold s
    let s := match copy with
      | some c => stage1Copy c s
      | none => verifyScrub s
    let s := cimStarted cold env.badMacros s
    startEnd (odPut (odKey 0x2500 4) env.deviceUs (advanceTo (s.now + us env.deviceUs) s))

/-- The device part of a start as one step (log entry 45). -/
def runStart (cold : Bool) (fromRestart : Bool) (env : StartEnv) (s : State) : State :=
  let s := startBegin cold fromRestart env s
  match physicalFail s cold env with
  | some (k, u) =>
    if k ≤ 3 then startFailed k u s
    else if s.start.maskedRec then enterFailed 1 (failCount 3 s)
    else if !cold then startRest cold none env s
    else match copyPick s env with
      | none => startFailed 4 false s
      | some (n, c) => if k = 4 then startFailed 4 u s else startRest cold (some c) env (stage1Check n c s)
  | none =>
    if s.start.maskedRec then enterFailed 1 (failCount 3 s)
    else if !cold then startRest cold none env s
    else match copyPick s env with
      | none => startFailed 4 false s
      | some (n, c) => startRest cold (some c) env (stage1Check n c s)

/-- RESTART_EXIT (R221, R229, R231, R252). -/
def execRestartExit (env : StartEnv) (s : State) : Host.Outcome State Fault Refusal :=
  .next (if !(decide (s.dev = .restart)) || s.pwr.ctrlPending || !s.pwr.returnOk || !env.railsSteady then s else
    let barred := warmBarred s env.aonGood
    let cold := !s.start.wantWarm || barred || s.start.forceCold
    let asked := s.start.requestInWarm || (s.start.wantWarm && barred)
    runStart cold true env (if asked then odCount (odKey 0x2500 8) 1 s else s))

/-! ### Power and PORST_N (R19 to R21, R229, R230, R866, R875) -/

/-- The device without VDD_AON: only what is burned or stored outside the always-on domain remains, and the model's own
bookkeeping. -/
def powerOff (s : State) : State :=
  let w : Whistle := { pendants := s.wh.pendants }
  let c : Leash := { creds := s.leash.creds }
  { State.reset with
    now := s.now, free := s.free, out := s.out, pending := s.pending, params := s.params, fuses := s.fuses
    wh := whStart true w, leash := c, sdg := { ackLow := s.sdg.ackLow }, net := { link := s.net.link } }

/-- VDD_AON_REMOVED (R19, R20, R862). -/
def execVddAonRemoved (s : State) : Host.Outcome State Fault Refusal :=
  .next (if s.pwr.aonOn then powerOff (setPins false false false s) else s)

/-- A cold start from OFF, once every rail is in range. -/
def startFromOff (strap pcie : Bool) (env : StartEnv) (s : State) : State :=
  let s := { s with start := { s.start with splitStrap := strap, pcieMode := pcie, wantWarm := false } }
  if env.railsSteady then runStart true false env s else s

/-- VDD_AON_POWER_ON (R229, R249, R682): the start follows at once when PORST_N is already released. -/
def execVddAonPowerOn (porstHigh splitStrap pcieMode : Bool) (env : StartEnv) (s : State) : Host.Outcome State Fault Refusal :=
  .next (if s.pwr.aonOn then s else
    let s := powerOff s
    let s := { s with pwr := { aonOn := true, porstHigh := porstHigh, lastSample := s.now, lastTemp := s.now } }
    if porstHigh then startFromOff splitStrap pcieMode env s else s)

/-- The management controller is reset (R138). -/
def mgmtReset (s : State) : State := { s with leash := leashHeld s.leash, canopen := {} }

/-- PORST_N in FAILED: every block is reset, the device reads FAILED throughout (R21). -/
def porstFailed (s : State) : State :=
  let s := odCount (odKey 0x2500 9) 1 (mgmtReset s)
  { s with pwr := { s.pwr with porstHigh := false, retention := false } }

/-- PORST_N in every other state: OFF, with the pins low. -/
def porstOff (s : State) : State :=
  let s := setPins false false false (endBrace (mgmtReset s))
  { s with
    start := { s.start with cause := if s.dev = .off then s.start.cause else 2, readyBy := none, readySeen := false }
    dev := .off
    frz := { s.frz with on := false, pending := none, recordDue := [] }
    sdg := { ackLow := s.sdg.ackLow }
    pwr := { s.pwr with porstHigh := false, retention := false, ctrlPending := false } }

/-- PORST_N_ASSERT (R229, R230, R851). -/
def execPorstNAssert (lowNs : Nat) (s : State) : Host.Outcome State Fault Refusal :=
  .next (if lowNs < us 10 ∨ !s.pwr.aonOn then s
    else if s.dev = .failed then porstFailed s else porstOff s)

/-- PORST_N_RELEASE (R19, R21, R866, R875). -/
def execPorstNRelease (splitStrap pcieMode : Bool) (env : StartEnv) (s : State) : Host.Outcome State Fault Refusal :=
  .next (if !s.pwr.aonOn || s.pwr.porstHigh then s else
    let s := { s with pwr := { s.pwr with porstHigh := true } }
    if s.dev = .off then startFromOff splitStrap pcieMode env s
    else if s.dev = .failed then
      fusesStarted true { s with start := { s.start with splitStrap := splitStrap, pcieMode := pcieMode }, leash := { s.leash with up := true } }
    else s)

/-- RETENTION_RAIL_EXCURSION (R862): VDD_AON, VDDIO_AON, VDD1_DRAM, VDD2H_DRAM or VDD2L_DRAM. -/
def execRetentionRailExcursion (_rail : Fin 5) (s : State) : Host.Outcome State Fault Refusal :=
  .next (if s.pwr.aonOn then odCount (odKey 0x2101 3) 1 { s with pwr := { s.pwr with retention := false } } else s)

/-! ### Core rails (R223 to R225, R250) -/

/-- An immediate reset: no self-refresh, no capture is completed, no SafetyStatus frame. -/
def abruptRestart (s : State) : State :=
  let s := spliceRestart (setDev .restart (endBrace s))
  mgmtReset { s with
    start := { s.start with cause := 4, wantWarm := false, readyBy := none, readySeen := false }
    frz := { s.frz with on := false, pending := none, recordDue := [] }
    sdg := { s.sdg with restartWait := none, restartPending := false, holdAt := none, ackFall := none, ssFlight := none, ssBound := none }
    pwr := { s.pwr with ctrlPending := false, retention := false } }

/-- CORE_RAIL_UNDERVOLTAGE (R224, R21, R250, R851). -/
def execCoreRailUndervoltage (rail : Fin 8) (s : State) : Host.Outcome State Fault Refusal :=
  let r := 2 ^ rail.val
  .next (if !s.pwr.aonOn || decide (s.dev = .off) then s else
    let s := { s with pwr := { s.pwr with railUnder := s.pwr.railUnder ||| r, railOver := clearMask s.pwr.railOver r } }
    if s.dev = .failed then
      let s := odCount (odKey 0x2500 9) 1 { s with pwr := { s.pwr with retention := false } }
      if rail.val = 4 then (let t := mgmtReset s; { t with leash := { t.leash with up := true } }) else s
    else if s.dev = .restart ∧ !s.pwr.ctrlPending then s
    else abruptRestart s)

/-- RAIL_WINDOW (R225). -/
def execRailWindow (rail : Fin 8) (s : State) : Host.Outcome State Fault Refusal :=
  let r := 2 ^ rail.val
  .next (if !s.pwr.aonOn || decide (s.dev = .off) then s else
    raiseAlarm 0x41 { s with pwr := { s.pwr with railOver := s.pwr.railOver ||| r, railUnder := clearMask s.pwr.railUnder r } })

/-! ### VSENSE_BAT and Brace (R204 to R218, R27, R891) -/

/-- The ADC code of a tap voltage in µV. -/
def vsenseCode (uv : Int) : Nat := if uv ≤ 0 then 0 else min 4095 (uv.toNat * 4096 / 1800000)

/-- The supply voltage in mV: rounded to the nearest, halves upward. -/
def vsenseMv (s : State) (uv : Int) : Int :=
  let n := vsenseCode uv * 1800 * odUse s (odKey 0x2100 2)
  (((n + 2048000) / 4096000 : Nat) : Int) + toSigned 16 (odUse s (odKey 0x2100 0x0A))

/-- VWARN in force, mV. -/
def vwarn (s : State) : Nat := odUse s (odKey 0x2100 3)

/-- VRESET in force, mV. -/
def vreset (s : State) : Nat := odUse s (odKey 0x2100 4)

/-- The Brace actions of R211. -/
def enterBrace (s : State) : State :=
  let s := setDev .brace s
  let s := { s with pwr := { s.pwr with braceAt := some s.now }, memCtl := { s.memCtl with patrolStopped := true } }
  let s := safeMsg 4 (sendMsg 1808 (packCheckpoint (frzTrigger 3 s)))
  raiseAlarm 0x44 (ssRequest (ms 2) s)

/-- VSENSE_BAT is declared below VWARN (R211, R27, R217). -/
def declareBelow (s : State) : State :=
  let s := odCount (odKey 0x2100 9) 1 (odCount (odKey 0x2100 7) 1 { s with pwr := { s.pwr with below := true } })
  if s.dev = .operational then enterBrace s
  else if s.dev = .safeHold then raiseAlarm 0x44 (frzTrigger 3 { s with memCtl := { s.memCtl with patrolStopped := true } })
  else if s.dev = .brace then { s with memCtl := { s.memCtl with patrolStopped := true } }
  else s

/-- VSENSE_BAT is declared at VRESET (R218, R222, R252). -/
def declareReset (s : State) : State :=
  let s := { s with pwr := { s.pwr with atReset := true } }
  if isUp s then enterRestart 3 true s
  else if isStarting s then
    enterRestart 3 true { s with start := { s.start with forceCold := s.start.forceCold || decide (s.dev = .warmStart) } }
  else s

/-- BRACE ends with the return condition: OPERATIONAL without a reset (R215). -/
def braceEnd (s : State) : State :=
  safeMsg 4 (sendMsg 1808 (ssRequest (ms 2) (setDev .operational (endBrace s))))

/-- The return condition holds (R215, R217, R280). -/
def returned (s : State) : State :=
  let vr := s.pwr.atReset
  let s := { s with pwr := { s.pwr with returnOk := true, below := false, atReset := false }
                    memCtl := { s.memCtl with patrolStopped := false } }
  if s.dev = .brace ∧ !vr then braceEnd s
  else if isStarting s ∧ s.start.readySeen then enterOperational s
  else s

/-- Judge a sample in mV. -/
def vsenseJudge (mv : Int) (s : State) : State :=
  let p := s.pwr
  let warn := if mv < vwarn s then min 2 (p.warnRun + 1) else 0
  let rst := if mv ≤ vreset s then min 2 (p.resetRun + 1) else 0
  let ret := if ((vwarn s + 500 : Nat) : Int) ≤ mv then min 501 (p.returnRun + 1) else 0
  let s := { s with pwr := { p with warnRun := warn, resetRun := rst, returnRun := ret, returnOk := p.returnOk && decide (ret ≠ 0) } }
  let s := if warn = 2 ∧ !p.below then declareBelow s else s
  let s := if rst = 2 ∧ p.resetRun ≠ 2 then declareReset s else s
  if ret = 501 ∧ p.returnRun ≠ 501 then returned s else s

/-- The sample as VBAT_MV holds it; a value outside its 16 bits is not stated (log entry 15). -/
def vsenseShown (mv : Int) (s : State) : State :=
  let fits := decide (0 ≤ mv ∧ mv < 65536)
  let v := if fits then mv.toNat else freeValue s % 65536
  let s := if fits then s else takeFree s
  { s with pwr := { s.pwr with nowMv := v, minMv := min s.pwr.minMv v } }

/-- VSENSE_SAMPLE (R204, R209 to R218). -/
def execVsenseSample (tapUv : Int) (s : State) : Host.Outcome State Fault Refusal :=
  .next (if !s.pwr.aonOn then s else
    let s := advanceTo (s.pwr.lastSample + us 10) s
    let s := { s with pwr := { s.pwr with lastSample := s.now } }
    let mv := vsenseMv s tapUv
    vsenseJudge mv (vsenseShown mv s))

/-- BRACE_RETURN (R210, R215): the samples still missing from the 501 of the dwell arrive at or above the return level; the
latest of them, whose value the command does not give, is free in that range. -/
def execBraceReturn (s : State) : Host.Outcome State Fault Refusal :=
  .next (if !(decide (s.dev = .brace)) || s.pwr.atReset then s else
    let s := advanceTo (s.pwr.lastSample + (501 - s.pwr.returnRun) * us 10) s
    let lo := vwarn s + 500
    let mv := lo + freeValue s % (65536 - lo)
    returned (takeFree { s with pwr := { s.pwr with lastSample := s.now, nowMv := mv, warnRun := 0, resetRun := 0, returnRun := 501 } }))

/-! ### The controlled reset and restart requests (R218, R229 to R233, R851) -/

/-- CONTROLLED_RESET_DONE (R218, R177, R851): a pending capture and its record are completed, every strand is in self-refresh, and
DRAM retention is valid. -/
def execControlledResetDone (s : State) : Host.Outcome State Fault Refusal :=
  .next (if !(decide (s.dev = .restart)) || !s.pwr.ctrlPending then s else
    let s := if s.sdg.ssFlight.isSome || s.sdg.ssBound.isSome then advanceTo (s.sdg.restartWait.getD s.now) s else s
    let s := { s with sdg := { s.sdg with restartWait := none, ssFlight := none, ssBound := none } }
    let s := frzFill [] (frzLatch s)
    let s := iterate s.frz.recordDue.length (fun _ t => writeRecord t) s
    { s with pwr := { s.pwr with ctrlPending := false, retention := true }
             memCtl := { s.memCtl with selfRefresh := true, patrolOn := false } })

/-- A restart request from WARM_REQ_N (cause 6) or from 0x2500:01 (cause 7). -/
def requestRestart (cause : Nat) (warm : Bool) (s : State) : State :=
  if isUp s then enterRestart cause warm s
  else if s.dev = .warmStart then
    startFailed 15 false { s with start := { s.start with requestInWarm := s.start.requestInWarm || warm } }
  else if s.dev = .off then s
  else odCount (odKey 0x2500 9) 1 s

/-- WARM_REQ_N_FALL (R229, R232, R233, R29, R876). -/
def execWarmReqNFall (lowNs : Nat) (s : State) : Host.Outcome State Fault Refusal :=
  .next (if us 10 ≤ lowNs then requestRestart 6 true s else s)

/-! ### Temperatures and the PMIC (R226, R227, R870, R872) -/

/-- The hottest of a list of readings with its sensor, the lower number on a tie. -/
def hottest : Nat → List Int → Option (Nat × Int)
  | _, [] => none
  | i, t :: r => match hottest (i + 1) r with
    | some (j, u) => if t < u then some (j, u) else some (i, t)
    | none => some (i, t)

/-- TEMP_SENSOR_UPDATE (R870, R872): TEMP_LIMIT when a sensor reaches 125.0 °C. -/
def execTempSensorUpdate (temps : List Int) (s : State) : Host.Outcome State Fault Refusal :=
  .next (match hottest 0 (temps.take 24) with
    | none => s
    | some (i, t) =>
      if !s.pwr.aonOn || decide (s.dev = .off) then s else
      let s := advanceTo (s.pwr.lastTemp + ms 1) s
      let hot := maskOf ((List.range 24).filter (fun k => decide (1250 ≤ temps.getD k (-400))))
      let fresh := decide (clearMask hot s.pwr.hotMask ≠ 0)
      let was := toSigned 16 (odGet s (odKey 0x2101 2))
      let s := odPut (odKey 0x2101 1) (ofSigned 16 t) (odPut (odKey 0x2101 2) (ofSigned 16 (max was t)) s)
      let s := { s with pwr := { s.pwr with lastTemp := s.now, hotMask := hot, hotSensor := i, hotTemp := t } }
      if fresh then raiseAlarm 0x43 s else s)

/-- One answer of the PMIC to a read of STATUS_WORD of page `p`, none when it did not answer. -/
def pmicWord (p : Nat) (w : Option Nat) (s : State) : State :=
  let s := emit (.pmbus p 0x79) s
  match w with
  | some v =>
    let bad := decide (v % 65536 ≠ 0)
    let fresh := bad && !bit s.pwr.pmicBad p
    let s := { s with pwr := { s.pwr with pmicMiss := 0, pmicBad := if bad then s.pwr.pmicBad ||| 2 ^ p else clearMask s.pwr.pmicBad (2 ^ p) } }
    if fresh then raiseAlarm 0x42 s else s
  | none =>
    let n := s.pwr.pmicMiss + 1
    let s := { s with pwr := { s.pwr with pmicMiss := min 4 n } }
    if n = 3 then raiseAlarm 0x42 s else s

/-- One pass over the monitored pages. -/
def pmicPass (words : List (Option Nat)) (s : State) : State :=
  ((setBits 8 (odUse s (odKey 0x2100 0x0C))).zip words).foldl (fun t x => pmicWord x.1 x.2 t) s

/-- PMIC_POLL (R227): one millisecond after the previous pass began. -/
def execPmicPoll (words : List (Option Nat)) (s : State) : Host.Outcome State Fault Refusal :=
  .next (if !blocksOn s then s else
    let s := advanceTo (s.pwr.lastPoll + ms 1) s
    pmicPass words { s with pwr := { s.pwr with lastPoll := s.now } })

/-- PMB_ALERT (R227). -/
def execPmbAlert (words : List (Option Nat)) (s : State) : Host.Outcome State Fault Refusal :=
  .next (if blocksOn s then pmicPass words s else s)

end Sys2Proof.Machine
end

