-- ==== Sys2Proof/Machine/Registers.lean ====
section
/-! DEFINITION. The effect of a write to any register, by its address, and the accesses that reach any register (02, 18). -/

namespace Sys2Proof.Machine

/-- A write to a register of a Pack instance page. -/
def pageEff (n off v : Nat) (s : State) : WriteRes :=
  if off = 0x2C then instCtrlEff n v s
  else if off = 0x480 then
    .done (genericWrite (instPage n + 0x480) (maskOf ((setBits 16 v).filter (fun t => assignedTo s n (32 + t)))) s)
  else if off = 0x618 then kseqEff n v s
  else if off = 0x630 then swapCfgEff n v s
  else if 0x1000 ≤ off ∧ off < 0x5000 then
    let q := (off - 0x1000) / 0x40
    let f := (off - 0x1000) % 0x40
    if f = 0 ∨ f = 8 ∨ f = 0x10 then qCfgEff n q f v s
    else if f = 0x14 then doorbellEff n q v s
    else if f = 0x24 then queueCtlEff n q v s
    else .done (genericWrite (instPage n + off) v s)
  else .done (genericWrite (instPage n + off) v s)

/-- A write to a register of SYS, SDG, FRZ or PWR. -/
def sysEff (a v : Nat) (acc : Access) (s : State) : WriteRes :=
  if a = 0x10000204 then handoverEff v none acc s
  else if a = 0x1000020C then confirmEff v acc s
  else if a = 0x10000210 then coreReleaseEff v s
  else if a = 0x10000240 then appReleaseEff v s
  else if a = 0x10100060 then swAlarmEff v s
  else if 0x10100100 ≤ a ∧ a < 0x10100180 ∧ a % 8 = 0 then wdgKickEff ((a - 0x10100100) / 8) v acc s
  else if 0x10200000 ≤ a ∧ a < 0x10300000 then frzEff a v s
  else if a = 0x10300030 then readyEff v s
  else .done (genericWrite a v s)

/-- A write to a register of the Raster engine, the display pipes or the camera streams. -/
def mediaEff (a v : Nat) (s : State) : WriteRes :=
  if 0x14010000 ≤ a ∧ a < 0x14030000 then gfxEff ((a - 0x14010000) / 0x1000) ((a - 0x14010000) % 0x1000) v s
  else if 0x14801000 ≤ a ∧ a < 0x14801800 ∧ 0x10 ≤ (a - 0x14801000) % 0x200 ∧ (a - 0x14801000) % 0x200 < 0x30 then
    planeAddrEff ((a - 0x14801000) / 0x200) (((a - 0x14801000) % 0x200 - 0x10) / 8) v s
  else if 0x14802000 ≤ a ∧ a < 0x14803000 ∧ (a - 0x14802000) % 0x400 = 0x100 then expCommitEff ((a - 0x14802000) / 0x400) v s
  else if 0x15001000 ≤ a ∧ a < 0x15003000 then camEff ((a - 0x15001000) / 0x40) ((a - 0x15001000) % 0x40) v s
  else .done (genericWrite a v s)

/-- A write to a register of the switch, Tether, the CAN controllers, SPLICE or WHISTLE. -/
def netEff (a v : Nat) (acc : Access) (s : State) : WriteRes :=
  if 0x16001800 ≤ a ∧ a < 0x16001A00 then
    portRingEff ((a - 0x16001000) / 0x100) ((a - 0x16001000) % 0x100 / 0x20) (a % 0x20) v acc s
  else if 0x16400000 ≤ a ∧ a < 0x16800000 then tetherEff a v acc s
  else if 0x16801010 ≤ a ∧ a < 0x16804000 ∧ (a - 0x16801000) % 0x400 = 0xCC then tpReleaseEff ((a - 0x16801000) / 0x400) v s
  else if 0x16801010 ≤ a ∧ a < 0x16804000 ∧ 0x10 ≤ (a - 0x16801000) % 0x400 ∧ (a - 0x16801000) % 0x400 < 0x90 then
    canRingEff ((a - 0x16801000) / 0x400) (((a - 0x16801000) % 0x400 - 0x10) / 0x20) (((a - 0x16801000) % 0x400 - 0x10) % 0x20) v s
  else if a = 0x17000040 then epMsiEff v (bit (freeValue s) 0) (takeFree s)
  else if 0x17800000 ≤ a ∧ a < 0x18000000 then whEff a v s
  else .done (genericWrite a v s)

/-- A write to a register of the interrupt router, KNOT or SEC. -/
def cpuEff (a v : Nat) (acc : Access) (s : State) : WriteRes :=
  if 0x18010000 ≤ a ∧ a < 0x18018000 then msgRouteEff ((a - 0x18010000) / 8) v acc s
  else if 0x18020000 ≤ a ∧ a < 0x18020800 then safeRouteEff ((a - 0x18020000) / 8) v s
  else if 0x18420000 ≤ a ∧ a < 0x18428000 then knotWriteEff a v s
  else if 0x18440000 ≤ a ∧ a < 0x18448000 ∧ a % 0x20 = 0x14 then armEff false ((a - 0x18440000) / 0x20) v acc s
  else if 0x18450000 ≤ a ∧ a < 0x18450400 ∧ a % 0x20 = 0x14 then armEff true ((a - 0x18450000) / 0x20) v acc s
  else if a = 0x19000020 then twKickEff v acc s
  else if a = 0x19000090 then measGoEff v acc s
  else if 0x19000200 ≤ a ∧ a < 0x19000400 ∧ a % 0x20 = 8 then mboxDoorbellEff ((a - 0x19000200) / 0x20) v s
  else if 0x19000200 ≤ a ∧ a < 0x19000400 ∧ a % 0x20 = 0xC then mboxRespEff ((a - 0x19000200) / 0x20) v s
  else .done (genericWrite a v s)

/-- The effect of a write of a value to the register at an address. -/
def regEff (a v : Nat) (acc : Access) (s : State) : WriteRes :=
  if a < 0x11000000 then sysEff a v acc s
  else if 0x12000000 ≤ a ∧ a < 0x13000000 then pageEff ((a - 0x12000000) / 0x10000) ((a - 0x12000000) % 0x10000) v s
  else if 0x14000000 ≤ a ∧ a < 0x16000000 then mediaEff a v s
  else if 0x16000000 ≤ a ∧ a < 0x18000000 then netEff a v acc s
  else if 0x18000000 ≤ a then cpuEff a v acc s
  else .done (genericWrite a v s)

/-- A write access of a value, to a register or to memory. -/
def accessWrite (acc : Access) (v : Nat) (s : State) : State :=
  match regionOf acc.addr (acc.bits / 8) with
  | some .dram | some .sram | some .landing =>
    memoryAccess acc true (acc.bits / 8) (fun s =>
      match memoryWrite acc.req false acc.addr ((leBytes (acc.bits / 8) v).map some) s with
      | (s, none) => emit (.writeOk acc.req acc.addr) s
      | (s, some st) => accessRefused acc st s) s
  | _ => regWriteWith regEff acc v s

/-- A read access, of a register or of memory. -/
def accessRead (acc : Access) (s : State) : State :=
  match regionOf acc.addr (acc.bits / 8) with
  | some .dram | some .sram | some .landing =>
    memoryAccess acc false (acc.bits / 8) (fun s => answerRead acc (readRange acc.addr (acc.bits / 8) s)) s
  | _ => regRead acc s

/-- REGISTER_WRITE (R35 to R44, R50). -/
def execRegisterWrite (acc : Access) (value : Word) (s : State) : Host.Outcome State Fault Refusal :=
  .next (accessWrite acc value.toNat s)

/-- LOW_HALF_READ (R47): a read of a register, the low half of a 64-bit one among them. -/
def execLowHalfRead (acc : Access) (s : State) : Host.Outcome State Fault Refusal := .next (accessRead acc s)

/-- HIGH_HALF_READ (R48, R49). -/
def execHighHalfRead (acc : Access) (s : State) : Host.Outcome State Fault Refusal := .next (accessRead acc s)

/-- LOW_HALF_WRITE (R50). -/
def execLowHalfWrite (acc : Access) (value : Word) (s : State) : Host.Outcome State Fault Refusal :=
  .next (accessWrite acc value.toNat s)

/-- HIGH_HALF_WRITE (R50, R51). -/
def execHighHalfWrite (acc : Access) (value : Word) (s : State) : Host.Outcome State Fault Refusal :=
  .next (accessWrite acc value.toNat s)

/-- SEMAPHORE_AMO (R783, R784). -/
def execSemaphoreAmo (acc : Access) (op : AmoOp) (operand : Word) (far : FarAnswer) (s : State) : Host.Outcome State Fault Refusal :=
  .next (semAmo regEff acc op operand.toNat far s)

/-- SEMAPHORE_SC (R784). A PCIe write is posted, so what the far side answers does not end it. -/
def execSemaphoreSc (acc : Access) (value : Word) (_far : FarAnswer) (s : State) : Host.Outcome State Fault Refusal :=
  .next (semSc regEff acc value.toNat s)

/-- PCIE_INBOUND_REQUEST (R802 to R804). -/
def execPcieInboundRequest (busAddr : Nat) (len : Nat) (wr : Option (List (Option Byte))) (s : State) :
    Host.Outcome State Fault Refusal := .next (pcieInbound regEff busAddr len wr s)

/-- FAR_MASTER_CYCLE (R795, R796). -/
def execFarMasterCycle (farAddr : Nat) (len : Nat) (wr : Option (List (Option Byte))) (s : State) : Host.Outcome State Fault Refusal :=
  .next (farCycle regEff farAddr len wr s)

end Sys2Proof.Machine
end

