-- ==== Sys2Proof/Machine/Od.lean ====
section
/-! DEFINITION. The object dictionary as Leash, CANopen FD and the blocks reach it: what entries read as, the checks of R129, and
what an accepted write does (03, and the entries of every block). -/

namespace Sys2Proof.Machine

/-! ### Types (R80, R115) -/

/-- Bytes of a numeric type; none for strings, octet strings and DOMAINs. -/
def odBytes : OdType → Option Nat
  | .bool | .u8 | .i8 => some 1
  | .u16 | .i16 => some 2
  | .u32 => some 4
  | .u64 => some 8
  | _ => none

/-- The largest value of a string or DOMAIN, and the size of an octet string. -/
def odMost : OdType → Nat
  | .str n | .oct n | .dom n => n
  | _ => 8

/-- Whether a value of a type may have a size (step 7). -/
def odSizeOk (t : OdType) (n : Nat) : Bool :=
  match t with
  | .oct m => n = m
  | .str _ | .dom _ => true
  | t => odBytes t = some n

/-- A stored value as a number with its sign. -/
def odSigned (t : OdType) (v : Nat) : Int :=
  match t with
  | .i8 => toSigned 8 v
  | .i16 => toSigned 16 v
  | _ => v

/-! ### What entries read as -/

/-- The error register (R98). -/
def errorRegister (s : State) : Nat :=
  b2n (decide (s.dev = .safeHold ∨ s.dev = .restart ∨ s.dev = .failed)) + 4 * b2n (decide (s.dev = .brace)) +
  16 * b2n ((List.range 12).any (fun c => decide (3 ≤ (getCan s c).state))) + 128 * b2n s.start.maskedRec

/-- A role is locked out (R121). -/
def roleLocked (s : State) (r : Nat) : Bool :=
  match tabGet (fun _ => none) s.leash.lockout r with
  | some t => decide (s.now < t)
  | none => false

/-- A session slot. -/
def getSession (s : State) (i : Nat) : Option Session := tabGet (fun _ => none) s.leash.sessions i

/-- Free bytes of the KV pool: its page area without the pages in use or still to be zeroed. -/
def poolFree (s : State) : Nat := (s.kennel.size - 2) * 0x200000 - ((pagesTaken s).map Prod.snd).sum

/-- Entries 0x1XXX and 0x20XX to 0x25XX that show the state. -/
def liveDevice (s : State) (k : Nat) : Option Nat :=
  if k = odKey 0x1001 0 then some (errorRegister s)
  else if k = odKey 0x2000 1 then some (devCode s.dev)
  else if k = odKey 0x2002 4 then some ((List.range 4).filter (fun i => (getSession s i).any (fun x => x.opened))).length
  else if k = odKey 0x2002 8 then some (b2n s.leash.up)
  else if k = odKey 0x2100 5 then some s.pwr.nowMv
  else if k = odKey 0x2100 6 then some s.pwr.minMv
  else if k = odKey 0x2100 8 then some (match s.pwr.braceAt with
    | some t => min 0xFFFFFFFF (max (odGet s k) ((s.now - t) / 1000))
    | none => odGet s k)
  else if k = odKey 0x2200 0x11 then some (b2n s.start.maskedRec)
  else if k = odKey 0x2300 4 then some s.frz.full
  else if k = odKey 0x2500 0x0B then some (match s.start.lbistAt with
    | some t => min 0xFFFFFFFF ((s.now - t) / 1000000000)
    | none => 0)
  else none

/-- Entries of the Pack, CIM, the Kennel and the instances that show the state. -/
def livePack (s : State) (k : Nat) : Option Nat :=
  if k = odKey 0x2800 1 then some (min 0xFFFF (packInFlight s))
  else if k = odKey 0x2A00 9 then some (overdueMask s)
  else if odKey 0x2A10 0 ≤ k ∧ k < odKey 0x2A20 0 ∧ k % 256 = 1 then
    some (maskOf ((List.range 64).filter (fun m => !(getMacro s (k / 256 - 0x2A10) m).ready)))
  else if k = odKey 0x2B00 3 then some (poolFree s)
  else if k = odKey 0x2B00 4 then some (s.kennel.seqs.filter (fun p => decide (p.2.state ≠ 0))).length
  else match instOfKey k with
    | some (n, 6) => some (getInst s n).state
    | some (n, 7) => some (getInst s n).gen
    | some (n, 8) => some (getInst s n).cfgGen
    | _ => none

/-- Entries of the other blocks that show the state. -/
def liveBlocks (s : State) (k : Nat) : Option Nat :=
  if k = odKey 0x2C00 6 then some (partitionBytes s 3 / 0x40000)
  else if k = odKey 0x2D00 3 then some (camsOn s)
  else if k = odKey 0x2E00 6 then some s.net.ptp
  else if k = odKey 0x2F10 2 then some ((blobGet s (odKey 0x2F10 1)).length / 64)
  else if k = odKey 0x3200 3 then some (b2n s.start.pcieMode)
  else if k = odKey 0x3200 4 then some (if isUp s then Config.pcieLink % 256 else 0)
  else if k = odKey 0x3400 1 then some s.fuses.lifecycleIn
  else if k = odKey 0x3400 4 then some s.fuses.rollbackIn
  else if k = odKey 0x3401 5 then some (maskOf ((List.range 4).filter (fun i => roleLocked s (i + 1))))
  else if k = odKey 0x3500 1 then some (maskOf ((List.range 12).filter (fun c => (getApp s c).released)))
  else if k = odKey 0x3501 1 then some s.fuses.splitMaskIn
  else if k = odKey 0x3501 2 then some (b2n s.start.splitStrap)
  else if k = odKey 0x3501 3 then some s.lock.bootSplit
  else match pendantOfKey k with
    | some (n, 4) => some (getPendant s n).h
    | _ => none

/-- A numeric entry as it reads. -/
def odLive (s : State) (k : Nat) : Nat :=
  match liveDevice s k with
  | some v => v
  | none => match livePack s k with
    | some v => v
    | none => (liveBlocks s k).getD (odGet s k)

/-- Calibration values of a CIM tile (R432). -/
def calBlob (s : State) (t : Nat) : List Byte :=
  (List.range 64).flatMap (fun m => padTo 8256 ((getMacro s t m).fit.flatMap (fun f => leBytes 2 f.1 ++ leBytes 2 f.2)))

/-- One slot of a layer table as R432 shows it. -/
def layerSlot (s : State) (t : Nat) (l : Option Layer) : List Byte :=
  match l with
  | none => zeros 40
  | some l => leBytes 4 l.model ++ padTo 32 (leBytes 2 l.num ++ leBytes 1 l.first ++ leBytes 1 l.gr ++ leBytes 1 l.gc ++
      leBytes 1 l.flags ++ leBytes 2 l.k ++ leBytes 2 l.n) ++ leBytes 4 (if layerLoading s t l then 1 else 2)

/-- Layer table of a CIM tile (R432). -/
def layerBlob (s : State) (t : Nat) : List Byte :=
  (List.range 64).flatMap (fun i => layerSlot s t (tabGet (fun _ => none) (getCt s t).layers i))

/-- A string, octet string or DOMAIN as it reads. -/
def odBlobLive (s : State) (k : Nat) : List Byte :=
  if k = odKey 0x100A 0 then s.start.version
  else if k = odKey 0x2301 1 then bankBlob s 0
  else if k = odKey 0x2301 2 then bankBlob s 1
  else if odKey 0x2A10 0 ≤ k ∧ k < odKey 0x2A20 0 ∧ k % 256 = 2 then calBlob s (k / 256 - 0x2A10)
  else if odKey 0x2A10 0 ≤ k ∧ k < odKey 0x2A20 0 ∧ k % 256 = 3 then layerBlob s (k / 256 - 0x2A10)
  else if k = odKey 0x2B01 2 then
    let h := odGet s (odKey 0x2B01 1) % 4096
    seqDesc h (getSeq s h) ++ pageList h (getSeq s h)
  else if odKey 0x5000 0 ≤ k ∧ k < odKey 0x5008 0 then recordSlot s (k / 256 - 0x5000)
  else blobGet s k

/-- DOMAINs that the device computes and keeps no change counter of in the model (log entry 47). -/
def odComputed (k : Nat) : Bool :=
  decide (odKey 0x2A10 0 ≤ k ∧ k < odKey 0x2A20 0) || decide (k = odKey 0x2B01 2)

/-- The change counter of an entry as it is reported (R132). A computed DOMAIN that differs from what was last reported has changed
at least once since; how often is a free value. -/
def changeCounter (k : Nat) (s : State) : State × Nat :=
  if k = odKey 0x2301 1 then (s, s.frz.change0)
  else if k = odKey 0x2301 2 then (s, s.frz.change1)
  else
    let c := tabGet (fun _ => 0) s.odChange k
    let now := odBlobLive s k
    if odComputed k ∧ tabGet (fun _ => []) s.leash.seen k ≠ now then
      let d := (c + 1 + freeValue s % (2 ^ 32 - 1)) % 2 ^ 32
      (takeFree { s with odChange := tabSet (fun _ => 0) s.odChange k d,
                         leash := { s.leash with seen := tabSet (fun _ => []) s.leash.seen k now } }, d)
    else (s, c)

/-- A value's bytes: numbers most significant byte first on Leash, least significant first on CAN (R113, R154). -/
def odValue (s : State) (k : Nat) (r : OdRow) (big : Bool) : List Byte :=
  match odBytes r.typ with
  | some n => if big then beBytes n (odLive s k) else leBytes n (odLive s k)
  | none => odBlobLive s k

/-- What a read does beside answering: a read of 0x2F00 lets the next drop send a message (R719). -/
def odTouch (k : Nat) (s : State) : State :=
  if k / 256 = 0x2F00 then { s with net := { s.net with dropSent := false } } else s

/-- Whether a role may make an access (R86 to R89, R888). -/
def roleMay (r : OdRow) (role : Nat) (wr : Bool) : Bool := (!wr && r.acc = .rw) || bit r.roles (role - 1)

/-- The checks of R129 on a read, from step 2 on: the status of the first that fails. -/
def odReadCheck (s : State) (k role : Nat) (segmented : Bool) : Option Nat :=
  match odRow k with
  | none => some 0x80
  | some r =>
    if !roleMay r role false then some 0x03
    else if r.acc = .wo then some 0x82
    else if !segmented && decide (1024 < (odValue s k r true).length) then some 0x88
    else none

/-! ### Ranges (step 10) -/

/-- The plain range of a numeric entry. -/
def plainRange (r : OdRow) (v : Nat) : Bool :=
  decide (r.lo ≤ odSigned r.typ v ∧ odSigned r.typ v ≤ r.hi)

/-- A must-verify range or safety region value is in range (R255, R298). -/
def spanOk (v : Nat) : Bool :=
  decide (bits v 62 52 = 0 ∧ bits v 31 20 = 0) &&
  (!bit v 63 || decide (bits v 19 0 ≠ 0 ∧ bits v 51 32 + bits v 19 0 ≤ 0x100000))

/-- Total size of the enabled must-verify ranges with one of them replaced (R243). -/
def verifyTotal (s : State) (k v : Nat) : Nat :=
  ((List.range 16).map (fun n =>
    let w := if odKey 0x2502 (n + 1) = k then v else odGet s (odKey 0x2502 (n + 1))
    match rangeOf w with
    | some r => r.2
    | none => 0)).sum

/-- Ranges that a carve-out may not overlap beside the other carve-out: stage-1 and the enabled access windows (R480). -/
def carveBarred (s : State) : List (Nat × Nat) :=
  let win := fun (v : Nat) => if bit v 63 then [windowRange v] else []
  (0x4000000000, 0x200000) ::
  ((List.range 256).flatMap (fun n => (List.range 16).flatMap (fun w => win (odGet s (instKey n (0x10 + w))))) ++
   (List.range 32).flatMap (fun q => (List.range 16).flatMap (fun w => win (odGet s (gKey q (0x10 + w))))))

/-- The rule of R480 for the KV pool and the Tether area. -/
def carveRange (s : State) (k v : Nat) : Bool :=
  let g := fun (e : Nat) => if k = e then v else odGet s e
  let pool := (0x4000000000 + g (odKey 0x2B00 1) * 0x200000, g (odKey 0x2B00 2) * 0x200000)
  let area := (0x4000000000 + g (odKey 0x3100 2) * 0x200000, 0x80000)
  let free := fun (r o : Nat × Nat) => decide (r.2 = 0) ||
    (decide (r.1 + r.2 ≤ 0x5000000000) && (decide (o.2 = 0) || !rangesMeet r o) && (carveBarred s).all (fun b => !rangesMeet r b))
  if k = odKey 0x2B00 1 ∨ k = odKey 0x2B00 2 then
    decide (g (odKey 0x2B00 2) = 0 ∨ (3 ≤ g (odKey 0x2B00 2) ∧ g (odKey 0x2B00 2) ≤ 8192)) && free pool area
  else if k = odKey 0x3100 2 then free area pool
  else true

/-- Transmit PDO and subindex of an entry of 0x2010 to 0x201F. -/
def pdoOfKey (k : Nat) : Option (Nat × Nat) :=
  if odKey 0x2010 0 ≤ k ∧ k < odKey 0x2020 0 then some (k / 256 - 0x2010, k % 256) else none

/-- Key of an entry of transmit PDO `n`. -/
def pdoKey (n sub : Nat) : Nat := odKey (0x2010 + n) sub

/-- The mapped entries of a PDO: key and length in bits. -/
def pdoMap (s : State) (n : Nat) : List (Nat × Nat) :=
  (List.range (odGet s (pdoKey n 4))).map (fun i =>
    let m := odGet s (pdoKey n (5 + i))
    (bits m 31 8, bits m 7 0))

/-- Whether a PDO may be enabled (R153). -/
def pdoOk (s : State) (n : Nat) : Bool :=
  let m := pdoMap s n
  decide (1 ≤ m.length ∧ m.length ≤ 16 ∧ (m.map Prod.snd).sum ≤ 512) && m.all (fun e =>
    match odRow e.1 with
    | some r => r.can && (r.acc = .const || r.acc = .ro) && (match odBytes r.typ with | some b => decide (e.2 = 8 * b) | none => false)
    | none => false)

/-- The range rules of chapters 03 to 07 and 17 beyond the plain ranges (R100, R102, R103, R107, R150, R153, R199, R202, R205, R208,
R243, R255, R298, R762). -/
def sysRange (s : State) (k v : Nat) : Bool :=
  let i := k / 256
  let sub := k % 256
  if k = odKey 0x1003 0 then v = 0
  else if k = odKey 0x1010 1 then v = 0x65766173
  else if k = odKey 0x1011 1 then v = 0x64616F6C
  else if k = odKey 0x1017 0 then decide (v = 0 ∨ (10 ≤ v ∧ v ≤ 10000))
  else if k = odKey 0x2003 1 then decide (v ≤ 11 ∨ v = 0xFF)
  else if k = odKey 0x2100 1 then decide (v = 12 ∨ v = 24)
  else if k = odKey 0x2100 3 then decide (odGet s (odKey 0x2100 4) + 1000 ≤ v)
  else if k = odKey 0x2100 4 then decide (v + 1000 ≤ odGet s (odKey 0x2100 3))
  else if k = odKey 0x2200 9 then decide (bits v 31 30 = 0) && (bit v 29 || decide (bits v 28 11 = 0))
  else if i = 0x2202 then (decide (v = 0) && decide (sub ≠ 1)) || decide (bits v 31 16 < bits v 15 0)
  else if i = 0x2401 then spanOk v
  else if i = 0x2502 then spanOk v && decide (verifyTotal s k v ≤ 2 ^ 31)
  else if k = odKey 0x3100 1 then
    !([0x0800, 0x0806, 0x8100, 0x86DD, 0x88A8, 0x88F7, 0x22F0, odGet s (odKey 0x2002 2)].contains v)
  else if i = 0x3501 ∧ 8 ≤ sub ∧ sub ≤ 0x0B then v % 4 = 0
  else match pdoOfKey k with
    | some (n, 1) => bit v 31 || pdoOk s n
    | _ => true

/-- A numeric value, or the bytes of a string or DOMAIN, is in the range of its entry. -/
def odInRange (s : State) (k : Nat) (r : OdRow) (v : Nat) (blob : List Byte) : Bool :=
  (match odBytes r.typ with
   | some _ => plainRange r v && sysRange s k v && carveRange s k v
   | none => decide (blob.length ≤ odMost r.typ)) &&
  instRange s k v && rosterRange s k v blob && camRange s k v && dispRange s k v blob && gfxRange s k v && netRange k v blob &&
  knotRange k v && fuseRange s k v && whRange s k v && frzRange s k v && spliceRange s k v blob &&
  (decide (k ≠ odKey 0x3401 4) || decide (blob ≠ zeros 32))

/-! ### Busy entries (step 9) and unavailable writes (step 4) -/

/-- Entries whose value is a wrapped secret (R140, R819). -/
def odWrapped (k : Nat) : Bool :=
  decide (odKey 0x3401 1 ≤ k ∧ k ≤ odKey 0x3401 4) || (pendantOfKey k).any (fun p => decide (p.2 = 3))

/-- Step 4: in FAILED every write is UNAVAILABLE, in BRACE a store and the fuses, without the trusted world a secret. -/
def odUnavailable (s : State) (k : Nat) : Bool :=
  decide (s.dev = .failed) || (decide (s.dev = .brace) && decide (k = odKey 0x1010 1)) || (odWrapped k && !trustedUp s) ||
  fuseUnavailable s k

/-- Step 9: the entry is locked by a segmented write or by its own state. A write of the Pack mode waits for the scrub in progress
(log entry 46). -/
def odBusy (s : State) (k v : Nat) : Bool :=
  s.leash.segW.any (fun w => decide (w.2.key = k)) ||
  (decide (k = odKey 0x1010 1) && s.leash.store.isSome) ||
  (match pdoOfKey k with | some (n, sub) => decide (2 ≤ sub) && !bit (odGet s (pdoKey n 1)) 31 | none => false) ||
  (decide (k = odKey 0x2805 1 ∨ k = odKey 0x2805 2) && s.pack.scrub.isSome) ||
  instBusy s k v || rosterBusy s k || camBusy s k || dispBusy s k || gfxBusy s k || whBusy s k || frzBusy s k

/-- The checks of R129 on a write from step 2 to step 8: the status of the first that fails. -/
def odWriteCheck (s : State) (k role size : Nat) (segmented : Bool) : Option Nat :=
  match odRow k with
  | none => some 0x80
  | some r =>
    if !roleMay r role true then some 0x03
    else if odUnavailable s k then some 0x0F
    else if r.acc = .const ∨ r.acc = .ro then some 0x81
    else if size = 0 then some 0x01
    else if !odSizeOk r.typ size then some 0x83
    else if 0x100000 < size || (!segmented && decide (1024 < size)) then some 0x88
    else none

/-! ### Store and restore (R103 to R107) -/

/-- Whether an entry is stored (R81). -/
def odStored (k : Nat) : Bool := (odRow k).any (fun r => r.stored)

/-- The older copy (R103). -/
def olderCopy (p : Params) : Nat :=
  if !p.copy0.valid then 0 else if !p.copy1.valid then 1 else if p.copy0.seq ≤ p.copy1.seq then 0 else 1

/-- The next store sequence number (R103). -/
def nextStore (p : Params) : Nat :=
  (max (if p.copy0.valid then p.copy0.seq else 0) (if p.copy1.valid then p.copy1.seq else 0) + 1) % 2 ^ 32

/-- A store is accepted: the live values are captured, and the older copy has no valid tag until the store ends (R104, R105). -/
def storeBegin (m : LeashMsg) (s : State) : State :=
  let c := olderCopy s.params
  let run : StoreRun := { msg := m, vals := s.od.filter (fun p => odStored p.1), blobs := s.odBlob.filter (fun p => odStored p.1), copy := c }
  let p := s.params
  { s with leash := { s.leash with store := some run }
           params := if c = 0 then { p with copy0 := { p.copy0 with valid := false } } else { p with copy1 := { p.copy1 with valid := false } } }

/-- A store ends with a valid tag: the copy, the mark and the result (R105, R107, R109). -/
def storeWritten (r : StoreRun) (s : State) : State :=
  let p := s.params
  let c : ParamCopy := { valid := true, seq := nextStore p, vals := r.vals, blobs := r.blobs }
  odPut (odKey 0x2004 2) 0 { s with params := if r.copy = 0 then { copy0 := c, copy1 := p.copy1 } else { copy0 := p.copy0, copy1 := c } }

/-! ### What an accepted write does -/

/-- Clear the error history (R100). -/
def historyClear (s : State) : State := (List.range 9).foldl (fun t i => odPut (odKey 0x1003 i) 0 t) s

/-- The credential of a role (R140, R145): `none` disabled. -/
def getCred (s : State) (r : Nat) : Option (List Byte) :=
  tabGet (fun r => if r = 4 then some (deviceBytes 4 32) else none) s.leash.creds r

/-- Replace the credential of a role; 32 zero bytes disable it (R143). -/
def putCred (r : Nat) (v : List Byte) (s : State) : State :=
  let c := if v = zeros 32 then none else some v
  { s with leash := { s.leash with
      creds := tabSet (fun r => if r = 4 then some (deviceBytes 4 32) else none) s.leash.creds r c } }

/-- Entries whose write is an action and leaves no live value of its own. -/
def odAction (k : Nat) (r : OdRow) : Bool :=
  r.acc = .wo || decide (k = odKey 0x1003 0 ∨ k = odKey 0x1010 1 ∨ k = odKey 0x1011 1)

/-- The live value takes what was written; a nominal voltage brings the thresholds of its supply (R207). -/
def odTake (k v : Nat) (blob : List Byte) (r : OdRow) (s : State) : State :=
  if odAction k r then s else
  match odBytes r.typ with
  | none => blobPut k blob s
  | some _ =>
    let s := odPut k v s
    if k = odKey 0x2100 1 then
      odPut (odKey 0x2100 4) (if v = 12 then 6000 else 12000) (odPut (odKey 0x2100 3) (if v = 12 then 9000 else 18000) s)
    else s

/-- The actions of chapter 03 and 05: the history, the restore mark, the restart request, secrets, a PDO that is enabled. -/
def sysApply (k v : Nat) (blob : List Byte) (s : State) : State :=
  if k = odKey 0x1003 0 then historyClear s
  else if k = odKey 0x1011 1 then { s with params := { s.params with mark := true } }
  else if k = odKey 0x2500 1 then requestRestart 7 (decide (v = 1)) s
  else if odKey 0x3401 1 ≤ k ∧ k ≤ odKey 0x3401 4 then putCred (k % 256) blob s
  else match pendantOfKey k with
    | some (n, 3) => whKey n blob s
    | _ => match pdoOfKey k with
      | some (n, 1) => if bit v 31 then s else { s with canopen := { s.canopen with lastPdo := tabSet (fun _ => 0) s.canopen.lastPdo n s.now } }
      | _ => s

/-- Everything an accepted write does (R91, R92): the live value, then what the block concerned does with it. -/
def odApply (k v : Nat) (blob : List Byte) (r : OdRow) (s : State) : State :=
  let t := odTake k v blob r s
  let t := rosterApply k v s (instApply k v s t)
  let t := dispApply k v (camApply k v t)
  let t := knotApply k v s (netApply k v blob t)
  let t := spliceApply k (frzApply k v (fuseApply k v t))
  sysApply k v blob t

/-- A write whose size the checks have passed: steps 9 and 10, then its effect. The status, or none when the answer waits for the end
of a store or of a Pack scrub. `commit` says whether the trusted world commits a secret (R142). -/
def odFinish (k : Nat) (r : OdRow) (val : List Byte) (commit : Bool) (m : LeashMsg) (s : State) : State × Option Nat :=
  let v := if (odBytes r.typ).isSome then beNat val else 0
  let blob := if (odBytes r.typ).isSome then [] else val
  if odBusy s k v then (s, some 0x85)
  else if !odInRange s k r v blob then (s, some 0x84)
  else if odWrapped k && !commit then (s, some 0x0F)
  else if k = odKey 0x1010 1 then (storeBegin m s, none)
  else
    let t := odApply k v blob r s
    if s.pack.scrub.isNone && t.pack.scrub.isSome then ({ t with leash := { t.leash with scrubReply := some m } }, none)
    else (t, some 0)

/-- A write of an entry by a role: the status, or none for an answer that comes later. A refused write changes nothing but the count
of ignored restart requests in FAILED (R29). -/
def odWrite (k role : Nat) (val : List Byte) (segmented commit : Bool) (m : LeashMsg) (s : State) : State × Option Nat :=
  match odWriteCheck s k role val.length segmented, odRow k with
  | some st, _ => (if st = 0x0F ∧ k = odKey 0x2500 1 ∧ s.dev = .failed then odCount (odKey 0x2500 9) 1 s else s, some st)
  | none, some r => odFinish k r val commit m s
  | none, none => (s, some 0x80)

end Sys2Proof.Machine
end

