-- ==== Sys2Proof/Machine/CanOpen.lean ====
section
/-! DEFINITION. The CANopen FD node (R146 to R155): the USDO server, the heartbeat, the transmit PDOs, NMT commands. -/

namespace Sys2Proof.Machine

/-- The node takes part in its bus. -/
def nodeOn (s : State) : Bool := s.canopen.active && isUp s && canRunning s (odUse s (odKey 0x2003 1))

/-- The USDO server aborts a request and counts it. -/
def usdoAbort (k : Nat) (s : State) : State := emit (.usdo k none) (odCount (odKey 0x2003 4) 1 s)

/-- USDO_UPLOAD (R95, R146, R147): a CAN-visible entry is answered with its value, any other request aborted. -/
def execUsdoUpload (index sub : Nat) (s : State) : Host.Outcome State Fault Refusal :=
  let k := odKey index (sub % 256)
  .next (if !nodeOn s then s else
    match odRow k with
    | some r => if r.can && decide (r.acc ≠ .wo) then emit (.usdo k (some (odValue s k r false))) (odTouch k s) else usdoAbort k s
    | none => usdoAbort k s)

/-- USDO_DOWNLOAD (R146): always aborted. -/
def execUsdoDownload (index sub : Nat) (s : State) : Host.Outcome State Fault Refusal :=
  .next (if nodeOn s then usdoAbort (odKey index (sub % 256)) s else s)

/-- NMT_COMMAND (R146): counted, otherwise ignored. -/
def execNmtCommand (_command _node : Nat) (s : State) : Host.Outcome State Fault Refusal :=
  .next (if nodeOn s then odCount (odKey 0x2003 3) 1 s else s)

/-- HEARTBEAT_PRODUCER (R102, R148): one producer time after the previous heartbeat. -/
def execHeartbeatProducer (s : State) : Host.Outcome State Fault Refusal :=
  let p := odGet s (odKey 0x1017 0)
  .next (if !nodeOn s || decide (p = 0) then s else
    let s := advanceTo (s.canopen.lastBeat + ms p) s
    nodeSend (nodeBeat s (if s.dev = .safeHold then 4 else 5)) { s with canopen := { s.canopen with lastBeat := s.now } })

/-- The next CAN FD data length. -/
def canFdLen (n : Nat) : Nat := ([0, 1, 2, 3, 4, 5, 6, 7, 8, 12, 16, 20, 24, 32, 48, 64].find? (fun l => decide (n ≤ l))).getD 64

/-- The data of a transmit PDO: its mapped entries in order, least significant byte first, padded (R154, R155). -/
def pdoData (s : State) (n : Nat) : List Byte :=
  let d := (pdoMap s n).flatMap (fun e => leBytes (e.2 / 8) (odLive s e.1))
  padTo (canFdLen d.length) d

/-- TPDO_EVENT_TIMER (R148, R151, R154): one event time after the previous frame of an enabled PDO. -/
def execTpdoEventTimer (n : Fin 16) (s : State) : Host.Outcome State Fault Refusal :=
  let n := n.val
  let cob := odGet s (pdoKey n 1)
  .next (if !nodeOn s || bit cob 31 then s else
    let s := advanceTo (tabGet (fun _ => 0) s.canopen.lastPdo n + ms (odGet s (pdoKey n 2))) s
    let ide := bit cob 29
    let f : CanFrame := { ident := if ide then cob % 2 ^ 29 else cob % 2 ^ 11, ide := ide, fdf := true,
                          brs := decide (odGet s (pdoKey n 3) = 1), esi := false, rtr := false, data := pdoData s n }
    nodeSend f { s with canopen := { s.canopen with lastPdo := tabSet (fun _ => 0) s.canopen.lastPdo n s.now } })

end Sys2Proof.Machine
end

