-- ==== Sys2Proof/Machine/Leash.lean ====
section
/-! DEFINITION. Leash on the management port (03): sessions, authentication, replay, the requests, segmented transfer, credentials,
and every command that arrives as a Leash request. -/

namespace Sys2Proof.Machine

/-! ### Messages (R113, R118) -/

/-- Header of a message as sent. -/
def leashHeader (m : LeashMsg) : List Byte :=
  beBytes 1 m.version ++ beBytes 1 m.typ ++ beBytes 1 m.status ++ beBytes 1 m.role ++ beBytes 4 m.sessionId ++ beBytes 4 m.seq ++
  beBytes 2 m.length ++ beBytes 2 m.reserved

/-- TAG of a message under a key (R118). -/
def leashTag (key : List Byte) (m : LeashMsg) : List Byte := (hmac256 key (leashHeader m ++ m.payload)).take 16

/-- A message carries a valid TAG: it is whole, and the TAG matches. -/
def tagValid (key : List Byte) (m : LeashMsg) : Bool := decide (m.payload.length = m.length ∧ m.tag = leashTag key m)

/-- A message that the device sends, without its TAG. -/
def leashOut (s : State) (typ status role sid seq : Nat) (payload : List Byte) : LeashMsg :=
  let p := if status = 0 then payload else []
  { etherType := odUse s (odKey 0x2002 2), dst := 0, tagged := false, version := 1, typ := (typ + 0x80) % 256, status := status,
    role := role, sessionId := sid, seq := seq, length := p.length, reserved := 0, payload := p, tag := [] }

/-- The same with its TAG. -/
def leashSigned (key : List Byte) (m : LeashMsg) : LeashMsg := { m with tag := leashTag key m }

/-- Count a message discarded for its tag or its session (R126). -/
def tagDiscard (s : State) : State := odCount (odKey 0x2002 5) 1 s

/-! ### Sessions (R116 to R123, R128, R135) -/

/-- Replace a session slot. -/
def putSession (i : Nat) (x : Option Session) (s : State) : State :=
  { s with leash := { s.leash with sessions := tabSet (fun _ => none) s.leash.sessions i x } }

/-- Free a session slot; its transfers end (R134, R135). -/
def closeSession (i : Nat) (s : State) : State :=
  let s := putSession i none s
  { s with leash := { s.leash with segW := s.leash.segW.filter (fun w => decide (w.1 ≠ i)) } }

/-- The slot of a session identifier. -/
def findSession (s : State) (sid : Nat) : Option (Nat × Session) :=
  firstSome (fun i => match getSession s i with
    | some x => if x.id = sid then some (i, x) else none
    | none => none) (List.range 4)

/-- A free slot. -/
def freeSession (s : State) : Option Nat := (List.range 4).find? (fun i => (getSession s i).isNone)

/-- A nonzero identifier that no session holds, from a free value on. -/
def newSessionId (s : State) : Nat :=
  let w := freeValue s
  ((List.range 5).map (fun i => (w + i) % (2 ^ 32 - 1) + 1)).find? (fun i => (findSession s i).isNone) |>.getD 1

/-- A fresh nonce of 16 bytes. -/
def newNonce (s : State) : List Byte :=
  leBytes 8 (freeValue (takeFree s)) ++ leBytes 8 (freeValue (takeFree (takeFree s)))

/-- The keys of a session (R117): prk, key_up, key_down. -/
def sessionKeys (cred clientNonce deviceNonce : List Byte) (sid role : Nat) : List Byte × List Byte × List Byte :=
  let prk := hkdfExtract (clientNonce ++ deviceNonce) cred
  let okm := hkdfExpand prk (ascii "LEASH v1" ++ beBytes 4 sid ++ beBytes 1 role) 64
  (prk, okm.take 32, okm.drop 32)

/-- The status of a HELLO: BAD_DESCRIPTOR, LOCKED_OUT, ACCESS_DENIED, UNAVAILABLE, or DONE (R121 to R123). -/
def helloStatus (m : LeashMsg) (s : State) : Nat :=
  if m.version ≠ 1 ∨ m.role < 1 ∨ 4 < m.role ∨ m.length ≠ 16 ∨ m.payload.length ≠ 16 ∨ m.status ≠ 0 ∨ m.sessionId ≠ 0 ∨ m.seq ≠ 0 ∨
    m.reserved ≠ 0 then 0x10
  else if roleLocked s m.role then 0x8A
  else if (getCred s m.role).isNone then 0x03
  else if (freeSession s).isNone then 0x0F
  else 0

/-- A HELLO (R116, R117). -/
def leashHelloEff (m : LeashMsg) (s : State) : State :=
  let st := helloStatus m s
  match freeSession s, getCred s m.role with
  | some i, some cred =>
    if st ≠ 0 then emit (.leash (leashOut s 1 st m.role 0 0 [])) s else
    let sid := newSessionId s
    let dn := newNonce s
    let k := sessionKeys cred m.payload dn sid m.role
    let x : Session := { id := sid, role := m.role, prk := k.1, keyUp := k.2.1, keyDown := k.2.2, since := s.now }
    let t := putSession i (some x) (takeFree (takeFree (takeFree s)))
    emit (.leash (leashOut t 1 0 m.role sid 0 (dn ++ deviceBytes 5 4))) t
  | _, _ => emit (.leash (leashOut s 1 st m.role 0 0 [])) s

/-- A failed proof: counted, and the fifth in a row locks the role out for 60 s (R119, R121). -/
def proveFailed (i : Nat) (x : Session) (m : LeashMsg) (s : State) : State :=
  let s := closeSession i (odCount (odKey 0x2002 7) 1 s)
  let n := tabGet (fun _ => 0) s.leash.fails x.role + 1
  let lock := decide (5 ≤ n)
  let l := s.leash
  let s := { s with leash := { l with
    fails := tabSet (fun _ => 0) l.fails x.role (if lock then 0 else n)
    lockout := if lock then tabSet (fun _ => none) l.lockout x.role (some (s.now + ms 60000)) else l.lockout } }
  emit (.leash (leashOut s 2 0x03 x.role x.id m.seq [])) s

/-- A PROVE with a valid TAG opens the session (R119); one with a wrong fixed field does not. -/
def proveEff (i : Nat) (x : Session) (m : LeashMsg) (s : State) : State :=
  if m.version ≠ 1 ∨ m.status ≠ 0 ∨ m.seq ≠ 0 ∨ m.length ≠ 0 ∨ m.reserved ≠ 0 ∨ m.role ≠ x.role then
    emit (.leash (leashSigned x.keyDown (leashOut s 2 0x10 x.role x.id m.seq []))) s
  else
    let r := leashSigned x.keyDown (leashOut s 2 0 x.role x.id 0 (beBytes 2 (odUse s (odKey 0x2002 3)) ++ beBytes 2 1024))
    let y : Session := { x with opened := true, lastSeq := 0, cached := some r, since := s.now }
    let s := putSession i (some y) s
    emit (.leash r) { s with leash := { s.leash with fails := tabSet (fun _ => 0) s.leash.fails x.role 0 } }

/-! ### Answers (R114, R125, R128) -/

/-- Answer a request: the response is kept for a repeat; the session ends after CLOSE and after the last SEQ. -/
def leashAnswer (m : LeashMsg) (status : Nat) (payload : List Byte) (s : State) : State :=
  match findSession s m.sessionId with
  | none => s
  | some (i, x) =>
    let r := leashSigned x.keyDown (leashOut s m.typ status x.role x.id m.seq payload)
    let s := emit (.leash r) (putSession i (some { x with cached := some r }) s)
    if (m.typ = 0x16 ∧ status = 0) ∨ m.seq = 0xFFFFFFFF then closeSession i s else s

/-- Close every session of a role (R144). -/
def closeRole (role : Nat) (s : State) : State :=
  (List.range 4).foldl (fun t i => if (getSession t i).any (fun x => decide (x.role = role)) then closeSession i t else t) s

/-! ### Requests (R129 to R135, R141) -/

/-- Key of the entry that a request names: index in bytes 0 and 1, subindex in byte 2. -/
def reqKey (m : LeashMsg) : Nat := odKey (beAt m.payload 0 2) (beAt m.payload 2 1)

/-- Step 1 of R129: TYPE, LENGTH, fixed and reserved fields, and the role that the session holds. -/
def requestOk (x : Session) (m : LeashMsg) : Bool :=
  let n := m.length
  let indexed := decide (m.typ = 0x10 ∨ m.typ = 0x11 ∨ m.typ = 0x12 ∨ m.typ = 0x14)
  decide (m.version = 1 ∧ m.status = 0 ∧ m.reserved = 0 ∧ m.role = x.role) &&
  (!indexed || decide (beAt m.payload 3 1 = 0)) &&
  (match m.typ with
   | 0x10 | 0x12 | 0x13 => n = 4
   | 0x11 => decide (4 ≤ n ∧ n ≤ 1468)
   | 0x14 => n = 8
   | 0x15 => decide (4 ≤ n ∧ n ≤ 1028)
   | 0x16 | 0x17 => n = 0
   | _ => false)

/-- The pad of a wrapped secret: 32 bytes for a credential (R141), 16 for a pendant key (R821). -/
def wrapPad (x : Session) (m : LeashMsg) : List Byte :=
  let k := reqKey m
  let id := beBytes 4 x.id ++ beBytes 4 m.seq
  if k / 256 = 0x3401 then hkdfExpand x.prk (ascii "WRAP" ++ id ++ beBytes 1 (k % 256)) 32
  else hkdfExpand x.prk (ascii "PKEY" ++ id ++ beBytes 2 (k / 256) ++ beBytes 1 (k % 256)) 16

/-- The value that a WRITE carries, unwrapped where it is a secret. -/
def reqValue (x : Session) (m : LeashMsg) : List Byte :=
  let v := m.payload.drop 4
  let p := wrapPad x m
  if odWrapped (reqKey m) && decide (v.length = p.length) then List.zipWith (fun a b => a ^^^ b) v p else v

/-- READ. -/
def reqRead (x : Session) (m : LeashMsg) (s : State) : State :=
  let k := reqKey m
  match odReadCheck s k x.role false, odRow k with
  | some st, _ => leashAnswer m st [] s
  | none, some r => leashAnswer m 0 (m.payload.take 4 ++ odValue s k r true) (odTouch k s)
  | none, none => leashAnswer m 0x80 [] s

/-- WRITE. A credential write closes every session of its role once it is answered (R144). -/
def reqWrite (x : Session) (m : LeashMsg) (commit : Bool) (s : State) : State :=
  let k := reqKey m
  match odWrite k x.role (reqValue x m) false commit m s with
  | (s, none) => s
  | (s, some st) =>
    let s := leashAnswer m st (m.payload.take 4) s
    if st = 0 ∧ k / 256 = 0x3401 then closeRole (k % 256) s else s

/-- Whether an entry may be carried in segments: strings, octet strings and DOMAINs, and of these no wrapped secret. -/
def segmentable (k : Nat) : Bool := (odRow k).any (fun r => (odBytes r.typ).isNone) && !odWrapped k

/-- SEG_READ_INIT (R131, R132). -/
def reqSegReadInit (i : Nat) (x : Session) (m : LeashMsg) (s : State) : State :=
  let k := reqKey m
  let s := putSession i (some { x with seg := none }) s
  match odReadCheck s k x.role true with
  | some st => leashAnswer m st [] s
  | none =>
    if !segmentable k then leashAnswer m 0x83 [] s else
    let n := (odBlobLive s k).length
    let r := changeCounter k s
    let g : Seg := { key := k, total := n, counter := r.2, data := [], done := 0 }
    leashAnswer m 0 (beBytes 4 n ++ beBytes 4 r.2) (putSession i (some { x with seg := some g }) r.1)

/-- SEG_READ (R131, R132). -/
def reqSegRead (i : Nat) (x : Session) (m : LeashMsg) (s : State) : State :=
  let off := beAt m.payload 0 4
  let ended := putSession i (some { x with seg := none }) s
  match x.seg with
  | none => leashAnswer m 0x86 [] ended
  | some g =>
    if off ≠ g.done then leashAnswer m 0x86 [] ended else
    let r := changeCounter g.key s
    if r.2 ≠ g.counter then leashAnswer m 0x87 [] (putSession i (some { x with seg := none }) r.1) else
    let d := slice (odBlobLive s g.key) off 1024
    let h : Option Seg := if g.total ≤ off + d.length then none else some { g with done := off + d.length }
    leashAnswer m 0 (beBytes 4 off ++ beBytes 4 g.counter ++ d) (putSession i (some { x with seg := h }) r.1)

/-- SEG_WRITE_INIT (R129, R133). -/
def reqSegWriteInit (i : Nat) (x : Session) (m : LeashMsg) (s : State) : State :=
  let k := reqKey m
  let n := beAt m.payload 4 4
  match odWriteCheck s k x.role n true with
  | some st => leashAnswer m st [] s
  | none =>
    if !segmentable k then leashAnswer m 0x83 [] s
    else if s.leash.segW.isSome || odBusy s k 0 then leashAnswer m 0x85 [] s
    else
      let g : Seg := { key := k, total := n, counter := 0, data := [], done := 0 }
      leashAnswer m 0 [] { s with leash := { s.leash with segW := some (i, g) } }

/-- SEG_WRITE (R131, R134). -/
def reqSegWrite (i : Nat) (x : Session) (m : LeashMsg) (commit : Bool) (s : State) : State :=
  let off := beAt m.payload 0 4
  let d := m.payload.drop 4
  match s.leash.segW with
  | none => leashAnswer m 0x86 [] s
  | some (o, g) =>
    if o ≠ i then leashAnswer m 0x86 [] s else
    let ended := { s with leash := { s.leash with segW := none } }
    if off ≠ g.done ∨ d.length ≠ min 1024 (g.total - off) then leashAnswer m 0x86 [] ended
    else if off + d.length < g.total then
      leashAnswer m 0 (beBytes 4 off)
        { s with leash := { s.leash with segW := some (i, { g with data := g.data ++ d, done := off + d.length }) } }
    else match odWrite g.key x.role (g.data ++ d) true commit m ended with
      | (s, none) => s
      | (s, some st) => leashAnswer m st (beBytes 4 off) s

/-- Execute a request of an open session (R129). -/
def execRequest (i : Nat) (x : Session) (m : LeashMsg) (commit : Bool) (s : State) : State :=
  if !requestOk x m then leashAnswer m 0x10 [] s else
  match m.typ with
  | 0x10 => reqRead x m s
  | 0x11 => reqWrite x m commit s
  | 0x12 => reqSegReadInit i x m s
  | 0x13 => reqSegRead i x m s
  | 0x14 => reqSegWriteInit i x m s
  | 0x15 => reqSegWrite i x m commit s
  | _ => leashAnswer m 0 [] s

/-- A valid request of an open session: executed when it is the next, answered again when it is the last, discarded otherwise (R125).
It restarts the idle timeout (R128). -/
def openRequest (i : Nat) (x : Session) (m : LeashMsg) (commit : Bool) (s : State) : State :=
  let x : Session := { x with since := s.now }
  let s := putSession i (some x) s
  if m.seq = x.lastSeq then (match x.cached with | some r => emit (.leash r) s | none => s)
  else if m.seq ≠ x.lastSeq + 1 then odCount (odKey 0x2002 6) 1 s
  else
    let y : Session := { x with lastSeq := m.seq, cached := none }
    execRequest i y m commit (putSession i (some y) s)

/-- A Leash message arrives at the management port (R111, R118, R119, R126, R137); its TYPE says what it is. -/
def leashReceive (m : LeashMsg) (commit : Bool) (s : State) : State :=
  if !s.leash.up || m.tagged || decide (m.dst ≠ odGet s (odKey 0x2002 1)) || decide (m.etherType ≠ odUse s (odKey 0x2002 2)) then s
  else if m.typ = 1 then leashHelloEff m s
  else match findSession s m.sessionId with
    | none => tagDiscard s
    | some (i, x) =>
      if !tagValid x.keyUp m then
        (if m.typ = 2 ∧ !x.opened then proveFailed i x m s else tagDiscard s)
      else if x.opened then openRequest i x m commit s
      else if m.typ = 2 then proveEff i x m s
      else tagDiscard s

/-! ### The Leash commands -/

/-- LEASH_HELLO (R116, R117, R121 to R123). -/
def execLeashHello (m : LeashMsg) (s : State) : Host.Outcome State Fault Refusal := .next (leashReceive m true s)

/-- LEASH_PROVE (R119, R121). -/
def execLeashProve (m : LeashMsg) (s : State) : Host.Outcome State Fault Refusal := .next (leashReceive m true s)

/-- LEASH_READ (R129). -/
def execLeashRead (m : LeashMsg) (s : State) : Host.Outcome State Fault Refusal := .next (leashReceive m true s)

/-- LEASH_WRITE (R129, R91, R92). -/
def execLeashWrite (m : LeashMsg) (s : State) : Host.Outcome State Fault Refusal := .next (leashReceive m true s)

/-- LEASH_SEG_READ_INIT (R131, R132). -/
def execLeashSegReadInit (m : LeashMsg) (s : State) : Host.Outcome State Fault Refusal := .next (leashReceive m true s)

/-- LEASH_SEG_READ (R131, R132). -/
def execLeashSegRead (m : LeashMsg) (s : State) : Host.Outcome State Fault Refusal := .next (leashReceive m true s)

/-- LEASH_SEG_WRITE_INIT (R133). -/
def execLeashSegWriteInit (m : LeashMsg) (s : State) : Host.Outcome State Fault Refusal := .next (leashReceive m true s)

/-- LEASH_SEG_WRITE (R131, R134). -/
def execLeashSegWrite (m : LeashMsg) (s : State) : Host.Outcome State Fault Refusal := .next (leashReceive m true s)

/-- LEASH_CLOSE (R128, R135). -/
def execLeashClose (m : LeashMsg) (s : State) : Host.Outcome State Fault Refusal := .next (leashReceive m true s)

/-- LEASH_NOP (R114). -/
def execLeashNop (m : LeashMsg) (s : State) : Host.Outcome State Fault Refusal := .next (leashReceive m true s)

/-- PROVE_TIMEOUT (R120). -/
def execProveTimeout (slot : Fin 4) (s : State) : Host.Outcome State Fault Refusal :=
  .next (match getSession s slot.val with
    | some x => if x.opened then s else closeSession slot.val (advanceTo (x.since + ms 2000) s)
    | none => s)

/-- IDLE_TIMEOUT (R128). -/
def execIdleTimeout (slot : Fin 4) (s : State) : Host.Outcome State Fault Refusal :=
  .next (match getSession s slot.val with
    | some x => if x.opened then closeSession slot.val (advanceTo (x.since + ms (1000 * odUse s (odKey 0x2002 3))) s) else s
    | none => s)

/-- LOCKOUT_EXPIRY (R121): `role` is the role code less 1. -/
def execLockoutExpiry (role : Fin 4) (s : State) : Host.Outcome State Fault Refusal :=
  .next (match tabGet (fun _ => none) s.leash.lockout (role.val + 1) with
    | some t =>
      let s := advanceTo t s
      { s with leash := { s.leash with lockout := tabSet (fun _ => none) s.leash.lockout (role.val + 1) none } }
    | none => s)

/-- STORE_ALL_PARAMETERS (R103 to R106). -/
def execStoreAllParameters (m : LeashMsg) (s : State) : Host.Outcome State Fault Refusal := .next (leashReceive m true s)

/-- STORE_DONE (R105, R107, R109): the copy is written and read back, with a valid tag or not; the request is answered. -/
def execStoreDone (tagOk : Bool) (s : State) : Host.Outcome State Fault Refusal :=
  .next (match s.leash.store with
    | none => s
    | some r =>
      let s := { s with leash := { s.leash with store := none } }
      if tagOk then
        let s := storeWritten r s
        leashAnswer r.msg 0 (r.msg.payload.take 4) { s with params := { s.params with mark := false } }
      else leashAnswer r.msg 0x89 [] (odPut (odKey 0x2004 2) 0x89 s))

/-- RESTORE_DEFAULT_PARAMETERS (R107). -/
def execRestoreDefaultParameters (m : LeashMsg) (s : State) : Host.Outcome State Fault Refusal := .next (leashReceive m true s)

/-- ERROR_HISTORY_CLEAR (R100). -/
def execErrorHistoryClear (m : LeashMsg) (s : State) : Host.Outcome State Fault Refusal := .next (leashReceive m true s)

/-- CREDENTIAL_WRITE (R140 to R144): `committed` when the trusted world commits it. -/
def execCredentialWrite (m : LeashMsg) (committed : Bool) (s : State) : Host.Outcome State Fault Refusal :=
  .next (leashReceive m committed s)

/-- PENDANT_KEY_WRITE (R820, R821). -/
def execPendantKeyWrite (m : LeashMsg) (committed : Bool) (s : State) : Host.Outcome State Fault Refusal :=
  .next (leashReceive m committed s)

/-- RESTART_REQUEST (R229, R231, R233). -/
def execRestartRequest (m : LeashMsg) (s : State) : Host.Outcome State Fault Refusal := .next (leashReceive m true s)

/-- ENGINE_KIND_WRITE (R475, R440 to R444). -/
def execEngineKindWrite (m : LeashMsg) (s : State) : Host.Outcome State Fault Refusal := .next (leashReceive m true s)

/-- ROSTER_TABLE_WRITE (R451, R464, R466). -/
def execRosterTableWrite (m : LeashMsg) (s : State) : Host.Outcome State Fault Refusal := .next (leashReceive m true s)

/-- ROSTER_SELECT (R465 to R468). -/
def execRosterSelect (m : LeashMsg) (s : State) : Host.Outcome State Fault Refusal := .next (leashReceive m true s)

/-- PACK_MODE_WRITE (R472 to R474). -/
def execPackModeWrite (m : LeashMsg) (s : State) : Host.Outcome State Fault Refusal := .next (leashReceive m true s)

/-- PACK_SCRUB_DONE (R474): the scrub ends after `tookUs` µs, and the write that began it is answered. -/
def execPackScrubDone (tookUs : Nat) (s : State) : Host.Outcome State Fault Refusal :=
  .next (match s.pack.scrub with
    | none => s
    | some t =>
      let s := packScrub (advanceTo (t + us tookUs) s)
      let s := odMax (odKey 0x2805 3) tookUs { s with pack := { s.pack with scrub := none } }
      match s.leash.scrubReply with
      | none => s
      | some m =>
        leashAnswer m 0 (m.payload.take 4) { s with leash := { s.leash with scrubReply := none } })

/-- INSTANCE_CREATE (R525, R526). -/
def execInstanceCreate (m : LeashMsg) (s : State) : Host.Outcome State Fault Refusal := .next (leashReceive m true s)

/-- INSTANCE_RESET (R529 to R533): by its entry, or by INST_CTRL.RESET of its page. -/
def execInstanceReset (n : Fin 256) (acc : Access) (od : Option LeashMsg) (s : State) : Host.Outcome State Fault Refusal :=
  .next (match od with
    | some m => leashReceive m true s
    | none => regWriteWith (fun _ v _ t => instCtrlEff n.val v t) (atReg acc (instPage n.val + 0x2C)) 1 s)

/-- INSTANCE_REMOVE (R536, R537). -/
def execInstanceRemove (m : LeashMsg) (s : State) : Host.Outcome State Fault Refusal := .next (leashReceive m true s)

/-- STREAM_ENABLE (R552, R578). -/
def execStreamEnable (m : LeashMsg) (s : State) : Host.Outcome State Fault Refusal := .next (leashReceive m true s)

/-- STREAM_DISABLE (R574). -/
def execStreamDisable (m : LeashMsg) (s : State) : Host.Outcome State Fault Refusal := .next (leashReceive m true s)

/-- PIPE_ENABLE (R610, R627). -/
def execPipeEnable (m : LeashMsg) (s : State) : Host.Outcome State Fault Refusal := .next (leashReceive m true s)

/-- LIFECYCLE_ADVANCE (R645, R649). -/
def execLifecycleAdvance (m : LeashMsg) (s : State) : Host.Outcome State Fault Refusal := .next (leashReceive m true s)

/-- ROLLBACK_RAISE (R645, R649). -/
def execRollbackRaise (m : LeashMsg) (s : State) : Host.Outcome State Fault Refusal := .next (leashReceive m true s)

/-- SPLIT_MASK_PROGRAM (R308, R649). -/
def execSplitMaskProgram (m : LeashMsg) (s : State) : Host.Outcome State Fault Refusal := .next (leashReceive m true s)

/-- KNOT_ASSIGN (R662, R671). -/
def execKnotAssign (m : LeashMsg) (s : State) : Host.Outcome State Fault Refusal := .next (leashReceive m true s)

/-- GATE_CONTROL_LIST_WRITE (R680). -/
def execGateControlListWrite (m : LeashMsg) (s : State) : Host.Outcome State Fault Refusal := .next (leashReceive m true s)

/-- CAN_RECOVER (R697 to R699). -/
def execCanRecover (m : LeashMsg) (s : State) : Host.Outcome State Fault Refusal := .next (leashReceive m true s)

/-- RULE_TABLE_WRITE (R705, R706). -/
def execRuleTableWrite (m : LeashMsg) (s : State) : Host.Outcome State Fault Refusal := .next (leashReceive m true s)

/-- POLL_LIST_WRITE (R786). -/
def execPollListWrite (m : LeashMsg) (s : State) : Host.Outcome State Fault Refusal := .next (leashReceive m true s)

/-- PENDANT_SLOT_ENABLE (R819, R820). -/
def execPendantSlotEnable (m : LeashMsg) (s : State) : Host.Outcome State Fault Refusal := .next (leashReceive m true s)

/-- FRZ_TRIGGER_NOW (R833). -/
def execFrzTriggerNow (m : LeashMsg) (s : State) : Host.Outcome State Fault Refusal := .next (leashReceive m true s)

/-- FRZ_SCHEDULE (R835). -/
def execFrzSchedule (m : LeashMsg) (s : State) : Host.Outcome State Fault Refusal := .next (leashReceive m true s)

/-- FRZ_RELEASE (R845): by the register, or by entry 0x2300:05. -/
def execFrzRelease (acc : Access) (value : Word) (od : Option LeashMsg) (s : State) : Host.Outcome State Fault Refusal :=
  .next (match od with
    | some m => leashReceive m true s
    | none => regWriteWith (fun a v _ t => frzEff a v t) (atReg acc 0x10200084) value.toNat s)

/-- FRZ_CLEAR_RECORDS (R850). -/
def execFrzClearRecords (m : LeashMsg) (s : State) : Host.Outcome State Fault Refusal := .next (leashReceive m true s)

end Sys2Proof.Machine
end

