-- ==== Sys2Proof/Machine/Dispatch.lean ====
section
/-! DEFINITION. One arm per command: a direct call of its meaning, or a rejection by name. -/

namespace Sys2Proof.Machine

/-- The effect of a command on everything but the queue. -/
def exec (i : Instr) (s : State) : Host.Outcome State Fault Refusal :=
  match i with
  | .vddAonPowerOn porstHigh splitStrap pcieMode env => Sys2Proof.Machine.execVddAonPowerOn porstHigh splitStrap pcieMode env s
  | .vddAonRemoved => Sys2Proof.Machine.execVddAonRemoved s
  | .porstNAssert lowNs => Sys2Proof.Machine.execPorstNAssert lowNs s
  | .porstNRelease splitStrap pcieMode env => Sys2Proof.Machine.execPorstNRelease splitStrap pcieMode env s
  | .retentionRailExcursion rail => Sys2Proof.Machine.execRetentionRailExcursion rail s
  | .coreRailUndervoltage rail => Sys2Proof.Machine.execCoreRailUndervoltage rail s
  | .railWindow rail => Sys2Proof.Machine.execRailWindow rail s
  | .vsenseSample tapUv => Sys2Proof.Machine.execVsenseSample tapUv s
  | .braceReturn => Sys2Proof.Machine.execBraceReturn s
  | .controlledResetDone => Sys2Proof.Machine.execControlledResetDone s
  | .restartExit env => Sys2Proof.Machine.execRestartExit env s
  | .startReady acc value => Sys2Proof.Machine.execStartReady acc value s
  | .readyTimeout => Sys2Proof.Machine.execReadyTimeout s
  | .warmReqNFall lowNs => Sys2Proof.Machine.execWarmReqNFall lowNs s
  | .restartRequest m => Sys2Proof.Machine.execRestartRequest m s
  | .tempSensorUpdate temps => Sys2Proof.Machine.execTempSensorUpdate temps s
  | .pmicPoll words => Sys2Proof.Machine.execPmicPoll words s
  | .pmbAlert words => Sys2Proof.Machine.execPmbAlert words s
  | .alarm numbers => Sys2Proof.Machine.execAlarm numbers s
  | .alarmLine equalNs => Sys2Proof.Machine.execAlarmLine equalNs s
  | .sdgSelf => Sys2Proof.Machine.execSdgSelf s
  | .safeAckNChange low => Sys2Proof.Machine.execSafeAckNChange low s
  | .safeAckConfirmed => Sys2Proof.Machine.execSafeAckConfirmed s
  | .safeAckMissing => Sys2Proof.Machine.execSafeAckMissing s
  | .restartFrameWaitEnd => Sys2Proof.Machine.execRestartFrameWaitEnd s
  | .aliveToggle => Sys2Proof.Machine.execAliveToggle s
  | .safetyStatusPeriodic => Sys2Proof.Machine.execSafetyStatusPeriodic s
  | .safetyStatusTxDone => Sys2Proof.Machine.execSafetyStatusTxDone s
  | .safetyMsgFail => Sys2Proof.Machine.execSafetyMsgFail s
  | .wdgKick n acc value => Sys2Proof.Machine.execWdgKick n acc value s
  | .wdgWindowOpen n => Sys2Proof.Machine.execWdgWindowOpen n s
  | .wdgWindowClose n => Sys2Proof.Machine.execWdgWindowClose n s
  | .swAlarm acc value => Sys2Proof.Machine.execSwAlarm acc value s
  | .clockMon clock count => Sys2Proof.Machine.execClockMon clock count s
  | .clkSdgMonitor hz forNs => Sys2Proof.Machine.execClkSdgMonitor hz forNs s
  | .latentTest failing => Sys2Proof.Machine.execLatentTest failing s
  | .fabricTimeout waitedNs => Sys2Proof.Machine.execFabricTimeout waitedNs s
  | .registerWrite acc value => Sys2Proof.Machine.execRegisterWrite acc value s
  | .lowHalfRead acc => Sys2Proof.Machine.execLowHalfRead acc s
  | .highHalfRead acc => Sys2Proof.Machine.execHighHalfRead acc s
  | .lowHalfWrite acc value => Sys2Proof.Machine.execLowHalfWrite acc value s
  | .highHalfWrite acc value => Sys2Proof.Machine.execHighHalfWrite acc value s
  | .generationWaitEnd n => Sys2Proof.Machine.execGenerationWaitEnd n s
  | .generationWaitTimeout n => Sys2Proof.Machine.execGenerationWaitTimeout n s
  | .leashHello m => Sys2Proof.Machine.execLeashHello m s
  | .leashProve m => Sys2Proof.Machine.execLeashProve m s
  | .leashRead m => Sys2Proof.Machine.execLeashRead m s
  | .leashWrite m => Sys2Proof.Machine.execLeashWrite m s
  | .leashSegReadInit m => Sys2Proof.Machine.execLeashSegReadInit m s
  | .leashSegRead m => Sys2Proof.Machine.execLeashSegRead m s
  | .leashSegWriteInit m => Sys2Proof.Machine.execLeashSegWriteInit m s
  | .leashSegWrite m => Sys2Proof.Machine.execLeashSegWrite m s
  | .leashClose m => Sys2Proof.Machine.execLeashClose m s
  | .leashNop m => Sys2Proof.Machine.execLeashNop m s
  | .proveTimeout slot => Sys2Proof.Machine.execProveTimeout slot s
  | .idleTimeout slot => Sys2Proof.Machine.execIdleTimeout slot s
  | .lockoutExpiry role => Sys2Proof.Machine.execLockoutExpiry role s
  | .storeAllParameters m => Sys2Proof.Machine.execStoreAllParameters m s
  | .storeDone tagValid => Sys2Proof.Machine.execStoreDone tagValid s
  | .restoreDefaultParameters m => Sys2Proof.Machine.execRestoreDefaultParameters m s
  | .errorHistoryClear m => Sys2Proof.Machine.execErrorHistoryClear m s
  | .credentialWrite m committed => Sys2Proof.Machine.execCredentialWrite m committed s
  | .usdoUpload index sub => Sys2Proof.Machine.execUsdoUpload index sub s
  | .usdoDownload index sub => Sys2Proof.Machine.execUsdoDownload index sub s
  | .nmtCommand command node => Sys2Proof.Machine.execNmtCommand command node s
  | .heartbeatProducer => Sys2Proof.Machine.execHeartbeatProducer s
  | .tpdoEventTimer n => Sys2Proof.Machine.execTpdoEventTimer n s
  | .dramRead acc len upsets cache => Sys2Proof.Machine.execDramRead acc len upsets cache s
  | .demandScrub addr => Sys2Proof.Machine.execDemandScrub addr s
  | .sramRead acc len upsets => Sys2Proof.Machine.execSramRead acc len upsets s
  | .codedWrite acc posted bytes => Sys2Proof.Machine.execCodedWrite acc posted bytes s
  | .patrolScrub upsets sramUpsets packSymbols => Sys2Proof.Machine.execPatrolScrub upsets sramUpsets packSymbols s
  | .patrolPassStart => Sys2Proof.Machine.execPatrolPassStart s
  | .lockstepMismatch pair => Sys2Proof.Machine.execLockstepMismatch pair s
  | .coreRelease acc value => Sys2Proof.Machine.execCoreRelease acc value s
  | .handoverSplit acc pair mismatch => Sys2Proof.Machine.execHandoverSplit acc pair mismatch s
  | .handoverRejoin acc pair mismatch => Sys2Proof.Machine.execHandoverRejoin acc pair mismatch s
  | .handoverConfirm acc value => Sys2Proof.Machine.execHandoverConfirm acc value s
  | .handoverConfirmTimeout => Sys2Proof.Machine.execHandoverConfirmTimeout s
  | .packDoorbell n q acc tail => Sys2Proof.Machine.execPackDoorbell n q acc tail s
  | .queueConfigWrite n q acc value => Sys2Proof.Machine.execQueueConfigWrite n q acc value s
  | .queueStop n q acc => Sys2Proof.Machine.execQueueStop n q acc s
  | .queueStart n q acc => Sys2Proof.Machine.execQueueStart n q acc s
  | .queueFlush n q acc => Sys2Proof.Machine.execQueueFlush n q acc s
  | .cqHeadWrite n q acc head => Sys2Proof.Machine.execCqHeadWrite n q acc head s
  | .descriptorFetch n q => Sys2Proof.Machine.execDescriptorFetch n q s
  | .nop n q => Sys2Proof.Machine.execNop n q s
  | .fence n q => Sys2Proof.Machine.execFence n q s
  | .checkpoint n q => Sys2Proof.Machine.execCheckpoint n q s
  | .knotWait n q => Sys2Proof.Machine.execKnotWait n q s
  | .knotSignal n q => Sys2Proof.Machine.execKnotSignal n q s
  | .copy n q => Sys2Proof.Machine.execCopy n q s
  | .matmul n q => Sys2Proof.Machine.execMatmul n q s
  | .conv2d n q => Sys2Proof.Machine.execConv2d n q s
  | .vecAdd n q => Sys2Proof.Machine.execVecAdd n q s
  | .vecMul n q => Sys2Proof.Machine.execVecMul n q s
  | .vecMax n q => Sys2Proof.Machine.execVecMax n q s
  | .vecMin n q => Sys2Proof.Machine.execVecMin n q s
  | .vecAxpb n q => Sys2Proof.Machine.execVecAxpb n q s
  | .vecRelu n q => Sys2Proof.Machine.execVecRelu n q s
  | .vecClamp n q => Sys2Proof.Machine.execVecClamp n q s
  | .vecGelu n q => Sys2Proof.Machine.execVecGelu n q s
  | .vecSigmoid n q => Sys2Proof.Machine.execVecSigmoid n q s
  | .vecTanh n q => Sys2Proof.Machine.execVecTanh n q s
  | .vecExp n q => Sys2Proof.Machine.execVecExp n q s
  | .vecRsqrt n q => Sys2Proof.Machine.execVecRsqrt n q s
  | .vecSoftmax n q => Sys2Proof.Machine.execVecSoftmax n q s
  | .vecLayernorm n q => Sys2Proof.Machine.execVecLayernorm n q s
  | .vecRmsnorm n q => Sys2Proof.Machine.execVecRmsnorm n q s
  | .vecRowSum n q => Sys2Proof.Machine.execVecRowSum n q s
  | .vecRowMax n q => Sys2Proof.Machine.execVecRowMax n q s
  | .vecConvert n q => Sys2Proof.Machine.execVecConvert n q s
  | .cimRun n q => Sys2Proof.Machine.execCimRun n q s
  | .cimLoad n q => Sys2Proof.Machine.execCimLoad n q s
  | .attn n q => Sys2Proof.Machine.execAttn n q s
  | .attnVerifyAttend n q => Sys2Proof.Machine.execAttnVerifyAttend n q s
  | .attnVerifyAccept n q => Sys2Proof.Machine.execAttnVerifyAccept n q s
  | .tileStart n q packUncorrectable => Sys2Proof.Machine.execTileStart n q packUncorrectable s
  | .tileCommit n q signaturesDiffer referenceOff => Sys2Proof.Machine.execTileCommit n q signaturesDiffer referenceOff s
  | .tileHang n q => Sys2Proof.Machine.execTileHang n q s
  | .completionWrite n q => Sys2Proof.Machine.execCompletionWrite n q s
  | .knotWaitRelease n q => Sys2Proof.Machine.execKnotWaitRelease n q s
  | .knotWaitTimeout n q => Sys2Proof.Machine.execKnotWaitTimeout n q s
  | .calDue tile macroNo tempC10 => Sys2Proof.Machine.execCalDue tile macroNo tempC10 s
  | .calibrationStart tile => Sys2Proof.Machine.execCalibrationStart tile s
  | .calibrationDone tile fit residualOk => Sys2Proof.Machine.execCalibrationDone tile fit residualOk s
  | .calOverdue tile macroNo => Sys2Proof.Machine.execCalOverdue tile macroNo s
  | .engineKindWrite m => Sys2Proof.Machine.execEngineKindWrite m s
  | .rosterTableWrite m => Sys2Proof.Machine.execRosterTableWrite m s
  | .rosterSelect m => Sys2Proof.Machine.execRosterSelect m s
  | .rosterFrameStart => Sys2Proof.Machine.execRosterFrameStart s
  | .slotStart index => Sys2Proof.Machine.execSlotStart index s
  | .slotEnd index => Sys2Proof.Machine.execSlotEnd index s
  | .slowdownWindow n occupied contended => Sys2Proof.Machine.execSlowdownWindow n occupied contended s
  | .packModeWrite m => Sys2Proof.Machine.execPackModeWrite m s
  | .packScrubDone tookUs => Sys2Proof.Machine.execPackScrubDone tookUs s
  | .kseqAlloc n acc => Sys2Proof.Machine.execKseqAlloc n acc s
  | .kseqFree n acc handle => Sys2Proof.Machine.execKseqFree n acc handle s
  | .kseqTrim n acc handle => Sys2Proof.Machine.execKseqTrim n acc handle s
  | .kseqResume n acc handle => Sys2Proof.Machine.execKseqResume n acc handle s
  | .kseqQuery n acc handle => Sys2Proof.Machine.execKseqQuery n acc handle s
  | .swapOutDone handle => Sys2Proof.Machine.execSwapOutDone handle s
  | .swapInDone handle => Sys2Proof.Machine.execSwapInDone handle s
  | .pageZeroed page => Sys2Proof.Machine.execPageZeroed page s
  | .kennelAllocGrant handle => Sys2Proof.Machine.execKennelAllocGrant handle s
  | .instanceCreate m => Sys2Proof.Machine.execInstanceCreate m s
  | .instanceReset n acc od => Sys2Proof.Machine.execInstanceReset n acc od s
  | .instanceRemove m => Sys2Proof.Machine.execInstanceRemove m s
  | .frameStartPacket rx vc => Sys2Proof.Machine.execFrameStartPacket rx vc s
  | .csiLongPacket rx vc dataType ecc crcOk payload => Sys2Proof.Machine.execCsiLongPacket rx vc dataType ecc crcOk payload s
  | .embeddedDataPacket rx vc payload => Sys2Proof.Machine.execEmbeddedDataPacket rx vc payload s
  | .frameEndPacket rx vc => Sys2Proof.Machine.execFrameEndPacket rx vc s
  | .testLinesAtDma stream observed => Sys2Proof.Machine.execTestLinesAtDma stream observed s
  | .testLineTimeout stream => Sys2Proof.Machine.execTestLineTimeout stream s
  | .frameTimeout stream => Sys2Proof.Machine.execFrameTimeout stream s
  | .releasedWrite stream acc value => Sys2Proof.Machine.execReleasedWrite stream acc value s
  | .streamEnable m => Sys2Proof.Machine.execStreamEnable m s
  | .streamDisable m => Sys2Proof.Machine.execStreamDisable m s
  | .gfxDoorbell q acc tail => Sys2Proof.Machine.execGfxDoorbell q acc tail s
  | .gfxSubmissionFetch q => Sys2Proof.Machine.execGfxSubmissionFetch q s
  | .gfxSubmissionStart q draw primitives => Sys2Proof.Machine.execGfxSubmissionStart q draw primitives s
  | .gfxPreemptionPoint q writes => Sys2Proof.Machine.execGfxPreemptionPoint q writes s
  | .gfxSubmissionDone q renderPasses writes failure => Sys2Proof.Machine.execGfxSubmissionDone q renderPasses writes failure s
  | .timesliceExpiry => Sys2Proof.Machine.execTimesliceExpiry s
  | .preemptTimeout q => Sys2Proof.Machine.execPreemptTimeout q s
  | .shaderFault q => Sys2Proof.Machine.execShaderFault q s
  | .gfxCoreStopTimeout => Sys2Proof.Machine.execGfxCoreStopTimeout s
  | .gfxQueueStop q acc => Sys2Proof.Machine.execGfxQueueStop q acc s
  | .gfxQueueStart q acc => Sys2Proof.Machine.execGfxQueueStart q acc s
  | .gfxQueueFlush q acc => Sys2Proof.Machine.execGfxQueueFlush q acc s
  | .dispFrameStart pipe => Sys2Proof.Machine.execDispFrameStart pipe s
  | .dispRegionCrc pipe region flips => Sys2Proof.Machine.execDispRegionCrc pipe region flips s
  | .scanoutUnderflow pipe => Sys2Proof.Machine.execScanoutUnderflow pipe s
  | .planeAddrWrite pipe plane acc value => Sys2Proof.Machine.execPlaneAddrWrite pipe plane acc value s
  | .expCommit pipe acc value => Sys2Proof.Machine.execExpCommit pipe acc value s
  | .pipeEnable m => Sys2Proof.Machine.execPipeEnable m s
  | .appRelease acc value => Sys2Proof.Machine.execAppRelease acc value s
  | .mworldWrite core csr value machineMode pc => Sys2Proof.Machine.execMworldWrite core csr value machineMode pc s
  | .filterLock acc value => Sys2Proof.Machine.execFilterLock acc value s
  | .derivationRequest acc salt info length => Sys2Proof.Machine.execDerivationRequest acc salt info length s
  | .attestationSign acc digest => Sys2Proof.Machine.execAttestationSign acc digest s
  | .measGo acc value => Sys2Proof.Machine.execMeasGo acc value s
  | .measurementDone => Sys2Proof.Machine.execMeasurementDone s
  | .mboxDoorbell m acc value => Sys2Proof.Machine.execMboxDoorbell m acc value s
  | .mboxResp m acc value => Sys2Proof.Machine.execMboxResp m acc value s
  | .twKick acc value => Sys2Proof.Machine.execTwKick acc value s
  | .trustedWdg => Sys2Proof.Machine.execTrustedWdg s
  | .lifecycleAdvance m => Sys2Proof.Machine.execLifecycleAdvance m s
  | .rollbackRaise m => Sys2Proof.Machine.execRollbackRaise m s
  | .splitMaskProgram m => Sys2Proof.Machine.execSplitMaskProgram m s
  | .msgRouteWrite source acc value => Sys2Proof.Machine.execMsgRouteWrite source acc value s
  | .knotSignalWrite knot acc value => Sys2Proof.Machine.execKnotSignalWrite knot acc value s
  | .waitArm safety slot acc value => Sys2Proof.Machine.execWaitArm safety slot acc value s
  | .waitSlotTimeout safety slot => Sys2Proof.Machine.execWaitSlotTimeout safety slot s
  | .knotAssign m => Sys2Proof.Machine.execKnotAssign m s
  | .ethFrameRx port frame => Sys2Proof.Machine.execEthFrameRx port frame s
  | .egressTransmit port => Sys2Proof.Machine.execEgressTransmit port s
  | .cbRecoveryReset entry => Sys2Proof.Machine.execCbRecoveryReset entry s
  | .gateControlListWrite m => Sys2Proof.Machine.execGateControlListWrite m s
  | .gptpSync port offsetNs => Sys2Proof.Machine.execGptpSync port offsetNs s
  | .syncLoss => Sys2Proof.Machine.execSyncLoss s
  | .holdover100ms => Sys2Proof.Machine.execHoldover100ms s
  | .portLinkDown port => Sys2Proof.Machine.execPortLinkDown port s
  | .portLinkUp port => Sys2Proof.Machine.execPortLinkUp port s
  | .canFrameRx c frame => Sys2Proof.Machine.execCanFrameRx c frame s
  | .canTxDoorbell c safety acc tail => Sys2Proof.Machine.execCanTxDoorbell c safety acc tail s
  | .canTransmitStart c => Sys2Proof.Machine.execCanTransmitStart c s
  | .canTxDone c => Sys2Proof.Machine.execCanTxDone c s
  | .busOff c => Sys2Proof.Machine.execBusOff c s
  | .canRecover m => Sys2Proof.Machine.execCanRecover m s
  | .busOffRecovered c => Sys2Proof.Machine.execBusOffRecovered c s
  | .tpCmRts c frame => Sys2Proof.Machine.execTpCmRts c frame s
  | .tpCmBam c frame => Sys2Proof.Machine.execTpCmBam c frame s
  | .tpDt c frame => Sys2Proof.Machine.execTpDt c frame s
  | .tpTimeout c session => Sys2Proof.Machine.execTpTimeout c session s
  | .tpRelease c acc value => Sys2Proof.Machine.execTpRelease c acc value s
  | .ruleTableWrite m => Sys2Proof.Machine.execRuleTableWrite m s
  | .internalTxDoorbell port ring acc tail => Sys2Proof.Machine.execInternalTxDoorbell port ring acc tail s
  | .tetherSqWrite sq => Sys2Proof.Machine.execTetherSqWrite sq s
  | .tetherSqWriteImm sq => Sys2Proof.Machine.execTetherSqWriteImm sq s
  | .tetherSqRead sq => Sys2Proof.Machine.execTetherSqRead sq s
  | .tetherSqFlush sq => Sys2Proof.Machine.execTetherSqFlush sq s
  | .tetherSqDoorbell sq acc tail => Sys2Proof.Machine.execTetherSqDoorbell sq acc tail s
  | .tetherRxWrite f contextParity => Sys2Proof.Machine.execTetherRxWrite f contextParity s
  | .tetherRxWriteImm f => Sys2Proof.Machine.execTetherRxWriteImm f s
  | .tetherRxRead f => Sys2Proof.Machine.execTetherRxRead f s
  | .tetherRxReadResp f => Sys2Proof.Machine.execTetherRxReadResp f s
  | .tetherRxFlush f => Sys2Proof.Machine.execTetherRxFlush f s
  | .flushAck conn => Sys2Proof.Machine.execFlushAck conn s
  | .tetherRxFlushAck f => Sys2Proof.Machine.execTetherRxFlushAck f s
  | .tetherRxAck f => Sys2Proof.Machine.execTetherRxAck f s
  | .tetherRxNak f => Sys2Proof.Machine.execTetherRxNak f s
  | .goBackRound conn => Sys2Proof.Machine.execGoBackRound conn s
  | .connEnable handle acc => Sys2Proof.Machine.execConnEnable handle acc s
  | .connDisable handle acc => Sys2Proof.Machine.execConnDisable handle acc s
  | .connQuery handle acc => Sys2Proof.Machine.execConnQuery handle acc s
  | .register index acc => Sys2Proof.Machine.execRegister index acc s
  | .deregister index acc => Sys2Proof.Machine.execDeregister index acc s
  | .hawserAccess acc len wr far => Sys2Proof.Machine.execHawserAccess acc len wr far s
  | .spliceTimeout acc isWrite beats => Sys2Proof.Machine.execSpliceTimeout acc isWrite beats s
  | .hawserAmo acc op operand far => Sys2Proof.Machine.execHawserAmo acc op operand far s
  | .hawserLr acc far => Sys2Proof.Machine.execHawserLr acc far s
  | .hawserSc acc value far => Sys2Proof.Machine.execHawserSc acc value far s
  | .lockExpiry => Sys2Proof.Machine.execLockExpiry s
  | .semaphoreAmo acc op operand far => Sys2Proof.Machine.execSemaphoreAmo acc op operand far s
  | .semaphoreLr acc far => Sys2Proof.Machine.execSemaphoreLr acc far s
  | .semaphoreSc acc value far => Sys2Proof.Machine.execSemaphoreSc acc value far s
  | .semaphoreExpiry granule => Sys2Proof.Machine.execSemaphoreExpiry granule s
  | .pcieOutboundAccess acc len wr far => Sys2Proof.Machine.execPcieOutboundAccess acc len wr far s
  | .pcieInboundRequest busAddr len wr => Sys2Proof.Machine.execPcieInboundRequest busAddr len wr s
  | .pcieIntx => Sys2Proof.Machine.execPcieIntx s
  | .epMsi acc value hostEnabled => Sys2Proof.Machine.execEpMsi acc value hostEnabled s
  | .pollRead entry far => Sys2Proof.Machine.execPollRead entry far s
  | .pollListWrite m => Sys2Proof.Machine.execPollListWrite m s
  | .prefetchExpiry line => Sys2Proof.Machine.execPrefetchExpiry line s
  | .farMasterRequest => Sys2Proof.Machine.execFarMasterRequest s
  | .farMasterRelease => Sys2Proof.Machine.execFarMasterRelease s
  | .farMasterCycle farAddr len wr => Sys2Proof.Machine.execFarMasterCycle farAddr len wr s
  | .ambientSample channel code => Sys2Proof.Machine.execAmbientSample channel code s
  | .carrierFlood channel presentNs => Sys2Proof.Machine.execCarrierFlood channel presentNs s
  | .floodClear channel => Sys2Proof.Machine.execFloodClear channel s
  | .whistleCodingError channel => Sys2Proof.Machine.execWhistleCodingError channel s
  | .whistleStop channel body => Sys2Proof.Machine.execWhistleStop channel body s
  | .whistleHold channel body => Sys2Proof.Machine.execWhistleHold channel body s
  | .hitchUp channel body => Sys2Proof.Machine.execHitchUp channel body s
  | .hitchDown channel body => Sys2Proof.Machine.execHitchDown channel body s
  | .creepFwd channel body => Sys2Proof.Machine.execCreepFwd channel body s
  | .creepRev channel body => Sys2Proof.Machine.execCreepRev channel body s
  | .whistleHeartbeat channel body => Sys2Proof.Machine.execWhistleHeartbeat channel body s
  | .whistleArm channel body => Sys2Proof.Machine.execWhistleArm channel body s
  | .whistleDisarm channel body => Sys2Proof.Machine.execWhistleDisarm channel body s
  | .heartbeatLost slot => Sys2Proof.Machine.execHeartbeatLost slot s
  | .disarmAll acc value => Sys2Proof.Machine.execDisarmAll acc value s
  | .recPop acc value => Sys2Proof.Machine.execRecPop acc value s
  | .pendantKeyWrite m committed => Sys2Proof.Machine.execPendantKeyWrite m committed s
  | .pendantSlotEnable m => Sys2Proof.Machine.execPendantSlotEnable m s
  | .frzTriggerNow m => Sys2Proof.Machine.execFrzTriggerNow m s
  | .frzTrigPin lowNs highNs => Sys2Proof.Machine.execFrzTrigPin lowNs highNs s
  | .frzSwTrig acc value => Sys2Proof.Machine.execFrzSwTrig acc value s
  | .frzSchedule m => Sys2Proof.Machine.execFrzSchedule m s
  | .frzScheduledAccept => Sys2Proof.Machine.execFrzScheduledAccept s
  | .frzLatch => Sys2Proof.Machine.execFrzLatch s
  | .frzBankFull unconfirmed => Sys2Proof.Machine.execFrzBankFull unconfirmed s
  | .frzRecord => Sys2Proof.Machine.execFrzRecord s
  | .frzRelease acc value od => Sys2Proof.Machine.execFrzRelease acc value od s
  | .frzClearRecords m => Sys2Proof.Machine.execFrzClearRecords m s
  | .rejectedFrame channel body => Sys2Proof.Machine.execRejectedFrame channel body s
  | .aerError => Sys2Proof.Machine.execAerError s
  | .grandmasterSync => Sys2Proof.Machine.execGrandmasterSync s

end Sys2Proof.Machine
end

