-- ==== Sys2Proof/Safety.lean ====
section
/-! DEFINITION. The promises of the spec about the whole machine, in the terms that statements use. -/

namespace Sys2Proof.Machine

/-- The safety pins as R180 to R183 ask for them in a device state: outside OPERATIONAL and BRACE, and once the CLK_AON monitor has
tripped, all three are low; in OPERATIONAL and BRACE FAULT_N is high; the ALIVE pins are never high together. -/
structure PinsFor (d : Dev) (trip faultN aliveA aliveB : Bool) : Prop where
  low  : devUp d = false ∨ trip = true → faultN = false ∧ aliveA = false ∧ aliveB = false
  high : devUp d = true → trip = false → faultN = true
  alt  : (aliveA && aliveB) = false

/-- The safety pins of a state are as its device state asks. -/
def PinsOk (s : State) : Prop := PinsFor s.dev s.sdg.clkTripped s.sdg.faultN s.sdg.aliveA s.sdg.aliveB

/-- Fuses are burned and never restored: the lifecycle and the rollback counter do not fall, no split bit clears (R649). -/
def FusesLe (a b : Fuses) : Prop :=
  a.lifecycle ≤ b.lifecycle ∧ a.rollback ≤ b.rollback ∧ ∀ n, bit a.splitMask n = true → bit b.splitMask n = true

/-- The parts of the state, one for each field but the outputs and the queue; and two promises:
FAILED is not left, the safety pins stay as the device state asks. -/
inductive Part where
  | dev | now | free | regs | hold | od | odBlob | odChange | odStart | mem | memCtl | pwr
  | start | sdg | frz | leash | params | canopen | lock | apps | sec | fuses
  | knots | pack | cim | kennel | cams | gfx | pipes | net | can | tether
  | splice | wh | slots | safeSlots | gtime | latch | pins
  deriving DecidableEq, Repr

/-- A part is the same in two states; a promise is kept from the first to the second. -/
def Part.same (p : Part) (s t : State) : Prop :=
  match p with
  | .dev => t.dev = s.dev
  | .now => t.now = s.now
  | .free => t.free = s.free
  | .regs => t.regs = s.regs
  | .hold => t.hold = s.hold
  | .od => t.od = s.od
  | .odBlob => t.odBlob = s.odBlob
  | .odChange => t.odChange = s.odChange
  | .odStart => t.odStart = s.odStart
  | .mem => t.mem = s.mem
  | .memCtl => t.memCtl = s.memCtl
  | .pwr => t.pwr = s.pwr
  | .start => t.start = s.start
  | .sdg => t.sdg = s.sdg
  | .frz => t.frz = s.frz
  | .leash => t.leash = s.leash
  | .params => t.params = s.params
  | .canopen => t.canopen = s.canopen
  | .lock => t.lock = s.lock
  | .apps => t.apps = s.apps
  | .sec => t.sec = s.sec
  | .fuses => t.fuses = s.fuses
  | .knots => t.knots = s.knots
  | .pack => t.pack = s.pack
  | .cim => t.cim = s.cim
  | .kennel => t.kennel = s.kennel
  | .cams => t.cams = s.cams
  | .gfx => t.gfx = s.gfx
  | .pipes => t.pipes = s.pipes
  | .net => t.net = s.net
  | .can => t.can = s.can
  | .tether => t.tether = s.tether
  | .splice => t.splice = s.splice
  | .wh => t.wh = s.wh
  | .slots => t.slots = s.slots
  | .safeSlots => t.safeSlots = s.safeSlots
  | .gtime => t.gtime = s.gtime
  | .latch => s.dev = .failed → t.dev = .failed
  | .pins => PinsOk s → PinsOk t

/-- Nothing differs but the parts of `l` and the outputs. What `l` does not list is unchanged, the clock, the memory and the queue of commands
among it, and both promises are kept. -/
structure Frame (l : List Part) (s t : State) : Prop where
  pending : t.pending = s.pending
  same    : ∀ p, p ∉ l → p.same s t

end Sys2Proof.Machine
end

