-- ==== Sys2Proof/Effects.lean ====
section
/-! DEFINITION. What statements say that a command has done: the outcomes that many commands share, each with the rules it rests on. No
meaning uses them. -/

namespace Sys2Proof.Machine

/-- Registers outside `l` hold what they held. -/
def RegsOnly (l : List Nat) (s t : State) : Prop := ∀ a, a ∉ l → regRaw t a = regRaw s a

/-- Object dictionary entries outside `l` hold what they held. -/
def OdOnly (l : List Nat) (s t : State) : Prop := ∀ k, k ∉ l → odGet t k = odGet s k

/-- The outputs of a command, newest first. -/
def Sends (l : List Output) (s t : State) : Prop := t.out = l ++ s.out

/-- Time has come to at least `n`. -/
def TimeAt (n : Nat) (s t : State) : Prop := t.now = max s.now n

/-- The registers that an event of a main message source may change: its route and the taps (R657, R661). -/
def msgRegs (src : Nat) : List Nat := routeAddr src :: (List.range 256).map safeRouteAddr

/-- Alarm `n`, and no other, has been taken: its bit in ALARM_MAP, the latest alarm, the error history and the count, the first-alarm
record, and the reaction its class asks for (R99, R168, R170, R173, R174, R889). Classes above 7 are never stored (R202). -/
structure AlarmTaken (n : Nat) (s t : State) : Prop where
  map     : t.sdg.alarmMap = s.sdg.alarmMap ||| 2 ^ n
  last    : t.sdg.lastAlarm = n
  newest  : odGet t (odKey 0x1003 1) = n * 0x10000 + emergencyCode (alarmClass s n)
  older   : ∀ i, 1 ≤ i → i ≤ 7 → odGet t (odKey 0x1003 (i + 1)) = odGet s (odKey 0x1003 i)
  number  : odGet t (odKey 0x1003 0) = min 8 (odGet s (odKey 0x1003 0) + 1)
  count   : odGet t (odKey 0x2200 0x0E) = satAdd (odGet s (odKey 0x2200 0x0E)) 1 0xFFFF
  note    : alarmClass s n = 0 → t.dev = s.dev ∧ t.sdg.firstAlarm = s.sdg.firstAlarm
  first   : alarmClass s n ≠ 0 → s.sdg.firstAlarm = 0 → t.sdg.firstAlarm = n ∧ t.sdg.firstClass = alarmClass s n
  kept    : s.sdg.firstAlarm ≠ 0 → t.sdg.firstAlarm = s.sdg.firstAlarm ∧ t.sdg.firstClass = s.sdg.firstClass
  hold    : alarmClass s n ≠ 0 → alarmClass s n ≤ 7 → isRunning s = true →
              t.dev = .safeHold ∧ t.sdg.restartPending = !reactsHold s n ∧ (t.sdg.faultN || t.sdg.aliveA || t.sdg.aliveB) = false
  stay    : isRunning s = false → t.dev = s.dev
  cancel  : alarmClass s n ≠ 0 → alarmClass s n ≤ 7 → s.dev = .safeHold → t.sdg.restartPending = (s.sdg.restartPending && !reactsHold s n)

/-- A write access of `acc` to the whole register at `a` is carried out at once: the blocks are out of reset, nothing of Splice is held or
waited for, the checks of R884 to R886 pass, and the access is as wide as the register. -/
structure Reaches (acc : Access) (a : Nat) (s : State) : Prop where
  on   : blocksOn s = true
  free : bridgeEnter acc.req a s = s
  ok   : ∃ l, checkAccess s (atReg acc a) true = .ok l ∧ locBase a l = a ∧ (acc.bits = 64 ∨ locWide l = false)

/-- What a write access of a value carries to the register: 64 bits of it, or 32. -/
def carried (acc : Access) (v : Word) : Nat := if acc.bits = 64 then v.toNat else v.toNat % 2 ^ 32

/-- WRITE_COUNT of the block that a register lies in (R41). -/
def countReg (a : Nat) : Nat := (blockOf a).getD 0 + 8

/-- A write to the register at `a` has been taken: it is answered without error, and WRITE_COUNT of its block counts it (R887). -/
structure WriteTaken (acc : Access) (a : Nat) (s t : State) : Prop where
  answer : t.out.head? = some (.writeOk acc.req a)
  count  : regRaw t (countReg a) = (regRaw s (countReg a) + 1) % 2 ^ 32

/-- The entries that a raised alarm may change: the error history, the alarm count and the first-alarm record, the freeze-frame counts, and,
with the change of state, its time and the longest BRACE. -/
def alarmKeys : List Nat :=
  (List.range 9).map (odKey 0x1003) ++
  [odKey 0x2200 0x0E, odKey 0x2200 0x0F, odKey 0x2200 0x10, odKey 0x2300 6, odKey 0x2300 7, odKey 0x2000 2, odKey 0x2100 8]

/-- The registers that a raised alarm may change: the count of dropped triggers and, with a change of state, the routes of its messages. -/
def alarmRegs : List Nat := 0x10200088 :: msgRegs 1811

/-- The states in which alarms are raised: not OFF or FAILED, and CLK_SDG runs (R22; log entry 24). -/
def alarmed (s : State) : Bool := !(s.dev = .off || s.dev = .failed || s.sdg.clkStopped)

/-- The parts of the state that an alarm's record and reaction may change. -/
def alarmParts : List Part := [.dev, .regs, .od, .pwr, .start, .sdg, .frz, .pack]

/-- Alarm `n` has been taken, and nothing else has happened. -/
structure OnlyAlarm (n : Nat) (s t : State) : Prop where
  taken : AlarmTaken n s t
  od    : OdOnly alarmKeys s t
  regs  : RegsOnly alarmRegs s t
  frame : Frame alarmParts s t

/-- RESTART has been entered for a cause, with the kind of start asked for: pins low, the start to come recorded, the management controller
reset, freeze-frame closed, Splice idle, and the frame of R177 awaited for at most 1 ms (R138, R177, R218, R805, R852). -/
structure RestartEntered (cause : Nat) (warm : Bool) (s t : State) : Prop where
  dev    : t.dev = .restart
  pins   : (t.sdg.faultN || t.sdg.aliveA || t.sdg.aliveB) = false
  cause  : t.start.cause = cause
  warm   : t.start.wantWarm = warm
  reset  : t.pwr.ctrlPending = true ∧ t.pwr.retention = false
  wait   : t.sdg.restartWait = if s.sdg.clkStopped then none else some (t.now + ms 1)
  leash  : t.leash.sessions = [] ∧ t.leash.store = none
  frz    : t.frz.on = false
  splice : t.splice.lock = none ∧ t.splice.sems = [] ∧ t.splice.lines = [] ∧ t.splice.perst = !s.start.pcieMode

/-! ### Leash (chapter 03) -/

/-- A message reaches Leash: the link is up, and the message is untagged, addressed to the management port and of its EtherType (R111). -/
structure Arrives (m : LeashMsg) (s : State) : Prop where
  up        : s.leash.up = true
  tagged    : m.tagged = false
  dst       : m.dst = odGet s (odKey 0x2002 1)
  etherType : m.etherType = odUse s (odKey 0x2002 2)

/-- `m` is the next request of the open session `x` in slot `i`: its TAG is valid, its form is that of its TYPE, and SEQ may still count on
(R118, R125, R129). -/
structure NextRequest (m : LeashMsg) (i : Nat) (x : Session) (s : State) : Prop where
  arrives : Arrives m s
  found   : findSession s m.sessionId = some (i, x)
  tag     : tagValid x.keyUp m = true
  opened  : x.opened = true
  next    : m.seq = x.lastSeq + 1
  more    : m.seq ≠ 0xFFFFFFFF
  form    : requestOk x m = true

/-- The state in which such a request is executed: its SEQ is taken, and the idle timeout starts again (R125, R128). -/
def requestState (m : LeashMsg) (i : Nat) (x : Session) (s : State) : State :=
  putSession i (some { x with since := s.now, lastSeq := m.seq, cached := none }) s

/-- The answer to a request (R113, R118). -/
def answerOf (m : LeashMsg) (x : Session) (status : Nat) (payload : List Byte) (s : State) : LeashMsg :=
  leashSigned x.keyDown (leashOut s m.typ status x.role x.id m.seq payload)

/-- The request has been answered with `r`: it is sent, the session keeps it for a repeat, and `g` is the session's segmented read. -/
structure Answered (m : LeashMsg) (i : Nat) (x : Session) (r : LeashMsg) (g : Option Seg) (s t : State) : Prop where
  answer  : t.out.head? = some (.leash r)
  session : getSession t i = some { x with since := s.now, lastSeq := m.seq, cached := some r, seg := g }
  others  : ∀ j, j ≠ i → getSession t j = getSession s j

/-- A write request that passes the checks of R129 and carries the value `v` for the numeric entry `k`. -/
structure Accepted (m : LeashMsg) (i : Nat) (x : Session) (k v : Nat) (s : State) : Prop where
  request : NextRequest m i x s
  typ     : m.typ = 0x11
  key     : reqKey m = k
  value   : beNat (reqValue x m) = v
  checks  : odWriteCheck (requestState m i x s) k x.role (reqValue x m).length false = none
  idle    : odBusy (requestState m i x s) k v = false
  range   : ∃ r, odRow k = some r ∧ (odBytes r.typ).isSome = true ∧ odInRange (requestState m i x s) k r v [] = true

/-- The same for the bytes `b` of a string or DOMAIN. -/
structure AcceptedBytes (m : LeashMsg) (i : Nat) (x : Session) (k : Nat) (b : List Byte) (s : State) : Prop where
  request : NextRequest m i x s
  typ     : m.typ = 0x11
  key     : reqKey m = k
  value   : reqValue x m = b
  checks  : odWriteCheck (requestState m i x s) k x.role b.length false = none
  idle    : odBusy (requestState m i x s) k 0 = false
  range   : ∃ r, odRow k = some r ∧ odBytes r.typ = none ∧ odInRange (requestState m i x s) k r 0 b = true

/-- The write request has been answered DONE with the index and subindex it named (R129). -/
def AnsweredDone (m : LeashMsg) (i : Nat) (x : Session) (s t : State) : Prop :=
  Answered m i x (answerOf m x 0 (m.payload.take 4) s) x.seg s t

/-! ### Memory (chapter 06) -/

/-- An access to memory of `len` bytes at an address is let through: blocks out of reset, filters and carve-outs admit it. -/
def MemoryLet (acc : Access) (wr : Bool) (len : Nat) (r : Region) (s : State) : Prop :=
  blocksOn s = true ∧ filterAdmits s acc.req (tagOf s acc.req acc.world) wr acc.addr len = true ∧ regionOf acc.addr len = some r ∧
    carveDenied s acc.req acc.addr len = false

/-! ### The Pack (chapters 08 to 11) -/

/-- Nothing of the Pack differs but queue `q` of instance `n`. -/
def QueueOnly (n q : Nat) (s t : State) : Prop :=
  t.pack = { s.pack with queues := t.pack.queues } ∧
  ∀ j, j ≠ n * 256 + q → tabGet (fun _ => {}) t.pack.queues j = tabGet (fun _ => {}) s.pack.queues j

/-- Command `c` at place `k` of a queue is the next to start, has not begun before, and may start now (R349, R351, R453). -/
structure MayBegin (n q k : Nat) (c : Cmd) (s : State) : Prop where
  next  : nextCmd (getQ s n q) = some (k, c)
  may   : mayStart s n q k c = true
  dev   : s.dev ≠ .safeHold
  fresh : c.begun = false ∧ c.silent = false ∧ c.retries = 0 ∧ c.done = 0 ∧ c.tiles = 0 ∧ c.run = [] ∧ c.stop = none

/-- The engines that its pair map names are assigned, held by its instance and free of other queues (R437, R439, R442). -/
structure HasEngines (n q : Nat) (c : Cmd) (s : State) : Prop where
  check : engineCheck s n c.desc (pairMap s n (dMap c.desc)) = none
  held  : (cmdEngines c.desc (pairMap s n (dMap c.desc))).all (mayUse s n) = true
  idle  : holdersOf s (n * 256 + q) (cmdEngines c.desc (pairMap s n (dMap c.desc))) = []

/-- The command has begun: it runs with `tiles` tiles, and its start time is noted (R359, R360). -/
def Begun (n q k : Nat) (c : Cmd) (tiles : Nat) (s t : State) : Prop :=
  (getQ t n q).state = 2 ∧ ∃ e, (getQ t n q).cmds[k]? = some e ∧ e.desc = c.desc ∧ e.index = c.index ∧ e.tiles = tiles ∧ e.started = true ∧
    e.status = none ∧ e.gstart = gnow s

/-- The command has ended with a status; its completion is due (R350). -/
def Ended (n q k : Nat) (c : Cmd) (st : Nat) (t : State) : Prop :=
  ∃ e, (getQ t n q).cmds[k]? = some e ∧ e.desc = c.desc ∧ e.index = c.index ∧ e.status = some st ∧ e.started = false ∧ e.run = []

/-! ### Tether (chapter 17) -/

/-- A frame with the header and data that connection `c` sends: the peer's handle, and ACK_PSN the last PSN before ePSN (R722, R733). -/
def tetherEth (s : State) (c : TConn) (x : THead) (data : List Byte) : EthFrame :=
  { dst := c.mac, src := odGet s (odKey (0x2E01 + c.port) 4), tag := some (c.tci / 8192, c.tci % 4096), rtag := none,
    etype := odUse s (odKey 0x3100 1), payload := tHeader c.remote (psnAdd c.epsn (2 ^ 24 - 1)) x ++ data }

/-- The port of connection `c` is up and has room for that frame. -/
def TetherRoom (c : TConn) (x : THead) (data : List Byte) (s : State) : Prop :=
  portUp s c.port = true ∧ egressUse s c.port + ethLen (tetherEth s c x data) ≤ egressRoom

/-- That frame, of operation `op` when it is a write's last, has joined the egress queue of its PCP, and no other queue has changed. -/
structure TetherSent (h : Nat) (op : Option Nat) (c : TConn) (x : THead) (data : List Byte) (s t : State) : Prop where
  queue  : egressQueue t c.port (c.tci / 8192 % 8) =
             egressQueue s c.port (c.tci / 8192 % 8) ++ [{ frame := tetherEth s c x data, tether := some (h, op) }]
  others : ∀ a b, b < 8 → a ≠ c.port ∨ b ≠ c.tci / 8192 % 8 → egressQueue t a b = egressQueue s a b
  net    : t.net = { s.net with queues := t.net.queues }

/-- A frame passes R726 and belongs to an ACTIVE connection of its sender; its ACK_PSN acknowledges nothing new. -/
structure Delivered (f : TetherFrame) (s : State) : Prop where
  on     : tetherOn s = true
  port   : f.port < 2 ∧ portUp s f.port = true
  form   : tMalformed s f = false
  handle : f.connId < 4096
  active : (getConn s f.connId).state = 1
  peer   : (getConn s f.connId).mac = f.srcMac
  stale  : psnDist (psnAdd f.ackPsn 1) (getConn s f.connId).oldest = 0

/-- Of Tether nothing differs but connection `h`. -/
def ConnOnly (h : Nat) (s t : State) : Prop :=
  t.tether = { s.tether with conns := t.tether.conns } ∧ ∀ j, j ≠ h → getConn t j = getConn s j

/-- Entry `e` stands next on send queue `q`, readable, and may start (R742, R743). -/
structure EntryNext (q : Nat) (e : List Byte) (s : State) : Prop where
  on    : tetherOn s = true
  state : (getSq s q).state = 2
  some  : (getSq s q).sqHead ≠ (getSq s q).tail
  room  : sqFull s q = false ∧ tetherInFlight s < 4096
  fence : bit (leAt e 1 1) 1 = true → (getSq s q).ops = []
  bytes : memBytes s (regRaw s (sqReg q 0) + (getSq s q).sqHead % 2 ^ bits (sqCfg s q) 3 0 * 64) 64 = e
  read  : readRange (regRaw s (sqReg q 0) + (getSq s q).sqHead % 2 ^ bits (sqCfg s q) 3 0 * 64) 64 s = (s, Option.some e)

/-- The entry has been taken from its queue, its context is cached, and it is the one operation of its idle connection, with the next PSN. -/
def entryTaken (q : Nat) (e : List Byte) (s : State) : State :=
  let c := getConn s (leAt e 2 2)
  let o : TOp := { id := s.tether.nextId, sq := q, entry := e, psns := opPsns (mtuOf c) e, first := c.high }
  putConn (leAt e 2 2) { c with since := s.now, ops := [o] } (cacheTouch (leAt e 2 2)
    (putSq q { getSq s q with sqHead := ((getSq s q).sqHead + 1) % 65536,
                              ops := (getSq s q).ops ++ [{ id := s.tether.nextId, entry := e, status := none }] }
      { s with tether := { s.tether with nextId := s.tether.nextId + 1 } }))

/-- The connection of an entry has nothing to send or to be acknowledged. -/
structure ConnIdle (e : List Byte) (s : State) : Prop where
  ops   : (getConn s (leAt e 2 2)).ops = []
  psn   : (getConn s (leAt e 2 2)).psn = (getConn s (leAt e 2 2)).high
  acked : (getConn s (leAt e 2 2)).oldest = (getConn s (leAt e 2 2)).high

/-! ### Splice (chapter 18) -/

/-- An access of `len` bytes goes to a range that Splice serves, outside a start, and the filters admit it (R764 to R766). -/
structure SpliceLet (acc : Access) (wr : Bool) (len : Nat) (r : Region) (s : State) : Prop where
  on     : blocksOn s = true
  up     : isUp s = true
  admits : filterAdmits s acc.req (tagOf s acc.req acc.world) wr acc.addr len = true
  range  : spliceRangeOf acc.addr len = some r

/-- The same for window `w` of the Hawser bus, at an offset in it: the bus is free, and no granule is crossed. -/
structure HawserLet (acc : Access) (wr : Bool) (len w off : Nat) (s : State) : Prop where
  splice : SpliceLet acc wr len .hawser s
  found  : hwFind s acc.addr len = some (w, off)
  within : 0 < len ∧ acc.addr / 64 = (acc.addr + len - 1) / 64
  idle   : s.splice.granted = false

/-- No sequence is in progress: no lock, no semaphore. -/
def SpliceFree (s : State) : Prop := s.splice.lock = none ∧ s.splice.sems = []

/-- The one beat of a read of a window. -/
def readBeat (s : State) (w off len : Nat) : Output :=
  hwBeat s w off len (off / hwUnit s w * hwUnit s w) (bit (hwAttr s w) 5) true none

/-- The one beat of a write of a window. -/
def writeBeat (s : State) (w off len : Nat) (data : List Byte) : Output :=
  hwBeat s w off len (off / hwUnit s w * hwUnit s w) false true (some data)

/-- Of Splice nothing differs but that the prefetch lines of a window are gone (R792). -/
def LinesDropped (win : Nat) (s t : State) : Prop :=
  t.splice = { s.splice with lines := s.splice.lines.filter (fun p => decide (p.2.map PfLine.win ≠ some win)) }

/-- An error response with a status; Splice has counted and announced the error (R765, R766). -/
structure SpliceFailed (acc : Access) (status : Nat) (s t : State) : Prop where
  answer : t.out.head? = some (.errorResp acc.req acc.addr status)
  count  : regRaw t 0x17000034 = satAdd (regRaw s 0x17000034) 1 0xFFFFFFFF % 2 ^ 64
  ends   : odGet t (odKey 0x3200 0x0C) =
             if status = 0x0A ∨ status = 0x14 then satAdd (odGet s (odKey 0x3200 0x0C)) 1 (odCap (odKey 0x3200 0x0C))
             else odGet s (odKey 0x3200 0x0C)
  regs   : RegsOnly (0x17000028 :: 0x17000030 :: 0x17000034 :: msgRegs 1792) s t

end Sys2Proof.Machine
end

