-- ==== Sys2Proof/Certificates/Slice0/Obligations.lean ====
section
/-! DEFINITION. The statements about the OMK-7264 that the provers are given. Every statement about a command says that `exec` answers a next
state, what that state holds, and, with `Frame`, `RegsOnly` and `OdOnly`, what it leaves alone. -/

open Sys2Proof Sys2Proof.Machine

/-! ### The block as a whole -/

/-- The block takes its commands one at a time, in the order in which they wait: a step with the command `c` at the front of the queue is
`exec` of `c` on the state with the queue's rest. -/
def Obligations.StepRunsFrontCommand : Prop :=
  ∀ (c : Instr) (rest : List Instr) (s : State),
    step { s with pending := c :: rest } = exec c { s with pending := rest }

/-- With no command waiting a nanosecond passes and nothing else changes (the model's choice, log entry 2). -/
def Obligations.IdleStepLetsTimePass : Prop :=
  ∀ s : State, s.pending = [] →
    ∃ t, step s = .next t ∧ t.now = s.now + 1 ∧ t.gtime = (s.gtime + 1) % 2 ^ 64 ∧ t.out = s.out ∧ t.free = s.free ∧
      Frame [.now, .gtime] s t

/-- Right after reset the device is OFF, its safety pins are low, nothing is stored, sent or waiting, and no register or entry differs from
its reset value or default. The state OFF with no supply is the model's choice of the moment (log entry 1); the values it names for
registers whose reset the spec leaves open are those of log entries 9, 10 and 12. -/
def Obligations.ResetState : Prop :=
  let s := State.reset
  s.dev = .off ∧ s.pwr.aonOn = false ∧ (s.sdg.faultN || s.sdg.aliveA || s.sdg.aliveB) = false ∧
  s.mem = [] ∧ s.out = [] ∧ s.pending = [] ∧
  (∀ a r, regAt a = some (r, a) → r.reset < 2 ^ 64 → regRaw s a = r.reset) ∧
  (∀ k r, odRow k = some r → odDflt k = r.dflt → odGet s k = r.dflt) ∧
  (∀ a, memByte s a = 0)

/-- The state after reset has the invariant of `StepKeepsInvariant`. -/
def Obligations.ResetHasInvariant : Prop := Memory.wf State.reset.mem = true ∧ PinsOk State.reset

/-- Every step keeps the memory in its canonical form, and the safety pins as the device state asks: FAULT_N low in every state except
OPERATIONAL and BRACE, in which it is high; the ALIVE pins low outside them and never high together; all three low once the CLK_AON monitor
has tripped, which R183 puts before R180 and R182. -/
def Obligations.StepKeepsInvariant : Prop :=
  ∀ s t : State, Memory.wf s.mem = true → PinsOk s → step s = .next t → Memory.wf t.mem = true ∧ PinsOk t

/-- A step takes the front of the queue and nothing else of it; it does not turn time back, nor unsend an output, nor give back a free
value, nor restore a burned fuse. -/
def Obligations.StepMovesForward : Prop :=
  ∀ s t : State, step s = .next t →
    t.pending = s.pending.tail ∧ s.now ≤ t.now ∧ s.free ≤ t.free ∧ s.out <:+ t.out ∧ FusesLe s.fuses t.fuses

/-- FAILED is left only by removing VDD_AON: while the always-on supply is present no other command changes it, and its removal does. -/
def Obligations.FailedIsLatched : Prop :=
  (∀ (i : Instr) (s t : State), s.dev = .failed → s.pwr.aonOn = true → i ≠ .vddAonRemoved → exec i s = .next t → t.dev = .failed) ∧
  (∀ s : State, s.dev = .failed → s.pwr.aonOn = true → ∃ t, exec .vddAonRemoved s = .next t ∧ t.dev = .off)

/-- The fields of a register take a write by their access codes: a bit written through W1S with 1 is set, one written through W1C with 1 is
cleared, an RW bit takes the written bit, every other bit keeps its value. -/
def Obligations.WritesFollowAccessCodes : Prop :=
  ∀ (r : RegRow) (old v n : Nat),
    (maskedWrite r old v).testBit n =
      if r.w1s.testBit n && v.testBit n then true
      else if r.w1c.testBit n && v.testBit n then false
      else if r.rw.testBit n then v.testBit n
      else old.testBit n

/-- A write of bytes is read back, and no byte outside them changes. -/
def Obligations.MemoryHoldsWhatIsWritten : Prop :=
  ∀ (s : State) (a : Nat) (l : List Byte) (i : Nat),
    (∀ h : i < l.length, memByte (memPut a l s) (a + i) = l[i]) ∧
    (i < a ∨ a + l.length ≤ i → memByte (memPut a l s) i = memByte s i)

/-! ### Register accesses (chapter 02) -/

/-- A write to a register that has no effect of its own changes the register by its access codes, is answered without error and counted once
in WRITE_COUNT of its block, and changes nothing else: no other register, no memory, no state of the device. -/
def Obligations.RegisterWriteStores : Prop :=
  ∀ (acc : Access) (value : Word) (s : State) (r : RegRow),
    Reaches acc acc.addr s → regAt acc.addr = some (r, acc.addr) → acc.addr ≠ countReg acc.addr →
    (∀ v c u, regEff acc.addr v c u = .done (genericWrite acc.addr v u)) →
    ∃ t, exec (.registerWrite acc value) s = .next t ∧ WriteTaken acc acc.addr s t ∧
      regRaw t acc.addr = maskedWrite r (regRaw s acc.addr) (carried acc value) % 2 ^ 64 ∧
      RegsOnly [acc.addr, countReg acc.addr] s t ∧ Frame [.regs] s t

/-- A 64-bit register by halves. A read of the low half answers it and holds the high word with the requester and the register; the high half
answers the held word and clears the tag when both match, and otherwise the live high word, sets TORN_READ and counts. A write of the low half
is held and not yet counted; the matching high half commits both; one that does not match commits with the current low half, sets
TORN_WRITE and counts the torn access. Each commit counts once in WRITE_COUNT. -/
def Obligations.HalvesAreHeldTogether : Prop :=
  (∀ (acc : Access) (s : State) (l : Loc),
    blocksOn s = true → bridgeEnter acc.req acc.addr s = s → checkAccess s acc false = .ok l →
    acc.bits = 32 → locWide l = true → locBase acc.addr l = acc.addr →
    ∃ t, exec (.lowHalfRead acc) s = .next t ∧ Sends [.readData acc.req acc.addr (leBytes 4 (locValue s l % 2 ^ 32))] s t ∧
      (getHold t ((blockOf acc.addr).getD 0)).rd = some (locValue s l / 2 ^ 32, acc.req, acc.addr) ∧
      (∀ b, (getHold t b).wr = (getHold s b).wr) ∧ (∀ b, b ≠ (blockOf acc.addr).getD 0 → getHold t b = getHold s b) ∧
      Frame [.hold] s t) ∧
  (∀ (acc : Access) (s : State) (l : Loc) (a h : Nat),
    blocksOn s = true → bridgeEnter acc.req acc.addr s = s → checkAccess s acc false = .ok l →
    acc.bits = 32 → locWide l = true → locBase acc.addr l = a → acc.addr = a + 4 →
    (getHold s ((blockOf a).getD 0)).rd = some (h, acc.req, a) →
    ∃ t, exec (.highHalfRead acc) s = .next t ∧ Sends [.readData acc.req acc.addr (leBytes 4 h)] s t ∧
      (getHold t ((blockOf a).getD 0)).rd = none ∧
      (∀ b, (getHold t b).wr = (getHold s b).wr) ∧ (∀ b, b ≠ (blockOf a).getD 0 → getHold t b = getHold s b) ∧
      Frame [.hold] s t) ∧
  (∀ (acc : Access) (s : State) (l : Loc) (a : Nat),
    blocksOn s = true → bridgeEnter acc.req acc.addr s = s → checkAccess s acc false = .ok l →
    acc.bits = 32 → locWide l = true → locBase acc.addr l = a → acc.addr = a + 4 →
    (∀ h, (getHold s ((blockOf a).getD 0)).rd ≠ some (h, acc.req, a)) →
    ∃ t, exec (.highHalfRead acc) s = .next t ∧ Sends [.readData acc.req acc.addr (leBytes 4 (locValue s l / 2 ^ 32))] s t ∧
      regRaw t ((blockOf a).getD 0 + 4) = (regRaw s ((blockOf a).getD 0 + 4) ||| 1) % 2 ^ 64 ∧
      RegsOnly [(blockOf a).getD 0 + 4] s t ∧ OdOnly [odKey 0x2001 2] s t ∧ Frame [.regs, .od] s t) ∧
  (∀ (acc : Access) (value : Word) (s : State) (l : Loc),
    blocksOn s = true → bridgeEnter acc.req acc.addr s = s → checkAccess s acc true = .ok l →
    acc.bits = 32 → locWide l = true → locBase acc.addr l = acc.addr →
    ∃ t, exec (.lowHalfWrite acc value) s = .next t ∧ Sends [.writeOk acc.req acc.addr] s t ∧
      (getHold t ((blockOf acc.addr).getD 0)).wr = some (value.toNat % 2 ^ 32, acc.req, acc.addr) ∧
      (∀ b, (getHold t b).rd = (getHold s b).rd) ∧ (∀ b, b ≠ (blockOf acc.addr).getD 0 → getHold t b = getHold s b) ∧
      Frame [.hold] s t) ∧
  (∀ (acc : Access) (value : Word) (s : State) (r : RegRow) (a lo : Nat),
    blocksOn s = true → bridgeEnter acc.req acc.addr s = s → checkAccess s acc true = .ok (.reg r a) →
    acc.bits = 32 → r.wide = true → acc.addr = a + 4 → regAt a = some (r, a) → a ≠ countReg a →
    (∀ v c u, regEff a v c u = .done (genericWrite a v u)) →
    (getHold s ((blockOf a).getD 0)).wr = some (lo, acc.req, a) →
    ∃ t, exec (.highHalfWrite acc value) s = .next t ∧ Sends [.writeOk acc.req acc.addr] s t ∧
      regRaw t (countReg a) = (regRaw s (countReg a) + 1) % 2 ^ 32 ∧
      regRaw t a = maskedWrite r (regRaw s a) (lo + value.toNat % 2 ^ 32 * 2 ^ 32) % 2 ^ 64 ∧
      (getHold t ((blockOf a).getD 0)).wr = none ∧ (∀ b, (getHold t b).rd = (getHold s b).rd) ∧
      (∀ b, b ≠ (blockOf a).getD 0 → getHold t b = getHold s b) ∧
      RegsOnly [a, countReg a] s t ∧ Frame [.regs, .hold] s t) ∧
  (∀ (acc : Access) (value : Word) (s : State) (r : RegRow) (a : Nat),
    blocksOn s = true → bridgeEnter acc.req acc.addr s = s → checkAccess s acc true = .ok (.reg r a) →
    acc.bits = 32 → r.wide = true → acc.addr = a + 4 → regAt a = some (r, a) → a ≠ countReg a → a ≠ (blockOf a).getD 0 + 4 →
    (∀ v c u, regEff a v c u = .done (genericWrite a v u)) →
    (∀ lo, (getHold s ((blockOf a).getD 0)).wr ≠ some (lo, acc.req, a)) →
    ∃ t, exec (.highHalfWrite acc value) s = .next t ∧ Sends [.writeOk acc.req acc.addr] s t ∧
      regRaw t (countReg a) = (regRaw s (countReg a) + 1) % 2 ^ 32 ∧
      regRaw t a = maskedWrite r (regRaw s a) (regRaw s a % 2 ^ 32 + value.toNat % 2 ^ 32 * 2 ^ 32) % 2 ^ 64 ∧
      regRaw t ((blockOf a).getD 0 + 4) = (regRaw s ((blockOf a).getD 0 + 4) ||| 2) % 2 ^ 64 ∧
      RegsOnly [a, countReg a, (blockOf a).getD 0 + 4] s t ∧ OdOnly [odKey 0x2001 2] s t ∧ Frame [.regs, .od] s t)

/-- A bad access: it gets an error response and no other effect than its log. The block notes it, SYS counts it, the first one is latched
with requester, reason, direction, world and address while LOG_VALID is clear, and the alarm BAD_ACCESS is raised. -/
def Obligations.BadAccessIsLogged : Prop :=
  ∀ (acc : Access) (value : Word) (s : State) (reason : Nat) (wr : Bool),
    blocksOn s = true → bridgeEnter acc.req acc.addr s = s → checkAccess s acc wr = .bad reason →
    regionOf acc.addr (acc.bits / 8) ≠ some .dram → regionOf acc.addr (acc.bits / 8) ≠ some .sram →
    regionOf acc.addr (acc.bits / 8) ≠ some .landing → s.sdg.clkStopped = false →
    ∃ t, exec (if wr then .registerWrite acc value else .lowHalfRead acc) s = .next t ∧
      t.out.head? = some (.errorResp acc.req acc.addr 0) ∧ AlarmTaken 0x92 s t ∧
      (∀ b, blockOf acc.addr = some b → bit (regRaw t (b + 4)) 2 = true) ∧
      regRaw t 0x1000010C = satAdd (regRaw s 0x1000010C) 1 0xFFFFFFFF % 2 ^ 64 ∧
      odGet t (odKey 0x2001 1) = satAdd (odGet s (odKey 0x2001 1)) 1 0xFFFFFFFF ∧
      (bit (regRaw s 0x10000108) 31 = false → regRaw t 0x10000100 = acc.addr % 2 ^ 64 ∧
        regRaw t 0x10000108 = (2 ^ 31 + acc.req * 65536 + reason * 256 + b2n wr * 128 + b2n (tagOf s acc.req acc.world) * 64) % 2 ^ 64) ∧
      (bit (regRaw s 0x10000108) 31 = true → regRaw t 0x10000100 = regRaw s 0x10000100 ∧ regRaw t 0x10000108 = regRaw s 0x10000108) ∧
      OdOnly ([odKey 0x2001 1, odKey 0x2001 3] ++ alarmKeys) s t ∧
      Frame [.dev, .regs, .od, .pwr, .start, .sdg, .frz, .pack] s t

/-! ### Sheepdog (chapter 04) -/

/-- Each detector of chapter 04 raises its alarm, and does nothing else; below its limit it does nothing at all. Of the alarms of one CLK_SDG
cycle each is taken once: every one sets its bit, the highest becomes the latest alarm, the lowest safety alarm the first, and the reaction is
SAFE_HOLD if any of them asks for it. The independent monitor of CLK_SDG drives all three pins low and holds them there; a Sheepdog that
still runs also records CLOCK_MON. A write of 1 to SW_ALARM raises SW_RAISED, a write of 0 nothing. -/
def Obligations.DetectorsRaiseTheirAlarm : Prop :=
  (∀ (n : Nat) (s : State), n ∈ alarmNumbers → alarmed s = true → ∃ t, exec (.alarm [n]) s = .next t ∧ OnlyAlarm n s t) ∧
  (∀ (ns : Nat) (s : State), 1000 ≤ ns → alarmed s = true → ∃ t, exec (.alarmLine ns) s = .next t ∧ OnlyAlarm 0x51 s t) ∧
  (∀ (ns : Nat) (s : State), ns < 1000 → exec (.alarmLine ns) s = .next s) ∧
  (∀ s : State, alarmed s = true → ∃ t, exec .sdgSelf s = .next t ∧ OnlyAlarm 0xA2 s t ∧
    (isRunning s = true → 1 ≤ alarmClass s 0xA2 → alarmClass s 0xA2 ≤ 7 → t.dev = .safeHold ∧ t.sdg.restartPending = false)) ∧
  (∀ (c : Fin 12) (count : Nat) (s : State), alarmed s = true →
    count * 100 < (clockNominal c.val).1 * (100 - (clockNominal c.val).2) ∨ (clockNominal c.val).1 * (100 + (clockNominal c.val).2) < count * 100 →
    ∃ t, exec (.clockMon c count) s = .next t ∧ OnlyAlarm 0x40 s t) ∧
  (∀ (c : Fin 12) (count : Nat) (s : State),
    (clockNominal c.val).1 * (100 - (clockNominal c.val).2) ≤ count * 100 → count * 100 ≤ (clockNominal c.val).1 * (100 + (clockNominal c.val).2) →
    exec (.clockMon c count) s = .next s) ∧
  (∀ (ns : Nat) (s : State), us 100 ≤ ns → blocksOn s = true → s.sdg.clkStopped = false →
    ∃ t, exec (.fabricTimeout ns) s = .next t ∧ OnlyAlarm 0x50 s t) ∧
  (∀ (failing : List (Fin 7)) (s : State), isRunning s = true → s.sdg.enteredOp = true → s.sdg.clkStopped = false → failing ≠ [] →
    ∃ t, exec (.latentTest failing) s = .next t ∧ TimeAt s.sdg.latentNext s t ∧ AlarmTaken 0xA0 s t ∧
      t.sdg.latentNext = s.sdg.latentNext + ms (odUse s (odKey 0x2200 0x0D)) ∧
      OdOnly alarmKeys s t ∧ RegsOnly alarmRegs s t ∧ Frame (.now :: .gtime :: alarmParts) s t) ∧
  (∀ s : State, isRunning s = true → s.sdg.enteredOp = true →
    ∃ t, exec (.latentTest []) s = .next t ∧ TimeAt s.sdg.latentNext s t ∧
      t.sdg = { s.sdg with latentNext := s.sdg.latentNext + ms (odUse s (odKey 0x2200 0x0D)) } ∧ t.out = s.out ∧ Frame [.sdg, .now, .gtime] s t) ∧
  (∀ (numbers : List Nat) (s : State), alarmed s = true → (∀ n ∈ alarmNumbers, alarmClass s n ≤ 7) →
    ∃ t, exec (.alarm numbers) s = .next t ∧
      (∀ n, bit t.sdg.alarmMap n = (bit s.sdg.alarmMap n || (alarmSort numbers).contains n)) ∧
      t.sdg.lastAlarm = (alarmSort numbers).getLast?.getD s.sdg.lastAlarm ∧
      (s.sdg.firstAlarm = 0 → t.sdg.firstAlarm = ((alarmSort numbers).find? (fun n => decide (alarmClass s n ≠ 0))).getD 0) ∧
      (s.sdg.firstAlarm ≠ 0 → t.sdg.firstAlarm = s.sdg.firstAlarm) ∧
      (isRunning s = true → (alarmSort numbers).any (fun n => decide (alarmClass s n ≠ 0)) = true →
        t.dev = .safeHold ∧
        t.sdg.restartPending = !(alarmSort numbers).any (fun n => decide (alarmClass s n ≠ 0) && reactsHold s n)) ∧
      ((alarmSort numbers).any (fun n => decide (alarmClass s n ≠ 0)) = false → t.dev = s.dev) ∧
      OdOnly alarmKeys s t ∧ RegsOnly alarmRegs s t ∧ Frame alarmParts s t) ∧
  (∀ (freq ns : Nat) (s : State), us 50 ≤ ns → freq < 19500000 ∨ 20500000 < freq → s.dev ≠ .off →
    ∃ t, exec (.clkSdgMonitor freq ns) s = .next t ∧ (t.sdg.faultN || t.sdg.aliveA || t.sdg.aliveB) = false ∧ t.sdg.clkTripped = true ∧
      (freq ≠ 0 → s.dev ≠ .failed → AlarmTaken 0x40 s t) ∧ (freq = 0 → t.sdg.alarmMap = s.sdg.alarmMap ∧ t.dev = s.dev) ∧
      OdOnly alarmKeys s t ∧ RegsOnly alarmRegs s t ∧ Frame alarmParts s t) ∧
  (∀ (acc : Access) (value : Word) (s : State), Reaches acc 0x10100060 s → s.sdg.clkStopped = false → carried acc value % 2 = 1 →
    ∃ t, exec (.swAlarm acc value) s = .next t ∧ WriteTaken acc 0x10100060 s t ∧ AlarmTaken 0x80 s t ∧
      OdOnly alarmKeys s t ∧ RegsOnly (countReg 0x10100060 :: alarmRegs) s t ∧ Frame alarmParts s t) ∧
  (∀ (acc : Access) (value : Word) (s : State), Reaches acc 0x10100060 s → carried acc value % 2 = 0 →
    ∃ t, exec (.swAlarm acc value) s = .next t ∧ WriteTaken acc 0x10100060 s t ∧
      RegsOnly [countReg 0x10100060] s t ∧ Frame [.regs] s t)

/-- SAFE_ACK_N and the restart behind it: the filtered level is followed; a falling edge in SAFE_HOLD starts the 100 µs, their end in time
begins the restart, their absence raises SAFE_ACK_MISSING and leaves the device in SAFE_HOLD. -/
def Obligations.RestartWaitsForAcknowledgement : Prop :=
  (∀ (low : Bool) (s : State), s.sdg.ackLow ≠ low →
    ∃ t, exec (.safeAckNChange low) s = .next t ∧
      t.sdg = { s.sdg with ackLow := low, ackFall := if low = true ∧ s.dev = .safeHold then some s.now else none } ∧
      t.now = s.now ∧ t.out = s.out ∧ Frame [.sdg] s t) ∧
  (∀ (f h : Nat) (s : State), s.dev = .safeHold → s.sdg.restartPending = true → s.sdg.ackMissed = false →
    s.sdg.ackFall = some f → s.sdg.holdAt = some h → f + us 100 ≤ h + ms (odUse s (odKey 0x2200 0x0C)) →
    ∃ t, exec .safeAckConfirmed s = .next t ∧ TimeAt (f + us 100) s t ∧ RestartEntered 5 true s t ∧
      OdOnly [odKey 0x2000 2, odKey 0x2100 8] s t ∧ RegsOnly (msgRegs 1811) s t ∧
      Frame [.dev, .regs, .od, .pwr, .start, .sdg, .frz, .leash, .splice, .now, .gtime] s t) ∧
  (∀ (h : Nat) (s : State), s.dev = .safeHold → s.sdg.restartPending = true → s.sdg.ackMissed = false → s.sdg.clkStopped = false →
    s.sdg.holdAt = some h → (∀ f, s.sdg.ackFall = some f → h + ms (odUse s (odKey 0x2200 0x0C)) < f + us 100) →
    ∃ t, exec .safeAckMissing s = .next t ∧ TimeAt (h + ms (odUse s (odKey 0x2200 0x0C))) s t ∧ t.dev = .safeHold ∧
      t.sdg.ackMissed = true ∧ AlarmTaken 0x95 s t ∧ OdOnly alarmKeys s t ∧ RegsOnly alarmRegs s t ∧ Frame (.now :: .gtime :: alarmParts) s t) ∧
  (∀ (w : Nat) (s : State), s.dev = .restart → s.sdg.restartWait = some w →
    ∃ t, exec .restartFrameWaitEnd s = .next t ∧
      t.now = (if (s.sdg.ssFlight.isSome || s.sdg.ssBound.isSome) = true then max s.now w else s.now) ∧
      t.sdg = { s.sdg with restartWait := none, ssFlight := none, ssBound := none } ∧ t.out = s.out ∧ Frame [.sdg, .now, .gtime] s t)

/-- SafetyStatus: a periodic frame starts as soon as the controller is free, the counter advances with each frame sent, a frame not started
within its bound raises SAFETY_MSG_FAIL. And the ALIVE pins of a running device toggle every 500 µs as complements, beginning with ALIVE_A
high. -/
def Obligations.SafetyStatusAndAlivePins : Prop :=
  (∀ s : State, isUp s = true → s.sdg.clkStopped = false → canRunning s (ssCtrl s) = true → s.sdg.ssFlight = none →
    (getCan s (ssCtrl s)).flight = none →
    ∃ t, exec .safetyStatusPeriodic s = .next t ∧ TimeAt (s.sdg.ssLast + ms (odUse s (odKey 0x2200 0x0A))) s t ∧
      t.sdg.ssLast = t.now ∧ t.sdg.ssBound = none ∧
      (∃ f, t.sdg.ssFlight = some f ∧ Sends [.canStart (ssCtrl s) f] s t ∧ f.data.length = 8 ∧ f.fdf = false ∧ f.rtr = false ∧
        f.data[0]? = some (BitVec.ofNat 8 (devCode s.dev)) ∧ f.data[5]? = some (BitVec.ofNat 8 s.sdg.ssCounter)) ∧
      Frame [.sdg, .now, .gtime] s t) ∧
  (∀ (f : CanFrame) (s : State), s.sdg.ssFlight = some f → s.sdg.ssBound = none →
    ∃ t, exec .safetyStatusTxDone s = .next t ∧ t.now = s.now ∧ t.out = s.out ∧
      t.sdg = { s.sdg with ssFlight := none, ssCounter := (s.sdg.ssCounter + 1) % 16 } ∧
      getCan t (ssCtrl s) = { getCan s (ssCtrl s) with tec := (getCan s (ssCtrl s)).tec - 1 } ∧
      (∀ c, c ≠ ssCtrl s → getCan t c = getCan s c) ∧ Frame [.sdg, .can] s t) ∧
  (∀ (b : Nat) (s : State), s.sdg.ssBound = some b → isUp s = true → s.sdg.clkStopped = false →
    ∃ t, exec .safetyMsgFail s = .next t ∧ TimeAt b s t ∧ AlarmTaken 0xA1 s t ∧
      OdOnly alarmKeys s t ∧ RegsOnly alarmRegs s t ∧ Frame (.now :: .gtime :: alarmParts) s t) ∧
  (∀ s : State, isRunning s = true → s.sdg.clkTripped = false →
    ∃ t, exec .aliveToggle s = .next t ∧ TimeAt (s.sdg.lastToggle + us 500) s t ∧ t.sdg.lastToggle = t.now ∧
      t.sdg.faultN = true ∧ t.sdg.aliveB = !t.sdg.aliveA ∧
      (s.sdg.aliveA = s.sdg.aliveB → t.sdg.aliveA = true) ∧ (s.sdg.aliveA ≠ s.sdg.aliveB → t.sdg.aliveA = !s.sdg.aliveA) ∧
      t.out.head? = some (.pins true t.sdg.aliveA t.sdg.aliveB) ∧ Frame [.sdg, .now, .gtime] s t)

/-- Software watchdogs: a kick with the right value in the open window, or any right kick after the window has closed, or the first kick
with 1, is accepted and restarts the window; an early or wrong one raises the watchdog's alarm; a kick of a disabled watchdog is ignored;
the window opens and closes by its entry, and closing unkicked raises the alarm once. -/
def Obligations.WatchdogsWatchTheirWindow : Prop :=
  (∀ (n : Fin 16) (acc : Access) (value : Word) (s : State), Reaches acc (0x10100100 + 8 * n.val) s →
    odUse s (odKey 0x2202 (n.val + 1)) ≠ 0 →
    ((getWdg s n.val).running = true ∧ carried acc value % 65536 = ((getWdg s n.val).seq + 1) % 65536 ∧
      ((getWdg s n.val).expired = true ∨ (getWdg s n.val).open' = true ∨ (getWdg s n.val).from' + wdgOpens s n.val ≤ s.now)) ∨
      ((getWdg s n.val).running = false ∧ n.val ≠ 0 ∧ carried acc value % 65536 = 1) →
    ∃ t, exec (.wdgKick n acc value) s = .next t ∧ WriteTaken acc (0x10100100 + 8 * n.val) s t ∧
      getWdg t n.val = { running := true, seq := ((getWdg s n.val).seq + 1) % 65536, from' := s.now, open' := false, expired := false,
                         unit := some (acc.req - 16) } ∧
      (∀ m, m ≠ n.val → getWdg t m = getWdg s m) ∧ t.sdg = { s.sdg with wdg := t.sdg.wdg } ∧
      RegsOnly [countReg 0x10100100] s t ∧ Frame [.regs, .sdg] s t) ∧
  (∀ (n : Fin 16) (acc : Access) (value : Word) (s : State), Reaches acc (0x10100100 + 8 * n.val) s → s.sdg.clkStopped = false →
    odUse s (odKey 0x2202 (n.val + 1)) ≠ 0 →
    ((getWdg s n.val).running = true ∧ carried acc value % 65536 ≠ ((getWdg s n.val).seq + 1) % 65536) ∨
      ((getWdg s n.val).running = true ∧ (getWdg s n.val).expired = false ∧ (getWdg s n.val).open' = false ∧
        s.now < (getWdg s n.val).from' + wdgOpens s n.val) ∨
      ((getWdg s n.val).running = false ∧ n.val ≠ 0 ∧ carried acc value % 65536 ≠ 1) →
    ∃ t, exec (.wdgKick n acc value) s = .next t ∧ WriteTaken acc (0x10100100 + 8 * n.val) s t ∧ AlarmTaken (0x70 + n.val) s t ∧
      (∀ m, getWdg t m = getWdg s m) ∧ OdOnly alarmKeys s t ∧ Frame alarmParts s t) ∧
  (∀ (n : Fin 16) (acc : Access) (value : Word) (s : State), Reaches acc (0x10100100 + 8 * n.val) s →
    odUse s (odKey 0x2202 (n.val + 1)) = 0 ∨ (n.val = 0 ∧ (getWdg s 0).running = false) →
    ∃ t, exec (.wdgKick n acc value) s = .next t ∧ WriteTaken acc (0x10100100 + 8 * n.val) s t ∧
      RegsOnly [countReg 0x10100100] s t ∧ Frame [.regs] s t) ∧
  (∀ (n : Fin 16) (s : State), blocksOn s = true → (getWdg s n.val).running = true → (getWdg s n.val).expired = false →
    ∃ t, exec (.wdgWindowOpen n) s = .next t ∧ TimeAt ((getWdg s n.val).from' + wdgOpens s n.val) s t ∧
      getWdg t n.val = { getWdg s n.val with open' := true } ∧ (∀ m, m ≠ n.val → getWdg t m = getWdg s m) ∧
      t.sdg = { s.sdg with wdg := t.sdg.wdg } ∧ t.out = s.out ∧ Frame [.sdg, .now, .gtime] s t) ∧
  (∀ (n : Fin 16) (s : State), blocksOn s = true → s.sdg.clkStopped = false →
    (getWdg s n.val).running = true → (getWdg s n.val).expired = false →
    ∃ t, exec (.wdgWindowClose n) s = .next t ∧ TimeAt ((getWdg s n.val).from' + wdgCloses s n.val) s t ∧
      getWdg t n.val = { getWdg s n.val with open' := false, expired := true } ∧ (∀ m, m ≠ n.val → getWdg t m = getWdg s m) ∧
      AlarmTaken (0x70 + n.val) s t ∧ OdOnly alarmKeys s t ∧ RegsOnly alarmRegs s t ∧ Frame (.now :: .gtime :: alarmParts) s t)

/-! ### Supply, resets and starts (chapters 05 and 21) -/

/-- VDD_AON and PORST_N. Without VDD_AON the device is OFF, its pins are low and only what is burned or stored outside the always-on domain
is left; with it and PORST_N low it stays OFF; PORST_N low for 10 µs takes every state but FAILED to OFF, resets the management controller
and loses retention, and in FAILED resets without leaving it. A start that follows from OFF is a cold start, which takes the burned fuses
into use and may already have failed (its device part is one step, log entry 45). -/
def Obligations.SupplyAndPowerOnReset : Prop :=
  (∀ s : State, s.pwr.aonOn = true →
    ∃ t, exec .vddAonRemoved s = .next t ∧ t.dev = .off ∧ t.pwr.aonOn = false ∧ (t.sdg.faultN || t.sdg.aliveA || t.sdg.aliveB) = false ∧
      t.mem = [] ∧ t.regs = [] ∧ t.od = [] ∧ t.leash.sessions = [] ∧ t.leash.creds = s.leash.creds ∧ t.sec.slots = [] ∧ t.frz.records = [] ∧
      t.params = s.params ∧ t.fuses = s.fuses ∧ t.now = s.now ∧ t.pending = s.pending) ∧
  (∀ (strap pcie : Bool) (env : StartEnv) (s : State), s.pwr.aonOn = false →
    ∃ t, exec (.vddAonPowerOn false strap pcie env) s = .next t ∧ t.dev = .off ∧ t.pwr.aonOn = true ∧ t.pwr.porstHigh = false ∧
      (t.sdg.faultN || t.sdg.aliveA || t.sdg.aliveB) = false ∧ t.mem = [] ∧ t.regs = [] ∧ t.od = [] ∧
      t.params = s.params ∧ t.fuses = s.fuses ∧ t.out = s.out ∧ t.now = s.now ∧ t.pending = s.pending) ∧
  (∀ (strap pcie : Bool) (env : StartEnv) (s : State), s.pwr.aonOn = false → env.railsSteady = true →
    ∃ t, exec (.vddAonPowerOn true strap pcie env) s = .next t ∧ (t.dev = .coldStart ∨ t.dev = .restart ∨ t.dev = .failed) ∧
      t.fuses = { s.fuses with lifecycleIn := s.fuses.lifecycle, rollbackIn := s.fuses.rollback, splitMaskIn := s.fuses.splitMask } ∧
      t.pending = s.pending) ∧
  (∀ (ns : Nat) (s : State), us 10 ≤ ns → s.pwr.aonOn = true → s.dev ≠ .failed →
    ∃ t, exec (.porstNAssert ns) s = .next t ∧ t.dev = .off ∧ t.pwr.porstHigh = false ∧ t.pwr.retention = false ∧
      (t.sdg.faultN || t.sdg.aliveA || t.sdg.aliveB) = false ∧ t.leash.sessions = [] ∧ t.canopen.active = false ∧
      (s.dev ≠ .off → t.start.cause = 2) ∧ OdOnly [odKey 0x2100 8] s t ∧
      (∀ p, p ∉ [Part.dev, .od, .pwr, .start, .sdg, .frz, .leash, .canopen, .latch, .pins] → p.same s t)) ∧
  (∀ (ns : Nat) (s : State), us 10 ≤ ns → s.pwr.aonOn = true → s.dev = .failed →
    ∃ t, exec (.porstNAssert ns) s = .next t ∧ t.dev = .failed ∧ t.leash.sessions = [] ∧ t.pwr.porstHigh = false ∧
      odGet t (odKey 0x2500 9) = satAdd (odGet s (odKey 0x2500 9)) 1 0xFFFFFFFF ∧ OdOnly [odKey 0x2500 9] s t ∧
      Frame [.od, .pwr, .leash, .canopen] s t) ∧
  (∀ (strap pcie : Bool) (env : StartEnv) (s : State), s.pwr.aonOn = true → s.pwr.porstHigh = false → s.dev = .off → env.railsSteady = true →
    ∃ t, exec (.porstNRelease strap pcie env) s = .next t ∧ (t.dev = .coldStart ∨ t.dev = .restart ∨ t.dev = .failed) ∧
      t.fuses = { s.fuses with lifecycleIn := s.fuses.lifecycle, rollbackIn := s.fuses.rollback, splitMaskIn := s.fuses.splitMask } ∧
      t.pending = s.pending) ∧
  (∀ (strap pcie : Bool) (env : StartEnv) (s : State), s.pwr.aonOn = true → s.pwr.porstHigh = false → s.dev = .failed →
    ∃ t, exec (.porstNRelease strap pcie env) s = .next t ∧ t.dev = .failed ∧ t.leash = { s.leash with up := true } ∧
      t.pwr = { s.pwr with porstHigh := true } ∧ Frame [.pwr, .start, .leash, .fuses, .lock] s t)

/-- The rails and VSENSE_BAT. A retention rail out of range loses DRAM retention and is counted. A core rail under its window takes every
powered state but FAILED straight to RESTART and loses retention, except in a RESTART whose controlled reset is complete; above its window it
raises RAIL_WINDOW. A sample between the thresholds breaks every run; the second in a row under VWARN takes OPERATIONAL to BRACE, counts,
stops the patrol and raises SUPPLY_WARN with FAULT_N still high; the second at or under VRESET takes a running device to RESTART with
cause 3; the end of the return dwell takes BRACE back to OPERATIONAL without a reset. -/
def Obligations.RailsAndSupplyVoltageDecide : Prop :=
  (∀ (rail : Fin 5) (s : State), s.pwr.aonOn = true →
    ∃ t, exec (.retentionRailExcursion rail) s = .next t ∧ t.pwr = { s.pwr with retention := false } ∧
      odGet t (odKey 0x2101 3) = satAdd (odGet s (odKey 0x2101 3)) 1 0xFFFFFFFF ∧ t.out = s.out ∧
      OdOnly [odKey 0x2101 3] s t ∧ Frame [.od, .pwr] s t) ∧
  (∀ (rail : Fin 8) (s : State), s.pwr.aonOn = true → s.dev ≠ .off → s.dev ≠ .failed → (s.dev = .restart → s.pwr.ctrlPending = true) →
    ∃ t, exec (.coreRailUndervoltage rail) s = .next t ∧ t.dev = .restart ∧
      t.pwr = { s.pwr with railUnder := s.pwr.railUnder ||| 2 ^ rail.val, railOver := clearMask s.pwr.railOver (2 ^ rail.val),
                           braceAt := none, ctrlPending := false, retention := false } ∧
      t.start = { s.start with cause := 4, wantWarm := false, readyBy := none, readySeen := false } ∧
      (s.dev ≠ .restart → (t.sdg.faultN || t.sdg.aliveA || t.sdg.aliveB) = false) ∧
      t.leash.sessions = [] ∧ t.splice.lock = none ∧ t.splice.sems = [] ∧
      OdOnly [odKey 0x2000 2, odKey 0x2100 8] s t ∧ RegsOnly (msgRegs 1811) s t ∧
      Frame [.dev, .regs, .od, .pwr, .start, .sdg, .frz, .leash, .canopen, .splice] s t) ∧
  (∀ (rail : Fin 8) (s : State), s.pwr.aonOn = true → s.dev = .restart → s.pwr.ctrlPending = false →
    ∃ t, exec (.coreRailUndervoltage rail) s = .next t ∧
      t.pwr = { s.pwr with railUnder := s.pwr.railUnder ||| 2 ^ rail.val, railOver := clearMask s.pwr.railOver (2 ^ rail.val) } ∧
      t.out = s.out ∧ Frame [.pwr] s t) ∧
  (∀ (rail : Fin 8) (s : State), s.pwr.aonOn = true → alarmed s = true →
    ∃ t, exec (.railWindow rail) s = .next t ∧ AlarmTaken 0x41 s t ∧
      t.pwr.railOver = s.pwr.railOver ||| 2 ^ rail.val ∧ t.pwr.railUnder = clearMask s.pwr.railUnder (2 ^ rail.val) ∧
      OdOnly alarmKeys s t ∧ RegsOnly alarmRegs s t ∧ Frame alarmParts s t) ∧
  (∀ (uv : Int) (s : State), s.pwr.aonOn = true →
    (vwarn s : Int) ≤ vsenseMv s uv → (vreset s : Int) < vsenseMv s uv → vsenseMv s uv < ((vwarn s + 500 : Nat) : Int) →
    0 ≤ vsenseMv s uv → vsenseMv s uv < 65536 →
    ∃ t, exec (.vsenseSample uv) s = .next t ∧ TimeAt (s.pwr.lastSample + us 10) s t ∧
      t.pwr = { s.pwr with lastSample := t.now, nowMv := (vsenseMv s uv).toNat, minMv := min s.pwr.minMv (vsenseMv s uv).toNat,
                           warnRun := 0, resetRun := 0, returnRun := 0, returnOk := false } ∧
      t.out = s.out ∧ Frame [.pwr, .now, .gtime] s t) ∧
  (∀ (uv : Int) (s : State), s.pwr.aonOn = true → s.dev = .operational → s.pwr.warnRun = 1 → s.pwr.below = false → s.sdg.clkStopped = false →
    vsenseMv s uv < (vwarn s : Int) → (vreset s : Int) < vsenseMv s uv → alarmClass s 0x44 = 0 →
    ∃ t, exec (.vsenseSample uv) s = .next t ∧ TimeAt (s.pwr.lastSample + us 10) s t ∧ t.dev = .brace ∧
      t.pwr.below = true ∧ t.pwr.braceAt = some t.now ∧ t.memCtl.patrolStopped = true ∧
      odGet t (odKey 0x2100 7) = satAdd (odGet s (odKey 0x2100 7)) 1 0xFFFF ∧
      odGet t (odKey 0x2100 9) = satAdd (odGet s (odKey 0x2100 9)) 1 0xFFFFFFFF ∧
      t.sdg.alarmMap = s.sdg.alarmMap ||| 2 ^ 0x44 ∧ t.sdg.lastAlarm = 0x44 ∧ (t.sdg.faultN = !s.sdg.clkTripped) ∧
      Frame [.dev, .now, .free, .regs, .od, .memCtl, .pwr, .start, .sdg, .frz, .pack, .gtime] s t) ∧
  (∀ (uv : Int) (s : State), s.pwr.aonOn = true → isUp s = true → s.pwr.resetRun = 1 → s.pwr.below = true →
    vsenseMv s uv ≤ (vreset s : Int) → (vreset s : Int) < (vwarn s : Int) →
    ∃ t, exec (.vsenseSample uv) s = .next t ∧ TimeAt (s.pwr.lastSample + us 10) s t ∧ RestartEntered 3 true s t ∧ t.pwr.atReset = true ∧
      OdOnly [odKey 0x2000 2, odKey 0x2100 8] s t ∧
      Frame [.dev, .now, .free, .regs, .od, .pwr, .start, .sdg, .frz, .leash, .splice, .gtime] s t) ∧
  (∀ s : State, s.dev = .brace → s.pwr.atReset = false →
    ∃ t, exec .braceReturn s = .next t ∧ TimeAt (s.pwr.lastSample + (501 - s.pwr.returnRun) * us 10) s t ∧ t.dev = .operational ∧
      t.pwr.returnOk = true ∧ t.pwr.below = false ∧ t.pwr.braceAt = none ∧ t.memCtl.patrolStopped = false ∧ t.free = s.free + 1 ∧
      (t.sdg.faultN = !s.sdg.clkTripped) ∧ OdOnly [odKey 0x2000 2, odKey 0x2100 8] s t ∧
      Frame [.dev, .now, .free, .regs, .od, .memCtl, .pwr, .sdg, .gtime] s t)

/-- RESTART, and the way out of it. The controlled reset ends with every strand in self-refresh and retention valid. With the return
condition and steady rails the device starts: warm when the last reset, retention, slot 0 and the AON SRAM allow it, keeping DRAM and
clearing shared SRAM, else cold. READY ends a start in OPERATIONAL; its absence fails step 15. WARM_REQ_N asks for a restart where one is
allowed, and is counted where not. -/
def Obligations.RestartsAndStarts : Prop :=
  (∀ s : State, s.dev = .restart → s.pwr.ctrlPending = true →
    ∃ t, exec .controlledResetDone s = .next t ∧ t.dev = .restart ∧ t.pwr = { s.pwr with ctrlPending := false, retention := true } ∧
      t.memCtl = { s.memCtl with selfRefresh := true, patrolOn := false } ∧ t.sdg.restartWait = none ∧ t.sdg.ssFlight = none ∧
      Frame [.now, .regs, .od, .memCtl, .pwr, .sdg, .frz, .net, .gtime] s t) ∧
  (∀ (env : StartEnv) (s : State), s.dev = .restart → s.pwr.ctrlPending = false → s.pwr.returnOk = true → env.railsSteady = true →
    s.start.wantWarm = true → s.start.forceCold = false → warmBarred s env.aonGood = false → s.start.maskedRec = false →
    env.failStep = none → env.alarms = [] → env.badParams = [] → s.params.mark = true → s.memCtl.dramErr = [] →
    ∃ t, exec (.restartExit env) s = .next t ∧ t.dev = .warmStart ∧ TimeAt (s.now + us env.deviceUs) s t ∧
      t.start.readyBy = some (t.now + ms (odGet t (odKey 0x2500 0x10))) ∧ t.leash.up = true ∧
      (∀ a, memByte t a = if 0x4000000000 ≤ a then memByte s a else 0) ∧
      t.fuses = s.fuses ∧ t.params = s.params ∧ t.pending = s.pending) ∧
  (∀ (env : StartEnv) (s : State), s.dev = .restart → s.pwr.ctrlPending = false → s.pwr.returnOk = true → env.railsSteady = true →
    (s.start.wantWarm = false ∨ s.start.forceCold = true ∨ warmBarred s env.aonGood = true) →
    ∃ t, exec (.restartExit env) s = .next t ∧ (t.dev = .coldStart ∨ t.dev = .restart ∨ t.dev = .failed) ∧
      t.fuses = { s.fuses with lifecycleIn := s.fuses.lifecycle, rollbackIn := s.fuses.rollback, splitMaskIn := s.fuses.splitMask } ∧
      t.pending = s.pending) ∧
  (∀ (acc : Access) (value : Word) (d : Nat) (s : State), Reaches acc 0x10300030 s → bit (carried acc value) 0 = true →
    isStarting s = true → s.start.readyBy = some d → s.pwr.below = false → s.sdg.enteredOp = false →
    ∃ t, exec (.startReady acc value) s = .next t ∧ WriteTaken acc 0x10300030 s t ∧ t.dev = .operational ∧
      t.start.readyBy = none ∧ t.start.failedCold = (if s.dev = .coldStart then 0 else s.start.failedCold) ∧
      (t.sdg.faultN = !s.sdg.clkTripped) ∧ t.sdg.lastToggle = s.now ∧ t.sdg.enteredOp = true ∧
      (getWdg t 0).running = true ∧ (getWdg t 0).from' = s.now ∧
      t.sdg.latentNext = s.now + ms (odUse s (odKey 0x2200 0x0D)) ∧ t.splice.perst = false ∧
      Frame [.dev, .regs, .od, .start, .sdg, .pack, .can, .splice] s t) ∧
  (∀ (acc : Access) (value : Word) (d : Nat) (s : State), Reaches acc 0x10300030 s → bit (carried acc value) 0 = true →
    isStarting s = true → s.start.readyBy = some d → s.pwr.below = true →
    ∃ t, exec (.startReady acc value) s = .next t ∧ WriteTaken acc 0x10300030 s t ∧
      t.start = { s.start with readyBy := none, readySeen := true } ∧ RegsOnly [countReg 0x10300030] s t ∧ Frame [.regs, .start] s t) ∧
  (∀ (d : Nat) (s : State), isStarting s = true → s.start.readyBy = some d →
    ∃ t, exec .readyTimeout s = .next t ∧ TimeAt d s t ∧ odGet t (odKey 0x2500 0x0E) = 15 ∧
      t.start.failedCold = s.start.failedCold + b2n (decide (s.dev = .coldStart)) ∧
      (2 ≤ s.start.failedCold + b2n (decide (s.dev = .coldStart)) → t.dev = .failed ∧ t.start.failedReason = 3) ∧
      (s.start.failedCold + b2n (decide (s.dev = .coldStart)) < 2 → RestartEntered 8 false s t ∧
        t.start.forceCold = (s.start.forceCold || !decide (s.dev = .coldStart))) ∧
      Frame [.dev, .now, .regs, .od, .pwr, .start, .sdg, .frz, .leash, .splice, .gtime] s t) ∧
  (∀ (ns : Nat) (s : State), us 10 ≤ ns → isUp s = true →
    ∃ t, exec (.warmReqNFall ns) s = .next t ∧ t.now = s.now ∧ RestartEntered 6 true s t ∧ OdOnly [odKey 0x2000 2, odKey 0x2100 8] s t ∧
      RegsOnly (msgRegs 1811) s t ∧ Frame [.dev, .regs, .od, .pwr, .start, .sdg, .frz, .leash, .splice] s t) ∧
  (∀ (ns : Nat) (s : State), us 10 ≤ ns → s.dev = .coldStart ∨ s.dev = .restart ∨ s.dev = .failed →
    ∃ t, exec (.warmReqNFall ns) s = .next t ∧ t.out = s.out ∧
      odGet t (odKey 0x2500 9) = satAdd (odGet s (odKey 0x2500 9)) 1 0xFFFFFFFF ∧ OdOnly [odKey 0x2500 9] s t ∧ Frame [.od] s t)

/-- Temperatures and the PMIC. The hottest sensor and the highest value so far are shown; a sensor that newly reaches 125 °C raises
TEMP_LIMIT. Every monitored PMIC page is read in order, and a page that newly shows a fault raises PMIC_STATUS. -/
def Obligations.TemperaturesAndPmic : Prop :=
  (∀ (temps : List Int) (i : Nat) (c : Int) (s : State), s.pwr.aonOn = true → s.dev ≠ .off → hottest 0 (temps.take 24) = some (i, c) →
    (∀ k, k < 24 → temps.getD k (-400) < 1250) →
    ∃ t, exec (.tempSensorUpdate temps) s = .next t ∧ TimeAt (s.pwr.lastTemp + ms 1) s t ∧
      t.pwr = { s.pwr with lastTemp := t.now, hotMask := 0, hotSensor := i, hotTemp := c } ∧
      odGet t (odKey 0x2101 1) = ofSigned 16 c ∧
      odGet t (odKey 0x2101 2) = ofSigned 16 (max (toSigned 16 (odGet s (odKey 0x2101 2))) c) ∧ t.out = s.out ∧
      OdOnly [odKey 0x2101 1, odKey 0x2101 2] s t ∧ Frame [.od, .pwr, .now, .gtime] s t) ∧
  (∀ (temps : List Int) (i k : Nat) (c : Int) (s : State), s.pwr.aonOn = true → alarmed s = true → hottest 0 (temps.take 24) = some (i, c) →
    k < 24 → 1250 ≤ temps.getD k (-400) → s.pwr.hotMask = 0 →
    ∃ t, exec (.tempSensorUpdate temps) s = .next t ∧ TimeAt (s.pwr.lastTemp + ms 1) s t ∧ AlarmTaken 0x43 s t ∧
      bit t.pwr.hotMask k = true ∧ odGet t (odKey 0x2101 1) = ofSigned 16 c ∧
      OdOnly ([odKey 0x2101 1, odKey 0x2101 2] ++ alarmKeys) s t ∧ Frame (.now :: .gtime :: alarmParts) s t) ∧
  (∀ (words : List (Option Nat)) (s : State), blocksOn s = true → words = List.replicate 8 (some 0) →
    ∃ t, exec (.pmicPoll words) s = .next t ∧ TimeAt (s.pwr.lastPoll + ms 1) s t ∧ t.pwr.lastPoll = t.now ∧
      Sends ((setBits 8 (odUse s (odKey 0x2100 0x0C))).reverse.map (fun p => .pmbus p 0x79)) s t ∧ Frame [.pwr, .now, .gtime] s t) ∧
  (∀ (words : List (Option Nat)) (s : State), blocksOn s = true → words = List.replicate 8 (some 0) →
    ∃ t, exec (.pmbAlert words) s = .next t ∧
      Sends ((setBits 8 (odUse s (odKey 0x2100 0x0C))).reverse.map (fun p => .pmbus p 0x79)) s t ∧ Frame [.pwr] s t) ∧
  (∀ (p v : Nat) (s : State), blocksOn s = true → s.sdg.clkStopped = false → setBits 8 (odUse s (odKey 0x2100 0x0C)) = [p] →
    v % 65536 ≠ 0 → bit s.pwr.pmicBad p = false →
    ∃ t, exec (.pmbAlert [some v]) s = .next t ∧ AlarmTaken 0x42 s t ∧ t.pwr.pmicBad = s.pwr.pmicBad ||| 2 ^ p ∧ t.pwr.pmicMiss = 0 ∧
      OdOnly alarmKeys s t ∧ RegsOnly alarmRegs s t ∧ Frame alarmParts s t)

/-! ### Leash and the object dictionary (chapter 03) -/

/-- Sessions. A HELLO that the role allows takes a free slot, with an identifier that no session holds and keys derived from fresh nonces,
and is answered with a CHALLENGE. A PROVE with a valid TAG opens the session; one without frees the slot, counts, and the fifth in a row
locks the role out for 60 s. CLOSE frees the slot; NOP only answers. -/
def Obligations.SessionsOpenAndClose : Prop :=
  (∀ (m : LeashMsg) (i : Nat) (cred : List Byte) (s : State), Arrives m s → m.typ = 1 → helloStatus m s = 0 → freeSession s = some i →
    getCred s m.role = some cred →
    ∃ t x, exec (.leashHello m) s = .next t ∧ getSession t i = some x ∧ x.role = m.role ∧ x.opened = false ∧ x.since = s.now ∧ x.id ≠ 0 ∧
      findSession s x.id = none ∧ (x.prk, x.keyUp, x.keyDown) = sessionKeys cred m.payload (newNonce s) x.id m.role ∧
      Sends [.leash (leashOut s 1 0 m.role x.id 0 (newNonce s ++ deviceBytes 5 4))] s t ∧ t.free = s.free + 3 ∧
      (∀ j, j ≠ i → getSession t j = getSession s j) ∧ Frame [.free, .leash] s t) ∧
  (∀ (m : LeashMsg) (s : State), Arrives m s → m.typ = 1 → helloStatus m s ≠ 0 →
    ∃ t, exec (.leashHello m) s = .next t ∧ Sends [.leash (leashOut s 1 (helloStatus m s) m.role 0 0 [])] s t ∧ Frame [] s t) ∧
  (∀ (m : LeashMsg) (i : Nat) (x : Session) (s : State), Arrives m s → findSession s m.sessionId = some (i, x) → x.opened = false →
    tagValid x.keyUp m = true → m.typ = 2 → m.version = 1 → m.status = 0 → m.seq = 0 → m.length = 0 → m.reserved = 0 → m.role = x.role →
    ∃ t r, exec (.leashProve m) s = .next t ∧
      r = leashSigned x.keyDown (leashOut s 2 0 x.role x.id 0 (beBytes 2 (odUse s (odKey 0x2002 3)) ++ beBytes 2 1024)) ∧
      getSession t i = some { x with opened := true, lastSeq := 0, cached := some r, since := s.now } ∧
      tabGet (fun _ => 0) t.leash.fails x.role = 0 ∧ Sends [.leash r] s t ∧
      (∀ j, j ≠ i → getSession t j = getSession s j) ∧ Frame [.leash] s t) ∧
  (∀ (m : LeashMsg) (i n : Nat) (x : Session) (s : State), Arrives m s → findSession s m.sessionId = some (i, x) → x.opened = false →
    tagValid x.keyUp m = false → m.typ = 2 → tabGet (fun _ => 0) s.leash.fails x.role = n →
    ∃ t, exec (.leashProve m) s = .next t ∧ getSession t i = none ∧ odGet t (odKey 0x2002 7) = satAdd (odGet s (odKey 0x2002 7)) 1 0xFFFFFFFF ∧
      Sends [.leash (leashOut s 2 0x03 x.role x.id m.seq [])] s t ∧
      (n < 4 → tabGet (fun _ => 0) t.leash.fails x.role = n + 1 ∧ t.leash.lockout = s.leash.lockout) ∧
      (4 ≤ n → tabGet (fun _ => 0) t.leash.fails x.role = 0 ∧ tabGet (fun _ => none) t.leash.lockout x.role = some (s.now + ms 60000)) ∧
      (∀ j, j ≠ i → getSession t j = getSession s j) ∧ OdOnly [odKey 0x2002 7] s t ∧ Frame [.od, .leash] s t) ∧
  (∀ (m : LeashMsg) (i : Nat) (x : Session) (s : State), NextRequest m i x s → m.typ = 0x16 →
    ∃ t, exec (.leashClose m) s = .next t ∧ getSession t i = none ∧ (∀ j, j ≠ i → getSession t j = getSession s j) ∧
      Sends [.leash (answerOf m x 0 [] s)] s t ∧ Frame [.leash] s t) ∧
  (∀ (m : LeashMsg) (i : Nat) (x : Session) (s : State), NextRequest m i x s → m.typ = 0x17 →
    ∃ t, exec (.leashNop m) s = .next t ∧ Answered m i x (answerOf m x 0 [] s) x.seg s t ∧
      Sends [.leash (answerOf m x 0 [] s)] s t ∧ Frame [.leash] s t)

/-- What does not open, or ends by time. A message of no session is discarded and counted; a repeat of the last SEQ is answered again and
executed no more; a request out of order is discarded and counted. A half-open session ends after 2 s, an idle one after its timeout, a
lockout at its end. -/
def Obligations.RequestsInOrderAndTimeouts : Prop :=
  (∀ (m : LeashMsg) (s : State), Arrives m s → m.typ ≠ 1 → findSession s m.sessionId = none →
    ∃ t, exec (.leashRead m) s = .next t ∧ odGet t (odKey 0x2002 5) = satAdd (odGet s (odKey 0x2002 5)) 1 0xFFFFFFFF ∧
      t.out = s.out ∧ OdOnly [odKey 0x2002 5] s t ∧ Frame [.od] s t) ∧
  (∀ (m r : LeashMsg) (i : Nat) (x : Session) (s : State), Arrives m s → m.typ ≠ 1 → findSession s m.sessionId = some (i, x) →
    tagValid x.keyUp m = true → x.opened = true → m.seq = x.lastSeq → x.cached = some r →
    ∃ t, exec (.leashWrite m) s = .next t ∧ Sends [.leash r] s t ∧ getSession t i = some { x with since := s.now } ∧
      (∀ j, j ≠ i → getSession t j = getSession s j) ∧ Frame [.leash] s t) ∧
  (∀ (m : LeashMsg) (i : Nat) (x : Session) (s : State), Arrives m s → m.typ ≠ 1 → findSession s m.sessionId = some (i, x) →
    tagValid x.keyUp m = true → x.opened = true → m.seq ≠ x.lastSeq → m.seq ≠ x.lastSeq + 1 →
    ∃ t, exec (.leashWrite m) s = .next t ∧ odGet t (odKey 0x2002 6) = satAdd (odGet s (odKey 0x2002 6)) 1 0xFFFFFFFF ∧ t.out = s.out ∧
      getSession t i = some { x with since := s.now } ∧ (∀ j, j ≠ i → getSession t j = getSession s j) ∧
      OdOnly [odKey 0x2002 6] s t ∧ Frame [.od, .leash] s t) ∧
  (∀ (slot : Fin 4) (x : Session) (s : State), getSession s slot.val = some x → x.opened = false →
    ∃ t, exec (.proveTimeout slot) s = .next t ∧ TimeAt (x.since + ms 2000) s t ∧ getSession t slot.val = none ∧
      (∀ j, j ≠ slot.val → getSession t j = getSession s j) ∧ t.out = s.out ∧ Frame [.leash, .now, .gtime] s t) ∧
  (∀ (slot : Fin 4) (x : Session) (s : State), getSession s slot.val = some x → x.opened = true →
    ∃ t, exec (.idleTimeout slot) s = .next t ∧ TimeAt (x.since + ms (1000 * odUse s (odKey 0x2002 3))) s t ∧ getSession t slot.val = none ∧
      (∀ w, s.leash.segW = some w → t.leash.segW = if w.1 = slot.val then none else some w) ∧
      (∀ j, j ≠ slot.val → getSession t j = getSession s j) ∧ t.out = s.out ∧ Frame [.leash, .now, .gtime] s t) ∧
  (∀ (role : Fin 4) (e : Nat) (s : State), tabGet (fun _ => none) s.leash.lockout (role.val + 1) = some e →
    ∃ t, exec (.lockoutExpiry role) s = .next t ∧ TimeAt e s t ∧ roleLocked t (role.val + 1) = false ∧
      t.leash.sessions = s.leash.sessions ∧ t.out = s.out ∧ Frame [.leash, .now, .gtime] s t)

/-- A read answers the entry, numbers most significant byte first; a write gives the entry its value, and nothing else changes; a request
that a check refuses is answered with the check's status and changes nothing but the session. -/
def Obligations.LeashReadsAndWrites : Prop :=
  (∀ (m : LeashMsg) (i : Nat) (x : Session) (r : OdRow) (value : List Byte) (s : State), NextRequest m i x s → m.typ = 0x10 →
    odRow (reqKey m) = some r → odReadCheck (requestState m i x s) (reqKey m) x.role false = none →
    (∀ n, odBytes r.typ = some n → value = beBytes n (odLive (requestState m i x s) (reqKey m))) →
    (odBytes r.typ = none → value = odBlobLive (requestState m i x s) (reqKey m)) →
    ∃ t, exec (.leashRead m) s = .next t ∧ Answered m i x (answerOf m x 0 (m.payload.take 4 ++ value) s) x.seg s t ∧
      t.net = (if reqKey m / 256 = 0x2F00 then { s.net with dropSent := false } else s.net) ∧ Frame [.leash, .net] s t) ∧
  (∀ (m : LeashMsg) (i st : Nat) (x : Session) (s : State), NextRequest m i x s → m.typ = 0x10 →
    odReadCheck (requestState m i x s) (reqKey m) x.role false = some st →
    ∃ t, exec (.leashRead m) s = .next t ∧ Answered m i x (answerOf m x st [] s) x.seg s t ∧ Frame [.leash] s t) ∧
  (∀ (m : LeashMsg) (i k v : Nat) (x : Session) (s : State), Accepted m i x k v s →
    k ∈ [odKey 0x1017 0, odKey 0x2002 3, odKey 0x2100 2, odKey 0x2100 3, odKey 0x2100 4, odKey 0x2200 0x0C, odKey 0x2900 4] →
    ∃ t, exec (.leashWrite m) s = .next t ∧ AnsweredDone m i x s t ∧ odGet t k = v ∧ OdOnly [k] s t ∧ Frame [.od, .leash] s t) ∧
  (∀ (m : LeashMsg) (i v : Nat) (x : Session) (s : State), Accepted m i x (odKey 0x2100 1) v s →
    ∃ t, exec (.leashWrite m) s = .next t ∧ AnsweredDone m i x s t ∧ odGet t (odKey 0x2100 1) = v ∧
      odGet t (odKey 0x2100 3) = (if v = 12 then 9000 else 18000) ∧ odGet t (odKey 0x2100 4) = (if v = 12 then 6000 else 12000) ∧
      OdOnly [odKey 0x2100 1, odKey 0x2100 3, odKey 0x2100 4] s t ∧ Frame [.od, .leash] s t) ∧
  (∀ (m : LeashMsg) (i st : Nat) (x : Session) (s : State), NextRequest m i x s → m.typ = 0x11 → s.dev ≠ .failed →
    odWriteCheck (requestState m i x s) (reqKey m) x.role (reqValue x m).length false = some st → st ≠ 0 →
    ∃ t, exec (.leashWrite m) s = .next t ∧ Answered m i x (answerOf m x st [] s) x.seg s t ∧ Frame [.leash] s t)

/-- Segmented transfers. A read begins with the size and the change counter, then each SEG_READ answers the next 1,024 bytes at most, and
the last ends the transfer; another offset is SEGMENT_ORDER and ends it. The device's one write begins, each segment but the last is kept,
and the last writes the entry. -/
def Obligations.SegmentedTransfers : Prop :=
  (∀ (m : LeashMsg) (i : Nat) (x : Session) (b : List Byte) (s : State), NextRequest m i x s → m.typ = 0x12 →
    odReadCheck (requestState m i x s) (reqKey m) x.role true = none → segmentable (reqKey m) = true → odComputed (reqKey m) = false →
    reqKey m ≠ odKey 0x2301 1 → reqKey m ≠ odKey 0x2301 2 → odBlobLive (requestState m i x s) (reqKey m) = b →
    ∃ t, exec (.leashSegReadInit m) s = .next t ∧
      Answered m i x (answerOf m x 0 (beBytes 4 b.length ++ beBytes 4 (tabGet (fun _ => 0) s.odChange (reqKey m))) s)
        (some { key := reqKey m, total := b.length, counter := tabGet (fun _ => 0) s.odChange (reqKey m), data := [], done := 0 }) s t ∧
      Frame [.leash] s t) ∧
  (∀ (m : LeashMsg) (i : Nat) (x : Session) (g : Seg) (b : List Byte) (s : State), NextRequest m i x s → m.typ = 0x13 → x.seg = some g →
    beAt m.payload 0 4 = g.done → odComputed g.key = false → g.key ≠ odKey 0x2301 1 → g.key ≠ odKey 0x2301 2 →
    tabGet (fun _ => 0) s.odChange g.key = g.counter → odBlobLive (requestState m i x s) g.key = b →
    ∃ t, exec (.leashSegRead m) s = .next t ∧
      Answered m i x (answerOf m x 0 (beBytes 4 g.done ++ beBytes 4 g.counter ++ slice b g.done 1024) s)
        (if g.total ≤ g.done + (slice b g.done 1024).length then none else some { g with done := g.done + (slice b g.done 1024).length }) s t ∧
      Frame [.leash] s t) ∧
  (∀ (m : LeashMsg) (i : Nat) (x : Session) (g : Seg) (s : State), NextRequest m i x s → m.typ = 0x13 → x.seg = some g →
    beAt m.payload 0 4 ≠ g.done →
    ∃ t, exec (.leashSegRead m) s = .next t ∧ Answered m i x (answerOf m x 0x86 [] s) none s t ∧ Frame [.leash] s t) ∧
  (∀ (m : LeashMsg) (i : Nat) (x : Session) (s : State), NextRequest m i x s → m.typ = 0x14 →
    odWriteCheck (requestState m i x s) (reqKey m) x.role (beAt m.payload 4 4) true = none → segmentable (reqKey m) = true →
    s.leash.segW = none → odBusy (requestState m i x s) (reqKey m) 0 = false →
    ∃ t, exec (.leashSegWriteInit m) s = .next t ∧ Answered m i x (answerOf m x 0 [] s) x.seg s t ∧
      t.leash.segW = some (i, { key := reqKey m, total := beAt m.payload 4 4, counter := 0, data := [], done := 0 }) ∧ Frame [.leash] s t) ∧
  (∀ (m : LeashMsg) (i : Nat) (x : Session) (g : Seg) (s : State), NextRequest m i x s → m.typ = 0x15 → s.leash.segW = some (i, g) →
    beAt m.payload 0 4 = g.done → (m.payload.drop 4).length = min 1024 (g.total - g.done) → g.done + (m.payload.drop 4).length < g.total →
    ∃ t, exec (.leashSegWrite m) s = .next t ∧ Answered m i x (answerOf m x 0 (beBytes 4 g.done) s) x.seg s t ∧
      t.leash.segW = some (i, { g with data := g.data ++ m.payload.drop 4, done := g.done + (m.payload.drop 4).length }) ∧
      Frame [.leash] s t) ∧
  (∀ (m : LeashMsg) (i : Nat) (x : Session) (g : Seg) (b : List Byte) (r : OdRow) (s u : State), NextRequest m i x s → m.typ = 0x15 →
    s.leash.segW = some (i, g) → beAt m.payload 0 4 = g.done → (m.payload.drop 4).length = min 1024 (g.total - g.done) →
    g.total ≤ g.done + (m.payload.drop 4).length → g.data ++ m.payload.drop 4 = b →
    u = { requestState m i x s with leash := { (requestState m i x s).leash with segW := none } } →
    g.key ∈ [odKey 0x2900 1, odKey 0x2900 2, odKey 0x2F10 1, odKey 0x2F10 3] → odRow g.key = some r →
    odWriteCheck u g.key x.role b.length true = none → odBusy u g.key 0 = false → odInRange u g.key r 0 b = true →
    ∃ t, exec (.leashSegWrite m) s = .next t ∧ Answered m i x (answerOf m x 0 (beBytes 4 g.done) s) x.seg s t ∧ t.leash.segW = none ∧
      blobGet t g.key = b ∧ (∀ k, k ≠ g.key → blobGet t k = blobGet s k) ∧
      (blobGet s g.key ≠ b → tabGet (fun _ => 0) t.odChange g.key = (tabGet (fun _ => 0) s.odChange g.key + 1) % 2 ^ 32) ∧
      Frame [.odBlob, .odChange, .leash] s t)

/-- Store, restore, error history, secrets, fuses. A store captures the live values of the stored entries at once and is answered at its end,
which makes the older copy valid with the next sequence number; a failed one is reported. A restore only marks the parameter area; a clear
empties the error history. A credential that the trusted world commits takes the place of the role's, 32 zero bytes disable the role, and
every session of the role closes; what it does not commit changes nothing. A pendant key restarts the slot's counter and bitmap. Fuses are
burned, and the values loaded at the last cold start stay in use. -/
def Obligations.ParametersSecretsAndFusesAreKept : Prop :=
  (∀ (m : LeashMsg) (i v : Nat) (x : Session) (s : State), Accepted m i x (odKey 0x1010 1) v s →
    ∃ t, exec (.storeAllParameters m) s = .next t ∧
      t.leash.store = some { msg := m, vals := s.od.filter (fun p => odStored p.1), blobs := s.odBlob.filter (fun p => odStored p.1),
                             copy := olderCopy s.params } ∧
      t.params = (if olderCopy s.params = 0 then { s.params with copy0 := { s.params.copy0 with valid := false } }
                  else { s.params with copy1 := { s.params.copy1 with valid := false } }) ∧
      getSession t i = some { x with since := s.now, lastSeq := m.seq, cached := none } ∧ t.out = s.out ∧ Frame [.leash, .params] s t) ∧
  (∀ (r : StoreRun) (i : Nat) (x : Session) (s : State), s.leash.store = some r → r.copy < 2 → findSession s r.msg.sessionId = some (i, x) →
    ∃ t, exec (.storeDone true) s = .next t ∧ t.leash.store = none ∧ t.params.mark = false ∧
      (if r.copy = 0 then t.params.copy0 else t.params.copy1) = { valid := true, seq := nextStore s.params, vals := r.vals, blobs := r.blobs } ∧
      (if r.copy = 0 then t.params.copy1 else t.params.copy0) = (if r.copy = 0 then s.params.copy1 else s.params.copy0) ∧
      odGet t (odKey 0x2004 2) = 0 ∧ Sends [.leash (answerOf r.msg x 0 (r.msg.payload.take 4) s)] s t ∧
      OdOnly [odKey 0x2004 2] s t ∧ Frame [.od, .leash, .params] s t) ∧
  (∀ (r : StoreRun) (i : Nat) (x : Session) (s : State), s.leash.store = some r → findSession s r.msg.sessionId = some (i, x) →
    ∃ t, exec (.storeDone false) s = .next t ∧ t.leash.store = none ∧ odGet t (odKey 0x2004 2) = 0x89 ∧
      Sends [.leash (answerOf r.msg x 0x89 [] s)] s t ∧ OdOnly [odKey 0x2004 2] s t ∧ Frame [.od, .leash] s t) ∧
  (∀ (m : LeashMsg) (i v : Nat) (x : Session) (s : State), Accepted m i x (odKey 0x1011 1) v s →
    ∃ t, exec (.restoreDefaultParameters m) s = .next t ∧ AnsweredDone m i x s t ∧ t.params = { s.params with mark := true } ∧
      Frame [.leash, .params] s t) ∧
  (∀ (m : LeashMsg) (i v : Nat) (x : Session) (s : State), Accepted m i x (odKey 0x1003 0) v s →
    ∃ t, exec (.errorHistoryClear m) s = .next t ∧ AnsweredDone m i x s t ∧ (∀ n, n ≤ 8 → odGet t (odKey 0x1003 n) = 0) ∧
      OdOnly ((List.range 9).map (odKey 0x1003)) s t ∧ Frame [.od, .leash] s t) ∧
  (∀ (m : LeashMsg) (i r : Nat) (x : Session) (b : List Byte) (s : State), 1 ≤ r → r ≤ 4 → AcceptedBytes m i x (odKey 0x3401 r) b s →
    ∃ t, exec (.credentialWrite m true) s = .next t ∧ getCred t r = (if b = zeros 32 then none else some b) ∧
      (∀ q, q ≠ r → getCred t q = getCred s q) ∧ Sends [.leash (answerOf m x 0 (m.payload.take 4) s)] s t ∧
      (∀ j y, j < 4 → getSession s j = some y → y.role = r → getSession t j = none) ∧
      (∀ j y, j ≠ i → getSession s j = some y → y.role ≠ r → getSession t j = some y) ∧ Frame [.leash] s t) ∧
  (∀ (m : LeashMsg) (i r : Nat) (x : Session) (b : List Byte) (s : State), 1 ≤ r → r ≤ 4 → AcceptedBytes m i x (odKey 0x3401 r) b s →
    ∃ t, exec (.credentialWrite m false) s = .next t ∧ Answered m i x (answerOf m x 0x0F [] s) x.seg s t ∧
      t.leash.creds = s.leash.creds ∧ Frame [.leash] s t) ∧
  (∀ (m : LeashMsg) (i n : Nat) (x : Session) (b : List Byte) (s : State), n < 8 → AcceptedBytes m i x (pendantOd n 3) b s →
    ∃ t, exec (.pendantKeyWrite m true) s = .next t ∧ AnsweredDone m i x s t ∧
      getPendant t n = { getPendant s n with key := some b, h := odGet s (pendantOd n 5), seen := 0 } ∧
      (∀ j, j ≠ n → getPendant t j = getPendant s j) ∧ Frame [.leash, .wh] s t) ∧
  (∀ (m : LeashMsg) (i n v : Nat) (x : Session) (s : State), n < 8 → Accepted m i x (pendantOd n 1) v s →
    ∃ t, exec (.pendantSlotEnable m) s = .next t ∧ AnsweredDone m i x s t ∧ odGet t (pendantOd n 1) = v ∧
      OdOnly [pendantOd n 1] s t ∧ Frame [.od, .leash] s t) ∧
  (∀ (m : LeashMsg) (i v : Nat) (x : Session) (s : State), Accepted m i x (odKey 0x3400 5) v s →
    ∃ t, exec (.lifecycleAdvance m) s = .next t ∧ AnsweredDone m i x s t ∧ s.fuses.lifecycle = 1 ∧
      t.fuses = { s.fuses with lifecycle := 2 } ∧ Frame [.leash, .fuses] s t) ∧
  (∀ (m : LeashMsg) (i v : Nat) (x : Session) (s : State), Accepted m i x (odKey 0x3400 6) v s →
    ∃ t, exec (.rollbackRaise m) s = .next t ∧ AnsweredDone m i x s t ∧ s.fuses.rollback < v ∧
      t.fuses = { s.fuses with rollback := v } ∧ Frame [.leash, .fuses] s t) ∧
  (∀ (m : LeashMsg) (i v : Nat) (x : Session) (s : State), Accepted m i x (odKey 0x3400 7) v s →
    ∃ t, exec (.splitMaskProgram m) s = .next t ∧ AnsweredDone m i x s t ∧
      t.fuses = { s.fuses with splitMask := s.fuses.splitMask ||| v } ∧ Frame [.leash, .fuses] s t)

/-- Tables and requests. The Roster, rule, gate and poll tables take the bytes written; a Roster selection waits for a frame boundary; a
gate list takes over at its base time or at the next boundary of its cycle; a controller that is bus-off starts to recover; a new knot
assignment clears the counter and revokes the waits on it; a restart request ends in RESTART, and is only counted in FAILED. -/
def Obligations.TablesAndRequestsAreTaken : Prop :=
  (∀ (m : LeashMsg) (i k : Nat) (x : Session) (b : List Byte) (s : State), k = odKey 0x2900 1 ∨ k = odKey 0x2900 2 → AcceptedBytes m i x k b s →
    ∃ t, exec (.rosterTableWrite m) s = .next t ∧ AnsweredDone m i x s t ∧ blobGet t k = b ∧ (∀ j, j ≠ k → blobGet t j = blobGet s j) ∧
      Frame [.odBlob, .odChange, .leash] s t) ∧
  (∀ (m : LeashMsg) (i v : Nat) (x : Session) (s : State), Accepted m i x (odKey 0x2900 3) v s →
    ∃ t, exec (.rosterSelect m) s = .next t ∧ AnsweredDone m i x s t ∧ odGet t (odKey 0x2900 3) = v ∧
      t.pack = { s.pack with switch := if isUp s = false ∨ v = s.pack.table then none else some v } ∧
      OdOnly [odKey 0x2900 3] s t ∧ Frame [.od, .pack, .leash] s t) ∧
  (∀ (m : LeashMsg) (i p : Nat) (x : Session) (b : List Byte) (s : State), p < 10 → blocksOn s = true → b ≠ [] →
    AcceptedBytes m i x (odKey (0x2E01 + p) 3) b s →
    ∃ t, exec (.gateControlListWrite m) s = .next t ∧ AnsweredDone m i x s t ∧ blobGet t (odKey (0x2E01 + p) 3) = b ∧
      tabGet (fun _ => []) t.net.gates p = gateNow s p ∧
      tabGet (fun _ => none) t.net.change p = some
        { list := b, time := if s.gtime ≤ gateBase b then gateBase b
                             else gateBase b + ((s.gtime - gateBase b) / gateCycle b + 1) * gateCycle b } ∧
      Frame [.odBlob, .odChange, .net, .leash] s t) ∧
  (∀ (m : LeashMsg) (i : Nat) (x : Session) (b : List Byte) (s : State), AcceptedBytes m i x (odKey 0x2F10 1) b s →
    ∃ t, exec (.ruleTableWrite m) s = .next t ∧ AnsweredDone m i x s t ∧ blobGet t (odKey 0x2F10 1) = b ∧
      (∀ j, j ≠ odKey 0x2F10 1 → blobGet t j = blobGet s j) ∧ Frame [.odBlob, .odChange, .leash] s t) ∧
  (∀ (m : LeashMsg) (i : Nat) (x : Session) (b : List Byte) (s : State), AcceptedBytes m i x (odKey 0x3200 7) b s →
    ∃ t, exec (.pollListWrite m) s = .next t ∧ AnsweredDone m i x s t ∧ blobGet t (odKey 0x3200 7) = b ∧
      t.splice = { s.splice with polls := [] } ∧ Frame [.odBlob, .odChange, .splice, .leash] s t) ∧
  (∀ (m : LeashMsg) (i c v : Nat) (x : Session) (s : State), c < 12 → blocksOn s = true → Accepted m i x (canKey c 8) v s →
    (getCan s c).state = 3 →
    ∃ t, exec (.canRecover m) s = .next t ∧ AnsweredDone m i x s t ∧ getCan t c = { getCan s c with state := 4 } ∧
      odGet t (canKey c 9) = 4 ∧ OdOnly [canKey c 9] s t ∧ Frame [.od, .can, .leash] s t) ∧
  (∀ (m : LeashMsg) (i n k v : Nat) (x : Session) (s : State), n < 4096 → k = odKey (0x3520 + n / 128) (n % 128 + 1) → Accepted m i x k v s →
    odGet s k ≠ v → s.pack.queues = [] → s.gfx.queues = [] →
    ∃ t, exec (.knotAssign m) s = .next t ∧ AnsweredDone m i x s t ∧ odGet t k = v ∧ knotValue t n = 0 ∧
      (∀ j, j ≠ n → knotValue t j = knotValue s j) ∧
      (∀ safety w, (getSlot safety s w).armed = true → (getSlot safety s w).knot = n →
        (getSlot safety t w).armed = false ∧ (getSlot safety t w).status = 4) ∧
      OdOnly [k] s t ∧ Frame [.regs, .od, .leash, .knots, .slots, .safeSlots] s t) ∧
  (∀ (m : LeashMsg) (i v : Nat) (x : Session) (s : State), isUp s = true → Accepted m i x (odKey 0x2500 1) v s →
    ∃ t, exec (.restartRequest m) s = .next t ∧ t.now = s.now ∧ RestartEntered 7 (decide (v = 1)) s t ∧
      OdOnly [odKey 0x2000 2, odKey 0x2100 8] s t ∧ RegsOnly (msgRegs 1811) s t ∧
      Frame [.dev, .regs, .od, .pwr, .start, .sdg, .frz, .leash, .splice] s t) ∧
  (∀ (m : LeashMsg) (i : Nat) (x : Session) (s : State), NextRequest m i x s → m.typ = 0x11 → reqKey m = odKey 0x2500 1 → s.dev = .failed →
    x.role = 3 ∨ x.role = 4 →
    ∃ t, exec (.restartRequest m) s = .next t ∧ Answered m i x (answerOf m x 0x0F [] s) x.seg s t ∧
      odGet t (odKey 0x2500 9) = satAdd (odGet s (odKey 0x2500 9)) 1 0xFFFFFFFF ∧
      OdOnly [odKey 0x2500 9] s t ∧ Frame [.od, .leash] s t)

/-- The CANopen FD node. An upload of a CAN-visible entry is answered with its value, least significant byte first, any other request is
aborted and counted; NMT commands are only counted; the heartbeat and the enabled PDOs join the node's bus at their times. -/
def Obligations.CanopenNodeAnswersAndSends : Prop :=
  (∀ (index sub : Nat) (r : OdRow) (s : State), nodeOn s = true → odRow (odKey index (sub % 256)) = some r → r.can = true → r.acc ≠ .wo →
    ∃ t, exec (.usdoUpload index sub) s = .next t ∧
      Sends [.usdo (odKey index (sub % 256)) (some (odValue s (odKey index (sub % 256)) r false))] s t ∧
      t.net = (if odKey index (sub % 256) / 256 = 0x2F00 then { s.net with dropSent := false } else s.net) ∧ Frame [.net] s t) ∧
  (∀ (index sub : Nat) (s : State), nodeOn s = true →
    (∀ r, odRow (odKey index (sub % 256)) = some r → r.can = false ∨ r.acc = .wo) →
    ∃ t, exec (.usdoUpload index sub) s = .next t ∧ Sends [.usdo (odKey index (sub % 256)) none] s t ∧
      odGet t (odKey 0x2003 4) = satAdd (odGet s (odKey 0x2003 4)) 1 0xFFFFFFFF ∧ OdOnly [odKey 0x2003 4] s t ∧ Frame [.od] s t) ∧
  (∀ (index sub : Nat) (s : State), nodeOn s = true →
    ∃ t, exec (.usdoDownload index sub) s = .next t ∧ Sends [.usdo (odKey index (sub % 256)) none] s t ∧
      odGet t (odKey 0x2003 4) = satAdd (odGet s (odKey 0x2003 4)) 1 0xFFFFFFFF ∧ OdOnly [odKey 0x2003 4] s t ∧ Frame [.od] s t) ∧
  (∀ (command node : Nat) (s : State), nodeOn s = true →
    ∃ t, exec (.nmtCommand command node) s = .next t ∧ t.out = s.out ∧
      odGet t (odKey 0x2003 3) = satAdd (odGet s (odKey 0x2003 3)) 1 0xFFFFFFFF ∧ OdOnly [odKey 0x2003 3] s t ∧ Frame [.od] s t) ∧
  (∀ (c : Nat) (s : State), nodeOn s = true → c = odUse s (odKey 0x2003 1) → odGet s (odKey 0x1017 0) ≠ 0 → (getCan s c).gw.length < 64 →
    ∃ t, exec .heartbeatProducer s = .next t ∧ TimeAt (s.canopen.lastBeat + ms (odGet s (odKey 0x1017 0))) s t ∧
      t.canopen = { s.canopen with lastBeat := t.now } ∧
      getCan t c = { getCan s c with gw := (getCan s c).gw ++ [{ frame := nodeBeat s (if s.dev = .safeHold then 4 else 5) }] } ∧
      (∀ d, d ≠ c → getCan t d = getCan s d) ∧ t.out = s.out ∧ Frame [.now, .gtime, .canopen, .can] s t) ∧
  (∀ (n : Fin 16) (c cob : Nat) (s u : State), nodeOn s = true → c = odUse s (odKey 0x2003 1) → cob = odGet s (pdoKey n.val 1) →
    bit cob 31 = false → (getCan s c).gw.length < 64 →
    u = advanceTo (tabGet (fun _ => 0) s.canopen.lastPdo n.val + ms (odGet s (pdoKey n.val 2))) s →
    ∃ t, exec (.tpdoEventTimer n) s = .next t ∧ t.now = u.now ∧ tabGet (fun _ => 0) t.canopen.lastPdo n.val = t.now ∧
      getCan t c = { getCan s c with gw := (getCan s c).gw ++ [{ frame :=
        { ident := if bit cob 29 then cob % 2 ^ 29 else cob % 2 ^ 11, ide := bit cob 29, fdf := true,
          brs := decide (odGet s (pdoKey n.val 3) = 1), esi := false, rtr := false, data := pdoData u n.val } }] } ∧
      (∀ d, d ≠ c → getCan t d = getCan s d) ∧ t.out = s.out ∧ Frame [.now, .gtime, .canopen, .can] s t)

/-! ### Memory (chapter 06) -/

/-- Reads of coded memory. Sound granules and words answer what was written. One wrong symbol of a granule, or one bit of a word, is
corrected: the same bytes, one count, and a write-back due. A poisoned granule, or two wrong bits of a word, answer an error, and raise the
alarm. -/
def Obligations.CodedMemoryIsRead : Prop :=
  (∀ (acc : Access) (len : Nat) (s : State), MemoryLet acc false len .dram s → 0 < len →
    (∀ g, acc.addr < granAddr g + 64 → granAddr g < acc.addr + len →
      tabGet (fun _ => false) s.memCtl.poison g = false ∧ ∀ d k, d < 10 → k < 8 → symErr s g d k = 0) →
    ∃ t, exec (.dramRead acc len [] none) s = .next t ∧ Sends [.readData acc.req acc.addr (memBytes s acc.addr len)] s t ∧ Frame [] s t) ∧
  (∀ (acc : Access) (len : Nat) (u : DramUpset) (s : State), MemoryLet acc false len .dram s → 0 < len →
    granAddr u.gran ≤ acc.addr → acc.addr + len ≤ granAddr u.gran + 64 → u.die < 10 → u.byte < 8 → u.xor ≠ 0 →
    tabGet (fun _ => false) s.memCtl.poison u.gran = false → (∀ d k, d < 10 → k < 8 → symErr s u.gran d k = 0) →
    markOf s (strandOf s u.gran) = 0xFF → (tabGet (fun _ => []) s.memCtl.corr (strandOf s u.gran * 16 + u.die)).length < 15 →
    ∃ t, exec (.dramRead acc len [u] none) s = .next t ∧ t.out.head? = some (.readData acc.req acc.addr (memBytes s acc.addr len)) ∧
      regRaw t (0x10400030 + 4 * strandOf s u.gran) = satAdd (regRaw s (0x10400030 + 4 * strandOf s u.gran)) 1 0xFFFFFFFF % 2 ^ 64 ∧
      odGet t (odKey 0x2400 9) = satAdd (odGet s (odKey 0x2400 9)) 1 (2 ^ 64 - 1) ∧ u.gran ∈ t.memCtl.scrubDue ∧
      t.memCtl.marked = s.memCtl.marked ∧ OdOnly [odKey 0x2400 9] s t ∧ Frame [.regs, .od, .memCtl] s t) ∧
  (∀ (acc : Access) (len g : Nat) (s : State), MemoryLet acc false len .dram s → 0 < len → granAddr g ≤ acc.addr →
    acc.addr + len ≤ granAddr g + 64 → tabGet (fun _ => false) s.memCtl.poison g = true → (∀ d k, d < 10 → k < 8 → symErr s g d k = 0) →
    s.sdg.clkStopped = false →
    ∃ t, exec (.dramRead acc len [] none) s = .next t ∧ t.out.head? = some (.errorResp acc.req acc.addr 9) ∧
      AlarmTaken (if inSafetyRegion s g then 0x30 else 0x34) s t ∧ regRaw t 0x10400048 = granAddr g % 2 ^ 64 ∧
      regRaw t 0x10400040 = satAdd (regRaw s 0x10400040) 1 0xFFFFFFFF % 2 ^ 64 ∧
      odGet t (odKey 0x2400 0x0A) = satAdd (odGet s (odKey 0x2400 0x0A)) 1 0xFFFFFFFF ∧
      OdOnly (odKey 0x2400 0x0A :: alarmKeys) s t ∧ Frame alarmParts s t) ∧
  (∀ (acc : Access) (len : Nat) (s : State), MemoryLet acc false len .sram s → 0 < len → s.memCtl.sramErr = [] →
    ∃ t, exec (.sramRead acc len []) s = .next t ∧ Sends [.readData acc.req acc.addr (memBytes s acc.addr len)] s t ∧ Frame [] s t) ∧
  (∀ (acc : Access) (len : Nat) (u : SramUpset) (s : State), MemoryLet acc false len .sram s → 0 < len → s.memCtl.sramErr = [] →
    0x1000000 + 8 * u.word ≤ acc.addr → acc.addr + len ≤ 0x1000000 + 8 * u.word + 8 → u.bit < 72 →
    ∃ t, exec (.sramRead acc len [u]) s = .next t ∧ t.out.head? = some (.readData acc.req acc.addr (memBytes s acc.addr len)) ∧
      regRaw t 0x10400064 = satAdd (regRaw s 0x10400064) 1 0xFFFFFFFF % 2 ^ 64 ∧ u.word ∈ t.memCtl.sramDue ∧
      Frame [.regs, .memCtl] s t) ∧
  (∀ (acc : Access) (len : Nat) (u v : SramUpset) (s : State), MemoryLet acc false len .sram s → 0 < len → s.memCtl.sramErr = [] →
    0x1000000 + 8 * u.word ≤ acc.addr → acc.addr + len ≤ 0x1000000 + 8 * u.word + 8 → u.bit < 72 → v.bit < 72 → v.word = u.word →
    v.bit ≠ u.bit → s.sdg.clkStopped = false →
    ∃ t, exec (.sramRead acc len [u, v]) s = .next t ∧ t.out.head? = some (.errorResp acc.req acc.addr 9) ∧ AlarmTaken 0x31 s t ∧
      regRaw t 0x10400048 = (0x1000000 + 8 * u.word) % 2 ^ 64 ∧
      OdOnly (odKey 0x2400 0x0A :: alarmKeys) s t ∧ Frame (.memCtl :: alarmParts) s t)

/-- Writes of coded memory, and the scrub. A write of whole code words stores its bytes and leaves no error or poison in them; one of other
bytes changes nothing, and is answered with an error, or dropped, counted and latched when it is posted. A due write-back is done once. The
patrol goes on granule by granule in time, and starts its next pass at the period. -/
def Obligations.CodedMemoryIsWrittenAndScrubbed : Prop :=
  (∀ (acc : Access) (l : List Byte) (s : State), MemoryLet acc true l.length .dram s → acc.addr % 64 = 0 → l.length % 64 = 0 → l ≠ [] →
    ∃ t, exec (.codedWrite acc false (l.map some)) s = .next t ∧ Sends [.writeOk acc.req acc.addr] s t ∧
      (∀ i, ∀ h : i < l.length, memByte t (acc.addr + i) = l[i]) ∧
      (∀ a, a < acc.addr ∨ acc.addr + l.length ≤ a → memByte t a = memByte s a) ∧
      (∀ g, acc.addr ≤ granAddr g → granAddr g < acc.addr + l.length →
        tabGet (fun _ => false) t.memCtl.poison g = false ∧ ∀ d k, d < 10 → k < 8 → symErr t g d k = 0) ∧
      Frame [.mem, .memCtl, .sec] s t) ∧
  (∀ (acc : Access) (bytes : List (Option Byte)) (s : State), MemoryLet acc true bytes.length .dram s →
    acc.addr % 64 ≠ 0 ∨ bytes.length % 64 ≠ 0 ∨ none ∈ bytes →
    ∃ t, exec (.codedWrite acc false bytes) s = .next t ∧ Sends [.errorResp acc.req acc.addr 2] s t ∧ Frame [] s t) ∧
  (∀ (acc : Access) (bytes : List (Option Byte)) (s : State), MemoryLet acc true bytes.length .dram s →
    acc.addr % 64 ≠ 0 ∨ bytes.length % 64 ≠ 0 ∨ none ∈ bytes →
    ∃ t, exec (.codedWrite acc true bytes) s = .next t ∧ t.out = s.out ∧
      odGet t (odKey 0x2400 0x0B) = satAdd (odGet s (odKey 0x2400 0x0B)) 1 0xFFFFFFFF ∧
      (odGet s (odKey 0x2400 0x0B) = 0 → odGet t (odKey 0x2400 0x0C) = acc.addr) ∧
      (bit (regRaw s 0x10400054) 31 = false → regRaw t 0x10400058 = acc.addr % 2 ^ 64) ∧
      OdOnly [odKey 0x2400 0x0B, odKey 0x2400 0x0C] s t ∧ RegsOnly [0x10400050, 0x10400054, 0x10400058] s t ∧ Frame [.regs, .od] s t) ∧
  (∀ (g : Nat) (s : State), blocksOn s = true → g ∈ s.memCtl.scrubDue →
    ∃ t, exec (.demandScrub (granAddr g)) s = .next t ∧ g ∉ t.memCtl.scrubDue ∧ (∀ d k, d < 10 → k < 8 → symErr t g d k = 0) ∧
      (∀ h d k, h ≠ g → d < 10 → k < 8 → symErr t h d k = symErr s h d k) ∧ t.out = s.out ∧ Frame [.memCtl] s t) ∧
  (∀ (w : Nat) (s : State), blocksOn s = true → w ∈ s.memCtl.sramDue → w < 2 ^ 23 →
    ∃ t, exec (.demandScrub (0x1000000 + 8 * w)) s = .next t ∧ w ∉ t.memCtl.sramDue ∧ tabGet (fun _ => 0) t.memCtl.sramErr w = 0 ∧
      t.out = s.out ∧ Frame [.memCtl] s t) ∧
  (∀ s : State, patrolRuns s = true → s.memCtl.patrolPos + 1 < 2 ^ 28 → s.memCtl.dramErr = [] → s.memCtl.poison = [] →
    s.memCtl.sramErr = [] →
    ∃ t, exec (.patrolScrub [] [] 0) s = .next t ∧
      TimeAt (s.memCtl.passAt + (s.memCtl.patrolPos + 1) * patrolPeriod s / 2 ^ 28) s t ∧
      t.memCtl = { s.memCtl with patrolPos := s.memCtl.patrolPos + 1 } ∧ t.out = s.out ∧ Frame [.now, .gtime, .memCtl] s t) ∧
  (∀ s : State, patrolRuns s = true → s.memCtl.patrolPos + 1 = 2 ^ 28 → s.memCtl.dramErr = [] → s.memCtl.poison = [] →
    s.memCtl.sramErr = [] →
    ∃ t, exec (.patrolScrub [] [] 0) s = .next t ∧ TimeAt (s.memCtl.passAt + patrolPeriod s) s t ∧
      t.memCtl = { s.memCtl with patrolPos := 0, passDone := true } ∧
      odGet t (odKey 0x2400 0x0D) = satAdd (odGet s (odKey 0x2400 0x0D)) 1 0xFFFF ∧ t.out = s.out ∧ OdOnly [odKey 0x2400 0x0D] s t ∧
      Frame [.now, .gtime, .od, .memCtl] s t) ∧
  (∀ s : State, isUp s = true → s.memCtl.patrolOn = true → s.memCtl.passDone = true →
    ∃ t, exec .patrolPassStart s = .next t ∧ TimeAt (s.memCtl.passAt + patrolPeriod s) s t ∧
      t.memCtl = { s.memCtl with passDone := false, passAt := t.now } ∧ t.out = s.out ∧ Frame [.now, .gtime, .memCtl] s t)

/-! ### Redundant execution on the safety cluster (chapter 07) -/

/-- The safety cluster's pairs. A mismatch stops the pair and raises its alarm, or restarts the pair at its restart entry when its reaction
says so and it has not restarted within the last second; during a start it fails the start. A release starts a core at its entry. A
hand-over resets both cores in the new mode; it ends with DONE once every unit has confirmed, or with its units held in reset at the
deadline. -/
def Obligations.LockstepPairsReactAndHandOver : Prop :=
  (∀ (pair : Fin 4) (s : State), isUp s = true → s.sdg.clkStopped = false → joined s pair.val = true →
    bit s.lock.running (2 * pair.val) = true → bit s.lock.stopped pair.val = false →
    odUse s (odKey 0x3501 (4 + pair.val)) ≠ 2 ∨ restartedLately s pair.val = true →
    ∃ t, exec (.lockstepMismatch pair) s = .next t ∧ AlarmTaken (0x10 + pair.val) s t ∧
      t.lock = { s.lock with stopped := s.lock.stopped ||| 2 ^ pair.val } ∧
      OdOnly alarmKeys s t ∧ RegsOnly alarmRegs s t ∧ Frame (.lock :: alarmParts) s t) ∧
  (∀ (pair : Fin 4) (s : State), isUp s = true → joined s pair.val = true → bit s.lock.running (2 * pair.val) = true →
    bit s.lock.stopped pair.val = false → odUse s (odKey 0x3501 (4 + pair.val)) = 2 → restartedLately s pair.val = false →
    ∃ t, exec (.lockstepMismatch pair) s = .next t ∧ Sends [.release (16 + 2 * pair.val) (odUse s (odKey 0x3501 (8 + pair.val)))] s t ∧
      restartedLately t pair.val = true ∧ t.dev = s.dev ∧
      regRaw t (0x10000230 + 4 * pair.val) = satAdd (regRaw s (0x10000230 + 4 * pair.val)) 1 0xFFFFFFFF % 2 ^ 64 ∧
      odGet t (odKey 0x3501 (0x14 + pair.val)) = satAdd (odGet s (odKey 0x3501 (0x14 + pair.val))) 1 0xFFFF ∧
      RegsOnly [0x10000230 + 4 * pair.val] s t ∧ OdOnly [odKey 0x3501 (0x14 + pair.val)] s t ∧ Frame [.regs, .od, .lock] s t) ∧
  (∀ (pair : Fin 4) (s : State), isStarting s = true → joined s pair.val = true → bit s.lock.running (2 * pair.val) = true →
    bit s.lock.stopped pair.val = false →
    ∃ t, exec (.lockstepMismatch pair) s = .next t ∧ odGet t (odKey 0x2500 0x0E) = 15 ∧ (t.dev = .restart ∨ t.dev = .failed) ∧
      t.lock = s.lock) ∧
  (∀ (acc : Access) (value : Word) (c : Nat) (s : State), Reaches acc 0x10000210 s → setBits 8 (carried acc value) = [c] →
    releasable s c = true →
    ∃ t, exec (.coreRelease acc value) s = .next t ∧ WriteTaken acc 0x10000210 s t ∧
      Sends [.writeOk acc.req 0x10000210, .release (16 + c) (releaseEntry s c)] s t ∧
      t.lock.running = s.lock.running ||| (if joined s (c / 2) then 3 * 2 ^ (c / 2 * 2) else 2 ^ c) ∧
      regRaw t 0x10000210 = (regRaw s 0x10000210 ||| 2 ^ c) % 2 ^ 64 ∧
      RegsOnly [0x10000210, countReg 0x10000210] s t ∧ Frame [.regs, .lock] s t) ∧
  (∀ (acc : Access) (pair : Fin 4) (s : State), Reaches acc 0x10000204 s → handoverCheck s acc.req pair.val true = none →
    ∃ t, exec (.handoverSplit acc pair none) s = .next t ∧ WriteTaken acc 0x10000204 s t ∧ bit t.lock.split pair.val = true ∧
      Sends [.writeOk acc.req 0x10000204, .release (17 + 2 * pair.val) (releaseEntry s (2 * pair.val + 1)),
             .release (16 + 2 * pair.val) (releaseEntry s (2 * pair.val)), .holdReset (17 + 2 * pair.val), .holdReset (16 + 2 * pair.val)] s t ∧
      bit t.lock.running (2 * pair.val) = true ∧ bit t.lock.running (2 * pair.val + 1) = true ∧
      t.lock.handover = some { pair := pair.val, split := true, step := 6, req := acc.req, deadline := s.now + ms 10 } ∧
      (∀ q, q ≠ pair.val → bit t.lock.split q = bit s.lock.split q) ∧
      RegsOnly [countReg 0x10000204] s t ∧ Frame [.regs, .lock] s t) ∧
  (∀ (acc : Access) (pair : Fin 4) (s : State), Reaches acc 0x10000204 s → handoverCheck s acc.req pair.val false = none →
    ∃ t, exec (.handoverRejoin acc pair none) s = .next t ∧ WriteTaken acc 0x10000204 s t ∧ bit t.lock.split pair.val = false ∧
      Sends [.writeOk acc.req 0x10000204, .release (16 + 2 * pair.val) (releaseEntry s (2 * pair.val)),
             .holdReset (17 + 2 * pair.val), .holdReset (16 + 2 * pair.val)] s t ∧
      t.lock.handover = some { pair := pair.val, split := false, step := 6, req := acc.req, deadline := s.now + ms 10 } ∧
      (∀ q, q ≠ pair.val → bit t.lock.split q = bit s.lock.split q) ∧
      RegsOnly [countReg 0x10000204] s t ∧ Frame [.regs, .lock] s t) ∧
  (∀ (acc : Access) (pair : Fin 4) (mismatch : Option Bool) (r : Nat) (s : State), Reaches acc 0x10000204 s →
    handoverCheck s acc.req pair.val true = some r →
    ∃ t, exec (.handoverSplit acc pair mismatch) s = .next t ∧ t.lock = { s.lock with result := r } ∧
      t.out.head? = some (.writeOk acc.req 0x10000204) ∧ Frame [.regs, .lock] s t) ∧
  (∀ (acc : Access) (value : Word) (h : Handover) (s : State), Reaches acc 0x1000020C s → carried acc value % 2 = 1 →
    s.lock.handover = some h → safetyCore acc.req / 2 = h.pair →
    h.confirmed ||| 2 ^ (if h.split then safetyCore acc.req % 2 else 0) = (if h.split then 3 else 1) →
    ∃ t, exec (.handoverConfirm acc value) s = .next t ∧ t.out.head? = some (.writeOk acc.req 0x1000020C) ∧
      t.lock = { s.lock with handover := none, result := 0 } ∧
      odGet t (odKey 0x3501 0x18) = satAdd (odGet s (odKey 0x3501 0x18)) 1 0xFFFF ∧ OdOnly [odKey 0x3501 0x18] s t ∧
      Frame [.regs, .od, .lock] s t) ∧
  (∀ (h : Handover) (s : State), blocksOn s = true → s.lock.handover = some h →
    ∃ t, exec .handoverConfirmTimeout s = .next t ∧ TimeAt h.deadline s t ∧
      t.lock = { s.lock with handover := none, result := 6, held := s.lock.held ||| 2 ^ h.pair,
                             running := clearMask s.lock.running (3 * 2 ^ (2 * h.pair)) } ∧
      Frame [.now, .gtime, .regs, .lock] s t)

/-! ### Pack queues (chapter 08) -/

/-- The registers of a Pack queue. A doorbell that moves TAIL forward within the ring is taken and sets the queue going, any other sets
DB_ERR; an allowed QCFG enables the queue with its rings empty, and while it is enabled only a disabling of an idle or stopped queue is
taken, all else sets CFG_ERR; a base or CQ_HEAD is stored. -/
def Obligations.PackQueueRegistersAreTaken : Prop :=
  (∀ (n q : Fin 256) (acc : Access) (tail v : Nat) (s : State), Reaches acc (qReg n.val q.val 0x14) s → (getInst s n.val).state = 1 →
    carried acc (BitVec.ofNat 64 tail) % 65536 = v → qEnabled s n.val q.val = true →
    dist16 v (getQ s n.val q.val).sqHead ≤ sqSize s n.val q.val →
    dist16 (getQ s n.val q.val).tail (getQ s n.val q.val).sqHead ≤ dist16 v (getQ s n.val q.val).sqHead →
    ∃ t, exec (.packDoorbell n q acc tail) s = .next t ∧ WriteTaken acc (qReg n.val q.val 0x14) s t ∧
      getQ t n.val q.val = { getQ s n.val q.val with
        tail := v, state := if (getQ s n.val q.val).state = 1 ∧ v ≠ (getQ s n.val q.val).sqHead then 2 else (getQ s n.val q.val).state } ∧
      QueueOnly n.val q.val s t ∧ RegsOnly [instPage n.val + 8] s t ∧ Frame [.regs, .pack] s t) ∧
  (∀ (n q : Fin 256) (acc : Access) (tail v : Nat) (s : State), Reaches acc (qReg n.val q.val 0x14) s → (getInst s n.val).state = 1 →
    carried acc (BitVec.ofNat 64 tail) % 65536 = v →
    qEnabled s n.val q.val = false ∨ sqSize s n.val q.val < dist16 v (getQ s n.val q.val).sqHead ∨
      dist16 v (getQ s n.val q.val).sqHead < dist16 (getQ s n.val q.val).tail (getQ s n.val q.val).sqHead →
    ∃ t, exec (.packDoorbell n q acc tail) s = .next t ∧ WriteTaken acc (qReg n.val q.val 0x14) s t ∧
      regRaw t (qReg n.val q.val 0x28) = (regRaw s (qReg n.val q.val 0x28) ||| 2 ^ 9) % 2 ^ 64 ∧
      RegsOnly [qReg n.val q.val 0x28, instPage n.val + 8] s t ∧ Frame [.regs] s t) ∧
  (∀ (n q : Fin 256) (acc : Access) (value : Word) (r : RegRow) (s : State), acc.addr = qReg n.val q.val 0x10 →
    Reaches acc (qReg n.val q.val 0x10) s → regAt (qReg n.val q.val 0x10) = some (r, qReg n.val q.val 0x10) →
    qEnabled s n.val q.val = false → bit (carried acc value) 16 = true → qCfgOk s n.val q.val (carried acc value) = true →
    ∃ t, exec (.queueConfigWrite n q acc value) s = .next t ∧ WriteTaken acc (qReg n.val q.val 0x10) s t ∧
      getQ t n.val q.val = { state := 1, last := (getQ s n.val q.val).last, stale := (getQ s n.val q.val).stale } ∧
      regRaw t (qReg n.val q.val 0x10) = maskedWrite r (regRaw s (qReg n.val q.val 0x10)) (carried acc value) % 2 ^ 64 ∧
      regRaw t (qReg n.val q.val 0x20) = 0 ∧ QueueOnly n.val q.val s t ∧
      RegsOnly [qReg n.val q.val 0x10, qReg n.val q.val 0x20, instPage n.val + 8] s t ∧ Frame [.regs, .pack] s t) ∧
  (∀ (n q : Fin 256) (acc : Access) (value : Word) (s : State), acc.addr = qReg n.val q.val 0x10 → Reaches acc (qReg n.val q.val 0x10) s →
    qEnabled s n.val q.val = true → bit (carried acc value) 16 = false → (getQ s n.val q.val).state = 1 ∨ (getQ s n.val q.val).state = 4 →
    ∃ t, exec (.queueConfigWrite n q acc value) s = .next t ∧ WriteTaken acc (qReg n.val q.val 0x10) s t ∧
      getQ t n.val q.val = { last := (getQ s n.val q.val).last, stale := (getQ s n.val q.val).stale } ∧ qEnabled t n.val q.val = false ∧
      QueueOnly n.val q.val s t ∧ RegsOnly [qReg n.val q.val 0x10, instPage n.val + 8] s t ∧ Frame [.regs, .pack] s t) ∧
  (∀ (n q : Fin 256) (acc : Access) (value : Word) (s : State), acc.addr = qReg n.val q.val 0 ∨ acc.addr = qReg n.val q.val 8 →
    Reaches acc acc.addr s → qEnabled s n.val q.val = true →
    ∃ t, exec (.queueConfigWrite n q acc value) s = .next t ∧ WriteTaken acc acc.addr s t ∧
      regRaw t (qReg n.val q.val 0x28) = (regRaw s (qReg n.val q.val 0x28) ||| 2 ^ 10) % 2 ^ 64 ∧
      RegsOnly [qReg n.val q.val 0x28, instPage n.val + 8] s t ∧ Frame [.regs] s t) ∧
  (∀ (n q : Fin 256) (acc : Access) (value : Word) (r : RegRow) (s : State), acc.addr = qReg n.val q.val 0 ∨ acc.addr = qReg n.val q.val 8 →
    Reaches acc acc.addr s → regAt acc.addr = some (r, acc.addr) → qEnabled s n.val q.val = false →
    ∃ t, exec (.queueConfigWrite n q acc value) s = .next t ∧ WriteTaken acc acc.addr s t ∧
      regRaw t acc.addr = maskedWrite r (regRaw s acc.addr) (carried acc value) % 2 ^ 64 ∧
      RegsOnly [acc.addr, instPage n.val + 8] s t ∧ Frame [.regs] s t) ∧
  (∀ (n q : Fin 256) (acc : Access) (head : Nat) (r : RegRow) (s : State), Reaches acc (qReg n.val q.val 0x20) s →
    regAt (qReg n.val q.val 0x20) = some (r, qReg n.val q.val 0x20) →
    ∃ t, exec (.cqHeadWrite n q acc head) s = .next t ∧ WriteTaken acc (qReg n.val q.val 0x20) s t ∧
      regRaw t (qReg n.val q.val 0x20) = maskedWrite r (regRaw s (qReg n.val q.val 0x20)) (carried acc (BitVec.ofNat 64 head)) % 2 ^ 64 ∧
      RegsOnly [qReg n.val q.val 0x20, instPage n.val + 8] s t ∧ Frame [.regs] s t)

/-- STOP, START, FLUSH and the fetch. STOP leaves the queue STOPPED, the running command reported with its resume token; START sets it going
again; FLUSH of an idle or stopped queue decides every undecided command with FLUSHED and leaves the queue idle, and is refused otherwise. A
fetch takes the next descriptor with its submission index and the status of its checks, and skips a stale one. -/
def Obligations.PackQueuesAreControlledAndFetched : Prop :=
  (∀ (n q : Fin 256) (acc : Access) (s : State), Reaches acc (qReg n.val q.val 0x24) s → (getInst s n.val).state = 1 →
    (getQ s n.val q.val).state ≠ 0 → (∀ c ∈ (getQ s n.val q.val).cmds, cmdRunning c = false) →
    ∃ t, exec (.queueStop n q acc) s = .next t ∧ WriteTaken acc (qReg n.val q.val 0x24) s t ∧
      getQ t n.val q.val = { getQ s n.val q.val with state := 4 } ∧ QueueOnly n.val q.val s t ∧
      RegsOnly [instPage n.val + 8] s t ∧ Frame [.regs, .pack, .kennel] s t) ∧
  (∀ (n q : Fin 256) (acc : Access) (c : Cmd) (l : List Cmd) (s : State), Reaches acc (qReg n.val q.val 0x24) s →
    (getInst s n.val).state = 1 → (getQ s n.val q.val).state = 2 → (getQ s n.val q.val).cmds = c :: l → cmdRunning c = true → c.run = [] →
    ∃ t e, exec (.queueStop n q acc) s = .next t ∧ WriteTaken acc (qReg n.val q.val 0x24) s t ∧
      (getQ t n.val q.val).state = 4 ∧ (getQ t n.val q.val).cmds.head? = some e ∧ e.report = some c.done ∧ e.started = false ∧
      e.desc = c.desc ∧ e.index = c.index ∧ odGet t (odKey 0x2800 4) = satAdd (odGet s (odKey 0x2800 4)) 1 (odCap (odKey 0x2800 4)) ∧
      regRaw t 0x11000038 = satAdd (regRaw s 0x11000038) 1 0xFFFFFFFF % 2 ^ 64 ∧ QueueOnly n.val q.val s t ∧
      OdOnly [odKey 0x2800 4] s t ∧ RegsOnly [0x11000038, instPage n.val + 8] s t ∧ Frame [.regs, .od, .pack, .kennel] s t) ∧
  (∀ (n q : Fin 256) (acc : Access) (s : State), Reaches acc (qReg n.val q.val 0x24) s → (getInst s n.val).state = 1 →
    (getQ s n.val q.val).state = 4 →
    ∃ t, exec (.queueStart n q acc) s = .next t ∧ WriteTaken acc (qReg n.val q.val 0x24) s t ∧
      getQ t n.val q.val = { getQ s n.val q.val with
        state := if (getQ s n.val q.val).cmds = [] ∧ (getQ s n.val q.val).tail = (getQ s n.val q.val).sqHead then 1 else 2 } ∧
      QueueOnly n.val q.val s t ∧ RegsOnly [instPage n.val + 8] s t ∧ Frame [.regs, .pack, .kennel] s t) ∧
  (∀ (n q : Fin 256) (acc : Access) (s : State), Reaches acc (qReg n.val q.val 0x24) s → (getInst s n.val).state = 1 →
    (getQ s n.val q.val).state = 1 ∨ (getQ s n.val q.val).state = 4 → (getQ s n.val q.val).tail = (getQ s n.val q.val).sqHead →
    (∀ c ∈ (getQ s n.val q.val).cmds, c.silent = false) →
    ∃ t, exec (.queueFlush n q acc) s = .next t ∧ WriteTaken acc (qReg n.val q.val 0x24) s t ∧
      getQ t n.val q.val = { getQ s n.val q.val with
        state := 1, since := [], rpTile := 0, retries := 0, cmds := (getQ s n.val q.val).cmds.map (fun c =>
          if c.status = none ∨ c.begun = false then { c with status := some 0x0B, report := none } else c) } ∧
      QueueOnly n.val q.val s t ∧ RegsOnly [instPage n.val + 8] s t ∧ Frame [.regs, .pack, .kennel] s t) ∧
  (∀ (n q : Fin 256) (acc : Access) (s : State), Reaches acc (qReg n.val q.val 0x24) s → (getInst s n.val).state = 1 →
    (getQ s n.val q.val).state ≠ 1 → (getQ s n.val q.val).state ≠ 4 →
    ∃ t, exec (.queueFlush n q acc) s = .next t ∧ WriteTaken acc (qReg n.val q.val 0x24) s t ∧
      regRaw t (qReg n.val q.val 0x28) = (regRaw s (qReg n.val q.val 0x28) ||| 2 ^ 10) % 2 ^ 64 ∧
      RegsOnly [qReg n.val q.val 0x28, instPage n.val + 8] s t ∧ Frame [.regs, .kennel] s t) ∧
  (∀ (n q : Fin 256) (d : List Byte) (s : State), mayFetch n.val q.val s = true → odGet s (instKey n.val 0x22) = 0 →
    readRange (regRaw s (qReg n.val q.val 0) + (getQ s n.val q.val).sqHead % sqSize s n.val q.val * 64) 64 s = (s, some d) →
    submitCheck s n.val d ≠ some 5 →
    ∃ t, exec (.descriptorFetch n q) s = .next t ∧
      getQ t n.val q.val = { getQ s n.val q.val with
        sqHead := ((getQ s n.val q.val).sqHead + 1) % 65536,
        state := if (getQ s n.val q.val).state = 1 then 2 else (getQ s n.val q.val).state,
        cmds := (getQ s n.val q.val).cmds ++ [
          { index := (getQ s n.val q.val).sqHead, desc := d, gen := (getInst s n.val).gen, status := submitCheck s n.val d,
            gstart := if (submitCheck s n.val d).isSome then gnow s else 0 }] } ∧
      t.out = s.out ∧ QueueOnly n.val q.val s t ∧ Frame [.pack] s t) ∧
  (∀ (n q : Fin 256) (d : List Byte) (s : State), mayFetch n.val q.val s = true → odGet s (instKey n.val 0x22) = 0 →
    readRange (regRaw s (qReg n.val q.val 0) + (getQ s n.val q.val).sqHead % sqSize s n.val q.val * 64) 64 s = (s, some d) →
    submitCheck s n.val d = some 5 →
    ∃ t, exec (.descriptorFetch n q) s = .next t ∧ (getQ t n.val q.val).cmds = (getQ s n.val q.val).cmds ∧
      (getQ t n.val q.val).sqHead = ((getQ s n.val q.val).sqHead + 1) % 65536 ∧
      (getQ t n.val q.val).stale = satAdd (getQ s n.val q.val).stale 1 0xFFFFFFFF ∧ t.out = s.out ∧ QueueOnly n.val q.val s t ∧
      Frame [.pack] s t)

/-- The control commands of a queue. NOP, FENCE and CHECKPOINT end with DONE, CHECKPOINT with the restart point moved to itself; a
KNOT_WAIT ends at once when its threshold is reached, or with TIMEOUT when it may not wait, and waits otherwise; a KNOT_SIGNAL raises the
counter; a knot that is not open to the instance ends either with ACCESS_DENIED. -/
def Obligations.PackControlCommandsRun : Prop :=
  (∀ (n q : Fin 256) (k : Nat) (c : Cmd) (s : State), MayBegin n.val q.val k c s → dOp c.desc = 1 →
    ∃ t, exec (.nop n q) s = .next t ∧ Ended n.val q.val k c 0 t ∧ t.out = s.out ∧ QueueOnly n.val q.val s t ∧ Frame [.pack] s t) ∧
  (∀ (n q : Fin 256) (k : Nat) (c : Cmd) (s : State), MayBegin n.val q.val k c s → dOp c.desc = 2 →
    bit (leAt c.desc 8 1) 0 = false ∨ k = 0 →
    ∃ t, exec (.fence n q) s = .next t ∧ Ended n.val q.val k c 0 t ∧ t.out = s.out ∧ QueueOnly n.val q.val s t ∧ Frame [.pack] s t) ∧
  (∀ (n q : Fin 256) (k : Nat) (c : Cmd) (s : State), MayBegin n.val q.val k c s → dOp c.desc = 2 →
    bit (leAt c.desc 8 1) 0 = true → k ≠ 0 → exec (.fence n q) s = .next s) ∧
  (∀ (n q : Fin 256) (k : Nat) (c : Cmd) (s : State), MayBegin n.val q.val k c s → dOp c.desc = 3 →
    ∃ t, exec (.checkpoint n q) s = .next t ∧ Ended n.val q.val k c 0 t ∧ (getQ t n.val q.val).since = [] ∧
      (getQ t n.val q.val).rpTile = 0 ∧ (getQ t n.val q.val).retries = 0 ∧ t.out = s.out ∧ QueueOnly n.val q.val s t ∧ Frame [.pack] s t) ∧
  (∀ (n q : Fin 256) (k : Nat) (c : Cmd) (s : State), MayBegin n.val q.val k c s → dOp c.desc = 4 →
    knotWaits s (leAt c.desc 8 2) n.val = true → leAt c.desc 16 8 ≤ knotValue s (leAt c.desc 8 2) →
    ∃ t, exec (.knotWait n q) s = .next t ∧ Ended n.val q.val k c 0 t ∧ t.out = s.out ∧ QueueOnly n.val q.val s t ∧ Frame [.pack] s t) ∧
  (∀ (n q : Fin 256) (k : Nat) (c : Cmd) (s : State), MayBegin n.val q.val k c s → dOp c.desc = 4 →
    knotWaits s (leAt c.desc 8 2) n.val = true → knotValue s (leAt c.desc 8 2) < leAt c.desc 16 8 → leAt c.desc 24 4 ≠ 0 →
    ∃ t e, exec (.knotWait n q) s = .next t ∧ Begun n.val q.val k c 0 s t ∧ (getQ t n.val q.val).cmds[k]? = some e ∧
      e.expires = (if leAt c.desc 24 4 = 0xFFFFFFFF then none else some (s.now + us (leAt c.desc 24 4))) ∧ t.out = s.out ∧
      QueueOnly n.val q.val s t ∧ Frame [.pack] s t) ∧
  (∀ (n q : Fin 256) (k : Nat) (c : Cmd) (s : State), MayBegin n.val q.val k c s → dOp c.desc = 4 →
    knotWaits s (leAt c.desc 8 2) n.val = true → knotValue s (leAt c.desc 8 2) < leAt c.desc 16 8 → leAt c.desc 24 4 = 0 →
    ∃ t, exec (.knotWait n q) s = .next t ∧ Ended n.val q.val k c 0x0A t ∧ t.out = s.out ∧ QueueOnly n.val q.val s t ∧
      Frame [.pack] s t) ∧
  (∀ (n q : Fin 256) (k : Nat) (c : Cmd) (s : State), MayBegin n.val q.val k c s → dOp c.desc = 5 →
    knotSignals s (leAt c.desc 8 2) n.val = true → knotValue s (leAt c.desc 8 2) < leAt c.desc 16 8 →
    ∃ t, exec (.knotSignal n q) s = .next t ∧ Ended n.val q.val k c 0 t ∧ knotValue t (leAt c.desc 8 2) = leAt c.desc 16 8 ∧
      (∀ j, j ≠ leAt c.desc 8 2 → knotValue t j = knotValue s j) ∧ QueueOnly n.val q.val s t ∧
      Frame [.regs, .knots, .pack, .slots, .safeSlots] s t) ∧
  (∀ (n q : Fin 256) (k : Nat) (c : Cmd) (s : State), MayBegin n.val q.val k c s → dOp c.desc = 5 →
    knotSignals s (leAt c.desc 8 2) n.val = false →
    ∃ t, exec (.knotSignal n q) s = .next t ∧ Ended n.val q.val k c 3 t ∧ t.out = s.out ∧ QueueOnly n.val q.val s t ∧ Frame [.pack] s t) ∧
  (∀ (n q : Fin 256) (k : Nat) (c : Cmd) (s : State), blocksOn s = true → waitingCmd (getQ s n.val q.val) = some (k, c) →
    leAt c.desc 16 8 ≤ knotValue s (leAt c.desc 8 2) → c.silent = false → c.retries = 0 → c.tiles = 0 →
    ∃ t, exec (.knotWaitRelease n q) s = .next t ∧ Ended n.val q.val k c 0 t ∧ t.out = s.out ∧ QueueOnly n.val q.val s t ∧
      Frame [.pack] s t) ∧
  (∀ (n q : Fin 256) (k e : Nat) (c : Cmd) (s : State), blocksOn s = true → waitingCmd (getQ s n.val q.val) = some (k, c) →
    c.expires = some e → c.silent = false → c.retries = 0 → c.tiles = 0 →
    ∃ t, exec (.knotWaitTimeout n q) s = .next t ∧ TimeAt e s t ∧
      Ended n.val q.val k c (if leAt c.desc 16 8 ≤ knotValue s (leAt c.desc 8 2) then 0 else 0x0A) t ∧ t.out = s.out ∧
      QueueOnly n.val q.val s t ∧ Frame [.now, .gtime, .pack] s t)

/-- The commands on the engines start. Each runs with the tiles that its descriptor gives it: those of its body, the work tiles of a CIM_RUN,
the chunks of a weight image, or those of the attention. -/
def Obligations.PackEngineCommandsStart : Prop :=
  (∀ (start : Fin 256 → Fin 256 → Instr) (op : Nat) (n q : Fin 256) (k : Nat) (c : Cmd) (s : State),
    (start, op) ∈ [(Instr.copy, 0x08), (Instr.matmul, 0x10), (Instr.conv2d, 0x11)] →
    MayBegin n.val q.val k c s → dOp c.desc = op → HasEngines n.val q.val c s → 0 < bodyTiles c.desc →
    ∃ t, exec (start n q) s = .next t ∧ Begun n.val q.val k c (bodyTiles c.desc) s t ∧ t.out = s.out ∧ QueueOnly n.val q.val s t ∧
      Frame [.pack, .kennel] s t) ∧
  (∀ (start : Fin 256 → Fin 256 → Instr) (vop : Nat) (n q : Fin 256) (k : Nat) (c : Cmd) (s : State),
    (start, vop) ∈ [(Instr.vecAdd, 0x01), (Instr.vecMul, 0x02), (Instr.vecMax, 0x03), (Instr.vecMin, 0x04), (Instr.vecAxpb, 0x05),
      (Instr.vecRelu, 0x10), (Instr.vecClamp, 0x11), (Instr.vecGelu, 0x12), (Instr.vecSigmoid, 0x13), (Instr.vecTanh, 0x14),
      (Instr.vecExp, 0x15), (Instr.vecRsqrt, 0x16), (Instr.vecSoftmax, 0x20), (Instr.vecLayernorm, 0x21), (Instr.vecRmsnorm, 0x22),
      (Instr.vecRowSum, 0x23), (Instr.vecRowMax, 0x24), (Instr.vecConvert, 0x30)] →
    MayBegin n.val q.val k c s → dOp c.desc = 0x18 → leAt c.desc 38 1 = vop → HasEngines n.val q.val c s → 0 < bodyTiles c.desc →
    ∃ t, exec (start n q) s = .next t ∧ Begun n.val q.val k c (bodyTiles c.desc) s t ∧ t.out = s.out ∧ QueueOnly n.val q.val s t ∧
      Frame [.pack, .kennel] s t) ∧
  (∀ (n q : Fin 256) (k : Nat) (l : Layer) (ct : Nat) (c : Cmd) (s : State), MayBegin n.val q.val k c s → dOp c.desc = 0x20 →
    HasEngines n.val q.val c s → (cimTilesOf (cmdEngines c.desc (pairMap s n.val (dMap c.desc)))).head? = some ct →
    cimRunCheck s c.desc (cimTilesOf (cmdEngines c.desc (pairMap s n.val (dMap c.desc)))) true = none → runLayer s c.desc ct = some l →
    0 < leAt c.desc 40 4 →
    ∃ t, exec (.cimRun n q) s = .next t ∧ Begun n.val q.val k c (ceilDiv (leAt c.desc 40 4) (workVectors l)) s t ∧ t.out = s.out ∧
      QueueOnly n.val q.val s t ∧ Frame [.pack, .kennel] s t) ∧
  (∀ (n q : Fin 256) (k : Nat) (ls : List Layer) (recs : List (Nat × Nat)) (c : Cmd) (s : State), MayBegin n.val q.val k c s →
    dOp c.desc = 0x21 → HasEngines n.val q.val c s → loadImage c.desc s = (s, .ok (ls, recs)) → recs ≠ [] →
    ∃ t, exec (.cimLoad n q) s = .next t ∧ Begun n.val q.val k c (8 * recs.length) s t ∧
      (∀ r ∈ recs, (getMacro t (leAt c.desc 20 1) r.1).ready = false ∧
        (getMacro t (leAt c.desc 20 1) r.1).claim = claimOf n.val q.val c.index) ∧
      t.out = s.out ∧ QueueOnly n.val q.val s t ∧ Frame [.pack, .cim, .kennel] s t) ∧
  (∀ (start : Fin 256 → Fin 256 → Instr) (n q : Fin 256) (k tiles detail base length : Nat) (parents : List Nat) (c : Cmd) (s u : State),
    (start = Instr.attn ∧ dOp c.desc = 0x28) ∨ (start = Instr.attnVerifyAttend ∧ dOp c.desc = 0x29 ∧ aAccept c.desc = false) ∨
      (start = Instr.attnVerifyAccept ∧ dOp c.desc = 0x29 ∧ aAccept c.desc = true) →
    MayBegin n.val q.val k c s → HasEngines n.val q.val c s →
    attnStart n.val (n.val * 256 + q.val) c.desc s = (u, .go tiles detail base length parents) → u.pack = s.pack → u.gtime = s.gtime →
    0 < tiles →
    ∃ t e, exec (start n q) s = .next t ∧ Begun n.val q.val k c tiles s t ∧ (getQ t n.val q.val).cmds[k]? = some e ∧ e.detail = detail ∧
      e.recs = [(base, length)] ∧ e.path = parents ∧ t.out = u.out ∧ QueueOnly n.val q.val s t ∧ Frame [.pack, .kennel] u t)

/-- Tiles and completions. A tile starts on its engines with what it has computed; its commit writes exactly that to memory and counts, and
the last one ends the command; a mismatch of the two copies writes nothing, and runs again from the restart point or fails with PACK_MISMATCH;
a tile that hangs is a failed unit. A completion is written to its ring, and a failure leaves the queue STOPPED. Integer sums are exact inside
INT32, and saturate on their way to INT8. -/
def Obligations.PackTilesCommitAndComplete : Prop :=
  (∀ (n q : Fin 256) (k : Nat) (a b : List Nat) (o : TileOut) (c : Cmd) (s u : State),
    dispatching (getQ s n.val q.val) = some (k, c) → qUp s n.val q.val = true → s.pack.scrub = none →
    (gated s n.val q.val = true → slotted s n.val q.val = true) → tileEngines s n.val c c.disp = some (a, b) →
    tileGate s n.val q.val c c.disp (a ++ b) = .go → odGet s (instKey n.val 0x24) = 0 → c.waitAt = none → dOp c.desc ≠ 0x21 →
    computeTile c c.disp a b { s with pack := { s.pack with fetched := 0 } } = (u, some o) → u.pack.queues = s.pack.queues →
    ∃ t, exec (.tileStart n q false) s = .next t ∧
      (getQ t n.val q.val).cmds[k]? = some { c with
        disp := c.disp + 1, waitAt := none,
        run := c.run ++ [{ index := c.disp, engines := a ++ b, at' := u.now, writes := o.writes, note := o.note, path := o.path,
                           cells := o.cells, differ := o.differ }] } ∧
      t.out = u.out ∧ Frame [.pack, .kennel] u t) ∧
  (∀ (n q : Fin 256) (k : Nat) (c : Cmd) (x : Tile) (s : State), blocksOn s = true → committing (getQ s n.val q.val) = some (k, c, x) →
    x.err = none → (dPaired c.desc = true → x.differ = false) → dOp c.desc ≠ 0x21 → c.silent = false → c.retries = 0 → c.stop = none →
    ∃ t e, exec (.tileCommit n q false []) s = .next t ∧ t.mem = x.writes.foldl (fun m w => memWrite m w.1 w.2) s.mem ∧
      (getQ t n.val q.val).cmds[k]? = some e ∧ e.done = x.index + 1 ∧ e.desc = c.desc ∧ e.index = c.index ∧
      e.status = (if c.tiles ≤ x.index + 1 then some 0 else none) ∧
      odGet t (odKey 0x2800 3) = satAdd (odGet s (odKey 0x2800 3)) 1 (odCap (odKey 0x2800 3)) ∧
      regRaw t 0x11000030 = (regRaw s 0x11000030 + 1) % 2 ^ 64 ∧ Frame [.regs, .od, .mem, .memCtl, .sec, .pack, .kennel] s t) ∧
  (∀ (n q : Fin 256) (k : Nat) (c : Cmd) (x : Tile) (s : State), blocksOn s = true → s.sdg.clkStopped = false →
    committing (getQ s n.val q.val) = some (k, c, x) → x.err = none → dPaired c.desc = true →
    dRetry c.desc = false ∨ 2 ≤ (getQ s n.val q.val).retries →
    ∃ t, exec (.tileCommit n q true []) s = .next t ∧ AlarmTaken 0x20 s t ∧ Ended n.val q.val k c 8 t ∧
      odGet t (odKey 0x2801 1) = satAdd (odGet s (odKey 0x2801 1)) 1 (odCap (odKey 0x2801 1)) ∧ Frame (.kennel :: alarmParts) s t) ∧
  (∀ (n q : Fin 256) (k : Nat) (c : Cmd) (x : Tile) (s : State), blocksOn s = true → committing (getQ s n.val q.val) = some (k, c, x) →
    x.err = none → dPaired c.desc = true → dRetry c.desc = true → (getQ s n.val q.val).retries < 2 → c.stop = none →
    ∃ t, exec (.tileCommit n q true []) s = .next t ∧ (getQ t n.val q.val).retries = (getQ s n.val q.val).retries + 1 ∧
      (getQ t n.val q.val).since = [] ∧ odGet t (odKey 0x2801 1) = satAdd (odGet s (odKey 0x2801 1)) 1 (odCap (odKey 0x2801 1)) ∧
      Frame [.regs, .od, .frz, .pack, .kennel] s t) ∧
  (∀ (n q : Fin 256) (k : Nat) (c : Cmd) (x : Tile) (s : State), blocksOn s = true → s.sdg.clkStopped = false →
    committing (getQ s n.val q.val) = some (k, c, x) →
    ∃ t, exec (.tileHang n q) s = .next t ∧ TimeAt (x.at' + 16000) s t ∧ AlarmTaken 0x14 s t ∧
      OdOnly (odKey 0x2800 5 :: alarmKeys) s t ∧ Frame (.now :: .gtime :: alarmParts) s t) ∧
  (∀ (n q : Fin 256) (c : Cmd) (l : List Cmd) (st : Nat) (s : State), qUp s n.val q.val = true → cqFull s n.val q.val = false →
    (∀ x ∈ (getInst s n.val).late, x.1 ≠ q.val) → (getQ s n.val q.val).cmds = c :: l → c.report = none → c.status = some st →
    ((getQ s n.val q.val).state = 4 → st = 0 ∨ st = 0x0B ∨ c.begun = true) → c.desc.length = 64 →
    ∃ t, exec (.completionWrite n q) s = .next t ∧
      memBytes t (regRaw s (qReg n.val q.val 8) + (getQ s n.val q.val).cqTail % cqSize s n.val q.val * 64) 64 =
        completionBytes s n.val q.val c st c.done (1 - (getQ s n.val q.val).cqTail / cqSize s n.val q.val % 2) ∧
      (getQ t n.val q.val).cqTail = ((getQ s n.val q.val).cqTail + 1) % 65536 ∧ (getQ t n.val q.val).last = st ∧
      (getQ t n.val q.val).cmds = l ∧ (st ≠ 0 → st ≠ 0x0B → (getQ t n.val q.val).state = 4) ∧
      odGet t (odKey 0x2800 2) = satAdd (odGet s (odKey 0x2800 2)) 1 (odCap (odKey 0x2800 2)) ∧ QueueOnly n.val q.val s t ∧
      OdOnly [odKey 0x2800 2] s t ∧ Frame [.regs, .od, .mem, .memCtl, .sec, .pack, .kennel] s t) ∧
  (∀ (n q : Fin 256) (c : Cmd) (l : List Cmd) (tok : Nat) (s : State), qUp s n.val q.val = true → cqFull s n.val q.val = false →
    (∀ x ∈ (getInst s n.val).late, x.1 ≠ q.val) → (getQ s n.val q.val).cmds = c :: l → c.report = some tok → c.desc.length = 64 →
    ∃ t, exec (.completionWrite n q) s = .next t ∧
      memBytes t (regRaw s (qReg n.val q.val 8) + (getQ s n.val q.val).cqTail % cqSize s n.val q.val * 64) 64 =
        completionBytes s n.val q.val c 7 tok (1 - (getQ s n.val q.val).cqTail / cqSize s n.val q.val % 2) ∧
      (getQ t n.val q.val).cqTail = ((getQ s n.val q.val).cqTail + 1) % 65536 ∧
      (getQ t n.val q.val).cmds = { c with report := none } :: l ∧ QueueOnly n.val q.val s t ∧
      Frame [.regs, .mem, .memCtl, .sec, .pack] s t) ∧
  (∀ (z : Int) (a b : List Int), -(2 ^ 31 : Int) ≤ z + (List.zipWith (· * ·) a b).sum → z + (List.zipWith (· * ·) a b).sum < 2 ^ 31 →
    dotAcc true (ofInt z) (a.map ofInt) (b.map ofInt) = .int (z + (List.zipWith (· * ·) a b).sum)) ∧
  (∀ z : Int, matOut 1 false none (.int z) = ofSigned 8 (max (-128) (min 127 z)))

/-! ### The Kennel (chapter 11) -/

/-- Sequences are managed by KSEQ_CMD. ALLOC takes the lowest free handle of the instance's range, FREE gives the pages back, TRIM raises
BASE, RESUME begins the swap-in of a swapped sequence, QUERY shows its state; the result register carries the status and the handle. -/
def Obligations.KennelSequencesAreManaged : Prop :=
  (∀ (n : Fin 256) (acc : Access) (k : Nat) (x : Seq) (s : State), Reaches acc (instPage n.val + 0x618) s → (getInst s n.val).state = 1 →
    bit (regRaw s (instPage n.val + 0x61C)) 31 = false → s.kennel.size ≠ 0 →
    x = { state := 1, inst := n.val, gen := (getInst s n.val).gen, prio := bits (regRaw s (instPage n.val + 0x610)) 11 9,
          layers := bits (regRaw s (instPage n.val + 0x610)) 31 24, heads := bits (regRaw s (instPage n.val + 0x610)) 23 16,
          dim := bits (regRaw s (instPage n.val + 0x610)) 8 0, typ := bits (regRaw s (instPage n.val + 0x610)) 15 12,
          swapAddr := regRaw s (instPage n.val + 0x600), swapBytes := regRaw s (instPage n.val + 0x608) } →
    1 ≤ x.layers → 1 ≤ x.heads → x.heads ≤ 64 → 16 ≤ x.dim → x.dim ≤ 256 → x.dim % 16 = 0 → 3 ≤ x.typ → x.typ ≤ 6 →
    entryBytes x ≤ 0x200000 → openTo s n.val true x.swapAddr x.swapBytes = true → x.swapBytes ≠ 0 → x.swapAddr % 64 = 0 →
    x.swapBytes % 64 = 0 →
    ((List.range (handleRange s n.val).2).map (· + (handleRange s n.val).1)).find? (fun h => decide ((getSeq s h).state = 0)) = some k →
    ∃ t, exec (.kseqAlloc n acc) s = .next t ∧ WriteTaken acc (instPage n.val + 0x618) s t ∧ getSeq t k = x ∧
      (∀ h, h ≠ k → getSeq t h = getSeq s h) ∧
      regRaw t (instPage n.val + 0x61C) = ((regRaw s (instPage n.val + 0x61C) &&& 0x40000000) + k) % 2 ^ 64 ∧
      RegsOnly [instPage n.val + 0x61C, instPage n.val + 8] s t ∧ Frame [.regs, .kennel] s t) ∧
  (∀ (n : Fin 256) (acc : Access) (handle : Fin 4096) (s : State), Reaches acc (instPage n.val + 0x618) s → (getInst s n.val).state = 1 →
    bit (regRaw s (instPage n.val + 0x61C)) 31 = false → ownsSeq s n.val handle.val = true → (getSeq s handle.val).state ≠ 2 →
    (getSeq s handle.val).state ≠ 4 → namedBy s handle.val = [] →
    ∃ t, exec (.kseqFree n acc handle) s = .next t ∧ WriteTaken acc (instPage n.val + 0x618) s t ∧ getSeq t handle.val = {} ∧
      (∀ h, h ≠ handle.val → getSeq t h = getSeq s h) ∧
      t.kennel.zeroing = s.kennel.zeroing ++ (getSeq s handle.val).pages.map (fun g => (g.addr, g.code)) ∧
      regRaw t (instPage n.val + 0x61C) = ((regRaw s (instPage n.val + 0x61C) &&& 0x40000000) + handle.val) % 2 ^ 64 ∧
      RegsOnly [instPage n.val + 0x61C, instPage n.val + 8] s t ∧ Frame [.regs, .kennel] s t) ∧
  (∀ (n : Fin 256) (acc : Access) (handle : Fin 4096) (s : State), Reaches acc (instPage n.val + 0x618) s → (getInst s n.val).state = 1 →
    bit (regRaw s (instPage n.val + 0x61C)) 31 = false → ownsSeq s n.val handle.val = true → (getSeq s handle.val).state ≠ 2 →
    (getSeq s handle.val).state ≠ 4 →
    ∃ t, exec (.kseqTrim n acc handle) s = .next t ∧ WriteTaken acc (instPage n.val + 0x618) s t ∧
      getSeq t handle.val = { getSeq s handle.val with
        base := min (max (getSeq s handle.val).base (regRaw s (instPage n.val + 0x614))) (getSeq s handle.val).length } ∧
      (∀ h, h ≠ handle.val → getSeq t h = getSeq s h) ∧
      regRaw t (instPage n.val + 0x61C) = ((regRaw s (instPage n.val + 0x61C) &&& 0x40000000) + handle.val) % 2 ^ 64 ∧
      RegsOnly [instPage n.val + 0x61C, instPage n.val + 8] s t ∧ Frame [.regs, .kennel] s t) ∧
  (∀ (n : Fin 256) (acc : Access) (handle : Fin 4096) (s : State), Reaches acc (instPage n.val + 0x618) s → (getInst s n.val).state = 1 →
    bit (regRaw s (instPage n.val + 0x61C)) 31 = false → ownsSeq s n.val handle.val = true → (getSeq s handle.val).state = 1 →
    ∃ t, exec (.kseqResume n acc handle) s = .next t ∧ WriteTaken acc (instPage n.val + 0x618) s t ∧
      regRaw t (instPage n.val + 0x61C) = ((regRaw s (instPage n.val + 0x61C) &&& 0x40000000) + handle.val) % 2 ^ 64 ∧
      RegsOnly [instPage n.val + 0x61C, instPage n.val + 8] s t ∧ Frame [.regs] s t) ∧
  (∀ (n : Fin 256) (acc : Access) (handle : Fin 4096) (s u w : State), Reaches acc (instPage n.val + 0x618) s → (getInst s n.val).state = 1 →
    bit (regRaw s (instPage n.val + 0x61C)) 31 = false → ownsSeq s n.val handle.val = true → (getSeq s handle.val).state = 3 →
    u = putSeq handle.val { getSeq s handle.val with state := 4 } (kseqResult n.val 0 handle.val s) →
    imageGood (getSeq s handle.val) u = (u, some true) → tryAlloc handle.val (getSeq s handle.val).length u = (w, .granted) →
    ∃ t, exec (.kseqResume n acc handle) s = .next t ∧ WriteTaken acc (instPage n.val + 0x618) s t ∧
      (getSeq t handle.val).state = 4 ∧ (getSeq t handle.val).pages = (getSeq w handle.val).pages ∧
      (∀ h, h ≠ handle.val → getSeq t h = getSeq s h) ∧
      RegsOnly [instPage n.val + 0x61C, instPage n.val + 8] s t ∧ Frame [.regs, .free, .kennel] s t) ∧
  (∀ (n : Fin 256) (acc : Access) (handle : Fin 4096) (s : State), Reaches acc (instPage n.val + 0x618) s → (getInst s n.val).state = 1 →
    bit (regRaw s (instPage n.val + 0x61C)) 31 = false → ownsSeq s n.val handle.val = true →
    ∃ t, exec (.kseqQuery n acc handle) s = .next t ∧ WriteTaken acc (instPage n.val + 0x618) s t ∧
      regRaw t (instPage n.val + 0x620) = ((getSeq s handle.val).state * 2 ^ 29 + (getSeq s handle.val).pages.length % 4096 * 65536 +
        (getSeq s handle.val).base % 65536) % 2 ^ 64 ∧
      regRaw t (instPage n.val + 0x624) = (getSeq s handle.val).length % 2 ^ 64 ∧
      regRaw t (instPage n.val + 0x61C) = ((regRaw s (instPage n.val + 0x61C) &&& 0x40000000) + handle.val) % 2 ^ 64 ∧
      RegsOnly [instPage n.val + 0x61C, instPage n.val + 0x620, instPage n.val + 0x624, instPage n.val + 8] s t ∧ Frame [.regs] s t) ∧
  (∀ (n : Fin 256) (acc : Access) (handle : Fin 4096) (s : State), Reaches acc (instPage n.val + 0x618) s → (getInst s n.val).state = 1 →
    bit (regRaw s (instPage n.val + 0x61C)) 31 = false → ownsSeq s n.val handle.val = false →
    ∃ t, exec (.kseqQuery n acc handle) s = .next t ∧ WriteTaken acc (instPage n.val + 0x618) s t ∧
      regRaw t (instPage n.val + 0x61C) = ((regRaw s (instPage n.val + 0x61C) &&& 0x40000000) + 0xA0 * 65536 + handle.val) % 2 ^ 64 ∧
      RegsOnly [instPage n.val + 0x61C, instPage n.val + 8] s t ∧ Frame [.regs] s t)

/-- Swaps and pages. A swap-out writes the descriptor and the retained entries to the image and gives the pages back; a swap-in from a good
image makes the sequence resident again; a page given back is filled with zeros; a waiting request is granted when its pages are there. -/
def Obligations.KennelSwapsAndPages : Prop :=
  (∀ (handle : Fin 4096) (es : List (List Byte)) (q : Seq) (s u : State), blocksOn s = true → lateSwap handle.val s = none →
    (∀ p ∈ s.kennel.seqs, p.2.relDue = false ∧ p.2.doomed = false) → q = getSeq s handle.val → q.state = 2 →
    readAll ((seqPositions q).map (fun p => ((entryAddr q p).getD 0, entryBytes q))) s = (u, some es) → u.kennel = s.kennel →
    ∃ t, exec (.swapOutDone handle) s = .next t ∧
      getSeq t handle.val = { q with state := 3, pages := [], image := seqDesc handle.val q } ∧
      (∀ h, h ≠ handle.val → getSeq t h = getSeq s h) ∧
      t.kennel.zeroing = s.kennel.zeroing ++ q.pages.map (fun g => (g.addr, g.code)) ∧
      odGet t (odKey 0x2B00 5) = satAdd (odGet u (odKey 0x2B00 5)) 1 (odCap (odKey 0x2B00 5)) ∧
      OdOnly [odKey 0x2B00 5, instKey q.inst 0x0A] u t ∧ Frame [.regs, .od, .mem, .memCtl, .sec, .kennel] u t) ∧
  (∀ (handle : Fin 4096) (es : List (List Byte)) (q : Seq) (s u : State), blocksOn s = true → lateSwap handle.val s = none →
    q = getSeq s handle.val → q.state = 4 → (∀ w ∈ s.kennel.waits, w.1 ≠ handle.val) → imageGood q s = (s, some true) →
    readAll ((seqPositions q).map (fun p => (q.swapAddr + 64 + (p - leAt q.image 8 4) * entryBytes q, entryBytes q))) s = (u, some es) →
    u.kennel = s.kennel →
    ∃ t, exec (.swapInDone handle) s = .next t ∧ getSeq t handle.val = { q with state := 1 } ∧
      (∀ h, h ≠ handle.val → getSeq t h = getSeq s h) ∧
      odGet t (odKey 0x2B00 6) = satAdd (odGet u (odKey 0x2B00 6)) 1 (odCap (odKey 0x2B00 6)) ∧
      OdOnly [odKey 0x2B00 6, instKey q.inst 0x0A] u t ∧ Frame [.regs, .od, .mem, .memCtl, .sec, .kennel] u t) ∧
  (∀ (page c : Nat) (s : State), s.kennel.zeroing.find? (fun z => decide (z.1 = page)) = some (page, c) →
    ∃ t, exec (.pageZeroed page) s = .next t ∧
      (∀ a, memByte t a = if page ≤ a ∧ a < page + pageSize c then 0 else memByte s a) ∧
      t.kennel = { s.kennel with zeroing := s.kennel.zeroing.filter (fun z => decide (z.1 ≠ page)) } ∧ t.out = s.out ∧
      Frame [.mem, .memCtl, .kennel] s t) ∧
  (∀ (handle : Fin 4096) (since : Nat) (s u : State), blocksOn s = true →
    s.kennel.waits.find? (fun w => decide (w.1 = handle.val)) = some (handle.val, 0, since) →
    tryAlloc handle.val (getSeq s handle.val).length s = (u, .granted) →
    ∃ t, exec (.kennelAllocGrant handle) s = .next t ∧ getSeq t handle.val = getSeq u handle.val ∧
      t.kennel.waits = s.kennel.waits.filter (fun w => decide (w.1 ≠ handle.val ∨ w.2.1 ≠ 0)) ∧
      odGet t (odKey 0x2B00 8) = min (max (odGet s (odKey 0x2B00 8)) (s.now - since)) (odCap (odKey 0x2B00 8)) ∧
      t.out = s.out ∧ OdOnly [odKey 0x2B00 8] s t ∧ Frame [.free, .od, .kennel] s t)

/-! ### CIM calibration (chapter 09) -/

/-- Calibration of the macros. A macro becomes due when its temperature has moved by the step, or else with its period; the port of a tile
that is free at a tile boundary, in an open window, takes the next due one for 24 µs; a good fit makes the macro ready again, a bad one is a
failed unit; a macro held past the limit is overdue and raises CAL_OVERDUE. -/
def Obligations.CimMacrosAreCalibrated : Prop :=
  (∀ (tile : Fin 16) (mac : Fin 64) (temp : Int) (x : Macro) (s : State), isUp s = true → x = getMacro s tile.val mac.val → x.ready = true →
    x.due = none →
    ∃ t, exec (.calDue tile mac temp) s = .next t ∧
      t.now = (if odUse s (odKey 0x2A00 2) ≤ (temp - x.calTemp).natAbs then s.now
               else max s.now (x.calAt + ms (odUse s (odKey 0x2A00 1)))) ∧
      getMacro t tile.val mac.val = { x with due := some t.now } ∧ getCt t tile.val = { getCt s tile.val with temp := temp } ∧
      (∀ j, j ≠ tile.val → getCt t j = getCt s j) ∧ t.out = s.out ∧ Frame [.cim, .now, .gtime] s t) ∧
  (∀ (tile : Fin 16) (m : Nat) (s : State), isUp s = true → (getCt s tile.val).cal = none → (getCt s tile.val).writing = none →
    ctBusy s tile.val = false → windowOpen s tile.val = true → nextDue s tile.val = some m →
    ∃ t, exec (.calibrationStart tile) s = .next t ∧ getCt t tile.val = { getCt s tile.val with cal := some (m, s.now + 24000) } ∧
      (∀ j, j ≠ tile.val → getCt t j = getCt s j) ∧ t.cim = { s.cim with tiles := t.cim.tiles } ∧ t.out = s.out ∧ Frame [.cim] s t) ∧
  (∀ (tile : Fin 16) (m e : Nat) (fit : List (Nat × Nat)) (s : State), blocksOn s = true → (getCt s tile.val).cal = some (m, e) →
    (∀ p ∈ fit, 1 ≤ p.1 ∧ p.1 ≤ 4095 ∧ p.2 ≤ 4095) →
    ∃ t, exec (.calibrationDone tile fit true) s = .next t ∧ TimeAt e s t ∧ (getCt t tile.val).cal = none ∧
      getMacro t tile.val m = { getMacro s tile.val m with
        ready := true, due := none, overdue := false, calAt := t.now, calTemp := (getCt s tile.val).temp, fit := fit } ∧
      (∀ j k, j * 64 + k ≠ tile.val * 64 + m → getMacro t j k = getMacro s j k) ∧
      regRaw t 0x13000200 = satAdd (regRaw s 0x13000200) 1 0xFFFFFFFF % 2 ^ 64 ∧
      odGet t (odKey 0x2A00 4) = satAdd (odGet s (odKey 0x2A00 4)) 1 (odCap (odKey 0x2A00 4)) ∧
      RegsOnly [0x13000200] s t ∧ OdOnly [odKey 0x2A00 4, odKey 0x2A00 6] s t ∧ t.out = s.out ∧
      Frame [.regs, .od, .pack, .cim, .now, .gtime] s t) ∧
  (∀ (tile : Fin 16) (m e : Nat) (fit : List (Nat × Nat)) (s : State), blocksOn s = true → s.sdg.clkStopped = false →
    (getCt s tile.val).cal = some (m, e) →
    ∃ t, exec (.calibrationDone tile fit false) s = .next t ∧ TimeAt e s t ∧ AlarmTaken 0x14 s t ∧ (getCt t tile.val).cal = none ∧
      (∀ j k, getMacro t j k = getMacro s j k) ∧ OdOnly alarmKeys s t ∧ RegsOnly alarmRegs s t ∧
      Frame (.cim :: .now :: .gtime :: alarmParts) s t) ∧
  (∀ (tile : Fin 16) (mac : Fin 64) (b : Nat) (s : State), isUp s = true → s.sdg.clkStopped = false →
    (getMacro s tile.val mac.val).due = some b → (getMacro s tile.val mac.val).overdue = false →
    (∀ c, (getCt s tile.val).cal = some c → c.1 ≠ mac.val) →
    ∃ t, exec (.calOverdue tile mac) s = .next t ∧ TimeAt (b + ms (odUse s (odKey 0x2A00 3))) s t ∧ AlarmTaken 0x91 s t ∧
      getMacro t tile.val mac.val = { getMacro s tile.val mac.val with overdue := true } ∧
      OdOnly alarmKeys s t ∧ RegsOnly alarmRegs s t ∧ Frame (.cim :: .now :: .gtime :: alarmParts) s t)

/-! ### Scheduling (chapter 10) -/

/-- The Roster and the engines. A frame begins at the latest boundary not yet begun, or else at the next one, ends what was active and is
counted; a pending table takes over there. A slot begins at its time, once in a frame, and ends at its own. A slowdown window closes with its
figure, and a figure at or above a nonzero threshold is an event. A changed kind of an engine takes effect at once, and every instance that
loses or gains the engine counts a new configuration; a changed mode, or owner of the exclusive mode, begins a Pack scrub, whose end leaves
no core, macro, sequence or page of the pool with content, and answers the write. -/
def Obligations.RosterAndEnginesAreScheduled : Prop :=
  (∀ (b : Nat) (s : State), isUp s = true → s.pack.table ≠ 0 → s.pack.switch = none → rosterTable s ≠ [] →
    b = ((gridUpTo (odGet s (odKey 0x2900 4)) (frameNs (rosterTable s)) s.gtime).filter (fun g => decide (s.pack.frameAt < g))).getD
          (gridAfter (odGet s (odKey 0x2900 4)) (frameNs (rosterTable s)) s.gtime) →
    ∃ t, exec .rosterFrameStart s = .next t ∧ t.now = s.now + (b - s.gtime) ∧ t.pack.table = s.pack.table ∧ t.pack.frameAt = b ∧
      t.pack.begun = [] ∧ t.pack.active = [] ∧ t.pack.frames = s.pack.frames + 1 ∧
      odGet t (odKey 0x2900 6) = (odGet s (odKey 0x2900 6) + 1) % 2 ^ 32 ∧ t.out = s.out ∧
      RegsOnly [0x11000038] s t ∧ OdOnly [odKey 0x2900 6, odKey 0x2900 7, odKey 0x2800 4] s t ∧
      Frame [.now, .gtime, .regs, .od, .pack] s t) ∧
  (∀ (b : Nat) (s : State), isUp s = true → s.pack.table = 0 → s.pack.switch = some b → b = 1 ∨ b = 2 → tableBank s b ≠ [] →
    ∃ t, exec .rosterFrameStart s = .next t ∧
      t.pack.frameAt = gridAfter (odGet s (odKey 0x2900 4)) (frameNs (tableBank s b)) s.gtime ∧ t.now = s.now + (t.pack.frameAt - s.gtime) ∧
      t.pack.table = b ∧ t.pack.switch = none ∧ t.pack.begun = [] ∧ odGet t (odKey 0x2900 5) = b ∧
      odGet t (odKey 0x2900 6) = (odGet s (odKey 0x2900 6) + 1) % 2 ^ 32 ∧
      OdOnly [odKey 0x2900 5, odKey 0x2900 6, odKey 0x2900 7, odKey 0x2800 4] s t ∧ Frame [.now, .gtime, .regs, .od, .pack] s t) ∧
  (∀ (i : Fin 256) (s : State), isUp s = true → s.pack.table ≠ 0 → slotEnabled (rosterTable s) i.val = true →
    s.pack.begun.contains i.val = false →
    ∃ t, exec (.slotStart i) s = .next t ∧ t.now = s.now + (slotBegin s i.val - s.gtime) ∧ t.pack.begun = s.pack.begun ++ [i.val] ∧
      t.pack.active = s.pack.active ++ [i.val] ∧
      (slotField (rosterTable s) i.val 4 1 = 0 → (getInst t (slotField (rosterTable s) i.val 5 1)).slot = i.val) ∧ t.out = s.out ∧
      RegsOnly [0x11000038] s t ∧ OdOnly [odKey 0x2800 4] s t ∧ Frame [.now, .gtime, .regs, .od, .pack] s t) ∧
  (∀ (i : Fin 256) (s : State), isUp s = true → s.pack.active.contains i.val = true →
    ∃ t, exec (.slotEnd i) s = .next t ∧ t.now = s.now + (slotFinish s i.val - s.gtime) ∧ t.pack.begun = s.pack.begun ∧
      t.pack.active = s.pack.active.filter (fun j => decide (j ≠ i.val)) ∧ t.out = s.out ∧
      RegsOnly [0x11000038] s t ∧ OdOnly [odKey 0x2900 7, odKey 0x2800 4] s t ∧ Frame [.now, .gtime, .regs, .od, .pack] s t) ∧
  (∀ (n : Fin 256) (occupied contended w v : Nat) (s : State), blocksOn s = true → (getInst s n.val).state = 1 →
    w = (if tabGet (fun _ => 0) s.pack.window n.val < s.gtime / ms 10 then s.gtime / ms 10 else s.gtime / ms 10 + 1) →
    v = (if occupied = 0 then 0 else if occupied ≤ contended then 255 else min 255 (16 * occupied / (occupied - contended))) →
    ∃ t, exec (.slowdownWindow n occupied contended) s = .next t ∧ t.now = s.now + (w * ms 10 - s.gtime) ∧
      tabGet (fun _ => 0) t.pack.window n.val = w ∧ regRaw t (instPage n.val + 0x500) = (w - 1) % 65536 * 65536 + v ∧
      (bits (regRaw s (instPage n.val + 0x504)) 7 0 = 0 ∨ v < bits (regRaw s (instPage n.val + 0x504)) 7 0 →
        t.out = s.out ∧ RegsOnly [instPage n.val + 0x500] s t) ∧
      (bits (regRaw s (instPage n.val + 0x504)) 7 0 ≠ 0 → bits (regRaw s (instPage n.val + 0x504)) 7 0 ≤ v →
        bit (regRaw t (instPage n.val + 0x28)) 1 = true) ∧
      RegsOnly ([instPage n.val + 0x500, instPage n.val + 0x28] ++ msgRegs (1024 + n.val)) s t ∧ Frame [.now, .gtime, .regs, .pack] s t) ∧
  (∀ (m : LeashMsg) (i k v e : Nat) (x : Session) (s : State), engineOfKey k = some e → Accepted m i x k v s →
    ∃ t, exec (.engineKindWrite m) s = .next t ∧ AnsweredDone m i x s t ∧ odGet t k = v ∧
      (odGet s k = v → t.pack = s.pack ∧ OdOnly [] s t ∧ Frame [.od, .leash] s t) ∧
      (odGet s k ≠ v → s.pack.queues = [] → ∀ n : Fin 256,
        (getInst t n.val).cfgGen = if assignedTo s n.val e = assignedTo t n.val e then (getInst s n.val).cfgGen
                                   else ((getInst s n.val).cfgGen + 1) % 65536) ∧
      Frame (.mem :: .memCtl :: .sec :: .cim :: .kennel :: .leash :: alarmParts) s t) ∧
  (∀ (m : LeashMsg) (i k v : Nat) (x : Session) (s : State), k = odKey 0x2805 1 ∨ k = odKey 0x2805 2 → Accepted m i x k v s → odGet s k ≠ v →
    (k = odKey 0x2805 2 → odGet s (odKey 0x2805 1) = 1) →
    ∃ t, exec (.packModeWrite m) s = .next t ∧ odGet t k = v ∧ t.pack.scrub = some s.now ∧ t.leash.scrubReply = some m ∧
      getSession t i = some { x with since := s.now, lastSeq := m.seq, cached := none } ∧
      ((∀ p ∈ s.pack.queues, ∀ c ∈ p.2.cmds, c.run = []) → ∀ p ∈ t.pack.queues, ∀ c ∈ p.2.cmds, cmdRunning c = false) ∧
      Frame (.mem :: .memCtl :: .sec :: .cim :: .kennel :: .leash :: alarmParts) s t) ∧
  (∀ (m : LeashMsg) (i k v : Nat) (x : Session) (s : State), k = odKey 0x2805 1 ∨ k = odKey 0x2805 2 → Accepted m i x k v s →
    odGet s k = v ∨ (k = odKey 0x2805 2 ∧ odGet s (odKey 0x2805 1) ≠ 1) →
    ∃ t, exec (.packModeWrite m) s = .next t ∧ AnsweredDone m i x s t ∧ odGet t k = v ∧ OdOnly [k] s t ∧ Frame [.od, .leash] s t) ∧
  (∀ (us' b : Nat) (s : State), s.pack.scrub = some b →
    ∃ t, exec (.packScrubDone us') s = .next t ∧ TimeAt (b + us us') s t ∧ t.pack = { s.pack with scrub := none } ∧
      (∀ c, c < 16 → (getCt t c).layers = [] ∧ ∀ k, k < 64 → getMacro t c k = {}) ∧ t.cim.cells = [] ∧
      t.kennel = { s.kennel with seqs := [], zeroing := [], waits := [] } ∧
      (∀ a, memByte t a = if pageArea s ≤ a ∧ a < pageArea s + (s.kennel.size - 2) * 0x200000 then 0 else memByte s a) ∧
      odGet t (odKey 0x2805 3) = min (max (odGet s (odKey 0x2805 3)) us') (odCap (odKey 0x2805 3)) ∧
      (s.leash.scrubReply = none → t.out = s.out) ∧
      (∀ m i x, s.leash.scrubReply = some m → findSession s m.sessionId = some (i, x) →
        Sends [.leash (answerOf m x 0 (m.payload.take 4) s)] s t) ∧
      OdOnly [odKey 0x2805 3] s t ∧ Frame [.now, .gtime, .od, .mem, .memCtl, .leash, .pack, .cim, .kennel] s t)

/-! ### Instances (chapter 12) -/

/-- Pack instances come, are reset and go. A created one is ACTIVE with full buckets, empty queues and every register of its page but the
common header at reset; a reset or a removal ends everything of the instance and takes the next generation, or waits for it at most 100 ms
while an operation in flight still carries it, after which the Pack is a failed unit. -/
def Obligations.InstancesComeAndGo : Prop :=
  (∀ (m : LeashMsg) (i : Nat) (n : Fin 256) (x : Session) (s : State), Accepted m i x (instKey n.val 1) 1 s → blocksOn s = true →
    odGet s (instKey n.val 1) = 0 →
    ∃ t, exec (.instanceCreate m) s = .next t ∧ AnsweredDone m i x s t ∧ odGet t (instKey n.val 1) = 1 ∧
      getInst t n.val = { getInst s n.val with
        state := 1, gen := if (getInst s n.val).gen = 0 then 1 else (getInst s n.val).gen, waitBy := none, cfgDue := false,
        cfgGen := ((getInst s n.val).cfgGen + 1) % 65536, cmdTok := odGet s (instKey n.val 0x23) * 1000000, cmdAt := s.now,
        byteTok := ((odGet s (instKey n.val 0x25) * 1024000 : Nat) : Int), byteAt := s.now, slot := 0x1FF } ∧
      (∀ q, q < 256 → getQ t n.val q = {}) ∧ (∀ j q, q < 256 → j ≠ n.val → getInst t j = getInst s j ∧ getQ t j q = getQ s j q) ∧
      (∀ o, 0x20 ≤ o → o < 0x10000 → o ≠ 0x28 → regRaw t (instPage n.val + o) = (regDflt (instPage n.val + o)).toNat) ∧
      bit (regRaw t (instPage n.val + 0x28)) 0 = true ∧
      RegsOnly ((List.range 0x10000).map (instPage n.val + ·) ++ msgRegs (1024 + n.val)) s t ∧
      OdOnly [instKey n.val 1] s t ∧ Frame [.regs, .hold, .od, .pack, .leash] s t) ∧
  (∀ (n : Fin 256) (acc : Access) (s : State), Reaches acc (instPage n.val + 0x2C) s → (getInst s n.val).state = 1 →
    (getInst s n.val).late = [] → (∀ p ∈ s.pack.queues, p.1 / 256 = n.val → p.2.cmds = []) →
    (∀ p ∈ s.kennel.seqs, p.2.inst = n.val → p.2.state ≠ 2 ∧ p.2.state ≠ 4) →
    ∃ t, exec (.instanceReset n acc none) s = .next t ∧ WriteTaken acc (instPage n.val + 0x2C) s t ∧ (getInst t n.val).state = 1 ∧
      (getInst t n.val).gen = nextGen (getInst s n.val).gen ∧ (getInst t n.val).cfgGen = (getInst s n.val).cfgGen ∧
      (∀ q, q < 256 → getQ t n.val q = {}) ∧ (∀ p ∈ s.kennel.seqs, p.2.inst = n.val → getSeq t p.1 = {}) ∧
      (∀ o, 0x20 ≤ o → o < 0x10000 → o ≠ 0x28 → regRaw t (instPage n.val + o) = (regDflt (instPage n.val + o)).toNat) ∧
      bit (regRaw t (instPage n.val + 0x28)) 3 = true ∧
      odGet t (instKey n.val 9) = satAdd (odGet s (instKey n.val 9)) 1 (odCap (instKey n.val 9)) ∧
      OdOnly [instKey n.val 9] s t ∧ Frame [.regs, .hold, .od, .pack, .kennel] s t) ∧
  (∀ (n : Fin 256) (acc : Access) (m : LeashMsg) (i v : Nat) (x : Session) (s : State), Accepted m i x (instKey n.val 2) v s →
    (getInst s n.val).state = 1 ∧ ∃ t, exec (.instanceReset n acc (some m)) s = .next t ∧ AnsweredDone m i x s t ∧
      (∀ q, q < 256 → getQ t n.val q = {}) ∧ (getInst t n.val).cfgGen = (getInst s n.val).cfgGen ∧
      (((getInst t n.val).state = 1 ∧ (getInst t n.val).gen = nextGen (getInst s n.val).gen ∧ (getInst t n.val).waitBy = none) ∨
       ((getInst t n.val).state = 2 ∧ (getInst t n.val).gen = (getInst s n.val).gen ∧
        (getInst t n.val).waitBy = some (s.now + ms 100) ∧ genCollides (getInst t n.val) = true)) ∧
      Frame (.mem :: .memCtl :: .sec :: .cim :: .kennel :: .leash :: .hold :: alarmParts) s t) ∧
  (∀ (m : LeashMsg) (i : Nat) (n : Fin 256) (x : Session) (s : State), Accepted m i x (instKey n.val 1) 0 s → blocksOn s = true →
    odGet s (instKey n.val 1) = 1 → (getInst s n.val).state = 1 →
    ∃ t, exec (.instanceRemove m) s = .next t ∧ AnsweredDone m i x s t ∧ odGet t (instKey n.val 1) = 0 ∧
      (∀ q, q < 256 → getQ t n.val q = {}) ∧ (getInst t n.val).cfgGen = ((getInst s n.val).cfgGen + 1) % 65536 ∧
      (((getInst t n.val).state = 0 ∧ (getInst t n.val).gen = nextGen (getInst s n.val).gen ∧ (getInst t n.val).waitBy = none) ∨
       ((getInst t n.val).state = 3 ∧ (getInst t n.val).gen = (getInst s n.val).gen ∧
        (getInst t n.val).waitBy = some (s.now + ms 100) ∧ genCollides (getInst t n.val) = true)) ∧
      Frame (.mem :: .memCtl :: .sec :: .cim :: .kennel :: .leash :: .hold :: alarmParts) s t) ∧
  (∀ (n : Fin 256) (s : State), blocksOn s = true → (getInst s n.val).waitBy.isSome = true → genCollides (getInst s n.val) = false →
    ∃ t, exec (.generationWaitEnd n) s = .next t ∧ t.now = s.now ∧ (getInst t n.val).waitBy = none ∧
      (getInst t n.val).gen = nextGen (getInst s n.val).gen ∧
      (getInst t n.val).state = (if (getInst s n.val).state = 3 then 0 else 1) ∧ (∀ q, q < 256 → getQ t n.val q = {}) ∧
      (∀ j, j ≠ n.val → getInst t j = getInst s j) ∧
      ((getInst s n.val).state = 3 → t.out = s.out) ∧
      ((getInst s n.val).state ≠ 3 → bit (regRaw t (instPage n.val + 0x28)) 3 = true ∧
        bit (regRaw t (instPage n.val + 0x28)) 0 = (getInst s n.val).cfgDue) ∧
      RegsOnly ((List.range 0x10000).map (instPage n.val + ·) ++ msgRegs (1024 + n.val)) s t ∧ Frame [.regs, .hold, .pack] s t) ∧
  (∀ (n : Fin 256) (w : Nat) (s : State), blocksOn s = true → s.sdg.clkStopped = false → (getInst s n.val).waitBy = some w →
    genCollides (getInst s n.val) = true →
    ∃ t, exec (.generationWaitTimeout n) s = .next t ∧ TimeAt w s t ∧ AlarmTaken 0x14 s t ∧
      getInst t n.val = { getInst s n.val with waitBy := none } ∧ OdOnly alarmKeys s t ∧ RegsOnly alarmRegs s t ∧
      Frame (.now :: .gtime :: alarmParts) s t)

/-! ### Camera ingest (chapter 13) -/

/-- Camera frames. A Frame Start claims the next buffer or drops the frame; packets with a bad header, an unknown type or a bad checksum are
counted; an image line is written to its place, padded to whole granules; the first embedded line gives the counter; Frame End leaves the
frame waiting for its test lines. -/
def Obligations.CameraFramesAreTaken : Prop :=
  (∀ (rx : Fin 8) (vc : Fin 16) (i : Nat) (kept : Bool) (s : State), isUp s = true → camStream s rx.val vc.val = some i →
    camFirst s i vc.val = true → (getCam s i).frame = none →
    kept = decide (dist16 (regRaw s (camReg i 0x24)) (regRaw s (camReg i 0x28)) < bits (regRaw s (camReg i 0x18)) 5 0 ∧
      dist16 (bits (regRaw s (camReg i 0x2C)) 31 16) (bits (regRaw s (camReg i 0x2C)) 15 0) +
        b2n ((getCam s i).tail.any (fun f => f.kept)) < 2 ^ bits (regRaw s (camReg i 0x20)) 3 0) →
    ∃ t, exec (.frameStartPacket rx vc) s = .next t ∧
      getCam t i = { getCam s i with
        seq := ((getCam s i).seq + 1) % 2 ^ 32,
        frame := some { gstart := gnow s, kept := kept, buffer := (getCam s i).nextBuf, seq := ((getCam s i).seq + 1) % 2 ^ 32 },
        nextBuf := if kept then ((getCam s i).nextBuf + 1) % bits (regRaw s (camReg i 0x18)) 5 0 else (getCam s i).nextBuf } ∧
      (∀ j, j ≠ i → getCam t j = getCam s j) ∧
      regRaw t (camReg i 0x24) = (if kept then (regRaw s (camReg i 0x24) + 1) % 65536 else regRaw s (camReg i 0x24)) ∧
      odGet t (odKey 0x2D00 4) = (if kept then odGet s (odKey 0x2D00 4)
        else satAdd (odGet s (odKey 0x2D00 4)) 1 (odCap (odKey 0x2D00 4))) ∧ t.out = s.out ∧
      RegsOnly [0x15000020 + 4 * rx.val, camReg i 0x24, camReg i 0x30] s t ∧ OdOnly [odKey 0x2D00 4] s t ∧
      Frame [.regs, .od, .cams] s t) ∧
  (∀ (rx : Fin 8) (vc : Fin 16) (dt : Nat) (crcOk : Bool) (payload : List Byte) (s : State), isUp s = true →
    ∃ t, exec (.csiLongPacket rx vc dt .bad crcOk payload) s = .next t ∧
      bits (regRaw t (0x15000020 + 4 * rx.val)) 15 8 = satAdd (bits (regRaw s (0x15000020 + 4 * rx.val)) 15 8) 1 0xFF ∧ t.out = s.out ∧
      RegsOnly [0x15000020 + 4 * rx.val] s t ∧ Frame [.regs] s t) ∧
  (∀ (rx : Fin 8) (vc : Fin 16) (dt : Nat) (ecc : HeaderEcc) (crcOk : Bool) (payload : List Byte) (s : State), isUp s = true → ecc ≠ .bad →
    dataTypes.contains dt = false →
    ∃ t, exec (.csiLongPacket rx vc dt ecc crcOk payload) s = .next t ∧
      bits (regRaw t (0x15000020 + 4 * rx.val)) 31 24 = satAdd (bits (regRaw s (0x15000020 + 4 * rx.val)) 31 24) 1 0xFF ∧ t.out = s.out ∧
      RegsOnly [0x15000020 + 4 * rx.val] s t ∧ Frame [.regs, .cams] s t) ∧
  (∀ (rx : Fin 8) (vc : Fin 16) (ecc : HeaderEcc) (payload : List Byte) (i : Nat) (f : CamFrame) (s : State), isUp s = true → ecc ≠ .bad →
    camStream s rx.val vc.val = some i → camFirst s i vc.val = true → camPath s i = 0 → odGet s (camKey i 4) = 0x1E →
    payload.length = camLine s i → (getCam s i).frame = some f → f.lines < odGet s (camKey i 6) → f.kept = true →
    ∃ t, exec (.csiLongPacket rx vc 0x1E ecc true payload) s = .next t ∧
      memBytes t (regRaw s (camReg i 0) + f.buffer * regRaw s (camReg i 0x1C) + f.lines * camLs s i) (camLs s i) =
        payload ++ zeros (camLs s i - camLine s i) ∧
      (∀ a, a < regRaw s (camReg i 0) + f.buffer * regRaw s (camReg i 0x1C) + f.lines * camLs s i ∨
        regRaw s (camReg i 0) + f.buffer * regRaw s (camReg i 0x1C) + (f.lines + 1) * camLs s i ≤ a → memByte t a = memByte s a) ∧
      getCam t i = { getCam s i with frame := some { f with packets := f.packets + 1, lines := f.lines + 1 } } ∧
      (∀ j, j ≠ i → getCam t j = getCam s j) ∧ t.out = s.out ∧
      RegsOnly [0x15000020 + 4 * rx.val] s t ∧ Frame [.regs, .mem, .memCtl, .sec, .cams] s t) ∧
  (∀ (rx : Fin 8) (vc : Fin 16) (payload : List Byte) (i c : Nat) (f : CamFrame) (s : State), isUp s = true →
    camStream s rx.val vc.val = some i → camFirst s i vc.val = true → (getCam s i).frame = some f → f.emb = 0 → f.packets = 0 →
    c < 2 ^ 32 → 4 ≤ odGet s (camKey i 0x0A) → payload = leBytes 4 c ++ (patBytes (odGet s (camKey i 0x0A) - 4) (patSeed c)).2 →
    ∃ t, exec (.embeddedDataPacket rx vc payload) s = .next t ∧
      getCam t i = { getCam s i with frame := some { f with
        packets := 1, emb := 1, counter := some c, gen := (patBytes (odGet s (camKey i 0x0A) - 4) (patSeed c)).1 } } ∧
      (∀ j, j ≠ i → getCam t j = getCam s j) ∧ t.out = s.out ∧
      RegsOnly [0x15000020 + 4 * rx.val] s t ∧ Frame [.regs, .cams] s t) ∧
  (∀ (rx : Fin 8) (vc : Fin 16) (i : Nat) (f : CamFrame) (s : State), isUp s = true → camStream s rx.val vc.val = some i →
    camFirst s i vc.val = true → (getCam s i).frame = some f → (getCam s i).tail = none →
    ∃ t, exec (.frameEndPacket rx vc) s = .next t ∧
      getCam t i = { getCam s i with
        mark := s.now, expired := false, frame := none,
        tail := some { f with gend := gnow s, endAt := s.now, sensorBad := f.sensorBad || decide (f.emb < 2),
                              short := f.short || decide (f.lines < odGet s (camKey i 6)) } } ∧
      (∀ j, j ≠ i → getCam t j = getCam s j) ∧ bit (regRaw t (camReg i 0x30)) 30 = false ∧ t.out = s.out ∧
      RegsOnly [0x15000020 + 4 * rx.val, camReg i 0x30] s t ∧ Frame [.regs, .cams] s t)

/-- The end of a frame and the streams. Test lines that agree close the frame with its record; lines that do not, or do not come within
1 ms, raise the sensor alarm of a safety stream and are counted for any other; so is a frame that does not end in time. A stream is enabled
empty, and leaves nothing when it is disabled; RELEASED cannot pass FILLED. -/
def Obligations.CameraRecordsAndStreams : Prop :=
  (∀ (i : Fin 128) (observed : List Byte) (f : CamFrame) (c p tail size : Nat) (s : State), isUp s = true → (getCam s i.val).tail = some f →
    crc32c observed = camWant s i.val f → f.counter = some c → c < 2 ^ 32 → (getCam s i.val).prev = some p → p < 2 ^ 32 →
    (c + 2 ^ 32 - p) % 2 ^ 32 = 1 → f.kept = true →
    f.sensorBad = false → f.short = false → f.long = false → f.linkErr = false → f.nucErr = false →
    tail = bits (regRaw s (camReg i.val 0x2C)) 31 16 → size = 2 ^ bits (regRaw s (camReg i.val 0x20)) 3 0 →
    ∃ t, exec (.testLinesAtDma i observed) s = .next t ∧
      memBytes t (regRaw s (camReg i.val 8) + tail % size * 64) 64 =
        leBytes 2 0 ++ leBytes 1 i.val ++ leBytes 1 f.buffer ++ leBytes 4 c ++ leBytes 8 f.gstart ++ leBytes 8 f.gend ++
        leBytes 2 f.lines ++ zeros 2 ++ leBytes 4 f.seq ++ leBytes 4 (crc32c observed) ++ leBytes 4 (camWant s i.val f) ++ zeros 23 ++
        leBytes 1 (1 - tail / size % 2) ∧
      (∀ a, a < regRaw s (camReg i.val 8) + tail % size * 64 ∨ regRaw s (camReg i.val 8) + tail % size * 64 + 64 ≤ a →
        memByte t a = memByte s a) ∧
      regRaw t (camReg i.val 0x2C) = (tail + 1) % 65536 * 65536 + bits (regRaw s (camReg i.val 0x2C)) 15 0 ∧
      regRaw t (camReg i.val 0x34) = c ∧
      getCam t i.val = { getCam s i.val with tail := none, prev := some c, frozen := 0, latest := some c } ∧
      (∀ j, j ≠ i.val → getCam t j = getCam s j) ∧
      odGet t (camKey i.val 0x10) = satAdd (odGet s (camKey i.val 0x10)) 1 (odCap (camKey i.val 0x10)) ∧ t.dev = s.dev ∧
      OdOnly [camKey i.val 0x10] s t ∧ Frame [.regs, .od, .mem, .memCtl, .sec, .knots, .cams, .slots, .safeSlots] s t) ∧
  (∀ (i : Fin 128) (observed : List Byte) (f : CamFrame) (s : State), isUp s = true → s.sdg.clkStopped = false →
    (getCam s i.val).tail = some f → crc32c observed ≠ camWant s i.val f → (getCam s i.val).prev = none →
    ∃ t, exec (.testLinesAtDma i observed) s = .next t ∧ (getCam t i.val).tail = none ∧
      (camSafety s i.val = true → AlarmTaken 0x60 s t ∧
        odGet t (odKey 0x2D00 1) = satAdd (odGet s (odKey 0x2D00 1)) 1 (odCap (odKey 0x2D00 1))) ∧
      (camSafety s i.val = false → t.dev = s.dev ∧ t.sdg = s.sdg ∧
        odGet t (odKey 0x2D00 5) = satAdd (odGet s (odKey 0x2D00 5)) 1 (odCap (odKey 0x2D00 5))) ∧
      OdOnly ([odKey 0x2D00 1, odKey 0x2D00 5, camKey i.val 0x10, camKey i.val 0x11] ++ alarmKeys) s t ∧
      Frame ([.free, .mem, .memCtl, .sec, .knots, .cams, .slots, .safeSlots] ++ alarmParts) s t) ∧
  (∀ (i : Fin 128) (f : CamFrame) (s : State), isUp s = true → s.sdg.clkStopped = false → (getCam s i.val).tail = some f →
    (getCam s i.val).prev = none →
    ∃ t, exec (.testLineTimeout i) s = .next t ∧ TimeAt (f.endAt + ms 1) s t ∧ (getCam t i.val).tail = none ∧
      (camSafety s i.val = true → AlarmTaken 0x60 s t ∧
        odGet t (odKey 0x2D00 1) = satAdd (odGet s (odKey 0x2D00 1)) 1 (odCap (odKey 0x2D00 1))) ∧
      (camSafety s i.val = false → t.dev = s.dev ∧ t.sdg = s.sdg ∧
        odGet t (odKey 0x2D00 5) = satAdd (odGet s (odKey 0x2D00 5)) 1 (odCap (odKey 0x2D00 5))) ∧
      OdOnly ([odKey 0x2D00 1, odKey 0x2D00 5, camKey i.val 0x10, camKey i.val 0x11] ++ alarmKeys) s t ∧
      Frame ([.now, .gtime, .free, .mem, .memCtl, .sec, .knots, .cams, .slots, .safeSlots] ++ alarmParts) s t) ∧
  (∀ (i : Fin 128) (s : State), isUp s = true → s.sdg.clkStopped = false → (getCam s i.val).on = true →
    ∃ t, exec (.frameTimeout i) s = .next t ∧ TimeAt ((getCam s i.val).mark + ms (odGet s (camKey i.val 0x0C))) s t ∧
      getCam t i.val = { getCam s i.val with mark := (getCam s i.val).mark + ms (odGet s (camKey i.val 0x0C)), expired := true } ∧
      (camSafety s i.val = true → (getCam s i.val).expired = false → AlarmTaken 0x60 s t) ∧
      (camSafety s i.val = true → odGet t (odKey 0x2D00 1) = satAdd (odGet s (odKey 0x2D00 1)) 1 (odCap (odKey 0x2D00 1))) ∧
      (camSafety s i.val = true → (getCam s i.val).expired = true → t.sdg = s.sdg) ∧
      (camSafety s i.val = false → t.sdg = s.sdg ∧
        odGet t (odKey 0x2D00 5) = satAdd (odGet s (odKey 0x2D00 5)) 1 (odCap (odKey 0x2D00 5))) ∧
      OdOnly ([odKey 0x2D00 1, odKey 0x2D00 5] ++ alarmKeys) s t ∧ RegsOnly alarmRegs s t ∧
      Frame (.now :: .gtime :: .cams :: alarmParts) s t) ∧
  (∀ (i : Fin 128) (acc : Access) (value : Word) (r : RegRow) (a : Nat) (s : State), a = camReg i.val 0x28 → Reaches acc a s →
    regAt a = some (r, a) →
    dist16 (bits (carried acc value) 15 0) (regRaw s a) ≤ dist16 (regRaw s (camReg i.val 0x24)) (regRaw s a) →
    ∃ t, exec (.releasedWrite i acc value) s = .next t ∧ WriteTaken acc a s t ∧
      regRaw t a = maskedWrite r (regRaw s a) (carried acc value) % 2 ^ 64 ∧ RegsOnly [a, countReg a] s t ∧ Frame [.regs] s t) ∧
  (∀ (i : Fin 128) (acc : Access) (value : Word) (a : Nat) (s : State), a = camReg i.val 0x28 → Reaches acc a s →
    dist16 (regRaw s (camReg i.val 0x24)) (regRaw s a) < dist16 (bits (carried acc value) 15 0) (regRaw s a) →
    ∃ t, exec (.releasedWrite i acc value) s = .next t ∧ WriteTaken acc a s t ∧ bit (regRaw t (camReg i.val 0x30)) 28 = true ∧
      RegsOnly [camReg i.val 0x30, countReg a] s t ∧ Frame [.regs] s t) ∧
  (∀ (m : LeashMsg) (k : Nat) (i : Fin 128) (x : Session) (s : State), Accepted m k x (camKey i.val 1) 1 s → (getCam s i.val).on = false →
    ∃ t, exec (.streamEnable m) s = .next t ∧ AnsweredDone m k x s t ∧ odGet t (camKey i.val 1) = 1 ∧
      getCam t i.val = { on := true, mark := s.now } ∧ (∀ j, j ≠ i.val → getCam t j = getCam s j) ∧
      regRaw t (camReg i.val 0x24) = 0 ∧ bit (regRaw t (camReg i.val 0x30)) 31 = true ∧
      RegsOnly [camReg i.val 0x24, camReg i.val 0x30] s t ∧ OdOnly [camKey i.val 1] s t ∧ Frame [.regs, .od, .leash, .cams] s t) ∧
  (∀ (m : LeashMsg) (k : Nat) (i : Fin 128) (x : Session) (s : State), Accepted m k x (camKey i.val 1) 0 s → (getCam s i.val).on = true →
    ∃ t, exec (.streamDisable m) s = .next t ∧ AnsweredDone m k x s t ∧ odGet t (camKey i.val 1) = 0 ∧ getCam t i.val = {} ∧
      (∀ j, j ≠ i.val → getCam t j = getCam s j) ∧ bits (regRaw t (camReg i.val 0x30)) 31 30 = 0 ∧
      Frame ([.free, .mem, .memCtl, .sec, .leash, .knots, .cams, .slots, .safeSlots] ++ alarmParts) s t)

/-! ### The Raster engine and the display (chapter 14) -/

/-- Raster queues. A doorbell in range moves TAIL and wakes an idle queue, any other sets DB_ERR; STOP stops a waiting queue at once and asks
a running one to yield; START lets a stopped queue go on; FLUSH empties it; a fetched submission joins the queue, or fails its checks and
stops it. -/
def Obligations.RasterQueuesAreControlled : Prop :=
  (∀ (q : Fin 32) (acc : Access) (tail : Nat) (s : State), Reaches acc (gReg q.val 0x1C) s → tail < 65536 → gEnabled s q.val = true →
    dist16 tail (getGq s q.val).sqHead ≤ gSqSize s q.val →
    dist16 (getGq s q.val).tail (getGq s q.val).sqHead ≤ dist16 tail (getGq s q.val).sqHead →
    ∃ t, exec (.gfxDoorbell q acc tail) s = .next t ∧ WriteTaken acc (gReg q.val 0x1C) s t ∧
      getGq t q.val = { getGq s q.val with
        tail := tail,
        state := if (getGq s q.val).state = 1 ∧ tail ≠ (getGq s q.val).sqHead then 2 else (getGq s q.val).state } ∧
      (∀ j, j ≠ q.val → getGq t j = getGq s j) ∧ t.gfx = { s.gfx with queues := t.gfx.queues } ∧
      RegsOnly [countReg (gReg q.val 0x1C)] s t ∧ Frame [.regs, .gfx] s t) ∧
  (∀ (q : Fin 32) (acc : Access) (tail : Nat) (s : State), Reaches acc (gReg q.val 0x1C) s → tail < 65536 →
    gEnabled s q.val = false ∨ gSqSize s q.val < dist16 tail (getGq s q.val).sqHead ∨
      dist16 tail (getGq s q.val).sqHead < dist16 (getGq s q.val).tail (getGq s q.val).sqHead →
    ∃ t, exec (.gfxDoorbell q acc tail) s = .next t ∧ WriteTaken acc (gReg q.val 0x1C) s t ∧ bit (regRaw t (gReg q.val 0x30)) 9 = true ∧
      RegsOnly [gReg q.val 0x30, countReg (gReg q.val 0x1C)] s t ∧ Frame [.regs] s t) ∧
  (∀ (q : Fin 32) (acc : Access) (s : State), Reaches acc (gReg q.val 0x2C) s → (getGq s q.val).state ≠ 0 → (getGq s q.val).state ≠ 4 →
    ∃ t, exec (.gfxQueueStop q acc) s = .next t ∧ WriteTaken acc (gReg q.val 0x2C) s t ∧
      (s.gfx.run ≠ some q.val → getGq t q.val = { getGq s q.val with state := 4 } ∧ t.gfx.yieldAt = s.gfx.yieldAt) ∧
      (s.gfx.run = some q.val → getGq t q.val = { getGq s q.val with stop := true } ∧ t.gfx.yieldAt = some (s.gfx.yieldAt.getD s.now)) ∧
      (∀ j, j ≠ q.val → getGq t j = getGq s j) ∧ t.gfx.run = s.gfx.run ∧
      RegsOnly [countReg (gReg q.val 0x2C)] s t ∧ Frame [.regs, .gfx] s t) ∧
  (∀ (q : Fin 32) (acc : Access) (s : State), Reaches acc (gReg q.val 0x2C) s → (getGq s q.val).state = 4 → (getGq s q.val).subs = [] →
    ∃ t, exec (.gfxQueueStart q acc) s = .next t ∧ WriteTaken acc (gReg q.val 0x2C) s t ∧
      getGq t q.val = { getGq s q.val with state := if (getGq s q.val).tail = (getGq s q.val).sqHead then 1 else 2 } ∧
      (∀ j, j ≠ q.val → getGq t j = getGq s j) ∧ t.gfx.run = s.gfx.run ∧
      RegsOnly [countReg (gReg q.val 0x2C)] s t ∧ Frame [.regs, .gfx] s t) ∧
  (∀ (q : Fin 32) (acc : Access) (s : State), Reaches acc (gReg q.val 0x2C) s → (getGq s q.val).state = 1 ∨ (getGq s q.val).state = 4 →
    (getGq s q.val).tail < 65536 → (getGq s q.val).sqHead < 65536 →
    ∃ t, exec (.gfxQueueFlush q acc) s = .next t ∧ t.out.head? = some (.writeOk acc.req (gReg q.val 0x2C)) ∧
      (getGq t q.val).sqHead = (getGq s q.val).tail ∧ (∀ b ∈ (getGq t q.val).subs, b.status.isSome = true) ∧
      (∀ j, j ≠ q.val → getGq t j = getGq s j) ∧ t.gfx.run = s.gfx.run ∧
      Frame ([.free, .mem, .memCtl, .sec, .gfx] ++ alarmParts) s t) ∧
  (∀ (q : Fin 32) (e : List Byte) (s u : State), isUp s = true → gEnabled s q.val = true → (getGq s q.val).state = 1 ∨ (getGq s q.val).state = 2 →
    (getGq s q.val).sqHead ≠ (getGq s q.val).tail → (∀ b ∈ (getGq s q.val).subs, b.status = none) →
    memoryOpen s 0x28 (gTag s q.val) false (regRaw s (gReg q.val 0) + (getGq s q.val).sqHead % gSqSize s q.val * 64) 64 = true →
    readRange (regRaw s (gReg q.val 0) + (getGq s q.val).sqHead % gSqSize s q.val * 64) 64 s = (u, some e) → gCheck u q.val e = none →
    ∃ t, exec (.gfxSubmissionFetch q) s = .next t ∧
      getGq t q.val = { getGq s q.val with
        sqHead := ((getGq s q.val).sqHead + 1) % 65536, state := 2, subs := (getGq s q.val).subs ++ [{ entry := e }] } ∧
      (∀ j, j ≠ q.val → getGq t j = getGq s j) ∧ t.out = u.out ∧ Frame [.gfx] u t) ∧
  (∀ (q : Fin 32) (e : List Byte) (st : Nat) (s u : State), isUp s = true → gEnabled s q.val = true →
    (getGq s q.val).state = 1 ∨ (getGq s q.val).state = 2 →
    (getGq s q.val).sqHead ≠ (getGq s q.val).tail → (getGq s q.val).subs = [] → gCqFull u q.val = false →
    memoryOpen s 0x28 (gTag s q.val) false (regRaw s (gReg q.val 0) + (getGq s q.val).sqHead % gSqSize s q.val * 64) 64 = true →
    readRange (regRaw s (gReg q.val 0) + (getGq s q.val).sqHead % gSqSize s q.val * 64) 64 s = (u, some e) → gCheck u q.val e = some st →
    ∃ t, exec (.gfxSubmissionFetch q) s = .next t ∧
      getGq t q.val = { getGq s q.val with
        sqHead := ((getGq s q.val).sqHead + 1) % 65536, state := 4, cqTail := ((getGq s q.val).cqTail + 1) % 65536, last := st } ∧
      (∀ j, j ≠ q.val → getGq t j = getGq s j) ∧ Frame [.regs, .mem, .memCtl, .sec, .gfx] u t)

/-- Raster submissions. A ready one takes the idle cores; at a pre-emption point it yields, or goes on under the windows now in force; at
its end its lines are in memory and its completion is written; a failure, a GMC stop and a shader fault leave the queue STOPPED. -/
def Obligations.RasterSubmissionsRun : Prop :=
  (∀ (q : Fin 32) (draw : Bool) (primitives : List (Nat × Nat)) (b : GfxSub) (s : State), isUp s = true → s.gfx.run = none →
    gReady s q.val = true → gRivals s q.val (gPrio s q.val + 1) = false → gHead s q.val = some b → draw = false ∨ q.val < 16 →
    ∃ t c, exec (.gfxSubmissionStart q draw primitives) s = .next t ∧ t.gfx.run = some q.val ∧ t.gfx.ranAt = s.now ∧ t.gfx.yieldAt = none ∧
      gHead t q.val = some c ∧ c = { b with
        begun := true, gstart := if b.begun then b.gstart else gnow s, wins := gWindows s q.val, partials := c.partials, binned := c.binned } ∧
      (primitives = [] → c.partials = b.partials ∧ c.binned = b.binned) ∧
      (∀ j, j ≠ q.val → getGq t j = getGq s j) ∧ t.out = s.out ∧ OdOnly [odKey 0x2C00 9] s t ∧ Frame [.od, .gfx] s t) ∧
  (∀ (q : Fin 32) (primitives : List (Nat × Nat)) (b : GfxSub) (s : State), isUp s = true → s.gfx.run = none →
    gReady s q.val = true → gRivals s q.val (gPrio s q.val + 1) = false → (getGq s q.val).subs = [b] → 16 ≤ q.val →
    ∃ t, exec (.gfxSubmissionStart q true primitives) s = .next t ∧ t.gfx.run = none ∧ (getGq t q.val).last = 0x10 ∧
      (getGq t q.val).subs = [] ∧ (getGq t q.val).state = 4 ∧
      (∀ j, j ≠ q.val → getGq t j = getGq s j) ∧ Frame [.regs, .mem, .memCtl, .sec, .gfx] s t) ∧
  (∀ (q : Fin 32) (writes : List LineWrite) (b : GfxSub) (s u : State), isUp s = true → s.gfx.run = some q.val →
    gLineWrites q.val writes s = (u, none) → gHead u q.val = some b →
    ∃ t, exec (.gfxPreemptionPoint q writes) s = .next t ∧
      (gYields u q.val = false → gHead t q.val = some { b with wins := gWindows u q.val } ∧ t.gfx.run = some q.val ∧
        t.out = u.out ∧ Frame [.gfx] u t) ∧
      (gYields u q.val = true → gHead t q.val = some { b with preempts := b.preempts + 1 } ∧ t.gfx.run = none ∧ t.gfx.yieldAt = none ∧
        (getGq t q.val).stop = false ∧ ((getGq u q.val).stop = true → (getGq t q.val).state = 4) ∧
        t.out = u.out ∧ Frame [.free, .mem, .memCtl, .sec, .gfx] u t) ∧
      (∀ j, j ≠ q.val → getGq t j = getGq s j)) ∧
  (∀ (q : Fin 32) (passes : Nat) (writes : List LineWrite) (b : GfxSub) (s u : State), isUp s = true → s.gfx.run = some q.val →
    gLineWrites q.val writes (updGHead q.val (fun b => { b with passes := b.passes + passes }) s) = (u, none) →
    (getGq u q.val).subs = [b] → gSignalKnot b.entry = 0xFFFF → gCqFull u q.val = false →
    memoryOpen u 0x28 (gTag u q.val) true (regRaw u (gReg q.val 8) + (getGq u q.val).cqTail % gCqSize u q.val * 64) 64 = true →
    ∃ t, exec (.gfxSubmissionDone q passes writes none) s = .next t ∧ t.gfx.run = none ∧ t.gfx.yieldAt = none ∧
      (getGq t q.val).subs = [] ∧ (getGq t q.val).last = 0 ∧ (getGq t q.val).cqTail = ((getGq u q.val).cqTail + 1) % 65536 ∧
      t.mem = memWrite (b.lines.foldl (fun m l => memWrite m l.1 l.2) u.mem)
        (regRaw u (gReg q.val 8) + (getGq u q.val).cqTail % gCqSize u q.val * 64)
        (gCompletion u q.val b 0 (1 - (getGq u q.val).cqTail / gCqSize u q.val % 2)) ∧
      (∀ j, j ≠ q.val → getGq t j = getGq u j) ∧ Frame [.regs, .mem, .memCtl, .sec, .gfx] u t) ∧
  (∀ (q : Fin 32) (passes st a : Nat) (b : GfxSub) (s : State), isUp s = true → s.gfx.run = some q.val →
    (getGq s q.val).subs = [b] → b.begun = true → gCqFull s q.val = false → st ≠ 0 → st ≠ 0x0B →
    ∃ t, exec (.gfxSubmissionDone q passes [] (some (st, a))) s = .next t ∧ t.gfx.run = none ∧ (getGq t q.val).subs = [] ∧
      (getGq t q.val).last = st ∧ (getGq t q.val).state = 4 ∧ (∀ j, j ≠ q.val → getGq t j = getGq s j) ∧
      Frame [.regs, .mem, .memCtl, .sec, .gfx] s t) ∧
  (∀ (q : Nat) (s : State), isUp s = true → s.gfx.run = some q →
    ∃ t, exec .timesliceExpiry s = .next t ∧ TimeAt (s.gfx.ranAt + ms (odGet s (odKey 0x2C00 8))) s t ∧
      t.gfx = { s.gfx with yieldAt := if s.gfx.yieldAt = none ∧ gRivals s q (gPrio s q) = true then some t.now else s.gfx.yieldAt } ∧
      t.out = s.out ∧ Frame [.gfx, .now, .gtime] s t) ∧
  (∀ (q : Fin 32) (b : GfxSub) (y : Nat) (s : State), isUp s = true → s.gfx.run = some q.val → s.gfx.yieldAt = some y →
    (getGq s q.val).subs = [b] → b.begun = true → gCqFull s q.val = false →
    ∃ t, exec (.preemptTimeout q) s = .next t ∧ TimeAt (y + ms (odGet s (odKey 0x2C00 7))) s t ∧ t.gfx.run = none ∧
      t.gfx.gmcStop = some t.now ∧ (getGq t q.val).subs = [] ∧ (getGq t q.val).last = 0xB0 ∧ (getGq t q.val).state = 4 ∧
      odGet t (odKey 0x2C00 0x0A) = satAdd (odGet s (odKey 0x2C00 0x0A)) 1 (odCap (odKey 0x2C00 0x0A)) ∧
      OdOnly [odKey 0x2C00 0x0A] s t ∧ Frame [.now, .gtime, .regs, .od, .mem, .memCtl, .sec, .gfx] s t) ∧
  (∀ (q : Fin 32) (b : GfxSub) (s : State), isUp s = true → s.gfx.run = some q.val → (getGq s q.val).subs = [b] → b.begun = true →
    gCqFull s q.val = false → ∃ t, exec (.shaderFault q) s = .next t ∧ t.gfx.run = none ∧ (getGq t q.val).subs = [] ∧ (getGq t q.val).last = 0xB1 ∧
      (getGq t q.val).state = 4 ∧ odGet t (odKey 0x2C00 0x0B) = satAdd (odGet s (odKey 0x2C00 0x0B)) 1 (odCap (odKey 0x2C00 0x0B)) ∧
      OdOnly [odKey 0x2C00 0x0B] s t ∧ Frame [.regs, .od, .mem, .memCtl, .sec, .gfx] s t) ∧
  (∀ (b : Nat) (s : State), isUp s = true → s.sdg.clkStopped = false → s.gfx.gmcStop = some b →
    ∃ t, exec .gfxCoreStopTimeout s = .next t ∧ TimeAt (b + us 100) s t ∧ AlarmTaken 0x14 s t ∧ t.gfx = { s.gfx with gmcStop := none } ∧
      OdOnly alarmKeys s t ∧ RegsOnly alarmRegs s t ∧ Frame (.gfx :: .now :: .gtime :: alarmParts) s t)

/-- The display. A frame start counts the frame, takes the planes and layouts last written, and, where the overlay is on, the committed set
made for this frame, or counts it as stale; a region whose output differs from its expected CRC raises the alarm; an underflow counts once
a frame; a plane address or a commit out of range is refused and noted; a pipe starts and stops with its Enable. -/
def Obligations.DisplayPipesShowFrames : Prop :=
  (∀ (p : Fin 4) (s : State), isUp s = true → (getPipe s p.val).on = true → s.memCtl.dramErr = [] → s.memCtl.poison = [] →
    overlayOn s p.val = false ∨ (∃ c, (getPipe s p.val).committed = some c ∧ c.frame = (pFrames s p.val + 1) % 65536) →
    ∃ t, exec (.dispFrameStart p) s = .next t ∧ regRaw t (pReg p.val 8) = (regRaw s (pReg p.val 8) + 1) % 2 ^ 64 ∧
      getPipe t p.val = { getPipe s p.val with
        planes := (List.range 4).map (fun k => regRaw s (pReg p.val (0x10 + 8 * k))),
        layouts := (List.range 4).map (fun k => blobGet s (pKey p.val (0x10 + k))),
        hold := if s.dev = .safeHold ∧ regRaw s (oReg p.val 8) ≠ 0 then some (regRaw s (oReg p.val 8)) else none,
        frameAt := some s.now, underflow := false,
        inUse := if overlayOn s p.val = true then (getPipe s p.val).committed else (getPipe s p.val).inUse,
        committed := if overlayOn s p.val = true then none else (getPipe s p.val).committed,
        stale := if overlayOn s p.val = true then 0 else (getPipe s p.val).stale } ∧
      (∀ j, j ≠ p.val → getPipe t j = getPipe s j) ∧ bits (regRaw t (pReg p.val 0x30)) 3 0 = 0 ∧
      (odGet s (pKey p.val 8) < 4096 → knotSignals s (odGet s (pKey p.val 8)) 0x101 = true →
        knotValue t (odGet s (pKey p.val 8)) = max (knotValue s (odGet s (pKey p.val 8))) ((regRaw s (pReg p.val 8) + 1) % 2 ^ 64)) ∧
      Frame [.regs, .knots, .slots, .safeSlots, .pipes] s t) ∧
  (∀ (p : Fin 4) (s : State), isUp s = true → s.sdg.clkStopped = false → (getPipe s p.val).on = true → s.memCtl.dramErr = [] →
    s.memCtl.poison = [] → overlayOn s p.val = true →
    (∀ c, (getPipe s p.val).committed = some c → c.frame ≠ (regRaw s (pReg p.val 8) + 1) % 2 ^ 64 % 65536) →
    ∃ t, exec (.dispFrameStart p) s = .next t ∧ (getPipe t p.val).stale = (getPipe s p.val).stale + 1 ∧
      (getPipe t p.val).inUse = (getPipe s p.val).inUse ∧
      odGet t (pKey p.val 0x0B) = satAdd (odGet s (pKey p.val 0x0B)) 1 (odCap (pKey p.val 0x0B)) ∧
      (odGet s (pKey p.val 7) < (getPipe s p.val).stale + 1 → AlarmTaken 0x62 s t) ∧
      ((getPipe s p.val).stale + 1 ≤ odGet s (pKey p.val 7) → t.dev = s.dev ∧ t.sdg = s.sdg) ∧
      OdOnly (pKey p.val 0x0B :: alarmKeys) s t ∧ Frame ([.knots, .slots, .safeSlots, .pipes] ++ alarmParts) s t) ∧
  (∀ (p : Fin 4) (r : Fin 16) (flips : List (Nat × Byte)) (c : OvlSet) (k : Nat) (s : State), isUp s = true → s.sdg.clkStopped = false →
    (getPipe s p.val).on = true → overlayOn s p.val = true → (getPipe s p.val).frameAt.isSome = true → (getPipe s p.val).inUse = some c →
    bit c.mask r.val = true →
    k = crc32c (flipBytes (regionBytes s ((getPipe s p.val).hold.getD c.addr) (ovlPitch s p.val) (c.regions.getD r.val [])) flips) →
    ∃ t, exec (.dispRegionCrc p r flips) s = .next t ∧ regRaw t (oReg p.val (0x140 + 4 * r.val)) = k % 2 ^ 64 ∧
      bit (regRaw t (oReg p.val 0x104)) r.val = decide (k ≠ c.crcs.getD r.val 0) ∧
      (k = c.crcs.getD r.val 0 → t.out = s.out ∧ RegsOnly [oReg p.val (0x140 + 4 * r.val), oReg p.val 0x104] s t ∧ Frame [.regs] s t) ∧
      (k ≠ c.crcs.getD r.val 0 → AlarmTaken 0x62 s t ∧
        odGet t (pKey p.val 0x0A) = satAdd (odGet s (pKey p.val 0x0A)) 1 (odCap (pKey p.val 0x0A)) ∧
        OdOnly (pKey p.val 0x0A :: alarmKeys) s t ∧ Frame alarmParts s t)) ∧
  (∀ (p : Fin 4) (s : State), isUp s = true → (getPipe s p.val).on = true → (getPipe s p.val).frameAt.isSome = true →
    (getPipe s p.val).underflow = false →
    ∃ t, exec (.scanoutUnderflow p) s = .next t ∧ getPipe t p.val = { getPipe s p.val with underflow := true } ∧
      (∀ j, j ≠ p.val → getPipe t j = getPipe s j) ∧
      odGet t (pKey p.val 0x0C) = satAdd (odGet s (pKey p.val 0x0C)) 1 (odCap (pKey p.val 0x0C)) ∧ t.out = s.out ∧
      OdOnly [pKey p.val 0x0C] s t ∧ Frame [.od, .pipes] s t) ∧
  (∀ (p k : Fin 4) (acc : Access) (value : Word) (r : RegRow) (a : Nat) (s : State), a = pReg p.val (0x10 + 8 * k.val) → Reaches acc a s →
    acc.addr ≠ a + 4 → regAt a = some (r, a) → carried acc value % 64 = 0 → carried acc value < 2 ^ 40 →
    ∃ t, exec (.planeAddrWrite p k acc value) s = .next t ∧ WriteTaken acc a s t ∧
      regRaw t a = maskedWrite r (regRaw s a) (carried acc value) % 2 ^ 64 ∧ bit (regRaw t (pReg p.val 0x30)) k.val = true ∧
      RegsOnly [a, pReg p.val 0x30, countReg a] s t ∧ Frame [.regs] s t) ∧
  (∀ (p k : Fin 4) (acc : Access) (value : Word) (a : Nat) (s : State), a = pReg p.val (0x10 + 8 * k.val) → Reaches acc a s →
    acc.addr ≠ a + 4 → carried acc value % 64 ≠ 0 ∨ 2 ^ 40 ≤ carried acc value →
    ∃ t, exec (.planeAddrWrite p k acc value) s = .next t ∧ WriteTaken acc a s t ∧ bit (regRaw t (pReg p.val 0x30)) 8 = true ∧
      RegsOnly [pReg p.val 0x30, countReg a] s t ∧ Frame [.regs] s t) ∧
  (∀ (p : Fin 4) (acc : Access) (value : Word) (a : Nat) (s : State), a = oReg p.val 0x100 → Reaches acc a s →
    (∀ r, r < 16 → bit (carried acc value) (16 + r) = true → regionOk (pTiming s p.val) (regionRegs s p.val r) = true) →
    ∃ t, exec (.expCommit p acc value) s = .next t ∧ WriteTaken acc a s t ∧
      getPipe t p.val = { getPipe s p.val with
        committed := some { frame := bits (carried acc value) 15 0, mask := bits (carried acc value) 31 16, addr := regRaw s (oReg p.val 0),
                            regions := (List.range 16).map (regionRegs s p.val),
                            crcs := (List.range 16).map (fun r => regRaw s (oReg p.val (0xC0 + 4 * r))) } } ∧
      (∀ j, j ≠ p.val → getPipe t j = getPipe s j) ∧ RegsOnly [countReg a] s t ∧ Frame [.regs, .pipes] s t) ∧
  (∀ (p : Fin 4) (acc : Access) (value : Word) (a r : Nat) (s : State), a = oReg p.val 0x100 → Reaches acc a s → r < 16 →
    bit (carried acc value) (16 + r) = true → regionOk (pTiming s p.val) (regionRegs s p.val r) = false →
    ∃ t, exec (.expCommit p acc value) s = .next t ∧ WriteTaken acc a s t ∧ bit (regRaw t (oReg p.val 0x104)) 31 = true ∧
      RegsOnly [oReg p.val 0x104, countReg a] s t ∧ Frame [.regs] s t) ∧
  (∀ (m : LeashMsg) (i : Nat) (p : Fin 4) (x : Session) (s : State), Accepted m i x (pKey p.val 1) 1 s → blocksOn s = true →
    (getPipe s p.val).on = false →
    ∃ t, exec (.pipeEnable m) s = .next t ∧ AnsweredDone m i x s t ∧ odGet t (pKey p.val 1) = 1 ∧ getPipe t p.val = { on := true } ∧
      (∀ j, j ≠ p.val → getPipe t j = getPipe s j) ∧ OdOnly [pKey p.val 1] s t ∧ Frame [.od, .leash, .pipes] s t) ∧
  (∀ (m : LeashMsg) (i : Nat) (p : Fin 4) (x : Session) (s : State), Accepted m i x (pKey p.val 1) 0 s → blocksOn s = true →
    (getPipe s p.val).on = true →
    ∃ t, exec (.pipeEnable m) s = .next t ∧ AnsweredDone m i x s t ∧ odGet t (pKey p.val 1) = 0 ∧ getPipe t p.val = {} ∧
      (∀ j, j ≠ p.val → getPipe t j = getPipe s j) ∧ RegsOnly [pReg p.val 0x30] s t ∧ OdOnly [pKey p.val 1] s t ∧
      Frame [.regs, .od, .leash, .pipes] s t)

/-! ### Clusters, worlds and trusted services (chapter 15) -/

/-- Cores and worlds. APP_RELEASE starts the cores it names that are still in reset, at the entry of 0x3500:02; a CSR of the worlds takes a
machine-mode write, and, once locked, only one from the monitor region; any other traps. The filter lock is a register; a route entry takes
a legal value, sends what was pending when it is enabled, and refuses an illegal one. -/
def Obligations.CoresWorldsAndRoutes : Prop :=
  (∀ (acc : Access) (value : Word) (s : State), Reaches acc 0x10000240 s →
    ∃ t, exec (.appRelease acc value) s = .next t ∧ WriteTaken acc 0x10000240 s t ∧
      (∀ c, getApp t c = if c < 12 ∧ bit (carried acc value) c = true ∧ (getApp s c).released = false
        then { released := true, pc := odGet s (odKey 0x3500 2) } else getApp s c) ∧
      (∀ c, c < 12 → bit (carried acc value) c = true → (getApp s c).released = false →
        .release c (odGet s (odKey 0x3500 2)) ∈ t.out ∧ bit (regRaw t 0x10000240) c = true) ∧
      RegsOnly [0x10000240, countReg 0x10000240] s t ∧ Frame [.regs, .apps] s t) ∧
  (∀ (core : Fin 12) (csr pc : Nat) (value : Word) (s : State), blocksOn s = true → (getApp s core.val).released = true →
    ∃ t, exec (.mworldWrite core csr value false pc) s = .next t ∧ Sends [.coreTrap core.val] s t ∧ Frame [] s t) ∧
  (∀ (core : Fin 12) (pc : Nat) (value : Word) (s : State), blocksOn s = true → (getApp s core.val).released = true →
    (getApp s core.val).lock = false ∨ inMonitor (getApp s core.val) pc = true →
    ∃ t, exec (.mworldWrite core 0x7C0 value true pc) s = .next t ∧
      getApp t core.val = { getApp s core.val with
        lock := (getApp s core.val).lock || value.toNat.testBit 63, tcount := value.toNat.testBit 1,
        world := if s.sec.twDown = true ∧ value.toNat.testBit 0 = true then (getApp s core.val).world else value.toNat.testBit 0,
        events := (getApp t core.val).events } ∧
      (∀ c, c ≠ core.val → getApp t c = getApp s c) ∧ t.out = s.out ∧ Frame [.apps] s t) ∧
  (∀ (core : Fin 12) (pc : Nat) (value : Word) (s : State), blocksOn s = true → (getApp s core.val).released = true →
    (getApp s core.val).lock = true → inMonitor (getApp s core.val) pc = false →
    ∃ t, exec (.mworldWrite core 0x7C0 value true pc) s = .next t ∧ Sends [.coreTrap core.val] s t ∧ Frame [] s t) ∧
  (∀ (core : Fin 12) (csr pc : Nat) (value : Word) (s : State), blocksOn s = true → (getApp s core.val).released = true →
    csr = 0x7C1 ∨ csr = 0x7C2 ∨ csr = 0x305 →
    ∃ t, exec (.mworldWrite core csr value true pc) s = .next t ∧
      getApp t core.val =
        (if (getApp s core.val).lock = true ∧ (csr = 0x305 → inMonitor (getApp s core.val) value.toNat = false) then getApp s core.val
         else if csr = 0x7C1 then { getApp s core.val with monBase := bits value.toNat 39 12 }
         else if csr = 0x7C2 then { getApp s core.val with monLast := bits value.toNat 39 12 }
         else { getApp s core.val with mtvec := value.toNat }) ∧
      (∀ c, c ≠ core.val → getApp t c = getApp s c) ∧ t.out = s.out ∧ Frame [.apps] s t) ∧
  (∀ (acc : Access) (value : Word) (r : RegRow) (s : State), Reaches acc 0x19000040 s → regAt 0x19000040 = some (r, 0x19000040) →
    ∃ t, exec (.filterLock acc value) s = .next t ∧ WriteTaken acc 0x19000040 s t ∧
      regRaw t 0x19000040 = maskedWrite r (regRaw s 0x19000040) (carried acc value) % 2 ^ 64 ∧
      RegsOnly [0x19000040, countReg 0x19000040] s t ∧ Frame [.regs] s t) ∧
  (∀ (src : Fin 4096) (acc : Access) (value : Word) (a w : Nat) (s : State), a = routeAddr src.val → Reaches acc a s → acc.addr ≠ a + 4 →
    w = carried acc value &&& 0x8000FF00000007FF → bits w 10 0 ≠ 0 → bits w 43 40 ≤ 11 → bits w 47 44 ≤ 8 →
    (trustedSource s src.val = true ∨ bits w 47 44 = 8 → tagOf s acc.req acc.world = true) →
    ∃ t, exec (.msgRouteWrite src acc value) s = .next t ∧ WriteTaken acc a s t ∧
      (bit (regRaw s a) 62 = false → regRaw t a = w ∧ Sends [.writeOk acc.req a] s t) ∧
      (bit (regRaw s a) 62 = true → bit w 63 = true → regRaw t a = w ∧
        Sends [.writeOk acc.req a, .message false (bits w 43 40) (bits w 47 44) (bits w 10 0)] s t) ∧
      (bit (regRaw s a) 62 = true → bit w 63 = false → regRaw t a = putBit w 62 true ∧ Sends [.writeOk acc.req a] s t) ∧
      RegsOnly [a, countReg a] s t ∧ Frame [.regs] s t) ∧
  (∀ (src : Fin 4096) (acc : Access) (value : Word) (a w : Nat) (s : State), a = routeAddr src.val → Reaches acc a s → acc.addr ≠ a + 4 →
    w = carried acc value &&& 0x8000FF00000007FF →
    bits w 10 0 = 0 ∨ 11 < bits w 43 40 ∨ 8 < bits w 47 44 ∨
      ((trustedSource s src.val = true ∨ bits w 47 44 = 8) ∧ tagOf s acc.req acc.world = false) →
    ∃ t, exec (.msgRouteWrite src acc value) s = .next t ∧ WriteTaken acc a s t ∧ bit (regRaw t 0x18000020) 0 = true ∧
      RegsOnly [0x18000020, countReg a] s t ∧ Frame [.regs] s t)

/-- The services of SEC. Derivation and signing answer the trusted world while it is up, and never under a reserved name; a measurement
that passes its checks fills its slot with the hash of the range; a mailbox carries a request and its answer; the first kick brings the
trusted world up, and its watchdog takes it down for good, with everything that waits on it. -/
def Obligations.TrustedServicesAnswer : Prop :=
  (∀ (acc : Access) (salt info : List Byte) (len : Nat) (s : State), blocksOn s = true → secCheck s acc = none →
    reservedInfo info = false → len ≤ 64 →
    ∃ t, exec (.derivationRequest acc salt info len) s = .next t ∧
      Sends [.secAnswer acc.req 0 (hkdfExpand (hkdfExtract salt deviceSecret) info len)] s t ∧ Frame [] s t) ∧
  (∀ (acc : Access) (salt info : List Byte) (len : Nat) (s : State), blocksOn s = true → secCheck s acc = none → reservedInfo info = true →
    ∃ t, exec (.derivationRequest acc salt info len) s = .next t ∧ Sends [.secAnswer acc.req 3 []] s t ∧ Frame [] s t) ∧
  (∀ (acc : Access) (salt info digest : List Byte) (len st : Nat) (s : State), blocksOn s = true → secCheck s acc = some st →
    (∃ t, exec (.derivationRequest acc salt info len) s = .next t ∧ Sends [.secAnswer acc.req st []] s t ∧ Frame [] s t) ∧
    (∃ t, exec (.attestationSign acc digest) s = .next t ∧ Sends [.secAnswer acc.req st []] s t ∧ Frame [] s t)) ∧
  (∀ (acc : Access) (digest : List Byte) (s : State), blocksOn s = true → secCheck s acc = none →
    ∃ t b, exec (.attestationSign acc digest) s = .next t ∧ Sends [.secAnswer acc.req 0 b] s t ∧ b.length = 96 ∧ Frame [] s t) ∧
  (∀ (acc : Access) (value : Word) (s : State), Reaches acc 0x19000090 s → carried acc value % 2 = 1 → s.sec.meas = none →
    measCheck s acc (regRaw s 0x19000080) (regRaw s 0x19000084) (regRaw s 0x1900008C) = none →
    ∃ t, exec (.measGo acc value) s = .next t ∧ WriteTaken acc 0x19000090 s t ∧
      t.sec = { s.sec with meas := some (regRaw s 0x19000080, regRaw s 0x19000084, regRaw s 0x1900008C, s.now) } ∧
      RegsOnly [countReg 0x19000090] s t ∧ Frame [.regs, .sec] s t) ∧
  (∀ (acc : Access) (value : Word) (st : Nat) (s : State), Reaches acc 0x19000090 s → carried acc value % 2 = 1 → s.sec.meas = none →
    measCheck s acc (regRaw s 0x19000080) (regRaw s 0x19000084) (regRaw s 0x1900008C) = some st →
    ∃ t, exec (.measGo acc value) s = .next t ∧ WriteTaken acc 0x19000090 s t ∧ regRaw t 0x19000094 = st ∧
      RegsOnly [0x19000094, countReg 0x19000090] s t ∧ Frame [.regs] s t) ∧
  (∀ (slot base size b : Nat) (s : State), blocksOn s = true → s.sec.meas = some (slot, base, size, b) → 0 < size →
    regionOf base size = some .dram → s.memCtl.dramErr = [] → s.memCtl.poison = [] →
    ∃ t, exec .measurementDone s = .next t ∧ TimeAt (b + size / 2) s t ∧ t.sec.meas = none ∧
      getMeas t slot = { filled := true, hash := sha384 (memBytes s base size), base := base, size := size } ∧
      (∀ j, j ≠ slot → getMeas t j = getMeas s j) ∧ regRaw t 0x19000094 = 0 ∧ t.out = s.out ∧
      RegsOnly [0x19000094] s t ∧ Frame [.now, .gtime, .regs, .sec] s t) ∧
  (∀ (m : Fin 16) (acc : Access) (value : Word) (a : Nat) (s : State), a = 0x19000208 + 0x20 * m.val → Reaches acc a s →
    carried acc value % 2 = 1 → bit s.sec.mboxBusy m.val = false →
    ∃ t, exec (.mboxDoorbell m acc value) s = .next t ∧ WriteTaken acc a s t ∧
      (trustedUp s = true → bit t.sec.mboxBusy m.val = true ∧ RegsOnly (countReg a :: msgRegs (1820 + m.val)) s t) ∧
      (trustedUp s = false → tabGet (fun _ => 0) t.sec.mboxStat m.val = 0x0F ∧ bit t.sec.mboxBusy m.val = false ∧
        RegsOnly (countReg a :: msgRegs (1836 + m.val)) s t) ∧
      (∀ j, j ≠ m.val → bit t.sec.mboxBusy j = bit s.sec.mboxBusy j) ∧ Frame [.regs, .sec] s t) ∧
  (∀ (m : Fin 16) (acc : Access) (value : Word) (a : Nat) (s : State), a = 0x1900020C + 0x20 * m.val → Reaches acc a s →
    bit s.sec.mboxBusy m.val = true →
    ∃ t, exec (.mboxResp m acc value) s = .next t ∧ WriteTaken acc a s t ∧
      tabGet (fun _ => 0) t.sec.mboxStat m.val = carried acc value % 256 ∧ bit t.sec.mboxBusy m.val = false ∧
      (∀ j, j ≠ m.val → bit t.sec.mboxBusy j = bit s.sec.mboxBusy j) ∧
      RegsOnly (countReg a :: msgRegs (1836 + m.val)) s t ∧ Frame [.regs, .sec] s t) ∧
  (∀ (acc : Access) (value : Word) (s : State), Reaches acc 0x19000020 s → carried acc value % 2 = 1 → isApp acc.req = true →
    tagOf s acc.req acc.world = true → s.sec.twDown = false → s.sec.twUp = false ∨ s.now < s.sec.twKick + ms 50 →
    ∃ t, exec (.twKick acc value) s = .next t ∧ WriteTaken acc 0x19000020 s t ∧ t.sec = { s.sec with twUp := true, twKick := s.now } ∧
      odGet t (odKey 0x3500 6) = 1 ∧ RegsOnly [countReg 0x19000020] s t ∧ OdOnly [odKey 0x3500 6] s t ∧ Frame [.regs, .od, .sec] s t) ∧
  (∀ s : State, blocksOn s = true → s.sdg.clkStopped = false → trustedUp s = true →
    ∃ t, exec .trustedWdg s = .next t ∧ TimeAt (s.sec.twKick + ms 50) s t ∧ t.sec.twUp = false ∧ t.sec.twDown = true ∧ AlarmTaken 0x81 s t ∧
      odGet t (odKey 0x3500 6) = 2 ∧
      (∀ m, m < 16 → bit s.sec.mboxBusy m = true → bit t.sec.mboxBusy m = false ∧ tabGet (fun _ => 0) t.sec.mboxStat m = 0x0F) ∧
      (∀ c, c < 12 → (getApp s c).released = true → (getApp s c).world = true → .machineInterrupt c ∈ t.out) ∧
      OdOnly (odKey 0x3500 6 :: alarmKeys) s t ∧ Frame (.now :: .gtime :: .sec :: alarmParts) s t)

/-- Knots and wait slots. A signal above the counter raises it and completes every slot whose threshold it reaches, any other sets BACKWARD.
An armed slot waits unless its knot is not open, its threshold is reached, or its limit is 0; at its limit it completes with TIMEOUT, or DONE. -/
def Obligations.KnotsSignalAndWait : Prop :=
  (∀ (k : Fin 4096) (acc : Access) (value : Word) (a : Nat) (s : State), a = 0x18420000 + 8 * k.val → Reaches acc a s → acc.addr ≠ a + 4 →
    knotValue s k.val < carried acc value →
    ∃ t, exec (.knotSignalWrite k acc value) s = .next t ∧ WriteTaken acc a s t ∧ knotValue t k.val = carried acc value ∧
      (∀ j, j ≠ k.val → knotValue t j = knotValue s j) ∧
      (∀ safety w, (getSlot safety s w).armed = true → (getSlot safety s w).knot = k.val →
        (getSlot safety s w).thresh ≤ carried acc value →
        getSlot safety t w = { getSlot safety s w with armed := false, until' := none, status := 0 }) ∧
      (tabWf (fun _ => {}) s.slots = true → tabWf (fun _ => {}) s.safeSlots = true → ∀ safety w,
        (getSlot safety s w).armed = false ∨ (getSlot safety s w).knot ≠ k.val ∨ carried acc value < (getSlot safety s w).thresh →
        getSlot safety t w = getSlot safety s w) ∧
      Frame [.regs, .knots, .slots, .safeSlots] s t) ∧
  (∀ (k : Fin 4096) (acc : Access) (value : Word) (a : Nat) (s : State), a = 0x18420000 + 8 * k.val → Reaches acc a s → acc.addr ≠ a + 4 →
    carried acc value ≤ knotValue s k.val →
    ∃ t, exec (.knotSignalWrite k acc value) s = .next t ∧ WriteTaken acc a s t ∧ bit (regRaw t 0x18400020) 0 = true ∧
      RegsOnly [0x18400020, countReg a] s t ∧ Frame [.regs] s t) ∧
  (∀ (safety : Bool) (w : Fin 1024) (acc : Access) (value : Word) (b knot lim : Nat) (x : WaitSlot) (s : State),
    b = (if safety then 0x18450000 else 0x18440000) + 0x20 * w.val → Reaches acc (b + 0x14) s → carried acc value % 2 = 1 →
    (getSlot safety s w.val).armed = false → knot = regRaw s b → lim = regRaw s (b + 0x10) →
    x = { getSlot safety s w.val with knot := knot, thresh := regRaw s (b + 8) } →
    ∃ t, exec (.waitArm safety w acc value) s = .next t ∧ WriteTaken acc (b + 0x14) s t ∧
      (armOpen safety s acc knot = false → getSlot safety t w.val = { x with armed := false, until' := none, status := 3 }) ∧
      (armOpen safety s acc knot = true → x.thresh ≤ knotValue s knot →
        getSlot safety t w.val = { x with armed := false, until' := none, status := 0 }) ∧
      (armOpen safety s acc knot = true → knotValue s knot < x.thresh → lim = 0 →
        getSlot safety t w.val = { x with armed := false, until' := none, status := 0x0A } ∧
        odGet t (odKey 0x3500 7) = satAdd (odGet s (odKey 0x3500 7)) 1 (odCap (odKey 0x3500 7))) ∧
      (armOpen safety s acc knot = true → knotValue s knot < x.thresh → lim ≠ 0 → getSlot safety t w.val =
          { x with armed := true, until' := if lim = 0xFFFFFFFF then none else some (s.now + us lim) } ∧
        RegsOnly [countReg (b + 0x14)] s t ∧ t.od = s.od) ∧
      (∀ y v, y ≠ safety ∨ v ≠ w.val → getSlot y t v = getSlot y s v) ∧ t.knots = s.knots ∧
      OdOnly [odKey 0x3500 7] s t ∧ Frame [.regs, .od, .slots, .safeSlots] s t) ∧
  (∀ (safety : Bool) (w : Fin 1024) (u : Nat) (x : WaitSlot) (s : State), blocksOn s = true → x = getSlot safety s w.val → x.armed = true →
    x.until' = some u →
    ∃ t, exec (.waitSlotTimeout safety w) s = .next t ∧ TimeAt u s t ∧
      getSlot safety t w.val = { x with armed := false, until' := none, status := if x.thresh ≤ knotValue s x.knot then 0 else 0x0A } ∧
      odGet t (odKey 0x3500 7) = (if x.thresh ≤ knotValue s x.knot then odGet s (odKey 0x3500 7)
        else satAdd (odGet s (odKey 0x3500 7)) 1 (odCap (odKey 0x3500 7))) ∧
      (∀ y v, y ≠ safety ∨ v ≠ w.val → getSlot y t v = getSlot y s v) ∧
      RegsOnly (if safety then [safeRouteAddr (32 + w.val)] else msgRegs (1872 + w.val)) s t ∧
      OdOnly [odKey 0x3500 7] s t ∧ Frame [.now, .gtime, .regs, .od, .slots, .safeSlots] s t)

/-! ### Ethernet and time (chapter 16) -/

/-- Frames through the switch. A frame too long for the port, or for its stream, is dropped and counted; one without a rule is dropped and
counted, and the first drop since the last read sends a message; one that a rule forwards joins the egress queue of its PCP; the queue that
may transmit sends its oldest frame, with its qualifier and CRC forced; a doorbell of an internal port takes every frame up to TAIL; a
recovery function without a frame for its time takes any sequence number again. -/
def Obligations.SwitchForwardsFrames : Prop :=
  (∀ (p : Fin 10) (f : EthFrame) (s : State), p.val < 8 → portUp s p.val = true → 9216 < ethLen f →
    ∃ t, exec (.ethFrameRx p f) s = .next t ∧
      regRaw t (0x16000020 + 4 * p.val) = satAdd (regRaw s (0x16000020 + 4 * p.val)) 1 0xFFFF % 2 ^ 64 ∧ t.out = s.out ∧
      RegsOnly [0x16000020 + 4 * p.val] s t ∧ Frame [.regs] s t) ∧
  (∀ (p : Fin 10) (f : EthFrame) (i : Nat) (s : State), p.val < 8 → portUp s p.val = true → ethLen f ≤ 9216 → streamOf s p.val f = some i →
    streamField s i 10 2 ≠ 0 → streamField s i 10 2 < f.payload.length →
    ∃ t, exec (.ethFrameRx p f) s = .next t ∧
      regRaw t (0x16002000 + 4 * i) = satAdd (regRaw s (0x16002000 + 4 * i)) 1 0xFFFFFFFF % 2 ^ 64 ∧ t.out = s.out ∧
      RegsOnly [0x16002000 + 4 * i] s t ∧ Frame [.regs] s t) ∧
  (∀ (p : Fin 10) (f : EthFrame) (s : State), p.val < 8 → portUp s p.val = true → ethLen f ≤ 9216 → streamOf s p.val f = none →
    tetherTerminates s p.val f = false → ruleLookup s p.val true f.etype (avtpStream f) = none →
    ∃ t, exec (.ethFrameRx p f) s = .next t ∧
      odGet t (odKey 0x2F00 2) = satAdd (odGet s (odKey 0x2F00 2)) 1 (odCap (odKey 0x2F00 2)) ∧
      t.net = { s.net with dropSent := true } ∧ (s.net.dropSent = true → t.out = s.out ∧ t.regs = s.regs) ∧
      RegsOnly (msgRegs 1721) s t ∧ OdOnly [odKey 0x2F00 2] s t ∧ Frame [.regs, .od, .net] s t) ∧
  (∀ (p : Fin 10) (f : EthFrame) (r : Rule) (q : Nat) (s : State), p.val < 8 → portUp s p.val = true → ethLen f ≤ 9216 →
    streamOf s p.val f = none → tetherTerminates s p.val f = false → ruleLookup s p.val true f.etype (avtpStream f) = some r → r.meter = 0 →
    r.action = 1 → ruleShort r f.payload.length = false → q < 10 → q ≠ p.val → bits r.egress 9 0 = 2 ^ q → portUp s q = true →
    egressUse s q + ethLen f ≤ egressRoom →
    ∃ t, exec (.ethFrameRx p f) s = .next t ∧
      egressQueue t q (ethPcp f % 8) = egressQueue s q (ethPcp f % 8) ++
        [{ frame := f, force := ruleForce r 0 f.payload.length, rule := r.index, ingress := p.val, gtime := gnow s }] ∧
      (∀ a b, b < 8 → a ≠ q ∨ b ≠ ethPcp f % 8 → egressQueue t a b = egressQueue s a b) ∧ t.net = { s.net with queues := t.net.queues } ∧
      odGet t (odKey 0x2F00 1) = satAdd (odGet s (odKey 0x2F00 1)) 1 (odCap (odKey 0x2F00 1)) ∧ t.out = s.out ∧
      OdOnly [odKey 0x2F00 1] s t ∧ Frame [.od, .net] s t) ∧
  (∀ (p : Fin 10) (q : Nat) (o : EthOut) (l : List Byte) (s u : State), p.val < 8 → portUp s p.val = true → egressPick s p.val = some (q, o) →
    o.tether = none → forcePayload o.force o.frame.payload s = (u, l) →
    ∃ t, exec (.egressTransmit p) s = .next t ∧ Sends [.ethFrame p.val { o.frame with payload := l }] s t ∧
      egressQueue t p.val q = (egressQueue s p.val q).drop 1 ∧
      (∀ a b, b < 8 → a ≠ p.val ∨ b ≠ q → egressQueue t a b = egressQueue s a b) ∧ t.net = { s.net with queues := t.net.queues } ∧
      OdOnly [odKey 0x2F00 5] s t ∧ Frame [.od, .net] s t) ∧
  (∀ (port : Fin 2) (ring : Fin 4) (acc : Access) (tail b : Nat) (s : State), b = portRing (8 + port.val) ring.val →
    Reaches acc (b + 0x0C) s → tail < 65536 → port.val = 0 ∨ isSafety acc.req = true → ringDoorOk s b tail = true →
    ∃ t, exec (.internalTxDoorbell port ring acc tail) s = .next t ∧ t.out.head? = some (.writeOk acc.req (b + 0x0C)) ∧ ringTail t b = tail ∧
      (portUp s (8 + port.val) = true → ringHead t b = tail) ∧
      (portUp s (8 + port.val) = false → WriteTaken acc (b + 0x0C) s t ∧ RegsOnly [b + 0x0C, countReg (b + 0x0C)] s t) ∧
      Frame ([.free, .mem, .memCtl, .sec, .net, .can] ++ alarmParts) s t) ∧
  (∀ (port : Fin 2) (ring : Fin 4) (acc : Access) (tail b : Nat) (s : State), b = portRing (8 + port.val) ring.val →
    Reaches acc (b + 0x0C) s → tail < 65536 → port.val = 0 ∨ isSafety acc.req = true → ringDoorOk s b tail = false →
    ∃ t, exec (.internalTxDoorbell port ring acc tail) s = .next t ∧ WriteTaken acc (b + 0x0C) s t ∧ bit (regRaw t (b + 0x14)) 9 = true ∧
      RegsOnly [b + 0x14, countReg (b + 0x0C)] s t ∧ Frame [.regs] s t) ∧
  (∀ (i : Fin 512) (c : CbRec) (s : State), isUp s = true → c = tabGet (fun _ => {}) s.net.cbRec i.val → c.takeAny = false →
    streamField s i.val 20 1 = 1 →
    ∃ t, exec (.cbRecoveryReset i) s = .next t ∧ TimeAt (c.last + ms (streamField s i.val 22 2)) s t ∧
      tabGet (fun _ => {}) t.net.cbRec i.val = {} ∧
      (∀ j, j ≠ i.val → tabGet (fun _ => {}) t.net.cbRec j = tabGet (fun _ => {}) s.net.cbRec j) ∧
      t.net = { s.net with cbRec := t.net.cbRec } ∧ t.out = s.out ∧ Frame [.now, .gtime, .net] s t)

/-- gPTP and the links. A Sync on the slave port brings LOCKED or ACQUIRING and steps or slews GTIME, a step waiting while a capture is
pending; three intervals without one, or the loss of the slave port's link, are HOLDOVER and raise TIME_UNSYNC; 100 ms of it make time
unsynchronised; a grandmaster sends its Syncs on every gPTP port that runs. -/
def Obligations.TimeIsKeptAndLinksChange : Prop :=
  (∀ (p : Fin 10) (d : Int) (s : State), isUp s = true → ptpMode s = 2 → odUse s (odKey 0x2E00 3) = p.val → portUp s p.val = true →
    ∃ t, exec (.gptpSync p d) s = .next t ∧ t.net.lastSync = s.now ∧ t.net.offset = d ∧ t.net.first = false ∧ t.net.unsync = false ∧
      t.net.ptp = (if d.natAbs ≤ 1000 ∨ s.net.ptp = 2 then 2 else 1) ∧
      (s.net.first = true ∨ us (odGet s (odKey 0x2E00 5)) < d.natAbs → t.net.rate = s.net.rate ∧
        (s.frz.pending = none → t.gtime = ((s.gtime : Int) + d).toNat % 2 ^ 64 ∧ t.net.stepDue = s.net.stepDue ∧
          odGet t (odKey 0x2E00 8) = satAdd (odGet s (odKey 0x2E00 8)) 1 (odCap (odKey 0x2E00 8))) ∧
        (s.frz.pending.isSome = true → t.gtime = s.gtime ∧ t.net.stepDue = some (s.net.stepDue.getD 0 + d))) ∧
      (s.net.first = false → d.natAbs ≤ us (odGet s (odKey 0x2E00 5)) →
        t.gtime = s.gtime ∧ -200 ≤ t.net.rate ∧ t.net.rate ≤ 200 ∧ t.net.stepDue = s.net.stepDue) ∧
      RegsOnly (msgRegs 1720) s t ∧ OdOnly [odKey 0x2E00 6, odKey 0x2E00 8] s t ∧ Frame [.free, .regs, .od, .net, .gtime] s t) ∧
  (∀ s : State, isUp s = true → s.sdg.clkStopped = false → ptpMode s = 2 → s.net.ptp ≠ 3 → s.net.locked = true →
    ∃ t, exec .syncLoss s = .next t ∧ TimeAt (s.net.lastSync + 3 * syncInterval s) s t ∧
      t.net = { s.net with ptp := 3, holdAt := t.now, first := true } ∧ AlarmTaken 0x90 s t ∧ odGet t (odKey 0x2E00 6) = 3 ∧
      odGet t (odKey 0x2E00 7) = satAdd (odGet s (odKey 0x2E00 7)) 1 (odCap (odKey 0x2E00 7)) ∧
      OdOnly ([odKey 0x2E00 6, odKey 0x2E00 7] ++ alarmKeys) s t ∧ Frame (.now :: .gtime :: .net :: alarmParts) s t) ∧
  (∀ s : State, isUp s = true → s.net.ptp = 3 →
    ∃ t, exec .holdover100ms s = .next t ∧ TimeAt (s.net.holdAt + ms 100) s t ∧ t.net = { s.net with unsync := true } ∧ t.out = s.out ∧
      Frame [.now, .gtime, .net] s t) ∧
  (∀ s : State, isUp s = true → ptpMode s = 1 →
    ∃ t, exec .grandmasterSync s = .next t ∧ TimeAt (s.net.lastSync + syncInterval s) s t ∧ t.net = { s.net with lastSync := t.now } ∧
      (∀ p, p < 8 → bit (odUse s (odKey 0x2E00 2)) p = true → portUp s p = true → .gptpSync p (gnow t) ∈ t.out) ∧
      Frame [.now, .gtime, .net] s t) ∧
  (∀ (p : Fin 10) (s : State), p.val < 8 → bit s.net.link p.val = true →
    ∃ t, exec (.portLinkDown p) s = .next t ∧ bit t.net.link p.val = false ∧ (∀ j, j ≠ p.val → bit t.net.link j = bit s.net.link j) ∧
      t.net.queues = s.net.queues ∧ Frame ([.mem, .memCtl, .sec, .net] ++ alarmParts) s t) ∧
  (∀ (p : Fin 10) (s : State), p.val < 8 → bit s.net.link p.val = true → isUp s = true → s.sdg.clkStopped = false →
    odUse s (odKey 0x2E00 3) = p.val → ptpMode s = 2 → s.net.locked = true → s.net.ptp ≠ 3 →
    ∃ t, exec (.portLinkDown p) s = .next t ∧ t.net.ptp = 3 ∧ t.net.holdAt = s.now ∧ AlarmTaken 0x90 s t) ∧
  (∀ (p : Fin 10) (s : State), p.val < 8 → bit s.net.link p.val = false →
    ∃ t, exec (.portLinkUp p) s = .next t ∧ t.net = { s.net with link := s.net.link ||| 2 ^ p.val } ∧
      Frame [.regs, .mem, .memCtl, .sec, .net] s t)

/-! ### CAN (chapter 16) -/

/-- CAN frames in and out. A received frame goes to its RX ring, or is counted there as dropped, or to the controllers that its rule
names; a doorbell moves TAIL and reads the head entry of an idle ring; the offer with the lowest identifier is sent; a frame that was sent
completes its entry, or leaves the gateway queue; bus-off empties the queue, is counted and raises its alarm; recovery begins anew. -/
def Obligations.CanControllersCarryFrames : Prop :=
  (∀ (c : Fin 12) (f : CanFrame) (b a : Nat) (s : State), isUp s = true → canRunning s c.val = true → f.fdf = false ∨ canMode s c.val ≠ 1 →
    tpTakes s c.val f = false → ruleLookup s (0x10 + c.val) false (canId f) none = none → f.data.length ≤ 64 →
    b = canRing c.val 0 → a = ringSlot s b 128 (ringTail s b) → ringRoom s b = true → memoryOpen s 0x32 false true a 128 = true →
    ∃ t, exec (.canFrameRx c f) s = .next t ∧
      memBytes t a 64 = canHeader f (0x10 + c.val) (gnow s) (ringPhase s b (ringTail s b)) ∧ memBytes t (a + 64) 64 = padTo 64 f.data ∧
      (∀ x, x < a ∨ a + 128 ≤ x → memByte t x = memByte s x) ∧ regRaw t (b + 0x0C) = (ringTail s b + 1) % 65536 ∧
      getCan t c.val = { getCan s c.val with rec' := (getCan s c.val).rec' - 1 } ∧ (∀ d, d ≠ c.val → getCan t d = getCan s d) ∧
      RegsOnly ((b + 0x0C) :: msgRegs (1700 + c.val)) s t ∧ Frame [.regs, .mem, .memCtl, .sec, .can] s t) ∧
  (∀ (c : Fin 12) (f : CanFrame) (s : State), isUp s = true → canRunning s c.val = true → f.fdf = false ∨ canMode s c.val ≠ 1 →
    tpTakes s c.val f = false → ruleLookup s (0x10 + c.val) false (canId f) none = none → ringRoom s (canRing c.val 0) = false →
    ∃ t, exec (.canFrameRx c f) s = .next t ∧
      bits (regRaw t (0x16801090 + 0x400 * c.val)) 31 16 = satAdd (bits (regRaw s (0x16801090 + 0x400 * c.val)) 31 16) 1 0xFFFF ∧
      t.out = s.out ∧ RegsOnly [0x16801090 + 0x400 * c.val] s t ∧ Frame [.regs, .can] s t) ∧
  (∀ (c : Fin 12) (f g : CanFrame) (r : Rule) (d : Nat) (s : State), isUp s = true → canRunning s c.val = true →
    f.fdf = false ∨ canMode s c.val ≠ 1 → tpTakes s c.val f = false → f.rtr = false → r.action = 1 → r.meter = 0 →
    ruleLookup s (0x10 + c.val) false (canId f) none = some r → d < 12 → d ≠ c.val → bits r.egress 27 16 = 2 ^ d → bits r.egress 9 0 = 0 →
    bit r.egress 31 = false → canFormFor (canMode s d) (bit r.flags 3) f = some g → canRunning s d = true → (getCan s d).gw.length < 64 →
    ∃ t, exec (.canFrameRx c f) s = .next t ∧
      getCan t d = { getCan s d with gw := (getCan s d).gw ++ [{ frame := g, force := ruleForce r 0 g.data.length }] } ∧
      getCan t c.val = { getCan s c.val with rec' := (getCan s c.val).rec' - 1 } ∧
      odGet t (odKey 0x2F00 1) = satAdd (odGet s (odKey 0x2F00 1)) 1 (odCap (odKey 0x2F00 1)) ∧ t.out = s.out ∧
      OdOnly [odKey 0x2F00 1] s t ∧ Frame [.od, .can] s t) ∧
  (∀ (c : Fin 12) (safety : Bool) (acc : Access) (tail b : Nat) (s : State), b = canRing c.val (if safety then 2 else 1) →
    Reaches acc (b + 0x0C) s → tail < 65536 → ringDoorOk s b tail = true →
    ∃ t, exec (.canTxDoorbell c safety acc tail) s = .next t ∧ t.out.head? = some (.writeOk acc.req (b + 0x0C)) ∧
      regRaw t (b + 0x0C) = tail ∧
      (canRunning s c.val = false → WriteTaken acc (b + 0x0C) s t ∧ RegsOnly [b + 0x0C, countReg (b + 0x0C)] s t) ∧
      (∀ f l u, isUp s = true → canRunning s c.val = true → safety = false → (getCan s c.val).gen = none → ringHead s b ≠ tail →
        memoryOpen s 0x32 false false (ringSlot s b 128 (ringHead s b)) 128 = true →
        readRange (ringSlot s b 128 (ringHead s b)) 128 (regPut (b + 0x0C) tail s) = (u, some l) → canEntry (canMode s c.val) l = some f →
        getCan t c.val = { getCan s c.val with gen := some { frame := f, entry := l } }) ∧
      Frame ([.free, .mem, .memCtl, .sec, .net, .can] ++ alarmParts) s t) ∧
  (∀ (c : Fin 12) (safety : Bool) (acc : Access) (tail b : Nat) (s : State), b = canRing c.val (if safety then 2 else 1) →
    Reaches acc (b + 0x0C) s → tail < 65536 → ringDoorOk s b tail = false →
    ∃ t, exec (.canTxDoorbell c safety acc tail) s = .next t ∧ WriteTaken acc (b + 0x0C) s t ∧ bit (regRaw t (b + 0x14)) 9 = true ∧
      RegsOnly [b + 0x14, countReg (b + 0x0C)] s t ∧ Frame [.regs] s t) ∧
  (∀ (c : Fin 12) (src : Nat) (o : CanOut) (d : List Byte) (s u : State), isUp s = true → canRunning s c.val = true →
    (ssCtrl s = c.val → s.sdg.ssFlight = none ∧ s.sdg.ssBound = none) → canBest (canOffers (getCan s c.val)) = some (src, o) →
    forcePayload o.force o.frame.data s = (u, d) →
    ∃ t, exec (.canTransmitStart c) s = .next t ∧ Sends [.canStart c.val { o.frame with data := d }] s t ∧
      getCan t c.val = { getCan s c.val with flight := some (src, { o.frame with data := d }) } ∧
      (∀ j, j ≠ c.val → getCan t j = getCan s j) ∧ OdOnly [odKey 0x2F00 5] s t ∧ Frame [.od, .can] s t) ∧
  (∀ (c : Fin 12) (f : CanFrame) (s : State), isUp s = true → canRunning s c.val = true → (getCan s c.val).flight = some (3, f) →
    (ssCtrl s = c.val → s.sdg.ssBound = none) →
    ∃ t, exec (.canTxDone c) s = .next t ∧
      getCan t c.val = { getCan s c.val with flight := none, tec := (getCan s c.val).tec - 1, gw := (getCan s c.val).gw.drop 1 } ∧
      (∀ j, j ≠ c.val → getCan t j = getCan s j) ∧ t.out = s.out ∧ Frame [.can] s t) ∧
  (∀ (c : Fin 12) (f : CanFrame) (o : CanOut) (b a : Nat) (s : State), isUp s = true → canRunning s c.val = true →
    (getCan s c.val).flight = some (2, f) → (ssCtrl s = c.val → s.sdg.ssBound = none) → (getCan s c.val).gen = some o → o.entry.length = 128 →
    b = canRing c.val 1 → (ringHead s b + 1) % 65536 = ringTail s b → a = ringSlot s b 128 (ringHead s b) →
    memoryOpen s 0x32 false true a 64 = true →
    ∃ t, exec (.canTxDone c) s = .next t ∧
      getCan t c.val = { getCan s c.val with flight := none, tec := (getCan s c.val).tec - 1, gen := none } ∧
      regRaw t (b + 0x10) = ringTail s b ∧
      memBytes t a 64 = [0] ++ slice o.entry 1 7 ++ leBytes 8 (gnow s) ++ slice o.entry 16 47 ++ leBytes 1 (ringPhase s b (ringHead s b)) ∧
      (∀ x, x < a ∨ a + 64 ≤ x → memByte t x = memByte s x) ∧ (∀ j, j ≠ c.val → getCan t j = getCan s j) ∧
      RegsOnly ((b + 0x10) :: msgRegs (1700 + c.val)) s t ∧ Frame [.regs, .mem, .memCtl, .sec, .can] s t) ∧
  (∀ (c : Fin 12) (s : State), isUp s = true → s.sdg.clkStopped = false → canRunning s c.val = true →
    ∃ t, exec (.busOff c) s = .next t ∧
      getCan t c.val = { getCan s c.val with
        gw := [], flight := none, tec := 256, state := if odGet s (canKey c.val 7) = 1 then 4 else 3 } ∧
      (∀ j, j ≠ c.val → getCan t j = getCan s j) ∧ odGet t (canKey c.val 9) = (if odGet s (canKey c.val 7) = 1 then 4 else 3) ∧
      odGet t (canKey c.val 0x0A) = satAdd (odGet s (canKey c.val 0x0A)) 1 (odCap (canKey c.val 0x0A)) ∧
      AlarmTaken (if ssCtrl s = c.val then 0xA1 else 0x96) s t ∧
      OdOnly ([canKey c.val 9, canKey c.val 0x0A, odKey 0x2F00 4] ++ alarmKeys) s t ∧ Frame (.can :: .net :: alarmParts) s t) ∧
  (∀ (c : Fin 12) (s : State), isUp s = true → (getCan s c.val).state = 4 →
    ∃ t, exec (.busOffRecovered c) s = .next t ∧ (getCan t c.val).state = 1 ∧ (getCan t c.val).tec = 0 ∧ (getCan t c.val).rec' = 0 ∧
      (getCan t c.val).gw = (getCan s c.val).gw ∧ odGet t (canKey c.val 9) = 1 ∧
      Frame ([.free, .mem, .memCtl, .sec, .net, .can] ++ alarmParts) s t)

/-- The transport assist. An RTS that it takes opens a session in the lowest free slot and is answered with a CTS, a BAM opens one without;
a data packet in sequence is kept, the last one of a BAM is written to its slot with a record; one out of sequence and a timeout end the
session and free its slot. -/
def Obligations.TransportAssistReassembles : Prop :=
  (∀ (c : Fin 12) (f : CanFrame) (i k n sz most : Nat) (s : State), isUp s = true → canRunning s c.val = true → tpTakes s c.val f = true →
    tpPf f = 0xEC → leAt f.data 0 1 = 16 → ruleLookup s (0x10 + c.val) false (canId f) none = none → f.fdf = false →
    tpFind s c.val (tpSa f) (tpDa f) [0] = none →
    (List.range 8).find? (fun j => (tabGet (fun _ => none) (getCan s c.val).sessions j).isNone) = some i → tpFreeSlot s c.val = some k →
    (getCan s c.val).gw.length < 64 → sz = leAt f.data 1 2 → most = leAt f.data 4 1 →
    n = min (tpPackets sz) (min (odGet s (canKey c.val 0x0C)) most) →
    ∃ t, exec (.tpCmRts c f) s = .next t ∧
      tabGet (fun _ => none) (getCan t c.val).sessions i = some
        { kind := 0, sa := tpSa f, da := tpDa f, pgn := leAt f.data 5 3, size := sz, slot := k, most := most, upTo := n,
          until' := s.now + ms 1250 } ∧
      (∀ j, j ≠ i → tabGet (fun _ => none) (getCan t c.val).sessions j = tabGet (fun _ => none) (getCan s c.val).sessions j) ∧
      (getCan t c.val).tpBusy = (getCan s c.val).tpBusy ||| 2 ^ k ∧
      (getCan t c.val).gw = (getCan s c.val).gw ++
        [{ frame := tpFrame 0xEC (tpSa f) (tpDa f) ([0x11, BitVec.ofNat 8 n, 1, 0xFF, 0xFF] ++ leBytes 3 (leAt f.data 5 3)) }] ∧
      (∀ j, j ≠ c.val → getCan t j = getCan s j) ∧ t.out = s.out ∧ Frame [.can] s t) ∧
  (∀ (c : Fin 12) (f : CanFrame) (i k : Nat) (s : State), isUp s = true → canRunning s c.val = true → tpTakes s c.val f = true →
    tpPf f = 0xEC → leAt f.data 0 1 = 32 → ruleLookup s (0x10 + c.val) false (canId f) none = none → f.fdf = false →
    tpFind s c.val (tpSa f) (tpDa f) [1] = none →
    (List.range 8).find? (fun j => (tabGet (fun _ => none) (getCan s c.val).sessions j).isNone) = some i → tpFreeSlot s c.val = some k →
    ∃ t, exec (.tpCmBam c f) s = .next t ∧
      tabGet (fun _ => none) (getCan t c.val).sessions i = some
        { kind := 1, sa := tpSa f, da := tpDa f, pgn := leAt f.data 5 3, size := leAt f.data 1 2, slot := k, most := 0,
          until' := s.now + ms 750 } ∧
      (∀ j, j ≠ i → tabGet (fun _ => none) (getCan t c.val).sessions j = tabGet (fun _ => none) (getCan s c.val).sessions j) ∧
      (getCan t c.val).tpBusy = (getCan s c.val).tpBusy ||| 2 ^ k ∧ (getCan t c.val).gw = (getCan s c.val).gw ∧
      (∀ j, j ≠ c.val → getCan t j = getCan s j) ∧ t.out = s.out ∧ Frame [.can] s t) ∧
  (∀ (c : Fin 12) (f : CanFrame) (i : Nat) (x : TpSession) (s : State), isUp s = true → canRunning s c.val = true →
    tpTakes s c.val f = true → tpPf f = 0xEB → ruleLookup s (0x10 + c.val) false (canId f) none = none → f.fdf = false →
    tpFind s c.val (tpSa f) (tpDa f) [0, 1] = some (i, x) → x.offset + leAt f.data 0 1 = x.next → x.next < tpPackets x.size →
    x.kind = 1 ∨ x.next < x.upTo →
    ∃ t, exec (.tpDt c f) s = .next t ∧
      tabGet (fun _ => none) (getCan t c.val).sessions i = some { x with
        data := x.data ++ f.data.drop 1, next := x.next + 1, gtime := gnow s, until' := s.now + ms 750 } ∧
      (∀ j, j ≠ i → tabGet (fun _ => none) (getCan t c.val).sessions j = tabGet (fun _ => none) (getCan s c.val).sessions j) ∧
      (getCan t c.val).gw = (getCan s c.val).gw ∧ (∀ j, j ≠ c.val → getCan t j = getCan s j) ∧ t.out = s.out ∧ Frame [.can] s t) ∧
  (∀ (c : Fin 12) (f : CanFrame) (i a b r : Nat) (x : TpSession) (s : State), isUp s = true → canRunning s c.val = true →
    tpTakes s c.val f = true → tpPf f = 0xEB → ruleLookup s (0x10 + c.val) false (canId f) none = none → f.fdf = false →
    tpFind s c.val (tpSa f) (tpDa f) [0, 1] = some (i, x) → x.kind = 1 → x.offset + leAt f.data 0 1 = x.next → tpPackets x.size ≤ x.next →
    a = regRaw s (0x168010C0 + 0x400 * c.val) + x.slot * 65536 → memoryOpen s 0x32 false true a (up64 x.size) = true →
    b = canRing c.val 3 → r = ringSlot s b 128 (ringTail s b) → ringRoom s b = true → memoryOpen s 0x32 false true r 64 = true →
    r + 64 ≤ a ∨ a + up64 x.size ≤ r →
    ∃ t, exec (.tpDt c f) s = .next t ∧ tabGet (fun _ => none) (getCan t c.val).sessions i = none ∧
      memBytes t a (up64 x.size) = padTo (up64 x.size) ((x.data ++ f.data.drop 1).take x.size) ∧
      memBytes t r 64 = [0, 1, BitVec.ofNat 8 x.sa, BitVec.ofNat 8 x.da] ++ leBytes 4 x.pgn ++ leBytes 4 x.size ++ leBytes 2 x.slot ++
        zeros 2 ++ leBytes 8 (gnow s) ++ zeros 39 ++ leBytes 1 (ringPhase s b (ringTail s b)) ∧
      regRaw t (b + 0x0C) = (ringTail s b + 1) % 65536 ∧ (getCan t c.val).tpBusy = (getCan s c.val).tpBusy ∧
      (∀ j, j ≠ c.val → getCan t j = getCan s j) ∧ RegsOnly ((b + 0x0C) :: msgRegs (1700 + c.val)) s t ∧
      Frame [.regs, .mem, .memCtl, .sec, .can] s t) ∧
  (∀ (c : Fin 12) (f : CanFrame) (i : Nat) (x : TpSession) (s : State), isUp s = true → canRunning s c.val = true →
    tpTakes s c.val f = true → tpPf f = 0xEB → ruleLookup s (0x10 + c.val) false (canId f) none = none → f.fdf = false →
    tpFind s c.val (tpSa f) (tpDa f) [0, 1] = some (i, x) → x.offset + leAt f.data 0 1 ≠ x.next →
    ∃ t, exec (.tpDt c f) s = .next t ∧ tabGet (fun _ => none) (getCan t c.val).sessions i = none ∧
      bit (getCan t c.val).tpBusy x.slot = false ∧ (∀ j, j ≠ c.val → getCan t j = getCan s j) ∧
      Frame [.regs, .od, .mem, .memCtl, .sec, .net, .can] s t) ∧
  (∀ (c : Fin 12) (i : Fin 8) (x : TpSession) (s : State), isUp s = true → tabGet (fun _ => none) (getCan s c.val).sessions i.val = some x →
    ∃ t, exec (.tpTimeout c i) s = .next t ∧ TimeAt x.until' s t ∧ tabGet (fun _ => none) (getCan t c.val).sessions i.val = none ∧
      bit (getCan t c.val).tpBusy x.slot = false ∧ (∀ j, j ≠ c.val → getCan t j = getCan s j) ∧
      (x.kind ≠ 1 → canRunning s c.val = true → (getCan s c.val).gw.length < 64 →
        (getCan t c.val).gw = (getCan s c.val).gw ++
          [{ frame := tpFrame (tpCm x.kind) x.sa x.da ([0xFF, 3, 0xFF, 0xFF, 0xFF] ++ leBytes 3 x.pgn) }]) ∧
      (x.kind = 1 → (getCan t c.val).gw = (getCan s c.val).gw) ∧
      Frame [.now, .gtime, .regs, .od, .mem, .memCtl, .sec, .net, .can] s t) ∧
  (∀ (c : Fin 12) (acc : Access) (value : Word) (a : Nat) (s : State), a = 0x168010CC + 0x400 * c.val → Reaches acc a s →
    bits (carried acc value) 15 0 < 16 →
    ∃ t, exec (.tpRelease c acc value) s = .next t ∧ WriteTaken acc a s t ∧
      getCan t c.val = { getCan s c.val with tpBusy := clearMask (getCan s c.val).tpBusy (2 ^ bits (carried acc value) 15 0) } ∧
      (∀ j, j ≠ c.val → getCan t j = getCan s j) ∧ RegsOnly [countReg a] s t ∧ Frame [.regs, .can] s t)

/-! ### Tether (chapter 17) -/

/-- Requests of a peer. A frame that R726 rejects is only counted; a request to no ACTIVE connection of its peer gets NAK CONN_INVALID, once
per ms and handle; a WRITE in order is placed in its region, a READ answered from it, a FLUSH answered by FLUSH_ACK, a WRITE_IMM notified; a
tag that does not admit the access gets ACCESS_DENIED, a request ahead of ePSN NAK SEQUENCE once, one behind it an ACK. -/
def Obligations.TetherServesRequests : Prop :=
  (∀ (f : TetherFrame) (op : Nat) (i : Instr) (s : State),
    (i, op) ∈ [(.tetherRxWrite f false, 1), (.tetherRxWriteImm f, 2), (.tetherRxRead f, 3), (.tetherRxReadResp f, 4), (.tetherRxFlush f, 5),
               (.tetherRxFlushAck f, 6), (.tetherRxAck f, 7), (.tetherRxNak f, 8)] →
    tetherOn s = true → f.port < 2 → portUp s f.port = true → f.version ≠ 1 →
    ∃ t, exec i s = .next t ∧ odGet t (odKey 0x3100 9) = satAdd (odGet s (odKey 0x3100 9)) 1 (odCap (odKey 0x3100 9)) ∧ t.out = s.out ∧
      OdOnly [odKey 0x3100 9] s t ∧ Frame [.od] s t) ∧
  (∀ (f : TetherFrame) (op : Nat) (i : Instr) (x : THead) (s u : State),
    (i, op) ∈ [(.tetherRxWrite f false, 1), (.tetherRxWriteImm f, 2), (.tetherRxRead f, 3), (.tetherRxFlush f, 5)] →
    tetherOn s = true → f.port < 2 → portUp s f.port = true → tMalformed s { f with opcode := op } = false →
    f.connId < 4096 → u = cacheTouch f.connId s → (getConn s f.connId).state ≠ 1 ∨ (getConn s f.connId).mac ≠ f.srcMac →
    (∀ a, tabGet (fun _ => none) s.tether.invalid f.connId = some a → a + ms 1 ≤ s.now) → x = { opcode := 8, status := 0xD2, psn := f.psn } →
    TetherRoom { getConn s f.connId with port := f.port, mac := f.srcMac, tci := f.vlan, remote := freeValue s % 65536 } x [] s →
    ∃ t, exec i s = .next t ∧
      egressQueue t f.port (f.vlan / 8192 % 8) = egressQueue s f.port (f.vlan / 8192 % 8) ++
        [{ frame := tetherEth s { getConn s f.connId with port := f.port, mac := f.srcMac, tci := f.vlan, remote := freeValue s % 65536 } x [],
           tether := some (f.connId, none) }] ∧
      tabGet (fun _ => none) t.tether.invalid f.connId = some s.now ∧
      odGet t (odKey 0x3100 8) = satAdd (odGet s (odKey 0x3100 8)) 1 (odCap (odKey 0x3100 8)) ∧
      OdOnly [odKey 0x3100 8] u t ∧ Frame [.free, .regs, .od, .mem, .memCtl, .sec, .net, .tether] u t) ∧
  (∀ (f : TetherFrame) (op a : Nat) (i : Instr) (s : State),
    (i, op) ∈ [(.tetherRxWrite f false, 1), (.tetherRxWriteImm f, 2), (.tetherRxRead f, 3), (.tetherRxFlush f, 5)] →
    tetherOn s = true → f.port < 2 → portUp s f.port = true → tMalformed s { f with opcode := op } = false →
    f.connId < 4096 → (getConn s f.connId).state ≠ 1 → tabGet (fun _ => none) s.tether.invalid f.connId = some a → s.now < a + ms 1 →
    exec i s = .next (cacheTouch f.connId s)) ∧
  (∀ (f : TetherFrame) (a : Nat) (c : TConn) (s u : State), Delivered f s → f.opcode = 1 → c = getConn s f.connId → psnDist f.psn c.epsn = 0 →
    u = cacheTouch f.connId s → tagCheck u f.connId f true = some a → f.length ≠ 0 → bit f.flags 2 = false →
    ∃ t, exec (.tetherRxWrite f false) s = .next t ∧ t.mem = memWrite s.mem a f.payload ∧
      getConn t f.connId = { c with epsn := psnAdd c.epsn 1, nak := none, wrOff := if bit f.flags 0 then f.offset else c.wrOff,
                                    wrLen := if bit f.flags 0 then f.length else c.wrLen + f.length } ∧
      ConnOnly f.connId u t ∧ t.out = s.out ∧ Frame [.mem, .memCtl, .sec, .tether] u t) ∧
  (∀ (f : TetherFrame) (a : Nat) (c : TConn) (s u : State), Delivered f s → f.opcode = 1 → c = getConn s f.connId → psnDist f.psn c.epsn = 0 →
    u = cacheTouch f.connId s → tagCheck u f.connId f true = some a → f.length = 0 → bit f.flags 2 = true →
    TetherRoom { c with epsn := psnAdd c.epsn 1 } { opcode := 7 } [] u →
    ∃ t, exec (.tetherRxWrite f false) s = .next t ∧ TetherSent f.connId none { c with epsn := psnAdd c.epsn 1 } { opcode := 7 } [] u t ∧
      (getConn t f.connId).epsn = psnAdd c.epsn 1 ∧ ConnOnly f.connId u t ∧ t.out = s.out ∧ Frame [.net, .tether] u t) ∧
  (∀ (f : TetherFrame) (c : TConn) (x : THead) (s u : State), Delivered f s → f.opcode = 1 → c = getConn s f.connId → psnDist f.psn c.epsn = 0 →
    u = cacheTouch f.connId s → tagCheck u f.connId f true = none → x = { opcode := 8, status := 3, psn := f.psn } → TetherRoom c x [] u →
    ∃ t, exec (.tetherRxWrite f false) s = .next t ∧ TetherSent f.connId none c x [] u t ∧
      odGet t (odKey 0x3100 8) = satAdd (odGet u (odKey 0x3100 8)) 1 (odCap (odKey 0x3100 8)) ∧ t.tether = u.tether ∧
      OdOnly [odKey 0x3100 8] u t ∧ Frame [.regs, .od, .mem, .memCtl, .sec, .net] u t) ∧
  (∀ (f : TetherFrame) (c : TConn) (x : THead) (s u : State), Delivered f s → f.opcode = 1 → c = getConn s f.connId →
    psnDist f.psn c.epsn ≠ 0 → psnDist f.psn c.epsn < 2 ^ 23 → c.nak ≠ some c.epsn → u = cacheTouch f.connId s →
    x = { opcode := 8, status := 0xD0, psn := f.psn } → TetherRoom c x [] u →
    ∃ t, exec (.tetherRxWrite f false) s = .next t ∧ TetherSent f.connId none c x [] u t ∧
      getConn t f.connId = { c with nak := some c.epsn } ∧ ConnOnly f.connId u t ∧ t.out = s.out ∧ Frame [.net, .tether] u t) ∧
  (∀ (f : TetherFrame) (c : TConn) (s u : State), Delivered f s → f.opcode = 1 → c = getConn s f.connId → 2 ^ 23 ≤ psnDist f.psn c.epsn →
    u = cacheTouch f.connId s → TetherRoom c { opcode := 7 } [] u →
    ∃ t, exec (.tetherRxWrite f false) s = .next t ∧ TetherSent f.connId none c { opcode := 7 } [] u t ∧ t.tether = u.tether ∧
      t.out = s.out ∧ Frame [.net] u t) ∧
  (∀ (f : TetherFrame) (c : TConn) (s : State), tetherOn s = true → f.port < 2 → portUp s f.port = true → c = getConn s f.connId → c.state = 1 →
    s.tether.cache.contains f.connId = true → f.version ≠ 1 →
    ∃ t, exec (.tetherRxWrite f true) s = .next t ∧ (getConn t f.connId).state = 2 ∧ (getConn t f.connId).ops = [] ∧
      odGet t (odKey 0x3100 6) = satAdd (odGet s (odKey 0x3100 6)) 1 (odCap (odKey 0x3100 6)) ∧ (∀ j, j ≠ f.connId → getConn t j = getConn s j) ∧
      OdOnly [odKey 0x3100 6, odKey 0x3100 9] s t ∧ Frame [.regs, .od, .mem, .memCtl, .sec, .net, .tether] s t) ∧
  (∀ (f : TetherFrame) (a n : Nat) (c : TConn) (s u : State), Delivered f s → f.opcode = 2 → c = getConn s f.connId →
    psnDist f.psn c.epsn = 0 → u = cacheTouch f.connId s → tagCheck u f.connId f true = some a → f.length = 0 →
    bit f.flags 0 = true → bit f.flags 1 = true → bit f.flags 2 = false → rqRoom s c.rq = true → bit (regRaw s (rqReg c.rq 0x14)) 31 = false →
    n = regRaw s (rqReg c.rq 0x0C) →
    ∃ t, exec (.tetherRxWriteImm f) s = .next t ∧ (getConn t f.connId).epsn = psnAdd c.epsn 1 ∧
      (memBytes t (regRaw s (rqReg c.rq 0) + n % 2 ^ bits (regRaw s (rqReg c.rq 8)) 3 0 * 64) 24) =
        [0, 0] ++ leBytes 2 f.connId ++ leBytes 4 f.imm ++ leBytes 4 f.regionTag ++ leBytes 4 0 ++ leBytes 8 f.offset ∧
      regRaw t (rqReg c.rq 0x0C) = (n + 1) % 65536 ∧
      tabGet (fun _ => 0) t.tether.notes c.rq = tabGet (fun _ => 0) s.tether.notes c.rq + 1 ∧
      RegsOnly (rqReg c.rq 0x0C :: msgRegs (1508 + c.rq)) u t ∧ Frame [.regs, .mem, .memCtl, .sec, .tether] u t) ∧
  (∀ (f : TetherFrame) (c : TConn) (x : THead) (s u : State), Delivered f s → f.opcode = 2 → c = getConn s f.connId →
    psnDist f.psn c.epsn = 0 → u = cacheTouch f.connId s → bit f.flags 1 = true → rqRoom s c.rq = false →
    x = { opcode := 8, status := 0xD1, psn := f.psn } → TetherRoom c x [] u →
    ∃ t, exec (.tetherRxWriteImm f) s = .next t ∧ TetherSent f.connId none c x [] u t ∧ t.tether = u.tether ∧ t.out = s.out ∧ Frame [.net] u t) ∧
  (∀ (f : TetherFrame) (a : Nat) (l : List Byte) (c : TConn) (x : THead) (s u w : State), Delivered f s → f.opcode = 3 → c = getConn s f.connId →
    psnDist f.psn c.epsn = 0 → 0 < f.length → f.length ≤ mtuOf c → bit f.flags 2 = false → tagCheck (cacheTouch f.connId s) f.connId f false = some a →
    u = putConn f.connId { c with epsn := psnAdd c.epsn 1, nak := none } (cacheTouch f.connId s) → readRange a f.length u = (w, some l) →
    x = { opcode := 4, flags := 3, psn := f.psn % 2 ^ 24, tag := f.regionTag, offset := f.offset, len := f.length } → TetherRoom c x l w →
    ∃ t, exec (.tetherRxRead f) s = .next t ∧ TetherSent f.connId none { c with epsn := psnAdd c.epsn 1 } x l w t ∧ t.tether = u.tether ∧
      t.out = w.out ∧ Frame [.net] w t) ∧
  (∀ (f : TetherFrame) (c : TConn) (s u : State), Delivered f s → f.opcode = 5 → c = getConn s f.connId → psnDist f.psn c.epsn = 0 →
    c.flush.contains f.psn = false → bit f.flags 2 = false → u = cacheTouch f.connId s →
    ∃ t, exec (.tetherRxFlush f) s = .next t ∧
      getConn t f.connId = { c with epsn := psnAdd c.epsn 1, nak := none, flush := c.flush ++ [f.psn] } ∧ ConnOnly f.connId u t ∧
      t.out = s.out ∧ Frame [.tether] u t) ∧
  (∀ (conn : Fin 4096) (c : TConn) (p : Nat) (l : List Nat) (s : State), tetherOn s = true → c = getConn s conn.val → c.state = 1 →
    c.flush = p :: l → TetherRoom c { opcode := 6, psn := p } [] s →
    ∃ t, exec (.flushAck conn) s = .next t ∧ TetherSent conn.val none c { opcode := 6, psn := p } [] s t ∧
      getConn t conn.val = { c with flush := l } ∧ ConnOnly conn.val s t ∧ t.out = s.out ∧ Frame [.net, .tether] s t)

/-- Operations of the device. An entry that fails a check completes at once with its status and stops the queue; one that passes is sent as
frames while the window allows. Responses are placed in order, a FLUSH_ACK completes its FLUSH, an ACK releases what it acknowledges, a
NAK SEQUENCE and the retransmission timeout begin a go-back round, the eighth round or a fatal NAK ends the connection. -/
def Obligations.TetherRunsOperations : Prop :=
  (∀ (sq : Fin 64) (e : List Byte) (op st : Nat) (i : Instr) (s : State),
    (i, op) ∈ [(.tetherSqWrite sq, 1), (.tetherSqWriteImm sq, 2), (.tetherSqRead sq, 3), (.tetherSqFlush sq, 5)] → EntryNext sq.val e s →
    opCode e = op → entryStatus s e = some st → st < 256 → (getSq s sq.val).ops = [] →
    ∃ t, exec i s = .next t ∧
      (memBytes t (regRaw s (sqReg sq.val 8) + (getSq s sq.val).cqTail % 2 ^ bits (sqCfg s sq.val) 11 8 * 64) 8) =
        [BitVec.ofNat 8 st] ++ slice e 0 1 ++ slice e 2 2 ++ slice e 4 4 ∧
      (getSq t sq.val).state = 4 ∧ (getSq t sq.val).last = st ∧ (getSq t sq.val).ops = [] ∧
      (getSq t sq.val).sqHead = ((getSq s sq.val).sqHead + 1) % 65536 ∧ (getSq t sq.val).cqTail = ((getSq s sq.val).cqTail + 1) % 65536 ∧
      (∀ h, getConn t h = getConn s h) ∧ RegsOnly (msgRegs (1444 + sq.val)) s t ∧ Frame [.regs, .mem, .memCtl, .sec, .tether] s t) ∧
  (∀ (sq : Fin 64) (e l : List Byte) (op : Nat) (i : Instr) (c : TConn) (x : THead) (s v w : State),
    (i, op) ∈ [(.tetherSqWrite sq, 1), (.tetherSqWriteImm sq, 2)] → EntryNext sq.val e s → opCode e = op → entryStatus s e = none →
    ConnIdle e s → c = getConn s (leAt e 2 2) → opLen e ≤ mtuOf c → v = entryTaken sq.val e s →
    readRange (opLocal e) (opLen e) v = (w, some l) →
    x = { opcode := op, flags := 7, psn := c.high % 2 ^ 24, tag := leAt e 16 4, offset := leAt e 24 8, len := opLen e,
          imm := if op = 2 then leAt e 32 4 else 0 } →
    TetherRoom c x l w →
    ∃ t, exec i s = .next t ∧ TetherSent (leAt e 2 2) (some s.tether.nextId) c x l w t ∧
      (getConn t (leAt e 2 2)).psn = psnAdd c.high 1 ∧ (getConn t (leAt e 2 2)).high = psnAdd c.high 1 ∧
      getSq t sq.val = getSq v sq.val ∧ ConnOnly (leAt e 2 2) v t ∧ t.out = w.out ∧ Frame [.net, .tether] w t) ∧
  (∀ (sq : Fin 64) (e : List Byte) (op : Nat) (i : Instr) (c : TConn) (x : THead) (s v : State),
    (i, op) ∈ [(.tetherSqRead sq, 3), (.tetherSqFlush sq, 5)] → EntryNext sq.val e s → opCode e = op → entryStatus s e = none →
    ConnIdle e s → c = getConn s (leAt e 2 2) → opLen e ≤ mtuOf c → v = entryTaken sq.val e s →
    x = { opcode := op, flags := 7, psn := c.high % 2 ^ 24, tag := leAt e 16 4, offset := if op = 5 then 0 else leAt e 24 8, len := opLen e } →
    TetherRoom c x [] v →
    ∃ t, exec i s = .next t ∧ TetherSent (leAt e 2 2) none c x [] v t ∧
      (getConn t (leAt e 2 2)).psn = psnAdd c.high 1 ∧ (getConn t (leAt e 2 2)).high = psnAdd c.high 1 ∧
      getSq t sq.val = getSq v sq.val ∧ ConnOnly (leAt e 2 2) v t ∧ t.out = s.out ∧ Frame [.net, .tether] v t) ∧
  (∀ (sq : Fin 64) (acc : Access) (tail : Nat) (x : TSq) (s : State), Reaches acc (sqReg sq.val 0x14) s → tail < 65536 → x = getSq s sq.val →
    x.state ≠ 0 → dist16 tail x.sqHead ≤ 2 ^ bits (sqCfg s sq.val) 3 0 → dist16 x.tail x.sqHead ≤ dist16 tail x.sqHead →
    ∃ t, exec (.tetherSqDoorbell sq acc tail) s = .next t ∧ WriteTaken acc (sqReg sq.val 0x14) s t ∧
      getSq t sq.val = { x with tail := tail, state := if x.state = 1 ∧ tail ≠ x.sqHead then 2 else x.state } ∧
      (∀ q, q ≠ sq.val → getSq t q = getSq s q) ∧ RegsOnly [countReg (sqReg sq.val 0x14)] s t ∧ Frame [.regs, .tether] s t) ∧
  (∀ (sq : Fin 64) (acc : Access) (tail : Nat) (s : State), Reaches acc (sqReg sq.val 0x14) s → tail < 65536 →
    (getSq s sq.val).state = 0 ∨ 2 ^ bits (sqCfg s sq.val) 3 0 < dist16 tail (getSq s sq.val).sqHead →
    ∃ t, exec (.tetherSqDoorbell sq acc tail) s = .next t ∧ WriteTaken acc (sqReg sq.val 0x14) s t ∧
      bit (regRaw t (sqReg sq.val 0x28)) 9 = true ∧ RegsOnly [sqReg sq.val 0x28, countReg (sqReg sq.val 0x14)] s t ∧ Frame [.regs] s t) ∧
  (∀ (f : TetherFrame) (c : TConn) (o : TOp) (s u : State), Delivered f s → f.opcode = 4 → c = getConn s f.connId → c.ops = [o] →
    opCode o.entry = 3 → o.decided = false → o.sent = o.psns → o.got + 1 < o.psns → o.psns < 2 ^ 24 → f.psn = psnAdd o.first o.got →
    f.length = (opSpan (mtuOf c) o.entry o.got).2 → c.oldest = f.psn → c.psn = c.high → c.high = psnAdd o.first o.sent →
    u = cacheTouch f.connId s →
    ∃ t, exec (.tetherRxReadResp f) s = .next t ∧ t.mem = memWrite s.mem (opLocal o.entry + (opSpan (mtuOf c) o.entry o.got).1) f.payload ∧
      getConn t f.connId = { c with oldest := psnAdd f.psn 1, since := s.now, rounds := 0, ops := [{ o with got := o.got + 1 }] } ∧
      ConnOnly f.connId u t ∧ t.out = s.out ∧ Frame [.mem, .memCtl, .sec, .tether] u t) ∧
  (∀ (f : TetherFrame) (c : TConn) (o : TOp) (p : TPend) (s : State), Delivered f s → f.opcode = 6 → c = getConn s f.connId →
    c.ops.find? (fun y => decide (opCode y.entry = 5 ∧ 0 < y.sent ∧ y.first = f.psn) && !y.decided) = some o → c.ops = [o] → o.sent = 1 →
    c.psn = c.high → c.high = psnAdd f.psn 1 → c.oldest = f.psn → f.psn < 2 ^ 24 →
    (getSq s o.sq).ops = [p] → p.id = o.id → p.status = none → (getSq s o.sq).state = 2 → sqFull s o.sq = false →
    ∃ t, exec (.tetherRxFlushAck f) s = .next t ∧ (getSq t o.sq).ops = [] ∧ (getSq t o.sq).last = 0 ∧
      (getSq t o.sq).cqTail = ((getSq s o.sq).cqTail + 1) % 65536 ∧ (getConn t f.connId).ops = [] ∧
      (getConn t f.connId).oldest = psnAdd f.psn 1 ∧ OdOnly [odKey 0x3100 7] s t ∧
      Frame [.regs, .od, .mem, .memCtl, .sec, .tether] s t) ∧
  (∀ (f : TetherFrame) (c : TConn) (s u : State), tetherOn s = true → f.opcode = 7 → f.port < 2 → portUp s f.port = true →
    tMalformed s f = false → f.connId < 4096 → c = getConn s f.connId → c.state = 1 → c.mac = f.srcMac → u = cacheTouch f.connId s →
    ackLimit c = c.high → c.psn = c.high → psnAdd f.ackPsn 1 = c.high → 0 < psnDist c.high c.oldest → c.high < 2 ^ 24 →
    (∀ o ∈ c.ops, o.decided = true ∧ o.sent = o.psns ∧ psnDist c.high o.first = o.sent) →
    ∃ t, exec (.tetherRxAck f) s = .next t ∧ getConn t f.connId = { c with oldest := c.high, since := s.now, rounds := 0, ops := [] } ∧
      ConnOnly f.connId u t ∧ t.out = s.out ∧ Frame [.tether] u t) ∧
  (∀ (f : TetherFrame) (c : TConn) (s u : State), Delivered f s → f.opcode = 8 → c = getConn s f.connId → f.status = 0xD0 → c.rounds < 7 →
    psnDist (psnAdd f.ackPsn 1) c.oldest < psnDist c.high c.oldest → u = cacheTouch f.connId s →
    ∃ t, exec (.tetherRxNak f) s = .next t ∧ t = pump f.connId (odCount (odKey 0x3100 5) 1
      (putConn f.connId { c with psn := psnAdd f.ackPsn 1, since := s.now, rounds := c.rounds + 1 } u)) ∧
      Frame [.dev, .free, .regs, .od, .mem, .memCtl, .pwr, .start, .sdg, .frz, .sec, .pack, .net, .tether] s t) ∧
  (∀ (f : TetherFrame) (s u : State), Delivered f s → f.opcode = 8 → f.status ≠ 0xD0 → f.status ≠ 0xD1 → u = cacheTouch f.connId s →
    ∃ t, exec (.tetherRxNak f) s = .next t ∧ (getConn t f.connId).state = 2 ∧ (getConn t f.connId).ops = [] ∧
      odGet t (odKey 0x3100 6) = satAdd (odGet s (odKey 0x3100 6)) 1 (odCap (odKey 0x3100 6)) ∧
      (∀ j, j ≠ f.connId → getConn t j = getConn s j) ∧ OdOnly [odKey 0x3100 6] u t ∧
      Frame [.regs, .od, .mem, .memCtl, .sec, .net, .tether] u t) ∧
  (∀ (conn : Fin 4096) (c : TConn) (s u : State), tetherOn s = true → c = getConn s conn.val → c.state = 1 → c.rounds < 7 →
    0 < psnDist c.high c.oldest → c.oldest ≠ c.high → u = advanceTo (c.since + rtoOf c) s →
    ∃ t, exec (.goBackRound conn) s = .next t ∧ t = pump conn.val (odCount (odKey 0x3100 5) 1
      (putConn conn.val { c with psn := c.oldest, since := u.now, rounds := c.rounds + 1 } u)) ∧ TimeAt (c.since + rtoOf c) s t ∧
      Frame [.dev, .now, .free, .regs, .od, .mem, .memCtl, .pwr, .start, .sdg, .frz, .sec, .pack, .net, .tether, .gtime] s t) ∧
  (∀ (conn : Fin 4096) (c : TConn) (s : State), tetherOn s = true → c = getConn s conn.val → c.state = 1 → 7 ≤ c.rounds →
    0 < psnDist c.high c.oldest → c.oldest ≠ c.high →
    ∃ t, exec (.goBackRound conn) s = .next t ∧ (getConn t conn.val).state = 2 ∧ (getConn t conn.val).ops = [] ∧
      odGet t (odKey 0x3100 6) = satAdd (odGet s (odKey 0x3100 6)) 1 (odCap (odKey 0x3100 6)) ∧ TimeAt (c.since + rtoOf c) s t ∧
      OdOnly [odKey 0x3100 6] s t ∧ Frame [.now, .gtime, .regs, .od, .mem, .memCtl, .sec, .net, .tether] s t) ∧
  (∀ (h : Nat) (s : State), 1024 ≤ psnDist (getConn s h).psn (getConn s h).oldest → pump h s = s)

/-- Connections and regions are managed by CONN_CMD and REG_CMD: ENABLE takes the staged context, DISABLE drops the connection and its
operations, QUERY shows its PSNs; REGISTER enters a region at a free index and gives its tag, DEREGISTER frees the index; while Tether is
disabled the connection commands answer UNAVAILABLE. -/
def Obligations.TetherManagesConnections : Prop :=
  (∀ (handle : Fin 4096) (acc : Access) (s : State), Reaches acc 0x16400240 s → tetherOn s = true → (getConn s handle.val).state = 0 →
    ctxOk s = true → (ctxConn s).world = true → tagOf s acc.req acc.world = true →
    ∃ t, exec (.connEnable handle acc) s = .next t ∧ WriteTaken acc 0x16400240 s t ∧ getConn t handle.val = ctxConn s ∧
      ConnOnly handle.val s t ∧ bits (regRaw t 0x16400244) 23 16 = 0 ∧ RegsOnly [0x16400244, countReg 0x16400240] s t ∧
      Frame [.regs, .tether] s t) ∧
  (∀ (handle : Fin 4096) (acc : Access) (s : State), Reaches acc 0x16400240 s → tetherOn s = true → (getConn s handle.val).state = 0 →
    ctxOk s = true → (ctxConn s).world = false →
    ∃ t, exec (.connEnable handle acc) s = .next t ∧ WriteTaken acc 0x16400240 s t ∧ getConn t handle.val = ctxConn s ∧
      ConnOnly handle.val s t ∧ bits (regRaw t 0x16400244) 23 16 = 0 ∧ RegsOnly [0x16400244, countReg 0x16400240] s t ∧
      Frame [.regs, .tether] s t) ∧
  (∀ (handle : Fin 4096) (acc : Access) (i : Instr) (s : State), Reaches acc 0x16400240 s → tetherOn s = false →
    i ∈ [.connEnable handle acc, .connDisable handle acc, .connQuery handle acc] →
    ∃ t, exec i s = .next t ∧ WriteTaken acc 0x16400240 s t ∧ bits (regRaw t 0x16400244) 23 16 = 0x0F ∧
      RegsOnly [0x16400244, countReg 0x16400240] s t ∧ Frame [.regs] s t) ∧
  (∀ (handle : Fin 4096) (acc : Access) (s : State), Reaches acc 0x16400240 s → tetherOn s = true → (getConn s handle.val).state ≠ 0 →
    ∃ t, exec (.connDisable handle acc) s = .next t ∧ WriteTaken acc 0x16400240 s t ∧ (getConn t handle.val).state = 0 ∧
      (getConn t handle.val).ops = [] ∧ (∀ j, j ≠ handle.val → getConn t j = getConn s j) ∧
      Frame [.regs, .mem, .memCtl, .sec, .net, .tether] s t) ∧
  (∀ (handle : Fin 4096) (acc : Access) (c : TConn) (s : State), Reaches acc 0x16400240 s → tetherOn s = true → c = getConn s handle.val →
    ∃ t, exec (.connQuery handle acc) s = .next t ∧ WriteTaken acc 0x16400240 s t ∧ regRaw t 0x16400248 = c.state % 2 ^ 64 ∧
      regRaw t 0x1640024C = c.high % 2 ^ 64 ∧ regRaw t 0x16400250 = c.oldest % 2 ^ 64 ∧ regRaw t 0x16400254 = c.epsn % 2 ^ 64 ∧
      bits (regRaw t 0x16400244) 23 16 = 0 ∧
      RegsOnly [0x16400244, 0x16400248, 0x1640024C, 0x16400250, 0x16400254, countReg 0x16400240] s t ∧ Frame [.regs] s t) ∧
  (∀ (index : Fin 4096) (acc : Access) (base size attr : Nat) (s : State), Reaches acc 0x16400318 s → tetherOn s = true →
    base = regRaw s 0x16400300 → size = regRaw s 0x16400308 → attr = regRaw s 0x16400310 →
    tabGet (fun _ => none) s.tether.regions index.val = none → 0x4000000000 ≤ base → base + size ≤ 0x5000000000 → size ≠ 0 →
    base % 64 = 0 → size % 64 = 0 → (bit attr 2 = true → tagOf s acc.req acc.world = true) →
    (bit attr 0 = true → filterAdmits s 0x31 (bit attr 2) true base size = true) →
    (bit attr 1 = true → filterAdmits s 0x31 (bit attr 2) false base size = true) →
    ∃ t, exec (.register index acc) s = .next t ∧ WriteTaken acc 0x16400318 s t ∧
      tabGet (fun _ => none) t.tether.regions index.val = some
        { key := attr / 4096, base := base, size := size, world := bit attr 2, rd := bit attr 1, wr := bit attr 0,
          conn := regRaw s 0x16400314 % 65536 } ∧
      (∀ j, j ≠ index.val → tabGet (fun _ => none) t.tether.regions j = tabGet (fun _ => none) s.tether.regions j) ∧
      regRaw t 0x16400320 = (attr / 4096 * 4096 + index.val) % 2 ^ 64 ∧ regRaw t 0x1640031C = 0 ∧
      RegsOnly [0x1640031C, 0x16400320, countReg 0x16400318] s t ∧ Frame [.regs, .tether] s t) ∧
  (∀ (index : Fin 4096) (acc : Access) (s : State), Reaches acc 0x16400318 s → tetherOn s = true →
    (tabGet (fun _ => none) s.tether.regions index.val).isSome = true →
    ∃ t, exec (.register index acc) s = .next t ∧ WriteTaken acc 0x16400318 s t ∧ regRaw t 0x1640031C = 0x10 * 65536 ∧
      RegsOnly [0x1640031C, countReg 0x16400318] s t ∧ Frame [.regs] s t) ∧
  (∀ (index : Fin 4096) (acc : Access) (s : State), Reaches acc 0x16400318 s → tetherOn s = true →
    ∃ t, exec (.deregister index acc) s = .next t ∧ WriteTaken acc 0x16400318 s t ∧
      tabGet (fun _ => none) t.tether.regions index.val = none ∧
      (∀ j, j ≠ index.val → tabGet (fun _ => none) t.tether.regions j = tabGet (fun _ => none) s.tether.regions j) ∧
      regRaw t 0x1640031C = 0 ∧ RegsOnly [0x1640031C, countReg 0x16400318] s t ∧ Frame [.regs, .tether] s t)

/-! ### Splice (chapter 18) -/

/-- Accesses to the Hawser bus, here of one beat each where the beats are named: reads, writes, prefetched reads, atomic operations, LR and
SC under the lock, and how a stalled access ends. -/
def Obligations.SpliceCarriesHawserAccesses : Prop :=
  (∀ (acc : Access) (len w off : Nat) (l : List Byte) (s : State), HawserLet acc false len w off s → SpliceFree s → bit (hwAttr s w) 5 = false →
    hwCount s w off len = 1 →
    ∃ t, exec (.hawserAccess acc len none (.data l)) s = .next t ∧
      Sends [.readData acc.req acc.addr (padTo len l), readBeat s w off len] s t ∧ Frame [] s t) ∧
  (∀ (acc : Access) (len w off : Nat) (l : List Byte) (s : State), HawserLet acc false len w off s → SpliceFree s → bit (hwAttr s w) 5 = false →
    1 < hwCount s w off len →
    ∃ t, exec (.hawserAccess acc len none (.data l)) s = .next t ∧ t.out.head? = some (.readData acc.req acc.addr (padTo len l)) ∧
      t.out.length = s.out.length + hwCount s w off len + 1 ∧
      odGet t (odKey 0x3200 0x0B) = satAdd (odGet s (odKey 0x3200 0x0B)) 1 (odCap (odKey 0x3200 0x0B)) ∧
      OdOnly [odKey 0x3200 0x0B] s t ∧ Frame [.od] s t) ∧
  (∀ (acc : Access) (w off : Nat) (data l : List Byte) (n : Nat) (s : State), HawserLet acc true data.length w off s → SpliceFree s →
    hwCount s w off data.length = 1 →
    ∃ t, exec (.hawserAccess acc n (some data) (.data l)) s = .next t ∧
      Sends [.writeOk acc.req acc.addr, writeBeat s w off data.length data] s t ∧ LinesDropped w s t ∧ Frame [.splice] s t) ∧
  (∀ (acc : Access) (len w off : Nat) (s : State), HawserLet acc false len w off s → SpliceFree s → bit (hwAttr s w) 5 = false →
    hwCount s w off len = 1 →
    ∃ t, exec (.hawserAccess acc len none (.stall 0)) s = .next t ∧ SpliceFailed acc 0x0A s t ∧ OdOnly [odKey 0x3200 0x0C] s t ∧
      Frame [.regs, .od] s t) ∧
  (∀ (acc : Access) (len w off i : Nat) (x : PfLine) (far : FarAnswer) (s : State), HawserLet acc false len w off s → SpliceFree s →
    bit (hwAttr s w) 5 = true → pfHit s w acc.addr len = some (i, x) →
    ∃ t, exec (.hawserAccess acc len none far) s = .next t ∧
      Sends [.readData acc.req acc.addr (slice x.data (acc.addr - x.addr) len)] s t ∧
      t.splice = { s.splice with lru := i :: s.splice.lru.filter (fun j => decide (j ≠ i)) } ∧ Frame [.splice] s t) ∧
  (∀ (acc : Access) (len w off b n : Nat) (l : List Byte) (s : State), HawserLet acc false len w off s → SpliceFree s →
    bit (hwAttr s w) 5 = true → pfHit s w acc.addr len = none → hwPlace (odGet s (hwKey w 1)) = some (b, n) → off / 64 * 64 + 64 ≤ n →
    l.length = 64 →
    ∃ t, exec (.hawserAccess acc len none (.data l)) s = .next t ∧
      t.out.head? = some (.readData acc.req acc.addr (padTo len (l.drop (off - off / 64 * 64)))) ∧
      (∃ i, tabGet (fun _ => none) t.splice.lines i = some { addr := acc.addr / 64 * 64, win := w, data := l, at' := s.now } ∧
        ∀ j, j ≠ i → tabGet (fun _ => none) t.splice.lines j = tabGet (fun _ => none) s.splice.lines j) ∧ Frame [.splice] s t) ∧
  (∀ (line : Fin 8) (x : PfLine) (s : State), isUp s = true → tabGet (fun _ => none) s.splice.lines line.val = some x →
    ∃ t, exec (.prefetchExpiry line) s = .next t ∧ TimeAt (x.at' + us 10) s t ∧ tabGet (fun _ => none) t.splice.lines line.val = none ∧
      (∀ j, j ≠ line.val → tabGet (fun _ => none) t.splice.lines j = tabGet (fun _ => none) s.splice.lines j) ∧ t.out = s.out ∧
      Frame [.now, .gtime, .splice] s t) ∧
  (∀ (acc : Access) (isWrite : Bool) (beats : Nat) (r : Region) (s : State), SpliceLet acc isWrite (acc.bits / 8) r s → SpliceFree s →
    ∃ t, exec (.spliceTimeout acc isWrite beats) s = .next t ∧ TimeAt (s.now + us 80) s t ∧
      SpliceFailed acc (if beats = 0 then 0x0A else 0x14) s t ∧ OdOnly [odKey 0x3200 0x0C] s t ∧ Frame [.now, .gtime, .regs, .od] s t) ∧
  (∀ (acc : Access) (op : AmoOp) (operand : Word) (w off len : Nat) (l : List Byte) (s : State), len = acc.bits / 8 →
    HawserLet acc true len w off s → SpliceFree s → bit (hwAttr s w) 6 = true → hwCount s w off len = 1 →
    ∃ t, exec (.hawserAmo acc op operand (.data l)) s = .next t ∧
      Sends [.readData acc.req acc.addr (padTo len l), .hawserLock false,
             writeBeat s w off len (leBytes len (amoApply op acc.bits (leNat (padTo len l)) operand.toNat)), readBeat s w off len,
             .hawserLock true] s t ∧
      LinesDropped w s t ∧ Frame [.splice] s t) ∧
  (∀ (acc : Access) (w off len : Nat) (l : List Byte) (s : State), len = acc.bits / 8 →
    HawserLet acc false len w off s → SpliceFree s → bit (hwAttr s w) 6 = true → hwCount s w off len = 1 →
    ∃ t, exec (.hawserLr acc (.data l)) s = .next t ∧
      Sends [.readData acc.req acc.addr (padTo len l), readBeat s w off len, .hawserLock true] s t ∧
      t.splice.lock = some { req := acc.req, addr := acc.addr, at' := s.now } ∧ t.splice.sems = s.splice.sems ∧ Frame [.splice] s t) ∧
  (∀ (acc : Access) (value : Word) (w off len : Nat) (h : Held) (l : List Byte) (s : State), len = acc.bits / 8 →
    HawserLet acc true len w off s → bit (hwAttr s w) 6 = true → hwCount s w off len = 1 → s.splice.lock = some h → h.req = acc.req →
    h.addr = acc.addr → s.now < h.at' + us 10 → s.splice.farReq = false →
    ∃ t, exec (.hawserSc acc value (.data l)) s = .next t ∧
      Sends [.hawserLock false, .readData acc.req acc.addr (leBytes len 0), writeBeat s w off len (leBytes len value.toNat)] s t ∧
      t.splice.lock = none ∧ Frame [.splice] s t) ∧
  (∀ (acc : Access) (value : Word) (w off len : Nat) (far : FarAnswer) (s : State), len = acc.bits / 8 →
    SpliceLet acc true len .hawser s → hwFind s acc.addr len = some (w, off) → SpliceFree s → bit (hwAttr s w) 6 = true →
    ∃ t, exec (.hawserSc acc value far) s = .next t ∧ Sends [.readData acc.req acc.addr (leBytes len 1)] s t ∧ LinesDropped w s t ∧
      Frame [.splice] s t) ∧
  (∀ (h : Held) (s : State), isUp s = true → s.splice.lock = some h → s.splice.farReq = false →
    ∃ t, exec .lockExpiry s = .next t ∧ TimeAt (h.at' + us 10) s t ∧ t.splice = { s.splice with lock := none } ∧
      Output.hawserLock false ∈ t.out ∧
      odGet t (odKey 0x3200 0x0D) = satAdd (odGet s (odKey 0x3200 0x0D)) 1 (odCap (odKey 0x3200 0x0D)) ∧
      RegsOnly (msgRegs 1794) s t ∧ OdOnly [odKey 0x3200 0x0D] s t ∧ Frame [.now, .gtime, .regs, .od, .splice] s t)

/-- Accesses to PCIe and from it, bridge semaphores, the far master of the Hawser bus, and polls. -/
def Obligations.SpliceCarriesPcieAndFarSides : Prop :=
  (∀ (acc : Access) (len : Nat) (l : List Byte) (s : State), SpliceLet acc false len .pcie32 s → SpliceFree s → 0 < len →
    pcieForm s acc.addr len = true →
    ∃ t, exec (.pcieOutboundAccess acc len none (.data l)) s = .next t ∧
      Sends [.readData acc.req acc.addr (padTo len l), .pcieReq (pcieBus s acc.addr).1 (pcieBus s acc.addr).2 len none] s t ∧ Frame [] s t) ∧
  (∀ (acc : Access) (n : Nat) (data : List Byte) (far : FarAnswer) (s : State), SpliceLet acc true data.length .pcie64 s → SpliceFree s →
    data ≠ [] → 0x1000000000 ≤ acc.addr →
    ∃ t, exec (.pcieOutboundAccess acc n (some data) far) s = .next t ∧
      Sends [.writeOk acc.req acc.addr,
             .pcieReq false (odUse s (odKey 0x3200 9) + (acc.addr - 0x1000000000)) data.length (some data)] s t ∧
      LinesDropped 16 s t ∧ Frame [.splice] s t) ∧
  (∀ (acc : Access) (len : Nat) (far : FarAnswer) (st : Nat) (s : State), SpliceLet acc false len .pcie32 s → SpliceFree s → 0 < len →
    pcieForm s acc.addr len = true → (far, st) ∈ [(.poisoned, 9), (.refused, 0xE1), (.stall 0, 0x0A), (.stall 1, 0x14)] →
    ∃ t, exec (.pcieOutboundAccess acc len none far) s = .next t ∧ SpliceFailed acc st s t ∧ OdOnly [odKey 0x3200 0x0C] s t ∧
      Frame [.regs, .od] s t) ∧
  (∀ (acc : Access) (op : AmoOp) (operand : Word) (l : List Byte) (len : Nat) (b : Bool × Nat) (s : State), len = acc.bits / 8 →
    SpliceLet acc true len .pcie32 s → SpliceFree s → pcieForm s acc.addr len = true → b = pcieBus s acc.addr →
    ∃ t, exec (.semaphoreAmo acc op operand (.data l)) s = .next t ∧
      Sends [.readData acc.req acc.addr (padTo len l),
             .pcieReq b.1 b.2 len (some (leBytes len (amoApply op acc.bits (leNat (padTo len l)) operand.toNat))),
             .pcieReq b.1 b.2 len none] s t ∧ Frame [] s t) ∧
  (∀ (acc : Access) (l : List Byte) (len : Nat) (b : Bool × Nat) (s : State), len = acc.bits / 8 →
    SpliceLet acc false len .pcie32 s → SpliceFree s → pcieForm s acc.addr len = true → b = pcieBus s acc.addr →
    ∃ t, exec (.semaphoreLr acc (.data l)) s = .next t ∧ Sends [.readData acc.req acc.addr (padTo len l), .pcieReq b.1 b.2 len none] s t ∧
      t.splice = { s.splice with sems := [(acc.addr / 64, some { req := acc.req, addr := acc.addr, at' := s.now })] } ∧ Frame [.splice] s t) ∧
  (∀ (acc : Access) (value : Word) (h : Held) (far : FarAnswer) (len : Nat) (b : Bool × Nat) (s : State), len = acc.bits / 8 →
    SpliceLet acc true len .pcie32 s → s.splice.lock = none → pcieForm s acc.addr len = true → b = pcieBus s acc.addr →
    semOf s (acc.addr / 64) = some h → h.req = acc.req → h.addr = acc.addr → s.now < h.at' + us 10 →
    ∃ t, exec (.semaphoreSc acc value far) s = .next t ∧
      Sends [.readData acc.req acc.addr (leBytes len 0), .pcieReq b.1 b.2 len (some (leBytes len value.toNat))] s t ∧
      t.splice = { s.splice with sems := s.splice.sems.filter (fun p => decide (p.2.map Held.req ≠ some acc.req)) } ∧ Frame [.splice] s t) ∧
  (∀ (acc : Access) (value : Word) (far : FarAnswer) (len : Nat) (s : State), len = acc.bits / 8 → SpliceLet acc true len .pcie32 s →
    SpliceFree s →
    ∃ t, exec (.semaphoreSc acc value far) s = .next t ∧ Sends [.readData acc.req acc.addr (leBytes len 1)] s t ∧ Frame [] s t) ∧
  (∀ (granule : Nat) (h : Held) (s : State), isUp s = true → semOf s granule = some h →
    ∃ t, exec (.semaphoreExpiry granule) s = .next t ∧ TimeAt (h.at' + us 10) s t ∧ semOf t granule = none ∧
      (∀ g, g ≠ granule → semOf t g = semOf s g) ∧
      odGet t (odKey 0x3200 0x0D) = satAdd (odGet s (odKey 0x3200 0x0D)) 1 (odCap (odKey 0x3200 0x0D)) ∧
      RegsOnly (msgRegs 1794) s t ∧ OdOnly [odKey 0x3200 0x0D] s t ∧ Frame [.now, .gtime, .regs, .od, .splice] s t) ∧
  (∀ (busAddr n a : Nat) (data : List Byte) (s : State), isUp s = true → s.start.pcieMode = true → inWindow s busAddr data.length true = some a →
    memoryOpen s 0x38 (farTag s) true a data.length = true → regionOf a data.length = some .dram → wholeWords a data.length = true →
    ∃ t, exec (.pcieInboundRequest busAddr n (some (data.map some))) s = .next t ∧ t.mem = memWrite s.mem a data ∧ t.out = s.out ∧
      Frame [.mem, .memCtl, .sec] s t) ∧
  (∀ (busAddr len a : Nat) (l : List Byte) (s u : State), isUp s = true → inWindow s busAddr len false = some a →
    memoryOpen s 0x38 (farTag s) false a len = true → readRange a len s = (u, some l) →
    ∃ t, exec (.pcieInboundRequest busAddr len none) s = .next t ∧ Sends [.farAnswer (.data l)] u t ∧ Frame [] u t) ∧
  (∀ (busAddr len : Nat) (s : State), isUp s = true → inWindow s busAddr len false = none →
    ∃ t, exec (.pcieInboundRequest busAddr len none) s = .next t ∧ Sends [.farAnswer .refused] s t ∧ Frame [] s t) ∧
  (∀ (busAddr n : Nat) (b : Byte) (s : State), isUp s = true → s.start.pcieMode = false → busAddr = odUse s (odKey 0x3200 0x10) →
    ∃ t, exec (.pcieInboundRequest busAddr n (some [some b])) s = .next t ∧ RegsOnly (msgRegs (1796 + b.toNat % 4)) s t ∧ Frame [.regs] s t) ∧
  (∀ (s : State), isUp s = true →
    ∃ t, exec .pcieIntx s = .next t ∧ odGet t (odKey 0x3200 0x0E) = satAdd (odGet s (odKey 0x3200 0x0E)) 1 (odCap (odKey 0x3200 0x0E)) ∧
      t.out = s.out ∧ OdOnly [odKey 0x3200 0x0E] s t ∧ Frame [.od] s t) ∧
  (∀ (v : Nat) (s : State), isUp s = true → v = regRaw s (routeAddr 1793) →
    ∃ t, exec .aerError s = .next t ∧ (bit v 63 = true → Output.message false (bits v 43 40) (bits v 47 44) (bits v 10 0) ∈ t.out) ∧
      (bit v 63 = false → bit (regRaw t (routeAddr 1793)) 62 = true) ∧ RegsOnly (msgRegs 1793) s t ∧ Frame [.regs] s t) ∧
  (∀ (acc : Access) (value : Word) (s : State), Reaches acc 0x17000040 s → s.start.pcieMode = true → isUp s = true →
    ∃ t, exec (.epMsi acc value true) s = .next t ∧ Sends [.writeOk acc.req 0x17000040, .msi (carried acc value % 32)] s t ∧
      WriteTaken acc 0x17000040 s t ∧ RegsOnly [countReg 0x17000040] s t ∧ Frame [.regs] s t) ∧
  (∀ (s : State), isUp s = true → odUse s (odKey 0x3200 2) = 1 → s.splice.granted = false → s.splice.lock = none →
    ∃ t, exec .farMasterRequest s = .next t ∧ Sends [.hawserGrant true] s t ∧ t.splice = { s.splice with farReq := true, granted := true } ∧
      Frame [.splice] s t) ∧
  (∀ (h : Held) (s : State), isUp s = true → odUse s (odKey 0x3200 2) = 1 → s.splice.granted = false → s.splice.lock = some h →
    ∃ t, exec .farMasterRequest s = .next t ∧ t.out = s.out ∧ t.splice = { s.splice with farReq := true } ∧ Frame [.splice] s t) ∧
  (∀ (s : State), isUp s = true → s.splice.farReq = true → s.splice.granted = true →
    ∃ t, exec .farMasterRelease s = .next t ∧ Sends [.hawserGrant false] s t ∧
      t.splice = { s.splice with farReq := false, granted := false } ∧ Frame [.splice] s t) ∧
  (∀ (farAddr n a : Nat) (data : List Byte) (s : State), isUp s = true → s.splice.granted = true → farLocal s farAddr data.length true = some a →
    memoryOpen s 0x39 (farTag s) true a data.length = true → regionOf a data.length = some .dram → wholeWords a data.length = true →
    ∃ t, exec (.farMasterCycle farAddr n (some (data.map some))) s = .next t ∧ t.mem = memWrite s.mem a data ∧ t.out = s.out ∧
      Frame [.mem, .memCtl, .sec] s t) ∧
  (∀ (farAddr len a : Nat) (l : List Byte) (s u : State), isUp s = true → s.splice.granted = true → farLocal s farAddr len false = some a →
    memoryOpen s 0x39 (farTag s) false a len = true → readRange a len s = (u, some l) →
    ∃ t, exec (.farMasterCycle farAddr len none) s = .next t ∧ Sends [.farAnswer (.data l)] u t ∧ Frame [] u t) ∧
  (∀ (farAddr len : Nat) (s : State), isUp s = true → s.splice.granted = true → farLocal s farAddr len false = none →
    ∃ t, exec (.farMasterCycle farAddr len none) s = .next t ∧ Sends [.farAnswer (.data (List.replicate len 0xFF))] s t ∧
      regRaw t 0x17000038 = satAdd (regRaw s 0x17000038) 1 0xFFFFFFFF % 2 ^ 64 ∧ RegsOnly [0x17000038] s t ∧ Frame [.regs] s t) ∧
  (∀ (entry : Fin 64) (l d : List Byte) (addr per v from' : Nat) (p : Poll) (hit : Bool) (s : State), isUp s = true → l = pollList s →
    32 * (entry.val + 1) ≤ l.length → per = pollField l entry.val 16 2 → per ≠ 0 → addr = pollField l entry.val 0 8 →
    spliceRangeOf addr 4 = some .pcie32 → filterAdmits s 0x3A false false addr 4 = true → p = getPoll s entry.val → p.last = some from' →
    v = leNat (padTo 4 d) → hit = decide (v &&& pollField l entry.val 8 4 = pollField l entry.val 12 4) → p.base = false → hit ≠ p.hit →
    pollField l entry.val 18 2 = 0xFFFF →
    ∃ t, exec (.pollRead entry (.data d)) s = .next t ∧ TimeAt (from' + us per) s t ∧
      getPoll t entry.val = { p with value := v, hit := hit, count := p.count + b2n hit, gtime := gnow t, last := some t.now } ∧
      (∀ e, e ≠ entry.val → getPoll t e = getPoll s e) ∧ RegsOnly (msgRegs (1728 + entry.val)) s t ∧
      Frame [.now, .gtime, .regs, .splice] s t) ∧
  (∀ (entry : Fin 64) (l : List Byte) (addr per from' : Nat) (p : Poll) (s : State), isUp s = true → l = pollList s →
    32 * (entry.val + 1) ≤ l.length → per = pollField l entry.val 16 2 → per ≠ 0 → addr = pollField l entry.val 0 8 →
    spliceRangeOf addr 4 = some .pcie32 → filterAdmits s 0x3A false false addr 4 = true → p = getPoll s entry.val → p.last = some from' →
    ∃ t, exec (.pollRead entry .refused) s = .next t ∧ TimeAt (from' + us per) s t ∧
      getPoll t entry.val = { p with err := true, last := some t.now } ∧ (∀ e, e ≠ entry.val → getPoll t e = getPoll s e) ∧
      RegsOnly (msgRegs (1728 + entry.val)) s t ∧ Frame [.now, .gtime, .regs, .splice] s t)

/-! ### Whistle (chapter 19) -/

/-- Frames of pendants. The full counter is the value with the received low bits that lies around H. A frame that passes the checks of R816
advances its slot and is recorded; a STOP is noted and still recorded only when the FIFO has room; ARM and DISARM switch armed mode; a frame
that fails is counted by its reason, and a replay, an unknown pendant and a wrong MAC have reasons of their own. -/
def Obligations.WhistleFramesAreJudged : Prop :=
  (∀ (channel : Fin 4) (body : Word) (k command : Nat) (c : Int) (i : Instr) (p q : Pendant) (s : State),
    (i, command) ∈ [(.whistleHold channel body, 0x02), (.hitchUp channel body, 0x10), (.hitchDown channel body, 0x11),
      (.creepFwd channel body, 0x20), (.creepRev channel body, 0x21), (.whistleHeartbeat channel body, 0x30)] →
    whChannelOn s channel.val = true → bit s.wh.flooded channel.val = false → bodyCommand body.toNat = command →
    whCheck s body.toNat = .ok (k, c) → s.wh.fifo.length < 16 → p = getPendant s k → q = whAdvance p c → (p.accepted + 1) % 256 ≠ 0 →
    ∃ t, exec i s = .next t ∧
      getPendant t k = { q with accepted := p.accepted + 1, timer := if p.armed then some s.now else none } ∧
      (∀ j, j ≠ k → getPendant t j = getPendant s j) ∧
      t.wh = { s.wh with pendants := t.wh.pendants, fifo := s.wh.fifo ++
        [{ channel := channel.val, slot := k, command := command, body := body.toNat, gtime := gnow s, counter := ofSigned 32 c }] } ∧
      odGet t (odKey 0x3300 5) = satAdd (odGet s (odKey 0x3300 5)) 1 (odCap (odKey 0x3300 5)) ∧
      regRaw t (rejCount 0) = satAdd (regRaw s (rejCount 0)) 1 0xFFFFFFFF % 2 ^ 64 ∧
      OdOnly [odKey 0x3300 5] s t ∧ RegsOnly (rejCount 0 :: msgRegs 1800) s t ∧ Frame [.regs, .od, .wh] s t) ∧
  (∀ (p : Pendant), whAdvance p ((p.h : Int) + 1) = { p with h := p.h + 1, seen := (p.seen * 2 + 1) % 2 ^ 32 }) ∧
  (∀ h low : Nat, low < 65536 → (h : Int) - 32768 ≤ fullCounter h low ∧ fullCounter h low ≤ (h : Int) + 32767 ∧
    fullCounter h low % 65536 = (low : Int)) ∧
  (∀ (p : Pendant), replayCheck p p.h = 3 ∧ (∀ c : Int, c < (p.h : Int) - 32 → replayCheck p c = 4) ∧
    (∀ c : Int, (p.h : Int) < c → replayCheck p c = 0) ∧ (∀ n, n < 32 → bit p.seen n = true → replayCheck p ((p.h : Int) - 1 - n) = 3)) ∧
  (∀ (channel : Fin 4) (body : Word) (k : Nat) (c : Int) (s : State), whChannelOn s channel.val = true →
    bit s.wh.flooded channel.val = false → bodyCommand body.toNat = 0x01 → whCheck s body.toNat = .ok (k, c) →
    ∃ t, exec (.whistleStop channel body) s = .next t ∧ t.sdg.stopAt = some s.now ∧
      (s.wh.fifo.length < 16 → t.wh.fifo = s.wh.fifo ++
        [{ channel := channel.val, slot := k, command := 0x01, body := body.toNat, gtime := gnow s, counter := ofSigned 32 c }]) ∧
      (16 ≤ s.wh.fifo.length → t.wh.fifo = s.wh.fifo ∧ regRaw t (rejCount 7) = satAdd (regRaw s (rejCount 7)) 1 0xFFFFFFFF % 2 ^ 64) ∧
      OdOnly [odKey 0x3300 5] s t ∧ Frame [.regs, .od, .sdg, .wh] s t) ∧
  (∀ (channel : Fin 4) (body : Word) (k : Nat) (c : Int) (s : State), whChannelOn s channel.val = true →
    bit s.wh.flooded channel.val = false → bodyCommand body.toNat = 0x40 → whCheck s body.toNat = .ok (k, c) →
    ∃ t, exec (.whistleArm channel body) s = .next t ∧ (getPendant t k).armed = true ∧ (getPendant t k).timer = some s.now ∧
      (getPendant t k).committed = (getPendant t k).h ∧ (∀ j, j ≠ k → getPendant t j = getPendant s j) ∧
      t.wh.lost = clearMask s.wh.lost (2 ^ k) ∧ OdOnly [odKey 0x3300 5] s t ∧ Frame [.regs, .od, .wh] s t) ∧
  (∀ (channel : Fin 4) (body : Word) (k : Nat) (c : Int) (s : State), whChannelOn s channel.val = true →
    bit s.wh.flooded channel.val = false → bodyCommand body.toNat = 0x41 → whCheck s body.toNat = .ok (k, c) →
    ∃ t, exec (.whistleDisarm channel body) s = .next t ∧ (getPendant t k).armed = false ∧ (getPendant t k).timer = none ∧
      (∀ j, j ≠ k → getPendant t j = getPendant s j) ∧
      t.wh.lost = clearMask s.wh.lost (2 ^ k) ∧ OdOnly [odKey 0x3300 5] s t ∧ Frame [.regs, .od, .wh] s t) ∧
  (∀ (channel : Fin 4) (body : Word) (r : Nat) (s : State), whChannelOn s channel.val = true → bit s.wh.flooded channel.val = false →
    whCheck s body.toNat = .error r → (∀ a, s.wh.rejAt = some a → a + ms 100 ≤ s.now) →
    ∃ t, exec (.rejectedFrame channel body) s = .next t ∧
      regRaw t (rejCount r) = satAdd (regRaw s (rejCount r)) 1 0xFFFFFFFF % 2 ^ 64 ∧
      t.wh = (if r = 3 then s.wh else { s.wh with rejAt := some s.now }) ∧
      RegsOnly (rejCount r :: msgRegs 1803) s t ∧ Frame [.regs, .wh] s t) ∧
  (∀ (body : Nat) (s : State), pendantSlot s (bodyId body) = none → whCheck s body = .error 1) ∧
  (∀ (body k : Nat) (key : List Byte) (s : State), pendantSlot s (bodyId body) = some k → (getPendant s k).key = some key →
    whMac s key body (fullCounter (getPendant s k).h (bodyCounter body)) ≠ bodyMac body → whCheck s body = .error 2) ∧
  (∀ (channel : Fin 4) (s : State), whChannelOn s channel.val = true → bit s.wh.flooded channel.val = false →
    ∃ t, exec (.whistleCodingError channel) s = .next t ∧
      regRaw t (rejCount 6) = satAdd (regRaw s (rejCount 6)) 1 0xFFFFFFFF % 2 ^ 64 ∧ t.out = s.out ∧ RegsOnly [rejCount 6] s t ∧
      Frame [.regs] s t)

/-- Floods, heartbeats and the registers of the receiver. A sample is stored; one above FLOOD_LEVEL, or a carrier of more than 750 µs, floods
its channel and raises WHISTLE_FLOOD, and 2 ms of quiet end the flood; an armed slot without a frame for 320 ms raises HEARTBEAT_LOST; DISARM_ALL
disarms every slot, REC_POP drops the oldest record. -/
def Obligations.WhistleWatchesItsChannels : Prop :=
  (∀ (channel : Fin 4) (code : Nat) (s : State), isUp s = true → min code 4095 ≤ odGet s (odKey 0x3300 2) →
    ∃ t, exec (.ambientSample channel code) s = .next t ∧ regRaw t (0x17800030 + 4 * channel.val) = min code 4095 ∧ t.out = s.out ∧
      RegsOnly [0x17800030 + 4 * channel.val] s t ∧ Frame [.regs] s t) ∧
  (∀ (channel : Fin 4) (code n : Nat) (i : Instr) (s : State), n = channel.val → whChannelOn s n = true → s.sdg.clkStopped = false →
    bit s.wh.flooded n = false →
    (i = .ambientSample channel code ∧ odGet s (odKey 0x3300 2) < min code 4095) ∨ (i = .carrierFlood channel code ∧ us 750 < code) →
    ∃ t, exec i s = .next t ∧ bit t.wh.flooded n = true ∧
      t.wh = { s.wh with flooded := s.wh.flooded ||| 2 ^ n, floodAt := t.wh.floodAt, noisyAt := t.wh.noisyAt } ∧
      tabGet (fun _ => 0) t.wh.floodAt n = gnow s ∧ tabGet (fun _ => 0) t.wh.noisyAt n = s.now ∧
      odGet t (odKey 0x3300 4) = satAdd (odGet s (odKey 0x3300 4)) 1 (odCap (odKey 0x3300 4)) ∧ AlarmTaken 0x97 s t ∧
      OdOnly (odKey 0x3300 4 :: alarmKeys) s t ∧ Frame (.wh :: alarmParts) s t) ∧
  (∀ (channel : Fin 4) (n : Nat) (s : State), n = channel.val → isUp s = true → bit s.wh.flooded n = true →
    regRaw s (0x17800030 + 4 * n) ≤ odGet s (odKey 0x3300 2) →
    ∃ t, exec (.floodClear channel) s = .next t ∧ TimeAt (tabGet (fun _ => 0) s.wh.noisyAt n + ms 2) s t ∧
      t.wh = { s.wh with flooded := clearMask s.wh.flooded (2 ^ n) } ∧ bit t.wh.flooded n = false ∧ t.out = s.out ∧
      Frame [.now, .gtime, .wh] s t) ∧
  (∀ (slot : Fin 8) (p : Pendant) (a : Nat) (s : State), isUp s = true → s.sdg.clkStopped = false → p = getPendant s slot.val →
    p.armed = true → p.timer = some a →
    ∃ t, exec (.heartbeatLost slot) s = .next t ∧ TimeAt (a + ms 320) s t ∧ getPendant t slot.val = { p with timer := none } ∧
      (∀ j, j ≠ slot.val → getPendant t j = getPendant s j) ∧ t.wh.lost = s.wh.lost ||| 2 ^ slot.val ∧
      odGet t (odKey 0x3300 3) = satAdd (odGet s (odKey 0x3300 3)) 1 (odCap (odKey 0x3300 3)) ∧ AlarmTaken 0x98 s t ∧
      OdOnly (odKey 0x3300 3 :: alarmKeys) s t ∧ Frame ([.now, .gtime, .wh] ++ alarmParts) s t) ∧
  (∀ (acc : Access) (value : Word) (s : State), Reaches acc 0x17800060 s → bit (carried acc value) 0 = true →
    ∃ t, exec (.disarmAll acc value) s = .next t ∧ WriteTaken acc 0x17800060 s t ∧
      (∀ j, j < 8 → getPendant t j = { getPendant s j with armed := false, timer := none }) ∧ t.wh.lost % 256 = 0 ∧ t.wh.fifo = s.wh.fifo ∧
      RegsOnly [countReg 0x17800060] s t ∧ Frame [.regs, .wh] s t) ∧
  (∀ (acc : Access) (value : Word) (s : State), Reaches acc 0x1780005C s → bit (carried acc value) 0 = true →
    ∃ t, exec (.recPop acc value) s = .next t ∧ WriteTaken acc 0x1780005C s t ∧ t.wh = { s.wh with fifo := s.wh.fifo.drop 1 } ∧
      RegsOnly [countReg 0x1780005C] s t ∧ Frame [.regs, .wh] s t)

/-! ### Freeze-frame (chapter 20) -/

/-- Captures. A trigger begins a capture whose target is 2,000 ns ahead, joins the one pending, or is dropped and counted; at the target the
catalogue is latched into the bank; the bank becomes FULL with its record due; the record is written to a free slot; banks are released and
records cleared. -/
def Obligations.FreezeFramesAreTaken : Prop :=
  (∀ (lowNs highNs b : Nat) (s : State), us 1 ≤ lowNs → us 1 ≤ highNs → frzOpen 1 s = true → s.frz.pending = none → frzFreeBank s = some b →
    ∃ t, exec (.frzTrigPin lowNs highNs) s = .next t ∧
      t.frz = { s.frz with pending := some { target := gnow s + 2000, sources := 2, bank := b } } ∧
      odGet t (odKey 0x2300 6) = satAdd (odGet s (odKey 0x2300 6)) 1 (odCap (odKey 0x2300 6)) ∧ t.out = s.out ∧ OdOnly [odKey 0x2300 6] s t ∧
      Frame [.od, .frz] s t) ∧
  (∀ (lowNs highNs : Nat) (c : Capture) (s : State), us 1 ≤ lowNs → us 1 ≤ highNs → frzOpen 1 s = true → s.frz.pending = some c →
    ∃ t, exec (.frzTrigPin lowNs highNs) s = .next t ∧ t.frz = { s.frz with pending := some { c with sources := c.sources ||| 2 } } ∧
      t.out = s.out ∧ Frame [.frz] s t) ∧
  (∀ (lowNs highNs : Nat) (s : State), us 1 ≤ lowNs → us 1 ≤ highNs → frzOpen 1 s = true → s.frz.pending = none → frzFreeBank s = none →
    ∃ t, exec (.frzTrigPin lowNs highNs) s = .next t ∧ t.frz = { s.frz with dropSources := s.frz.dropSources ||| 2 } ∧
      odGet t (odKey 0x2300 7) = satAdd (odGet s (odKey 0x2300 7)) 1 (odCap (odKey 0x2300 7)) ∧
      regRaw t 0x10200088 = satAdd (regRaw s 0x10200088) 1 0xFFFFFFFF % 2 ^ 64 ∧ t.out = s.out ∧
      OdOnly [odKey 0x2300 7] s t ∧ RegsOnly [0x10200088] s t ∧ Frame [.regs, .od, .frz] s t) ∧
  (∀ (acc : Access) (value : Word) (b : Nat) (s : State), Reaches acc 0x10200080 s → bit (carried acc value) 0 = true → frzOpen 5 s = true →
    s.frz.pending = none → frzFreeBank s = some b →
    ∃ t, exec (.frzSwTrig acc value) s = .next t ∧ WriteTaken acc 0x10200080 s t ∧
      t.frz = { s.frz with pending := some { target := gnow s + 2000, sources := 32, bank := b } } ∧
      odGet t (odKey 0x2300 6) = satAdd (odGet s (odKey 0x2300 6)) 1 (odCap (odKey 0x2300 6)) ∧ OdOnly [odKey 0x2300 6] s t ∧
      RegsOnly [countReg 0x10200080] s t ∧ Frame [.regs, .od, .frz] s t) ∧
  (∀ (m : LeashMsg) (i v b : Nat) (x : Session) (s : State), Accepted m i x (odKey 0x2300 1) v s → frzOpen 0 s = true →
    s.frz.pending = none → frzFreeBank s = some b →
    ∃ t, exec (.frzTriggerNow m) s = .next t ∧ AnsweredDone m i x s t ∧
      t.frz = { s.frz with pending := some { target := gnow s + 2000, sources := 1, bank := b } } ∧
      odGet t (odKey 0x2300 6) = satAdd (odGet s (odKey 0x2300 6)) 1 (odCap (odKey 0x2300 6)) ∧ OdOnly [odKey 0x2300 6] s t ∧
      Frame [.od, .frz, .leash] s t) ∧
  (∀ (m : LeashMsg) (i v : Nat) (x : Session) (s : State), Accepted m i x (odKey 0x2300 3) v s →
    ∃ t, exec (.frzSchedule m) s = .next t ∧ AnsweredDone m i x s t ∧ t.frz = { s.frz with scheduled := some v } ∧
      s.gtime + 2000 ≤ v ∧ Frame [.frz, .leash] s t) ∧
  (∀ (v b : Nat) (s : State), s.frz.scheduled = some v → frzOpen 0 s = true → s.frz.pending = none → frzFreeBank s = some b →
    ∃ t, exec .frzScheduledAccept s = .next t ∧ v - 2000 ≤ t.gtime ∧
      t.frz = { s.frz with scheduled := none, pending := some { target := v, sources := 1, bank := b } } ∧
      odGet t (odKey 0x2300 6) = satAdd (odGet s (odKey 0x2300 6)) 1 (odCap (odKey 0x2300 6)) ∧ t.out = s.out ∧
      OdOnly [odKey 0x2300 6] s t ∧ Frame [.now, .gtime, .od, .frz] s t) ∧
  (∀ (c : Capture) (s u : State), s.frz.pending = some c → c.latched = none → c.bank = 0 → u = gtimeReach c.target s →
    ∃ t, exec .frzLatch s = .next t ∧ c.target ≤ t.gtime ∧
      t.frz = { s.frz with bank0 := snapValues u (snapRegs (pagesNow u)), pages0 := pagesNow u,
                           pending := some { c with latched := some (devCode s.dev) } } ∧
      t.out = s.out ∧ Frame [.now, .gtime, .frz] s t) ∧
  (∀ (c : Capture) (d : Nat) (s : State), s.frz.pending = some c → c.latched = some d → c.bank = 0 → s.net.stepDue = none →
    ∃ t r, exec (.frzBankFull []) s = .next t ∧ r.length = 128 ∧ slice r 0 8 = leBytes 8 c.target ∧
      t.frz = { s.frz with pending := none, full := s.frz.full ||| 1, recordDue := s.frz.recordDue ++ [(0, r)], target0 := c.target,
                           info0 := 0xFF000000 + c.sources * 65536, change0 := (s.frz.change0 + 1) % 2 ^ 32 } ∧
      RegsOnly (msgRegs 1809) s t ∧ Frame [.regs, .frz] s t) ∧
  (∀ (c : Capture) (d b : Nat) (s : State), s.frz.pending = some c → c.latched = some d → s.net.stepDue = none → blockCode b ≠ 0 →
    ∃ t, exec (.frzBankFull [b]) s = .next t ∧ t.frz.pending = none ∧ t.frz.full = s.frz.full ||| 2 ^ c.bank ∧
      (∀ a, blockOf a = some b → bankAt t c.bank a = 0) ∧ (∀ a, blockOf a ≠ some b → bankAt t c.bank a = bankAt s c.bank a) ∧
      (if c.bank = 0 then t.frz.info0 else t.frz.info1) = 0xFF000000 + c.sources * 65536 + blockCode b * 256 + 1 ∧
      RegsOnly (msgRegs 1809) s t ∧ Frame [.regs, .frz] s t) ∧
  (∀ (b i : Nat) (r : List Byte) (l : List (Nat × List Byte)) (s : State), s.frz.recordDue = (b, r) :: l → freeSlot s = some i →
    ∃ t, exec .frzRecord s = .next t ∧ recordSlot t i = r ∧ (∀ j, j ≠ i → recordSlot t j = recordSlot s j) ∧ t.frz.recordDue = l ∧
      (if b = 0 then t.frz.info0 = putBits s.frz.info0 31 24 i ∧ t.frz.info1 = s.frz.info1
       else t.frz.info1 = putBits s.frz.info1 31 24 i ∧ t.frz.info0 = s.frz.info0) ∧ t.out = s.out ∧ Frame [.frz] s t) ∧
  (∀ (b : Nat) (r : List Byte) (l : List (Nat × List Byte)) (s : State), s.frz.recordDue = (b, r) :: l → freeSlot s = none →
    ∃ t, exec .frzRecord s = .next t ∧ t.frz = { s.frz with recordDue := l } ∧
      odGet t (odKey 0x2300 8) = satAdd (odGet s (odKey 0x2300 8)) 1 (odCap (odKey 0x2300 8)) ∧ t.out = s.out ∧
      OdOnly [odKey 0x2300 8] s t ∧ Frame [.od, .frz] s t) ∧
  (∀ (acc : Access) (value : Word) (s : State), Reaches acc 0x10200084 s →
    ∃ t, exec (.frzRelease acc value none) s = .next t ∧ WriteTaken acc 0x10200084 s t ∧
      t.frz = { s.frz with full := clearMask s.frz.full (carried acc value % 4) } ∧ RegsOnly [countReg 0x10200084] s t ∧ Frame [.regs, .frz] s t) ∧
  (∀ (acc : Access) (value : Word) (m : LeashMsg) (i v : Nat) (x : Session) (s : State), Accepted m i x (odKey 0x2300 5) v s →
    ∃ t, exec (.frzRelease acc value (some m)) s = .next t ∧ AnsweredDone m i x s t ∧
      t.frz = { s.frz with full := clearMask s.frz.full (v % 4) } ∧ Frame [.frz, .leash] s t) ∧
  (∀ (m : LeashMsg) (i v : Nat) (x : Session) (s : State), Accepted m i x (odKey 0x2300 9) v s →
    ∃ t, exec (.frzClearRecords m) s = .next t ∧ AnsweredDone m i x s t ∧ t.frz = { s.frz with records := [] } ∧ Frame [.frz, .leash] s t)
end

