-- ==== Sys2Proof/Laws/Tab.lean ====
section
/-! SUPPORT. Laws of the sparse tables that hold registers, entries and memory: reading after writing, and the canonical form
(keys strictly rising, no entry equal to what an absent key reads as). -/

namespace Sys2Proof.Machine

variable {α : Type} [DecidableEq α]

/-- The canonical form holds from any lower bound on. -/
theorem tabWfFrom_mono {d : Nat → α} {t : Tab α} {a b : Nat} (h : a ≤ b) (w : tabWfFrom d b t = true) : tabWfFrom d a t = true := by
  cases t with
  | nil => rfl
  | cons p t => obtain ⟨j, v⟩ := p; grind [tabWfFrom]

/-- Filtering keeps the canonical form. -/
theorem tabWfFrom_filter {d : Nat → α} (p : Nat × α → Bool) {t : Tab α} {a : Nat} (w : tabWfFrom d a t = true) :
    tabWfFrom d a (t.filter p) = true := by
  induction t generalizing a with
  | nil => rfl
  | cons q t ih =>
    obtain ⟨j, v⟩ := q
    have hm : a ≤ j + 1 → tabWfFrom d (j + 1) (t.filter p) = true → tabWfFrom d a (t.filter p) = true := tabWfFrom_mono
    grind [tabWfFrom]

/-- Inserting a key that is not listed keeps the canonical form. -/
theorem tabInsert_wfFrom {d : Nat → α} {k : Nat} {x : α} (hx : x ≠ d k) {t : Tab α} {a : Nat} (h : a ≤ k)
    (hk : ∀ p ∈ t, p.1 ≠ k) (w : tabWfFrom d a t = true) : tabWfFrom d a (tabInsert k x t) = true := by
  induction t generalizing a with
  | nil => grind [tabWfFrom, tabInsert]
  | cons p t ih =>
    obtain ⟨j, v⟩ := p
    have h1 : j ≠ k := hk (j, v) (by simp)
    have h2 : ∀ p ∈ t, p.1 ≠ k := fun p hp => hk p (by simp [hp])
    have hm : k + 1 ≤ j → tabWfFrom d j ((j, v) :: t) = true → tabWfFrom d (k + 1) ((j, v) :: t) = true := tabWfFrom_mono
    have := fun h => ih (a := j + 1) h h2
    grind [tabWfFrom, tabInsert]

/-- Setting a key keeps the canonical form. -/
theorem tabSet_wf {d : Nat → α} (k : Nat) (x : α) {t : Tab α} (w : tabWf d t = true) : tabWf d (tabSet d t k x) = true := by
  have he : tabWf d (tabErase t k) = true := tabWfFrom_filter _ w
  unfold tabSet
  split
  · exact he
  · rename_i hx
    exact tabInsert_wfFrom hx (Nat.zero_le _) (fun p hp => by simpa [tabErase] using (List.mem_filter.mp hp).2) he

omit [DecidableEq α] in
theorem tabGet_erase_self {d : Nat → α} (k : Nat) (t : Tab α) : tabGet d (tabErase t k) k = d k := by
  unfold tabErase
  induction t with
  | nil => rfl
  | cons p t ih => obtain ⟨j, v⟩ := p; grind [tabGet]

omit [DecidableEq α] in
theorem tabGet_erase_ne {d : Nat → α} {k i : Nat} (h : i ≠ k) (t : Tab α) : tabGet d (tabErase t k) i = tabGet d t i := by
  unfold tabErase
  induction t with
  | nil => rfl
  | cons p t ih => obtain ⟨j, v⟩ := p; grind [tabGet]

omit [DecidableEq α] in
theorem tabGet_insert_self {d : Nat → α} (k : Nat) (x : α) {t : Tab α} (hk : ∀ p ∈ t, p.1 ≠ k) : tabGet d (tabInsert k x t) k = x := by
  induction t with
  | nil => simp [tabInsert, tabGet]
  | cons p t ih =>
    obtain ⟨j, v⟩ := p
    have h1 : j ≠ k := hk (j, v) (by simp)
    have h2 : ∀ p ∈ t, p.1 ≠ k := fun p hp => hk p (by simp [hp])
    have := ih h2
    grind [tabGet, tabInsert]

omit [DecidableEq α] in
theorem tabGet_insert_ne {d : Nat → α} {k i : Nat} (h : i ≠ k) (x : α) (t : Tab α) : tabGet d (tabInsert k x t) i = tabGet d t i := by
  induction t with
  | nil => simp [tabInsert, tabGet, h]
  | cons p t ih => obtain ⟨j, v⟩ := p; grind [tabGet, tabInsert]

/-- Reading the key that was set. -/
@[simp] theorem tabGet_tabSet_self {d : Nat → α} (k : Nat) (x : α) (t : Tab α) : tabGet d (tabSet d t k x) k = x := by
  unfold tabSet
  split
  · rename_i h; rw [tabGet_erase_self, h]
  · exact tabGet_insert_self k x (fun p hp => by simpa [tabErase] using (List.mem_filter.mp hp).2)

/-- Reading another key. -/
theorem tabGet_tabSet_ne {d : Nat → α} {k i : Nat} (h : i ≠ k) (x : α) (t : Tab α) : tabGet d (tabSet d t k x) i = tabGet d t i := by
  unfold tabSet
  split
  · exact tabGet_erase_ne h t
  · rw [tabGet_insert_ne h, tabGet_erase_ne h]

/-- Filtering keeps the canonical form. -/
theorem tabWf_filter {d : Nat → α} (p : Nat × α → Bool) {t : Tab α} (w : tabWf d t = true) : tabWf d (t.filter p) = true :=
  tabWfFrom_filter p w

/-- The canonical form of two tables one after the other. -/
theorem tabWfFrom_append {d : Nat → α} {t u : Tab α} {a b : Nat} (w : tabWfFrom d a t = true) (h : ∀ p ∈ t, p.1 < b) (hab : a ≤ b)
    (v : tabWfFrom d b u = true) : tabWfFrom d a (t ++ u) = true := by
  induction t generalizing a with
  | nil => exact tabWfFrom_mono hab v
  | cons p t ih =>
    obtain ⟨j, x⟩ := p
    have h1 : j < b := h (j, x) (by simp)
    have h2 : ∀ p ∈ t, p.1 < b := fun p hp => h p (by simp [hp])
    have := fun w' => ih (a := j + 1) w' h2 h1
    simp only [List.cons_append]
    grind [tabWfFrom]

/-- The cells of a byte list are in canonical form. -/
theorem memCells_wf (l : List Byte) (a : Nat) : tabWfFrom memDflt a (memCells a l) = true := by
  induction l generalizing a with
  | nil => rfl
  | cons b t ih =>
    have h1 := ih (a + 1)
    have h2 : tabWfFrom memDflt a (memCells (a + 1) t) = true := tabWfFrom_mono (Nat.le_succ a) h1
    grind [memCells, tabWfFrom]

/-- The cells of a byte list lie below its end. -/
theorem memCells_lt (l : List Byte) (a : Nat) : ∀ p ∈ memCells a l, p.1 < a + l.length := by
  induction l generalizing a with
  | nil => simp [memCells]
  | cons b t ih =>
    intro p hp
    have := ih (a + 1)
    grind [memCells]

/-- Entries kept above a bound are in canonical form from that bound on. -/
theorem tabWfFrom_above {d : Nat → α} (b : Nat) {t : Tab α} {a : Nat} (w : tabWfFrom d a t = true) :
    tabWfFrom d b (t.filter (fun p => decide (b ≤ p.1))) = true := by
  induction t generalizing a with
  | nil => rfl
  | cons q t ih =>
    obtain ⟨j, v⟩ := q
    have hw : tabWfFrom d (j + 1) t = true := by grind [tabWfFrom]
    by_cases h : b ≤ j
    · have h3 := tabWfFrom_filter (fun p => decide (b ≤ p.1)) hw
      grind [tabWfFrom]
    · have := ih hw
      grind

/-- A write of bytes keeps the canonical form of the memory. -/
theorem memWrite_wf (m : Tab Byte) (a : Nat) (l : List Byte) (w : Memory.wf m = true) : Memory.wf (memWrite m a l) = true := by
  unfold Memory.wf tabWf at *
  unfold memWrite
  rw [List.append_assoc]
  refine tabWfFrom_append (b := a) (tabWfFrom_filter _ w) ?_ (Nat.zero_le _) ?_
  · intro p hp
    simpa using (List.mem_filter.mp hp).2
  · exact tabWfFrom_append (b := a + l.length) (memCells_wf l a) (memCells_lt l a) (Nat.le_add_right _ _) (tabWfFrom_above _ w)

omit [DecidableEq α] in
theorem tabGet_append {d : Nat → α} {t u : Tab α} {i : Nat} (h : ∀ p ∈ t, p.1 ≠ i) : tabGet d (t ++ u) i = tabGet d u i := by
  induction t with
  | nil => rfl
  | cons p t ih =>
    obtain ⟨j, v⟩ := p
    have h1 : j ≠ i := h (j, v) (by simp)
    have h2 := ih (fun p hp => h p (by simp [hp]))
    simp only [List.cons_append, tabGet]
    rw [if_neg (fun e => h1 e.symm), h2]

omit [DecidableEq α] in
theorem tabGet_append_left {d : Nat → α} {t u : Tab α} {i : Nat} (h : ∀ p ∈ u, p.1 ≠ i) : tabGet d (t ++ u) i = tabGet d t i := by
  induction t with
  | nil =>
    simp only [List.nil_append]
    induction u with
    | nil => rfl
    | cons p u ih =>
      obtain ⟨j, v⟩ := p
      have h1 : j ≠ i := h (j, v) (by simp)
      have := ih (fun p hp => h p (by simp [hp]))
      simp only [tabGet]
      rw [if_neg (fun e => h1 e.symm), this]; rfl
  | cons p t ih => obtain ⟨j, v⟩ := p; grind [tabGet]

omit [DecidableEq α] in
theorem tabGet_filter {d : Nat → α} (q : Nat → Bool) {i : Nat} (h : q i = true) (t : Tab α) :
    tabGet d (t.filter (fun p => q p.1)) i = tabGet d t i := by
  induction t with
  | nil => rfl
  | cons p t ih => obtain ⟨j, v⟩ := p; grind [tabGet]

/-- Bytes outside a write are unchanged by it. -/
theorem memWrite_outside (m : Tab Byte) (a : Nat) (l : List Byte) {i : Nat} (h : i < a ∨ a + l.length ≤ i) :
    tabGet memDflt (memWrite m a l) i = tabGet memDflt m i := by
  have hc : ∀ p ∈ memCells a l, a ≤ p.1 ∧ p.1 < a + l.length := by
    intro p hp
    refine ⟨?_, memCells_lt l a p hp⟩
    clear h
    induction l generalizing a with
    | nil => simp [memCells] at hp
    | cons b t ih => have := ih (a + 1); grind [memCells]
  unfold memWrite
  rcases h with h | h
  · rw [tabGet_append_left, tabGet_append_left]
    · exact tabGet_filter (fun j => decide (j < a)) (by simpa using h) m
    · intro p hp; have := hc p hp; omega
    · intro p hp; have := (List.mem_filter.mp hp).2; simp at this; omega
  · rw [List.append_assoc, tabGet_append, tabGet_append]
    · exact tabGet_filter (fun j => decide (a + l.length ≤ j)) (by simpa using h) m
    · intro p hp; have := hc p hp; omega
    · intro p hp; have := (List.mem_filter.mp hp).2; simp at this; omega

/-- Bytes inside a write are what was written. -/
theorem memWrite_inside (m : Tab Byte) (a : Nat) (l : List Byte) {i : Nat} (h : i < l.length) :
    tabGet memDflt (memWrite m a l) (a + i) = l[i] := by
  have hc : ∀ (l : List Byte) (a i : Nat) (h : i < l.length), tabGet memDflt (memCells a l) (a + i) = l[i] := by
    intro l
    induction l with
    | nil => intro a i h; simp at h
    | cons b t ih =>
      intro a i h
      have hlt : ∀ j, j < a + 1 → tabGet memDflt (memCells (a + 1) t) j = memDflt j := by
        intro j hj
        have hn : ∀ p ∈ memCells (a + 1) t, p.1 ≠ j := by
          intro p hp e
          have : ∀ (t : List Byte) (b : Nat), ∀ p ∈ memCells b t, b ≤ p.1 := by
            intro t
            induction t with
            | nil => intro b p hp; simp [memCells] at hp
            | cons c u iu => intro b p hp; have := iu (b + 1); grind [memCells]
          have := this t (a + 1) p hp
          omega
        exact tabGet_append_left (d := memDflt) (t := []) hn
      cases i with
      | zero =>
        have := hlt a (Nat.lt_succ_self a)
        simp only [memCells]
        split
        · rename_i e; simpa [e] using this
        · simp [tabGet]
      | succ i =>
        have := ih (a + 1) i (by simpa using h)
        have e : a + (i + 1) = a + 1 + i := by omega
        simp only [memCells, List.getElem_cons_succ]
        rw [e]
        split
        · exact this
        · simp only [tabGet]
          rw [if_neg (by omega), this]
  unfold memWrite
  rw [tabGet_append_left, tabGet_append, hc l a i h]
  · intro p hp; have := (List.mem_filter.mp hp).2; simp at this; omega
  · intro p hp; have := (List.mem_filter.mp hp).2; simp at this; omega

end Sys2Proof.Machine
end

