-- ==== Sys2Proof/Laws/Keep.lean ====
section
/-! SUPPORT. What every operation keeps: the queue, the order of time, the log of outputs, burned fuses, the canonical form of the memory,
and each part of the state that it does not touch. One lemma per operation says so; a proof about a command chains them. -/

namespace Sys2Proof.Machine

theorem FusesLe.lifecycle (f : Fuses) (v : Nat) : FusesLe f { f with lifecycle := max f.lifecycle v } :=
  ⟨Nat.le_max_left _ _, Nat.le_refl _, fun _ h => h⟩

theorem FusesLe.rollback (f : Fuses) (v : Nat) : FusesLe f { f with rollback := max f.rollback v } :=
  ⟨Nat.le_refl _, Nat.le_max_left _ _, fun _ h => h⟩

theorem FusesLe.read (f : Fuses) :
    FusesLe f { f with lifecycleIn := f.lifecycle, rollbackIn := f.rollback, splitMaskIn := f.splitMask } :=
  ⟨Nat.le_refl _, Nat.le_refl _, fun _ h => h⟩

theorem FusesLe.splitMask (f : Fuses) (v : Nat) : FusesLe f { f with splitMask := f.splitMask ||| v } :=
  ⟨Nat.le_refl _, Nat.le_refl _, fun n h => by
    simp only [bit, Nat.testBit_or] at *
    simp [h]⟩

/-- From `s` to `t` the queue is untouched, time and the free values taken do not go back, outputs are only added, fuses only burn, the
memory keeps its canonical form, and every part of `M` is the same. -/
structure Keep (M : Part → Prop) (s t : State) : Prop where
  pending : t.pending = s.pending
  now     : s.now ≤ t.now
  free    : s.free ≤ t.free
  out     : s.out <:+ t.out
  fuses   : FusesLe s.fuses t.fuses
  mem     : Memory.wf s.mem = true → Memory.wf t.mem = true
  same    : ∀ p, M p → p.same s t

theorem PinsOk.same {s t : State} (h : PinsOk s) (e0 : t.dev = s.dev) (e1 : t.sdg.clkTripped = s.sdg.clkTripped)
    (e2 : t.sdg.faultN = s.sdg.faultN) (e3 : t.sdg.aliveA = s.sdg.aliveA) (e4 : t.sdg.aliveB = s.sdg.aliveB) : PinsOk t := by
  unfold PinsOk at *
  rw [e0, e1, e2, e3, e4]
  exact h

theorem Part.same_refl (p : Part) (s : State) : p.same s s := by
  cases p <;> first | rfl | exact id

theorem Part.same_trans {p : Part} {s t u : State} (h : p.same s t) (k : p.same t u) : p.same s u := by
  cases p <;> first | exact Eq.trans k h | exact fun x => k (h x)

theorem FusesLe.refl (a : Fuses) : FusesLe a a := ⟨Nat.le_refl _, Nat.le_refl _, fun _ h => h⟩

theorem FusesLe.trans {a b c : Fuses} (h : FusesLe a b) (k : FusesLe b c) : FusesLe a c :=
  ⟨Nat.le_trans h.1 k.1, Nat.le_trans h.2.1 k.2.1, fun n x => k.2.2 n (h.2.2 n x)⟩

theorem Keep.refl {M : Part → Prop} (s : State) : Keep M s s :=
  ⟨rfl, Nat.le_refl _, Nat.le_refl _, List.suffix_refl _, FusesLe.refl _, id, fun p _ => p.same_refl s⟩

theorem Keep.trans {M : Part → Prop} {s t u : State} (h : Keep M s t) (k : Keep M t u) : Keep M s u :=
  ⟨k.pending.trans h.pending, Nat.le_trans h.now k.now, Nat.le_trans h.free k.free, h.out.trans k.out, h.fuses.trans k.fuses,
   fun w => k.mem (h.mem w), fun p m => Part.same_trans (h.same p m) (k.same p m)⟩

theorem Keep.weaken {M : Part → Prop} {s t : State} (h : Keep M s t) : Keep (fun _ => False) s t :=
  ⟨h.pending, h.now, h.free, h.out, h.fuses, h.mem, fun _ m => m.elim⟩

/-- A promise that a chain of operations breaks and restores. -/
theorem Keep.promise {M : Part → Prop} {s t : State} (q : Part) (k : Keep (fun p => M p ∧ p ≠ q) s t) (h : M q → q.same s t) : Keep M s t :=
  ⟨k.pending, k.now, k.free, k.out, k.fuses, k.mem, fun p m => by
    by_cases e : p = q
    · exact e ▸ h (e ▸ m)
    · exact k.same p ⟨m, e⟩⟩

theorem Keep.mono {M N : Part → Prop} {s t : State} (h : Keep M s t) (k : ∀ p, N p → M p) : Keep N s t :=
  ⟨h.pending, h.now, h.free, h.out, h.fuses, h.mem, fun p m => h.same p (k p m)⟩

/-- A record update that leaves the clock, the free values, the outputs, the queue, the fuses and the memory alone. -/
theorem Keep.upd {M : Part → Prop} {s t : State} {x0 x3 x4 x5 x6 x7 x8 x10 x11 x12 x13 x14 x15 x16 x17 x18 x19 x20 x22 x23 x24 x25 x26 x27 x28 x29 x30 x31 x32 x33 x34 x35 x36}
    (h : Keep M s t) (k : ∀ p, M p → p.same t (State.mk x0 t.now t.free x3 x4 x5 x6 x7 x8 t.mem x10 x11 x12 x13 x14 x15 x16 x17 x18 x19 x20 t.fuses x22 x23 x24 x25 x26 x27 x28 x29 x30 x31 x32 x33 x34 x35 x36 t.out t.pending)) :
    Keep M s (State.mk x0 t.now t.free x3 x4 x5 x6 x7 x8 t.mem x10 x11 x12 x13 x14 x15 x16 x17 x18 x19 x20 t.fuses x22 x23 x24 x25 x26 x27 x28 x29 x30 x31 x32 x33 x34 x35 x36 t.out t.pending) :=
  h.trans ⟨rfl, Nat.le_refl _, Nat.le_refl _, List.suffix_refl _, FusesLe.refl _, id, k⟩

/-- A value computed on the way keeps, and with it the rest. -/
theorem Keep.cut {M : Part → Prop} {z u : State} (v : State) (h : Keep M z v) (k : Keep M z v → Keep M z u) : Keep M z u := k h

/-- Both branches keep. -/
theorem Keep.ite {M : Part → Prop} {z t u : State} {c : Prop} [Decidable c] (h : Keep M z t) (k : Keep M z u) :
    Keep M z (if c then t else u) := by
  split <;> assumption

/-- The state of an operation that also answers a value. -/
structure KeepP {α : Type} (M : Part → Prop) (s : State) (r : State × α) : Prop where
  fst : Keep M s r.1

theorem KeepP.mk' {α : Type} {M : Part → Prop} {s t : State} {a : α} (h : Keep M s t) : KeepP M s (t, a) := ⟨h⟩

theorem KeepP.of {α : Type} {M : Part → Prop} {s t : State} {a : α} {r : State × α} (h : KeepP M s r) (e : r = (t, a)) : Keep M s t := by
  subst e; exact h.fst

theorem KeepP.cut {α : Type} {M : Part → Prop} {z : State} {u : State × α} (v : State) (h : Keep M z v) (k : Keep M z v → KeepP M z u) :
    KeepP M z u := k h

theorem KeepP.ite {α : Type} {M : Part → Prop} {z : State} {t u : State × α} {c : Prop} [Decidable c] (h : KeepP M z t) (k : KeepP M z u) :
    KeepP M z (if c then t else u) := by
  split <;> assumption

/-- The state of an operation that may answer nothing. -/
structure KeepO (M : Part → Prop) (s : State) (r : Option State) : Prop where
  of : ∀ t, r = some t → Keep M s t

theorem KeepO.some {M : Part → Prop} {s t : State} (h : Keep M s t) : KeepO M s (.some t) := ⟨fun _ e => Option.some.inj e ▸ h⟩

theorem KeepO.none {M : Part → Prop} {s : State} : KeepO M s .none := ⟨fun _ e => nomatch e⟩

theorem KeepO.map {M : Part → Prop} {α : Type} {z : State} {f : α → State} {o : Option α} (h : ∀ x, Keep M z (f x)) : KeepO M z (o.map f) := by
  constructor
  intro t e
  cases o with
  | none => nomatch e
  | some x => exact Option.some.inj e ▸ h x

theorem KeepO.cut {M : Part → Prop} {z : State} {u : Option State} (v : State) (h : Keep M z v) (k : Keep M z v → KeepO M z u) :
    KeepO M z u := k h

theorem KeepO.ite {M : Part → Prop} {z : State} {t u : Option State} {c : Prop} [Decidable c] (h : KeepO M z t) (k : KeepO M z u) :
    KeepO M z (if c then t else u) := by
  split <;> assumption

/-- The next state of a command. -/
structure KeepN (M : Part → Prop) (s : State) (r : Host.Outcome State Fault Refusal) : Prop where
  of : ∀ t, r = .next t → Keep M s t

theorem KeepN.next {M : Part → Prop} {s t : State} (h : Keep M s t) : KeepN M s (.next t) := ⟨fun _ e => Host.Outcome.next.inj e ▸ h⟩

theorem KeepN.cut {M : Part → Prop} {z : State} {u : Host.Outcome State Fault Refusal} (v : State) (h : Keep M z v)
    (k : Keep M z v → KeepN M z u) : KeepN M z u := k h

theorem KeepN.ite {M : Part → Prop} {z : State} {t u : Host.Outcome State Fault Refusal} {c : Prop} [Decidable c] (h : KeepN M z t)
    (k : KeepN M z u) : KeepN M z (if c then t else u) := by
  split <;> assumption

/-- A fold of operations that each keep. -/
theorem Keep.foldl {M : Part → Prop} {α : Type} {g : State → α → State} (hg : ∀ t x, Keep M t (g t x)) {s t : State} (l : List α)
    (h : Keep M s t) : Keep M s (l.foldl g t) := by
  induction l generalizing t with
  | nil => exact h
  | cons a l ih => exact ih (h.trans (hg t a))

/-- A fold of operations that also carry a value. -/
theorem KeepP.foldl {M : Part → Prop} {α β : Type} {g : State × β → α → State × β} (hg : ∀ r x, KeepP M r.1 (g r x)) {s : State}
    {r : State × β} (l : List α) (h : KeepP M s r) : KeepP M s (l.foldl g r) := by
  induction l generalizing r with
  | nil => exact h
  | cons a l ih => exact ih ⟨h.fst.trans (hg r a).fst⟩

/-- An iteration of an operation that keeps. -/
theorem Keep.iterate {M : Part → Prop} {g : Nat → State → State} (hg : ∀ i t, Keep M t (g i t)) {s t : State} (n : Nat)
    (h : Keep M s t) : Keep M s (iterate n g t) := Keep.foldl (fun t i => hg i t) _ h

/-- Sending appends to the outputs. -/
theorem emit_keep {M : Part → Prop} (o : Output) {s t : State} (h : Keep M s t) : Keep M s (emit o t) :=
  h.trans ⟨rfl, Nat.le_refl _, Nat.le_refl _, List.suffix_cons _ _, FusesLe.refl _, id, fun p _ => by cases p <;> first | rfl | exact id⟩

/-- A free value is taken. -/
theorem takeFree_keep {M : Part → Prop} (hf : ¬ M .free) {s t : State} (h : Keep M s t) : Keep M s (takeFree t) :=
  h.trans ⟨rfl, Nat.le_refl _, Nat.le_succ _, List.suffix_refl _, FusesLe.refl _, id, fun p m => by
    cases p <;> first | rfl | exact id | exact absurd m hf⟩

/-- Time passes. -/
theorem advanceTo_keep {M : Part → Prop} (hn : ¬ M .now) (hg : ¬ M .gtime) (n : Nat) {s t : State} (h : Keep M s t) : Keep M s (advanceTo n t) :=
  h.trans ⟨rfl, Nat.le_max_left _ _, Nat.le_refl _, List.suffix_refl _, FusesLe.refl _, id, fun p m => by
    cases p <;> first | rfl | exact id | exact absurd m hg | exact absurd m hn⟩

/-- One idle nanosecond. -/
theorem tick_keep {M : Part → Prop} (hn : ¬ M .now) (hg : ¬ M .gtime) {s t : State} (h : Keep M s t) : Keep M s (tick t) :=
  h.trans ⟨rfl, Nat.le_succ _, Nat.le_refl _, List.suffix_refl _, FusesLe.refl _, id, fun p m => by
    cases p <;> first | rfl | exact id | exact absurd m hg | exact absurd m hn⟩

/-- Bytes are written to the memory. -/
theorem memPut_keep {M : Part → Prop} (hm : ¬ M .mem) (a : Nat) (l : List Byte) {s t : State} (h : Keep M s t) : Keep M s (memPut a l t) :=
  h.trans ⟨rfl, Nat.le_refl _, Nat.le_refl _, List.suffix_refl _, FusesLe.refl _, memWrite_wf _ _ _, fun p m => by
    cases p <;> first | rfl | exact id | exact absurd m hm⟩

end Sys2Proof.Machine
end

