-- ==== Sys2Proof/Laws/KeepUpd.lean ====
section
/-! SUPPORT. A record update of these fields keeps everything but the parts it names. -/

namespace Sys2Proof.Machine

theorem Keep.upd_apps {M : Part → Prop} (h_apps : ¬ M .apps) {z t : State} {x_apps}
    (h : Keep M z t) : Keep M z { t with apps := x_apps } := by
  refine h.trans ⟨rfl, Nat.le_refl _, Nat.le_refl _, List.suffix_refl _, FusesLe.refl _, id, ?_⟩
  intro p hp; cases p
  case apps => contradiction
  all_goals first | rfl | exact id

theorem Keep.upd_cams {M : Part → Prop} (h_cams : ¬ M .cams) {z t : State} {x_cams}
    (h : Keep M z t) : Keep M z { t with cams := x_cams } := by
  refine h.trans ⟨rfl, Nat.le_refl _, Nat.le_refl _, List.suffix_refl _, FusesLe.refl _, id, ?_⟩
  intro p hp; cases p
  case cams => contradiction
  all_goals first | rfl | exact id

theorem Keep.upd_can {M : Part → Prop} (h_can : ¬ M .can) {z t : State} {x_can}
    (h : Keep M z t) : Keep M z { t with can := x_can } := by
  refine h.trans ⟨rfl, Nat.le_refl _, Nat.le_refl _, List.suffix_refl _, FusesLe.refl _, id, ?_⟩
  intro p hp; cases p
  case can => contradiction
  all_goals first | rfl | exact id

theorem Keep.upd_canopen {M : Part → Prop} (h_canopen : ¬ M .canopen) {z t : State} {x_canopen}
    (h : Keep M z t) : Keep M z { t with canopen := x_canopen } := by
  refine h.trans ⟨rfl, Nat.le_refl _, Nat.le_refl _, List.suffix_refl _, FusesLe.refl _, id, ?_⟩
  intro p hp; cases p
  case canopen => contradiction
  all_goals first | rfl | exact id

theorem Keep.upd_cim {M : Part → Prop} (h_cim : ¬ M .cim) {z t : State} {x_cim}
    (h : Keep M z t) : Keep M z { t with cim := x_cim } := by
  refine h.trans ⟨rfl, Nat.le_refl _, Nat.le_refl _, List.suffix_refl _, FusesLe.refl _, id, ?_⟩
  intro p hp; cases p
  case cim => contradiction
  all_goals first | rfl | exact id

theorem Keep.upd_dev {M : Part → Prop} (h_dev : ¬ M .dev) {z t : State} {x_dev}
    (w_latch : M .latch → t.dev = .failed → x_dev = .failed) (w_pins : M .pins → PinsOk t → PinsOk { t with dev := x_dev }) (h : Keep M z t) : Keep M z { t with dev := x_dev } := by
  refine h.trans ⟨rfl, Nat.le_refl _, Nat.le_refl _, List.suffix_refl _, FusesLe.refl _, id, ?_⟩
  intro p hp; cases p
  case dev => contradiction
  case latch => exact w_latch hp
  case pins => exact w_pins hp
  all_goals first | rfl | exact id

theorem Keep.upd_dev_pwr_start_sdg_frz {M : Part → Prop} (h_dev : ¬ M .dev) (h_pwr : ¬ M .pwr) (h_start : ¬ M .start) (h_sdg : ¬ M .sdg) (h_frz : ¬ M .frz) {z t : State} {x_dev x_pwr x_start x_sdg x_frz}
    (w_latch : M .latch → t.dev = .failed → x_dev = .failed) (w_pins : M .pins → PinsOk t → PinsOk { t with dev := x_dev, pwr := x_pwr, start := x_start, sdg := x_sdg, frz := x_frz }) (h : Keep M z t) : Keep M z { t with dev := x_dev, pwr := x_pwr, start := x_start, sdg := x_sdg, frz := x_frz } := by
  refine h.trans ⟨rfl, Nat.le_refl _, Nat.le_refl _, List.suffix_refl _, FusesLe.refl _, id, ?_⟩
  intro p hp; cases p
  case dev => contradiction
  case pwr => contradiction
  case start => contradiction
  case sdg => contradiction
  case frz => contradiction
  case latch => exact w_latch hp
  case pins => exact w_pins hp
  all_goals first | rfl | exact id

theorem Keep.upd_frz {M : Part → Prop} (h_frz : ¬ M .frz) {z t : State} {x_frz}
    (h : Keep M z t) : Keep M z { t with frz := x_frz } := by
  refine h.trans ⟨rfl, Nat.le_refl _, Nat.le_refl _, List.suffix_refl _, FusesLe.refl _, id, ?_⟩
  intro p hp; cases p
  case frz => contradiction
  all_goals first | rfl | exact id

theorem Keep.upd_fuses {M : Part → Prop} (h_fuses : ¬ M .fuses) {z t : State} {x_fuses}
    (w_fuses : FusesLe t.fuses x_fuses) (h : Keep M z t) : Keep M z { t with fuses := x_fuses } := by
  refine h.trans ⟨rfl, Nat.le_refl _, Nat.le_refl _, List.suffix_refl _, w_fuses, id, ?_⟩
  intro p hp; cases p
  case fuses => contradiction
  all_goals first | rfl | exact id

theorem Keep.upd_gfx {M : Part → Prop} (h_gfx : ¬ M .gfx) {z t : State} {x_gfx}
    (h : Keep M z t) : Keep M z { t with gfx := x_gfx } := by
  refine h.trans ⟨rfl, Nat.le_refl _, Nat.le_refl _, List.suffix_refl _, FusesLe.refl _, id, ?_⟩
  intro p hp; cases p
  case gfx => contradiction
  all_goals first | rfl | exact id

theorem Keep.upd_gtime {M : Part → Prop} (h_gtime : ¬ M .gtime) {z t : State} {x_gtime}
    (h : Keep M z t) : Keep M z { t with gtime := x_gtime } := by
  refine h.trans ⟨rfl, Nat.le_refl _, Nat.le_refl _, List.suffix_refl _, FusesLe.refl _, id, ?_⟩
  intro p hp; cases p
  case gtime => contradiction
  all_goals first | rfl | exact id

theorem Keep.upd_hold {M : Part → Prop} (h_hold : ¬ M .hold) {z t : State} {x_hold}
    (h : Keep M z t) : Keep M z { t with hold := x_hold } := by
  refine h.trans ⟨rfl, Nat.le_refl _, Nat.le_refl _, List.suffix_refl _, FusesLe.refl _, id, ?_⟩
  intro p hp; cases p
  case hold => contradiction
  all_goals first | rfl | exact id

theorem Keep.upd_kennel {M : Part → Prop} (h_kennel : ¬ M .kennel) {z t : State} {x_kennel}
    (h : Keep M z t) : Keep M z { t with kennel := x_kennel } := by
  refine h.trans ⟨rfl, Nat.le_refl _, Nat.le_refl _, List.suffix_refl _, FusesLe.refl _, id, ?_⟩
  intro p hp; cases p
  case kennel => contradiction
  all_goals first | rfl | exact id

theorem Keep.upd_knots {M : Part → Prop} (h_knots : ¬ M .knots) {z t : State} {x_knots}
    (h : Keep M z t) : Keep M z { t with knots := x_knots } := by
  refine h.trans ⟨rfl, Nat.le_refl _, Nat.le_refl _, List.suffix_refl _, FusesLe.refl _, id, ?_⟩
  intro p hp; cases p
  case knots => contradiction
  all_goals first | rfl | exact id

theorem Keep.upd_leash {M : Part → Prop} (h_leash : ¬ M .leash) {z t : State} {x_leash}
    (h : Keep M z t) : Keep M z { t with leash := x_leash } := by
  refine h.trans ⟨rfl, Nat.le_refl _, Nat.le_refl _, List.suffix_refl _, FusesLe.refl _, id, ?_⟩
  intro p hp; cases p
  case leash => contradiction
  all_goals first | rfl | exact id

theorem Keep.upd_leash_canopen {M : Part → Prop} (h_leash : ¬ M .leash) (h_canopen : ¬ M .canopen) {z t : State} {x_leash x_canopen}
    (h : Keep M z t) : Keep M z { t with leash := x_leash, canopen := x_canopen } := by
  refine h.trans ⟨rfl, Nat.le_refl _, Nat.le_refl _, List.suffix_refl _, FusesLe.refl _, id, ?_⟩
  intro p hp; cases p
  case leash => contradiction
  case canopen => contradiction
  all_goals first | rfl | exact id

theorem Keep.upd_leash_params {M : Part → Prop} (h_leash : ¬ M .leash) (h_params : ¬ M .params) {z t : State} {x_leash x_params}
    (h : Keep M z t) : Keep M z { t with leash := x_leash, params := x_params } := by
  refine h.trans ⟨rfl, Nat.le_refl _, Nat.le_refl _, List.suffix_refl _, FusesLe.refl _, id, ?_⟩
  intro p hp; cases p
  case leash => contradiction
  case params => contradiction
  all_goals first | rfl | exact id

theorem Keep.upd_lock {M : Part → Prop} (h_lock : ¬ M .lock) {z t : State} {x_lock}
    (h : Keep M z t) : Keep M z { t with lock := x_lock } := by
  refine h.trans ⟨rfl, Nat.le_refl _, Nat.le_refl _, List.suffix_refl _, FusesLe.refl _, id, ?_⟩
  intro p hp; cases p
  case lock => contradiction
  all_goals first | rfl | exact id

theorem Keep.upd_lock_fuses {M : Part → Prop} (h_lock : ¬ M .lock) (h_fuses : ¬ M .fuses) {z t : State} {x_lock x_fuses}
    (w_fuses : FusesLe t.fuses x_fuses) (h : Keep M z t) : Keep M z { t with lock := x_lock, fuses := x_fuses } := by
  refine h.trans ⟨rfl, Nat.le_refl _, Nat.le_refl _, List.suffix_refl _, w_fuses, id, ?_⟩
  intro p hp; cases p
  case lock => contradiction
  case fuses => contradiction
  all_goals first | rfl | exact id

theorem Keep.upd_mem {M : Part → Prop} (h_mem : ¬ M .mem) {z t : State} {x_mem}
    (w_mem : Memory.wf t.mem = true → Memory.wf x_mem = true) (h : Keep M z t) : Keep M z { t with mem := x_mem } := by
  refine h.trans ⟨rfl, Nat.le_refl _, Nat.le_refl _, List.suffix_refl _, FusesLe.refl _, w_mem, ?_⟩
  intro p hp; cases p
  case mem => contradiction
  all_goals first | rfl | exact id

theorem Keep.upd_mem_memCtl {M : Part → Prop} (h_mem : ¬ M .mem) (h_memCtl : ¬ M .memCtl) {z t : State} {x_mem x_memCtl}
    (w_mem : Memory.wf t.mem = true → Memory.wf x_mem = true) (h : Keep M z t) : Keep M z { t with mem := x_mem, memCtl := x_memCtl } := by
  refine h.trans ⟨rfl, Nat.le_refl _, Nat.le_refl _, List.suffix_refl _, FusesLe.refl _, w_mem, ?_⟩
  intro p hp; cases p
  case mem => contradiction
  case memCtl => contradiction
  all_goals first | rfl | exact id

theorem Keep.upd_memCtl {M : Part → Prop} (h_memCtl : ¬ M .memCtl) {z t : State} {x_memCtl}
    (h : Keep M z t) : Keep M z { t with memCtl := x_memCtl } := by
  refine h.trans ⟨rfl, Nat.le_refl _, Nat.le_refl _, List.suffix_refl _, FusesLe.refl _, id, ?_⟩
  intro p hp; cases p
  case memCtl => contradiction
  all_goals first | rfl | exact id

theorem Keep.upd_memCtl_pwr {M : Part → Prop} (h_memCtl : ¬ M .memCtl) (h_pwr : ¬ M .pwr) {z t : State} {x_memCtl x_pwr}
    (h : Keep M z t) : Keep M z { t with memCtl := x_memCtl, pwr := x_pwr } := by
  refine h.trans ⟨rfl, Nat.le_refl _, Nat.le_refl _, List.suffix_refl _, FusesLe.refl _, id, ?_⟩
  intro p hp; cases p
  case memCtl => contradiction
  case pwr => contradiction
  all_goals first | rfl | exact id

theorem Keep.upd_net {M : Part → Prop} (h_net : ¬ M .net) {z t : State} {x_net}
    (h : Keep M z t) : Keep M z { t with net := x_net } := by
  refine h.trans ⟨rfl, Nat.le_refl _, Nat.le_refl _, List.suffix_refl _, FusesLe.refl _, id, ?_⟩
  intro p hp; cases p
  case net => contradiction
  all_goals first | rfl | exact id

theorem Keep.upd_od {M : Part → Prop} (h_od : ¬ M .od) {z t : State} {x_od}
    (h : Keep M z t) : Keep M z { t with od := x_od } := by
  refine h.trans ⟨rfl, Nat.le_refl _, Nat.le_refl _, List.suffix_refl _, FusesLe.refl _, id, ?_⟩
  intro p hp; cases p
  case od => contradiction
  all_goals first | rfl | exact id

theorem Keep.upd_od_odBlob {M : Part → Prop} (h_od : ¬ M .od) (h_odBlob : ¬ M .odBlob) {z t : State} {x_od x_odBlob}
    (h : Keep M z t) : Keep M z { t with od := x_od, odBlob := x_odBlob } := by
  refine h.trans ⟨rfl, Nat.le_refl _, Nat.le_refl _, List.suffix_refl _, FusesLe.refl _, id, ?_⟩
  intro p hp; cases p
  case od => contradiction
  case odBlob => contradiction
  all_goals first | rfl | exact id

theorem Keep.upd_odBlob_odChange {M : Part → Prop} (h_odBlob : ¬ M .odBlob) (h_odChange : ¬ M .odChange) {z t : State} {x_odBlob x_odChange}
    (h : Keep M z t) : Keep M z { t with odBlob := x_odBlob, odChange := x_odChange } := by
  refine h.trans ⟨rfl, Nat.le_refl _, Nat.le_refl _, List.suffix_refl _, FusesLe.refl _, id, ?_⟩
  intro p hp; cases p
  case odBlob => contradiction
  case odChange => contradiction
  all_goals first | rfl | exact id

theorem Keep.upd_odChange_leash {M : Part → Prop} (h_odChange : ¬ M .odChange) (h_leash : ¬ M .leash) {z t : State} {x_odChange x_leash}
    (h : Keep M z t) : Keep M z { t with odChange := x_odChange, leash := x_leash } := by
  refine h.trans ⟨rfl, Nat.le_refl _, Nat.le_refl _, List.suffix_refl _, FusesLe.refl _, id, ?_⟩
  intro p hp; cases p
  case odChange => contradiction
  case leash => contradiction
  all_goals first | rfl | exact id

theorem Keep.upd_odChange_odStart {M : Part → Prop} (h_odChange : ¬ M .odChange) (h_odStart : ¬ M .odStart) {z t : State} {x_odChange x_odStart}
    (h : Keep M z t) : Keep M z { t with odChange := x_odChange, odStart := x_odStart } := by
  refine h.trans ⟨rfl, Nat.le_refl _, Nat.le_refl _, List.suffix_refl _, FusesLe.refl _, id, ?_⟩
  intro p hp; cases p
  case odChange => contradiction
  case odStart => contradiction
  all_goals first | rfl | exact id

theorem Keep.upd_pack {M : Part → Prop} (h_pack : ¬ M .pack) {z t : State} {x_pack}
    (h : Keep M z t) : Keep M z { t with pack := x_pack } := by
  refine h.trans ⟨rfl, Nat.le_refl _, Nat.le_refl _, List.suffix_refl _, FusesLe.refl _, id, ?_⟩
  intro p hp; cases p
  case pack => contradiction
  all_goals first | rfl | exact id

theorem Keep.upd_params {M : Part → Prop} (h_params : ¬ M .params) {z t : State} {x_params}
    (h : Keep M z t) : Keep M z { t with params := x_params } := by
  refine h.trans ⟨rfl, Nat.le_refl _, Nat.le_refl _, List.suffix_refl _, FusesLe.refl _, id, ?_⟩
  intro p hp; cases p
  case params => contradiction
  all_goals first | rfl | exact id

theorem Keep.upd_pipes {M : Part → Prop} (h_pipes : ¬ M .pipes) {z t : State} {x_pipes}
    (h : Keep M z t) : Keep M z { t with pipes := x_pipes } := by
  refine h.trans ⟨rfl, Nat.le_refl _, Nat.le_refl _, List.suffix_refl _, FusesLe.refl _, id, ?_⟩
  intro p hp; cases p
  case pipes => contradiction
  all_goals first | rfl | exact id

theorem Keep.upd_pwr {M : Part → Prop} (h_pwr : ¬ M .pwr) {z t : State} {x_pwr}
    (h : Keep M z t) : Keep M z { t with pwr := x_pwr } := by
  refine h.trans ⟨rfl, Nat.le_refl _, Nat.le_refl _, List.suffix_refl _, FusesLe.refl _, id, ?_⟩
  intro p hp; cases p
  case pwr => contradiction
  all_goals first | rfl | exact id

theorem Keep.upd_pwr_start_frz {M : Part → Prop} (h_pwr : ¬ M .pwr) (h_start : ¬ M .start) (h_frz : ¬ M .frz) {z t : State} {x_pwr x_start x_frz}
    (h : Keep M z t) : Keep M z { t with pwr := x_pwr, start := x_start, frz := x_frz } := by
  refine h.trans ⟨rfl, Nat.le_refl _, Nat.le_refl _, List.suffix_refl _, FusesLe.refl _, id, ?_⟩
  intro p hp; cases p
  case pwr => contradiction
  case start => contradiction
  case frz => contradiction
  all_goals first | rfl | exact id

theorem Keep.upd_pwr_start_sdg_frz {M : Part → Prop} (h_pwr : ¬ M .pwr) (h_start : ¬ M .start) (h_sdg : ¬ M .sdg) (h_frz : ¬ M .frz) {z t : State} {x_pwr x_start x_sdg x_frz}
    (w_pins : M .pins → PinsOk t → PinsOk { t with pwr := x_pwr, start := x_start, sdg := x_sdg, frz := x_frz }) (h : Keep M z t) : Keep M z { t with pwr := x_pwr, start := x_start, sdg := x_sdg, frz := x_frz } := by
  refine h.trans ⟨rfl, Nat.le_refl _, Nat.le_refl _, List.suffix_refl _, FusesLe.refl _, id, ?_⟩
  intro p hp; cases p
  case pwr => contradiction
  case start => contradiction
  case sdg => contradiction
  case frz => contradiction
  case pins => exact w_pins hp
  all_goals first | rfl | exact id

theorem Keep.upd_pwr_start_sdg_frz_leash {M : Part → Prop} (h_pwr : ¬ M .pwr) (h_start : ¬ M .start) (h_sdg : ¬ M .sdg) (h_frz : ¬ M .frz) (h_leash : ¬ M .leash) {z t : State} {x_pwr x_start x_sdg x_frz x_leash}
    (w_pins : M .pins → PinsOk t → PinsOk { t with pwr := x_pwr, start := x_start, sdg := x_sdg, frz := x_frz, leash := x_leash }) (h : Keep M z t) : Keep M z { t with pwr := x_pwr, start := x_start, sdg := x_sdg, frz := x_frz, leash := x_leash } := by
  refine h.trans ⟨rfl, Nat.le_refl _, Nat.le_refl _, List.suffix_refl _, FusesLe.refl _, id, ?_⟩
  intro p hp; cases p
  case pwr => contradiction
  case start => contradiction
  case sdg => contradiction
  case frz => contradiction
  case leash => contradiction
  case pins => exact w_pins hp
  all_goals first | rfl | exact id

theorem Keep.upd_regs {M : Part → Prop} (h_regs : ¬ M .regs) {z t : State} {x_regs}
    (h : Keep M z t) : Keep M z { t with regs := x_regs } := by
  refine h.trans ⟨rfl, Nat.le_refl _, Nat.le_refl _, List.suffix_refl _, FusesLe.refl _, id, ?_⟩
  intro p hp; cases p
  case regs => contradiction
  all_goals first | rfl | exact id

theorem Keep.upd_regs_hold_pack {M : Part → Prop} (h_regs : ¬ M .regs) (h_hold : ¬ M .hold) (h_pack : ¬ M .pack) {z t : State} {x_regs x_hold x_pack}
    (h : Keep M z t) : Keep M z { t with regs := x_regs, hold := x_hold, pack := x_pack } := by
  refine h.trans ⟨rfl, Nat.le_refl _, Nat.le_refl _, List.suffix_refl _, FusesLe.refl _, id, ?_⟩
  intro p hp; cases p
  case regs => contradiction
  case hold => contradiction
  case pack => contradiction
  all_goals first | rfl | exact id

theorem Keep.upd_regs_hold_sdg_frz_leash_canopen_lock_apps_sec_knots_pack_kennel_cams_gfx_pipes_net_can_tether_splice_wh_slots_safeSlots {M : Part → Prop} (h_regs : ¬ M .regs) (h_hold : ¬ M .hold) (h_sdg : ¬ M .sdg) (h_frz : ¬ M .frz) (h_leash : ¬ M .leash) (h_canopen : ¬ M .canopen) (h_lock : ¬ M .lock) (h_apps : ¬ M .apps) (h_sec : ¬ M .sec) (h_knots : ¬ M .knots) (h_pack : ¬ M .pack) (h_kennel : ¬ M .kennel) (h_cams : ¬ M .cams) (h_gfx : ¬ M .gfx) (h_pipes : ¬ M .pipes) (h_net : ¬ M .net) (h_can : ¬ M .can) (h_tether : ¬ M .tether) (h_splice : ¬ M .splice) (h_wh : ¬ M .wh) (h_slots : ¬ M .slots) (h_safeSlots : ¬ M .safeSlots) {z t : State} {x_regs x_hold x_sdg x_frz x_leash x_canopen x_lock x_apps x_sec x_knots x_pack x_kennel x_cams x_gfx x_pipes x_net x_can x_tether x_splice x_wh x_slots x_safeSlots}
    (w_pins : M .pins → PinsOk t → PinsOk { t with regs := x_regs, hold := x_hold, sdg := x_sdg, frz := x_frz, leash := x_leash, canopen := x_canopen, lock := x_lock, apps := x_apps, sec := x_sec, knots := x_knots, pack := x_pack, kennel := x_kennel, cams := x_cams, gfx := x_gfx, pipes := x_pipes, net := x_net, can := x_can, tether := x_tether, splice := x_splice, wh := x_wh, slots := x_slots, safeSlots := x_safeSlots }) (h : Keep M z t) : Keep M z { t with regs := x_regs, hold := x_hold, sdg := x_sdg, frz := x_frz, leash := x_leash, canopen := x_canopen, lock := x_lock, apps := x_apps, sec := x_sec, knots := x_knots, pack := x_pack, kennel := x_kennel, cams := x_cams, gfx := x_gfx, pipes := x_pipes, net := x_net, can := x_can, tether := x_tether, splice := x_splice, wh := x_wh, slots := x_slots, safeSlots := x_safeSlots } := by
  refine h.trans ⟨rfl, Nat.le_refl _, Nat.le_refl _, List.suffix_refl _, FusesLe.refl _, id, ?_⟩
  intro p hp; cases p
  case regs => contradiction
  case hold => contradiction
  case sdg => contradiction
  case frz => contradiction
  case leash => contradiction
  case canopen => contradiction
  case lock => contradiction
  case apps => contradiction
  case sec => contradiction
  case knots => contradiction
  case pack => contradiction
  case kennel => contradiction
  case cams => contradiction
  case gfx => contradiction
  case pipes => contradiction
  case net => contradiction
  case can => contradiction
  case tether => contradiction
  case splice => contradiction
  case wh => contradiction
  case slots => contradiction
  case safeSlots => contradiction
  case pins => exact w_pins hp
  all_goals first | rfl | exact id

theorem Keep.upd_safeSlots {M : Part → Prop} (h_safeSlots : ¬ M .safeSlots) {z t : State} {x_safeSlots}
    (h : Keep M z t) : Keep M z { t with safeSlots := x_safeSlots } := by
  refine h.trans ⟨rfl, Nat.le_refl _, Nat.le_refl _, List.suffix_refl _, FusesLe.refl _, id, ?_⟩
  intro p hp; cases p
  case safeSlots => contradiction
  all_goals first | rfl | exact id

theorem Keep.upd_sdg {M : Part → Prop} (h_sdg : ¬ M .sdg) {z t : State} {x_sdg}
    (w_pins : M .pins → PinsOk t → PinsOk { t with sdg := x_sdg }) (h : Keep M z t) : Keep M z { t with sdg := x_sdg } := by
  refine h.trans ⟨rfl, Nat.le_refl _, Nat.le_refl _, List.suffix_refl _, FusesLe.refl _, id, ?_⟩
  intro p hp; cases p
  case sdg => contradiction
  case pins => exact w_pins hp
  all_goals first | rfl | exact id

theorem Keep.upd_sec {M : Part → Prop} (h_sec : ¬ M .sec) {z t : State} {x_sec}
    (h : Keep M z t) : Keep M z { t with sec := x_sec } := by
  refine h.trans ⟨rfl, Nat.le_refl _, Nat.le_refl _, List.suffix_refl _, FusesLe.refl _, id, ?_⟩
  intro p hp; cases p
  case sec => contradiction
  all_goals first | rfl | exact id

theorem Keep.upd_slots {M : Part → Prop} (h_slots : ¬ M .slots) {z t : State} {x_slots}
    (h : Keep M z t) : Keep M z { t with slots := x_slots } := by
  refine h.trans ⟨rfl, Nat.le_refl _, Nat.le_refl _, List.suffix_refl _, FusesLe.refl _, id, ?_⟩
  intro p hp; cases p
  case slots => contradiction
  all_goals first | rfl | exact id

theorem Keep.upd_splice {M : Part → Prop} (h_splice : ¬ M .splice) {z t : State} {x_splice}
    (h : Keep M z t) : Keep M z { t with splice := x_splice } := by
  refine h.trans ⟨rfl, Nat.le_refl _, Nat.le_refl _, List.suffix_refl _, FusesLe.refl _, id, ?_⟩
  intro p hp; cases p
  case splice => contradiction
  all_goals first | rfl | exact id

theorem Keep.upd_start {M : Part → Prop} (h_start : ¬ M .start) {z t : State} {x_start}
    (h : Keep M z t) : Keep M z { t with start := x_start } := by
  refine h.trans ⟨rfl, Nat.le_refl _, Nat.le_refl _, List.suffix_refl _, FusesLe.refl _, id, ?_⟩
  intro p hp; cases p
  case start => contradiction
  all_goals first | rfl | exact id

theorem Keep.upd_start_frz_sec_wh {M : Part → Prop} (h_start : ¬ M .start) (h_frz : ¬ M .frz) (h_sec : ¬ M .sec) (h_wh : ¬ M .wh) {z t : State} {x_start x_frz x_sec x_wh}
    (h : Keep M z t) : Keep M z { t with start := x_start, frz := x_frz, sec := x_sec, wh := x_wh } := by
  refine h.trans ⟨rfl, Nat.le_refl _, Nat.le_refl _, List.suffix_refl _, FusesLe.refl _, id, ?_⟩
  intro p hp; cases p
  case start => contradiction
  case frz => contradiction
  case sec => contradiction
  case wh => contradiction
  all_goals first | rfl | exact id

theorem Keep.upd_start_leash {M : Part → Prop} (h_start : ¬ M .start) (h_leash : ¬ M .leash) {z t : State} {x_start x_leash}
    (h : Keep M z t) : Keep M z { t with start := x_start, leash := x_leash } := by
  refine h.trans ⟨rfl, Nat.le_refl _, Nat.le_refl _, List.suffix_refl _, FusesLe.refl _, id, ?_⟩
  intro p hp; cases p
  case start => contradiction
  case leash => contradiction
  all_goals first | rfl | exact id

theorem Keep.upd_start_sdg {M : Part → Prop} (h_start : ¬ M .start) (h_sdg : ¬ M .sdg) {z t : State} {x_start x_sdg}
    (w_pins : M .pins → PinsOk t → PinsOk { t with start := x_start, sdg := x_sdg }) (h : Keep M z t) : Keep M z { t with start := x_start, sdg := x_sdg } := by
  refine h.trans ⟨rfl, Nat.le_refl _, Nat.le_refl _, List.suffix_refl _, FusesLe.refl _, id, ?_⟩
  intro p hp; cases p
  case start => contradiction
  case sdg => contradiction
  case pins => exact w_pins hp
  all_goals first | rfl | exact id

theorem Keep.upd_start_sdg_frz_leash {M : Part → Prop} (h_start : ¬ M .start) (h_sdg : ¬ M .sdg) (h_frz : ¬ M .frz) (h_leash : ¬ M .leash) {z t : State} {x_start x_sdg x_frz x_leash}
    (w_pins : M .pins → PinsOk t → PinsOk { t with start := x_start, sdg := x_sdg, frz := x_frz, leash := x_leash }) (h : Keep M z t) : Keep M z { t with start := x_start, sdg := x_sdg, frz := x_frz, leash := x_leash } := by
  refine h.trans ⟨rfl, Nat.le_refl _, Nat.le_refl _, List.suffix_refl _, FusesLe.refl _, id, ?_⟩
  intro p hp; cases p
  case start => contradiction
  case sdg => contradiction
  case frz => contradiction
  case leash => contradiction
  case pins => exact w_pins hp
  all_goals first | rfl | exact id

theorem Keep.upd_tether {M : Part → Prop} (h_tether : ¬ M .tether) {z t : State} {x_tether}
    (h : Keep M z t) : Keep M z { t with tether := x_tether } := by
  refine h.trans ⟨rfl, Nat.le_refl _, Nat.le_refl _, List.suffix_refl _, FusesLe.refl _, id, ?_⟩
  intro p hp; cases p
  case tether => contradiction
  all_goals first | rfl | exact id

theorem Keep.upd_wh {M : Part → Prop} (h_wh : ¬ M .wh) {z t : State} {x_wh}
    (h : Keep M z t) : Keep M z { t with wh := x_wh } := by
  refine h.trans ⟨rfl, Nat.le_refl _, Nat.le_refl _, List.suffix_refl _, FusesLe.refl _, id, ?_⟩
  intro p hp; cases p
  case wh => contradiction
  all_goals first | rfl | exact id

end Sys2Proof.Machine
end

