-- ==== Sys2Proof/Laws/KeepOps.lean ====
section
/-! SUPPORT. What the operations of Machine/Ops.lean keep: one lemma each. -/

namespace Sys2Proof.Machine

theorem gtimeReach_keep {M : Part → Prop} {z s : State} (h_now : ¬ M .now) (h_gtime : ¬ M .gtime) (g : Nat) (hz : Keep M z s) :
    Keep M z (gtimeReach g s) := by
  unfold gtimeReach
  repeat' (first
    | with_reducible assumption
    | with_reducible exact Keep.refl _
    | intro _
    | ((fail_if_success (conv => arg 3; arg 1)); extract_lets +onlyGivenNames t; refine Keep.cut t ?_ ?_; subst t; rotate_left; clear_value t; intro ht; rotate_right)
    | ((fail_if_success (conv => arg 3; arg 1)); extract_lets +onlyGivenNames t; subst t)
    | with_reducible apply advanceTo_keep
    | ((fail_if_success (fail_if_success (conv => arg 3; arg 39))); with_reducible apply Keep.upd_gtime)
    | with_reducible apply Keep.ite
    | split
    | dsimp -zeta only)

theorem regPut_keep {M : Part → Prop} {z s : State} (h_regs : ¬ M .regs) (addr : Nat) (v : Nat) (hz : Keep M z s) :
    Keep M z (regPut addr v s) := by
  unfold regPut
  repeat' (first
    | with_reducible assumption
    | with_reducible exact Keep.refl _
    | intro _
    | ((fail_if_success (fail_if_success (conv => arg 3; arg 39))); with_reducible apply Keep.upd_regs)
    | split
    | dsimp -zeta only)

theorem regUpd_keep {M : Part → Prop} {z s : State} (h_regs : ¬ M .regs) (addr : Nat) (f : Nat → Nat) (hz : Keep M z s) :
    Keep M z (regUpd addr f s) := by
  unfold regUpd
  repeat' (first
    | with_reducible assumption
    | with_reducible exact Keep.refl _
    | intro _
    | with_reducible apply regPut_keep
    | split
    | dsimp -zeta only)

theorem regSetBits_keep {M : Part → Prop} {z s : State} (h_regs : ¬ M .regs) (addr : Nat) (mask : Nat) (hz : Keep M z s) :
    Keep M z (regSetBits addr mask s) := by
  unfold regSetBits
  repeat' (first
    | with_reducible assumption
    | with_reducible exact Keep.refl _
    | intro _
    | with_reducible apply regUpd_keep
    | split
    | dsimp -zeta only)

theorem regCount_keep {M : Part → Prop} {z s : State} (h_regs : ¬ M .regs) (addr : Nat) (n : Nat) (hz : Keep M z s) :
    Keep M z (regCount addr n s) := by
  unfold regCount
  repeat' (first
    | with_reducible assumption
    | with_reducible exact Keep.refl _
    | intro _
    | with_reducible apply regUpd_keep
    | split
    | dsimp -zeta only)

theorem regCount64_keep {M : Part → Prop} {z s : State} (h_regs : ¬ M .regs) (addr : Nat) (n : Nat) (hz : Keep M z s) :
    Keep M z (regCount64 addr n s) := by
  unfold regCount64
  repeat' (first
    | with_reducible assumption
    | with_reducible exact Keep.refl _
    | intro _
    | with_reducible apply regUpd_keep
    | split
    | dsimp -zeta only)

theorem odPut_keep {M : Part → Prop} {z s : State} (h_od : ¬ M .od) (k : Nat) (v : Nat) (hz : Keep M z s) :
    Keep M z (odPut k v s) := by
  unfold odPut
  repeat' (first
    | with_reducible assumption
    | with_reducible exact Keep.refl _
    | intro _
    | ((fail_if_success (fail_if_success (conv => arg 3; arg 39))); with_reducible apply Keep.upd_od)
    | split
    | dsimp -zeta only)

theorem blobPut_keep {M : Part → Prop} {z s : State} (h_odBlob : ¬ M .odBlob) (h_odChange : ¬ M .odChange) (k : Nat) (v : List Byte) (hz : Keep M z s) :
    Keep M z (blobPut k v s) := by
  unfold blobPut
  repeat' (first
    | with_reducible assumption
    | with_reducible exact Keep.refl _
    | intro _
    | ((fail_if_success (fail_if_success (conv => arg 3; arg 39))); with_reducible apply Keep.upd_odBlob_odChange)
    | with_reducible apply Keep.ite
    | split
    | dsimp -zeta only)

theorem odCount_keep {M : Part → Prop} {z s : State} (h_od : ¬ M .od) (k : Nat) (n : Nat) (hz : Keep M z s) :
    Keep M z (odCount k n s) := by
  unfold odCount
  repeat' (first
    | with_reducible assumption
    | with_reducible exact Keep.refl _
    | intro _
    | with_reducible apply odPut_keep
    | split
    | dsimp -zeta only)

theorem odMax_keep {M : Part → Prop} {z s : State} (h_od : ¬ M .od) (k : Nat) (v : Nat) (hz : Keep M z s) :
    Keep M z (odMax k v s) := by
  unfold odMax
  repeat' (first
    | with_reducible assumption
    | with_reducible exact Keep.refl _
    | intro _
    | with_reducible apply odPut_keep
    | split
    | dsimp -zeta only)

theorem routeEvent_keep {M : Part → Prop} {z s : State} (h_regs : ¬ M .regs) (safety : Bool) (addr : Nat) (hz : Keep M z s) :
    Keep M z (routeEvent safety addr s) := by
  unfold routeEvent
  repeat' (first
    | with_reducible assumption
    | with_reducible exact Keep.refl _
    | intro _
    | ((fail_if_success (conv => arg 3; arg 1)); extract_lets +onlyGivenNames t; refine Keep.cut t ?_ ?_; subst t; rotate_left; clear_value t; intro ht; rotate_right)
    | ((fail_if_success (conv => arg 3; arg 1)); extract_lets +onlyGivenNames t; subst t)
    | with_reducible apply emit_keep
    | with_reducible apply regPut_keep
    | with_reducible apply Keep.ite
    | split
    | dsimp -zeta only)

theorem safeMsg_keep {M : Part → Prop} {z s : State} (h_regs : ¬ M .regs) (e : Nat) (hz : Keep M z s) :
    Keep M z (safeMsg e s) := by
  unfold safeMsg
  repeat' (first
    | with_reducible assumption
    | with_reducible exact Keep.refl _
    | intro _
    | with_reducible apply routeEvent_keep
    | split
    | dsimp -zeta only)

theorem sendMsg_keep {M : Part → Prop} {z s : State} (h_regs : ¬ M .regs) (src : Nat) (hz : Keep M z s) :
    Keep M z (sendMsg src s) := by
  unfold sendMsg
  repeat' (first
    | with_reducible assumption
    | with_reducible exact Keep.refl _
    | intro _
    | with_reducible apply routeEvent_keep
    | with_reducible apply safeMsg_keep
    | with_reducible apply Keep.foldl
    | split
    | dsimp -zeta only)

theorem setPins_keep {M : Part → Prop} {z s : State} (h_sdg : ¬ M .sdg) (h_pins : ¬ M .pins) (f : Bool) (a : Bool) (b : Bool) (hz : Keep M z s) :
    Keep M z (setPins f a b s) := by
  unfold setPins
  repeat' (first
    | with_reducible assumption
    | with_reducible exact Keep.refl _
    | (intro _ hp; exact PinsOk.same hp rfl rfl rfl rfl rfl)
    | intro _
    | ((fail_if_success (conv => arg 3; arg 1)); extract_lets +onlyGivenNames t; refine Keep.cut t ?_ ?_; subst t; rotate_left; clear_value t; intro ht; rotate_right)
    | ((fail_if_success (conv => arg 3; arg 1)); extract_lets +onlyGivenNames t; subst t)
    | exact absurd ‹M .pins› h_pins
    | with_reducible apply emit_keep
    | ((fail_if_success (fail_if_success (conv => arg 3; arg 39))); with_reducible apply Keep.upd_sdg)
    | with_reducible apply Keep.ite
    | split
    | dsimp -zeta only)

/-- The pins that are driven: what is asked for, unless the monitor has tripped. -/
theorem setPins_dev (f a b : Bool) (s : State) : (setPins f a b s).dev = s.dev := by
  unfold setPins
  extract_lets on
  split <;> rfl

theorem setPins_pins (f a b : Bool) (s : State) :
    (setPins f a b s).sdg.clkTripped = s.sdg.clkTripped ∧ (setPins f a b s).sdg.faultN = (f && !s.sdg.clkTripped) ∧
    (setPins f a b s).sdg.aliveA = (a && !s.sdg.clkTripped) ∧ (setPins f a b s).sdg.aliveB = (b && !s.sdg.clkTripped) := by
  unfold setPins
  extract_lets on
  split
  · rename_i h; exact ⟨rfl, h.1, h.2.1, h.2.2⟩
  · exact ⟨rfl, rfl, rfl, rfl⟩

/-- What `setPins` leaves is right where what it is asked for is. -/
theorem setPins_pinsOk (f a b : Bool) (s : State) (h0 : devUp s.dev = false → f = false ∧ a = false ∧ b = false)
    (h1 : devUp s.dev = true → f = true) (h2 : (a && b) = false) : PinsOk (setPins f a b s) := by
  have h := setPins_pins f a b s
  have hd := setPins_dev f a b s
  unfold PinsOk
  rw [h.1, h.2.1, h.2.2.1, h.2.2.2, hd]
  cases hu : devUp s.dev <;> cases s.sdg.clkTripped <;> cases f <;> cases a <;> cases b <;> simp_all <;>
    exact ⟨by simp_all, by simp_all, by simp_all⟩

theorem driveDev_pins (d : Dev) (s : State) (h : PinsOk s) : PinsOk (driveDev d s) := by
  unfold driveDev
  have := h.alt
  refine setPins_pinsOk _ _ _ _ ?_ ?_ ?_
  · intro e; simp_all
  · intro e; exact e
  · cases devUp d <;> simp_all

theorem driveDev_keep {M : Part → Prop} {z s : State} (h_dev : ¬ M .dev) (h_sdg : ¬ M .sdg) (h_latch : ¬ M .latch) (d : Dev) (hz : Keep M z s) :
    Keep M z (driveDev d s) := by
  refine Keep.promise .pins ?_ fun m p => driveDev_pins d s (hz.same .pins m p)
  unfold driveDev
  refine setPins_keep (fun h => h_sdg h.1) (fun h => h.2 rfl) _ _ _ (Keep.upd_dev (fun h => h_dev h.1) (fun h => (h_latch h.1).elim) (fun h => (h.2 rfl).elim) (hz.mono fun _ h => h.1))

theorem setDev_keep {M : Part → Prop} {z s : State} (h_dev : ¬ M .dev) (h_regs : ¬ M .regs) (h_od : ¬ M .od) (h_sdg : ¬ M .sdg) (d : Dev) (hz : Keep M z s) :
    Keep M z (setDev d s) := by
  unfold setDev
  split
  · exact hz
  · rename_i h
    refine Keep.promise .latch ?_ fun m e => absurd (hz.same .latch m e) (fun x => h (Or.inr x))
    exact safeMsg_keep (fun x => h_regs x.1) _ (sendMsg_keep (fun x => h_regs x.1) _ (odPut_keep (fun x => h_od x.1) _ _
      (driveDev_keep (fun x => h_dev x.1) (fun x => h_sdg x.1) (fun x => x.2 rfl) d (hz.mono fun _ x => x.1))))


end Sys2Proof.Machine
end

