-- ==== Sys2Proof/Laws/KeepPackCore.lean ====
section
/-! SUPPORT. What the operations of Machine/PackCore.lean keep: one lemma each. -/

namespace Sys2Proof.Machine

theorem putQ_keep {M : Part → Prop} {z s : State} (h_pack : ¬ M .pack) (n : Nat) (q : Nat) (v : Queue) (hz : Keep M z s) :
    Keep M z (putQ n q v s) := by
  unfold putQ
  repeat' (first
    | with_reducible assumption
    | with_reducible exact Keep.refl _
    | intro _
    | ((fail_if_success (fail_if_success (conv => arg 3; arg 39))); with_reducible apply Keep.upd_pack)
    | split
    | dsimp -zeta only)

theorem putInst_keep {M : Part → Prop} {z s : State} (h_pack : ¬ M .pack) (n : Nat) (v : Inst) (hz : Keep M z s) :
    Keep M z (putInst n v s) := by
  unfold putInst
  repeat' (first
    | with_reducible assumption
    | with_reducible exact Keep.refl _
    | intro _
    | ((fail_if_success (fail_if_success (conv => arg 3; arg 39))); with_reducible apply Keep.upd_pack)
    | split
    | dsimp -zeta only)

theorem mapQueues_keep {M : Part → Prop} {z s : State} (h_pack : ¬ M .pack) (f : Nat → Queue → Queue) (hz : Keep M z s) :
    Keep M z (mapQueues f s) := by
  unfold mapQueues
  repeat' (first
    | with_reducible assumption
    | with_reducible exact Keep.refl _
    | intro _
    | ((fail_if_success (fail_if_success (conv => arg 3; arg 39))); with_reducible apply Keep.upd_pack)
    | with_reducible apply KeepP.fst
    | split
    | dsimp -zeta only)

theorem packSafeHold_keep {M : Part → Prop} {z s : State} (h_pack : ¬ M .pack) (hz : Keep M z s) :
    Keep M z (packSafeHold s) := by
  unfold packSafeHold
  repeat' (first
    | with_reducible assumption
    | with_reducible exact Keep.refl _
    | intro _
    | with_reducible apply mapQueues_keep
    | split
    | dsimp -zeta only)

theorem packCheckpoint_keep {M : Part → Prop} {z s : State} (h_pack : ¬ M .pack) (hz : Keep M z s) :
    Keep M z (packCheckpoint s) := by
  unfold packCheckpoint
  repeat' (first
    | with_reducible assumption
    | with_reducible exact Keep.refl _
    | intro _
    | with_reducible apply mapQueues_keep
    | split
    | dsimp -zeta only)

end Sys2Proof.Machine
end

