-- ==== Sys2Proof/Laws/KeepAlarm.lean ====
section
/-! SUPPORT. What the operations of Machine/Alarm.lean keep: one lemma each. -/

namespace Sys2Proof.Machine

theorem frzAccept_keep {M : Part → Prop} {z s : State} (h_regs : ¬ M .regs) (h_od : ¬ M .od) (h_frz : ¬ M .frz) (src : Nat) (target : Nat) (hz : Keep M z s) :
    Keep M z (frzAccept src target s) := by
  unfold frzAccept
  repeat' (first
    | with_reducible assumption
    | with_reducible exact Keep.refl _
    | intro _
    | with_reducible apply regCount_keep
    | with_reducible apply odCount_keep
    | ((fail_if_success (fail_if_success (conv => arg 3; arg 39))); with_reducible apply Keep.upd_frz)
    | split
    | dsimp -zeta only)

theorem frzTrigger_keep {M : Part → Prop} {z s : State} (h_regs : ¬ M .regs) (h_od : ¬ M .od) (h_frz : ¬ M .frz) (src : Nat) (hz : Keep M z s) :
    Keep M z (frzTrigger src s) := by
  unfold frzTrigger
  repeat' (first
    | with_reducible assumption
    | with_reducible exact Keep.refl _
    | intro _
    | with_reducible apply frzAccept_keep
    | with_reducible apply Keep.ite
    | split
    | dsimp -zeta only)

theorem putCan_keep {M : Part → Prop} {z s : State} (h_can : ¬ M .can) (c : Nat) (v : CanCtl) (hz : Keep M z s) :
    Keep M z (putCan c v s) := by
  unfold putCan
  repeat' (first
    | with_reducible assumption
    | with_reducible exact Keep.refl _
    | intro _
    | ((fail_if_success (fail_if_success (conv => arg 3; arg 39))); with_reducible apply Keep.upd_can)
    | split
    | dsimp -zeta only)

theorem ssStart_keep {M : Part → Prop} {z s : State} (h_sdg : ¬ M .sdg) (hz : Keep M z s) :
    Keep M z (ssStart s) := by
  unfold ssStart
  repeat' (first
    | with_reducible assumption
    | with_reducible exact Keep.refl _
    | (intro _ hp; exact PinsOk.same hp rfl rfl rfl rfl rfl)
    | intro _
    | with_reducible apply emit_keep
    | ((fail_if_success (fail_if_success (conv => arg 3; arg 39))); with_reducible apply Keep.upd_sdg)
    | split
    | dsimp -zeta only)

theorem ssRequest_keep {M : Part → Prop} {z s : State} (h_sdg : ¬ M .sdg) (bound : Nat) (hz : Keep M z s) :
    Keep M z (ssRequest bound s) := by
  unfold ssRequest
  repeat' (first
    | with_reducible assumption
    | with_reducible exact Keep.refl _
    | (intro _ hp; exact PinsOk.same hp rfl rfl rfl rfl rfl)
    | intro _
    | with_reducible apply ssStart_keep
    | ((fail_if_success (fail_if_success (conv => arg 3; arg 39))); with_reducible apply Keep.upd_sdg)
    | with_reducible apply Keep.ite
    | split
    | dsimp -zeta only)

theorem ssAgain_keep {M : Part → Prop} {z s : State} (h_sdg : ¬ M .sdg) (t : Nat) (hz : Keep M z s) :
    Keep M z (ssAgain t s) := by
  unfold ssAgain
  repeat' (first
    | with_reducible assumption
    | with_reducible exact Keep.refl _
    | (intro _ hp; exact PinsOk.same hp rfl rfl rfl rfl rfl)
    | intro _
    | ((fail_if_success (fail_if_success (conv => arg 3; arg 39))); with_reducible apply Keep.upd_sdg)
    | split
    | dsimp -zeta only)

theorem setLatentNext_keep {M : Part → Prop} {z s : State} (h_sdg : ¬ M .sdg) (t : Nat) (hz : Keep M z s) :
    Keep M z (setLatentNext t s) := by
  unfold setLatentNext
  repeat' (first
    | with_reducible assumption
    | with_reducible exact Keep.refl _
    | (intro _ hp; exact PinsOk.same hp rfl rfl rfl rfl rfl)
    | intro _
    | ((fail_if_success (fail_if_success (conv => arg 3; arg 39))); with_reducible apply Keep.upd_sdg)
    | split
    | dsimp -zeta only)

theorem endBrace_keep {M : Part → Prop} {z s : State} (h_od : ¬ M .od) (h_pwr : ¬ M .pwr) (hz : Keep M z s) :
    Keep M z (endBrace s) := by
  unfold endBrace
  repeat' (first
    | with_reducible assumption
    | with_reducible exact Keep.refl _
    | intro _
    | with_reducible apply odMax_keep
    | ((fail_if_success (fail_if_success (conv => arg 3; arg 39))); with_reducible apply Keep.upd_pwr)
    | split
    | dsimp -zeta only)

theorem enterSafeHold_keep {M : Part → Prop} {z s : State} (h_dev : ¬ M .dev) (h_regs : ¬ M .regs) (h_od : ¬ M .od) (h_pwr : ¬ M .pwr) (h_sdg : ¬ M .sdg) (h_pack : ¬ M .pack) (restart : Bool) (hz : Keep M z s) :
    Keep M z (enterSafeHold restart s) := by
  unfold enterSafeHold
  repeat' (first
    | with_reducible assumption
    | with_reducible exact Keep.refl _
    | (intro _ hp; exact PinsOk.same hp rfl rfl rfl rfl rfl)
    | intro _
    | with_reducible apply setDev_keep
    | with_reducible apply packSafeHold_keep
    | with_reducible apply ssRequest_keep
    | with_reducible apply endBrace_keep
    | ((fail_if_success (fail_if_success (conv => arg 3; arg 39))); with_reducible apply Keep.upd_sdg)
    | split
    | dsimp -zeta only)

theorem historyPush_keep {M : Part → Prop} {z s : State} (h_od : ¬ M .od) (v : Nat) (hz : Keep M z s) :
    Keep M z (historyPush v s) := by
  unfold historyPush
  repeat' (first
    | with_reducible assumption
    | with_reducible exact Keep.refl _
    | intro _
    | ((fail_if_success (conv => arg 3; arg 1)); extract_lets +onlyGivenNames t; refine Keep.cut t ?_ ?_; subst t; rotate_left; clear_value t; intro ht; rotate_right)
    | ((fail_if_success (conv => arg 3; arg 1)); extract_lets +onlyGivenNames t; refine KeepP.cut t ?_ ?_; subst t; rotate_left; clear_value t; intro ht; rotate_right)
    | ((fail_if_success (conv => arg 3; arg 1)); extract_lets +onlyGivenNames t; subst t)
    | with_reducible apply odPut_keep
    | ((fail_if_success (conv => arg 3; arg 3)); with_reducible apply KeepP.mk')
    | with_reducible apply KeepP.foldl
    | with_reducible apply Keep.foldl
    | with_reducible apply KeepP.fst
    | split
    | dsimp -zeta only)

theorem alarmRecord_keep {M : Part → Prop} {z s : State} (h_od : ¬ M .od) (h_sdg : ¬ M .sdg) (n : Nat) (hz : Keep M z s) :
    Keep M z (alarmRecord n s) := by
  unfold alarmRecord
  repeat' (first
    | with_reducible assumption
    | with_reducible exact Keep.refl _
    | (intro _ hp; exact PinsOk.same hp rfl rfl rfl rfl rfl)
    | intro _
    | ((fail_if_success (conv => arg 3; arg 1)); extract_lets +onlyGivenNames t; refine Keep.cut t ?_ ?_; subst t; rotate_left; clear_value t; intro ht; rotate_right)
    | ((fail_if_success (conv => arg 3; arg 1)); extract_lets +onlyGivenNames t; subst t)
    | with_reducible apply odCount_keep
    | with_reducible apply historyPush_keep
    | ((fail_if_success (fail_if_success (conv => arg 3; arg 39))); with_reducible apply Keep.upd_sdg)
    | split
    | dsimp -zeta only)

theorem alarmFirst_keep {M : Part → Prop} {z s : State} (h_od : ¬ M .od) (h_sdg : ¬ M .sdg) (n : Nat) (hz : Keep M z s) :
    Keep M z (alarmFirst n s) := by
  unfold alarmFirst
  repeat' (first
    | with_reducible assumption
    | with_reducible exact Keep.refl _
    | (intro _ hp; exact PinsOk.same hp rfl rfl rfl rfl rfl)
    | intro _
    | with_reducible apply odPut_keep
    | ((fail_if_success (fail_if_success (conv => arg 3; arg 39))); with_reducible apply Keep.upd_sdg)
    | with_reducible apply Keep.ite
    | split
    | dsimp -zeta only)

theorem alarmReact_keep {M : Part → Prop} {z s : State} (h_dev : ¬ M .dev) (h_regs : ¬ M .regs) (h_od : ¬ M .od) (h_pwr : ¬ M .pwr) (h_start : ¬ M .start) (h_sdg : ¬ M .sdg) (h_pack : ¬ M .pack) (safety : List Nat) (hz : Keep M z s) :
    Keep M z (alarmReact safety s) := by
  unfold alarmReact
  repeat' (first
    | with_reducible assumption
    | with_reducible exact Keep.refl _
    | (intro _ hp; exact PinsOk.same hp rfl rfl rfl rfl rfl)
    | intro _
    | ((fail_if_success (conv => arg 3; arg 1)); extract_lets +onlyGivenNames t; refine Keep.cut t ?_ ?_; subst t; rotate_left; clear_value t; intro ht; rotate_right)
    | ((fail_if_success (conv => arg 3; arg 1)); extract_lets +onlyGivenNames t; subst t)
    | with_reducible apply ssRequest_keep
    | with_reducible apply enterSafeHold_keep
    | ((fail_if_success (fail_if_success (conv => arg 3; arg 39))); with_reducible apply Keep.upd_sdg)
    | ((fail_if_success (fail_if_success (conv => arg 3; arg 39))); with_reducible apply Keep.upd_start)
    | with_reducible apply Keep.ite
    | split
    | dsimp -zeta only)

theorem raiseAll_keep {M : Part → Prop} {z s : State} (h_dev : ¬ M .dev) (h_regs : ¬ M .regs) (h_od : ¬ M .od) (h_pwr : ¬ M .pwr) (h_start : ¬ M .start) (h_sdg : ¬ M .sdg) (h_frz : ¬ M .frz) (h_pack : ¬ M .pack) (ns : List Nat) (hz : Keep M z s) :
    Keep M z (raiseAll ns s) := by
  unfold raiseAll
  repeat' (first
    | with_reducible assumption
    | with_reducible exact Keep.refl _
    | intro _
    | ((fail_if_success (conv => arg 3; arg 1)); extract_lets +onlyGivenNames t; refine Keep.cut t ?_ ?_; subst t; rotate_left; clear_value t; intro ht; rotate_right)
    | ((fail_if_success (conv => arg 3; arg 1)); extract_lets +onlyGivenNames t; refine KeepP.cut t ?_ ?_; subst t; rotate_left; clear_value t; intro ht; rotate_right)
    | ((fail_if_success (conv => arg 3; arg 1)); extract_lets +onlyGivenNames t; subst t)
    | with_reducible apply frzTrigger_keep
    | with_reducible apply alarmRecord_keep
    | with_reducible apply alarmFirst_keep
    | with_reducible apply alarmReact_keep
    | with_reducible apply Keep.ite
    | with_reducible apply Keep.foldl
    | split
    | dsimp -zeta only)

theorem raiseAlarm_keep {M : Part → Prop} {z s : State} (h_dev : ¬ M .dev) (h_regs : ¬ M .regs) (h_od : ¬ M .od) (h_pwr : ¬ M .pwr) (h_start : ¬ M .start) (h_sdg : ¬ M .sdg) (h_frz : ¬ M .frz) (h_pack : ¬ M .pack) (n : Nat) (hz : Keep M z s) :
    Keep M z (raiseAlarm n s) := by
  unfold raiseAlarm
  repeat' (first
    | with_reducible assumption
    | with_reducible exact Keep.refl _
    | intro _
    | with_reducible apply raiseAll_keep
    | split
    | dsimp -zeta only)

theorem maskedFault_keep {M : Part → Prop} {z s : State} (h_start : ¬ M .start) (h_sdg : ¬ M .sdg) (hz : Keep M z s) :
    Keep M z (maskedFault s) := by
  unfold maskedFault
  repeat' (first
    | with_reducible assumption
    | with_reducible exact Keep.refl _
    | (intro _ hp; exact PinsOk.same hp rfl rfl rfl rfl rfl)
    | intro _
    | ((fail_if_success (fail_if_success (conv => arg 3; arg 39))); with_reducible apply Keep.upd_start_sdg)
    | split
    | dsimp -zeta only)

end Sys2Proof.Machine
end

