-- ==== Sys2Proof/Laws/State.lean ====
section
/-! SUPPORT. What each update leaves and what is read after it: one lemma for each field and reader of each update, so that no proof unfolds
a record. -/

namespace Sys2Proof.Machine

variable (s : State)

/-! ### emit -/

@[simp] theorem emit_dev (o : Output) : (emit o s).dev = s.dev := rfl
@[simp] theorem emit_now (o : Output) : (emit o s).now = s.now := rfl
@[simp] theorem emit_free (o : Output) : (emit o s).free = s.free := rfl
@[simp] theorem emit_regs (o : Output) : (emit o s).regs = s.regs := rfl
@[simp] theorem emit_hold (o : Output) : (emit o s).hold = s.hold := rfl
@[simp] theorem emit_od (o : Output) : (emit o s).od = s.od := rfl
@[simp] theorem emit_odBlob (o : Output) : (emit o s).odBlob = s.odBlob := rfl
@[simp] theorem emit_odChange (o : Output) : (emit o s).odChange = s.odChange := rfl
@[simp] theorem emit_odStart (o : Output) : (emit o s).odStart = s.odStart := rfl
@[simp] theorem emit_mem (o : Output) : (emit o s).mem = s.mem := rfl
@[simp] theorem emit_memCtl (o : Output) : (emit o s).memCtl = s.memCtl := rfl
@[simp] theorem emit_pwr (o : Output) : (emit o s).pwr = s.pwr := rfl
@[simp] theorem emit_start (o : Output) : (emit o s).start = s.start := rfl
@[simp] theorem emit_sdg (o : Output) : (emit o s).sdg = s.sdg := rfl
@[simp] theorem emit_frz (o : Output) : (emit o s).frz = s.frz := rfl
@[simp] theorem emit_leash (o : Output) : (emit o s).leash = s.leash := rfl
@[simp] theorem emit_params (o : Output) : (emit o s).params = s.params := rfl
@[simp] theorem emit_canopen (o : Output) : (emit o s).canopen = s.canopen := rfl
@[simp] theorem emit_lock (o : Output) : (emit o s).lock = s.lock := rfl
@[simp] theorem emit_apps (o : Output) : (emit o s).apps = s.apps := rfl
@[simp] theorem emit_sec (o : Output) : (emit o s).sec = s.sec := rfl
@[simp] theorem emit_fuses (o : Output) : (emit o s).fuses = s.fuses := rfl
@[simp] theorem emit_knots (o : Output) : (emit o s).knots = s.knots := rfl
@[simp] theorem emit_pack (o : Output) : (emit o s).pack = s.pack := rfl
@[simp] theorem emit_cim (o : Output) : (emit o s).cim = s.cim := rfl
@[simp] theorem emit_kennel (o : Output) : (emit o s).kennel = s.kennel := rfl
@[simp] theorem emit_cams (o : Output) : (emit o s).cams = s.cams := rfl
@[simp] theorem emit_gfx (o : Output) : (emit o s).gfx = s.gfx := rfl
@[simp] theorem emit_pipes (o : Output) : (emit o s).pipes = s.pipes := rfl
@[simp] theorem emit_net (o : Output) : (emit o s).net = s.net := rfl
@[simp] theorem emit_can (o : Output) : (emit o s).can = s.can := rfl
@[simp] theorem emit_tether (o : Output) : (emit o s).tether = s.tether := rfl
@[simp] theorem emit_splice (o : Output) : (emit o s).splice = s.splice := rfl
@[simp] theorem emit_wh (o : Output) : (emit o s).wh = s.wh := rfl
@[simp] theorem emit_slots (o : Output) : (emit o s).slots = s.slots := rfl
@[simp] theorem emit_safeSlots (o : Output) : (emit o s).safeSlots = s.safeSlots := rfl
@[simp] theorem emit_gtime (o : Output) : (emit o s).gtime = s.gtime := rfl
@[simp] theorem emit_pending (o : Output) : (emit o s).pending = s.pending := rfl
@[simp] theorem emit_isUp (o : Output) : isUp (emit o s) = isUp s := rfl
@[simp] theorem emit_isRunning (o : Output) : isRunning (emit o s) = isRunning s := rfl
@[simp] theorem emit_isStarting (o : Output) : isStarting (emit o s) = isStarting s := rfl
@[simp] theorem emit_blocksOn (o : Output) : blocksOn (emit o s) = blocksOn s := rfl
@[simp] theorem emit_gnow (o : Output) : gnow (emit o s) = gnow s := rfl
@[simp] theorem emit_freeValue (o : Output) : freeValue (emit o s) = freeValue s := rfl
@[simp] theorem emit_regRaw (o : Output) (x : Nat) : regRaw (emit o s) x = regRaw s x := rfl
@[simp] theorem emit_odGet (o : Output) (x : Nat) : odGet (emit o s) x = odGet s x := rfl
@[simp] theorem emit_odUse (o : Output) (x : Nat) : odUse (emit o s) x = odUse s x := rfl
@[simp] theorem emit_blobGet (o : Output) (x : Nat) : blobGet (emit o s) x = blobGet s x := rfl
@[simp] theorem emit_memByte (o : Output) (x : Nat) : memByte (emit o s) x = memByte s x := rfl
@[simp] theorem emit_getApp (o : Output) (x : Nat) : getApp (emit o s) x = getApp s x := rfl
@[simp] theorem emit_getHold (o : Output) (x : Nat) : getHold (emit o s) x = getHold s x := rfl
@[simp] theorem emit_getCan (o : Output) (x : Nat) : getCan (emit o s) x = getCan s x := rfl
@[simp] theorem emit_getCam (o : Output) (x : Nat) : getCam (emit o s) x = getCam s x := rfl
@[simp] theorem emit_getSeq (o : Output) (x : Nat) : getSeq (emit o s) x = getSeq s x := rfl
@[simp] theorem emit_getSession (o : Output) (x : Nat) : getSession (emit o s) x = getSession s x := rfl
@[simp] theorem emit_getQ (o : Output) (x y : Nat) : getQ (emit o s) x y = getQ s x y := rfl
@[simp] theorem emit_getInst (o : Output) (x : Nat) : getInst (emit o s) x = getInst s x := rfl
@[simp] theorem emit_getPoll (o : Output) (x : Nat) : getPoll (emit o s) x = getPoll s x := rfl
@[simp] theorem emit_getConn (o : Output) (x : Nat) : getConn (emit o s) x = getConn s x := rfl
@[simp] theorem emit_getSq (o : Output) (x : Nat) : getSq (emit o s) x = getSq s x := rfl
@[simp] theorem emit_getWdg (o : Output) (x : Nat) : getWdg (emit o s) x = getWdg s x := rfl
@[simp] theorem emit_getCt (o : Output) (x : Nat) : getCt (emit o s) x = getCt s x := rfl
@[simp] theorem emit_getMacro (o : Output) (x y : Nat) : getMacro (emit o s) x y = getMacro s x y := rfl
@[simp] theorem emit_getGq (o : Output) (x : Nat) : getGq (emit o s) x = getGq s x := rfl
@[simp] theorem emit_getPipe (o : Output) (x : Nat) : getPipe (emit o s) x = getPipe s x := rfl
@[simp] theorem emit_getPendant (o : Output) (x : Nat) : getPendant (emit o s) x = getPendant s x := rfl

/-! ### advanceTo -/

@[simp] theorem advanceTo_dev (n : Nat) : (advanceTo n s).dev = s.dev := rfl
@[simp] theorem advanceTo_free (n : Nat) : (advanceTo n s).free = s.free := rfl
@[simp] theorem advanceTo_regs (n : Nat) : (advanceTo n s).regs = s.regs := rfl
@[simp] theorem advanceTo_hold (n : Nat) : (advanceTo n s).hold = s.hold := rfl
@[simp] theorem advanceTo_od (n : Nat) : (advanceTo n s).od = s.od := rfl
@[simp] theorem advanceTo_odBlob (n : Nat) : (advanceTo n s).odBlob = s.odBlob := rfl
@[simp] theorem advanceTo_odChange (n : Nat) : (advanceTo n s).odChange = s.odChange := rfl
@[simp] theorem advanceTo_odStart (n : Nat) : (advanceTo n s).odStart = s.odStart := rfl
@[simp] theorem advanceTo_mem (n : Nat) : (advanceTo n s).mem = s.mem := rfl
@[simp] theorem advanceTo_memCtl (n : Nat) : (advanceTo n s).memCtl = s.memCtl := rfl
@[simp] theorem advanceTo_pwr (n : Nat) : (advanceTo n s).pwr = s.pwr := rfl
@[simp] theorem advanceTo_start (n : Nat) : (advanceTo n s).start = s.start := rfl
@[simp] theorem advanceTo_sdg (n : Nat) : (advanceTo n s).sdg = s.sdg := rfl
@[simp] theorem advanceTo_frz (n : Nat) : (advanceTo n s).frz = s.frz := rfl
@[simp] theorem advanceTo_leash (n : Nat) : (advanceTo n s).leash = s.leash := rfl
@[simp] theorem advanceTo_params (n : Nat) : (advanceTo n s).params = s.params := rfl
@[simp] theorem advanceTo_canopen (n : Nat) : (advanceTo n s).canopen = s.canopen := rfl
@[simp] theorem advanceTo_lock (n : Nat) : (advanceTo n s).lock = s.lock := rfl
@[simp] theorem advanceTo_apps (n : Nat) : (advanceTo n s).apps = s.apps := rfl
@[simp] theorem advanceTo_sec (n : Nat) : (advanceTo n s).sec = s.sec := rfl
@[simp] theorem advanceTo_fuses (n : Nat) : (advanceTo n s).fuses = s.fuses := rfl
@[simp] theorem advanceTo_knots (n : Nat) : (advanceTo n s).knots = s.knots := rfl
@[simp] theorem advanceTo_pack (n : Nat) : (advanceTo n s).pack = s.pack := rfl
@[simp] theorem advanceTo_cim (n : Nat) : (advanceTo n s).cim = s.cim := rfl
@[simp] theorem advanceTo_kennel (n : Nat) : (advanceTo n s).kennel = s.kennel := rfl
@[simp] theorem advanceTo_cams (n : Nat) : (advanceTo n s).cams = s.cams := rfl
@[simp] theorem advanceTo_gfx (n : Nat) : (advanceTo n s).gfx = s.gfx := rfl
@[simp] theorem advanceTo_pipes (n : Nat) : (advanceTo n s).pipes = s.pipes := rfl
@[simp] theorem advanceTo_net (n : Nat) : (advanceTo n s).net = s.net := rfl
@[simp] theorem advanceTo_can (n : Nat) : (advanceTo n s).can = s.can := rfl
@[simp] theorem advanceTo_tether (n : Nat) : (advanceTo n s).tether = s.tether := rfl
@[simp] theorem advanceTo_splice (n : Nat) : (advanceTo n s).splice = s.splice := rfl
@[simp] theorem advanceTo_wh (n : Nat) : (advanceTo n s).wh = s.wh := rfl
@[simp] theorem advanceTo_slots (n : Nat) : (advanceTo n s).slots = s.slots := rfl
@[simp] theorem advanceTo_safeSlots (n : Nat) : (advanceTo n s).safeSlots = s.safeSlots := rfl
@[simp] theorem advanceTo_out (n : Nat) : (advanceTo n s).out = s.out := rfl
@[simp] theorem advanceTo_pending (n : Nat) : (advanceTo n s).pending = s.pending := rfl
@[simp] theorem advanceTo_isUp (n : Nat) : isUp (advanceTo n s) = isUp s := rfl
@[simp] theorem advanceTo_isRunning (n : Nat) : isRunning (advanceTo n s) = isRunning s := rfl
@[simp] theorem advanceTo_isStarting (n : Nat) : isStarting (advanceTo n s) = isStarting s := rfl
@[simp] theorem advanceTo_blocksOn (n : Nat) : blocksOn (advanceTo n s) = blocksOn s := rfl
@[simp] theorem advanceTo_freeValue (n : Nat) : freeValue (advanceTo n s) = freeValue s := rfl
@[simp] theorem advanceTo_regRaw (n : Nat) (x : Nat) : regRaw (advanceTo n s) x = regRaw s x := rfl
@[simp] theorem advanceTo_odGet (n : Nat) (x : Nat) : odGet (advanceTo n s) x = odGet s x := rfl
@[simp] theorem advanceTo_odUse (n : Nat) (x : Nat) : odUse (advanceTo n s) x = odUse s x := rfl
@[simp] theorem advanceTo_blobGet (n : Nat) (x : Nat) : blobGet (advanceTo n s) x = blobGet s x := rfl
@[simp] theorem advanceTo_memByte (n : Nat) (x : Nat) : memByte (advanceTo n s) x = memByte s x := rfl
@[simp] theorem advanceTo_getApp (n : Nat) (x : Nat) : getApp (advanceTo n s) x = getApp s x := rfl
@[simp] theorem advanceTo_getHold (n : Nat) (x : Nat) : getHold (advanceTo n s) x = getHold s x := rfl
@[simp] theorem advanceTo_getCan (n : Nat) (x : Nat) : getCan (advanceTo n s) x = getCan s x := rfl
@[simp] theorem advanceTo_getCam (n : Nat) (x : Nat) : getCam (advanceTo n s) x = getCam s x := rfl
@[simp] theorem advanceTo_getSeq (n : Nat) (x : Nat) : getSeq (advanceTo n s) x = getSeq s x := rfl
@[simp] theorem advanceTo_getSession (n : Nat) (x : Nat) : getSession (advanceTo n s) x = getSession s x := rfl
@[simp] theorem advanceTo_getQ (n : Nat) (x y : Nat) : getQ (advanceTo n s) x y = getQ s x y := rfl
@[simp] theorem advanceTo_getInst (n : Nat) (x : Nat) : getInst (advanceTo n s) x = getInst s x := rfl
@[simp] theorem advanceTo_getPoll (n : Nat) (x : Nat) : getPoll (advanceTo n s) x = getPoll s x := rfl
@[simp] theorem advanceTo_getConn (n : Nat) (x : Nat) : getConn (advanceTo n s) x = getConn s x := rfl
@[simp] theorem advanceTo_getSq (n : Nat) (x : Nat) : getSq (advanceTo n s) x = getSq s x := rfl
@[simp] theorem advanceTo_getWdg (n : Nat) (x : Nat) : getWdg (advanceTo n s) x = getWdg s x := rfl
@[simp] theorem advanceTo_getCt (n : Nat) (x : Nat) : getCt (advanceTo n s) x = getCt s x := rfl
@[simp] theorem advanceTo_getMacro (n : Nat) (x y : Nat) : getMacro (advanceTo n s) x y = getMacro s x y := rfl
@[simp] theorem advanceTo_getGq (n : Nat) (x : Nat) : getGq (advanceTo n s) x = getGq s x := rfl
@[simp] theorem advanceTo_getPipe (n : Nat) (x : Nat) : getPipe (advanceTo n s) x = getPipe s x := rfl
@[simp] theorem advanceTo_getPendant (n : Nat) (x : Nat) : getPendant (advanceTo n s) x = getPendant s x := rfl

/-! ### tick -/

@[simp] theorem tick_dev : (tick s).dev = s.dev := rfl
@[simp] theorem tick_free : (tick s).free = s.free := rfl
@[simp] theorem tick_regs : (tick s).regs = s.regs := rfl
@[simp] theorem tick_hold : (tick s).hold = s.hold := rfl
@[simp] theorem tick_od : (tick s).od = s.od := rfl
@[simp] theorem tick_odBlob : (tick s).odBlob = s.odBlob := rfl
@[simp] theorem tick_odChange : (tick s).odChange = s.odChange := rfl
@[simp] theorem tick_odStart : (tick s).odStart = s.odStart := rfl
@[simp] theorem tick_mem : (tick s).mem = s.mem := rfl
@[simp] theorem tick_memCtl : (tick s).memCtl = s.memCtl := rfl
@[simp] theorem tick_pwr : (tick s).pwr = s.pwr := rfl
@[simp] theorem tick_start : (tick s).start = s.start := rfl
@[simp] theorem tick_sdg : (tick s).sdg = s.sdg := rfl
@[simp] theorem tick_frz : (tick s).frz = s.frz := rfl
@[simp] theorem tick_leash : (tick s).leash = s.leash := rfl
@[simp] theorem tick_params : (tick s).params = s.params := rfl
@[simp] theorem tick_canopen : (tick s).canopen = s.canopen := rfl
@[simp] theorem tick_lock : (tick s).lock = s.lock := rfl
@[simp] theorem tick_apps : (tick s).apps = s.apps := rfl
@[simp] theorem tick_sec : (tick s).sec = s.sec := rfl
@[simp] theorem tick_fuses : (tick s).fuses = s.fuses := rfl
@[simp] theorem tick_knots : (tick s).knots = s.knots := rfl
@[simp] theorem tick_pack : (tick s).pack = s.pack := rfl
@[simp] theorem tick_cim : (tick s).cim = s.cim := rfl
@[simp] theorem tick_kennel : (tick s).kennel = s.kennel := rfl
@[simp] theorem tick_cams : (tick s).cams = s.cams := rfl
@[simp] theorem tick_gfx : (tick s).gfx = s.gfx := rfl
@[simp] theorem tick_pipes : (tick s).pipes = s.pipes := rfl
@[simp] theorem tick_net : (tick s).net = s.net := rfl
@[simp] theorem tick_can : (tick s).can = s.can := rfl
@[simp] theorem tick_tether : (tick s).tether = s.tether := rfl
@[simp] theorem tick_splice : (tick s).splice = s.splice := rfl
@[simp] theorem tick_wh : (tick s).wh = s.wh := rfl
@[simp] theorem tick_slots : (tick s).slots = s.slots := rfl
@[simp] theorem tick_safeSlots : (tick s).safeSlots = s.safeSlots := rfl
@[simp] theorem tick_out : (tick s).out = s.out := rfl
@[simp] theorem tick_pending : (tick s).pending = s.pending := rfl
@[simp] theorem tick_isUp : isUp (tick s) = isUp s := rfl
@[simp] theorem tick_isRunning : isRunning (tick s) = isRunning s := rfl
@[simp] theorem tick_isStarting : isStarting (tick s) = isStarting s := rfl
@[simp] theorem tick_blocksOn : blocksOn (tick s) = blocksOn s := rfl
@[simp] theorem tick_freeValue : freeValue (tick s) = freeValue s := rfl
@[simp] theorem tick_regRaw (x : Nat) : regRaw (tick s) x = regRaw s x := rfl
@[simp] theorem tick_odGet (x : Nat) : odGet (tick s) x = odGet s x := rfl
@[simp] theorem tick_odUse (x : Nat) : odUse (tick s) x = odUse s x := rfl
@[simp] theorem tick_blobGet (x : Nat) : blobGet (tick s) x = blobGet s x := rfl
@[simp] theorem tick_memByte (x : Nat) : memByte (tick s) x = memByte s x := rfl
@[simp] theorem tick_getApp (x : Nat) : getApp (tick s) x = getApp s x := rfl
@[simp] theorem tick_getHold (x : Nat) : getHold (tick s) x = getHold s x := rfl
@[simp] theorem tick_getCan (x : Nat) : getCan (tick s) x = getCan s x := rfl
@[simp] theorem tick_getCam (x : Nat) : getCam (tick s) x = getCam s x := rfl
@[simp] theorem tick_getSeq (x : Nat) : getSeq (tick s) x = getSeq s x := rfl
@[simp] theorem tick_getSession (x : Nat) : getSession (tick s) x = getSession s x := rfl
@[simp] theorem tick_getQ (x y : Nat) : getQ (tick s) x y = getQ s x y := rfl
@[simp] theorem tick_getInst (x : Nat) : getInst (tick s) x = getInst s x := rfl
@[simp] theorem tick_getPoll (x : Nat) : getPoll (tick s) x = getPoll s x := rfl
@[simp] theorem tick_getConn (x : Nat) : getConn (tick s) x = getConn s x := rfl
@[simp] theorem tick_getSq (x : Nat) : getSq (tick s) x = getSq s x := rfl
@[simp] theorem tick_getWdg (x : Nat) : getWdg (tick s) x = getWdg s x := rfl
@[simp] theorem tick_getCt (x : Nat) : getCt (tick s) x = getCt s x := rfl
@[simp] theorem tick_getMacro (x y : Nat) : getMacro (tick s) x y = getMacro s x y := rfl
@[simp] theorem tick_getGq (x : Nat) : getGq (tick s) x = getGq s x := rfl
@[simp] theorem tick_getPipe (x : Nat) : getPipe (tick s) x = getPipe s x := rfl
@[simp] theorem tick_getPendant (x : Nat) : getPendant (tick s) x = getPendant s x := rfl

/-! ### takeFree -/

@[simp] theorem takeFree_dev : (takeFree s).dev = s.dev := rfl
@[simp] theorem takeFree_now : (takeFree s).now = s.now := rfl
@[simp] theorem takeFree_regs : (takeFree s).regs = s.regs := rfl
@[simp] theorem takeFree_hold : (takeFree s).hold = s.hold := rfl
@[simp] theorem takeFree_od : (takeFree s).od = s.od := rfl
@[simp] theorem takeFree_odBlob : (takeFree s).odBlob = s.odBlob := rfl
@[simp] theorem takeFree_odChange : (takeFree s).odChange = s.odChange := rfl
@[simp] theorem takeFree_odStart : (takeFree s).odStart = s.odStart := rfl
@[simp] theorem takeFree_mem : (takeFree s).mem = s.mem := rfl
@[simp] theorem takeFree_memCtl : (takeFree s).memCtl = s.memCtl := rfl
@[simp] theorem takeFree_pwr : (takeFree s).pwr = s.pwr := rfl
@[simp] theorem takeFree_start : (takeFree s).start = s.start := rfl
@[simp] theorem takeFree_sdg : (takeFree s).sdg = s.sdg := rfl
@[simp] theorem takeFree_frz : (takeFree s).frz = s.frz := rfl
@[simp] theorem takeFree_leash : (takeFree s).leash = s.leash := rfl
@[simp] theorem takeFree_params : (takeFree s).params = s.params := rfl
@[simp] theorem takeFree_canopen : (takeFree s).canopen = s.canopen := rfl
@[simp] theorem takeFree_lock : (takeFree s).lock = s.lock := rfl
@[simp] theorem takeFree_apps : (takeFree s).apps = s.apps := rfl
@[simp] theorem takeFree_sec : (takeFree s).sec = s.sec := rfl
@[simp] theorem takeFree_fuses : (takeFree s).fuses = s.fuses := rfl
@[simp] theorem takeFree_knots : (takeFree s).knots = s.knots := rfl
@[simp] theorem takeFree_pack : (takeFree s).pack = s.pack := rfl
@[simp] theorem takeFree_cim : (takeFree s).cim = s.cim := rfl
@[simp] theorem takeFree_kennel : (takeFree s).kennel = s.kennel := rfl
@[simp] theorem takeFree_cams : (takeFree s).cams = s.cams := rfl
@[simp] theorem takeFree_gfx : (takeFree s).gfx = s.gfx := rfl
@[simp] theorem takeFree_pipes : (takeFree s).pipes = s.pipes := rfl
@[simp] theorem takeFree_net : (takeFree s).net = s.net := rfl
@[simp] theorem takeFree_can : (takeFree s).can = s.can := rfl
@[simp] theorem takeFree_tether : (takeFree s).tether = s.tether := rfl
@[simp] theorem takeFree_splice : (takeFree s).splice = s.splice := rfl
@[simp] theorem takeFree_wh : (takeFree s).wh = s.wh := rfl
@[simp] theorem takeFree_slots : (takeFree s).slots = s.slots := rfl
@[simp] theorem takeFree_safeSlots : (takeFree s).safeSlots = s.safeSlots := rfl
@[simp] theorem takeFree_gtime : (takeFree s).gtime = s.gtime := rfl
@[simp] theorem takeFree_out : (takeFree s).out = s.out := rfl
@[simp] theorem takeFree_pending : (takeFree s).pending = s.pending := rfl
@[simp] theorem takeFree_isUp : isUp (takeFree s) = isUp s := rfl
@[simp] theorem takeFree_isRunning : isRunning (takeFree s) = isRunning s := rfl
@[simp] theorem takeFree_isStarting : isStarting (takeFree s) = isStarting s := rfl
@[simp] theorem takeFree_blocksOn : blocksOn (takeFree s) = blocksOn s := rfl
@[simp] theorem takeFree_gnow : gnow (takeFree s) = gnow s := rfl
@[simp] theorem takeFree_regRaw (x : Nat) : regRaw (takeFree s) x = regRaw s x := rfl
@[simp] theorem takeFree_odGet (x : Nat) : odGet (takeFree s) x = odGet s x := rfl
@[simp] theorem takeFree_odUse (x : Nat) : odUse (takeFree s) x = odUse s x := rfl
@[simp] theorem takeFree_blobGet (x : Nat) : blobGet (takeFree s) x = blobGet s x := rfl
@[simp] theorem takeFree_memByte (x : Nat) : memByte (takeFree s) x = memByte s x := rfl
@[simp] theorem takeFree_getApp (x : Nat) : getApp (takeFree s) x = getApp s x := rfl
@[simp] theorem takeFree_getHold (x : Nat) : getHold (takeFree s) x = getHold s x := rfl
@[simp] theorem takeFree_getCan (x : Nat) : getCan (takeFree s) x = getCan s x := rfl
@[simp] theorem takeFree_getCam (x : Nat) : getCam (takeFree s) x = getCam s x := rfl
@[simp] theorem takeFree_getSeq (x : Nat) : getSeq (takeFree s) x = getSeq s x := rfl
@[simp] theorem takeFree_getSession (x : Nat) : getSession (takeFree s) x = getSession s x := rfl
@[simp] theorem takeFree_getQ (x y : Nat) : getQ (takeFree s) x y = getQ s x y := rfl
@[simp] theorem takeFree_getInst (x : Nat) : getInst (takeFree s) x = getInst s x := rfl
@[simp] theorem takeFree_getPoll (x : Nat) : getPoll (takeFree s) x = getPoll s x := rfl
@[simp] theorem takeFree_getConn (x : Nat) : getConn (takeFree s) x = getConn s x := rfl
@[simp] theorem takeFree_getSq (x : Nat) : getSq (takeFree s) x = getSq s x := rfl
@[simp] theorem takeFree_getWdg (x : Nat) : getWdg (takeFree s) x = getWdg s x := rfl
@[simp] theorem takeFree_getCt (x : Nat) : getCt (takeFree s) x = getCt s x := rfl
@[simp] theorem takeFree_getMacro (x y : Nat) : getMacro (takeFree s) x y = getMacro s x y := rfl
@[simp] theorem takeFree_getGq (x : Nat) : getGq (takeFree s) x = getGq s x := rfl
@[simp] theorem takeFree_getPipe (x : Nat) : getPipe (takeFree s) x = getPipe s x := rfl
@[simp] theorem takeFree_getPendant (x : Nat) : getPendant (takeFree s) x = getPendant s x := rfl

/-! ### regPut -/

@[simp] theorem regPut_dev (a v : Nat) : (regPut a v s).dev = s.dev := rfl
@[simp] theorem regPut_now (a v : Nat) : (regPut a v s).now = s.now := rfl
@[simp] theorem regPut_free (a v : Nat) : (regPut a v s).free = s.free := rfl
@[simp] theorem regPut_hold (a v : Nat) : (regPut a v s).hold = s.hold := rfl
@[simp] theorem regPut_od (a v : Nat) : (regPut a v s).od = s.od := rfl
@[simp] theorem regPut_odBlob (a v : Nat) : (regPut a v s).odBlob = s.odBlob := rfl
@[simp] theorem regPut_odChange (a v : Nat) : (regPut a v s).odChange = s.odChange := rfl
@[simp] theorem regPut_odStart (a v : Nat) : (regPut a v s).odStart = s.odStart := rfl
@[simp] theorem regPut_mem (a v : Nat) : (regPut a v s).mem = s.mem := rfl
@[simp] theorem regPut_memCtl (a v : Nat) : (regPut a v s).memCtl = s.memCtl := rfl
@[simp] theorem regPut_pwr (a v : Nat) : (regPut a v s).pwr = s.pwr := rfl
@[simp] theorem regPut_start (a v : Nat) : (regPut a v s).start = s.start := rfl
@[simp] theorem regPut_sdg (a v : Nat) : (regPut a v s).sdg = s.sdg := rfl
@[simp] theorem regPut_frz (a v : Nat) : (regPut a v s).frz = s.frz := rfl
@[simp] theorem regPut_leash (a v : Nat) : (regPut a v s).leash = s.leash := rfl
@[simp] theorem regPut_params (a v : Nat) : (regPut a v s).params = s.params := rfl
@[simp] theorem regPut_canopen (a v : Nat) : (regPut a v s).canopen = s.canopen := rfl
@[simp] theorem regPut_lock (a v : Nat) : (regPut a v s).lock = s.lock := rfl
@[simp] theorem regPut_apps (a v : Nat) : (regPut a v s).apps = s.apps := rfl
@[simp] theorem regPut_sec (a v : Nat) : (regPut a v s).sec = s.sec := rfl
@[simp] theorem regPut_fuses (a v : Nat) : (regPut a v s).fuses = s.fuses := rfl
@[simp] theorem regPut_knots (a v : Nat) : (regPut a v s).knots = s.knots := rfl
@[simp] theorem regPut_pack (a v : Nat) : (regPut a v s).pack = s.pack := rfl
@[simp] theorem regPut_cim (a v : Nat) : (regPut a v s).cim = s.cim := rfl
@[simp] theorem regPut_kennel (a v : Nat) : (regPut a v s).kennel = s.kennel := rfl
@[simp] theorem regPut_cams (a v : Nat) : (regPut a v s).cams = s.cams := rfl
@[simp] theorem regPut_gfx (a v : Nat) : (regPut a v s).gfx = s.gfx := rfl
@[simp] theorem regPut_pipes (a v : Nat) : (regPut a v s).pipes = s.pipes := rfl
@[simp] theorem regPut_net (a v : Nat) : (regPut a v s).net = s.net := rfl
@[simp] theorem regPut_can (a v : Nat) : (regPut a v s).can = s.can := rfl
@[simp] theorem regPut_tether (a v : Nat) : (regPut a v s).tether = s.tether := rfl
@[simp] theorem regPut_splice (a v : Nat) : (regPut a v s).splice = s.splice := rfl
@[simp] theorem regPut_wh (a v : Nat) : (regPut a v s).wh = s.wh := rfl
@[simp] theorem regPut_slots (a v : Nat) : (regPut a v s).slots = s.slots := rfl
@[simp] theorem regPut_safeSlots (a v : Nat) : (regPut a v s).safeSlots = s.safeSlots := rfl
@[simp] theorem regPut_gtime (a v : Nat) : (regPut a v s).gtime = s.gtime := rfl
@[simp] theorem regPut_out (a v : Nat) : (regPut a v s).out = s.out := rfl
@[simp] theorem regPut_pending (a v : Nat) : (regPut a v s).pending = s.pending := rfl
@[simp] theorem regPut_isUp (a v : Nat) : isUp (regPut a v s) = isUp s := rfl
@[simp] theorem regPut_isRunning (a v : Nat) : isRunning (regPut a v s) = isRunning s := rfl
@[simp] theorem regPut_isStarting (a v : Nat) : isStarting (regPut a v s) = isStarting s := rfl
@[simp] theorem regPut_blocksOn (a v : Nat) : blocksOn (regPut a v s) = blocksOn s := rfl
@[simp] theorem regPut_gnow (a v : Nat) : gnow (regPut a v s) = gnow s := rfl
@[simp] theorem regPut_freeValue (a v : Nat) : freeValue (regPut a v s) = freeValue s := rfl
@[simp] theorem regPut_odGet (a v : Nat) (x : Nat) : odGet (regPut a v s) x = odGet s x := rfl
@[simp] theorem regPut_odUse (a v : Nat) (x : Nat) : odUse (regPut a v s) x = odUse s x := rfl
@[simp] theorem regPut_blobGet (a v : Nat) (x : Nat) : blobGet (regPut a v s) x = blobGet s x := rfl
@[simp] theorem regPut_memByte (a v : Nat) (x : Nat) : memByte (regPut a v s) x = memByte s x := rfl
@[simp] theorem regPut_getApp (a v : Nat) (x : Nat) : getApp (regPut a v s) x = getApp s x := rfl
@[simp] theorem regPut_getHold (a v : Nat) (x : Nat) : getHold (regPut a v s) x = getHold s x := rfl
@[simp] theorem regPut_getCan (a v : Nat) (x : Nat) : getCan (regPut a v s) x = getCan s x := rfl
@[simp] theorem regPut_getCam (a v : Nat) (x : Nat) : getCam (regPut a v s) x = getCam s x := rfl
@[simp] theorem regPut_getSeq (a v : Nat) (x : Nat) : getSeq (regPut a v s) x = getSeq s x := rfl
@[simp] theorem regPut_getSession (a v : Nat) (x : Nat) : getSession (regPut a v s) x = getSession s x := rfl
@[simp] theorem regPut_getQ (a v : Nat) (x y : Nat) : getQ (regPut a v s) x y = getQ s x y := rfl
@[simp] theorem regPut_getInst (a v : Nat) (x : Nat) : getInst (regPut a v s) x = getInst s x := rfl
@[simp] theorem regPut_getPoll (a v : Nat) (x : Nat) : getPoll (regPut a v s) x = getPoll s x := rfl
@[simp] theorem regPut_getConn (a v : Nat) (x : Nat) : getConn (regPut a v s) x = getConn s x := rfl
@[simp] theorem regPut_getSq (a v : Nat) (x : Nat) : getSq (regPut a v s) x = getSq s x := rfl
@[simp] theorem regPut_getWdg (a v : Nat) (x : Nat) : getWdg (regPut a v s) x = getWdg s x := rfl
@[simp] theorem regPut_getCt (a v : Nat) (x : Nat) : getCt (regPut a v s) x = getCt s x := rfl
@[simp] theorem regPut_getMacro (a v : Nat) (x y : Nat) : getMacro (regPut a v s) x y = getMacro s x y := rfl
@[simp] theorem regPut_getGq (a v : Nat) (x : Nat) : getGq (regPut a v s) x = getGq s x := rfl
@[simp] theorem regPut_getPipe (a v : Nat) (x : Nat) : getPipe (regPut a v s) x = getPipe s x := rfl
@[simp] theorem regPut_getPendant (a v : Nat) (x : Nat) : getPendant (regPut a v s) x = getPendant s x := rfl

/-! ### odPut -/

@[simp] theorem odPut_dev (k v : Nat) : (odPut k v s).dev = s.dev := rfl
@[simp] theorem odPut_now (k v : Nat) : (odPut k v s).now = s.now := rfl
@[simp] theorem odPut_free (k v : Nat) : (odPut k v s).free = s.free := rfl
@[simp] theorem odPut_regs (k v : Nat) : (odPut k v s).regs = s.regs := rfl
@[simp] theorem odPut_hold (k v : Nat) : (odPut k v s).hold = s.hold := rfl
@[simp] theorem odPut_odBlob (k v : Nat) : (odPut k v s).odBlob = s.odBlob := rfl
@[simp] theorem odPut_odChange (k v : Nat) : (odPut k v s).odChange = s.odChange := rfl
@[simp] theorem odPut_odStart (k v : Nat) : (odPut k v s).odStart = s.odStart := rfl
@[simp] theorem odPut_mem (k v : Nat) : (odPut k v s).mem = s.mem := rfl
@[simp] theorem odPut_memCtl (k v : Nat) : (odPut k v s).memCtl = s.memCtl := rfl
@[simp] theorem odPut_pwr (k v : Nat) : (odPut k v s).pwr = s.pwr := rfl
@[simp] theorem odPut_start (k v : Nat) : (odPut k v s).start = s.start := rfl
@[simp] theorem odPut_sdg (k v : Nat) : (odPut k v s).sdg = s.sdg := rfl
@[simp] theorem odPut_frz (k v : Nat) : (odPut k v s).frz = s.frz := rfl
@[simp] theorem odPut_leash (k v : Nat) : (odPut k v s).leash = s.leash := rfl
@[simp] theorem odPut_params (k v : Nat) : (odPut k v s).params = s.params := rfl
@[simp] theorem odPut_canopen (k v : Nat) : (odPut k v s).canopen = s.canopen := rfl
@[simp] theorem odPut_lock (k v : Nat) : (odPut k v s).lock = s.lock := rfl
@[simp] theorem odPut_apps (k v : Nat) : (odPut k v s).apps = s.apps := rfl
@[simp] theorem odPut_sec (k v : Nat) : (odPut k v s).sec = s.sec := rfl
@[simp] theorem odPut_fuses (k v : Nat) : (odPut k v s).fuses = s.fuses := rfl
@[simp] theorem odPut_knots (k v : Nat) : (odPut k v s).knots = s.knots := rfl
@[simp] theorem odPut_pack (k v : Nat) : (odPut k v s).pack = s.pack := rfl
@[simp] theorem odPut_cim (k v : Nat) : (odPut k v s).cim = s.cim := rfl
@[simp] theorem odPut_kennel (k v : Nat) : (odPut k v s).kennel = s.kennel := rfl
@[simp] theorem odPut_cams (k v : Nat) : (odPut k v s).cams = s.cams := rfl
@[simp] theorem odPut_gfx (k v : Nat) : (odPut k v s).gfx = s.gfx := rfl
@[simp] theorem odPut_pipes (k v : Nat) : (odPut k v s).pipes = s.pipes := rfl
@[simp] theorem odPut_net (k v : Nat) : (odPut k v s).net = s.net := rfl
@[simp] theorem odPut_can (k v : Nat) : (odPut k v s).can = s.can := rfl
@[simp] theorem odPut_tether (k v : Nat) : (odPut k v s).tether = s.tether := rfl
@[simp] theorem odPut_splice (k v : Nat) : (odPut k v s).splice = s.splice := rfl
@[simp] theorem odPut_wh (k v : Nat) : (odPut k v s).wh = s.wh := rfl
@[simp] theorem odPut_slots (k v : Nat) : (odPut k v s).slots = s.slots := rfl
@[simp] theorem odPut_safeSlots (k v : Nat) : (odPut k v s).safeSlots = s.safeSlots := rfl
@[simp] theorem odPut_gtime (k v : Nat) : (odPut k v s).gtime = s.gtime := rfl
@[simp] theorem odPut_out (k v : Nat) : (odPut k v s).out = s.out := rfl
@[simp] theorem odPut_pending (k v : Nat) : (odPut k v s).pending = s.pending := rfl
@[simp] theorem odPut_isUp (k v : Nat) : isUp (odPut k v s) = isUp s := rfl
@[simp] theorem odPut_isRunning (k v : Nat) : isRunning (odPut k v s) = isRunning s := rfl
@[simp] theorem odPut_isStarting (k v : Nat) : isStarting (odPut k v s) = isStarting s := rfl
@[simp] theorem odPut_blocksOn (k v : Nat) : blocksOn (odPut k v s) = blocksOn s := rfl
@[simp] theorem odPut_gnow (k v : Nat) : gnow (odPut k v s) = gnow s := rfl
@[simp] theorem odPut_freeValue (k v : Nat) : freeValue (odPut k v s) = freeValue s := rfl
@[simp] theorem odPut_regRaw (k v : Nat) (x : Nat) : regRaw (odPut k v s) x = regRaw s x := rfl
@[simp] theorem odPut_blobGet (k v : Nat) (x : Nat) : blobGet (odPut k v s) x = blobGet s x := rfl
@[simp] theorem odPut_memByte (k v : Nat) (x : Nat) : memByte (odPut k v s) x = memByte s x := rfl
@[simp] theorem odPut_getApp (k v : Nat) (x : Nat) : getApp (odPut k v s) x = getApp s x := rfl
@[simp] theorem odPut_getHold (k v : Nat) (x : Nat) : getHold (odPut k v s) x = getHold s x := rfl
@[simp] theorem odPut_getCan (k v : Nat) (x : Nat) : getCan (odPut k v s) x = getCan s x := rfl
@[simp] theorem odPut_getCam (k v : Nat) (x : Nat) : getCam (odPut k v s) x = getCam s x := rfl
@[simp] theorem odPut_getSeq (k v : Nat) (x : Nat) : getSeq (odPut k v s) x = getSeq s x := rfl
@[simp] theorem odPut_getSession (k v : Nat) (x : Nat) : getSession (odPut k v s) x = getSession s x := rfl
@[simp] theorem odPut_getQ (k v : Nat) (x y : Nat) : getQ (odPut k v s) x y = getQ s x y := rfl
@[simp] theorem odPut_getInst (k v : Nat) (x : Nat) : getInst (odPut k v s) x = getInst s x := rfl
@[simp] theorem odPut_getPoll (k v : Nat) (x : Nat) : getPoll (odPut k v s) x = getPoll s x := rfl
@[simp] theorem odPut_getConn (k v : Nat) (x : Nat) : getConn (odPut k v s) x = getConn s x := rfl
@[simp] theorem odPut_getSq (k v : Nat) (x : Nat) : getSq (odPut k v s) x = getSq s x := rfl
@[simp] theorem odPut_getWdg (k v : Nat) (x : Nat) : getWdg (odPut k v s) x = getWdg s x := rfl
@[simp] theorem odPut_getCt (k v : Nat) (x : Nat) : getCt (odPut k v s) x = getCt s x := rfl
@[simp] theorem odPut_getMacro (k v : Nat) (x y : Nat) : getMacro (odPut k v s) x y = getMacro s x y := rfl
@[simp] theorem odPut_getGq (k v : Nat) (x : Nat) : getGq (odPut k v s) x = getGq s x := rfl
@[simp] theorem odPut_getPipe (k v : Nat) (x : Nat) : getPipe (odPut k v s) x = getPipe s x := rfl
@[simp] theorem odPut_getPendant (k v : Nat) (x : Nat) : getPendant (odPut k v s) x = getPendant s x := rfl

/-! ### memPut -/

@[simp] theorem memPut_dev (a : Nat) (l : List Byte) : (memPut a l s).dev = s.dev := rfl
@[simp] theorem memPut_now (a : Nat) (l : List Byte) : (memPut a l s).now = s.now := rfl
@[simp] theorem memPut_free (a : Nat) (l : List Byte) : (memPut a l s).free = s.free := rfl
@[simp] theorem memPut_regs (a : Nat) (l : List Byte) : (memPut a l s).regs = s.regs := rfl
@[simp] theorem memPut_hold (a : Nat) (l : List Byte) : (memPut a l s).hold = s.hold := rfl
@[simp] theorem memPut_od (a : Nat) (l : List Byte) : (memPut a l s).od = s.od := rfl
@[simp] theorem memPut_odBlob (a : Nat) (l : List Byte) : (memPut a l s).odBlob = s.odBlob := rfl
@[simp] theorem memPut_odChange (a : Nat) (l : List Byte) : (memPut a l s).odChange = s.odChange := rfl
@[simp] theorem memPut_odStart (a : Nat) (l : List Byte) : (memPut a l s).odStart = s.odStart := rfl
@[simp] theorem memPut_memCtl (a : Nat) (l : List Byte) : (memPut a l s).memCtl = s.memCtl := rfl
@[simp] theorem memPut_pwr (a : Nat) (l : List Byte) : (memPut a l s).pwr = s.pwr := rfl
@[simp] theorem memPut_start (a : Nat) (l : List Byte) : (memPut a l s).start = s.start := rfl
@[simp] theorem memPut_sdg (a : Nat) (l : List Byte) : (memPut a l s).sdg = s.sdg := rfl
@[simp] theorem memPut_frz (a : Nat) (l : List Byte) : (memPut a l s).frz = s.frz := rfl
@[simp] theorem memPut_leash (a : Nat) (l : List Byte) : (memPut a l s).leash = s.leash := rfl
@[simp] theorem memPut_params (a : Nat) (l : List Byte) : (memPut a l s).params = s.params := rfl
@[simp] theorem memPut_canopen (a : Nat) (l : List Byte) : (memPut a l s).canopen = s.canopen := rfl
@[simp] theorem memPut_lock (a : Nat) (l : List Byte) : (memPut a l s).lock = s.lock := rfl
@[simp] theorem memPut_apps (a : Nat) (l : List Byte) : (memPut a l s).apps = s.apps := rfl
@[simp] theorem memPut_sec (a : Nat) (l : List Byte) : (memPut a l s).sec = s.sec := rfl
@[simp] theorem memPut_fuses (a : Nat) (l : List Byte) : (memPut a l s).fuses = s.fuses := rfl
@[simp] theorem memPut_knots (a : Nat) (l : List Byte) : (memPut a l s).knots = s.knots := rfl
@[simp] theorem memPut_pack (a : Nat) (l : List Byte) : (memPut a l s).pack = s.pack := rfl
@[simp] theorem memPut_cim (a : Nat) (l : List Byte) : (memPut a l s).cim = s.cim := rfl
@[simp] theorem memPut_kennel (a : Nat) (l : List Byte) : (memPut a l s).kennel = s.kennel := rfl
@[simp] theorem memPut_cams (a : Nat) (l : List Byte) : (memPut a l s).cams = s.cams := rfl
@[simp] theorem memPut_gfx (a : Nat) (l : List Byte) : (memPut a l s).gfx = s.gfx := rfl
@[simp] theorem memPut_pipes (a : Nat) (l : List Byte) : (memPut a l s).pipes = s.pipes := rfl
@[simp] theorem memPut_net (a : Nat) (l : List Byte) : (memPut a l s).net = s.net := rfl
@[simp] theorem memPut_can (a : Nat) (l : List Byte) : (memPut a l s).can = s.can := rfl
@[simp] theorem memPut_tether (a : Nat) (l : List Byte) : (memPut a l s).tether = s.tether := rfl
@[simp] theorem memPut_splice (a : Nat) (l : List Byte) : (memPut a l s).splice = s.splice := rfl
@[simp] theorem memPut_wh (a : Nat) (l : List Byte) : (memPut a l s).wh = s.wh := rfl
@[simp] theorem memPut_slots (a : Nat) (l : List Byte) : (memPut a l s).slots = s.slots := rfl
@[simp] theorem memPut_safeSlots (a : Nat) (l : List Byte) : (memPut a l s).safeSlots = s.safeSlots := rfl
@[simp] theorem memPut_gtime (a : Nat) (l : List Byte) : (memPut a l s).gtime = s.gtime := rfl
@[simp] theorem memPut_out (a : Nat) (l : List Byte) : (memPut a l s).out = s.out := rfl
@[simp] theorem memPut_pending (a : Nat) (l : List Byte) : (memPut a l s).pending = s.pending := rfl
@[simp] theorem memPut_isUp (a : Nat) (l : List Byte) : isUp (memPut a l s) = isUp s := rfl
@[simp] theorem memPut_isRunning (a : Nat) (l : List Byte) : isRunning (memPut a l s) = isRunning s := rfl
@[simp] theorem memPut_isStarting (a : Nat) (l : List Byte) : isStarting (memPut a l s) = isStarting s := rfl
@[simp] theorem memPut_blocksOn (a : Nat) (l : List Byte) : blocksOn (memPut a l s) = blocksOn s := rfl
@[simp] theorem memPut_gnow (a : Nat) (l : List Byte) : gnow (memPut a l s) = gnow s := rfl
@[simp] theorem memPut_freeValue (a : Nat) (l : List Byte) : freeValue (memPut a l s) = freeValue s := rfl
@[simp] theorem memPut_regRaw (a : Nat) (l : List Byte) (x : Nat) : regRaw (memPut a l s) x = regRaw s x := rfl
@[simp] theorem memPut_odGet (a : Nat) (l : List Byte) (x : Nat) : odGet (memPut a l s) x = odGet s x := rfl
@[simp] theorem memPut_odUse (a : Nat) (l : List Byte) (x : Nat) : odUse (memPut a l s) x = odUse s x := rfl
@[simp] theorem memPut_blobGet (a : Nat) (l : List Byte) (x : Nat) : blobGet (memPut a l s) x = blobGet s x := rfl
@[simp] theorem memPut_getApp (a : Nat) (l : List Byte) (x : Nat) : getApp (memPut a l s) x = getApp s x := rfl
@[simp] theorem memPut_getHold (a : Nat) (l : List Byte) (x : Nat) : getHold (memPut a l s) x = getHold s x := rfl
@[simp] theorem memPut_getCan (a : Nat) (l : List Byte) (x : Nat) : getCan (memPut a l s) x = getCan s x := rfl
@[simp] theorem memPut_getCam (a : Nat) (l : List Byte) (x : Nat) : getCam (memPut a l s) x = getCam s x := rfl
@[simp] theorem memPut_getSeq (a : Nat) (l : List Byte) (x : Nat) : getSeq (memPut a l s) x = getSeq s x := rfl
@[simp] theorem memPut_getSession (a : Nat) (l : List Byte) (x : Nat) : getSession (memPut a l s) x = getSession s x := rfl
@[simp] theorem memPut_getQ (a : Nat) (l : List Byte) (x y : Nat) : getQ (memPut a l s) x y = getQ s x y := rfl
@[simp] theorem memPut_getInst (a : Nat) (l : List Byte) (x : Nat) : getInst (memPut a l s) x = getInst s x := rfl
@[simp] theorem memPut_getPoll (a : Nat) (l : List Byte) (x : Nat) : getPoll (memPut a l s) x = getPoll s x := rfl
@[simp] theorem memPut_getConn (a : Nat) (l : List Byte) (x : Nat) : getConn (memPut a l s) x = getConn s x := rfl
@[simp] theorem memPut_getSq (a : Nat) (l : List Byte) (x : Nat) : getSq (memPut a l s) x = getSq s x := rfl
@[simp] theorem memPut_getWdg (a : Nat) (l : List Byte) (x : Nat) : getWdg (memPut a l s) x = getWdg s x := rfl
@[simp] theorem memPut_getCt (a : Nat) (l : List Byte) (x : Nat) : getCt (memPut a l s) x = getCt s x := rfl
@[simp] theorem memPut_getMacro (a : Nat) (l : List Byte) (x y : Nat) : getMacro (memPut a l s) x y = getMacro s x y := rfl
@[simp] theorem memPut_getGq (a : Nat) (l : List Byte) (x : Nat) : getGq (memPut a l s) x = getGq s x := rfl
@[simp] theorem memPut_getPipe (a : Nat) (l : List Byte) (x : Nat) : getPipe (memPut a l s) x = getPipe s x := rfl
@[simp] theorem memPut_getPendant (a : Nat) (l : List Byte) (x : Nat) : getPendant (memPut a l s) x = getPendant s x := rfl

/-! ### putApp -/

@[simp] theorem putApp_dev (c : Nat) (v : AppCore) : (putApp c v s).dev = s.dev := rfl
@[simp] theorem putApp_now (c : Nat) (v : AppCore) : (putApp c v s).now = s.now := rfl
@[simp] theorem putApp_free (c : Nat) (v : AppCore) : (putApp c v s).free = s.free := rfl
@[simp] theorem putApp_regs (c : Nat) (v : AppCore) : (putApp c v s).regs = s.regs := rfl
@[simp] theorem putApp_hold (c : Nat) (v : AppCore) : (putApp c v s).hold = s.hold := rfl
@[simp] theorem putApp_od (c : Nat) (v : AppCore) : (putApp c v s).od = s.od := rfl
@[simp] theorem putApp_odBlob (c : Nat) (v : AppCore) : (putApp c v s).odBlob = s.odBlob := rfl
@[simp] theorem putApp_odChange (c : Nat) (v : AppCore) : (putApp c v s).odChange = s.odChange := rfl
@[simp] theorem putApp_odStart (c : Nat) (v : AppCore) : (putApp c v s).odStart = s.odStart := rfl
@[simp] theorem putApp_mem (c : Nat) (v : AppCore) : (putApp c v s).mem = s.mem := rfl
@[simp] theorem putApp_memCtl (c : Nat) (v : AppCore) : (putApp c v s).memCtl = s.memCtl := rfl
@[simp] theorem putApp_pwr (c : Nat) (v : AppCore) : (putApp c v s).pwr = s.pwr := rfl
@[simp] theorem putApp_start (c : Nat) (v : AppCore) : (putApp c v s).start = s.start := rfl
@[simp] theorem putApp_sdg (c : Nat) (v : AppCore) : (putApp c v s).sdg = s.sdg := rfl
@[simp] theorem putApp_frz (c : Nat) (v : AppCore) : (putApp c v s).frz = s.frz := rfl
@[simp] theorem putApp_leash (c : Nat) (v : AppCore) : (putApp c v s).leash = s.leash := rfl
@[simp] theorem putApp_params (c : Nat) (v : AppCore) : (putApp c v s).params = s.params := rfl
@[simp] theorem putApp_canopen (c : Nat) (v : AppCore) : (putApp c v s).canopen = s.canopen := rfl
@[simp] theorem putApp_lock (c : Nat) (v : AppCore) : (putApp c v s).lock = s.lock := rfl
@[simp] theorem putApp_sec (c : Nat) (v : AppCore) : (putApp c v s).sec = s.sec := rfl
@[simp] theorem putApp_fuses (c : Nat) (v : AppCore) : (putApp c v s).fuses = s.fuses := rfl
@[simp] theorem putApp_knots (c : Nat) (v : AppCore) : (putApp c v s).knots = s.knots := rfl
@[simp] theorem putApp_pack (c : Nat) (v : AppCore) : (putApp c v s).pack = s.pack := rfl
@[simp] theorem putApp_cim (c : Nat) (v : AppCore) : (putApp c v s).cim = s.cim := rfl
@[simp] theorem putApp_kennel (c : Nat) (v : AppCore) : (putApp c v s).kennel = s.kennel := rfl
@[simp] theorem putApp_cams (c : Nat) (v : AppCore) : (putApp c v s).cams = s.cams := rfl
@[simp] theorem putApp_gfx (c : Nat) (v : AppCore) : (putApp c v s).gfx = s.gfx := rfl
@[simp] theorem putApp_pipes (c : Nat) (v : AppCore) : (putApp c v s).pipes = s.pipes := rfl
@[simp] theorem putApp_net (c : Nat) (v : AppCore) : (putApp c v s).net = s.net := rfl
@[simp] theorem putApp_can (c : Nat) (v : AppCore) : (putApp c v s).can = s.can := rfl
@[simp] theorem putApp_tether (c : Nat) (v : AppCore) : (putApp c v s).tether = s.tether := rfl
@[simp] theorem putApp_splice (c : Nat) (v : AppCore) : (putApp c v s).splice = s.splice := rfl
@[simp] theorem putApp_wh (c : Nat) (v : AppCore) : (putApp c v s).wh = s.wh := rfl
@[simp] theorem putApp_slots (c : Nat) (v : AppCore) : (putApp c v s).slots = s.slots := rfl
@[simp] theorem putApp_safeSlots (c : Nat) (v : AppCore) : (putApp c v s).safeSlots = s.safeSlots := rfl
@[simp] theorem putApp_gtime (c : Nat) (v : AppCore) : (putApp c v s).gtime = s.gtime := rfl
@[simp] theorem putApp_out (c : Nat) (v : AppCore) : (putApp c v s).out = s.out := rfl
@[simp] theorem putApp_pending (c : Nat) (v : AppCore) : (putApp c v s).pending = s.pending := rfl
@[simp] theorem putApp_isUp (c : Nat) (v : AppCore) : isUp (putApp c v s) = isUp s := rfl
@[simp] theorem putApp_isRunning (c : Nat) (v : AppCore) : isRunning (putApp c v s) = isRunning s := rfl
@[simp] theorem putApp_isStarting (c : Nat) (v : AppCore) : isStarting (putApp c v s) = isStarting s := rfl
@[simp] theorem putApp_blocksOn (c : Nat) (v : AppCore) : blocksOn (putApp c v s) = blocksOn s := rfl
@[simp] theorem putApp_gnow (c : Nat) (v : AppCore) : gnow (putApp c v s) = gnow s := rfl
@[simp] theorem putApp_freeValue (c : Nat) (v : AppCore) : freeValue (putApp c v s) = freeValue s := rfl
@[simp] theorem putApp_regRaw (c : Nat) (v : AppCore) (x : Nat) : regRaw (putApp c v s) x = regRaw s x := rfl
@[simp] theorem putApp_odGet (c : Nat) (v : AppCore) (x : Nat) : odGet (putApp c v s) x = odGet s x := rfl
@[simp] theorem putApp_odUse (c : Nat) (v : AppCore) (x : Nat) : odUse (putApp c v s) x = odUse s x := rfl
@[simp] theorem putApp_blobGet (c : Nat) (v : AppCore) (x : Nat) : blobGet (putApp c v s) x = blobGet s x := rfl
@[simp] theorem putApp_memByte (c : Nat) (v : AppCore) (x : Nat) : memByte (putApp c v s) x = memByte s x := rfl
@[simp] theorem putApp_getHold (c : Nat) (v : AppCore) (x : Nat) : getHold (putApp c v s) x = getHold s x := rfl
@[simp] theorem putApp_getCan (c : Nat) (v : AppCore) (x : Nat) : getCan (putApp c v s) x = getCan s x := rfl
@[simp] theorem putApp_getCam (c : Nat) (v : AppCore) (x : Nat) : getCam (putApp c v s) x = getCam s x := rfl
@[simp] theorem putApp_getSeq (c : Nat) (v : AppCore) (x : Nat) : getSeq (putApp c v s) x = getSeq s x := rfl
@[simp] theorem putApp_getSession (c : Nat) (v : AppCore) (x : Nat) : getSession (putApp c v s) x = getSession s x := rfl
@[simp] theorem putApp_getQ (c : Nat) (v : AppCore) (x y : Nat) : getQ (putApp c v s) x y = getQ s x y := rfl
@[simp] theorem putApp_getInst (c : Nat) (v : AppCore) (x : Nat) : getInst (putApp c v s) x = getInst s x := rfl
@[simp] theorem putApp_getPoll (c : Nat) (v : AppCore) (x : Nat) : getPoll (putApp c v s) x = getPoll s x := rfl
@[simp] theorem putApp_getConn (c : Nat) (v : AppCore) (x : Nat) : getConn (putApp c v s) x = getConn s x := rfl
@[simp] theorem putApp_getSq (c : Nat) (v : AppCore) (x : Nat) : getSq (putApp c v s) x = getSq s x := rfl
@[simp] theorem putApp_getWdg (c : Nat) (v : AppCore) (x : Nat) : getWdg (putApp c v s) x = getWdg s x := rfl
@[simp] theorem putApp_getCt (c : Nat) (v : AppCore) (x : Nat) : getCt (putApp c v s) x = getCt s x := rfl
@[simp] theorem putApp_getMacro (c : Nat) (v : AppCore) (x y : Nat) : getMacro (putApp c v s) x y = getMacro s x y := rfl
@[simp] theorem putApp_getGq (c : Nat) (v : AppCore) (x : Nat) : getGq (putApp c v s) x = getGq s x := rfl
@[simp] theorem putApp_getPipe (c : Nat) (v : AppCore) (x : Nat) : getPipe (putApp c v s) x = getPipe s x := rfl
@[simp] theorem putApp_getPendant (c : Nat) (v : AppCore) (x : Nat) : getPendant (putApp c v s) x = getPendant s x := rfl

/-! ### putHold -/

@[simp] theorem putHold_dev (b : Nat) (h : Hold) : (putHold b h s).dev = s.dev := rfl
@[simp] theorem putHold_now (b : Nat) (h : Hold) : (putHold b h s).now = s.now := rfl
@[simp] theorem putHold_free (b : Nat) (h : Hold) : (putHold b h s).free = s.free := rfl
@[simp] theorem putHold_regs (b : Nat) (h : Hold) : (putHold b h s).regs = s.regs := rfl
@[simp] theorem putHold_od (b : Nat) (h : Hold) : (putHold b h s).od = s.od := rfl
@[simp] theorem putHold_odBlob (b : Nat) (h : Hold) : (putHold b h s).odBlob = s.odBlob := rfl
@[simp] theorem putHold_odChange (b : Nat) (h : Hold) : (putHold b h s).odChange = s.odChange := rfl
@[simp] theorem putHold_odStart (b : Nat) (h : Hold) : (putHold b h s).odStart = s.odStart := rfl
@[simp] theorem putHold_mem (b : Nat) (h : Hold) : (putHold b h s).mem = s.mem := rfl
@[simp] theorem putHold_memCtl (b : Nat) (h : Hold) : (putHold b h s).memCtl = s.memCtl := rfl
@[simp] theorem putHold_pwr (b : Nat) (h : Hold) : (putHold b h s).pwr = s.pwr := rfl
@[simp] theorem putHold_start (b : Nat) (h : Hold) : (putHold b h s).start = s.start := rfl
@[simp] theorem putHold_sdg (b : Nat) (h : Hold) : (putHold b h s).sdg = s.sdg := rfl
@[simp] theorem putHold_frz (b : Nat) (h : Hold) : (putHold b h s).frz = s.frz := rfl
@[simp] theorem putHold_leash (b : Nat) (h : Hold) : (putHold b h s).leash = s.leash := rfl
@[simp] theorem putHold_params (b : Nat) (h : Hold) : (putHold b h s).params = s.params := rfl
@[simp] theorem putHold_canopen (b : Nat) (h : Hold) : (putHold b h s).canopen = s.canopen := rfl
@[simp] theorem putHold_lock (b : Nat) (h : Hold) : (putHold b h s).lock = s.lock := rfl
@[simp] theorem putHold_apps (b : Nat) (h : Hold) : (putHold b h s).apps = s.apps := rfl
@[simp] theorem putHold_sec (b : Nat) (h : Hold) : (putHold b h s).sec = s.sec := rfl
@[simp] theorem putHold_fuses (b : Nat) (h : Hold) : (putHold b h s).fuses = s.fuses := rfl
@[simp] theorem putHold_knots (b : Nat) (h : Hold) : (putHold b h s).knots = s.knots := rfl
@[simp] theorem putHold_pack (b : Nat) (h : Hold) : (putHold b h s).pack = s.pack := rfl
@[simp] theorem putHold_cim (b : Nat) (h : Hold) : (putHold b h s).cim = s.cim := rfl
@[simp] theorem putHold_kennel (b : Nat) (h : Hold) : (putHold b h s).kennel = s.kennel := rfl
@[simp] theorem putHold_cams (b : Nat) (h : Hold) : (putHold b h s).cams = s.cams := rfl
@[simp] theorem putHold_gfx (b : Nat) (h : Hold) : (putHold b h s).gfx = s.gfx := rfl
@[simp] theorem putHold_pipes (b : Nat) (h : Hold) : (putHold b h s).pipes = s.pipes := rfl
@[simp] theorem putHold_net (b : Nat) (h : Hold) : (putHold b h s).net = s.net := rfl
@[simp] theorem putHold_can (b : Nat) (h : Hold) : (putHold b h s).can = s.can := rfl
@[simp] theorem putHold_tether (b : Nat) (h : Hold) : (putHold b h s).tether = s.tether := rfl
@[simp] theorem putHold_splice (b : Nat) (h : Hold) : (putHold b h s).splice = s.splice := rfl
@[simp] theorem putHold_wh (b : Nat) (h : Hold) : (putHold b h s).wh = s.wh := rfl
@[simp] theorem putHold_slots (b : Nat) (h : Hold) : (putHold b h s).slots = s.slots := rfl
@[simp] theorem putHold_safeSlots (b : Nat) (h : Hold) : (putHold b h s).safeSlots = s.safeSlots := rfl
@[simp] theorem putHold_gtime (b : Nat) (h : Hold) : (putHold b h s).gtime = s.gtime := rfl
@[simp] theorem putHold_out (b : Nat) (h : Hold) : (putHold b h s).out = s.out := rfl
@[simp] theorem putHold_pending (b : Nat) (h : Hold) : (putHold b h s).pending = s.pending := rfl
@[simp] theorem putHold_isUp (b : Nat) (h : Hold) : isUp (putHold b h s) = isUp s := rfl
@[simp] theorem putHold_isRunning (b : Nat) (h : Hold) : isRunning (putHold b h s) = isRunning s := rfl
@[simp] theorem putHold_isStarting (b : Nat) (h : Hold) : isStarting (putHold b h s) = isStarting s := rfl
@[simp] theorem putHold_blocksOn (b : Nat) (h : Hold) : blocksOn (putHold b h s) = blocksOn s := rfl
@[simp] theorem putHold_gnow (b : Nat) (h : Hold) : gnow (putHold b h s) = gnow s := rfl
@[simp] theorem putHold_freeValue (b : Nat) (h : Hold) : freeValue (putHold b h s) = freeValue s := rfl
@[simp] theorem putHold_regRaw (b : Nat) (h : Hold) (x : Nat) : regRaw (putHold b h s) x = regRaw s x := rfl
@[simp] theorem putHold_odGet (b : Nat) (h : Hold) (x : Nat) : odGet (putHold b h s) x = odGet s x := rfl
@[simp] theorem putHold_odUse (b : Nat) (h : Hold) (x : Nat) : odUse (putHold b h s) x = odUse s x := rfl
@[simp] theorem putHold_blobGet (b : Nat) (h : Hold) (x : Nat) : blobGet (putHold b h s) x = blobGet s x := rfl
@[simp] theorem putHold_memByte (b : Nat) (h : Hold) (x : Nat) : memByte (putHold b h s) x = memByte s x := rfl
@[simp] theorem putHold_getApp (b : Nat) (h : Hold) (x : Nat) : getApp (putHold b h s) x = getApp s x := rfl
@[simp] theorem putHold_getCan (b : Nat) (h : Hold) (x : Nat) : getCan (putHold b h s) x = getCan s x := rfl
@[simp] theorem putHold_getCam (b : Nat) (h : Hold) (x : Nat) : getCam (putHold b h s) x = getCam s x := rfl
@[simp] theorem putHold_getSeq (b : Nat) (h : Hold) (x : Nat) : getSeq (putHold b h s) x = getSeq s x := rfl
@[simp] theorem putHold_getSession (b : Nat) (h : Hold) (x : Nat) : getSession (putHold b h s) x = getSession s x := rfl
@[simp] theorem putHold_getQ (b : Nat) (h : Hold) (x y : Nat) : getQ (putHold b h s) x y = getQ s x y := rfl
@[simp] theorem putHold_getInst (b : Nat) (h : Hold) (x : Nat) : getInst (putHold b h s) x = getInst s x := rfl
@[simp] theorem putHold_getPoll (b : Nat) (h : Hold) (x : Nat) : getPoll (putHold b h s) x = getPoll s x := rfl
@[simp] theorem putHold_getConn (b : Nat) (h : Hold) (x : Nat) : getConn (putHold b h s) x = getConn s x := rfl
@[simp] theorem putHold_getSq (b : Nat) (h : Hold) (x : Nat) : getSq (putHold b h s) x = getSq s x := rfl
@[simp] theorem putHold_getWdg (b : Nat) (h : Hold) (x : Nat) : getWdg (putHold b h s) x = getWdg s x := rfl
@[simp] theorem putHold_getCt (b : Nat) (h : Hold) (x : Nat) : getCt (putHold b h s) x = getCt s x := rfl
@[simp] theorem putHold_getMacro (b : Nat) (h : Hold) (x y : Nat) : getMacro (putHold b h s) x y = getMacro s x y := rfl
@[simp] theorem putHold_getGq (b : Nat) (h : Hold) (x : Nat) : getGq (putHold b h s) x = getGq s x := rfl
@[simp] theorem putHold_getPipe (b : Nat) (h : Hold) (x : Nat) : getPipe (putHold b h s) x = getPipe s x := rfl
@[simp] theorem putHold_getPendant (b : Nat) (h : Hold) (x : Nat) : getPendant (putHold b h s) x = getPendant s x := rfl

/-! ### putCan -/

@[simp] theorem putCan_dev (c : Nat) (v : CanCtl) : (putCan c v s).dev = s.dev := rfl
@[simp] theorem putCan_now (c : Nat) (v : CanCtl) : (putCan c v s).now = s.now := rfl
@[simp] theorem putCan_free (c : Nat) (v : CanCtl) : (putCan c v s).free = s.free := rfl
@[simp] theorem putCan_regs (c : Nat) (v : CanCtl) : (putCan c v s).regs = s.regs := rfl
@[simp] theorem putCan_hold (c : Nat) (v : CanCtl) : (putCan c v s).hold = s.hold := rfl
@[simp] theorem putCan_od (c : Nat) (v : CanCtl) : (putCan c v s).od = s.od := rfl
@[simp] theorem putCan_odBlob (c : Nat) (v : CanCtl) : (putCan c v s).odBlob = s.odBlob := rfl
@[simp] theorem putCan_odChange (c : Nat) (v : CanCtl) : (putCan c v s).odChange = s.odChange := rfl
@[simp] theorem putCan_odStart (c : Nat) (v : CanCtl) : (putCan c v s).odStart = s.odStart := rfl
@[simp] theorem putCan_mem (c : Nat) (v : CanCtl) : (putCan c v s).mem = s.mem := rfl
@[simp] theorem putCan_memCtl (c : Nat) (v : CanCtl) : (putCan c v s).memCtl = s.memCtl := rfl
@[simp] theorem putCan_pwr (c : Nat) (v : CanCtl) : (putCan c v s).pwr = s.pwr := rfl
@[simp] theorem putCan_start (c : Nat) (v : CanCtl) : (putCan c v s).start = s.start := rfl
@[simp] theorem putCan_sdg (c : Nat) (v : CanCtl) : (putCan c v s).sdg = s.sdg := rfl
@[simp] theorem putCan_frz (c : Nat) (v : CanCtl) : (putCan c v s).frz = s.frz := rfl
@[simp] theorem putCan_leash (c : Nat) (v : CanCtl) : (putCan c v s).leash = s.leash := rfl
@[simp] theorem putCan_params (c : Nat) (v : CanCtl) : (putCan c v s).params = s.params := rfl
@[simp] theorem putCan_canopen (c : Nat) (v : CanCtl) : (putCan c v s).canopen = s.canopen := rfl
@[simp] theorem putCan_lock (c : Nat) (v : CanCtl) : (putCan c v s).lock = s.lock := rfl
@[simp] theorem putCan_apps (c : Nat) (v : CanCtl) : (putCan c v s).apps = s.apps := rfl
@[simp] theorem putCan_sec (c : Nat) (v : CanCtl) : (putCan c v s).sec = s.sec := rfl
@[simp] theorem putCan_fuses (c : Nat) (v : CanCtl) : (putCan c v s).fuses = s.fuses := rfl
@[simp] theorem putCan_knots (c : Nat) (v : CanCtl) : (putCan c v s).knots = s.knots := rfl
@[simp] theorem putCan_pack (c : Nat) (v : CanCtl) : (putCan c v s).pack = s.pack := rfl
@[simp] theorem putCan_cim (c : Nat) (v : CanCtl) : (putCan c v s).cim = s.cim := rfl
@[simp] theorem putCan_kennel (c : Nat) (v : CanCtl) : (putCan c v s).kennel = s.kennel := rfl
@[simp] theorem putCan_cams (c : Nat) (v : CanCtl) : (putCan c v s).cams = s.cams := rfl
@[simp] theorem putCan_gfx (c : Nat) (v : CanCtl) : (putCan c v s).gfx = s.gfx := rfl
@[simp] theorem putCan_pipes (c : Nat) (v : CanCtl) : (putCan c v s).pipes = s.pipes := rfl
@[simp] theorem putCan_net (c : Nat) (v : CanCtl) : (putCan c v s).net = s.net := rfl
@[simp] theorem putCan_tether (c : Nat) (v : CanCtl) : (putCan c v s).tether = s.tether := rfl
@[simp] theorem putCan_splice (c : Nat) (v : CanCtl) : (putCan c v s).splice = s.splice := rfl
@[simp] theorem putCan_wh (c : Nat) (v : CanCtl) : (putCan c v s).wh = s.wh := rfl
@[simp] theorem putCan_slots (c : Nat) (v : CanCtl) : (putCan c v s).slots = s.slots := rfl
@[simp] theorem putCan_safeSlots (c : Nat) (v : CanCtl) : (putCan c v s).safeSlots = s.safeSlots := rfl
@[simp] theorem putCan_gtime (c : Nat) (v : CanCtl) : (putCan c v s).gtime = s.gtime := rfl
@[simp] theorem putCan_out (c : Nat) (v : CanCtl) : (putCan c v s).out = s.out := rfl
@[simp] theorem putCan_pending (c : Nat) (v : CanCtl) : (putCan c v s).pending = s.pending := rfl
@[simp] theorem putCan_isUp (c : Nat) (v : CanCtl) : isUp (putCan c v s) = isUp s := rfl
@[simp] theorem putCan_isRunning (c : Nat) (v : CanCtl) : isRunning (putCan c v s) = isRunning s := rfl
@[simp] theorem putCan_isStarting (c : Nat) (v : CanCtl) : isStarting (putCan c v s) = isStarting s := rfl
@[simp] theorem putCan_blocksOn (c : Nat) (v : CanCtl) : blocksOn (putCan c v s) = blocksOn s := rfl
@[simp] theorem putCan_gnow (c : Nat) (v : CanCtl) : gnow (putCan c v s) = gnow s := rfl
@[simp] theorem putCan_freeValue (c : Nat) (v : CanCtl) : freeValue (putCan c v s) = freeValue s := rfl
@[simp] theorem putCan_regRaw (c : Nat) (v : CanCtl) (x : Nat) : regRaw (putCan c v s) x = regRaw s x := rfl
@[simp] theorem putCan_odGet (c : Nat) (v : CanCtl) (x : Nat) : odGet (putCan c v s) x = odGet s x := rfl
@[simp] theorem putCan_odUse (c : Nat) (v : CanCtl) (x : Nat) : odUse (putCan c v s) x = odUse s x := rfl
@[simp] theorem putCan_blobGet (c : Nat) (v : CanCtl) (x : Nat) : blobGet (putCan c v s) x = blobGet s x := rfl
@[simp] theorem putCan_memByte (c : Nat) (v : CanCtl) (x : Nat) : memByte (putCan c v s) x = memByte s x := rfl
@[simp] theorem putCan_getApp (c : Nat) (v : CanCtl) (x : Nat) : getApp (putCan c v s) x = getApp s x := rfl
@[simp] theorem putCan_getHold (c : Nat) (v : CanCtl) (x : Nat) : getHold (putCan c v s) x = getHold s x := rfl
@[simp] theorem putCan_getCam (c : Nat) (v : CanCtl) (x : Nat) : getCam (putCan c v s) x = getCam s x := rfl
@[simp] theorem putCan_getSeq (c : Nat) (v : CanCtl) (x : Nat) : getSeq (putCan c v s) x = getSeq s x := rfl
@[simp] theorem putCan_getSession (c : Nat) (v : CanCtl) (x : Nat) : getSession (putCan c v s) x = getSession s x := rfl
@[simp] theorem putCan_getQ (c : Nat) (v : CanCtl) (x y : Nat) : getQ (putCan c v s) x y = getQ s x y := rfl
@[simp] theorem putCan_getInst (c : Nat) (v : CanCtl) (x : Nat) : getInst (putCan c v s) x = getInst s x := rfl
@[simp] theorem putCan_getPoll (c : Nat) (v : CanCtl) (x : Nat) : getPoll (putCan c v s) x = getPoll s x := rfl
@[simp] theorem putCan_getConn (c : Nat) (v : CanCtl) (x : Nat) : getConn (putCan c v s) x = getConn s x := rfl
@[simp] theorem putCan_getSq (c : Nat) (v : CanCtl) (x : Nat) : getSq (putCan c v s) x = getSq s x := rfl
@[simp] theorem putCan_getWdg (c : Nat) (v : CanCtl) (x : Nat) : getWdg (putCan c v s) x = getWdg s x := rfl
@[simp] theorem putCan_getCt (c : Nat) (v : CanCtl) (x : Nat) : getCt (putCan c v s) x = getCt s x := rfl
@[simp] theorem putCan_getMacro (c : Nat) (v : CanCtl) (x y : Nat) : getMacro (putCan c v s) x y = getMacro s x y := rfl
@[simp] theorem putCan_getGq (c : Nat) (v : CanCtl) (x : Nat) : getGq (putCan c v s) x = getGq s x := rfl
@[simp] theorem putCan_getPipe (c : Nat) (v : CanCtl) (x : Nat) : getPipe (putCan c v s) x = getPipe s x := rfl
@[simp] theorem putCan_getPendant (c : Nat) (v : CanCtl) (x : Nat) : getPendant (putCan c v s) x = getPendant s x := rfl

/-! ### putCam -/

@[simp] theorem putCam_dev (i : Nat) (v : CamStream) : (putCam i v s).dev = s.dev := rfl
@[simp] theorem putCam_now (i : Nat) (v : CamStream) : (putCam i v s).now = s.now := rfl
@[simp] theorem putCam_free (i : Nat) (v : CamStream) : (putCam i v s).free = s.free := rfl
@[simp] theorem putCam_regs (i : Nat) (v : CamStream) : (putCam i v s).regs = s.regs := rfl
@[simp] theorem putCam_hold (i : Nat) (v : CamStream) : (putCam i v s).hold = s.hold := rfl
@[simp] theorem putCam_od (i : Nat) (v : CamStream) : (putCam i v s).od = s.od := rfl
@[simp] theorem putCam_odBlob (i : Nat) (v : CamStream) : (putCam i v s).odBlob = s.odBlob := rfl
@[simp] theorem putCam_odChange (i : Nat) (v : CamStream) : (putCam i v s).odChange = s.odChange := rfl
@[simp] theorem putCam_odStart (i : Nat) (v : CamStream) : (putCam i v s).odStart = s.odStart := rfl
@[simp] theorem putCam_mem (i : Nat) (v : CamStream) : (putCam i v s).mem = s.mem := rfl
@[simp] theorem putCam_memCtl (i : Nat) (v : CamStream) : (putCam i v s).memCtl = s.memCtl := rfl
@[simp] theorem putCam_pwr (i : Nat) (v : CamStream) : (putCam i v s).pwr = s.pwr := rfl
@[simp] theorem putCam_start (i : Nat) (v : CamStream) : (putCam i v s).start = s.start := rfl
@[simp] theorem putCam_sdg (i : Nat) (v : CamStream) : (putCam i v s).sdg = s.sdg := rfl
@[simp] theorem putCam_frz (i : Nat) (v : CamStream) : (putCam i v s).frz = s.frz := rfl
@[simp] theorem putCam_leash (i : Nat) (v : CamStream) : (putCam i v s).leash = s.leash := rfl
@[simp] theorem putCam_params (i : Nat) (v : CamStream) : (putCam i v s).params = s.params := rfl
@[simp] theorem putCam_canopen (i : Nat) (v : CamStream) : (putCam i v s).canopen = s.canopen := rfl
@[simp] theorem putCam_lock (i : Nat) (v : CamStream) : (putCam i v s).lock = s.lock := rfl
@[simp] theorem putCam_apps (i : Nat) (v : CamStream) : (putCam i v s).apps = s.apps := rfl
@[simp] theorem putCam_sec (i : Nat) (v : CamStream) : (putCam i v s).sec = s.sec := rfl
@[simp] theorem putCam_fuses (i : Nat) (v : CamStream) : (putCam i v s).fuses = s.fuses := rfl
@[simp] theorem putCam_knots (i : Nat) (v : CamStream) : (putCam i v s).knots = s.knots := rfl
@[simp] theorem putCam_pack (i : Nat) (v : CamStream) : (putCam i v s).pack = s.pack := rfl
@[simp] theorem putCam_cim (i : Nat) (v : CamStream) : (putCam i v s).cim = s.cim := rfl
@[simp] theorem putCam_kennel (i : Nat) (v : CamStream) : (putCam i v s).kennel = s.kennel := rfl
@[simp] theorem putCam_gfx (i : Nat) (v : CamStream) : (putCam i v s).gfx = s.gfx := rfl
@[simp] theorem putCam_pipes (i : Nat) (v : CamStream) : (putCam i v s).pipes = s.pipes := rfl
@[simp] theorem putCam_net (i : Nat) (v : CamStream) : (putCam i v s).net = s.net := rfl
@[simp] theorem putCam_can (i : Nat) (v : CamStream) : (putCam i v s).can = s.can := rfl
@[simp] theorem putCam_tether (i : Nat) (v : CamStream) : (putCam i v s).tether = s.tether := rfl
@[simp] theorem putCam_splice (i : Nat) (v : CamStream) : (putCam i v s).splice = s.splice := rfl
@[simp] theorem putCam_wh (i : Nat) (v : CamStream) : (putCam i v s).wh = s.wh := rfl
@[simp] theorem putCam_slots (i : Nat) (v : CamStream) : (putCam i v s).slots = s.slots := rfl
@[simp] theorem putCam_safeSlots (i : Nat) (v : CamStream) : (putCam i v s).safeSlots = s.safeSlots := rfl
@[simp] theorem putCam_gtime (i : Nat) (v : CamStream) : (putCam i v s).gtime = s.gtime := rfl
@[simp] theorem putCam_out (i : Nat) (v : CamStream) : (putCam i v s).out = s.out := rfl
@[simp] theorem putCam_pending (i : Nat) (v : CamStream) : (putCam i v s).pending = s.pending := rfl
@[simp] theorem putCam_isUp (i : Nat) (v : CamStream) : isUp (putCam i v s) = isUp s := rfl
@[simp] theorem putCam_isRunning (i : Nat) (v : CamStream) : isRunning (putCam i v s) = isRunning s := rfl
@[simp] theorem putCam_isStarting (i : Nat) (v : CamStream) : isStarting (putCam i v s) = isStarting s := rfl
@[simp] theorem putCam_blocksOn (i : Nat) (v : CamStream) : blocksOn (putCam i v s) = blocksOn s := rfl
@[simp] theorem putCam_gnow (i : Nat) (v : CamStream) : gnow (putCam i v s) = gnow s := rfl
@[simp] theorem putCam_freeValue (i : Nat) (v : CamStream) : freeValue (putCam i v s) = freeValue s := rfl
@[simp] theorem putCam_regRaw (i : Nat) (v : CamStream) (x : Nat) : regRaw (putCam i v s) x = regRaw s x := rfl
@[simp] theorem putCam_odGet (i : Nat) (v : CamStream) (x : Nat) : odGet (putCam i v s) x = odGet s x := rfl
@[simp] theorem putCam_odUse (i : Nat) (v : CamStream) (x : Nat) : odUse (putCam i v s) x = odUse s x := rfl
@[simp] theorem putCam_blobGet (i : Nat) (v : CamStream) (x : Nat) : blobGet (putCam i v s) x = blobGet s x := rfl
@[simp] theorem putCam_memByte (i : Nat) (v : CamStream) (x : Nat) : memByte (putCam i v s) x = memByte s x := rfl
@[simp] theorem putCam_getApp (i : Nat) (v : CamStream) (x : Nat) : getApp (putCam i v s) x = getApp s x := rfl
@[simp] theorem putCam_getHold (i : Nat) (v : CamStream) (x : Nat) : getHold (putCam i v s) x = getHold s x := rfl
@[simp] theorem putCam_getCan (i : Nat) (v : CamStream) (x : Nat) : getCan (putCam i v s) x = getCan s x := rfl
@[simp] theorem putCam_getSeq (i : Nat) (v : CamStream) (x : Nat) : getSeq (putCam i v s) x = getSeq s x := rfl
@[simp] theorem putCam_getSession (i : Nat) (v : CamStream) (x : Nat) : getSession (putCam i v s) x = getSession s x := rfl
@[simp] theorem putCam_getQ (i : Nat) (v : CamStream) (x y : Nat) : getQ (putCam i v s) x y = getQ s x y := rfl
@[simp] theorem putCam_getInst (i : Nat) (v : CamStream) (x : Nat) : getInst (putCam i v s) x = getInst s x := rfl
@[simp] theorem putCam_getPoll (i : Nat) (v : CamStream) (x : Nat) : getPoll (putCam i v s) x = getPoll s x := rfl
@[simp] theorem putCam_getConn (i : Nat) (v : CamStream) (x : Nat) : getConn (putCam i v s) x = getConn s x := rfl
@[simp] theorem putCam_getSq (i : Nat) (v : CamStream) (x : Nat) : getSq (putCam i v s) x = getSq s x := rfl
@[simp] theorem putCam_getWdg (i : Nat) (v : CamStream) (x : Nat) : getWdg (putCam i v s) x = getWdg s x := rfl
@[simp] theorem putCam_getCt (i : Nat) (v : CamStream) (x : Nat) : getCt (putCam i v s) x = getCt s x := rfl
@[simp] theorem putCam_getMacro (i : Nat) (v : CamStream) (x y : Nat) : getMacro (putCam i v s) x y = getMacro s x y := rfl
@[simp] theorem putCam_getGq (i : Nat) (v : CamStream) (x : Nat) : getGq (putCam i v s) x = getGq s x := rfl
@[simp] theorem putCam_getPipe (i : Nat) (v : CamStream) (x : Nat) : getPipe (putCam i v s) x = getPipe s x := rfl
@[simp] theorem putCam_getPendant (i : Nat) (v : CamStream) (x : Nat) : getPendant (putCam i v s) x = getPendant s x := rfl

/-! ### putSeq -/

@[simp] theorem putSeq_dev (h : Nat) (v : Seq) : (putSeq h v s).dev = s.dev := rfl
@[simp] theorem putSeq_now (h : Nat) (v : Seq) : (putSeq h v s).now = s.now := rfl
@[simp] theorem putSeq_free (h : Nat) (v : Seq) : (putSeq h v s).free = s.free := rfl
@[simp] theorem putSeq_regs (h : Nat) (v : Seq) : (putSeq h v s).regs = s.regs := rfl
@[simp] theorem putSeq_hold (h : Nat) (v : Seq) : (putSeq h v s).hold = s.hold := rfl
@[simp] theorem putSeq_od (h : Nat) (v : Seq) : (putSeq h v s).od = s.od := rfl
@[simp] theorem putSeq_odBlob (h : Nat) (v : Seq) : (putSeq h v s).odBlob = s.odBlob := rfl
@[simp] theorem putSeq_odChange (h : Nat) (v : Seq) : (putSeq h v s).odChange = s.odChange := rfl
@[simp] theorem putSeq_odStart (h : Nat) (v : Seq) : (putSeq h v s).odStart = s.odStart := rfl
@[simp] theorem putSeq_mem (h : Nat) (v : Seq) : (putSeq h v s).mem = s.mem := rfl
@[simp] theorem putSeq_memCtl (h : Nat) (v : Seq) : (putSeq h v s).memCtl = s.memCtl := rfl
@[simp] theorem putSeq_pwr (h : Nat) (v : Seq) : (putSeq h v s).pwr = s.pwr := rfl
@[simp] theorem putSeq_start (h : Nat) (v : Seq) : (putSeq h v s).start = s.start := rfl
@[simp] theorem putSeq_sdg (h : Nat) (v : Seq) : (putSeq h v s).sdg = s.sdg := rfl
@[simp] theorem putSeq_frz (h : Nat) (v : Seq) : (putSeq h v s).frz = s.frz := rfl
@[simp] theorem putSeq_leash (h : Nat) (v : Seq) : (putSeq h v s).leash = s.leash := rfl
@[simp] theorem putSeq_params (h : Nat) (v : Seq) : (putSeq h v s).params = s.params := rfl
@[simp] theorem putSeq_canopen (h : Nat) (v : Seq) : (putSeq h v s).canopen = s.canopen := rfl
@[simp] theorem putSeq_lock (h : Nat) (v : Seq) : (putSeq h v s).lock = s.lock := rfl
@[simp] theorem putSeq_apps (h : Nat) (v : Seq) : (putSeq h v s).apps = s.apps := rfl
@[simp] theorem putSeq_sec (h : Nat) (v : Seq) : (putSeq h v s).sec = s.sec := rfl
@[simp] theorem putSeq_fuses (h : Nat) (v : Seq) : (putSeq h v s).fuses = s.fuses := rfl
@[simp] theorem putSeq_knots (h : Nat) (v : Seq) : (putSeq h v s).knots = s.knots := rfl
@[simp] theorem putSeq_pack (h : Nat) (v : Seq) : (putSeq h v s).pack = s.pack := rfl
@[simp] theorem putSeq_cim (h : Nat) (v : Seq) : (putSeq h v s).cim = s.cim := rfl
@[simp] theorem putSeq_cams (h : Nat) (v : Seq) : (putSeq h v s).cams = s.cams := rfl
@[simp] theorem putSeq_gfx (h : Nat) (v : Seq) : (putSeq h v s).gfx = s.gfx := rfl
@[simp] theorem putSeq_pipes (h : Nat) (v : Seq) : (putSeq h v s).pipes = s.pipes := rfl
@[simp] theorem putSeq_net (h : Nat) (v : Seq) : (putSeq h v s).net = s.net := rfl
@[simp] theorem putSeq_can (h : Nat) (v : Seq) : (putSeq h v s).can = s.can := rfl
@[simp] theorem putSeq_tether (h : Nat) (v : Seq) : (putSeq h v s).tether = s.tether := rfl
@[simp] theorem putSeq_splice (h : Nat) (v : Seq) : (putSeq h v s).splice = s.splice := rfl
@[simp] theorem putSeq_wh (h : Nat) (v : Seq) : (putSeq h v s).wh = s.wh := rfl
@[simp] theorem putSeq_slots (h : Nat) (v : Seq) : (putSeq h v s).slots = s.slots := rfl
@[simp] theorem putSeq_safeSlots (h : Nat) (v : Seq) : (putSeq h v s).safeSlots = s.safeSlots := rfl
@[simp] theorem putSeq_gtime (h : Nat) (v : Seq) : (putSeq h v s).gtime = s.gtime := rfl
@[simp] theorem putSeq_out (h : Nat) (v : Seq) : (putSeq h v s).out = s.out := rfl
@[simp] theorem putSeq_pending (h : Nat) (v : Seq) : (putSeq h v s).pending = s.pending := rfl
@[simp] theorem putSeq_isUp (h : Nat) (v : Seq) : isUp (putSeq h v s) = isUp s := rfl
@[simp] theorem putSeq_isRunning (h : Nat) (v : Seq) : isRunning (putSeq h v s) = isRunning s := rfl
@[simp] theorem putSeq_isStarting (h : Nat) (v : Seq) : isStarting (putSeq h v s) = isStarting s := rfl
@[simp] theorem putSeq_blocksOn (h : Nat) (v : Seq) : blocksOn (putSeq h v s) = blocksOn s := rfl
@[simp] theorem putSeq_gnow (h : Nat) (v : Seq) : gnow (putSeq h v s) = gnow s := rfl
@[simp] theorem putSeq_freeValue (h : Nat) (v : Seq) : freeValue (putSeq h v s) = freeValue s := rfl
@[simp] theorem putSeq_regRaw (h : Nat) (v : Seq) (x : Nat) : regRaw (putSeq h v s) x = regRaw s x := rfl
@[simp] theorem putSeq_odGet (h : Nat) (v : Seq) (x : Nat) : odGet (putSeq h v s) x = odGet s x := rfl
@[simp] theorem putSeq_odUse (h : Nat) (v : Seq) (x : Nat) : odUse (putSeq h v s) x = odUse s x := rfl
@[simp] theorem putSeq_blobGet (h : Nat) (v : Seq) (x : Nat) : blobGet (putSeq h v s) x = blobGet s x := rfl
@[simp] theorem putSeq_memByte (h : Nat) (v : Seq) (x : Nat) : memByte (putSeq h v s) x = memByte s x := rfl
@[simp] theorem putSeq_getApp (h : Nat) (v : Seq) (x : Nat) : getApp (putSeq h v s) x = getApp s x := rfl
@[simp] theorem putSeq_getHold (h : Nat) (v : Seq) (x : Nat) : getHold (putSeq h v s) x = getHold s x := rfl
@[simp] theorem putSeq_getCan (h : Nat) (v : Seq) (x : Nat) : getCan (putSeq h v s) x = getCan s x := rfl
@[simp] theorem putSeq_getCam (h : Nat) (v : Seq) (x : Nat) : getCam (putSeq h v s) x = getCam s x := rfl
@[simp] theorem putSeq_getSession (h : Nat) (v : Seq) (x : Nat) : getSession (putSeq h v s) x = getSession s x := rfl
@[simp] theorem putSeq_getQ (h : Nat) (v : Seq) (x y : Nat) : getQ (putSeq h v s) x y = getQ s x y := rfl
@[simp] theorem putSeq_getInst (h : Nat) (v : Seq) (x : Nat) : getInst (putSeq h v s) x = getInst s x := rfl
@[simp] theorem putSeq_getPoll (h : Nat) (v : Seq) (x : Nat) : getPoll (putSeq h v s) x = getPoll s x := rfl
@[simp] theorem putSeq_getConn (h : Nat) (v : Seq) (x : Nat) : getConn (putSeq h v s) x = getConn s x := rfl
@[simp] theorem putSeq_getSq (h : Nat) (v : Seq) (x : Nat) : getSq (putSeq h v s) x = getSq s x := rfl
@[simp] theorem putSeq_getWdg (h : Nat) (v : Seq) (x : Nat) : getWdg (putSeq h v s) x = getWdg s x := rfl
@[simp] theorem putSeq_getCt (h : Nat) (v : Seq) (x : Nat) : getCt (putSeq h v s) x = getCt s x := rfl
@[simp] theorem putSeq_getMacro (h : Nat) (v : Seq) (x y : Nat) : getMacro (putSeq h v s) x y = getMacro s x y := rfl
@[simp] theorem putSeq_getGq (h : Nat) (v : Seq) (x : Nat) : getGq (putSeq h v s) x = getGq s x := rfl
@[simp] theorem putSeq_getPipe (h : Nat) (v : Seq) (x : Nat) : getPipe (putSeq h v s) x = getPipe s x := rfl
@[simp] theorem putSeq_getPendant (h : Nat) (v : Seq) (x : Nat) : getPendant (putSeq h v s) x = getPendant s x := rfl

/-! ### putSession -/

@[simp] theorem putSession_dev (i : Nat) (v : Option Session) : (putSession i v s).dev = s.dev := rfl
@[simp] theorem putSession_now (i : Nat) (v : Option Session) : (putSession i v s).now = s.now := rfl
@[simp] theorem putSession_free (i : Nat) (v : Option Session) : (putSession i v s).free = s.free := rfl
@[simp] theorem putSession_regs (i : Nat) (v : Option Session) : (putSession i v s).regs = s.regs := rfl
@[simp] theorem putSession_hold (i : Nat) (v : Option Session) : (putSession i v s).hold = s.hold := rfl
@[simp] theorem putSession_od (i : Nat) (v : Option Session) : (putSession i v s).od = s.od := rfl
@[simp] theorem putSession_odBlob (i : Nat) (v : Option Session) : (putSession i v s).odBlob = s.odBlob := rfl
@[simp] theorem putSession_odChange (i : Nat) (v : Option Session) : (putSession i v s).odChange = s.odChange := rfl
@[simp] theorem putSession_odStart (i : Nat) (v : Option Session) : (putSession i v s).odStart = s.odStart := rfl
@[simp] theorem putSession_mem (i : Nat) (v : Option Session) : (putSession i v s).mem = s.mem := rfl
@[simp] theorem putSession_memCtl (i : Nat) (v : Option Session) : (putSession i v s).memCtl = s.memCtl := rfl
@[simp] theorem putSession_pwr (i : Nat) (v : Option Session) : (putSession i v s).pwr = s.pwr := rfl
@[simp] theorem putSession_start (i : Nat) (v : Option Session) : (putSession i v s).start = s.start := rfl
@[simp] theorem putSession_sdg (i : Nat) (v : Option Session) : (putSession i v s).sdg = s.sdg := rfl
@[simp] theorem putSession_frz (i : Nat) (v : Option Session) : (putSession i v s).frz = s.frz := rfl
@[simp] theorem putSession_params (i : Nat) (v : Option Session) : (putSession i v s).params = s.params := rfl
@[simp] theorem putSession_canopen (i : Nat) (v : Option Session) : (putSession i v s).canopen = s.canopen := rfl
@[simp] theorem putSession_lock (i : Nat) (v : Option Session) : (putSession i v s).lock = s.lock := rfl
@[simp] theorem putSession_apps (i : Nat) (v : Option Session) : (putSession i v s).apps = s.apps := rfl
@[simp] theorem putSession_sec (i : Nat) (v : Option Session) : (putSession i v s).sec = s.sec := rfl
@[simp] theorem putSession_fuses (i : Nat) (v : Option Session) : (putSession i v s).fuses = s.fuses := rfl
@[simp] theorem putSession_knots (i : Nat) (v : Option Session) : (putSession i v s).knots = s.knots := rfl
@[simp] theorem putSession_pack (i : Nat) (v : Option Session) : (putSession i v s).pack = s.pack := rfl
@[simp] theorem putSession_cim (i : Nat) (v : Option Session) : (putSession i v s).cim = s.cim := rfl
@[simp] theorem putSession_kennel (i : Nat) (v : Option Session) : (putSession i v s).kennel = s.kennel := rfl
@[simp] theorem putSession_cams (i : Nat) (v : Option Session) : (putSession i v s).cams = s.cams := rfl
@[simp] theorem putSession_gfx (i : Nat) (v : Option Session) : (putSession i v s).gfx = s.gfx := rfl
@[simp] theorem putSession_pipes (i : Nat) (v : Option Session) : (putSession i v s).pipes = s.pipes := rfl
@[simp] theorem putSession_net (i : Nat) (v : Option Session) : (putSession i v s).net = s.net := rfl
@[simp] theorem putSession_can (i : Nat) (v : Option Session) : (putSession i v s).can = s.can := rfl
@[simp] theorem putSession_tether (i : Nat) (v : Option Session) : (putSession i v s).tether = s.tether := rfl
@[simp] theorem putSession_splice (i : Nat) (v : Option Session) : (putSession i v s).splice = s.splice := rfl
@[simp] theorem putSession_wh (i : Nat) (v : Option Session) : (putSession i v s).wh = s.wh := rfl
@[simp] theorem putSession_slots (i : Nat) (v : Option Session) : (putSession i v s).slots = s.slots := rfl
@[simp] theorem putSession_safeSlots (i : Nat) (v : Option Session) : (putSession i v s).safeSlots = s.safeSlots := rfl
@[simp] theorem putSession_gtime (i : Nat) (v : Option Session) : (putSession i v s).gtime = s.gtime := rfl
@[simp] theorem putSession_out (i : Nat) (v : Option Session) : (putSession i v s).out = s.out := rfl
@[simp] theorem putSession_pending (i : Nat) (v : Option Session) : (putSession i v s).pending = s.pending := rfl
@[simp] theorem putSession_isUp (i : Nat) (v : Option Session) : isUp (putSession i v s) = isUp s := rfl
@[simp] theorem putSession_isRunning (i : Nat) (v : Option Session) : isRunning (putSession i v s) = isRunning s := rfl
@[simp] theorem putSession_isStarting (i : Nat) (v : Option Session) : isStarting (putSession i v s) = isStarting s := rfl
@[simp] theorem putSession_blocksOn (i : Nat) (v : Option Session) : blocksOn (putSession i v s) = blocksOn s := rfl
@[simp] theorem putSession_gnow (i : Nat) (v : Option Session) : gnow (putSession i v s) = gnow s := rfl
@[simp] theorem putSession_freeValue (i : Nat) (v : Option Session) : freeValue (putSession i v s) = freeValue s := rfl
@[simp] theorem putSession_regRaw (i : Nat) (v : Option Session) (x : Nat) : regRaw (putSession i v s) x = regRaw s x := rfl
@[simp] theorem putSession_odGet (i : Nat) (v : Option Session) (x : Nat) : odGet (putSession i v s) x = odGet s x := rfl
@[simp] theorem putSession_odUse (i : Nat) (v : Option Session) (x : Nat) : odUse (putSession i v s) x = odUse s x := rfl
@[simp] theorem putSession_blobGet (i : Nat) (v : Option Session) (x : Nat) : blobGet (putSession i v s) x = blobGet s x := rfl
@[simp] theorem putSession_memByte (i : Nat) (v : Option Session) (x : Nat) : memByte (putSession i v s) x = memByte s x := rfl
@[simp] theorem putSession_getApp (i : Nat) (v : Option Session) (x : Nat) : getApp (putSession i v s) x = getApp s x := rfl
@[simp] theorem putSession_getHold (i : Nat) (v : Option Session) (x : Nat) : getHold (putSession i v s) x = getHold s x := rfl
@[simp] theorem putSession_getCan (i : Nat) (v : Option Session) (x : Nat) : getCan (putSession i v s) x = getCan s x := rfl
@[simp] theorem putSession_getCam (i : Nat) (v : Option Session) (x : Nat) : getCam (putSession i v s) x = getCam s x := rfl
@[simp] theorem putSession_getSeq (i : Nat) (v : Option Session) (x : Nat) : getSeq (putSession i v s) x = getSeq s x := rfl
@[simp] theorem putSession_getQ (i : Nat) (v : Option Session) (x y : Nat) : getQ (putSession i v s) x y = getQ s x y := rfl
@[simp] theorem putSession_getInst (i : Nat) (v : Option Session) (x : Nat) : getInst (putSession i v s) x = getInst s x := rfl
@[simp] theorem putSession_getPoll (i : Nat) (v : Option Session) (x : Nat) : getPoll (putSession i v s) x = getPoll s x := rfl
@[simp] theorem putSession_getConn (i : Nat) (v : Option Session) (x : Nat) : getConn (putSession i v s) x = getConn s x := rfl
@[simp] theorem putSession_getSq (i : Nat) (v : Option Session) (x : Nat) : getSq (putSession i v s) x = getSq s x := rfl
@[simp] theorem putSession_getWdg (i : Nat) (v : Option Session) (x : Nat) : getWdg (putSession i v s) x = getWdg s x := rfl
@[simp] theorem putSession_getCt (i : Nat) (v : Option Session) (x : Nat) : getCt (putSession i v s) x = getCt s x := rfl
@[simp] theorem putSession_getMacro (i : Nat) (v : Option Session) (x y : Nat) : getMacro (putSession i v s) x y = getMacro s x y := rfl
@[simp] theorem putSession_getGq (i : Nat) (v : Option Session) (x : Nat) : getGq (putSession i v s) x = getGq s x := rfl
@[simp] theorem putSession_getPipe (i : Nat) (v : Option Session) (x : Nat) : getPipe (putSession i v s) x = getPipe s x := rfl
@[simp] theorem putSession_getPendant (i : Nat) (v : Option Session) (x : Nat) : getPendant (putSession i v s) x = getPendant s x := rfl

/-! ### putQ -/

@[simp] theorem putQ_dev (n q : Nat) (v : Queue) : (putQ n q v s).dev = s.dev := rfl
@[simp] theorem putQ_now (n q : Nat) (v : Queue) : (putQ n q v s).now = s.now := rfl
@[simp] theorem putQ_free (n q : Nat) (v : Queue) : (putQ n q v s).free = s.free := rfl
@[simp] theorem putQ_regs (n q : Nat) (v : Queue) : (putQ n q v s).regs = s.regs := rfl
@[simp] theorem putQ_hold (n q : Nat) (v : Queue) : (putQ n q v s).hold = s.hold := rfl
@[simp] theorem putQ_od (n q : Nat) (v : Queue) : (putQ n q v s).od = s.od := rfl
@[simp] theorem putQ_odBlob (n q : Nat) (v : Queue) : (putQ n q v s).odBlob = s.odBlob := rfl
@[simp] theorem putQ_odChange (n q : Nat) (v : Queue) : (putQ n q v s).odChange = s.odChange := rfl
@[simp] theorem putQ_odStart (n q : Nat) (v : Queue) : (putQ n q v s).odStart = s.odStart := rfl
@[simp] theorem putQ_mem (n q : Nat) (v : Queue) : (putQ n q v s).mem = s.mem := rfl
@[simp] theorem putQ_memCtl (n q : Nat) (v : Queue) : (putQ n q v s).memCtl = s.memCtl := rfl
@[simp] theorem putQ_pwr (n q : Nat) (v : Queue) : (putQ n q v s).pwr = s.pwr := rfl
@[simp] theorem putQ_start (n q : Nat) (v : Queue) : (putQ n q v s).start = s.start := rfl
@[simp] theorem putQ_sdg (n q : Nat) (v : Queue) : (putQ n q v s).sdg = s.sdg := rfl
@[simp] theorem putQ_frz (n q : Nat) (v : Queue) : (putQ n q v s).frz = s.frz := rfl
@[simp] theorem putQ_leash (n q : Nat) (v : Queue) : (putQ n q v s).leash = s.leash := rfl
@[simp] theorem putQ_params (n q : Nat) (v : Queue) : (putQ n q v s).params = s.params := rfl
@[simp] theorem putQ_canopen (n q : Nat) (v : Queue) : (putQ n q v s).canopen = s.canopen := rfl
@[simp] theorem putQ_lock (n q : Nat) (v : Queue) : (putQ n q v s).lock = s.lock := rfl
@[simp] theorem putQ_apps (n q : Nat) (v : Queue) : (putQ n q v s).apps = s.apps := rfl
@[simp] theorem putQ_sec (n q : Nat) (v : Queue) : (putQ n q v s).sec = s.sec := rfl
@[simp] theorem putQ_fuses (n q : Nat) (v : Queue) : (putQ n q v s).fuses = s.fuses := rfl
@[simp] theorem putQ_knots (n q : Nat) (v : Queue) : (putQ n q v s).knots = s.knots := rfl
@[simp] theorem putQ_cim (n q : Nat) (v : Queue) : (putQ n q v s).cim = s.cim := rfl
@[simp] theorem putQ_kennel (n q : Nat) (v : Queue) : (putQ n q v s).kennel = s.kennel := rfl
@[simp] theorem putQ_cams (n q : Nat) (v : Queue) : (putQ n q v s).cams = s.cams := rfl
@[simp] theorem putQ_gfx (n q : Nat) (v : Queue) : (putQ n q v s).gfx = s.gfx := rfl
@[simp] theorem putQ_pipes (n q : Nat) (v : Queue) : (putQ n q v s).pipes = s.pipes := rfl
@[simp] theorem putQ_net (n q : Nat) (v : Queue) : (putQ n q v s).net = s.net := rfl
@[simp] theorem putQ_can (n q : Nat) (v : Queue) : (putQ n q v s).can = s.can := rfl
@[simp] theorem putQ_tether (n q : Nat) (v : Queue) : (putQ n q v s).tether = s.tether := rfl
@[simp] theorem putQ_splice (n q : Nat) (v : Queue) : (putQ n q v s).splice = s.splice := rfl
@[simp] theorem putQ_wh (n q : Nat) (v : Queue) : (putQ n q v s).wh = s.wh := rfl
@[simp] theorem putQ_slots (n q : Nat) (v : Queue) : (putQ n q v s).slots = s.slots := rfl
@[simp] theorem putQ_safeSlots (n q : Nat) (v : Queue) : (putQ n q v s).safeSlots = s.safeSlots := rfl
@[simp] theorem putQ_gtime (n q : Nat) (v : Queue) : (putQ n q v s).gtime = s.gtime := rfl
@[simp] theorem putQ_out (n q : Nat) (v : Queue) : (putQ n q v s).out = s.out := rfl
@[simp] theorem putQ_pending (n q : Nat) (v : Queue) : (putQ n q v s).pending = s.pending := rfl
@[simp] theorem putQ_isUp (n q : Nat) (v : Queue) : isUp (putQ n q v s) = isUp s := rfl
@[simp] theorem putQ_isRunning (n q : Nat) (v : Queue) : isRunning (putQ n q v s) = isRunning s := rfl
@[simp] theorem putQ_isStarting (n q : Nat) (v : Queue) : isStarting (putQ n q v s) = isStarting s := rfl
@[simp] theorem putQ_blocksOn (n q : Nat) (v : Queue) : blocksOn (putQ n q v s) = blocksOn s := rfl
@[simp] theorem putQ_gnow (n q : Nat) (v : Queue) : gnow (putQ n q v s) = gnow s := rfl
@[simp] theorem putQ_freeValue (n q : Nat) (v : Queue) : freeValue (putQ n q v s) = freeValue s := rfl
@[simp] theorem putQ_regRaw (n q : Nat) (v : Queue) (x : Nat) : regRaw (putQ n q v s) x = regRaw s x := rfl
@[simp] theorem putQ_odGet (n q : Nat) (v : Queue) (x : Nat) : odGet (putQ n q v s) x = odGet s x := rfl
@[simp] theorem putQ_odUse (n q : Nat) (v : Queue) (x : Nat) : odUse (putQ n q v s) x = odUse s x := rfl
@[simp] theorem putQ_blobGet (n q : Nat) (v : Queue) (x : Nat) : blobGet (putQ n q v s) x = blobGet s x := rfl
@[simp] theorem putQ_memByte (n q : Nat) (v : Queue) (x : Nat) : memByte (putQ n q v s) x = memByte s x := rfl
@[simp] theorem putQ_getApp (n q : Nat) (v : Queue) (x : Nat) : getApp (putQ n q v s) x = getApp s x := rfl
@[simp] theorem putQ_getHold (n q : Nat) (v : Queue) (x : Nat) : getHold (putQ n q v s) x = getHold s x := rfl
@[simp] theorem putQ_getCan (n q : Nat) (v : Queue) (x : Nat) : getCan (putQ n q v s) x = getCan s x := rfl
@[simp] theorem putQ_getCam (n q : Nat) (v : Queue) (x : Nat) : getCam (putQ n q v s) x = getCam s x := rfl
@[simp] theorem putQ_getSeq (n q : Nat) (v : Queue) (x : Nat) : getSeq (putQ n q v s) x = getSeq s x := rfl
@[simp] theorem putQ_getSession (n q : Nat) (v : Queue) (x : Nat) : getSession (putQ n q v s) x = getSession s x := rfl
@[simp] theorem putQ_getPoll (n q : Nat) (v : Queue) (x : Nat) : getPoll (putQ n q v s) x = getPoll s x := rfl
@[simp] theorem putQ_getConn (n q : Nat) (v : Queue) (x : Nat) : getConn (putQ n q v s) x = getConn s x := rfl
@[simp] theorem putQ_getSq (n q : Nat) (v : Queue) (x : Nat) : getSq (putQ n q v s) x = getSq s x := rfl
@[simp] theorem putQ_getWdg (n q : Nat) (v : Queue) (x : Nat) : getWdg (putQ n q v s) x = getWdg s x := rfl
@[simp] theorem putQ_getCt (n q : Nat) (v : Queue) (x : Nat) : getCt (putQ n q v s) x = getCt s x := rfl
@[simp] theorem putQ_getMacro (n q : Nat) (v : Queue) (x y : Nat) : getMacro (putQ n q v s) x y = getMacro s x y := rfl
@[simp] theorem putQ_getGq (n q : Nat) (v : Queue) (x : Nat) : getGq (putQ n q v s) x = getGq s x := rfl
@[simp] theorem putQ_getPipe (n q : Nat) (v : Queue) (x : Nat) : getPipe (putQ n q v s) x = getPipe s x := rfl
@[simp] theorem putQ_getPendant (n q : Nat) (v : Queue) (x : Nat) : getPendant (putQ n q v s) x = getPendant s x := rfl

/-! ### putInst -/

@[simp] theorem putInst_dev (n : Nat) (v : Inst) : (putInst n v s).dev = s.dev := rfl
@[simp] theorem putInst_now (n : Nat) (v : Inst) : (putInst n v s).now = s.now := rfl
@[simp] theorem putInst_free (n : Nat) (v : Inst) : (putInst n v s).free = s.free := rfl
@[simp] theorem putInst_regs (n : Nat) (v : Inst) : (putInst n v s).regs = s.regs := rfl
@[simp] theorem putInst_hold (n : Nat) (v : Inst) : (putInst n v s).hold = s.hold := rfl
@[simp] theorem putInst_od (n : Nat) (v : Inst) : (putInst n v s).od = s.od := rfl
@[simp] theorem putInst_odBlob (n : Nat) (v : Inst) : (putInst n v s).odBlob = s.odBlob := rfl
@[simp] theorem putInst_odChange (n : Nat) (v : Inst) : (putInst n v s).odChange = s.odChange := rfl
@[simp] theorem putInst_odStart (n : Nat) (v : Inst) : (putInst n v s).odStart = s.odStart := rfl
@[simp] theorem putInst_mem (n : Nat) (v : Inst) : (putInst n v s).mem = s.mem := rfl
@[simp] theorem putInst_memCtl (n : Nat) (v : Inst) : (putInst n v s).memCtl = s.memCtl := rfl
@[simp] theorem putInst_pwr (n : Nat) (v : Inst) : (putInst n v s).pwr = s.pwr := rfl
@[simp] theorem putInst_start (n : Nat) (v : Inst) : (putInst n v s).start = s.start := rfl
@[simp] theorem putInst_sdg (n : Nat) (v : Inst) : (putInst n v s).sdg = s.sdg := rfl
@[simp] theorem putInst_frz (n : Nat) (v : Inst) : (putInst n v s).frz = s.frz := rfl
@[simp] theorem putInst_leash (n : Nat) (v : Inst) : (putInst n v s).leash = s.leash := rfl
@[simp] theorem putInst_params (n : Nat) (v : Inst) : (putInst n v s).params = s.params := rfl
@[simp] theorem putInst_canopen (n : Nat) (v : Inst) : (putInst n v s).canopen = s.canopen := rfl
@[simp] theorem putInst_lock (n : Nat) (v : Inst) : (putInst n v s).lock = s.lock := rfl
@[simp] theorem putInst_apps (n : Nat) (v : Inst) : (putInst n v s).apps = s.apps := rfl
@[simp] theorem putInst_sec (n : Nat) (v : Inst) : (putInst n v s).sec = s.sec := rfl
@[simp] theorem putInst_fuses (n : Nat) (v : Inst) : (putInst n v s).fuses = s.fuses := rfl
@[simp] theorem putInst_knots (n : Nat) (v : Inst) : (putInst n v s).knots = s.knots := rfl
@[simp] theorem putInst_cim (n : Nat) (v : Inst) : (putInst n v s).cim = s.cim := rfl
@[simp] theorem putInst_kennel (n : Nat) (v : Inst) : (putInst n v s).kennel = s.kennel := rfl
@[simp] theorem putInst_cams (n : Nat) (v : Inst) : (putInst n v s).cams = s.cams := rfl
@[simp] theorem putInst_gfx (n : Nat) (v : Inst) : (putInst n v s).gfx = s.gfx := rfl
@[simp] theorem putInst_pipes (n : Nat) (v : Inst) : (putInst n v s).pipes = s.pipes := rfl
@[simp] theorem putInst_net (n : Nat) (v : Inst) : (putInst n v s).net = s.net := rfl
@[simp] theorem putInst_can (n : Nat) (v : Inst) : (putInst n v s).can = s.can := rfl
@[simp] theorem putInst_tether (n : Nat) (v : Inst) : (putInst n v s).tether = s.tether := rfl
@[simp] theorem putInst_splice (n : Nat) (v : Inst) : (putInst n v s).splice = s.splice := rfl
@[simp] theorem putInst_wh (n : Nat) (v : Inst) : (putInst n v s).wh = s.wh := rfl
@[simp] theorem putInst_slots (n : Nat) (v : Inst) : (putInst n v s).slots = s.slots := rfl
@[simp] theorem putInst_safeSlots (n : Nat) (v : Inst) : (putInst n v s).safeSlots = s.safeSlots := rfl
@[simp] theorem putInst_gtime (n : Nat) (v : Inst) : (putInst n v s).gtime = s.gtime := rfl
@[simp] theorem putInst_out (n : Nat) (v : Inst) : (putInst n v s).out = s.out := rfl
@[simp] theorem putInst_pending (n : Nat) (v : Inst) : (putInst n v s).pending = s.pending := rfl
@[simp] theorem putInst_isUp (n : Nat) (v : Inst) : isUp (putInst n v s) = isUp s := rfl
@[simp] theorem putInst_isRunning (n : Nat) (v : Inst) : isRunning (putInst n v s) = isRunning s := rfl
@[simp] theorem putInst_isStarting (n : Nat) (v : Inst) : isStarting (putInst n v s) = isStarting s := rfl
@[simp] theorem putInst_blocksOn (n : Nat) (v : Inst) : blocksOn (putInst n v s) = blocksOn s := rfl
@[simp] theorem putInst_gnow (n : Nat) (v : Inst) : gnow (putInst n v s) = gnow s := rfl
@[simp] theorem putInst_freeValue (n : Nat) (v : Inst) : freeValue (putInst n v s) = freeValue s := rfl
@[simp] theorem putInst_regRaw (n : Nat) (v : Inst) (x : Nat) : regRaw (putInst n v s) x = regRaw s x := rfl
@[simp] theorem putInst_odGet (n : Nat) (v : Inst) (x : Nat) : odGet (putInst n v s) x = odGet s x := rfl
@[simp] theorem putInst_odUse (n : Nat) (v : Inst) (x : Nat) : odUse (putInst n v s) x = odUse s x := rfl
@[simp] theorem putInst_blobGet (n : Nat) (v : Inst) (x : Nat) : blobGet (putInst n v s) x = blobGet s x := rfl
@[simp] theorem putInst_memByte (n : Nat) (v : Inst) (x : Nat) : memByte (putInst n v s) x = memByte s x := rfl
@[simp] theorem putInst_getApp (n : Nat) (v : Inst) (x : Nat) : getApp (putInst n v s) x = getApp s x := rfl
@[simp] theorem putInst_getHold (n : Nat) (v : Inst) (x : Nat) : getHold (putInst n v s) x = getHold s x := rfl
@[simp] theorem putInst_getCan (n : Nat) (v : Inst) (x : Nat) : getCan (putInst n v s) x = getCan s x := rfl
@[simp] theorem putInst_getCam (n : Nat) (v : Inst) (x : Nat) : getCam (putInst n v s) x = getCam s x := rfl
@[simp] theorem putInst_getSeq (n : Nat) (v : Inst) (x : Nat) : getSeq (putInst n v s) x = getSeq s x := rfl
@[simp] theorem putInst_getSession (n : Nat) (v : Inst) (x : Nat) : getSession (putInst n v s) x = getSession s x := rfl
@[simp] theorem putInst_getPoll (n : Nat) (v : Inst) (x : Nat) : getPoll (putInst n v s) x = getPoll s x := rfl
@[simp] theorem putInst_getConn (n : Nat) (v : Inst) (x : Nat) : getConn (putInst n v s) x = getConn s x := rfl
@[simp] theorem putInst_getSq (n : Nat) (v : Inst) (x : Nat) : getSq (putInst n v s) x = getSq s x := rfl
@[simp] theorem putInst_getWdg (n : Nat) (v : Inst) (x : Nat) : getWdg (putInst n v s) x = getWdg s x := rfl
@[simp] theorem putInst_getCt (n : Nat) (v : Inst) (x : Nat) : getCt (putInst n v s) x = getCt s x := rfl
@[simp] theorem putInst_getMacro (n : Nat) (v : Inst) (x y : Nat) : getMacro (putInst n v s) x y = getMacro s x y := rfl
@[simp] theorem putInst_getGq (n : Nat) (v : Inst) (x : Nat) : getGq (putInst n v s) x = getGq s x := rfl
@[simp] theorem putInst_getPipe (n : Nat) (v : Inst) (x : Nat) : getPipe (putInst n v s) x = getPipe s x := rfl
@[simp] theorem putInst_getPendant (n : Nat) (v : Inst) (x : Nat) : getPendant (putInst n v s) x = getPendant s x := rfl

/-! ### putPoll -/

@[simp] theorem putPoll_dev (e : Nat) (v : Poll) : (putPoll e v s).dev = s.dev := rfl
@[simp] theorem putPoll_now (e : Nat) (v : Poll) : (putPoll e v s).now = s.now := rfl
@[simp] theorem putPoll_free (e : Nat) (v : Poll) : (putPoll e v s).free = s.free := rfl
@[simp] theorem putPoll_regs (e : Nat) (v : Poll) : (putPoll e v s).regs = s.regs := rfl
@[simp] theorem putPoll_hold (e : Nat) (v : Poll) : (putPoll e v s).hold = s.hold := rfl
@[simp] theorem putPoll_od (e : Nat) (v : Poll) : (putPoll e v s).od = s.od := rfl
@[simp] theorem putPoll_odBlob (e : Nat) (v : Poll) : (putPoll e v s).odBlob = s.odBlob := rfl
@[simp] theorem putPoll_odChange (e : Nat) (v : Poll) : (putPoll e v s).odChange = s.odChange := rfl
@[simp] theorem putPoll_odStart (e : Nat) (v : Poll) : (putPoll e v s).odStart = s.odStart := rfl
@[simp] theorem putPoll_mem (e : Nat) (v : Poll) : (putPoll e v s).mem = s.mem := rfl
@[simp] theorem putPoll_memCtl (e : Nat) (v : Poll) : (putPoll e v s).memCtl = s.memCtl := rfl
@[simp] theorem putPoll_pwr (e : Nat) (v : Poll) : (putPoll e v s).pwr = s.pwr := rfl
@[simp] theorem putPoll_start (e : Nat) (v : Poll) : (putPoll e v s).start = s.start := rfl
@[simp] theorem putPoll_sdg (e : Nat) (v : Poll) : (putPoll e v s).sdg = s.sdg := rfl
@[simp] theorem putPoll_frz (e : Nat) (v : Poll) : (putPoll e v s).frz = s.frz := rfl
@[simp] theorem putPoll_leash (e : Nat) (v : Poll) : (putPoll e v s).leash = s.leash := rfl
@[simp] theorem putPoll_params (e : Nat) (v : Poll) : (putPoll e v s).params = s.params := rfl
@[simp] theorem putPoll_canopen (e : Nat) (v : Poll) : (putPoll e v s).canopen = s.canopen := rfl
@[simp] theorem putPoll_lock (e : Nat) (v : Poll) : (putPoll e v s).lock = s.lock := rfl
@[simp] theorem putPoll_apps (e : Nat) (v : Poll) : (putPoll e v s).apps = s.apps := rfl
@[simp] theorem putPoll_sec (e : Nat) (v : Poll) : (putPoll e v s).sec = s.sec := rfl
@[simp] theorem putPoll_fuses (e : Nat) (v : Poll) : (putPoll e v s).fuses = s.fuses := rfl
@[simp] theorem putPoll_knots (e : Nat) (v : Poll) : (putPoll e v s).knots = s.knots := rfl
@[simp] theorem putPoll_pack (e : Nat) (v : Poll) : (putPoll e v s).pack = s.pack := rfl
@[simp] theorem putPoll_cim (e : Nat) (v : Poll) : (putPoll e v s).cim = s.cim := rfl
@[simp] theorem putPoll_kennel (e : Nat) (v : Poll) : (putPoll e v s).kennel = s.kennel := rfl
@[simp] theorem putPoll_cams (e : Nat) (v : Poll) : (putPoll e v s).cams = s.cams := rfl
@[simp] theorem putPoll_gfx (e : Nat) (v : Poll) : (putPoll e v s).gfx = s.gfx := rfl
@[simp] theorem putPoll_pipes (e : Nat) (v : Poll) : (putPoll e v s).pipes = s.pipes := rfl
@[simp] theorem putPoll_net (e : Nat) (v : Poll) : (putPoll e v s).net = s.net := rfl
@[simp] theorem putPoll_can (e : Nat) (v : Poll) : (putPoll e v s).can = s.can := rfl
@[simp] theorem putPoll_tether (e : Nat) (v : Poll) : (putPoll e v s).tether = s.tether := rfl
@[simp] theorem putPoll_wh (e : Nat) (v : Poll) : (putPoll e v s).wh = s.wh := rfl
@[simp] theorem putPoll_slots (e : Nat) (v : Poll) : (putPoll e v s).slots = s.slots := rfl
@[simp] theorem putPoll_safeSlots (e : Nat) (v : Poll) : (putPoll e v s).safeSlots = s.safeSlots := rfl
@[simp] theorem putPoll_gtime (e : Nat) (v : Poll) : (putPoll e v s).gtime = s.gtime := rfl
@[simp] theorem putPoll_out (e : Nat) (v : Poll) : (putPoll e v s).out = s.out := rfl
@[simp] theorem putPoll_pending (e : Nat) (v : Poll) : (putPoll e v s).pending = s.pending := rfl
@[simp] theorem putPoll_isUp (e : Nat) (v : Poll) : isUp (putPoll e v s) = isUp s := rfl
@[simp] theorem putPoll_isRunning (e : Nat) (v : Poll) : isRunning (putPoll e v s) = isRunning s := rfl
@[simp] theorem putPoll_isStarting (e : Nat) (v : Poll) : isStarting (putPoll e v s) = isStarting s := rfl
@[simp] theorem putPoll_blocksOn (e : Nat) (v : Poll) : blocksOn (putPoll e v s) = blocksOn s := rfl
@[simp] theorem putPoll_gnow (e : Nat) (v : Poll) : gnow (putPoll e v s) = gnow s := rfl
@[simp] theorem putPoll_freeValue (e : Nat) (v : Poll) : freeValue (putPoll e v s) = freeValue s := rfl
@[simp] theorem putPoll_regRaw (e : Nat) (v : Poll) (x : Nat) : regRaw (putPoll e v s) x = regRaw s x := rfl
@[simp] theorem putPoll_odGet (e : Nat) (v : Poll) (x : Nat) : odGet (putPoll e v s) x = odGet s x := rfl
@[simp] theorem putPoll_odUse (e : Nat) (v : Poll) (x : Nat) : odUse (putPoll e v s) x = odUse s x := rfl
@[simp] theorem putPoll_blobGet (e : Nat) (v : Poll) (x : Nat) : blobGet (putPoll e v s) x = blobGet s x := rfl
@[simp] theorem putPoll_memByte (e : Nat) (v : Poll) (x : Nat) : memByte (putPoll e v s) x = memByte s x := rfl
@[simp] theorem putPoll_getApp (e : Nat) (v : Poll) (x : Nat) : getApp (putPoll e v s) x = getApp s x := rfl
@[simp] theorem putPoll_getHold (e : Nat) (v : Poll) (x : Nat) : getHold (putPoll e v s) x = getHold s x := rfl
@[simp] theorem putPoll_getCan (e : Nat) (v : Poll) (x : Nat) : getCan (putPoll e v s) x = getCan s x := rfl
@[simp] theorem putPoll_getCam (e : Nat) (v : Poll) (x : Nat) : getCam (putPoll e v s) x = getCam s x := rfl
@[simp] theorem putPoll_getSeq (e : Nat) (v : Poll) (x : Nat) : getSeq (putPoll e v s) x = getSeq s x := rfl
@[simp] theorem putPoll_getSession (e : Nat) (v : Poll) (x : Nat) : getSession (putPoll e v s) x = getSession s x := rfl
@[simp] theorem putPoll_getQ (e : Nat) (v : Poll) (x y : Nat) : getQ (putPoll e v s) x y = getQ s x y := rfl
@[simp] theorem putPoll_getInst (e : Nat) (v : Poll) (x : Nat) : getInst (putPoll e v s) x = getInst s x := rfl
@[simp] theorem putPoll_getConn (e : Nat) (v : Poll) (x : Nat) : getConn (putPoll e v s) x = getConn s x := rfl
@[simp] theorem putPoll_getSq (e : Nat) (v : Poll) (x : Nat) : getSq (putPoll e v s) x = getSq s x := rfl
@[simp] theorem putPoll_getWdg (e : Nat) (v : Poll) (x : Nat) : getWdg (putPoll e v s) x = getWdg s x := rfl
@[simp] theorem putPoll_getCt (e : Nat) (v : Poll) (x : Nat) : getCt (putPoll e v s) x = getCt s x := rfl
@[simp] theorem putPoll_getMacro (e : Nat) (v : Poll) (x y : Nat) : getMacro (putPoll e v s) x y = getMacro s x y := rfl
@[simp] theorem putPoll_getGq (e : Nat) (v : Poll) (x : Nat) : getGq (putPoll e v s) x = getGq s x := rfl
@[simp] theorem putPoll_getPipe (e : Nat) (v : Poll) (x : Nat) : getPipe (putPoll e v s) x = getPipe s x := rfl
@[simp] theorem putPoll_getPendant (e : Nat) (v : Poll) (x : Nat) : getPendant (putPoll e v s) x = getPendant s x := rfl

/-! ### putConn -/

@[simp] theorem putConn_dev (h : Nat) (v : TConn) : (putConn h v s).dev = s.dev := rfl
@[simp] theorem putConn_now (h : Nat) (v : TConn) : (putConn h v s).now = s.now := rfl
@[simp] theorem putConn_free (h : Nat) (v : TConn) : (putConn h v s).free = s.free := rfl
@[simp] theorem putConn_regs (h : Nat) (v : TConn) : (putConn h v s).regs = s.regs := rfl
@[simp] theorem putConn_hold (h : Nat) (v : TConn) : (putConn h v s).hold = s.hold := rfl
@[simp] theorem putConn_od (h : Nat) (v : TConn) : (putConn h v s).od = s.od := rfl
@[simp] theorem putConn_odBlob (h : Nat) (v : TConn) : (putConn h v s).odBlob = s.odBlob := rfl
@[simp] theorem putConn_odChange (h : Nat) (v : TConn) : (putConn h v s).odChange = s.odChange := rfl
@[simp] theorem putConn_odStart (h : Nat) (v : TConn) : (putConn h v s).odStart = s.odStart := rfl
@[simp] theorem putConn_mem (h : Nat) (v : TConn) : (putConn h v s).mem = s.mem := rfl
@[simp] theorem putConn_memCtl (h : Nat) (v : TConn) : (putConn h v s).memCtl = s.memCtl := rfl
@[simp] theorem putConn_pwr (h : Nat) (v : TConn) : (putConn h v s).pwr = s.pwr := rfl
@[simp] theorem putConn_start (h : Nat) (v : TConn) : (putConn h v s).start = s.start := rfl
@[simp] theorem putConn_sdg (h : Nat) (v : TConn) : (putConn h v s).sdg = s.sdg := rfl
@[simp] theorem putConn_frz (h : Nat) (v : TConn) : (putConn h v s).frz = s.frz := rfl
@[simp] theorem putConn_leash (h : Nat) (v : TConn) : (putConn h v s).leash = s.leash := rfl
@[simp] theorem putConn_params (h : Nat) (v : TConn) : (putConn h v s).params = s.params := rfl
@[simp] theorem putConn_canopen (h : Nat) (v : TConn) : (putConn h v s).canopen = s.canopen := rfl
@[simp] theorem putConn_lock (h : Nat) (v : TConn) : (putConn h v s).lock = s.lock := rfl
@[simp] theorem putConn_apps (h : Nat) (v : TConn) : (putConn h v s).apps = s.apps := rfl
@[simp] theorem putConn_sec (h : Nat) (v : TConn) : (putConn h v s).sec = s.sec := rfl
@[simp] theorem putConn_fuses (h : Nat) (v : TConn) : (putConn h v s).fuses = s.fuses := rfl
@[simp] theorem putConn_knots (h : Nat) (v : TConn) : (putConn h v s).knots = s.knots := rfl
@[simp] theorem putConn_pack (h : Nat) (v : TConn) : (putConn h v s).pack = s.pack := rfl
@[simp] theorem putConn_cim (h : Nat) (v : TConn) : (putConn h v s).cim = s.cim := rfl
@[simp] theorem putConn_kennel (h : Nat) (v : TConn) : (putConn h v s).kennel = s.kennel := rfl
@[simp] theorem putConn_cams (h : Nat) (v : TConn) : (putConn h v s).cams = s.cams := rfl
@[simp] theorem putConn_gfx (h : Nat) (v : TConn) : (putConn h v s).gfx = s.gfx := rfl
@[simp] theorem putConn_pipes (h : Nat) (v : TConn) : (putConn h v s).pipes = s.pipes := rfl
@[simp] theorem putConn_net (h : Nat) (v : TConn) : (putConn h v s).net = s.net := rfl
@[simp] theorem putConn_can (h : Nat) (v : TConn) : (putConn h v s).can = s.can := rfl
@[simp] theorem putConn_splice (h : Nat) (v : TConn) : (putConn h v s).splice = s.splice := rfl
@[simp] theorem putConn_wh (h : Nat) (v : TConn) : (putConn h v s).wh = s.wh := rfl
@[simp] theorem putConn_slots (h : Nat) (v : TConn) : (putConn h v s).slots = s.slots := rfl
@[simp] theorem putConn_safeSlots (h : Nat) (v : TConn) : (putConn h v s).safeSlots = s.safeSlots := rfl
@[simp] theorem putConn_gtime (h : Nat) (v : TConn) : (putConn h v s).gtime = s.gtime := rfl
@[simp] theorem putConn_out (h : Nat) (v : TConn) : (putConn h v s).out = s.out := rfl
@[simp] theorem putConn_pending (h : Nat) (v : TConn) : (putConn h v s).pending = s.pending := rfl
@[simp] theorem putConn_isUp (h : Nat) (v : TConn) : isUp (putConn h v s) = isUp s := rfl
@[simp] theorem putConn_isRunning (h : Nat) (v : TConn) : isRunning (putConn h v s) = isRunning s := rfl
@[simp] theorem putConn_isStarting (h : Nat) (v : TConn) : isStarting (putConn h v s) = isStarting s := rfl
@[simp] theorem putConn_blocksOn (h : Nat) (v : TConn) : blocksOn (putConn h v s) = blocksOn s := rfl
@[simp] theorem putConn_gnow (h : Nat) (v : TConn) : gnow (putConn h v s) = gnow s := rfl
@[simp] theorem putConn_freeValue (h : Nat) (v : TConn) : freeValue (putConn h v s) = freeValue s := rfl
@[simp] theorem putConn_regRaw (h : Nat) (v : TConn) (x : Nat) : regRaw (putConn h v s) x = regRaw s x := rfl
@[simp] theorem putConn_odGet (h : Nat) (v : TConn) (x : Nat) : odGet (putConn h v s) x = odGet s x := rfl
@[simp] theorem putConn_odUse (h : Nat) (v : TConn) (x : Nat) : odUse (putConn h v s) x = odUse s x := rfl
@[simp] theorem putConn_blobGet (h : Nat) (v : TConn) (x : Nat) : blobGet (putConn h v s) x = blobGet s x := rfl
@[simp] theorem putConn_memByte (h : Nat) (v : TConn) (x : Nat) : memByte (putConn h v s) x = memByte s x := rfl
@[simp] theorem putConn_getApp (h : Nat) (v : TConn) (x : Nat) : getApp (putConn h v s) x = getApp s x := rfl
@[simp] theorem putConn_getHold (h : Nat) (v : TConn) (x : Nat) : getHold (putConn h v s) x = getHold s x := rfl
@[simp] theorem putConn_getCan (h : Nat) (v : TConn) (x : Nat) : getCan (putConn h v s) x = getCan s x := rfl
@[simp] theorem putConn_getCam (h : Nat) (v : TConn) (x : Nat) : getCam (putConn h v s) x = getCam s x := rfl
@[simp] theorem putConn_getSeq (h : Nat) (v : TConn) (x : Nat) : getSeq (putConn h v s) x = getSeq s x := rfl
@[simp] theorem putConn_getSession (h : Nat) (v : TConn) (x : Nat) : getSession (putConn h v s) x = getSession s x := rfl
@[simp] theorem putConn_getQ (h : Nat) (v : TConn) (x y : Nat) : getQ (putConn h v s) x y = getQ s x y := rfl
@[simp] theorem putConn_getInst (h : Nat) (v : TConn) (x : Nat) : getInst (putConn h v s) x = getInst s x := rfl
@[simp] theorem putConn_getPoll (h : Nat) (v : TConn) (x : Nat) : getPoll (putConn h v s) x = getPoll s x := rfl
@[simp] theorem putConn_getWdg (h : Nat) (v : TConn) (x : Nat) : getWdg (putConn h v s) x = getWdg s x := rfl
@[simp] theorem putConn_getCt (h : Nat) (v : TConn) (x : Nat) : getCt (putConn h v s) x = getCt s x := rfl
@[simp] theorem putConn_getMacro (h : Nat) (v : TConn) (x y : Nat) : getMacro (putConn h v s) x y = getMacro s x y := rfl
@[simp] theorem putConn_getGq (h : Nat) (v : TConn) (x : Nat) : getGq (putConn h v s) x = getGq s x := rfl
@[simp] theorem putConn_getPipe (h : Nat) (v : TConn) (x : Nat) : getPipe (putConn h v s) x = getPipe s x := rfl
@[simp] theorem putConn_getPendant (h : Nat) (v : TConn) (x : Nat) : getPendant (putConn h v s) x = getPendant s x := rfl

/-! ### putSq -/

@[simp] theorem putSq_dev (q : Nat) (v : TSq) : (putSq q v s).dev = s.dev := rfl
@[simp] theorem putSq_now (q : Nat) (v : TSq) : (putSq q v s).now = s.now := rfl
@[simp] theorem putSq_free (q : Nat) (v : TSq) : (putSq q v s).free = s.free := rfl
@[simp] theorem putSq_regs (q : Nat) (v : TSq) : (putSq q v s).regs = s.regs := rfl
@[simp] theorem putSq_hold (q : Nat) (v : TSq) : (putSq q v s).hold = s.hold := rfl
@[simp] theorem putSq_od (q : Nat) (v : TSq) : (putSq q v s).od = s.od := rfl
@[simp] theorem putSq_odBlob (q : Nat) (v : TSq) : (putSq q v s).odBlob = s.odBlob := rfl
@[simp] theorem putSq_odChange (q : Nat) (v : TSq) : (putSq q v s).odChange = s.odChange := rfl
@[simp] theorem putSq_odStart (q : Nat) (v : TSq) : (putSq q v s).odStart = s.odStart := rfl
@[simp] theorem putSq_mem (q : Nat) (v : TSq) : (putSq q v s).mem = s.mem := rfl
@[simp] theorem putSq_memCtl (q : Nat) (v : TSq) : (putSq q v s).memCtl = s.memCtl := rfl
@[simp] theorem putSq_pwr (q : Nat) (v : TSq) : (putSq q v s).pwr = s.pwr := rfl
@[simp] theorem putSq_start (q : Nat) (v : TSq) : (putSq q v s).start = s.start := rfl
@[simp] theorem putSq_sdg (q : Nat) (v : TSq) : (putSq q v s).sdg = s.sdg := rfl
@[simp] theorem putSq_frz (q : Nat) (v : TSq) : (putSq q v s).frz = s.frz := rfl
@[simp] theorem putSq_leash (q : Nat) (v : TSq) : (putSq q v s).leash = s.leash := rfl
@[simp] theorem putSq_params (q : Nat) (v : TSq) : (putSq q v s).params = s.params := rfl
@[simp] theorem putSq_canopen (q : Nat) (v : TSq) : (putSq q v s).canopen = s.canopen := rfl
@[simp] theorem putSq_lock (q : Nat) (v : TSq) : (putSq q v s).lock = s.lock := rfl
@[simp] theorem putSq_apps (q : Nat) (v : TSq) : (putSq q v s).apps = s.apps := rfl
@[simp] theorem putSq_sec (q : Nat) (v : TSq) : (putSq q v s).sec = s.sec := rfl
@[simp] theorem putSq_fuses (q : Nat) (v : TSq) : (putSq q v s).fuses = s.fuses := rfl
@[simp] theorem putSq_knots (q : Nat) (v : TSq) : (putSq q v s).knots = s.knots := rfl
@[simp] theorem putSq_pack (q : Nat) (v : TSq) : (putSq q v s).pack = s.pack := rfl
@[simp] theorem putSq_cim (q : Nat) (v : TSq) : (putSq q v s).cim = s.cim := rfl
@[simp] theorem putSq_kennel (q : Nat) (v : TSq) : (putSq q v s).kennel = s.kennel := rfl
@[simp] theorem putSq_cams (q : Nat) (v : TSq) : (putSq q v s).cams = s.cams := rfl
@[simp] theorem putSq_gfx (q : Nat) (v : TSq) : (putSq q v s).gfx = s.gfx := rfl
@[simp] theorem putSq_pipes (q : Nat) (v : TSq) : (putSq q v s).pipes = s.pipes := rfl
@[simp] theorem putSq_net (q : Nat) (v : TSq) : (putSq q v s).net = s.net := rfl
@[simp] theorem putSq_can (q : Nat) (v : TSq) : (putSq q v s).can = s.can := rfl
@[simp] theorem putSq_splice (q : Nat) (v : TSq) : (putSq q v s).splice = s.splice := rfl
@[simp] theorem putSq_wh (q : Nat) (v : TSq) : (putSq q v s).wh = s.wh := rfl
@[simp] theorem putSq_slots (q : Nat) (v : TSq) : (putSq q v s).slots = s.slots := rfl
@[simp] theorem putSq_safeSlots (q : Nat) (v : TSq) : (putSq q v s).safeSlots = s.safeSlots := rfl
@[simp] theorem putSq_gtime (q : Nat) (v : TSq) : (putSq q v s).gtime = s.gtime := rfl
@[simp] theorem putSq_out (q : Nat) (v : TSq) : (putSq q v s).out = s.out := rfl
@[simp] theorem putSq_pending (q : Nat) (v : TSq) : (putSq q v s).pending = s.pending := rfl
@[simp] theorem putSq_isUp (q : Nat) (v : TSq) : isUp (putSq q v s) = isUp s := rfl
@[simp] theorem putSq_isRunning (q : Nat) (v : TSq) : isRunning (putSq q v s) = isRunning s := rfl
@[simp] theorem putSq_isStarting (q : Nat) (v : TSq) : isStarting (putSq q v s) = isStarting s := rfl
@[simp] theorem putSq_blocksOn (q : Nat) (v : TSq) : blocksOn (putSq q v s) = blocksOn s := rfl
@[simp] theorem putSq_gnow (q : Nat) (v : TSq) : gnow (putSq q v s) = gnow s := rfl
@[simp] theorem putSq_freeValue (q : Nat) (v : TSq) : freeValue (putSq q v s) = freeValue s := rfl
@[simp] theorem putSq_regRaw (q : Nat) (v : TSq) (x : Nat) : regRaw (putSq q v s) x = regRaw s x := rfl
@[simp] theorem putSq_odGet (q : Nat) (v : TSq) (x : Nat) : odGet (putSq q v s) x = odGet s x := rfl
@[simp] theorem putSq_odUse (q : Nat) (v : TSq) (x : Nat) : odUse (putSq q v s) x = odUse s x := rfl
@[simp] theorem putSq_blobGet (q : Nat) (v : TSq) (x : Nat) : blobGet (putSq q v s) x = blobGet s x := rfl
@[simp] theorem putSq_memByte (q : Nat) (v : TSq) (x : Nat) : memByte (putSq q v s) x = memByte s x := rfl
@[simp] theorem putSq_getApp (q : Nat) (v : TSq) (x : Nat) : getApp (putSq q v s) x = getApp s x := rfl
@[simp] theorem putSq_getHold (q : Nat) (v : TSq) (x : Nat) : getHold (putSq q v s) x = getHold s x := rfl
@[simp] theorem putSq_getCan (q : Nat) (v : TSq) (x : Nat) : getCan (putSq q v s) x = getCan s x := rfl
@[simp] theorem putSq_getCam (q : Nat) (v : TSq) (x : Nat) : getCam (putSq q v s) x = getCam s x := rfl
@[simp] theorem putSq_getSeq (q : Nat) (v : TSq) (x : Nat) : getSeq (putSq q v s) x = getSeq s x := rfl
@[simp] theorem putSq_getSession (q : Nat) (v : TSq) (x : Nat) : getSession (putSq q v s) x = getSession s x := rfl
@[simp] theorem putSq_getQ (q : Nat) (v : TSq) (x y : Nat) : getQ (putSq q v s) x y = getQ s x y := rfl
@[simp] theorem putSq_getInst (q : Nat) (v : TSq) (x : Nat) : getInst (putSq q v s) x = getInst s x := rfl
@[simp] theorem putSq_getPoll (q : Nat) (v : TSq) (x : Nat) : getPoll (putSq q v s) x = getPoll s x := rfl
@[simp] theorem putSq_getWdg (q : Nat) (v : TSq) (x : Nat) : getWdg (putSq q v s) x = getWdg s x := rfl
@[simp] theorem putSq_getCt (q : Nat) (v : TSq) (x : Nat) : getCt (putSq q v s) x = getCt s x := rfl
@[simp] theorem putSq_getMacro (q : Nat) (v : TSq) (x y : Nat) : getMacro (putSq q v s) x y = getMacro s x y := rfl
@[simp] theorem putSq_getGq (q : Nat) (v : TSq) (x : Nat) : getGq (putSq q v s) x = getGq s x := rfl
@[simp] theorem putSq_getPipe (q : Nat) (v : TSq) (x : Nat) : getPipe (putSq q v s) x = getPipe s x := rfl
@[simp] theorem putSq_getPendant (q : Nat) (v : TSq) (x : Nat) : getPendant (putSq q v s) x = getPendant s x := rfl

/-! ### putWdg -/

@[simp] theorem putWdg_dev (n : Nat) (v : Wdg) : (putWdg n v s).dev = s.dev := rfl
@[simp] theorem putWdg_now (n : Nat) (v : Wdg) : (putWdg n v s).now = s.now := rfl
@[simp] theorem putWdg_free (n : Nat) (v : Wdg) : (putWdg n v s).free = s.free := rfl
@[simp] theorem putWdg_regs (n : Nat) (v : Wdg) : (putWdg n v s).regs = s.regs := rfl
@[simp] theorem putWdg_hold (n : Nat) (v : Wdg) : (putWdg n v s).hold = s.hold := rfl
@[simp] theorem putWdg_od (n : Nat) (v : Wdg) : (putWdg n v s).od = s.od := rfl
@[simp] theorem putWdg_odBlob (n : Nat) (v : Wdg) : (putWdg n v s).odBlob = s.odBlob := rfl
@[simp] theorem putWdg_odChange (n : Nat) (v : Wdg) : (putWdg n v s).odChange = s.odChange := rfl
@[simp] theorem putWdg_odStart (n : Nat) (v : Wdg) : (putWdg n v s).odStart = s.odStart := rfl
@[simp] theorem putWdg_mem (n : Nat) (v : Wdg) : (putWdg n v s).mem = s.mem := rfl
@[simp] theorem putWdg_memCtl (n : Nat) (v : Wdg) : (putWdg n v s).memCtl = s.memCtl := rfl
@[simp] theorem putWdg_pwr (n : Nat) (v : Wdg) : (putWdg n v s).pwr = s.pwr := rfl
@[simp] theorem putWdg_start (n : Nat) (v : Wdg) : (putWdg n v s).start = s.start := rfl
@[simp] theorem putWdg_frz (n : Nat) (v : Wdg) : (putWdg n v s).frz = s.frz := rfl
@[simp] theorem putWdg_leash (n : Nat) (v : Wdg) : (putWdg n v s).leash = s.leash := rfl
@[simp] theorem putWdg_params (n : Nat) (v : Wdg) : (putWdg n v s).params = s.params := rfl
@[simp] theorem putWdg_canopen (n : Nat) (v : Wdg) : (putWdg n v s).canopen = s.canopen := rfl
@[simp] theorem putWdg_lock (n : Nat) (v : Wdg) : (putWdg n v s).lock = s.lock := rfl
@[simp] theorem putWdg_apps (n : Nat) (v : Wdg) : (putWdg n v s).apps = s.apps := rfl
@[simp] theorem putWdg_sec (n : Nat) (v : Wdg) : (putWdg n v s).sec = s.sec := rfl
@[simp] theorem putWdg_fuses (n : Nat) (v : Wdg) : (putWdg n v s).fuses = s.fuses := rfl
@[simp] theorem putWdg_knots (n : Nat) (v : Wdg) : (putWdg n v s).knots = s.knots := rfl
@[simp] theorem putWdg_pack (n : Nat) (v : Wdg) : (putWdg n v s).pack = s.pack := rfl
@[simp] theorem putWdg_cim (n : Nat) (v : Wdg) : (putWdg n v s).cim = s.cim := rfl
@[simp] theorem putWdg_kennel (n : Nat) (v : Wdg) : (putWdg n v s).kennel = s.kennel := rfl
@[simp] theorem putWdg_cams (n : Nat) (v : Wdg) : (putWdg n v s).cams = s.cams := rfl
@[simp] theorem putWdg_gfx (n : Nat) (v : Wdg) : (putWdg n v s).gfx = s.gfx := rfl
@[simp] theorem putWdg_pipes (n : Nat) (v : Wdg) : (putWdg n v s).pipes = s.pipes := rfl
@[simp] theorem putWdg_net (n : Nat) (v : Wdg) : (putWdg n v s).net = s.net := rfl
@[simp] theorem putWdg_can (n : Nat) (v : Wdg) : (putWdg n v s).can = s.can := rfl
@[simp] theorem putWdg_tether (n : Nat) (v : Wdg) : (putWdg n v s).tether = s.tether := rfl
@[simp] theorem putWdg_splice (n : Nat) (v : Wdg) : (putWdg n v s).splice = s.splice := rfl
@[simp] theorem putWdg_wh (n : Nat) (v : Wdg) : (putWdg n v s).wh = s.wh := rfl
@[simp] theorem putWdg_slots (n : Nat) (v : Wdg) : (putWdg n v s).slots = s.slots := rfl
@[simp] theorem putWdg_safeSlots (n : Nat) (v : Wdg) : (putWdg n v s).safeSlots = s.safeSlots := rfl
@[simp] theorem putWdg_gtime (n : Nat) (v : Wdg) : (putWdg n v s).gtime = s.gtime := rfl
@[simp] theorem putWdg_out (n : Nat) (v : Wdg) : (putWdg n v s).out = s.out := rfl
@[simp] theorem putWdg_pending (n : Nat) (v : Wdg) : (putWdg n v s).pending = s.pending := rfl
@[simp] theorem putWdg_isUp (n : Nat) (v : Wdg) : isUp (putWdg n v s) = isUp s := rfl
@[simp] theorem putWdg_isRunning (n : Nat) (v : Wdg) : isRunning (putWdg n v s) = isRunning s := rfl
@[simp] theorem putWdg_isStarting (n : Nat) (v : Wdg) : isStarting (putWdg n v s) = isStarting s := rfl
@[simp] theorem putWdg_blocksOn (n : Nat) (v : Wdg) : blocksOn (putWdg n v s) = blocksOn s := rfl
@[simp] theorem putWdg_gnow (n : Nat) (v : Wdg) : gnow (putWdg n v s) = gnow s := rfl
@[simp] theorem putWdg_freeValue (n : Nat) (v : Wdg) : freeValue (putWdg n v s) = freeValue s := rfl
@[simp] theorem putWdg_regRaw (n : Nat) (v : Wdg) (x : Nat) : regRaw (putWdg n v s) x = regRaw s x := rfl
@[simp] theorem putWdg_odGet (n : Nat) (v : Wdg) (x : Nat) : odGet (putWdg n v s) x = odGet s x := rfl
@[simp] theorem putWdg_odUse (n : Nat) (v : Wdg) (x : Nat) : odUse (putWdg n v s) x = odUse s x := rfl
@[simp] theorem putWdg_blobGet (n : Nat) (v : Wdg) (x : Nat) : blobGet (putWdg n v s) x = blobGet s x := rfl
@[simp] theorem putWdg_memByte (n : Nat) (v : Wdg) (x : Nat) : memByte (putWdg n v s) x = memByte s x := rfl
@[simp] theorem putWdg_getApp (n : Nat) (v : Wdg) (x : Nat) : getApp (putWdg n v s) x = getApp s x := rfl
@[simp] theorem putWdg_getHold (n : Nat) (v : Wdg) (x : Nat) : getHold (putWdg n v s) x = getHold s x := rfl
@[simp] theorem putWdg_getCan (n : Nat) (v : Wdg) (x : Nat) : getCan (putWdg n v s) x = getCan s x := rfl
@[simp] theorem putWdg_getCam (n : Nat) (v : Wdg) (x : Nat) : getCam (putWdg n v s) x = getCam s x := rfl
@[simp] theorem putWdg_getSeq (n : Nat) (v : Wdg) (x : Nat) : getSeq (putWdg n v s) x = getSeq s x := rfl
@[simp] theorem putWdg_getSession (n : Nat) (v : Wdg) (x : Nat) : getSession (putWdg n v s) x = getSession s x := rfl
@[simp] theorem putWdg_getQ (n : Nat) (v : Wdg) (x y : Nat) : getQ (putWdg n v s) x y = getQ s x y := rfl
@[simp] theorem putWdg_getInst (n : Nat) (v : Wdg) (x : Nat) : getInst (putWdg n v s) x = getInst s x := rfl
@[simp] theorem putWdg_getPoll (n : Nat) (v : Wdg) (x : Nat) : getPoll (putWdg n v s) x = getPoll s x := rfl
@[simp] theorem putWdg_getConn (n : Nat) (v : Wdg) (x : Nat) : getConn (putWdg n v s) x = getConn s x := rfl
@[simp] theorem putWdg_getSq (n : Nat) (v : Wdg) (x : Nat) : getSq (putWdg n v s) x = getSq s x := rfl
@[simp] theorem putWdg_getCt (n : Nat) (v : Wdg) (x : Nat) : getCt (putWdg n v s) x = getCt s x := rfl
@[simp] theorem putWdg_getMacro (n : Nat) (v : Wdg) (x y : Nat) : getMacro (putWdg n v s) x y = getMacro s x y := rfl
@[simp] theorem putWdg_getGq (n : Nat) (v : Wdg) (x : Nat) : getGq (putWdg n v s) x = getGq s x := rfl
@[simp] theorem putWdg_getPipe (n : Nat) (v : Wdg) (x : Nat) : getPipe (putWdg n v s) x = getPipe s x := rfl
@[simp] theorem putWdg_getPendant (n : Nat) (v : Wdg) (x : Nat) : getPendant (putWdg n v s) x = getPendant s x := rfl

/-! ### putCt -/

@[simp] theorem putCt_dev (i : Nat) (v : CimTile) : (putCt i v s).dev = s.dev := rfl
@[simp] theorem putCt_now (i : Nat) (v : CimTile) : (putCt i v s).now = s.now := rfl
@[simp] theorem putCt_free (i : Nat) (v : CimTile) : (putCt i v s).free = s.free := rfl
@[simp] theorem putCt_regs (i : Nat) (v : CimTile) : (putCt i v s).regs = s.regs := rfl
@[simp] theorem putCt_hold (i : Nat) (v : CimTile) : (putCt i v s).hold = s.hold := rfl
@[simp] theorem putCt_od (i : Nat) (v : CimTile) : (putCt i v s).od = s.od := rfl
@[simp] theorem putCt_odBlob (i : Nat) (v : CimTile) : (putCt i v s).odBlob = s.odBlob := rfl
@[simp] theorem putCt_odChange (i : Nat) (v : CimTile) : (putCt i v s).odChange = s.odChange := rfl
@[simp] theorem putCt_odStart (i : Nat) (v : CimTile) : (putCt i v s).odStart = s.odStart := rfl
@[simp] theorem putCt_mem (i : Nat) (v : CimTile) : (putCt i v s).mem = s.mem := rfl
@[simp] theorem putCt_memCtl (i : Nat) (v : CimTile) : (putCt i v s).memCtl = s.memCtl := rfl
@[simp] theorem putCt_pwr (i : Nat) (v : CimTile) : (putCt i v s).pwr = s.pwr := rfl
@[simp] theorem putCt_start (i : Nat) (v : CimTile) : (putCt i v s).start = s.start := rfl
@[simp] theorem putCt_sdg (i : Nat) (v : CimTile) : (putCt i v s).sdg = s.sdg := rfl
@[simp] theorem putCt_frz (i : Nat) (v : CimTile) : (putCt i v s).frz = s.frz := rfl
@[simp] theorem putCt_leash (i : Nat) (v : CimTile) : (putCt i v s).leash = s.leash := rfl
@[simp] theorem putCt_params (i : Nat) (v : CimTile) : (putCt i v s).params = s.params := rfl
@[simp] theorem putCt_canopen (i : Nat) (v : CimTile) : (putCt i v s).canopen = s.canopen := rfl
@[simp] theorem putCt_lock (i : Nat) (v : CimTile) : (putCt i v s).lock = s.lock := rfl
@[simp] theorem putCt_apps (i : Nat) (v : CimTile) : (putCt i v s).apps = s.apps := rfl
@[simp] theorem putCt_sec (i : Nat) (v : CimTile) : (putCt i v s).sec = s.sec := rfl
@[simp] theorem putCt_fuses (i : Nat) (v : CimTile) : (putCt i v s).fuses = s.fuses := rfl
@[simp] theorem putCt_knots (i : Nat) (v : CimTile) : (putCt i v s).knots = s.knots := rfl
@[simp] theorem putCt_pack (i : Nat) (v : CimTile) : (putCt i v s).pack = s.pack := rfl
@[simp] theorem putCt_kennel (i : Nat) (v : CimTile) : (putCt i v s).kennel = s.kennel := rfl
@[simp] theorem putCt_cams (i : Nat) (v : CimTile) : (putCt i v s).cams = s.cams := rfl
@[simp] theorem putCt_gfx (i : Nat) (v : CimTile) : (putCt i v s).gfx = s.gfx := rfl
@[simp] theorem putCt_pipes (i : Nat) (v : CimTile) : (putCt i v s).pipes = s.pipes := rfl
@[simp] theorem putCt_net (i : Nat) (v : CimTile) : (putCt i v s).net = s.net := rfl
@[simp] theorem putCt_can (i : Nat) (v : CimTile) : (putCt i v s).can = s.can := rfl
@[simp] theorem putCt_tether (i : Nat) (v : CimTile) : (putCt i v s).tether = s.tether := rfl
@[simp] theorem putCt_splice (i : Nat) (v : CimTile) : (putCt i v s).splice = s.splice := rfl
@[simp] theorem putCt_wh (i : Nat) (v : CimTile) : (putCt i v s).wh = s.wh := rfl
@[simp] theorem putCt_slots (i : Nat) (v : CimTile) : (putCt i v s).slots = s.slots := rfl
@[simp] theorem putCt_safeSlots (i : Nat) (v : CimTile) : (putCt i v s).safeSlots = s.safeSlots := rfl
@[simp] theorem putCt_gtime (i : Nat) (v : CimTile) : (putCt i v s).gtime = s.gtime := rfl
@[simp] theorem putCt_out (i : Nat) (v : CimTile) : (putCt i v s).out = s.out := rfl
@[simp] theorem putCt_pending (i : Nat) (v : CimTile) : (putCt i v s).pending = s.pending := rfl
@[simp] theorem putCt_isUp (i : Nat) (v : CimTile) : isUp (putCt i v s) = isUp s := rfl
@[simp] theorem putCt_isRunning (i : Nat) (v : CimTile) : isRunning (putCt i v s) = isRunning s := rfl
@[simp] theorem putCt_isStarting (i : Nat) (v : CimTile) : isStarting (putCt i v s) = isStarting s := rfl
@[simp] theorem putCt_blocksOn (i : Nat) (v : CimTile) : blocksOn (putCt i v s) = blocksOn s := rfl
@[simp] theorem putCt_gnow (i : Nat) (v : CimTile) : gnow (putCt i v s) = gnow s := rfl
@[simp] theorem putCt_freeValue (i : Nat) (v : CimTile) : freeValue (putCt i v s) = freeValue s := rfl
@[simp] theorem putCt_regRaw (i : Nat) (v : CimTile) (x : Nat) : regRaw (putCt i v s) x = regRaw s x := rfl
@[simp] theorem putCt_odGet (i : Nat) (v : CimTile) (x : Nat) : odGet (putCt i v s) x = odGet s x := rfl
@[simp] theorem putCt_odUse (i : Nat) (v : CimTile) (x : Nat) : odUse (putCt i v s) x = odUse s x := rfl
@[simp] theorem putCt_blobGet (i : Nat) (v : CimTile) (x : Nat) : blobGet (putCt i v s) x = blobGet s x := rfl
@[simp] theorem putCt_memByte (i : Nat) (v : CimTile) (x : Nat) : memByte (putCt i v s) x = memByte s x := rfl
@[simp] theorem putCt_getApp (i : Nat) (v : CimTile) (x : Nat) : getApp (putCt i v s) x = getApp s x := rfl
@[simp] theorem putCt_getHold (i : Nat) (v : CimTile) (x : Nat) : getHold (putCt i v s) x = getHold s x := rfl
@[simp] theorem putCt_getCan (i : Nat) (v : CimTile) (x : Nat) : getCan (putCt i v s) x = getCan s x := rfl
@[simp] theorem putCt_getCam (i : Nat) (v : CimTile) (x : Nat) : getCam (putCt i v s) x = getCam s x := rfl
@[simp] theorem putCt_getSeq (i : Nat) (v : CimTile) (x : Nat) : getSeq (putCt i v s) x = getSeq s x := rfl
@[simp] theorem putCt_getSession (i : Nat) (v : CimTile) (x : Nat) : getSession (putCt i v s) x = getSession s x := rfl
@[simp] theorem putCt_getQ (i : Nat) (v : CimTile) (x y : Nat) : getQ (putCt i v s) x y = getQ s x y := rfl
@[simp] theorem putCt_getInst (i : Nat) (v : CimTile) (x : Nat) : getInst (putCt i v s) x = getInst s x := rfl
@[simp] theorem putCt_getPoll (i : Nat) (v : CimTile) (x : Nat) : getPoll (putCt i v s) x = getPoll s x := rfl
@[simp] theorem putCt_getConn (i : Nat) (v : CimTile) (x : Nat) : getConn (putCt i v s) x = getConn s x := rfl
@[simp] theorem putCt_getSq (i : Nat) (v : CimTile) (x : Nat) : getSq (putCt i v s) x = getSq s x := rfl
@[simp] theorem putCt_getWdg (i : Nat) (v : CimTile) (x : Nat) : getWdg (putCt i v s) x = getWdg s x := rfl
@[simp] theorem putCt_getGq (i : Nat) (v : CimTile) (x : Nat) : getGq (putCt i v s) x = getGq s x := rfl
@[simp] theorem putCt_getPipe (i : Nat) (v : CimTile) (x : Nat) : getPipe (putCt i v s) x = getPipe s x := rfl
@[simp] theorem putCt_getPendant (i : Nat) (v : CimTile) (x : Nat) : getPendant (putCt i v s) x = getPendant s x := rfl

/-! ### putMacro -/

@[simp] theorem putMacro_dev (i m : Nat) (v : Macro) : (putMacro i m v s).dev = s.dev := rfl
@[simp] theorem putMacro_now (i m : Nat) (v : Macro) : (putMacro i m v s).now = s.now := rfl
@[simp] theorem putMacro_free (i m : Nat) (v : Macro) : (putMacro i m v s).free = s.free := rfl
@[simp] theorem putMacro_regs (i m : Nat) (v : Macro) : (putMacro i m v s).regs = s.regs := rfl
@[simp] theorem putMacro_hold (i m : Nat) (v : Macro) : (putMacro i m v s).hold = s.hold := rfl
@[simp] theorem putMacro_od (i m : Nat) (v : Macro) : (putMacro i m v s).od = s.od := rfl
@[simp] theorem putMacro_odBlob (i m : Nat) (v : Macro) : (putMacro i m v s).odBlob = s.odBlob := rfl
@[simp] theorem putMacro_odChange (i m : Nat) (v : Macro) : (putMacro i m v s).odChange = s.odChange := rfl
@[simp] theorem putMacro_odStart (i m : Nat) (v : Macro) : (putMacro i m v s).odStart = s.odStart := rfl
@[simp] theorem putMacro_mem (i m : Nat) (v : Macro) : (putMacro i m v s).mem = s.mem := rfl
@[simp] theorem putMacro_memCtl (i m : Nat) (v : Macro) : (putMacro i m v s).memCtl = s.memCtl := rfl
@[simp] theorem putMacro_pwr (i m : Nat) (v : Macro) : (putMacro i m v s).pwr = s.pwr := rfl
@[simp] theorem putMacro_start (i m : Nat) (v : Macro) : (putMacro i m v s).start = s.start := rfl
@[simp] theorem putMacro_sdg (i m : Nat) (v : Macro) : (putMacro i m v s).sdg = s.sdg := rfl
@[simp] theorem putMacro_frz (i m : Nat) (v : Macro) : (putMacro i m v s).frz = s.frz := rfl
@[simp] theorem putMacro_leash (i m : Nat) (v : Macro) : (putMacro i m v s).leash = s.leash := rfl
@[simp] theorem putMacro_params (i m : Nat) (v : Macro) : (putMacro i m v s).params = s.params := rfl
@[simp] theorem putMacro_canopen (i m : Nat) (v : Macro) : (putMacro i m v s).canopen = s.canopen := rfl
@[simp] theorem putMacro_lock (i m : Nat) (v : Macro) : (putMacro i m v s).lock = s.lock := rfl
@[simp] theorem putMacro_apps (i m : Nat) (v : Macro) : (putMacro i m v s).apps = s.apps := rfl
@[simp] theorem putMacro_sec (i m : Nat) (v : Macro) : (putMacro i m v s).sec = s.sec := rfl
@[simp] theorem putMacro_fuses (i m : Nat) (v : Macro) : (putMacro i m v s).fuses = s.fuses := rfl
@[simp] theorem putMacro_knots (i m : Nat) (v : Macro) : (putMacro i m v s).knots = s.knots := rfl
@[simp] theorem putMacro_pack (i m : Nat) (v : Macro) : (putMacro i m v s).pack = s.pack := rfl
@[simp] theorem putMacro_kennel (i m : Nat) (v : Macro) : (putMacro i m v s).kennel = s.kennel := rfl
@[simp] theorem putMacro_cams (i m : Nat) (v : Macro) : (putMacro i m v s).cams = s.cams := rfl
@[simp] theorem putMacro_gfx (i m : Nat) (v : Macro) : (putMacro i m v s).gfx = s.gfx := rfl
@[simp] theorem putMacro_pipes (i m : Nat) (v : Macro) : (putMacro i m v s).pipes = s.pipes := rfl
@[simp] theorem putMacro_net (i m : Nat) (v : Macro) : (putMacro i m v s).net = s.net := rfl
@[simp] theorem putMacro_can (i m : Nat) (v : Macro) : (putMacro i m v s).can = s.can := rfl
@[simp] theorem putMacro_tether (i m : Nat) (v : Macro) : (putMacro i m v s).tether = s.tether := rfl
@[simp] theorem putMacro_splice (i m : Nat) (v : Macro) : (putMacro i m v s).splice = s.splice := rfl
@[simp] theorem putMacro_wh (i m : Nat) (v : Macro) : (putMacro i m v s).wh = s.wh := rfl
@[simp] theorem putMacro_slots (i m : Nat) (v : Macro) : (putMacro i m v s).slots = s.slots := rfl
@[simp] theorem putMacro_safeSlots (i m : Nat) (v : Macro) : (putMacro i m v s).safeSlots = s.safeSlots := rfl
@[simp] theorem putMacro_gtime (i m : Nat) (v : Macro) : (putMacro i m v s).gtime = s.gtime := rfl
@[simp] theorem putMacro_out (i m : Nat) (v : Macro) : (putMacro i m v s).out = s.out := rfl
@[simp] theorem putMacro_pending (i m : Nat) (v : Macro) : (putMacro i m v s).pending = s.pending := rfl
@[simp] theorem putMacro_isUp (i m : Nat) (v : Macro) : isUp (putMacro i m v s) = isUp s := rfl
@[simp] theorem putMacro_isRunning (i m : Nat) (v : Macro) : isRunning (putMacro i m v s) = isRunning s := rfl
@[simp] theorem putMacro_isStarting (i m : Nat) (v : Macro) : isStarting (putMacro i m v s) = isStarting s := rfl
@[simp] theorem putMacro_blocksOn (i m : Nat) (v : Macro) : blocksOn (putMacro i m v s) = blocksOn s := rfl
@[simp] theorem putMacro_gnow (i m : Nat) (v : Macro) : gnow (putMacro i m v s) = gnow s := rfl
@[simp] theorem putMacro_freeValue (i m : Nat) (v : Macro) : freeValue (putMacro i m v s) = freeValue s := rfl
@[simp] theorem putMacro_regRaw (i m : Nat) (v : Macro) (x : Nat) : regRaw (putMacro i m v s) x = regRaw s x := rfl
@[simp] theorem putMacro_odGet (i m : Nat) (v : Macro) (x : Nat) : odGet (putMacro i m v s) x = odGet s x := rfl
@[simp] theorem putMacro_odUse (i m : Nat) (v : Macro) (x : Nat) : odUse (putMacro i m v s) x = odUse s x := rfl
@[simp] theorem putMacro_blobGet (i m : Nat) (v : Macro) (x : Nat) : blobGet (putMacro i m v s) x = blobGet s x := rfl
@[simp] theorem putMacro_memByte (i m : Nat) (v : Macro) (x : Nat) : memByte (putMacro i m v s) x = memByte s x := rfl
@[simp] theorem putMacro_getApp (i m : Nat) (v : Macro) (x : Nat) : getApp (putMacro i m v s) x = getApp s x := rfl
@[simp] theorem putMacro_getHold (i m : Nat) (v : Macro) (x : Nat) : getHold (putMacro i m v s) x = getHold s x := rfl
@[simp] theorem putMacro_getCan (i m : Nat) (v : Macro) (x : Nat) : getCan (putMacro i m v s) x = getCan s x := rfl
@[simp] theorem putMacro_getCam (i m : Nat) (v : Macro) (x : Nat) : getCam (putMacro i m v s) x = getCam s x := rfl
@[simp] theorem putMacro_getSeq (i m : Nat) (v : Macro) (x : Nat) : getSeq (putMacro i m v s) x = getSeq s x := rfl
@[simp] theorem putMacro_getSession (i m : Nat) (v : Macro) (x : Nat) : getSession (putMacro i m v s) x = getSession s x := rfl
@[simp] theorem putMacro_getQ (i m : Nat) (v : Macro) (x y : Nat) : getQ (putMacro i m v s) x y = getQ s x y := rfl
@[simp] theorem putMacro_getInst (i m : Nat) (v : Macro) (x : Nat) : getInst (putMacro i m v s) x = getInst s x := rfl
@[simp] theorem putMacro_getPoll (i m : Nat) (v : Macro) (x : Nat) : getPoll (putMacro i m v s) x = getPoll s x := rfl
@[simp] theorem putMacro_getConn (i m : Nat) (v : Macro) (x : Nat) : getConn (putMacro i m v s) x = getConn s x := rfl
@[simp] theorem putMacro_getSq (i m : Nat) (v : Macro) (x : Nat) : getSq (putMacro i m v s) x = getSq s x := rfl
@[simp] theorem putMacro_getWdg (i m : Nat) (v : Macro) (x : Nat) : getWdg (putMacro i m v s) x = getWdg s x := rfl
@[simp] theorem putMacro_getGq (i m : Nat) (v : Macro) (x : Nat) : getGq (putMacro i m v s) x = getGq s x := rfl
@[simp] theorem putMacro_getPipe (i m : Nat) (v : Macro) (x : Nat) : getPipe (putMacro i m v s) x = getPipe s x := rfl
@[simp] theorem putMacro_getPendant (i m : Nat) (v : Macro) (x : Nat) : getPendant (putMacro i m v s) x = getPendant s x := rfl

/-! ### putGq -/

@[simp] theorem putGq_dev (q : Nat) (v : GfxQueue) : (putGq q v s).dev = s.dev := rfl
@[simp] theorem putGq_now (q : Nat) (v : GfxQueue) : (putGq q v s).now = s.now := rfl
@[simp] theorem putGq_free (q : Nat) (v : GfxQueue) : (putGq q v s).free = s.free := rfl
@[simp] theorem putGq_regs (q : Nat) (v : GfxQueue) : (putGq q v s).regs = s.regs := rfl
@[simp] theorem putGq_hold (q : Nat) (v : GfxQueue) : (putGq q v s).hold = s.hold := rfl
@[simp] theorem putGq_od (q : Nat) (v : GfxQueue) : (putGq q v s).od = s.od := rfl
@[simp] theorem putGq_odBlob (q : Nat) (v : GfxQueue) : (putGq q v s).odBlob = s.odBlob := rfl
@[simp] theorem putGq_odChange (q : Nat) (v : GfxQueue) : (putGq q v s).odChange = s.odChange := rfl
@[simp] theorem putGq_odStart (q : Nat) (v : GfxQueue) : (putGq q v s).odStart = s.odStart := rfl
@[simp] theorem putGq_mem (q : Nat) (v : GfxQueue) : (putGq q v s).mem = s.mem := rfl
@[simp] theorem putGq_memCtl (q : Nat) (v : GfxQueue) : (putGq q v s).memCtl = s.memCtl := rfl
@[simp] theorem putGq_pwr (q : Nat) (v : GfxQueue) : (putGq q v s).pwr = s.pwr := rfl
@[simp] theorem putGq_start (q : Nat) (v : GfxQueue) : (putGq q v s).start = s.start := rfl
@[simp] theorem putGq_sdg (q : Nat) (v : GfxQueue) : (putGq q v s).sdg = s.sdg := rfl
@[simp] theorem putGq_frz (q : Nat) (v : GfxQueue) : (putGq q v s).frz = s.frz := rfl
@[simp] theorem putGq_leash (q : Nat) (v : GfxQueue) : (putGq q v s).leash = s.leash := rfl
@[simp] theorem putGq_params (q : Nat) (v : GfxQueue) : (putGq q v s).params = s.params := rfl
@[simp] theorem putGq_canopen (q : Nat) (v : GfxQueue) : (putGq q v s).canopen = s.canopen := rfl
@[simp] theorem putGq_lock (q : Nat) (v : GfxQueue) : (putGq q v s).lock = s.lock := rfl
@[simp] theorem putGq_apps (q : Nat) (v : GfxQueue) : (putGq q v s).apps = s.apps := rfl
@[simp] theorem putGq_sec (q : Nat) (v : GfxQueue) : (putGq q v s).sec = s.sec := rfl
@[simp] theorem putGq_fuses (q : Nat) (v : GfxQueue) : (putGq q v s).fuses = s.fuses := rfl
@[simp] theorem putGq_knots (q : Nat) (v : GfxQueue) : (putGq q v s).knots = s.knots := rfl
@[simp] theorem putGq_pack (q : Nat) (v : GfxQueue) : (putGq q v s).pack = s.pack := rfl
@[simp] theorem putGq_cim (q : Nat) (v : GfxQueue) : (putGq q v s).cim = s.cim := rfl
@[simp] theorem putGq_kennel (q : Nat) (v : GfxQueue) : (putGq q v s).kennel = s.kennel := rfl
@[simp] theorem putGq_cams (q : Nat) (v : GfxQueue) : (putGq q v s).cams = s.cams := rfl
@[simp] theorem putGq_pipes (q : Nat) (v : GfxQueue) : (putGq q v s).pipes = s.pipes := rfl
@[simp] theorem putGq_net (q : Nat) (v : GfxQueue) : (putGq q v s).net = s.net := rfl
@[simp] theorem putGq_can (q : Nat) (v : GfxQueue) : (putGq q v s).can = s.can := rfl
@[simp] theorem putGq_tether (q : Nat) (v : GfxQueue) : (putGq q v s).tether = s.tether := rfl
@[simp] theorem putGq_splice (q : Nat) (v : GfxQueue) : (putGq q v s).splice = s.splice := rfl
@[simp] theorem putGq_wh (q : Nat) (v : GfxQueue) : (putGq q v s).wh = s.wh := rfl
@[simp] theorem putGq_slots (q : Nat) (v : GfxQueue) : (putGq q v s).slots = s.slots := rfl
@[simp] theorem putGq_safeSlots (q : Nat) (v : GfxQueue) : (putGq q v s).safeSlots = s.safeSlots := rfl
@[simp] theorem putGq_gtime (q : Nat) (v : GfxQueue) : (putGq q v s).gtime = s.gtime := rfl
@[simp] theorem putGq_out (q : Nat) (v : GfxQueue) : (putGq q v s).out = s.out := rfl
@[simp] theorem putGq_pending (q : Nat) (v : GfxQueue) : (putGq q v s).pending = s.pending := rfl
@[simp] theorem putGq_isUp (q : Nat) (v : GfxQueue) : isUp (putGq q v s) = isUp s := rfl
@[simp] theorem putGq_isRunning (q : Nat) (v : GfxQueue) : isRunning (putGq q v s) = isRunning s := rfl
@[simp] theorem putGq_isStarting (q : Nat) (v : GfxQueue) : isStarting (putGq q v s) = isStarting s := rfl
@[simp] theorem putGq_blocksOn (q : Nat) (v : GfxQueue) : blocksOn (putGq q v s) = blocksOn s := rfl
@[simp] theorem putGq_gnow (q : Nat) (v : GfxQueue) : gnow (putGq q v s) = gnow s := rfl
@[simp] theorem putGq_freeValue (q : Nat) (v : GfxQueue) : freeValue (putGq q v s) = freeValue s := rfl
@[simp] theorem putGq_regRaw (q : Nat) (v : GfxQueue) (x : Nat) : regRaw (putGq q v s) x = regRaw s x := rfl
@[simp] theorem putGq_odGet (q : Nat) (v : GfxQueue) (x : Nat) : odGet (putGq q v s) x = odGet s x := rfl
@[simp] theorem putGq_odUse (q : Nat) (v : GfxQueue) (x : Nat) : odUse (putGq q v s) x = odUse s x := rfl
@[simp] theorem putGq_blobGet (q : Nat) (v : GfxQueue) (x : Nat) : blobGet (putGq q v s) x = blobGet s x := rfl
@[simp] theorem putGq_memByte (q : Nat) (v : GfxQueue) (x : Nat) : memByte (putGq q v s) x = memByte s x := rfl
@[simp] theorem putGq_getApp (q : Nat) (v : GfxQueue) (x : Nat) : getApp (putGq q v s) x = getApp s x := rfl
@[simp] theorem putGq_getHold (q : Nat) (v : GfxQueue) (x : Nat) : getHold (putGq q v s) x = getHold s x := rfl
@[simp] theorem putGq_getCan (q : Nat) (v : GfxQueue) (x : Nat) : getCan (putGq q v s) x = getCan s x := rfl
@[simp] theorem putGq_getCam (q : Nat) (v : GfxQueue) (x : Nat) : getCam (putGq q v s) x = getCam s x := rfl
@[simp] theorem putGq_getSeq (q : Nat) (v : GfxQueue) (x : Nat) : getSeq (putGq q v s) x = getSeq s x := rfl
@[simp] theorem putGq_getSession (q : Nat) (v : GfxQueue) (x : Nat) : getSession (putGq q v s) x = getSession s x := rfl
@[simp] theorem putGq_getQ (q : Nat) (v : GfxQueue) (x y : Nat) : getQ (putGq q v s) x y = getQ s x y := rfl
@[simp] theorem putGq_getInst (q : Nat) (v : GfxQueue) (x : Nat) : getInst (putGq q v s) x = getInst s x := rfl
@[simp] theorem putGq_getPoll (q : Nat) (v : GfxQueue) (x : Nat) : getPoll (putGq q v s) x = getPoll s x := rfl
@[simp] theorem putGq_getConn (q : Nat) (v : GfxQueue) (x : Nat) : getConn (putGq q v s) x = getConn s x := rfl
@[simp] theorem putGq_getSq (q : Nat) (v : GfxQueue) (x : Nat) : getSq (putGq q v s) x = getSq s x := rfl
@[simp] theorem putGq_getWdg (q : Nat) (v : GfxQueue) (x : Nat) : getWdg (putGq q v s) x = getWdg s x := rfl
@[simp] theorem putGq_getCt (q : Nat) (v : GfxQueue) (x : Nat) : getCt (putGq q v s) x = getCt s x := rfl
@[simp] theorem putGq_getMacro (q : Nat) (v : GfxQueue) (x y : Nat) : getMacro (putGq q v s) x y = getMacro s x y := rfl
@[simp] theorem putGq_getPipe (q : Nat) (v : GfxQueue) (x : Nat) : getPipe (putGq q v s) x = getPipe s x := rfl
@[simp] theorem putGq_getPendant (q : Nat) (v : GfxQueue) (x : Nat) : getPendant (putGq q v s) x = getPendant s x := rfl

/-! ### putPipe -/

@[simp] theorem putPipe_dev (p : Nat) (v : Pipe) : (putPipe p v s).dev = s.dev := rfl
@[simp] theorem putPipe_now (p : Nat) (v : Pipe) : (putPipe p v s).now = s.now := rfl
@[simp] theorem putPipe_free (p : Nat) (v : Pipe) : (putPipe p v s).free = s.free := rfl
@[simp] theorem putPipe_regs (p : Nat) (v : Pipe) : (putPipe p v s).regs = s.regs := rfl
@[simp] theorem putPipe_hold (p : Nat) (v : Pipe) : (putPipe p v s).hold = s.hold := rfl
@[simp] theorem putPipe_od (p : Nat) (v : Pipe) : (putPipe p v s).od = s.od := rfl
@[simp] theorem putPipe_odBlob (p : Nat) (v : Pipe) : (putPipe p v s).odBlob = s.odBlob := rfl
@[simp] theorem putPipe_odChange (p : Nat) (v : Pipe) : (putPipe p v s).odChange = s.odChange := rfl
@[simp] theorem putPipe_odStart (p : Nat) (v : Pipe) : (putPipe p v s).odStart = s.odStart := rfl
@[simp] theorem putPipe_mem (p : Nat) (v : Pipe) : (putPipe p v s).mem = s.mem := rfl
@[simp] theorem putPipe_memCtl (p : Nat) (v : Pipe) : (putPipe p v s).memCtl = s.memCtl := rfl
@[simp] theorem putPipe_pwr (p : Nat) (v : Pipe) : (putPipe p v s).pwr = s.pwr := rfl
@[simp] theorem putPipe_start (p : Nat) (v : Pipe) : (putPipe p v s).start = s.start := rfl
@[simp] theorem putPipe_sdg (p : Nat) (v : Pipe) : (putPipe p v s).sdg = s.sdg := rfl
@[simp] theorem putPipe_frz (p : Nat) (v : Pipe) : (putPipe p v s).frz = s.frz := rfl
@[simp] theorem putPipe_leash (p : Nat) (v : Pipe) : (putPipe p v s).leash = s.leash := rfl
@[simp] theorem putPipe_params (p : Nat) (v : Pipe) : (putPipe p v s).params = s.params := rfl
@[simp] theorem putPipe_canopen (p : Nat) (v : Pipe) : (putPipe p v s).canopen = s.canopen := rfl
@[simp] theorem putPipe_lock (p : Nat) (v : Pipe) : (putPipe p v s).lock = s.lock := rfl
@[simp] theorem putPipe_apps (p : Nat) (v : Pipe) : (putPipe p v s).apps = s.apps := rfl
@[simp] theorem putPipe_sec (p : Nat) (v : Pipe) : (putPipe p v s).sec = s.sec := rfl
@[simp] theorem putPipe_fuses (p : Nat) (v : Pipe) : (putPipe p v s).fuses = s.fuses := rfl
@[simp] theorem putPipe_knots (p : Nat) (v : Pipe) : (putPipe p v s).knots = s.knots := rfl
@[simp] theorem putPipe_pack (p : Nat) (v : Pipe) : (putPipe p v s).pack = s.pack := rfl
@[simp] theorem putPipe_cim (p : Nat) (v : Pipe) : (putPipe p v s).cim = s.cim := rfl
@[simp] theorem putPipe_kennel (p : Nat) (v : Pipe) : (putPipe p v s).kennel = s.kennel := rfl
@[simp] theorem putPipe_cams (p : Nat) (v : Pipe) : (putPipe p v s).cams = s.cams := rfl
@[simp] theorem putPipe_gfx (p : Nat) (v : Pipe) : (putPipe p v s).gfx = s.gfx := rfl
@[simp] theorem putPipe_net (p : Nat) (v : Pipe) : (putPipe p v s).net = s.net := rfl
@[simp] theorem putPipe_can (p : Nat) (v : Pipe) : (putPipe p v s).can = s.can := rfl
@[simp] theorem putPipe_tether (p : Nat) (v : Pipe) : (putPipe p v s).tether = s.tether := rfl
@[simp] theorem putPipe_splice (p : Nat) (v : Pipe) : (putPipe p v s).splice = s.splice := rfl
@[simp] theorem putPipe_wh (p : Nat) (v : Pipe) : (putPipe p v s).wh = s.wh := rfl
@[simp] theorem putPipe_slots (p : Nat) (v : Pipe) : (putPipe p v s).slots = s.slots := rfl
@[simp] theorem putPipe_safeSlots (p : Nat) (v : Pipe) : (putPipe p v s).safeSlots = s.safeSlots := rfl
@[simp] theorem putPipe_gtime (p : Nat) (v : Pipe) : (putPipe p v s).gtime = s.gtime := rfl
@[simp] theorem putPipe_out (p : Nat) (v : Pipe) : (putPipe p v s).out = s.out := rfl
@[simp] theorem putPipe_pending (p : Nat) (v : Pipe) : (putPipe p v s).pending = s.pending := rfl
@[simp] theorem putPipe_isUp (p : Nat) (v : Pipe) : isUp (putPipe p v s) = isUp s := rfl
@[simp] theorem putPipe_isRunning (p : Nat) (v : Pipe) : isRunning (putPipe p v s) = isRunning s := rfl
@[simp] theorem putPipe_isStarting (p : Nat) (v : Pipe) : isStarting (putPipe p v s) = isStarting s := rfl
@[simp] theorem putPipe_blocksOn (p : Nat) (v : Pipe) : blocksOn (putPipe p v s) = blocksOn s := rfl
@[simp] theorem putPipe_gnow (p : Nat) (v : Pipe) : gnow (putPipe p v s) = gnow s := rfl
@[simp] theorem putPipe_freeValue (p : Nat) (v : Pipe) : freeValue (putPipe p v s) = freeValue s := rfl
@[simp] theorem putPipe_regRaw (p : Nat) (v : Pipe) (x : Nat) : regRaw (putPipe p v s) x = regRaw s x := rfl
@[simp] theorem putPipe_odGet (p : Nat) (v : Pipe) (x : Nat) : odGet (putPipe p v s) x = odGet s x := rfl
@[simp] theorem putPipe_odUse (p : Nat) (v : Pipe) (x : Nat) : odUse (putPipe p v s) x = odUse s x := rfl
@[simp] theorem putPipe_blobGet (p : Nat) (v : Pipe) (x : Nat) : blobGet (putPipe p v s) x = blobGet s x := rfl
@[simp] theorem putPipe_memByte (p : Nat) (v : Pipe) (x : Nat) : memByte (putPipe p v s) x = memByte s x := rfl
@[simp] theorem putPipe_getApp (p : Nat) (v : Pipe) (x : Nat) : getApp (putPipe p v s) x = getApp s x := rfl
@[simp] theorem putPipe_getHold (p : Nat) (v : Pipe) (x : Nat) : getHold (putPipe p v s) x = getHold s x := rfl
@[simp] theorem putPipe_getCan (p : Nat) (v : Pipe) (x : Nat) : getCan (putPipe p v s) x = getCan s x := rfl
@[simp] theorem putPipe_getCam (p : Nat) (v : Pipe) (x : Nat) : getCam (putPipe p v s) x = getCam s x := rfl
@[simp] theorem putPipe_getSeq (p : Nat) (v : Pipe) (x : Nat) : getSeq (putPipe p v s) x = getSeq s x := rfl
@[simp] theorem putPipe_getSession (p : Nat) (v : Pipe) (x : Nat) : getSession (putPipe p v s) x = getSession s x := rfl
@[simp] theorem putPipe_getQ (p : Nat) (v : Pipe) (x y : Nat) : getQ (putPipe p v s) x y = getQ s x y := rfl
@[simp] theorem putPipe_getInst (p : Nat) (v : Pipe) (x : Nat) : getInst (putPipe p v s) x = getInst s x := rfl
@[simp] theorem putPipe_getPoll (p : Nat) (v : Pipe) (x : Nat) : getPoll (putPipe p v s) x = getPoll s x := rfl
@[simp] theorem putPipe_getConn (p : Nat) (v : Pipe) (x : Nat) : getConn (putPipe p v s) x = getConn s x := rfl
@[simp] theorem putPipe_getSq (p : Nat) (v : Pipe) (x : Nat) : getSq (putPipe p v s) x = getSq s x := rfl
@[simp] theorem putPipe_getWdg (p : Nat) (v : Pipe) (x : Nat) : getWdg (putPipe p v s) x = getWdg s x := rfl
@[simp] theorem putPipe_getCt (p : Nat) (v : Pipe) (x : Nat) : getCt (putPipe p v s) x = getCt s x := rfl
@[simp] theorem putPipe_getMacro (p : Nat) (v : Pipe) (x y : Nat) : getMacro (putPipe p v s) x y = getMacro s x y := rfl
@[simp] theorem putPipe_getGq (p : Nat) (v : Pipe) (x : Nat) : getGq (putPipe p v s) x = getGq s x := rfl
@[simp] theorem putPipe_getPendant (p : Nat) (v : Pipe) (x : Nat) : getPendant (putPipe p v s) x = getPendant s x := rfl

/-! ### putPendant -/

@[simp] theorem putPendant_dev (k : Nat) (v : Pendant) : (putPendant k v s).dev = s.dev := rfl
@[simp] theorem putPendant_now (k : Nat) (v : Pendant) : (putPendant k v s).now = s.now := rfl
@[simp] theorem putPendant_free (k : Nat) (v : Pendant) : (putPendant k v s).free = s.free := rfl
@[simp] theorem putPendant_regs (k : Nat) (v : Pendant) : (putPendant k v s).regs = s.regs := rfl
@[simp] theorem putPendant_hold (k : Nat) (v : Pendant) : (putPendant k v s).hold = s.hold := rfl
@[simp] theorem putPendant_od (k : Nat) (v : Pendant) : (putPendant k v s).od = s.od := rfl
@[simp] theorem putPendant_odBlob (k : Nat) (v : Pendant) : (putPendant k v s).odBlob = s.odBlob := rfl
@[simp] theorem putPendant_odChange (k : Nat) (v : Pendant) : (putPendant k v s).odChange = s.odChange := rfl
@[simp] theorem putPendant_odStart (k : Nat) (v : Pendant) : (putPendant k v s).odStart = s.odStart := rfl
@[simp] theorem putPendant_mem (k : Nat) (v : Pendant) : (putPendant k v s).mem = s.mem := rfl
@[simp] theorem putPendant_memCtl (k : Nat) (v : Pendant) : (putPendant k v s).memCtl = s.memCtl := rfl
@[simp] theorem putPendant_pwr (k : Nat) (v : Pendant) : (putPendant k v s).pwr = s.pwr := rfl
@[simp] theorem putPendant_start (k : Nat) (v : Pendant) : (putPendant k v s).start = s.start := rfl
@[simp] theorem putPendant_sdg (k : Nat) (v : Pendant) : (putPendant k v s).sdg = s.sdg := rfl
@[simp] theorem putPendant_frz (k : Nat) (v : Pendant) : (putPendant k v s).frz = s.frz := rfl
@[simp] theorem putPendant_leash (k : Nat) (v : Pendant) : (putPendant k v s).leash = s.leash := rfl
@[simp] theorem putPendant_params (k : Nat) (v : Pendant) : (putPendant k v s).params = s.params := rfl
@[simp] theorem putPendant_canopen (k : Nat) (v : Pendant) : (putPendant k v s).canopen = s.canopen := rfl
@[simp] theorem putPendant_lock (k : Nat) (v : Pendant) : (putPendant k v s).lock = s.lock := rfl
@[simp] theorem putPendant_apps (k : Nat) (v : Pendant) : (putPendant k v s).apps = s.apps := rfl
@[simp] theorem putPendant_sec (k : Nat) (v : Pendant) : (putPendant k v s).sec = s.sec := rfl
@[simp] theorem putPendant_fuses (k : Nat) (v : Pendant) : (putPendant k v s).fuses = s.fuses := rfl
@[simp] theorem putPendant_knots (k : Nat) (v : Pendant) : (putPendant k v s).knots = s.knots := rfl
@[simp] theorem putPendant_pack (k : Nat) (v : Pendant) : (putPendant k v s).pack = s.pack := rfl
@[simp] theorem putPendant_cim (k : Nat) (v : Pendant) : (putPendant k v s).cim = s.cim := rfl
@[simp] theorem putPendant_kennel (k : Nat) (v : Pendant) : (putPendant k v s).kennel = s.kennel := rfl
@[simp] theorem putPendant_cams (k : Nat) (v : Pendant) : (putPendant k v s).cams = s.cams := rfl
@[simp] theorem putPendant_gfx (k : Nat) (v : Pendant) : (putPendant k v s).gfx = s.gfx := rfl
@[simp] theorem putPendant_pipes (k : Nat) (v : Pendant) : (putPendant k v s).pipes = s.pipes := rfl
@[simp] theorem putPendant_net (k : Nat) (v : Pendant) : (putPendant k v s).net = s.net := rfl
@[simp] theorem putPendant_can (k : Nat) (v : Pendant) : (putPendant k v s).can = s.can := rfl
@[simp] theorem putPendant_tether (k : Nat) (v : Pendant) : (putPendant k v s).tether = s.tether := rfl
@[simp] theorem putPendant_splice (k : Nat) (v : Pendant) : (putPendant k v s).splice = s.splice := rfl
@[simp] theorem putPendant_slots (k : Nat) (v : Pendant) : (putPendant k v s).slots = s.slots := rfl
@[simp] theorem putPendant_safeSlots (k : Nat) (v : Pendant) : (putPendant k v s).safeSlots = s.safeSlots := rfl
@[simp] theorem putPendant_gtime (k : Nat) (v : Pendant) : (putPendant k v s).gtime = s.gtime := rfl
@[simp] theorem putPendant_out (k : Nat) (v : Pendant) : (putPendant k v s).out = s.out := rfl
@[simp] theorem putPendant_pending (k : Nat) (v : Pendant) : (putPendant k v s).pending = s.pending := rfl
@[simp] theorem putPendant_isUp (k : Nat) (v : Pendant) : isUp (putPendant k v s) = isUp s := rfl
@[simp] theorem putPendant_isRunning (k : Nat) (v : Pendant) : isRunning (putPendant k v s) = isRunning s := rfl
@[simp] theorem putPendant_isStarting (k : Nat) (v : Pendant) : isStarting (putPendant k v s) = isStarting s := rfl
@[simp] theorem putPendant_blocksOn (k : Nat) (v : Pendant) : blocksOn (putPendant k v s) = blocksOn s := rfl
@[simp] theorem putPendant_gnow (k : Nat) (v : Pendant) : gnow (putPendant k v s) = gnow s := rfl
@[simp] theorem putPendant_freeValue (k : Nat) (v : Pendant) : freeValue (putPendant k v s) = freeValue s := rfl
@[simp] theorem putPendant_regRaw (k : Nat) (v : Pendant) (x : Nat) : regRaw (putPendant k v s) x = regRaw s x := rfl
@[simp] theorem putPendant_odGet (k : Nat) (v : Pendant) (x : Nat) : odGet (putPendant k v s) x = odGet s x := rfl
@[simp] theorem putPendant_odUse (k : Nat) (v : Pendant) (x : Nat) : odUse (putPendant k v s) x = odUse s x := rfl
@[simp] theorem putPendant_blobGet (k : Nat) (v : Pendant) (x : Nat) : blobGet (putPendant k v s) x = blobGet s x := rfl
@[simp] theorem putPendant_memByte (k : Nat) (v : Pendant) (x : Nat) : memByte (putPendant k v s) x = memByte s x := rfl
@[simp] theorem putPendant_getApp (k : Nat) (v : Pendant) (x : Nat) : getApp (putPendant k v s) x = getApp s x := rfl
@[simp] theorem putPendant_getHold (k : Nat) (v : Pendant) (x : Nat) : getHold (putPendant k v s) x = getHold s x := rfl
@[simp] theorem putPendant_getCan (k : Nat) (v : Pendant) (x : Nat) : getCan (putPendant k v s) x = getCan s x := rfl
@[simp] theorem putPendant_getCam (k : Nat) (v : Pendant) (x : Nat) : getCam (putPendant k v s) x = getCam s x := rfl
@[simp] theorem putPendant_getSeq (k : Nat) (v : Pendant) (x : Nat) : getSeq (putPendant k v s) x = getSeq s x := rfl
@[simp] theorem putPendant_getSession (k : Nat) (v : Pendant) (x : Nat) : getSession (putPendant k v s) x = getSession s x := rfl
@[simp] theorem putPendant_getQ (k : Nat) (v : Pendant) (x y : Nat) : getQ (putPendant k v s) x y = getQ s x y := rfl
@[simp] theorem putPendant_getInst (k : Nat) (v : Pendant) (x : Nat) : getInst (putPendant k v s) x = getInst s x := rfl
@[simp] theorem putPendant_getPoll (k : Nat) (v : Pendant) (x : Nat) : getPoll (putPendant k v s) x = getPoll s x := rfl
@[simp] theorem putPendant_getConn (k : Nat) (v : Pendant) (x : Nat) : getConn (putPendant k v s) x = getConn s x := rfl
@[simp] theorem putPendant_getSq (k : Nat) (v : Pendant) (x : Nat) : getSq (putPendant k v s) x = getSq s x := rfl
@[simp] theorem putPendant_getWdg (k : Nat) (v : Pendant) (x : Nat) : getWdg (putPendant k v s) x = getWdg s x := rfl
@[simp] theorem putPendant_getCt (k : Nat) (v : Pendant) (x : Nat) : getCt (putPendant k v s) x = getCt s x := rfl
@[simp] theorem putPendant_getMacro (k : Nat) (v : Pendant) (x y : Nat) : getMacro (putPendant k v s) x y = getMacro s x y := rfl
@[simp] theorem putPendant_getGq (k : Nat) (v : Pendant) (x : Nat) : getGq (putPendant k v s) x = getGq s x := rfl
@[simp] theorem putPendant_getPipe (k : Nat) (v : Pendant) (x : Nat) : getPipe (putPendant k v s) x = getPipe s x := rfl

/-! ### putEgress -/

@[simp] theorem putEgress_dev (p q : Nat) (l : List EthOut) : (putEgress p q l s).dev = s.dev := rfl
@[simp] theorem putEgress_now (p q : Nat) (l : List EthOut) : (putEgress p q l s).now = s.now := rfl
@[simp] theorem putEgress_free (p q : Nat) (l : List EthOut) : (putEgress p q l s).free = s.free := rfl
@[simp] theorem putEgress_regs (p q : Nat) (l : List EthOut) : (putEgress p q l s).regs = s.regs := rfl
@[simp] theorem putEgress_hold (p q : Nat) (l : List EthOut) : (putEgress p q l s).hold = s.hold := rfl
@[simp] theorem putEgress_od (p q : Nat) (l : List EthOut) : (putEgress p q l s).od = s.od := rfl
@[simp] theorem putEgress_odBlob (p q : Nat) (l : List EthOut) : (putEgress p q l s).odBlob = s.odBlob := rfl
@[simp] theorem putEgress_odChange (p q : Nat) (l : List EthOut) : (putEgress p q l s).odChange = s.odChange := rfl
@[simp] theorem putEgress_odStart (p q : Nat) (l : List EthOut) : (putEgress p q l s).odStart = s.odStart := rfl
@[simp] theorem putEgress_mem (p q : Nat) (l : List EthOut) : (putEgress p q l s).mem = s.mem := rfl
@[simp] theorem putEgress_memCtl (p q : Nat) (l : List EthOut) : (putEgress p q l s).memCtl = s.memCtl := rfl
@[simp] theorem putEgress_pwr (p q : Nat) (l : List EthOut) : (putEgress p q l s).pwr = s.pwr := rfl
@[simp] theorem putEgress_start (p q : Nat) (l : List EthOut) : (putEgress p q l s).start = s.start := rfl
@[simp] theorem putEgress_sdg (p q : Nat) (l : List EthOut) : (putEgress p q l s).sdg = s.sdg := rfl
@[simp] theorem putEgress_frz (p q : Nat) (l : List EthOut) : (putEgress p q l s).frz = s.frz := rfl
@[simp] theorem putEgress_leash (p q : Nat) (l : List EthOut) : (putEgress p q l s).leash = s.leash := rfl
@[simp] theorem putEgress_params (p q : Nat) (l : List EthOut) : (putEgress p q l s).params = s.params := rfl
@[simp] theorem putEgress_canopen (p q : Nat) (l : List EthOut) : (putEgress p q l s).canopen = s.canopen := rfl
@[simp] theorem putEgress_lock (p q : Nat) (l : List EthOut) : (putEgress p q l s).lock = s.lock := rfl
@[simp] theorem putEgress_apps (p q : Nat) (l : List EthOut) : (putEgress p q l s).apps = s.apps := rfl
@[simp] theorem putEgress_sec (p q : Nat) (l : List EthOut) : (putEgress p q l s).sec = s.sec := rfl
@[simp] theorem putEgress_fuses (p q : Nat) (l : List EthOut) : (putEgress p q l s).fuses = s.fuses := rfl
@[simp] theorem putEgress_knots (p q : Nat) (l : List EthOut) : (putEgress p q l s).knots = s.knots := rfl
@[simp] theorem putEgress_pack (p q : Nat) (l : List EthOut) : (putEgress p q l s).pack = s.pack := rfl
@[simp] theorem putEgress_cim (p q : Nat) (l : List EthOut) : (putEgress p q l s).cim = s.cim := rfl
@[simp] theorem putEgress_kennel (p q : Nat) (l : List EthOut) : (putEgress p q l s).kennel = s.kennel := rfl
@[simp] theorem putEgress_cams (p q : Nat) (l : List EthOut) : (putEgress p q l s).cams = s.cams := rfl
@[simp] theorem putEgress_gfx (p q : Nat) (l : List EthOut) : (putEgress p q l s).gfx = s.gfx := rfl
@[simp] theorem putEgress_pipes (p q : Nat) (l : List EthOut) : (putEgress p q l s).pipes = s.pipes := rfl
@[simp] theorem putEgress_can (p q : Nat) (l : List EthOut) : (putEgress p q l s).can = s.can := rfl
@[simp] theorem putEgress_tether (p q : Nat) (l : List EthOut) : (putEgress p q l s).tether = s.tether := rfl
@[simp] theorem putEgress_splice (p q : Nat) (l : List EthOut) : (putEgress p q l s).splice = s.splice := rfl
@[simp] theorem putEgress_wh (p q : Nat) (l : List EthOut) : (putEgress p q l s).wh = s.wh := rfl
@[simp] theorem putEgress_slots (p q : Nat) (l : List EthOut) : (putEgress p q l s).slots = s.slots := rfl
@[simp] theorem putEgress_safeSlots (p q : Nat) (l : List EthOut) : (putEgress p q l s).safeSlots = s.safeSlots := rfl
@[simp] theorem putEgress_gtime (p q : Nat) (l : List EthOut) : (putEgress p q l s).gtime = s.gtime := rfl
@[simp] theorem putEgress_out (p q : Nat) (l : List EthOut) : (putEgress p q l s).out = s.out := rfl
@[simp] theorem putEgress_pending (p q : Nat) (l : List EthOut) : (putEgress p q l s).pending = s.pending := rfl
@[simp] theorem putEgress_isUp (p q : Nat) (l : List EthOut) : isUp (putEgress p q l s) = isUp s := rfl
@[simp] theorem putEgress_isRunning (p q : Nat) (l : List EthOut) : isRunning (putEgress p q l s) = isRunning s := rfl
@[simp] theorem putEgress_isStarting (p q : Nat) (l : List EthOut) : isStarting (putEgress p q l s) = isStarting s := rfl
@[simp] theorem putEgress_blocksOn (p q : Nat) (l : List EthOut) : blocksOn (putEgress p q l s) = blocksOn s := rfl
@[simp] theorem putEgress_gnow (p q : Nat) (l : List EthOut) : gnow (putEgress p q l s) = gnow s := rfl
@[simp] theorem putEgress_freeValue (p q : Nat) (l : List EthOut) : freeValue (putEgress p q l s) = freeValue s := rfl
@[simp] theorem putEgress_regRaw (p q : Nat) (l : List EthOut) (x : Nat) : regRaw (putEgress p q l s) x = regRaw s x := rfl
@[simp] theorem putEgress_odGet (p q : Nat) (l : List EthOut) (x : Nat) : odGet (putEgress p q l s) x = odGet s x := rfl
@[simp] theorem putEgress_odUse (p q : Nat) (l : List EthOut) (x : Nat) : odUse (putEgress p q l s) x = odUse s x := rfl
@[simp] theorem putEgress_blobGet (p q : Nat) (l : List EthOut) (x : Nat) : blobGet (putEgress p q l s) x = blobGet s x := rfl
@[simp] theorem putEgress_memByte (p q : Nat) (l : List EthOut) (x : Nat) : memByte (putEgress p q l s) x = memByte s x := rfl
@[simp] theorem putEgress_getApp (p q : Nat) (l : List EthOut) (x : Nat) : getApp (putEgress p q l s) x = getApp s x := rfl
@[simp] theorem putEgress_getHold (p q : Nat) (l : List EthOut) (x : Nat) : getHold (putEgress p q l s) x = getHold s x := rfl
@[simp] theorem putEgress_getCan (p q : Nat) (l : List EthOut) (x : Nat) : getCan (putEgress p q l s) x = getCan s x := rfl
@[simp] theorem putEgress_getCam (p q : Nat) (l : List EthOut) (x : Nat) : getCam (putEgress p q l s) x = getCam s x := rfl
@[simp] theorem putEgress_getSeq (p q : Nat) (l : List EthOut) (x : Nat) : getSeq (putEgress p q l s) x = getSeq s x := rfl
@[simp] theorem putEgress_getSession (p q : Nat) (l : List EthOut) (x : Nat) : getSession (putEgress p q l s) x = getSession s x := rfl
@[simp] theorem putEgress_getQ (p q : Nat) (l : List EthOut) (x y : Nat) : getQ (putEgress p q l s) x y = getQ s x y := rfl
@[simp] theorem putEgress_getInst (p q : Nat) (l : List EthOut) (x : Nat) : getInst (putEgress p q l s) x = getInst s x := rfl
@[simp] theorem putEgress_getPoll (p q : Nat) (l : List EthOut) (x : Nat) : getPoll (putEgress p q l s) x = getPoll s x := rfl
@[simp] theorem putEgress_getConn (p q : Nat) (l : List EthOut) (x : Nat) : getConn (putEgress p q l s) x = getConn s x := rfl
@[simp] theorem putEgress_getSq (p q : Nat) (l : List EthOut) (x : Nat) : getSq (putEgress p q l s) x = getSq s x := rfl
@[simp] theorem putEgress_getWdg (p q : Nat) (l : List EthOut) (x : Nat) : getWdg (putEgress p q l s) x = getWdg s x := rfl
@[simp] theorem putEgress_getCt (p q : Nat) (l : List EthOut) (x : Nat) : getCt (putEgress p q l s) x = getCt s x := rfl
@[simp] theorem putEgress_getMacro (p q : Nat) (l : List EthOut) (x y : Nat) : getMacro (putEgress p q l s) x y = getMacro s x y := rfl
@[simp] theorem putEgress_getGq (p q : Nat) (l : List EthOut) (x : Nat) : getGq (putEgress p q l s) x = getGq s x := rfl
@[simp] theorem putEgress_getPipe (p q : Nat) (l : List EthOut) (x : Nat) : getPipe (putEgress p q l s) x = getPipe s x := rfl
@[simp] theorem putEgress_getPendant (p q : Nat) (l : List EthOut) (x : Nat) : getPendant (putEgress p q l s) x = getPendant s x := rfl

/-! ### Read after write -/

@[simp] theorem emit_out (o : Output) : (emit o s).out = o :: s.out := rfl
@[simp] theorem advanceTo_now (n : Nat) : (advanceTo n s).now = max s.now n := rfl
@[simp] theorem tick_now : (tick s).now = s.now + 1 := rfl
@[simp] theorem takeFree_free : (takeFree s).free = s.free + 1 := rfl

theorem regUpd_eq (a : Nat) (f : Nat → Nat) : regUpd a f s = regPut a (f (regRaw s a)) s := rfl
theorem regSetBits_eq (a m : Nat) : regSetBits a m s = regPut a (regRaw s a ||| m) s := rfl
theorem regCount_eq (a n : Nat) : regCount a n s = regPut a (satAdd (regRaw s a) n 0xFFFFFFFF) s := rfl
theorem regCount64_eq (a n : Nat) : regCount64 a n s = regPut a ((regRaw s a + n) % 2 ^ 64) s := rfl
theorem odCount_eq (k n : Nat) : odCount k n s = odPut k (satAdd (odGet s k) n (odCap k)) s := rfl
theorem odMax_eq (k v : Nat) : odMax k v s = odPut k (min (max (odGet s k) v) (odCap k)) s := rfl

@[simp] theorem regRaw_regPut_self (a v : Nat) : regRaw (regPut a v s) a = v % 2 ^ 64 := by
  unfold regRaw regPut
  simp [tabGet_tabSet_self, BitVec.toNat_ofNat]

@[simp] theorem regRaw_regPut_ne {a b : Nat} (h : b ≠ a) (v : Nat) : regRaw (regPut a v s) b = regRaw s b := by
  unfold regRaw regPut
  simp [tabGet_tabSet_ne h]

@[simp] theorem odGet_odPut_self (k v : Nat) : odGet (odPut k v s) k = v := by
  unfold odGet odPut
  simp [tabGet_tabSet_self]

@[simp] theorem odGet_odPut_ne {k x : Nat} (h : x ≠ k) (v : Nat) : odGet (odPut k v s) x = odGet s x := by
  unfold odGet odPut
  simp [tabGet_tabSet_ne h]

@[simp] theorem getApp_putApp_self (i : Nat) (v : AppCore) : getApp (putApp i v s) i = v := by
  unfold getApp putApp
  simp [tabGet_tabSet_self]

@[simp] theorem getApp_putApp_ne {i j : Nat} (h : j ≠ i) (v : AppCore) : getApp (putApp i v s) j = getApp s j := by
  unfold getApp putApp
  simp [tabGet_tabSet_ne h]

@[simp] theorem getHold_putHold_self (i : Nat) (v : Hold) : getHold (putHold i v s) i = v := by
  unfold getHold putHold
  simp [tabGet_tabSet_self]

@[simp] theorem getHold_putHold_ne {i j : Nat} (h : j ≠ i) (v : Hold) : getHold (putHold i v s) j = getHold s j := by
  unfold getHold putHold
  simp [tabGet_tabSet_ne h]

@[simp] theorem getCan_putCan_self (i : Nat) (v : CanCtl) : getCan (putCan i v s) i = v := by
  unfold getCan putCan
  simp [tabGet_tabSet_self]

@[simp] theorem getCan_putCan_ne {i j : Nat} (h : j ≠ i) (v : CanCtl) : getCan (putCan i v s) j = getCan s j := by
  unfold getCan putCan
  simp [tabGet_tabSet_ne h]

@[simp] theorem getCam_putCam_self (i : Nat) (v : CamStream) : getCam (putCam i v s) i = v := by
  unfold getCam putCam
  simp [tabGet_tabSet_self]

@[simp] theorem getCam_putCam_ne {i j : Nat} (h : j ≠ i) (v : CamStream) : getCam (putCam i v s) j = getCam s j := by
  unfold getCam putCam
  simp [tabGet_tabSet_ne h]

@[simp] theorem getSeq_putSeq_self (i : Nat) (v : Seq) : getSeq (putSeq i v s) i = v := by
  unfold getSeq putSeq
  simp [tabGet_tabSet_self]

@[simp] theorem getSeq_putSeq_ne {i j : Nat} (h : j ≠ i) (v : Seq) : getSeq (putSeq i v s) j = getSeq s j := by
  unfold getSeq putSeq
  simp [tabGet_tabSet_ne h]

@[simp] theorem getSession_putSession_self (i : Nat) (v : Option Session) : getSession (putSession i v s) i = v := by
  unfold getSession putSession
  simp [tabGet_tabSet_self]

@[simp] theorem getSession_putSession_ne {i j : Nat} (h : j ≠ i) (v : Option Session) : getSession (putSession i v s) j = getSession s j := by
  unfold getSession putSession
  simp [tabGet_tabSet_ne h]

@[simp] theorem getInst_putInst_self (i : Nat) (v : Inst) : getInst (putInst i v s) i = v := by
  unfold getInst putInst
  simp [tabGet_tabSet_self]

@[simp] theorem getInst_putInst_ne {i j : Nat} (h : j ≠ i) (v : Inst) : getInst (putInst i v s) j = getInst s j := by
  unfold getInst putInst
  simp [tabGet_tabSet_ne h]

@[simp] theorem getPoll_putPoll_self (i : Nat) (v : Poll) : getPoll (putPoll i v s) i = v := by
  unfold getPoll putPoll
  simp [tabGet_tabSet_self]

@[simp] theorem getPoll_putPoll_ne {i j : Nat} (h : j ≠ i) (v : Poll) : getPoll (putPoll i v s) j = getPoll s j := by
  unfold getPoll putPoll
  simp [tabGet_tabSet_ne h]

@[simp] theorem getConn_putConn_self (i : Nat) (v : TConn) : getConn (putConn i v s) i = v := by
  unfold getConn putConn
  simp [tabGet_tabSet_self]

@[simp] theorem getConn_putConn_ne {i j : Nat} (h : j ≠ i) (v : TConn) : getConn (putConn i v s) j = getConn s j := by
  unfold getConn putConn
  simp [tabGet_tabSet_ne h]

@[simp] theorem getSq_putSq_self (i : Nat) (v : TSq) : getSq (putSq i v s) i = v := by
  unfold getSq putSq
  simp [tabGet_tabSet_self]

@[simp] theorem getSq_putSq_ne {i j : Nat} (h : j ≠ i) (v : TSq) : getSq (putSq i v s) j = getSq s j := by
  unfold getSq putSq
  simp [tabGet_tabSet_ne h]

@[simp] theorem getWdg_putWdg_self (i : Nat) (v : Wdg) : getWdg (putWdg i v s) i = v := by
  unfold getWdg putWdg
  simp [tabGet_tabSet_self]

@[simp] theorem getWdg_putWdg_ne {i j : Nat} (h : j ≠ i) (v : Wdg) : getWdg (putWdg i v s) j = getWdg s j := by
  unfold getWdg putWdg
  simp [tabGet_tabSet_ne h]

@[simp] theorem getCt_putCt_self (i : Nat) (v : CimTile) : getCt (putCt i v s) i = v := by
  unfold getCt putCt
  simp [tabGet_tabSet_self]

@[simp] theorem getCt_putCt_ne {i j : Nat} (h : j ≠ i) (v : CimTile) : getCt (putCt i v s) j = getCt s j := by
  unfold getCt putCt
  simp [tabGet_tabSet_ne h]

@[simp] theorem getGq_putGq_self (i : Nat) (v : GfxQueue) : getGq (putGq i v s) i = v := by
  unfold getGq putGq
  simp [tabGet_tabSet_self]

@[simp] theorem getGq_putGq_ne {i j : Nat} (h : j ≠ i) (v : GfxQueue) : getGq (putGq i v s) j = getGq s j := by
  unfold getGq putGq
  simp [tabGet_tabSet_ne h]

@[simp] theorem getPipe_putPipe_self (i : Nat) (v : Pipe) : getPipe (putPipe i v s) i = v := by
  unfold getPipe putPipe
  simp [tabGet_tabSet_self]

@[simp] theorem getPipe_putPipe_ne {i j : Nat} (h : j ≠ i) (v : Pipe) : getPipe (putPipe i v s) j = getPipe s j := by
  unfold getPipe putPipe
  simp [tabGet_tabSet_ne h]

@[simp] theorem getPendant_putPendant_self (i : Nat) (v : Pendant) : getPendant (putPendant i v s) i = v := by
  unfold getPendant putPendant
  simp [tabGet_tabSet_self]

@[simp] theorem getPendant_putPendant_ne {i j : Nat} (h : j ≠ i) (v : Pendant) : getPendant (putPendant i v s) j = getPendant s j := by
  unfold getPendant putPendant
  simp [tabGet_tabSet_ne h]

@[simp] theorem getQ_putQ_self (n q : Nat) (v : Queue) : getQ (putQ n q v s) n q = v := by
  unfold getQ putQ
  simp [tabGet_tabSet_self]

@[simp] theorem getQ_putInst (n x y : Nat) (v : Inst) : getQ (putInst n v s) x y = getQ s x y := rfl
@[simp] theorem getInst_putQ (n q x : Nat) (v : Queue) : getInst (putQ n q v s) x = getInst s x := rfl

@[simp] theorem getMacro_putMacro_self (i m : Nat) (v : Macro) : getMacro (putMacro i m v s) i m = v := by
  unfold getMacro putMacro
  simp [tabGet_tabSet_self]

@[simp] theorem getMacro_putCt (i x y : Nat) (v : CimTile) : getMacro (putCt i v s) x y = getMacro s x y := rfl
@[simp] theorem getCt_putMacro (i m x : Nat) (v : Macro) : getCt (putMacro i m v s) x = getCt s x := rfl

end Sys2Proof.Machine
end

