-- ==== Sys2Proof/Laws/Alarm.lean ====
section
/-! SUPPORT. What an alarm does, said once: `raiseAlarm_taken`. -/

namespace Sys2Proof.Machine

theorem odGet_odPut (a b : Nat) (s : State) (x : Nat) : odGet (odPut a b s) x = if x = a then b else odGet s x := by
  by_cases e : x = a
  · simp [e]
  · simp [e, odGet_odPut_ne s e]

theorem odUse_odPut_ne {k x : Nat} (h : x ≠ k) (v : Nat) (s : State) : odUse (odPut k v s) x = odUse s x := by
  unfold odUse
  simp [odGet_odPut_ne s h]

theorem alarmSort_one : ∀ n ∈ alarmNumbers, alarmSort [n] = [n] := by decide

theorem historyPush_odGet (v : Nat) (s : State) (k : Nat) : odGet (historyPush v s) k =
    if k = odKey 0x1003 1 then v else if k = odKey 0x1003 0 then min 8 (odGet s (odKey 0x1003 0) + 1)
    else if odKey 0x1003 2 ≤ k ∧ k ≤ odKey 0x1003 8 then odGet s (k - 1) else odGet s k := by
  unfold historyPush
  simp only [List.range, List.range.loop, List.map, List.zip, List.zipWith, List.foldl, odKey, odGet_odPut]
  by_cases h : 1049344 ≤ k ∧ k ≤ 1049352
  · have : k = 1049344 ∨ k = 1049345 ∨ k = 1049346 ∨ k = 1049347 ∨ k = 1049348 ∨ k = 1049349 ∨ k = 1049350 ∨ k = 1049351 ∨ k = 1049352 := by
      omega
    rcases this with rfl | rfl | rfl | rfl | rfl | rfl | rfl | rfl | rfl <;> simp
  · have e : ∀ a, 1049344 ≤ a → a ≤ 1049352 → k ≠ a := fun a _ _ => by omega
    have f : ¬ (1049346 ≤ k ∧ k ≤ 1049352) := by omega
    simp [e, f]

/-- The reader of an entry in force sees no write to the error history or the counts. -/
theorem historyPush_odUse (v : Nat) (s : State) {k : Nat} (h : k < odKey 0x1003 0 ∨ odKey 0x1003 8 < k) :
    odUse (historyPush v s) k = odUse s k := by
  have q : (historyPush v s).odStart = s.odStart :=
    (historyPush_keep (M := fun p => p ≠ .od) (s := s) (z := s) (by simp) v (Keep.refl _)).same .odStart nofun
  have e := historyPush_odGet v s k
  have h0 : k ≠ odKey 0x1003 0 := by simp only [odKey] at *; omega
  have h1 : k ≠ odKey 0x1003 1 := by simp only [odKey] at *; omega
  have h2 : ¬ (odKey 0x1003 2 ≤ k ∧ k ≤ odKey 0x1003 8) := by simp only [odKey] at *; omega
  rw [if_neg h1, if_neg h0, if_neg h2] at e
  unfold odUse
  rw [e, q]

theorem alarmRecord_odUse (n : Nat) (s : State) {k : Nat} (h : odKey 0x1003 8 < k) (h2 : k ≠ odKey 0x2200 0x0E) :
    odUse (alarmRecord n s) k = odUse s k := by
  unfold alarmRecord odCount
  show odUse (odPut _ _ _) k = _
  rw [odUse_odPut_ne h2, historyPush_odUse _ _ (Or.inr h)]

theorem alarmRecord_class (n m : Nat) (s : State) : alarmClass (alarmRecord n s) m = alarmClass s m := by
  unfold alarmClass
  exact alarmRecord_odUse n s (by simp only [odKey]; omega) (by simp only [odKey]; omega)

theorem alarmRecord_keeps (n : Nat) (s : State) : (alarmRecord n s).dev = s.dev ∧ (alarmRecord n s).start = s.start ∧
    (alarmRecord n s).pwr = s.pwr ∧ (alarmRecord n s).sdg = { s.sdg with alarmMap := s.sdg.alarmMap ||| 2 ^ n, lastAlarm := n } := by
  have k := alarmRecord_keep (M := fun p => p ≠ .od ∧ p ≠ .sdg) (s := s) (z := s) (by simp) (by simp) n (Keep.refl _)
  refine ⟨k.same .dev (by simp), k.same .start (by simp), k.same .pwr (by simp), ?_⟩
  have e : ∀ v t, (odCount (odKey 0x2200 0x0E) 1 (historyPush v t)).sdg = t.sdg := fun v t => by
    have := (historyPush_keep (M := fun p => p ≠ .od) (s := t) (z := t) (by simp) v (Keep.refl _)).same .sdg nofun
    exact this
  unfold alarmRecord
  simp only [e]

/-- The parts of the state that the reaction to an alarm reads. -/
theorem raiseAlarm_eq {n : Nat} {s : State} (hn : n ∈ alarmNumbers) (h : alarmed s = true) :
    raiseAlarm n s = if alarmClass s n = 0 then alarmRecord n s
      else alarmReact [n] (frzTrigger 2 (alarmFirst n (alarmRecord n s))) := by
  unfold raiseAlarm raiseAll
  have h' : (decide (s.dev = .off) || decide (s.dev = .failed) || s.sdg.clkStopped) = false := by simpa [alarmed] using h
  simp only [alarmSort_one n hn]
  simp only [alarmed, Bool.not_eq_true', Bool.or_eq_false_iff, decide_eq_false_iff_not] at h
  rw [if_neg (by simp [h])]
  by_cases e : alarmClass s n = 0 <;> simp [e]

/-- Entry to a device state that is not OPERATIONAL or BRACE: the pins go low, the entry time is stamped, nothing else of the fault
contract moves. -/
theorem setDev_down {d : Dev} {s : State} (hd : devUp d = false) (h1 : s.dev ≠ d) (h2 : s.dev ≠ .failed) :
    (setDev d s).dev = d ∧ (setDev d s).sdg = { s.sdg with faultN := false, aliveA := false, aliveB := false } ∧
    ∀ k, k ≠ odKey 0x2000 2 → odGet (setDev d s) k = odGet s k := by
  have p : (driveDev d s).dev = d ∧ (driveDev d s).sdg = { s.sdg with faultN := false, aliveA := false, aliveB := false } := by
    unfold driveDev setPins
    simp only [hd, Bool.false_and]
    split
    · rename_i e
      obtain ⟨e1, e2, e3⟩ := e
      refine ⟨rfl, ?_⟩
      show s.sdg = { s.sdg with faultN := false, aliveA := false, aliveB := false }
      generalize s.sdg = g at *
      cases g
      simp_all
    · exact ⟨rfl, rfl⟩
  have o : (driveDev d s).od = s.od :=
    (driveDev_keep (M := fun x => x = .od) (s := s) (z := s) (by simp) (by simp) (by simp) d (Keep.refl _)).same .od rfl
  unfold setDev
  rw [if_neg (by simp [h1, h2])]
  have k := safeMsg_keep (M := fun x => x ≠ .regs) (by simp) 0 (sendMsg_keep (by simp) 1811
    (Keep.refl (odPut (odKey 0x2000 2) (gnow s) (driveDev d s))))
  refine ⟨(k.same .dev nofun).trans p.1, (k.same .sdg nofun).trans p.2, fun x hx => ?_⟩
  have e : ∀ t u : State, t.od = u.od → odGet t x = odGet u x := fun t u h => by unfold odGet; rw [h]
  rw [e _ _ (k.same .od nofun), odGet_odPut_ne _ hx, e _ _ o]

theorem endBrace_od (s : State) {k : Nat} (h : k ≠ odKey 0x2100 8) : odGet (endBrace s) k = odGet s k := by
  unfold endBrace odMax
  split
  · rw [odGet_odPut_ne _ h]; rfl
  · rfl

theorem ssRequest_sdg (b : Nat) (s : State) : ∃ f l x, (ssRequest b s).sdg = { s.sdg with ssFlight := f, ssLast := l, ssBound := x } := by
  unfold ssRequest ssStart
  split
  · split <;> exact ⟨_, _, _, rfl⟩
  · exact ⟨_, _, _, rfl⟩

/-- Entry to SAFE_HOLD from OPERATIONAL or BRACE (R170, R175). -/
theorem enterSafeHold_run {s : State} (r : Bool) (h : isRunning s = true) :
    (enterSafeHold r s).dev = .safeHold ∧
    (∃ f l x, (enterSafeHold r s).sdg = { s.sdg with
      restartPending := r, holdAt := some s.now, ackFall := none, ackMissed := false, faultN := false, aliveA := false, aliveB := false,
      ssFlight := f, ssLast := l, ssBound := x }) ∧
    ∀ k, k ≠ odKey 0x2000 2 → k ≠ odKey 0x2100 8 → odGet (enterSafeHold r s) k = odGet s k := by
  unfold enterSafeHold
  generalize hu : ({ s with sdg := { s.sdg with restartPending := r, holdAt := some s.now, ackFall := none, ackMissed := false } } : State) = u
  have hd : u.dev = s.dev := by rw [← hu]
  have e := endBrace_keep (M := fun p => p ≠ .od ∧ p ≠ .pwr) (s := u) (z := u) (by simp) (by simp) (Keep.refl _)
  have hd' : (endBrace u).dev = s.dev := (e.same .dev (by simp)).trans hd
  have hs : (endBrace u).sdg = u.sdg := e.same .sdg (by simp)
  have hr : s.dev = .operational ∨ s.dev = .brace := by simpa [isRunning] using h
  obtain ⟨a, b, c⟩ := setDev_down (d := .safeHold) (s := endBrace u) rfl (by rw [hd']; rcases hr with x | x <;> simp [x])
    (by rw [hd']; rcases hr with x | x <;> simp [x])
  generalize setDev .safeHold (endBrace u) = v at *
  have k : ∀ w : State, ssRequest (ms 2) (packSafeHold v) = w → w.dev = v.dev ∧ w.od = v.od := fun w hw => by
    have := ssRequest_keep (M := fun p => p ≠ .sdg ∧ p ≠ .pack) (by simp) (ms 2) (s := packSafeHold v) (z := v)
      (packSafeHold_keep (by simp) (Keep.refl _))
    rw [hw] at this
    exact ⟨this.same .dev (by simp), this.same .od (by simp)⟩
  obtain ⟨kd, ko⟩ := k _ rfl
  refine ⟨kd.trans a, ?_, fun x h1 h2 => ?_⟩
  · obtain ⟨f, l, y, q⟩ := ssRequest_sdg (ms 2) (packSafeHold v)
    refine ⟨f, l, y, ?_⟩
    rw [q]
    have : (packSafeHold v).sdg = v.sdg := rfl
    rw [this, b, hs, ← hu]
  · have : ∀ t w : State, t.od = w.od → odGet t x = odGet w x := fun t w h => by unfold odGet; rw [h]
    rw [this _ _ ko, c x h1, endBrace_od _ h2, ← hu]
    rfl

theorem RegsOnly.refl (l : List Nat) (s : State) : RegsOnly l s s := fun _ _ => rfl

theorem RegsOnly.trans {l : List Nat} {s t u : State} (h : RegsOnly l s t) (k : RegsOnly l t u) : RegsOnly l s u :=
  fun a m => (k a m).trans (h a m)

theorem RegsOnly.mono {l m : List Nat} {s t : State} (h : RegsOnly l s t) (k : ∀ a, a ∈ l → a ∈ m) : RegsOnly m s t :=
  fun a n => h a (fun x => n (k a x))

theorem RegsOnly.of {l : List Nat} {s t : State} (h : t.regs = s.regs) : RegsOnly l s t := fun a _ => by unfold regRaw; rw [h]

theorem OdOnly.refl (l : List Nat) (s : State) : OdOnly l s s := fun _ _ => rfl

theorem OdOnly.trans {l : List Nat} {s t u : State} (h : OdOnly l s t) (k : OdOnly l t u) : OdOnly l s u :=
  fun a m => (k a m).trans (h a m)

theorem OdOnly.mono {l m : List Nat} {s t : State} (h : OdOnly l s t) (k : ∀ a, a ∈ l → a ∈ m) : OdOnly m s t :=
  fun a n => h a (fun x => n (k a x))

theorem OdOnly.of {l : List Nat} {s t : State} (h : t.od = s.od) : OdOnly l s t := fun a _ => by unfold odGet; rw [h]

theorem OdOnly.put {l : List Nat} {s t : State} {k v : Nat} (h : OdOnly l s t) (m : k ∈ l) : OdOnly l s (odPut k v t) :=
  fun a n => (odGet_odPut_ne t (fun e => n (by rw [e]; exact m)) v).trans (h a n)

theorem RegsOnly.put {l : List Nat} {s t : State} {k v : Nat} (h : RegsOnly l s t) (m : k ∈ l) : RegsOnly l s (regPut k v t) :=
  fun a n => (regRaw_regPut_ne t (fun e => n (by rw [e]; exact m)) v).trans (h a n)

theorem routeEvent_regs (b : Bool) (a : Nat) (s : State) : RegsOnly [a] s (routeEvent b a s) := by
  unfold routeEvent
  intro x hx
  dsimp only
  split
  · rfl
  · exact regRaw_regPut_ne s (by simpa using hx) _

/-- An event of a safety source changes at most its own route. -/
theorem safeMsg_regs (e : Nat) (s : State) : RegsOnly [safeRouteAddr e] s (safeMsg e s) := routeEvent_regs _ _ _

/-- An event of a main source changes at most its own route and the taps. -/
theorem sendMsg_regs (src : Nat) (s : State) : RegsOnly (msgRegs src) s (sendMsg src s) := by
  unfold sendMsg
  have h0 : RegsOnly (msgRegs src) s (routeEvent false (routeAddr src) s) :=
    (routeEvent_regs _ _ _).mono (fun a h => by simp only [List.mem_singleton] at h; subst h; exact List.mem_cons_self)
  have ht : ∀ e ∈ tapsOf s src, e < 256 := fun e he => by
    simp only [tapsOf, List.mem_filter, List.mem_map, List.mem_range] at he
    obtain ⟨⟨x, hx, rfl⟩, _⟩ := he
    omega
  generalize tapsOf s src = l at *
  generalize routeEvent false (routeAddr src) s = t at *
  induction l generalizing t with
  | nil => exact h0
  | cons e l ih =>
    refine ih (fun x hx => ht x (List.mem_cons_of_mem _ hx)) (safeMsg e t) (h0.trans ((safeMsg_regs e t).mono fun a h => ?_))
    simp only [List.mem_singleton] at h
    subst h
    exact List.mem_cons_of_mem _ (List.mem_map.2 ⟨e, List.mem_range.2 (ht e List.mem_cons_self), rfl⟩)

/-- A change of state changes at most the routes of its messages. -/
theorem setDev_regs (d : Dev) (s : State) : RegsOnly (msgRegs 1811) s (setDev d s) := by
  unfold setDev
  split
  · exact RegsOnly.refl _ _
  · have h1 : RegsOnly (msgRegs 1811) s (odPut (odKey 0x2000 2) (gnow s) (driveDev d s)) :=
      RegsOnly.of ((odPut_keep (M := fun p => p = .regs) (by simp) _ _ (driveDev_keep (by simp) (by simp) (by simp) d (Keep.refl s))).same .regs rfl)
    refine (h1.trans (sendMsg_regs 1811 _)).trans ((safeMsg_regs 0 _).mono fun a h => ?_)
    simp only [List.mem_singleton] at h
    subst h
    exact List.mem_cons_of_mem _ (List.mem_map.2 ⟨0, by simp, rfl⟩)

theorem setDev_od (d : Dev) (s : State) : OdOnly [odKey 0x2000 2] s (setDev d s) := by
  unfold setDev
  split
  · exact OdOnly.refl _ _
  · have o : (driveDev d s).od = s.od :=
      (driveDev_keep (M := fun x => x = .od) (s := s) (z := s) (by simp) (by simp) (by simp) d (Keep.refl _)).same .od rfl
    have h1 : OdOnly [odKey 0x2000 2] s (odPut (odKey 0x2000 2) (gnow s) (driveDev d s)) := (OdOnly.of o).put (by simp)
    exact h1.trans (OdOnly.of ((safeMsg_keep (M := fun x => x = .od) (by simp) 0 (sendMsg_keep (by simp) 1811 (Keep.refl _))).same .od rfl))

/-- Entry to SAFE_HOLD changes few entries and registers. -/
theorem enterSafeHold_only (r : Bool) (s : State) : RegsOnly (msgRegs 1811) s (enterSafeHold r s) ∧
    OdOnly [odKey 0x2000 2, odKey 0x2100 8] s (enterSafeHold r s) := by
  unfold enterSafeHold
  generalize hu : ({ s with sdg := { s.sdg with restartPending := r, holdAt := some s.now, ackFall := none, ackMissed := false } } : State) = u
  have u1 : u.regs = s.regs := by rw [← hu]
  have u2 : u.od = s.od := by rw [← hu]
  have e1 : RegsOnly (msgRegs 1811) s (endBrace u) := RegsOnly.of
    (((endBrace_keep (M := fun p => p = .regs) (by simp) (by simp) (Keep.refl u)).same .regs rfl).trans u1)
  have e2 : OdOnly [odKey 0x2000 2, odKey 0x2100 8] s (endBrace u) := fun k h => by
    rw [endBrace_od u (by simp at h; exact h.2)]
    exact OdOnly.of u2 k h
  have k := ssRequest_keep (M := fun p => p ≠ .sdg ∧ p ≠ .pack) (by simp) (ms 2)
    (packSafeHold_keep (M := fun p => p ≠ .sdg ∧ p ≠ .pack) (by simp) (Keep.refl (setDev .safeHold (endBrace u))))
  exact ⟨(e1.trans (setDev_regs _ _)).trans (RegsOnly.of (k.same .regs (by simp))),
    (e2.trans ((setDev_od _ _).mono (by simp))).trans (OdOnly.of (k.same .od (by simp)))⟩

/-- What a freeze-frame trigger leaves alone. -/
theorem frzTrigger_leaves (n : Nat) (s : State) : (frzTrigger n s).dev = s.dev ∧ (frzTrigger n s).sdg = s.sdg ∧
    (frzTrigger n s).odStart = s.odStart ∧
    ∀ k, k ≠ odKey 0x2300 6 → k ≠ odKey 0x2300 7 → odGet (frzTrigger n s) k = odGet s k := by
  have k := frzTrigger_keep (M := fun p => p ≠ .regs ∧ p ≠ .od ∧ p ≠ .frz) (s := s) (z := s) (by simp) (by simp) (by simp) n (Keep.refl _)
  refine ⟨k.same .dev (by simp), k.same .sdg (by simp), k.same .odStart (by simp), fun x h6 h7 => ?_⟩
  unfold frzTrigger frzAccept odCount
  split
  · split
    · rfl
    · split
      · rw [odGet_odPut_ne _ h6]; rfl
      · rw [odGet_odPut_ne _ h7]; rfl
  · rfl

theorem alarmFirst_leaves (n : Nat) (s : State) : (alarmFirst n s).dev = s.dev ∧ (alarmFirst n s).odStart = s.odStart ∧
    (∀ k, k ≠ odKey 0x2200 0x10 → k ≠ odKey 0x2200 0x0F → odGet (alarmFirst n s) k = odGet s k) ∧
    (alarmFirst n s).sdg = if s.sdg.firstAlarm ≠ 0 then s.sdg else { s.sdg with firstAlarm := n, firstClass := alarmClass s n } := by
  unfold alarmFirst
  split
  · exact ⟨rfl, rfl, fun _ _ _ => rfl, rfl⟩
  · refine ⟨rfl, rfl, fun k h1 h2 => ?_, rfl⟩
    rw [odGet_odPut_ne _ h1, odGet_odPut_ne _ h2]
    rfl

/-- Once an alarm is recorded and the first-alarm record and the freeze-frame trigger are made, the reaction starts from this state. -/
theorem alarmReady {n : Nat} {s : State} :
    let r := frzTrigger 2 (alarmFirst n (alarmRecord n s))
    r.dev = s.dev ∧ (∀ k, odKey 0x1003 8 < k → k ≠ odKey 0x2200 0x0E → k ≠ odKey 0x2200 0x0F → k ≠ odKey 0x2200 0x10 →
      k ≠ odKey 0x2300 6 → k ≠ odKey 0x2300 7 → odUse r k = odUse s k) ∧
    (∀ k, k ≠ odKey 0x2200 0x0F → k ≠ odKey 0x2200 0x10 → k ≠ odKey 0x2300 6 → k ≠ odKey 0x2300 7 →
      odGet r k = odGet (alarmRecord n s) k) ∧
    ∃ a c, r.sdg = { s.sdg with alarmMap := s.sdg.alarmMap ||| 2 ^ n, lastAlarm := n, firstAlarm := a, firstClass := c } ∧
      (s.sdg.firstAlarm = 0 → a = n ∧ c = alarmClass s n) ∧ (s.sdg.firstAlarm ≠ 0 → a = s.sdg.firstAlarm ∧ c = s.sdg.firstClass) := by
  obtain ⟨r1, r2, r3, r4⟩ := alarmRecord_keeps n s
  obtain ⟨f1, f2, f3, f4⟩ := alarmFirst_leaves n (alarmRecord n s)
  obtain ⟨t1, t2, t3, t4⟩ := frzTrigger_leaves 2 (alarmFirst n (alarmRecord n s))
  have g : ∀ k, k ≠ odKey 0x2200 0x0F → k ≠ odKey 0x2200 0x10 → k ≠ odKey 0x2300 6 → k ≠ odKey 0x2300 7 →
      odGet (frzTrigger 2 (alarmFirst n (alarmRecord n s))) k = odGet (alarmRecord n s) k :=
    fun k h1 h2 h3 h4 => (t4 k h3 h4).trans (f3 k h2 h1)
  refine ⟨t1.trans (f1.trans r1), fun k h0 h1 h2 h3 h4 h5 => ?_, g, ?_⟩
  · have := alarmRecord_odUse n s h0 h1
    rw [← this]
    unfold odUse
    rw [t3, f2, g k h2 h3 h4 h5]
  · rw [t2, f4, r4, alarmRecord_class]
    by_cases e : s.sdg.firstAlarm = 0
    · exact ⟨_, _, by simp [e], fun _ => ⟨rfl, rfl⟩, fun h => absurd e h⟩
    · exact ⟨_, _, by simp [e], fun h => absurd h e, fun _ => ⟨rfl, rfl⟩⟩

theorem alarm_bounds : ∀ n ∈ alarmNumbers, n < 256 := by decide

theorem alarmRecord_odGet (n : Nat) (s : State) (k : Nat) : odGet (alarmRecord n s) k =
    if k = odKey 0x2200 0x0E then satAdd (odGet s (odKey 0x2200 0x0E)) 1 0xFFFF
    else if k = odKey 0x1003 1 then n * 0x10000 + emergencyCode (alarmClass s n)
    else if k = odKey 0x1003 0 then min 8 (odGet s (odKey 0x1003 0) + 1)
    else if odKey 0x1003 2 ≤ k ∧ k ≤ odKey 0x1003 8 then odGet s (k - 1) else odGet s k := by
  have c : odCap (odKey 0x2200 0x0E) = 0xFFFF := by decide
  show odGet (odCount (odKey 0x2200 0x0E) 1 (historyPush (n * 0x10000 + emergencyCode (alarmClass s n)) s)) k = _
  unfold odCount
  rw [odGet_odPut, c, historyPush_odGet, historyPush_odGet]
  simp only [odKey]
  congr 1

/-- What raising one alarm does: all of R99, R168, R170, R173 and R174 for it. -/
theorem raiseAlarm_taken {n : Nat} {s : State} (hn : n ∈ alarmNumbers) (h : alarmed s = true) : AlarmTaken n s (raiseAlarm n s) := by
  have hb := alarm_bounds n hn
  rw [raiseAlarm_eq hn h]
  obtain ⟨r1, r2, r3, r4⟩ := alarmRecord_keeps n s
  have o := alarmRecord_odGet n s
  have oo : odGet (alarmRecord n s) (odKey 0x1003 1) = n * 0x10000 + emergencyCode (alarmClass s n) ∧
      (∀ i, 1 ≤ i → i ≤ 7 → odGet (alarmRecord n s) (odKey 0x1003 (i + 1)) = odGet s (odKey 0x1003 i)) ∧
      odGet (alarmRecord n s) (odKey 0x1003 0) = min 8 (odGet s (odKey 0x1003 0) + 1) ∧
      odGet (alarmRecord n s) (odKey 0x2200 0x0E) = satAdd (odGet s (odKey 0x2200 0x0E)) 1 0xFFFF := by
    refine ⟨by rw [o]; rfl, fun i h1 h7 => ?_, by rw [o]; rfl, by rw [o]; rfl⟩
    have a1 : odKey 0x1003 (i + 1) ≠ odKey 0x2200 0x0E := by simp only [odKey]; omega
    have a2 : odKey 0x1003 (i + 1) ≠ odKey 0x1003 1 := by simp only [odKey]; omega
    have a3 : odKey 0x1003 (i + 1) ≠ odKey 0x1003 0 := by simp only [odKey]; omega
    have a4 : odKey 0x1003 2 ≤ odKey 0x1003 (i + 1) ∧ odKey 0x1003 (i + 1) ≤ odKey 0x1003 8 := by simp only [odKey]; omega
    rw [o, if_neg a1, if_neg a2, if_neg a3, if_pos a4]
    rfl
  obtain ⟨o1, o2, o3, o4⟩ := oo
  split
  · rename_i e
    refine ⟨by rw [r4], by rw [r4], o1, o2, o3, o4, fun _ => ⟨r1, by rw [r4]⟩, fun x => absurd e x, fun _ => by rw [r4]; exact ⟨rfl, rfl⟩,
      fun x => absurd e x, fun _ => r1, fun x => absurd e x⟩
  · rename_i e
    obtain ⟨d1, u1, g1, a, c, w1, w2, w3⟩ := alarmReady (n := n) (s := s)
    generalize hr : frzTrigger 2 (alarmFirst n (alarmRecord n s)) = r at *
    have p1 : odGet r (odKey 0x1003 1) = n * 0x10000 + emergencyCode (alarmClass s n) := by rw [g1 _ (by decide) (by decide) (by decide) (by decide)]; exact o1
    have p3 : odGet r (odKey 0x1003 0) = min 8 (odGet s (odKey 0x1003 0) + 1) := by rw [g1 _ (by decide) (by decide) (by decide) (by decide)]; exact o3
    have p4 : odGet r (odKey 0x2200 0x0E) = satAdd (odGet s (odKey 0x2200 0x0E)) 1 0xFFFF := by rw [g1 _ (by decide) (by decide) (by decide) (by decide)]; exact o4
    have p2 : ∀ i, 1 ≤ i → i ≤ 7 → odGet r (odKey 0x1003 (i + 1)) = odGet s (odKey 0x1003 i) := fun i h1 h7 => by
      rw [g1 _ (by simp only [odKey]; omega) (by simp only [odKey]; omega) (by simp only [odKey]; omega) (by simp only [odKey]; omega)]
      exact o2 i h1 h7
    have cl : alarmClass r n = alarmClass s n := u1 _ (by simp only [odKey]; omega) (by simp only [odKey]; omega) (by simp only [odKey]; omega)
      (by simp only [odKey]; omega) (by simp only [odKey]; omega) (by simp only [odKey]; omega)
    have hh : alarmClass s n ≤ 7 → reactsHold r n = reactsHold s n := fun x => by
      unfold reactsHold
      rw [cl, u1 _ (by simp only [odKey]; omega) (by simp only [odKey]; omega) (by simp only [odKey]; omega) (by simp only [odKey]; omega)
        (by simp only [odKey]; omega) (by simp only [odKey]; omega)]
    have f0 : s.sdg.firstAlarm = 0 → r.sdg.firstAlarm = n ∧ r.sdg.firstClass = alarmClass s n := fun x => by rw [w1]; exact w2 x
    have f1 : s.sdg.firstAlarm ≠ 0 → r.sdg.firstAlarm = s.sdg.firstAlarm ∧ r.sdg.firstClass = s.sdg.firstClass := fun x => by rw [w1]; exact w3 x
    unfold alarmReact
    simp only [List.any_cons, List.any_nil, Bool.or_false]
    by_cases hrun : isRunning s = true
    · have hrr : isRunning r = true := by unfold isRunning at *; rw [d1]; exact hrun
      rw [if_pos hrr]
      generalize hv : ({ r with start := { r.start with cause := if reactsHold r n then r.start.cause else 5 } } : State) = v
      have v1 : v.sdg = r.sdg := by rw [← hv]
      have v2 : v.od = r.od := by rw [← hv]
      have v3 : isRunning v = true := by rw [← hv]; exact hrr
      have vo : ∀ k, odGet v k = odGet r k := fun k => by unfold odGet; rw [v2]
      obtain ⟨x1, ⟨y1, y2, y3, x2⟩, x3⟩ := enterSafeHold_run (s := v) (!reactsHold r n) v3
      refine ⟨by rw [x2, v1, w1], by rw [x2, v1, w1], by rw [x3 _ (by decide) (by decide), vo, p1], fun i h1 h7 => ?_,
        by rw [x3 _ (by decide) (by decide), vo, p3], by rw [x3 _ (by decide) (by decide), vo, p4], fun x => absurd x e,
        fun _ x => by rw [x2, v1]; exact f0 x, fun x => by rw [x2, v1]; exact f1 x,
        fun _ h7 _ => ⟨x1, by rw [x2, hh h7], by rw [x2]; rfl⟩, fun x => by simp [hrun] at x,
        fun _ _ x => by simp [isRunning, x] at hrun⟩
      rw [x3 _ (by simp only [odKey]; omega) (by simp only [odKey]; omega), vo, p2 i h1 h7]
    · have hrr : isRunning r = false := by unfold isRunning at *; rw [d1]; simpa using hrun
      rw [if_neg (by simp [hrr])]
      by_cases hs : r.dev = .safeHold
      · rw [if_pos hs]
        generalize hv : (if reactsHold r n then { r with sdg := { r.sdg with restartPending := false } } else r : State) = v
        have v1 : v.sdg = { r.sdg with restartPending := r.sdg.restartPending && !reactsHold r n } := by
          rw [← hv]
          split
          · rename_i q; simp [q]
          · rename_i q; simp [q]
        have v2 : v.od = r.od := by rw [← hv]; split <;> rfl
        have v3 : v.dev = r.dev := by rw [← hv]; split <;> rfl
        have k := ssRequest_keep (M := fun p => p ≠ .sdg) (by simp) (ms 2) (Keep.refl v)
        have kd : (ssRequest (ms 2) v).dev = s.dev := (k.same .dev nofun).trans (v3.trans d1)
        have ko : ∀ x, odGet (ssRequest (ms 2) v) x = odGet r x := fun x => by
          unfold odGet
          rw [show (ssRequest (ms 2) v).od = v.od from k.same .od nofun, v2]
        obtain ⟨y1, y2, y3, x2⟩ := ssRequest_sdg (ms 2) v
        refine ⟨by rw [x2, v1, w1], by rw [x2, v1, w1], by rw [ko, p1], fun i h1 h7 => by rw [ko, p2 i h1 h7], by rw [ko, p3], by rw [ko, p4],
          fun x => absurd x e, fun _ x => by rw [x2, v1]; exact f0 x, fun x => by rw [x2, v1]; exact f1 x, fun _ _ x => absurd x hrun,
          fun _ => kd, fun _ h7 _ => by rw [x2, v1, hh h7, w1]⟩
      · rw [if_neg hs]
        refine ⟨by rw [w1], by rw [w1], p1, p2, p3, p4, fun x => absurd x e, fun _ x => f0 x, f1, fun _ _ x => absurd x hrun,
          fun _ => d1, fun _ _ x => absurd (d1.trans x) hs⟩

/-- What happens before and after an alarm is taken, outside what it is about, does not matter. -/
theorem AlarmTaken.congr {n : Nat} {s t u v : State} (h : AlarmTaken n s t)
    (mu : u.sdg.alarmMap = s.sdg.alarmMap) (fu : u.sdg.firstAlarm = s.sdg.firstAlarm) (gu : u.sdg.firstClass = s.sdg.firstClass)
    (pu : u.sdg.restartPending = s.sdg.restartPending) (du : u.dev = s.dev)
    (cu : alarmClass u n = alarmClass s n) (ru : alarmClass s n ≤ 7 → reactsHold u n = reactsHold s n)
    (ou : ∀ k, k ∈ alarmKeys → odGet u k = odGet s k)
    (sv : v.sdg = t.sdg) (dv : v.dev = t.dev) (ov : ∀ k, k ∈ alarmKeys → odGet v k = odGet t k) : AlarmTaken n u v := by
  have hi : ∀ i, i ≤ 8 → odKey 0x1003 i ∈ alarmKeys := fun i h =>
    List.mem_append_left _ (List.mem_map.2 ⟨i, List.mem_range.2 (Nat.lt_succ_of_le h), rfl⟩)
  have hc : odKey 0x2200 0x0E ∈ alarmKeys := List.mem_append_right _ List.mem_cons_self
  have ir : isRunning u = isRunning s := by unfold isRunning; rw [du]
  refine ⟨by rw [sv, mu]; exact h.map, by rw [sv]; exact h.last, by rw [ov _ (hi 1 (by decide)), cu]; exact h.newest,
    fun i h1 h7 => by rw [ov _ (hi _ (Nat.succ_le_succ h7)), ou _ (hi i (Nat.le_succ_of_le h7))]; exact h.older i h1 h7,
    by rw [ov _ (hi 0 (by decide)), ou _ (hi 0 (by decide))]; exact h.number, by rw [ov _ hc, ou _ hc]; exact h.count,
    fun e => by rw [cu] at e; rw [dv, du, sv, fu]; exact h.note e, fun e x => by rw [cu] at *; rw [fu] at x; rw [sv]; exact h.first e x,
    fun x => by rw [fu, gu] at *; rw [sv]; exact h.kept x, fun e e7 x => ?_, fun x => by rw [dv, du]; exact h.stay (ir ▸ x), fun e e7 x => ?_⟩
  · rw [cu] at e e7
    rw [dv, sv, ru e7]
    exact h.hold e e7 (ir ▸ x)
  · rw [cu] at e e7
    rw [sv, pu, ru e7]
    exact h.cancel e e7 (du ▸ x)

/-- An output after an alarm. -/
theorem AlarmTaken.emit {n : Nat} {s t : State} (h : AlarmTaken n s t) (o : Output) : AlarmTaken n s (emit o t) :=
  h.congr rfl rfl rfl rfl rfl rfl (fun _ => rfl) (fun _ _ => rfl) rfl rfl (fun _ _ => rfl)

/-- The entry in force of a class, and of its reaction, does not depend on parts that are the same. -/
theorem alarmClass_of {s u : State} (h : u.od = s.od) (k : u.odStart = s.odStart) (n : Nat) :
    alarmClass u n = alarmClass s n ∧ reactsHold u n = reactsHold s n := by
  have e : ∀ x, odUse u x = odUse s x := fun x => by unfold odUse odGet; rw [h, k]
  unfold reactsHold alarmClass
  simp only [e, and_self]

theorem mem_alarmKeys (k : Nat) : k ∈ alarmKeys ↔ (odKey 0x1003 0 ≤ k ∧ k ≤ odKey 0x1003 8) ∨ k = odKey 0x2200 0x0E ∨ k = odKey 0x2200 0x0F ∨
    k = odKey 0x2200 0x10 ∨ k = odKey 0x2300 6 ∨ k = odKey 0x2300 7 ∨ k = odKey 0x2000 2 ∨ k = odKey 0x2100 8 := by
  simp only [alarmKeys, List.range, List.range.loop, List.map, List.cons_append, List.nil_append, List.mem_cons, List.not_mem_nil, or_false, odKey]
  omega

/-- An alarm raised in a state that differs from `s` in nothing an alarm is about. -/
theorem raiseAlarm_after {n : Nat} {s u : State} (hn : n ∈ alarmNumbers) (h : alarmed u = true)
    (mu : u.sdg.alarmMap = s.sdg.alarmMap) (fu : u.sdg.firstAlarm = s.sdg.firstAlarm) (gu : u.sdg.firstClass = s.sdg.firstClass)
    (pu : u.sdg.restartPending = s.sdg.restartPending) (du : u.dev = s.dev) (ou : u.od = s.od) (su : u.odStart = s.odStart) :
    AlarmTaken n s (raiseAlarm n u) := by
  obtain ⟨c, r⟩ := alarmClass_of ou su n
  exact (raiseAlarm_taken hn h).congr mu.symm fu.symm gu.symm pu.symm du.symm c.symm (fun _ => r.symm)
    (fun k _ => by unfold odGet; rw [ou]) rfl rfl (fun _ _ => rfl)

/-- The reaction changes at most the entries and registers listed for an alarm. -/
theorem alarmReact_only (l : List Nat) (w : State) : OdOnly alarmKeys w (alarmReact l w) ∧ RegsOnly alarmRegs w (alarmReact l w) := by
  have mr : ∀ a, a ∈ msgRegs 1811 → a ∈ alarmRegs := fun a h => List.mem_cons_of_mem _ h
  have mo : ∀ k, k ∈ [odKey 0x2000 2, odKey 0x2100 8] → k ∈ alarmKeys := fun k h => by
    rw [mem_alarmKeys]; simp at h; rcases h with h | h <;> simp [h]
  have e : ∀ r x, x.od = w.od → x.regs = w.regs → OdOnly alarmKeys w (enterSafeHold r x) ∧ RegsOnly alarmRegs w (enterSafeHold r x) :=
    fun r x h1 h2 => ⟨(OdOnly.of h1).trans ((enterSafeHold_only r x).2.mono mo), (RegsOnly.of h2).trans ((enterSafeHold_only r x).1.mono mr)⟩
  have k : ∀ x, x.od = w.od → x.regs = w.regs → OdOnly alarmKeys w (ssRequest (ms 2) x) ∧ RegsOnly alarmRegs w (ssRequest (ms 2) x) :=
    fun x h1 h2 =>
      ⟨OdOnly.of (((ssRequest_keep (M := fun p => p = .od) (by simp) (ms 2) (Keep.refl x)).same .od rfl).trans h1),
       RegsOnly.of (((ssRequest_keep (M := fun p => p = .regs) (by simp) (ms 2) (Keep.refl x)).same .regs rfl).trans h2)⟩
  unfold alarmReact
  dsimp only
  split
  · exact e _ _ rfl rfl
  · split
    · split
      · exact k _ rfl rfl
      · exact k _ rfl rfl
    · exact ⟨OdOnly.refl _ _, RegsOnly.refl _ _⟩

/-- An alarm changes at most the entries and registers listed for it. -/
theorem raiseAlarm_only (n : Nat) (s : State) : OdOnly alarmKeys s (raiseAlarm n s) ∧ RegsOnly alarmRegs s (raiseAlarm n s) := by
  have rec' : ∀ m t, OdOnly alarmKeys t (alarmRecord m t) ∧ RegsOnly alarmRegs t (alarmRecord m t) := fun m t => by
    refine ⟨fun k hk => ?_, RegsOnly.of ((alarmRecord_keep (M := fun p => p = .regs) (by simp) (by simp) m (Keep.refl t)).same .regs rfl)⟩
    rw [mem_alarmKeys] at hk
    rw [alarmRecord_odGet, if_neg (fun e => hk (by simp [e])), if_neg (fun e => hk (by simp only [odKey] at *; omega)),
      if_neg (fun e => hk (by simp only [odKey] at *; omega)), if_neg (fun e => hk (by simp only [odKey] at *; omega))]
  have fold : ∀ (l : List Nat) t, OdOnly alarmKeys s t ∧ RegsOnly alarmRegs s t →
      OdOnly alarmKeys s (l.foldl (fun t n => alarmRecord n t) t) ∧ RegsOnly alarmRegs s (l.foldl (fun t n => alarmRecord n t) t) := by
    intro l
    induction l with
    | nil => exact fun t h => h
    | cons a l ih =>
      intro t h
      have h' := ih (alarmRecord a t) ⟨h.1.trans (rec' a t).1, h.2.trans (rec' a t).2⟩
      rw [List.foldl_cons]
      exact h'
  unfold raiseAlarm raiseAll
  split
  · exact ⟨OdOnly.refl _ _, RegsOnly.refl _ _⟩
  · dsimp only
    have h0 := fold (alarmSort [n]) s ⟨OdOnly.refl _ _, RegsOnly.refl _ _⟩
    split
    · exact h0
    · generalize (alarmSort [n]).foldl (fun t n => alarmRecord n t) s = t at *
      rename_i m l _
      obtain ⟨f1, f2, f3, f4⟩ := alarmFirst_leaves m t
      have fr : (alarmFirst m t).regs = t.regs := (alarmFirst_keep (M := fun p => p = .regs) (by simp) (by simp) m (Keep.refl t)).same .regs rfl
      have h1 : OdOnly alarmKeys s (alarmFirst m t) ∧ RegsOnly alarmRegs s (alarmFirst m t) := by
        refine ⟨h0.1.trans fun k hk => ?_, h0.2.trans (RegsOnly.of fr)⟩
        rw [mem_alarmKeys] at hk
        exact f3 k (fun e => hk (by simp [e])) (fun e => hk (by simp [e]))
      generalize alarmFirst m t = u at *
      obtain ⟨t1, t2, t3, t4⟩ := frzTrigger_leaves 2 u
      have h2 : OdOnly alarmKeys s (frzTrigger 2 u) ∧ RegsOnly alarmRegs s (frzTrigger 2 u) := by
        refine ⟨h1.1.trans fun k hk => ?_, h1.2.trans ?_⟩
        · rw [mem_alarmKeys] at hk
          exact t4 k (fun e => hk (by simp [e])) (fun e => hk (by simp [e]))
        · unfold frzTrigger frzAccept
          split
          · split
            · exact RegsOnly.of rfl
            · split
              · exact RegsOnly.of rfl
              · exact RegsOnly.trans (RegsOnly.put (k := 0x10200088) (RegsOnly.of rfl) (by simp [alarmRegs])) (RegsOnly.of rfl)
          · exact RegsOnly.refl _ _
      generalize frzTrigger 2 u = w at *
      exact ⟨h2.1.trans (alarmReact_only _ w).1, h2.2.trans (alarmReact_only _ w).2⟩

/-- The fields of Sheepdog that an alarm leaves alone. -/
def sdgRest (g : Sdg) : Nat × Bool × Option Nat × Bool × Bool × Bool × Nat × Option Nat × Tab Wdg × Bool × Nat :=
  (g.lastToggle, g.ackLow, g.restartWait, g.clkTripped, g.clkStopped, g.masked, g.ssCounter, g.stopAt, g.wdg, g.enteredOp, g.latentNext)

theorem ssRequest_rest (b : Nat) (s : State) : sdgRest (ssRequest b s).sdg = sdgRest s.sdg ∧ (ssRequest b s).sdg.ackMissed = s.sdg.ackMissed := by
  obtain ⟨_, _, _, e⟩ := ssRequest_sdg b s
  rw [e]
  exact ⟨rfl, rfl⟩

/-- An alarm leaves alone the watchdogs, the latent tests, the toggling, the clock monitor, the frame counter; and, unless it leads to
SAFE_HOLD, the acknowledgement. -/
theorem raiseAlarm_rest {n : Nat} {s : State} (hn : n ∈ alarmNumbers) (h : alarmed s = true) :
    sdgRest (raiseAlarm n s).sdg = sdgRest s.sdg ∧ (isRunning s = false → (raiseAlarm n s).sdg.ackMissed = s.sdg.ackMissed) := by
  rw [raiseAlarm_eq hn h]
  obtain ⟨r1, r2, r3, r4⟩ := alarmRecord_keeps n s
  split
  · rw [r4]; exact ⟨rfl, fun _ => rfl⟩
  · obtain ⟨d1, _, _, a, c, w1, _, _⟩ := alarmReady (n := n) (s := s)
    generalize frzTrigger 2 (alarmFirst n (alarmRecord n s)) = r at *
    have e : sdgRest r.sdg = sdgRest s.sdg ∧ r.sdg.ackMissed = s.sdg.ackMissed := by rw [w1]; exact ⟨rfl, rfl⟩
    have ir : isRunning r = isRunning s := by unfold isRunning; rw [d1]
    unfold alarmReact
    dsimp only
    split
    · rename_i hr
      generalize hv : ({ r with start := { r.start with cause := if [n].any (reactsHold r) = true then r.start.cause else 5 } } : State) = v
      have v1 : v.sdg = r.sdg := by rw [← hv]
      have v3 : isRunning v = true := by rw [← hv]; exact hr
      obtain ⟨_, ⟨_, _, _, x⟩, _⟩ := enterSafeHold_run (!([n].any (reactsHold r))) v3
      rw [x, v1]
      refine ⟨e.1, fun q => ?_⟩
      rw [← ir, hr] at q
      cases q
    · split
      · split
        · obtain ⟨y, z⟩ := ssRequest_rest (ms 2) ({ r with sdg := { r.sdg with restartPending := false } } : State)
          exact ⟨y.trans e.1, fun _ => z.trans e.2⟩
        · obtain ⟨y, z⟩ := ssRequest_rest (ms 2) r
          exact ⟨y.trans e.1, fun _ => z.trans e.2⟩
      · exact ⟨e.1, fun _ => e.2⟩

theorem raiseAlarm_now (n : Nat) (s : State) : (raiseAlarm n s).now = s.now :=
  (raiseAlarm_keep (M := fun p => p = .now) (by simp) (by simp) (by simp) (by simp) (by simp) (by simp) (by simp) (by simp) n (Keep.refl s)).same .now rfl

end Sys2Proof.Machine
end

