-- ==== Sys2Proof/Laws/KeepBridge.lean ====
section
/-! SUPPORT. What the operations of Machine/Bridge.lean keep: one lemma each. -/

namespace Sys2Proof.Machine

theorem grantNow_keep {M : Part → Prop} {z s : State} (h_splice : ¬ M .splice) (hz : Keep M z s) :
    Keep M z (grantNow s) := by
  unfold grantNow
  repeat' (first
    | with_reducible assumption
    | with_reducible exact Keep.refl _
    | intro _
    | with_reducible apply emit_keep
    | ((fail_if_success (fail_if_success (conv => arg 3; arg 39))); with_reducible apply Keep.upd_splice)
    | with_reducible apply Keep.ite
    | split
    | dsimp -zeta only)

theorem lockRelease_keep {M : Part → Prop} {z s : State} (h_splice : ¬ M .splice) (hz : Keep M z s) :
    Keep M z (lockRelease s) := by
  unfold lockRelease
  repeat' (first
    | with_reducible assumption
    | with_reducible exact Keep.refl _
    | intro _
    | with_reducible apply emit_keep
    | with_reducible apply grantNow_keep
    | ((fail_if_success (fail_if_success (conv => arg 3; arg 39))); with_reducible apply Keep.upd_splice)
    | with_reducible apply Keep.ite
    | split
    | dsimp -zeta only)

theorem semRelease_keep {M : Part → Prop} {z s : State} (h_splice : ¬ M .splice) (gran : Nat) (hz : Keep M z s) :
    Keep M z (semRelease gran s) := by
  unfold semRelease
  repeat' (first
    | with_reducible assumption
    | with_reducible exact Keep.refl _
    | intro _
    | ((fail_if_success (fail_if_success (conv => arg 3; arg 39))); with_reducible apply Keep.upd_splice)
    | split
    | dsimp -zeta only)

theorem expiryCount_keep {M : Part → Prop} {z s : State} (h_regs : ¬ M .regs) (h_od : ¬ M .od) (hz : Keep M z s) :
    Keep M z (expiryCount s) := by
  unfold expiryCount
  repeat' (first
    | with_reducible assumption
    | with_reducible exact Keep.refl _
    | intro _
    | with_reducible apply odCount_keep
    | with_reducible apply sendMsg_keep
    | split
    | dsimp -zeta only)

theorem lockExpire_keep {M : Part → Prop} {z s : State} (h_now : ¬ M .now) (h_regs : ¬ M .regs) (h_od : ¬ M .od) (h_splice : ¬ M .splice) (h_gtime : ¬ M .gtime) (hz : Keep M z s) :
    Keep M z (lockExpire s) := by
  unfold lockExpire
  repeat' (first
    | with_reducible assumption
    | with_reducible exact Keep.refl _
    | intro _
    | with_reducible apply advanceTo_keep
    | with_reducible apply lockRelease_keep
    | with_reducible apply expiryCount_keep
    | split
    | dsimp -zeta only)

theorem semExpire_keep {M : Part → Prop} {z s : State} (h_now : ¬ M .now) (h_regs : ¬ M .regs) (h_od : ¬ M .od) (h_splice : ¬ M .splice) (h_gtime : ¬ M .gtime) (gran : Nat) (hz : Keep M z s) :
    Keep M z (semExpire gran s) := by
  unfold semExpire
  repeat' (first
    | with_reducible assumption
    | with_reducible exact Keep.refl _
    | intro _
    | with_reducible apply advanceTo_keep
    | with_reducible apply semRelease_keep
    | with_reducible apply expiryCount_keep
    | split
    | dsimp -zeta only)

theorem ownDrop_keep {M : Part → Prop} {z s : State} (h_splice : ¬ M .splice) (req : Nat) (hz : Keep M z s) :
    Keep M z (ownDrop req s) := by
  unfold ownDrop
  repeat' (first
    | with_reducible assumption
    | with_reducible exact Keep.refl _
    | intro _
    | ((fail_if_success (conv => arg 3; arg 1)); extract_lets +onlyGivenNames t; refine Keep.cut t ?_ ?_; subst t; rotate_left; clear_value t; intro ht; rotate_right)
    | ((fail_if_success (conv => arg 3; arg 1)); extract_lets +onlyGivenNames t; subst t)
    | with_reducible apply lockRelease_keep
    | ((fail_if_success (fail_if_success (conv => arg 3; arg 39))); with_reducible apply Keep.upd_splice)
    | with_reducible apply Keep.ite
    | split
    | dsimp -zeta only)

theorem lockWait_keep {M : Part → Prop} {z s : State} (h_now : ¬ M .now) (h_regs : ¬ M .regs) (h_od : ¬ M .od) (h_splice : ¬ M .splice) (h_gtime : ¬ M .gtime) (req : Nat) (hz : Keep M z s) :
    Keep M z (lockWait req s) := by
  unfold lockWait
  repeat' (first
    | with_reducible assumption
    | with_reducible exact Keep.refl _
    | intro _
    | with_reducible apply lockExpire_keep
    | with_reducible apply Keep.ite
    | split
    | dsimp -zeta only)

theorem semWait_keep {M : Part → Prop} {z s : State} (h_now : ¬ M .now) (h_regs : ¬ M .regs) (h_od : ¬ M .od) (h_splice : ¬ M .splice) (h_gtime : ¬ M .gtime) (req : Nat) (addr : Nat) (hz : Keep M z s) :
    Keep M z (semWait req addr s) := by
  unfold semWait
  repeat' (first
    | with_reducible assumption
    | with_reducible exact Keep.refl _
    | intro _
    | with_reducible apply semExpire_keep
    | with_reducible apply Keep.ite
    | split
    | dsimp -zeta only)

theorem bridgeEnter_keep {M : Part → Prop} {z s : State} (h_now : ¬ M .now) (h_regs : ¬ M .regs) (h_od : ¬ M .od) (h_splice : ¬ M .splice) (h_gtime : ¬ M .gtime) (req : Nat) (addr : Nat) (hz : Keep M z s) :
    Keep M z (bridgeEnter req addr s) := by
  unfold bridgeEnter
  repeat' (first
    | with_reducible assumption
    | with_reducible exact Keep.refl _
    | intro _
    | with_reducible apply ownDrop_keep
    | with_reducible apply semWait_keep
    | with_reducible apply Keep.ite
    | split
    | dsimp -zeta only)

end Sys2Proof.Machine
end

