-- ==== Sys2Proof/Laws/KeepViewCim.lean ====
section
/-! SUPPORT. What the operations of Machine/ViewCim.lean keep: one lemma each. -/

namespace Sys2Proof.Machine

theorem putCt_keep {M : Part → Prop} {z s : State} (h_cim : ¬ M .cim) (t : Nat) (v : CimTile) (hz : Keep M z s) :
    Keep M z (putCt t v s) := by
  unfold putCt
  repeat' (first
    | with_reducible assumption
    | with_reducible exact Keep.refl _
    | intro _
    | ((fail_if_success (fail_if_success (conv => arg 3; arg 39))); with_reducible apply Keep.upd_cim)
    | split
    | dsimp -zeta only)

theorem putMacro_keep {M : Part → Prop} {z s : State} (h_cim : ¬ M .cim) (t : Nat) (m : Nat) (v : Macro) (hz : Keep M z s) :
    Keep M z (putMacro t m v s) := by
  unfold putMacro
  repeat' (first
    | with_reducible assumption
    | with_reducible exact Keep.refl _
    | intro _
    | ((fail_if_success (fail_if_success (conv => arg 3; arg 39))); with_reducible apply Keep.upd_cim)
    | split
    | dsimp -zeta only)

end Sys2Proof.Machine
end

