-- ==== Sys2Proof/Laws/KeepViewGfx.lean ====
section
/-! SUPPORT. What the operations of Machine/ViewGfx.lean keep: one lemma each. -/

namespace Sys2Proof.Machine

theorem putGq_keep {M : Part → Prop} {z s : State} (h_gfx : ¬ M .gfx) (q : Nat) (v : GfxQueue) (hz : Keep M z s) :
    Keep M z (putGq q v s) := by
  unfold putGq
  repeat' (first
    | with_reducible assumption
    | with_reducible exact Keep.refl _
    | intro _
    | ((fail_if_success (fail_if_success (conv => arg 3; arg 39))); with_reducible apply Keep.upd_gfx)
    | split
    | dsimp -zeta only)

theorem putPipe_keep {M : Part → Prop} {z s : State} (h_pipes : ¬ M .pipes) (p : Nat) (v : Pipe) (hz : Keep M z s) :
    Keep M z (putPipe p v s) := by
  unfold putPipe
  repeat' (first
    | with_reducible assumption
    | with_reducible exact Keep.refl _
    | intro _
    | ((fail_if_success (fail_if_success (conv => arg 3; arg 39))); with_reducible apply Keep.upd_pipes)
    | split
    | dsimp -zeta only)

end Sys2Proof.Machine
end

