-- ==== Sys2Proof/Laws/KeepAccess.lean ====
section
/-! SUPPORT. What the operations of Machine/Access.lean keep: one lemma each. -/

namespace Sys2Proof.Machine

theorem putApp_keep {M : Part → Prop} {z s : State} (h_apps : ¬ M .apps) (c : Nat) (v : AppCore) (hz : Keep M z s) :
    Keep M z (putApp c v s) := by
  unfold putApp
  repeat' (first
    | with_reducible assumption
    | with_reducible exact Keep.refl _
    | intro _
    | ((fail_if_success (fail_if_success (conv => arg 3; arg 39))); with_reducible apply Keep.upd_apps)
    | split
    | dsimp -zeta only)

theorem coreEvent_keep {M : Part → Prop} {z s : State} (h_apps : ¬ M .apps) (c : Nat) (ev : Nat) (hz : Keep M z s) :
    Keep M z (coreEvent c ev s) := by
  unfold coreEvent
  repeat' (first
    | with_reducible assumption
    | with_reducible exact Keep.refl _
    | intro _
    | ((fail_if_success (conv => arg 3; arg 1)); extract_lets +onlyGivenNames t; refine Keep.cut t ?_ ?_; subst t; rotate_left; clear_value t; intro ht; rotate_right)
    | ((fail_if_success (conv => arg 3; arg 1)); extract_lets +onlyGivenNames t; subst t)
    | with_reducible apply putApp_keep
    | with_reducible apply Keep.ite
    | split
    | dsimp -zeta only)

theorem latchAccess_keep {M : Part → Prop} {z s : State} (h_regs : ¬ M .regs) (addrReg : Nat) (infoReg : Nat) (req : Nat) (reason : Nat) (wr : Bool) (tag : Bool) (addr : Nat) (hz : Keep M z s) :
    Keep M z (latchAccess addrReg infoReg req reason wr tag addr s) := by
  unfold latchAccess
  repeat' (first
    | with_reducible assumption
    | with_reducible exact Keep.refl _
    | intro _
    | with_reducible apply regPut_keep
    | with_reducible apply Keep.ite
    | split
    | dsimp -zeta only)

theorem filterDenied_keep {M : Part → Prop} {z s : State} (h_regs : ¬ M .regs) (h_od : ¬ M .od) (h_apps : ¬ M .apps) (req : Nat) (tag : Bool) (wr : Bool) (addr : Nat) (hz : Keep M z s) :
    Keep M z (filterDenied req tag wr addr s) := by
  unfold filterDenied
  repeat' (first
    | with_reducible assumption
    | with_reducible exact Keep.refl _
    | intro _
    | with_reducible apply odCount_keep
    | with_reducible apply coreEvent_keep
    | with_reducible apply latchAccess_keep
    | split
    | dsimp -zeta only)

theorem badAccess_keep {M : Part → Prop} {z s : State} (h_dev : ¬ M .dev) (h_regs : ¬ M .regs) (h_od : ¬ M .od) (h_pwr : ¬ M .pwr) (h_start : ¬ M .start) (h_sdg : ¬ M .sdg) (h_frz : ¬ M .frz) (h_pack : ¬ M .pack) (acc : Access) (wr : Bool) (reason : Nat) (hz : Keep M z s) :
    Keep M z (badAccess acc wr reason s) := by
  unfold badAccess
  repeat' (first
    | with_reducible assumption
    | with_reducible exact Keep.refl _
    | intro _
    | ((fail_if_success (conv => arg 3; arg 1)); extract_lets +onlyGivenNames t; refine Keep.cut t ?_ ?_; subst t; rotate_left; clear_value t; intro ht; rotate_right)
    | ((fail_if_success (conv => arg 3; arg 1)); extract_lets +onlyGivenNames t; subst t)
    | with_reducible apply emit_keep
    | with_reducible apply regSetBits_keep
    | with_reducible apply regCount_keep
    | with_reducible apply odPut_keep
    | with_reducible apply odCount_keep
    | with_reducible apply raiseAlarm_keep
    | with_reducible apply latchAccess_keep
    | with_reducible apply Keep.ite
    | split
    | dsimp -zeta only)

theorem accessRefused_keep {M : Part → Prop} {z s : State} (acc : Access) (status : Nat) (hz : Keep M z s) :
    Keep M z (accessRefused acc status s) := by
  unfold accessRefused
  repeat' (first
    | with_reducible assumption
    | with_reducible exact Keep.refl _
    | intro _
    | with_reducible apply emit_keep
    | split
    | dsimp -zeta only)

theorem checkFailed_keep {M : Part → Prop} (h_dev : ¬ M .dev) (h_regs : ¬ M .regs) (h_od : ¬ M .od) (h_pwr : ¬ M .pwr) (h_start : ¬ M .start) (h_sdg : ¬ M .sdg) (h_frz : ¬ M .frz) (h_apps : ¬ M .apps) (h_pack : ¬ M .pack) (acc : Access) (wr : Bool) (c : Check) {z s : State} (hz : Keep M z s) :
    Keep M z (checkFailed acc wr s c) := by
  cases c <;> unfold checkFailed
  all_goals repeat' (first
    | with_reducible assumption
    | with_reducible apply accessRefused_keep
    | with_reducible apply filterDenied_keep
    | with_reducible apply badAccess_keep)

theorem putHold_keep {M : Part → Prop} {z s : State} (h_hold : ¬ M .hold) (b : Nat) (h : Hold) (hz : Keep M z s) :
    Keep M z (putHold b h s) := by
  unfold putHold
  repeat' (first
    | with_reducible assumption
    | with_reducible exact Keep.refl _
    | intro _
    | ((fail_if_success (fail_if_success (conv => arg 3; arg 39))); with_reducible apply Keep.upd_hold)
    | split
    | dsimp -zeta only)

theorem tornEvent_keep {M : Part → Prop} {z s : State} (h_regs : ¬ M .regs) (h_od : ¬ M .od) (b : Nat) (bitNo : Nat) (hz : Keep M z s) :
    Keep M z (tornEvent b bitNo s) := by
  unfold tornEvent
  repeat' (first
    | with_reducible assumption
    | with_reducible exact Keep.refl _
    | intro _
    | with_reducible apply regSetBits_keep
    | with_reducible apply odCount_keep
    | split
    | dsimp -zeta only)

theorem readAnswer_keep {M : Part → Prop} {z s : State} (acc : Access) (n : Nat) (v : Nat) (hz : Keep M z s) :
    Keep M z (readAnswer acc n v s) := by
  unfold readAnswer
  repeat' (first
    | with_reducible assumption
    | with_reducible exact Keep.refl _
    | intro _
    | with_reducible apply emit_keep
    | split
    | dsimp -zeta only)

theorem readLoc_keep {M : Part → Prop} {z s : State} (h_regs : ¬ M .regs) (h_hold : ¬ M .hold) (h_od : ¬ M .od) (acc : Access) (l : Loc) (hz : Keep M z s) :
    Keep M z (readLoc acc l s) := by
  unfold readLoc
  repeat' (first
    | with_reducible assumption
    | with_reducible exact Keep.refl _
    | intro _
    | ((fail_if_success (conv => arg 3; arg 1)); extract_lets +onlyGivenNames t; refine Keep.cut t ?_ ?_; subst t; rotate_left; clear_value t; intro ht; rotate_right)
    | ((fail_if_success (conv => arg 3; arg 1)); extract_lets +onlyGivenNames t; subst t)
    | with_reducible apply putHold_keep
    | with_reducible apply tornEvent_keep
    | with_reducible apply readAnswer_keep
    | with_reducible apply Keep.ite
    | split
    | dsimp -zeta only)

theorem regRead_keep {M : Part → Prop} {z s : State} (h_dev : ¬ M .dev) (h_now : ¬ M .now) (h_regs : ¬ M .regs) (h_hold : ¬ M .hold) (h_od : ¬ M .od) (h_pwr : ¬ M .pwr) (h_start : ¬ M .start) (h_sdg : ¬ M .sdg) (h_frz : ¬ M .frz) (h_apps : ¬ M .apps) (h_pack : ¬ M .pack) (h_splice : ¬ M .splice) (h_gtime : ¬ M .gtime) (acc : Access) (hz : Keep M z s) :
    Keep M z (regRead acc s) := by
  unfold regRead
  repeat' (first
    | with_reducible assumption
    | with_reducible exact Keep.refl _
    | intro _
    | ((fail_if_success (conv => arg 3; arg 1)); extract_lets +onlyGivenNames t; refine Keep.cut t ?_ ?_; subst t; rotate_left; clear_value t; intro ht; rotate_right)
    | ((fail_if_success (conv => arg 3; arg 1)); extract_lets +onlyGivenNames t; subst t)
    | with_reducible apply emit_keep
    | with_reducible apply bridgeEnter_keep
    | with_reducible apply checkFailed_keep
    | with_reducible apply readLoc_keep
    | with_reducible apply Keep.ite
    | split
    | dsimp -zeta only)

theorem genericWrite_keep {M : Part → Prop} {z s : State} (h_regs : ¬ M .regs) (a : Nat) (v : Nat) (hz : Keep M z s) :
    Keep M z (genericWrite a v s) := by
  unfold genericWrite
  repeat' (first
    | with_reducible assumption
    | with_reducible exact Keep.refl _
    | intro _
    | with_reducible apply regPut_keep
    | split
    | dsimp -zeta only)

/-- The state that the effect of a register write leaves keeps. -/
structure KeepW (M : Part → Prop) (s : State) (r : WriteRes) : Prop where
  of_done : ∀ t, r = .done t → Keep M s t
  of_denied : ∀ n t, r = .denied n t → Keep M s t

theorem KeepW.done {M : Part → Prop} {s t : State} (h : Keep M s t) : KeepW M s (.done t) :=
  ⟨fun _ e => by (cases e; exact h), fun _ _ e => by (cases e)⟩

theorem KeepW.denied {M : Part → Prop} {s t : State} {n : Nat} (h : Keep M s t) : KeepW M s (.denied n t) :=
  ⟨fun _ e => by (cases e), fun _ _ e => by (cases e; exact h)⟩

theorem KeepW.cut {M : Part → Prop} {z : State} {u : WriteRes} (v : State) (h : Keep M z v) (k : Keep M z v → KeepW M z u) :
    KeepW M z u := k h

theorem KeepW.ite {M : Part → Prop} {z : State} {t u : WriteRes} {c : Prop} [Decidable c] (h : KeepW M z t) (k : KeepW M z u) :
    KeepW M z (if c then t else u) := by
  split <;> assumption

theorem commitWrite_keep {M : Part → Prop} {eff : Nat → Nat → Access → State → WriteRes} (heff : ∀ a v c t, KeepW M t (eff a v c t))
    (h_regs : ¬ M .regs) (a v : Nat) (acc : Access) {z s : State} (hz : Keep M z s) :
    Keep M z (commitWrite eff a v acc s) := by
  unfold commitWrite
  have := heff a v acc s
  split
  · rename_i e
    exact emit_keep _ (regUpd_keep h_regs _ _ (hz.trans (this.of_done _ e)))
  · rename_i e
    exact accessRefused_keep _ _ (hz.trans (this.of_denied _ _ e))

theorem writeLoc_keep {M : Part → Prop} {eff : Nat → Nat → Access → State → WriteRes} (heff : ∀ a v c t, KeepW M t (eff a v c t))
    (h_regs : ¬ M .regs) (h_hold : ¬ M .hold) (h_od : ¬ M .od) (acc : Access) (v : Nat) (l : Loc) {z s : State} (hz : Keep M z s) :
    Keep M z (writeLoc eff acc v l s) := by
  unfold writeLoc
  repeat' (first | assumption | with_reducible apply commitWrite_keep | with_reducible apply emit_keep | with_reducible apply putHold_keep | with_reducible apply tornEvent_keep | split | dsimp only)

theorem regWriteWith_keep {M : Part → Prop} {eff : Nat → Nat → Access → State → WriteRes} (heff : ∀ a v c t, KeepW M t (eff a v c t))
    (h_dev : ¬ M .dev) (h_now : ¬ M .now) (h_regs : ¬ M .regs) (h_hold : ¬ M .hold) (h_od : ¬ M .od) (h_pwr : ¬ M .pwr) (h_start : ¬ M .start) (h_sdg : ¬ M .sdg) (h_frz : ¬ M .frz) (h_apps : ¬ M .apps) (h_pack : ¬ M .pack) (h_splice : ¬ M .splice) (h_gtime : ¬ M .gtime) (acc : Access) (v : Nat) {z s : State} (hz : Keep M z s) :
    Keep M z (regWriteWith eff acc v s) := by
  unfold regWriteWith
  repeat' (first
    | with_reducible assumption
    | with_reducible exact Keep.refl _
    | intro _
    | ((fail_if_success (conv => arg 3; arg 1)); extract_lets +onlyGivenNames t; refine Keep.cut t ?_ ?_; subst t; rotate_left; clear_value t; intro ht; rotate_right)
    | ((fail_if_success (conv => arg 3; arg 1)); extract_lets +onlyGivenNames t; subst t)
    | exact heff
    | with_reducible apply bridgeEnter_keep
    | with_reducible apply checkFailed_keep
    | with_reducible apply writeLoc_keep
    | with_reducible apply Keep.ite
    | split
    | dsimp -zeta only)

end Sys2Proof.Machine
end

