-- ==== Sys2Proof/Laws/KeepMemory.lean ====
section
/-! SUPPORT. What the operations of Machine/Memory.lean keep: one lemma each. -/

namespace Sys2Proof.Machine

theorem sealTouch_keep {M : Part → Prop} {z s : State} (h_sec : ¬ M .sec) (addr : Nat) (len : Nat) (hz : Keep M z s) :
    Keep M z (sealTouch addr len s) := by
  unfold sealTouch
  repeat' (first
    | with_reducible assumption
    | with_reducible exact Keep.refl _
    | intro _
    | ((fail_if_success (fail_if_success (conv => arg 3; arg 39))); with_reducible apply Keep.upd_sec)
    | with_reducible apply Keep.ite
    | with_reducible apply KeepP.fst
    | split
    | dsimp -zeta only)

theorem memMsg_keep {M : Part → Prop} {z s : State} (h_regs : ¬ M .regs) (hz : Keep M z s) :
    Keep M z (memMsg s) := by
  unfold memMsg
  repeat' (first
    | with_reducible assumption
    | with_reducible exact Keep.refl _
    | intro _
    | with_reducible apply sendMsg_keep
    | split
    | dsimp -zeta only)

theorem uncorrEvent_keep {M : Part → Prop} {z s : State} (h_dev : ¬ M .dev) (h_regs : ¬ M .regs) (h_od : ¬ M .od) (h_pwr : ¬ M .pwr) (h_start : ¬ M .start) (h_sdg : ¬ M .sdg) (h_frz : ¬ M .frz) (h_pack : ¬ M .pack) (addr : Nat) (alarm : Nat) (hz : Keep M z s) :
    Keep M z (uncorrEvent addr alarm s) := by
  unfold uncorrEvent
  repeat' (first
    | with_reducible assumption
    | with_reducible exact Keep.refl _
    | intro _
    | with_reducible apply regPut_keep
    | with_reducible apply regCount_keep
    | with_reducible apply odCount_keep
    | with_reducible apply raiseAlarm_keep
    | with_reducible apply memMsg_keep
    | split
    | dsimp -zeta only)

theorem dramEvent_keep {M : Part → Prop} {z s : State} (h_dev : ¬ M .dev) (h_regs : ¬ M .regs) (h_od : ¬ M .od) (h_pwr : ¬ M .pwr) (h_start : ¬ M .start) (h_sdg : ¬ M .sdg) (h_frz : ¬ M .frz) (h_pack : ¬ M .pack) (gran : Nat) (hz : Keep M z s) :
    Keep M z (dramEvent gran s) := by
  unfold dramEvent
  repeat' (first
    | with_reducible assumption
    | with_reducible exact Keep.refl _
    | intro _
    | with_reducible apply uncorrEvent_keep
    | with_reducible apply Keep.ite
    | split
    | dsimp -zeta only)

theorem granClean_keep {M : Part → Prop} {z s : State} (h_memCtl : ¬ M .memCtl) (gran : Nat) (hz : Keep M z s) :
    Keep M z (granClean gran s) := by
  unfold granClean
  repeat' (first
    | with_reducible assumption
    | with_reducible exact Keep.refl _
    | intro _
    | ((fail_if_success (fail_if_success (conv => arg 3; arg 39))); with_reducible apply Keep.upd_memCtl)
    | with_reducible apply KeepP.fst
    | split
    | dsimp -zeta only)

theorem granPoison_keep {M : Part → Prop} {z s : State} (h_mem : ¬ M .mem) (h_memCtl : ¬ M .memCtl) (h_sec : ¬ M .sec) (gran : Nat) (hz : Keep M z s) :
    Keep M z (granPoison gran s) := by
  unfold granPoison
  repeat' (first
    | with_reducible assumption
    | with_reducible exact Keep.refl _
    | intro _
    | ((fail_if_success (conv => arg 3; arg 1)); extract_lets +onlyGivenNames t; refine Keep.cut t ?_ ?_; subst t; rotate_left; clear_value t; intro ht; rotate_right)
    | ((fail_if_success (conv => arg 3; arg 1)); extract_lets +onlyGivenNames t; subst t)
    | with_reducible apply memPut_keep
    | with_reducible apply sealTouch_keep
    | with_reducible apply granClean_keep
    | ((fail_if_success (fail_if_success (conv => arg 3; arg 39))); with_reducible apply Keep.upd_memCtl)
    | split
    | dsimp -zeta only)

theorem markDie_keep {M : Part → Prop} {z s : State} (h_dev : ¬ M .dev) (h_regs : ¬ M .regs) (h_od : ¬ M .od) (h_memCtl : ¬ M .memCtl) (h_pwr : ¬ M .pwr) (h_start : ¬ M .start) (h_sdg : ¬ M .sdg) (h_frz : ¬ M .frz) (h_pack : ¬ M .pack) (strand : Nat) (d : Nat) (hz : Keep M z s) :
    Keep M z (markDie strand d s) := by
  unfold markDie
  repeat' (first
    | with_reducible assumption
    | with_reducible exact Keep.refl _
    | intro _
    | with_reducible apply odPut_keep
    | with_reducible apply raiseAlarm_keep
    | with_reducible apply maskedFault_keep
    | ((fail_if_success (fail_if_success (conv => arg 3; arg 39))); with_reducible apply Keep.upd_memCtl)
    | split
    | dsimp -zeta only)

theorem noteCorr_keep {M : Part → Prop} {z s : State} (h_memCtl : ¬ M .memCtl) (strand : Nat) (gran : Nat) (d : Nat) (hz : Keep M z s) :
    Keep M z (noteCorr strand gran d s) := by
  unfold noteCorr
  repeat' (first
    | with_reducible assumption
    | with_reducible exact Keep.refl _
    | intro _
    | ((fail_if_success (fail_if_success (conv => arg 3; arg 39))); with_reducible apply Keep.upd_memCtl)
    | with_reducible apply KeepP.fst
    | split
    | dsimp -zeta only)

theorem granCorrect_keep {M : Part → Prop} {z s : State} (h_dev : ¬ M .dev) (h_regs : ¬ M .regs) (h_od : ¬ M .od) (h_memCtl : ¬ M .memCtl) (h_pwr : ¬ M .pwr) (h_start : ¬ M .start) (h_sdg : ¬ M .sdg) (h_frz : ¬ M .frz) (h_pack : ¬ M .pack) (gran : Nat) (a : List Nat) (b : List Nat) (hz : Keep M z s) :
    Keep M z (granCorrect gran a b s) := by
  unfold granCorrect
  repeat' (first
    | with_reducible assumption
    | with_reducible exact Keep.refl _
    | intro _
    | ((fail_if_success (conv => arg 3; arg 1)); extract_lets +onlyGivenNames t; refine Keep.cut t ?_ ?_; subst t; rotate_left; clear_value t; intro ht; rotate_right)
    | ((fail_if_success (conv => arg 3; arg 1)); extract_lets +onlyGivenNames t; refine KeepP.cut t ?_ ?_; subst t; rotate_left; clear_value t; intro ht; rotate_right)
    | ((fail_if_success (conv => arg 3; arg 1)); extract_lets +onlyGivenNames t; subst t)
    | with_reducible apply regCount_keep
    | with_reducible apply odCount_keep
    | with_reducible apply memMsg_keep
    | with_reducible apply markDie_keep
    | with_reducible apply noteCorr_keep
    | ((fail_if_success (fail_if_success (conv => arg 3; arg 39))); with_reducible apply Keep.upd_memCtl)
    | with_reducible apply Keep.ite
    | with_reducible apply Keep.foldl
    | split
    | dsimp -zeta only)

theorem granRead_keep {M : Part → Prop} {z s : State} (h_dev : ¬ M .dev) (h_regs : ¬ M .regs) (h_od : ¬ M .od) (h_mem : ¬ M .mem) (h_memCtl : ¬ M .memCtl) (h_pwr : ¬ M .pwr) (h_start : ¬ M .start) (h_sdg : ¬ M .sdg) (h_frz : ¬ M .frz) (h_sec : ¬ M .sec) (h_pack : ¬ M .pack) (scrub : Bool) (gran : Nat) (hz : Keep M z s) :
    KeepP M z (granRead scrub gran s) := by
  unfold granRead
  repeat' (first
    | with_reducible assumption
    | with_reducible exact Keep.refl _
    | intro _
    | ((fail_if_success (conv => arg 3; arg 1)); extract_lets +onlyGivenNames t; refine KeepP.cut t ?_ ?_; subst t; rotate_left; clear_value t; intro ht; rotate_right)
    | ((fail_if_success (conv => arg 3; arg 1)); extract_lets +onlyGivenNames t; refine Keep.cut t ?_ ?_; subst t; rotate_left; clear_value t; intro ht; rotate_right)
    | ((fail_if_success (conv => arg 3; arg 1)); extract_lets +onlyGivenNames t; subst t)
    | with_reducible apply dramEvent_keep
    | with_reducible apply granPoison_keep
    | with_reducible apply granCorrect_keep
    | with_reducible apply Keep.ite
    | with_reducible apply KeepP.ite
    | ((fail_if_success (conv => arg 3; arg 3)); with_reducible apply KeepP.mk')
    | split
    | dsimp -zeta only)

theorem granRead_keep_of {M : Part → Prop} {scrub : Bool} {gran : Nat} {z s u_ : State} {o_ : Bool} (e_ : granRead scrub gran s = (u_, o_)) (h_dev : ¬ M .dev) (h_regs : ¬ M .regs) (h_od : ¬ M .od) (h_mem : ¬ M .mem) (h_memCtl : ¬ M .memCtl) (h_pwr : ¬ M .pwr) (h_start : ¬ M .start) (h_sdg : ¬ M .sdg) (h_frz : ¬ M .frz) (h_sec : ¬ M .sec) (h_pack : ¬ M .pack)
    (hz : Keep M z s) : Keep M z u_ :=
  (granRead_keep h_dev h_regs h_od h_mem h_memCtl h_pwr h_start h_sdg h_frz h_sec h_pack _ _ hz).of e_

theorem applyUpset_keep {M : Part → Prop} {z s : State} (h_memCtl : ¬ M .memCtl) (u : DramUpset) (hz : Keep M z s) :
    Keep M z (applyUpset s u) := by
  unfold applyUpset
  repeat' (first
    | with_reducible assumption
    | with_reducible exact Keep.refl _
    | intro _
    | ((fail_if_success (fail_if_success (conv => arg 3; arg 39))); with_reducible apply Keep.upd_memCtl)
    | split
    | dsimp -zeta only)

theorem applySramUpset_keep {M : Part → Prop} {z s : State} (h_memCtl : ¬ M .memCtl) (u : SramUpset) (hz : Keep M z s) :
    Keep M z (applySramUpset s u) := by
  unfold applySramUpset
  repeat' (first
    | with_reducible assumption
    | with_reducible exact Keep.refl _
    | intro _
    | ((fail_if_success (conv => arg 3; arg 1)); extract_lets +onlyGivenNames t; refine Keep.cut t ?_ ?_; subst t; rotate_left; clear_value t; intro ht; rotate_right)
    | ((fail_if_success (conv => arg 3; arg 1)); extract_lets +onlyGivenNames t; subst t)
    | ((fail_if_success (fail_if_success (conv => arg 3; arg 39))); with_reducible apply Keep.upd_memCtl)
    | with_reducible apply Keep.ite
    | split
    | dsimp -zeta only)

theorem wordClean_keep {M : Part → Prop} {z s : State} (h_memCtl : ¬ M .memCtl) (w : Nat) (hz : Keep M z s) :
    Keep M z (wordClean w s) := by
  unfold wordClean
  repeat' (first
    | with_reducible assumption
    | with_reducible exact Keep.refl _
    | intro _
    | ((fail_if_success (fail_if_success (conv => arg 3; arg 39))); with_reducible apply Keep.upd_memCtl)
    | split
    | dsimp -zeta only)

theorem wordCorrect_keep {M : Part → Prop} {z s : State} (h_regs : ¬ M .regs) (h_memCtl : ¬ M .memCtl) (w : Nat) (hz : Keep M z s) :
    Keep M z (wordCorrect w s) := by
  unfold wordCorrect
  repeat' (first
    | with_reducible assumption
    | with_reducible exact Keep.refl _
    | intro _
    | with_reducible apply regCount_keep
    | with_reducible apply memMsg_keep
    | ((fail_if_success (fail_if_success (conv => arg 3; arg 39))); with_reducible apply Keep.upd_memCtl)
    | split
    | dsimp -zeta only)

theorem wordRead_keep {M : Part → Prop} {z s : State} (h_dev : ¬ M .dev) (h_free : ¬ M .free) (h_regs : ¬ M .regs) (h_od : ¬ M .od) (h_mem : ¬ M .mem) (h_memCtl : ¬ M .memCtl) (h_pwr : ¬ M .pwr) (h_start : ¬ M .start) (h_sdg : ¬ M .sdg) (h_frz : ¬ M .frz) (h_pack : ¬ M .pack) (w : Nat) (hz : Keep M z s) :
    KeepP M z (wordRead w s) := by
  unfold wordRead
  repeat' (first
    | with_reducible assumption
    | with_reducible exact Keep.refl _
    | intro _
    | ((fail_if_success (conv => arg 3; arg 1)); extract_lets +onlyGivenNames t; refine KeepP.cut t ?_ ?_; subst t; rotate_left; clear_value t; intro ht; rotate_right)
    | ((fail_if_success (conv => arg 3; arg 1)); extract_lets +onlyGivenNames t; refine Keep.cut t ?_ ?_; subst t; rotate_left; clear_value t; intro ht; rotate_right)
    | ((fail_if_success (conv => arg 3; arg 1)); extract_lets +onlyGivenNames t; subst t)
    | with_reducible apply takeFree_keep
    | with_reducible apply regCount_keep
    | with_reducible apply memPut_keep
    | with_reducible apply memMsg_keep
    | with_reducible apply uncorrEvent_keep
    | with_reducible apply wordClean_keep
    | with_reducible apply wordCorrect_keep
    | with_reducible apply Keep.ite
    | with_reducible apply KeepP.ite
    | ((fail_if_success (conv => arg 3; arg 3)); with_reducible apply KeepP.mk')
    | split
    | dsimp -zeta only)

theorem wordRead_keep_of {M : Part → Prop} {w : Nat} {z s u_ : State} {o_ : Bool × Nat} (e_ : wordRead w s = (u_, o_)) (h_dev : ¬ M .dev) (h_free : ¬ M .free) (h_regs : ¬ M .regs) (h_od : ¬ M .od) (h_mem : ¬ M .mem) (h_memCtl : ¬ M .memCtl) (h_pwr : ¬ M .pwr) (h_start : ¬ M .start) (h_sdg : ¬ M .sdg) (h_frz : ¬ M .frz) (h_pack : ¬ M .pack)
    (hz : Keep M z s) : Keep M z u_ :=
  (wordRead_keep h_dev h_free h_regs h_od h_mem h_memCtl h_pwr h_start h_sdg h_frz h_pack _ hz).of e_

theorem dramTouch_keep {M : Part → Prop} {z s : State} (h_dev : ¬ M .dev) (h_regs : ¬ M .regs) (h_od : ¬ M .od) (h_mem : ¬ M .mem) (h_memCtl : ¬ M .memCtl) (h_pwr : ¬ M .pwr) (h_start : ¬ M .start) (h_sdg : ¬ M .sdg) (h_frz : ¬ M .frz) (h_sec : ¬ M .sec) (h_pack : ¬ M .pack) (scrub : Bool) (addr : Nat) (len : Nat) (hz : Keep M z s) :
    KeepP M z (dramTouch scrub addr len s) := by
  unfold dramTouch
  repeat' (first
    | with_reducible assumption
    | with_reducible exact Keep.refl _
    | intro _
    | ((fail_if_success (conv => arg 3; arg 1)); extract_lets +onlyGivenNames t; refine KeepP.cut t ?_ ?_; subst t; rotate_left; clear_value t; intro ht; rotate_right)
    | ((fail_if_success (conv => arg 3; arg 1)); extract_lets +onlyGivenNames t; refine Keep.cut t ?_ ?_; subst t; rotate_left; clear_value t; intro ht; rotate_right)
    | ((fail_if_success (conv => arg 3; arg 1)); extract_lets +onlyGivenNames t; subst t)
    | with_reducible apply granRead_keep
    | ((with_reducible apply granRead_keep_of); with_reducible assumption)
    | ((fail_if_success (conv => arg 3; arg 3)); with_reducible apply KeepP.mk')
    | with_reducible apply KeepP.foldl
    | with_reducible apply Keep.foldl
    | with_reducible apply KeepP.fst
    | split
    | dsimp -zeta only)

theorem dramTouch_keep_of {M : Part → Prop} {scrub : Bool} {addr : Nat} {len : Nat} {z s u_ : State} {o_ : Bool} (e_ : dramTouch scrub addr len s = (u_, o_)) (h_dev : ¬ M .dev) (h_regs : ¬ M .regs) (h_od : ¬ M .od) (h_mem : ¬ M .mem) (h_memCtl : ¬ M .memCtl) (h_pwr : ¬ M .pwr) (h_start : ¬ M .start) (h_sdg : ¬ M .sdg) (h_frz : ¬ M .frz) (h_sec : ¬ M .sec) (h_pack : ¬ M .pack)
    (hz : Keep M z s) : Keep M z u_ :=
  (dramTouch_keep h_dev h_regs h_od h_mem h_memCtl h_pwr h_start h_sdg h_frz h_sec h_pack _ _ _ hz).of e_

theorem sramTouch_keep {M : Part → Prop} {z s : State} (h_dev : ¬ M .dev) (h_free : ¬ M .free) (h_regs : ¬ M .regs) (h_od : ¬ M .od) (h_mem : ¬ M .mem) (h_memCtl : ¬ M .memCtl) (h_pwr : ¬ M .pwr) (h_start : ¬ M .start) (h_sdg : ¬ M .sdg) (h_frz : ¬ M .frz) (h_pack : ¬ M .pack) (addr : Nat) (len : Nat) (hz : Keep M z s) :
    KeepP M z (sramTouch addr len s) := by
  unfold sramTouch
  repeat' (first
    | with_reducible assumption
    | with_reducible exact Keep.refl _
    | intro _
    | ((fail_if_success (conv => arg 3; arg 1)); extract_lets +onlyGivenNames t; refine KeepP.cut t ?_ ?_; subst t; rotate_left; clear_value t; intro ht; rotate_right)
    | ((fail_if_success (conv => arg 3; arg 1)); extract_lets +onlyGivenNames t; refine Keep.cut t ?_ ?_; subst t; rotate_left; clear_value t; intro ht; rotate_right)
    | ((fail_if_success (conv => arg 3; arg 1)); extract_lets +onlyGivenNames t; subst t)
    | with_reducible apply wordRead_keep
    | ((with_reducible apply wordRead_keep_of); with_reducible assumption)
    | with_reducible apply Keep.ite
    | with_reducible apply KeepP.ite
    | ((fail_if_success (conv => arg 3; arg 3)); with_reducible apply KeepP.mk')
    | with_reducible apply KeepP.foldl
    | with_reducible apply Keep.foldl
    | with_reducible apply KeepP.fst
    | split
    | dsimp -zeta only)

theorem sramTouch_keep_of {M : Part → Prop} {addr : Nat} {len : Nat} {z s u_ : State} {o_ : Bool × List (Nat × Nat)} (e_ : sramTouch addr len s = (u_, o_)) (h_dev : ¬ M .dev) (h_free : ¬ M .free) (h_regs : ¬ M .regs) (h_od : ¬ M .od) (h_mem : ¬ M .mem) (h_memCtl : ¬ M .memCtl) (h_pwr : ¬ M .pwr) (h_start : ¬ M .start) (h_sdg : ¬ M .sdg) (h_frz : ¬ M .frz) (h_pack : ¬ M .pack)
    (hz : Keep M z s) : Keep M z u_ :=
  (sramTouch_keep h_dev h_free h_regs h_od h_mem h_memCtl h_pwr h_start h_sdg h_frz h_pack _ _ hz).of e_

theorem readRange_keep {M : Part → Prop} {z s : State} (h_dev : ¬ M .dev) (h_free : ¬ M .free) (h_regs : ¬ M .regs) (h_od : ¬ M .od) (h_mem : ¬ M .mem) (h_memCtl : ¬ M .memCtl) (h_pwr : ¬ M .pwr) (h_start : ¬ M .start) (h_sdg : ¬ M .sdg) (h_frz : ¬ M .frz) (h_sec : ¬ M .sec) (h_pack : ¬ M .pack) (addr : Nat) (len : Nat) (hz : Keep M z s) :
    KeepP M z (readRange addr len s) := by
  unfold readRange
  repeat' (first
    | with_reducible assumption
    | with_reducible exact Keep.refl _
    | intro _
    | ((fail_if_success (conv => arg 3; arg 1)); extract_lets +onlyGivenNames t; refine KeepP.cut t ?_ ?_; subst t; rotate_left; clear_value t; intro ht; rotate_right)
    | ((fail_if_success (conv => arg 3; arg 1)); extract_lets +onlyGivenNames t; refine Keep.cut t ?_ ?_; subst t; rotate_left; clear_value t; intro ht; rotate_right)
    | ((fail_if_success (conv => arg 3; arg 1)); extract_lets +onlyGivenNames t; subst t)
    | with_reducible apply regCount_keep
    | with_reducible apply dramTouch_keep
    | ((with_reducible apply dramTouch_keep_of); with_reducible assumption)
    | with_reducible apply sramTouch_keep
    | ((with_reducible apply sramTouch_keep_of); with_reducible assumption)
    | with_reducible apply Keep.ite
    | with_reducible apply KeepP.ite
    | ((fail_if_success (conv => arg 3; arg 3)); with_reducible apply KeepP.mk')
    | with_reducible apply KeepP.fst
    | split
    | dsimp -zeta only)

theorem readRange_keep_of {M : Part → Prop} {addr : Nat} {len : Nat} {z s u_ : State} {o_ : Option (List Byte)} (e_ : readRange addr len s = (u_, o_)) (h_dev : ¬ M .dev) (h_free : ¬ M .free) (h_regs : ¬ M .regs) (h_od : ¬ M .od) (h_mem : ¬ M .mem) (h_memCtl : ¬ M .memCtl) (h_pwr : ¬ M .pwr) (h_start : ¬ M .start) (h_sdg : ¬ M .sdg) (h_frz : ¬ M .frz) (h_sec : ¬ M .sec) (h_pack : ¬ M .pack)
    (hz : Keep M z s) : Keep M z u_ :=
  (readRange_keep h_dev h_free h_regs h_od h_mem h_memCtl h_pwr h_start h_sdg h_frz h_sec h_pack _ _ hz).of e_

theorem cleanRange_keep {M : Part → Prop} {z s : State} (h_memCtl : ¬ M .memCtl) (addr : Nat) (len : Nat) (hz : Keep M z s) :
    Keep M z (cleanRange addr len s) := by
  unfold cleanRange
  repeat' (first
    | with_reducible assumption
    | with_reducible exact Keep.refl _
    | intro _
    | with_reducible apply granClean_keep
    | with_reducible apply wordClean_keep
    | ((fail_if_success (fail_if_success (conv => arg 3; arg 39))); with_reducible apply Keep.upd_memCtl)
    | ((fail_if_success (conv => arg 3; arg 3)); with_reducible apply KeepP.mk')
    | with_reducible apply KeepP.foldl
    | with_reducible apply Keep.foldl
    | with_reducible apply KeepP.fst
    | split
    | dsimp -zeta only)

theorem writeRange_keep {M : Part → Prop} {z s : State} (h_mem : ¬ M .mem) (h_memCtl : ¬ M .memCtl) (h_sec : ¬ M .sec) (addr : Nat) (l : List Byte) (hz : Keep M z s) :
    Keep M z (writeRange addr l s) := by
  unfold writeRange
  repeat' (first
    | with_reducible assumption
    | with_reducible exact Keep.refl _
    | intro _
    | with_reducible apply memPut_keep
    | with_reducible apply sealTouch_keep
    | with_reducible apply cleanRange_keep
    | split
    | dsimp -zeta only)

theorem landingWrite_keep {M : Part → Prop} (h_mem : ¬ M .mem) (h_memCtl : ¬ M .memCtl) (h_sec : ¬ M .sec) (l : List (Option Byte)) : ∀ (addr : Nat) {z s : State}, Keep M z s →
    Keep M z (landingWrite addr l s) := by
  induction l with
  | nil => intro addr z s hz; exact hz
  | cons a l ih =>
    intro addr z s hz
    cases a with
    | none => exact ih (addr + 1) hz
    | some b => exact ih (addr + 1) (writeRange_keep h_mem h_memCtl h_sec _ _ hz)

theorem narrowDrop_keep {M : Part → Prop} {z s : State} (h_regs : ¬ M .regs) (h_od : ¬ M .od) (req : Nat) (addr : Nat) (hz : Keep M z s) :
    Keep M z (narrowDrop req addr s) := by
  unfold narrowDrop
  repeat' (first
    | with_reducible assumption
    | with_reducible exact Keep.refl _
    | intro _
    | ((fail_if_success (conv => arg 3; arg 1)); extract_lets +onlyGivenNames t; refine Keep.cut t ?_ ?_; subst t; rotate_left; clear_value t; intro ht; rotate_right)
    | ((fail_if_success (conv => arg 3; arg 1)); extract_lets +onlyGivenNames t; subst t)
    | with_reducible apply regPut_keep
    | with_reducible apply regCount_keep
    | with_reducible apply odPut_keep
    | with_reducible apply odCount_keep
    | with_reducible apply Keep.ite
    | split
    | dsimp -zeta only)

theorem memoryWrite_keep {M : Part → Prop} {z s : State} (h_regs : ¬ M .regs) (h_od : ¬ M .od) (h_mem : ¬ M .mem) (h_memCtl : ¬ M .memCtl) (h_sec : ¬ M .sec) (req : Nat) (posted : Bool) (addr : Nat) (l : List (Option Byte)) (hz : Keep M z s) :
    KeepP M z (memoryWrite req posted addr l s) := by
  unfold memoryWrite
  repeat' (first
    | with_reducible assumption
    | with_reducible exact Keep.refl _
    | intro _
    | with_reducible apply writeRange_keep
    | with_reducible apply landingWrite_keep
    | with_reducible apply narrowDrop_keep
    | with_reducible apply Keep.ite
    | with_reducible apply KeepP.ite
    | ((fail_if_success (conv => arg 3; arg 3)); with_reducible apply KeepP.mk')
    | split
    | dsimp -zeta only)

theorem memoryWrite_keep_of {M : Part → Prop} {req : Nat} {posted : Bool} {addr : Nat} {l : List (Option Byte)} {z s u_ : State} {o_ : Option Nat} (e_ : memoryWrite req posted addr l s = (u_, o_)) (h_regs : ¬ M .regs) (h_od : ¬ M .od) (h_mem : ¬ M .mem) (h_memCtl : ¬ M .memCtl) (h_sec : ¬ M .sec)
    (hz : Keep M z s) : Keep M z u_ :=
  (memoryWrite_keep h_regs h_od h_mem h_memCtl h_sec _ _ _ _ hz).of e_

theorem answerRead_keep {M : Part → Prop} (acc : Access) {r : State × Option (List Byte)} {z : State} (hr : KeepP M z r) :
    Keep M z (answerRead acc r) := by
  unfold answerRead
  split
  · exact emit_keep _ hr.fst
  · exact accessRefused_keep _ _ hr.fst

theorem memoryAccess_keep {M : Part → Prop} {f : State → State} (h_dev : ¬ M .dev) (h_regs : ¬ M .regs) (h_od : ¬ M .od) (h_pwr : ¬ M .pwr) (h_start : ¬ M .start) (h_sdg : ¬ M .sdg) (h_frz : ¬ M .frz) (h_apps : ¬ M .apps) (h_pack : ¬ M .pack) (acc : Access) (wr : Bool) (len : Nat) {z s : State}
    (hf : Keep M z s → Keep M z (f s)) (hz : Keep M z s) : Keep M z (memoryAccess acc wr len f s) := by
  have hf := hf hz
  unfold memoryAccess
  repeat' (first
    | with_reducible assumption
    | with_reducible exact Keep.refl _
    | intro _
    | with_reducible apply badAccess_keep
    | with_reducible apply accessRefused_keep
    | with_reducible apply checkFailed_keep
    | with_reducible apply Keep.ite
    | split
    | dsimp -zeta only)

theorem cacheError_keep {M : Part → Prop} {z s : State} (h_dev : ¬ M .dev) (h_regs : ¬ M .regs) (h_od : ¬ M .od) (h_mem : ¬ M .mem) (h_memCtl : ¬ M .memCtl) (h_pwr : ¬ M .pwr) (h_start : ¬ M .start) (h_sdg : ¬ M .sdg) (h_frz : ¬ M .frz) (h_apps : ¬ M .apps) (h_sec : ¬ M .sec) (h_pack : ¬ M .pack) (acc : Access) (fault : CacheFault) (dirty : Bool) (hz : Keep M z s) :
    KeepP M z (cacheError acc fault dirty s) := by
  unfold cacheError
  repeat' (first
    | with_reducible assumption
    | with_reducible exact Keep.refl _
    | intro _
    | ((fail_if_success (conv => arg 3; arg 1)); extract_lets +onlyGivenNames t; refine KeepP.cut t ?_ ?_; subst t; rotate_left; clear_value t; intro ht; rotate_right)
    | ((fail_if_success (conv => arg 3; arg 1)); extract_lets +onlyGivenNames t; refine Keep.cut t ?_ ?_; subst t; rotate_left; clear_value t; intro ht; rotate_right)
    | ((fail_if_success (conv => arg 3; arg 1)); extract_lets +onlyGivenNames t; subst t)
    | with_reducible apply odCount_keep
    | with_reducible apply raiseAlarm_keep
    | with_reducible apply coreEvent_keep
    | with_reducible apply uncorrEvent_keep
    | with_reducible apply dramEvent_keep
    | with_reducible apply granPoison_keep
    | ((fail_if_success (fail_if_success (conv => arg 3; arg 39))); with_reducible apply Keep.upd_memCtl)
    | with_reducible apply Keep.ite
    | with_reducible apply KeepP.ite
    | ((fail_if_success (conv => arg 3; arg 3)); with_reducible apply KeepP.mk')
    | with_reducible apply KeepP.foldl
    | with_reducible apply Keep.foldl
    | split
    | dsimp -zeta only)

theorem cacheError_keep_of {M : Part → Prop} {acc : Access} {fault : CacheFault} {dirty : Bool} {z s u_ : State} {o_ : Bool} (e_ : cacheError acc fault dirty s = (u_, o_)) (h_dev : ¬ M .dev) (h_regs : ¬ M .regs) (h_od : ¬ M .od) (h_mem : ¬ M .mem) (h_memCtl : ¬ M .memCtl) (h_pwr : ¬ M .pwr) (h_start : ¬ M .start) (h_sdg : ¬ M .sdg) (h_frz : ¬ M .frz) (h_apps : ¬ M .apps) (h_sec : ¬ M .sec) (h_pack : ¬ M .pack)
    (hz : Keep M z s) : Keep M z u_ :=
  (cacheError_keep h_dev h_regs h_od h_mem h_memCtl h_pwr h_start h_sdg h_frz h_apps h_sec h_pack _ _ _ hz).of e_

theorem execDramRead_keep {M : Part → Prop} {z s : State} (h_dev : ¬ M .dev) (h_free : ¬ M .free) (h_regs : ¬ M .regs) (h_od : ¬ M .od) (h_mem : ¬ M .mem) (h_memCtl : ¬ M .memCtl) (h_pwr : ¬ M .pwr) (h_start : ¬ M .start) (h_sdg : ¬ M .sdg) (h_frz : ¬ M .frz) (h_apps : ¬ M .apps) (h_sec : ¬ M .sec) (h_pack : ¬ M .pack) (acc : Access) (len : Nat) (upsets : List DramUpset) (cache : Option (CacheFault × Bool)) (hz : Keep M z s) :
    KeepN M z (execDramRead acc len upsets cache s) := by
  unfold execDramRead
  repeat' (first
    | with_reducible assumption
    | with_reducible exact Keep.refl _
    | intro _
    | with_reducible apply KeepN.next
    | ((fail_if_success (conv => arg 3; arg 1)); extract_lets +onlyGivenNames t; refine KeepN.cut t ?_ ?_; subst t; rotate_left; clear_value t; intro ht; rotate_right)
    | ((fail_if_success (conv => arg 3; arg 1)); extract_lets +onlyGivenNames t; refine Keep.cut t ?_ ?_; subst t; rotate_left; clear_value t; intro ht; rotate_right)
    | ((fail_if_success (conv => arg 3; arg 1)); extract_lets +onlyGivenNames t; refine KeepP.cut t ?_ ?_; subst t; rotate_left; clear_value t; intro ht; rotate_right)
    | ((fail_if_success (conv => arg 3; arg 1)); extract_lets +onlyGivenNames t; subst t)
    | with_reducible apply emit_keep
    | with_reducible apply accessRefused_keep
    | with_reducible apply applyUpset_keep
    | with_reducible apply readRange_keep
    | ((with_reducible apply readRange_keep_of); with_reducible assumption)
    | with_reducible apply answerRead_keep
    | with_reducible apply memoryAccess_keep
    | with_reducible apply cacheError_keep
    | ((with_reducible apply cacheError_keep_of); with_reducible assumption)
    | with_reducible apply Keep.ite
    | with_reducible apply KeepN.ite
    | ((fail_if_success (conv => arg 3; arg 3)); with_reducible apply KeepP.mk')
    | with_reducible apply KeepP.foldl
    | with_reducible apply Keep.foldl
    | with_reducible apply KeepP.fst
    | split
    | dsimp -zeta only)

theorem execSramRead_keep {M : Part → Prop} {z s : State} (h_dev : ¬ M .dev) (h_free : ¬ M .free) (h_regs : ¬ M .regs) (h_od : ¬ M .od) (h_mem : ¬ M .mem) (h_memCtl : ¬ M .memCtl) (h_pwr : ¬ M .pwr) (h_start : ¬ M .start) (h_sdg : ¬ M .sdg) (h_frz : ¬ M .frz) (h_apps : ¬ M .apps) (h_sec : ¬ M .sec) (h_pack : ¬ M .pack) (acc : Access) (len : Nat) (upsets : List SramUpset) (hz : Keep M z s) :
    KeepN M z (execSramRead acc len upsets s) := by
  unfold execSramRead
  repeat' (first
    | with_reducible assumption
    | with_reducible exact Keep.refl _
    | intro _
    | with_reducible apply KeepN.next
    | with_reducible apply applySramUpset_keep
    | with_reducible apply readRange_keep
    | ((with_reducible apply readRange_keep_of); with_reducible assumption)
    | with_reducible apply answerRead_keep
    | with_reducible apply memoryAccess_keep
    | with_reducible apply Keep.foldl
    | with_reducible apply KeepP.fst
    | split
    | dsimp -zeta only)

theorem execCodedWrite_keep {M : Part → Prop} {z s : State} (h_dev : ¬ M .dev) (h_regs : ¬ M .regs) (h_od : ¬ M .od) (h_mem : ¬ M .mem) (h_memCtl : ¬ M .memCtl) (h_pwr : ¬ M .pwr) (h_start : ¬ M .start) (h_sdg : ¬ M .sdg) (h_frz : ¬ M .frz) (h_apps : ¬ M .apps) (h_sec : ¬ M .sec) (h_pack : ¬ M .pack) (acc : Access) (posted : Bool) (bytes : List (Option Byte)) (hz : Keep M z s) :
    KeepN M z (execCodedWrite acc posted bytes s) := by
  unfold execCodedWrite
  repeat' (first
    | with_reducible assumption
    | with_reducible exact Keep.refl _
    | intro _
    | with_reducible apply KeepN.next
    | with_reducible apply emit_keep
    | with_reducible apply accessRefused_keep
    | with_reducible apply memoryWrite_keep
    | ((with_reducible apply memoryWrite_keep_of); with_reducible assumption)
    | with_reducible apply memoryAccess_keep
    | with_reducible apply Keep.ite
    | with_reducible apply KeepN.ite
    | with_reducible apply KeepP.fst
    | split
    | dsimp -zeta only)

theorem execDemandScrub_keep {M : Part → Prop} {z s : State} (h_memCtl : ¬ M .memCtl) (addr : Nat) (hz : Keep M z s) :
    KeepN M z (execDemandScrub addr s) := by
  unfold execDemandScrub
  repeat' (first
    | with_reducible assumption
    | with_reducible exact Keep.refl _
    | intro _
    | with_reducible apply KeepN.next
    | ((fail_if_success (conv => arg 3; arg 1)); extract_lets +onlyGivenNames t; refine KeepN.cut t ?_ ?_; subst t; rotate_left; clear_value t; intro ht; rotate_right)
    | ((fail_if_success (conv => arg 3; arg 1)); extract_lets +onlyGivenNames t; refine Keep.cut t ?_ ?_; subst t; rotate_left; clear_value t; intro ht; rotate_right)
    | ((fail_if_success (conv => arg 3; arg 1)); extract_lets +onlyGivenNames t; subst t)
    | with_reducible apply granClean_keep
    | with_reducible apply wordClean_keep
    | with_reducible apply Keep.ite
    | with_reducible apply KeepN.ite
    | split
    | dsimp -zeta only)

theorem packBufWord_keep {M : Part → Prop} {z s : State} (h_dev : ¬ M .dev) (h_free : ¬ M .free) (h_regs : ¬ M .regs) (h_od : ¬ M .od) (h_pwr : ¬ M .pwr) (h_start : ¬ M .start) (h_sdg : ¬ M .sdg) (h_frz : ¬ M .frz) (h_pack : ¬ M .pack) (n : Nat) (hz : Keep M z s) :
    Keep M z (packBufWord n s) := by
  unfold packBufWord
  repeat' (first
    | with_reducible assumption
    | with_reducible exact Keep.refl _
    | intro _
    | ((fail_if_success (conv => arg 3; arg 1)); extract_lets +onlyGivenNames t; refine Keep.cut t ?_ ?_; subst t; rotate_left; clear_value t; intro ht; rotate_right)
    | ((fail_if_success (conv => arg 3; arg 1)); extract_lets +onlyGivenNames t; subst t)
    | with_reducible apply takeFree_keep
    | with_reducible apply regCount_keep
    | with_reducible apply odCount_keep
    | with_reducible apply raiseAlarm_keep
    | with_reducible apply memMsg_keep
    | with_reducible apply Keep.ite
    | split
    | dsimp -zeta only)

theorem execPatrolScrub_keep {M : Part → Prop} {z s : State} (h_dev : ¬ M .dev) (h_now : ¬ M .now) (h_free : ¬ M .free) (h_regs : ¬ M .regs) (h_od : ¬ M .od) (h_mem : ¬ M .mem) (h_memCtl : ¬ M .memCtl) (h_pwr : ¬ M .pwr) (h_start : ¬ M .start) (h_sdg : ¬ M .sdg) (h_frz : ¬ M .frz) (h_sec : ¬ M .sec) (h_pack : ¬ M .pack) (h_gtime : ¬ M .gtime) (upsets : List DramUpset) (sramUpsets : List SramUpset) (packSymbols : Nat) (hz : Keep M z s) :
    KeepN M z (execPatrolScrub upsets sramUpsets packSymbols s) := by
  unfold execPatrolScrub
  repeat' (first
    | with_reducible assumption
    | with_reducible exact Keep.refl _
    | intro _
    | with_reducible apply KeepN.next
    | ((fail_if_success (conv => arg 3; arg 1)); extract_lets +onlyGivenNames t; refine KeepN.cut t ?_ ?_; subst t; rotate_left; clear_value t; intro ht; rotate_right)
    | ((fail_if_success (conv => arg 3; arg 1)); extract_lets +onlyGivenNames t; refine Keep.cut t ?_ ?_; subst t; rotate_left; clear_value t; intro ht; rotate_right)
    | ((fail_if_success (conv => arg 3; arg 1)); extract_lets +onlyGivenNames t; refine KeepP.cut t ?_ ?_; subst t; rotate_left; clear_value t; intro ht; rotate_right)
    | ((fail_if_success (conv => arg 3; arg 1)); extract_lets +onlyGivenNames t; subst t)
    | with_reducible apply advanceTo_keep
    | with_reducible apply odCount_keep
    | with_reducible apply granRead_keep
    | ((with_reducible apply granRead_keep_of); with_reducible assumption)
    | with_reducible apply applyUpset_keep
    | with_reducible apply applySramUpset_keep
    | with_reducible apply wordRead_keep
    | ((with_reducible apply wordRead_keep_of); with_reducible assumption)
    | with_reducible apply packBufWord_keep
    | ((fail_if_success (fail_if_success (conv => arg 3; arg 39))); with_reducible apply Keep.upd_memCtl)
    | with_reducible apply Keep.ite
    | with_reducible apply KeepN.ite
    | ((fail_if_success (conv => arg 3; arg 3)); with_reducible apply KeepP.mk')
    | with_reducible apply KeepP.foldl
    | with_reducible apply Keep.foldl
    | with_reducible apply KeepP.fst
    | split
    | dsimp -zeta only)

theorem execPatrolPassStart_keep {M : Part → Prop} {z s : State} (h_now : ¬ M .now) (h_memCtl : ¬ M .memCtl) (h_gtime : ¬ M .gtime) (hz : Keep M z s) :
    KeepN M z (execPatrolPassStart s) := by
  unfold execPatrolPassStart
  repeat' (first
    | with_reducible assumption
    | with_reducible exact Keep.refl _
    | intro _
    | with_reducible apply KeepN.next
    | ((fail_if_success (conv => arg 3; arg 1)); extract_lets +onlyGivenNames t; refine KeepN.cut t ?_ ?_; subst t; rotate_left; clear_value t; intro ht; rotate_right)
    | ((fail_if_success (conv => arg 3; arg 1)); extract_lets +onlyGivenNames t; refine Keep.cut t ?_ ?_; subst t; rotate_left; clear_value t; intro ht; rotate_right)
    | ((fail_if_success (conv => arg 3; arg 1)); extract_lets +onlyGivenNames t; subst t)
    | with_reducible apply advanceTo_keep
    | ((fail_if_success (fail_if_success (conv => arg 3; arg 39))); with_reducible apply Keep.upd_memCtl)
    | with_reducible apply Keep.ite
    | with_reducible apply KeepN.ite
    | split
    | dsimp -zeta only)

end Sys2Proof.Machine
end

