-- ==== Sys2Proof/Laws/KeepKnots.lean ====
section
/-! SUPPORT. What the operations of Machine/Knots.lean keep: one lemma each. -/

namespace Sys2Proof.Machine

theorem putSlot_keep {M : Part → Prop} {z s : State} (h_slots : ¬ M .slots) (h_safeSlots : ¬ M .safeSlots) (safety : Bool) (w : Nat) (v : WaitSlot) (hz : Keep M z s) :
    Keep M z (putSlot safety w v s) := by
  unfold putSlot
  repeat' (first
    | with_reducible assumption
    | with_reducible exact Keep.refl _
    | intro _
    | ((fail_if_success (fail_if_success (conv => arg 3; arg 39))); with_reducible apply Keep.upd_safeSlots)
    | ((fail_if_success (fail_if_success (conv => arg 3; arg 39))); with_reducible apply Keep.upd_slots)
    | with_reducible apply Keep.ite
    | split
    | dsimp -zeta only)

theorem slotComplete_keep {M : Part → Prop} {z s : State} (h_regs : ¬ M .regs) (h_slots : ¬ M .slots) (h_safeSlots : ¬ M .safeSlots) (safety : Bool) (w : Nat) (status : Nat) (hz : Keep M z s) :
    Keep M z (slotComplete safety w status s) := by
  unfold slotComplete
  repeat' (first
    | with_reducible assumption
    | with_reducible exact Keep.refl _
    | intro _
    | ((fail_if_success (conv => arg 3; arg 1)); extract_lets +onlyGivenNames t; refine Keep.cut t ?_ ?_; subst t; rotate_left; clear_value t; intro ht; rotate_right)
    | ((fail_if_success (conv => arg 3; arg 1)); extract_lets +onlyGivenNames t; subst t)
    | with_reducible apply safeMsg_keep
    | with_reducible apply sendMsg_keep
    | with_reducible apply putSlot_keep
    | with_reducible apply Keep.ite
    | split
    | dsimp -zeta only)

theorem slotsReached_keep {M : Part → Prop} {z s : State} (h_regs : ¬ M .regs) (h_slots : ¬ M .slots) (h_safeSlots : ¬ M .safeSlots) (k : Nat) (hz : Keep M z s) :
    Keep M z (slotsReached k s) := by
  unfold slotsReached
  repeat' (first
    | with_reducible assumption
    | with_reducible exact Keep.refl _
    | intro _
    | ((fail_if_success (conv => arg 3; arg 1)); extract_lets +onlyGivenNames t; refine Keep.cut t ?_ ?_; subst t; rotate_left; clear_value t; intro ht; rotate_right)
    | ((fail_if_success (conv => arg 3; arg 1)); extract_lets +onlyGivenNames t; refine KeepP.cut t ?_ ?_; subst t; rotate_left; clear_value t; intro ht; rotate_right)
    | ((fail_if_success (conv => arg 3; arg 1)); extract_lets +onlyGivenNames t; subst t)
    | with_reducible apply slotComplete_keep
    | with_reducible apply Keep.ite
    | ((fail_if_success (conv => arg 3; arg 3)); with_reducible apply KeepP.mk')
    | with_reducible apply KeepP.foldl
    | with_reducible apply Keep.foldl
    | with_reducible apply KeepP.fst
    | split
    | dsimp -zeta only)

theorem knotRaise_keep {M : Part → Prop} {z s : State} (h_regs : ¬ M .regs) (h_knots : ¬ M .knots) (h_slots : ¬ M .slots) (h_safeSlots : ¬ M .safeSlots) (k : Nat) (v : Nat) (hz : Keep M z s) :
    Keep M z (knotRaise k v s) := by
  unfold knotRaise
  repeat' (first
    | with_reducible assumption
    | with_reducible exact Keep.refl _
    | intro _
    | with_reducible apply slotsReached_keep
    | ((fail_if_success (fail_if_success (conv => arg 3; arg 39))); with_reducible apply Keep.upd_knots)
    | with_reducible apply Keep.ite
    | split
    | dsimp -zeta only)

theorem knotWriteEff_keep {M : Part → Prop} {z s : State} (h_regs : ¬ M .regs) (h_knots : ¬ M .knots) (h_slots : ¬ M .slots) (h_safeSlots : ¬ M .safeSlots) (a : Nat) (v : Nat) (hz : Keep M z s) :
    KeepW M z (knotWriteEff a v s) := by
  unfold knotWriteEff
  repeat' (first
    | with_reducible assumption
    | with_reducible exact Keep.refl _
    | intro _
    | ((fail_if_success (conv => arg 3; arg 1)); extract_lets +onlyGivenNames t; refine KeepW.cut t ?_ ?_; subst t; rotate_left; clear_value t; intro ht; rotate_right)
    | ((fail_if_success (conv => arg 3; arg 1)); extract_lets +onlyGivenNames t; refine Keep.cut t ?_ ?_; subst t; rotate_left; clear_value t; intro ht; rotate_right)
    | ((fail_if_success (conv => arg 3; arg 1)); extract_lets +onlyGivenNames t; subst t)
    | with_reducible apply regSetBits_keep
    | with_reducible apply knotRaise_keep
    | with_reducible apply Keep.ite
    | with_reducible apply KeepW.ite
    | with_reducible apply KeepW.done
    | with_reducible apply KeepW.denied
    | split
    | dsimp -zeta only)

theorem armEff_keep {M : Part → Prop} {z s : State} (h_regs : ¬ M .regs) (h_od : ¬ M .od) (h_slots : ¬ M .slots) (h_safeSlots : ¬ M .safeSlots) (safety : Bool) (w : Nat) (v : Nat) (acc : Access) (hz : Keep M z s) :
    KeepW M z (armEff safety w v acc s) := by
  unfold armEff
  repeat' (first
    | with_reducible assumption
    | with_reducible exact Keep.refl _
    | intro _
    | ((fail_if_success (conv => arg 3; arg 1)); extract_lets +onlyGivenNames t; refine KeepW.cut t ?_ ?_; subst t; rotate_left; clear_value t; intro ht; rotate_right)
    | ((fail_if_success (conv => arg 3; arg 1)); extract_lets +onlyGivenNames t; refine Keep.cut t ?_ ?_; subst t; rotate_left; clear_value t; intro ht; rotate_right)
    | ((fail_if_success (conv => arg 3; arg 1)); extract_lets +onlyGivenNames t; subst t)
    | with_reducible apply odCount_keep
    | with_reducible apply putSlot_keep
    | with_reducible apply slotComplete_keep
    | with_reducible apply Keep.ite
    | with_reducible apply KeepW.ite
    | with_reducible apply KeepW.done
    | with_reducible apply KeepW.denied
    | split
    | dsimp -zeta only)

theorem slotsRevoke_keep {M : Part → Prop} {z s : State} (h_regs : ¬ M .regs) (h_slots : ¬ M .slots) (h_safeSlots : ¬ M .safeSlots) (k : Nat) (hz : Keep M z s) :
    Keep M z (slotsRevoke k s) := by
  unfold slotsRevoke
  repeat' (first
    | with_reducible assumption
    | with_reducible exact Keep.refl _
    | intro _
    | ((fail_if_success (conv => arg 3; arg 1)); extract_lets +onlyGivenNames t; refine Keep.cut t ?_ ?_; subst t; rotate_left; clear_value t; intro ht; rotate_right)
    | ((fail_if_success (conv => arg 3; arg 1)); extract_lets +onlyGivenNames t; refine KeepP.cut t ?_ ?_; subst t; rotate_left; clear_value t; intro ht; rotate_right)
    | ((fail_if_success (conv => arg 3; arg 1)); extract_lets +onlyGivenNames t; subst t)
    | with_reducible apply slotComplete_keep
    | with_reducible apply Keep.ite
    | ((fail_if_success (conv => arg 3; arg 3)); with_reducible apply KeepP.mk')
    | with_reducible apply KeepP.foldl
    | with_reducible apply Keep.foldl
    | with_reducible apply KeepP.fst
    | split
    | dsimp -zeta only)

theorem execKnotSignalWrite_keep {M : Part → Prop} {z s : State} (h_dev : ¬ M .dev) (h_now : ¬ M .now) (h_regs : ¬ M .regs) (h_hold : ¬ M .hold) (h_od : ¬ M .od) (h_pwr : ¬ M .pwr) (h_start : ¬ M .start) (h_sdg : ¬ M .sdg) (h_frz : ¬ M .frz) (h_apps : ¬ M .apps) (h_knots : ¬ M .knots) (h_pack : ¬ M .pack) (h_splice : ¬ M .splice) (h_slots : ¬ M .slots) (h_safeSlots : ¬ M .safeSlots) (h_gtime : ¬ M .gtime) (knot : Fin 4096) (acc : Access) (value : Word) (hz : Keep M z s) :
    KeepN M z (execKnotSignalWrite knot acc value s) := by
  unfold execKnotSignalWrite
  repeat' (first
    | with_reducible assumption
    | with_reducible exact Keep.refl _
    | intro _
    | with_reducible apply KeepN.next
    | with_reducible apply regWriteWith_keep
    | with_reducible apply knotWriteEff_keep
    | split
    | dsimp -zeta only)

theorem execWaitArm_keep {M : Part → Prop} {z s : State} (h_dev : ¬ M .dev) (h_now : ¬ M .now) (h_regs : ¬ M .regs) (h_hold : ¬ M .hold) (h_od : ¬ M .od) (h_pwr : ¬ M .pwr) (h_start : ¬ M .start) (h_sdg : ¬ M .sdg) (h_frz : ¬ M .frz) (h_apps : ¬ M .apps) (h_pack : ¬ M .pack) (h_splice : ¬ M .splice) (h_slots : ¬ M .slots) (h_safeSlots : ¬ M .safeSlots) (h_gtime : ¬ M .gtime) (safety : Bool) (slot : Fin 1024) (acc : Access) (value : Word) (hz : Keep M z s) :
    KeepN M z (execWaitArm safety slot acc value s) := by
  unfold execWaitArm
  repeat' (first
    | with_reducible assumption
    | with_reducible exact Keep.refl _
    | intro _
    | with_reducible apply KeepN.next
    | ((fail_if_success (conv => arg 3; arg 1)); extract_lets +onlyGivenNames t; refine KeepN.cut t ?_ ?_; subst t; rotate_left; clear_value t; intro ht; rotate_right)
    | ((fail_if_success (conv => arg 3; arg 1)); extract_lets +onlyGivenNames t; refine Keep.cut t ?_ ?_; subst t; rotate_left; clear_value t; intro ht; rotate_right)
    | ((fail_if_success (conv => arg 3; arg 1)); extract_lets +onlyGivenNames t; subst t)
    | with_reducible apply regWriteWith_keep
    | with_reducible apply armEff_keep
    | with_reducible apply Keep.ite
    | with_reducible apply KeepN.ite
    | split
    | dsimp -zeta only)

theorem execWaitSlotTimeout_keep {M : Part → Prop} {z s : State} (h_now : ¬ M .now) (h_regs : ¬ M .regs) (h_od : ¬ M .od) (h_slots : ¬ M .slots) (h_safeSlots : ¬ M .safeSlots) (h_gtime : ¬ M .gtime) (safety : Bool) (slot : Fin 1024) (hz : Keep M z s) :
    KeepN M z (execWaitSlotTimeout safety slot s) := by
  unfold execWaitSlotTimeout
  repeat' (first
    | with_reducible assumption
    | with_reducible exact Keep.refl _
    | intro _
    | with_reducible apply KeepN.next
    | ((fail_if_success (conv => arg 3; arg 1)); extract_lets +onlyGivenNames t; refine KeepN.cut t ?_ ?_; subst t; rotate_left; clear_value t; intro ht; rotate_right)
    | ((fail_if_success (conv => arg 3; arg 1)); extract_lets +onlyGivenNames t; refine Keep.cut t ?_ ?_; subst t; rotate_left; clear_value t; intro ht; rotate_right)
    | ((fail_if_success (conv => arg 3; arg 1)); extract_lets +onlyGivenNames t; subst t)
    | with_reducible apply advanceTo_keep
    | with_reducible apply odCount_keep
    | with_reducible apply slotComplete_keep
    | with_reducible apply Keep.ite
    | with_reducible apply KeepN.ite
    | split
    | dsimp -zeta only)

end Sys2Proof.Machine
end

