-- ==== Sys2Proof/Laws/KeepPackBody.lean ====
section
/-! SUPPORT. What the operations of Machine/PackBody.lean keep: one lemma each. -/

namespace Sys2Proof.Machine

theorem readAll_keep {M : Part → Prop} {z s : State} (h_dev : ¬ M .dev) (h_free : ¬ M .free) (h_regs : ¬ M .regs) (h_od : ¬ M .od) (h_mem : ¬ M .mem) (h_memCtl : ¬ M .memCtl) (h_pwr : ¬ M .pwr) (h_start : ¬ M .start) (h_sdg : ¬ M .sdg) (h_frz : ¬ M .frz) (h_sec : ¬ M .sec) (h_pack : ¬ M .pack) (l : List (Nat × Nat)) (hz : Keep M z s) :
    KeepP M z (readAll l s) := by
  unfold readAll
  repeat' (first
    | with_reducible assumption
    | with_reducible exact Keep.refl _
    | intro _
    | ((fail_if_success (conv => arg 3; arg 1)); extract_lets +onlyGivenNames t; refine KeepP.cut t ?_ ?_; subst t; rotate_left; clear_value t; intro ht; rotate_right)
    | ((fail_if_success (conv => arg 3; arg 1)); extract_lets +onlyGivenNames t; refine Keep.cut t ?_ ?_; subst t; rotate_left; clear_value t; intro ht; rotate_right)
    | ((fail_if_success (conv => arg 3; arg 1)); extract_lets +onlyGivenNames t; subst t)
    | with_reducible apply readRange_keep
    | ((with_reducible apply readRange_keep_of); with_reducible assumption)
    | ((fail_if_success (fail_if_success (conv => arg 3; arg 39))); with_reducible apply Keep.upd_pack)
    | ((fail_if_success (conv => arg 3; arg 3)); with_reducible apply KeepP.mk')
    | with_reducible apply KeepP.foldl
    | with_reducible apply Keep.foldl
    | with_reducible apply KeepP.fst
    | split
    | dsimp -zeta only)

theorem readAll_keep_of {M : Part → Prop} {l : List (Nat × Nat)} {z s u_ : State} {o_ : Option (List (List Byte))} (e_ : readAll l s = (u_, o_)) (h_dev : ¬ M .dev) (h_free : ¬ M .free) (h_regs : ¬ M .regs) (h_od : ¬ M .od) (h_mem : ¬ M .mem) (h_memCtl : ¬ M .memCtl) (h_pwr : ¬ M .pwr) (h_start : ¬ M .start) (h_sdg : ¬ M .sdg) (h_frz : ¬ M .frz) (h_sec : ¬ M .sec) (h_pack : ¬ M .pack)
    (hz : Keep M z s) : Keep M z u_ :=
  (readAll_keep h_dev h_free h_regs h_od h_mem h_memCtl h_pwr h_start h_sdg h_frz h_sec h_pack _ hz).of e_

theorem matmulTile_keep {M : Part → Prop} {z s : State} (h_dev : ¬ M .dev) (h_free : ¬ M .free) (h_regs : ¬ M .regs) (h_od : ¬ M .od) (h_mem : ¬ M .mem) (h_memCtl : ¬ M .memCtl) (h_pwr : ¬ M .pwr) (h_start : ¬ M .start) (h_sdg : ¬ M .sdg) (h_frz : ¬ M .frz) (h_sec : ¬ M .sec) (h_pack : ¬ M .pack) (d : List Byte) (t : Nat) (hz : Keep M z s) :
    KeepP M z (matmulTile d t s) := by
  unfold matmulTile
  repeat' (first
    | with_reducible assumption
    | with_reducible exact Keep.refl _
    | intro _
    | ((fail_if_success (conv => arg 3; arg 1)); extract_lets +onlyGivenNames t; refine KeepP.cut t ?_ ?_; subst t; rotate_left; clear_value t; intro ht; rotate_right)
    | ((fail_if_success (conv => arg 3; arg 1)); extract_lets +onlyGivenNames t; refine Keep.cut t ?_ ?_; subst t; rotate_left; clear_value t; intro ht; rotate_right)
    | ((fail_if_success (conv => arg 3; arg 1)); extract_lets +onlyGivenNames t; subst t)
    | with_reducible apply readAll_keep
    | ((with_reducible apply readAll_keep_of); with_reducible assumption)
    | with_reducible apply Keep.ite
    | with_reducible apply KeepP.ite
    | ((fail_if_success (conv => arg 3; arg 3)); with_reducible apply KeepP.mk')
    | with_reducible apply KeepP.fst
    | split
    | dsimp -zeta only)

theorem matmulTile_keep_of {M : Part → Prop} {d : List Byte} {t : Nat} {z s u_ : State} {o_ : Option (List (Nat × List Byte))} (e_ : matmulTile d t s = (u_, o_)) (h_dev : ¬ M .dev) (h_free : ¬ M .free) (h_regs : ¬ M .regs) (h_od : ¬ M .od) (h_mem : ¬ M .mem) (h_memCtl : ¬ M .memCtl) (h_pwr : ¬ M .pwr) (h_start : ¬ M .start) (h_sdg : ¬ M .sdg) (h_frz : ¬ M .frz) (h_sec : ¬ M .sec) (h_pack : ¬ M .pack)
    (hz : Keep M z s) : Keep M z u_ :=
  (matmulTile_keep h_dev h_free h_regs h_od h_mem h_memCtl h_pwr h_start h_sdg h_frz h_sec h_pack _ _ hz).of e_

theorem convTile_keep {M : Part → Prop} {z s : State} (h_dev : ¬ M .dev) (h_free : ¬ M .free) (h_regs : ¬ M .regs) (h_od : ¬ M .od) (h_mem : ¬ M .mem) (h_memCtl : ¬ M .memCtl) (h_pwr : ¬ M .pwr) (h_start : ¬ M .start) (h_sdg : ¬ M .sdg) (h_frz : ¬ M .frz) (h_sec : ¬ M .sec) (h_pack : ¬ M .pack) (d : List Byte) (t : Nat) (hz : Keep M z s) :
    KeepP M z (convTile d t s) := by
  unfold convTile
  repeat' (first
    | with_reducible assumption
    | with_reducible exact Keep.refl _
    | intro _
    | ((fail_if_success (conv => arg 3; arg 1)); extract_lets +onlyGivenNames t; refine KeepP.cut t ?_ ?_; subst t; rotate_left; clear_value t; intro ht; rotate_right)
    | ((fail_if_success (conv => arg 3; arg 1)); extract_lets +onlyGivenNames t; refine Keep.cut t ?_ ?_; subst t; rotate_left; clear_value t; intro ht; rotate_right)
    | ((fail_if_success (conv => arg 3; arg 1)); extract_lets +onlyGivenNames t; subst t)
    | with_reducible apply readAll_keep
    | ((with_reducible apply readAll_keep_of); with_reducible assumption)
    | with_reducible apply Keep.ite
    | with_reducible apply KeepP.ite
    | ((fail_if_success (conv => arg 3; arg 3)); with_reducible apply KeepP.mk')
    | with_reducible apply KeepP.fst
    | split
    | dsimp -zeta only)

theorem convTile_keep_of {M : Part → Prop} {d : List Byte} {t : Nat} {z s u_ : State} {o_ : Option (List (Nat × List Byte))} (e_ : convTile d t s = (u_, o_)) (h_dev : ¬ M .dev) (h_free : ¬ M .free) (h_regs : ¬ M .regs) (h_od : ¬ M .od) (h_mem : ¬ M .mem) (h_memCtl : ¬ M .memCtl) (h_pwr : ¬ M .pwr) (h_start : ¬ M .start) (h_sdg : ¬ M .sdg) (h_frz : ¬ M .frz) (h_sec : ¬ M .sec) (h_pack : ¬ M .pack)
    (hz : Keep M z s) : Keep M z u_ :=
  (convTile_keep h_dev h_free h_regs h_od h_mem h_memCtl h_pwr h_start h_sdg h_frz h_sec h_pack _ _ hz).of e_

theorem vecTile_keep {M : Part → Prop} {z s : State} (h_dev : ¬ M .dev) (h_free : ¬ M .free) (h_regs : ¬ M .regs) (h_od : ¬ M .od) (h_mem : ¬ M .mem) (h_memCtl : ¬ M .memCtl) (h_pwr : ¬ M .pwr) (h_start : ¬ M .start) (h_sdg : ¬ M .sdg) (h_frz : ¬ M .frz) (h_sec : ¬ M .sec) (h_pack : ¬ M .pack) (d : List Byte) (t : Nat) (hz : Keep M z s) :
    KeepP M z (vecTile d t s) := by
  unfold vecTile
  repeat' (first
    | with_reducible assumption
    | with_reducible exact Keep.refl _
    | intro _
    | ((fail_if_success (conv => arg 3; arg 1)); extract_lets +onlyGivenNames t; refine KeepP.cut t ?_ ?_; subst t; rotate_left; clear_value t; intro ht; rotate_right)
    | ((fail_if_success (conv => arg 3; arg 1)); extract_lets +onlyGivenNames t; refine Keep.cut t ?_ ?_; subst t; rotate_left; clear_value t; intro ht; rotate_right)
    | ((fail_if_success (conv => arg 3; arg 1)); extract_lets +onlyGivenNames t; subst t)
    | with_reducible apply readAll_keep
    | ((with_reducible apply readAll_keep_of); with_reducible assumption)
    | with_reducible apply Keep.ite
    | with_reducible apply KeepP.ite
    | ((fail_if_success (conv => arg 3; arg 3)); with_reducible apply KeepP.mk')
    | with_reducible apply KeepP.fst
    | split
    | dsimp -zeta only)

theorem vecTile_keep_of {M : Part → Prop} {d : List Byte} {t : Nat} {z s u_ : State} {o_ : Option (List (Nat × List Byte))} (e_ : vecTile d t s = (u_, o_)) (h_dev : ¬ M .dev) (h_free : ¬ M .free) (h_regs : ¬ M .regs) (h_od : ¬ M .od) (h_mem : ¬ M .mem) (h_memCtl : ¬ M .memCtl) (h_pwr : ¬ M .pwr) (h_start : ¬ M .start) (h_sdg : ¬ M .sdg) (h_frz : ¬ M .frz) (h_sec : ¬ M .sec) (h_pack : ¬ M .pack)
    (hz : Keep M z s) : Keep M z u_ :=
  (vecTile_keep h_dev h_free h_regs h_od h_mem h_memCtl h_pwr h_start h_sdg h_frz h_sec h_pack _ _ hz).of e_

theorem copyTile_keep {M : Part → Prop} {z s : State} (h_dev : ¬ M .dev) (h_free : ¬ M .free) (h_regs : ¬ M .regs) (h_od : ¬ M .od) (h_mem : ¬ M .mem) (h_memCtl : ¬ M .memCtl) (h_pwr : ¬ M .pwr) (h_start : ¬ M .start) (h_sdg : ¬ M .sdg) (h_frz : ¬ M .frz) (h_sec : ¬ M .sec) (h_pack : ¬ M .pack) (d : List Byte) (t : Nat) (hz : Keep M z s) :
    KeepP M z (copyTile d t s) := by
  unfold copyTile
  repeat' (first
    | with_reducible assumption
    | with_reducible exact Keep.refl _
    | intro _
    | ((fail_if_success (conv => arg 3; arg 1)); extract_lets +onlyGivenNames t; refine KeepP.cut t ?_ ?_; subst t; rotate_left; clear_value t; intro ht; rotate_right)
    | ((fail_if_success (conv => arg 3; arg 1)); extract_lets +onlyGivenNames t; refine Keep.cut t ?_ ?_; subst t; rotate_left; clear_value t; intro ht; rotate_right)
    | ((fail_if_success (conv => arg 3; arg 1)); extract_lets +onlyGivenNames t; subst t)
    | with_reducible apply readAll_keep
    | ((with_reducible apply readAll_keep_of); with_reducible assumption)
    | ((fail_if_success (conv => arg 3; arg 3)); with_reducible apply KeepP.mk')
    | with_reducible apply KeepP.fst
    | split
    | dsimp -zeta only)

theorem copyTile_keep_of {M : Part → Prop} {d : List Byte} {t : Nat} {z s u_ : State} {o_ : Option (List (Nat × List Byte))} (e_ : copyTile d t s = (u_, o_)) (h_dev : ¬ M .dev) (h_free : ¬ M .free) (h_regs : ¬ M .regs) (h_od : ¬ M .od) (h_mem : ¬ M .mem) (h_memCtl : ¬ M .memCtl) (h_pwr : ¬ M .pwr) (h_start : ¬ M .start) (h_sdg : ¬ M .sdg) (h_frz : ¬ M .frz) (h_sec : ¬ M .sec) (h_pack : ¬ M .pack)
    (hz : Keep M z s) : Keep M z u_ :=
  (copyTile_keep h_dev h_free h_regs h_od h_mem h_memCtl h_pwr h_start h_sdg h_frz h_sec h_pack _ _ hz).of e_

end Sys2Proof.Machine
end

