-- ==== Sys2Proof/Laws/KeepCimOps.lean ====
section
/-! SUPPORT. What the operations of Machine/CimOps.lean keep: one lemma each. -/

namespace Sys2Proof.Machine

theorem ctEmpty_keep {M : Part → Prop} {z s : State} (h_cim : ¬ M .cim) (t : Nat) (hz : Keep M z s) :
    Keep M z (ctEmpty t s) := by
  unfold ctEmpty
  repeat' (first
    | with_reducible assumption
    | with_reducible exact Keep.refl _
    | intro _
    | ((fail_if_success (fail_if_success (conv => arg 3; arg 39))); with_reducible apply Keep.upd_cim)
    | with_reducible apply KeepP.fst
    | split
    | dsimp -zeta only)

theorem cimRunTile_keep {M : Part → Prop} {z s : State} (h_dev : ¬ M .dev) (h_free : ¬ M .free) (h_regs : ¬ M .regs) (h_od : ¬ M .od) (h_mem : ¬ M .mem) (h_memCtl : ¬ M .memCtl) (h_pwr : ¬ M .pwr) (h_start : ¬ M .start) (h_sdg : ¬ M .sdg) (h_frz : ¬ M .frz) (h_sec : ¬ M .sec) (h_pack : ¬ M .pack) (d : List Byte) (t : Nat) (work : Nat) (hz : Keep M z s) :
    KeepP M z (cimRunTile d t work s) := by
  unfold cimRunTile
  repeat' (first
    | with_reducible assumption
    | with_reducible exact Keep.refl _
    | intro _
    | ((fail_if_success (conv => arg 3; arg 1)); extract_lets +onlyGivenNames t; refine KeepP.cut t ?_ ?_; subst t; rotate_left; clear_value t; intro ht; rotate_right)
    | ((fail_if_success (conv => arg 3; arg 1)); extract_lets +onlyGivenNames t; refine Keep.cut t ?_ ?_; subst t; rotate_left; clear_value t; intro ht; rotate_right)
    | ((fail_if_success (conv => arg 3; arg 1)); extract_lets +onlyGivenNames t; subst t)
    | with_reducible apply readAll_keep
    | ((with_reducible apply readAll_keep_of); with_reducible assumption)
    | with_reducible apply Keep.ite
    | with_reducible apply KeepP.ite
    | ((fail_if_success (conv => arg 3; arg 3)); with_reducible apply KeepP.mk')
    | with_reducible apply KeepP.fst
    | split
    | dsimp -zeta only)

theorem cimRunTile_keep_of {M : Part → Prop} {d : List Byte} {t : Nat} {work : Nat} {z s u_ : State} {o_ : Option (List (Nat × List Byte) × Nat × Nat)} (e_ : cimRunTile d t work s = (u_, o_)) (h_dev : ¬ M .dev) (h_free : ¬ M .free) (h_regs : ¬ M .regs) (h_od : ¬ M .od) (h_mem : ¬ M .mem) (h_memCtl : ¬ M .memCtl) (h_pwr : ¬ M .pwr) (h_start : ¬ M .start) (h_sdg : ¬ M .sdg) (h_frz : ¬ M .frz) (h_sec : ¬ M .sec) (h_pack : ¬ M .pack)
    (hz : Keep M z s) : Keep M z u_ :=
  (cimRunTile_keep h_dev h_free h_regs h_od h_mem h_memCtl h_pwr h_start h_sdg h_frz h_sec h_pack _ _ _ hz).of e_

theorem loadBegin_keep {M : Part → Prop} {z s : State} (h_cim : ¬ M .cim) (t : Nat) (claim : Nat) (ls : List Layer) (recs : List (Nat × Nat)) (hz : Keep M z s) :
    Keep M z (loadBegin t claim ls recs s) := by
  unfold loadBegin
  repeat' (first
    | with_reducible assumption
    | with_reducible exact Keep.refl _
    | intro _
    | ((fail_if_success (conv => arg 3; arg 1)); extract_lets +onlyGivenNames t; refine Keep.cut t ?_ ?_; subst t; rotate_left; clear_value t; intro ht; rotate_right)
    | ((fail_if_success (conv => arg 3; arg 1)); extract_lets +onlyGivenNames t; refine KeepP.cut t ?_ ?_; subst t; rotate_left; clear_value t; intro ht; rotate_right)
    | ((fail_if_success (conv => arg 3; arg 1)); extract_lets +onlyGivenNames t; subst t)
    | with_reducible apply putCt_keep
    | with_reducible apply putMacro_keep
    | with_reducible apply Keep.foldl
    | split
    | dsimp -zeta only)

theorem loadImage_keep {M : Part → Prop} {z s : State} (h_dev : ¬ M .dev) (h_free : ¬ M .free) (h_regs : ¬ M .regs) (h_od : ¬ M .od) (h_mem : ¬ M .mem) (h_memCtl : ¬ M .memCtl) (h_pwr : ¬ M .pwr) (h_start : ¬ M .start) (h_sdg : ¬ M .sdg) (h_frz : ¬ M .frz) (h_sec : ¬ M .sec) (h_pack : ¬ M .pack) (d : List Byte) (hz : Keep M z s) :
    KeepP M z (loadImage d s) := by
  unfold loadImage
  repeat' (first
    | with_reducible assumption
    | with_reducible exact Keep.refl _
    | intro _
    | ((fail_if_success (conv => arg 3; arg 1)); extract_lets +onlyGivenNames t; refine KeepP.cut t ?_ ?_; subst t; rotate_left; clear_value t; intro ht; rotate_right)
    | ((fail_if_success (conv => arg 3; arg 1)); extract_lets +onlyGivenNames t; refine Keep.cut t ?_ ?_; subst t; rotate_left; clear_value t; intro ht; rotate_right)
    | ((fail_if_success (conv => arg 3; arg 1)); extract_lets +onlyGivenNames t; subst t)
    | with_reducible apply readRange_keep
    | ((with_reducible apply readRange_keep_of); with_reducible assumption)
    | with_reducible apply readAll_keep
    | ((with_reducible apply readAll_keep_of); with_reducible assumption)
    | ((fail_if_success (fail_if_success (conv => arg 3; arg 39))); with_reducible apply Keep.upd_pack)
    | with_reducible apply Keep.ite
    | with_reducible apply KeepP.ite
    | ((fail_if_success (conv => arg 3; arg 3)); with_reducible apply KeepP.mk')
    | with_reducible apply KeepP.fst
    | split
    | dsimp -zeta only)

theorem loadImage_keep_of {M : Part → Prop} {d : List Byte} {z s u_ : State} {o_ : Except Nat (List Layer × List (Nat × Nat))} (e_ : loadImage d s = (u_, o_)) (h_dev : ¬ M .dev) (h_free : ¬ M .free) (h_regs : ¬ M .regs) (h_od : ¬ M .od) (h_mem : ¬ M .mem) (h_memCtl : ¬ M .memCtl) (h_pwr : ¬ M .pwr) (h_start : ¬ M .start) (h_sdg : ¬ M .sdg) (h_frz : ¬ M .frz) (h_sec : ¬ M .sec) (h_pack : ¬ M .pack)
    (hz : Keep M z s) : Keep M z u_ :=
  (loadImage_keep h_dev h_free h_regs h_od h_mem h_memCtl h_pwr h_start h_sdg h_frz h_sec h_pack _ hz).of e_

theorem makeDue_keep {M : Part → Prop} {z s : State} (h_cim : ¬ M .cim) (t : Nat) (m : Nat) (hz : Keep M z s) :
    Keep M z (makeDue t m s) := by
  unfold makeDue
  repeat' (first
    | with_reducible assumption
    | with_reducible exact Keep.refl _
    | intro _
    | ((fail_if_success (conv => arg 3; arg 1)); extract_lets +onlyGivenNames t; refine Keep.cut t ?_ ?_; subst t; rotate_left; clear_value t; intro ht; rotate_right)
    | ((fail_if_success (conv => arg 3; arg 1)); extract_lets +onlyGivenNames t; subst t)
    | with_reducible apply putMacro_keep
    | with_reducible apply Keep.ite
    | split
    | dsimp -zeta only)

theorem execCalDue_keep {M : Part → Prop} {z s : State} (h_now : ¬ M .now) (h_cim : ¬ M .cim) (h_gtime : ¬ M .gtime) (tile : Fin 16) (macroNo : Fin 64) (tempC10 : Int) (hz : Keep M z s) :
    KeepN M z (execCalDue tile macroNo tempC10 s) := by
  unfold execCalDue
  repeat' (first
    | with_reducible assumption
    | with_reducible exact Keep.refl _
    | intro _
    | with_reducible apply KeepN.next
    | ((fail_if_success (conv => arg 3; arg 1)); extract_lets +onlyGivenNames t; refine KeepN.cut t ?_ ?_; subst t; rotate_left; clear_value t; intro ht; rotate_right)
    | ((fail_if_success (conv => arg 3; arg 1)); extract_lets +onlyGivenNames t; refine Keep.cut t ?_ ?_; subst t; rotate_left; clear_value t; intro ht; rotate_right)
    | ((fail_if_success (conv => arg 3; arg 1)); extract_lets +onlyGivenNames t; subst t)
    | with_reducible apply advanceTo_keep
    | with_reducible apply putCt_keep
    | with_reducible apply makeDue_keep
    | with_reducible apply Keep.ite
    | with_reducible apply KeepN.ite
    | split
    | dsimp -zeta only)

theorem execCalibrationStart_keep {M : Part → Prop} {z s : State} (h_cim : ¬ M .cim) (tile : Fin 16) (hz : Keep M z s) :
    KeepN M z (execCalibrationStart tile s) := by
  unfold execCalibrationStart
  repeat' (first
    | with_reducible assumption
    | with_reducible exact Keep.refl _
    | intro _
    | with_reducible apply KeepN.next
    | ((fail_if_success (conv => arg 3; arg 1)); extract_lets +onlyGivenNames t; refine KeepN.cut t ?_ ?_; subst t; rotate_left; clear_value t; intro ht; rotate_right)
    | ((fail_if_success (conv => arg 3; arg 1)); extract_lets +onlyGivenNames t; refine Keep.cut t ?_ ?_; subst t; rotate_left; clear_value t; intro ht; rotate_right)
    | ((fail_if_success (conv => arg 3; arg 1)); extract_lets +onlyGivenNames t; subst t)
    | with_reducible apply putCt_keep
    | with_reducible apply Keep.ite
    | with_reducible apply KeepN.ite
    | split
    | dsimp -zeta only)

theorem loadsFinish_keep {M : Part → Prop} {z s : State} (h_od : ¬ M .od) (h_pack : ¬ M .pack) (t : Nat) (hz : Keep M z s) :
    Keep M z (loadsFinish t s) := by
  unfold loadsFinish
  repeat' (first
    | with_reducible assumption
    | with_reducible exact Keep.refl _
    | intro _
    | ((fail_if_success (conv => arg 3; arg 1)); extract_lets +onlyGivenNames t; refine Keep.cut t ?_ ?_; subst t; rotate_left; clear_value t; intro ht; rotate_right)
    | ((fail_if_success (conv => arg 3; arg 1)); extract_lets +onlyGivenNames t; subst t)
    | with_reducible apply odCount_keep
    | with_reducible apply mapQueues_keep
    | with_reducible apply Keep.ite
    | with_reducible apply KeepW.done
    | with_reducible apply KeepW.denied
    | with_reducible apply KeepP.fst
    | split
    | dsimp -zeta only)

theorem execCalibrationDone_keep {M : Part → Prop} {z s : State} (h_dev : ¬ M .dev) (h_now : ¬ M .now) (h_regs : ¬ M .regs) (h_od : ¬ M .od) (h_pwr : ¬ M .pwr) (h_start : ¬ M .start) (h_sdg : ¬ M .sdg) (h_frz : ¬ M .frz) (h_pack : ¬ M .pack) (h_cim : ¬ M .cim) (h_gtime : ¬ M .gtime) (tile : Fin 16) (fit : List (Nat × Nat)) (residualOk : Bool) (hz : Keep M z s) :
    KeepN M z (execCalibrationDone tile fit residualOk s) := by
  unfold execCalibrationDone
  repeat' (first
    | with_reducible assumption
    | with_reducible exact Keep.refl _
    | intro _
    | with_reducible apply KeepN.next
    | ((fail_if_success (conv => arg 3; arg 1)); extract_lets +onlyGivenNames t; refine KeepN.cut t ?_ ?_; subst t; rotate_left; clear_value t; intro ht; rotate_right)
    | ((fail_if_success (conv => arg 3; arg 1)); extract_lets +onlyGivenNames t; refine Keep.cut t ?_ ?_; subst t; rotate_left; clear_value t; intro ht; rotate_right)
    | ((fail_if_success (conv => arg 3; arg 1)); extract_lets +onlyGivenNames t; subst t)
    | with_reducible apply advanceTo_keep
    | with_reducible apply regCount_keep
    | with_reducible apply odCount_keep
    | with_reducible apply raiseAlarm_keep
    | with_reducible apply putCt_keep
    | with_reducible apply putMacro_keep
    | with_reducible apply loadsFinish_keep
    | with_reducible apply Keep.ite
    | with_reducible apply KeepN.ite
    | split
    | dsimp -zeta only)

theorem execCalOverdue_keep {M : Part → Prop} {z s : State} (h_dev : ¬ M .dev) (h_now : ¬ M .now) (h_regs : ¬ M .regs) (h_od : ¬ M .od) (h_pwr : ¬ M .pwr) (h_start : ¬ M .start) (h_sdg : ¬ M .sdg) (h_frz : ¬ M .frz) (h_pack : ¬ M .pack) (h_cim : ¬ M .cim) (h_gtime : ¬ M .gtime) (tile : Fin 16) (macroNo : Fin 64) (hz : Keep M z s) :
    KeepN M z (execCalOverdue tile macroNo s) := by
  unfold execCalOverdue
  repeat' (first
    | with_reducible assumption
    | with_reducible exact Keep.refl _
    | intro _
    | with_reducible apply KeepN.next
    | ((fail_if_success (conv => arg 3; arg 1)); extract_lets +onlyGivenNames t; refine KeepN.cut t ?_ ?_; subst t; rotate_left; clear_value t; intro ht; rotate_right)
    | ((fail_if_success (conv => arg 3; arg 1)); extract_lets +onlyGivenNames t; refine Keep.cut t ?_ ?_; subst t; rotate_left; clear_value t; intro ht; rotate_right)
    | ((fail_if_success (conv => arg 3; arg 1)); extract_lets +onlyGivenNames t; subst t)
    | with_reducible apply advanceTo_keep
    | with_reducible apply raiseAlarm_keep
    | with_reducible apply putMacro_keep
    | with_reducible apply Keep.ite
    | with_reducible apply KeepN.ite
    | with_reducible apply KeepP.fst
    | split
    | dsimp -zeta only)

end Sys2Proof.Machine
end

