-- ==== Sys2Proof/Laws/KeepKennel.lean ====
section
/-! SUPPORT. What the operations of Machine/Kennel.lean keep: one lemma each. -/

namespace Sys2Proof.Machine

theorem instEvent_keep {M : Part → Prop} {z s : State} (h_regs : ¬ M .regs) (n : Nat) (b : Nat) (hz : Keep M z s) :
    Keep M z (instEvent n b s) := by
  unfold instEvent
  repeat' (first
    | with_reducible assumption
    | with_reducible exact Keep.refl _
    | intro _
    | with_reducible apply regSetBits_keep
    | with_reducible apply sendMsg_keep
    | split
    | dsimp -zeta only)

theorem lateResult_keep {M : Part → Prop} {z s : State} (h_regs : ¬ M .regs) (h_od : ¬ M .od) (n : Nat) (hz : Keep M z s) :
    Keep M z (lateResult n s) := by
  unfold lateResult
  repeat' (first
    | with_reducible assumption
    | with_reducible exact Keep.refl _
    | intro _
    | with_reducible apply regCount_keep
    | with_reducible apply odCount_keep
    | split
    | dsimp -zeta only)

theorem configChanged_keep {M : Part → Prop} {z s : State} (h_regs : ¬ M .regs) (h_pack : ¬ M .pack) (n : Nat) (hz : Keep M z s) :
    Keep M z (configChanged n s) := by
  unfold configChanged
  repeat' (first
    | with_reducible assumption
    | with_reducible exact Keep.refl _
    | intro _
    | ((fail_if_success (conv => arg 3; arg 1)); extract_lets +onlyGivenNames t; refine Keep.cut t ?_ ?_; subst t; rotate_left; clear_value t; intro ht; rotate_right)
    | ((fail_if_success (conv => arg 3; arg 1)); extract_lets +onlyGivenNames t; subst t)
    | with_reducible apply putInst_keep
    | with_reducible apply instEvent_keep
    | with_reducible apply Keep.ite
    | split
    | dsimp -zeta only)

theorem putSeq_keep {M : Part → Prop} {z s : State} (h_kennel : ¬ M .kennel) (h : Nat) (v : Seq) (hz : Keep M z s) :
    Keep M z (putSeq h v s) := by
  unfold putSeq
  repeat' (first
    | with_reducible assumption
    | with_reducible exact Keep.refl _
    | intro _
    | ((fail_if_success (fail_if_success (conv => arg 3; arg 39))); with_reducible apply Keep.upd_kennel)
    | split
    | dsimp -zeta only)

theorem takePage_keep {M : Part → Prop} {z s : State} (h_free : ¬ M .free) (extra : List (Nat × Nat)) (c : Nat) (hz : Keep M z s) :
    KeepP M z (takePage extra c s) := by
  unfold takePage
  repeat' (first
    | with_reducible assumption
    | with_reducible exact Keep.refl _
    | intro _
    | ((fail_if_success (conv => arg 3; arg 1)); extract_lets +onlyGivenNames t; refine KeepP.cut t ?_ ?_; subst t; rotate_left; clear_value t; intro ht; rotate_right)
    | ((fail_if_success (conv => arg 3; arg 1)); extract_lets +onlyGivenNames t; refine Keep.cut t ?_ ?_; subst t; rotate_left; clear_value t; intro ht; rotate_right)
    | ((fail_if_success (conv => arg 3; arg 1)); extract_lets +onlyGivenNames t; subst t)
    | with_reducible apply takeFree_keep
    | with_reducible apply Keep.ite
    | with_reducible apply KeepP.ite
    | ((fail_if_success (conv => arg 3; arg 3)); with_reducible apply KeepP.mk')
    | split
    | dsimp -zeta only)

theorem takePage_keep_of {M : Part → Prop} {extra : List (Nat × Nat)} {c : Nat} {z s u_ : State} {o_ : Option Nat} (e_ : takePage extra c s = (u_, o_)) (h_free : ¬ M .free)
    (hz : Keep M z s) : Keep M z u_ :=
  (takePage_keep h_free _ _ hz).of e_

theorem growPages_keep {M : Part → Prop} (h_free : ¬ M .free) (q : Seq) (lim n : Nat) : ∀ (acc : List Page) {z s : State}, Keep M z s →
    KeepP M z (growPages q lim n acc s) := by
  induction n with
  | zero => intro acc z s hz; exact ⟨hz⟩
  | succ n ih =>
    intro acc z s hz
    unfold growPages
    extract_lets nx
    clear_value nx
    with_reducible apply KeepP.ite
    · exact ⟨hz⟩
    · split
      · rename_i e
        exact ⟨takePage_keep_of e h_free hz⟩
      · rename_i e
        exact ih _ (takePage_keep_of e h_free hz)

theorem growPages_keep_of {M : Part → Prop} {q : Seq} {lim n : Nat} {acc : List Page} {z s u_ : State} {o_ : Option (List Page)}
    (e_ : growPages q lim n acc s = (u_, o_)) (h_free : ¬ M .free) (hz : Keep M z s) : Keep M z u_ :=
  (growPages_keep h_free q lim n acc hz).of e_

theorem tryAlloc_keep {M : Part → Prop} {z s : State} (h_free : ¬ M .free) (h_kennel : ¬ M .kennel) (h : Nat) (lim : Nat) (hz : Keep M z s) :
    KeepP M z (tryAlloc h lim s) := by
  unfold tryAlloc
  repeat' (first
    | with_reducible assumption
    | with_reducible exact Keep.refl _
    | intro _
    | ((fail_if_success (conv => arg 3; arg 1)); extract_lets +onlyGivenNames t; refine KeepP.cut t ?_ ?_; subst t; rotate_left; clear_value t; intro ht; rotate_right)
    | ((fail_if_success (conv => arg 3; arg 1)); extract_lets +onlyGivenNames t; refine Keep.cut t ?_ ?_; subst t; rotate_left; clear_value t; intro ht; rotate_right)
    | ((fail_if_success (conv => arg 3; arg 1)); extract_lets +onlyGivenNames t; subst t)
    | with_reducible apply putSeq_keep
    | with_reducible apply growPages_keep
    | ((with_reducible apply growPages_keep_of); with_reducible assumption)
    | with_reducible apply Keep.ite
    | with_reducible apply KeepP.ite
    | ((fail_if_success (conv => arg 3; arg 3)); with_reducible apply KeepP.mk')
    | with_reducible apply KeepP.fst
    | split
    | dsimp -zeta only)

theorem tryAlloc_keep_of {M : Part → Prop} {h : Nat} {lim : Nat} {z s u_ : State} {o_ : AllocRes} (e_ : tryAlloc h lim s = (u_, o_)) (h_free : ¬ M .free) (h_kennel : ¬ M .kennel)
    (hz : Keep M z s) : Keep M z u_ :=
  (tryAlloc_keep h_free h_kennel _ _ hz).of e_

theorem memZero_keep {M : Part → Prop} {z s : State} (h_mem : ¬ M .mem) (h_memCtl : ¬ M .memCtl) (a : Nat) (len : Nat) (hz : Keep M z s) :
    Keep M z (memZero a len s) := by
  unfold memZero
  repeat' (first
    | with_reducible assumption
    | with_reducible exact Keep.refl _
    | intro _
    | ((fail_if_success (conv => arg 3; arg 1)); extract_lets +onlyGivenNames t; refine Keep.cut t ?_ ?_; subst t; rotate_left; clear_value t; intro ht; rotate_right)
    | ((fail_if_success (conv => arg 3; arg 1)); extract_lets +onlyGivenNames t; subst t)
    | exact tabWf_filter _ ‹_›
    | ((fail_if_success (fail_if_success (conv => arg 3; arg 39))); with_reducible apply Keep.upd_mem_memCtl)
    | with_reducible apply KeepP.fst
    | split
    | dsimp -zeta only)

theorem giveBack_keep {M : Part → Prop} {z s : State} (h_kennel : ¬ M .kennel) (l : List Page) (hz : Keep M z s) :
    Keep M z (giveBack l s) := by
  unfold giveBack
  repeat' (first
    | with_reducible assumption
    | with_reducible exact Keep.refl _
    | intro _
    | ((fail_if_success (fail_if_success (conv => arg 3; arg 39))); with_reducible apply Keep.upd_kennel)
    | split
    | dsimp -zeta only)

theorem freeSeq_keep {M : Part → Prop} {z s : State} (h_kennel : ¬ M .kennel) (h : Nat) (hz : Keep M z s) :
    Keep M z (freeSeq h s) := by
  unfold freeSeq
  repeat' (first
    | with_reducible assumption
    | with_reducible exact Keep.refl _
    | intro _
    | ((fail_if_success (conv => arg 3; arg 1)); extract_lets +onlyGivenNames t; refine Keep.cut t ?_ ?_; subst t; rotate_left; clear_value t; intro ht; rotate_right)
    | ((fail_if_success (conv => arg 3; arg 1)); extract_lets +onlyGivenNames t; subst t)
    | with_reducible apply putSeq_keep
    | with_reducible apply giveBack_keep
    | ((fail_if_success (fail_if_success (conv => arg 3; arg 39))); with_reducible apply Keep.upd_kennel)
    | with_reducible apply KeepP.fst
    | split
    | dsimp -zeta only)

theorem releasePages_keep {M : Part → Prop} {z s : State} (h_kennel : ¬ M .kennel) (h : Nat) (hz : Keep M z s) :
    Keep M z (releasePages h s) := by
  unfold releasePages
  repeat' (first
    | with_reducible assumption
    | with_reducible exact Keep.refl _
    | intro _
    | ((fail_if_success (conv => arg 3; arg 1)); extract_lets +onlyGivenNames t; refine Keep.cut t ?_ ?_; subst t; rotate_left; clear_value t; intro ht; rotate_right)
    | ((fail_if_success (conv => arg 3; arg 1)); extract_lets +onlyGivenNames t; subst t)
    | with_reducible apply putSeq_keep
    | with_reducible apply giveBack_keep
    | split
    | dsimp -zeta only)

theorem kennelSettle_keep {M : Part → Prop} {z s : State} (h_kennel : ¬ M .kennel) (hz : Keep M z s) :
    Keep M z (kennelSettle s) := by
  unfold kennelSettle
  repeat' (first
    | with_reducible assumption
    | with_reducible exact Keep.refl _
    | intro _
    | ((fail_if_success (conv => arg 3; arg 1)); extract_lets +onlyGivenNames t; refine Keep.cut t ?_ ?_; subst t; rotate_left; clear_value t; intro ht; rotate_right)
    | ((fail_if_success (conv => arg 3; arg 1)); extract_lets +onlyGivenNames t; refine KeepP.cut t ?_ ?_; subst t; rotate_left; clear_value t; intro ht; rotate_right)
    | ((fail_if_success (conv => arg 3; arg 1)); extract_lets +onlyGivenNames t; subst t)
    | with_reducible apply putSeq_keep
    | with_reducible apply releasePages_keep
    | with_reducible apply Keep.ite
    | ((fail_if_success (conv => arg 3; arg 3)); with_reducible apply KeepP.mk')
    | with_reducible apply KeepP.foldl
    | with_reducible apply Keep.foldl
    | with_reducible apply KeepP.fst
    | split
    | dsimp -zeta only)

theorem makeVictim_keep {M : Part → Prop} {z s : State} (h_pack : ¬ M .pack) (h_kennel : ¬ M .kennel) (h : Nat) (hz : Keep M z s) :
    Keep M z (makeVictim h s) := by
  unfold makeVictim
  repeat' (first
    | with_reducible assumption
    | with_reducible exact Keep.refl _
    | intro _
    | ((fail_if_success (conv => arg 3; arg 1)); extract_lets +onlyGivenNames t; refine Keep.cut t ?_ ?_; subst t; rotate_left; clear_value t; intro ht; rotate_right)
    | ((fail_if_success (conv => arg 3; arg 1)); extract_lets +onlyGivenNames t; subst t)
    | with_reducible apply mapQueues_keep
    | with_reducible apply putSeq_keep
    | with_reducible apply kennelSettle_keep
    | with_reducible apply Keep.ite
    | split
    | dsimp -zeta only)

theorem shortfall_keep {M : Part → Prop} {z s : State} (h_pack : ¬ M .pack) (h_kennel : ¬ M .kennel) (h : Nat) (swapIn : Bool) (quota : Bool) (relief : Bool) (hz : Keep M z s) :
    KeepP M z (shortfall h swapIn quota relief s) := by
  unfold shortfall
  repeat' (first
    | with_reducible assumption
    | with_reducible exact Keep.refl _
    | intro _
    | with_reducible apply makeVictim_keep
    | with_reducible apply Keep.ite
    | with_reducible apply KeepP.ite
    | ((fail_if_success (conv => arg 3; arg 3)); with_reducible apply KeepP.mk')
    | split
    | dsimp -zeta only)

theorem shortfall_keep_of {M : Part → Prop} {h : Nat} {swapIn : Bool} {quota : Bool} {relief : Bool} {z s u_ : State} {o_ : PageRes} (e_ : shortfall h swapIn quota relief s = (u_, o_)) (h_pack : ¬ M .pack) (h_kennel : ¬ M .kennel)
    (hz : Keep M z s) : Keep M z u_ :=
  (shortfall_keep h_pack h_kennel _ _ _ _ hz).of e_

theorem requestPages_keep {M : Part → Prop} {z s : State} (h_free : ¬ M .free) (h_od : ¬ M .od) (h_pack : ¬ M .pack) (h_kennel : ¬ M .kennel) (h : Nat) (key : Nat) (lim : Nat) (hz : Keep M z s) :
    KeepP M z (requestPages h key lim s) := by
  unfold requestPages
  repeat' (first
    | with_reducible assumption
    | with_reducible exact Keep.refl _
    | intro _
    | ((fail_if_success (conv => arg 3; arg 1)); extract_lets +onlyGivenNames t; refine KeepP.cut t ?_ ?_; subst t; rotate_left; clear_value t; intro ht; rotate_right)
    | ((fail_if_success (conv => arg 3; arg 1)); extract_lets +onlyGivenNames t; refine Keep.cut t ?_ ?_; subst t; rotate_left; clear_value t; intro ht; rotate_right)
    | ((fail_if_success (conv => arg 3; arg 1)); extract_lets +onlyGivenNames t; subst t)
    | with_reducible apply odCount_keep
    | with_reducible apply tryAlloc_keep
    | ((with_reducible apply tryAlloc_keep_of); with_reducible assumption)
    | with_reducible apply shortfall_keep
    | ((with_reducible apply shortfall_keep_of); with_reducible assumption)
    | ((fail_if_success (fail_if_success (conv => arg 3; arg 39))); with_reducible apply Keep.upd_kennel)
    | ((fail_if_success (conv => arg 3; arg 3)); with_reducible apply KeepP.mk')
    | with_reducible apply KeepP.fst
    | split
    | dsimp -zeta only)

theorem requestPages_keep_of {M : Part → Prop} {h : Nat} {key : Nat} {lim : Nat} {z s u_ : State} {o_ : PageRes} (e_ : requestPages h key lim s = (u_, o_)) (h_free : ¬ M .free) (h_od : ¬ M .od) (h_pack : ¬ M .pack) (h_kennel : ¬ M .kennel)
    (hz : Keep M z s) : Keep M z u_ :=
  (requestPages_keep h_free h_od h_pack h_kennel _ _ _ hz).of e_

theorem retryPages_keep {M : Part → Prop} {z s : State} (h_free : ¬ M .free) (h_od : ¬ M .od) (h_pack : ¬ M .pack) (h_kennel : ¬ M .kennel) (h : Nat) (key : Nat) (since : Nat) (lim : Nat) (hz : Keep M z s) :
    KeepP M z (retryPages h key since lim s) := by
  unfold retryPages
  repeat' (first
    | with_reducible assumption
    | with_reducible exact Keep.refl _
    | intro _
    | ((fail_if_success (conv => arg 3; arg 1)); extract_lets +onlyGivenNames t; refine KeepP.cut t ?_ ?_; subst t; rotate_left; clear_value t; intro ht; rotate_right)
    | ((fail_if_success (conv => arg 3; arg 1)); extract_lets +onlyGivenNames t; refine Keep.cut t ?_ ?_; subst t; rotate_left; clear_value t; intro ht; rotate_right)
    | ((fail_if_success (conv => arg 3; arg 1)); extract_lets +onlyGivenNames t; subst t)
    | with_reducible apply odMax_keep
    | with_reducible apply tryAlloc_keep
    | ((with_reducible apply tryAlloc_keep_of); with_reducible assumption)
    | with_reducible apply shortfall_keep
    | ((with_reducible apply shortfall_keep_of); with_reducible assumption)
    | ((fail_if_success (fail_if_success (conv => arg 3; arg 39))); with_reducible apply Keep.upd_kennel)
    | ((fail_if_success (conv => arg 3; arg 3)); with_reducible apply KeepP.mk')
    | with_reducible apply KeepP.fst
    | split
    | dsimp -zeta only)

theorem retryPages_keep_of {M : Part → Prop} {h : Nat} {key : Nat} {since : Nat} {lim : Nat} {z s u_ : State} {o_ : PageRes} (e_ : retryPages h key since lim s = (u_, o_)) (h_free : ¬ M .free) (h_od : ¬ M .od) (h_pack : ¬ M .pack) (h_kennel : ¬ M .kennel)
    (hz : Keep M z s) : Keep M z u_ :=
  (retryPages_keep h_free h_od h_pack h_kennel _ _ _ _ hz).of e_

theorem swapRecord_keep {M : Part → Prop} {z s : State} (h_regs : ¬ M .regs) (h_od : ¬ M .od) (h_mem : ¬ M .mem) (h_memCtl : ¬ M .memCtl) (h_sec : ¬ M .sec) (n : Nat) (gen : Nat) (status : Nat) (kind : Nat) (h : Nat) (len : Nat) (moved : Nat) (hz : Keep M z s) :
    Keep M z (swapRecord n gen status kind h len moved s) := by
  unfold swapRecord
  repeat' (first
    | with_reducible assumption
    | with_reducible exact Keep.refl _
    | intro _
    | ((fail_if_success (conv => arg 3; arg 1)); extract_lets +onlyGivenNames t; refine Keep.cut t ?_ ?_; subst t; rotate_left; clear_value t; intro ht; rotate_right)
    | ((fail_if_success (conv => arg 3; arg 1)); extract_lets +onlyGivenNames t; subst t)
    | with_reducible apply regPut_keep
    | with_reducible apply regCount_keep
    | with_reducible apply sendMsg_keep
    | with_reducible apply writeRange_keep
    | with_reducible apply instEvent_keep
    | with_reducible apply lateResult_keep
    | with_reducible apply Keep.ite
    | split
    | dsimp -zeta only)

theorem lateSwap_keep {M : Part → Prop} {z s : State} (h_regs : ¬ M .regs) (h_od : ¬ M .od) (h_pack : ¬ M .pack) (h : Nat) (hz : Keep M z s) :
    KeepO M z (lateSwap h s) := by
  unfold lateSwap
  repeat' (first
    | with_reducible assumption
    | with_reducible exact Keep.refl _
    | intro _
    | with_reducible apply KeepO.map
    | with_reducible apply KeepO.some
    | with_reducible apply KeepO.none
    | with_reducible apply putInst_keep
    | with_reducible apply lateResult_keep
    | with_reducible apply KeepP.fst
    | split
    | dsimp -zeta only)

theorem execSwapOutDone_keep {M : Part → Prop} {z s : State} (h_dev : ¬ M .dev) (h_free : ¬ M .free) (h_regs : ¬ M .regs) (h_od : ¬ M .od) (h_mem : ¬ M .mem) (h_memCtl : ¬ M .memCtl) (h_pwr : ¬ M .pwr) (h_start : ¬ M .start) (h_sdg : ¬ M .sdg) (h_frz : ¬ M .frz) (h_sec : ¬ M .sec) (h_pack : ¬ M .pack) (h_kennel : ¬ M .kennel) (handle : Fin 4096) (hz : Keep M z s) :
    KeepN M z (execSwapOutDone handle s) := by
  unfold execSwapOutDone
  repeat' (first
    | with_reducible assumption
    | with_reducible exact Keep.refl _
    | intro _
    | with_reducible apply KeepN.next
    | ((fail_if_success (conv => arg 3; arg 1)); extract_lets +onlyGivenNames t; refine KeepN.cut t ?_ ?_; subst t; rotate_left; clear_value t; intro ht; rotate_right)
    | ((fail_if_success (conv => arg 3; arg 1)); extract_lets +onlyGivenNames t; refine Keep.cut t ?_ ?_; subst t; rotate_left; clear_value t; intro ht; rotate_right)
    | ((fail_if_success (conv => arg 3; arg 1)); extract_lets +onlyGivenNames t; subst t)
    | with_reducible apply odCount_keep
    | with_reducible apply writeRange_keep
    | with_reducible apply readAll_keep
    | ((with_reducible apply readAll_keep_of); with_reducible assumption)
    | with_reducible apply putSeq_keep
    | with_reducible apply giveBack_keep
    | with_reducible apply freeSeq_keep
    | with_reducible apply kennelSettle_keep
    | with_reducible apply swapRecord_keep
    | with_reducible apply lateSwap_keep
    | with_reducible apply Keep.ite
    | with_reducible apply KeepN.ite
    | with_reducible apply KeepP.fst
    | refine KeepO.of ?_ _ (by assumption)
    | split
    | dsimp -zeta only)

theorem imageGood_keep {M : Part → Prop} {z s : State} (h_dev : ¬ M .dev) (h_free : ¬ M .free) (h_regs : ¬ M .regs) (h_od : ¬ M .od) (h_mem : ¬ M .mem) (h_memCtl : ¬ M .memCtl) (h_pwr : ¬ M .pwr) (h_start : ¬ M .start) (h_sdg : ¬ M .sdg) (h_frz : ¬ M .frz) (h_sec : ¬ M .sec) (h_pack : ¬ M .pack) (q : Seq) (hz : Keep M z s) :
    KeepP M z (imageGood q s) := by
  unfold imageGood
  repeat' (first
    | with_reducible assumption
    | with_reducible exact Keep.refl _
    | intro _
    | with_reducible apply readRange_keep
    | ((with_reducible apply readRange_keep_of); with_reducible assumption)
    | ((fail_if_success (conv => arg 3; arg 3)); with_reducible apply KeepP.mk')
    | with_reducible apply KeepP.fst
    | split
    | dsimp -zeta only)

theorem imageGood_keep_of {M : Part → Prop} {q : Seq} {z s u_ : State} {o_ : Option Bool} (e_ : imageGood q s = (u_, o_)) (h_dev : ¬ M .dev) (h_free : ¬ M .free) (h_regs : ¬ M .regs) (h_od : ¬ M .od) (h_mem : ¬ M .mem) (h_memCtl : ¬ M .memCtl) (h_pwr : ¬ M .pwr) (h_start : ¬ M .start) (h_sdg : ¬ M .sdg) (h_frz : ¬ M .frz) (h_sec : ¬ M .sec) (h_pack : ¬ M .pack)
    (hz : Keep M z s) : Keep M z u_ :=
  (imageGood_keep h_dev h_free h_regs h_od h_mem h_memCtl h_pwr h_start h_sdg h_frz h_sec h_pack _ hz).of e_

theorem swapInBegin_keep {M : Part → Prop} {z s : State} (h_dev : ¬ M .dev) (h_free : ¬ M .free) (h_regs : ¬ M .regs) (h_od : ¬ M .od) (h_mem : ¬ M .mem) (h_memCtl : ¬ M .memCtl) (h_pwr : ¬ M .pwr) (h_start : ¬ M .start) (h_sdg : ¬ M .sdg) (h_frz : ¬ M .frz) (h_sec : ¬ M .sec) (h_pack : ¬ M .pack) (h_kennel : ¬ M .kennel) (h : Nat) (hz : Keep M z s) :
    Keep M z (swapInBegin h s) := by
  unfold swapInBegin
  repeat' (first
    | with_reducible assumption
    | with_reducible exact Keep.refl _
    | intro _
    | ((fail_if_success (conv => arg 3; arg 1)); extract_lets +onlyGivenNames t; refine Keep.cut t ?_ ?_; subst t; rotate_left; clear_value t; intro ht; rotate_right)
    | ((fail_if_success (conv => arg 3; arg 1)); extract_lets +onlyGivenNames t; subst t)
    | with_reducible apply putSeq_keep
    | with_reducible apply requestPages_keep
    | ((with_reducible apply requestPages_keep_of); with_reducible assumption)
    | with_reducible apply swapRecord_keep
    | with_reducible apply imageGood_keep
    | ((with_reducible apply imageGood_keep_of); with_reducible assumption)
    | with_reducible apply KeepP.fst
    | split
    | dsimp -zeta only)

theorem swapInFail_keep {M : Part → Prop} {z s : State} (h_regs : ¬ M .regs) (h_od : ¬ M .od) (h_mem : ¬ M .mem) (h_memCtl : ¬ M .memCtl) (h_sec : ¬ M .sec) (h_kennel : ¬ M .kennel) (h : Nat) (status : Nat) (hz : Keep M z s) :
    Keep M z (swapInFail h status s) := by
  unfold swapInFail
  repeat' (first
    | with_reducible assumption
    | with_reducible exact Keep.refl _
    | intro _
    | ((fail_if_success (conv => arg 3; arg 1)); extract_lets +onlyGivenNames t; refine Keep.cut t ?_ ?_; subst t; rotate_left; clear_value t; intro ht; rotate_right)
    | ((fail_if_success (conv => arg 3; arg 1)); extract_lets +onlyGivenNames t; subst t)
    | with_reducible apply putSeq_keep
    | with_reducible apply giveBack_keep
    | with_reducible apply swapRecord_keep
    | split
    | dsimp -zeta only)

theorem execSwapInDone_keep {M : Part → Prop} {z s : State} (h_dev : ¬ M .dev) (h_free : ¬ M .free) (h_regs : ¬ M .regs) (h_od : ¬ M .od) (h_mem : ¬ M .mem) (h_memCtl : ¬ M .memCtl) (h_pwr : ¬ M .pwr) (h_start : ¬ M .start) (h_sdg : ¬ M .sdg) (h_frz : ¬ M .frz) (h_sec : ¬ M .sec) (h_pack : ¬ M .pack) (h_kennel : ¬ M .kennel) (handle : Fin 4096) (hz : Keep M z s) :
    KeepN M z (execSwapInDone handle s) := by
  unfold execSwapInDone
  repeat' (first
    | with_reducible assumption
    | with_reducible exact Keep.refl _
    | intro _
    | with_reducible apply KeepN.next
    | ((fail_if_success (conv => arg 3; arg 1)); extract_lets +onlyGivenNames t; refine KeepN.cut t ?_ ?_; subst t; rotate_left; clear_value t; intro ht; rotate_right)
    | ((fail_if_success (conv => arg 3; arg 1)); extract_lets +onlyGivenNames t; refine Keep.cut t ?_ ?_; subst t; rotate_left; clear_value t; intro ht; rotate_right)
    | ((fail_if_success (conv => arg 3; arg 1)); extract_lets +onlyGivenNames t; refine KeepP.cut t ?_ ?_; subst t; rotate_left; clear_value t; intro ht; rotate_right)
    | ((fail_if_success (conv => arg 3; arg 1)); extract_lets +onlyGivenNames t; subst t)
    | with_reducible apply odCount_keep
    | with_reducible apply writeRange_keep
    | with_reducible apply readAll_keep
    | ((with_reducible apply readAll_keep_of); with_reducible assumption)
    | with_reducible apply putSeq_keep
    | with_reducible apply freeSeq_keep
    | with_reducible apply swapRecord_keep
    | with_reducible apply lateSwap_keep
    | with_reducible apply imageGood_keep
    | ((with_reducible apply imageGood_keep_of); with_reducible assumption)
    | with_reducible apply swapInFail_keep
    | with_reducible apply Keep.ite
    | with_reducible apply KeepN.ite
    | ((fail_if_success (conv => arg 3; arg 3)); with_reducible apply KeepP.mk')
    | with_reducible apply KeepP.foldl
    | with_reducible apply Keep.foldl
    | with_reducible apply KeepP.fst
    | refine KeepO.of ?_ _ (by assumption)
    | split
    | dsimp -zeta only)

theorem execPageZeroed_keep {M : Part → Prop} {z s : State} (h_mem : ¬ M .mem) (h_memCtl : ¬ M .memCtl) (h_kennel : ¬ M .kennel) (page : Nat) (hz : Keep M z s) :
    KeepN M z (execPageZeroed page s) := by
  unfold execPageZeroed
  repeat' (first
    | with_reducible assumption
    | with_reducible exact Keep.refl _
    | intro _
    | with_reducible apply KeepN.next
    | with_reducible apply memZero_keep
    | ((fail_if_success (fail_if_success (conv => arg 3; arg 39))); with_reducible apply Keep.upd_kennel)
    | with_reducible apply KeepP.fst
    | split
    | dsimp -zeta only)

theorem kennelFreeInst_keep {M : Part → Prop} {z s : State} (h_pack : ¬ M .pack) (h_kennel : ¬ M .kennel) (n : Nat) (hz : Keep M z s) :
    Keep M z (kennelFreeInst n s) := by
  unfold kennelFreeInst
  repeat' (first
    | with_reducible assumption
    | with_reducible exact Keep.refl _
    | intro _
    | ((fail_if_success (conv => arg 3; arg 1)); extract_lets +onlyGivenNames t; refine Keep.cut t ?_ ?_; subst t; rotate_left; clear_value t; intro ht; rotate_right)
    | ((fail_if_success (conv => arg 3; arg 1)); extract_lets +onlyGivenNames t; refine KeepP.cut t ?_ ?_; subst t; rotate_left; clear_value t; intro ht; rotate_right)
    | ((fail_if_success (conv => arg 3; arg 1)); extract_lets +onlyGivenNames t; subst t)
    | with_reducible apply putInst_keep
    | with_reducible apply freeSeq_keep
    | with_reducible apply Keep.ite
    | ((fail_if_success (conv => arg 3; arg 3)); with_reducible apply KeepP.mk')
    | with_reducible apply KeepP.foldl
    | with_reducible apply Keep.foldl
    | with_reducible apply KeepP.fst
    | split
    | dsimp -zeta only)

theorem kseqResult_keep {M : Part → Prop} {z s : State} (h_regs : ¬ M .regs) (n : Nat) (status : Nat) (h : Nat) (hz : Keep M z s) :
    Keep M z (kseqResult n status h s) := by
  unfold kseqResult
  repeat' (first
    | with_reducible assumption
    | with_reducible exact Keep.refl _
    | intro _
    | with_reducible apply regUpd_keep
    | split
    | dsimp -zeta only)

theorem seqAlloc_keep {M : Part → Prop} {z s : State} (h_regs : ¬ M .regs) (h_kennel : ¬ M .kennel) (n : Nat) (hz : Keep M z s) :
    Keep M z (seqAlloc n s) := by
  unfold seqAlloc
  repeat' (first
    | with_reducible assumption
    | with_reducible exact Keep.refl _
    | intro _
    | ((fail_if_success (conv => arg 3; arg 1)); extract_lets +onlyGivenNames t; refine Keep.cut t ?_ ?_; subst t; rotate_left; clear_value t; intro ht; rotate_right)
    | ((fail_if_success (conv => arg 3; arg 1)); extract_lets +onlyGivenNames t; subst t)
    | with_reducible apply putSeq_keep
    | with_reducible apply kseqResult_keep
    | with_reducible apply Keep.ite
    | with_reducible apply KeepP.fst
    | split
    | dsimp -zeta only)

theorem seqFree_keep {M : Part → Prop} {z s : State} (h_regs : ¬ M .regs) (h_kennel : ¬ M .kennel) (n : Nat) (h : Nat) (hz : Keep M z s) :
    Keep M z (seqFree n h s) := by
  unfold seqFree
  repeat' (first
    | with_reducible assumption
    | with_reducible exact Keep.refl _
    | intro _
    | with_reducible apply freeSeq_keep
    | with_reducible apply kseqResult_keep
    | with_reducible apply Keep.ite
    | split
    | dsimp -zeta only)

theorem seqTrim_keep {M : Part → Prop} {z s : State} (h_regs : ¬ M .regs) (h_kennel : ¬ M .kennel) (n : Nat) (h : Nat) (hz : Keep M z s) :
    Keep M z (seqTrim n h s) := by
  unfold seqTrim
  repeat' (first
    | with_reducible assumption
    | with_reducible exact Keep.refl _
    | intro _
    | ((fail_if_success (conv => arg 3; arg 1)); extract_lets +onlyGivenNames t; refine Keep.cut t ?_ ?_; subst t; rotate_left; clear_value t; intro ht; rotate_right)
    | ((fail_if_success (conv => arg 3; arg 1)); extract_lets +onlyGivenNames t; subst t)
    | with_reducible apply putSeq_keep
    | with_reducible apply kseqResult_keep
    | with_reducible apply Keep.ite
    | split
    | dsimp -zeta only)

theorem seqResume_keep {M : Part → Prop} {z s : State} (h_dev : ¬ M .dev) (h_free : ¬ M .free) (h_regs : ¬ M .regs) (h_od : ¬ M .od) (h_mem : ¬ M .mem) (h_memCtl : ¬ M .memCtl) (h_pwr : ¬ M .pwr) (h_start : ¬ M .start) (h_sdg : ¬ M .sdg) (h_frz : ¬ M .frz) (h_sec : ¬ M .sec) (h_pack : ¬ M .pack) (h_kennel : ¬ M .kennel) (n : Nat) (h : Nat) (hz : Keep M z s) :
    Keep M z (seqResume n h s) := by
  unfold seqResume
  repeat' (first
    | with_reducible assumption
    | with_reducible exact Keep.refl _
    | intro _
    | with_reducible apply swapInBegin_keep
    | with_reducible apply kseqResult_keep
    | with_reducible apply Keep.ite
    | split
    | dsimp -zeta only)

theorem seqQuery_keep {M : Part → Prop} {z s : State} (h_regs : ¬ M .regs) (n : Nat) (h : Nat) (hz : Keep M z s) :
    Keep M z (seqQuery n h s) := by
  unfold seqQuery
  repeat' (first
    | with_reducible assumption
    | with_reducible exact Keep.refl _
    | intro _
    | ((fail_if_success (conv => arg 3; arg 1)); extract_lets +onlyGivenNames t; refine Keep.cut t ?_ ?_; subst t; rotate_left; clear_value t; intro ht; rotate_right)
    | ((fail_if_success (conv => arg 3; arg 1)); extract_lets +onlyGivenNames t; subst t)
    | with_reducible apply regPut_keep
    | with_reducible apply kseqResult_keep
    | with_reducible apply Keep.ite
    | split
    | dsimp -zeta only)

theorem kseqEff_keep {M : Part → Prop} {z s : State} (h_dev : ¬ M .dev) (h_free : ¬ M .free) (h_regs : ¬ M .regs) (h_od : ¬ M .od) (h_mem : ¬ M .mem) (h_memCtl : ¬ M .memCtl) (h_pwr : ¬ M .pwr) (h_start : ¬ M .start) (h_sdg : ¬ M .sdg) (h_frz : ¬ M .frz) (h_sec : ¬ M .sec) (h_pack : ¬ M .pack) (h_kennel : ¬ M .kennel) (n : Nat) (v : Nat) (hz : Keep M z s) :
    KeepW M z (kseqEff n v s) := by
  unfold kseqEff
  repeat' (first
    | with_reducible assumption
    | with_reducible exact Keep.refl _
    | intro _
    | ((fail_if_success (conv => arg 3; arg 1)); extract_lets +onlyGivenNames t; refine KeepW.cut t ?_ ?_; subst t; rotate_left; clear_value t; intro ht; rotate_right)
    | ((fail_if_success (conv => arg 3; arg 1)); extract_lets +onlyGivenNames t; refine Keep.cut t ?_ ?_; subst t; rotate_left; clear_value t; intro ht; rotate_right)
    | ((fail_if_success (conv => arg 3; arg 1)); extract_lets +onlyGivenNames t; subst t)
    | with_reducible apply regSetBits_keep
    | with_reducible apply kseqResult_keep
    | with_reducible apply seqAlloc_keep
    | with_reducible apply seqFree_keep
    | with_reducible apply seqTrim_keep
    | with_reducible apply seqResume_keep
    | with_reducible apply seqQuery_keep
    | with_reducible apply Keep.ite
    | with_reducible apply KeepW.ite
    | with_reducible apply KeepW.done
    | with_reducible apply KeepW.denied
    | split
    | dsimp -zeta only)

theorem kseqWrite_keep {M : Part → Prop} {z s : State} (h_dev : ¬ M .dev) (h_now : ¬ M .now) (h_free : ¬ M .free) (h_regs : ¬ M .regs) (h_hold : ¬ M .hold) (h_od : ¬ M .od) (h_mem : ¬ M .mem) (h_memCtl : ¬ M .memCtl) (h_pwr : ¬ M .pwr) (h_start : ¬ M .start) (h_sdg : ¬ M .sdg) (h_frz : ¬ M .frz) (h_apps : ¬ M .apps) (h_sec : ¬ M .sec) (h_pack : ¬ M .pack) (h_kennel : ¬ M .kennel) (h_splice : ¬ M .splice) (h_gtime : ¬ M .gtime) (n : Nat) (acc : Access) (op : Nat) (h : Nat) (hz : Keep M z s) :
    Keep M z (kseqWrite n acc op h s) := by
  unfold kseqWrite
  repeat' (first
    | with_reducible assumption
    | with_reducible exact Keep.refl _
    | intro _
    | with_reducible apply regWriteWith_keep
    | with_reducible apply kseqEff_keep
    | split
    | dsimp -zeta only)

theorem execKseqAlloc_keep {M : Part → Prop} {z s : State} (h_dev : ¬ M .dev) (h_now : ¬ M .now) (h_free : ¬ M .free) (h_regs : ¬ M .regs) (h_hold : ¬ M .hold) (h_od : ¬ M .od) (h_mem : ¬ M .mem) (h_memCtl : ¬ M .memCtl) (h_pwr : ¬ M .pwr) (h_start : ¬ M .start) (h_sdg : ¬ M .sdg) (h_frz : ¬ M .frz) (h_apps : ¬ M .apps) (h_sec : ¬ M .sec) (h_pack : ¬ M .pack) (h_kennel : ¬ M .kennel) (h_splice : ¬ M .splice) (h_gtime : ¬ M .gtime) (n : Fin 256) (acc : Access) (hz : Keep M z s) :
    KeepN M z (execKseqAlloc n acc s) := by
  unfold execKseqAlloc
  repeat' (first
    | with_reducible assumption
    | with_reducible exact Keep.refl _
    | intro _
    | with_reducible apply KeepN.next
    | with_reducible apply kseqWrite_keep
    | split
    | dsimp -zeta only)

theorem execKseqFree_keep {M : Part → Prop} {z s : State} (h_dev : ¬ M .dev) (h_now : ¬ M .now) (h_free : ¬ M .free) (h_regs : ¬ M .regs) (h_hold : ¬ M .hold) (h_od : ¬ M .od) (h_mem : ¬ M .mem) (h_memCtl : ¬ M .memCtl) (h_pwr : ¬ M .pwr) (h_start : ¬ M .start) (h_sdg : ¬ M .sdg) (h_frz : ¬ M .frz) (h_apps : ¬ M .apps) (h_sec : ¬ M .sec) (h_pack : ¬ M .pack) (h_kennel : ¬ M .kennel) (h_splice : ¬ M .splice) (h_gtime : ¬ M .gtime) (n : Fin 256) (acc : Access) (handle : Fin 4096) (hz : Keep M z s) :
    KeepN M z (execKseqFree n acc handle s) := by
  unfold execKseqFree
  repeat' (first
    | with_reducible assumption
    | with_reducible exact Keep.refl _
    | intro _
    | with_reducible apply KeepN.next
    | with_reducible apply kseqWrite_keep
    | split
    | dsimp -zeta only)

theorem execKseqTrim_keep {M : Part → Prop} {z s : State} (h_dev : ¬ M .dev) (h_now : ¬ M .now) (h_free : ¬ M .free) (h_regs : ¬ M .regs) (h_hold : ¬ M .hold) (h_od : ¬ M .od) (h_mem : ¬ M .mem) (h_memCtl : ¬ M .memCtl) (h_pwr : ¬ M .pwr) (h_start : ¬ M .start) (h_sdg : ¬ M .sdg) (h_frz : ¬ M .frz) (h_apps : ¬ M .apps) (h_sec : ¬ M .sec) (h_pack : ¬ M .pack) (h_kennel : ¬ M .kennel) (h_splice : ¬ M .splice) (h_gtime : ¬ M .gtime) (n : Fin 256) (acc : Access) (handle : Fin 4096) (hz : Keep M z s) :
    KeepN M z (execKseqTrim n acc handle s) := by
  unfold execKseqTrim
  repeat' (first
    | with_reducible assumption
    | with_reducible exact Keep.refl _
    | intro _
    | with_reducible apply KeepN.next
    | with_reducible apply kseqWrite_keep
    | split
    | dsimp -zeta only)

theorem execKseqResume_keep {M : Part → Prop} {z s : State} (h_dev : ¬ M .dev) (h_now : ¬ M .now) (h_free : ¬ M .free) (h_regs : ¬ M .regs) (h_hold : ¬ M .hold) (h_od : ¬ M .od) (h_mem : ¬ M .mem) (h_memCtl : ¬ M .memCtl) (h_pwr : ¬ M .pwr) (h_start : ¬ M .start) (h_sdg : ¬ M .sdg) (h_frz : ¬ M .frz) (h_apps : ¬ M .apps) (h_sec : ¬ M .sec) (h_pack : ¬ M .pack) (h_kennel : ¬ M .kennel) (h_splice : ¬ M .splice) (h_gtime : ¬ M .gtime) (n : Fin 256) (acc : Access) (handle : Fin 4096) (hz : Keep M z s) :
    KeepN M z (execKseqResume n acc handle s) := by
  unfold execKseqResume
  repeat' (first
    | with_reducible assumption
    | with_reducible exact Keep.refl _
    | intro _
    | with_reducible apply KeepN.next
    | with_reducible apply kseqWrite_keep
    | split
    | dsimp -zeta only)

theorem execKseqQuery_keep {M : Part → Prop} {z s : State} (h_dev : ¬ M .dev) (h_now : ¬ M .now) (h_free : ¬ M .free) (h_regs : ¬ M .regs) (h_hold : ¬ M .hold) (h_od : ¬ M .od) (h_mem : ¬ M .mem) (h_memCtl : ¬ M .memCtl) (h_pwr : ¬ M .pwr) (h_start : ¬ M .start) (h_sdg : ¬ M .sdg) (h_frz : ¬ M .frz) (h_apps : ¬ M .apps) (h_sec : ¬ M .sec) (h_pack : ¬ M .pack) (h_kennel : ¬ M .kennel) (h_splice : ¬ M .splice) (h_gtime : ¬ M .gtime) (n : Fin 256) (acc : Access) (handle : Fin 4096) (hz : Keep M z s) :
    KeepN M z (execKseqQuery n acc handle s) := by
  unfold execKseqQuery
  repeat' (first
    | with_reducible assumption
    | with_reducible exact Keep.refl _
    | intro _
    | with_reducible apply KeepN.next
    | with_reducible apply kseqWrite_keep
    | split
    | dsimp -zeta only)

theorem swapCfgEff_keep {M : Part → Prop} {z s : State} (h_regs : ¬ M .regs) (n : Nat) (v : Nat) (hz : Keep M z s) :
    KeepW M z (swapCfgEff n v s) := by
  unfold swapCfgEff
  repeat' (first
    | with_reducible assumption
    | with_reducible exact Keep.refl _
    | intro _
    | ((fail_if_success (conv => arg 3; arg 1)); extract_lets +onlyGivenNames t; refine KeepW.cut t ?_ ?_; subst t; rotate_left; clear_value t; intro ht; rotate_right)
    | ((fail_if_success (conv => arg 3; arg 1)); extract_lets +onlyGivenNames t; refine Keep.cut t ?_ ?_; subst t; rotate_left; clear_value t; intro ht; rotate_right)
    | ((fail_if_success (conv => arg 3; arg 1)); extract_lets +onlyGivenNames t; subst t)
    | with_reducible apply regPut_keep
    | with_reducible apply Keep.ite
    | with_reducible apply KeepW.ite
    | with_reducible apply KeepW.done
    | with_reducible apply KeepW.denied
    | split
    | dsimp -zeta only)

end Sys2Proof.Machine
end

