-- ==== Sys2Proof/Laws/KeepPackAttn.lean ====
section
/-! SUPPORT. What the operations of Machine/PackAttn.lean keep: one lemma each. -/

namespace Sys2Proof.Machine

theorem readTree_keep {M : Part → Prop} {z s : State} (h_dev : ¬ M .dev) (h_free : ¬ M .free) (h_regs : ¬ M .regs) (h_od : ¬ M .od) (h_mem : ¬ M .mem) (h_memCtl : ¬ M .memCtl) (h_pwr : ¬ M .pwr) (h_start : ¬ M .start) (h_sdg : ¬ M .sdg) (h_frz : ¬ M .frz) (h_sec : ¬ M .sec) (h_pack : ¬ M .pack) (d : List Byte) (hz : Keep M z s) :
    KeepP M z (readTree d s) := by
  unfold readTree
  repeat' (first
    | with_reducible assumption
    | with_reducible exact Keep.refl _
    | intro _
    | with_reducible apply readRange_keep
    | ((with_reducible apply readRange_keep_of); with_reducible assumption)
    | with_reducible apply Keep.ite
    | with_reducible apply KeepP.ite
    | ((fail_if_success (conv => arg 3; arg 3)); with_reducible apply KeepP.mk')
    | with_reducible apply KeepP.fst
    | split
    | dsimp -zeta only)

theorem readTree_keep_of {M : Part → Prop} {d : List Byte} {z s u_ : State} {o_ : Except Nat (List Nat)} (e_ : readTree d s = (u_, o_)) (h_dev : ¬ M .dev) (h_free : ¬ M .free) (h_regs : ¬ M .regs) (h_od : ¬ M .od) (h_mem : ¬ M .mem) (h_memCtl : ¬ M .memCtl) (h_pwr : ¬ M .pwr) (h_start : ¬ M .start) (h_sdg : ¬ M .sdg) (h_frz : ¬ M .frz) (h_sec : ¬ M .sec) (h_pack : ¬ M .pack)
    (hz : Keep M z s) : Keep M z u_ :=
  (readTree_keep h_dev h_free h_regs h_od h_mem h_memCtl h_pwr h_start h_sdg h_frz h_sec h_pack _ hz).of e_

theorem stepBoundary_keep {M : Part → Prop} {z s : State} (h_kennel : ¬ M .kennel) (h : Nat) (len : Nat) (hz : Keep M z s) :
    Keep M z (stepBoundary h len s) := by
  unfold stepBoundary
  repeat' (first
    | with_reducible assumption
    | with_reducible exact Keep.refl _
    | intro _
    | ((fail_if_success (conv => arg 3; arg 1)); extract_lets +onlyGivenNames t; refine Keep.cut t ?_ ?_; subst t; rotate_left; clear_value t; intro ht; rotate_right)
    | ((fail_if_success (conv => arg 3; arg 1)); extract_lets +onlyGivenNames t; subst t)
    | with_reducible apply putSeq_keep
    | with_reducible apply releasePages_keep
    | with_reducible apply Keep.ite
    | split
    | dsimp -zeta only)

theorem attnGo_keep {M : Part → Prop} {z s : State} (h_kennel : ¬ M .kennel) (d : List Byte) (parents : List Nat) (hz : Keep M z s) :
    KeepP M z (attnGo d parents s) := by
  unfold attnGo
  repeat' (first
    | with_reducible assumption
    | with_reducible exact Keep.refl _
    | intro _
    | ((fail_if_success (conv => arg 3; arg 1)); extract_lets +onlyGivenNames t; refine KeepP.cut t ?_ ?_; subst t; rotate_left; clear_value t; intro ht; rotate_right)
    | ((fail_if_success (conv => arg 3; arg 1)); extract_lets +onlyGivenNames t; refine Keep.cut t ?_ ?_; subst t; rotate_left; clear_value t; intro ht; rotate_right)
    | ((fail_if_success (conv => arg 3; arg 1)); extract_lets +onlyGivenNames t; subst t)
    | with_reducible apply putSeq_keep
    | with_reducible apply Keep.ite
    | with_reducible apply KeepP.ite
    | ((fail_if_success (conv => arg 3; arg 3)); with_reducible apply KeepP.mk')
    | split
    | dsimp -zeta only)

theorem attnGo_keep_of {M : Part → Prop} {d : List Byte} {parents : List Nat} {z s u_ : State} {o_ : AttnStart} (e_ : attnGo d parents s = (u_, o_)) (h_kennel : ¬ M .kennel)
    (hz : Keep M z s) : Keep M z u_ :=
  (attnGo_keep h_kennel _ _ hz).of e_

theorem attnStart_keep {M : Part → Prop} {z s : State} (h_dev : ¬ M .dev) (h_free : ¬ M .free) (h_regs : ¬ M .regs) (h_od : ¬ M .od) (h_mem : ¬ M .mem) (h_memCtl : ¬ M .memCtl) (h_pwr : ¬ M .pwr) (h_start : ¬ M .start) (h_sdg : ¬ M .sdg) (h_frz : ¬ M .frz) (h_sec : ¬ M .sec) (h_pack : ¬ M .pack) (h_kennel : ¬ M .kennel) (n : Nat) (key : Nat) (d : List Byte) (hz : Keep M z s) :
    KeepP M z (attnStart n key d s) := by
  unfold attnStart
  repeat' (first
    | with_reducible assumption
    | with_reducible exact Keep.refl _
    | intro _
    | ((fail_if_success (conv => arg 3; arg 1)); extract_lets +onlyGivenNames t; refine KeepP.cut t ?_ ?_; subst t; rotate_left; clear_value t; intro ht; rotate_right)
    | ((fail_if_success (conv => arg 3; arg 1)); extract_lets +onlyGivenNames t; refine Keep.cut t ?_ ?_; subst t; rotate_left; clear_value t; intro ht; rotate_right)
    | ((fail_if_success (conv => arg 3; arg 1)); extract_lets +onlyGivenNames t; subst t)
    | with_reducible apply requestPages_keep
    | ((with_reducible apply requestPages_keep_of); with_reducible assumption)
    | with_reducible apply readTree_keep
    | ((with_reducible apply readTree_keep_of); with_reducible assumption)
    | with_reducible apply stepBoundary_keep
    | with_reducible apply attnGo_keep
    | ((with_reducible apply attnGo_keep_of); with_reducible assumption)
    | with_reducible apply Keep.ite
    | with_reducible apply KeepP.ite
    | ((fail_if_success (conv => arg 3; arg 3)); with_reducible apply KeepP.mk')
    | with_reducible apply KeepP.fst
    | split
    | dsimp -zeta only)

theorem attnStart_keep_of {M : Part → Prop} {n : Nat} {key : Nat} {d : List Byte} {z s u_ : State} {o_ : AttnStart} (e_ : attnStart n key d s = (u_, o_)) (h_dev : ¬ M .dev) (h_free : ¬ M .free) (h_regs : ¬ M .regs) (h_od : ¬ M .od) (h_mem : ¬ M .mem) (h_memCtl : ¬ M .memCtl) (h_pwr : ¬ M .pwr) (h_start : ¬ M .start) (h_sdg : ¬ M .sdg) (h_frz : ¬ M .frz) (h_sec : ¬ M .sec) (h_pack : ¬ M .pack) (h_kennel : ¬ M .kennel)
    (hz : Keep M z s) : Keep M z u_ :=
  (attnStart_keep h_dev h_free h_regs h_od h_mem h_memCtl h_pwr h_start h_sdg h_frz h_sec h_pack h_kennel _ _ _ hz).of e_

theorem appendTile_keep {M : Part → Prop} {z s : State} (h_dev : ¬ M .dev) (h_free : ¬ M .free) (h_regs : ¬ M .regs) (h_od : ¬ M .od) (h_mem : ¬ M .mem) (h_memCtl : ¬ M .memCtl) (h_pwr : ¬ M .pwr) (h_start : ¬ M .start) (h_sdg : ¬ M .sdg) (h_frz : ¬ M .frz) (h_sec : ¬ M .sec) (h_pack : ¬ M .pack) (d : List Byte) (b : Nat) (hz : Keep M z s) :
    KeepP M z (appendTile d b s) := by
  unfold appendTile
  repeat' (first
    | with_reducible assumption
    | with_reducible exact Keep.refl _
    | intro _
    | ((fail_if_success (conv => arg 3; arg 1)); extract_lets +onlyGivenNames t; refine KeepP.cut t ?_ ?_; subst t; rotate_left; clear_value t; intro ht; rotate_right)
    | ((fail_if_success (conv => arg 3; arg 1)); extract_lets +onlyGivenNames t; refine Keep.cut t ?_ ?_; subst t; rotate_left; clear_value t; intro ht; rotate_right)
    | ((fail_if_success (conv => arg 3; arg 1)); extract_lets +onlyGivenNames t; subst t)
    | with_reducible apply readAll_keep
    | ((with_reducible apply readAll_keep_of); with_reducible assumption)
    | ((fail_if_success (conv => arg 3; arg 3)); with_reducible apply KeepP.mk')
    | with_reducible apply KeepP.fst
    | split
    | dsimp -zeta only)

theorem appendTile_keep_of {M : Part → Prop} {d : List Byte} {b : Nat} {z s u_ : State} {o_ : Option (List (Nat × List Byte))} (e_ : appendTile d b s = (u_, o_)) (h_dev : ¬ M .dev) (h_free : ¬ M .free) (h_regs : ¬ M .regs) (h_od : ¬ M .od) (h_mem : ¬ M .mem) (h_memCtl : ¬ M .memCtl) (h_pwr : ¬ M .pwr) (h_start : ¬ M .start) (h_sdg : ¬ M .sdg) (h_frz : ¬ M .frz) (h_sec : ¬ M .sec) (h_pack : ¬ M .pack)
    (hz : Keep M z s) : Keep M z u_ :=
  (appendTile_keep h_dev h_free h_regs h_od h_mem h_memCtl h_pwr h_start h_sdg h_frz h_sec h_pack _ _ hz).of e_

theorem attendTile_keep {M : Part → Prop} {z s : State} (h_dev : ¬ M .dev) (h_free : ¬ M .free) (h_regs : ¬ M .regs) (h_od : ¬ M .od) (h_mem : ¬ M .mem) (h_memCtl : ¬ M .memCtl) (h_pwr : ¬ M .pwr) (h_start : ¬ M .start) (h_sdg : ¬ M .sdg) (h_frz : ¬ M .frz) (h_sec : ¬ M .sec) (h_pack : ¬ M .pack) (d : List Byte) (base : Nat) (length : Nat) (parents : List Nat) (c : Nat) (p : Nat) (hz : Keep M z s) :
    KeepP M z (attendTile d base length parents c p s) := by
  unfold attendTile
  repeat' (first
    | with_reducible assumption
    | with_reducible exact Keep.refl _
    | intro _
    | ((fail_if_success (conv => arg 3; arg 1)); extract_lets +onlyGivenNames t; refine KeepP.cut t ?_ ?_; subst t; rotate_left; clear_value t; intro ht; rotate_right)
    | ((fail_if_success (conv => arg 3; arg 1)); extract_lets +onlyGivenNames t; refine Keep.cut t ?_ ?_; subst t; rotate_left; clear_value t; intro ht; rotate_right)
    | ((fail_if_success (conv => arg 3; arg 1)); extract_lets +onlyGivenNames t; subst t)
    | with_reducible apply readAll_keep
    | ((with_reducible apply readAll_keep_of); with_reducible assumption)
    | with_reducible apply Keep.ite
    | with_reducible apply KeepP.ite
    | ((fail_if_success (conv => arg 3; arg 3)); with_reducible apply KeepP.mk')
    | with_reducible apply KeepP.fst
    | split
    | dsimp -zeta only)

theorem attendTile_keep_of {M : Part → Prop} {d : List Byte} {base : Nat} {length : Nat} {parents : List Nat} {c : Nat} {p : Nat} {z s u_ : State} {o_ : Option (List (Nat × List Byte))} (e_ : attendTile d base length parents c p s = (u_, o_)) (h_dev : ¬ M .dev) (h_free : ¬ M .free) (h_regs : ¬ M .regs) (h_od : ¬ M .od) (h_mem : ¬ M .mem) (h_memCtl : ¬ M .memCtl) (h_pwr : ¬ M .pwr) (h_start : ¬ M .start) (h_sdg : ¬ M .sdg) (h_frz : ¬ M .frz) (h_sec : ¬ M .sec) (h_pack : ¬ M .pack)
    (hz : Keep M z s) : Keep M z u_ :=
  (attendTile_keep h_dev h_free h_regs h_od h_mem h_memCtl h_pwr h_start h_sdg h_frz h_sec h_pack _ _ _ _ _ _ hz).of e_

theorem moveTile_keep {M : Part → Prop} {z s : State} (h_dev : ¬ M .dev) (h_free : ¬ M .free) (h_regs : ¬ M .regs) (h_od : ¬ M .od) (h_mem : ¬ M .mem) (h_memCtl : ¬ M .memCtl) (h_pwr : ¬ M .pwr) (h_start : ¬ M .start) (h_sdg : ¬ M .sdg) (h_frz : ¬ M .frz) (h_sec : ¬ M .sec) (h_pack : ¬ M .pack) (d : List Byte) (path : List Nat) (t : Nat) (hz : Keep M z s) :
    KeepP M z (moveTile d path t s) := by
  unfold moveTile
  repeat' (first
    | with_reducible assumption
    | with_reducible exact Keep.refl _
    | intro _
    | ((fail_if_success (conv => arg 3; arg 1)); extract_lets +onlyGivenNames t; refine KeepP.cut t ?_ ?_; subst t; rotate_left; clear_value t; intro ht; rotate_right)
    | ((fail_if_success (conv => arg 3; arg 1)); extract_lets +onlyGivenNames t; refine Keep.cut t ?_ ?_; subst t; rotate_left; clear_value t; intro ht; rotate_right)
    | ((fail_if_success (conv => arg 3; arg 1)); extract_lets +onlyGivenNames t; subst t)
    | with_reducible apply readRange_keep
    | ((with_reducible apply readRange_keep_of); with_reducible assumption)
    | with_reducible apply Keep.ite
    | with_reducible apply KeepP.ite
    | ((fail_if_success (conv => arg 3; arg 3)); with_reducible apply KeepP.mk')
    | with_reducible apply KeepP.fst
    | split
    | dsimp -zeta only)

theorem moveTile_keep_of {M : Part → Prop} {d : List Byte} {path : List Nat} {t : Nat} {z s u_ : State} {o_ : Option (List (Nat × List Byte))} (e_ : moveTile d path t s = (u_, o_)) (h_dev : ¬ M .dev) (h_free : ¬ M .free) (h_regs : ¬ M .regs) (h_od : ¬ M .od) (h_mem : ¬ M .mem) (h_memCtl : ¬ M .memCtl) (h_pwr : ¬ M .pwr) (h_start : ¬ M .start) (h_sdg : ¬ M .sdg) (h_frz : ¬ M .frz) (h_sec : ¬ M .sec) (h_pack : ¬ M .pack)
    (hz : Keep M z s) : Keep M z u_ :=
  (moveTile_keep h_dev h_free h_regs h_od h_mem h_memCtl h_pwr h_start h_sdg h_frz h_sec h_pack _ _ _ hz).of e_

theorem attnTile_keep {M : Part → Prop} {z s : State} (h_dev : ¬ M .dev) (h_free : ¬ M .free) (h_regs : ¬ M .regs) (h_od : ¬ M .od) (h_mem : ¬ M .mem) (h_memCtl : ¬ M .memCtl) (h_pwr : ¬ M .pwr) (h_start : ¬ M .start) (h_sdg : ¬ M .sdg) (h_frz : ¬ M .frz) (h_sec : ¬ M .sec) (h_pack : ¬ M .pack) (d : List Byte) (base : Nat) (length : Nat) (path : List Nat) (t : Nat) (hz : Keep M z s) :
    KeepP M z (attnTile d base length path t s) := by
  unfold attnTile
  repeat' (first
    | with_reducible assumption
    | with_reducible exact Keep.refl _
    | intro _
    | with_reducible apply readRange_keep
    | ((with_reducible apply readRange_keep_of); with_reducible assumption)
    | with_reducible apply appendTile_keep
    | ((with_reducible apply appendTile_keep_of); with_reducible assumption)
    | with_reducible apply attendTile_keep
    | ((with_reducible apply attendTile_keep_of); with_reducible assumption)
    | with_reducible apply moveTile_keep
    | ((with_reducible apply moveTile_keep_of); with_reducible assumption)
    | with_reducible apply Keep.ite
    | with_reducible apply KeepP.ite
    | ((fail_if_success (conv => arg 3; arg 3)); with_reducible apply KeepP.mk')
    | with_reducible apply KeepP.fst
    | split
    | dsimp -zeta only)

theorem attnTile_keep_of {M : Part → Prop} {d : List Byte} {base : Nat} {length : Nat} {path : List Nat} {t : Nat} {z s u_ : State} {o_ : Option (List (Nat × List Byte) × List Nat)} (e_ : attnTile d base length path t s = (u_, o_)) (h_dev : ¬ M .dev) (h_free : ¬ M .free) (h_regs : ¬ M .regs) (h_od : ¬ M .od) (h_mem : ¬ M .mem) (h_memCtl : ¬ M .memCtl) (h_pwr : ¬ M .pwr) (h_start : ¬ M .start) (h_sdg : ¬ M .sdg) (h_frz : ¬ M .frz) (h_sec : ¬ M .sec) (h_pack : ¬ M .pack)
    (hz : Keep M z s) : Keep M z u_ :=
  (attnTile_keep h_dev h_free h_regs h_od h_mem h_memCtl h_pwr h_start h_sdg h_frz h_sec h_pack _ _ _ _ _ hz).of e_

end Sys2Proof.Machine
end

