-- ==== Sys2Proof/Laws/KeepPackQueue.lean ====
section
/-! SUPPORT. What the operations of Machine/PackQueue.lean keep: one lemma each. -/

namespace Sys2Proof.Machine

theorem qErr_keep {M : Part → Prop} {z s : State} (h_regs : ¬ M .regs) (n : Nat) (q : Nat) (b : Nat) (hz : Keep M z s) :
    Keep M z (qErr n q b s) := by
  unfold qErr
  repeat' (first
    | with_reducible assumption
    | with_reducible exact Keep.refl _
    | intro _
    | with_reducible apply regSetBits_keep
    | split
    | dsimp -zeta only)

theorem doorbellEff_keep {M : Part → Prop} {z s : State} (h_regs : ¬ M .regs) (h_pack : ¬ M .pack) (n : Nat) (q : Nat) (v : Nat) (hz : Keep M z s) :
    KeepW M z (doorbellEff n q v s) := by
  unfold doorbellEff
  repeat' (first
    | with_reducible assumption
    | with_reducible exact Keep.refl _
    | intro _
    | ((fail_if_success (conv => arg 3; arg 1)); extract_lets +onlyGivenNames t; refine KeepW.cut t ?_ ?_; subst t; rotate_left; clear_value t; intro ht; rotate_right)
    | ((fail_if_success (conv => arg 3; arg 1)); extract_lets +onlyGivenNames t; refine Keep.cut t ?_ ?_; subst t; rotate_left; clear_value t; intro ht; rotate_right)
    | ((fail_if_success (conv => arg 3; arg 1)); extract_lets +onlyGivenNames t; subst t)
    | with_reducible apply putQ_keep
    | with_reducible apply qErr_keep
    | with_reducible apply Keep.ite
    | with_reducible apply KeepW.ite
    | with_reducible apply KeepW.done
    | with_reducible apply KeepW.denied
    | split
    | dsimp -zeta only)

theorem qCfgEff_keep {M : Part → Prop} {z s : State} (h_regs : ¬ M .regs) (h_pack : ¬ M .pack) (n : Nat) (q : Nat) (off : Nat) (v : Nat) (hz : Keep M z s) :
    KeepW M z (qCfgEff n q off v s) := by
  unfold qCfgEff
  repeat' (first
    | with_reducible assumption
    | with_reducible exact Keep.refl _
    | intro _
    | ((fail_if_success (conv => arg 3; arg 1)); extract_lets +onlyGivenNames t; refine KeepW.cut t ?_ ?_; subst t; rotate_left; clear_value t; intro ht; rotate_right)
    | ((fail_if_success (conv => arg 3; arg 1)); extract_lets +onlyGivenNames t; refine Keep.cut t ?_ ?_; subst t; rotate_left; clear_value t; intro ht; rotate_right)
    | ((fail_if_success (conv => arg 3; arg 1)); extract_lets +onlyGivenNames t; subst t)
    | with_reducible apply regPut_keep
    | with_reducible apply putQ_keep
    | with_reducible apply genericWrite_keep
    | with_reducible apply qErr_keep
    | with_reducible apply Keep.ite
    | with_reducible apply KeepW.ite
    | with_reducible apply KeepW.done
    | with_reducible apply KeepW.denied
    | split
    | dsimp -zeta only)

theorem finish_keep {M : Part → Prop} {z s : State} (h_od : ¬ M .od) (h_pack : ¬ M .pack) (n : Nat) (q : Nat) (k : Nat) (st : Nat) (hz : Keep M z s) :
    Keep M z (finish n q k st s) := by
  unfold finish
  repeat' (first
    | with_reducible assumption
    | with_reducible exact Keep.refl _
    | intro _
    | ((fail_if_success (conv => arg 3; arg 1)); extract_lets +onlyGivenNames t; refine Keep.cut t ?_ ?_; subst t; rotate_left; clear_value t; intro ht; rotate_right)
    | ((fail_if_success (conv => arg 3; arg 1)); extract_lets +onlyGivenNames t; subst t)
    | with_reducible apply odCount_keep
    | with_reducible apply putQ_keep
    | with_reducible apply Keep.ite
    | split
    | dsimp -zeta only)

theorem putCmd_keep {M : Part → Prop} {z s : State} (h_pack : ¬ M .pack) (n : Nat) (q : Nat) (k : Nat) (c : Cmd) (hz : Keep M z s) :
    Keep M z (putCmd n q k c s) := by
  unfold putCmd
  repeat' (first
    | with_reducible assumption
    | with_reducible exact Keep.refl _
    | intro _
    | ((fail_if_success (conv => arg 3; arg 1)); extract_lets +onlyGivenNames t; refine Keep.cut t ?_ ?_; subst t; rotate_left; clear_value t; intro ht; rotate_right)
    | ((fail_if_success (conv => arg 3; arg 1)); extract_lets +onlyGivenNames t; subst t)
    | with_reducible apply putQ_keep
    | split
    | dsimp -zeta only)

theorem countPreempts_keep {M : Part → Prop} {z s : State} (h_regs : ¬ M .regs) (h_od : ¬ M .od) (k : Nat) (hz : Keep M z s) :
    Keep M z (countPreempts k s) := by
  unfold countPreempts
  repeat' (first
    | with_reducible assumption
    | with_reducible exact Keep.refl _
    | intro _
    | with_reducible apply regCount_keep
    | with_reducible apply odCount_keep
    | split
    | dsimp -zeta only)

theorem preemptQueue_keep {M : Part → Prop} {z s : State} (h_regs : ¬ M .regs) (h_od : ¬ M .od) (h_pack : ¬ M .pack) (key : Nat) (hz : Keep M z s) :
    Keep M z (preemptQueue key s) := by
  unfold preemptQueue
  repeat' (first
    | with_reducible assumption
    | with_reducible exact Keep.refl _
    | intro _
    | ((fail_if_success (conv => arg 3; arg 1)); extract_lets +onlyGivenNames t; refine Keep.cut t ?_ ?_; subst t; rotate_left; clear_value t; intro ht; rotate_right)
    | ((fail_if_success (conv => arg 3; arg 1)); extract_lets +onlyGivenNames t; subst t)
    | with_reducible apply putQ_keep
    | with_reducible apply countPreempts_keep
    | with_reducible apply Keep.ite
    | split
    | dsimp -zeta only)

theorem queueStopEff_keep {M : Part → Prop} {z s : State} (h_regs : ¬ M .regs) (h_od : ¬ M .od) (h_pack : ¬ M .pack) (n : Nat) (q : Nat) (hz : Keep M z s) :
    Keep M z (queueStopEff n q s) := by
  unfold queueStopEff
  repeat' (first
    | with_reducible assumption
    | with_reducible exact Keep.refl _
    | intro _
    | ((fail_if_success (conv => arg 3; arg 1)); extract_lets +onlyGivenNames t; refine Keep.cut t ?_ ?_; subst t; rotate_left; clear_value t; intro ht; rotate_right)
    | ((fail_if_success (conv => arg 3; arg 1)); extract_lets +onlyGivenNames t; subst t)
    | with_reducible apply putQ_keep
    | with_reducible apply countPreempts_keep
    | with_reducible apply Keep.ite
    | split
    | dsimp -zeta only)

theorem flushOne_keep {M : Part → Prop} {z s : State} (h_dev : ¬ M .dev) (h_free : ¬ M .free) (h_regs : ¬ M .regs) (h_od : ¬ M .od) (h_mem : ¬ M .mem) (h_memCtl : ¬ M .memCtl) (h_pwr : ¬ M .pwr) (h_start : ¬ M .start) (h_sdg : ¬ M .sdg) (h_frz : ¬ M .frz) (h_sec : ¬ M .sec) (h_pack : ¬ M .pack) (n : Nat) (q : Nat) (hz : Keep M z s) :
    Keep M z (flushOne n q s) := by
  unfold flushOne
  repeat' (first
    | with_reducible assumption
    | with_reducible exact Keep.refl _
    | intro _
    | ((fail_if_success (conv => arg 3; arg 1)); extract_lets +onlyGivenNames t; refine Keep.cut t ?_ ?_; subst t; rotate_left; clear_value t; intro ht; rotate_right)
    | ((fail_if_success (conv => arg 3; arg 1)); extract_lets +onlyGivenNames t; subst t)
    | with_reducible apply putQ_keep
    | with_reducible apply readRange_keep
    | ((with_reducible apply readRange_keep_of); with_reducible assumption)
    | with_reducible apply Keep.ite
    | with_reducible apply KeepP.fst
    | split
    | dsimp -zeta only)

theorem queueFlushEff_keep {M : Part → Prop} {z s : State} (h_dev : ¬ M .dev) (h_free : ¬ M .free) (h_regs : ¬ M .regs) (h_od : ¬ M .od) (h_mem : ¬ M .mem) (h_memCtl : ¬ M .memCtl) (h_pwr : ¬ M .pwr) (h_start : ¬ M .start) (h_sdg : ¬ M .sdg) (h_frz : ¬ M .frz) (h_sec : ¬ M .sec) (h_pack : ¬ M .pack) (n : Nat) (q : Nat) (hz : Keep M z s) :
    Keep M z (queueFlushEff n q s) := by
  unfold queueFlushEff
  repeat' (first
    | with_reducible assumption
    | with_reducible exact Keep.refl _
    | intro _
    | ((fail_if_success (conv => arg 3; arg 1)); extract_lets +onlyGivenNames t; refine Keep.cut t ?_ ?_; subst t; rotate_left; clear_value t; intro ht; rotate_right)
    | ((fail_if_success (conv => arg 3; arg 1)); extract_lets +onlyGivenNames t; subst t)
    | with_reducible apply putQ_keep
    | with_reducible apply qErr_keep
    | with_reducible apply flushOne_keep
    | with_reducible apply Keep.ite
    | with_reducible apply Keep.iterate
    | split
    | dsimp -zeta only)

theorem queueStartEff_keep {M : Part → Prop} {z s : State} (h_pack : ¬ M .pack) (n : Nat) (q : Nat) (hz : Keep M z s) :
    Keep M z (queueStartEff n q s) := by
  unfold queueStartEff
  repeat' (first
    | with_reducible assumption
    | with_reducible exact Keep.refl _
    | intro _
    | ((fail_if_success (conv => arg 3; arg 1)); extract_lets +onlyGivenNames t; refine Keep.cut t ?_ ?_; subst t; rotate_left; clear_value t; intro ht; rotate_right)
    | ((fail_if_success (conv => arg 3; arg 1)); extract_lets +onlyGivenNames t; subst t)
    | with_reducible apply putQ_keep
    | with_reducible apply Keep.ite
    | split
    | dsimp -zeta only)

theorem queueCtlEff_keep {M : Part → Prop} {z s : State} (h_dev : ¬ M .dev) (h_free : ¬ M .free) (h_regs : ¬ M .regs) (h_od : ¬ M .od) (h_mem : ¬ M .mem) (h_memCtl : ¬ M .memCtl) (h_pwr : ¬ M .pwr) (h_start : ¬ M .start) (h_sdg : ¬ M .sdg) (h_frz : ¬ M .frz) (h_sec : ¬ M .sec) (h_pack : ¬ M .pack) (h_kennel : ¬ M .kennel) (n : Nat) (q : Nat) (v : Nat) (hz : Keep M z s) :
    KeepW M z (queueCtlEff n q v s) := by
  unfold queueCtlEff
  repeat' (first
    | with_reducible assumption
    | with_reducible exact Keep.refl _
    | intro _
    | ((fail_if_success (conv => arg 3; arg 1)); extract_lets +onlyGivenNames t; refine KeepW.cut t ?_ ?_; subst t; rotate_left; clear_value t; intro ht; rotate_right)
    | ((fail_if_success (conv => arg 3; arg 1)); extract_lets +onlyGivenNames t; refine Keep.cut t ?_ ?_; subst t; rotate_left; clear_value t; intro ht; rotate_right)
    | ((fail_if_success (conv => arg 3; arg 1)); extract_lets +onlyGivenNames t; subst t)
    | with_reducible apply kennelSettle_keep
    | with_reducible apply queueStopEff_keep
    | with_reducible apply queueFlushEff_keep
    | with_reducible apply queueStartEff_keep
    | with_reducible apply Keep.ite
    | with_reducible apply KeepW.ite
    | with_reducible apply KeepW.done
    | with_reducible apply KeepW.denied
    | split
    | dsimp -zeta only)

theorem execPackDoorbell_keep {M : Part → Prop} {z s : State} (h_dev : ¬ M .dev) (h_now : ¬ M .now) (h_regs : ¬ M .regs) (h_hold : ¬ M .hold) (h_od : ¬ M .od) (h_pwr : ¬ M .pwr) (h_start : ¬ M .start) (h_sdg : ¬ M .sdg) (h_frz : ¬ M .frz) (h_apps : ¬ M .apps) (h_pack : ¬ M .pack) (h_splice : ¬ M .splice) (h_gtime : ¬ M .gtime) (n : Fin 256) (q : Fin 256) (acc : Access) (tail : Nat) (hz : Keep M z s) :
    KeepN M z (execPackDoorbell n q acc tail s) := by
  unfold execPackDoorbell
  repeat' (first
    | with_reducible assumption
    | with_reducible exact Keep.refl _
    | intro _
    | with_reducible apply KeepN.next
    | with_reducible apply regWriteWith_keep
    | with_reducible apply doorbellEff_keep
    | split
    | dsimp -zeta only)

theorem execQueueConfigWrite_keep {M : Part → Prop} {z s : State} (h_dev : ¬ M .dev) (h_now : ¬ M .now) (h_regs : ¬ M .regs) (h_hold : ¬ M .hold) (h_od : ¬ M .od) (h_pwr : ¬ M .pwr) (h_start : ¬ M .start) (h_sdg : ¬ M .sdg) (h_frz : ¬ M .frz) (h_apps : ¬ M .apps) (h_pack : ¬ M .pack) (h_splice : ¬ M .splice) (h_gtime : ¬ M .gtime) (n : Fin 256) (q : Fin 256) (acc : Access) (value : Word) (hz : Keep M z s) :
    KeepN M z (execQueueConfigWrite n q acc value s) := by
  unfold execQueueConfigWrite
  repeat' (first
    | with_reducible assumption
    | with_reducible exact Keep.refl _
    | intro _
    | with_reducible apply KeepN.next
    | ((fail_if_success (conv => arg 3; arg 1)); extract_lets +onlyGivenNames t; refine KeepN.cut t ?_ ?_; subst t; rotate_left; clear_value t; intro ht; rotate_right)
    | ((fail_if_success (conv => arg 3; arg 1)); extract_lets +onlyGivenNames t; refine Keep.cut t ?_ ?_; subst t; rotate_left; clear_value t; intro ht; rotate_right)
    | ((fail_if_success (conv => arg 3; arg 1)); extract_lets +onlyGivenNames t; subst t)
    | with_reducible apply regWriteWith_keep
    | with_reducible apply qCfgEff_keep
    | with_reducible apply Keep.ite
    | with_reducible apply KeepN.ite
    | split
    | dsimp -zeta only)

theorem execQueueStop_keep {M : Part → Prop} {z s : State} (h_dev : ¬ M .dev) (h_now : ¬ M .now) (h_free : ¬ M .free) (h_regs : ¬ M .regs) (h_hold : ¬ M .hold) (h_od : ¬ M .od) (h_mem : ¬ M .mem) (h_memCtl : ¬ M .memCtl) (h_pwr : ¬ M .pwr) (h_start : ¬ M .start) (h_sdg : ¬ M .sdg) (h_frz : ¬ M .frz) (h_apps : ¬ M .apps) (h_sec : ¬ M .sec) (h_pack : ¬ M .pack) (h_kennel : ¬ M .kennel) (h_splice : ¬ M .splice) (h_gtime : ¬ M .gtime) (n : Fin 256) (q : Fin 256) (acc : Access) (hz : Keep M z s) :
    KeepN M z (execQueueStop n q acc s) := by
  unfold execQueueStop
  repeat' (first
    | with_reducible assumption
    | with_reducible exact Keep.refl _
    | intro _
    | with_reducible apply KeepN.next
    | with_reducible apply regWriteWith_keep
    | with_reducible apply queueCtlEff_keep
    | split
    | dsimp -zeta only)

theorem execQueueStart_keep {M : Part → Prop} {z s : State} (h_dev : ¬ M .dev) (h_now : ¬ M .now) (h_free : ¬ M .free) (h_regs : ¬ M .regs) (h_hold : ¬ M .hold) (h_od : ¬ M .od) (h_mem : ¬ M .mem) (h_memCtl : ¬ M .memCtl) (h_pwr : ¬ M .pwr) (h_start : ¬ M .start) (h_sdg : ¬ M .sdg) (h_frz : ¬ M .frz) (h_apps : ¬ M .apps) (h_sec : ¬ M .sec) (h_pack : ¬ M .pack) (h_kennel : ¬ M .kennel) (h_splice : ¬ M .splice) (h_gtime : ¬ M .gtime) (n : Fin 256) (q : Fin 256) (acc : Access) (hz : Keep M z s) :
    KeepN M z (execQueueStart n q acc s) := by
  unfold execQueueStart
  repeat' (first
    | with_reducible assumption
    | with_reducible exact Keep.refl _
    | intro _
    | with_reducible apply KeepN.next
    | with_reducible apply regWriteWith_keep
    | with_reducible apply queueCtlEff_keep
    | split
    | dsimp -zeta only)

theorem execQueueFlush_keep {M : Part → Prop} {z s : State} (h_dev : ¬ M .dev) (h_now : ¬ M .now) (h_free : ¬ M .free) (h_regs : ¬ M .regs) (h_hold : ¬ M .hold) (h_od : ¬ M .od) (h_mem : ¬ M .mem) (h_memCtl : ¬ M .memCtl) (h_pwr : ¬ M .pwr) (h_start : ¬ M .start) (h_sdg : ¬ M .sdg) (h_frz : ¬ M .frz) (h_apps : ¬ M .apps) (h_sec : ¬ M .sec) (h_pack : ¬ M .pack) (h_kennel : ¬ M .kennel) (h_splice : ¬ M .splice) (h_gtime : ¬ M .gtime) (n : Fin 256) (q : Fin 256) (acc : Access) (hz : Keep M z s) :
    KeepN M z (execQueueFlush n q acc s) := by
  unfold execQueueFlush
  repeat' (first
    | with_reducible assumption
    | with_reducible exact Keep.refl _
    | intro _
    | with_reducible apply KeepN.next
    | with_reducible apply regWriteWith_keep
    | with_reducible apply queueCtlEff_keep
    | split
    | dsimp -zeta only)

theorem execCqHeadWrite_keep {M : Part → Prop} {z s : State} (h_dev : ¬ M .dev) (h_now : ¬ M .now) (h_regs : ¬ M .regs) (h_hold : ¬ M .hold) (h_od : ¬ M .od) (h_pwr : ¬ M .pwr) (h_start : ¬ M .start) (h_sdg : ¬ M .sdg) (h_frz : ¬ M .frz) (h_apps : ¬ M .apps) (h_pack : ¬ M .pack) (h_splice : ¬ M .splice) (h_gtime : ¬ M .gtime) (n : Fin 256) (q : Fin 256) (acc : Access) (head : Nat) (hz : Keep M z s) :
    KeepN M z (execCqHeadWrite n q acc head s) := by
  unfold execCqHeadWrite
  repeat' (first
    | with_reducible assumption
    | with_reducible exact Keep.refl _
    | intro _
    | with_reducible apply KeepN.next
    | with_reducible apply genericWrite_keep
    | with_reducible apply regWriteWith_keep
    | with_reducible apply KeepW.done
    | with_reducible apply KeepW.denied
    | split
    | dsimp -zeta only)

theorem takeToken_keep {M : Part → Prop} {z s : State} (h_now : ¬ M .now) (h_regs : ¬ M .regs) (h_pack : ¬ M .pack) (h_gtime : ¬ M .gtime) (n : Nat) (hz : Keep M z s) :
    Keep M z (takeToken n s) := by
  unfold takeToken
  repeat' (first
    | with_reducible assumption
    | with_reducible exact Keep.refl _
    | intro _
    | ((fail_if_success (conv => arg 3; arg 1)); extract_lets +onlyGivenNames t; refine Keep.cut t ?_ ?_; subst t; rotate_left; clear_value t; intro ht; rotate_right)
    | ((fail_if_success (conv => arg 3; arg 1)); extract_lets +onlyGivenNames t; subst t)
    | with_reducible apply advanceTo_keep
    | with_reducible apply regCount_keep
    | with_reducible apply putInst_keep
    | with_reducible apply Keep.ite
    | split
    | dsimp -zeta only)

theorem fetchOne_keep {M : Part → Prop} {z s : State} (h_dev : ¬ M .dev) (h_free : ¬ M .free) (h_regs : ¬ M .regs) (h_od : ¬ M .od) (h_mem : ¬ M .mem) (h_memCtl : ¬ M .memCtl) (h_pwr : ¬ M .pwr) (h_start : ¬ M .start) (h_sdg : ¬ M .sdg) (h_frz : ¬ M .frz) (h_sec : ¬ M .sec) (h_pack : ¬ M .pack) (n : Nat) (q : Nat) (hz : Keep M z s) :
    Keep M z (fetchOne n q s) := by
  unfold fetchOne
  repeat' (first
    | with_reducible assumption
    | with_reducible exact Keep.refl _
    | intro _
    | ((fail_if_success (conv => arg 3; arg 1)); extract_lets +onlyGivenNames t; refine Keep.cut t ?_ ?_; subst t; rotate_left; clear_value t; intro ht; rotate_right)
    | ((fail_if_success (conv => arg 3; arg 1)); extract_lets +onlyGivenNames t; subst t)
    | with_reducible apply putQ_keep
    | with_reducible apply readRange_keep
    | ((with_reducible apply readRange_keep_of); with_reducible assumption)
    | with_reducible apply Keep.ite
    | with_reducible apply KeepP.fst
    | split
    | dsimp -zeta only)

theorem execDescriptorFetch_keep {M : Part → Prop} {z s : State} (h_dev : ¬ M .dev) (h_now : ¬ M .now) (h_free : ¬ M .free) (h_regs : ¬ M .regs) (h_od : ¬ M .od) (h_mem : ¬ M .mem) (h_memCtl : ¬ M .memCtl) (h_pwr : ¬ M .pwr) (h_start : ¬ M .start) (h_sdg : ¬ M .sdg) (h_frz : ¬ M .frz) (h_sec : ¬ M .sec) (h_pack : ¬ M .pack) (h_gtime : ¬ M .gtime) (n : Fin 256) (q : Fin 256) (hz : Keep M z s) :
    KeepN M z (execDescriptorFetch n q s) := by
  unfold execDescriptorFetch
  repeat' (first
    | with_reducible assumption
    | with_reducible exact Keep.refl _
    | intro _
    | with_reducible apply KeepN.next
    | with_reducible apply takeToken_keep
    | with_reducible apply fetchOne_keep
    | with_reducible apply Keep.ite
    | with_reducible apply KeepN.ite
    | split
    | dsimp -zeta only)

theorem writeCompletion_keep {M : Part → Prop} {z s : State} (h_regs : ¬ M .regs) (h_mem : ¬ M .mem) (h_memCtl : ¬ M .memCtl) (h_sec : ¬ M .sec) (h_pack : ¬ M .pack) (n : Nat) (q : Nat) (c : Cmd) (status : Nat) (token : Nat) (hz : Keep M z s) :
    Keep M z (writeCompletion n q c status token s) := by
  unfold writeCompletion
  repeat' (first
    | with_reducible assumption
    | with_reducible exact Keep.refl _
    | intro _
    | ((fail_if_success (conv => arg 3; arg 1)); extract_lets +onlyGivenNames t; refine Keep.cut t ?_ ?_; subst t; rotate_left; clear_value t; intro ht; rotate_right)
    | ((fail_if_success (conv => arg 3; arg 1)); extract_lets +onlyGivenNames t; subst t)
    | with_reducible apply sendMsg_keep
    | with_reducible apply putQ_keep
    | with_reducible apply writeRange_keep
    | with_reducible apply Keep.ite
    | split
    | dsimp -zeta only)

theorem writeFinal_keep {M : Part → Prop} {z s : State} (h_regs : ¬ M .regs) (h_od : ¬ M .od) (h_mem : ¬ M .mem) (h_memCtl : ¬ M .memCtl) (h_sec : ¬ M .sec) (h_pack : ¬ M .pack) (h_kennel : ¬ M .kennel) (n : Nat) (q : Nat) (c : Cmd) (st : Nat) (hz : Keep M z s) :
    Keep M z (writeFinal n q c st s) := by
  unfold writeFinal
  repeat' (first
    | with_reducible assumption
    | with_reducible exact Keep.refl _
    | intro _
    | ((fail_if_success (conv => arg 3; arg 1)); extract_lets +onlyGivenNames t; refine Keep.cut t ?_ ?_; subst t; rotate_left; clear_value t; intro ht; rotate_right)
    | ((fail_if_success (conv => arg 3; arg 1)); extract_lets +onlyGivenNames t; subst t)
    | with_reducible apply odCount_keep
    | with_reducible apply putQ_keep
    | with_reducible apply kennelSettle_keep
    | with_reducible apply writeCompletion_keep
    | with_reducible apply Keep.ite
    | with_reducible apply KeepW.done
    | with_reducible apply KeepW.denied
    | split
    | dsimp -zeta only)

theorem execCompletionWrite_keep {M : Part → Prop} {z s : State} (h_regs : ¬ M .regs) (h_od : ¬ M .od) (h_mem : ¬ M .mem) (h_memCtl : ¬ M .memCtl) (h_sec : ¬ M .sec) (h_pack : ¬ M .pack) (h_kennel : ¬ M .kennel) (n : Fin 256) (q : Fin 256) (hz : Keep M z s) :
    KeepN M z (execCompletionWrite n q s) := by
  unfold execCompletionWrite
  repeat' (first
    | with_reducible assumption
    | with_reducible exact Keep.refl _
    | intro _
    | with_reducible apply KeepN.next
    | ((fail_if_success (conv => arg 3; arg 1)); extract_lets +onlyGivenNames t; refine KeepN.cut t ?_ ?_; subst t; rotate_left; clear_value t; intro ht; rotate_right)
    | ((fail_if_success (conv => arg 3; arg 1)); extract_lets +onlyGivenNames t; refine Keep.cut t ?_ ?_; subst t; rotate_left; clear_value t; intro ht; rotate_right)
    | ((fail_if_success (conv => arg 3; arg 1)); extract_lets +onlyGivenNames t; subst t)
    | with_reducible apply putQ_keep
    | with_reducible apply putInst_keep
    | with_reducible apply lateResult_keep
    | with_reducible apply writeCompletion_keep
    | with_reducible apply writeFinal_keep
    | with_reducible apply Keep.ite
    | with_reducible apply KeepN.ite
    | with_reducible apply KeepP.fst
    | split
    | dsimp -zeta only)

end Sys2Proof.Machine
end

