-- ==== Sys2Proof/Laws/KeepPackRun.lean ====
section
/-! SUPPORT. What the operations of Machine/PackRun.lean keep: one lemma each. -/

namespace Sys2Proof.Machine

theorem rescanEngines_keep {M : Part → Prop} {z s : State} (h_regs : ¬ M .regs) (h_od : ¬ M .od) (h_pack : ¬ M .pack) (hz : Keep M z s) :
    Keep M z (rescanEngines s) := by
  unfold rescanEngines
  repeat' (first
    | with_reducible assumption
    | with_reducible exact Keep.refl _
    | intro _
    | ((fail_if_success (conv => arg 3; arg 1)); extract_lets +onlyGivenNames t; refine Keep.cut t ?_ ?_; subst t; rotate_left; clear_value t; intro ht; rotate_right)
    | ((fail_if_success (conv => arg 3; arg 1)); extract_lets +onlyGivenNames t; subst t)
    | with_reducible apply mapQueues_keep
    | with_reducible apply countPreempts_keep
    | with_reducible apply KeepP.fst
    | split
    | dsimp -zeta only)

theorem beginCmd_keep {M : Part → Prop} {z s : State} (h_od : ¬ M .od) (h_pack : ¬ M .pack) (n : Nat) (q : Nat) (k : Nat) (c : Cmd) (hz : Keep M z s) :
    Keep M z (beginCmd n q k c s) := by
  unfold beginCmd
  repeat' (first
    | with_reducible assumption
    | with_reducible exact Keep.refl _
    | intro _
    | ((fail_if_success (conv => arg 3; arg 1)); extract_lets +onlyGivenNames t; refine Keep.cut t ?_ ?_; subst t; rotate_left; clear_value t; intro ht; rotate_right)
    | ((fail_if_success (conv => arg 3; arg 1)); extract_lets +onlyGivenNames t; subst t)
    | with_reducible apply putQ_keep
    | with_reducible apply finish_keep
    | with_reducible apply Keep.ite
    | with_reducible apply KeepW.done
    | with_reducible apply KeepW.denied
    | with_reducible apply KeepP.fst
    | split
    | dsimp -zeta only)

theorem endAtStart_keep {M : Part → Prop} {z s : State} (h_od : ¬ M .od) (h_pack : ¬ M .pack) (n : Nat) (q : Nat) (k : Nat) (st : Nat) (c : Cmd) (hz : Keep M z s) :
    Keep M z (endAtStart n q k st c s) := by
  unfold endAtStart
  repeat' (first
    | with_reducible assumption
    | with_reducible exact Keep.refl _
    | intro _
    | ((fail_if_success (conv => arg 3; arg 1)); extract_lets +onlyGivenNames t; refine Keep.cut t ?_ ?_; subst t; rotate_left; clear_value t; intro ht; rotate_right)
    | ((fail_if_success (conv => arg 3; arg 1)); extract_lets +onlyGivenNames t; subst t)
    | with_reducible apply putQ_keep
    | with_reducible apply finish_keep
    | with_reducible apply Keep.ite
    | split
    | dsimp -zeta only)

theorem moveRestart_keep {M : Part → Prop} {z s : State} (h_pack : ¬ M .pack) (n : Nat) (q : Nat) (hz : Keep M z s) :
    Keep M z (moveRestart n q s) := by
  unfold moveRestart
  repeat' (first
    | with_reducible assumption
    | with_reducible exact Keep.refl _
    | intro _
    | with_reducible apply putQ_keep
    | split
    | dsimp -zeta only)

theorem runControl_keep {M : Part → Prop} {z s : State} (h_regs : ¬ M .regs) (h_od : ¬ M .od) (h_knots : ¬ M .knots) (h_pack : ¬ M .pack) (h_slots : ¬ M .slots) (h_safeSlots : ¬ M .safeSlots) (n : Nat) (q : Nat) (k : Nat) (c : Cmd) (hz : Keep M z s) :
    Keep M z (runControl n q k c s) := by
  unfold runControl
  repeat' (first
    | with_reducible assumption
    | with_reducible exact Keep.refl _
    | intro _
    | ((fail_if_success (conv => arg 3; arg 1)); extract_lets +onlyGivenNames t; refine Keep.cut t ?_ ?_; subst t; rotate_left; clear_value t; intro ht; rotate_right)
    | ((fail_if_success (conv => arg 3; arg 1)); extract_lets +onlyGivenNames t; subst t)
    | with_reducible apply knotRaise_keep
    | with_reducible apply beginCmd_keep
    | with_reducible apply endAtStart_keep
    | with_reducible apply moveRestart_keep
    | with_reducible apply Keep.ite
    | split
    | dsimp -zeta only)

theorem firstStart_keep {M : Part → Prop} {z s : State} (h_dev : ¬ M .dev) (h_free : ¬ M .free) (h_regs : ¬ M .regs) (h_od : ¬ M .od) (h_mem : ¬ M .mem) (h_memCtl : ¬ M .memCtl) (h_pwr : ¬ M .pwr) (h_start : ¬ M .start) (h_sdg : ¬ M .sdg) (h_frz : ¬ M .frz) (h_sec : ¬ M .sec) (h_pack : ¬ M .pack) (h_cim : ¬ M .cim) (h_kennel : ¬ M .kennel) (n : Nat) (q : Nat) (k : Nat) (c : Cmd) (hz : Keep M z s) :
    Keep M z (firstStart n q k c s) := by
  unfold firstStart
  repeat' (first
    | with_reducible assumption
    | with_reducible exact Keep.refl _
    | intro _
    | ((fail_if_success (conv => arg 3; arg 1)); extract_lets +onlyGivenNames t; refine Keep.cut t ?_ ?_; subst t; rotate_left; clear_value t; intro ht; rotate_right)
    | ((fail_if_success (conv => arg 3; arg 1)); extract_lets +onlyGivenNames t; subst t)
    | with_reducible apply loadBegin_keep
    | with_reducible apply loadImage_keep
    | ((with_reducible apply loadImage_keep_of); with_reducible assumption)
    | with_reducible apply attnStart_keep
    | ((with_reducible apply attnStart_keep_of); with_reducible assumption)
    | with_reducible apply beginCmd_keep
    | with_reducible apply endAtStart_keep
    | with_reducible apply KeepP.fst
    | split
    | dsimp -zeta only)

theorem makeWay_keep {M : Part → Prop} {z s : State} (h_regs : ¬ M .regs) (h_od : ¬ M .od) (h_pack : ¬ M .pack) (n : Nat) (q : Nat) (l : List Nat) (hz : Keep M z s) :
    Keep M z (makeWay n q l s) := by
  unfold makeWay
  repeat' (first
    | with_reducible assumption
    | with_reducible exact Keep.refl _
    | intro _
    | with_reducible apply preemptQueue_keep
    | with_reducible apply Keep.ite
    | with_reducible apply Keep.foldl
    | split
    | dsimp -zeta only)

theorem startTiled_keep {M : Part → Prop} {z s : State} (h_dev : ¬ M .dev) (h_free : ¬ M .free) (h_regs : ¬ M .regs) (h_od : ¬ M .od) (h_mem : ¬ M .mem) (h_memCtl : ¬ M .memCtl) (h_pwr : ¬ M .pwr) (h_start : ¬ M .start) (h_sdg : ¬ M .sdg) (h_frz : ¬ M .frz) (h_sec : ¬ M .sec) (h_pack : ¬ M .pack) (h_cim : ¬ M .cim) (h_kennel : ¬ M .kennel) (n : Nat) (q : Nat) (k : Nat) (c : Cmd) (hz : Keep M z s) :
    Keep M z (startTiled n q k c s) := by
  unfold startTiled
  repeat' (first
    | with_reducible assumption
    | with_reducible exact Keep.refl _
    | intro _
    | ((fail_if_success (conv => arg 3; arg 1)); extract_lets +onlyGivenNames t; refine Keep.cut t ?_ ?_; subst t; rotate_left; clear_value t; intro ht; rotate_right)
    | ((fail_if_success (conv => arg 3; arg 1)); extract_lets +onlyGivenNames t; subst t)
    | with_reducible apply beginCmd_keep
    | with_reducible apply endAtStart_keep
    | with_reducible apply firstStart_keep
    | with_reducible apply makeWay_keep
    | with_reducible apply Keep.ite
    | with_reducible apply KeepW.done
    | with_reducible apply KeepW.denied
    | split
    | dsimp -zeta only)

theorem startCmd_keep {M : Part → Prop} {z s : State} (h_dev : ¬ M .dev) (h_free : ¬ M .free) (h_regs : ¬ M .regs) (h_od : ¬ M .od) (h_mem : ¬ M .mem) (h_memCtl : ¬ M .memCtl) (h_pwr : ¬ M .pwr) (h_start : ¬ M .start) (h_sdg : ¬ M .sdg) (h_frz : ¬ M .frz) (h_sec : ¬ M .sec) (h_knots : ¬ M .knots) (h_pack : ¬ M .pack) (h_cim : ¬ M .cim) (h_kennel : ¬ M .kennel) (h_slots : ¬ M .slots) (h_safeSlots : ¬ M .safeSlots) (p : List Byte → Bool) (n : Nat) (q : Nat) (hz : Keep M z s) :
    Keep M z (startCmd p n q s) := by
  unfold startCmd
  repeat' (first
    | with_reducible assumption
    | with_reducible exact Keep.refl _
    | intro _
    | with_reducible apply kennelSettle_keep
    | with_reducible apply endAtStart_keep
    | with_reducible apply runControl_keep
    | with_reducible apply startTiled_keep
    | with_reducible apply Keep.ite
    | split
    | dsimp -zeta only)

theorem startOp_keep {M : Part → Prop} {z s : State} (h_dev : ¬ M .dev) (h_free : ¬ M .free) (h_regs : ¬ M .regs) (h_od : ¬ M .od) (h_mem : ¬ M .mem) (h_memCtl : ¬ M .memCtl) (h_pwr : ¬ M .pwr) (h_start : ¬ M .start) (h_sdg : ¬ M .sdg) (h_frz : ¬ M .frz) (h_sec : ¬ M .sec) (h_knots : ¬ M .knots) (h_pack : ¬ M .pack) (h_cim : ¬ M .cim) (h_kennel : ¬ M .kennel) (h_slots : ¬ M .slots) (h_safeSlots : ¬ M .safeSlots) (op : Nat) (n : Fin 256) (q : Fin 256) (hz : Keep M z s) :
    Keep M z (startOp op n q s) := by
  unfold startOp
  repeat' (first
    | with_reducible assumption
    | with_reducible exact Keep.refl _
    | intro _
    | with_reducible apply startCmd_keep
    | split
    | dsimp -zeta only)

theorem startVop_keep {M : Part → Prop} {z s : State} (h_dev : ¬ M .dev) (h_free : ¬ M .free) (h_regs : ¬ M .regs) (h_od : ¬ M .od) (h_mem : ¬ M .mem) (h_memCtl : ¬ M .memCtl) (h_pwr : ¬ M .pwr) (h_start : ¬ M .start) (h_sdg : ¬ M .sdg) (h_frz : ¬ M .frz) (h_sec : ¬ M .sec) (h_knots : ¬ M .knots) (h_pack : ¬ M .pack) (h_cim : ¬ M .cim) (h_kennel : ¬ M .kennel) (h_slots : ¬ M .slots) (h_safeSlots : ¬ M .safeSlots) (v : Nat) (n : Fin 256) (q : Fin 256) (hz : Keep M z s) :
    Keep M z (startVop v n q s) := by
  unfold startVop
  repeat' (first
    | with_reducible assumption
    | with_reducible exact Keep.refl _
    | intro _
    | with_reducible apply startCmd_keep
    | split
    | dsimp -zeta only)

theorem byteWait_keep {M : Part → Prop} {z s : State} (h_now : ¬ M .now) (h_regs : ¬ M .regs) (h_gtime : ¬ M .gtime) (n : Nat) (hz : Keep M z s) :
    Keep M z (byteWait n s) := by
  unfold byteWait
  repeat' (first
    | with_reducible assumption
    | with_reducible exact Keep.refl _
    | intro _
    | ((fail_if_success (conv => arg 3; arg 1)); extract_lets +onlyGivenNames t; refine Keep.cut t ?_ ?_; subst t; rotate_left; clear_value t; intro ht; rotate_right)
    | ((fail_if_success (conv => arg 3; arg 1)); extract_lets +onlyGivenNames t; subst t)
    | with_reducible apply advanceTo_keep
    | with_reducible apply regCount_keep
    | with_reducible apply Keep.ite
    | split
    | dsimp -zeta only)

theorem byteCharge_keep {M : Part → Prop} {z s : State} (h_pack : ¬ M .pack) (n : Nat) (bytes : Nat) (hz : Keep M z s) :
    Keep M z (byteCharge n bytes s) := by
  unfold byteCharge
  repeat' (first
    | with_reducible assumption
    | with_reducible exact Keep.refl _
    | intro _
    | with_reducible apply putInst_keep
    | with_reducible apply Keep.ite
    | split
    | dsimp -zeta only)

theorem computeCopy_keep {M : Part → Prop} {z s : State} (h_dev : ¬ M .dev) (h_free : ¬ M .free) (h_regs : ¬ M .regs) (h_od : ¬ M .od) (h_mem : ¬ M .mem) (h_memCtl : ¬ M .memCtl) (h_pwr : ¬ M .pwr) (h_start : ¬ M .start) (h_sdg : ¬ M .sdg) (h_frz : ¬ M .frz) (h_sec : ¬ M .sec) (h_pack : ¬ M .pack) (c : Cmd) (t : Nat) (ct : Nat) (hz : Keep M z s) :
    KeepP M z (computeCopy c t ct s) := by
  unfold computeCopy
  repeat' (first
    | with_reducible assumption
    | with_reducible exact Keep.refl _
    | intro _
    | ((fail_if_success (conv => arg 3; arg 1)); extract_lets +onlyGivenNames t; refine KeepP.cut t ?_ ?_; subst t; rotate_left; clear_value t; intro ht; rotate_right)
    | ((fail_if_success (conv => arg 3; arg 1)); extract_lets +onlyGivenNames t; refine Keep.cut t ?_ ?_; subst t; rotate_left; clear_value t; intro ht; rotate_right)
    | ((fail_if_success (conv => arg 3; arg 1)); extract_lets +onlyGivenNames t; subst t)
    | with_reducible apply readAll_keep
    | ((with_reducible apply readAll_keep_of); with_reducible assumption)
    | with_reducible apply matmulTile_keep
    | ((with_reducible apply matmulTile_keep_of); with_reducible assumption)
    | with_reducible apply convTile_keep
    | ((with_reducible apply convTile_keep_of); with_reducible assumption)
    | with_reducible apply vecTile_keep
    | ((with_reducible apply vecTile_keep_of); with_reducible assumption)
    | with_reducible apply copyTile_keep
    | ((with_reducible apply copyTile_keep_of); with_reducible assumption)
    | with_reducible apply cimRunTile_keep
    | ((with_reducible apply cimRunTile_keep_of); with_reducible assumption)
    | with_reducible apply attnTile_keep
    | ((with_reducible apply attnTile_keep_of); with_reducible assumption)
    | ((fail_if_success (conv => arg 3; arg 3)); with_reducible apply KeepP.mk')
    | with_reducible apply KeepP.fst
    | split
    | dsimp -zeta only)

theorem computeCopy_keep_of {M : Part → Prop} {c : Cmd} {t : Nat} {ct : Nat} {z s u_ : State} {o_ : Option TileOut} (e_ : computeCopy c t ct s = (u_, o_)) (h_dev : ¬ M .dev) (h_free : ¬ M .free) (h_regs : ¬ M .regs) (h_od : ¬ M .od) (h_mem : ¬ M .mem) (h_memCtl : ¬ M .memCtl) (h_pwr : ¬ M .pwr) (h_start : ¬ M .start) (h_sdg : ¬ M .sdg) (h_frz : ¬ M .frz) (h_sec : ¬ M .sec) (h_pack : ¬ M .pack)
    (hz : Keep M z s) : Keep M z u_ :=
  (computeCopy_keep h_dev h_free h_regs h_od h_mem h_memCtl h_pwr h_start h_sdg h_frz h_sec h_pack _ _ _ hz).of e_

theorem computeTile_keep {M : Part → Prop} {z s : State} (h_dev : ¬ M .dev) (h_free : ¬ M .free) (h_regs : ¬ M .regs) (h_od : ¬ M .od) (h_mem : ¬ M .mem) (h_memCtl : ¬ M .memCtl) (h_pwr : ¬ M .pwr) (h_start : ¬ M .start) (h_sdg : ¬ M .sdg) (h_frz : ¬ M .frz) (h_sec : ¬ M .sec) (h_pack : ¬ M .pack) (c : Cmd) (t : Nat) (a : List Nat) (b : List Nat) (hz : Keep M z s) :
    KeepP M z (computeTile c t a b s) := by
  unfold computeTile
  repeat' (first
    | with_reducible assumption
    | with_reducible exact Keep.refl _
    | intro _
    | ((fail_if_success (conv => arg 3; arg 1)); extract_lets +onlyGivenNames t; refine KeepP.cut t ?_ ?_; subst t; rotate_left; clear_value t; intro ht; rotate_right)
    | ((fail_if_success (conv => arg 3; arg 1)); extract_lets +onlyGivenNames t; refine Keep.cut t ?_ ?_; subst t; rotate_left; clear_value t; intro ht; rotate_right)
    | ((fail_if_success (conv => arg 3; arg 1)); extract_lets +onlyGivenNames t; subst t)
    | with_reducible apply computeCopy_keep
    | ((with_reducible apply computeCopy_keep_of); with_reducible assumption)
    | with_reducible apply Keep.ite
    | with_reducible apply KeepP.ite
    | ((fail_if_success (conv => arg 3; arg 3)); with_reducible apply KeepP.mk')
    | with_reducible apply KeepP.fst
    | split
    | dsimp -zeta only)

theorem computeTile_keep_of {M : Part → Prop} {c : Cmd} {t : Nat} {a : List Nat} {b : List Nat} {z s u_ : State} {o_ : Option TileOut} (e_ : computeTile c t a b s = (u_, o_)) (h_dev : ¬ M .dev) (h_free : ¬ M .free) (h_regs : ¬ M .regs) (h_od : ¬ M .od) (h_mem : ¬ M .mem) (h_memCtl : ¬ M .memCtl) (h_pwr : ¬ M .pwr) (h_start : ¬ M .start) (h_sdg : ¬ M .sdg) (h_frz : ¬ M .frz) (h_sec : ¬ M .sec) (h_pack : ¬ M .pack)
    (hz : Keep M z s) : Keep M z u_ :=
  (computeTile_keep h_dev h_free h_regs h_od h_mem h_memCtl h_pwr h_start h_sdg h_frz h_sec h_pack _ _ _ _ hz).of e_

theorem stopAtTile_keep {M : Part → Prop} {z s : State} (h_pack : ¬ M .pack) (n : Nat) (q : Nat) (k : Nat) (r : StopReason) (hz : Keep M z s) :
    Keep M z (stopAtTile n q k r s) := by
  unfold stopAtTile
  repeat' (first
    | with_reducible assumption
    | with_reducible exact Keep.refl _
    | intro _
    | ((fail_if_success (conv => arg 3; arg 1)); extract_lets +onlyGivenNames t; refine Keep.cut t ?_ ?_; subst t; rotate_left; clear_value t; intro ht; rotate_right)
    | ((fail_if_success (conv => arg 3; arg 1)); extract_lets +onlyGivenNames t; subst t)
    | with_reducible apply putQ_keep
    | split
    | dsimp -zeta only)

theorem calWaited_keep {M : Part → Prop} {z s : State} (h_regs : ¬ M .regs) (h_od : ¬ M .od) (c : Cmd) (hz : Keep M z s) :
    Keep M z (calWaited c s) := by
  unfold calWaited
  repeat' (first
    | with_reducible assumption
    | with_reducible exact Keep.refl _
    | intro _
    | with_reducible apply regUpd_keep
    | with_reducible apply regCount_keep
    | with_reducible apply odMax_keep
    | split
    | dsimp -zeta only)

theorem startTile_keep {M : Part → Prop} {z s : State} (h_dev : ¬ M .dev) (h_now : ¬ M .now) (h_free : ¬ M .free) (h_regs : ¬ M .regs) (h_od : ¬ M .od) (h_mem : ¬ M .mem) (h_memCtl : ¬ M .memCtl) (h_pwr : ¬ M .pwr) (h_start : ¬ M .start) (h_sdg : ¬ M .sdg) (h_frz : ¬ M .frz) (h_sec : ¬ M .sec) (h_pack : ¬ M .pack) (h_cim : ¬ M .cim) (h_gtime : ¬ M .gtime) (n : Nat) (q : Nat) (k : Nat) (c : Cmd) (t : Nat) (a : List Nat) (b : List Nat) (packBad : Bool) (hz : Keep M z s) :
    Keep M z (startTile n q k c t a b packBad s) := by
  unfold startTile
  repeat' (first
    | with_reducible assumption
    | with_reducible exact Keep.refl _
    | intro _
    | ((fail_if_success (conv => arg 3; arg 1)); extract_lets +onlyGivenNames t; refine Keep.cut t ?_ ?_; subst t; rotate_left; clear_value t; intro ht; rotate_right)
    | ((fail_if_success (conv => arg 3; arg 1)); extract_lets +onlyGivenNames t; subst t)
    | with_reducible apply regCount_keep
    | with_reducible apply odCount_keep
    | with_reducible apply raiseAlarm_keep
    | with_reducible apply putCt_keep
    | with_reducible apply memMsg_keep
    | with_reducible apply putCmd_keep
    | with_reducible apply byteWait_keep
    | with_reducible apply byteCharge_keep
    | with_reducible apply computeTile_keep
    | ((with_reducible apply computeTile_keep_of); with_reducible assumption)
    | with_reducible apply calWaited_keep
    | ((fail_if_success (fail_if_success (conv => arg 3; arg 39))); with_reducible apply Keep.upd_pack)
    | with_reducible apply Keep.ite
    | with_reducible apply KeepP.fst
    | split
    | dsimp -zeta only)

theorem tileStart_keep {M : Part → Prop} {z s : State} (h_dev : ¬ M .dev) (h_now : ¬ M .now) (h_free : ¬ M .free) (h_regs : ¬ M .regs) (h_od : ¬ M .od) (h_mem : ¬ M .mem) (h_memCtl : ¬ M .memCtl) (h_pwr : ¬ M .pwr) (h_start : ¬ M .start) (h_sdg : ¬ M .sdg) (h_frz : ¬ M .frz) (h_sec : ¬ M .sec) (h_pack : ¬ M .pack) (h_cim : ¬ M .cim) (h_gtime : ¬ M .gtime) (n : Nat) (q : Nat) (packBad : Bool) (hz : Keep M z s) :
    Keep M z (tileStart n q packBad s) := by
  unfold tileStart
  repeat' (first
    | with_reducible assumption
    | with_reducible exact Keep.refl _
    | intro _
    | with_reducible apply putCmd_keep
    | with_reducible apply rescanEngines_keep
    | with_reducible apply stopAtTile_keep
    | with_reducible apply startTile_keep
    | with_reducible apply Keep.ite
    | split
    | dsimp -zeta only)

theorem referenceDrift_keep {M : Part → Prop} {z s : State} (h_regs : ¬ M .regs) (h_cim : ¬ M .cim) (c : Cmd) (t : Tile) (off : List (Fin 16 × Fin 64 × Nat)) (hz : Keep M z s) :
    Keep M z (referenceDrift c t off s) := by
  unfold referenceDrift
  repeat' (first
    | with_reducible assumption
    | with_reducible exact Keep.refl _
    | intro _
    | ((fail_if_success (conv => arg 3; arg 1)); extract_lets +onlyGivenNames t; refine Keep.cut t ?_ ?_; subst t; rotate_left; clear_value t; intro ht; rotate_right)
    | ((fail_if_success (conv => arg 3; arg 1)); extract_lets +onlyGivenNames t; refine KeepP.cut t ?_ ?_; subst t; rotate_left; clear_value t; intro ht; rotate_right)
    | ((fail_if_success (conv => arg 3; arg 1)); extract_lets +onlyGivenNames t; subst t)
    | with_reducible apply regCount_keep
    | with_reducible apply makeDue_keep
    | with_reducible apply Keep.ite
    | ((fail_if_success (conv => arg 3; arg 3)); with_reducible apply KeepP.mk')
    | with_reducible apply KeepP.foldl
    | with_reducible apply Keep.foldl
    | with_reducible apply KeepP.fst
    | split
    | dsimp -zeta only)

theorem tileMismatch_keep {M : Part → Prop} {z s : State} (h_dev : ¬ M .dev) (h_regs : ¬ M .regs) (h_od : ¬ M .od) (h_pwr : ¬ M .pwr) (h_start : ¬ M .start) (h_sdg : ¬ M .sdg) (h_frz : ¬ M .frz) (h_pack : ¬ M .pack) (n : Nat) (q : Nat) (k : Nat) (c : Cmd) (hz : Keep M z s) :
    Keep M z (tileMismatch n q k c s) := by
  unfold tileMismatch
  repeat' (first
    | with_reducible assumption
    | with_reducible exact Keep.refl _
    | intro _
    | ((fail_if_success (conv => arg 3; arg 1)); extract_lets +onlyGivenNames t; refine Keep.cut t ?_ ?_; subst t; rotate_left; clear_value t; intro ht; rotate_right)
    | ((fail_if_success (conv => arg 3; arg 1)); extract_lets +onlyGivenNames t; subst t)
    | with_reducible apply odCount_keep
    | with_reducible apply putQ_keep
    | with_reducible apply frzTrigger_keep
    | with_reducible apply raiseAlarm_keep
    | with_reducible apply finish_keep
    | with_reducible apply Keep.ite
    | split
    | dsimp -zeta only)

theorem conversionFault_keep {M : Part → Prop} {z s : State} (h_regs : ¬ M .regs) (h_od : ¬ M .od) (h_pack : ¬ M .pack) (n : Nat) (q : Nat) (k : Nat) (hz : Keep M z s) :
    Keep M z (conversionFault n q k s) := by
  unfold conversionFault
  repeat' (first
    | with_reducible assumption
    | with_reducible exact Keep.refl _
    | intro _
    | with_reducible apply regCount_keep
    | with_reducible apply odCount_keep
    | with_reducible apply finish_keep
    | split
    | dsimp -zeta only)

theorem commitChunk_keep {M : Part → Prop} {z s : State} (h_regs : ¬ M .regs) (h_od : ¬ M .od) (h_cim : ¬ M .cim) (c : Cmd) (t : Tile) (hz : Keep M z s) :
    KeepP M z (commitChunk c t s) := by
  unfold commitChunk
  repeat' (first
    | with_reducible assumption
    | with_reducible exact Keep.refl _
    | intro _
    | ((fail_if_success (conv => arg 3; arg 1)); extract_lets +onlyGivenNames t; refine KeepP.cut t ?_ ?_; subst t; rotate_left; clear_value t; intro ht; rotate_right)
    | ((fail_if_success (conv => arg 3; arg 1)); extract_lets +onlyGivenNames t; refine Keep.cut t ?_ ?_; subst t; rotate_left; clear_value t; intro ht; rotate_right)
    | ((fail_if_success (conv => arg 3; arg 1)); extract_lets +onlyGivenNames t; subst t)
    | with_reducible apply regCount_keep
    | with_reducible apply odCount_keep
    | with_reducible apply putCt_keep
    | with_reducible apply putMacro_keep
    | ((fail_if_success (fail_if_success (conv => arg 3; arg 39))); with_reducible apply Keep.upd_cim)
    | with_reducible apply Keep.ite
    | with_reducible apply KeepP.ite
    | ((fail_if_success (conv => arg 3; arg 3)); with_reducible apply KeepP.mk')
    | with_reducible apply KeepP.fst
    | split
    | dsimp -zeta only)

theorem commitChunk_keep_of {M : Part → Prop} {c : Cmd} {t : Tile} {z s u_ : State} {o_ : Option Nat} (e_ : commitChunk c t s = (u_, o_)) (h_regs : ¬ M .regs) (h_od : ¬ M .od) (h_cim : ¬ M .cim)
    (hz : Keep M z s) : Keep M z u_ :=
  (commitChunk_keep h_regs h_od h_cim _ _ hz).of e_

theorem slotLatency_keep {M : Part → Prop} {z s : State} (h_od : ¬ M .od) (n : Nat) (t : Tile) (hz : Keep M z s) :
    Keep M z (slotLatency n t s) := by
  unfold slotLatency
  repeat' (first
    | with_reducible assumption
    | with_reducible exact Keep.refl _
    | intro _
    | ((fail_if_success (conv => arg 3; arg 1)); extract_lets +onlyGivenNames t; refine Keep.cut t ?_ ?_; subst t; rotate_left; clear_value t; intro ht; rotate_right)
    | ((fail_if_success (conv => arg 3; arg 1)); extract_lets +onlyGivenNames t; refine KeepP.cut t ?_ ?_; subst t; rotate_left; clear_value t; intro ht; rotate_right)
    | ((fail_if_success (conv => arg 3; arg 1)); extract_lets +onlyGivenNames t; subst t)
    | with_reducible apply odMax_keep
    | with_reducible apply Keep.foldl
    | split
    | dsimp -zeta only)

theorem countTile_keep {M : Part → Prop} {z s : State} (h_regs : ¬ M .regs) (h_od : ¬ M .od) (n : Nat) (t : Tile) (hz : Keep M z s) :
    Keep M z (countTile n t s) := by
  unfold countTile
  repeat' (first
    | with_reducible assumption
    | with_reducible exact Keep.refl _
    | intro _
    | ((fail_if_success (conv => arg 3; arg 1)); extract_lets +onlyGivenNames t; refine Keep.cut t ?_ ?_; subst t; rotate_left; clear_value t; intro ht; rotate_right)
    | ((fail_if_success (conv => arg 3; arg 1)); extract_lets +onlyGivenNames t; subst t)
    | with_reducible apply regUpd_keep
    | with_reducible apply regCount64_keep
    | with_reducible apply odCount_keep
    | with_reducible apply odMax_keep
    | with_reducible apply slotLatency_keep
    | split
    | dsimp -zeta only)

theorem settleAfter_keep {M : Part → Prop} {z s : State} (h_regs : ¬ M .regs) (h_od : ¬ M .od) (h_pack : ¬ M .pack) (n : Nat) (q : Nat) (c : Cmd) (hz : Keep M z s) :
    Keep M z (settleAfter n q c s) := by
  unfold settleAfter
  repeat' (first
    | with_reducible assumption
    | with_reducible exact Keep.refl _
    | intro _
    | ((fail_if_success (conv => arg 3; arg 1)); extract_lets +onlyGivenNames t; refine Keep.cut t ?_ ?_; subst t; rotate_left; clear_value t; intro ht; rotate_right)
    | ((fail_if_success (conv => arg 3; arg 1)); extract_lets +onlyGivenNames t; subst t)
    | with_reducible apply regUpd_keep
    | with_reducible apply odMax_keep
    | with_reducible apply putQ_keep
    | with_reducible apply Keep.ite
    | split
    | dsimp -zeta only)

theorem commitTile_keep {M : Part → Prop} {z s : State} (h_regs : ¬ M .regs) (h_od : ¬ M .od) (h_mem : ¬ M .mem) (h_memCtl : ¬ M .memCtl) (h_sec : ¬ M .sec) (h_pack : ¬ M .pack) (h_cim : ¬ M .cim) (h_kennel : ¬ M .kennel) (n : Nat) (q : Nat) (k : Nat) (c : Cmd) (t : Tile) (hz : Keep M z s) :
    Keep M z (commitTile n q k c t s) := by
  unfold commitTile
  repeat' (first
    | with_reducible assumption
    | with_reducible exact Keep.refl _
    | intro _
    | ((fail_if_success (conv => arg 3; arg 1)); extract_lets +onlyGivenNames t; refine Keep.cut t ?_ ?_; subst t; rotate_left; clear_value t; intro ht; rotate_right)
    | ((fail_if_success (conv => arg 3; arg 1)); extract_lets +onlyGivenNames t; refine KeepP.cut t ?_ ?_; subst t; rotate_left; clear_value t; intro ht; rotate_right)
    | ((fail_if_success (conv => arg 3; arg 1)); extract_lets +onlyGivenNames t; subst t)
    | with_reducible apply putQ_keep
    | with_reducible apply writeRange_keep
    | with_reducible apply putSeq_keep
    | with_reducible apply finish_keep
    | with_reducible apply putCmd_keep
    | with_reducible apply commitChunk_keep
    | ((with_reducible apply commitChunk_keep_of); with_reducible assumption)
    | with_reducible apply countTile_keep
    | with_reducible apply settleAfter_keep
    | with_reducible apply Keep.ite
    | with_reducible apply KeepW.done
    | with_reducible apply KeepW.denied
    | with_reducible apply KeepP.ite
    | ((fail_if_success (conv => arg 3; arg 3)); with_reducible apply KeepP.mk')
    | with_reducible apply KeepP.foldl
    | with_reducible apply Keep.foldl
    | with_reducible apply KeepP.fst
    | refine KeepP.of ?_ (by assumption)
    | split
    | dsimp -zeta only)

theorem tileCommit_keep {M : Part → Prop} {z s : State} (h_dev : ¬ M .dev) (h_regs : ¬ M .regs) (h_od : ¬ M .od) (h_mem : ¬ M .mem) (h_memCtl : ¬ M .memCtl) (h_pwr : ¬ M .pwr) (h_start : ¬ M .start) (h_sdg : ¬ M .sdg) (h_frz : ¬ M .frz) (h_sec : ¬ M .sec) (h_pack : ¬ M .pack) (h_cim : ¬ M .cim) (h_kennel : ¬ M .kennel) (n : Nat) (q : Nat) (differ : Bool) (off : List (Fin 16 × Fin 64 × Nat)) (hz : Keep M z s) :
    Keep M z (tileCommit n q differ off s) := by
  unfold tileCommit
  repeat' (first
    | with_reducible assumption
    | with_reducible exact Keep.refl _
    | intro _
    | ((fail_if_success (conv => arg 3; arg 1)); extract_lets +onlyGivenNames t; refine Keep.cut t ?_ ?_; subst t; rotate_left; clear_value t; intro ht; rotate_right)
    | ((fail_if_success (conv => arg 3; arg 1)); extract_lets +onlyGivenNames t; subst t)
    | with_reducible apply finish_keep
    | with_reducible apply referenceDrift_keep
    | with_reducible apply tileMismatch_keep
    | with_reducible apply conversionFault_keep
    | with_reducible apply commitTile_keep
    | with_reducible apply Keep.ite
    | split
    | dsimp -zeta only)

theorem drainQueue_keep {M : Part → Prop} {z s : State} (h_dev : ¬ M .dev) (h_regs : ¬ M .regs) (h_od : ¬ M .od) (h_mem : ¬ M .mem) (h_memCtl : ¬ M .memCtl) (h_pwr : ¬ M .pwr) (h_start : ¬ M .start) (h_sdg : ¬ M .sdg) (h_frz : ¬ M .frz) (h_sec : ¬ M .sec) (h_pack : ¬ M .pack) (h_cim : ¬ M .cim) (h_kennel : ¬ M .kennel) (key : Nat) (hz : Keep M z s) :
    Keep M z (drainQueue key s) := by
  unfold drainQueue
  repeat' (first
    | with_reducible assumption
    | with_reducible exact Keep.refl _
    | intro _
    | with_reducible apply tileCommit_keep
    | with_reducible apply Keep.iterate
    | split
    | dsimp -zeta only)

theorem drainWhere_keep {M : Part → Prop} {z s : State} (h_dev : ¬ M .dev) (h_regs : ¬ M .regs) (h_od : ¬ M .od) (h_mem : ¬ M .mem) (h_memCtl : ¬ M .memCtl) (h_pwr : ¬ M .pwr) (h_start : ¬ M .start) (h_sdg : ¬ M .sdg) (h_frz : ¬ M .frz) (h_sec : ¬ M .sec) (h_pack : ¬ M .pack) (h_cim : ¬ M .cim) (h_kennel : ¬ M .kennel) (p : Nat → Queue → Bool) (hz : Keep M z s) :
    Keep M z (drainWhere p s) := by
  unfold drainWhere
  repeat' (first
    | with_reducible assumption
    | with_reducible exact Keep.refl _
    | intro _
    | with_reducible apply drainQueue_keep
    | ((fail_if_success (conv => arg 3; arg 3)); with_reducible apply KeepP.mk')
    | with_reducible apply KeepP.foldl
    | with_reducible apply Keep.foldl
    | with_reducible apply KeepP.fst
    | split
    | dsimp -zeta only)

theorem execNop_keep {M : Part → Prop} {z s : State} (h_dev : ¬ M .dev) (h_free : ¬ M .free) (h_regs : ¬ M .regs) (h_od : ¬ M .od) (h_mem : ¬ M .mem) (h_memCtl : ¬ M .memCtl) (h_pwr : ¬ M .pwr) (h_start : ¬ M .start) (h_sdg : ¬ M .sdg) (h_frz : ¬ M .frz) (h_sec : ¬ M .sec) (h_knots : ¬ M .knots) (h_pack : ¬ M .pack) (h_cim : ¬ M .cim) (h_kennel : ¬ M .kennel) (h_slots : ¬ M .slots) (h_safeSlots : ¬ M .safeSlots) (n : Fin 256) (q : Fin 256) (hz : Keep M z s) :
    KeepN M z (execNop n q s) := by
  unfold execNop
  repeat' (first
    | with_reducible assumption
    | with_reducible exact Keep.refl _
    | intro _
    | with_reducible apply KeepN.next
    | with_reducible apply startOp_keep
    | split
    | dsimp -zeta only)

theorem execFence_keep {M : Part → Prop} {z s : State} (h_dev : ¬ M .dev) (h_free : ¬ M .free) (h_regs : ¬ M .regs) (h_od : ¬ M .od) (h_mem : ¬ M .mem) (h_memCtl : ¬ M .memCtl) (h_pwr : ¬ M .pwr) (h_start : ¬ M .start) (h_sdg : ¬ M .sdg) (h_frz : ¬ M .frz) (h_sec : ¬ M .sec) (h_knots : ¬ M .knots) (h_pack : ¬ M .pack) (h_cim : ¬ M .cim) (h_kennel : ¬ M .kennel) (h_slots : ¬ M .slots) (h_safeSlots : ¬ M .safeSlots) (n : Fin 256) (q : Fin 256) (hz : Keep M z s) :
    KeepN M z (execFence n q s) := by
  unfold execFence
  repeat' (first
    | with_reducible assumption
    | with_reducible exact Keep.refl _
    | intro _
    | with_reducible apply KeepN.next
    | with_reducible apply startOp_keep
    | split
    | dsimp -zeta only)

theorem execCheckpoint_keep {M : Part → Prop} {z s : State} (h_dev : ¬ M .dev) (h_free : ¬ M .free) (h_regs : ¬ M .regs) (h_od : ¬ M .od) (h_mem : ¬ M .mem) (h_memCtl : ¬ M .memCtl) (h_pwr : ¬ M .pwr) (h_start : ¬ M .start) (h_sdg : ¬ M .sdg) (h_frz : ¬ M .frz) (h_sec : ¬ M .sec) (h_knots : ¬ M .knots) (h_pack : ¬ M .pack) (h_cim : ¬ M .cim) (h_kennel : ¬ M .kennel) (h_slots : ¬ M .slots) (h_safeSlots : ¬ M .safeSlots) (n : Fin 256) (q : Fin 256) (hz : Keep M z s) :
    KeepN M z (execCheckpoint n q s) := by
  unfold execCheckpoint
  repeat' (first
    | with_reducible assumption
    | with_reducible exact Keep.refl _
    | intro _
    | with_reducible apply KeepN.next
    | with_reducible apply startOp_keep
    | split
    | dsimp -zeta only)

theorem execKnotWait_keep {M : Part → Prop} {z s : State} (h_dev : ¬ M .dev) (h_free : ¬ M .free) (h_regs : ¬ M .regs) (h_od : ¬ M .od) (h_mem : ¬ M .mem) (h_memCtl : ¬ M .memCtl) (h_pwr : ¬ M .pwr) (h_start : ¬ M .start) (h_sdg : ¬ M .sdg) (h_frz : ¬ M .frz) (h_sec : ¬ M .sec) (h_knots : ¬ M .knots) (h_pack : ¬ M .pack) (h_cim : ¬ M .cim) (h_kennel : ¬ M .kennel) (h_slots : ¬ M .slots) (h_safeSlots : ¬ M .safeSlots) (n : Fin 256) (q : Fin 256) (hz : Keep M z s) :
    KeepN M z (execKnotWait n q s) := by
  unfold execKnotWait
  repeat' (first
    | with_reducible assumption
    | with_reducible exact Keep.refl _
    | intro _
    | with_reducible apply KeepN.next
    | with_reducible apply startOp_keep
    | split
    | dsimp -zeta only)

theorem execKnotSignal_keep {M : Part → Prop} {z s : State} (h_dev : ¬ M .dev) (h_free : ¬ M .free) (h_regs : ¬ M .regs) (h_od : ¬ M .od) (h_mem : ¬ M .mem) (h_memCtl : ¬ M .memCtl) (h_pwr : ¬ M .pwr) (h_start : ¬ M .start) (h_sdg : ¬ M .sdg) (h_frz : ¬ M .frz) (h_sec : ¬ M .sec) (h_knots : ¬ M .knots) (h_pack : ¬ M .pack) (h_cim : ¬ M .cim) (h_kennel : ¬ M .kennel) (h_slots : ¬ M .slots) (h_safeSlots : ¬ M .safeSlots) (n : Fin 256) (q : Fin 256) (hz : Keep M z s) :
    KeepN M z (execKnotSignal n q s) := by
  unfold execKnotSignal
  repeat' (first
    | with_reducible assumption
    | with_reducible exact Keep.refl _
    | intro _
    | with_reducible apply KeepN.next
    | with_reducible apply startOp_keep
    | split
    | dsimp -zeta only)

theorem execCopy_keep {M : Part → Prop} {z s : State} (h_dev : ¬ M .dev) (h_free : ¬ M .free) (h_regs : ¬ M .regs) (h_od : ¬ M .od) (h_mem : ¬ M .mem) (h_memCtl : ¬ M .memCtl) (h_pwr : ¬ M .pwr) (h_start : ¬ M .start) (h_sdg : ¬ M .sdg) (h_frz : ¬ M .frz) (h_sec : ¬ M .sec) (h_knots : ¬ M .knots) (h_pack : ¬ M .pack) (h_cim : ¬ M .cim) (h_kennel : ¬ M .kennel) (h_slots : ¬ M .slots) (h_safeSlots : ¬ M .safeSlots) (n : Fin 256) (q : Fin 256) (hz : Keep M z s) :
    KeepN M z (execCopy n q s) := by
  unfold execCopy
  repeat' (first
    | with_reducible assumption
    | with_reducible exact Keep.refl _
    | intro _
    | with_reducible apply KeepN.next
    | with_reducible apply startOp_keep
    | split
    | dsimp -zeta only)

theorem execMatmul_keep {M : Part → Prop} {z s : State} (h_dev : ¬ M .dev) (h_free : ¬ M .free) (h_regs : ¬ M .regs) (h_od : ¬ M .od) (h_mem : ¬ M .mem) (h_memCtl : ¬ M .memCtl) (h_pwr : ¬ M .pwr) (h_start : ¬ M .start) (h_sdg : ¬ M .sdg) (h_frz : ¬ M .frz) (h_sec : ¬ M .sec) (h_knots : ¬ M .knots) (h_pack : ¬ M .pack) (h_cim : ¬ M .cim) (h_kennel : ¬ M .kennel) (h_slots : ¬ M .slots) (h_safeSlots : ¬ M .safeSlots) (n : Fin 256) (q : Fin 256) (hz : Keep M z s) :
    KeepN M z (execMatmul n q s) := by
  unfold execMatmul
  repeat' (first
    | with_reducible assumption
    | with_reducible exact Keep.refl _
    | intro _
    | with_reducible apply KeepN.next
    | with_reducible apply startOp_keep
    | split
    | dsimp -zeta only)

theorem execConv2d_keep {M : Part → Prop} {z s : State} (h_dev : ¬ M .dev) (h_free : ¬ M .free) (h_regs : ¬ M .regs) (h_od : ¬ M .od) (h_mem : ¬ M .mem) (h_memCtl : ¬ M .memCtl) (h_pwr : ¬ M .pwr) (h_start : ¬ M .start) (h_sdg : ¬ M .sdg) (h_frz : ¬ M .frz) (h_sec : ¬ M .sec) (h_knots : ¬ M .knots) (h_pack : ¬ M .pack) (h_cim : ¬ M .cim) (h_kennel : ¬ M .kennel) (h_slots : ¬ M .slots) (h_safeSlots : ¬ M .safeSlots) (n : Fin 256) (q : Fin 256) (hz : Keep M z s) :
    KeepN M z (execConv2d n q s) := by
  unfold execConv2d
  repeat' (first
    | with_reducible assumption
    | with_reducible exact Keep.refl _
    | intro _
    | with_reducible apply KeepN.next
    | with_reducible apply startOp_keep
    | split
    | dsimp -zeta only)

theorem execVecAdd_keep {M : Part → Prop} {z s : State} (h_dev : ¬ M .dev) (h_free : ¬ M .free) (h_regs : ¬ M .regs) (h_od : ¬ M .od) (h_mem : ¬ M .mem) (h_memCtl : ¬ M .memCtl) (h_pwr : ¬ M .pwr) (h_start : ¬ M .start) (h_sdg : ¬ M .sdg) (h_frz : ¬ M .frz) (h_sec : ¬ M .sec) (h_knots : ¬ M .knots) (h_pack : ¬ M .pack) (h_cim : ¬ M .cim) (h_kennel : ¬ M .kennel) (h_slots : ¬ M .slots) (h_safeSlots : ¬ M .safeSlots) (n : Fin 256) (q : Fin 256) (hz : Keep M z s) :
    KeepN M z (execVecAdd n q s) := by
  unfold execVecAdd
  repeat' (first
    | with_reducible assumption
    | with_reducible exact Keep.refl _
    | intro _
    | with_reducible apply KeepN.next
    | with_reducible apply startVop_keep
    | split
    | dsimp -zeta only)

theorem execVecMul_keep {M : Part → Prop} {z s : State} (h_dev : ¬ M .dev) (h_free : ¬ M .free) (h_regs : ¬ M .regs) (h_od : ¬ M .od) (h_mem : ¬ M .mem) (h_memCtl : ¬ M .memCtl) (h_pwr : ¬ M .pwr) (h_start : ¬ M .start) (h_sdg : ¬ M .sdg) (h_frz : ¬ M .frz) (h_sec : ¬ M .sec) (h_knots : ¬ M .knots) (h_pack : ¬ M .pack) (h_cim : ¬ M .cim) (h_kennel : ¬ M .kennel) (h_slots : ¬ M .slots) (h_safeSlots : ¬ M .safeSlots) (n : Fin 256) (q : Fin 256) (hz : Keep M z s) :
    KeepN M z (execVecMul n q s) := by
  unfold execVecMul
  repeat' (first
    | with_reducible assumption
    | with_reducible exact Keep.refl _
    | intro _
    | with_reducible apply KeepN.next
    | with_reducible apply startVop_keep
    | split
    | dsimp -zeta only)

theorem execVecMax_keep {M : Part → Prop} {z s : State} (h_dev : ¬ M .dev) (h_free : ¬ M .free) (h_regs : ¬ M .regs) (h_od : ¬ M .od) (h_mem : ¬ M .mem) (h_memCtl : ¬ M .memCtl) (h_pwr : ¬ M .pwr) (h_start : ¬ M .start) (h_sdg : ¬ M .sdg) (h_frz : ¬ M .frz) (h_sec : ¬ M .sec) (h_knots : ¬ M .knots) (h_pack : ¬ M .pack) (h_cim : ¬ M .cim) (h_kennel : ¬ M .kennel) (h_slots : ¬ M .slots) (h_safeSlots : ¬ M .safeSlots) (n : Fin 256) (q : Fin 256) (hz : Keep M z s) :
    KeepN M z (execVecMax n q s) := by
  unfold execVecMax
  repeat' (first
    | with_reducible assumption
    | with_reducible exact Keep.refl _
    | intro _
    | with_reducible apply KeepN.next
    | with_reducible apply startVop_keep
    | split
    | dsimp -zeta only)

theorem execVecMin_keep {M : Part → Prop} {z s : State} (h_dev : ¬ M .dev) (h_free : ¬ M .free) (h_regs : ¬ M .regs) (h_od : ¬ M .od) (h_mem : ¬ M .mem) (h_memCtl : ¬ M .memCtl) (h_pwr : ¬ M .pwr) (h_start : ¬ M .start) (h_sdg : ¬ M .sdg) (h_frz : ¬ M .frz) (h_sec : ¬ M .sec) (h_knots : ¬ M .knots) (h_pack : ¬ M .pack) (h_cim : ¬ M .cim) (h_kennel : ¬ M .kennel) (h_slots : ¬ M .slots) (h_safeSlots : ¬ M .safeSlots) (n : Fin 256) (q : Fin 256) (hz : Keep M z s) :
    KeepN M z (execVecMin n q s) := by
  unfold execVecMin
  repeat' (first
    | with_reducible assumption
    | with_reducible exact Keep.refl _
    | intro _
    | with_reducible apply KeepN.next
    | with_reducible apply startVop_keep
    | split
    | dsimp -zeta only)

theorem execVecAxpb_keep {M : Part → Prop} {z s : State} (h_dev : ¬ M .dev) (h_free : ¬ M .free) (h_regs : ¬ M .regs) (h_od : ¬ M .od) (h_mem : ¬ M .mem) (h_memCtl : ¬ M .memCtl) (h_pwr : ¬ M .pwr) (h_start : ¬ M .start) (h_sdg : ¬ M .sdg) (h_frz : ¬ M .frz) (h_sec : ¬ M .sec) (h_knots : ¬ M .knots) (h_pack : ¬ M .pack) (h_cim : ¬ M .cim) (h_kennel : ¬ M .kennel) (h_slots : ¬ M .slots) (h_safeSlots : ¬ M .safeSlots) (n : Fin 256) (q : Fin 256) (hz : Keep M z s) :
    KeepN M z (execVecAxpb n q s) := by
  unfold execVecAxpb
  repeat' (first
    | with_reducible assumption
    | with_reducible exact Keep.refl _
    | intro _
    | with_reducible apply KeepN.next
    | with_reducible apply startVop_keep
    | split
    | dsimp -zeta only)

theorem execVecRelu_keep {M : Part → Prop} {z s : State} (h_dev : ¬ M .dev) (h_free : ¬ M .free) (h_regs : ¬ M .regs) (h_od : ¬ M .od) (h_mem : ¬ M .mem) (h_memCtl : ¬ M .memCtl) (h_pwr : ¬ M .pwr) (h_start : ¬ M .start) (h_sdg : ¬ M .sdg) (h_frz : ¬ M .frz) (h_sec : ¬ M .sec) (h_knots : ¬ M .knots) (h_pack : ¬ M .pack) (h_cim : ¬ M .cim) (h_kennel : ¬ M .kennel) (h_slots : ¬ M .slots) (h_safeSlots : ¬ M .safeSlots) (n : Fin 256) (q : Fin 256) (hz : Keep M z s) :
    KeepN M z (execVecRelu n q s) := by
  unfold execVecRelu
  repeat' (first
    | with_reducible assumption
    | with_reducible exact Keep.refl _
    | intro _
    | with_reducible apply KeepN.next
    | with_reducible apply startVop_keep
    | split
    | dsimp -zeta only)

theorem execVecClamp_keep {M : Part → Prop} {z s : State} (h_dev : ¬ M .dev) (h_free : ¬ M .free) (h_regs : ¬ M .regs) (h_od : ¬ M .od) (h_mem : ¬ M .mem) (h_memCtl : ¬ M .memCtl) (h_pwr : ¬ M .pwr) (h_start : ¬ M .start) (h_sdg : ¬ M .sdg) (h_frz : ¬ M .frz) (h_sec : ¬ M .sec) (h_knots : ¬ M .knots) (h_pack : ¬ M .pack) (h_cim : ¬ M .cim) (h_kennel : ¬ M .kennel) (h_slots : ¬ M .slots) (h_safeSlots : ¬ M .safeSlots) (n : Fin 256) (q : Fin 256) (hz : Keep M z s) :
    KeepN M z (execVecClamp n q s) := by
  unfold execVecClamp
  repeat' (first
    | with_reducible assumption
    | with_reducible exact Keep.refl _
    | intro _
    | with_reducible apply KeepN.next
    | with_reducible apply startVop_keep
    | split
    | dsimp -zeta only)

theorem execVecGelu_keep {M : Part → Prop} {z s : State} (h_dev : ¬ M .dev) (h_free : ¬ M .free) (h_regs : ¬ M .regs) (h_od : ¬ M .od) (h_mem : ¬ M .mem) (h_memCtl : ¬ M .memCtl) (h_pwr : ¬ M .pwr) (h_start : ¬ M .start) (h_sdg : ¬ M .sdg) (h_frz : ¬ M .frz) (h_sec : ¬ M .sec) (h_knots : ¬ M .knots) (h_pack : ¬ M .pack) (h_cim : ¬ M .cim) (h_kennel : ¬ M .kennel) (h_slots : ¬ M .slots) (h_safeSlots : ¬ M .safeSlots) (n : Fin 256) (q : Fin 256) (hz : Keep M z s) :
    KeepN M z (execVecGelu n q s) := by
  unfold execVecGelu
  repeat' (first
    | with_reducible assumption
    | with_reducible exact Keep.refl _
    | intro _
    | with_reducible apply KeepN.next
    | with_reducible apply startVop_keep
    | split
    | dsimp -zeta only)

theorem execVecSigmoid_keep {M : Part → Prop} {z s : State} (h_dev : ¬ M .dev) (h_free : ¬ M .free) (h_regs : ¬ M .regs) (h_od : ¬ M .od) (h_mem : ¬ M .mem) (h_memCtl : ¬ M .memCtl) (h_pwr : ¬ M .pwr) (h_start : ¬ M .start) (h_sdg : ¬ M .sdg) (h_frz : ¬ M .frz) (h_sec : ¬ M .sec) (h_knots : ¬ M .knots) (h_pack : ¬ M .pack) (h_cim : ¬ M .cim) (h_kennel : ¬ M .kennel) (h_slots : ¬ M .slots) (h_safeSlots : ¬ M .safeSlots) (n : Fin 256) (q : Fin 256) (hz : Keep M z s) :
    KeepN M z (execVecSigmoid n q s) := by
  unfold execVecSigmoid
  repeat' (first
    | with_reducible assumption
    | with_reducible exact Keep.refl _
    | intro _
    | with_reducible apply KeepN.next
    | with_reducible apply startVop_keep
    | split
    | dsimp -zeta only)

theorem execVecTanh_keep {M : Part → Prop} {z s : State} (h_dev : ¬ M .dev) (h_free : ¬ M .free) (h_regs : ¬ M .regs) (h_od : ¬ M .od) (h_mem : ¬ M .mem) (h_memCtl : ¬ M .memCtl) (h_pwr : ¬ M .pwr) (h_start : ¬ M .start) (h_sdg : ¬ M .sdg) (h_frz : ¬ M .frz) (h_sec : ¬ M .sec) (h_knots : ¬ M .knots) (h_pack : ¬ M .pack) (h_cim : ¬ M .cim) (h_kennel : ¬ M .kennel) (h_slots : ¬ M .slots) (h_safeSlots : ¬ M .safeSlots) (n : Fin 256) (q : Fin 256) (hz : Keep M z s) :
    KeepN M z (execVecTanh n q s) := by
  unfold execVecTanh
  repeat' (first
    | with_reducible assumption
    | with_reducible exact Keep.refl _
    | intro _
    | with_reducible apply KeepN.next
    | with_reducible apply startVop_keep
    | split
    | dsimp -zeta only)

theorem execVecExp_keep {M : Part → Prop} {z s : State} (h_dev : ¬ M .dev) (h_free : ¬ M .free) (h_regs : ¬ M .regs) (h_od : ¬ M .od) (h_mem : ¬ M .mem) (h_memCtl : ¬ M .memCtl) (h_pwr : ¬ M .pwr) (h_start : ¬ M .start) (h_sdg : ¬ M .sdg) (h_frz : ¬ M .frz) (h_sec : ¬ M .sec) (h_knots : ¬ M .knots) (h_pack : ¬ M .pack) (h_cim : ¬ M .cim) (h_kennel : ¬ M .kennel) (h_slots : ¬ M .slots) (h_safeSlots : ¬ M .safeSlots) (n : Fin 256) (q : Fin 256) (hz : Keep M z s) :
    KeepN M z (execVecExp n q s) := by
  unfold execVecExp
  repeat' (first
    | with_reducible assumption
    | with_reducible exact Keep.refl _
    | intro _
    | with_reducible apply KeepN.next
    | with_reducible apply startVop_keep
    | split
    | dsimp -zeta only)

theorem execVecRsqrt_keep {M : Part → Prop} {z s : State} (h_dev : ¬ M .dev) (h_free : ¬ M .free) (h_regs : ¬ M .regs) (h_od : ¬ M .od) (h_mem : ¬ M .mem) (h_memCtl : ¬ M .memCtl) (h_pwr : ¬ M .pwr) (h_start : ¬ M .start) (h_sdg : ¬ M .sdg) (h_frz : ¬ M .frz) (h_sec : ¬ M .sec) (h_knots : ¬ M .knots) (h_pack : ¬ M .pack) (h_cim : ¬ M .cim) (h_kennel : ¬ M .kennel) (h_slots : ¬ M .slots) (h_safeSlots : ¬ M .safeSlots) (n : Fin 256) (q : Fin 256) (hz : Keep M z s) :
    KeepN M z (execVecRsqrt n q s) := by
  unfold execVecRsqrt
  repeat' (first
    | with_reducible assumption
    | with_reducible exact Keep.refl _
    | intro _
    | with_reducible apply KeepN.next
    | with_reducible apply startVop_keep
    | split
    | dsimp -zeta only)

theorem execVecSoftmax_keep {M : Part → Prop} {z s : State} (h_dev : ¬ M .dev) (h_free : ¬ M .free) (h_regs : ¬ M .regs) (h_od : ¬ M .od) (h_mem : ¬ M .mem) (h_memCtl : ¬ M .memCtl) (h_pwr : ¬ M .pwr) (h_start : ¬ M .start) (h_sdg : ¬ M .sdg) (h_frz : ¬ M .frz) (h_sec : ¬ M .sec) (h_knots : ¬ M .knots) (h_pack : ¬ M .pack) (h_cim : ¬ M .cim) (h_kennel : ¬ M .kennel) (h_slots : ¬ M .slots) (h_safeSlots : ¬ M .safeSlots) (n : Fin 256) (q : Fin 256) (hz : Keep M z s) :
    KeepN M z (execVecSoftmax n q s) := by
  unfold execVecSoftmax
  repeat' (first
    | with_reducible assumption
    | with_reducible exact Keep.refl _
    | intro _
    | with_reducible apply KeepN.next
    | with_reducible apply startVop_keep
    | split
    | dsimp -zeta only)

theorem execVecLayernorm_keep {M : Part → Prop} {z s : State} (h_dev : ¬ M .dev) (h_free : ¬ M .free) (h_regs : ¬ M .regs) (h_od : ¬ M .od) (h_mem : ¬ M .mem) (h_memCtl : ¬ M .memCtl) (h_pwr : ¬ M .pwr) (h_start : ¬ M .start) (h_sdg : ¬ M .sdg) (h_frz : ¬ M .frz) (h_sec : ¬ M .sec) (h_knots : ¬ M .knots) (h_pack : ¬ M .pack) (h_cim : ¬ M .cim) (h_kennel : ¬ M .kennel) (h_slots : ¬ M .slots) (h_safeSlots : ¬ M .safeSlots) (n : Fin 256) (q : Fin 256) (hz : Keep M z s) :
    KeepN M z (execVecLayernorm n q s) := by
  unfold execVecLayernorm
  repeat' (first
    | with_reducible assumption
    | with_reducible exact Keep.refl _
    | intro _
    | with_reducible apply KeepN.next
    | with_reducible apply startVop_keep
    | split
    | dsimp -zeta only)

theorem execVecRmsnorm_keep {M : Part → Prop} {z s : State} (h_dev : ¬ M .dev) (h_free : ¬ M .free) (h_regs : ¬ M .regs) (h_od : ¬ M .od) (h_mem : ¬ M .mem) (h_memCtl : ¬ M .memCtl) (h_pwr : ¬ M .pwr) (h_start : ¬ M .start) (h_sdg : ¬ M .sdg) (h_frz : ¬ M .frz) (h_sec : ¬ M .sec) (h_knots : ¬ M .knots) (h_pack : ¬ M .pack) (h_cim : ¬ M .cim) (h_kennel : ¬ M .kennel) (h_slots : ¬ M .slots) (h_safeSlots : ¬ M .safeSlots) (n : Fin 256) (q : Fin 256) (hz : Keep M z s) :
    KeepN M z (execVecRmsnorm n q s) := by
  unfold execVecRmsnorm
  repeat' (first
    | with_reducible assumption
    | with_reducible exact Keep.refl _
    | intro _
    | with_reducible apply KeepN.next
    | with_reducible apply startVop_keep
    | split
    | dsimp -zeta only)

theorem execVecRowSum_keep {M : Part → Prop} {z s : State} (h_dev : ¬ M .dev) (h_free : ¬ M .free) (h_regs : ¬ M .regs) (h_od : ¬ M .od) (h_mem : ¬ M .mem) (h_memCtl : ¬ M .memCtl) (h_pwr : ¬ M .pwr) (h_start : ¬ M .start) (h_sdg : ¬ M .sdg) (h_frz : ¬ M .frz) (h_sec : ¬ M .sec) (h_knots : ¬ M .knots) (h_pack : ¬ M .pack) (h_cim : ¬ M .cim) (h_kennel : ¬ M .kennel) (h_slots : ¬ M .slots) (h_safeSlots : ¬ M .safeSlots) (n : Fin 256) (q : Fin 256) (hz : Keep M z s) :
    KeepN M z (execVecRowSum n q s) := by
  unfold execVecRowSum
  repeat' (first
    | with_reducible assumption
    | with_reducible exact Keep.refl _
    | intro _
    | with_reducible apply KeepN.next
    | with_reducible apply startVop_keep
    | split
    | dsimp -zeta only)

theorem execVecRowMax_keep {M : Part → Prop} {z s : State} (h_dev : ¬ M .dev) (h_free : ¬ M .free) (h_regs : ¬ M .regs) (h_od : ¬ M .od) (h_mem : ¬ M .mem) (h_memCtl : ¬ M .memCtl) (h_pwr : ¬ M .pwr) (h_start : ¬ M .start) (h_sdg : ¬ M .sdg) (h_frz : ¬ M .frz) (h_sec : ¬ M .sec) (h_knots : ¬ M .knots) (h_pack : ¬ M .pack) (h_cim : ¬ M .cim) (h_kennel : ¬ M .kennel) (h_slots : ¬ M .slots) (h_safeSlots : ¬ M .safeSlots) (n : Fin 256) (q : Fin 256) (hz : Keep M z s) :
    KeepN M z (execVecRowMax n q s) := by
  unfold execVecRowMax
  repeat' (first
    | with_reducible assumption
    | with_reducible exact Keep.refl _
    | intro _
    | with_reducible apply KeepN.next
    | with_reducible apply startVop_keep
    | split
    | dsimp -zeta only)

theorem execVecConvert_keep {M : Part → Prop} {z s : State} (h_dev : ¬ M .dev) (h_free : ¬ M .free) (h_regs : ¬ M .regs) (h_od : ¬ M .od) (h_mem : ¬ M .mem) (h_memCtl : ¬ M .memCtl) (h_pwr : ¬ M .pwr) (h_start : ¬ M .start) (h_sdg : ¬ M .sdg) (h_frz : ¬ M .frz) (h_sec : ¬ M .sec) (h_knots : ¬ M .knots) (h_pack : ¬ M .pack) (h_cim : ¬ M .cim) (h_kennel : ¬ M .kennel) (h_slots : ¬ M .slots) (h_safeSlots : ¬ M .safeSlots) (n : Fin 256) (q : Fin 256) (hz : Keep M z s) :
    KeepN M z (execVecConvert n q s) := by
  unfold execVecConvert
  repeat' (first
    | with_reducible assumption
    | with_reducible exact Keep.refl _
    | intro _
    | with_reducible apply KeepN.next
    | with_reducible apply startVop_keep
    | split
    | dsimp -zeta only)

theorem execCimRun_keep {M : Part → Prop} {z s : State} (h_dev : ¬ M .dev) (h_free : ¬ M .free) (h_regs : ¬ M .regs) (h_od : ¬ M .od) (h_mem : ¬ M .mem) (h_memCtl : ¬ M .memCtl) (h_pwr : ¬ M .pwr) (h_start : ¬ M .start) (h_sdg : ¬ M .sdg) (h_frz : ¬ M .frz) (h_sec : ¬ M .sec) (h_knots : ¬ M .knots) (h_pack : ¬ M .pack) (h_cim : ¬ M .cim) (h_kennel : ¬ M .kennel) (h_slots : ¬ M .slots) (h_safeSlots : ¬ M .safeSlots) (n : Fin 256) (q : Fin 256) (hz : Keep M z s) :
    KeepN M z (execCimRun n q s) := by
  unfold execCimRun
  repeat' (first
    | with_reducible assumption
    | with_reducible exact Keep.refl _
    | intro _
    | with_reducible apply KeepN.next
    | with_reducible apply startOp_keep
    | split
    | dsimp -zeta only)

theorem execCimLoad_keep {M : Part → Prop} {z s : State} (h_dev : ¬ M .dev) (h_free : ¬ M .free) (h_regs : ¬ M .regs) (h_od : ¬ M .od) (h_mem : ¬ M .mem) (h_memCtl : ¬ M .memCtl) (h_pwr : ¬ M .pwr) (h_start : ¬ M .start) (h_sdg : ¬ M .sdg) (h_frz : ¬ M .frz) (h_sec : ¬ M .sec) (h_knots : ¬ M .knots) (h_pack : ¬ M .pack) (h_cim : ¬ M .cim) (h_kennel : ¬ M .kennel) (h_slots : ¬ M .slots) (h_safeSlots : ¬ M .safeSlots) (n : Fin 256) (q : Fin 256) (hz : Keep M z s) :
    KeepN M z (execCimLoad n q s) := by
  unfold execCimLoad
  repeat' (first
    | with_reducible assumption
    | with_reducible exact Keep.refl _
    | intro _
    | with_reducible apply KeepN.next
    | with_reducible apply startOp_keep
    | split
    | dsimp -zeta only)

theorem execAttn_keep {M : Part → Prop} {z s : State} (h_dev : ¬ M .dev) (h_free : ¬ M .free) (h_regs : ¬ M .regs) (h_od : ¬ M .od) (h_mem : ¬ M .mem) (h_memCtl : ¬ M .memCtl) (h_pwr : ¬ M .pwr) (h_start : ¬ M .start) (h_sdg : ¬ M .sdg) (h_frz : ¬ M .frz) (h_sec : ¬ M .sec) (h_knots : ¬ M .knots) (h_pack : ¬ M .pack) (h_cim : ¬ M .cim) (h_kennel : ¬ M .kennel) (h_slots : ¬ M .slots) (h_safeSlots : ¬ M .safeSlots) (n : Fin 256) (q : Fin 256) (hz : Keep M z s) :
    KeepN M z (execAttn n q s) := by
  unfold execAttn
  repeat' (first
    | with_reducible assumption
    | with_reducible exact Keep.refl _
    | intro _
    | with_reducible apply KeepN.next
    | with_reducible apply startOp_keep
    | split
    | dsimp -zeta only)

theorem execAttnVerifyAttend_keep {M : Part → Prop} {z s : State} (h_dev : ¬ M .dev) (h_free : ¬ M .free) (h_regs : ¬ M .regs) (h_od : ¬ M .od) (h_mem : ¬ M .mem) (h_memCtl : ¬ M .memCtl) (h_pwr : ¬ M .pwr) (h_start : ¬ M .start) (h_sdg : ¬ M .sdg) (h_frz : ¬ M .frz) (h_sec : ¬ M .sec) (h_knots : ¬ M .knots) (h_pack : ¬ M .pack) (h_cim : ¬ M .cim) (h_kennel : ¬ M .kennel) (h_slots : ¬ M .slots) (h_safeSlots : ¬ M .safeSlots) (n : Fin 256) (q : Fin 256) (hz : Keep M z s) :
    KeepN M z (execAttnVerifyAttend n q s) := by
  unfold execAttnVerifyAttend
  repeat' (first
    | with_reducible assumption
    | with_reducible exact Keep.refl _
    | intro _
    | with_reducible apply KeepN.next
    | with_reducible apply startCmd_keep
    | split
    | dsimp -zeta only)

theorem execAttnVerifyAccept_keep {M : Part → Prop} {z s : State} (h_dev : ¬ M .dev) (h_free : ¬ M .free) (h_regs : ¬ M .regs) (h_od : ¬ M .od) (h_mem : ¬ M .mem) (h_memCtl : ¬ M .memCtl) (h_pwr : ¬ M .pwr) (h_start : ¬ M .start) (h_sdg : ¬ M .sdg) (h_frz : ¬ M .frz) (h_sec : ¬ M .sec) (h_knots : ¬ M .knots) (h_pack : ¬ M .pack) (h_cim : ¬ M .cim) (h_kennel : ¬ M .kennel) (h_slots : ¬ M .slots) (h_safeSlots : ¬ M .safeSlots) (n : Fin 256) (q : Fin 256) (hz : Keep M z s) :
    KeepN M z (execAttnVerifyAccept n q s) := by
  unfold execAttnVerifyAccept
  repeat' (first
    | with_reducible assumption
    | with_reducible exact Keep.refl _
    | intro _
    | with_reducible apply KeepN.next
    | with_reducible apply startCmd_keep
    | split
    | dsimp -zeta only)

theorem execTileStart_keep {M : Part → Prop} {z s : State} (h_dev : ¬ M .dev) (h_now : ¬ M .now) (h_free : ¬ M .free) (h_regs : ¬ M .regs) (h_od : ¬ M .od) (h_mem : ¬ M .mem) (h_memCtl : ¬ M .memCtl) (h_pwr : ¬ M .pwr) (h_start : ¬ M .start) (h_sdg : ¬ M .sdg) (h_frz : ¬ M .frz) (h_sec : ¬ M .sec) (h_pack : ¬ M .pack) (h_cim : ¬ M .cim) (h_kennel : ¬ M .kennel) (h_gtime : ¬ M .gtime) (n : Fin 256) (q : Fin 256) (packUncorrectable : Bool) (hz : Keep M z s) :
    KeepN M z (execTileStart n q packUncorrectable s) := by
  unfold execTileStart
  repeat' (first
    | with_reducible assumption
    | with_reducible exact Keep.refl _
    | intro _
    | with_reducible apply KeepN.next
    | with_reducible apply kennelSettle_keep
    | with_reducible apply tileStart_keep
    | split
    | dsimp -zeta only)

theorem execTileCommit_keep {M : Part → Prop} {z s : State} (h_dev : ¬ M .dev) (h_regs : ¬ M .regs) (h_od : ¬ M .od) (h_mem : ¬ M .mem) (h_memCtl : ¬ M .memCtl) (h_pwr : ¬ M .pwr) (h_start : ¬ M .start) (h_sdg : ¬ M .sdg) (h_frz : ¬ M .frz) (h_sec : ¬ M .sec) (h_pack : ¬ M .pack) (h_cim : ¬ M .cim) (h_kennel : ¬ M .kennel) (n : Fin 256) (q : Fin 256) (signaturesDiffer : Bool) (referenceOff : List (Fin 16 × Fin 64 × Nat)) (hz : Keep M z s) :
    KeepN M z (execTileCommit n q signaturesDiffer referenceOff s) := by
  unfold execTileCommit
  repeat' (first
    | with_reducible assumption
    | with_reducible exact Keep.refl _
    | intro _
    | with_reducible apply KeepN.next
    | with_reducible apply kennelSettle_keep
    | with_reducible apply tileCommit_keep
    | with_reducible apply Keep.ite
    | with_reducible apply KeepN.ite
    | split
    | dsimp -zeta only)

theorem execTileHang_keep {M : Part → Prop} {z s : State} (h_dev : ¬ M .dev) (h_now : ¬ M .now) (h_regs : ¬ M .regs) (h_od : ¬ M .od) (h_pwr : ¬ M .pwr) (h_start : ¬ M .start) (h_sdg : ¬ M .sdg) (h_frz : ¬ M .frz) (h_pack : ¬ M .pack) (h_gtime : ¬ M .gtime) (n : Fin 256) (q : Fin 256) (hz : Keep M z s) :
    KeepN M z (execTileHang n q s) := by
  unfold execTileHang
  repeat' (first
    | with_reducible assumption
    | with_reducible exact Keep.refl _
    | intro _
    | with_reducible apply KeepN.next
    | ((fail_if_success (conv => arg 3; arg 1)); extract_lets +onlyGivenNames t; refine KeepN.cut t ?_ ?_; subst t; rotate_left; clear_value t; intro ht; rotate_right)
    | ((fail_if_success (conv => arg 3; arg 1)); extract_lets +onlyGivenNames t; refine Keep.cut t ?_ ?_; subst t; rotate_left; clear_value t; intro ht; rotate_right)
    | ((fail_if_success (conv => arg 3; arg 1)); extract_lets +onlyGivenNames t; subst t)
    | with_reducible apply advanceTo_keep
    | with_reducible apply raiseAlarm_keep
    | with_reducible apply putCmd_keep
    | with_reducible apply settleAfter_keep
    | with_reducible apply Keep.ite
    | with_reducible apply KeepN.ite
    | split
    | dsimp -zeta only)

theorem execKnotWaitRelease_keep {M : Part → Prop} {z s : State} (h_od : ¬ M .od) (h_pack : ¬ M .pack) (n : Fin 256) (q : Fin 256) (hz : Keep M z s) :
    KeepN M z (execKnotWaitRelease n q s) := by
  unfold execKnotWaitRelease
  repeat' (first
    | with_reducible assumption
    | with_reducible exact Keep.refl _
    | intro _
    | with_reducible apply KeepN.next
    | ((fail_if_success (conv => arg 3; arg 1)); extract_lets +onlyGivenNames t; refine KeepN.cut t ?_ ?_; subst t; rotate_left; clear_value t; intro ht; rotate_right)
    | ((fail_if_success (conv => arg 3; arg 1)); extract_lets +onlyGivenNames t; refine Keep.cut t ?_ ?_; subst t; rotate_left; clear_value t; intro ht; rotate_right)
    | ((fail_if_success (conv => arg 3; arg 1)); extract_lets +onlyGivenNames t; subst t)
    | with_reducible apply finish_keep
    | with_reducible apply putCmd_keep
    | with_reducible apply Keep.ite
    | with_reducible apply KeepN.ite
    | split
    | dsimp -zeta only)

theorem execKnotWaitTimeout_keep {M : Part → Prop} {z s : State} (h_now : ¬ M .now) (h_od : ¬ M .od) (h_pack : ¬ M .pack) (h_gtime : ¬ M .gtime) (n : Fin 256) (q : Fin 256) (hz : Keep M z s) :
    KeepN M z (execKnotWaitTimeout n q s) := by
  unfold execKnotWaitTimeout
  repeat' (first
    | with_reducible assumption
    | with_reducible exact Keep.refl _
    | intro _
    | with_reducible apply KeepN.next
    | ((fail_if_success (conv => arg 3; arg 1)); extract_lets +onlyGivenNames t; refine KeepN.cut t ?_ ?_; subst t; rotate_left; clear_value t; intro ht; rotate_right)
    | ((fail_if_success (conv => arg 3; arg 1)); extract_lets +onlyGivenNames t; refine Keep.cut t ?_ ?_; subst t; rotate_left; clear_value t; intro ht; rotate_right)
    | ((fail_if_success (conv => arg 3; arg 1)); extract_lets +onlyGivenNames t; subst t)
    | with_reducible apply advanceTo_keep
    | with_reducible apply finish_keep
    | with_reducible apply putCmd_keep
    | with_reducible apply Keep.ite
    | with_reducible apply KeepN.ite
    | split
    | dsimp -zeta only)

theorem execKennelAllocGrant_keep {M : Part → Prop} {z s : State} (h_dev : ¬ M .dev) (h_free : ¬ M .free) (h_regs : ¬ M .regs) (h_od : ¬ M .od) (h_mem : ¬ M .mem) (h_memCtl : ¬ M .memCtl) (h_pwr : ¬ M .pwr) (h_start : ¬ M .start) (h_sdg : ¬ M .sdg) (h_frz : ¬ M .frz) (h_sec : ¬ M .sec) (h_knots : ¬ M .knots) (h_pack : ¬ M .pack) (h_cim : ¬ M .cim) (h_kennel : ¬ M .kennel) (h_slots : ¬ M .slots) (h_safeSlots : ¬ M .safeSlots) (handle : Fin 4096) (hz : Keep M z s) :
    KeepN M z (execKennelAllocGrant handle s) := by
  unfold execKennelAllocGrant
  repeat' (first
    | with_reducible assumption
    | with_reducible exact Keep.refl _
    | intro _
    | with_reducible apply KeepN.next
    | ((fail_if_success (conv => arg 3; arg 1)); extract_lets +onlyGivenNames t; refine KeepN.cut t ?_ ?_; subst t; rotate_left; clear_value t; intro ht; rotate_right)
    | ((fail_if_success (conv => arg 3; arg 1)); extract_lets +onlyGivenNames t; refine Keep.cut t ?_ ?_; subst t; rotate_left; clear_value t; intro ht; rotate_right)
    | ((fail_if_success (conv => arg 3; arg 1)); extract_lets +onlyGivenNames t; subst t)
    | with_reducible apply retryPages_keep
    | ((with_reducible apply retryPages_keep_of); with_reducible assumption)
    | with_reducible apply swapInFail_keep
    | with_reducible apply endAtStart_keep
    | with_reducible apply startCmd_keep
    | ((fail_if_success (fail_if_success (conv => arg 3; arg 39))); with_reducible apply Keep.upd_kennel)
    | with_reducible apply Keep.ite
    | with_reducible apply KeepN.ite
    | with_reducible apply KeepP.fst
    | split
    | dsimp -zeta only)

end Sys2Proof.Machine
end

