-- ==== Sys2Proof/Laws/KeepRoster.lean ====
section
/-! SUPPORT. What the operations of Machine/Roster.lean keep: one lemma each. -/

namespace Sys2Proof.Machine

theorem endSlot_keep {M : Part → Prop} {z s : State} (h_regs : ¬ M .regs) (h_od : ¬ M .od) (h_pack : ¬ M .pack) (i : Nat) (hz : Keep M z s) :
    Keep M z (endSlot i s) := by
  unfold endSlot
  repeat' (first
    | with_reducible assumption
    | with_reducible exact Keep.refl _
    | intro _
    | ((fail_if_success (conv => arg 3; arg 1)); extract_lets +onlyGivenNames t; refine Keep.cut t ?_ ?_; subst t; rotate_left; clear_value t; intro ht; rotate_right)
    | ((fail_if_success (conv => arg 3; arg 1)); extract_lets +onlyGivenNames t; refine KeepP.cut t ?_ ?_; subst t; rotate_left; clear_value t; intro ht; rotate_right)
    | ((fail_if_success (conv => arg 3; arg 1)); extract_lets +onlyGivenNames t; subst t)
    | with_reducible apply odCount_keep
    | with_reducible apply preemptQueue_keep
    | with_reducible apply rescanEngines_keep
    | ((fail_if_success (fail_if_success (conv => arg 3; arg 39))); with_reducible apply Keep.upd_pack)
    | with_reducible apply Keep.foldl
    | split
    | dsimp -zeta only)

theorem beginSlot_keep {M : Part → Prop} {z s : State} (h_regs : ¬ M .regs) (h_od : ¬ M .od) (h_pack : ¬ M .pack) (i : Nat) (hz : Keep M z s) :
    Keep M z (beginSlot i s) := by
  unfold beginSlot
  repeat' (first
    | with_reducible assumption
    | with_reducible exact Keep.refl _
    | intro _
    | ((fail_if_success (conv => arg 3; arg 1)); extract_lets +onlyGivenNames t; refine Keep.cut t ?_ ?_; subst t; rotate_left; clear_value t; intro ht; rotate_right)
    | ((fail_if_success (conv => arg 3; arg 1)); extract_lets +onlyGivenNames t; subst t)
    | with_reducible apply putInst_keep
    | with_reducible apply rescanEngines_keep
    | ((fail_if_success (fail_if_success (conv => arg 3; arg 39))); with_reducible apply Keep.upd_pack)
    | with_reducible apply Keep.ite
    | split
    | dsimp -zeta only)

theorem takeOver_keep {M : Part → Prop} {z s : State} (h_regs : ¬ M .regs) (h_od : ¬ M .od) (h_pack : ¬ M .pack) (b : Nat) (hz : Keep M z s) :
    Keep M z (takeOver b s) := by
  unfold takeOver
  repeat' (first
    | with_reducible assumption
    | with_reducible exact Keep.refl _
    | intro _
    | ((fail_if_success (conv => arg 3; arg 1)); extract_lets +onlyGivenNames t; refine Keep.cut t ?_ ?_; subst t; rotate_left; clear_value t; intro ht; rotate_right)
    | ((fail_if_success (conv => arg 3; arg 1)); extract_lets +onlyGivenNames t; refine KeepP.cut t ?_ ?_; subst t; rotate_left; clear_value t; intro ht; rotate_right)
    | ((fail_if_success (conv => arg 3; arg 1)); extract_lets +onlyGivenNames t; subst t)
    | with_reducible apply odPut_keep
    | with_reducible apply configChanged_keep
    | with_reducible apply rescanEngines_keep
    | with_reducible apply endSlot_keep
    | ((fail_if_success (fail_if_success (conv => arg 3; arg 39))); with_reducible apply Keep.upd_pack)
    | with_reducible apply Keep.foldl
    | split
    | dsimp -zeta only)

theorem execRosterFrameStart_keep {M : Part → Prop} {z s : State} (h_now : ¬ M .now) (h_regs : ¬ M .regs) (h_od : ¬ M .od) (h_pack : ¬ M .pack) (h_gtime : ¬ M .gtime) (hz : Keep M z s) :
    KeepN M z (execRosterFrameStart s) := by
  unfold execRosterFrameStart
  repeat' (first
    | with_reducible assumption
    | with_reducible exact Keep.refl _
    | intro _
    | with_reducible apply KeepN.next
    | ((fail_if_success (conv => arg 3; arg 1)); extract_lets +onlyGivenNames t; refine KeepN.cut t ?_ ?_; subst t; rotate_left; clear_value t; intro ht; rotate_right)
    | ((fail_if_success (conv => arg 3; arg 1)); extract_lets +onlyGivenNames t; refine Keep.cut t ?_ ?_; subst t; rotate_left; clear_value t; intro ht; rotate_right)
    | ((fail_if_success (conv => arg 3; arg 1)); extract_lets +onlyGivenNames t; refine KeepP.cut t ?_ ?_; subst t; rotate_left; clear_value t; intro ht; rotate_right)
    | ((fail_if_success (conv => arg 3; arg 1)); extract_lets +onlyGivenNames t; subst t)
    | with_reducible apply gtimeReach_keep
    | with_reducible apply odPut_keep
    | with_reducible apply endSlot_keep
    | with_reducible apply takeOver_keep
    | ((fail_if_success (fail_if_success (conv => arg 3; arg 39))); with_reducible apply Keep.upd_pack)
    | with_reducible apply Keep.ite
    | with_reducible apply KeepN.ite
    | with_reducible apply Keep.foldl
    | split
    | dsimp -zeta only)

theorem execSlotStart_keep {M : Part → Prop} {z s : State} (h_now : ¬ M .now) (h_regs : ¬ M .regs) (h_od : ¬ M .od) (h_pack : ¬ M .pack) (h_gtime : ¬ M .gtime) (index : Fin 256) (hz : Keep M z s) :
    KeepN M z (execSlotStart index s) := by
  unfold execSlotStart
  repeat' (first
    | with_reducible assumption
    | with_reducible exact Keep.refl _
    | intro _
    | with_reducible apply KeepN.next
    | ((fail_if_success (conv => arg 3; arg 1)); extract_lets +onlyGivenNames t; refine KeepN.cut t ?_ ?_; subst t; rotate_left; clear_value t; intro ht; rotate_right)
    | ((fail_if_success (conv => arg 3; arg 1)); extract_lets +onlyGivenNames t; refine Keep.cut t ?_ ?_; subst t; rotate_left; clear_value t; intro ht; rotate_right)
    | ((fail_if_success (conv => arg 3; arg 1)); extract_lets +onlyGivenNames t; subst t)
    | with_reducible apply gtimeReach_keep
    | with_reducible apply beginSlot_keep
    | with_reducible apply Keep.ite
    | with_reducible apply KeepN.ite
    | split
    | dsimp -zeta only)

theorem execSlotEnd_keep {M : Part → Prop} {z s : State} (h_now : ¬ M .now) (h_regs : ¬ M .regs) (h_od : ¬ M .od) (h_pack : ¬ M .pack) (h_gtime : ¬ M .gtime) (index : Fin 256) (hz : Keep M z s) :
    KeepN M z (execSlotEnd index s) := by
  unfold execSlotEnd
  repeat' (first
    | with_reducible assumption
    | with_reducible exact Keep.refl _
    | intro _
    | with_reducible apply KeepN.next
    | ((fail_if_success (conv => arg 3; arg 1)); extract_lets +onlyGivenNames t; refine KeepN.cut t ?_ ?_; subst t; rotate_left; clear_value t; intro ht; rotate_right)
    | ((fail_if_success (conv => arg 3; arg 1)); extract_lets +onlyGivenNames t; refine Keep.cut t ?_ ?_; subst t; rotate_left; clear_value t; intro ht; rotate_right)
    | ((fail_if_success (conv => arg 3; arg 1)); extract_lets +onlyGivenNames t; subst t)
    | with_reducible apply gtimeReach_keep
    | with_reducible apply endSlot_keep
    | with_reducible apply Keep.ite
    | with_reducible apply KeepN.ite
    | split
    | dsimp -zeta only)

theorem execSlowdownWindow_keep {M : Part → Prop} {z s : State} (h_now : ¬ M .now) (h_regs : ¬ M .regs) (h_pack : ¬ M .pack) (h_gtime : ¬ M .gtime) (n : Fin 256) (occupied : Nat) (contended : Nat) (hz : Keep M z s) :
    KeepN M z (execSlowdownWindow n occupied contended s) := by
  unfold execSlowdownWindow
  repeat' (first
    | with_reducible assumption
    | with_reducible exact Keep.refl _
    | intro _
    | with_reducible apply KeepN.next
    | ((fail_if_success (conv => arg 3; arg 1)); extract_lets +onlyGivenNames t; refine KeepN.cut t ?_ ?_; subst t; rotate_left; clear_value t; intro ht; rotate_right)
    | ((fail_if_success (conv => arg 3; arg 1)); extract_lets +onlyGivenNames t; refine Keep.cut t ?_ ?_; subst t; rotate_left; clear_value t; intro ht; rotate_right)
    | ((fail_if_success (conv => arg 3; arg 1)); extract_lets +onlyGivenNames t; subst t)
    | with_reducible apply gtimeReach_keep
    | with_reducible apply regPut_keep
    | with_reducible apply instEvent_keep
    | ((fail_if_success (fail_if_success (conv => arg 3; arg 39))); with_reducible apply Keep.upd_pack)
    | with_reducible apply Keep.ite
    | with_reducible apply KeepN.ite
    | split
    | dsimp -zeta only)

theorem revokeAll_keep {M : Part → Prop} {z s : State} (h_dev : ¬ M .dev) (h_regs : ¬ M .regs) (h_od : ¬ M .od) (h_mem : ¬ M .mem) (h_memCtl : ¬ M .memCtl) (h_pwr : ¬ M .pwr) (h_start : ¬ M .start) (h_sdg : ¬ M .sdg) (h_frz : ¬ M .frz) (h_sec : ¬ M .sec) (h_pack : ¬ M .pack) (h_cim : ¬ M .cim) (h_kennel : ¬ M .kennel) (hz : Keep M z s) :
    Keep M z (revokeAll s) := by
  unfold revokeAll
  repeat' (first
    | with_reducible assumption
    | with_reducible exact Keep.refl _
    | intro _
    | with_reducible apply mapQueues_keep
    | with_reducible apply kennelSettle_keep
    | with_reducible apply drainWhere_keep
    | split
    | dsimp -zeta only)

theorem engineChanged_keep {M : Part → Prop} {z s : State} (h_dev : ¬ M .dev) (h_regs : ¬ M .regs) (h_od : ¬ M .od) (h_mem : ¬ M .mem) (h_memCtl : ¬ M .memCtl) (h_pwr : ¬ M .pwr) (h_start : ¬ M .start) (h_sdg : ¬ M .sdg) (h_frz : ¬ M .frz) (h_sec : ¬ M .sec) (h_pack : ¬ M .pack) (h_cim : ¬ M .cim) (h_kennel : ¬ M .kennel) (e : Nat) (s0 : State) (hz : Keep M z s) :
    Keep M z (engineChanged e s0 s) := by
  unfold engineChanged
  repeat' (first
    | with_reducible assumption
    | with_reducible exact Keep.refl _
    | intro _
    | ((fail_if_success (conv => arg 3; arg 1)); extract_lets +onlyGivenNames t; refine Keep.cut t ?_ ?_; subst t; rotate_left; clear_value t; intro ht; rotate_right)
    | ((fail_if_success (conv => arg 3; arg 1)); extract_lets +onlyGivenNames t; refine KeepP.cut t ?_ ?_; subst t; rotate_left; clear_value t; intro ht; rotate_right)
    | ((fail_if_success (conv => arg 3; arg 1)); extract_lets +onlyGivenNames t; subst t)
    | with_reducible apply ctEmpty_keep
    | with_reducible apply configChanged_keep
    | with_reducible apply kennelSettle_keep
    | with_reducible apply rescanEngines_keep
    | with_reducible apply drainWhere_keep
    | with_reducible apply Keep.ite
    | with_reducible apply Keep.foldl
    | split
    | dsimp -zeta only)

theorem modeChanged_keep {M : Part → Prop} {z s : State} (h_dev : ¬ M .dev) (h_regs : ¬ M .regs) (h_od : ¬ M .od) (h_mem : ¬ M .mem) (h_memCtl : ¬ M .memCtl) (h_pwr : ¬ M .pwr) (h_start : ¬ M .start) (h_sdg : ¬ M .sdg) (h_frz : ¬ M .frz) (h_sec : ¬ M .sec) (h_pack : ¬ M .pack) (h_cim : ¬ M .cim) (h_kennel : ¬ M .kennel) (hz : Keep M z s) :
    Keep M z (modeChanged s) := by
  unfold modeChanged
  repeat' (first
    | with_reducible assumption
    | with_reducible exact Keep.refl _
    | intro _
    | ((fail_if_success (conv => arg 3; arg 1)); extract_lets +onlyGivenNames t; refine Keep.cut t ?_ ?_; subst t; rotate_left; clear_value t; intro ht; rotate_right)
    | ((fail_if_success (conv => arg 3; arg 1)); extract_lets +onlyGivenNames t; refine KeepP.cut t ?_ ?_; subst t; rotate_left; clear_value t; intro ht; rotate_right)
    | ((fail_if_success (conv => arg 3; arg 1)); extract_lets +onlyGivenNames t; subst t)
    | with_reducible apply configChanged_keep
    | with_reducible apply revokeAll_keep
    | ((fail_if_success (fail_if_success (conv => arg 3; arg 39))); with_reducible apply Keep.upd_pack)
    | with_reducible apply Keep.foldl
    | split
    | dsimp -zeta only)

theorem rosterApply_keep {M : Part → Prop} {z s : State} (h_dev : ¬ M .dev) (h_regs : ¬ M .regs) (h_od : ¬ M .od) (h_mem : ¬ M .mem) (h_memCtl : ¬ M .memCtl) (h_pwr : ¬ M .pwr) (h_start : ¬ M .start) (h_sdg : ¬ M .sdg) (h_frz : ¬ M .frz) (h_sec : ¬ M .sec) (h_pack : ¬ M .pack) (h_cim : ¬ M .cim) (h_kennel : ¬ M .kennel) (k : Nat) (v : Nat) (s0 : State) (hz : Keep M z s) :
    Keep M z (rosterApply k v s0 s) := by
  unfold rosterApply
  repeat' (first
    | with_reducible assumption
    | with_reducible exact Keep.refl _
    | intro _
    | ((fail_if_success (conv => arg 3; arg 1)); extract_lets +onlyGivenNames t; refine Keep.cut t ?_ ?_; subst t; rotate_left; clear_value t; intro ht; rotate_right)
    | ((fail_if_success (conv => arg 3; arg 1)); extract_lets +onlyGivenNames t; subst t)
    | with_reducible apply rescanEngines_keep
    | with_reducible apply engineChanged_keep
    | with_reducible apply modeChanged_keep
    | ((fail_if_success (fail_if_success (conv => arg 3; arg 39))); with_reducible apply Keep.upd_pack)
    | with_reducible apply Keep.ite
    | split
    | dsimp -zeta only)

theorem rosterEnter_keep {M : Part → Prop} {z s : State} (h_pack : ¬ M .pack) (hz : Keep M z s) :
    Keep M z (rosterEnter s) := by
  unfold rosterEnter
  repeat' (first
    | with_reducible assumption
    | with_reducible exact Keep.refl _
    | intro _
    | ((fail_if_success (conv => arg 3; arg 1)); extract_lets +onlyGivenNames t; refine Keep.cut t ?_ ?_; subst t; rotate_left; clear_value t; intro ht; rotate_right)
    | ((fail_if_success (conv => arg 3; arg 1)); extract_lets +onlyGivenNames t; subst t)
    | ((fail_if_success (fail_if_success (conv => arg 3; arg 39))); with_reducible apply Keep.upd_pack)
    | with_reducible apply Keep.ite
    | split
    | dsimp -zeta only)

theorem packScrub_keep {M : Part → Prop} {z s : State} (h_mem : ¬ M .mem) (h_memCtl : ¬ M .memCtl) (h_cim : ¬ M .cim) (h_kennel : ¬ M .kennel) (hz : Keep M z s) :
    Keep M z (packScrub s) := by
  unfold packScrub
  repeat' (first
    | with_reducible assumption
    | with_reducible exact Keep.refl _
    | intro _
    | ((fail_if_success (conv => arg 3; arg 1)); extract_lets +onlyGivenNames t; refine Keep.cut t ?_ ?_; subst t; rotate_left; clear_value t; intro ht; rotate_right)
    | ((fail_if_success (conv => arg 3; arg 1)); extract_lets +onlyGivenNames t; refine KeepP.cut t ?_ ?_; subst t; rotate_left; clear_value t; intro ht; rotate_right)
    | ((fail_if_success (conv => arg 3; arg 1)); extract_lets +onlyGivenNames t; subst t)
    | with_reducible apply ctEmpty_keep
    | with_reducible apply memZero_keep
    | ((fail_if_success (fail_if_success (conv => arg 3; arg 39))); with_reducible apply Keep.upd_cim)
    | ((fail_if_success (fail_if_success (conv => arg 3; arg 39))); with_reducible apply Keep.upd_kennel)
    | with_reducible apply Keep.foldl
    | split
    | dsimp -zeta only)

end Sys2Proof.Machine
end

