-- ==== Sys2Proof/Laws/KeepInstances.lean ====
section
/-! SUPPORT. What the operations of Machine/Instances.lean keep: one lemma each. -/

namespace Sys2Proof.Machine

theorem clearPage_keep {M : Part → Prop} {z s : State} (h_regs : ¬ M .regs) (h_hold : ¬ M .hold) (h_pack : ¬ M .pack) (n : Nat) (hz : Keep M z s) :
    Keep M z (clearPage n s) := by
  unfold clearPage
  repeat' (first
    | with_reducible assumption
    | with_reducible exact Keep.refl _
    | intro _
    | ((fail_if_success (conv => arg 3; arg 1)); extract_lets +onlyGivenNames t; refine Keep.cut t ?_ ?_; subst t; rotate_left; clear_value t; intro ht; rotate_right)
    | ((fail_if_success (conv => arg 3; arg 1)); extract_lets +onlyGivenNames t; subst t)
    | ((fail_if_success (fail_if_success (conv => arg 3; arg 39))); with_reducible apply Keep.upd_regs_hold_pack)
    | with_reducible apply KeepP.fst
    | split
    | dsimp -zeta only)

theorem createInst_keep {M : Part → Prop} {z s : State} (h_regs : ¬ M .regs) (h_hold : ¬ M .hold) (h_pack : ¬ M .pack) (n : Nat) (hz : Keep M z s) :
    Keep M z (createInst n s) := by
  unfold createInst
  repeat' (first
    | with_reducible assumption
    | with_reducible exact Keep.refl _
    | intro _
    | ((fail_if_success (conv => arg 3; arg 1)); extract_lets +onlyGivenNames t; refine Keep.cut t ?_ ?_; subst t; rotate_left; clear_value t; intro ht; rotate_right)
    | ((fail_if_success (conv => arg 3; arg 1)); extract_lets +onlyGivenNames t; subst t)
    | with_reducible apply putInst_keep
    | with_reducible apply configChanged_keep
    | with_reducible apply clearPage_keep
    | with_reducible apply Keep.ite
    | split
    | dsimp -zeta only)

theorem resetFinish_keep {M : Part → Prop} {z s : State} (h_regs : ¬ M .regs) (h_hold : ¬ M .hold) (h_pack : ¬ M .pack) (n : Nat) (hz : Keep M z s) :
    Keep M z (resetFinish n s) := by
  unfold resetFinish
  repeat' (first
    | with_reducible assumption
    | with_reducible exact Keep.refl _
    | intro _
    | ((fail_if_success (conv => arg 3; arg 1)); extract_lets +onlyGivenNames t; refine Keep.cut t ?_ ?_; subst t; rotate_left; clear_value t; intro ht; rotate_right)
    | ((fail_if_success (conv => arg 3; arg 1)); extract_lets +onlyGivenNames t; subst t)
    | with_reducible apply putInst_keep
    | with_reducible apply instEvent_keep
    | with_reducible apply clearPage_keep
    | with_reducible apply Keep.ite
    | split
    | dsimp -zeta only)

theorem resetBegin_keep {M : Part → Prop} {z s : State} (h_dev : ¬ M .dev) (h_regs : ¬ M .regs) (h_od : ¬ M .od) (h_mem : ¬ M .mem) (h_memCtl : ¬ M .memCtl) (h_pwr : ¬ M .pwr) (h_start : ¬ M .start) (h_sdg : ¬ M .sdg) (h_frz : ¬ M .frz) (h_sec : ¬ M .sec) (h_pack : ¬ M .pack) (h_cim : ¬ M .cim) (h_kennel : ¬ M .kennel) (n : Nat) (st : Nat) (hz : Keep M z s) :
    Keep M z (resetBegin n st s) := by
  unfold resetBegin
  repeat' (first
    | with_reducible assumption
    | with_reducible exact Keep.refl _
    | intro _
    | ((fail_if_success (conv => arg 3; arg 1)); extract_lets +onlyGivenNames t; refine Keep.cut t ?_ ?_; subst t; rotate_left; clear_value t; intro ht; rotate_right)
    | ((fail_if_success (conv => arg 3; arg 1)); extract_lets +onlyGivenNames t; subst t)
    | with_reducible apply putInst_keep
    | with_reducible apply mapQueues_keep
    | with_reducible apply kennelFreeInst_keep
    | with_reducible apply drainWhere_keep
    | ((fail_if_success (fail_if_success (conv => arg 3; arg 39))); with_reducible apply Keep.upd_pack)
    | with_reducible apply Keep.ite
    | with_reducible apply KeepP.fst
    | split
    | dsimp -zeta only)

theorem resetInst_keep {M : Part → Prop} {z s : State} (h_dev : ¬ M .dev) (h_regs : ¬ M .regs) (h_hold : ¬ M .hold) (h_od : ¬ M .od) (h_mem : ¬ M .mem) (h_memCtl : ¬ M .memCtl) (h_pwr : ¬ M .pwr) (h_start : ¬ M .start) (h_sdg : ¬ M .sdg) (h_frz : ¬ M .frz) (h_sec : ¬ M .sec) (h_pack : ¬ M .pack) (h_cim : ¬ M .cim) (h_kennel : ¬ M .kennel) (n : Nat) (st : Nat) (hz : Keep M z s) :
    Keep M z (resetInst n st s) := by
  unfold resetInst
  repeat' (first
    | with_reducible assumption
    | with_reducible exact Keep.refl _
    | intro _
    | ((fail_if_success (conv => arg 3; arg 1)); extract_lets +onlyGivenNames t; refine Keep.cut t ?_ ?_; subst t; rotate_left; clear_value t; intro ht; rotate_right)
    | ((fail_if_success (conv => arg 3; arg 1)); extract_lets +onlyGivenNames t; subst t)
    | with_reducible apply odCount_keep
    | with_reducible apply putInst_keep
    | with_reducible apply resetFinish_keep
    | with_reducible apply resetBegin_keep
    | with_reducible apply Keep.ite
    | split
    | dsimp -zeta only)

theorem instCtrlEff_keep {M : Part → Prop} {z s : State} (h_dev : ¬ M .dev) (h_regs : ¬ M .regs) (h_hold : ¬ M .hold) (h_od : ¬ M .od) (h_mem : ¬ M .mem) (h_memCtl : ¬ M .memCtl) (h_pwr : ¬ M .pwr) (h_start : ¬ M .start) (h_sdg : ¬ M .sdg) (h_frz : ¬ M .frz) (h_sec : ¬ M .sec) (h_pack : ¬ M .pack) (h_cim : ¬ M .cim) (h_kennel : ¬ M .kennel) (n : Nat) (v : Nat) (hz : Keep M z s) :
    KeepW M z (instCtrlEff n v s) := by
  unfold instCtrlEff
  repeat' (first
    | with_reducible assumption
    | with_reducible exact Keep.refl _
    | intro _
    | with_reducible apply resetInst_keep
    | with_reducible apply Keep.ite
    | with_reducible apply KeepW.ite
    | with_reducible apply KeepW.done
    | with_reducible apply KeepW.denied
    | split
    | dsimp -zeta only)

theorem execGenerationWaitEnd_keep {M : Part → Prop} {z s : State} (h_regs : ¬ M .regs) (h_hold : ¬ M .hold) (h_pack : ¬ M .pack) (n : Fin 256) (hz : Keep M z s) :
    KeepN M z (execGenerationWaitEnd n s) := by
  unfold execGenerationWaitEnd
  repeat' (first
    | with_reducible assumption
    | with_reducible exact Keep.refl _
    | intro _
    | with_reducible apply KeepN.next
    | ((fail_if_success (conv => arg 3; arg 1)); extract_lets +onlyGivenNames t; refine KeepN.cut t ?_ ?_; subst t; rotate_left; clear_value t; intro ht; rotate_right)
    | ((fail_if_success (conv => arg 3; arg 1)); extract_lets +onlyGivenNames t; refine Keep.cut t ?_ ?_; subst t; rotate_left; clear_value t; intro ht; rotate_right)
    | ((fail_if_success (conv => arg 3; arg 1)); extract_lets +onlyGivenNames t; subst t)
    | with_reducible apply resetFinish_keep
    | with_reducible apply Keep.ite
    | with_reducible apply KeepN.ite
    | split
    | dsimp -zeta only)

theorem execGenerationWaitTimeout_keep {M : Part → Prop} {z s : State} (h_dev : ¬ M .dev) (h_now : ¬ M .now) (h_regs : ¬ M .regs) (h_hold : ¬ M .hold) (h_od : ¬ M .od) (h_pwr : ¬ M .pwr) (h_start : ¬ M .start) (h_sdg : ¬ M .sdg) (h_frz : ¬ M .frz) (h_pack : ¬ M .pack) (h_gtime : ¬ M .gtime) (n : Fin 256) (hz : Keep M z s) :
    KeepN M z (execGenerationWaitTimeout n s) := by
  unfold execGenerationWaitTimeout
  repeat' (first
    | with_reducible assumption
    | with_reducible exact Keep.refl _
    | intro _
    | with_reducible apply KeepN.next
    | ((fail_if_success (conv => arg 3; arg 1)); extract_lets +onlyGivenNames t; refine KeepN.cut t ?_ ?_; subst t; rotate_left; clear_value t; intro ht; rotate_right)
    | ((fail_if_success (conv => arg 3; arg 1)); extract_lets +onlyGivenNames t; refine Keep.cut t ?_ ?_; subst t; rotate_left; clear_value t; intro ht; rotate_right)
    | ((fail_if_success (conv => arg 3; arg 1)); extract_lets +onlyGivenNames t; subst t)
    | with_reducible apply advanceTo_keep
    | with_reducible apply putInst_keep
    | with_reducible apply raiseAlarm_keep
    | with_reducible apply resetFinish_keep
    | with_reducible apply Keep.ite
    | with_reducible apply KeepN.ite
    | split
    | dsimp -zeta only)

theorem instApply_keep {M : Part → Prop} {z s : State} (h_dev : ¬ M .dev) (h_regs : ¬ M .regs) (h_hold : ¬ M .hold) (h_od : ¬ M .od) (h_mem : ¬ M .mem) (h_memCtl : ¬ M .memCtl) (h_pwr : ¬ M .pwr) (h_start : ¬ M .start) (h_sdg : ¬ M .sdg) (h_frz : ¬ M .frz) (h_sec : ¬ M .sec) (h_pack : ¬ M .pack) (h_cim : ¬ M .cim) (h_kennel : ¬ M .kennel) (k : Nat) (v : Nat) (s0 : State) (hz : Keep M z s) :
    Keep M z (instApply k v s0 s) := by
  unfold instApply
  repeat' (first
    | with_reducible assumption
    | with_reducible exact Keep.refl _
    | intro _
    | with_reducible apply configChanged_keep
    | with_reducible apply createInst_keep
    | with_reducible apply resetInst_keep
    | with_reducible apply Keep.ite
    | split
    | dsimp -zeta only)

theorem createAll_keep {M : Part → Prop} {z s : State} (h_regs : ¬ M .regs) (h_hold : ¬ M .hold) (h_pack : ¬ M .pack) (hz : Keep M z s) :
    Keep M z (createAll s) := by
  unfold createAll
  repeat' (first
    | with_reducible assumption
    | with_reducible exact Keep.refl _
    | intro _
    | with_reducible apply createInst_keep
    | with_reducible apply Keep.ite
    | with_reducible apply Keep.foldl
    | split
    | dsimp -zeta only)

end Sys2Proof.Machine
end

