-- ==== Sys2Proof/Laws/KeepCamera.lean ====
section
/-! SUPPORT. What the operations of Machine/Camera.lean keep: one lemma each. -/

namespace Sys2Proof.Machine

theorem putCam_keep {M : Part → Prop} {z s : State} (h_cams : ¬ M .cams) (i : Nat) (v : CamStream) (hz : Keep M z s) :
    Keep M z (putCam i v s) := by
  unfold putCam
  repeat' (first
    | with_reducible assumption
    | with_reducible exact Keep.refl _
    | intro _
    | ((fail_if_success (fail_if_success (conv => arg 3; arg 39))); with_reducible apply Keep.upd_cams)
    | split
    | dsimp -zeta only)

theorem freeBlock_keep {M : Part → Prop} {z s : State} (h_free : ¬ M .free) (n : Nat) (hz : Keep M z s) :
    KeepP M z (freeBlock n s) := by
  unfold freeBlock
  repeat' (first
    | with_reducible assumption
    | with_reducible exact Keep.refl _
    | intro _
    | with_reducible apply takeFree_keep
    | ((fail_if_success (conv => arg 3; arg 3)); with_reducible apply KeepP.mk')
    | split
    | dsimp -zeta only)

theorem freeBlock_keep_of {M : Part → Prop} {n : Nat} {z s u_ : State} {o_ : List Byte} (e_ : freeBlock n s = (u_, o_)) (h_free : ¬ M .free)
    (hz : Keep M z s) : Keep M z u_ :=
  (freeBlock_keep h_free _ hz).of e_

theorem thermalLine_keep {M : Part → Prop} {z s : State} (h_dev : ¬ M .dev) (h_free : ¬ M .free) (h_regs : ¬ M .regs) (h_od : ¬ M .od) (h_mem : ¬ M .mem) (h_memCtl : ¬ M .memCtl) (h_pwr : ¬ M .pwr) (h_start : ¬ M .start) (h_sdg : ¬ M .sdg) (h_frz : ¬ M .frz) (h_sec : ¬ M .sec) (h_pack : ¬ M .pack) (i : Nat) (y : Nat) (px : List Nat) (hz : Keep M z s) :
    KeepP M z (thermalLine i y px s) := by
  unfold thermalLine
  repeat' (first
    | with_reducible assumption
    | with_reducible exact Keep.refl _
    | intro _
    | ((fail_if_success (conv => arg 3; arg 1)); extract_lets +onlyGivenNames t; refine KeepP.cut t ?_ ?_; subst t; rotate_left; clear_value t; intro ht; rotate_right)
    | ((fail_if_success (conv => arg 3; arg 1)); extract_lets +onlyGivenNames t; refine Keep.cut t ?_ ?_; subst t; rotate_left; clear_value t; intro ht; rotate_right)
    | ((fail_if_success (conv => arg 3; arg 1)); extract_lets +onlyGivenNames t; subst t)
    | with_reducible apply readRange_keep
    | ((with_reducible apply readRange_keep_of); with_reducible assumption)
    | with_reducible apply freeBlock_keep
    | ((with_reducible apply freeBlock_keep_of); with_reducible assumption)
    | with_reducible apply Keep.ite
    | with_reducible apply KeepP.ite
    | ((fail_if_success (conv => arg 3; arg 3)); with_reducible apply KeepP.mk')
    | with_reducible apply KeepP.fst
    | split
    | dsimp -zeta only)

theorem thermalLine_keep_of {M : Part → Prop} {i : Nat} {y : Nat} {px : List Nat} {z s u_ : State} {o_ : List Byte × Bool} (e_ : thermalLine i y px s = (u_, o_)) (h_dev : ¬ M .dev) (h_free : ¬ M .free) (h_regs : ¬ M .regs) (h_od : ¬ M .od) (h_mem : ¬ M .mem) (h_memCtl : ¬ M .memCtl) (h_pwr : ¬ M .pwr) (h_start : ¬ M .start) (h_sdg : ¬ M .sdg) (h_frz : ¬ M .frz) (h_sec : ¬ M .sec) (h_pack : ¬ M .pack)
    (hz : Keep M z s) : Keep M z u_ :=
  (thermalLine_keep h_dev h_free h_regs h_od h_mem h_memCtl h_pwr h_start h_sdg h_frz h_sec h_pack _ _ _ hz).of e_

theorem camOutput_keep {M : Part → Prop} {z s : State} (h_dev : ¬ M .dev) (h_free : ¬ M .free) (h_regs : ¬ M .regs) (h_od : ¬ M .od) (h_mem : ¬ M .mem) (h_memCtl : ¬ M .memCtl) (h_pwr : ¬ M .pwr) (h_start : ¬ M .start) (h_sdg : ¬ M .sdg) (h_frz : ¬ M .frz) (h_sec : ¬ M .sec) (h_pack : ¬ M .pack) (i : Nat) (y : Nat) (payload : List Byte) (hz : Keep M z s) :
    KeepP M z (camOutput i y payload s) := by
  unfold camOutput
  repeat' (first
    | with_reducible assumption
    | with_reducible exact Keep.refl _
    | intro _
    | ((fail_if_success (conv => arg 3; arg 1)); extract_lets +onlyGivenNames t; refine KeepP.cut t ?_ ?_; subst t; rotate_left; clear_value t; intro ht; rotate_right)
    | ((fail_if_success (conv => arg 3; arg 1)); extract_lets +onlyGivenNames t; refine Keep.cut t ?_ ?_; subst t; rotate_left; clear_value t; intro ht; rotate_right)
    | ((fail_if_success (conv => arg 3; arg 1)); extract_lets +onlyGivenNames t; subst t)
    | with_reducible apply freeBlock_keep
    | ((with_reducible apply freeBlock_keep_of); with_reducible assumption)
    | with_reducible apply thermalLine_keep
    | ((with_reducible apply thermalLine_keep_of); with_reducible assumption)
    | with_reducible apply Keep.ite
    | with_reducible apply KeepP.ite
    | ((fail_if_success (conv => arg 3; arg 3)); with_reducible apply KeepP.mk')
    | with_reducible apply KeepP.fst
    | split
    | dsimp -zeta only)

theorem camOutput_keep_of {M : Part → Prop} {i : Nat} {y : Nat} {payload : List Byte} {z s u_ : State} {o_ : List Byte × Bool} (e_ : camOutput i y payload s = (u_, o_)) (h_dev : ¬ M .dev) (h_free : ¬ M .free) (h_regs : ¬ M .regs) (h_od : ¬ M .od) (h_mem : ¬ M .mem) (h_memCtl : ¬ M .memCtl) (h_pwr : ¬ M .pwr) (h_start : ¬ M .start) (h_sdg : ¬ M .sdg) (h_frz : ¬ M .frz) (h_sec : ¬ M .sec) (h_pack : ¬ M .pack)
    (hz : Keep M z s) : Keep M z u_ :=
  (camOutput_keep h_dev h_free h_regs h_od h_mem h_memCtl h_pwr h_start h_sdg h_frz h_sec h_pack _ _ _ hz).of e_

theorem rxCount_keep {M : Part → Prop} {z s : State} (h_regs : ¬ M .regs) (rx : Nat) (lo : Nat) (hz : Keep M z s) :
    Keep M z (rxCount rx lo s) := by
  unfold rxCount
  repeat' (first
    | with_reducible assumption
    | with_reducible exact Keep.refl _
    | intro _
    | with_reducible apply regUpd_keep
    | split
    | dsimp -zeta only)

theorem rxActive_keep {M : Part → Prop} {z s : State} (h_regs : ¬ M .regs) (rx : Nat) (hz : Keep M z s) :
    Keep M z (rxActive rx s) := by
  unfold rxActive
  repeat' (first
    | with_reducible assumption
    | with_reducible exact Keep.refl _
    | intro _
    | with_reducible apply regUpd_keep
    | split
    | dsimp -zeta only)

theorem updFrame_keep {M : Part → Prop} {z s : State} (h_cams : ¬ M .cams) (i : Nat) (f : CamFrame → CamFrame) (hz : Keep M z s) :
    Keep M z (updFrame i f s) := by
  unfold updFrame
  repeat' (first
    | with_reducible assumption
    | with_reducible exact Keep.refl _
    | intro _
    | with_reducible apply putCam_keep
    | split
    | dsimp -zeta only)

theorem notePacket_keep {M : Part → Prop} {z s : State} (h_cams : ¬ M .cams) (i : Nat) (hz : Keep M z s) :
    Keep M z (notePacket i s) := by
  unfold notePacket
  repeat' (first
    | with_reducible assumption
    | with_reducible exact Keep.refl _
    | intro _
    | with_reducible apply updFrame_keep
    | split
    | dsimp -zeta only)

theorem camEmbedded_keep {M : Part → Prop} {z s : State} (h_cams : ¬ M .cams) (i : Nat) (vc : Nat) (payload : List Byte) (hz : Keep M z s) :
    Keep M z (camEmbedded i vc payload s) := by
  unfold camEmbedded
  repeat' (first
    | with_reducible assumption
    | with_reducible exact Keep.refl _
    | intro _
    | with_reducible apply updFrame_keep
    | with_reducible apply notePacket_keep
    | with_reducible apply Keep.ite
    | split
    | dsimp -zeta only)

theorem camWrite_keep {M : Part → Prop} {z s : State} (h_mem : ¬ M .mem) (h_memCtl : ¬ M .memCtl) (h_sec : ¬ M .sec) (i : Nat) (y : Nat) (f : CamFrame) (out : List Byte) (hz : Keep M z s) :
    Keep M z (camWrite i y f out s) := by
  unfold camWrite
  repeat' (first
    | with_reducible assumption
    | with_reducible exact Keep.refl _
    | intro _
    | ((fail_if_success (conv => arg 3; arg 1)); extract_lets +onlyGivenNames t; refine Keep.cut t ?_ ?_; subst t; rotate_left; clear_value t; intro ht; rotate_right)
    | ((fail_if_success (conv => arg 3; arg 1)); extract_lets +onlyGivenNames t; subst t)
    | with_reducible apply writeRange_keep
    | with_reducible apply Keep.ite
    | split
    | dsimp -zeta only)

theorem camImage_keep {M : Part → Prop} {z s : State} (h_dev : ¬ M .dev) (h_free : ¬ M .free) (h_regs : ¬ M .regs) (h_od : ¬ M .od) (h_mem : ¬ M .mem) (h_memCtl : ¬ M .memCtl) (h_pwr : ¬ M .pwr) (h_start : ¬ M .start) (h_sdg : ¬ M .sdg) (h_frz : ¬ M .frz) (h_sec : ¬ M .sec) (h_pack : ¬ M .pack) (h_cams : ¬ M .cams) (i : Nat) (payload : List Byte) (hz : Keep M z s) :
    Keep M z (camImage i payload s) := by
  unfold camImage
  repeat' (first
    | with_reducible assumption
    | with_reducible exact Keep.refl _
    | intro _
    | ((fail_if_success (conv => arg 3; arg 1)); extract_lets +onlyGivenNames t; refine Keep.cut t ?_ ?_; subst t; rotate_left; clear_value t; intro ht; rotate_right)
    | ((fail_if_success (conv => arg 3; arg 1)); extract_lets +onlyGivenNames t; subst t)
    | with_reducible apply camOutput_keep
    | ((with_reducible apply camOutput_keep_of); with_reducible assumption)
    | with_reducible apply updFrame_keep
    | with_reducible apply camWrite_keep
    | with_reducible apply Keep.ite
    | with_reducible apply KeepP.fst
    | split
    | dsimp -zeta only)

theorem camLong_keep {M : Part → Prop} {z s : State} (h_dev : ¬ M .dev) (h_free : ¬ M .free) (h_regs : ¬ M .regs) (h_od : ¬ M .od) (h_mem : ¬ M .mem) (h_memCtl : ¬ M .memCtl) (h_pwr : ¬ M .pwr) (h_start : ¬ M .start) (h_sdg : ¬ M .sdg) (h_frz : ¬ M .frz) (h_sec : ¬ M .sec) (h_pack : ¬ M .pack) (h_cams : ¬ M .cams) (i : Nat) (vc : Nat) (dt : Nat) (payload : List Byte) (hz : Keep M z s) :
    Keep M z (camLong i vc dt payload s) := by
  unfold camLong
  repeat' (first
    | with_reducible assumption
    | with_reducible exact Keep.refl _
    | intro _
    | ((fail_if_success (conv => arg 3; arg 1)); extract_lets +onlyGivenNames t; refine Keep.cut t ?_ ?_; subst t; rotate_left; clear_value t; intro ht; rotate_right)
    | ((fail_if_success (conv => arg 3; arg 1)); extract_lets +onlyGivenNames t; subst t)
    | with_reducible apply updFrame_keep
    | with_reducible apply notePacket_keep
    | with_reducible apply camImage_keep
    | with_reducible apply Keep.ite
    | split
    | dsimp -zeta only)

theorem execCsiLongPacket_keep {M : Part → Prop} {z s : State} (h_dev : ¬ M .dev) (h_free : ¬ M .free) (h_regs : ¬ M .regs) (h_od : ¬ M .od) (h_mem : ¬ M .mem) (h_memCtl : ¬ M .memCtl) (h_pwr : ¬ M .pwr) (h_start : ¬ M .start) (h_sdg : ¬ M .sdg) (h_frz : ¬ M .frz) (h_sec : ¬ M .sec) (h_pack : ¬ M .pack) (h_cams : ¬ M .cams) (rx : Fin 8) (vc : Fin 16) (dataType : Nat) (ecc : HeaderEcc) (crcOk : Bool) (payload : List Byte) (hz : Keep M z s) :
    KeepN M z (execCsiLongPacket rx vc dataType ecc crcOk payload s) := by
  unfold execCsiLongPacket
  repeat' (first
    | with_reducible assumption
    | with_reducible exact Keep.refl _
    | intro _
    | with_reducible apply KeepN.next
    | ((fail_if_success (conv => arg 3; arg 1)); extract_lets +onlyGivenNames t; refine KeepN.cut t ?_ ?_; subst t; rotate_left; clear_value t; intro ht; rotate_right)
    | ((fail_if_success (conv => arg 3; arg 1)); extract_lets +onlyGivenNames t; refine Keep.cut t ?_ ?_; subst t; rotate_left; clear_value t; intro ht; rotate_right)
    | ((fail_if_success (conv => arg 3; arg 1)); extract_lets +onlyGivenNames t; subst t)
    | with_reducible apply rxCount_keep
    | with_reducible apply rxActive_keep
    | with_reducible apply updFrame_keep
    | with_reducible apply notePacket_keep
    | with_reducible apply camEmbedded_keep
    | with_reducible apply camLong_keep
    | with_reducible apply Keep.ite
    | with_reducible apply KeepN.ite
    | split
    | dsimp -zeta only)

theorem execEmbeddedDataPacket_keep {M : Part → Prop} {z s : State} (h_regs : ¬ M .regs) (h_cams : ¬ M .cams) (rx : Fin 8) (vc : Fin 16) (payload : List Byte) (hz : Keep M z s) :
    KeepN M z (execEmbeddedDataPacket rx vc payload s) := by
  unfold execEmbeddedDataPacket
  repeat' (first
    | with_reducible assumption
    | with_reducible exact Keep.refl _
    | intro _
    | with_reducible apply KeepN.next
    | ((fail_if_success (conv => arg 3; arg 1)); extract_lets +onlyGivenNames t; refine KeepN.cut t ?_ ?_; subst t; rotate_left; clear_value t; intro ht; rotate_right)
    | ((fail_if_success (conv => arg 3; arg 1)); extract_lets +onlyGivenNames t; refine Keep.cut t ?_ ?_; subst t; rotate_left; clear_value t; intro ht; rotate_right)
    | ((fail_if_success (conv => arg 3; arg 1)); extract_lets +onlyGivenNames t; subst t)
    | with_reducible apply rxActive_keep
    | with_reducible apply camEmbedded_keep
    | with_reducible apply Keep.ite
    | with_reducible apply KeepN.ite
    | split
    | dsimp -zeta only)

theorem camRecord_keep {M : Part → Prop} {z s : State} (h_regs : ¬ M .regs) (h_od : ¬ M .od) (h_mem : ¬ M .mem) (h_memCtl : ¬ M .memCtl) (h_sec : ¬ M .sec) (i : Nat) (flags : Nat) (counter : Nat) (sig : Nat) (want : Nat) (f : CamFrame) (hz : Keep M z s) :
    Keep M z (camRecord i flags counter sig want f s) := by
  unfold camRecord
  repeat' (first
    | with_reducible assumption
    | with_reducible exact Keep.refl _
    | intro _
    | ((fail_if_success (conv => arg 3; arg 1)); extract_lets +onlyGivenNames t; refine Keep.cut t ?_ ?_; subst t; rotate_left; clear_value t; intro ht; rotate_right)
    | ((fail_if_success (conv => arg 3; arg 1)); extract_lets +onlyGivenNames t; subst t)
    | with_reducible apply regPut_keep
    | with_reducible apply odCount_keep
    | with_reducible apply writeRange_keep
    | with_reducible apply Keep.ite
    | split
    | dsimp -zeta only)

theorem camEvent_keep {M : Part → Prop} {z s : State} (h_dev : ¬ M .dev) (h_regs : ¬ M .regs) (h_od : ¬ M .od) (h_pwr : ¬ M .pwr) (h_start : ¬ M .start) (h_sdg : ¬ M .sdg) (h_frz : ¬ M .frz) (h_pack : ¬ M .pack) (i : Nat) (alarm : Nat) (hz : Keep M z s) :
    Keep M z (camEvent i alarm s) := by
  unfold camEvent
  repeat' (first
    | with_reducible assumption
    | with_reducible exact Keep.refl _
    | intro _
    | with_reducible apply odCount_keep
    | with_reducible apply raiseAlarm_keep
    | with_reducible apply Keep.ite
    | split
    | dsimp -zeta only)

theorem camKnot_keep {M : Part → Prop} {z s : State} (h_regs : ¬ M .regs) (h_knots : ¬ M .knots) (h_slots : ¬ M .slots) (h_safeSlots : ¬ M .safeSlots) (i : Nat) (hz : Keep M z s) :
    Keep M z (camKnot i s) := by
  unfold camKnot
  repeat' (first
    | with_reducible assumption
    | with_reducible exact Keep.refl _
    | intro _
    | ((fail_if_success (conv => arg 3; arg 1)); extract_lets +onlyGivenNames t; refine Keep.cut t ?_ ?_; subst t; rotate_left; clear_value t; intro ht; rotate_right)
    | ((fail_if_success (conv => arg 3; arg 1)); extract_lets +onlyGivenNames t; refine KeepP.cut t ?_ ?_; subst t; rotate_left; clear_value t; intro ht; rotate_right)
    | ((fail_if_success (conv => arg 3; arg 1)); extract_lets +onlyGivenNames t; subst t)
    | with_reducible apply knotRaise_keep
    | with_reducible apply Keep.ite
    | with_reducible apply Keep.foldl
    | split
    | dsimp -zeta only)

theorem camFinish_keep {M : Part → Prop} {z s : State} (h_dev : ¬ M .dev) (h_free : ¬ M .free) (h_regs : ¬ M .regs) (h_od : ¬ M .od) (h_mem : ¬ M .mem) (h_memCtl : ¬ M .memCtl) (h_pwr : ¬ M .pwr) (h_start : ¬ M .start) (h_sdg : ¬ M .sdg) (h_frz : ¬ M .frz) (h_sec : ¬ M .sec) (h_knots : ¬ M .knots) (h_pack : ¬ M .pack) (h_cams : ¬ M .cams) (h_slots : ¬ M .slots) (h_safeSlots : ¬ M .safeSlots) (i : Nat) (f : CamFrame) (deviceBad : Bool) (aborted : Bool) (sig : Nat) (want : Nat) (hz : Keep M z s) :
    Keep M z (camFinish i f deviceBad aborted sig want s) := by
  unfold camFinish
  repeat' (first
    | with_reducible assumption
    | with_reducible exact Keep.refl _
    | intro _
    | ((fail_if_success (conv => arg 3; arg 1)); extract_lets +onlyGivenNames t; refine Keep.cut t ?_ ?_; subst t; rotate_left; clear_value t; intro ht; rotate_right)
    | ((fail_if_success (conv => arg 3; arg 1)); extract_lets +onlyGivenNames t; subst t)
    | with_reducible apply takeFree_keep
    | with_reducible apply regPut_keep
    | with_reducible apply sendMsg_keep
    | with_reducible apply putCam_keep
    | with_reducible apply camRecord_keep
    | with_reducible apply camEvent_keep
    | with_reducible apply camKnot_keep
    | with_reducible apply Keep.ite
    | split
    | dsimp -zeta only)

theorem camAbort_keep {M : Part → Prop} {z s : State} (h_dev : ¬ M .dev) (h_free : ¬ M .free) (h_regs : ¬ M .regs) (h_od : ¬ M .od) (h_mem : ¬ M .mem) (h_memCtl : ¬ M .memCtl) (h_pwr : ¬ M .pwr) (h_start : ¬ M .start) (h_sdg : ¬ M .sdg) (h_frz : ¬ M .frz) (h_sec : ¬ M .sec) (h_knots : ¬ M .knots) (h_pack : ¬ M .pack) (h_cams : ¬ M .cams) (h_slots : ¬ M .slots) (h_safeSlots : ¬ M .safeSlots) (i : Nat) (f : CamFrame) (hz : Keep M z s) :
    Keep M z (camAbort i f s) := by
  unfold camAbort
  repeat' (first
    | with_reducible assumption
    | with_reducible exact Keep.refl _
    | intro _
    | with_reducible apply takeFree_keep
    | with_reducible apply camFinish_keep
    | split
    | dsimp -zeta only)

theorem camAbortAll_keep {M : Part → Prop} {z s : State} (h_dev : ¬ M .dev) (h_free : ¬ M .free) (h_regs : ¬ M .regs) (h_od : ¬ M .od) (h_mem : ¬ M .mem) (h_memCtl : ¬ M .memCtl) (h_pwr : ¬ M .pwr) (h_start : ¬ M .start) (h_sdg : ¬ M .sdg) (h_frz : ¬ M .frz) (h_sec : ¬ M .sec) (h_knots : ¬ M .knots) (h_pack : ¬ M .pack) (h_cams : ¬ M .cams) (h_slots : ¬ M .slots) (h_safeSlots : ¬ M .safeSlots) (i : Nat) (hz : Keep M z s) :
    Keep M z (camAbortAll i s) := by
  unfold camAbortAll
  repeat' (first
    | with_reducible assumption
    | with_reducible exact Keep.refl _
    | intro _
    | ((fail_if_success (conv => arg 3; arg 1)); extract_lets +onlyGivenNames t; refine Keep.cut t ?_ ?_; subst t; rotate_left; clear_value t; intro ht; rotate_right)
    | ((fail_if_success (conv => arg 3; arg 1)); extract_lets +onlyGivenNames t; subst t)
    | with_reducible apply putCam_keep
    | with_reducible apply camAbort_keep
    | split
    | dsimp -zeta only)

theorem execFrameStartPacket_keep {M : Part → Prop} {z s : State} (h_dev : ¬ M .dev) (h_free : ¬ M .free) (h_regs : ¬ M .regs) (h_od : ¬ M .od) (h_mem : ¬ M .mem) (h_memCtl : ¬ M .memCtl) (h_pwr : ¬ M .pwr) (h_start : ¬ M .start) (h_sdg : ¬ M .sdg) (h_frz : ¬ M .frz) (h_sec : ¬ M .sec) (h_knots : ¬ M .knots) (h_pack : ¬ M .pack) (h_cams : ¬ M .cams) (h_slots : ¬ M .slots) (h_safeSlots : ¬ M .safeSlots) (rx : Fin 8) (vc : Fin 16) (hz : Keep M z s) :
    KeepN M z (execFrameStartPacket rx vc s) := by
  unfold execFrameStartPacket
  repeat' (first
    | with_reducible assumption
    | with_reducible exact Keep.refl _
    | intro _
    | with_reducible apply KeepN.next
    | ((fail_if_success (conv => arg 3; arg 1)); extract_lets +onlyGivenNames t; refine KeepN.cut t ?_ ?_; subst t; rotate_left; clear_value t; intro ht; rotate_right)
    | ((fail_if_success (conv => arg 3; arg 1)); extract_lets +onlyGivenNames t; refine Keep.cut t ?_ ?_; subst t; rotate_left; clear_value t; intro ht; rotate_right)
    | ((fail_if_success (conv => arg 3; arg 1)); extract_lets +onlyGivenNames t; subst t)
    | with_reducible apply regPut_keep
    | with_reducible apply regUpd_keep
    | with_reducible apply odCount_keep
    | with_reducible apply putCam_keep
    | with_reducible apply rxActive_keep
    | with_reducible apply camAbort_keep
    | with_reducible apply Keep.ite
    | with_reducible apply KeepN.ite
    | split
    | dsimp -zeta only)

theorem execFrameEndPacket_keep {M : Part → Prop} {z s : State} (h_dev : ¬ M .dev) (h_free : ¬ M .free) (h_regs : ¬ M .regs) (h_od : ¬ M .od) (h_mem : ¬ M .mem) (h_memCtl : ¬ M .memCtl) (h_pwr : ¬ M .pwr) (h_start : ¬ M .start) (h_sdg : ¬ M .sdg) (h_frz : ¬ M .frz) (h_sec : ¬ M .sec) (h_knots : ¬ M .knots) (h_pack : ¬ M .pack) (h_cams : ¬ M .cams) (h_slots : ¬ M .slots) (h_safeSlots : ¬ M .safeSlots) (rx : Fin 8) (vc : Fin 16) (hz : Keep M z s) :
    KeepN M z (execFrameEndPacket rx vc s) := by
  unfold execFrameEndPacket
  repeat' (first
    | with_reducible assumption
    | with_reducible exact Keep.refl _
    | intro _
    | with_reducible apply KeepN.next
    | ((fail_if_success (conv => arg 3; arg 1)); extract_lets +onlyGivenNames t; refine KeepN.cut t ?_ ?_; subst t; rotate_left; clear_value t; intro ht; rotate_right)
    | ((fail_if_success (conv => arg 3; arg 1)); extract_lets +onlyGivenNames t; refine Keep.cut t ?_ ?_; subst t; rotate_left; clear_value t; intro ht; rotate_right)
    | ((fail_if_success (conv => arg 3; arg 1)); extract_lets +onlyGivenNames t; subst t)
    | with_reducible apply takeFree_keep
    | with_reducible apply regUpd_keep
    | with_reducible apply putCam_keep
    | with_reducible apply rxActive_keep
    | with_reducible apply camFinish_keep
    | with_reducible apply Keep.ite
    | with_reducible apply KeepN.ite
    | split
    | dsimp -zeta only)

theorem execTestLinesAtDma_keep {M : Part → Prop} {z s : State} (h_dev : ¬ M .dev) (h_free : ¬ M .free) (h_regs : ¬ M .regs) (h_od : ¬ M .od) (h_mem : ¬ M .mem) (h_memCtl : ¬ M .memCtl) (h_pwr : ¬ M .pwr) (h_start : ¬ M .start) (h_sdg : ¬ M .sdg) (h_frz : ¬ M .frz) (h_sec : ¬ M .sec) (h_knots : ¬ M .knots) (h_pack : ¬ M .pack) (h_cams : ¬ M .cams) (h_slots : ¬ M .slots) (h_safeSlots : ¬ M .safeSlots) (stream : Fin 128) (observed : List Byte) (hz : Keep M z s) :
    KeepN M z (execTestLinesAtDma stream observed s) := by
  unfold execTestLinesAtDma
  repeat' (first
    | with_reducible assumption
    | with_reducible exact Keep.refl _
    | intro _
    | with_reducible apply KeepN.next
    | ((fail_if_success (conv => arg 3; arg 1)); extract_lets +onlyGivenNames t; refine KeepN.cut t ?_ ?_; subst t; rotate_left; clear_value t; intro ht; rotate_right)
    | ((fail_if_success (conv => arg 3; arg 1)); extract_lets +onlyGivenNames t; refine Keep.cut t ?_ ?_; subst t; rotate_left; clear_value t; intro ht; rotate_right)
    | ((fail_if_success (conv => arg 3; arg 1)); extract_lets +onlyGivenNames t; subst t)
    | with_reducible apply putCam_keep
    | with_reducible apply camFinish_keep
    | with_reducible apply Keep.ite
    | with_reducible apply KeepN.ite
    | split
    | dsimp -zeta only)

theorem execTestLineTimeout_keep {M : Part → Prop} {z s : State} (h_dev : ¬ M .dev) (h_now : ¬ M .now) (h_free : ¬ M .free) (h_regs : ¬ M .regs) (h_od : ¬ M .od) (h_mem : ¬ M .mem) (h_memCtl : ¬ M .memCtl) (h_pwr : ¬ M .pwr) (h_start : ¬ M .start) (h_sdg : ¬ M .sdg) (h_frz : ¬ M .frz) (h_sec : ¬ M .sec) (h_knots : ¬ M .knots) (h_pack : ¬ M .pack) (h_cams : ¬ M .cams) (h_slots : ¬ M .slots) (h_safeSlots : ¬ M .safeSlots) (h_gtime : ¬ M .gtime) (stream : Fin 128) (hz : Keep M z s) :
    KeepN M z (execTestLineTimeout stream s) := by
  unfold execTestLineTimeout
  repeat' (first
    | with_reducible assumption
    | with_reducible exact Keep.refl _
    | intro _
    | with_reducible apply KeepN.next
    | ((fail_if_success (conv => arg 3; arg 1)); extract_lets +onlyGivenNames t; refine KeepN.cut t ?_ ?_; subst t; rotate_left; clear_value t; intro ht; rotate_right)
    | ((fail_if_success (conv => arg 3; arg 1)); extract_lets +onlyGivenNames t; refine Keep.cut t ?_ ?_; subst t; rotate_left; clear_value t; intro ht; rotate_right)
    | ((fail_if_success (conv => arg 3; arg 1)); extract_lets +onlyGivenNames t; subst t)
    | with_reducible apply advanceTo_keep
    | with_reducible apply takeFree_keep
    | with_reducible apply putCam_keep
    | with_reducible apply camFinish_keep
    | with_reducible apply Keep.ite
    | with_reducible apply KeepN.ite
    | split
    | dsimp -zeta only)

theorem execFrameTimeout_keep {M : Part → Prop} {z s : State} (h_dev : ¬ M .dev) (h_now : ¬ M .now) (h_regs : ¬ M .regs) (h_od : ¬ M .od) (h_pwr : ¬ M .pwr) (h_start : ¬ M .start) (h_sdg : ¬ M .sdg) (h_frz : ¬ M .frz) (h_pack : ¬ M .pack) (h_cams : ¬ M .cams) (h_gtime : ¬ M .gtime) (stream : Fin 128) (hz : Keep M z s) :
    KeepN M z (execFrameTimeout stream s) := by
  unfold execFrameTimeout
  repeat' (first
    | with_reducible assumption
    | with_reducible exact Keep.refl _
    | intro _
    | with_reducible apply KeepN.next
    | ((fail_if_success (conv => arg 3; arg 1)); extract_lets +onlyGivenNames t; refine KeepN.cut t ?_ ?_; subst t; rotate_left; clear_value t; intro ht; rotate_right)
    | ((fail_if_success (conv => arg 3; arg 1)); extract_lets +onlyGivenNames t; refine Keep.cut t ?_ ?_; subst t; rotate_left; clear_value t; intro ht; rotate_right)
    | ((fail_if_success (conv => arg 3; arg 1)); extract_lets +onlyGivenNames t; subst t)
    | with_reducible apply advanceTo_keep
    | with_reducible apply odCount_keep
    | with_reducible apply putCam_keep
    | with_reducible apply camEvent_keep
    | with_reducible apply Keep.ite
    | with_reducible apply KeepN.ite
    | split
    | dsimp -zeta only)

theorem camEff_keep {M : Part → Prop} {z s : State} (h_regs : ¬ M .regs) (i : Nat) (off : Nat) (v : Nat) (hz : Keep M z s) :
    KeepW M z (camEff i off v s) := by
  unfold camEff
  repeat' (first
    | with_reducible assumption
    | with_reducible exact Keep.refl _
    | intro _
    | ((fail_if_success (conv => arg 3; arg 1)); extract_lets +onlyGivenNames t; refine KeepW.cut t ?_ ?_; subst t; rotate_left; clear_value t; intro ht; rotate_right)
    | ((fail_if_success (conv => arg 3; arg 1)); extract_lets +onlyGivenNames t; refine Keep.cut t ?_ ?_; subst t; rotate_left; clear_value t; intro ht; rotate_right)
    | ((fail_if_success (conv => arg 3; arg 1)); extract_lets +onlyGivenNames t; subst t)
    | with_reducible apply regSetBits_keep
    | with_reducible apply genericWrite_keep
    | with_reducible apply Keep.ite
    | with_reducible apply KeepW.ite
    | with_reducible apply KeepW.done
    | with_reducible apply KeepW.denied
    | split
    | dsimp -zeta only)

theorem execReleasedWrite_keep {M : Part → Prop} {z s : State} (h_dev : ¬ M .dev) (h_now : ¬ M .now) (h_regs : ¬ M .regs) (h_hold : ¬ M .hold) (h_od : ¬ M .od) (h_pwr : ¬ M .pwr) (h_start : ¬ M .start) (h_sdg : ¬ M .sdg) (h_frz : ¬ M .frz) (h_apps : ¬ M .apps) (h_pack : ¬ M .pack) (h_splice : ¬ M .splice) (h_gtime : ¬ M .gtime) (stream : Fin 128) (acc : Access) (value : Word) (hz : Keep M z s) :
    KeepN M z (execReleasedWrite stream acc value s) := by
  unfold execReleasedWrite
  repeat' (first
    | with_reducible assumption
    | with_reducible exact Keep.refl _
    | intro _
    | with_reducible apply KeepN.next
    | with_reducible apply regWriteWith_keep
    | with_reducible apply camEff_keep
    | split
    | dsimp -zeta only)

theorem camApply_keep {M : Part → Prop} {z s : State} (h_dev : ¬ M .dev) (h_free : ¬ M .free) (h_regs : ¬ M .regs) (h_od : ¬ M .od) (h_mem : ¬ M .mem) (h_memCtl : ¬ M .memCtl) (h_pwr : ¬ M .pwr) (h_start : ¬ M .start) (h_sdg : ¬ M .sdg) (h_frz : ¬ M .frz) (h_sec : ¬ M .sec) (h_knots : ¬ M .knots) (h_pack : ¬ M .pack) (h_cams : ¬ M .cams) (h_slots : ¬ M .slots) (h_safeSlots : ¬ M .safeSlots) (k : Nat) (v : Nat) (hz : Keep M z s) :
    Keep M z (camApply k v s) := by
  unfold camApply
  repeat' (first
    | with_reducible assumption
    | with_reducible exact Keep.refl _
    | intro _
    | ((fail_if_success (conv => arg 3; arg 1)); extract_lets +onlyGivenNames t; refine Keep.cut t ?_ ?_; subst t; rotate_left; clear_value t; intro ht; rotate_right)
    | ((fail_if_success (conv => arg 3; arg 1)); extract_lets +onlyGivenNames t; subst t)
    | with_reducible apply regPut_keep
    | with_reducible apply regUpd_keep
    | with_reducible apply putCam_keep
    | with_reducible apply camAbortAll_keep
    | with_reducible apply Keep.ite
    | split
    | dsimp -zeta only)

end Sys2Proof.Machine
end

