-- ==== Sys2Proof/Laws/KeepRaster.lean ====
section
/-! SUPPORT. What the operations of Machine/Raster.lean keep: one lemma each. -/

namespace Sys2Proof.Machine

theorem gErr_keep {M : Part → Prop} {z s : State} (h_regs : ¬ M .regs) (q : Nat) (b : Nat) (hz : Keep M z s) :
    Keep M z (gErr q b s) := by
  unfold gErr
  repeat' (first
    | with_reducible assumption
    | with_reducible exact Keep.refl _
    | intro _
    | with_reducible apply regSetBits_keep
    | split
    | dsimp -zeta only)

theorem updGHead_keep {M : Part → Prop} {z s : State} (h_gfx : ¬ M .gfx) (q : Nat) (f : GfxSub → GfxSub) (hz : Keep M z s) :
    Keep M z (updGHead q f s) := by
  unfold updGHead
  repeat' (first
    | with_reducible assumption
    | with_reducible exact Keep.refl _
    | intro _
    | with_reducible apply putGq_keep
    | split
    | dsimp -zeta only)

theorem gSettle_keep {M : Part → Prop} {z s : State} (h_gfx : ¬ M .gfx) (hz : Keep M z s) :
    Keep M z (gSettle s) := by
  unfold gSettle
  repeat' (first
    | with_reducible assumption
    | with_reducible exact Keep.refl _
    | intro _
    | ((fail_if_success (fail_if_success (conv => arg 3; arg 39))); with_reducible apply Keep.upd_gfx)
    | with_reducible apply Keep.ite
    | split
    | dsimp -zeta only)

theorem gWriteOne_keep {M : Part → Prop} {z s : State} (h_regs : ¬ M .regs) (h_mem : ¬ M .mem) (h_memCtl : ¬ M .memCtl) (h_sec : ¬ M .sec) (h_gfx : ¬ M .gfx) (q : Nat) (st : Nat) (b : GfxSub) (hz : Keep M z s) :
    Keep M z (gWriteOne q st b s) := by
  unfold gWriteOne
  repeat' (first
    | with_reducible assumption
    | with_reducible exact Keep.refl _
    | intro _
    | ((fail_if_success (conv => arg 3; arg 1)); extract_lets +onlyGivenNames t; refine Keep.cut t ?_ ?_; subst t; rotate_left; clear_value t; intro ht; rotate_right)
    | ((fail_if_success (conv => arg 3; arg 1)); extract_lets +onlyGivenNames t; subst t)
    | with_reducible apply sendMsg_keep
    | with_reducible apply putGq_keep
    | with_reducible apply writeRange_keep
    | with_reducible apply Keep.ite
    | split
    | dsimp -zeta only)

theorem gCompleteN_keep {M : Part → Prop} (h_regs : ¬ M .regs) (h_mem : ¬ M .mem) (h_memCtl : ¬ M .memCtl) (h_sec : ¬ M .sec) (h_gfx : ¬ M .gfx) (q : Nat) (n_ : Nat)  {z s : State} (hz : Keep M z s) :
    Keep M z (gCompleteN q n_  s) := by
  induction n_ generalizing  z s with
  | zero => exact hz
  | succ n ih =>
    unfold gCompleteN
    repeat' (first
      | with_reducible assumption
      | with_reducible apply ih
      | with_reducible exact Keep.refl _
      | intro _
      | with_reducible apply gWriteOne_keep
      | with_reducible apply Keep.ite
      | split
      | dsimp -zeta only)

theorem gComplete_keep {M : Part → Prop} {z s : State} (h_regs : ¬ M .regs) (h_mem : ¬ M .mem) (h_memCtl : ¬ M .memCtl) (h_sec : ¬ M .sec) (h_gfx : ¬ M .gfx) (q : Nat) (hz : Keep M z s) :
    Keep M z (gComplete q s) := by
  unfold gComplete
  repeat' (first
    | with_reducible assumption
    | with_reducible exact Keep.refl _
    | intro _
    | with_reducible apply gSettle_keep
    | with_reducible apply gCompleteN_keep
    | split
    | dsimp -zeta only)

theorem gLeave_keep {M : Part → Prop} {z s : State} (h_gfx : ¬ M .gfx) (hz : Keep M z s) :
    Keep M z (gLeave s) := by
  unfold gLeave
  repeat' (first
    | with_reducible assumption
    | with_reducible exact Keep.refl _
    | intro _
    | ((fail_if_success (fail_if_success (conv => arg 3; arg 39))); with_reducible apply Keep.upd_gfx)
    | split
    | dsimp -zeta only)

theorem gWriteBack_keep {M : Part → Prop} {z s : State} (h_mem : ¬ M .mem) (h_memCtl : ¬ M .memCtl) (h_sec : ¬ M .sec) (h_gfx : ¬ M .gfx) (q : Nat) (hz : Keep M z s) :
    Keep M z (gWriteBack q s) := by
  unfold gWriteBack
  repeat' (first
    | with_reducible assumption
    | with_reducible exact Keep.refl _
    | intro _
    | with_reducible apply writeRange_keep
    | with_reducible apply updGHead_keep
    | ((fail_if_success (conv => arg 3; arg 3)); with_reducible apply KeepP.mk')
    | with_reducible apply KeepP.foldl
    | with_reducible apply Keep.foldl
    | with_reducible apply KeepP.fst
    | split
    | dsimp -zeta only)

theorem gEnd_keep {M : Part → Prop} {z s : State} (h_regs : ¬ M .regs) (h_mem : ¬ M .mem) (h_memCtl : ¬ M .memCtl) (h_sec : ¬ M .sec) (h_gfx : ¬ M .gfx) (q : Nat) (st : Nat) (hz : Keep M z s) :
    Keep M z (gEnd q st s) := by
  unfold gEnd
  repeat' (first
    | with_reducible assumption
    | with_reducible exact Keep.refl _
    | intro _
    | ((fail_if_success (conv => arg 3; arg 1)); extract_lets +onlyGivenNames t; refine Keep.cut t ?_ ?_; subst t; rotate_left; clear_value t; intro ht; rotate_right)
    | ((fail_if_success (conv => arg 3; arg 1)); extract_lets +onlyGivenNames t; subst t)
    | with_reducible apply putGq_keep
    | with_reducible apply updGHead_keep
    | with_reducible apply gComplete_keep
    | with_reducible apply gLeave_keep
    | with_reducible apply gWriteBack_keep
    | with_reducible apply Keep.ite
    | split
    | dsimp -zeta only)

theorem gSignal_keep {M : Part → Prop} {z s : State} (h_regs : ¬ M .regs) (h_mem : ¬ M .mem) (h_memCtl : ¬ M .memCtl) (h_sec : ¬ M .sec) (h_knots : ¬ M .knots) (h_gfx : ¬ M .gfx) (h_slots : ¬ M .slots) (h_safeSlots : ¬ M .safeSlots) (q : Nat) (b : GfxSub) (hz : Keep M z s) :
    Keep M z (gSignal q b s) := by
  unfold gSignal
  repeat' (first
    | with_reducible assumption
    | with_reducible exact Keep.refl _
    | intro _
    | ((fail_if_success (conv => arg 3; arg 1)); extract_lets +onlyGivenNames t; refine Keep.cut t ?_ ?_; subst t; rotate_left; clear_value t; intro ht; rotate_right)
    | ((fail_if_success (conv => arg 3; arg 1)); extract_lets +onlyGivenNames t; subst t)
    | with_reducible apply knotRaise_keep
    | with_reducible apply gWriteBack_keep
    | with_reducible apply gEnd_keep
    | with_reducible apply Keep.ite
    | split
    | dsimp -zeta only)

theorem gLineWrite_keep {M : Part → Prop} {z s : State} (h_dev : ¬ M .dev) (h_free : ¬ M .free) (h_regs : ¬ M .regs) (h_od : ¬ M .od) (h_mem : ¬ M .mem) (h_memCtl : ¬ M .memCtl) (h_pwr : ¬ M .pwr) (h_start : ¬ M .start) (h_sdg : ¬ M .sdg) (h_frz : ¬ M .frz) (h_sec : ¬ M .sec) (h_pack : ¬ M .pack) (h_gfx : ¬ M .gfx) (q : Nat) (w : LineWrite) (hz : Keep M z s) :
    KeepP M z (gLineWrite q w s) := by
  unfold gLineWrite
  repeat' (first
    | with_reducible assumption
    | with_reducible exact Keep.refl _
    | intro _
    | ((fail_if_success (conv => arg 3; arg 1)); extract_lets +onlyGivenNames t; refine KeepP.cut t ?_ ?_; subst t; rotate_left; clear_value t; intro ht; rotate_right)
    | ((fail_if_success (conv => arg 3; arg 1)); extract_lets +onlyGivenNames t; refine Keep.cut t ?_ ?_; subst t; rotate_left; clear_value t; intro ht; rotate_right)
    | ((fail_if_success (conv => arg 3; arg 1)); extract_lets +onlyGivenNames t; subst t)
    | with_reducible apply readRange_keep
    | ((with_reducible apply readRange_keep_of); with_reducible assumption)
    | with_reducible apply updGHead_keep
    | with_reducible apply Keep.ite
    | with_reducible apply KeepP.ite
    | ((fail_if_success (conv => arg 3; arg 3)); with_reducible apply KeepP.mk')
    | with_reducible apply KeepP.fst
    | split
    | dsimp -zeta only)

theorem gLineWrite_keep_of {M : Part → Prop} {q : Nat} {w : LineWrite} {z s u_ : State} {o_ : Option (Nat × Nat)} (e_ : gLineWrite q w s = (u_, o_)) (h_dev : ¬ M .dev) (h_free : ¬ M .free) (h_regs : ¬ M .regs) (h_od : ¬ M .od) (h_mem : ¬ M .mem) (h_memCtl : ¬ M .memCtl) (h_pwr : ¬ M .pwr) (h_start : ¬ M .start) (h_sdg : ¬ M .sdg) (h_frz : ¬ M .frz) (h_sec : ¬ M .sec) (h_pack : ¬ M .pack) (h_gfx : ¬ M .gfx)
    (hz : Keep M z s) : Keep M z u_ :=
  (gLineWrite_keep h_dev h_free h_regs h_od h_mem h_memCtl h_pwr h_start h_sdg h_frz h_sec h_pack h_gfx _ _ hz).of e_

theorem gLineWrites_keep {M : Part → Prop} (h_dev : ¬ M .dev) (h_free : ¬ M .free) (h_regs : ¬ M .regs) (h_od : ¬ M .od) (h_mem : ¬ M .mem) (h_memCtl : ¬ M .memCtl) (h_pwr : ¬ M .pwr) (h_start : ¬ M .start) (h_sdg : ¬ M .sdg) (h_frz : ¬ M .frz) (h_sec : ¬ M .sec) (h_pack : ¬ M .pack) (h_gfx : ¬ M .gfx) (q : Nat) (n_ : List LineWrite)  {z s : State} (hz : Keep M z s) :
    KeepP M z (gLineWrites q n_  s) := by
  induction n_ generalizing  z s with
  | nil => exact ⟨hz⟩
  | cons a l ih =>
    unfold gLineWrites
    repeat' (first
      | with_reducible assumption
      | with_reducible apply ih
      | with_reducible exact Keep.refl _
      | intro _
      | with_reducible apply gLineWrite_keep
      | ((with_reducible apply gLineWrite_keep_of); with_reducible assumption)
      | ((fail_if_success (conv => arg 3; arg 3)); with_reducible apply KeepP.mk')
      | with_reducible apply KeepP.fst
      | split
      | dsimp -zeta only)

theorem gLineWrites_keep_of {M : Part → Prop} {q : Nat} {n_ : List LineWrite}  {z s u_ : State} {o_ : Option (Nat × Nat)} (e_ : gLineWrites q n_  s = (u_, o_)) (h_dev : ¬ M .dev) (h_free : ¬ M .free) (h_regs : ¬ M .regs) (h_od : ¬ M .od) (h_mem : ¬ M .mem) (h_memCtl : ¬ M .memCtl) (h_pwr : ¬ M .pwr) (h_start : ¬ M .start) (h_sdg : ¬ M .sdg) (h_frz : ¬ M .frz) (h_sec : ¬ M .sec) (h_pack : ¬ M .pack) (h_gfx : ¬ M .gfx) (hz : Keep M z s) : Keep M z u_ :=
  (gLineWrites_keep h_dev h_free h_regs h_od h_mem h_memCtl h_pwr h_start h_sdg h_frz h_sec h_pack h_gfx _ _ hz).of e_

theorem gFail_keep {M : Part → Prop} {z s : State} (h_regs : ¬ M .regs) (h_mem : ¬ M .mem) (h_memCtl : ¬ M .memCtl) (h_sec : ¬ M .sec) (h_gfx : ¬ M .gfx) (q : Nat) (f : Nat × Nat) (hz : Keep M z s) :
    Keep M z (gFail q f s) := by
  unfold gFail
  repeat' (first
    | with_reducible assumption
    | with_reducible exact Keep.refl _
    | intro _
    | with_reducible apply updGHead_keep
    | with_reducible apply gEnd_keep
    | with_reducible apply Keep.ite
    | with_reducible apply KeepP.fst
    | split
    | dsimp -zeta only)

theorem gDoorbellEff_keep {M : Part → Prop} {z s : State} (h_regs : ¬ M .regs) (h_gfx : ¬ M .gfx) (q : Nat) (v : Nat) (hz : Keep M z s) :
    KeepW M z (gDoorbellEff q v s) := by
  unfold gDoorbellEff
  repeat' (first
    | with_reducible assumption
    | with_reducible exact Keep.refl _
    | intro _
    | ((fail_if_success (conv => arg 3; arg 1)); extract_lets +onlyGivenNames t; refine KeepW.cut t ?_ ?_; subst t; rotate_left; clear_value t; intro ht; rotate_right)
    | ((fail_if_success (conv => arg 3; arg 1)); extract_lets +onlyGivenNames t; refine Keep.cut t ?_ ?_; subst t; rotate_left; clear_value t; intro ht; rotate_right)
    | ((fail_if_success (conv => arg 3; arg 1)); extract_lets +onlyGivenNames t; subst t)
    | with_reducible apply putGq_keep
    | with_reducible apply gErr_keep
    | with_reducible apply Keep.ite
    | with_reducible apply KeepW.ite
    | with_reducible apply KeepW.done
    | with_reducible apply KeepW.denied
    | split
    | dsimp -zeta only)

theorem gCfgEff_keep {M : Part → Prop} {z s : State} (h_regs : ¬ M .regs) (h_gfx : ¬ M .gfx) (q : Nat) (off : Nat) (v : Nat) (hz : Keep M z s) :
    KeepW M z (gCfgEff q off v s) := by
  unfold gCfgEff
  repeat' (first
    | with_reducible assumption
    | with_reducible exact Keep.refl _
    | intro _
    | ((fail_if_success (conv => arg 3; arg 1)); extract_lets +onlyGivenNames t; refine KeepW.cut t ?_ ?_; subst t; rotate_left; clear_value t; intro ht; rotate_right)
    | ((fail_if_success (conv => arg 3; arg 1)); extract_lets +onlyGivenNames t; refine Keep.cut t ?_ ?_; subst t; rotate_left; clear_value t; intro ht; rotate_right)
    | ((fail_if_success (conv => arg 3; arg 1)); extract_lets +onlyGivenNames t; subst t)
    | with_reducible apply regPut_keep
    | with_reducible apply putGq_keep
    | with_reducible apply genericWrite_keep
    | with_reducible apply gErr_keep
    | with_reducible apply Keep.ite
    | with_reducible apply KeepW.ite
    | with_reducible apply KeepW.done
    | with_reducible apply KeepW.denied
    | split
    | dsimp -zeta only)

theorem gStopEff_keep {M : Part → Prop} {z s : State} (h_gfx : ¬ M .gfx) (q : Nat) (hz : Keep M z s) :
    Keep M z (gStopEff q s) := by
  unfold gStopEff
  repeat' (first
    | with_reducible assumption
    | with_reducible exact Keep.refl _
    | intro _
    | ((fail_if_success (conv => arg 3; arg 1)); extract_lets +onlyGivenNames t; refine Keep.cut t ?_ ?_; subst t; rotate_left; clear_value t; intro ht; rotate_right)
    | ((fail_if_success (conv => arg 3; arg 1)); extract_lets +onlyGivenNames t; subst t)
    | with_reducible apply putGq_keep
    | ((fail_if_success (fail_if_success (conv => arg 3; arg 39))); with_reducible apply Keep.upd_gfx)
    | with_reducible apply Keep.ite
    | split
    | dsimp -zeta only)

theorem gFlushOne_keep {M : Part → Prop} {z s : State} (h_dev : ¬ M .dev) (h_free : ¬ M .free) (h_regs : ¬ M .regs) (h_od : ¬ M .od) (h_mem : ¬ M .mem) (h_memCtl : ¬ M .memCtl) (h_pwr : ¬ M .pwr) (h_start : ¬ M .start) (h_sdg : ¬ M .sdg) (h_frz : ¬ M .frz) (h_sec : ¬ M .sec) (h_pack : ¬ M .pack) (h_gfx : ¬ M .gfx) (q : Nat) (hz : Keep M z s) :
    Keep M z (gFlushOne q s) := by
  unfold gFlushOne
  repeat' (first
    | with_reducible assumption
    | with_reducible exact Keep.refl _
    | intro _
    | ((fail_if_success (conv => arg 3; arg 1)); extract_lets +onlyGivenNames t; refine Keep.cut t ?_ ?_; subst t; rotate_left; clear_value t; intro ht; rotate_right)
    | ((fail_if_success (conv => arg 3; arg 1)); extract_lets +onlyGivenNames t; subst t)
    | with_reducible apply putGq_keep
    | with_reducible apply readRange_keep
    | ((with_reducible apply readRange_keep_of); with_reducible assumption)
    | with_reducible apply Keep.ite
    | with_reducible apply KeepP.fst
    | split
    | dsimp -zeta only)

theorem gFlushEff_keep {M : Part → Prop} {z s : State} (h_dev : ¬ M .dev) (h_free : ¬ M .free) (h_regs : ¬ M .regs) (h_od : ¬ M .od) (h_mem : ¬ M .mem) (h_memCtl : ¬ M .memCtl) (h_pwr : ¬ M .pwr) (h_start : ¬ M .start) (h_sdg : ¬ M .sdg) (h_frz : ¬ M .frz) (h_sec : ¬ M .sec) (h_pack : ¬ M .pack) (h_gfx : ¬ M .gfx) (q : Nat) (hz : Keep M z s) :
    Keep M z (gFlushEff q s) := by
  unfold gFlushEff
  repeat' (first
    | with_reducible assumption
    | with_reducible exact Keep.refl _
    | intro _
    | ((fail_if_success (conv => arg 3; arg 1)); extract_lets +onlyGivenNames t; refine Keep.cut t ?_ ?_; subst t; rotate_left; clear_value t; intro ht; rotate_right)
    | ((fail_if_success (conv => arg 3; arg 1)); extract_lets +onlyGivenNames t; subst t)
    | with_reducible apply putGq_keep
    | with_reducible apply gErr_keep
    | with_reducible apply gComplete_keep
    | with_reducible apply gWriteBack_keep
    | with_reducible apply gFlushOne_keep
    | with_reducible apply Keep.ite
    | with_reducible apply Keep.iterate
    | split
    | dsimp -zeta only)

theorem gStartEff_keep {M : Part → Prop} {z s : State} (h_regs : ¬ M .regs) (h_mem : ¬ M .mem) (h_memCtl : ¬ M .memCtl) (h_sec : ¬ M .sec) (h_gfx : ¬ M .gfx) (q : Nat) (hz : Keep M z s) :
    Keep M z (gStartEff q s) := by
  unfold gStartEff
  repeat' (first
    | with_reducible assumption
    | with_reducible exact Keep.refl _
    | intro _
    | ((fail_if_success (conv => arg 3; arg 1)); extract_lets +onlyGivenNames t; refine Keep.cut t ?_ ?_; subst t; rotate_left; clear_value t; intro ht; rotate_right)
    | ((fail_if_success (conv => arg 3; arg 1)); extract_lets +onlyGivenNames t; subst t)
    | with_reducible apply putGq_keep
    | with_reducible apply gComplete_keep
    | with_reducible apply Keep.ite
    | split
    | dsimp -zeta only)

theorem gCtlEff_keep {M : Part → Prop} {z s : State} (h_dev : ¬ M .dev) (h_free : ¬ M .free) (h_regs : ¬ M .regs) (h_od : ¬ M .od) (h_mem : ¬ M .mem) (h_memCtl : ¬ M .memCtl) (h_pwr : ¬ M .pwr) (h_start : ¬ M .start) (h_sdg : ¬ M .sdg) (h_frz : ¬ M .frz) (h_sec : ¬ M .sec) (h_pack : ¬ M .pack) (h_gfx : ¬ M .gfx) (q : Nat) (v : Nat) (hz : Keep M z s) :
    KeepW M z (gCtlEff q v s) := by
  unfold gCtlEff
  repeat' (first
    | with_reducible assumption
    | with_reducible exact Keep.refl _
    | intro _
    | ((fail_if_success (conv => arg 3; arg 1)); extract_lets +onlyGivenNames t; refine KeepW.cut t ?_ ?_; subst t; rotate_left; clear_value t; intro ht; rotate_right)
    | ((fail_if_success (conv => arg 3; arg 1)); extract_lets +onlyGivenNames t; refine Keep.cut t ?_ ?_; subst t; rotate_left; clear_value t; intro ht; rotate_right)
    | ((fail_if_success (conv => arg 3; arg 1)); extract_lets +onlyGivenNames t; subst t)
    | with_reducible apply gStopEff_keep
    | with_reducible apply gFlushEff_keep
    | with_reducible apply gStartEff_keep
    | with_reducible apply Keep.ite
    | with_reducible apply KeepW.ite
    | with_reducible apply KeepW.done
    | with_reducible apply KeepW.denied
    | split
    | dsimp -zeta only)

theorem gfxEff_keep {M : Part → Prop} {z s : State} (h_dev : ¬ M .dev) (h_free : ¬ M .free) (h_regs : ¬ M .regs) (h_od : ¬ M .od) (h_mem : ¬ M .mem) (h_memCtl : ¬ M .memCtl) (h_pwr : ¬ M .pwr) (h_start : ¬ M .start) (h_sdg : ¬ M .sdg) (h_frz : ¬ M .frz) (h_sec : ¬ M .sec) (h_pack : ¬ M .pack) (h_gfx : ¬ M .gfx) (q : Nat) (off : Nat) (v : Nat) (hz : Keep M z s) :
    KeepW M z (gfxEff q off v s) := by
  unfold gfxEff
  repeat' (first
    | with_reducible assumption
    | with_reducible exact Keep.refl _
    | intro _
    | with_reducible apply genericWrite_keep
    | with_reducible apply gComplete_keep
    | with_reducible apply gDoorbellEff_keep
    | with_reducible apply gCfgEff_keep
    | with_reducible apply gCtlEff_keep
    | with_reducible apply Keep.ite
    | with_reducible apply KeepW.ite
    | with_reducible apply KeepW.done
    | with_reducible apply KeepW.denied
    | split
    | dsimp -zeta only)

theorem execGfxDoorbell_keep {M : Part → Prop} {z s : State} (h_dev : ¬ M .dev) (h_now : ¬ M .now) (h_regs : ¬ M .regs) (h_hold : ¬ M .hold) (h_od : ¬ M .od) (h_pwr : ¬ M .pwr) (h_start : ¬ M .start) (h_sdg : ¬ M .sdg) (h_frz : ¬ M .frz) (h_apps : ¬ M .apps) (h_pack : ¬ M .pack) (h_gfx : ¬ M .gfx) (h_splice : ¬ M .splice) (h_gtime : ¬ M .gtime) (q : Fin 32) (acc : Access) (tail : Nat) (hz : Keep M z s) :
    KeepN M z (execGfxDoorbell q acc tail s) := by
  unfold execGfxDoorbell
  repeat' (first
    | with_reducible assumption
    | with_reducible exact Keep.refl _
    | intro _
    | with_reducible apply KeepN.next
    | with_reducible apply regWriteWith_keep
    | with_reducible apply gDoorbellEff_keep
    | split
    | dsimp -zeta only)

theorem execGfxQueueStop_keep {M : Part → Prop} {z s : State} (h_dev : ¬ M .dev) (h_now : ¬ M .now) (h_free : ¬ M .free) (h_regs : ¬ M .regs) (h_hold : ¬ M .hold) (h_od : ¬ M .od) (h_mem : ¬ M .mem) (h_memCtl : ¬ M .memCtl) (h_pwr : ¬ M .pwr) (h_start : ¬ M .start) (h_sdg : ¬ M .sdg) (h_frz : ¬ M .frz) (h_apps : ¬ M .apps) (h_sec : ¬ M .sec) (h_pack : ¬ M .pack) (h_gfx : ¬ M .gfx) (h_splice : ¬ M .splice) (h_gtime : ¬ M .gtime) (q : Fin 32) (acc : Access) (hz : Keep M z s) :
    KeepN M z (execGfxQueueStop q acc s) := by
  unfold execGfxQueueStop
  repeat' (first
    | with_reducible assumption
    | with_reducible exact Keep.refl _
    | intro _
    | with_reducible apply KeepN.next
    | with_reducible apply regWriteWith_keep
    | with_reducible apply gCtlEff_keep
    | split
    | dsimp -zeta only)

theorem execGfxQueueStart_keep {M : Part → Prop} {z s : State} (h_dev : ¬ M .dev) (h_now : ¬ M .now) (h_free : ¬ M .free) (h_regs : ¬ M .regs) (h_hold : ¬ M .hold) (h_od : ¬ M .od) (h_mem : ¬ M .mem) (h_memCtl : ¬ M .memCtl) (h_pwr : ¬ M .pwr) (h_start : ¬ M .start) (h_sdg : ¬ M .sdg) (h_frz : ¬ M .frz) (h_apps : ¬ M .apps) (h_sec : ¬ M .sec) (h_pack : ¬ M .pack) (h_gfx : ¬ M .gfx) (h_splice : ¬ M .splice) (h_gtime : ¬ M .gtime) (q : Fin 32) (acc : Access) (hz : Keep M z s) :
    KeepN M z (execGfxQueueStart q acc s) := by
  unfold execGfxQueueStart
  repeat' (first
    | with_reducible assumption
    | with_reducible exact Keep.refl _
    | intro _
    | with_reducible apply KeepN.next
    | with_reducible apply regWriteWith_keep
    | with_reducible apply gCtlEff_keep
    | split
    | dsimp -zeta only)

theorem execGfxQueueFlush_keep {M : Part → Prop} {z s : State} (h_dev : ¬ M .dev) (h_now : ¬ M .now) (h_free : ¬ M .free) (h_regs : ¬ M .regs) (h_hold : ¬ M .hold) (h_od : ¬ M .od) (h_mem : ¬ M .mem) (h_memCtl : ¬ M .memCtl) (h_pwr : ¬ M .pwr) (h_start : ¬ M .start) (h_sdg : ¬ M .sdg) (h_frz : ¬ M .frz) (h_apps : ¬ M .apps) (h_sec : ¬ M .sec) (h_pack : ¬ M .pack) (h_gfx : ¬ M .gfx) (h_splice : ¬ M .splice) (h_gtime : ¬ M .gtime) (q : Fin 32) (acc : Access) (hz : Keep M z s) :
    KeepN M z (execGfxQueueFlush q acc s) := by
  unfold execGfxQueueFlush
  repeat' (first
    | with_reducible assumption
    | with_reducible exact Keep.refl _
    | intro _
    | with_reducible apply KeepN.next
    | with_reducible apply regWriteWith_keep
    | with_reducible apply gCtlEff_keep
    | split
    | dsimp -zeta only)

theorem gFetchOne_keep {M : Part → Prop} {z s : State} (h_dev : ¬ M .dev) (h_free : ¬ M .free) (h_regs : ¬ M .regs) (h_od : ¬ M .od) (h_mem : ¬ M .mem) (h_memCtl : ¬ M .memCtl) (h_pwr : ¬ M .pwr) (h_start : ¬ M .start) (h_sdg : ¬ M .sdg) (h_frz : ¬ M .frz) (h_sec : ¬ M .sec) (h_pack : ¬ M .pack) (h_gfx : ¬ M .gfx) (q : Nat) (hz : Keep M z s) :
    Keep M z (gFetchOne q s) := by
  unfold gFetchOne
  repeat' (first
    | with_reducible assumption
    | with_reducible exact Keep.refl _
    | intro _
    | ((fail_if_success (conv => arg 3; arg 1)); extract_lets +onlyGivenNames t; refine Keep.cut t ?_ ?_; subst t; rotate_left; clear_value t; intro ht; rotate_right)
    | ((fail_if_success (conv => arg 3; arg 1)); extract_lets +onlyGivenNames t; subst t)
    | with_reducible apply putGq_keep
    | with_reducible apply readRange_keep
    | ((with_reducible apply readRange_keep_of); with_reducible assumption)
    | with_reducible apply Keep.ite
    | with_reducible apply KeepP.fst
    | split
    | dsimp -zeta only)

theorem execGfxSubmissionFetch_keep {M : Part → Prop} {z s : State} (h_dev : ¬ M .dev) (h_free : ¬ M .free) (h_regs : ¬ M .regs) (h_od : ¬ M .od) (h_mem : ¬ M .mem) (h_memCtl : ¬ M .memCtl) (h_pwr : ¬ M .pwr) (h_start : ¬ M .start) (h_sdg : ¬ M .sdg) (h_frz : ¬ M .frz) (h_sec : ¬ M .sec) (h_pack : ¬ M .pack) (h_gfx : ¬ M .gfx) (q : Fin 32) (hz : Keep M z s) :
    KeepN M z (execGfxSubmissionFetch q s) := by
  unfold execGfxSubmissionFetch
  repeat' (first
    | with_reducible assumption
    | with_reducible exact Keep.refl _
    | intro _
    | with_reducible apply KeepN.next
    | ((fail_if_success (conv => arg 3; arg 1)); extract_lets +onlyGivenNames t; refine KeepN.cut t ?_ ?_; subst t; rotate_left; clear_value t; intro ht; rotate_right)
    | ((fail_if_success (conv => arg 3; arg 1)); extract_lets +onlyGivenNames t; refine Keep.cut t ?_ ?_; subst t; rotate_left; clear_value t; intro ht; rotate_right)
    | ((fail_if_success (conv => arg 3; arg 1)); extract_lets +onlyGivenNames t; subst t)
    | with_reducible apply gComplete_keep
    | with_reducible apply gFetchOne_keep
    | with_reducible apply Keep.ite
    | with_reducible apply KeepN.ite
    | split
    | dsimp -zeta only)

theorem gBin_keep {M : Part → Prop} {z s : State} (h_od : ¬ M .od) (h_gfx : ¬ M .gfx) (q : Nat) (p : Nat × Nat) (hz : Keep M z s) :
    Keep M z (gBin q s p) := by
  unfold gBin
  repeat' (first
    | with_reducible assumption
    | with_reducible exact Keep.refl _
    | intro _
    | ((fail_if_success (conv => arg 3; arg 1)); extract_lets +onlyGivenNames t; refine Keep.cut t ?_ ?_; subst t; rotate_left; clear_value t; intro ht; rotate_right)
    | ((fail_if_success (conv => arg 3; arg 1)); extract_lets +onlyGivenNames t; subst t)
    | with_reducible apply odCount_keep
    | with_reducible apply updGHead_keep
    | with_reducible apply Keep.ite
    | with_reducible apply KeepP.fst
    | split
    | dsimp -zeta only)

theorem execGfxSubmissionStart_keep {M : Part → Prop} {z s : State} (h_regs : ¬ M .regs) (h_od : ¬ M .od) (h_mem : ¬ M .mem) (h_memCtl : ¬ M .memCtl) (h_sec : ¬ M .sec) (h_gfx : ¬ M .gfx) (q : Fin 32) (draw : Bool) (primitives : List (Nat × Nat)) (hz : Keep M z s) :
    KeepN M z (execGfxSubmissionStart q draw primitives s) := by
  unfold execGfxSubmissionStart
  repeat' (first
    | with_reducible assumption
    | with_reducible exact Keep.refl _
    | intro _
    | with_reducible apply KeepN.next
    | ((fail_if_success (conv => arg 3; arg 1)); extract_lets +onlyGivenNames t; refine KeepN.cut t ?_ ?_; subst t; rotate_left; clear_value t; intro ht; rotate_right)
    | ((fail_if_success (conv => arg 3; arg 1)); extract_lets +onlyGivenNames t; refine Keep.cut t ?_ ?_; subst t; rotate_left; clear_value t; intro ht; rotate_right)
    | ((fail_if_success (conv => arg 3; arg 1)); extract_lets +onlyGivenNames t; refine KeepP.cut t ?_ ?_; subst t; rotate_left; clear_value t; intro ht; rotate_right)
    | ((fail_if_success (conv => arg 3; arg 1)); extract_lets +onlyGivenNames t; subst t)
    | with_reducible apply updGHead_keep
    | with_reducible apply gEnd_keep
    | with_reducible apply gBin_keep
    | ((fail_if_success (fail_if_success (conv => arg 3; arg 39))); with_reducible apply Keep.upd_gfx)
    | with_reducible apply Keep.ite
    | with_reducible apply KeepN.ite
    | with_reducible apply Keep.foldl
    | split
    | dsimp -zeta only)

theorem gSaveContext_keep {M : Part → Prop} {z s : State} (h_free : ¬ M .free) (h_mem : ¬ M .mem) (h_memCtl : ¬ M .memCtl) (h_sec : ¬ M .sec) (q : Nat) (hz : Keep M z s) :
    Keep M z (gSaveContext q s) := by
  unfold gSaveContext
  repeat' (first
    | with_reducible assumption
    | with_reducible exact Keep.refl _
    | intro _
    | ((fail_if_success (conv => arg 3; arg 1)); extract_lets +onlyGivenNames t; refine Keep.cut t ?_ ?_; subst t; rotate_left; clear_value t; intro ht; rotate_right)
    | ((fail_if_success (conv => arg 3; arg 1)); extract_lets +onlyGivenNames t; subst t)
    | with_reducible apply takeFree_keep
    | with_reducible apply writeRange_keep
    | with_reducible apply Keep.ite
    | split
    | dsimp -zeta only)

theorem gYield_keep {M : Part → Prop} {z s : State} (h_free : ¬ M .free) (h_mem : ¬ M .mem) (h_memCtl : ¬ M .memCtl) (h_sec : ¬ M .sec) (h_gfx : ¬ M .gfx) (q : Nat) (hz : Keep M z s) :
    Keep M z (gYield q s) := by
  unfold gYield
  repeat' (first
    | with_reducible assumption
    | with_reducible exact Keep.refl _
    | intro _
    | ((fail_if_success (conv => arg 3; arg 1)); extract_lets +onlyGivenNames t; refine Keep.cut t ?_ ?_; subst t; rotate_left; clear_value t; intro ht; rotate_right)
    | ((fail_if_success (conv => arg 3; arg 1)); extract_lets +onlyGivenNames t; subst t)
    | with_reducible apply putGq_keep
    | with_reducible apply updGHead_keep
    | with_reducible apply gLeave_keep
    | with_reducible apply gSaveContext_keep
    | with_reducible apply Keep.ite
    | split
    | dsimp -zeta only)

theorem execGfxPreemptionPoint_keep {M : Part → Prop} {z s : State} (h_dev : ¬ M .dev) (h_free : ¬ M .free) (h_regs : ¬ M .regs) (h_od : ¬ M .od) (h_mem : ¬ M .mem) (h_memCtl : ¬ M .memCtl) (h_pwr : ¬ M .pwr) (h_start : ¬ M .start) (h_sdg : ¬ M .sdg) (h_frz : ¬ M .frz) (h_sec : ¬ M .sec) (h_pack : ¬ M .pack) (h_gfx : ¬ M .gfx) (q : Fin 32) (writes : List LineWrite) (hz : Keep M z s) :
    KeepN M z (execGfxPreemptionPoint q writes s) := by
  unfold execGfxPreemptionPoint
  repeat' (first
    | with_reducible assumption
    | with_reducible exact Keep.refl _
    | intro _
    | with_reducible apply KeepN.next
    | ((fail_if_success (conv => arg 3; arg 1)); extract_lets +onlyGivenNames t; refine KeepN.cut t ?_ ?_; subst t; rotate_left; clear_value t; intro ht; rotate_right)
    | ((fail_if_success (conv => arg 3; arg 1)); extract_lets +onlyGivenNames t; refine Keep.cut t ?_ ?_; subst t; rotate_left; clear_value t; intro ht; rotate_right)
    | ((fail_if_success (conv => arg 3; arg 1)); extract_lets +onlyGivenNames t; subst t)
    | with_reducible apply updGHead_keep
    | with_reducible apply gLineWrites_keep
    | ((with_reducible apply gLineWrites_keep_of); with_reducible assumption)
    | with_reducible apply gFail_keep
    | with_reducible apply gYield_keep
    | with_reducible apply Keep.ite
    | with_reducible apply KeepN.ite
    | with_reducible apply KeepP.fst
    | split
    | dsimp -zeta only)

theorem execGfxSubmissionDone_keep {M : Part → Prop} {z s : State} (h_dev : ¬ M .dev) (h_free : ¬ M .free) (h_regs : ¬ M .regs) (h_od : ¬ M .od) (h_mem : ¬ M .mem) (h_memCtl : ¬ M .memCtl) (h_pwr : ¬ M .pwr) (h_start : ¬ M .start) (h_sdg : ¬ M .sdg) (h_frz : ¬ M .frz) (h_sec : ¬ M .sec) (h_knots : ¬ M .knots) (h_pack : ¬ M .pack) (h_gfx : ¬ M .gfx) (h_slots : ¬ M .slots) (h_safeSlots : ¬ M .safeSlots) (q : Fin 32) (renderPasses : Nat) (writes : List LineWrite) (failure : Option (Nat × Nat)) (hz : Keep M z s) :
    KeepN M z (execGfxSubmissionDone q renderPasses writes failure s) := by
  unfold execGfxSubmissionDone
  repeat' (first
    | with_reducible assumption
    | with_reducible exact Keep.refl _
    | intro _
    | with_reducible apply KeepN.next
    | ((fail_if_success (conv => arg 3; arg 1)); extract_lets +onlyGivenNames t; refine KeepN.cut t ?_ ?_; subst t; rotate_left; clear_value t; intro ht; rotate_right)
    | ((fail_if_success (conv => arg 3; arg 1)); extract_lets +onlyGivenNames t; refine Keep.cut t ?_ ?_; subst t; rotate_left; clear_value t; intro ht; rotate_right)
    | ((fail_if_success (conv => arg 3; arg 1)); extract_lets +onlyGivenNames t; subst t)
    | with_reducible apply updGHead_keep
    | with_reducible apply gSignal_keep
    | with_reducible apply gLineWrites_keep
    | ((with_reducible apply gLineWrites_keep_of); with_reducible assumption)
    | with_reducible apply gFail_keep
    | with_reducible apply Keep.ite
    | with_reducible apply KeepN.ite
    | with_reducible apply KeepP.fst
    | split
    | dsimp -zeta only)

theorem execTimesliceExpiry_keep {M : Part → Prop} {z s : State} (h_now : ¬ M .now) (h_gfx : ¬ M .gfx) (h_gtime : ¬ M .gtime) (hz : Keep M z s) :
    KeepN M z (execTimesliceExpiry s) := by
  unfold execTimesliceExpiry
  repeat' (first
    | with_reducible assumption
    | with_reducible exact Keep.refl _
    | intro _
    | with_reducible apply KeepN.next
    | ((fail_if_success (conv => arg 3; arg 1)); extract_lets +onlyGivenNames t; refine KeepN.cut t ?_ ?_; subst t; rotate_left; clear_value t; intro ht; rotate_right)
    | ((fail_if_success (conv => arg 3; arg 1)); extract_lets +onlyGivenNames t; refine Keep.cut t ?_ ?_; subst t; rotate_left; clear_value t; intro ht; rotate_right)
    | ((fail_if_success (conv => arg 3; arg 1)); extract_lets +onlyGivenNames t; subst t)
    | with_reducible apply advanceTo_keep
    | ((fail_if_success (fail_if_success (conv => arg 3; arg 39))); with_reducible apply Keep.upd_gfx)
    | with_reducible apply Keep.ite
    | with_reducible apply KeepN.ite
    | split
    | dsimp -zeta only)

theorem execPreemptTimeout_keep {M : Part → Prop} {z s : State} (h_now : ¬ M .now) (h_regs : ¬ M .regs) (h_od : ¬ M .od) (h_mem : ¬ M .mem) (h_memCtl : ¬ M .memCtl) (h_sec : ¬ M .sec) (h_gfx : ¬ M .gfx) (h_gtime : ¬ M .gtime) (q : Fin 32) (hz : Keep M z s) :
    KeepN M z (execPreemptTimeout q s) := by
  unfold execPreemptTimeout
  repeat' (first
    | with_reducible assumption
    | with_reducible exact Keep.refl _
    | intro _
    | with_reducible apply KeepN.next
    | ((fail_if_success (conv => arg 3; arg 1)); extract_lets +onlyGivenNames t; refine KeepN.cut t ?_ ?_; subst t; rotate_left; clear_value t; intro ht; rotate_right)
    | ((fail_if_success (conv => arg 3; arg 1)); extract_lets +onlyGivenNames t; refine Keep.cut t ?_ ?_; subst t; rotate_left; clear_value t; intro ht; rotate_right)
    | ((fail_if_success (conv => arg 3; arg 1)); extract_lets +onlyGivenNames t; subst t)
    | with_reducible apply advanceTo_keep
    | with_reducible apply odCount_keep
    | with_reducible apply gEnd_keep
    | ((fail_if_success (fail_if_success (conv => arg 3; arg 39))); with_reducible apply Keep.upd_gfx)
    | with_reducible apply Keep.ite
    | with_reducible apply KeepN.ite
    | split
    | dsimp -zeta only)

theorem execShaderFault_keep {M : Part → Prop} {z s : State} (h_regs : ¬ M .regs) (h_od : ¬ M .od) (h_mem : ¬ M .mem) (h_memCtl : ¬ M .memCtl) (h_sec : ¬ M .sec) (h_gfx : ¬ M .gfx) (q : Fin 32) (hz : Keep M z s) :
    KeepN M z (execShaderFault q s) := by
  unfold execShaderFault
  repeat' (first
    | with_reducible assumption
    | with_reducible exact Keep.refl _
    | intro _
    | with_reducible apply KeepN.next
    | with_reducible apply odCount_keep
    | with_reducible apply gEnd_keep
    | with_reducible apply Keep.ite
    | with_reducible apply KeepN.ite
    | split
    | dsimp -zeta only)

theorem execGfxCoreStopTimeout_keep {M : Part → Prop} {z s : State} (h_dev : ¬ M .dev) (h_now : ¬ M .now) (h_regs : ¬ M .regs) (h_od : ¬ M .od) (h_pwr : ¬ M .pwr) (h_start : ¬ M .start) (h_sdg : ¬ M .sdg) (h_frz : ¬ M .frz) (h_pack : ¬ M .pack) (h_gfx : ¬ M .gfx) (h_gtime : ¬ M .gtime) (hz : Keep M z s) :
    KeepN M z (execGfxCoreStopTimeout s) := by
  unfold execGfxCoreStopTimeout
  repeat' (first
    | with_reducible assumption
    | with_reducible exact Keep.refl _
    | intro _
    | with_reducible apply KeepN.next
    | ((fail_if_success (conv => arg 3; arg 1)); extract_lets +onlyGivenNames t; refine KeepN.cut t ?_ ?_; subst t; rotate_left; clear_value t; intro ht; rotate_right)
    | ((fail_if_success (conv => arg 3; arg 1)); extract_lets +onlyGivenNames t; refine Keep.cut t ?_ ?_; subst t; rotate_left; clear_value t; intro ht; rotate_right)
    | ((fail_if_success (conv => arg 3; arg 1)); extract_lets +onlyGivenNames t; subst t)
    | with_reducible apply advanceTo_keep
    | with_reducible apply raiseAlarm_keep
    | ((fail_if_success (fail_if_success (conv => arg 3; arg 39))); with_reducible apply Keep.upd_gfx)
    | with_reducible apply Keep.ite
    | with_reducible apply KeepN.ite
    | split
    | dsimp -zeta only)

theorem gfxRevoke_keep {M : Part → Prop} {z s : State} (h_regs : ¬ M .regs) (h_mem : ¬ M .mem) (h_memCtl : ¬ M .memCtl) (h_sec : ¬ M .sec) (h_gfx : ¬ M .gfx) (k : Nat) (hz : Keep M z s) :
    Keep M z (gfxRevoke k s) := by
  unfold gfxRevoke
  repeat' (first
    | with_reducible assumption
    | with_reducible exact Keep.refl _
    | intro _
    | ((fail_if_success (conv => arg 3; arg 1)); extract_lets +onlyGivenNames t; refine Keep.cut t ?_ ?_; subst t; rotate_left; clear_value t; intro ht; rotate_right)
    | ((fail_if_success (conv => arg 3; arg 1)); extract_lets +onlyGivenNames t; refine KeepP.cut t ?_ ?_; subst t; rotate_left; clear_value t; intro ht; rotate_right)
    | ((fail_if_success (conv => arg 3; arg 1)); extract_lets +onlyGivenNames t; subst t)
    | with_reducible apply putGq_keep
    | with_reducible apply gComplete_keep
    | with_reducible apply Keep.ite
    | with_reducible apply Keep.foldl
    | split
    | dsimp -zeta only)

end Sys2Proof.Machine
end

