-- ==== Sys2Proof/Laws/KeepDisplay.lean ====
section
/-! SUPPORT. What the operations of Machine/Display.lean keep: one lemma each. -/

namespace Sys2Proof.Machine

theorem scanErrors_keep {M : Part → Prop} {z s : State} (h_dev : ¬ M .dev) (h_regs : ¬ M .regs) (h_od : ¬ M .od) (h_mem : ¬ M .mem) (h_memCtl : ¬ M .memCtl) (h_pwr : ¬ M .pwr) (h_start : ¬ M .start) (h_sdg : ¬ M .sdg) (h_frz : ¬ M .frz) (h_sec : ¬ M .sec) (h_pack : ¬ M .pack) (p : Nat) (hz : Keep M z s) :
    Keep M z (scanErrors p s) := by
  unfold scanErrors
  repeat' (first
    | with_reducible assumption
    | with_reducible exact Keep.refl _
    | intro _
    | ((fail_if_success (conv => arg 3; arg 1)); extract_lets +onlyGivenNames t; refine Keep.cut t ?_ ?_; subst t; rotate_left; clear_value t; intro ht; rotate_right)
    | ((fail_if_success (conv => arg 3; arg 1)); extract_lets +onlyGivenNames t; refine KeepP.cut t ?_ ?_; subst t; rotate_left; clear_value t; intro ht; rotate_right)
    | ((fail_if_success (conv => arg 3; arg 1)); extract_lets +onlyGivenNames t; subst t)
    | with_reducible apply granRead_keep
    | ((with_reducible apply granRead_keep_of); with_reducible assumption)
    | with_reducible apply Keep.ite
    | ((fail_if_success (conv => arg 3; arg 3)); with_reducible apply KeepP.mk')
    | with_reducible apply KeepP.foldl
    | with_reducible apply Keep.foldl
    | with_reducible apply KeepP.fst
    | split
    | dsimp -zeta only)

theorem staleFrame_keep {M : Part → Prop} {z s : State} (h_dev : ¬ M .dev) (h_regs : ¬ M .regs) (h_od : ¬ M .od) (h_pwr : ¬ M .pwr) (h_start : ¬ M .start) (h_sdg : ¬ M .sdg) (h_frz : ¬ M .frz) (h_pack : ¬ M .pack) (h_pipes : ¬ M .pipes) (p : Nat) (v : Pipe) (hz : Keep M z s) :
    Keep M z (staleFrame p v s) := by
  unfold staleFrame
  repeat' (first
    | with_reducible assumption
    | with_reducible exact Keep.refl _
    | intro _
    | ((fail_if_success (conv => arg 3; arg 1)); extract_lets +onlyGivenNames t; refine Keep.cut t ?_ ?_; subst t; rotate_left; clear_value t; intro ht; rotate_right)
    | ((fail_if_success (conv => arg 3; arg 1)); extract_lets +onlyGivenNames t; subst t)
    | with_reducible apply odCount_keep
    | with_reducible apply raiseAlarm_keep
    | with_reducible apply putPipe_keep
    | with_reducible apply Keep.ite
    | split
    | dsimp -zeta only)

theorem takeOverlay_keep {M : Part → Prop} {z s : State} (h_dev : ¬ M .dev) (h_regs : ¬ M .regs) (h_od : ¬ M .od) (h_pwr : ¬ M .pwr) (h_start : ¬ M .start) (h_sdg : ¬ M .sdg) (h_frz : ¬ M .frz) (h_pack : ¬ M .pack) (h_pipes : ¬ M .pipes) (p : Nat) (hz : Keep M z s) :
    Keep M z (takeOverlay p s) := by
  unfold takeOverlay
  repeat' (first
    | with_reducible assumption
    | with_reducible exact Keep.refl _
    | intro _
    | ((fail_if_success (conv => arg 3; arg 1)); extract_lets +onlyGivenNames t; refine Keep.cut t ?_ ?_; subst t; rotate_left; clear_value t; intro ht; rotate_right)
    | ((fail_if_success (conv => arg 3; arg 1)); extract_lets +onlyGivenNames t; subst t)
    | with_reducible apply putPipe_keep
    | with_reducible apply staleFrame_keep
    | with_reducible apply Keep.ite
    | split
    | dsimp -zeta only)

theorem takePlanes_keep {M : Part → Prop} {z s : State} (h_regs : ¬ M .regs) (h_pipes : ¬ M .pipes) (p : Nat) (hz : Keep M z s) :
    Keep M z (takePlanes p s) := by
  unfold takePlanes
  repeat' (first
    | with_reducible assumption
    | with_reducible exact Keep.refl _
    | intro _
    | ((fail_if_success (conv => arg 3; arg 1)); extract_lets +onlyGivenNames t; refine Keep.cut t ?_ ?_; subst t; rotate_left; clear_value t; intro ht; rotate_right)
    | ((fail_if_success (conv => arg 3; arg 1)); extract_lets +onlyGivenNames t; subst t)
    | with_reducible apply regUpd_keep
    | with_reducible apply putPipe_keep
    | ((fail_if_success (fail_if_success (conv => arg 3; arg 39))); with_reducible apply Keep.upd_hold)
    | with_reducible apply Keep.ite
    | split
    | dsimp -zeta only)

theorem frameSignals_keep {M : Part → Prop} {z s : State} (h_regs : ¬ M .regs) (h_knots : ¬ M .knots) (h_slots : ¬ M .slots) (h_safeSlots : ¬ M .safeSlots) (p : Nat) (hz : Keep M z s) :
    Keep M z (frameSignals p s) := by
  unfold frameSignals
  repeat' (first
    | with_reducible assumption
    | with_reducible exact Keep.refl _
    | intro _
    | ((fail_if_success (conv => arg 3; arg 1)); extract_lets +onlyGivenNames t; refine Keep.cut t ?_ ?_; subst t; rotate_left; clear_value t; intro ht; rotate_right)
    | ((fail_if_success (conv => arg 3; arg 1)); extract_lets +onlyGivenNames t; subst t)
    | with_reducible apply sendMsg_keep
    | with_reducible apply knotRaise_keep
    | with_reducible apply Keep.ite
    | split
    | dsimp -zeta only)

theorem execDispFrameStart_keep {M : Part → Prop} {z s : State} (h_dev : ¬ M .dev) (h_regs : ¬ M .regs) (h_od : ¬ M .od) (h_mem : ¬ M .mem) (h_memCtl : ¬ M .memCtl) (h_pwr : ¬ M .pwr) (h_start : ¬ M .start) (h_sdg : ¬ M .sdg) (h_frz : ¬ M .frz) (h_sec : ¬ M .sec) (h_knots : ¬ M .knots) (h_pack : ¬ M .pack) (h_pipes : ¬ M .pipes) (h_slots : ¬ M .slots) (h_safeSlots : ¬ M .safeSlots) (pipe : Fin 4) (hz : Keep M z s) :
    KeepN M z (execDispFrameStart pipe s) := by
  unfold execDispFrameStart
  repeat' (first
    | with_reducible assumption
    | with_reducible exact Keep.refl _
    | intro _
    | with_reducible apply KeepN.next
    | ((fail_if_success (conv => arg 3; arg 1)); extract_lets +onlyGivenNames t; refine KeepN.cut t ?_ ?_; subst t; rotate_left; clear_value t; intro ht; rotate_right)
    | ((fail_if_success (conv => arg 3; arg 1)); extract_lets +onlyGivenNames t; refine Keep.cut t ?_ ?_; subst t; rotate_left; clear_value t; intro ht; rotate_right)
    | ((fail_if_success (conv => arg 3; arg 1)); extract_lets +onlyGivenNames t; subst t)
    | with_reducible apply regCount64_keep
    | with_reducible apply scanErrors_keep
    | with_reducible apply takeOverlay_keep
    | with_reducible apply takePlanes_keep
    | with_reducible apply frameSignals_keep
    | with_reducible apply Keep.ite
    | with_reducible apply KeepN.ite
    | split
    | dsimp -zeta only)

theorem regionCheck_keep {M : Part → Prop} {z s : State} (h_dev : ¬ M .dev) (h_regs : ¬ M .regs) (h_od : ¬ M .od) (h_pwr : ¬ M .pwr) (h_start : ¬ M .start) (h_sdg : ¬ M .sdg) (h_frz : ¬ M .frz) (h_pack : ¬ M .pack) (p : Nat) (r : Nat) (crc : Nat) (want : Nat) (hz : Keep M z s) :
    Keep M z (regionCheck p r crc want s) := by
  unfold regionCheck
  repeat' (first
    | with_reducible assumption
    | with_reducible exact Keep.refl _
    | intro _
    | ((fail_if_success (conv => arg 3; arg 1)); extract_lets +onlyGivenNames t; refine Keep.cut t ?_ ?_; subst t; rotate_left; clear_value t; intro ht; rotate_right)
    | ((fail_if_success (conv => arg 3; arg 1)); extract_lets +onlyGivenNames t; subst t)
    | with_reducible apply regPut_keep
    | with_reducible apply regUpd_keep
    | with_reducible apply odCount_keep
    | with_reducible apply raiseAlarm_keep
    | with_reducible apply Keep.ite
    | split
    | dsimp -zeta only)

theorem execDispRegionCrc_keep {M : Part → Prop} {z s : State} (h_dev : ¬ M .dev) (h_regs : ¬ M .regs) (h_od : ¬ M .od) (h_pwr : ¬ M .pwr) (h_start : ¬ M .start) (h_sdg : ¬ M .sdg) (h_frz : ¬ M .frz) (h_pack : ¬ M .pack) (pipe : Fin 4) (region : Fin 16) (flips : List (Nat × Byte)) (hz : Keep M z s) :
    KeepN M z (execDispRegionCrc pipe region flips s) := by
  unfold execDispRegionCrc
  repeat' (first
    | with_reducible assumption
    | with_reducible exact Keep.refl _
    | intro _
    | with_reducible apply KeepN.next
    | ((fail_if_success (conv => arg 3; arg 1)); extract_lets +onlyGivenNames t; refine KeepN.cut t ?_ ?_; subst t; rotate_left; clear_value t; intro ht; rotate_right)
    | ((fail_if_success (conv => arg 3; arg 1)); extract_lets +onlyGivenNames t; refine Keep.cut t ?_ ?_; subst t; rotate_left; clear_value t; intro ht; rotate_right)
    | ((fail_if_success (conv => arg 3; arg 1)); extract_lets +onlyGivenNames t; subst t)
    | with_reducible apply regionCheck_keep
    | with_reducible apply Keep.ite
    | with_reducible apply KeepN.ite
    | split
    | dsimp -zeta only)

theorem execScanoutUnderflow_keep {M : Part → Prop} {z s : State} (h_od : ¬ M .od) (h_pipes : ¬ M .pipes) (pipe : Fin 4) (hz : Keep M z s) :
    KeepN M z (execScanoutUnderflow pipe s) := by
  unfold execScanoutUnderflow
  repeat' (first
    | with_reducible assumption
    | with_reducible exact Keep.refl _
    | intro _
    | with_reducible apply KeepN.next
    | ((fail_if_success (conv => arg 3; arg 1)); extract_lets +onlyGivenNames t; refine KeepN.cut t ?_ ?_; subst t; rotate_left; clear_value t; intro ht; rotate_right)
    | ((fail_if_success (conv => arg 3; arg 1)); extract_lets +onlyGivenNames t; refine Keep.cut t ?_ ?_; subst t; rotate_left; clear_value t; intro ht; rotate_right)
    | ((fail_if_success (conv => arg 3; arg 1)); extract_lets +onlyGivenNames t; subst t)
    | with_reducible apply odCount_keep
    | with_reducible apply putPipe_keep
    | with_reducible apply Keep.ite
    | with_reducible apply KeepN.ite
    | split
    | dsimp -zeta only)

theorem planeAddrEff_keep {M : Part → Prop} {z s : State} (h_regs : ¬ M .regs) (p : Nat) (k : Nat) (v : Nat) (hz : Keep M z s) :
    KeepW M z (planeAddrEff p k v s) := by
  unfold planeAddrEff
  repeat' (first
    | with_reducible assumption
    | with_reducible exact Keep.refl _
    | intro _
    | with_reducible apply regSetBits_keep
    | with_reducible apply genericWrite_keep
    | with_reducible apply Keep.ite
    | with_reducible apply KeepW.ite
    | with_reducible apply KeepW.done
    | with_reducible apply KeepW.denied
    | split
    | dsimp -zeta only)

theorem expCommitEff_keep {M : Part → Prop} {z s : State} (h_regs : ¬ M .regs) (h_pipes : ¬ M .pipes) (p : Nat) (v : Nat) (hz : Keep M z s) :
    KeepW M z (expCommitEff p v s) := by
  unfold expCommitEff
  repeat' (first
    | with_reducible assumption
    | with_reducible exact Keep.refl _
    | intro _
    | ((fail_if_success (conv => arg 3; arg 1)); extract_lets +onlyGivenNames t; refine KeepW.cut t ?_ ?_; subst t; rotate_left; clear_value t; intro ht; rotate_right)
    | ((fail_if_success (conv => arg 3; arg 1)); extract_lets +onlyGivenNames t; refine Keep.cut t ?_ ?_; subst t; rotate_left; clear_value t; intro ht; rotate_right)
    | ((fail_if_success (conv => arg 3; arg 1)); extract_lets +onlyGivenNames t; subst t)
    | with_reducible apply regSetBits_keep
    | with_reducible apply putPipe_keep
    | with_reducible apply Keep.ite
    | with_reducible apply KeepW.ite
    | with_reducible apply KeepW.done
    | with_reducible apply KeepW.denied
    | split
    | dsimp -zeta only)

theorem execPlaneAddrWrite_keep {M : Part → Prop} {z s : State} (h_dev : ¬ M .dev) (h_now : ¬ M .now) (h_regs : ¬ M .regs) (h_hold : ¬ M .hold) (h_od : ¬ M .od) (h_pwr : ¬ M .pwr) (h_start : ¬ M .start) (h_sdg : ¬ M .sdg) (h_frz : ¬ M .frz) (h_apps : ¬ M .apps) (h_pack : ¬ M .pack) (h_splice : ¬ M .splice) (h_gtime : ¬ M .gtime) (pipe : Fin 4) (plane : Fin 4) (acc : Access) (value : Word) (hz : Keep M z s) :
    KeepN M z (execPlaneAddrWrite pipe plane acc value s) := by
  unfold execPlaneAddrWrite
  repeat' (first
    | with_reducible assumption
    | with_reducible exact Keep.refl _
    | intro _
    | with_reducible apply KeepN.next
    | with_reducible apply regWriteWith_keep
    | with_reducible apply planeAddrEff_keep
    | split
    | dsimp -zeta only)

theorem execExpCommit_keep {M : Part → Prop} {z s : State} (h_dev : ¬ M .dev) (h_now : ¬ M .now) (h_regs : ¬ M .regs) (h_hold : ¬ M .hold) (h_od : ¬ M .od) (h_pwr : ¬ M .pwr) (h_start : ¬ M .start) (h_sdg : ¬ M .sdg) (h_frz : ¬ M .frz) (h_apps : ¬ M .apps) (h_pack : ¬ M .pack) (h_pipes : ¬ M .pipes) (h_splice : ¬ M .splice) (h_gtime : ¬ M .gtime) (pipe : Fin 4) (acc : Access) (value : Word) (hz : Keep M z s) :
    KeepN M z (execExpCommit pipe acc value s) := by
  unfold execExpCommit
  repeat' (first
    | with_reducible assumption
    | with_reducible exact Keep.refl _
    | intro _
    | with_reducible apply KeepN.next
    | with_reducible apply regWriteWith_keep
    | with_reducible apply expCommitEff_keep
    | split
    | dsimp -zeta only)

theorem pipeSet_keep {M : Part → Prop} {z s : State} (h_regs : ¬ M .regs) (h_pipes : ¬ M .pipes) (p : Nat) (v : Nat) (hz : Keep M z s) :
    Keep M z (pipeSet p v s) := by
  unfold pipeSet
  repeat' (first
    | with_reducible assumption
    | with_reducible exact Keep.refl _
    | intro _
    | ((fail_if_success (conv => arg 3; arg 1)); extract_lets +onlyGivenNames t; refine Keep.cut t ?_ ?_; subst t; rotate_left; clear_value t; intro ht; rotate_right)
    | ((fail_if_success (conv => arg 3; arg 1)); extract_lets +onlyGivenNames t; subst t)
    | with_reducible apply regUpd_keep
    | with_reducible apply putPipe_keep
    | with_reducible apply Keep.ite
    | split
    | dsimp -zeta only)

theorem dispApply_keep {M : Part → Prop} {z s : State} (h_regs : ¬ M .regs) (h_pipes : ¬ M .pipes) (k : Nat) (v : Nat) (hz : Keep M z s) :
    Keep M z (dispApply k v s) := by
  unfold dispApply
  repeat' (first
    | with_reducible assumption
    | with_reducible exact Keep.refl _
    | intro _
    | with_reducible apply pipeSet_keep
    | with_reducible apply Keep.ite
    | split
    | dsimp -zeta only)

end Sys2Proof.Machine
end

