-- ==== Sys2Proof/Laws/KeepClusters.lean ====
section
/-! SUPPORT. What the operations of Machine/Clusters.lean keep: one lemma each. -/

namespace Sys2Proof.Machine

theorem appReleaseEff_keep {M : Part → Prop} {z s : State} (h_regs : ¬ M .regs) (h_apps : ¬ M .apps) (v : Nat) (hz : Keep M z s) :
    KeepW M z (appReleaseEff v s) := by
  unfold appReleaseEff
  repeat' (first
    | with_reducible assumption
    | with_reducible exact Keep.refl _
    | intro _
    | ((fail_if_success (conv => arg 3; arg 1)); extract_lets +onlyGivenNames t; refine KeepW.cut t ?_ ?_; subst t; rotate_left; clear_value t; intro ht; rotate_right)
    | ((fail_if_success (conv => arg 3; arg 1)); extract_lets +onlyGivenNames t; refine Keep.cut t ?_ ?_; subst t; rotate_left; clear_value t; intro ht; rotate_right)
    | ((fail_if_success (conv => arg 3; arg 1)); extract_lets +onlyGivenNames t; refine KeepP.cut t ?_ ?_; subst t; rotate_left; clear_value t; intro ht; rotate_right)
    | ((fail_if_success (conv => arg 3; arg 1)); extract_lets +onlyGivenNames t; subst t)
    | with_reducible apply emit_keep
    | with_reducible apply regSetBits_keep
    | with_reducible apply putApp_keep
    | with_reducible apply Keep.ite
    | with_reducible apply KeepW.ite
    | with_reducible apply KeepW.done
    | with_reducible apply KeepW.denied
    | with_reducible apply Keep.foldl
    | split
    | dsimp -zeta only)

theorem execAppRelease_keep {M : Part → Prop} {z s : State} (h_dev : ¬ M .dev) (h_now : ¬ M .now) (h_regs : ¬ M .regs) (h_hold : ¬ M .hold) (h_od : ¬ M .od) (h_pwr : ¬ M .pwr) (h_start : ¬ M .start) (h_sdg : ¬ M .sdg) (h_frz : ¬ M .frz) (h_apps : ¬ M .apps) (h_pack : ¬ M .pack) (h_splice : ¬ M .splice) (h_gtime : ¬ M .gtime) (acc : Access) (value : Word) (hz : Keep M z s) :
    KeepN M z (execAppRelease acc value s) := by
  unfold execAppRelease
  repeat' (first
    | with_reducible assumption
    | with_reducible exact Keep.refl _
    | intro _
    | with_reducible apply KeepN.next
    | with_reducible apply regWriteWith_keep
    | with_reducible apply appReleaseEff_keep
    | split
    | dsimp -zeta only)

theorem execMworldWrite_keep {M : Part → Prop} {z s : State} (h_apps : ¬ M .apps) (core : Fin 12) (csr : Nat) (value : Word) (machineMode : Bool) (pc : Nat) (hz : Keep M z s) :
    KeepN M z (execMworldWrite core csr value machineMode pc s) := by
  unfold execMworldWrite
  repeat' (first
    | with_reducible assumption
    | with_reducible exact Keep.refl _
    | intro _
    | with_reducible apply KeepN.next
    | ((fail_if_success (conv => arg 3; arg 1)); extract_lets +onlyGivenNames t; refine KeepN.cut t ?_ ?_; subst t; rotate_left; clear_value t; intro ht; rotate_right)
    | ((fail_if_success (conv => arg 3; arg 1)); extract_lets +onlyGivenNames t; refine Keep.cut t ?_ ?_; subst t; rotate_left; clear_value t; intro ht; rotate_right)
    | ((fail_if_success (conv => arg 3; arg 1)); extract_lets +onlyGivenNames t; subst t)
    | with_reducible apply emit_keep
    | with_reducible apply putApp_keep
    | with_reducible apply coreEvent_keep
    | with_reducible apply Keep.ite
    | with_reducible apply KeepN.ite
    | split
    | dsimp -zeta only)

theorem execFilterLock_keep {M : Part → Prop} {z s : State} (h_dev : ¬ M .dev) (h_now : ¬ M .now) (h_regs : ¬ M .regs) (h_hold : ¬ M .hold) (h_od : ¬ M .od) (h_pwr : ¬ M .pwr) (h_start : ¬ M .start) (h_sdg : ¬ M .sdg) (h_frz : ¬ M .frz) (h_apps : ¬ M .apps) (h_pack : ¬ M .pack) (h_splice : ¬ M .splice) (h_gtime : ¬ M .gtime) (acc : Access) (value : Word) (hz : Keep M z s) :
    KeepN M z (execFilterLock acc value s) := by
  unfold execFilterLock
  repeat' (first
    | with_reducible assumption
    | with_reducible exact Keep.refl _
    | intro _
    | with_reducible apply KeepN.next
    | with_reducible apply genericWrite_keep
    | with_reducible apply regWriteWith_keep
    | with_reducible apply KeepW.done
    | with_reducible apply KeepW.denied
    | split
    | dsimp -zeta only)

theorem execDerivationRequest_keep {M : Part → Prop} {z s : State} (h_free : ¬ M .free) (acc : Access) (salt : List Byte) (info : List Byte) (length : Nat) (hz : Keep M z s) :
    KeepN M z (execDerivationRequest acc salt info length s) := by
  unfold execDerivationRequest
  repeat' (first
    | with_reducible assumption
    | with_reducible exact Keep.refl _
    | intro _
    | with_reducible apply KeepN.next
    | with_reducible apply emit_keep
    | with_reducible apply takeFree_keep
    | with_reducible apply Keep.ite
    | with_reducible apply KeepN.ite
    | split
    | dsimp -zeta only)

theorem execAttestationSign_keep {M : Part → Prop} {z s : State} (acc : Access) (digest : List Byte) (hz : Keep M z s) :
    KeepN M z (execAttestationSign acc digest s) := by
  unfold execAttestationSign
  repeat' (first
    | with_reducible assumption
    | with_reducible exact Keep.refl _
    | intro _
    | with_reducible apply KeepN.next
    | with_reducible apply emit_keep
    | with_reducible apply Keep.ite
    | with_reducible apply KeepN.ite
    | split
    | dsimp -zeta only)

theorem measGoEff_keep {M : Part → Prop} {z s : State} (h_regs : ¬ M .regs) (h_sec : ¬ M .sec) (v : Nat) (acc : Access) (hz : Keep M z s) :
    KeepW M z (measGoEff v acc s) := by
  unfold measGoEff
  repeat' (first
    | with_reducible assumption
    | with_reducible exact Keep.refl _
    | intro _
    | ((fail_if_success (conv => arg 3; arg 1)); extract_lets +onlyGivenNames t; refine KeepW.cut t ?_ ?_; subst t; rotate_left; clear_value t; intro ht; rotate_right)
    | ((fail_if_success (conv => arg 3; arg 1)); extract_lets +onlyGivenNames t; refine Keep.cut t ?_ ?_; subst t; rotate_left; clear_value t; intro ht; rotate_right)
    | ((fail_if_success (conv => arg 3; arg 1)); extract_lets +onlyGivenNames t; subst t)
    | with_reducible apply regPut_keep
    | ((fail_if_success (fail_if_success (conv => arg 3; arg 39))); with_reducible apply Keep.upd_sec)
    | with_reducible apply Keep.ite
    | with_reducible apply KeepW.ite
    | with_reducible apply KeepW.done
    | with_reducible apply KeepW.denied
    | split
    | dsimp -zeta only)

theorem execMeasGo_keep {M : Part → Prop} {z s : State} (h_dev : ¬ M .dev) (h_now : ¬ M .now) (h_regs : ¬ M .regs) (h_hold : ¬ M .hold) (h_od : ¬ M .od) (h_pwr : ¬ M .pwr) (h_start : ¬ M .start) (h_sdg : ¬ M .sdg) (h_frz : ¬ M .frz) (h_apps : ¬ M .apps) (h_sec : ¬ M .sec) (h_pack : ¬ M .pack) (h_splice : ¬ M .splice) (h_gtime : ¬ M .gtime) (acc : Access) (value : Word) (hz : Keep M z s) :
    KeepN M z (execMeasGo acc value s) := by
  unfold execMeasGo
  repeat' (first
    | with_reducible assumption
    | with_reducible exact Keep.refl _
    | intro _
    | with_reducible apply KeepN.next
    | with_reducible apply regWriteWith_keep
    | with_reducible apply measGoEff_keep
    | split
    | dsimp -zeta only)

theorem execMeasurementDone_keep {M : Part → Prop} {z s : State} (h_dev : ¬ M .dev) (h_now : ¬ M .now) (h_free : ¬ M .free) (h_regs : ¬ M .regs) (h_od : ¬ M .od) (h_mem : ¬ M .mem) (h_memCtl : ¬ M .memCtl) (h_pwr : ¬ M .pwr) (h_start : ¬ M .start) (h_sdg : ¬ M .sdg) (h_frz : ¬ M .frz) (h_sec : ¬ M .sec) (h_pack : ¬ M .pack) (h_gtime : ¬ M .gtime) (hz : Keep M z s) :
    KeepN M z (execMeasurementDone s) := by
  unfold execMeasurementDone
  repeat' (first
    | with_reducible assumption
    | with_reducible exact Keep.refl _
    | intro _
    | with_reducible apply KeepN.next
    | ((fail_if_success (conv => arg 3; arg 1)); extract_lets +onlyGivenNames t; refine KeepN.cut t ?_ ?_; subst t; rotate_left; clear_value t; intro ht; rotate_right)
    | ((fail_if_success (conv => arg 3; arg 1)); extract_lets +onlyGivenNames t; refine Keep.cut t ?_ ?_; subst t; rotate_left; clear_value t; intro ht; rotate_right)
    | ((fail_if_success (conv => arg 3; arg 1)); extract_lets +onlyGivenNames t; subst t)
    | with_reducible apply advanceTo_keep
    | with_reducible apply regPut_keep
    | with_reducible apply readRange_keep
    | ((with_reducible apply readRange_keep_of); with_reducible assumption)
    | ((fail_if_success (fail_if_success (conv => arg 3; arg 39))); with_reducible apply Keep.upd_sec)
    | with_reducible apply Keep.ite
    | with_reducible apply KeepN.ite
    | with_reducible apply KeepP.fst
    | split
    | dsimp -zeta only)

theorem mboxComplete_keep {M : Part → Prop} {z s : State} (h_regs : ¬ M .regs) (h_sec : ¬ M .sec) (m : Nat) (st : Nat) (hz : Keep M z s) :
    Keep M z (mboxComplete m st s) := by
  unfold mboxComplete
  repeat' (first
    | with_reducible assumption
    | with_reducible exact Keep.refl _
    | intro _
    | with_reducible apply sendMsg_keep
    | ((fail_if_success (fail_if_success (conv => arg 3; arg 39))); with_reducible apply Keep.upd_sec)
    | split
    | dsimp -zeta only)

theorem mboxDoorbellEff_keep {M : Part → Prop} {z s : State} (h_regs : ¬ M .regs) (h_sec : ¬ M .sec) (m : Nat) (v : Nat) (hz : Keep M z s) :
    KeepW M z (mboxDoorbellEff m v s) := by
  unfold mboxDoorbellEff
  repeat' (first
    | with_reducible assumption
    | with_reducible exact Keep.refl _
    | intro _
    | with_reducible apply sendMsg_keep
    | with_reducible apply mboxComplete_keep
    | ((fail_if_success (fail_if_success (conv => arg 3; arg 39))); with_reducible apply Keep.upd_sec)
    | with_reducible apply Keep.ite
    | with_reducible apply KeepW.ite
    | with_reducible apply KeepW.done
    | with_reducible apply KeepW.denied
    | split
    | dsimp -zeta only)

theorem mboxRespEff_keep {M : Part → Prop} {z s : State} (h_regs : ¬ M .regs) (h_sec : ¬ M .sec) (m : Nat) (v : Nat) (hz : Keep M z s) :
    KeepW M z (mboxRespEff m v s) := by
  unfold mboxRespEff
  repeat' (first
    | with_reducible assumption
    | with_reducible exact Keep.refl _
    | intro _
    | with_reducible apply mboxComplete_keep
    | with_reducible apply Keep.ite
    | with_reducible apply KeepW.ite
    | with_reducible apply KeepW.done
    | with_reducible apply KeepW.denied
    | split
    | dsimp -zeta only)

theorem execMboxDoorbell_keep {M : Part → Prop} {z s : State} (h_dev : ¬ M .dev) (h_now : ¬ M .now) (h_regs : ¬ M .regs) (h_hold : ¬ M .hold) (h_od : ¬ M .od) (h_pwr : ¬ M .pwr) (h_start : ¬ M .start) (h_sdg : ¬ M .sdg) (h_frz : ¬ M .frz) (h_apps : ¬ M .apps) (h_sec : ¬ M .sec) (h_pack : ¬ M .pack) (h_splice : ¬ M .splice) (h_gtime : ¬ M .gtime) (m : Fin 16) (acc : Access) (value : Word) (hz : Keep M z s) :
    KeepN M z (execMboxDoorbell m acc value s) := by
  unfold execMboxDoorbell
  repeat' (first
    | with_reducible assumption
    | with_reducible exact Keep.refl _
    | intro _
    | with_reducible apply KeepN.next
    | with_reducible apply regWriteWith_keep
    | with_reducible apply mboxDoorbellEff_keep
    | split
    | dsimp -zeta only)

theorem execMboxResp_keep {M : Part → Prop} {z s : State} (h_dev : ¬ M .dev) (h_now : ¬ M .now) (h_regs : ¬ M .regs) (h_hold : ¬ M .hold) (h_od : ¬ M .od) (h_pwr : ¬ M .pwr) (h_start : ¬ M .start) (h_sdg : ¬ M .sdg) (h_frz : ¬ M .frz) (h_apps : ¬ M .apps) (h_sec : ¬ M .sec) (h_pack : ¬ M .pack) (h_splice : ¬ M .splice) (h_gtime : ¬ M .gtime) (m : Fin 16) (acc : Access) (value : Word) (hz : Keep M z s) :
    KeepN M z (execMboxResp m acc value s) := by
  unfold execMboxResp
  repeat' (first
    | with_reducible assumption
    | with_reducible exact Keep.refl _
    | intro _
    | with_reducible apply KeepN.next
    | with_reducible apply regWriteWith_keep
    | with_reducible apply mboxRespEff_keep
    | split
    | dsimp -zeta only)

theorem twKickEff_keep {M : Part → Prop} {z s : State} (h_od : ¬ M .od) (h_sec : ¬ M .sec) (v : Nat) (acc : Access) (hz : Keep M z s) :
    KeepW M z (twKickEff v acc s) := by
  unfold twKickEff
  repeat' (first
    | with_reducible assumption
    | with_reducible exact Keep.refl _
    | intro _
    | with_reducible apply odPut_keep
    | ((fail_if_success (fail_if_success (conv => arg 3; arg 39))); with_reducible apply Keep.upd_sec)
    | with_reducible apply Keep.ite
    | with_reducible apply KeepW.ite
    | with_reducible apply KeepW.done
    | with_reducible apply KeepW.denied
    | split
    | dsimp -zeta only)

theorem execTwKick_keep {M : Part → Prop} {z s : State} (h_dev : ¬ M .dev) (h_now : ¬ M .now) (h_regs : ¬ M .regs) (h_hold : ¬ M .hold) (h_od : ¬ M .od) (h_pwr : ¬ M .pwr) (h_start : ¬ M .start) (h_sdg : ¬ M .sdg) (h_frz : ¬ M .frz) (h_apps : ¬ M .apps) (h_sec : ¬ M .sec) (h_pack : ¬ M .pack) (h_splice : ¬ M .splice) (h_gtime : ¬ M .gtime) (acc : Access) (value : Word) (hz : Keep M z s) :
    KeepN M z (execTwKick acc value s) := by
  unfold execTwKick
  repeat' (first
    | with_reducible assumption
    | with_reducible exact Keep.refl _
    | intro _
    | with_reducible apply KeepN.next
    | with_reducible apply regWriteWith_keep
    | with_reducible apply twKickEff_keep
    | split
    | dsimp -zeta only)

theorem execTrustedWdg_keep {M : Part → Prop} {z s : State} (h_dev : ¬ M .dev) (h_now : ¬ M .now) (h_regs : ¬ M .regs) (h_od : ¬ M .od) (h_pwr : ¬ M .pwr) (h_start : ¬ M .start) (h_sdg : ¬ M .sdg) (h_frz : ¬ M .frz) (h_sec : ¬ M .sec) (h_pack : ¬ M .pack) (h_gtime : ¬ M .gtime) (hz : Keep M z s) :
    KeepN M z (execTrustedWdg s) := by
  unfold execTrustedWdg
  repeat' (first
    | with_reducible assumption
    | with_reducible exact Keep.refl _
    | intro _
    | with_reducible apply KeepN.next
    | ((fail_if_success (conv => arg 3; arg 1)); extract_lets +onlyGivenNames t; refine KeepN.cut t ?_ ?_; subst t; rotate_left; clear_value t; intro ht; rotate_right)
    | ((fail_if_success (conv => arg 3; arg 1)); extract_lets +onlyGivenNames t; refine Keep.cut t ?_ ?_; subst t; rotate_left; clear_value t; intro ht; rotate_right)
    | ((fail_if_success (conv => arg 3; arg 1)); extract_lets +onlyGivenNames t; refine KeepP.cut t ?_ ?_; subst t; rotate_left; clear_value t; intro ht; rotate_right)
    | ((fail_if_success (conv => arg 3; arg 1)); extract_lets +onlyGivenNames t; subst t)
    | with_reducible apply emit_keep
    | with_reducible apply advanceTo_keep
    | with_reducible apply odPut_keep
    | with_reducible apply sendMsg_keep
    | with_reducible apply raiseAlarm_keep
    | with_reducible apply mboxComplete_keep
    | ((fail_if_success (fail_if_success (conv => arg 3; arg 39))); with_reducible apply Keep.upd_sec)
    | with_reducible apply Keep.ite
    | with_reducible apply KeepN.ite
    | with_reducible apply Keep.foldl
    | split
    | dsimp -zeta only)

theorem routePut_keep {M : Part → Prop} {z s : State} (h_regs : ¬ M .regs) (safety : Bool) (a : Nat) (w : Nat) (hz : Keep M z s) :
    Keep M z (routePut safety a w s) := by
  unfold routePut
  repeat' (first
    | with_reducible assumption
    | with_reducible exact Keep.refl _
    | intro _
    | ((fail_if_success (conv => arg 3; arg 1)); extract_lets +onlyGivenNames t; refine Keep.cut t ?_ ?_; subst t; rotate_left; clear_value t; intro ht; rotate_right)
    | ((fail_if_success (conv => arg 3; arg 1)); extract_lets +onlyGivenNames t; subst t)
    | with_reducible apply regPut_keep
    | with_reducible apply routeEvent_keep
    | with_reducible apply Keep.ite
    | split
    | dsimp -zeta only)

theorem msgRouteEff_keep {M : Part → Prop} {z s : State} (h_regs : ¬ M .regs) (src : Nat) (v : Nat) (acc : Access) (hz : Keep M z s) :
    KeepW M z (msgRouteEff src v acc s) := by
  unfold msgRouteEff
  repeat' (first
    | with_reducible assumption
    | with_reducible exact Keep.refl _
    | intro _
    | ((fail_if_success (conv => arg 3; arg 1)); extract_lets +onlyGivenNames t; refine KeepW.cut t ?_ ?_; subst t; rotate_left; clear_value t; intro ht; rotate_right)
    | ((fail_if_success (conv => arg 3; arg 1)); extract_lets +onlyGivenNames t; refine Keep.cut t ?_ ?_; subst t; rotate_left; clear_value t; intro ht; rotate_right)
    | ((fail_if_success (conv => arg 3; arg 1)); extract_lets +onlyGivenNames t; subst t)
    | with_reducible apply regSetBits_keep
    | with_reducible apply routePut_keep
    | with_reducible apply Keep.ite
    | with_reducible apply KeepW.ite
    | with_reducible apply KeepW.done
    | with_reducible apply KeepW.denied
    | split
    | dsimp -zeta only)

theorem safeRouteEff_keep {M : Part → Prop} {z s : State} (h_regs : ¬ M .regs) (e : Nat) (v : Nat) (hz : Keep M z s) :
    KeepW M z (safeRouteEff e v s) := by
  unfold safeRouteEff
  repeat' (first
    | with_reducible assumption
    | with_reducible exact Keep.refl _
    | intro _
    | ((fail_if_success (conv => arg 3; arg 1)); extract_lets +onlyGivenNames t; refine KeepW.cut t ?_ ?_; subst t; rotate_left; clear_value t; intro ht; rotate_right)
    | ((fail_if_success (conv => arg 3; arg 1)); extract_lets +onlyGivenNames t; refine Keep.cut t ?_ ?_; subst t; rotate_left; clear_value t; intro ht; rotate_right)
    | ((fail_if_success (conv => arg 3; arg 1)); extract_lets +onlyGivenNames t; subst t)
    | with_reducible apply regSetBits_keep
    | with_reducible apply routePut_keep
    | with_reducible apply Keep.ite
    | with_reducible apply KeepW.ite
    | with_reducible apply KeepW.done
    | with_reducible apply KeepW.denied
    | split
    | dsimp -zeta only)

theorem execMsgRouteWrite_keep {M : Part → Prop} {z s : State} (h_dev : ¬ M .dev) (h_now : ¬ M .now) (h_regs : ¬ M .regs) (h_hold : ¬ M .hold) (h_od : ¬ M .od) (h_pwr : ¬ M .pwr) (h_start : ¬ M .start) (h_sdg : ¬ M .sdg) (h_frz : ¬ M .frz) (h_apps : ¬ M .apps) (h_pack : ¬ M .pack) (h_splice : ¬ M .splice) (h_gtime : ¬ M .gtime) (source : Fin 4096) (acc : Access) (value : Word) (hz : Keep M z s) :
    KeepN M z (execMsgRouteWrite source acc value s) := by
  unfold execMsgRouteWrite
  repeat' (first
    | with_reducible assumption
    | with_reducible exact Keep.refl _
    | intro _
    | with_reducible apply KeepN.next
    | with_reducible apply regWriteWith_keep
    | with_reducible apply msgRouteEff_keep
    | split
    | dsimp -zeta only)

theorem packRevoke_keep {M : Part → Prop} {z s : State} (h_od : ¬ M .od) (h_pack : ¬ M .pack) (k : Nat) (hz : Keep M z s) :
    Keep M z (packRevoke k s) := by
  unfold packRevoke
  repeat' (first
    | with_reducible assumption
    | with_reducible exact Keep.refl _
    | intro _
    | with_reducible apply finish_keep
    | with_reducible apply Keep.ite
    | with_reducible apply Keep.foldl
    | split
    | dsimp -zeta only)

theorem knotApply_keep {M : Part → Prop} {z s : State} (h_regs : ¬ M .regs) (h_od : ¬ M .od) (h_mem : ¬ M .mem) (h_memCtl : ¬ M .memCtl) (h_sec : ¬ M .sec) (h_knots : ¬ M .knots) (h_pack : ¬ M .pack) (h_gfx : ¬ M .gfx) (h_slots : ¬ M .slots) (h_safeSlots : ¬ M .safeSlots) (k : Nat) (v : Nat) (s0 : State) (hz : Keep M z s) :
    Keep M z (knotApply k v s0 s) := by
  unfold knotApply
  repeat' (first
    | with_reducible assumption
    | with_reducible exact Keep.refl _
    | intro _
    | with_reducible apply slotsRevoke_keep
    | with_reducible apply gfxRevoke_keep
    | with_reducible apply packRevoke_keep
    | ((fail_if_success (fail_if_success (conv => arg 3; arg 39))); with_reducible apply Keep.upd_knots)
    | with_reducible apply Keep.ite
    | split
    | dsimp -zeta only)

theorem fuseApply_keep {M : Part → Prop} {z s : State} (h_fuses : ¬ M .fuses) (k : Nat) (v : Nat) (hz : Keep M z s) :
    Keep M z (fuseApply k v s) := by
  unfold fuseApply
  repeat' (first
    | with_reducible assumption
    | with_reducible exact Keep.refl _
    | intro _
    | ((fail_if_success (conv => arg 3; arg 1)); extract_lets +onlyGivenNames t; refine Keep.cut t ?_ ?_; subst t; rotate_left; clear_value t; intro ht; rotate_right)
    | ((fail_if_success (conv => arg 3; arg 1)); extract_lets +onlyGivenNames t; subst t)
    | exact FusesLe.splitMask _ _
    | exact FusesLe.rollback _ _
    | exact FusesLe.lifecycle _ _
    | ((fail_if_success (fail_if_success (conv => arg 3; arg 39))); with_reducible apply Keep.upd_fuses)
    | with_reducible apply Keep.ite
    | split
    | dsimp -zeta only)

end Sys2Proof.Machine
end

