-- ==== Sys2Proof/Laws/KeepGateway.lean ====
section
/-! SUPPORT. What the operations of Machine/Gateway.lean keep: one lemma each. -/

namespace Sys2Proof.Machine

theorem netDrop_keep {M : Part → Prop} {z s : State} (h_regs : ¬ M .regs) (h_od : ¬ M .od) (h_net : ¬ M .net) (sub : Nat) (n : Nat) (hz : Keep M z s) :
    Keep M z (netDrop sub n s) := by
  unfold netDrop
  repeat' (first
    | with_reducible assumption
    | with_reducible exact Keep.refl _
    | intro _
    | ((fail_if_success (conv => arg 3; arg 1)); extract_lets +onlyGivenNames t; refine Keep.cut t ?_ ?_; subst t; rotate_left; clear_value t; intro ht; rotate_right)
    | ((fail_if_success (conv => arg 3; arg 1)); extract_lets +onlyGivenNames t; subst t)
    | with_reducible apply odCount_keep
    | with_reducible apply sendMsg_keep
    | ((fail_if_success (fail_if_success (conv => arg 3; arg 39))); with_reducible apply Keep.upd_net)
    | with_reducible apply Keep.ite
    | split
    | dsimp -zeta only)

theorem meterTake_keep {M : Part → Prop} {z s : State} (h_net : ¬ M .net) (m : Nat) (hz : Keep M z s) :
    KeepP M z (meterTake m s) := by
  unfold meterTake
  repeat' (first
    | with_reducible assumption
    | with_reducible exact Keep.refl _
    | intro _
    | ((fail_if_success (conv => arg 3; arg 1)); extract_lets +onlyGivenNames t; refine KeepP.cut t ?_ ?_; subst t; rotate_left; clear_value t; intro ht; rotate_right)
    | ((fail_if_success (conv => arg 3; arg 1)); extract_lets +onlyGivenNames t; refine Keep.cut t ?_ ?_; subst t; rotate_left; clear_value t; intro ht; rotate_right)
    | ((fail_if_success (conv => arg 3; arg 1)); extract_lets +onlyGivenNames t; subst t)
    | ((fail_if_success (fail_if_success (conv => arg 3; arg 39))); with_reducible apply Keep.upd_net)
    | with_reducible apply Keep.ite
    | with_reducible apply KeepP.ite
    | ((fail_if_success (conv => arg 3; arg 3)); with_reducible apply KeepP.mk')
    | with_reducible apply KeepP.fst
    | split
    | dsimp -zeta only)

theorem meterTake_keep_of {M : Part → Prop} {m : Nat} {z s u_ : State} {o_ : Bool} (e_ : meterTake m s = (u_, o_)) (h_net : ¬ M .net)
    (hz : Keep M z s) : Keep M z u_ :=
  (meterTake_keep h_net _ hz).of e_

theorem forcePayload_keep {M : Part → Prop} {z s : State} (h_od : ¬ M .od) (f : Option Force) (l : List Byte) (hz : Keep M z s) :
    KeepP M z (forcePayload f l s) := by
  unfold forcePayload
  repeat' (first
    | with_reducible assumption
    | with_reducible exact Keep.refl _
    | intro _
    | ((fail_if_success (conv => arg 3; arg 1)); extract_lets +onlyGivenNames t; refine KeepP.cut t ?_ ?_; subst t; rotate_left; clear_value t; intro ht; rotate_right)
    | ((fail_if_success (conv => arg 3; arg 1)); extract_lets +onlyGivenNames t; refine Keep.cut t ?_ ?_; subst t; rotate_left; clear_value t; intro ht; rotate_right)
    | ((fail_if_success (conv => arg 3; arg 1)); extract_lets +onlyGivenNames t; subst t)
    | with_reducible apply odCount_keep
    | with_reducible apply Keep.ite
    | with_reducible apply KeepP.ite
    | ((fail_if_success (conv => arg 3; arg 3)); with_reducible apply KeepP.mk')
    | with_reducible apply KeepP.fst
    | split
    | dsimp -zeta only)

theorem forcePayload_keep_of {M : Part → Prop} {f : Option Force} {l : List Byte} {z s u_ : State} {o_ : List Byte} (e_ : forcePayload f l s = (u_, o_)) (h_od : ¬ M .od)
    (hz : Keep M z s) : Keep M z u_ :=
  (forcePayload_keep h_od _ _ hz).of e_

theorem ringErr_keep {M : Part → Prop} {z s : State} (h_regs : ¬ M .regs) (b : Nat) (n : Nat) (hz : Keep M z s) :
    Keep M z (ringErr b n s) := by
  unfold ringErr
  repeat' (first
    | with_reducible assumption
    | with_reducible exact Keep.refl _
    | intro _
    | with_reducible apply regSetBits_keep
    | split
    | dsimp -zeta only)

theorem ringCfg_keep {M : Part → Prop} {z s : State} (h_regs : ¬ M .regs) (b : Nat) (off : Nat) (v : Nat) (hz : Keep M z s) :
    Keep M z (ringCfg b off v s) := by
  unfold ringCfg
  repeat' (first
    | with_reducible assumption
    | with_reducible exact Keep.refl _
    | intro _
    | with_reducible apply regPut_keep
    | with_reducible apply genericWrite_keep
    | with_reducible apply ringErr_keep
    | with_reducible apply Keep.ite
    | split
    | dsimp -zeta only)

theorem ringHeadEff_keep {M : Part → Prop} {z s : State} (h_regs : ¬ M .regs) (b : Nat) (v : Nat) (hz : Keep M z s) :
    Keep M z (ringHeadEff b v s) := by
  unfold ringHeadEff
  repeat' (first
    | with_reducible assumption
    | with_reducible exact Keep.refl _
    | intro _
    | ((fail_if_success (conv => arg 3; arg 1)); extract_lets +onlyGivenNames t; refine Keep.cut t ?_ ?_; subst t; rotate_left; clear_value t; intro ht; rotate_right)
    | ((fail_if_success (conv => arg 3; arg 1)); extract_lets +onlyGivenNames t; subst t)
    | with_reducible apply regPut_keep
    | with_reducible apply ringErr_keep
    | with_reducible apply Keep.ite
    | split
    | dsimp -zeta only)

theorem rxDrop_keep {M : Part → Prop} {z s : State} (h_regs : ¬ M .regs) (c : Nat) (hz : Keep M z s) :
    Keep M z (rxDrop c s) := by
  unfold rxDrop
  repeat' (first
    | with_reducible assumption
    | with_reducible exact Keep.refl _
    | intro _
    | with_reducible apply regUpd_keep
    | split
    | dsimp -zeta only)

theorem rxWrite_keep {M : Part → Prop} {z s : State} (h_regs : ¬ M .regs) (h_mem : ¬ M .mem) (h_memCtl : ¬ M .memCtl) (h_sec : ¬ M .sec) (c : Nat) (f : CanFrame) (hz : Keep M z s) :
    Keep M z (rxWrite c f s) := by
  unfold rxWrite
  repeat' (first
    | with_reducible assumption
    | with_reducible exact Keep.refl _
    | intro _
    | ((fail_if_success (conv => arg 3; arg 1)); extract_lets +onlyGivenNames t; refine Keep.cut t ?_ ?_; subst t; rotate_left; clear_value t; intro ht; rotate_right)
    | ((fail_if_success (conv => arg 3; arg 1)); extract_lets +onlyGivenNames t; subst t)
    | with_reducible apply regPut_keep
    | with_reducible apply sendMsg_keep
    | with_reducible apply writeRange_keep
    | with_reducible apply rxDrop_keep
    | with_reducible apply Keep.ite
    | split
    | dsimp -zeta only)

theorem gwPut_keep {M : Part → Prop} {z s : State} (h_regs : ¬ M .regs) (h_od : ¬ M .od) (h_net : ¬ M .net) (h_can : ¬ M .can) (c : Nat) (o : CanOut) (hz : Keep M z s) :
    Keep M z (gwPut c o s) := by
  unfold gwPut
  repeat' (first
    | with_reducible assumption
    | with_reducible exact Keep.refl _
    | intro _
    | ((fail_if_success (conv => arg 3; arg 1)); extract_lets +onlyGivenNames t; refine Keep.cut t ?_ ?_; subst t; rotate_left; clear_value t; intro ht; rotate_right)
    | ((fail_if_success (conv => arg 3; arg 1)); extract_lets +onlyGivenNames t; subst t)
    | with_reducible apply putCan_keep
    | with_reducible apply netDrop_keep
    | with_reducible apply Keep.ite
    | split
    | dsimp -zeta only)

theorem putEgress_keep {M : Part → Prop} {z s : State} (h_net : ¬ M .net) (p : Nat) (q : Nat) (l : List EthOut) (hz : Keep M z s) :
    Keep M z (putEgress p q l s) := by
  unfold putEgress
  repeat' (first
    | with_reducible assumption
    | with_reducible exact Keep.refl _
    | intro _
    | ((fail_if_success (fail_if_success (conv => arg 3; arg 39))); with_reducible apply Keep.upd_net)
    | split
    | dsimp -zeta only)

theorem ethPut_keep {M : Part → Prop} {z s : State} (h_regs : ¬ M .regs) (h_od : ¬ M .od) (h_net : ¬ M .net) (p : Nat) (pcp : Nat) (o : EthOut) (hz : Keep M z s) :
    Keep M z (ethPut p pcp o s) := by
  unfold ethPut
  repeat' (first
    | with_reducible assumption
    | with_reducible exact Keep.refl _
    | intro _
    | with_reducible apply netDrop_keep
    | with_reducible apply putEgress_keep
    | with_reducible apply Keep.ite
    | split
    | dsimp -zeta only)

theorem encapPut_keep {M : Part → Prop} {z s : State} (h_regs : ¬ M .regs) (h_od : ¬ M .od) (h_net : ¬ M .net) (bus : Nat) (r : Rule) (f : CanFrame) (p : Nat) (hz : Keep M z s) :
    Keep M z (encapPut bus r f p s) := by
  unfold encapPut
  repeat' (first
    | with_reducible assumption
    | with_reducible exact Keep.refl _
    | intro _
    | ((fail_if_success (conv => arg 3; arg 1)); extract_lets +onlyGivenNames t; refine Keep.cut t ?_ ?_; subst t; rotate_left; clear_value t; intro ht; rotate_right)
    | ((fail_if_success (conv => arg 3; arg 1)); extract_lets +onlyGivenNames t; subst t)
    | with_reducible apply ethPut_keep
    | split
    | dsimp -zeta only)

theorem canPut_keep {M : Part → Prop} {z s : State} (h_regs : ¬ M .regs) (h_od : ¬ M .od) (h_net : ¬ M .net) (h_can : ¬ M .can) (r : Rule) (f : CanFrame) (c : Nat) (hz : Keep M z s) :
    Keep M z (canPut r f c s) := by
  unfold canPut
  repeat' (first
    | with_reducible assumption
    | with_reducible exact Keep.refl _
    | intro _
    | with_reducible apply netDrop_keep
    | with_reducible apply gwPut_keep
    | split
    | dsimp -zeta only)

theorem canCopies_keep {M : Part → Prop} {z s : State} (h_regs : ¬ M .regs) (h_od : ¬ M .od) (h_net : ¬ M .net) (h_can : ¬ M .can) (c : Nat) (r : Rule) (f : CanFrame) (hz : Keep M z s) :
    Keep M z (canCopies c r f s) := by
  unfold canCopies
  repeat' (first
    | with_reducible assumption
    | with_reducible exact Keep.refl _
    | intro _
    | ((fail_if_success (conv => arg 3; arg 1)); extract_lets +onlyGivenNames t; refine Keep.cut t ?_ ?_; subst t; rotate_left; clear_value t; intro ht; rotate_right)
    | ((fail_if_success (conv => arg 3; arg 1)); extract_lets +onlyGivenNames t; refine KeepP.cut t ?_ ?_; subst t; rotate_left; clear_value t; intro ht; rotate_right)
    | ((fail_if_success (conv => arg 3; arg 1)); extract_lets +onlyGivenNames t; subst t)
    | with_reducible apply odCount_keep
    | with_reducible apply encapPut_keep
    | with_reducible apply canPut_keep
    | ((fail_if_success (fail_if_success (conv => arg 3; arg 39))); with_reducible apply Keep.upd_net)
    | with_reducible apply Keep.ite
    | with_reducible apply Keep.foldl
    | split
    | dsimp -zeta only)

theorem canRoute_keep {M : Part → Prop} {z s : State} (h_regs : ¬ M .regs) (h_od : ¬ M .od) (h_mem : ¬ M .mem) (h_memCtl : ¬ M .memCtl) (h_sec : ¬ M .sec) (h_net : ¬ M .net) (h_can : ¬ M .can) (c : Nat) (taken : Bool) (f : CanFrame) (hz : Keep M z s) :
    Keep M z (canRoute c taken f s) := by
  unfold canRoute
  repeat' (first
    | with_reducible assumption
    | with_reducible exact Keep.refl _
    | intro _
    | ((fail_if_success (conv => arg 3; arg 1)); extract_lets +onlyGivenNames t; refine Keep.cut t ?_ ?_; subst t; rotate_left; clear_value t; intro ht; rotate_right)
    | ((fail_if_success (conv => arg 3; arg 1)); extract_lets +onlyGivenNames t; subst t)
    | with_reducible apply odCount_keep
    | with_reducible apply netDrop_keep
    | with_reducible apply meterTake_keep
    | ((with_reducible apply meterTake_keep_of); with_reducible assumption)
    | with_reducible apply rxWrite_keep
    | with_reducible apply canCopies_keep
    | with_reducible apply Keep.ite
    | with_reducible apply KeepP.fst
    | split
    | dsimp -zeta only)

theorem txComplete_keep {M : Part → Prop} {z s : State} (h_regs : ¬ M .regs) (h_mem : ¬ M .mem) (h_memCtl : ¬ M .memCtl) (h_sec : ¬ M .sec) (c : Nat) (ring : Nat) (st : Nat) (entry : List Byte) (done : Bool) (hz : Keep M z s) :
    Keep M z (txComplete c ring st entry done s) := by
  unfold txComplete
  repeat' (first
    | with_reducible assumption
    | with_reducible exact Keep.refl _
    | intro _
    | ((fail_if_success (conv => arg 3; arg 1)); extract_lets +onlyGivenNames t; refine Keep.cut t ?_ ?_; subst t; rotate_left; clear_value t; intro ht; rotate_right)
    | ((fail_if_success (conv => arg 3; arg 1)); extract_lets +onlyGivenNames t; subst t)
    | with_reducible apply regPut_keep
    | with_reducible apply sendMsg_keep
    | with_reducible apply writeRange_keep
    | with_reducible apply Keep.ite
    | split
    | dsimp -zeta only)

theorem putRingOut_keep {M : Part → Prop} {z s : State} (h_can : ¬ M .can) (c : Nat) (ring : Nat) (o : Option CanOut) (hz : Keep M z s) :
    Keep M z (putRingOut c ring o s) := by
  unfold putRingOut
  repeat' (first
    | with_reducible assumption
    | with_reducible exact Keep.refl _
    | intro _
    | ((fail_if_success (conv => arg 3; arg 1)); extract_lets +onlyGivenNames t; refine Keep.cut t ?_ ?_; subst t; rotate_left; clear_value t; intro ht; rotate_right)
    | ((fail_if_success (conv => arg 3; arg 1)); extract_lets +onlyGivenNames t; subst t)
    | with_reducible apply putCan_keep
    | with_reducible apply Keep.ite
    | split
    | dsimp -zeta only)

theorem safetyEntry_keep {M : Part → Prop} {z s : State} (h_regs : ¬ M .regs) (h_od : ¬ M .od) (h_mem : ¬ M .mem) (h_memCtl : ¬ M .memCtl) (h_sec : ¬ M .sec) (h_net : ¬ M .net) (h_can : ¬ M .can) (c : Nat) (f : CanFrame) (entry : List Byte) (hz : Keep M z s) :
    Keep M z (safetyEntry c f entry s) := by
  unfold safetyEntry
  repeat' (first
    | with_reducible assumption
    | with_reducible exact Keep.refl _
    | intro _
    | ((fail_if_success (conv => arg 3; arg 1)); extract_lets +onlyGivenNames t; refine Keep.cut t ?_ ?_; subst t; rotate_left; clear_value t; intro ht; rotate_right)
    | ((fail_if_success (conv => arg 3; arg 1)); extract_lets +onlyGivenNames t; subst t)
    | with_reducible apply odCount_keep
    | with_reducible apply netDrop_keep
    | with_reducible apply meterTake_keep
    | ((with_reducible apply meterTake_keep_of); with_reducible assumption)
    | with_reducible apply canCopies_keep
    | with_reducible apply txComplete_keep
    | with_reducible apply putRingOut_keep
    | with_reducible apply Keep.ite
    | with_reducible apply KeepP.fst
    | split
    | dsimp -zeta only)

theorem txRead_keep {M : Part → Prop} {z s : State} (h_dev : ¬ M .dev) (h_free : ¬ M .free) (h_regs : ¬ M .regs) (h_od : ¬ M .od) (h_mem : ¬ M .mem) (h_memCtl : ¬ M .memCtl) (h_pwr : ¬ M .pwr) (h_start : ¬ M .start) (h_sdg : ¬ M .sdg) (h_frz : ¬ M .frz) (h_sec : ¬ M .sec) (h_pack : ¬ M .pack) (h_net : ¬ M .net) (h_can : ¬ M .can) (c : Nat) (ring : Nat) (hz : Keep M z s) :
    Keep M z (txRead c ring s) := by
  unfold txRead
  repeat' (first
    | with_reducible assumption
    | with_reducible exact Keep.refl _
    | intro _
    | ((fail_if_success (conv => arg 3; arg 1)); extract_lets +onlyGivenNames t; refine Keep.cut t ?_ ?_; subst t; rotate_left; clear_value t; intro ht; rotate_right)
    | ((fail_if_success (conv => arg 3; arg 1)); extract_lets +onlyGivenNames t; subst t)
    | with_reducible apply readRange_keep
    | ((with_reducible apply readRange_keep_of); with_reducible assumption)
    | with_reducible apply txComplete_keep
    | with_reducible apply putRingOut_keep
    | with_reducible apply safetyEntry_keep
    | with_reducible apply Keep.ite
    | with_reducible apply KeepP.fst
    | split
    | dsimp -zeta only)

theorem txFill_keep {M : Part → Prop} (h_dev : ¬ M .dev) (h_free : ¬ M .free) (h_regs : ¬ M .regs) (h_od : ¬ M .od) (h_mem : ¬ M .mem) (h_memCtl : ¬ M .memCtl) (h_pwr : ¬ M .pwr) (h_start : ¬ M .start) (h_sdg : ¬ M .sdg) (h_frz : ¬ M .frz) (h_sec : ¬ M .sec) (h_pack : ¬ M .pack) (h_net : ¬ M .net) (h_can : ¬ M .can) (c : Nat) (ring : Nat) (n_ : Nat)  {z s : State} (hz : Keep M z s) :
    Keep M z (txFill c ring n_  s) := by
  induction n_ generalizing  z s with
  | zero => exact hz
  | succ n ih =>
    unfold txFill
    repeat' (first
      | with_reducible assumption
      | with_reducible apply ih
      | with_reducible exact Keep.refl _
      | intro _
      | ((fail_if_success (conv => arg 3; arg 1)); extract_lets +onlyGivenNames t; refine Keep.cut t ?_ ?_; subst t; rotate_left; clear_value t; intro ht; rotate_right)
      | ((fail_if_success (conv => arg 3; arg 1)); extract_lets +onlyGivenNames t; subst t)
      | with_reducible apply txRead_keep
      | with_reducible apply Keep.ite
      | split
      | dsimp -zeta only)

theorem txSettle_keep {M : Part → Prop} {z s : State} (h_dev : ¬ M .dev) (h_free : ¬ M .free) (h_regs : ¬ M .regs) (h_od : ¬ M .od) (h_mem : ¬ M .mem) (h_memCtl : ¬ M .memCtl) (h_pwr : ¬ M .pwr) (h_start : ¬ M .start) (h_sdg : ¬ M .sdg) (h_frz : ¬ M .frz) (h_sec : ¬ M .sec) (h_pack : ¬ M .pack) (h_net : ¬ M .net) (h_can : ¬ M .can) (c : Nat) (ring : Nat) (hz : Keep M z s) :
    Keep M z (txSettle c ring s) := by
  unfold txSettle
  repeat' (first
    | with_reducible assumption
    | with_reducible exact Keep.refl _
    | intro _
    | with_reducible apply txFill_keep
    | with_reducible apply Keep.ite
    | split
    | dsimp -zeta only)

theorem txFlush_keep {M : Part → Prop} {z s : State} (h_regs : ¬ M .regs) (h_mem : ¬ M .mem) (h_memCtl : ¬ M .memCtl) (h_sec : ¬ M .sec) (h_can : ¬ M .can) (c : Nat) (ring : Nat) (hz : Keep M z s) :
    Keep M z (txFlush c ring s) := by
  unfold txFlush
  repeat' (first
    | with_reducible assumption
    | with_reducible exact Keep.refl _
    | intro _
    | ((fail_if_success (conv => arg 3; arg 1)); extract_lets +onlyGivenNames t; refine Keep.cut t ?_ ?_; subst t; rotate_left; clear_value t; intro ht; rotate_right)
    | ((fail_if_success (conv => arg 3; arg 1)); extract_lets +onlyGivenNames t; subst t)
    | with_reducible apply putCan_keep
    | with_reducible apply txComplete_keep
    | with_reducible apply putRingOut_keep
    | with_reducible apply Keep.ite
    | with_reducible apply Keep.iterate
    | with_reducible apply KeepP.fst
    | split
    | dsimp -zeta only)

theorem canRingEff_keep {M : Part → Prop} {z s : State} (h_dev : ¬ M .dev) (h_free : ¬ M .free) (h_regs : ¬ M .regs) (h_od : ¬ M .od) (h_mem : ¬ M .mem) (h_memCtl : ¬ M .memCtl) (h_pwr : ¬ M .pwr) (h_start : ¬ M .start) (h_sdg : ¬ M .sdg) (h_frz : ¬ M .frz) (h_sec : ¬ M .sec) (h_pack : ¬ M .pack) (h_net : ¬ M .net) (h_can : ¬ M .can) (c : Nat) (ring : Nat) (off : Nat) (v : Nat) (hz : Keep M z s) :
    KeepW M z (canRingEff c ring off v s) := by
  unfold canRingEff
  repeat' (first
    | with_reducible assumption
    | with_reducible exact Keep.refl _
    | intro _
    | ((fail_if_success (conv => arg 3; arg 1)); extract_lets +onlyGivenNames t; refine KeepW.cut t ?_ ?_; subst t; rotate_left; clear_value t; intro ht; rotate_right)
    | ((fail_if_success (conv => arg 3; arg 1)); extract_lets +onlyGivenNames t; refine Keep.cut t ?_ ?_; subst t; rotate_left; clear_value t; intro ht; rotate_right)
    | ((fail_if_success (conv => arg 3; arg 1)); extract_lets +onlyGivenNames t; subst t)
    | with_reducible apply regPut_keep
    | with_reducible apply genericWrite_keep
    | with_reducible apply ringErr_keep
    | with_reducible apply ringCfg_keep
    | with_reducible apply ringHeadEff_keep
    | with_reducible apply txSettle_keep
    | with_reducible apply txFlush_keep
    | with_reducible apply Keep.ite
    | with_reducible apply KeepW.ite
    | with_reducible apply KeepW.done
    | with_reducible apply KeepW.denied
    | split
    | dsimp -zeta only)

theorem execCanTxDoorbell_keep {M : Part → Prop} {z s : State} (h_dev : ¬ M .dev) (h_now : ¬ M .now) (h_free : ¬ M .free) (h_regs : ¬ M .regs) (h_hold : ¬ M .hold) (h_od : ¬ M .od) (h_mem : ¬ M .mem) (h_memCtl : ¬ M .memCtl) (h_pwr : ¬ M .pwr) (h_start : ¬ M .start) (h_sdg : ¬ M .sdg) (h_frz : ¬ M .frz) (h_apps : ¬ M .apps) (h_sec : ¬ M .sec) (h_pack : ¬ M .pack) (h_net : ¬ M .net) (h_can : ¬ M .can) (h_splice : ¬ M .splice) (h_gtime : ¬ M .gtime) (c : Fin 12) (safety : Bool) (acc : Access) (tail : Nat) (hz : Keep M z s) :
    KeepN M z (execCanTxDoorbell c safety acc tail s) := by
  unfold execCanTxDoorbell
  repeat' (first
    | with_reducible assumption
    | with_reducible exact Keep.refl _
    | intro _
    | with_reducible apply KeepN.next
    | ((fail_if_success (conv => arg 3; arg 1)); extract_lets +onlyGivenNames t; refine KeepN.cut t ?_ ?_; subst t; rotate_left; clear_value t; intro ht; rotate_right)
    | ((fail_if_success (conv => arg 3; arg 1)); extract_lets +onlyGivenNames t; refine Keep.cut t ?_ ?_; subst t; rotate_left; clear_value t; intro ht; rotate_right)
    | ((fail_if_success (conv => arg 3; arg 1)); extract_lets +onlyGivenNames t; subst t)
    | with_reducible apply regWriteWith_keep
    | with_reducible apply canRingEff_keep
    | with_reducible apply Keep.ite
    | with_reducible apply KeepN.ite
    | split
    | dsimp -zeta only)

theorem execCanTransmitStart_keep {M : Part → Prop} {z s : State} (h_od : ¬ M .od) (h_sdg : ¬ M .sdg) (h_can : ¬ M .can) (c : Fin 12) (hz : Keep M z s) :
    KeepN M z (execCanTransmitStart c s) := by
  unfold execCanTransmitStart
  repeat' (first
    | with_reducible assumption
    | with_reducible exact Keep.refl _
    | intro _
    | with_reducible apply KeepN.next
    | ((fail_if_success (conv => arg 3; arg 1)); extract_lets +onlyGivenNames t; refine KeepN.cut t ?_ ?_; subst t; rotate_left; clear_value t; intro ht; rotate_right)
    | ((fail_if_success (conv => arg 3; arg 1)); extract_lets +onlyGivenNames t; refine Keep.cut t ?_ ?_; subst t; rotate_left; clear_value t; intro ht; rotate_right)
    | ((fail_if_success (conv => arg 3; arg 1)); extract_lets +onlyGivenNames t; subst t)
    | with_reducible apply emit_keep
    | with_reducible apply putCan_keep
    | with_reducible apply ssStart_keep
    | with_reducible apply forcePayload_keep
    | ((with_reducible apply forcePayload_keep_of); with_reducible assumption)
    | with_reducible apply Keep.ite
    | with_reducible apply KeepN.ite
    | with_reducible apply KeepP.fst
    | split
    | dsimp -zeta only)

theorem execCanTxDone_keep {M : Part → Prop} {z s : State} (h_dev : ¬ M .dev) (h_free : ¬ M .free) (h_regs : ¬ M .regs) (h_od : ¬ M .od) (h_mem : ¬ M .mem) (h_memCtl : ¬ M .memCtl) (h_pwr : ¬ M .pwr) (h_start : ¬ M .start) (h_sdg : ¬ M .sdg) (h_frz : ¬ M .frz) (h_sec : ¬ M .sec) (h_pack : ¬ M .pack) (h_net : ¬ M .net) (h_can : ¬ M .can) (c : Fin 12) (hz : Keep M z s) :
    KeepN M z (execCanTxDone c s) := by
  unfold execCanTxDone
  repeat' (first
    | with_reducible assumption
    | with_reducible exact Keep.refl _
    | intro _
    | with_reducible apply KeepN.next
    | ((fail_if_success (conv => arg 3; arg 1)); extract_lets +onlyGivenNames t; refine KeepN.cut t ?_ ?_; subst t; rotate_left; clear_value t; intro ht; rotate_right)
    | ((fail_if_success (conv => arg 3; arg 1)); extract_lets +onlyGivenNames t; refine Keep.cut t ?_ ?_; subst t; rotate_left; clear_value t; intro ht; rotate_right)
    | ((fail_if_success (conv => arg 3; arg 1)); extract_lets +onlyGivenNames t; subst t)
    | with_reducible apply putCan_keep
    | with_reducible apply ssStart_keep
    | with_reducible apply txComplete_keep
    | with_reducible apply putRingOut_keep
    | with_reducible apply txSettle_keep
    | with_reducible apply Keep.ite
    | with_reducible apply KeepN.ite
    | split
    | dsimp -zeta only)

theorem setCanState_keep {M : Part → Prop} {z s : State} (h_od : ¬ M .od) (h_can : ¬ M .can) (c : Nat) (st : Nat) (hz : Keep M z s) :
    Keep M z (setCanState c st s) := by
  unfold setCanState
  repeat' (first
    | with_reducible assumption
    | with_reducible exact Keep.refl _
    | intro _
    | with_reducible apply odPut_keep
    | with_reducible apply putCan_keep
    | split
    | dsimp -zeta only)

theorem execBusOff_keep {M : Part → Prop} {z s : State} (h_dev : ¬ M .dev) (h_regs : ¬ M .regs) (h_od : ¬ M .od) (h_pwr : ¬ M .pwr) (h_start : ¬ M .start) (h_sdg : ¬ M .sdg) (h_frz : ¬ M .frz) (h_pack : ¬ M .pack) (h_net : ¬ M .net) (h_can : ¬ M .can) (c : Fin 12) (hz : Keep M z s) :
    KeepN M z (execBusOff c s) := by
  unfold execBusOff
  repeat' (first
    | with_reducible assumption
    | with_reducible exact Keep.refl _
    | intro _
    | with_reducible apply KeepN.next
    | ((fail_if_success (conv => arg 3; arg 1)); extract_lets +onlyGivenNames t; refine KeepN.cut t ?_ ?_; subst t; rotate_left; clear_value t; intro ht; rotate_right)
    | ((fail_if_success (conv => arg 3; arg 1)); extract_lets +onlyGivenNames t; refine Keep.cut t ?_ ?_; subst t; rotate_left; clear_value t; intro ht; rotate_right)
    | ((fail_if_success (conv => arg 3; arg 1)); extract_lets +onlyGivenNames t; subst t)
    | with_reducible apply odCount_keep
    | with_reducible apply sendMsg_keep
    | with_reducible apply putCan_keep
    | with_reducible apply ssAgain_keep
    | with_reducible apply raiseAlarm_keep
    | with_reducible apply netDrop_keep
    | with_reducible apply setCanState_keep
    | with_reducible apply Keep.ite
    | with_reducible apply KeepN.ite
    | split
    | dsimp -zeta only)

theorem execBusOffRecovered_keep {M : Part → Prop} {z s : State} (h_dev : ¬ M .dev) (h_free : ¬ M .free) (h_regs : ¬ M .regs) (h_od : ¬ M .od) (h_mem : ¬ M .mem) (h_memCtl : ¬ M .memCtl) (h_pwr : ¬ M .pwr) (h_start : ¬ M .start) (h_sdg : ¬ M .sdg) (h_frz : ¬ M .frz) (h_sec : ¬ M .sec) (h_pack : ¬ M .pack) (h_net : ¬ M .net) (h_can : ¬ M .can) (c : Fin 12) (hz : Keep M z s) :
    KeepN M z (execBusOffRecovered c s) := by
  unfold execBusOffRecovered
  repeat' (first
    | with_reducible assumption
    | with_reducible exact Keep.refl _
    | intro _
    | with_reducible apply KeepN.next
    | ((fail_if_success (conv => arg 3; arg 1)); extract_lets +onlyGivenNames t; refine KeepN.cut t ?_ ?_; subst t; rotate_left; clear_value t; intro ht; rotate_right)
    | ((fail_if_success (conv => arg 3; arg 1)); extract_lets +onlyGivenNames t; refine Keep.cut t ?_ ?_; subst t; rotate_left; clear_value t; intro ht; rotate_right)
    | ((fail_if_success (conv => arg 3; arg 1)); extract_lets +onlyGivenNames t; subst t)
    | with_reducible apply putCan_keep
    | with_reducible apply ssStart_keep
    | with_reducible apply txSettle_keep
    | with_reducible apply setCanState_keep
    | with_reducible apply Keep.ite
    | with_reducible apply KeepN.ite
    | split
    | dsimp -zeta only)

theorem canRecoverNow_keep {M : Part → Prop} {z s : State} (h_od : ¬ M .od) (h_can : ¬ M .can) (c : Nat) (hz : Keep M z s) :
    Keep M z (canRecoverNow c s) := by
  unfold canRecoverNow
  repeat' (first
    | with_reducible assumption
    | with_reducible exact Keep.refl _
    | intro _
    | with_reducible apply setCanState_keep
    | with_reducible apply Keep.ite
    | split
    | dsimp -zeta only)

theorem putTp_keep {M : Part → Prop} {z s : State} (h_can : ¬ M .can) (c : Nat) (i : Nat) (x : Option TpSession) (hz : Keep M z s) :
    Keep M z (putTp c i x s) := by
  unfold putTp
  repeat' (first
    | with_reducible assumption
    | with_reducible exact Keep.refl _
    | intro _
    | ((fail_if_success (conv => arg 3; arg 1)); extract_lets +onlyGivenNames t; refine Keep.cut t ?_ ?_; subst t; rotate_left; clear_value t; intro ht; rotate_right)
    | ((fail_if_success (conv => arg 3; arg 1)); extract_lets +onlyGivenNames t; subst t)
    | with_reducible apply putCan_keep
    | split
    | dsimp -zeta only)

theorem tpSend_keep {M : Part → Prop} {z s : State} (h_regs : ¬ M .regs) (h_od : ¬ M .od) (h_net : ¬ M .net) (h_can : ¬ M .can) (c : Nat) (f : CanFrame) (hz : Keep M z s) :
    Keep M z (tpSend c f s) := by
  unfold tpSend
  repeat' (first
    | with_reducible assumption
    | with_reducible exact Keep.refl _
    | intro _
    | with_reducible apply gwPut_keep
    | split
    | dsimp -zeta only)

theorem tpAbort_keep {M : Part → Prop} {z s : State} (h_regs : ¬ M .regs) (h_od : ¬ M .od) (h_net : ¬ M .net) (h_can : ¬ M .can) (c : Nat) (kind : Nat) (sa : Nat) (da : Nat) (pgn : Nat) (reason : Nat) (hz : Keep M z s) :
    Keep M z (tpAbort c kind sa da pgn reason s) := by
  unfold tpAbort
  repeat' (first
    | with_reducible assumption
    | with_reducible exact Keep.refl _
    | intro _
    | with_reducible apply tpSend_keep
    | split
    | dsimp -zeta only)

theorem tpCts_keep {M : Part → Prop} {z s : State} (h_regs : ¬ M .regs) (h_od : ¬ M .od) (h_net : ¬ M .net) (h_can : ¬ M .can) (c : Nat) (i : Nat) (x : TpSession) (hz : Keep M z s) :
    Keep M z (tpCts c i x s) := by
  unfold tpCts
  repeat' (first
    | with_reducible assumption
    | with_reducible exact Keep.refl _
    | intro _
    | ((fail_if_success (conv => arg 3; arg 1)); extract_lets +onlyGivenNames t; refine Keep.cut t ?_ ?_; subst t; rotate_left; clear_value t; intro ht; rotate_right)
    | ((fail_if_success (conv => arg 3; arg 1)); extract_lets +onlyGivenNames t; subst t)
    | with_reducible apply putTp_keep
    | with_reducible apply tpSend_keep
    | with_reducible apply Keep.ite
    | split
    | dsimp -zeta only)

theorem tpRecord_keep {M : Part → Prop} {z s : State} (h_regs : ¬ M .regs) (h_mem : ¬ M .mem) (h_memCtl : ¬ M .memCtl) (h_sec : ¬ M .sec) (c : Nat) (st : Nat) (x : TpSession) (hz : Keep M z s) :
    Keep M z (tpRecord c st x s) := by
  unfold tpRecord
  repeat' (first
    | with_reducible assumption
    | with_reducible exact Keep.refl _
    | intro _
    | ((fail_if_success (conv => arg 3; arg 1)); extract_lets +onlyGivenNames t; refine Keep.cut t ?_ ?_; subst t; rotate_left; clear_value t; intro ht; rotate_right)
    | ((fail_if_success (conv => arg 3; arg 1)); extract_lets +onlyGivenNames t; subst t)
    | with_reducible apply regPut_keep
    | with_reducible apply sendMsg_keep
    | with_reducible apply writeRange_keep
    | with_reducible apply rxDrop_keep
    | with_reducible apply Keep.ite
    | split
    | dsimp -zeta only)

theorem tpFree_keep {M : Part → Prop} {z s : State} (h_can : ¬ M .can) (c : Nat) (k : Nat) (hz : Keep M z s) :
    Keep M z (tpFree c k s) := by
  unfold tpFree
  repeat' (first
    | with_reducible assumption
    | with_reducible exact Keep.refl _
    | intro _
    | with_reducible apply putCan_keep
    | split
    | dsimp -zeta only)

theorem tpEnd_keep {M : Part → Prop} {z s : State} (h_regs : ¬ M .regs) (h_mem : ¬ M .mem) (h_memCtl : ¬ M .memCtl) (h_sec : ¬ M .sec) (h_can : ¬ M .can) (c : Nat) (i : Nat) (x : TpSession) (hz : Keep M z s) :
    Keep M z (tpEnd c i x s) := by
  unfold tpEnd
  repeat' (first
    | with_reducible assumption
    | with_reducible exact Keep.refl _
    | intro _
    | with_reducible apply putTp_keep
    | with_reducible apply tpRecord_keep
    | with_reducible apply tpFree_keep
    | split
    | dsimp -zeta only)

theorem tpOpen_keep {M : Part → Prop} {z s : State} (h_regs : ¬ M .regs) (h_od : ¬ M .od) (h_net : ¬ M .net) (h_can : ¬ M .can) (c : Nat) (kind : Nat) (size : Nat) (pgn : Nat) (most : Nat) (f : CanFrame) (hz : Keep M z s) :
    Keep M z (tpOpen c kind size pgn most f s) := by
  unfold tpOpen
  repeat' (first
    | with_reducible assumption
    | with_reducible exact Keep.refl _
    | intro _
    | ((fail_if_success (conv => arg 3; arg 1)); extract_lets +onlyGivenNames t; refine Keep.cut t ?_ ?_; subst t; rotate_left; clear_value t; intro ht; rotate_right)
    | ((fail_if_success (conv => arg 3; arg 1)); extract_lets +onlyGivenNames t; subst t)
    | with_reducible apply putCan_keep
    | with_reducible apply putTp_keep
    | with_reducible apply tpAbort_keep
    | with_reducible apply tpCts_keep
    | with_reducible apply tpFree_keep
    | with_reducible apply Keep.ite
    | split
    | dsimp -zeta only)

theorem tpComplete_keep {M : Part → Prop} {z s : State} (h_regs : ¬ M .regs) (h_od : ¬ M .od) (h_mem : ¬ M .mem) (h_memCtl : ¬ M .memCtl) (h_sec : ¬ M .sec) (h_net : ¬ M .net) (h_can : ¬ M .can) (c : Nat) (i : Nat) (x : TpSession) (hz : Keep M z s) :
    Keep M z (tpComplete c i x s) := by
  unfold tpComplete
  repeat' (first
    | with_reducible assumption
    | with_reducible exact Keep.refl _
    | intro _
    | ((fail_if_success (conv => arg 3; arg 1)); extract_lets +onlyGivenNames t; refine Keep.cut t ?_ ?_; subst t; rotate_left; clear_value t; intro ht; rotate_right)
    | ((fail_if_success (conv => arg 3; arg 1)); extract_lets +onlyGivenNames t; subst t)
    | with_reducible apply writeRange_keep
    | with_reducible apply putTp_keep
    | with_reducible apply tpSend_keep
    | with_reducible apply tpRecord_keep
    | with_reducible apply Keep.ite
    | split
    | dsimp -zeta only)

theorem tpData_keep {M : Part → Prop} {z s : State} (h_regs : ¬ M .regs) (h_od : ¬ M .od) (h_mem : ¬ M .mem) (h_memCtl : ¬ M .memCtl) (h_sec : ¬ M .sec) (h_net : ¬ M .net) (h_can : ¬ M .can) (c : Nat) (i : Nat) (x : TpSession) (f : CanFrame) (hz : Keep M z s) :
    Keep M z (tpData c i x f s) := by
  unfold tpData
  repeat' (first
    | with_reducible assumption
    | with_reducible exact Keep.refl _
    | intro _
    | ((fail_if_success (conv => arg 3; arg 1)); extract_lets +onlyGivenNames t; refine Keep.cut t ?_ ?_; subst t; rotate_left; clear_value t; intro ht; rotate_right)
    | ((fail_if_success (conv => arg 3; arg 1)); extract_lets +onlyGivenNames t; subst t)
    | with_reducible apply putTp_keep
    | with_reducible apply tpAbort_keep
    | with_reducible apply tpCts_keep
    | with_reducible apply tpEnd_keep
    | with_reducible apply tpComplete_keep
    | ((fail_if_success (fail_if_success (conv => arg 3; arg 39))); with_reducible apply Keep.upd_gtime)
    | with_reducible apply Keep.ite
    | split
    | dsimp -zeta only)

theorem tpHandle_keep {M : Part → Prop} {z s : State} (h_regs : ¬ M .regs) (h_od : ¬ M .od) (h_mem : ¬ M .mem) (h_memCtl : ¬ M .memCtl) (h_sec : ¬ M .sec) (h_net : ¬ M .net) (h_can : ¬ M .can) (c : Nat) (f : CanFrame) (hz : Keep M z s) :
    Keep M z (tpHandle c f s) := by
  unfold tpHandle
  repeat' (first
    | with_reducible assumption
    | with_reducible exact Keep.refl _
    | intro _
    | ((fail_if_success (conv => arg 3; arg 1)); extract_lets +onlyGivenNames t; refine Keep.cut t ?_ ?_; subst t; rotate_left; clear_value t; intro ht; rotate_right)
    | ((fail_if_success (conv => arg 3; arg 1)); extract_lets +onlyGivenNames t; subst t)
    | with_reducible apply putTp_keep
    | with_reducible apply tpEnd_keep
    | with_reducible apply tpOpen_keep
    | with_reducible apply tpData_keep
    | with_reducible apply Keep.ite
    | split
    | dsimp -zeta only)

theorem canReceive_keep {M : Part → Prop} {z s : State} (h_regs : ¬ M .regs) (h_od : ¬ M .od) (h_mem : ¬ M .mem) (h_memCtl : ¬ M .memCtl) (h_sec : ¬ M .sec) (h_net : ¬ M .net) (h_can : ¬ M .can) (c : Nat) (f : CanFrame) (hz : Keep M z s) :
    Keep M z (canReceive c f s) := by
  unfold canReceive
  repeat' (first
    | with_reducible assumption
    | with_reducible exact Keep.refl _
    | intro _
    | ((fail_if_success (conv => arg 3; arg 1)); extract_lets +onlyGivenNames t; refine Keep.cut t ?_ ?_; subst t; rotate_left; clear_value t; intro ht; rotate_right)
    | ((fail_if_success (conv => arg 3; arg 1)); extract_lets +onlyGivenNames t; subst t)
    | with_reducible apply putCan_keep
    | with_reducible apply canRoute_keep
    | with_reducible apply tpHandle_keep
    | with_reducible apply Keep.ite
    | split
    | dsimp -zeta only)

theorem execCanFrameRx_keep {M : Part → Prop} {z s : State} (h_regs : ¬ M .regs) (h_od : ¬ M .od) (h_mem : ¬ M .mem) (h_memCtl : ¬ M .memCtl) (h_sec : ¬ M .sec) (h_net : ¬ M .net) (h_can : ¬ M .can) (c : Fin 12) (frame : CanFrame) (hz : Keep M z s) :
    KeepN M z (execCanFrameRx c frame s) := by
  unfold execCanFrameRx
  repeat' (first
    | with_reducible assumption
    | with_reducible exact Keep.refl _
    | intro _
    | with_reducible apply KeepN.next
    | with_reducible apply canReceive_keep
    | split
    | dsimp -zeta only)

theorem execTpCmRts_keep {M : Part → Prop} {z s : State} (h_regs : ¬ M .regs) (h_od : ¬ M .od) (h_mem : ¬ M .mem) (h_memCtl : ¬ M .memCtl) (h_sec : ¬ M .sec) (h_net : ¬ M .net) (h_can : ¬ M .can) (c : Fin 12) (frame : CanFrame) (hz : Keep M z s) :
    KeepN M z (execTpCmRts c frame s) := by
  unfold execTpCmRts
  repeat' (first
    | with_reducible assumption
    | with_reducible exact Keep.refl _
    | intro _
    | with_reducible apply KeepN.next
    | with_reducible apply canReceive_keep
    | split
    | dsimp -zeta only)

theorem execTpCmBam_keep {M : Part → Prop} {z s : State} (h_regs : ¬ M .regs) (h_od : ¬ M .od) (h_mem : ¬ M .mem) (h_memCtl : ¬ M .memCtl) (h_sec : ¬ M .sec) (h_net : ¬ M .net) (h_can : ¬ M .can) (c : Fin 12) (frame : CanFrame) (hz : Keep M z s) :
    KeepN M z (execTpCmBam c frame s) := by
  unfold execTpCmBam
  repeat' (first
    | with_reducible assumption
    | with_reducible exact Keep.refl _
    | intro _
    | with_reducible apply KeepN.next
    | with_reducible apply canReceive_keep
    | split
    | dsimp -zeta only)

theorem execTpDt_keep {M : Part → Prop} {z s : State} (h_regs : ¬ M .regs) (h_od : ¬ M .od) (h_mem : ¬ M .mem) (h_memCtl : ¬ M .memCtl) (h_sec : ¬ M .sec) (h_net : ¬ M .net) (h_can : ¬ M .can) (c : Fin 12) (frame : CanFrame) (hz : Keep M z s) :
    KeepN M z (execTpDt c frame s) := by
  unfold execTpDt
  repeat' (first
    | with_reducible assumption
    | with_reducible exact Keep.refl _
    | intro _
    | with_reducible apply KeepN.next
    | with_reducible apply canReceive_keep
    | split
    | dsimp -zeta only)

theorem execTpTimeout_keep {M : Part → Prop} {z s : State} (h_now : ¬ M .now) (h_regs : ¬ M .regs) (h_od : ¬ M .od) (h_mem : ¬ M .mem) (h_memCtl : ¬ M .memCtl) (h_sec : ¬ M .sec) (h_net : ¬ M .net) (h_can : ¬ M .can) (h_gtime : ¬ M .gtime) (c : Fin 12) (session : Fin 8) (hz : Keep M z s) :
    KeepN M z (execTpTimeout c session s) := by
  unfold execTpTimeout
  repeat' (first
    | with_reducible assumption
    | with_reducible exact Keep.refl _
    | intro _
    | with_reducible apply KeepN.next
    | ((fail_if_success (conv => arg 3; arg 1)); extract_lets +onlyGivenNames t; refine KeepN.cut t ?_ ?_; subst t; rotate_left; clear_value t; intro ht; rotate_right)
    | ((fail_if_success (conv => arg 3; arg 1)); extract_lets +onlyGivenNames t; refine Keep.cut t ?_ ?_; subst t; rotate_left; clear_value t; intro ht; rotate_right)
    | ((fail_if_success (conv => arg 3; arg 1)); extract_lets +onlyGivenNames t; subst t)
    | with_reducible apply advanceTo_keep
    | with_reducible apply tpAbort_keep
    | with_reducible apply tpEnd_keep
    | with_reducible apply Keep.ite
    | with_reducible apply KeepN.ite
    | split
    | dsimp -zeta only)

theorem tpReleaseEff_keep {M : Part → Prop} {z s : State} (h_can : ¬ M .can) (c : Nat) (v : Nat) (hz : Keep M z s) :
    KeepW M z (tpReleaseEff c v s) := by
  unfold tpReleaseEff
  repeat' (first
    | with_reducible assumption
    | with_reducible exact Keep.refl _
    | intro _
    | with_reducible apply tpFree_keep
    | with_reducible apply Keep.ite
    | with_reducible apply KeepW.ite
    | with_reducible apply KeepW.done
    | with_reducible apply KeepW.denied
    | split
    | dsimp -zeta only)

theorem execTpRelease_keep {M : Part → Prop} {z s : State} (h_dev : ¬ M .dev) (h_now : ¬ M .now) (h_regs : ¬ M .regs) (h_hold : ¬ M .hold) (h_od : ¬ M .od) (h_pwr : ¬ M .pwr) (h_start : ¬ M .start) (h_sdg : ¬ M .sdg) (h_frz : ¬ M .frz) (h_apps : ¬ M .apps) (h_pack : ¬ M .pack) (h_can : ¬ M .can) (h_splice : ¬ M .splice) (h_gtime : ¬ M .gtime) (c : Fin 12) (acc : Access) (value : Word) (hz : Keep M z s) :
    KeepN M z (execTpRelease c acc value s) := by
  unfold execTpRelease
  repeat' (first
    | with_reducible assumption
    | with_reducible exact Keep.refl _
    | intro _
    | with_reducible apply KeepN.next
    | with_reducible apply regWriteWith_keep
    | with_reducible apply tpReleaseEff_keep
    | split
    | dsimp -zeta only)

end Sys2Proof.Machine
end

