-- ==== Sys2Proof/Laws/KeepSwitch.lean ====
section
/-! SUPPORT. What the operations of Machine/Switch.lean keep: one lemma each. -/

namespace Sys2Proof.Machine

theorem streamDrop_keep {M : Part → Prop} {z s : State} (h_regs : ¬ M .regs) (i : Nat) (hz : Keep M z s) :
    Keep M z (streamDrop i s) := by
  unfold streamDrop
  repeat' (first
    | with_reducible assumption
    | with_reducible exact Keep.refl _
    | intro _
    | with_reducible apply regCount_keep
    | split
    | dsimp -zeta only)

theorem streamCb_keep {M : Part → Prop} {z s : State} (h_net : ¬ M .net) (i : Nat) (f : EthFrame) (hz : Keep M z s) :
    KeepP M z (streamCb i f s) := by
  unfold streamCb
  repeat' (first
    | with_reducible assumption
    | with_reducible exact Keep.refl _
    | intro _
    | ((fail_if_success (conv => arg 3; arg 1)); extract_lets +onlyGivenNames t; refine KeepP.cut t ?_ ?_; subst t; rotate_left; clear_value t; intro ht; rotate_right)
    | ((fail_if_success (conv => arg 3; arg 1)); extract_lets +onlyGivenNames t; refine Keep.cut t ?_ ?_; subst t; rotate_left; clear_value t; intro ht; rotate_right)
    | ((fail_if_success (conv => arg 3; arg 1)); extract_lets +onlyGivenNames t; subst t)
    | ((fail_if_success (fail_if_success (conv => arg 3; arg 39))); with_reducible apply Keep.upd_net)
    | with_reducible apply Keep.ite
    | with_reducible apply KeepP.ite
    | ((fail_if_success (conv => arg 3; arg 3)); with_reducible apply KeepP.mk')
    | with_reducible apply KeepP.fst
    | split
    | dsimp -zeta only)

theorem streamCb_keep_of {M : Part → Prop} {i : Nat} {f : EthFrame} {z s u_ : State} {o_ : Option EthFrame} (e_ : streamCb i f s = (u_, o_)) (h_net : ¬ M .net)
    (hz : Keep M z s) : Keep M z u_ :=
  (streamCb_keep h_net _ _ hz).of e_

theorem ethFilter_keep {M : Part → Prop} {z s : State} (h_regs : ¬ M .regs) (h_net : ¬ M .net) (p : Nat) (f : EthFrame) (hz : Keep M z s) :
    KeepP M z (ethFilter p f s) := by
  unfold ethFilter
  repeat' (first
    | with_reducible assumption
    | with_reducible exact Keep.refl _
    | intro _
    | ((fail_if_success (conv => arg 3; arg 1)); extract_lets +onlyGivenNames t; refine KeepP.cut t ?_ ?_; subst t; rotate_left; clear_value t; intro ht; rotate_right)
    | ((fail_if_success (conv => arg 3; arg 1)); extract_lets +onlyGivenNames t; refine Keep.cut t ?_ ?_; subst t; rotate_left; clear_value t; intro ht; rotate_right)
    | ((fail_if_success (conv => arg 3; arg 1)); extract_lets +onlyGivenNames t; subst t)
    | with_reducible apply streamDrop_keep
    | with_reducible apply streamCb_keep
    | ((with_reducible apply streamCb_keep_of); with_reducible assumption)
    | ((fail_if_success (fail_if_success (conv => arg 3; arg 39))); with_reducible apply Keep.upd_net)
    | with_reducible apply Keep.ite
    | with_reducible apply KeepP.ite
    | ((fail_if_success (conv => arg 3; arg 3)); with_reducible apply KeepP.mk')
    | with_reducible apply KeepP.fst
    | split
    | dsimp -zeta only)

theorem ethFilter_keep_of {M : Part → Prop} {p : Nat} {f : EthFrame} {z s u_ : State} {o_ : Option EthFrame} (e_ : ethFilter p f s = (u_, o_)) (h_regs : ¬ M .regs) (h_net : ¬ M .net)
    (hz : Keep M z s) : Keep M z u_ :=
  (ethFilter_keep h_regs h_net _ _ hz).of e_

theorem execCbRecoveryReset_keep {M : Part → Prop} {z s : State} (h_now : ¬ M .now) (h_net : ¬ M .net) (h_gtime : ¬ M .gtime) (entry : Fin 512) (hz : Keep M z s) :
    KeepN M z (execCbRecoveryReset entry s) := by
  unfold execCbRecoveryReset
  repeat' (first
    | with_reducible assumption
    | with_reducible exact Keep.refl _
    | intro _
    | with_reducible apply KeepN.next
    | ((fail_if_success (conv => arg 3; arg 1)); extract_lets +onlyGivenNames t; refine KeepN.cut t ?_ ?_; subst t; rotate_left; clear_value t; intro ht; rotate_right)
    | ((fail_if_success (conv => arg 3; arg 1)); extract_lets +onlyGivenNames t; refine Keep.cut t ?_ ?_; subst t; rotate_left; clear_value t; intro ht; rotate_right)
    | ((fail_if_success (conv => arg 3; arg 1)); extract_lets +onlyGivenNames t; subst t)
    | with_reducible apply advanceTo_keep
    | ((fail_if_success (fail_if_success (conv => arg 3; arg 39))); with_reducible apply Keep.upd_net)
    | with_reducible apply Keep.ite
    | with_reducible apply KeepN.ite
    | split
    | dsimp -zeta only)

theorem decapGap_keep {M : Part → Prop} {z s : State} (h_regs : ¬ M .regs) (h_net : ¬ M .net) (r : Rule) (seq : Nat) (hz : Keep M z s) :
    Keep M z (decapGap r seq s) := by
  unfold decapGap
  repeat' (first
    | with_reducible assumption
    | with_reducible exact Keep.refl _
    | intro _
    | ((fail_if_success (conv => arg 3; arg 1)); extract_lets +onlyGivenNames t; refine Keep.cut t ?_ ?_; subst t; rotate_left; clear_value t; intro ht; rotate_right)
    | ((fail_if_success (conv => arg 3; arg 1)); extract_lets +onlyGivenNames t; refine KeepP.cut t ?_ ?_; subst t; rotate_left; clear_value t; intro ht; rotate_right)
    | ((fail_if_success (conv => arg 3; arg 1)); extract_lets +onlyGivenNames t; subst t)
    | with_reducible apply regUpd_keep
    | ((fail_if_success (fail_if_success (conv => arg 3; arg 39))); with_reducible apply Keep.upd_net)
    | with_reducible apply Keep.ite
    | with_reducible apply Keep.foldl
    | split
    | dsimp -zeta only)

theorem decapMessage_keep {M : Part → Prop} {z s : State} (h_regs : ¬ M .regs) (h_od : ¬ M .od) (h_net : ¬ M .net) (h_can : ¬ M .can) (r : Rule) (m : Option CanFrame) (hz : Keep M z s) :
    Keep M z (decapMessage r m s) := by
  unfold decapMessage
  repeat' (first
    | with_reducible assumption
    | with_reducible exact Keep.refl _
    | intro _
    | with_reducible apply odCount_keep
    | with_reducible apply netDrop_keep
    | with_reducible apply canPut_keep
    | with_reducible apply Keep.ite
    | with_reducible apply Keep.foldl
    | split
    | dsimp -zeta only)

theorem decap_keep {M : Part → Prop} {z s : State} (h_regs : ¬ M .regs) (h_od : ¬ M .od) (h_net : ¬ M .net) (h_can : ¬ M .can) (r : Rule) (f : EthFrame) (hz : Keep M z s) :
    Keep M z (decap r f s) := by
  unfold decap
  repeat' (first
    | with_reducible assumption
    | with_reducible exact Keep.refl _
    | intro _
    | with_reducible apply decapGap_keep
    | with_reducible apply decapMessage_keep
    | with_reducible apply Keep.foldl
    | split
    | dsimp -zeta only)

theorem ethRoute_keep {M : Part → Prop} {z s : State} (h_regs : ¬ M .regs) (h_od : ¬ M .od) (h_net : ¬ M .net) (h_can : ¬ M .can) (p : Nat) (pcp : Nat) (f : EthFrame) (hz : Keep M z s) :
    KeepP M z (ethRoute p pcp f s) := by
  unfold ethRoute
  repeat' (first
    | with_reducible assumption
    | with_reducible exact Keep.refl _
    | intro _
    | ((fail_if_success (conv => arg 3; arg 1)); extract_lets +onlyGivenNames t; refine KeepP.cut t ?_ ?_; subst t; rotate_left; clear_value t; intro ht; rotate_right)
    | ((fail_if_success (conv => arg 3; arg 1)); extract_lets +onlyGivenNames t; refine Keep.cut t ?_ ?_; subst t; rotate_left; clear_value t; intro ht; rotate_right)
    | ((fail_if_success (conv => arg 3; arg 1)); extract_lets +onlyGivenNames t; subst t)
    | with_reducible apply odCount_keep
    | with_reducible apply netDrop_keep
    | with_reducible apply meterTake_keep
    | ((with_reducible apply meterTake_keep_of); with_reducible assumption)
    | with_reducible apply ethPut_keep
    | with_reducible apply decap_keep
    | with_reducible apply Keep.ite
    | with_reducible apply KeepP.ite
    | ((fail_if_success (conv => arg 3; arg 3)); with_reducible apply KeepP.mk')
    | with_reducible apply KeepP.foldl
    | with_reducible apply Keep.foldl
    | with_reducible apply KeepP.fst
    | split
    | dsimp -zeta only)

theorem ethRoute_keep_of {M : Part → Prop} {p : Nat} {pcp : Nat} {f : EthFrame} {z s u_ : State} {o_ : Nat} (e_ : ethRoute p pcp f s = (u_, o_)) (h_regs : ¬ M .regs) (h_od : ¬ M .od) (h_net : ¬ M .net) (h_can : ¬ M .can)
    (hz : Keep M z s) : Keep M z u_ :=
  (ethRoute_keep h_regs h_od h_net h_can _ _ _ hz).of e_

theorem oversize_keep {M : Part → Prop} {z s : State} (h_regs : ¬ M .regs) (p : Nat) (hz : Keep M z s) :
    Keep M z (oversize p s) := by
  unfold oversize
  repeat' (first
    | with_reducible assumption
    | with_reducible exact Keep.refl _
    | intro _
    | with_reducible apply regUpd_keep
    | split
    | dsimp -zeta only)

theorem portDeliver_keep {M : Part → Prop} {z s : State} (h_dev : ¬ M .dev) (h_free : ¬ M .free) (h_regs : ¬ M .regs) (h_od : ¬ M .od) (h_mem : ¬ M .mem) (h_memCtl : ¬ M .memCtl) (h_pwr : ¬ M .pwr) (h_start : ¬ M .start) (h_sdg : ¬ M .sdg) (h_frz : ¬ M .frz) (h_sec : ¬ M .sec) (h_pack : ¬ M .pack) (h_net : ¬ M .net) (p : Nat) (pcp : Nat) (o : EthOut) (hz : Keep M z s) :
    Keep M z (portDeliver p pcp o s) := by
  unfold portDeliver
  repeat' (first
    | with_reducible assumption
    | with_reducible exact Keep.refl _
    | intro _
    | ((fail_if_success (conv => arg 3; arg 1)); extract_lets +onlyGivenNames t; refine Keep.cut t ?_ ?_; subst t; rotate_left; clear_value t; intro ht; rotate_right)
    | ((fail_if_success (conv => arg 3; arg 1)); extract_lets +onlyGivenNames t; subst t)
    | with_reducible apply regPut_keep
    | with_reducible apply sendMsg_keep
    | with_reducible apply readRange_keep
    | ((with_reducible apply readRange_keep_of); with_reducible assumption)
    | with_reducible apply writeRange_keep
    | with_reducible apply netDrop_keep
    | with_reducible apply Keep.ite
    | with_reducible apply KeepP.fst
    | split
    | dsimp -zeta only)

theorem portComplete_keep {M : Part → Prop} {z s : State} (h_regs : ¬ M .regs) (h_mem : ¬ M .mem) (h_memCtl : ¬ M .memCtl) (h_sec : ¬ M .sec) (p : Nat) (r : Nat) (st : Nat) (d : List Byte) (hz : Keep M z s) :
    Keep M z (portComplete p r st d s) := by
  unfold portComplete
  repeat' (first
    | with_reducible assumption
    | with_reducible exact Keep.refl _
    | intro _
    | ((fail_if_success (conv => arg 3; arg 1)); extract_lets +onlyGivenNames t; refine Keep.cut t ?_ ?_; subst t; rotate_left; clear_value t; intro ht; rotate_right)
    | ((fail_if_success (conv => arg 3; arg 1)); extract_lets +onlyGivenNames t; subst t)
    | with_reducible apply regPut_keep
    | with_reducible apply sendMsg_keep
    | with_reducible apply writeRange_keep
    | with_reducible apply Keep.ite
    | split
    | dsimp -zeta only)

theorem portFrame_keep {M : Part → Prop} {z s : State} (h_free : ¬ M .free) (h_regs : ¬ M .regs) (h_od : ¬ M .od) (h_net : ¬ M .net) (h_can : ¬ M .can) (p : Nat) (pcp : Nat) (l : List Byte) (hz : Keep M z s) :
    KeepP M z (portFrame p pcp l s) := by
  unfold portFrame
  repeat' (first
    | with_reducible assumption
    | with_reducible exact Keep.refl _
    | intro _
    | with_reducible apply takeFree_keep
    | with_reducible apply ethFilter_keep
    | ((with_reducible apply ethFilter_keep_of); with_reducible assumption)
    | with_reducible apply ethRoute_keep
    | ((with_reducible apply ethRoute_keep_of); with_reducible assumption)
    | with_reducible apply oversize_keep
    | with_reducible apply Keep.ite
    | with_reducible apply KeepP.ite
    | ((fail_if_success (conv => arg 3; arg 3)); with_reducible apply KeepP.mk')
    | with_reducible apply KeepP.fst
    | split
    | dsimp -zeta only)

theorem portFrame_keep_of {M : Part → Prop} {p : Nat} {pcp : Nat} {l : List Byte} {z s u_ : State} {o_ : Nat} (e_ : portFrame p pcp l s = (u_, o_)) (h_free : ¬ M .free) (h_regs : ¬ M .regs) (h_od : ¬ M .od) (h_net : ¬ M .net) (h_can : ¬ M .can)
    (hz : Keep M z s) : Keep M z u_ :=
  (portFrame_keep h_free h_regs h_od h_net h_can _ _ _ hz).of e_

theorem portSend_keep {M : Part → Prop} {z s : State} (h_dev : ¬ M .dev) (h_free : ¬ M .free) (h_regs : ¬ M .regs) (h_od : ¬ M .od) (h_mem : ¬ M .mem) (h_memCtl : ¬ M .memCtl) (h_pwr : ¬ M .pwr) (h_start : ¬ M .start) (h_sdg : ¬ M .sdg) (h_frz : ¬ M .frz) (h_sec : ¬ M .sec) (h_pack : ¬ M .pack) (h_net : ¬ M .net) (h_can : ¬ M .can) (p : Nat) (r : Nat) (hz : Keep M z s) :
    Keep M z (portSend p r s) := by
  unfold portSend
  repeat' (first
    | with_reducible assumption
    | with_reducible exact Keep.refl _
    | intro _
    | ((fail_if_success (conv => arg 3; arg 1)); extract_lets +onlyGivenNames t; refine Keep.cut t ?_ ?_; subst t; rotate_left; clear_value t; intro ht; rotate_right)
    | ((fail_if_success (conv => arg 3; arg 1)); extract_lets +onlyGivenNames t; subst t)
    | with_reducible apply readRange_keep
    | ((with_reducible apply readRange_keep_of); with_reducible assumption)
    | with_reducible apply portComplete_keep
    | with_reducible apply portFrame_keep
    | ((with_reducible apply portFrame_keep_of); with_reducible assumption)
    | with_reducible apply Keep.ite
    | with_reducible apply KeepP.fst
    | split
    | dsimp -zeta only)

theorem portDrain_keep {M : Part → Prop} (h_dev : ¬ M .dev) (h_free : ¬ M .free) (h_regs : ¬ M .regs) (h_od : ¬ M .od) (h_mem : ¬ M .mem) (h_memCtl : ¬ M .memCtl) (h_pwr : ¬ M .pwr) (h_start : ¬ M .start) (h_sdg : ¬ M .sdg) (h_frz : ¬ M .frz) (h_sec : ¬ M .sec) (h_pack : ¬ M .pack) (h_net : ¬ M .net) (h_can : ¬ M .can) (p : Nat) (r : Nat) (n_ : Nat)  {z s : State} (hz : Keep M z s) :
    Keep M z (portDrain p r n_  s) := by
  induction n_ generalizing  z s with
  | zero => exact hz
  | succ n ih =>
    unfold portDrain
    repeat' (first
      | with_reducible assumption
      | with_reducible apply ih
      | with_reducible exact Keep.refl _
      | intro _
      | with_reducible apply portSend_keep
      | with_reducible apply Keep.ite
      | split
      | dsimp -zeta only)

theorem portFlush_keep {M : Part → Prop} {z s : State} (h_regs : ¬ M .regs) (h_mem : ¬ M .mem) (h_memCtl : ¬ M .memCtl) (h_sec : ¬ M .sec) (p : Nat) (r : Nat) (hz : Keep M z s) :
    Keep M z (portFlush p r s) := by
  unfold portFlush
  repeat' (first
    | with_reducible assumption
    | with_reducible exact Keep.refl _
    | intro _
    | ((fail_if_success (conv => arg 3; arg 1)); extract_lets +onlyGivenNames t; refine Keep.cut t ?_ ?_; subst t; rotate_left; clear_value t; intro ht; rotate_right)
    | ((fail_if_success (conv => arg 3; arg 1)); extract_lets +onlyGivenNames t; subst t)
    | with_reducible apply portComplete_keep
    | with_reducible apply Keep.ite
    | with_reducible apply Keep.iterate
    | split
    | dsimp -zeta only)

theorem portRingEff_keep {M : Part → Prop} {z s : State} (h_dev : ¬ M .dev) (h_free : ¬ M .free) (h_regs : ¬ M .regs) (h_od : ¬ M .od) (h_mem : ¬ M .mem) (h_memCtl : ¬ M .memCtl) (h_pwr : ¬ M .pwr) (h_start : ¬ M .start) (h_sdg : ¬ M .sdg) (h_frz : ¬ M .frz) (h_sec : ¬ M .sec) (h_pack : ¬ M .pack) (h_net : ¬ M .net) (h_can : ¬ M .can) (p : Nat) (r : Nat) (off : Nat) (v : Nat) (acc : Access) (hz : Keep M z s) :
    KeepW M z (portRingEff p r off v acc s) := by
  unfold portRingEff
  repeat' (first
    | with_reducible assumption
    | with_reducible exact Keep.refl _
    | intro _
    | ((fail_if_success (conv => arg 3; arg 1)); extract_lets +onlyGivenNames t; refine KeepW.cut t ?_ ?_; subst t; rotate_left; clear_value t; intro ht; rotate_right)
    | ((fail_if_success (conv => arg 3; arg 1)); extract_lets +onlyGivenNames t; refine Keep.cut t ?_ ?_; subst t; rotate_left; clear_value t; intro ht; rotate_right)
    | ((fail_if_success (conv => arg 3; arg 1)); extract_lets +onlyGivenNames t; subst t)
    | with_reducible apply regPut_keep
    | with_reducible apply genericWrite_keep
    | with_reducible apply ringErr_keep
    | with_reducible apply ringCfg_keep
    | with_reducible apply ringHeadEff_keep
    | with_reducible apply portDrain_keep
    | with_reducible apply portFlush_keep
    | with_reducible apply Keep.ite
    | with_reducible apply KeepW.ite
    | with_reducible apply KeepW.done
    | with_reducible apply KeepW.denied
    | split
    | dsimp -zeta only)

theorem execInternalTxDoorbell_keep {M : Part → Prop} {z s : State} (h_dev : ¬ M .dev) (h_now : ¬ M .now) (h_free : ¬ M .free) (h_regs : ¬ M .regs) (h_hold : ¬ M .hold) (h_od : ¬ M .od) (h_mem : ¬ M .mem) (h_memCtl : ¬ M .memCtl) (h_pwr : ¬ M .pwr) (h_start : ¬ M .start) (h_sdg : ¬ M .sdg) (h_frz : ¬ M .frz) (h_apps : ¬ M .apps) (h_sec : ¬ M .sec) (h_pack : ¬ M .pack) (h_net : ¬ M .net) (h_can : ¬ M .can) (h_splice : ¬ M .splice) (h_gtime : ¬ M .gtime) (port : Fin 2) (ring : Fin 4) (acc : Access) (tail : Nat) (hz : Keep M z s) :
    KeepN M z (execInternalTxDoorbell port ring acc tail s) := by
  unfold execInternalTxDoorbell
  repeat' (first
    | with_reducible assumption
    | with_reducible exact Keep.refl _
    | intro _
    | with_reducible apply KeepN.next
    | ((fail_if_success (conv => arg 3; arg 1)); extract_lets +onlyGivenNames t; refine KeepN.cut t ?_ ?_; subst t; rotate_left; clear_value t; intro ht; rotate_right)
    | ((fail_if_success (conv => arg 3; arg 1)); extract_lets +onlyGivenNames t; refine Keep.cut t ?_ ?_; subst t; rotate_left; clear_value t; intro ht; rotate_right)
    | ((fail_if_success (conv => arg 3; arg 1)); extract_lets +onlyGivenNames t; subst t)
    | with_reducible apply regWriteWith_keep
    | with_reducible apply portRingEff_keep
    | split
    | dsimp -zeta only)

theorem setPtp_keep {M : Part → Prop} {z s : State} (h_regs : ¬ M .regs) (h_od : ¬ M .od) (h_net : ¬ M .net) (st : Nat) (hz : Keep M z s) :
    Keep M z (setPtp st s) := by
  unfold setPtp
  repeat' (first
    | with_reducible assumption
    | with_reducible exact Keep.refl _
    | intro _
    | with_reducible apply odPut_keep
    | with_reducible apply sendMsg_keep
    | ((fail_if_success (fail_if_success (conv => arg 3; arg 39))); with_reducible apply Keep.upd_net)
    | with_reducible apply Keep.ite
    | split
    | dsimp -zeta only)

theorem gtimeStep_keep {M : Part → Prop} {z s : State} (h_od : ¬ M .od) (h_gtime : ¬ M .gtime) (d : Int) (hz : Keep M z s) :
    Keep M z (gtimeStep d s) := by
  unfold gtimeStep
  repeat' (first
    | with_reducible assumption
    | with_reducible exact Keep.refl _
    | intro _
    | with_reducible apply odCount_keep
    | ((fail_if_success (fail_if_success (conv => arg 3; arg 39))); with_reducible apply Keep.upd_gtime)
    | split
    | dsimp -zeta only)

theorem gtimeStepDue_keep {M : Part → Prop} {z s : State} (h_od : ¬ M .od) (h_net : ¬ M .net) (h_gtime : ¬ M .gtime) (d : Int) (hz : Keep M z s) :
    Keep M z (gtimeStepDue d s) := by
  unfold gtimeStepDue
  repeat' (first
    | with_reducible assumption
    | with_reducible exact Keep.refl _
    | intro _
    | with_reducible apply gtimeStep_keep
    | ((fail_if_success (fail_if_success (conv => arg 3; arg 39))); with_reducible apply Keep.upd_net)
    | with_reducible apply Keep.ite
    | split
    | dsimp -zeta only)

theorem execGptpSync_keep {M : Part → Prop} {z s : State} (h_free : ¬ M .free) (h_regs : ¬ M .regs) (h_od : ¬ M .od) (h_net : ¬ M .net) (h_gtime : ¬ M .gtime) (port : Fin 10) (offsetNs : Int) (hz : Keep M z s) :
    KeepN M z (execGptpSync port offsetNs s) := by
  unfold execGptpSync
  repeat' (first
    | with_reducible assumption
    | with_reducible exact Keep.refl _
    | intro _
    | with_reducible apply KeepN.next
    | ((fail_if_success (conv => arg 3; arg 1)); extract_lets +onlyGivenNames t; refine KeepN.cut t ?_ ?_; subst t; rotate_left; clear_value t; intro ht; rotate_right)
    | ((fail_if_success (conv => arg 3; arg 1)); extract_lets +onlyGivenNames t; refine Keep.cut t ?_ ?_; subst t; rotate_left; clear_value t; intro ht; rotate_right)
    | ((fail_if_success (conv => arg 3; arg 1)); extract_lets +onlyGivenNames t; subst t)
    | with_reducible apply takeFree_keep
    | with_reducible apply setPtp_keep
    | with_reducible apply gtimeStepDue_keep
    | ((fail_if_success (fail_if_success (conv => arg 3; arg 39))); with_reducible apply Keep.upd_net)
    | with_reducible apply Keep.ite
    | with_reducible apply KeepN.ite
    | split
    | dsimp -zeta only)

theorem enterHoldover_keep {M : Part → Prop} {z s : State} (h_dev : ¬ M .dev) (h_regs : ¬ M .regs) (h_od : ¬ M .od) (h_pwr : ¬ M .pwr) (h_start : ¬ M .start) (h_sdg : ¬ M .sdg) (h_frz : ¬ M .frz) (h_pack : ¬ M .pack) (h_net : ¬ M .net) (hz : Keep M z s) :
    Keep M z (enterHoldover s) := by
  unfold enterHoldover
  repeat' (first
    | with_reducible assumption
    | with_reducible exact Keep.refl _
    | intro _
    | with_reducible apply odCount_keep
    | with_reducible apply raiseAlarm_keep
    | with_reducible apply setPtp_keep
    | ((fail_if_success (fail_if_success (conv => arg 3; arg 39))); with_reducible apply Keep.upd_net)
    | with_reducible apply Keep.ite
    | split
    | dsimp -zeta only)

theorem execSyncLoss_keep {M : Part → Prop} {z s : State} (h_dev : ¬ M .dev) (h_now : ¬ M .now) (h_regs : ¬ M .regs) (h_od : ¬ M .od) (h_pwr : ¬ M .pwr) (h_start : ¬ M .start) (h_sdg : ¬ M .sdg) (h_frz : ¬ M .frz) (h_pack : ¬ M .pack) (h_net : ¬ M .net) (h_gtime : ¬ M .gtime) (hz : Keep M z s) :
    KeepN M z (execSyncLoss s) := by
  unfold execSyncLoss
  repeat' (first
    | with_reducible assumption
    | with_reducible exact Keep.refl _
    | intro _
    | with_reducible apply KeepN.next
    | with_reducible apply advanceTo_keep
    | with_reducible apply enterHoldover_keep
    | with_reducible apply Keep.ite
    | with_reducible apply KeepN.ite
    | split
    | dsimp -zeta only)

theorem execHoldover100ms_keep {M : Part → Prop} {z s : State} (h_now : ¬ M .now) (h_net : ¬ M .net) (h_gtime : ¬ M .gtime) (hz : Keep M z s) :
    KeepN M z (execHoldover100ms s) := by
  unfold execHoldover100ms
  repeat' (first
    | with_reducible assumption
    | with_reducible exact Keep.refl _
    | intro _
    | with_reducible apply KeepN.next
    | ((fail_if_success (conv => arg 3; arg 1)); extract_lets +onlyGivenNames t; refine KeepN.cut t ?_ ?_; subst t; rotate_left; clear_value t; intro ht; rotate_right)
    | ((fail_if_success (conv => arg 3; arg 1)); extract_lets +onlyGivenNames t; refine Keep.cut t ?_ ?_; subst t; rotate_left; clear_value t; intro ht; rotate_right)
    | ((fail_if_success (conv => arg 3; arg 1)); extract_lets +onlyGivenNames t; subst t)
    | with_reducible apply advanceTo_keep
    | ((fail_if_success (fail_if_success (conv => arg 3; arg 39))); with_reducible apply Keep.upd_net)
    | with_reducible apply Keep.ite
    | with_reducible apply KeepN.ite
    | split
    | dsimp -zeta only)

theorem execGrandmasterSync_keep {M : Part → Prop} {z s : State} (h_now : ¬ M .now) (h_net : ¬ M .net) (h_gtime : ¬ M .gtime) (hz : Keep M z s) :
    KeepN M z (execGrandmasterSync s) := by
  unfold execGrandmasterSync
  repeat' (first
    | with_reducible assumption
    | with_reducible exact Keep.refl _
    | intro _
    | with_reducible apply KeepN.next
    | ((fail_if_success (conv => arg 3; arg 1)); extract_lets +onlyGivenNames t; refine KeepN.cut t ?_ ?_; subst t; rotate_left; clear_value t; intro ht; rotate_right)
    | ((fail_if_success (conv => arg 3; arg 1)); extract_lets +onlyGivenNames t; refine Keep.cut t ?_ ?_; subst t; rotate_left; clear_value t; intro ht; rotate_right)
    | ((fail_if_success (conv => arg 3; arg 1)); extract_lets +onlyGivenNames t; refine KeepP.cut t ?_ ?_; subst t; rotate_left; clear_value t; intro ht; rotate_right)
    | ((fail_if_success (conv => arg 3; arg 1)); extract_lets +onlyGivenNames t; subst t)
    | with_reducible apply emit_keep
    | with_reducible apply advanceTo_keep
    | ((fail_if_success (fail_if_success (conv => arg 3; arg 39))); with_reducible apply Keep.upd_net)
    | with_reducible apply Keep.ite
    | with_reducible apply KeepN.ite
    | with_reducible apply Keep.foldl
    | split
    | dsimp -zeta only)

theorem linkDown_keep {M : Part → Prop} {z s : State} (h_dev : ¬ M .dev) (h_regs : ¬ M .regs) (h_od : ¬ M .od) (h_pwr : ¬ M .pwr) (h_start : ¬ M .start) (h_sdg : ¬ M .sdg) (h_frz : ¬ M .frz) (h_pack : ¬ M .pack) (h_net : ¬ M .net) (p : Nat) (hz : Keep M z s) :
    Keep M z (linkDown p s) := by
  unfold linkDown
  repeat' (first
    | with_reducible assumption
    | with_reducible exact Keep.refl _
    | intro _
    | ((fail_if_success (conv => arg 3; arg 1)); extract_lets +onlyGivenNames t; refine Keep.cut t ?_ ?_; subst t; rotate_left; clear_value t; intro ht; rotate_right)
    | ((fail_if_success (conv => arg 3; arg 1)); extract_lets +onlyGivenNames t; subst t)
    | with_reducible apply enterHoldover_keep
    | ((fail_if_success (fail_if_success (conv => arg 3; arg 39))); with_reducible apply Keep.upd_net)
    | with_reducible apply Keep.ite
    | split
    | dsimp -zeta only)

theorem linkUp_keep {M : Part → Prop} {z s : State} (h_net : ¬ M .net) (p : Nat) (hz : Keep M z s) :
    Keep M z (linkUp p s) := by
  unfold linkUp
  repeat' (first
    | with_reducible assumption
    | with_reducible exact Keep.refl _
    | intro _
    | ((fail_if_success (fail_if_success (conv => arg 3; arg 39))); with_reducible apply Keep.upd_net)
    | split
    | dsimp -zeta only)

theorem gateArm_keep {M : Part → Prop} {z s : State} (h_net : ¬ M .net) (p : Nat) (l : List Byte) (hz : Keep M z s) :
    Keep M z (gateArm p l s) := by
  unfold gateArm
  repeat' (first
    | with_reducible assumption
    | with_reducible exact Keep.refl _
    | intro _
    | ((fail_if_success (conv => arg 3; arg 1)); extract_lets +onlyGivenNames t; refine Keep.cut t ?_ ?_; subst t; rotate_left; clear_value t; intro ht; rotate_right)
    | ((fail_if_success (conv => arg 3; arg 1)); extract_lets +onlyGivenNames t; subst t)
    | ((fail_if_success (fail_if_success (conv => arg 3; arg 39))); with_reducible apply Keep.upd_net)
    | with_reducible apply Keep.ite
    | split
    | dsimp -zeta only)

theorem netApply_keep {M : Part → Prop} {z s : State} (h_od : ¬ M .od) (h_net : ¬ M .net) (h_can : ¬ M .can) (k : Nat) (v : Nat) (blob : List Byte) (hz : Keep M z s) :
    Keep M z (netApply k v blob s) := by
  unfold netApply
  repeat' (first
    | with_reducible assumption
    | with_reducible exact Keep.refl _
    | intro _
    | with_reducible apply odPut_keep
    | with_reducible apply canRecoverNow_keep
    | with_reducible apply gateArm_keep
    | ((fail_if_success (fail_if_success (conv => arg 3; arg 39))); with_reducible apply Keep.upd_net)
    | with_reducible apply Keep.ite
    | split
    | dsimp -zeta only)

end Sys2Proof.Machine
end

