-- ==== Sys2Proof/Laws/KeepTether.lean ====
section
/-! SUPPORT. What the operations of Machine/Tether.lean keep: one lemma each. -/

namespace Sys2Proof.Machine

theorem putConn_keep {M : Part → Prop} {z s : State} (h_tether : ¬ M .tether) (h : Nat) (c : TConn) (hz : Keep M z s) :
    Keep M z (putConn h c s) := by
  unfold putConn
  repeat' (first
    | with_reducible assumption
    | with_reducible exact Keep.refl _
    | intro _
    | ((fail_if_success (fail_if_success (conv => arg 3; arg 39))); with_reducible apply Keep.upd_tether)
    | split
    | dsimp -zeta only)

theorem putSq_keep {M : Part → Prop} {z s : State} (h_tether : ¬ M .tether) (q : Nat) (v : TSq) (hz : Keep M z s) :
    Keep M z (putSq q v s) := by
  unfold putSq
  repeat' (first
    | with_reducible assumption
    | with_reducible exact Keep.refl _
    | intro _
    | ((fail_if_success (fail_if_success (conv => arg 3; arg 39))); with_reducible apply Keep.upd_tether)
    | split
    | dsimp -zeta only)

theorem cacheTouch_keep {M : Part → Prop} {z s : State} (h_od : ¬ M .od) (h_tether : ¬ M .tether) (h : Nat) (hz : Keep M z s) :
    Keep M z (cacheTouch h s) := by
  unfold cacheTouch
  repeat' (first
    | with_reducible assumption
    | with_reducible exact Keep.refl _
    | intro _
    | ((fail_if_success (conv => arg 3; arg 1)); extract_lets +onlyGivenNames t; refine Keep.cut t ?_ ?_; subst t; rotate_left; clear_value t; intro ht; rotate_right)
    | ((fail_if_success (conv => arg 3; arg 1)); extract_lets +onlyGivenNames t; subst t)
    | with_reducible apply odCount_keep
    | ((fail_if_success (fail_if_success (conv => arg 3; arg 39))); with_reducible apply Keep.upd_tether)
    | with_reducible apply Keep.ite
    | split
    | dsimp -zeta only)

theorem tPut_keep {M : Part → Prop} {z s : State} (h_regs : ¬ M .regs) (h_od : ¬ M .od) (h_net : ¬ M .net) (conn : Nat) (port : Nat) (mac : Nat) (tci : Nat) (remote : Nat) (ack : Nat) (op : Option Nat) (h : THead) (data : List Byte) (hz : Keep M z s) :
    Keep M z (tPut conn port mac tci remote ack op h data s) := by
  unfold tPut
  repeat' (first
    | with_reducible assumption
    | with_reducible exact Keep.refl _
    | intro _
    | ((fail_if_success (conv => arg 3; arg 1)); extract_lets +onlyGivenNames t; refine Keep.cut t ?_ ?_; subst t; rotate_left; clear_value t; intro ht; rotate_right)
    | ((fail_if_success (conv => arg 3; arg 1)); extract_lets +onlyGivenNames t; subst t)
    | with_reducible apply ethPut_keep
    | split
    | dsimp -zeta only)

theorem tSend_keep {M : Part → Prop} {z s : State} (h_regs : ¬ M .regs) (h_od : ¬ M .od) (h_net : ¬ M .net) (h : Nat) (op : Option Nat) (x : THead) (data : List Byte) (hz : Keep M z s) :
    Keep M z (tSend h op x data s) := by
  unfold tSend
  repeat' (first
    | with_reducible assumption
    | with_reducible exact Keep.refl _
    | intro _
    | ((fail_if_success (conv => arg 3; arg 1)); extract_lets +onlyGivenNames t; refine Keep.cut t ?_ ?_; subst t; rotate_left; clear_value t; intro ht; rotate_right)
    | ((fail_if_success (conv => arg 3; arg 1)); extract_lets +onlyGivenNames t; subst t)
    | with_reducible apply tPut_keep
    | split
    | dsimp -zeta only)

theorem tEvent_keep {M : Part → Prop} {z s : State} (h_regs : ¬ M .regs) (h_mem : ¬ M .mem) (h_memCtl : ¬ M .memCtl) (h_sec : ¬ M .sec) (ev : Nat) (port : Nat) (conn : Nat) (st : Nat) (unconf : Option (Nat × Nat)) (tag : Nat) (flushed : Nat) (hz : Keep M z s) :
    Keep M z (tEvent ev port conn st unconf tag flushed s) := by
  unfold tEvent
  repeat' (first
    | with_reducible assumption
    | with_reducible exact Keep.refl _
    | intro _
    | ((fail_if_success (conv => arg 3; arg 1)); extract_lets +onlyGivenNames t; refine Keep.cut t ?_ ?_; subst t; rotate_left; clear_value t; intro ht; rotate_right)
    | ((fail_if_success (conv => arg 3; arg 1)); extract_lets +onlyGivenNames t; subst t)
    | with_reducible apply regPut_keep
    | with_reducible apply regCount_keep
    | with_reducible apply sendMsg_keep
    | with_reducible apply writeRange_keep
    | with_reducible apply Keep.ite
    | split
    | dsimp -zeta only)

theorem sqComplete_keep {M : Part → Prop} {z s : State} (h_regs : ¬ M .regs) (h_mem : ¬ M .mem) (h_memCtl : ¬ M .memCtl) (h_sec : ¬ M .sec) (h_tether : ¬ M .tether) (q : Nat) (o : TPend) (st : Nat) (hz : Keep M z s) :
    Keep M z (sqComplete q o st s) := by
  unfold sqComplete
  repeat' (first
    | with_reducible assumption
    | with_reducible exact Keep.refl _
    | intro _
    | ((fail_if_success (conv => arg 3; arg 1)); extract_lets +onlyGivenNames t; refine Keep.cut t ?_ ?_; subst t; rotate_left; clear_value t; intro ht; rotate_right)
    | ((fail_if_success (conv => arg 3; arg 1)); extract_lets +onlyGivenNames t; subst t)
    | with_reducible apply sendMsg_keep
    | with_reducible apply writeRange_keep
    | with_reducible apply putSq_keep
    | with_reducible apply Keep.ite
    | split
    | dsimp -zeta only)

theorem sqSettle_keep {M : Part → Prop} (h_regs : ¬ M .regs) (h_mem : ¬ M .mem) (h_memCtl : ¬ M .memCtl) (h_sec : ¬ M .sec) (h_tether : ¬ M .tether) (q : Nat) (n_ : Nat)  {z s : State} (hz : Keep M z s) :
    Keep M z (sqSettle q n_  s) := by
  induction n_ generalizing  z s with
  | zero => exact hz
  | succ n ih =>
    unfold sqSettle
    repeat' (first
      | with_reducible assumption
      | with_reducible apply ih
      | with_reducible exact Keep.refl _
      | intro _
      | with_reducible apply sqComplete_keep
      | with_reducible apply Keep.ite
      | split
      | dsimp -zeta only)

theorem sqRun_keep {M : Part → Prop} {z s : State} (h_regs : ¬ M .regs) (h_mem : ¬ M .mem) (h_memCtl : ¬ M .memCtl) (h_sec : ¬ M .sec) (h_tether : ¬ M .tether) (q : Nat) (hz : Keep M z s) :
    Keep M z (sqRun q s) := by
  unfold sqRun
  repeat' (first
    | with_reducible assumption
    | with_reducible exact Keep.refl _
    | intro _
    | with_reducible apply sqSettle_keep
    | split
    | dsimp -zeta only)

theorem opDecide_keep {M : Part → Prop} {z s : State} (h_regs : ¬ M .regs) (h_mem : ¬ M .mem) (h_memCtl : ¬ M .memCtl) (h_sec : ¬ M .sec) (h_tether : ¬ M .tether) (o : TOp) (bytes : Nat) (st : Nat) (hz : Keep M z s) :
    Keep M z (opDecide o bytes st s) := by
  unfold opDecide
  repeat' (first
    | with_reducible assumption
    | with_reducible exact Keep.refl _
    | intro _
    | ((fail_if_success (conv => arg 3; arg 1)); extract_lets +onlyGivenNames t; refine Keep.cut t ?_ ?_; subst t; rotate_left; clear_value t; intro ht; rotate_right)
    | ((fail_if_success (conv => arg 3; arg 1)); extract_lets +onlyGivenNames t; subst t)
    | with_reducible apply putSq_keep
    | with_reducible apply sqRun_keep
    | with_reducible apply Keep.ite
    | split
    | dsimp -zeta only)

theorem putOp_keep {M : Part → Prop} {z s : State} (h_tether : ¬ M .tether) (h : Nat) (o : TOp) (hz : Keep M z s) :
    Keep M z (putOp h o s) := by
  unfold putOp
  repeat' (first
    | with_reducible assumption
    | with_reducible exact Keep.refl _
    | intro _
    | ((fail_if_success (conv => arg 3; arg 1)); extract_lets +onlyGivenNames t; refine Keep.cut t ?_ ?_; subst t; rotate_left; clear_value t; intro ht; rotate_right)
    | ((fail_if_success (conv => arg 3; arg 1)); extract_lets +onlyGivenNames t; subst t)
    | with_reducible apply putConn_keep
    | with_reducible apply Keep.ite
    | split
    | dsimp -zeta only)

theorem opFrame_keep {M : Part → Prop} {z s : State} (h_dev : ¬ M .dev) (h_free : ¬ M .free) (h_regs : ¬ M .regs) (h_od : ¬ M .od) (h_mem : ¬ M .mem) (h_memCtl : ¬ M .memCtl) (h_pwr : ¬ M .pwr) (h_start : ¬ M .start) (h_sdg : ¬ M .sdg) (h_frz : ¬ M .frz) (h_sec : ¬ M .sec) (h_pack : ¬ M .pack) (h_net : ¬ M .net) (h_tether : ¬ M .tether) (h : Nat) (o : TOp) (k : Nat) (retx : Bool) (hz : Keep M z s) :
    Keep M z (opFrame h o k retx s) := by
  unfold opFrame
  repeat' (first
    | with_reducible assumption
    | with_reducible exact Keep.refl _
    | intro _
    | ((fail_if_success (conv => arg 3; arg 1)); extract_lets +onlyGivenNames t; refine Keep.cut t ?_ ?_; subst t; rotate_left; clear_value t; intro ht; rotate_right)
    | ((fail_if_success (conv => arg 3; arg 1)); extract_lets +onlyGivenNames t; subst t)
    | with_reducible apply readRange_keep
    | ((with_reducible apply readRange_keep_of); with_reducible assumption)
    | with_reducible apply putConn_keep
    | with_reducible apply tSend_keep
    | with_reducible apply opDecide_keep
    | with_reducible apply putOp_keep
    | with_reducible apply Keep.ite
    | with_reducible apply KeepP.fst
    | split
    | dsimp -zeta only)

theorem pumpOne_keep {M : Part → Prop} {z s : State} (h_dev : ¬ M .dev) (h_free : ¬ M .free) (h_regs : ¬ M .regs) (h_od : ¬ M .od) (h_mem : ¬ M .mem) (h_memCtl : ¬ M .memCtl) (h_pwr : ¬ M .pwr) (h_start : ¬ M .start) (h_sdg : ¬ M .sdg) (h_frz : ¬ M .frz) (h_sec : ¬ M .sec) (h_pack : ¬ M .pack) (h_net : ¬ M .net) (h_tether : ¬ M .tether) (h : Nat) (hz : Keep M z s) :
    Keep M z (pumpOne h s) := by
  unfold pumpOne
  repeat' (first
    | with_reducible assumption
    | with_reducible exact Keep.refl _
    | intro _
    | ((fail_if_success (conv => arg 3; arg 1)); extract_lets +onlyGivenNames t; refine Keep.cut t ?_ ?_; subst t; rotate_left; clear_value t; intro ht; rotate_right)
    | ((fail_if_success (conv => arg 3; arg 1)); extract_lets +onlyGivenNames t; subst t)
    | with_reducible apply putConn_keep
    | with_reducible apply putOp_keep
    | with_reducible apply opFrame_keep
    | with_reducible apply Keep.ite
    | split
    | dsimp -zeta only)

theorem pump_keep {M : Part → Prop} {z s : State} (h_dev : ¬ M .dev) (h_free : ¬ M .free) (h_regs : ¬ M .regs) (h_od : ¬ M .od) (h_mem : ¬ M .mem) (h_memCtl : ¬ M .memCtl) (h_pwr : ¬ M .pwr) (h_start : ¬ M .start) (h_sdg : ¬ M .sdg) (h_frz : ¬ M .frz) (h_sec : ¬ M .sec) (h_pack : ¬ M .pack) (h_net : ¬ M .net) (h_tether : ¬ M .tether) (h : Nat) (hz : Keep M z s) :
    Keep M z (pump h s) := by
  unfold pump
  repeat' (first
    | with_reducible assumption
    | with_reducible exact Keep.refl _
    | intro _
    | with_reducible apply pumpOne_keep
    | with_reducible apply Keep.iterate
    | split
    | dsimp -zeta only)

theorem connFramesStop_keep {M : Part → Prop} {z s : State} (h_net : ¬ M .net) (h : Nat) (hz : Keep M z s) :
    Keep M z (connFramesStop h s) := by
  unfold connFramesStop
  repeat' (first
    | with_reducible assumption
    | with_reducible exact Keep.refl _
    | intro _
    | ((fail_if_success (fail_if_success (conv => arg 3; arg 39))); with_reducible apply Keep.upd_net)
    | with_reducible apply KeepP.fst
    | split
    | dsimp -zeta only)

theorem connFlush_keep {M : Part → Prop} {z s : State} (h_regs : ¬ M .regs) (h_mem : ¬ M .mem) (h_memCtl : ¬ M .memCtl) (h_sec : ¬ M .sec) (h_net : ¬ M .net) (h_tether : ¬ M .tether) (h : Nat) (st : Nat) (hz : Keep M z s) :
    Keep M z (connFlush h st s) := by
  unfold connFlush
  repeat' (first
    | with_reducible assumption
    | with_reducible exact Keep.refl _
    | intro _
    | ((fail_if_success (conv => arg 3; arg 1)); extract_lets +onlyGivenNames t; refine Keep.cut t ?_ ?_; subst t; rotate_left; clear_value t; intro ht; rotate_right)
    | ((fail_if_success (conv => arg 3; arg 1)); extract_lets +onlyGivenNames t; refine KeepP.cut t ?_ ?_; subst t; rotate_left; clear_value t; intro ht; rotate_right)
    | ((fail_if_success (conv => arg 3; arg 1)); extract_lets +onlyGivenNames t; subst t)
    | with_reducible apply putConn_keep
    | with_reducible apply opDecide_keep
    | with_reducible apply connFramesStop_keep
    | with_reducible apply Keep.foldl
    | split
    | dsimp -zeta only)

theorem enterError_keep {M : Part → Prop} {z s : State} (h_regs : ¬ M .regs) (h_od : ¬ M .od) (h_mem : ¬ M .mem) (h_memCtl : ¬ M .memCtl) (h_sec : ¬ M .sec) (h_net : ¬ M .net) (h_tether : ¬ M .tether) (h : Nat) (st : Nat) (only : Option Nat) (hz : Keep M z s) :
    Keep M z (enterError h st only s) := by
  unfold enterError
  repeat' (first
    | with_reducible assumption
    | with_reducible exact Keep.refl _
    | intro _
    | ((fail_if_success (conv => arg 3; arg 1)); extract_lets +onlyGivenNames t; refine Keep.cut t ?_ ?_; subst t; rotate_left; clear_value t; intro ht; rotate_right)
    | ((fail_if_success (conv => arg 3; arg 1)); extract_lets +onlyGivenNames t; subst t)
    | with_reducible apply odCount_keep
    | with_reducible apply tEvent_keep
    | with_reducible apply opDecide_keep
    | with_reducible apply putOp_keep
    | with_reducible apply connFlush_keep
    | with_reducible apply Keep.ite
    | split
    | dsimp -zeta only)

theorem goBack_keep {M : Part → Prop} {z s : State} (h_dev : ¬ M .dev) (h_free : ¬ M .free) (h_regs : ¬ M .regs) (h_od : ¬ M .od) (h_mem : ¬ M .mem) (h_memCtl : ¬ M .memCtl) (h_pwr : ¬ M .pwr) (h_start : ¬ M .start) (h_sdg : ¬ M .sdg) (h_frz : ¬ M .frz) (h_sec : ¬ M .sec) (h_pack : ¬ M .pack) (h_net : ¬ M .net) (h_tether : ¬ M .tether) (h : Nat) (from' : Nat) (hz : Keep M z s) :
    Keep M z (goBack h from' s) := by
  unfold goBack
  repeat' (first
    | with_reducible assumption
    | with_reducible exact Keep.refl _
    | intro _
    | ((fail_if_success (conv => arg 3; arg 1)); extract_lets +onlyGivenNames t; refine Keep.cut t ?_ ?_; subst t; rotate_left; clear_value t; intro ht; rotate_right)
    | ((fail_if_success (conv => arg 3; arg 1)); extract_lets +onlyGivenNames t; subst t)
    | with_reducible apply odCount_keep
    | with_reducible apply putConn_keep
    | with_reducible apply pump_keep
    | with_reducible apply enterError_keep
    | with_reducible apply Keep.ite
    | split
    | dsimp -zeta only)

theorem ackTo_keep {M : Part → Prop} {z s : State} (h_dev : ¬ M .dev) (h_free : ¬ M .free) (h_regs : ¬ M .regs) (h_od : ¬ M .od) (h_mem : ¬ M .mem) (h_memCtl : ¬ M .memCtl) (h_pwr : ¬ M .pwr) (h_start : ¬ M .start) (h_sdg : ¬ M .sdg) (h_frz : ¬ M .frz) (h_sec : ¬ M .sec) (h_pack : ¬ M .pack) (h_net : ¬ M .net) (h_tether : ¬ M .tether) (h : Nat) (p : Nat) (hz : Keep M z s) :
    Keep M z (ackTo h p s) := by
  unfold ackTo
  repeat' (first
    | with_reducible assumption
    | with_reducible exact Keep.refl _
    | intro _
    | ((fail_if_success (conv => arg 3; arg 1)); extract_lets +onlyGivenNames t; refine Keep.cut t ?_ ?_; subst t; rotate_left; clear_value t; intro ht; rotate_right)
    | ((fail_if_success (conv => arg 3; arg 1)); extract_lets +onlyGivenNames t; subst t)
    | with_reducible apply putConn_keep
    | with_reducible apply pump_keep
    | with_reducible apply Keep.ite
    | split
    | dsimp -zeta only)

theorem sendNak_keep {M : Part → Prop} {z s : State} (h_regs : ¬ M .regs) (h_od : ¬ M .od) (h_mem : ¬ M .mem) (h_memCtl : ¬ M .memCtl) (h_sec : ¬ M .sec) (h_net : ¬ M .net) (h : Nat) (psn : Nat) (st : Nat) (hz : Keep M z s) :
    Keep M z (sendNak h psn st s) := by
  unfold sendNak
  repeat' (first
    | with_reducible assumption
    | with_reducible exact Keep.refl _
    | intro _
    | ((fail_if_success (conv => arg 3; arg 1)); extract_lets +onlyGivenNames t; refine Keep.cut t ?_ ?_; subst t; rotate_left; clear_value t; intro ht; rotate_right)
    | ((fail_if_success (conv => arg 3; arg 1)); extract_lets +onlyGivenNames t; subst t)
    | with_reducible apply odCount_keep
    | with_reducible apply tSend_keep
    | with_reducible apply tEvent_keep
    | with_reducible apply Keep.ite
    | split
    | dsimp -zeta only)

theorem connInvalid_keep {M : Part → Prop} {z s : State} (h_free : ¬ M .free) (h_regs : ¬ M .regs) (h_od : ¬ M .od) (h_mem : ¬ M .mem) (h_memCtl : ¬ M .memCtl) (h_sec : ¬ M .sec) (h_net : ¬ M .net) (h_tether : ¬ M .tether) (f : TetherFrame) (hz : Keep M z s) :
    Keep M z (connInvalid f s) := by
  unfold connInvalid
  repeat' (first
    | with_reducible assumption
    | with_reducible exact Keep.refl _
    | intro _
    | ((fail_if_success (conv => arg 3; arg 1)); extract_lets +onlyGivenNames t; refine Keep.cut t ?_ ?_; subst t; rotate_left; clear_value t; intro ht; rotate_right)
    | ((fail_if_success (conv => arg 3; arg 1)); extract_lets +onlyGivenNames t; subst t)
    | with_reducible apply takeFree_keep
    | with_reducible apply odCount_keep
    | with_reducible apply tPut_keep
    | with_reducible apply tEvent_keep
    | ((fail_if_success (fail_if_success (conv => arg 3; arg 39))); with_reducible apply Keep.upd_tether)
    | with_reducible apply Keep.ite
    | split
    | dsimp -zeta only)

theorem notify_keep {M : Part → Prop} {z s : State} (h_regs : ¬ M .regs) (h_mem : ¬ M .mem) (h_memCtl : ¬ M .memCtl) (h_sec : ¬ M .sec) (h_knots : ¬ M .knots) (h_tether : ¬ M .tether) (h_slots : ¬ M .slots) (h_safeSlots : ¬ M .safeSlots) (h : Nat) (f : TetherFrame) (hz : Keep M z s) :
    Keep M z (notify h f s) := by
  unfold notify
  repeat' (first
    | with_reducible assumption
    | with_reducible exact Keep.refl _
    | intro _
    | ((fail_if_success (conv => arg 3; arg 1)); extract_lets +onlyGivenNames t; refine Keep.cut t ?_ ?_; subst t; rotate_left; clear_value t; intro ht; rotate_right)
    | ((fail_if_success (conv => arg 3; arg 1)); extract_lets +onlyGivenNames t; subst t)
    | with_reducible apply regPut_keep
    | with_reducible apply sendMsg_keep
    | with_reducible apply writeRange_keep
    | with_reducible apply knotRaise_keep
    | ((fail_if_success (fail_if_success (conv => arg 3; arg 39))); with_reducible apply Keep.upd_tether)
    | with_reducible apply Keep.ite
    | split
    | dsimp -zeta only)

theorem ackIf_keep {M : Part → Prop} {z s : State} (h_regs : ¬ M .regs) (h_od : ¬ M .od) (h_net : ¬ M .net) (h : Nat) (f : TetherFrame) (hz : Keep M z s) :
    Keep M z (ackIf h f s) := by
  unfold ackIf
  repeat' (first
    | with_reducible assumption
    | with_reducible exact Keep.refl _
    | intro _
    | with_reducible apply tSend_keep
    | with_reducible apply Keep.ite
    | split
    | dsimp -zeta only)

theorem advanceEpsn_keep {M : Part → Prop} {z s : State} (h_tether : ¬ M .tether) (h : Nat) (n : Nat) (hz : Keep M z s) :
    Keep M z (advanceEpsn h n s) := by
  unfold advanceEpsn
  repeat' (first
    | with_reducible assumption
    | with_reducible exact Keep.refl _
    | intro _
    | ((fail_if_success (conv => arg 3; arg 1)); extract_lets +onlyGivenNames t; refine Keep.cut t ?_ ?_; subst t; rotate_left; clear_value t; intro ht; rotate_right)
    | ((fail_if_success (conv => arg 3; arg 1)); extract_lets +onlyGivenNames t; subst t)
    | with_reducible apply putConn_keep
    | with_reducible apply Keep.ite
    | split
    | dsimp -zeta only)

theorem rxPlace_keep {M : Part → Prop} {z s : State} (h_regs : ¬ M .regs) (h_od : ¬ M .od) (h_mem : ¬ M .mem) (h_memCtl : ¬ M .memCtl) (h_sec : ¬ M .sec) (h_knots : ¬ M .knots) (h_net : ¬ M .net) (h_tether : ¬ M .tether) (h_slots : ¬ M .slots) (h_safeSlots : ¬ M .safeSlots) (h : Nat) (f : TetherFrame) (hz : Keep M z s) :
    Keep M z (rxPlace h f s) := by
  unfold rxPlace
  repeat' (first
    | with_reducible assumption
    | with_reducible exact Keep.refl _
    | intro _
    | ((fail_if_success (conv => arg 3; arg 1)); extract_lets +onlyGivenNames t; refine Keep.cut t ?_ ?_; subst t; rotate_left; clear_value t; intro ht; rotate_right)
    | ((fail_if_success (conv => arg 3; arg 1)); extract_lets +onlyGivenNames t; subst t)
    | with_reducible apply writeRange_keep
    | with_reducible apply putConn_keep
    | with_reducible apply sendNak_keep
    | with_reducible apply notify_keep
    | with_reducible apply ackIf_keep
    | with_reducible apply advanceEpsn_keep
    | with_reducible apply Keep.ite
    | split
    | dsimp -zeta only)

theorem readReply_keep {M : Part → Prop} (h_dev : ¬ M .dev) (h_free : ¬ M .free) (h_regs : ¬ M .regs) (h_od : ¬ M .od) (h_mem : ¬ M .mem) (h_memCtl : ¬ M .memCtl) (h_pwr : ¬ M .pwr) (h_start : ¬ M .start) (h_sdg : ¬ M .sdg) (h_frz : ¬ M .frz) (h_sec : ¬ M .sec) (h_pack : ¬ M .pack) (h_net : ¬ M .net) (h : Nat) (f : TetherFrame) (a : Nat) (n_ : Nat) (i : Nat) {z s : State} (hz : Keep M z s) :
    Keep M z (readReply h f a n_ i s) := by
  induction n_ generalizing i z s with
  | zero => exact hz
  | succ n ih =>
    unfold readReply
    repeat' (first
      | with_reducible assumption
      | with_reducible apply ih
      | with_reducible exact Keep.refl _
      | intro _
      | ((fail_if_success (conv => arg 3; arg 1)); extract_lets +onlyGivenNames t; refine Keep.cut t ?_ ?_; subst t; rotate_left; clear_value t; intro ht; rotate_right)
      | ((fail_if_success (conv => arg 3; arg 1)); extract_lets +onlyGivenNames t; subst t)
      | with_reducible apply readRange_keep
      | ((with_reducible apply readRange_keep_of); with_reducible assumption)
      | with_reducible apply tSend_keep
      | with_reducible apply sendNak_keep
      | with_reducible apply KeepP.fst
      | split
      | dsimp -zeta only)

theorem rxReadIn_keep {M : Part → Prop} {z s : State} (h_dev : ¬ M .dev) (h_free : ¬ M .free) (h_regs : ¬ M .regs) (h_od : ¬ M .od) (h_mem : ¬ M .mem) (h_memCtl : ¬ M .memCtl) (h_pwr : ¬ M .pwr) (h_start : ¬ M .start) (h_sdg : ¬ M .sdg) (h_frz : ¬ M .frz) (h_sec : ¬ M .sec) (h_pack : ¬ M .pack) (h_net : ¬ M .net) (h_tether : ¬ M .tether) (h : Nat) (again : Bool) (f : TetherFrame) (hz : Keep M z s) :
    Keep M z (rxReadIn h again f s) := by
  unfold rxReadIn
  repeat' (first
    | with_reducible assumption
    | with_reducible exact Keep.refl _
    | intro _
    | ((fail_if_success (conv => arg 3; arg 1)); extract_lets +onlyGivenNames t; refine Keep.cut t ?_ ?_; subst t; rotate_left; clear_value t; intro ht; rotate_right)
    | ((fail_if_success (conv => arg 3; arg 1)); extract_lets +onlyGivenNames t; subst t)
    | with_reducible apply sendNak_keep
    | with_reducible apply ackIf_keep
    | with_reducible apply advanceEpsn_keep
    | with_reducible apply readReply_keep
    | with_reducible apply Keep.ite
    | split
    | dsimp -zeta only)

theorem rxFlushIn_keep {M : Part → Prop} {z s : State} (h_regs : ¬ M .regs) (h_od : ¬ M .od) (h_net : ¬ M .net) (h_tether : ¬ M .tether) (h : Nat) (again : Bool) (f : TetherFrame) (hz : Keep M z s) :
    Keep M z (rxFlushIn h again f s) := by
  unfold rxFlushIn
  repeat' (first
    | with_reducible assumption
    | with_reducible exact Keep.refl _
    | intro _
    | ((fail_if_success (conv => arg 3; arg 1)); extract_lets +onlyGivenNames t; refine Keep.cut t ?_ ?_; subst t; rotate_left; clear_value t; intro ht; rotate_right)
    | ((fail_if_success (conv => arg 3; arg 1)); extract_lets +onlyGivenNames t; subst t)
    | with_reducible apply putConn_keep
    | with_reducible apply ackIf_keep
    | with_reducible apply advanceEpsn_keep
    | with_reducible apply Keep.ite
    | split
    | dsimp -zeta only)

theorem rxRequest_keep {M : Part → Prop} {z s : State} (h_dev : ¬ M .dev) (h_free : ¬ M .free) (h_regs : ¬ M .regs) (h_od : ¬ M .od) (h_mem : ¬ M .mem) (h_memCtl : ¬ M .memCtl) (h_pwr : ¬ M .pwr) (h_start : ¬ M .start) (h_sdg : ¬ M .sdg) (h_frz : ¬ M .frz) (h_sec : ¬ M .sec) (h_knots : ¬ M .knots) (h_pack : ¬ M .pack) (h_net : ¬ M .net) (h_tether : ¬ M .tether) (h_slots : ¬ M .slots) (h_safeSlots : ¬ M .safeSlots) (h : Nat) (f : TetherFrame) (hz : Keep M z s) :
    Keep M z (rxRequest h f s) := by
  unfold rxRequest
  repeat' (first
    | with_reducible assumption
    | with_reducible exact Keep.refl _
    | intro _
    | ((fail_if_success (conv => arg 3; arg 1)); extract_lets +onlyGivenNames t; refine Keep.cut t ?_ ?_; subst t; rotate_left; clear_value t; intro ht; rotate_right)
    | ((fail_if_success (conv => arg 3; arg 1)); extract_lets +onlyGivenNames t; subst t)
    | with_reducible apply putConn_keep
    | with_reducible apply tSend_keep
    | with_reducible apply sendNak_keep
    | with_reducible apply rxPlace_keep
    | with_reducible apply rxReadIn_keep
    | with_reducible apply rxFlushIn_keep
    | with_reducible apply Keep.ite
    | split
    | dsimp -zeta only)

theorem rxReadResp_keep {M : Part → Prop} {z s : State} (h_dev : ¬ M .dev) (h_free : ¬ M .free) (h_regs : ¬ M .regs) (h_od : ¬ M .od) (h_mem : ¬ M .mem) (h_memCtl : ¬ M .memCtl) (h_pwr : ¬ M .pwr) (h_start : ¬ M .start) (h_sdg : ¬ M .sdg) (h_frz : ¬ M .frz) (h_sec : ¬ M .sec) (h_pack : ¬ M .pack) (h_net : ¬ M .net) (h_tether : ¬ M .tether) (h : Nat) (f : TetherFrame) (hz : Keep M z s) :
    Keep M z (rxReadResp h f s) := by
  unfold rxReadResp
  repeat' (first
    | with_reducible assumption
    | with_reducible exact Keep.refl _
    | intro _
    | ((fail_if_success (conv => arg 3; arg 1)); extract_lets +onlyGivenNames t; refine Keep.cut t ?_ ?_; subst t; rotate_left; clear_value t; intro ht; rotate_right)
    | ((fail_if_success (conv => arg 3; arg 1)); extract_lets +onlyGivenNames t; subst t)
    | with_reducible apply writeRange_keep
    | with_reducible apply opDecide_keep
    | with_reducible apply putOp_keep
    | with_reducible apply ackTo_keep
    | with_reducible apply Keep.ite
    | with_reducible apply KeepP.fst
    | split
    | dsimp -zeta only)

theorem rxFlushAck_keep {M : Part → Prop} {z s : State} (h_dev : ¬ M .dev) (h_free : ¬ M .free) (h_regs : ¬ M .regs) (h_od : ¬ M .od) (h_mem : ¬ M .mem) (h_memCtl : ¬ M .memCtl) (h_pwr : ¬ M .pwr) (h_start : ¬ M .start) (h_sdg : ¬ M .sdg) (h_frz : ¬ M .frz) (h_sec : ¬ M .sec) (h_pack : ¬ M .pack) (h_net : ¬ M .net) (h_tether : ¬ M .tether) (h : Nat) (f : TetherFrame) (hz : Keep M z s) :
    Keep M z (rxFlushAck h f s) := by
  unfold rxFlushAck
  repeat' (first
    | with_reducible assumption
    | with_reducible exact Keep.refl _
    | intro _
    | ((fail_if_success (conv => arg 3; arg 1)); extract_lets +onlyGivenNames t; refine Keep.cut t ?_ ?_; subst t; rotate_left; clear_value t; intro ht; rotate_right)
    | ((fail_if_success (conv => arg 3; arg 1)); extract_lets +onlyGivenNames t; subst t)
    | with_reducible apply opDecide_keep
    | with_reducible apply putOp_keep
    | with_reducible apply ackTo_keep
    | split
    | dsimp -zeta only)

theorem rxNak_keep {M : Part → Prop} {z s : State} (h_dev : ¬ M .dev) (h_free : ¬ M .free) (h_regs : ¬ M .regs) (h_od : ¬ M .od) (h_mem : ¬ M .mem) (h_memCtl : ¬ M .memCtl) (h_pwr : ¬ M .pwr) (h_start : ¬ M .start) (h_sdg : ¬ M .sdg) (h_frz : ¬ M .frz) (h_sec : ¬ M .sec) (h_pack : ¬ M .pack) (h_net : ¬ M .net) (h_tether : ¬ M .tether) (h : Nat) (f : TetherFrame) (hz : Keep M z s) :
    Keep M z (rxNak h f s) := by
  unfold rxNak
  repeat' (first
    | with_reducible assumption
    | with_reducible exact Keep.refl _
    | intro _
    | with_reducible apply enterError_keep
    | with_reducible apply goBack_keep
    | with_reducible apply Keep.ite
    | split
    | dsimp -zeta only)

theorem tetherRx_keep {M : Part → Prop} {z s : State} (h_dev : ¬ M .dev) (h_free : ¬ M .free) (h_regs : ¬ M .regs) (h_od : ¬ M .od) (h_mem : ¬ M .mem) (h_memCtl : ¬ M .memCtl) (h_pwr : ¬ M .pwr) (h_start : ¬ M .start) (h_sdg : ¬ M .sdg) (h_frz : ¬ M .frz) (h_sec : ¬ M .sec) (h_knots : ¬ M .knots) (h_pack : ¬ M .pack) (h_net : ¬ M .net) (h_tether : ¬ M .tether) (h_slots : ¬ M .slots) (h_safeSlots : ¬ M .safeSlots) (f : TetherFrame) (hz : Keep M z s) :
    Keep M z (tetherRx f s) := by
  unfold tetherRx
  repeat' (first
    | with_reducible assumption
    | with_reducible exact Keep.refl _
    | intro _
    | ((fail_if_success (conv => arg 3; arg 1)); extract_lets +onlyGivenNames t; refine Keep.cut t ?_ ?_; subst t; rotate_left; clear_value t; intro ht; rotate_right)
    | ((fail_if_success (conv => arg 3; arg 1)); extract_lets +onlyGivenNames t; subst t)
    | with_reducible apply odCount_keep
    | with_reducible apply cacheTouch_keep
    | with_reducible apply ackTo_keep
    | with_reducible apply connInvalid_keep
    | with_reducible apply rxRequest_keep
    | with_reducible apply rxReadResp_keep
    | with_reducible apply rxFlushAck_keep
    | with_reducible apply rxNak_keep
    | with_reducible apply Keep.ite
    | split
    | dsimp -zeta only)

theorem contextError_keep {M : Part → Prop} {z s : State} (h_regs : ¬ M .regs) (h_od : ¬ M .od) (h_mem : ¬ M .mem) (h_memCtl : ¬ M .memCtl) (h_sec : ¬ M .sec) (h_net : ¬ M .net) (h_tether : ¬ M .tether) (h : Nat) (hz : Keep M z s) :
    Keep M z (contextError h s) := by
  unfold contextError
  repeat' (first
    | with_reducible assumption
    | with_reducible exact Keep.refl _
    | intro _
    | with_reducible apply enterError_keep
    | with_reducible apply Keep.ite
    | split
    | dsimp -zeta only)

theorem execTetherRxWrite_keep {M : Part → Prop} {z s : State} (h_dev : ¬ M .dev) (h_free : ¬ M .free) (h_regs : ¬ M .regs) (h_od : ¬ M .od) (h_mem : ¬ M .mem) (h_memCtl : ¬ M .memCtl) (h_pwr : ¬ M .pwr) (h_start : ¬ M .start) (h_sdg : ¬ M .sdg) (h_frz : ¬ M .frz) (h_sec : ¬ M .sec) (h_knots : ¬ M .knots) (h_pack : ¬ M .pack) (h_net : ¬ M .net) (h_tether : ¬ M .tether) (h_slots : ¬ M .slots) (h_safeSlots : ¬ M .safeSlots) (f : TetherFrame) (contextParity : Bool) (hz : Keep M z s) :
    KeepN M z (execTetherRxWrite f contextParity s) := by
  unfold execTetherRxWrite
  repeat' (first
    | with_reducible assumption
    | with_reducible exact Keep.refl _
    | intro _
    | with_reducible apply KeepN.next
    | with_reducible apply tetherRx_keep
    | with_reducible apply contextError_keep
    | with_reducible apply Keep.ite
    | with_reducible apply KeepN.ite
    | split
    | dsimp -zeta only)

theorem execTetherRxWriteImm_keep {M : Part → Prop} {z s : State} (h_dev : ¬ M .dev) (h_free : ¬ M .free) (h_regs : ¬ M .regs) (h_od : ¬ M .od) (h_mem : ¬ M .mem) (h_memCtl : ¬ M .memCtl) (h_pwr : ¬ M .pwr) (h_start : ¬ M .start) (h_sdg : ¬ M .sdg) (h_frz : ¬ M .frz) (h_sec : ¬ M .sec) (h_knots : ¬ M .knots) (h_pack : ¬ M .pack) (h_net : ¬ M .net) (h_tether : ¬ M .tether) (h_slots : ¬ M .slots) (h_safeSlots : ¬ M .safeSlots) (f : TetherFrame) (hz : Keep M z s) :
    KeepN M z (execTetherRxWriteImm f s) := by
  unfold execTetherRxWriteImm
  repeat' (first
    | with_reducible assumption
    | with_reducible exact Keep.refl _
    | intro _
    | with_reducible apply KeepN.next
    | with_reducible apply tetherRx_keep
    | split
    | dsimp -zeta only)

theorem execTetherRxRead_keep {M : Part → Prop} {z s : State} (h_dev : ¬ M .dev) (h_free : ¬ M .free) (h_regs : ¬ M .regs) (h_od : ¬ M .od) (h_mem : ¬ M .mem) (h_memCtl : ¬ M .memCtl) (h_pwr : ¬ M .pwr) (h_start : ¬ M .start) (h_sdg : ¬ M .sdg) (h_frz : ¬ M .frz) (h_sec : ¬ M .sec) (h_knots : ¬ M .knots) (h_pack : ¬ M .pack) (h_net : ¬ M .net) (h_tether : ¬ M .tether) (h_slots : ¬ M .slots) (h_safeSlots : ¬ M .safeSlots) (f : TetherFrame) (hz : Keep M z s) :
    KeepN M z (execTetherRxRead f s) := by
  unfold execTetherRxRead
  repeat' (first
    | with_reducible assumption
    | with_reducible exact Keep.refl _
    | intro _
    | with_reducible apply KeepN.next
    | with_reducible apply tetherRx_keep
    | split
    | dsimp -zeta only)

theorem execTetherRxReadResp_keep {M : Part → Prop} {z s : State} (h_dev : ¬ M .dev) (h_free : ¬ M .free) (h_regs : ¬ M .regs) (h_od : ¬ M .od) (h_mem : ¬ M .mem) (h_memCtl : ¬ M .memCtl) (h_pwr : ¬ M .pwr) (h_start : ¬ M .start) (h_sdg : ¬ M .sdg) (h_frz : ¬ M .frz) (h_sec : ¬ M .sec) (h_knots : ¬ M .knots) (h_pack : ¬ M .pack) (h_net : ¬ M .net) (h_tether : ¬ M .tether) (h_slots : ¬ M .slots) (h_safeSlots : ¬ M .safeSlots) (f : TetherFrame) (hz : Keep M z s) :
    KeepN M z (execTetherRxReadResp f s) := by
  unfold execTetherRxReadResp
  repeat' (first
    | with_reducible assumption
    | with_reducible exact Keep.refl _
    | intro _
    | with_reducible apply KeepN.next
    | with_reducible apply tetherRx_keep
    | split
    | dsimp -zeta only)

theorem execTetherRxFlush_keep {M : Part → Prop} {z s : State} (h_dev : ¬ M .dev) (h_free : ¬ M .free) (h_regs : ¬ M .regs) (h_od : ¬ M .od) (h_mem : ¬ M .mem) (h_memCtl : ¬ M .memCtl) (h_pwr : ¬ M .pwr) (h_start : ¬ M .start) (h_sdg : ¬ M .sdg) (h_frz : ¬ M .frz) (h_sec : ¬ M .sec) (h_knots : ¬ M .knots) (h_pack : ¬ M .pack) (h_net : ¬ M .net) (h_tether : ¬ M .tether) (h_slots : ¬ M .slots) (h_safeSlots : ¬ M .safeSlots) (f : TetherFrame) (hz : Keep M z s) :
    KeepN M z (execTetherRxFlush f s) := by
  unfold execTetherRxFlush
  repeat' (first
    | with_reducible assumption
    | with_reducible exact Keep.refl _
    | intro _
    | with_reducible apply KeepN.next
    | with_reducible apply tetherRx_keep
    | split
    | dsimp -zeta only)

theorem execTetherRxFlushAck_keep {M : Part → Prop} {z s : State} (h_dev : ¬ M .dev) (h_free : ¬ M .free) (h_regs : ¬ M .regs) (h_od : ¬ M .od) (h_mem : ¬ M .mem) (h_memCtl : ¬ M .memCtl) (h_pwr : ¬ M .pwr) (h_start : ¬ M .start) (h_sdg : ¬ M .sdg) (h_frz : ¬ M .frz) (h_sec : ¬ M .sec) (h_knots : ¬ M .knots) (h_pack : ¬ M .pack) (h_net : ¬ M .net) (h_tether : ¬ M .tether) (h_slots : ¬ M .slots) (h_safeSlots : ¬ M .safeSlots) (f : TetherFrame) (hz : Keep M z s) :
    KeepN M z (execTetherRxFlushAck f s) := by
  unfold execTetherRxFlushAck
  repeat' (first
    | with_reducible assumption
    | with_reducible exact Keep.refl _
    | intro _
    | with_reducible apply KeepN.next
    | with_reducible apply tetherRx_keep
    | split
    | dsimp -zeta only)

theorem execTetherRxAck_keep {M : Part → Prop} {z s : State} (h_dev : ¬ M .dev) (h_free : ¬ M .free) (h_regs : ¬ M .regs) (h_od : ¬ M .od) (h_mem : ¬ M .mem) (h_memCtl : ¬ M .memCtl) (h_pwr : ¬ M .pwr) (h_start : ¬ M .start) (h_sdg : ¬ M .sdg) (h_frz : ¬ M .frz) (h_sec : ¬ M .sec) (h_knots : ¬ M .knots) (h_pack : ¬ M .pack) (h_net : ¬ M .net) (h_tether : ¬ M .tether) (h_slots : ¬ M .slots) (h_safeSlots : ¬ M .safeSlots) (f : TetherFrame) (hz : Keep M z s) :
    KeepN M z (execTetherRxAck f s) := by
  unfold execTetherRxAck
  repeat' (first
    | with_reducible assumption
    | with_reducible exact Keep.refl _
    | intro _
    | with_reducible apply KeepN.next
    | with_reducible apply tetherRx_keep
    | split
    | dsimp -zeta only)

theorem execTetherRxNak_keep {M : Part → Prop} {z s : State} (h_dev : ¬ M .dev) (h_free : ¬ M .free) (h_regs : ¬ M .regs) (h_od : ¬ M .od) (h_mem : ¬ M .mem) (h_memCtl : ¬ M .memCtl) (h_pwr : ¬ M .pwr) (h_start : ¬ M .start) (h_sdg : ¬ M .sdg) (h_frz : ¬ M .frz) (h_sec : ¬ M .sec) (h_knots : ¬ M .knots) (h_pack : ¬ M .pack) (h_net : ¬ M .net) (h_tether : ¬ M .tether) (h_slots : ¬ M .slots) (h_safeSlots : ¬ M .safeSlots) (f : TetherFrame) (hz : Keep M z s) :
    KeepN M z (execTetherRxNak f s) := by
  unfold execTetherRxNak
  repeat' (first
    | with_reducible assumption
    | with_reducible exact Keep.refl _
    | intro _
    | with_reducible apply KeepN.next
    | with_reducible apply tetherRx_keep
    | split
    | dsimp -zeta only)

theorem execFlushAck_keep {M : Part → Prop} {z s : State} (h_regs : ¬ M .regs) (h_od : ¬ M .od) (h_net : ¬ M .net) (h_tether : ¬ M .tether) (conn : Fin 4096) (hz : Keep M z s) :
    KeepN M z (execFlushAck conn s) := by
  unfold execFlushAck
  repeat' (first
    | with_reducible assumption
    | with_reducible exact Keep.refl _
    | intro _
    | with_reducible apply KeepN.next
    | ((fail_if_success (conv => arg 3; arg 1)); extract_lets +onlyGivenNames t; refine KeepN.cut t ?_ ?_; subst t; rotate_left; clear_value t; intro ht; rotate_right)
    | ((fail_if_success (conv => arg 3; arg 1)); extract_lets +onlyGivenNames t; refine Keep.cut t ?_ ?_; subst t; rotate_left; clear_value t; intro ht; rotate_right)
    | ((fail_if_success (conv => arg 3; arg 1)); extract_lets +onlyGivenNames t; subst t)
    | with_reducible apply putConn_keep
    | with_reducible apply tSend_keep
    | with_reducible apply Keep.ite
    | with_reducible apply KeepN.ite
    | split
    | dsimp -zeta only)

theorem execGoBackRound_keep {M : Part → Prop} {z s : State} (h_dev : ¬ M .dev) (h_now : ¬ M .now) (h_free : ¬ M .free) (h_regs : ¬ M .regs) (h_od : ¬ M .od) (h_mem : ¬ M .mem) (h_memCtl : ¬ M .memCtl) (h_pwr : ¬ M .pwr) (h_start : ¬ M .start) (h_sdg : ¬ M .sdg) (h_frz : ¬ M .frz) (h_sec : ¬ M .sec) (h_pack : ¬ M .pack) (h_net : ¬ M .net) (h_tether : ¬ M .tether) (h_gtime : ¬ M .gtime) (conn : Fin 4096) (hz : Keep M z s) :
    KeepN M z (execGoBackRound conn s) := by
  unfold execGoBackRound
  repeat' (first
    | with_reducible assumption
    | with_reducible exact Keep.refl _
    | intro _
    | with_reducible apply KeepN.next
    | ((fail_if_success (conv => arg 3; arg 1)); extract_lets +onlyGivenNames t; refine KeepN.cut t ?_ ?_; subst t; rotate_left; clear_value t; intro ht; rotate_right)
    | ((fail_if_success (conv => arg 3; arg 1)); extract_lets +onlyGivenNames t; refine Keep.cut t ?_ ?_; subst t; rotate_left; clear_value t; intro ht; rotate_right)
    | ((fail_if_success (conv => arg 3; arg 1)); extract_lets +onlyGivenNames t; subst t)
    | with_reducible apply advanceTo_keep
    | with_reducible apply goBack_keep
    | with_reducible apply Keep.ite
    | with_reducible apply KeepN.ite
    | split
    | dsimp -zeta only)

theorem sqEntry_keep {M : Part → Prop} {z s : State} (h_dev : ¬ M .dev) (h_free : ¬ M .free) (h_regs : ¬ M .regs) (h_od : ¬ M .od) (h_mem : ¬ M .mem) (h_memCtl : ¬ M .memCtl) (h_pwr : ¬ M .pwr) (h_start : ¬ M .start) (h_sdg : ¬ M .sdg) (h_frz : ¬ M .frz) (h_sec : ¬ M .sec) (h_pack : ¬ M .pack) (h_net : ¬ M .net) (h_tether : ¬ M .tether) (q : Nat) (e : List Byte) (st : Option Nat) (hz : Keep M z s) :
    Keep M z (sqEntry q e st s) := by
  unfold sqEntry
  repeat' (first
    | with_reducible assumption
    | with_reducible exact Keep.refl _
    | intro _
    | ((fail_if_success (conv => arg 3; arg 1)); extract_lets +onlyGivenNames t; refine Keep.cut t ?_ ?_; subst t; rotate_left; clear_value t; intro ht; rotate_right)
    | ((fail_if_success (conv => arg 3; arg 1)); extract_lets +onlyGivenNames t; subst t)
    | with_reducible apply putConn_keep
    | with_reducible apply putSq_keep
    | with_reducible apply cacheTouch_keep
    | with_reducible apply sqRun_keep
    | with_reducible apply pump_keep
    | ((fail_if_success (fail_if_success (conv => arg 3; arg 39))); with_reducible apply Keep.upd_tether)
    | split
    | dsimp -zeta only)

theorem sqFetch_keep {M : Part → Prop} {z s : State} (h_dev : ¬ M .dev) (h_free : ¬ M .free) (h_regs : ¬ M .regs) (h_od : ¬ M .od) (h_mem : ¬ M .mem) (h_memCtl : ¬ M .memCtl) (h_pwr : ¬ M .pwr) (h_start : ¬ M .start) (h_sdg : ¬ M .sdg) (h_frz : ¬ M .frz) (h_sec : ¬ M .sec) (h_pack : ¬ M .pack) (h_net : ¬ M .net) (h_tether : ¬ M .tether) (op : Nat) (q : Nat) (hz : Keep M z s) :
    Keep M z (sqFetch op q s) := by
  unfold sqFetch
  repeat' (first
    | with_reducible assumption
    | with_reducible exact Keep.refl _
    | intro _
    | ((fail_if_success (conv => arg 3; arg 1)); extract_lets +onlyGivenNames t; refine Keep.cut t ?_ ?_; subst t; rotate_left; clear_value t; intro ht; rotate_right)
    | ((fail_if_success (conv => arg 3; arg 1)); extract_lets +onlyGivenNames t; subst t)
    | with_reducible apply readRange_keep
    | ((with_reducible apply readRange_keep_of); with_reducible assumption)
    | with_reducible apply sqEntry_keep
    | with_reducible apply Keep.ite
    | with_reducible apply KeepP.fst
    | split
    | dsimp -zeta only)

theorem execTetherSqWrite_keep {M : Part → Prop} {z s : State} (h_dev : ¬ M .dev) (h_free : ¬ M .free) (h_regs : ¬ M .regs) (h_od : ¬ M .od) (h_mem : ¬ M .mem) (h_memCtl : ¬ M .memCtl) (h_pwr : ¬ M .pwr) (h_start : ¬ M .start) (h_sdg : ¬ M .sdg) (h_frz : ¬ M .frz) (h_sec : ¬ M .sec) (h_pack : ¬ M .pack) (h_net : ¬ M .net) (h_tether : ¬ M .tether) (sq : Fin 64) (hz : Keep M z s) :
    KeepN M z (execTetherSqWrite sq s) := by
  unfold execTetherSqWrite
  repeat' (first
    | with_reducible assumption
    | with_reducible exact Keep.refl _
    | intro _
    | with_reducible apply KeepN.next
    | with_reducible apply sqFetch_keep
    | split
    | dsimp -zeta only)

theorem execTetherSqWriteImm_keep {M : Part → Prop} {z s : State} (h_dev : ¬ M .dev) (h_free : ¬ M .free) (h_regs : ¬ M .regs) (h_od : ¬ M .od) (h_mem : ¬ M .mem) (h_memCtl : ¬ M .memCtl) (h_pwr : ¬ M .pwr) (h_start : ¬ M .start) (h_sdg : ¬ M .sdg) (h_frz : ¬ M .frz) (h_sec : ¬ M .sec) (h_pack : ¬ M .pack) (h_net : ¬ M .net) (h_tether : ¬ M .tether) (sq : Fin 64) (hz : Keep M z s) :
    KeepN M z (execTetherSqWriteImm sq s) := by
  unfold execTetherSqWriteImm
  repeat' (first
    | with_reducible assumption
    | with_reducible exact Keep.refl _
    | intro _
    | with_reducible apply KeepN.next
    | with_reducible apply sqFetch_keep
    | split
    | dsimp -zeta only)

theorem execTetherSqRead_keep {M : Part → Prop} {z s : State} (h_dev : ¬ M .dev) (h_free : ¬ M .free) (h_regs : ¬ M .regs) (h_od : ¬ M .od) (h_mem : ¬ M .mem) (h_memCtl : ¬ M .memCtl) (h_pwr : ¬ M .pwr) (h_start : ¬ M .start) (h_sdg : ¬ M .sdg) (h_frz : ¬ M .frz) (h_sec : ¬ M .sec) (h_pack : ¬ M .pack) (h_net : ¬ M .net) (h_tether : ¬ M .tether) (sq : Fin 64) (hz : Keep M z s) :
    KeepN M z (execTetherSqRead sq s) := by
  unfold execTetherSqRead
  repeat' (first
    | with_reducible assumption
    | with_reducible exact Keep.refl _
    | intro _
    | with_reducible apply KeepN.next
    | with_reducible apply sqFetch_keep
    | split
    | dsimp -zeta only)

theorem execTetherSqFlush_keep {M : Part → Prop} {z s : State} (h_dev : ¬ M .dev) (h_free : ¬ M .free) (h_regs : ¬ M .regs) (h_od : ¬ M .od) (h_mem : ¬ M .mem) (h_memCtl : ¬ M .memCtl) (h_pwr : ¬ M .pwr) (h_start : ¬ M .start) (h_sdg : ¬ M .sdg) (h_frz : ¬ M .frz) (h_sec : ¬ M .sec) (h_pack : ¬ M .pack) (h_net : ¬ M .net) (h_tether : ¬ M .tether) (sq : Fin 64) (hz : Keep M z s) :
    KeepN M z (execTetherSqFlush sq s) := by
  unfold execTetherSqFlush
  repeat' (first
    | with_reducible assumption
    | with_reducible exact Keep.refl _
    | intro _
    | with_reducible apply KeepN.next
    | with_reducible apply sqFetch_keep
    | split
    | dsimp -zeta only)

theorem tErr_keep {M : Part → Prop} {z s : State} (h_regs : ¬ M .regs) (a : Nat) (n : Nat) (hz : Keep M z s) :
    Keep M z (tErr a n s) := by
  unfold tErr
  repeat' (first
    | with_reducible assumption
    | with_reducible exact Keep.refl _
    | intro _
    | with_reducible apply regSetBits_keep
    | split
    | dsimp -zeta only)

theorem sqEff_keep {M : Part → Prop} {z s : State} (h_regs : ¬ M .regs) (h_mem : ¬ M .mem) (h_memCtl : ¬ M .memCtl) (h_sec : ¬ M .sec) (h_tether : ¬ M .tether) (q : Nat) (off : Nat) (v : Nat) (acc : Access) (hz : Keep M z s) :
    KeepW M z (sqEff q off v acc s) := by
  unfold sqEff
  repeat' (first
    | with_reducible assumption
    | with_reducible exact Keep.refl _
    | intro _
    | ((fail_if_success (conv => arg 3; arg 1)); extract_lets +onlyGivenNames t; refine KeepW.cut t ?_ ?_; subst t; rotate_left; clear_value t; intro ht; rotate_right)
    | ((fail_if_success (conv => arg 3; arg 1)); extract_lets +onlyGivenNames t; refine Keep.cut t ?_ ?_; subst t; rotate_left; clear_value t; intro ht; rotate_right)
    | ((fail_if_success (conv => arg 3; arg 1)); extract_lets +onlyGivenNames t; subst t)
    | with_reducible apply regPut_keep
    | with_reducible apply genericWrite_keep
    | with_reducible apply putSq_keep
    | with_reducible apply sqRun_keep
    | with_reducible apply tErr_keep
    | with_reducible apply Keep.ite
    | with_reducible apply KeepW.ite
    | with_reducible apply KeepW.done
    | with_reducible apply KeepW.denied
    | split
    | dsimp -zeta only)

theorem rqEff_keep {M : Part → Prop} {z s : State} (h_regs : ¬ M .regs) (h_tether : ¬ M .tether) (r : Nat) (off : Nat) (v : Nat) (acc : Access) (hz : Keep M z s) :
    KeepW M z (rqEff r off v acc s) := by
  unfold rqEff
  repeat' (first
    | with_reducible assumption
    | with_reducible exact Keep.refl _
    | intro _
    | ((fail_if_success (conv => arg 3; arg 1)); extract_lets +onlyGivenNames t; refine KeepW.cut t ?_ ?_; subst t; rotate_left; clear_value t; intro ht; rotate_right)
    | ((fail_if_success (conv => arg 3; arg 1)); extract_lets +onlyGivenNames t; refine Keep.cut t ?_ ?_; subst t; rotate_left; clear_value t; intro ht; rotate_right)
    | ((fail_if_success (conv => arg 3; arg 1)); extract_lets +onlyGivenNames t; subst t)
    | with_reducible apply regPut_keep
    | with_reducible apply genericWrite_keep
    | with_reducible apply tErr_keep
    | ((fail_if_success (fail_if_success (conv => arg 3; arg 39))); with_reducible apply Keep.upd_tether)
    | with_reducible apply Keep.ite
    | with_reducible apply KeepW.ite
    | with_reducible apply KeepW.done
    | with_reducible apply KeepW.denied
    | with_reducible apply KeepP.fst
    | split
    | dsimp -zeta only)

theorem evqEff_keep {M : Part → Prop} {z s : State} (h_regs : ¬ M .regs) (off : Nat) (v : Nat) (acc : Access) (hz : Keep M z s) :
    KeepW M z (evqEff off v acc s) := by
  unfold evqEff
  repeat' (first
    | with_reducible assumption
    | with_reducible exact Keep.refl _
    | intro _
    | ((fail_if_success (conv => arg 3; arg 1)); extract_lets +onlyGivenNames t; refine KeepW.cut t ?_ ?_; subst t; rotate_left; clear_value t; intro ht; rotate_right)
    | ((fail_if_success (conv => arg 3; arg 1)); extract_lets +onlyGivenNames t; refine Keep.cut t ?_ ?_; subst t; rotate_left; clear_value t; intro ht; rotate_right)
    | ((fail_if_success (conv => arg 3; arg 1)); extract_lets +onlyGivenNames t; subst t)
    | with_reducible apply regPut_keep
    | with_reducible apply genericWrite_keep
    | with_reducible apply tErr_keep
    | with_reducible apply Keep.ite
    | with_reducible apply KeepW.ite
    | with_reducible apply KeepW.done
    | with_reducible apply KeepW.denied
    | split
    | dsimp -zeta only)

theorem connResult_keep {M : Part → Prop} {z s : State} (h_regs : ¬ M .regs) (st : Nat) (hz : Keep M z s) :
    Keep M z (connResult st s) := by
  unfold connResult
  repeat' (first
    | with_reducible assumption
    | with_reducible exact Keep.refl _
    | intro _
    | with_reducible apply regUpd_keep
    | split
    | dsimp -zeta only)

theorem connCmdEff_keep {M : Part → Prop} {z s : State} (h_regs : ¬ M .regs) (h_mem : ¬ M .mem) (h_memCtl : ¬ M .memCtl) (h_sec : ¬ M .sec) (h_net : ¬ M .net) (h_tether : ¬ M .tether) (v : Nat) (acc : Access) (hz : Keep M z s) :
    KeepW M z (connCmdEff v acc s) := by
  unfold connCmdEff
  repeat' (first
    | with_reducible assumption
    | with_reducible exact Keep.refl _
    | intro _
    | ((fail_if_success (conv => arg 3; arg 1)); extract_lets +onlyGivenNames t; refine KeepW.cut t ?_ ?_; subst t; rotate_left; clear_value t; intro ht; rotate_right)
    | ((fail_if_success (conv => arg 3; arg 1)); extract_lets +onlyGivenNames t; refine Keep.cut t ?_ ?_; subst t; rotate_left; clear_value t; intro ht; rotate_right)
    | ((fail_if_success (conv => arg 3; arg 1)); extract_lets +onlyGivenNames t; subst t)
    | with_reducible apply regPut_keep
    | with_reducible apply putConn_keep
    | with_reducible apply connFlush_keep
    | with_reducible apply connResult_keep
    | with_reducible apply Keep.ite
    | with_reducible apply KeepW.ite
    | with_reducible apply KeepW.done
    | with_reducible apply KeepW.denied
    | split
    | dsimp -zeta only)

theorem regResult_keep {M : Part → Prop} {z s : State} (h_regs : ¬ M .regs) (st : Nat) (hz : Keep M z s) :
    Keep M z (regResult st s) := by
  unfold regResult
  repeat' (first
    | with_reducible assumption
    | with_reducible exact Keep.refl _
    | intro _
    | with_reducible apply regPut_keep
    | split
    | dsimp -zeta only)

theorem regCmdEff_keep {M : Part → Prop} {z s : State} (h_regs : ¬ M .regs) (h_tether : ¬ M .tether) (v : Nat) (acc : Access) (hz : Keep M z s) :
    KeepW M z (regCmdEff v acc s) := by
  unfold regCmdEff
  repeat' (first
    | with_reducible assumption
    | with_reducible exact Keep.refl _
    | intro _
    | ((fail_if_success (conv => arg 3; arg 1)); extract_lets +onlyGivenNames t; refine KeepW.cut t ?_ ?_; subst t; rotate_left; clear_value t; intro ht; rotate_right)
    | ((fail_if_success (conv => arg 3; arg 1)); extract_lets +onlyGivenNames t; refine Keep.cut t ?_ ?_; subst t; rotate_left; clear_value t; intro ht; rotate_right)
    | ((fail_if_success (conv => arg 3; arg 1)); extract_lets +onlyGivenNames t; subst t)
    | with_reducible apply regPut_keep
    | with_reducible apply regResult_keep
    | ((fail_if_success (fail_if_success (conv => arg 3; arg 39))); with_reducible apply Keep.upd_tether)
    | with_reducible apply Keep.ite
    | with_reducible apply KeepW.ite
    | with_reducible apply KeepW.done
    | with_reducible apply KeepW.denied
    | split
    | dsimp -zeta only)

theorem tetherEff_keep {M : Part → Prop} {z s : State} (h_regs : ¬ M .regs) (h_mem : ¬ M .mem) (h_memCtl : ¬ M .memCtl) (h_sec : ¬ M .sec) (h_net : ¬ M .net) (h_tether : ¬ M .tether) (a : Nat) (v : Nat) (acc : Access) (hz : Keep M z s) :
    KeepW M z (tetherEff a v acc s) := by
  unfold tetherEff
  repeat' (first
    | with_reducible assumption
    | with_reducible exact Keep.refl _
    | intro _
    | with_reducible apply genericWrite_keep
    | with_reducible apply sqEff_keep
    | with_reducible apply rqEff_keep
    | with_reducible apply evqEff_keep
    | with_reducible apply connCmdEff_keep
    | with_reducible apply regCmdEff_keep
    | with_reducible apply Keep.ite
    | with_reducible apply KeepW.ite
    | with_reducible apply KeepW.done
    | with_reducible apply KeepW.denied
    | split
    | dsimp -zeta only)

theorem execTetherSqDoorbell_keep {M : Part → Prop} {z s : State} (h_dev : ¬ M .dev) (h_now : ¬ M .now) (h_regs : ¬ M .regs) (h_hold : ¬ M .hold) (h_od : ¬ M .od) (h_mem : ¬ M .mem) (h_memCtl : ¬ M .memCtl) (h_pwr : ¬ M .pwr) (h_start : ¬ M .start) (h_sdg : ¬ M .sdg) (h_frz : ¬ M .frz) (h_apps : ¬ M .apps) (h_sec : ¬ M .sec) (h_pack : ¬ M .pack) (h_net : ¬ M .net) (h_tether : ¬ M .tether) (h_splice : ¬ M .splice) (h_gtime : ¬ M .gtime) (sq : Fin 64) (acc : Access) (tail : Nat) (hz : Keep M z s) :
    KeepN M z (execTetherSqDoorbell sq acc tail s) := by
  unfold execTetherSqDoorbell
  repeat' (first
    | with_reducible assumption
    | with_reducible exact Keep.refl _
    | intro _
    | with_reducible apply KeepN.next
    | with_reducible apply regWriteWith_keep
    | with_reducible apply tetherEff_keep
    | split
    | dsimp -zeta only)

theorem connCmd_keep {M : Part → Prop} {z s : State} (h_dev : ¬ M .dev) (h_now : ¬ M .now) (h_regs : ¬ M .regs) (h_hold : ¬ M .hold) (h_od : ¬ M .od) (h_mem : ¬ M .mem) (h_memCtl : ¬ M .memCtl) (h_pwr : ¬ M .pwr) (h_start : ¬ M .start) (h_sdg : ¬ M .sdg) (h_frz : ¬ M .frz) (h_apps : ¬ M .apps) (h_sec : ¬ M .sec) (h_pack : ¬ M .pack) (h_net : ¬ M .net) (h_tether : ¬ M .tether) (h_splice : ¬ M .splice) (h_gtime : ¬ M .gtime) (op : Nat) (handle : Nat) (acc : Access) (hz : Keep M z s) :
    Keep M z (connCmd op handle acc s) := by
  unfold connCmd
  repeat' (first
    | with_reducible assumption
    | with_reducible exact Keep.refl _
    | intro _
    | with_reducible apply regWriteWith_keep
    | with_reducible apply tetherEff_keep
    | split
    | dsimp -zeta only)

theorem execConnEnable_keep {M : Part → Prop} {z s : State} (h_dev : ¬ M .dev) (h_now : ¬ M .now) (h_regs : ¬ M .regs) (h_hold : ¬ M .hold) (h_od : ¬ M .od) (h_mem : ¬ M .mem) (h_memCtl : ¬ M .memCtl) (h_pwr : ¬ M .pwr) (h_start : ¬ M .start) (h_sdg : ¬ M .sdg) (h_frz : ¬ M .frz) (h_apps : ¬ M .apps) (h_sec : ¬ M .sec) (h_pack : ¬ M .pack) (h_net : ¬ M .net) (h_tether : ¬ M .tether) (h_splice : ¬ M .splice) (h_gtime : ¬ M .gtime) (handle : Fin 4096) (acc : Access) (hz : Keep M z s) :
    KeepN M z (execConnEnable handle acc s) := by
  unfold execConnEnable
  repeat' (first
    | with_reducible assumption
    | with_reducible exact Keep.refl _
    | intro _
    | with_reducible apply KeepN.next
    | with_reducible apply connCmd_keep
    | split
    | dsimp -zeta only)

theorem execConnDisable_keep {M : Part → Prop} {z s : State} (h_dev : ¬ M .dev) (h_now : ¬ M .now) (h_regs : ¬ M .regs) (h_hold : ¬ M .hold) (h_od : ¬ M .od) (h_mem : ¬ M .mem) (h_memCtl : ¬ M .memCtl) (h_pwr : ¬ M .pwr) (h_start : ¬ M .start) (h_sdg : ¬ M .sdg) (h_frz : ¬ M .frz) (h_apps : ¬ M .apps) (h_sec : ¬ M .sec) (h_pack : ¬ M .pack) (h_net : ¬ M .net) (h_tether : ¬ M .tether) (h_splice : ¬ M .splice) (h_gtime : ¬ M .gtime) (handle : Fin 4096) (acc : Access) (hz : Keep M z s) :
    KeepN M z (execConnDisable handle acc s) := by
  unfold execConnDisable
  repeat' (first
    | with_reducible assumption
    | with_reducible exact Keep.refl _
    | intro _
    | with_reducible apply KeepN.next
    | with_reducible apply connCmd_keep
    | split
    | dsimp -zeta only)

theorem execConnQuery_keep {M : Part → Prop} {z s : State} (h_dev : ¬ M .dev) (h_now : ¬ M .now) (h_regs : ¬ M .regs) (h_hold : ¬ M .hold) (h_od : ¬ M .od) (h_mem : ¬ M .mem) (h_memCtl : ¬ M .memCtl) (h_pwr : ¬ M .pwr) (h_start : ¬ M .start) (h_sdg : ¬ M .sdg) (h_frz : ¬ M .frz) (h_apps : ¬ M .apps) (h_sec : ¬ M .sec) (h_pack : ¬ M .pack) (h_net : ¬ M .net) (h_tether : ¬ M .tether) (h_splice : ¬ M .splice) (h_gtime : ¬ M .gtime) (handle : Fin 4096) (acc : Access) (hz : Keep M z s) :
    KeepN M z (execConnQuery handle acc s) := by
  unfold execConnQuery
  repeat' (first
    | with_reducible assumption
    | with_reducible exact Keep.refl _
    | intro _
    | with_reducible apply KeepN.next
    | with_reducible apply connCmd_keep
    | split
    | dsimp -zeta only)

theorem execRegister_keep {M : Part → Prop} {z s : State} (h_dev : ¬ M .dev) (h_now : ¬ M .now) (h_regs : ¬ M .regs) (h_hold : ¬ M .hold) (h_od : ¬ M .od) (h_mem : ¬ M .mem) (h_memCtl : ¬ M .memCtl) (h_pwr : ¬ M .pwr) (h_start : ¬ M .start) (h_sdg : ¬ M .sdg) (h_frz : ¬ M .frz) (h_apps : ¬ M .apps) (h_sec : ¬ M .sec) (h_pack : ¬ M .pack) (h_net : ¬ M .net) (h_tether : ¬ M .tether) (h_splice : ¬ M .splice) (h_gtime : ¬ M .gtime) (index : Fin 4096) (acc : Access) (hz : Keep M z s) :
    KeepN M z (execRegister index acc s) := by
  unfold execRegister
  repeat' (first
    | with_reducible assumption
    | with_reducible exact Keep.refl _
    | intro _
    | with_reducible apply KeepN.next
    | with_reducible apply regWriteWith_keep
    | with_reducible apply tetherEff_keep
    | split
    | dsimp -zeta only)

theorem execDeregister_keep {M : Part → Prop} {z s : State} (h_dev : ¬ M .dev) (h_now : ¬ M .now) (h_regs : ¬ M .regs) (h_hold : ¬ M .hold) (h_od : ¬ M .od) (h_mem : ¬ M .mem) (h_memCtl : ¬ M .memCtl) (h_pwr : ¬ M .pwr) (h_start : ¬ M .start) (h_sdg : ¬ M .sdg) (h_frz : ¬ M .frz) (h_apps : ¬ M .apps) (h_sec : ¬ M .sec) (h_pack : ¬ M .pack) (h_net : ¬ M .net) (h_tether : ¬ M .tether) (h_splice : ¬ M .splice) (h_gtime : ¬ M .gtime) (index : Fin 4096) (acc : Access) (hz : Keep M z s) :
    KeepN M z (execDeregister index acc s) := by
  unfold execDeregister
  repeat' (first
    | with_reducible assumption
    | with_reducible exact Keep.refl _
    | intro _
    | with_reducible apply KeepN.next
    | with_reducible apply regWriteWith_keep
    | with_reducible apply tetherEff_keep
    | split
    | dsimp -zeta only)

theorem tetherLeft_keep {M : Part → Prop} {z s : State} (h_regs : ¬ M .regs) (h_od : ¬ M .od) (h_mem : ¬ M .mem) (h_memCtl : ¬ M .memCtl) (h_sec : ¬ M .sec) (h_tether : ¬ M .tether) (h : Nat) (op : Option Nat) (hz : Keep M z s) :
    Keep M z (tetherLeft h op s) := by
  unfold tetherLeft
  repeat' (first
    | with_reducible assumption
    | with_reducible exact Keep.refl _
    | intro _
    | ((fail_if_success (conv => arg 3; arg 1)); extract_lets +onlyGivenNames t; refine Keep.cut t ?_ ?_; subst t; rotate_left; clear_value t; intro ht; rotate_right)
    | ((fail_if_success (conv => arg 3; arg 1)); extract_lets +onlyGivenNames t; subst t)
    | with_reducible apply odCount_keep
    | with_reducible apply opDecide_keep
    | with_reducible apply putOp_keep
    | split
    | dsimp -zeta only)

theorem tetherLink_keep {M : Part → Prop} {z s : State} (h_regs : ¬ M .regs) (h_mem : ¬ M .mem) (h_memCtl : ¬ M .memCtl) (h_sec : ¬ M .sec) (up : Bool) (p : Nat) (hz : Keep M z s) :
    Keep M z (tetherLink up p s) := by
  unfold tetherLink
  repeat' (first
    | with_reducible assumption
    | with_reducible exact Keep.refl _
    | intro _
    | with_reducible apply tEvent_keep
    | with_reducible apply Keep.ite
    | split
    | dsimp -zeta only)

end Sys2Proof.Machine
end

