-- ==== Sys2Proof/Laws/KeepFreezeFrame.lean ====
section
/-! SUPPORT. What the operations of Machine/FreezeFrame.lean keep: one lemma each. -/

namespace Sys2Proof.Machine

theorem putBank_keep {M : Part → Prop} {z s : State} (h_frz : ¬ M .frz) (b : Nat) (t : Tab Word) (hz : Keep M z s) :
    Keep M z (putBank b t s) := by
  unfold putBank
  repeat' (first
    | with_reducible assumption
    | with_reducible exact Keep.refl _
    | intro _
    | ((fail_if_success (fail_if_success (conv => arg 3; arg 39))); with_reducible apply Keep.upd_frz)
    | with_reducible apply Keep.ite
    | split
    | dsimp -zeta only)

theorem frzLatch_keep {M : Part → Prop} {z s : State} (h_now : ¬ M .now) (h_frz : ¬ M .frz) (h_gtime : ¬ M .gtime) (hz : Keep M z s) :
    Keep M z (frzLatch s) := by
  unfold frzLatch
  repeat' (first
    | with_reducible assumption
    | with_reducible exact Keep.refl _
    | intro _
    | ((fail_if_success (conv => arg 3; arg 1)); extract_lets +onlyGivenNames t; refine Keep.cut t ?_ ?_; subst t; rotate_left; clear_value t; intro ht; rotate_right)
    | ((fail_if_success (conv => arg 3; arg 1)); extract_lets +onlyGivenNames t; subst t)
    | with_reducible apply gtimeReach_keep
    | with_reducible apply putBank_keep
    | ((fail_if_success (fail_if_success (conv => arg 3; arg 39))); with_reducible apply Keep.upd_frz)
    | with_reducible apply Keep.ite
    | split
    | dsimp -zeta only)

theorem execFrzLatch_keep {M : Part → Prop} {z s : State} (h_now : ¬ M .now) (h_frz : ¬ M .frz) (h_gtime : ¬ M .gtime) (hz : Keep M z s) :
    KeepN M z (execFrzLatch s) := by
  unfold execFrzLatch
  repeat' (first
    | with_reducible assumption
    | with_reducible exact Keep.refl _
    | intro _
    | with_reducible apply KeepN.next
    | with_reducible apply frzLatch_keep
    | split
    | dsimp -zeta only)

theorem frzFill_keep {M : Part → Prop} {z s : State} (h_regs : ¬ M .regs) (h_od : ¬ M .od) (h_frz : ¬ M .frz) (h_net : ¬ M .net) (h_gtime : ¬ M .gtime) (unconfirmed : List Nat) (hz : Keep M z s) :
    Keep M z (frzFill unconfirmed s) := by
  unfold frzFill
  repeat' (first
    | with_reducible assumption
    | with_reducible exact Keep.refl _
    | intro _
    | ((fail_if_success (conv => arg 3; arg 1)); extract_lets +onlyGivenNames t; refine Keep.cut t ?_ ?_; subst t; rotate_left; clear_value t; intro ht; rotate_right)
    | ((fail_if_success (conv => arg 3; arg 1)); extract_lets +onlyGivenNames t; refine KeepP.cut t ?_ ?_; subst t; rotate_left; clear_value t; intro ht; rotate_right)
    | ((fail_if_success (conv => arg 3; arg 1)); extract_lets +onlyGivenNames t; subst t)
    | with_reducible apply sendMsg_keep
    | with_reducible apply gtimeStep_keep
    | with_reducible apply putBank_keep
    | ((fail_if_success (fail_if_success (conv => arg 3; arg 39))); with_reducible apply Keep.upd_frz)
    | ((fail_if_success (fail_if_success (conv => arg 3; arg 39))); with_reducible apply Keep.upd_net)
    | with_reducible apply Keep.ite
    | ((fail_if_success (conv => arg 3; arg 3)); with_reducible apply KeepP.mk')
    | with_reducible apply KeepP.foldl
    | with_reducible apply Keep.foldl
    | with_reducible apply KeepP.fst
    | split
    | dsimp -zeta only)

theorem execFrzBankFull_keep {M : Part → Prop} {z s : State} (h_regs : ¬ M .regs) (h_od : ¬ M .od) (h_frz : ¬ M .frz) (h_net : ¬ M .net) (h_gtime : ¬ M .gtime) (unconfirmed : List Nat) (hz : Keep M z s) :
    KeepN M z (execFrzBankFull unconfirmed s) := by
  unfold execFrzBankFull
  repeat' (first
    | with_reducible assumption
    | with_reducible exact Keep.refl _
    | intro _
    | with_reducible apply KeepN.next
    | with_reducible apply frzFill_keep
    | split
    | dsimp -zeta only)

theorem writeRecord_keep {M : Part → Prop} {z s : State} (h_od : ¬ M .od) (h_frz : ¬ M .frz) (hz : Keep M z s) :
    Keep M z (writeRecord s) := by
  unfold writeRecord
  repeat' (first
    | with_reducible assumption
    | with_reducible exact Keep.refl _
    | intro _
    | ((fail_if_success (conv => arg 3; arg 1)); extract_lets +onlyGivenNames t; refine Keep.cut t ?_ ?_; subst t; rotate_left; clear_value t; intro ht; rotate_right)
    | ((fail_if_success (conv => arg 3; arg 1)); extract_lets +onlyGivenNames t; subst t)
    | with_reducible apply odCount_keep
    | ((fail_if_success (fail_if_success (conv => arg 3; arg 39))); with_reducible apply Keep.upd_frz)
    | with_reducible apply Keep.ite
    | split
    | dsimp -zeta only)

theorem execFrzRecord_keep {M : Part → Prop} {z s : State} (h_od : ¬ M .od) (h_frz : ¬ M .frz) (hz : Keep M z s) :
    KeepN M z (execFrzRecord s) := by
  unfold execFrzRecord
  repeat' (first
    | with_reducible assumption
    | with_reducible exact Keep.refl _
    | intro _
    | with_reducible apply KeepN.next
    | with_reducible apply writeRecord_keep
    | split
    | dsimp -zeta only)

theorem execFrzTrigPin_keep {M : Part → Prop} {z s : State} (h_regs : ¬ M .regs) (h_od : ¬ M .od) (h_frz : ¬ M .frz) (lowNs : Nat) (highNs : Nat) (hz : Keep M z s) :
    KeepN M z (execFrzTrigPin lowNs highNs s) := by
  unfold execFrzTrigPin
  repeat' (first
    | with_reducible assumption
    | with_reducible exact Keep.refl _
    | intro _
    | with_reducible apply KeepN.next
    | with_reducible apply frzTrigger_keep
    | with_reducible apply Keep.ite
    | with_reducible apply KeepN.ite
    | split
    | dsimp -zeta only)

theorem execFrzScheduledAccept_keep {M : Part → Prop} {z s : State} (h_now : ¬ M .now) (h_regs : ¬ M .regs) (h_od : ¬ M .od) (h_frz : ¬ M .frz) (h_gtime : ¬ M .gtime) (hz : Keep M z s) :
    KeepN M z (execFrzScheduledAccept s) := by
  unfold execFrzScheduledAccept
  repeat' (first
    | with_reducible assumption
    | with_reducible exact Keep.refl _
    | intro _
    | with_reducible apply KeepN.next
    | ((fail_if_success (conv => arg 3; arg 1)); extract_lets +onlyGivenNames t; refine KeepN.cut t ?_ ?_; subst t; rotate_left; clear_value t; intro ht; rotate_right)
    | ((fail_if_success (conv => arg 3; arg 1)); extract_lets +onlyGivenNames t; refine Keep.cut t ?_ ?_; subst t; rotate_left; clear_value t; intro ht; rotate_right)
    | ((fail_if_success (conv => arg 3; arg 1)); extract_lets +onlyGivenNames t; subst t)
    | with_reducible apply gtimeReach_keep
    | with_reducible apply frzAccept_keep
    | ((fail_if_success (fail_if_success (conv => arg 3; arg 39))); with_reducible apply Keep.upd_frz)
    | with_reducible apply Keep.ite
    | with_reducible apply KeepN.ite
    | split
    | dsimp -zeta only)

theorem frzFree_keep {M : Part → Prop} {z s : State} (h_frz : ¬ M .frz) (mask : Nat) (hz : Keep M z s) :
    Keep M z (frzFree mask s) := by
  unfold frzFree
  repeat' (first
    | with_reducible assumption
    | with_reducible exact Keep.refl _
    | intro _
    | ((fail_if_success (fail_if_success (conv => arg 3; arg 39))); with_reducible apply Keep.upd_frz)
    | split
    | dsimp -zeta only)

theorem frzEff_keep {M : Part → Prop} {z s : State} (h_regs : ¬ M .regs) (h_od : ¬ M .od) (h_frz : ¬ M .frz) (a : Nat) (v : Nat) (hz : Keep M z s) :
    KeepW M z (frzEff a v s) := by
  unfold frzEff
  repeat' (first
    | with_reducible assumption
    | with_reducible exact Keep.refl _
    | intro _
    | with_reducible apply frzTrigger_keep
    | with_reducible apply genericWrite_keep
    | with_reducible apply frzFree_keep
    | with_reducible apply Keep.ite
    | with_reducible apply KeepW.ite
    | with_reducible apply KeepW.done
    | with_reducible apply KeepW.denied
    | split
    | dsimp -zeta only)

theorem execFrzSwTrig_keep {M : Part → Prop} {z s : State} (h_dev : ¬ M .dev) (h_now : ¬ M .now) (h_regs : ¬ M .regs) (h_hold : ¬ M .hold) (h_od : ¬ M .od) (h_pwr : ¬ M .pwr) (h_start : ¬ M .start) (h_sdg : ¬ M .sdg) (h_frz : ¬ M .frz) (h_apps : ¬ M .apps) (h_pack : ¬ M .pack) (h_splice : ¬ M .splice) (h_gtime : ¬ M .gtime) (acc : Access) (value : Word) (hz : Keep M z s) :
    KeepN M z (execFrzSwTrig acc value s) := by
  unfold execFrzSwTrig
  repeat' (first
    | with_reducible assumption
    | with_reducible exact Keep.refl _
    | intro _
    | with_reducible apply KeepN.next
    | with_reducible apply regWriteWith_keep
    | with_reducible apply frzEff_keep
    | split
    | dsimp -zeta only)

theorem frzApply_keep {M : Part → Prop} {z s : State} (h_regs : ¬ M .regs) (h_od : ¬ M .od) (h_frz : ¬ M .frz) (k : Nat) (v : Nat) (hz : Keep M z s) :
    Keep M z (frzApply k v s) := by
  unfold frzApply
  repeat' (first
    | with_reducible assumption
    | with_reducible exact Keep.refl _
    | intro _
    | with_reducible apply frzTrigger_keep
    | with_reducible apply frzFree_keep
    | ((fail_if_success (fail_if_success (conv => arg 3; arg 39))); with_reducible apply Keep.upd_frz)
    | with_reducible apply Keep.ite
    | split
    | dsimp -zeta only)

end Sys2Proof.Machine
end

