-- ==== Sys2Proof/Laws/KeepWhistle.lean ====
section
/-! SUPPORT. What the operations of Machine/Whistle.lean keep: one lemma each. -/

namespace Sys2Proof.Machine

theorem putPendant_keep {M : Part → Prop} {z s : State} (h_wh : ¬ M .wh) (k : Nat) (p : Pendant) (hz : Keep M z s) :
    Keep M z (putPendant k p s) := by
  unfold putPendant
  repeat' (first
    | with_reducible assumption
    | with_reducible exact Keep.refl _
    | intro _
    | ((fail_if_success (fail_if_success (conv => arg 3; arg 39))); with_reducible apply Keep.upd_wh)
    | split
    | dsimp -zeta only)

theorem whReject_keep {M : Part → Prop} {z s : State} (h_regs : ¬ M .regs) (h_wh : ¬ M .wh) (reason : Nat) (hz : Keep M z s) :
    Keep M z (whReject reason s) := by
  unfold whReject
  repeat' (first
    | with_reducible assumption
    | with_reducible exact Keep.refl _
    | intro _
    | ((fail_if_success (conv => arg 3; arg 1)); extract_lets +onlyGivenNames t; refine Keep.cut t ?_ ?_; subst t; rotate_left; clear_value t; intro ht; rotate_right)
    | ((fail_if_success (conv => arg 3; arg 1)); extract_lets +onlyGivenNames t; subst t)
    | with_reducible apply regCount_keep
    | with_reducible apply sendMsg_keep
    | ((fail_if_success (fail_if_success (conv => arg 3; arg 39))); with_reducible apply Keep.upd_wh)
    | with_reducible apply Keep.ite
    | split
    | dsimp -zeta only)

theorem whArm_keep {M : Part → Prop} {z s : State} (h_wh : ¬ M .wh) (k : Nat) (on : Bool) (hz : Keep M z s) :
    Keep M z (whArm k on s) := by
  unfold whArm
  repeat' (first
    | with_reducible assumption
    | with_reducible exact Keep.refl _
    | intro _
    | ((fail_if_success (conv => arg 3; arg 1)); extract_lets +onlyGivenNames t; refine Keep.cut t ?_ ?_; subst t; rotate_left; clear_value t; intro ht; rotate_right)
    | ((fail_if_success (conv => arg 3; arg 1)); extract_lets +onlyGivenNames t; subst t)
    | with_reducible apply putPendant_keep
    | ((fail_if_success (fail_if_success (conv => arg 3; arg 39))); with_reducible apply Keep.upd_wh)
    | with_reducible apply Keep.ite
    | split
    | dsimp -zeta only)

theorem whRecord_keep {M : Part → Prop} {z s : State} (h_regs : ¬ M .regs) (h_wh : ¬ M .wh) (r : WhRec) (hz : Keep M z s) :
    Keep M z (whRecord r s) := by
  unfold whRecord
  repeat' (first
    | with_reducible assumption
    | with_reducible exact Keep.refl _
    | intro _
    | with_reducible apply regCount_keep
    | with_reducible apply sendMsg_keep
    | ((fail_if_success (fail_if_success (conv => arg 3; arg 39))); with_reducible apply Keep.upd_wh)
    | with_reducible apply Keep.ite
    | split
    | dsimp -zeta only)

theorem whAccept_keep {M : Part → Prop} {z s : State} (h_regs : ¬ M .regs) (h_od : ¬ M .od) (h_sdg : ¬ M .sdg) (h_wh : ¬ M .wh) (n : Nat) (body : Nat) (k : Nat) (c : Int) (hz : Keep M z s) :
    Keep M z (whAccept n body k c s) := by
  unfold whAccept
  repeat' (first
    | with_reducible assumption
    | with_reducible exact Keep.refl _
    | (intro _ hp; exact PinsOk.same hp rfl rfl rfl rfl rfl)
    | intro _
    | ((fail_if_success (conv => arg 3; arg 1)); extract_lets +onlyGivenNames t; refine Keep.cut t ?_ ?_; subst t; rotate_left; clear_value t; intro ht; rotate_right)
    | ((fail_if_success (conv => arg 3; arg 1)); extract_lets +onlyGivenNames t; subst t)
    | with_reducible apply regCount_keep
    | with_reducible apply odCount_keep
    | with_reducible apply safeMsg_keep
    | with_reducible apply ssRequest_keep
    | with_reducible apply putPendant_keep
    | with_reducible apply whArm_keep
    | with_reducible apply whRecord_keep
    | ((fail_if_success (fail_if_success (conv => arg 3; arg 39))); with_reducible apply Keep.upd_sdg)
    | with_reducible apply Keep.ite
    | split
    | dsimp -zeta only)

theorem whFrame_keep {M : Part → Prop} {z s : State} (h_regs : ¬ M .regs) (h_od : ¬ M .od) (h_sdg : ¬ M .sdg) (h_wh : ¬ M .wh) (n : Nat) (body : Word) (hz : Keep M z s) :
    Keep M z (whFrame n body s) := by
  unfold whFrame
  repeat' (first
    | with_reducible assumption
    | with_reducible exact Keep.refl _
    | intro _
    | with_reducible apply whReject_keep
    | with_reducible apply whAccept_keep
    | with_reducible apply Keep.ite
    | split
    | dsimp -zeta only)

theorem whFrameOf_keep {M : Part → Prop} {z s : State} (h_regs : ¬ M .regs) (h_od : ¬ M .od) (h_sdg : ¬ M .sdg) (h_wh : ¬ M .wh) (command : Nat) (n : Nat) (body : Word) (hz : Keep M z s) :
    Keep M z (whFrameOf command n body s) := by
  unfold whFrameOf
  repeat' (first
    | with_reducible assumption
    | with_reducible exact Keep.refl _
    | intro _
    | with_reducible apply whFrame_keep
    | with_reducible apply Keep.ite
    | split
    | dsimp -zeta only)

theorem execWhistleStop_keep {M : Part → Prop} {z s : State} (h_regs : ¬ M .regs) (h_od : ¬ M .od) (h_sdg : ¬ M .sdg) (h_wh : ¬ M .wh) (channel : Fin 4) (body : Word) (hz : Keep M z s) :
    KeepN M z (execWhistleStop channel body s) := by
  unfold execWhistleStop
  repeat' (first
    | with_reducible assumption
    | with_reducible exact Keep.refl _
    | intro _
    | with_reducible apply KeepN.next
    | with_reducible apply whFrameOf_keep
    | split
    | dsimp -zeta only)

theorem execWhistleHold_keep {M : Part → Prop} {z s : State} (h_regs : ¬ M .regs) (h_od : ¬ M .od) (h_sdg : ¬ M .sdg) (h_wh : ¬ M .wh) (channel : Fin 4) (body : Word) (hz : Keep M z s) :
    KeepN M z (execWhistleHold channel body s) := by
  unfold execWhistleHold
  repeat' (first
    | with_reducible assumption
    | with_reducible exact Keep.refl _
    | intro _
    | with_reducible apply KeepN.next
    | with_reducible apply whFrameOf_keep
    | split
    | dsimp -zeta only)

theorem execHitchUp_keep {M : Part → Prop} {z s : State} (h_regs : ¬ M .regs) (h_od : ¬ M .od) (h_sdg : ¬ M .sdg) (h_wh : ¬ M .wh) (channel : Fin 4) (body : Word) (hz : Keep M z s) :
    KeepN M z (execHitchUp channel body s) := by
  unfold execHitchUp
  repeat' (first
    | with_reducible assumption
    | with_reducible exact Keep.refl _
    | intro _
    | with_reducible apply KeepN.next
    | with_reducible apply whFrameOf_keep
    | split
    | dsimp -zeta only)

theorem execHitchDown_keep {M : Part → Prop} {z s : State} (h_regs : ¬ M .regs) (h_od : ¬ M .od) (h_sdg : ¬ M .sdg) (h_wh : ¬ M .wh) (channel : Fin 4) (body : Word) (hz : Keep M z s) :
    KeepN M z (execHitchDown channel body s) := by
  unfold execHitchDown
  repeat' (first
    | with_reducible assumption
    | with_reducible exact Keep.refl _
    | intro _
    | with_reducible apply KeepN.next
    | with_reducible apply whFrameOf_keep
    | split
    | dsimp -zeta only)

theorem execCreepFwd_keep {M : Part → Prop} {z s : State} (h_regs : ¬ M .regs) (h_od : ¬ M .od) (h_sdg : ¬ M .sdg) (h_wh : ¬ M .wh) (channel : Fin 4) (body : Word) (hz : Keep M z s) :
    KeepN M z (execCreepFwd channel body s) := by
  unfold execCreepFwd
  repeat' (first
    | with_reducible assumption
    | with_reducible exact Keep.refl _
    | intro _
    | with_reducible apply KeepN.next
    | with_reducible apply whFrameOf_keep
    | split
    | dsimp -zeta only)

theorem execCreepRev_keep {M : Part → Prop} {z s : State} (h_regs : ¬ M .regs) (h_od : ¬ M .od) (h_sdg : ¬ M .sdg) (h_wh : ¬ M .wh) (channel : Fin 4) (body : Word) (hz : Keep M z s) :
    KeepN M z (execCreepRev channel body s) := by
  unfold execCreepRev
  repeat' (first
    | with_reducible assumption
    | with_reducible exact Keep.refl _
    | intro _
    | with_reducible apply KeepN.next
    | with_reducible apply whFrameOf_keep
    | split
    | dsimp -zeta only)

theorem execWhistleHeartbeat_keep {M : Part → Prop} {z s : State} (h_regs : ¬ M .regs) (h_od : ¬ M .od) (h_sdg : ¬ M .sdg) (h_wh : ¬ M .wh) (channel : Fin 4) (body : Word) (hz : Keep M z s) :
    KeepN M z (execWhistleHeartbeat channel body s) := by
  unfold execWhistleHeartbeat
  repeat' (first
    | with_reducible assumption
    | with_reducible exact Keep.refl _
    | intro _
    | with_reducible apply KeepN.next
    | with_reducible apply whFrameOf_keep
    | split
    | dsimp -zeta only)

theorem execWhistleArm_keep {M : Part → Prop} {z s : State} (h_regs : ¬ M .regs) (h_od : ¬ M .od) (h_sdg : ¬ M .sdg) (h_wh : ¬ M .wh) (channel : Fin 4) (body : Word) (hz : Keep M z s) :
    KeepN M z (execWhistleArm channel body s) := by
  unfold execWhistleArm
  repeat' (first
    | with_reducible assumption
    | with_reducible exact Keep.refl _
    | intro _
    | with_reducible apply KeepN.next
    | with_reducible apply whFrameOf_keep
    | split
    | dsimp -zeta only)

theorem execWhistleDisarm_keep {M : Part → Prop} {z s : State} (h_regs : ¬ M .regs) (h_od : ¬ M .od) (h_sdg : ¬ M .sdg) (h_wh : ¬ M .wh) (channel : Fin 4) (body : Word) (hz : Keep M z s) :
    KeepN M z (execWhistleDisarm channel body s) := by
  unfold execWhistleDisarm
  repeat' (first
    | with_reducible assumption
    | with_reducible exact Keep.refl _
    | intro _
    | with_reducible apply KeepN.next
    | with_reducible apply whFrameOf_keep
    | split
    | dsimp -zeta only)

theorem execRejectedFrame_keep {M : Part → Prop} {z s : State} (h_regs : ¬ M .regs) (h_od : ¬ M .od) (h_sdg : ¬ M .sdg) (h_wh : ¬ M .wh) (channel : Fin 4) (body : Word) (hz : Keep M z s) :
    KeepN M z (execRejectedFrame channel body s) := by
  unfold execRejectedFrame
  repeat' (first
    | with_reducible assumption
    | with_reducible exact Keep.refl _
    | intro _
    | with_reducible apply KeepN.next
    | with_reducible apply whFrame_keep
    | split
    | dsimp -zeta only)

theorem execWhistleCodingError_keep {M : Part → Prop} {z s : State} (h_regs : ¬ M .regs) (channel : Fin 4) (hz : Keep M z s) :
    KeepN M z (execWhistleCodingError channel s) := by
  unfold execWhistleCodingError
  repeat' (first
    | with_reducible assumption
    | with_reducible exact Keep.refl _
    | intro _
    | with_reducible apply KeepN.next
    | with_reducible apply regCount_keep
    | with_reducible apply Keep.ite
    | with_reducible apply KeepN.ite
    | split
    | dsimp -zeta only)

theorem whFlood_keep {M : Part → Prop} {z s : State} (h_dev : ¬ M .dev) (h_regs : ¬ M .regs) (h_od : ¬ M .od) (h_pwr : ¬ M .pwr) (h_start : ¬ M .start) (h_sdg : ¬ M .sdg) (h_frz : ¬ M .frz) (h_pack : ¬ M .pack) (h_wh : ¬ M .wh) (n : Nat) (hz : Keep M z s) :
    Keep M z (whFlood n s) := by
  unfold whFlood
  repeat' (first
    | with_reducible assumption
    | with_reducible exact Keep.refl _
    | intro _
    | ((fail_if_success (conv => arg 3; arg 1)); extract_lets +onlyGivenNames t; refine Keep.cut t ?_ ?_; subst t; rotate_left; clear_value t; intro ht; rotate_right)
    | ((fail_if_success (conv => arg 3; arg 1)); extract_lets +onlyGivenNames t; subst t)
    | with_reducible apply odCount_keep
    | with_reducible apply sendMsg_keep
    | with_reducible apply raiseAlarm_keep
    | ((fail_if_success (fail_if_success (conv => arg 3; arg 39))); with_reducible apply Keep.upd_wh)
    | with_reducible apply Keep.ite
    | split
    | dsimp -zeta only)

theorem execAmbientSample_keep {M : Part → Prop} {z s : State} (h_dev : ¬ M .dev) (h_regs : ¬ M .regs) (h_od : ¬ M .od) (h_pwr : ¬ M .pwr) (h_start : ¬ M .start) (h_sdg : ¬ M .sdg) (h_frz : ¬ M .frz) (h_pack : ¬ M .pack) (h_wh : ¬ M .wh) (channel : Fin 4) (code : Nat) (hz : Keep M z s) :
    KeepN M z (execAmbientSample channel code s) := by
  unfold execAmbientSample
  repeat' (first
    | with_reducible assumption
    | with_reducible exact Keep.refl _
    | intro _
    | with_reducible apply KeepN.next
    | ((fail_if_success (conv => arg 3; arg 1)); extract_lets +onlyGivenNames t; refine KeepN.cut t ?_ ?_; subst t; rotate_left; clear_value t; intro ht; rotate_right)
    | ((fail_if_success (conv => arg 3; arg 1)); extract_lets +onlyGivenNames t; refine Keep.cut t ?_ ?_; subst t; rotate_left; clear_value t; intro ht; rotate_right)
    | ((fail_if_success (conv => arg 3; arg 1)); extract_lets +onlyGivenNames t; subst t)
    | with_reducible apply regPut_keep
    | with_reducible apply whFlood_keep
    | with_reducible apply Keep.ite
    | with_reducible apply KeepN.ite
    | split
    | dsimp -zeta only)

theorem execCarrierFlood_keep {M : Part → Prop} {z s : State} (h_dev : ¬ M .dev) (h_regs : ¬ M .regs) (h_od : ¬ M .od) (h_pwr : ¬ M .pwr) (h_start : ¬ M .start) (h_sdg : ¬ M .sdg) (h_frz : ¬ M .frz) (h_pack : ¬ M .pack) (h_wh : ¬ M .wh) (channel : Fin 4) (presentNs : Nat) (hz : Keep M z s) :
    KeepN M z (execCarrierFlood channel presentNs s) := by
  unfold execCarrierFlood
  repeat' (first
    | with_reducible assumption
    | with_reducible exact Keep.refl _
    | intro _
    | with_reducible apply KeepN.next
    | with_reducible apply whFlood_keep
    | with_reducible apply Keep.ite
    | with_reducible apply KeepN.ite
    | split
    | dsimp -zeta only)

theorem execFloodClear_keep {M : Part → Prop} {z s : State} (h_now : ¬ M .now) (h_wh : ¬ M .wh) (h_gtime : ¬ M .gtime) (channel : Fin 4) (hz : Keep M z s) :
    KeepN M z (execFloodClear channel s) := by
  unfold execFloodClear
  repeat' (first
    | with_reducible assumption
    | with_reducible exact Keep.refl _
    | intro _
    | with_reducible apply KeepN.next
    | ((fail_if_success (conv => arg 3; arg 1)); extract_lets +onlyGivenNames t; refine KeepN.cut t ?_ ?_; subst t; rotate_left; clear_value t; intro ht; rotate_right)
    | ((fail_if_success (conv => arg 3; arg 1)); extract_lets +onlyGivenNames t; refine Keep.cut t ?_ ?_; subst t; rotate_left; clear_value t; intro ht; rotate_right)
    | ((fail_if_success (conv => arg 3; arg 1)); extract_lets +onlyGivenNames t; subst t)
    | with_reducible apply advanceTo_keep
    | ((fail_if_success (fail_if_success (conv => arg 3; arg 39))); with_reducible apply Keep.upd_wh)
    | with_reducible apply Keep.ite
    | with_reducible apply KeepN.ite
    | split
    | dsimp -zeta only)

theorem execHeartbeatLost_keep {M : Part → Prop} {z s : State} (h_dev : ¬ M .dev) (h_now : ¬ M .now) (h_regs : ¬ M .regs) (h_od : ¬ M .od) (h_pwr : ¬ M .pwr) (h_start : ¬ M .start) (h_sdg : ¬ M .sdg) (h_frz : ¬ M .frz) (h_pack : ¬ M .pack) (h_wh : ¬ M .wh) (h_gtime : ¬ M .gtime) (slot : Fin 8) (hz : Keep M z s) :
    KeepN M z (execHeartbeatLost slot s) := by
  unfold execHeartbeatLost
  repeat' (first
    | with_reducible assumption
    | with_reducible exact Keep.refl _
    | intro _
    | with_reducible apply KeepN.next
    | ((fail_if_success (conv => arg 3; arg 1)); extract_lets +onlyGivenNames t; refine KeepN.cut t ?_ ?_; subst t; rotate_left; clear_value t; intro ht; rotate_right)
    | ((fail_if_success (conv => arg 3; arg 1)); extract_lets +onlyGivenNames t; refine Keep.cut t ?_ ?_; subst t; rotate_left; clear_value t; intro ht; rotate_right)
    | ((fail_if_success (conv => arg 3; arg 1)); extract_lets +onlyGivenNames t; subst t)
    | with_reducible apply advanceTo_keep
    | with_reducible apply odCount_keep
    | with_reducible apply safeMsg_keep
    | with_reducible apply sendMsg_keep
    | with_reducible apply raiseAlarm_keep
    | with_reducible apply putPendant_keep
    | ((fail_if_success (fail_if_success (conv => arg 3; arg 39))); with_reducible apply Keep.upd_wh)
    | with_reducible apply Keep.ite
    | with_reducible apply KeepN.ite
    | split
    | dsimp -zeta only)

theorem whEff_keep {M : Part → Prop} {z s : State} (h_regs : ¬ M .regs) (h_wh : ¬ M .wh) (a : Nat) (v : Nat) (hz : Keep M z s) :
    KeepW M z (whEff a v s) := by
  unfold whEff
  repeat' (first
    | with_reducible assumption
    | with_reducible exact Keep.refl _
    | intro _
    | with_reducible apply genericWrite_keep
    | with_reducible apply whArm_keep
    | ((fail_if_success (fail_if_success (conv => arg 3; arg 39))); with_reducible apply Keep.upd_wh)
    | with_reducible apply Keep.ite
    | with_reducible apply KeepW.ite
    | with_reducible apply KeepW.done
    | with_reducible apply KeepW.denied
    | with_reducible apply Keep.foldl
    | split
    | dsimp -zeta only)

theorem execDisarmAll_keep {M : Part → Prop} {z s : State} (h_dev : ¬ M .dev) (h_now : ¬ M .now) (h_regs : ¬ M .regs) (h_hold : ¬ M .hold) (h_od : ¬ M .od) (h_pwr : ¬ M .pwr) (h_start : ¬ M .start) (h_sdg : ¬ M .sdg) (h_frz : ¬ M .frz) (h_apps : ¬ M .apps) (h_pack : ¬ M .pack) (h_splice : ¬ M .splice) (h_wh : ¬ M .wh) (h_gtime : ¬ M .gtime) (acc : Access) (value : Word) (hz : Keep M z s) :
    KeepN M z (execDisarmAll acc value s) := by
  unfold execDisarmAll
  repeat' (first
    | with_reducible assumption
    | with_reducible exact Keep.refl _
    | intro _
    | with_reducible apply KeepN.next
    | with_reducible apply regWriteWith_keep
    | with_reducible apply whEff_keep
    | split
    | dsimp -zeta only)

theorem execRecPop_keep {M : Part → Prop} {z s : State} (h_dev : ¬ M .dev) (h_now : ¬ M .now) (h_regs : ¬ M .regs) (h_hold : ¬ M .hold) (h_od : ¬ M .od) (h_pwr : ¬ M .pwr) (h_start : ¬ M .start) (h_sdg : ¬ M .sdg) (h_frz : ¬ M .frz) (h_apps : ¬ M .apps) (h_pack : ¬ M .pack) (h_splice : ¬ M .splice) (h_wh : ¬ M .wh) (h_gtime : ¬ M .gtime) (acc : Access) (value : Word) (hz : Keep M z s) :
    KeepN M z (execRecPop acc value s) := by
  unfold execRecPop
  repeat' (first
    | with_reducible assumption
    | with_reducible exact Keep.refl _
    | intro _
    | with_reducible apply KeepN.next
    | with_reducible apply regWriteWith_keep
    | with_reducible apply whEff_keep
    | split
    | dsimp -zeta only)

theorem whKey_keep {M : Part → Prop} {z s : State} (h_wh : ¬ M .wh) (n : Nat) (key : List Byte) (hz : Keep M z s) :
    Keep M z (whKey n key s) := by
  unfold whKey
  repeat' (first
    | with_reducible assumption
    | with_reducible exact Keep.refl _
    | intro _
    | with_reducible apply putPendant_keep
    | split
    | dsimp -zeta only)

end Sys2Proof.Machine
end

