-- ==== Sys2Proof/Laws/KeepSheepdog.lean ====
section
/-! SUPPORT. What the operations of Machine/Sheepdog.lean keep: one lemma each. -/

namespace Sys2Proof.Machine

theorem spliceRestart_keep {M : Part → Prop} {z s : State} (h_splice : ¬ M .splice) (hz : Keep M z s) :
    Keep M z (spliceRestart s) := by
  unfold spliceRestart
  repeat' (first
    | with_reducible assumption
    | with_reducible exact Keep.refl _
    | intro _
    | ((fail_if_success (conv => arg 3; arg 1)); extract_lets +onlyGivenNames t; refine Keep.cut t ?_ ?_; subst t; rotate_left; clear_value t; intro ht; rotate_right)
    | ((fail_if_success (conv => arg 3; arg 1)); extract_lets +onlyGivenNames t; subst t)
    | with_reducible apply emit_keep
    | ((fail_if_success (fail_if_success (conv => arg 3; arg 39))); with_reducible apply Keep.upd_splice)
    | with_reducible apply Keep.ite
    | split
    | dsimp -zeta only)

theorem enterRestart_keep {M : Part → Prop} {z s : State} (h_dev : ¬ M .dev) (h_regs : ¬ M .regs) (h_od : ¬ M .od) (h_pwr : ¬ M .pwr) (h_start : ¬ M .start) (h_sdg : ¬ M .sdg) (h_frz : ¬ M .frz) (h_leash : ¬ M .leash) (h_splice : ¬ M .splice) (cause : Nat) (warm : Bool) (hz : Keep M z s) :
    Keep M z (enterRestart cause warm s) := by
  unfold enterRestart
  repeat' (first
    | with_reducible assumption
    | with_reducible exact Keep.refl _
    | (intro _ hp; exact PinsOk.same hp rfl rfl rfl rfl rfl)
    | intro _
    | ((fail_if_success (conv => arg 3; arg 1)); extract_lets +onlyGivenNames t; refine Keep.cut t ?_ ?_; subst t; rotate_left; clear_value t; intro ht; rotate_right)
    | ((fail_if_success (conv => arg 3; arg 1)); extract_lets +onlyGivenNames t; subst t)
    | with_reducible apply setDev_keep
    | with_reducible apply ssRequest_keep
    | with_reducible apply endBrace_keep
    | with_reducible apply spliceRestart_keep
    | ((fail_if_success (fail_if_success (conv => arg 3; arg 39))); with_reducible apply Keep.upd_pwr_start_sdg_frz_leash)
    | with_reducible apply Keep.ite
    | split
    | dsimp -zeta only)

theorem enterFailed_keep {M : Part → Prop} {z s : State} (h_dev : ¬ M .dev) (h_regs : ¬ M .regs) (h_od : ¬ M .od) (h_start : ¬ M .start) (h_sdg : ¬ M .sdg) (h_frz : ¬ M .frz) (h_leash : ¬ M .leash) (reason : Nat) (hz : Keep M z s) :
    Keep M z (enterFailed reason s) := by
  unfold enterFailed
  repeat' (first
    | with_reducible assumption
    | with_reducible exact Keep.refl _
    | (intro _ hp; exact PinsOk.same hp rfl rfl rfl rfl rfl)
    | intro _
    | ((fail_if_success (conv => arg 3; arg 1)); extract_lets +onlyGivenNames t; refine Keep.cut t ?_ ?_; subst t; rotate_left; clear_value t; intro ht; rotate_right)
    | ((fail_if_success (conv => arg 3; arg 1)); extract_lets +onlyGivenNames t; subst t)
    | with_reducible apply odPut_keep
    | with_reducible apply setDev_keep
    | ((fail_if_success (fail_if_success (conv => arg 3; arg 39))); with_reducible apply Keep.upd_start_sdg_frz_leash)
    | split
    | dsimp -zeta only)

theorem failCount_keep {M : Part → Prop} {z s : State} (h_od : ¬ M .od) (h_start : ¬ M .start) (step : Nat) (hz : Keep M z s) :
    Keep M z (failCount step s) := by
  unfold failCount
  repeat' (first
    | with_reducible assumption
    | with_reducible exact Keep.refl _
    | intro _
    | ((fail_if_success (conv => arg 3; arg 1)); extract_lets +onlyGivenNames t; refine Keep.cut t ?_ ?_; subst t; rotate_left; clear_value t; intro ht; rotate_right)
    | ((fail_if_success (conv => arg 3; arg 1)); extract_lets +onlyGivenNames t; subst t)
    | with_reducible apply odPut_keep
    | ((fail_if_success (fail_if_success (conv => arg 3; arg 39))); with_reducible apply Keep.upd_start)
    | split
    | dsimp -zeta only)

theorem startFailed_keep {M : Part → Prop} {z s : State} (h_dev : ¬ M .dev) (h_regs : ¬ M .regs) (h_od : ¬ M .od) (h_pwr : ¬ M .pwr) (h_start : ¬ M .start) (h_sdg : ¬ M .sdg) (h_frz : ¬ M .frz) (h_leash : ¬ M .leash) (h_splice : ¬ M .splice) (step : Nat) (unit : Bool) (hz : Keep M z s) :
    Keep M z (startFailed step unit s) := by
  unfold startFailed
  repeat' (first
    | with_reducible assumption
    | with_reducible exact Keep.refl _
    | intro _
    | ((fail_if_success (conv => arg 3; arg 1)); extract_lets +onlyGivenNames t; refine Keep.cut t ?_ ?_; subst t; rotate_left; clear_value t; intro ht; rotate_right)
    | ((fail_if_success (conv => arg 3; arg 1)); extract_lets +onlyGivenNames t; subst t)
    | with_reducible apply enterRestart_keep
    | with_reducible apply enterFailed_keep
    | with_reducible apply failCount_keep
    | with_reducible apply Keep.ite
    | split
    | dsimp -zeta only)

theorem execAlarm_keep {M : Part → Prop} {z s : State} (h_dev : ¬ M .dev) (h_regs : ¬ M .regs) (h_od : ¬ M .od) (h_pwr : ¬ M .pwr) (h_start : ¬ M .start) (h_sdg : ¬ M .sdg) (h_frz : ¬ M .frz) (h_pack : ¬ M .pack) (numbers : List Nat) (hz : Keep M z s) :
    KeepN M z (execAlarm numbers s) := by
  unfold execAlarm
  repeat' (first
    | with_reducible assumption
    | with_reducible exact Keep.refl _
    | intro _
    | with_reducible apply KeepN.next
    | with_reducible apply raiseAll_keep
    | split
    | dsimp -zeta only)

theorem execAlarmLine_keep {M : Part → Prop} {z s : State} (h_dev : ¬ M .dev) (h_regs : ¬ M .regs) (h_od : ¬ M .od) (h_pwr : ¬ M .pwr) (h_start : ¬ M .start) (h_sdg : ¬ M .sdg) (h_frz : ¬ M .frz) (h_pack : ¬ M .pack) (equalNs : Nat) (hz : Keep M z s) :
    KeepN M z (execAlarmLine equalNs s) := by
  unfold execAlarmLine
  repeat' (first
    | with_reducible assumption
    | with_reducible exact Keep.refl _
    | intro _
    | with_reducible apply KeepN.next
    | with_reducible apply raiseAlarm_keep
    | with_reducible apply Keep.ite
    | with_reducible apply KeepN.ite
    | split
    | dsimp -zeta only)

theorem execSdgSelf_keep {M : Part → Prop} {z s : State} (h_dev : ¬ M .dev) (h_regs : ¬ M .regs) (h_od : ¬ M .od) (h_pwr : ¬ M .pwr) (h_start : ¬ M .start) (h_sdg : ¬ M .sdg) (h_frz : ¬ M .frz) (h_pack : ¬ M .pack) (hz : Keep M z s) :
    KeepN M z (execSdgSelf s) := by
  unfold execSdgSelf
  repeat' (first
    | with_reducible assumption
    | with_reducible exact Keep.refl _
    | intro _
    | with_reducible apply KeepN.next
    | with_reducible apply raiseAlarm_keep
    | split
    | dsimp -zeta only)

theorem execSafeAckNChange_keep {M : Part → Prop} {z s : State} (h_sdg : ¬ M .sdg) (low : Bool) (hz : Keep M z s) :
    KeepN M z (execSafeAckNChange low s) := by
  unfold execSafeAckNChange
  repeat' (first
    | with_reducible assumption
    | with_reducible exact Keep.refl _
    | (intro _ hp; exact PinsOk.same hp rfl rfl rfl rfl rfl)
    | intro _
    | with_reducible apply KeepN.next
    | ((fail_if_success (conv => arg 3; arg 1)); extract_lets +onlyGivenNames t; refine KeepN.cut t ?_ ?_; subst t; rotate_left; clear_value t; intro ht; rotate_right)
    | ((fail_if_success (conv => arg 3; arg 1)); extract_lets +onlyGivenNames t; refine Keep.cut t ?_ ?_; subst t; rotate_left; clear_value t; intro ht; rotate_right)
    | ((fail_if_success (conv => arg 3; arg 1)); extract_lets +onlyGivenNames t; subst t)
    | ((fail_if_success (fail_if_success (conv => arg 3; arg 39))); with_reducible apply Keep.upd_sdg)
    | with_reducible apply Keep.ite
    | with_reducible apply KeepN.ite
    | split
    | dsimp -zeta only)

theorem execSafeAckConfirmed_keep {M : Part → Prop} {z s : State} (h_dev : ¬ M .dev) (h_now : ¬ M .now) (h_regs : ¬ M .regs) (h_od : ¬ M .od) (h_pwr : ¬ M .pwr) (h_start : ¬ M .start) (h_sdg : ¬ M .sdg) (h_frz : ¬ M .frz) (h_leash : ¬ M .leash) (h_splice : ¬ M .splice) (h_gtime : ¬ M .gtime) (hz : Keep M z s) :
    KeepN M z (execSafeAckConfirmed s) := by
  unfold execSafeAckConfirmed
  repeat' (first
    | with_reducible assumption
    | with_reducible exact Keep.refl _
    | intro _
    | with_reducible apply KeepN.next
    | with_reducible apply advanceTo_keep
    | with_reducible apply enterRestart_keep
    | with_reducible apply Keep.ite
    | with_reducible apply KeepN.ite
    | split
    | dsimp -zeta only)

theorem execSafeAckMissing_keep {M : Part → Prop} {z s : State} (h_dev : ¬ M .dev) (h_now : ¬ M .now) (h_regs : ¬ M .regs) (h_od : ¬ M .od) (h_pwr : ¬ M .pwr) (h_start : ¬ M .start) (h_sdg : ¬ M .sdg) (h_frz : ¬ M .frz) (h_pack : ¬ M .pack) (h_gtime : ¬ M .gtime) (hz : Keep M z s) :
    KeepN M z (execSafeAckMissing s) := by
  unfold execSafeAckMissing
  repeat' (first
    | with_reducible assumption
    | with_reducible exact Keep.refl _
    | (intro _ hp; exact PinsOk.same hp rfl rfl rfl rfl rfl)
    | intro _
    | with_reducible apply KeepN.next
    | ((fail_if_success (conv => arg 3; arg 1)); extract_lets +onlyGivenNames t; refine KeepN.cut t ?_ ?_; subst t; rotate_left; clear_value t; intro ht; rotate_right)
    | ((fail_if_success (conv => arg 3; arg 1)); extract_lets +onlyGivenNames t; refine Keep.cut t ?_ ?_; subst t; rotate_left; clear_value t; intro ht; rotate_right)
    | ((fail_if_success (conv => arg 3; arg 1)); extract_lets +onlyGivenNames t; subst t)
    | with_reducible apply advanceTo_keep
    | with_reducible apply raiseAlarm_keep
    | ((fail_if_success (fail_if_success (conv => arg 3; arg 39))); with_reducible apply Keep.upd_sdg)
    | with_reducible apply Keep.ite
    | with_reducible apply KeepN.ite
    | split
    | dsimp -zeta only)

theorem execRestartFrameWaitEnd_keep {M : Part → Prop} {z s : State} (h_now : ¬ M .now) (h_sdg : ¬ M .sdg) (h_gtime : ¬ M .gtime) (hz : Keep M z s) :
    KeepN M z (execRestartFrameWaitEnd s) := by
  unfold execRestartFrameWaitEnd
  repeat' (first
    | with_reducible assumption
    | with_reducible exact Keep.refl _
    | (intro _ hp; exact PinsOk.same hp rfl rfl rfl rfl rfl)
    | intro _
    | with_reducible apply KeepN.next
    | ((fail_if_success (conv => arg 3; arg 1)); extract_lets +onlyGivenNames t; refine KeepN.cut t ?_ ?_; subst t; rotate_left; clear_value t; intro ht; rotate_right)
    | ((fail_if_success (conv => arg 3; arg 1)); extract_lets +onlyGivenNames t; refine Keep.cut t ?_ ?_; subst t; rotate_left; clear_value t; intro ht; rotate_right)
    | ((fail_if_success (conv => arg 3; arg 1)); extract_lets +onlyGivenNames t; subst t)
    | with_reducible apply advanceTo_keep
    | ((fail_if_success (fail_if_success (conv => arg 3; arg 39))); with_reducible apply Keep.upd_sdg)
    | with_reducible apply Keep.ite
    | with_reducible apply KeepN.ite
    | split
    | dsimp -zeta only)

theorem toggleAlive_keep {M : Part → Prop} {z s : State} (h_sdg : ¬ M .sdg) (hz : Keep M z s) : Keep M z (toggleAlive s) := by
  unfold toggleAlive
  extract_lets a
  clear_value a
  split
  · rename_i h
    refine Keep.promise .pins ?_ fun _ _ => setPins_pinsOk _ _ _ _ (fun e => absurd h (by simpa [isRunning, devUp] using e)) (fun _ => rfl)
      (by cases a <;> rfl)
    exact setPins_keep (fun x => h_sdg x.1) (fun x => x.2 rfl) _ _ _ (hz.mono fun _ x => x.1)
  · exact hz

theorem execAliveToggle_keep {M : Part → Prop} {z s : State} (h_now : ¬ M .now) (h_sdg : ¬ M .sdg) (h_gtime : ¬ M .gtime) (hz : Keep M z s) :
    KeepN M z (execAliveToggle s) := by
  unfold execAliveToggle
  repeat' (first
    | with_reducible assumption
    | with_reducible exact Keep.refl _
    | (intro _ hp; exact PinsOk.same hp rfl rfl rfl rfl rfl)
    | intro _
    | with_reducible apply KeepN.next
    | ((fail_if_success (conv => arg 3; arg 1)); extract_lets +onlyGivenNames t; refine KeepN.cut t ?_ ?_; subst t; rotate_left; clear_value t; intro ht; rotate_right)
    | ((fail_if_success (conv => arg 3; arg 1)); extract_lets +onlyGivenNames t; refine Keep.cut t ?_ ?_; subst t; rotate_left; clear_value t; intro ht; rotate_right)
    | ((fail_if_success (conv => arg 3; arg 1)); extract_lets +onlyGivenNames t; subst t)
    | with_reducible apply advanceTo_keep
    | with_reducible apply toggleAlive_keep
    | ((fail_if_success (fail_if_success (conv => arg 3; arg 39))); with_reducible apply Keep.upd_sdg)
    | with_reducible apply Keep.ite
    | with_reducible apply KeepN.ite
    | split
    | dsimp -zeta only)

theorem execSafetyStatusPeriodic_keep {M : Part → Prop} {z s : State} (h_now : ¬ M .now) (h_sdg : ¬ M .sdg) (h_gtime : ¬ M .gtime) (hz : Keep M z s) :
    KeepN M z (execSafetyStatusPeriodic s) := by
  unfold execSafetyStatusPeriodic
  repeat' (first
    | with_reducible assumption
    | with_reducible exact Keep.refl _
    | intro _
    | with_reducible apply KeepN.next
    | with_reducible apply advanceTo_keep
    | with_reducible apply ssRequest_keep
    | with_reducible apply Keep.ite
    | with_reducible apply KeepN.ite
    | split
    | dsimp -zeta only)

theorem execSafetyStatusTxDone_keep {M : Part → Prop} {z s : State} (h_sdg : ¬ M .sdg) (h_can : ¬ M .can) (hz : Keep M z s) :
    KeepN M z (execSafetyStatusTxDone s) := by
  unfold execSafetyStatusTxDone
  repeat' (first
    | with_reducible assumption
    | with_reducible exact Keep.refl _
    | (intro _ hp; exact PinsOk.same hp rfl rfl rfl rfl rfl)
    | intro _
    | with_reducible apply KeepN.next
    | ((fail_if_success (conv => arg 3; arg 1)); extract_lets +onlyGivenNames t; refine KeepN.cut t ?_ ?_; subst t; rotate_left; clear_value t; intro ht; rotate_right)
    | ((fail_if_success (conv => arg 3; arg 1)); extract_lets +onlyGivenNames t; refine Keep.cut t ?_ ?_; subst t; rotate_left; clear_value t; intro ht; rotate_right)
    | ((fail_if_success (conv => arg 3; arg 1)); extract_lets +onlyGivenNames t; subst t)
    | with_reducible apply putCan_keep
    | with_reducible apply ssStart_keep
    | ((fail_if_success (fail_if_success (conv => arg 3; arg 39))); with_reducible apply Keep.upd_sdg)
    | with_reducible apply Keep.ite
    | with_reducible apply KeepN.ite
    | split
    | dsimp -zeta only)

theorem execSafetyMsgFail_keep {M : Part → Prop} {z s : State} (h_dev : ¬ M .dev) (h_now : ¬ M .now) (h_regs : ¬ M .regs) (h_od : ¬ M .od) (h_pwr : ¬ M .pwr) (h_start : ¬ M .start) (h_sdg : ¬ M .sdg) (h_frz : ¬ M .frz) (h_pack : ¬ M .pack) (h_gtime : ¬ M .gtime) (hz : Keep M z s) :
    KeepN M z (execSafetyMsgFail s) := by
  unfold execSafetyMsgFail
  repeat' (first
    | with_reducible assumption
    | with_reducible exact Keep.refl _
    | (intro _ hp; exact PinsOk.same hp rfl rfl rfl rfl rfl)
    | intro _
    | with_reducible apply KeepN.next
    | ((fail_if_success (conv => arg 3; arg 1)); extract_lets +onlyGivenNames t; refine KeepN.cut t ?_ ?_; subst t; rotate_left; clear_value t; intro ht; rotate_right)
    | ((fail_if_success (conv => arg 3; arg 1)); extract_lets +onlyGivenNames t; refine Keep.cut t ?_ ?_; subst t; rotate_left; clear_value t; intro ht; rotate_right)
    | ((fail_if_success (conv => arg 3; arg 1)); extract_lets +onlyGivenNames t; subst t)
    | with_reducible apply advanceTo_keep
    | with_reducible apply raiseAlarm_keep
    | ((fail_if_success (fail_if_success (conv => arg 3; arg 39))); with_reducible apply Keep.upd_sdg)
    | with_reducible apply Keep.ite
    | with_reducible apply KeepN.ite
    | split
    | dsimp -zeta only)

theorem putWdg_keep {M : Part → Prop} {z s : State} (h_sdg : ¬ M .sdg) (n : Nat) (w : Wdg) (hz : Keep M z s) :
    Keep M z (putWdg n w s) := by
  unfold putWdg
  repeat' (first
    | with_reducible assumption
    | with_reducible exact Keep.refl _
    | (intro _ hp; exact PinsOk.same hp rfl rfl rfl rfl rfl)
    | intro _
    | ((fail_if_success (fail_if_success (conv => arg 3; arg 39))); with_reducible apply Keep.upd_sdg)
    | split
    | dsimp -zeta only)

theorem wdgAccept_keep {M : Part → Prop} {z s : State} (h_sdg : ¬ M .sdg) (n : Nat) (acc : Access) (hz : Keep M z s) :
    Keep M z (wdgAccept n acc s) := by
  unfold wdgAccept
  repeat' (first
    | with_reducible assumption
    | with_reducible exact Keep.refl _
    | intro _
    | ((fail_if_success (conv => arg 3; arg 1)); extract_lets +onlyGivenNames t; refine Keep.cut t ?_ ?_; subst t; rotate_left; clear_value t; intro ht; rotate_right)
    | ((fail_if_success (conv => arg 3; arg 1)); extract_lets +onlyGivenNames t; subst t)
    | with_reducible apply putWdg_keep
    | split
    | dsimp -zeta only)

theorem wdgKickEff_keep {M : Part → Prop} {z s : State} (h_dev : ¬ M .dev) (h_regs : ¬ M .regs) (h_od : ¬ M .od) (h_pwr : ¬ M .pwr) (h_start : ¬ M .start) (h_sdg : ¬ M .sdg) (h_frz : ¬ M .frz) (h_pack : ¬ M .pack) (n : Nat) (v : Nat) (acc : Access) (hz : Keep M z s) :
    KeepW M z (wdgKickEff n v acc s) := by
  unfold wdgKickEff
  repeat' (first
    | with_reducible assumption
    | with_reducible exact Keep.refl _
    | intro _
    | ((fail_if_success (conv => arg 3; arg 1)); extract_lets +onlyGivenNames t; refine KeepW.cut t ?_ ?_; subst t; rotate_left; clear_value t; intro ht; rotate_right)
    | ((fail_if_success (conv => arg 3; arg 1)); extract_lets +onlyGivenNames t; refine Keep.cut t ?_ ?_; subst t; rotate_left; clear_value t; intro ht; rotate_right)
    | ((fail_if_success (conv => arg 3; arg 1)); extract_lets +onlyGivenNames t; subst t)
    | with_reducible apply raiseAlarm_keep
    | with_reducible apply wdgAccept_keep
    | with_reducible apply Keep.ite
    | with_reducible apply KeepW.ite
    | with_reducible apply KeepW.done
    | with_reducible apply KeepW.denied
    | split
    | dsimp -zeta only)

theorem execWdgKick_keep {M : Part → Prop} {z s : State} (h_dev : ¬ M .dev) (h_now : ¬ M .now) (h_regs : ¬ M .regs) (h_hold : ¬ M .hold) (h_od : ¬ M .od) (h_pwr : ¬ M .pwr) (h_start : ¬ M .start) (h_sdg : ¬ M .sdg) (h_frz : ¬ M .frz) (h_apps : ¬ M .apps) (h_pack : ¬ M .pack) (h_splice : ¬ M .splice) (h_gtime : ¬ M .gtime) (n : Fin 16) (acc : Access) (value : Word) (hz : Keep M z s) :
    KeepN M z (execWdgKick n acc value s) := by
  unfold execWdgKick
  repeat' (first
    | with_reducible assumption
    | with_reducible exact Keep.refl _
    | intro _
    | with_reducible apply KeepN.next
    | with_reducible apply regWriteWith_keep
    | with_reducible apply wdgKickEff_keep
    | split
    | dsimp -zeta only)

theorem execWdgWindowOpen_keep {M : Part → Prop} {z s : State} (h_now : ¬ M .now) (h_sdg : ¬ M .sdg) (h_gtime : ¬ M .gtime) (n : Fin 16) (hz : Keep M z s) :
    KeepN M z (execWdgWindowOpen n s) := by
  unfold execWdgWindowOpen
  repeat' (first
    | with_reducible assumption
    | with_reducible exact Keep.refl _
    | intro _
    | with_reducible apply KeepN.next
    | ((fail_if_success (conv => arg 3; arg 1)); extract_lets +onlyGivenNames t; refine KeepN.cut t ?_ ?_; subst t; rotate_left; clear_value t; intro ht; rotate_right)
    | ((fail_if_success (conv => arg 3; arg 1)); extract_lets +onlyGivenNames t; refine Keep.cut t ?_ ?_; subst t; rotate_left; clear_value t; intro ht; rotate_right)
    | ((fail_if_success (conv => arg 3; arg 1)); extract_lets +onlyGivenNames t; subst t)
    | with_reducible apply advanceTo_keep
    | with_reducible apply putWdg_keep
    | with_reducible apply Keep.ite
    | with_reducible apply KeepN.ite
    | split
    | dsimp -zeta only)

theorem execWdgWindowClose_keep {M : Part → Prop} {z s : State} (h_dev : ¬ M .dev) (h_now : ¬ M .now) (h_regs : ¬ M .regs) (h_od : ¬ M .od) (h_pwr : ¬ M .pwr) (h_start : ¬ M .start) (h_sdg : ¬ M .sdg) (h_frz : ¬ M .frz) (h_pack : ¬ M .pack) (h_gtime : ¬ M .gtime) (n : Fin 16) (hz : Keep M z s) :
    KeepN M z (execWdgWindowClose n s) := by
  unfold execWdgWindowClose
  repeat' (first
    | with_reducible assumption
    | with_reducible exact Keep.refl _
    | intro _
    | with_reducible apply KeepN.next
    | ((fail_if_success (conv => arg 3; arg 1)); extract_lets +onlyGivenNames t; refine KeepN.cut t ?_ ?_; subst t; rotate_left; clear_value t; intro ht; rotate_right)
    | ((fail_if_success (conv => arg 3; arg 1)); extract_lets +onlyGivenNames t; refine Keep.cut t ?_ ?_; subst t; rotate_left; clear_value t; intro ht; rotate_right)
    | ((fail_if_success (conv => arg 3; arg 1)); extract_lets +onlyGivenNames t; subst t)
    | with_reducible apply advanceTo_keep
    | with_reducible apply raiseAlarm_keep
    | with_reducible apply putWdg_keep
    | with_reducible apply Keep.ite
    | with_reducible apply KeepN.ite
    | split
    | dsimp -zeta only)

theorem swAlarmEff_keep {M : Part → Prop} {z s : State} (h_dev : ¬ M .dev) (h_regs : ¬ M .regs) (h_od : ¬ M .od) (h_pwr : ¬ M .pwr) (h_start : ¬ M .start) (h_sdg : ¬ M .sdg) (h_frz : ¬ M .frz) (h_pack : ¬ M .pack) (v : Nat) (hz : Keep M z s) :
    KeepW M z (swAlarmEff v s) := by
  unfold swAlarmEff
  repeat' (first
    | with_reducible assumption
    | with_reducible exact Keep.refl _
    | intro _
    | with_reducible apply raiseAlarm_keep
    | with_reducible apply Keep.ite
    | with_reducible apply KeepW.ite
    | with_reducible apply KeepW.done
    | with_reducible apply KeepW.denied
    | split
    | dsimp -zeta only)

theorem execSwAlarm_keep {M : Part → Prop} {z s : State} (h_dev : ¬ M .dev) (h_now : ¬ M .now) (h_regs : ¬ M .regs) (h_hold : ¬ M .hold) (h_od : ¬ M .od) (h_pwr : ¬ M .pwr) (h_start : ¬ M .start) (h_sdg : ¬ M .sdg) (h_frz : ¬ M .frz) (h_apps : ¬ M .apps) (h_pack : ¬ M .pack) (h_splice : ¬ M .splice) (h_gtime : ¬ M .gtime) (acc : Access) (value : Word) (hz : Keep M z s) :
    KeepN M z (execSwAlarm acc value s) := by
  unfold execSwAlarm
  repeat' (first
    | with_reducible assumption
    | with_reducible exact Keep.refl _
    | intro _
    | with_reducible apply KeepN.next
    | with_reducible apply regWriteWith_keep
    | with_reducible apply swAlarmEff_keep
    | split
    | dsimp -zeta only)

theorem execClockMon_keep {M : Part → Prop} {z s : State} (h_dev : ¬ M .dev) (h_regs : ¬ M .regs) (h_od : ¬ M .od) (h_pwr : ¬ M .pwr) (h_start : ¬ M .start) (h_sdg : ¬ M .sdg) (h_frz : ¬ M .frz) (h_pack : ¬ M .pack) (clock : Fin 12) (count : Nat) (hz : Keep M z s) :
    KeepN M z (execClockMon clock count s) := by
  unfold execClockMon
  repeat' (first
    | with_reducible assumption
    | with_reducible exact Keep.refl _
    | intro _
    | with_reducible apply KeepN.next
    | ((fail_if_success (conv => arg 3; arg 1)); extract_lets +onlyGivenNames t; refine KeepN.cut t ?_ ?_; subst t; rotate_left; clear_value t; intro ht; rotate_right)
    | ((fail_if_success (conv => arg 3; arg 1)); extract_lets +onlyGivenNames t; refine Keep.cut t ?_ ?_; subst t; rotate_left; clear_value t; intro ht; rotate_right)
    | ((fail_if_success (conv => arg 3; arg 1)); extract_lets +onlyGivenNames t; subst t)
    | with_reducible apply raiseAlarm_keep
    | with_reducible apply Keep.ite
    | with_reducible apply KeepN.ite
    | with_reducible apply KeepP.fst
    | split
    | dsimp -zeta only)

theorem clkTrip_keep {M : Part → Prop} {z s : State} (h_sdg : ¬ M .sdg) (freq : Nat) (hz : Keep M z s) : Keep M z (clkTrip freq s) := by
  unfold clkTrip
  refine Keep.promise .pins ?_ fun _ _ => ?_
  · exact setPins_keep (fun x => h_sdg x.1) (fun x => x.2 rfl) _ _ _
      (Keep.upd_sdg (fun x => h_sdg x.1) (fun x => (x.2 rfl).elim) (hz.mono fun _ x => x.1))
  · have h := setPins_pins false false false { s with sdg := { s.sdg with clkTripped := true, clkStopped := decide (freq = 0) } }
    unfold PinsOk
    rw [h.1, h.2.1, h.2.2.1, h.2.2.2]
    exact ⟨fun _ => ⟨rfl, rfl, rfl⟩, fun _ e => (nomatch e), rfl⟩

theorem execClkSdgMonitor_keep {M : Part → Prop} {z s : State} (h_dev : ¬ M .dev) (h_regs : ¬ M .regs) (h_od : ¬ M .od) (h_pwr : ¬ M .pwr) (h_start : ¬ M .start) (h_sdg : ¬ M .sdg) (h_frz : ¬ M .frz) (h_pack : ¬ M .pack) (freq : Nat) (forNs : Nat) (hz : Keep M z s) :
    KeepN M z (execClkSdgMonitor freq forNs s) := by
  unfold execClkSdgMonitor
  repeat' (first
    | with_reducible assumption
    | with_reducible exact Keep.refl _
    | intro _
    | with_reducible apply KeepN.next
    | with_reducible apply raiseAlarm_keep
    | with_reducible apply clkTrip_keep
    | with_reducible apply Keep.ite
    | with_reducible apply KeepN.ite
    | split
    | dsimp -zeta only)

theorem execLatentTest_keep {M : Part → Prop} {z s : State} (h_dev : ¬ M .dev) (h_now : ¬ M .now) (h_regs : ¬ M .regs) (h_od : ¬ M .od) (h_pwr : ¬ M .pwr) (h_start : ¬ M .start) (h_sdg : ¬ M .sdg) (h_frz : ¬ M .frz) (h_pack : ¬ M .pack) (h_gtime : ¬ M .gtime) (failing : List (Fin 7)) (hz : Keep M z s) :
    KeepN M z (execLatentTest failing s) := by
  unfold execLatentTest
  repeat' (first
    | with_reducible assumption
    | with_reducible exact Keep.refl _
    | intro _
    | with_reducible apply KeepN.next
    | ((fail_if_success (conv => arg 3; arg 1)); extract_lets +onlyGivenNames t; refine KeepN.cut t ?_ ?_; subst t; rotate_left; clear_value t; intro ht; rotate_right)
    | ((fail_if_success (conv => arg 3; arg 1)); extract_lets +onlyGivenNames t; refine Keep.cut t ?_ ?_; subst t; rotate_left; clear_value t; intro ht; rotate_right)
    | ((fail_if_success (conv => arg 3; arg 1)); extract_lets +onlyGivenNames t; subst t)
    | with_reducible apply advanceTo_keep
    | with_reducible apply setLatentNext_keep
    | with_reducible apply raiseAlarm_keep
    | with_reducible apply Keep.ite
    | with_reducible apply KeepN.ite
    | split
    | dsimp -zeta only)

theorem execFabricTimeout_keep {M : Part → Prop} {z s : State} (h_dev : ¬ M .dev) (h_regs : ¬ M .regs) (h_od : ¬ M .od) (h_pwr : ¬ M .pwr) (h_start : ¬ M .start) (h_sdg : ¬ M .sdg) (h_frz : ¬ M .frz) (h_pack : ¬ M .pack) (waitedNs : Nat) (hz : Keep M z s) :
    KeepN M z (execFabricTimeout waitedNs s) := by
  unfold execFabricTimeout
  repeat' (first
    | with_reducible assumption
    | with_reducible exact Keep.refl _
    | intro _
    | with_reducible apply KeepN.next
    | with_reducible apply raiseAlarm_keep
    | with_reducible apply Keep.ite
    | with_reducible apply KeepN.ite
    | split
    | dsimp -zeta only)

end Sys2Proof.Machine
end

