-- ==== Sys2Proof/Laws/KeepLockstep.lean ====
section
/-! SUPPORT. What the operations of Machine/Lockstep.lean keep: one lemma each. -/

namespace Sys2Proof.Machine

theorem releaseUnit_keep {M : Part → Prop} {z s : State} (h_lock : ¬ M .lock) (c : Nat) (addr : Nat) (hz : Keep M z s) :
    Keep M z (releaseUnit c addr s) := by
  unfold releaseUnit
  repeat' (first
    | with_reducible assumption
    | with_reducible exact Keep.refl _
    | intro _
    | ((fail_if_success (conv => arg 3; arg 1)); extract_lets +onlyGivenNames t; refine Keep.cut t ?_ ?_; subst t; rotate_left; clear_value t; intro ht; rotate_right)
    | ((fail_if_success (conv => arg 3; arg 1)); extract_lets +onlyGivenNames t; subst t)
    | with_reducible apply emit_keep
    | ((fail_if_success (fail_if_success (conv => arg 3; arg 39))); with_reducible apply Keep.upd_lock)
    | with_reducible apply Keep.ite
    | split
    | dsimp -zeta only)

theorem pairFault_keep {M : Part → Prop} {z s : State} (h_dev : ¬ M .dev) (h_regs : ¬ M .regs) (h_od : ¬ M .od) (h_pwr : ¬ M .pwr) (h_start : ¬ M .start) (h_sdg : ¬ M .sdg) (h_frz : ¬ M .frz) (h_lock : ¬ M .lock) (h_pack : ¬ M .pack) (p : Nat) (hz : Keep M z s) :
    Keep M z (pairFault p s) := by
  unfold pairFault
  repeat' (first
    | with_reducible assumption
    | with_reducible exact Keep.refl _
    | intro _
    | with_reducible apply raiseAlarm_keep
    | ((fail_if_success (fail_if_success (conv => arg 3; arg 39))); with_reducible apply Keep.upd_lock)
    | split
    | dsimp -zeta only)

theorem pairRestart_keep {M : Part → Prop} {z s : State} (h_regs : ¬ M .regs) (h_od : ¬ M .od) (h_lock : ¬ M .lock) (p : Nat) (hz : Keep M z s) :
    Keep M z (pairRestart p s) := by
  unfold pairRestart
  repeat' (first
    | with_reducible assumption
    | with_reducible exact Keep.refl _
    | intro _
    | ((fail_if_success (conv => arg 3; arg 1)); extract_lets +onlyGivenNames t; refine Keep.cut t ?_ ?_; subst t; rotate_left; clear_value t; intro ht; rotate_right)
    | ((fail_if_success (conv => arg 3; arg 1)); extract_lets +onlyGivenNames t; subst t)
    | with_reducible apply regCount_keep
    | with_reducible apply odCount_keep
    | with_reducible apply releaseUnit_keep
    | ((fail_if_success (fail_if_success (conv => arg 3; arg 39))); with_reducible apply Keep.upd_lock)
    | split
    | dsimp -zeta only)

theorem mismatchReact_keep {M : Part → Prop} {z s : State} (h_dev : ¬ M .dev) (h_regs : ¬ M .regs) (h_od : ¬ M .od) (h_pwr : ¬ M .pwr) (h_start : ¬ M .start) (h_sdg : ¬ M .sdg) (h_frz : ¬ M .frz) (h_lock : ¬ M .lock) (h_pack : ¬ M .pack) (p : Nat) (hz : Keep M z s) :
    Keep M z (mismatchReact p s) := by
  unfold mismatchReact
  repeat' (first
    | with_reducible assumption
    | with_reducible exact Keep.refl _
    | intro _
    | with_reducible apply pairFault_keep
    | with_reducible apply pairRestart_keep
    | with_reducible apply Keep.ite
    | split
    | dsimp -zeta only)

theorem execLockstepMismatch_keep {M : Part → Prop} {z s : State} (h_dev : ¬ M .dev) (h_regs : ¬ M .regs) (h_od : ¬ M .od) (h_pwr : ¬ M .pwr) (h_start : ¬ M .start) (h_sdg : ¬ M .sdg) (h_frz : ¬ M .frz) (h_leash : ¬ M .leash) (h_lock : ¬ M .lock) (h_pack : ¬ M .pack) (h_splice : ¬ M .splice) (pair : Fin 4) (hz : Keep M z s) :
    KeepN M z (execLockstepMismatch pair s) := by
  unfold execLockstepMismatch
  repeat' (first
    | with_reducible assumption
    | with_reducible exact Keep.refl _
    | intro _
    | with_reducible apply KeepN.next
    | ((fail_if_success (conv => arg 3; arg 1)); extract_lets +onlyGivenNames t; refine KeepN.cut t ?_ ?_; subst t; rotate_left; clear_value t; intro ht; rotate_right)
    | ((fail_if_success (conv => arg 3; arg 1)); extract_lets +onlyGivenNames t; refine Keep.cut t ?_ ?_; subst t; rotate_left; clear_value t; intro ht; rotate_right)
    | ((fail_if_success (conv => arg 3; arg 1)); extract_lets +onlyGivenNames t; subst t)
    | with_reducible apply startFailed_keep
    | with_reducible apply mismatchReact_keep
    | with_reducible apply Keep.ite
    | with_reducible apply KeepN.ite
    | split
    | dsimp -zeta only)

theorem coreReleaseEff_keep {M : Part → Prop} {z s : State} (h_regs : ¬ M .regs) (h_lock : ¬ M .lock) (v : Nat) (hz : Keep M z s) :
    KeepW M z (coreReleaseEff v s) := by
  unfold coreReleaseEff
  repeat' (first
    | with_reducible assumption
    | with_reducible exact Keep.refl _
    | intro _
    | with_reducible apply regSetBits_keep
    | with_reducible apply releaseUnit_keep
    | with_reducible apply Keep.ite
    | with_reducible apply KeepW.ite
    | with_reducible apply KeepW.done
    | with_reducible apply KeepW.denied
    | with_reducible apply Keep.foldl
    | split
    | dsimp -zeta only)

theorem execCoreRelease_keep {M : Part → Prop} {z s : State} (h_dev : ¬ M .dev) (h_now : ¬ M .now) (h_regs : ¬ M .regs) (h_hold : ¬ M .hold) (h_od : ¬ M .od) (h_pwr : ¬ M .pwr) (h_start : ¬ M .start) (h_sdg : ¬ M .sdg) (h_frz : ¬ M .frz) (h_lock : ¬ M .lock) (h_apps : ¬ M .apps) (h_pack : ¬ M .pack) (h_splice : ¬ M .splice) (h_gtime : ¬ M .gtime) (acc : Access) (value : Word) (hz : Keep M z s) :
    KeepN M z (execCoreRelease acc value s) := by
  unfold execCoreRelease
  repeat' (first
    | with_reducible assumption
    | with_reducible exact Keep.refl _
    | intro _
    | with_reducible apply KeepN.next
    | with_reducible apply regWriteWith_keep
    | with_reducible apply coreReleaseEff_keep
    | split
    | dsimp -zeta only)

theorem handoverEnd_keep {M : Part → Prop} {z s : State} (h_regs : ¬ M .regs) (h_lock : ¬ M .lock) (result : Nat) (hz : Keep M z s) :
    Keep M z (handoverEnd result s) := by
  unfold handoverEnd
  repeat' (first
    | with_reducible assumption
    | with_reducible exact Keep.refl _
    | intro _
    | with_reducible apply safeMsg_keep
    | ((fail_if_success (fail_if_success (conv => arg 3; arg 39))); with_reducible apply Keep.upd_lock)
    | split
    | dsimp -zeta only)

theorem handoverSwitch_keep {M : Part → Prop} {z s : State} (h_lock : ¬ M .lock) (req : Nat) (p : Nat) (split : Bool) (hz : Keep M z s) :
    Keep M z (handoverSwitch req p split s) := by
  unfold handoverSwitch
  repeat' (first
    | with_reducible assumption
    | with_reducible exact Keep.refl _
    | intro _
    | ((fail_if_success (conv => arg 3; arg 1)); extract_lets +onlyGivenNames t; refine Keep.cut t ?_ ?_; subst t; rotate_left; clear_value t; intro ht; rotate_right)
    | ((fail_if_success (conv => arg 3; arg 1)); extract_lets +onlyGivenNames t; subst t)
    | with_reducible apply emit_keep
    | with_reducible apply releaseUnit_keep
    | ((fail_if_success (fail_if_success (conv => arg 3; arg 39))); with_reducible apply Keep.upd_lock)
    | with_reducible apply Keep.ite
    | split
    | dsimp -zeta only)

theorem handoverEff_keep {M : Part → Prop} {z s : State} (h_dev : ¬ M .dev) (h_regs : ¬ M .regs) (h_od : ¬ M .od) (h_pwr : ¬ M .pwr) (h_start : ¬ M .start) (h_sdg : ¬ M .sdg) (h_frz : ¬ M .frz) (h_lock : ¬ M .lock) (h_pack : ¬ M .pack) (v : Nat) (mismatch : Option Bool) (acc : Access) (hz : Keep M z s) :
    KeepW M z (handoverEff v mismatch acc s) := by
  unfold handoverEff
  repeat' (first
    | with_reducible assumption
    | with_reducible exact Keep.refl _
    | intro _
    | ((fail_if_success (conv => arg 3; arg 1)); extract_lets +onlyGivenNames t; refine KeepW.cut t ?_ ?_; subst t; rotate_left; clear_value t; intro ht; rotate_right)
    | ((fail_if_success (conv => arg 3; arg 1)); extract_lets +onlyGivenNames t; refine Keep.cut t ?_ ?_; subst t; rotate_left; clear_value t; intro ht; rotate_right)
    | ((fail_if_success (conv => arg 3; arg 1)); extract_lets +onlyGivenNames t; subst t)
    | with_reducible apply mismatchReact_keep
    | with_reducible apply handoverEnd_keep
    | with_reducible apply handoverSwitch_keep
    | with_reducible apply Keep.ite
    | with_reducible apply KeepW.ite
    | with_reducible apply KeepW.done
    | with_reducible apply KeepW.denied
    | split
    | dsimp -zeta only)

theorem execHandoverSplit_keep {M : Part → Prop} {z s : State} (h_dev : ¬ M .dev) (h_now : ¬ M .now) (h_regs : ¬ M .regs) (h_hold : ¬ M .hold) (h_od : ¬ M .od) (h_pwr : ¬ M .pwr) (h_start : ¬ M .start) (h_sdg : ¬ M .sdg) (h_frz : ¬ M .frz) (h_lock : ¬ M .lock) (h_apps : ¬ M .apps) (h_pack : ¬ M .pack) (h_splice : ¬ M .splice) (h_gtime : ¬ M .gtime) (acc : Access) (pair : Fin 4) (mismatch : Option Bool) (hz : Keep M z s) :
    KeepN M z (execHandoverSplit acc pair mismatch s) := by
  unfold execHandoverSplit
  repeat' (first
    | with_reducible assumption
    | with_reducible exact Keep.refl _
    | intro _
    | with_reducible apply KeepN.next
    | with_reducible apply regWriteWith_keep
    | with_reducible apply handoverEff_keep
    | split
    | dsimp -zeta only)

theorem execHandoverRejoin_keep {M : Part → Prop} {z s : State} (h_dev : ¬ M .dev) (h_now : ¬ M .now) (h_regs : ¬ M .regs) (h_hold : ¬ M .hold) (h_od : ¬ M .od) (h_pwr : ¬ M .pwr) (h_start : ¬ M .start) (h_sdg : ¬ M .sdg) (h_frz : ¬ M .frz) (h_lock : ¬ M .lock) (h_apps : ¬ M .apps) (h_pack : ¬ M .pack) (h_splice : ¬ M .splice) (h_gtime : ¬ M .gtime) (acc : Access) (pair : Fin 4) (mismatch : Option Bool) (hz : Keep M z s) :
    KeepN M z (execHandoverRejoin acc pair mismatch s) := by
  unfold execHandoverRejoin
  repeat' (first
    | with_reducible assumption
    | with_reducible exact Keep.refl _
    | intro _
    | with_reducible apply KeepN.next
    | with_reducible apply regWriteWith_keep
    | with_reducible apply handoverEff_keep
    | split
    | dsimp -zeta only)

theorem confirmEff_keep {M : Part → Prop} {z s : State} (h_regs : ¬ M .regs) (h_od : ¬ M .od) (h_lock : ¬ M .lock) (v : Nat) (acc : Access) (hz : Keep M z s) :
    KeepW M z (confirmEff v acc s) := by
  unfold confirmEff
  repeat' (first
    | with_reducible assumption
    | with_reducible exact Keep.refl _
    | intro _
    | ((fail_if_success (conv => arg 3; arg 1)); extract_lets +onlyGivenNames t; refine KeepW.cut t ?_ ?_; subst t; rotate_left; clear_value t; intro ht; rotate_right)
    | ((fail_if_success (conv => arg 3; arg 1)); extract_lets +onlyGivenNames t; refine Keep.cut t ?_ ?_; subst t; rotate_left; clear_value t; intro ht; rotate_right)
    | ((fail_if_success (conv => arg 3; arg 1)); extract_lets +onlyGivenNames t; subst t)
    | with_reducible apply odCount_keep
    | with_reducible apply handoverEnd_keep
    | ((fail_if_success (fail_if_success (conv => arg 3; arg 39))); with_reducible apply Keep.upd_lock)
    | with_reducible apply Keep.ite
    | with_reducible apply KeepW.ite
    | with_reducible apply KeepW.done
    | with_reducible apply KeepW.denied
    | split
    | dsimp -zeta only)

theorem execHandoverConfirm_keep {M : Part → Prop} {z s : State} (h_dev : ¬ M .dev) (h_now : ¬ M .now) (h_regs : ¬ M .regs) (h_hold : ¬ M .hold) (h_od : ¬ M .od) (h_pwr : ¬ M .pwr) (h_start : ¬ M .start) (h_sdg : ¬ M .sdg) (h_frz : ¬ M .frz) (h_lock : ¬ M .lock) (h_apps : ¬ M .apps) (h_pack : ¬ M .pack) (h_splice : ¬ M .splice) (h_gtime : ¬ M .gtime) (acc : Access) (value : Word) (hz : Keep M z s) :
    KeepN M z (execHandoverConfirm acc value s) := by
  unfold execHandoverConfirm
  repeat' (first
    | with_reducible assumption
    | with_reducible exact Keep.refl _
    | intro _
    | with_reducible apply KeepN.next
    | with_reducible apply regWriteWith_keep
    | with_reducible apply confirmEff_keep
    | split
    | dsimp -zeta only)

theorem execHandoverConfirmTimeout_keep {M : Part → Prop} {z s : State} (h_now : ¬ M .now) (h_regs : ¬ M .regs) (h_lock : ¬ M .lock) (h_gtime : ¬ M .gtime) (hz : Keep M z s) :
    KeepN M z (execHandoverConfirmTimeout s) := by
  unfold execHandoverConfirmTimeout
  repeat' (first
    | with_reducible assumption
    | with_reducible exact Keep.refl _
    | intro _
    | with_reducible apply KeepN.next
    | ((fail_if_success (conv => arg 3; arg 1)); extract_lets +onlyGivenNames t; refine KeepN.cut t ?_ ?_; subst t; rotate_left; clear_value t; intro ht; rotate_right)
    | ((fail_if_success (conv => arg 3; arg 1)); extract_lets +onlyGivenNames t; refine Keep.cut t ?_ ?_; subst t; rotate_left; clear_value t; intro ht; rotate_right)
    | ((fail_if_success (conv => arg 3; arg 1)); extract_lets +onlyGivenNames t; subst t)
    | with_reducible apply emit_keep
    | with_reducible apply advanceTo_keep
    | with_reducible apply handoverEnd_keep
    | ((fail_if_success (fail_if_success (conv => arg 3; arg 39))); with_reducible apply Keep.upd_lock)
    | with_reducible apply Keep.ite
    | with_reducible apply KeepN.ite
    | split
    | dsimp -zeta only)

end Sys2Proof.Machine
end

