-- ==== Sys2Proof/Laws/KeepStarts.lean ====
section
/-! SUPPORT. What the operations of Machine/Starts.lean keep: one lemma each. -/

namespace Sys2Proof.Machine

theorem nodeSend_keep {M : Part → Prop} {z s : State} (h_can : ¬ M .can) (f : CanFrame) (hz : Keep M z s) :
    Keep M z (nodeSend f s) := by
  unfold nodeSend
  repeat' (first
    | with_reducible assumption
    | with_reducible exact Keep.refl _
    | intro _
    | ((fail_if_success (conv => arg 3; arg 1)); extract_lets +onlyGivenNames t; refine Keep.cut t ?_ ?_; subst t; rotate_left; clear_value t; intro ht; rotate_right)
    | ((fail_if_success (conv => arg 3; arg 1)); extract_lets +onlyGivenNames t; subst t)
    | with_reducible apply putCan_keep
    | with_reducible apply Keep.ite
    | split
    | dsimp -zeta only)

theorem firstOperational_keep {M : Part → Prop} {z s : State} (h_sdg : ¬ M .sdg) (h_pack : ¬ M .pack) (h_can : ¬ M .can) (h_splice : ¬ M .splice) (hz : Keep M z s) :
    Keep M z (firstOperational s) := by
  unfold firstOperational
  repeat' (first
    | with_reducible assumption
    | with_reducible exact Keep.refl _
    | (intro _ hp; exact PinsOk.same hp rfl rfl rfl rfl rfl)
    | intro _
    | ((fail_if_success (conv => arg 3; arg 1)); extract_lets +onlyGivenNames t; refine Keep.cut t ?_ ?_; subst t; rotate_left; clear_value t; intro ht; rotate_right)
    | ((fail_if_success (conv => arg 3; arg 1)); extract_lets +onlyGivenNames t; subst t)
    | with_reducible apply emit_keep
    | with_reducible apply setLatentNext_keep
    | with_reducible apply rosterEnter_keep
    | with_reducible apply putWdg_keep
    | with_reducible apply nodeSend_keep
    | ((fail_if_success (fail_if_success (conv => arg 3; arg 39))); with_reducible apply Keep.upd_sdg)
    | ((fail_if_success (fail_if_success (conv => arg 3; arg 39))); with_reducible apply Keep.upd_splice)
    | with_reducible apply Keep.ite
    | split
    | dsimp -zeta only)

theorem enterOperational_keep {M : Part → Prop} {z s : State} (h_dev : ¬ M .dev) (h_regs : ¬ M .regs) (h_od : ¬ M .od) (h_start : ¬ M .start) (h_sdg : ¬ M .sdg) (h_pack : ¬ M .pack) (h_can : ¬ M .can) (h_splice : ¬ M .splice) (hz : Keep M z s) :
    Keep M z (enterOperational s) := by
  unfold enterOperational
  repeat' (first
    | with_reducible assumption
    | with_reducible exact Keep.refl _
    | (intro _ hp; exact PinsOk.same hp rfl rfl rfl rfl rfl)
    | intro _
    | ((fail_if_success (conv => arg 3; arg 1)); extract_lets +onlyGivenNames t; refine Keep.cut t ?_ ?_; subst t; rotate_left; clear_value t; intro ht; rotate_right)
    | ((fail_if_success (conv => arg 3; arg 1)); extract_lets +onlyGivenNames t; subst t)
    | with_reducible apply odPut_keep
    | with_reducible apply setDev_keep
    | with_reducible apply ssRequest_keep
    | with_reducible apply firstOperational_keep
    | ((fail_if_success (fail_if_success (conv => arg 3; arg 39))); with_reducible apply Keep.upd_start_sdg)
    | with_reducible apply Keep.ite
    | split
    | dsimp -zeta only)

theorem readyEff_keep {M : Part → Prop} {z s : State} (h_dev : ¬ M .dev) (h_regs : ¬ M .regs) (h_od : ¬ M .od) (h_start : ¬ M .start) (h_sdg : ¬ M .sdg) (h_pack : ¬ M .pack) (h_can : ¬ M .can) (h_splice : ¬ M .splice) (v : Nat) (hz : Keep M z s) :
    KeepW M z (readyEff v s) := by
  unfold readyEff
  repeat' (first
    | with_reducible assumption
    | with_reducible exact Keep.refl _
    | intro _
    | with_reducible apply enterOperational_keep
    | ((fail_if_success (fail_if_success (conv => arg 3; arg 39))); with_reducible apply Keep.upd_start)
    | with_reducible apply Keep.ite
    | with_reducible apply KeepW.ite
    | with_reducible apply KeepW.done
    | with_reducible apply KeepW.denied
    | split
    | dsimp -zeta only)

theorem execStartReady_keep {M : Part → Prop} {z s : State} (h_dev : ¬ M .dev) (h_now : ¬ M .now) (h_regs : ¬ M .regs) (h_hold : ¬ M .hold) (h_od : ¬ M .od) (h_pwr : ¬ M .pwr) (h_start : ¬ M .start) (h_sdg : ¬ M .sdg) (h_frz : ¬ M .frz) (h_apps : ¬ M .apps) (h_pack : ¬ M .pack) (h_can : ¬ M .can) (h_splice : ¬ M .splice) (h_gtime : ¬ M .gtime) (acc : Access) (value : Word) (hz : Keep M z s) :
    KeepN M z (execStartReady acc value s) := by
  unfold execStartReady
  repeat' (first
    | with_reducible assumption
    | with_reducible exact Keep.refl _
    | intro _
    | with_reducible apply KeepN.next
    | with_reducible apply regWriteWith_keep
    | with_reducible apply readyEff_keep
    | split
    | dsimp -zeta only)

theorem execReadyTimeout_keep {M : Part → Prop} {z s : State} (h_dev : ¬ M .dev) (h_now : ¬ M .now) (h_regs : ¬ M .regs) (h_od : ¬ M .od) (h_pwr : ¬ M .pwr) (h_start : ¬ M .start) (h_sdg : ¬ M .sdg) (h_frz : ¬ M .frz) (h_leash : ¬ M .leash) (h_splice : ¬ M .splice) (h_gtime : ¬ M .gtime) (hz : Keep M z s) :
    KeepN M z (execReadyTimeout s) := by
  unfold execReadyTimeout
  repeat' (first
    | with_reducible assumption
    | with_reducible exact Keep.refl _
    | intro _
    | with_reducible apply KeepN.next
    | with_reducible apply advanceTo_keep
    | with_reducible apply startFailed_keep
    | with_reducible apply Keep.ite
    | with_reducible apply KeepN.ite
    | split
    | dsimp -zeta only)

theorem odStarted_keep {M : Part → Prop} {z s : State} (h_od : ¬ M .od) (h_odBlob : ¬ M .odBlob) (h_odChange : ¬ M .odChange) (h_odStart : ¬ M .odStart) (bad : List Nat) (hz : Keep M z s) :
    Keep M z (odStarted bad s) := by
  unfold odStarted
  repeat' (first
    | with_reducible assumption
    | with_reducible exact Keep.refl _
    | intro _
    | ((fail_if_success (conv => arg 3; arg 1)); extract_lets +onlyGivenNames t; refine Keep.cut t ?_ ?_; subst t; rotate_left; clear_value t; intro ht; rotate_right)
    | ((fail_if_success (conv => arg 3; arg 1)); extract_lets +onlyGivenNames t; refine KeepP.cut t ?_ ?_; subst t; rotate_left; clear_value t; intro ht; rotate_right)
    | ((fail_if_success (conv => arg 3; arg 1)); extract_lets +onlyGivenNames t; subst t)
    | with_reducible apply odPut_keep
    | with_reducible apply blobPut_keep
    | ((fail_if_success (fail_if_success (conv => arg 3; arg 39))); with_reducible apply Keep.upd_odChange_odStart)
    | ((fail_if_success (fail_if_success (conv => arg 3; arg 39))); with_reducible apply Keep.upd_od_odBlob)
    | ((fail_if_success (conv => arg 3; arg 3)); with_reducible apply KeepP.mk')
    | with_reducible apply KeepP.foldl
    | with_reducible apply Keep.foldl
    | with_reducible apply KeepP.fst
    | split
    | dsimp -zeta only)

theorem resetBlocks_keep {M : Part → Prop} {z s : State} (h_regs : ¬ M .regs) (h_hold : ¬ M .hold) (h_sdg : ¬ M .sdg) (h_frz : ¬ M .frz) (h_leash : ¬ M .leash) (h_canopen : ¬ M .canopen) (h_lock : ¬ M .lock) (h_apps : ¬ M .apps) (h_sec : ¬ M .sec) (h_knots : ¬ M .knots) (h_pack : ¬ M .pack) (h_kennel : ¬ M .kennel) (h_cams : ¬ M .cams) (h_gfx : ¬ M .gfx) (h_pipes : ¬ M .pipes) (h_net : ¬ M .net) (h_can : ¬ M .can) (h_tether : ¬ M .tether) (h_splice : ¬ M .splice) (h_wh : ¬ M .wh) (h_slots : ¬ M .slots) (h_safeSlots : ¬ M .safeSlots) (h_pins : ¬ M .pins) (hz : Keep M z s) :
    Keep M z (resetBlocks s) := by
  unfold resetBlocks
  repeat' (first
    | with_reducible assumption
    | with_reducible exact Keep.refl _
    | (intro _ hp; exact PinsOk.same hp rfl rfl rfl rfl rfl)
    | intro _
    | exact absurd ‹M .pins› h_pins
    | ((fail_if_success (fail_if_success (conv => arg 3; arg 39))); with_reducible apply Keep.upd_regs_hold_sdg_frz_leash_canopen_lock_apps_sec_knots_pack_kennel_cams_gfx_pipes_net_can_tether_splice_wh_slots_safeSlots)
    | split
    | dsimp -zeta only)

theorem aonClear_keep {M : Part → Prop} {z s : State} (h_start : ¬ M .start) (h_frz : ¬ M .frz) (h_sec : ¬ M .sec) (h_wh : ¬ M .wh) (hz : Keep M z s) :
    Keep M z (aonClear s) := by
  unfold aonClear
  repeat' (first
    | with_reducible assumption
    | with_reducible exact Keep.refl _
    | intro _
    | ((fail_if_success (fail_if_success (conv => arg 3; arg 39))); with_reducible apply Keep.upd_start_frz_sec_wh)
    | split
    | dsimp -zeta only)

theorem memStarted_keep {M : Part → Prop} {z s : State} (h_od : ¬ M .od) (h_mem : ¬ M .mem) (h_memCtl : ¬ M .memCtl) (cold : Bool) (hz : Keep M z s) :
    Keep M z (memStarted cold s) := by
  unfold memStarted
  repeat' (first
    | with_reducible assumption
    | with_reducible exact Keep.refl _
    | intro _
    | ((fail_if_success (conv => arg 3; arg 1)); extract_lets +onlyGivenNames t; refine Keep.cut t ?_ ?_; subst t; rotate_left; clear_value t; intro ht; rotate_right)
    | ((fail_if_success (conv => arg 3; arg 1)); extract_lets +onlyGivenNames t; subst t)
    | (split; exact rfl; exact tabWf_filter _ ‹_›)
    | with_reducible apply odPut_keep
    | ((fail_if_success (fail_if_success (conv => arg 3; arg 39))); with_reducible apply Keep.upd_mem_memCtl)
    | with_reducible apply Keep.ite
    | split
    | dsimp -zeta only)

theorem cimStarted_keep {M : Part → Prop} {z s : State} (h_cim : ¬ M .cim) (cold : Bool) (bad : List (Nat × Nat)) (hz : Keep M z s) :
    Keep M z (cimStarted cold bad s) := by
  unfold cimStarted
  repeat' (first
    | with_reducible assumption
    | with_reducible exact Keep.refl _
    | intro _
    | ((fail_if_success (conv => arg 3; arg 1)); extract_lets +onlyGivenNames t; refine Keep.cut t ?_ ?_; subst t; rotate_left; clear_value t; intro ht; rotate_right)
    | ((fail_if_success (conv => arg 3; arg 1)); extract_lets +onlyGivenNames t; subst t)
    | ((fail_if_success (fail_if_success (conv => arg 3; arg 39))); with_reducible apply Keep.upd_cim)
    | with_reducible apply Keep.ite
    | with_reducible apply KeepP.fst
    | split
    | dsimp -zeta only)

theorem stage1Check_keep {M : Part → Prop} {z s : State} (h_od : ¬ M .od) (h_start : ¬ M .start) (k : Nat) (c : Stage1Copy) (hz : Keep M z s) :
    Keep M z (stage1Check k c s) := by
  unfold stage1Check
  repeat' (first
    | with_reducible assumption
    | with_reducible exact Keep.refl _
    | intro _
    | with_reducible apply odPut_keep
    | ((fail_if_success (fail_if_success (conv => arg 3; arg 39))); with_reducible apply Keep.upd_start)
    | split
    | dsimp -zeta only)

theorem stage1Copy_keep {M : Part → Prop} {z s : State} (h_mem : ¬ M .mem) (h_sec : ¬ M .sec) (c : Stage1Copy) (hz : Keep M z s) :
    Keep M z (stage1Copy c s) := by
  unfold stage1Copy
  repeat' (first
    | with_reducible assumption
    | with_reducible exact Keep.refl _
    | intro _
    | ((fail_if_success (conv => arg 3; arg 1)); extract_lets +onlyGivenNames t; refine Keep.cut t ?_ ?_; subst t; rotate_left; clear_value t; intro ht; rotate_right)
    | ((fail_if_success (conv => arg 3; arg 1)); extract_lets +onlyGivenNames t; subst t)
    | with_reducible apply memPut_keep
    | ((fail_if_success (fail_if_success (conv => arg 3; arg 39))); with_reducible apply Keep.upd_sec)
    | split
    | dsimp -zeta only)

theorem startTests_keep {M : Part → Prop} {z s : State} (h_pwr : ¬ M .pwr) (h_start : ¬ M .start) (h_frz : ¬ M .frz) (cold : Bool) (hz : Keep M z s) :
    Keep M z (startTests cold s) := by
  unfold startTests
  repeat' (first
    | with_reducible assumption
    | with_reducible exact Keep.refl _
    | intro _
    | ((fail_if_success (conv => arg 3; arg 1)); extract_lets +onlyGivenNames t; refine Keep.cut t ?_ ?_; subst t; rotate_left; clear_value t; intro ht; rotate_right)
    | ((fail_if_success (conv => arg 3; arg 1)); extract_lets +onlyGivenNames t; refine KeepP.cut t ?_ ?_; subst t; rotate_left; clear_value t; intro ht; rotate_right)
    | ((fail_if_success (conv => arg 3; arg 1)); extract_lets +onlyGivenNames t; subst t)
    | with_reducible apply emit_keep
    | ((fail_if_success (fail_if_success (conv => arg 3; arg 39))); with_reducible apply Keep.upd_pwr_start_frz)
    | with_reducible apply Keep.ite
    | with_reducible apply Keep.foldl
    | split
    | dsimp -zeta only)

theorem verifyScrub_keep {M : Part → Prop} {z s : State} (h_dev : ¬ M .dev) (h_regs : ¬ M .regs) (h_od : ¬ M .od) (h_mem : ¬ M .mem) (h_memCtl : ¬ M .memCtl) (h_pwr : ¬ M .pwr) (h_start : ¬ M .start) (h_sdg : ¬ M .sdg) (h_frz : ¬ M .frz) (h_sec : ¬ M .sec) (h_pack : ¬ M .pack) (hz : Keep M z s) :
    Keep M z (verifyScrub s) := by
  unfold verifyScrub
  repeat' (first
    | with_reducible assumption
    | with_reducible exact Keep.refl _
    | intro _
    | ((fail_if_success (conv => arg 3; arg 1)); extract_lets +onlyGivenNames t; refine Keep.cut t ?_ ?_; subst t; rotate_left; clear_value t; intro ht; rotate_right)
    | ((fail_if_success (conv => arg 3; arg 1)); extract_lets +onlyGivenNames t; refine KeepP.cut t ?_ ?_; subst t; rotate_left; clear_value t; intro ht; rotate_right)
    | ((fail_if_success (conv => arg 3; arg 1)); extract_lets +onlyGivenNames t; subst t)
    | with_reducible apply granRead_keep
    | ((with_reducible apply granRead_keep_of); with_reducible assumption)
    | ((fail_if_success (conv => arg 3; arg 3)); with_reducible apply KeepP.mk')
    | with_reducible apply KeepP.foldl
    | with_reducible apply Keep.foldl
    | with_reducible apply KeepP.fst
    | split
    | dsimp -zeta only)

theorem canStarted_keep {M : Part → Prop} {z s : State} (h_od : ¬ M .od) (h_can : ¬ M .can) (hz : Keep M z s) :
    Keep M z (canStarted s) := by
  unfold canStarted
  repeat' (first
    | with_reducible assumption
    | with_reducible exact Keep.refl _
    | intro _
    | with_reducible apply setCanState_keep
    | with_reducible apply Keep.ite
    | with_reducible apply Keep.foldl
    | split
    | dsimp -zeta only)

theorem canopenStarted_keep {M : Part → Prop} {z s : State} (h_dev : ¬ M .dev) (h_regs : ¬ M .regs) (h_od : ¬ M .od) (h_pwr : ¬ M .pwr) (h_start : ¬ M .start) (h_sdg : ¬ M .sdg) (h_frz : ¬ M .frz) (h_canopen : ¬ M .canopen) (h_pack : ¬ M .pack) (hz : Keep M z s) :
    Keep M z (canopenStarted s) := by
  unfold canopenStarted
  repeat' (first
    | with_reducible assumption
    | with_reducible exact Keep.refl _
    | intro _
    | ((fail_if_success (conv => arg 3; arg 1)); extract_lets +onlyGivenNames t; refine Keep.cut t ?_ ?_; subst t; rotate_left; clear_value t; intro ht; rotate_right)
    | ((fail_if_success (conv => arg 3; arg 1)); extract_lets +onlyGivenNames t; refine KeepP.cut t ?_ ?_; subst t; rotate_left; clear_value t; intro ht; rotate_right)
    | ((fail_if_success (conv => arg 3; arg 1)); extract_lets +onlyGivenNames t; subst t)
    | with_reducible apply raiseAlarm_keep
    | ((fail_if_success (fail_if_success (conv => arg 3; arg 39))); with_reducible apply Keep.upd_canopen)
    | with_reducible apply Keep.ite
    | with_reducible apply Keep.foldl
    | split
    | dsimp -zeta only)

theorem netStarted_keep {M : Part → Prop} {z s : State} (h_regs : ¬ M .regs) (h_od : ¬ M .od) (h_pipes : ¬ M .pipes) (h_net : ¬ M .net) (hz : Keep M z s) :
    Keep M z (netStarted s) := by
  unfold netStarted
  repeat' (first
    | with_reducible assumption
    | with_reducible exact Keep.refl _
    | intro _
    | ((fail_if_success (conv => arg 3; arg 1)); extract_lets +onlyGivenNames t; refine Keep.cut t ?_ ?_; subst t; rotate_left; clear_value t; intro ht; rotate_right)
    | ((fail_if_success (conv => arg 3; arg 1)); extract_lets +onlyGivenNames t; refine KeepP.cut t ?_ ?_; subst t; rotate_left; clear_value t; intro ht; rotate_right)
    | ((fail_if_success (conv => arg 3; arg 1)); extract_lets +onlyGivenNames t; subst t)
    | with_reducible apply odPut_keep
    | with_reducible apply pipeSet_keep
    | with_reducible apply gateArm_keep
    | ((fail_if_success (fail_if_success (conv => arg 3; arg 39))); with_reducible apply Keep.upd_net)
    | with_reducible apply Keep.ite
    | with_reducible apply Keep.foldl
    | split
    | dsimp -zeta only)

theorem startEnd_keep {M : Part → Prop} {z s : State} (h_dev : ¬ M .dev) (h_regs : ¬ M .regs) (h_hold : ¬ M .hold) (h_od : ¬ M .od) (h_pwr : ¬ M .pwr) (h_start : ¬ M .start) (h_sdg : ¬ M .sdg) (h_frz : ¬ M .frz) (h_leash : ¬ M .leash) (h_canopen : ¬ M .canopen) (h_lock : ¬ M .lock) (h_pack : ¬ M .pack) (h_kennel : ¬ M .kennel) (h_pipes : ¬ M .pipes) (h_net : ¬ M .net) (h_can : ¬ M .can) (hz : Keep M z s) :
    Keep M z (startEnd s) := by
  unfold startEnd
  repeat' (first
    | with_reducible assumption
    | with_reducible exact Keep.refl _
    | intro _
    | ((fail_if_success (conv => arg 3; arg 1)); extract_lets +onlyGivenNames t; refine Keep.cut t ?_ ?_; subst t; rotate_left; clear_value t; intro ht; rotate_right)
    | ((fail_if_success (conv => arg 3; arg 1)); extract_lets +onlyGivenNames t; subst t)
    | with_reducible apply createAll_keep
    | with_reducible apply releaseUnit_keep
    | with_reducible apply canStarted_keep
    | with_reducible apply canopenStarted_keep
    | with_reducible apply netStarted_keep
    | ((fail_if_success (fail_if_success (conv => arg 3; arg 39))); with_reducible apply Keep.upd_leash)
    | ((fail_if_success (fail_if_success (conv => arg 3; arg 39))); with_reducible apply Keep.upd_kennel)
    | ((fail_if_success (fail_if_success (conv => arg 3; arg 39))); with_reducible apply Keep.upd_start)
    | split
    | dsimp -zeta only)

theorem slotsStarted_keep {M : Part → Prop} {z s : State} (h_od : ¬ M .od) (h_sec : ¬ M .sec) (cold : Bool) (hz : Keep M z s) :
    Keep M z (slotsStarted cold s) := by
  unfold slotsStarted
  repeat' (first
    | with_reducible assumption
    | with_reducible exact Keep.refl _
    | intro _
    | ((fail_if_success (conv => arg 3; arg 1)); extract_lets +onlyGivenNames t; refine Keep.cut t ?_ ?_; subst t; rotate_left; clear_value t; intro ht; rotate_right)
    | ((fail_if_success (conv => arg 3; arg 1)); extract_lets +onlyGivenNames t; subst t)
    | with_reducible apply odPut_keep
    | ((fail_if_success (fail_if_success (conv => arg 3; arg 39))); with_reducible apply Keep.upd_sec)
    | with_reducible apply Keep.ite
    | with_reducible apply KeepP.fst
    | split
    | dsimp -zeta only)

theorem fusesStarted_keep {M : Part → Prop} (h_lock : ¬ M .lock) (h_fuses : ¬ M .fuses) (cold : Bool) {z s : State} (hz : Keep M z s) :
    Keep M z (fusesStarted cold s) := by
  unfold fusesStarted
  with_reducible apply Keep.ite
  · exact hz
  · with_reducible apply Keep.upd_lock_fuses h_lock h_fuses (FusesLe.read s.fuses) hz

theorem startReset_pins (cold : Bool) (env : StartEnv) (s : State) : PinsOk (startReset cold env s) := by
  unfold startReset
  generalize (if env.aonGood then s else aonClear s) = t
  have h : devUp (setDev (if cold then .coldStart else .warmStart) t).dev = false := by
    have hd : ∀ d, (setDev d t).dev = d ∨ (setDev d t).dev = .failed ∧ t.dev = .failed := by
      intro d
      unfold setDev
      split
      · rename_i e; rcases e with e | e
        · exact Or.inl e
        · exact Or.inr ⟨e, e⟩
      · left
        have k : Keep (fun p => p = .dev) (driveDev d t) (safeMsg 0 (sendMsg 1811 (odPut (odKey 0x2000 2) (gnow t) (driveDev d t)))) :=
          safeMsg_keep (fun e => nomatch e) _ (sendMsg_keep (fun e => nomatch e) _ (odPut_keep (fun e => nomatch e) _ _ (Keep.refl _)))
        have := k.same .dev rfl
        exact Eq.trans this (setPins_dev _ _ _ _)
    rcases hd (if cold then .coldStart else .warmStart) with e | e
    · rw [e]; cases cold <;> rfl
    · rw [e.1]; rfl
  exact ⟨fun _ => ⟨rfl, rfl, rfl⟩, fun e => absurd (show devUp (setDev (if cold then .coldStart else .warmStart) t).dev = true from e) (by rw [h]; decide), rfl⟩

theorem startReset_keep {M : Part → Prop} {z s : State} (h_dev : ¬ M .dev) (h_regs : ¬ M .regs) (h_hold : ¬ M .hold) (h_od : ¬ M .od) (h_start : ¬ M .start) (h_sdg : ¬ M .sdg) (h_frz : ¬ M .frz) (h_leash : ¬ M .leash) (h_canopen : ¬ M .canopen) (h_lock : ¬ M .lock) (h_apps : ¬ M .apps) (h_sec : ¬ M .sec) (h_knots : ¬ M .knots) (h_pack : ¬ M .pack) (h_kennel : ¬ M .kennel) (h_cams : ¬ M .cams) (h_gfx : ¬ M .gfx) (h_pipes : ¬ M .pipes) (h_net : ¬ M .net) (h_can : ¬ M .can) (h_tether : ¬ M .tether) (h_splice : ¬ M .splice) (h_wh : ¬ M .wh) (h_slots : ¬ M .slots) (h_safeSlots : ¬ M .safeSlots) (cold : Bool) (env : StartEnv) (hz : Keep M z s) :
    Keep M z (startReset cold env s) := by
  refine Keep.promise .pins ?_ fun _ _ => startReset_pins cold env s
  have hz : Keep (fun p => M p ∧ p ≠ .pins) z s := hz.mono fun _ x => x.1
  unfold startReset
  refine resetBlocks_keep (fun x => h_regs x.1) (fun x => h_hold x.1) (fun x => h_sdg x.1) (fun x => h_frz x.1) (fun x => h_leash x.1) (fun x => h_canopen x.1) (fun x => h_lock x.1) (fun x => h_apps x.1) (fun x => h_sec x.1) (fun x => h_knots x.1) (fun x => h_pack x.1) (fun x => h_kennel x.1) (fun x => h_cams x.1) (fun x => h_gfx x.1) (fun x => h_pipes x.1) (fun x => h_net x.1) (fun x => h_can x.1) (fun x => h_tether x.1) (fun x => h_splice x.1) (fun x => h_wh x.1) (fun x => h_slots x.1) (fun x => h_safeSlots x.1) (fun x => x.2 rfl) (setDev_keep (fun x => h_dev x.1) (fun x => h_regs x.1) (fun x => h_od x.1) (fun x => h_sdg x.1) _ ?_)
  with_reducible apply Keep.ite
  · exact hz
  · exact aonClear_keep (fun x => h_start x.1) (fun x => h_frz x.1) (fun x => h_sec x.1) (fun x => h_wh x.1) hz

theorem startBegin_keep {M : Part → Prop} {z s : State} (h_dev : ¬ M .dev) (h_regs : ¬ M .regs) (h_hold : ¬ M .hold) (h_od : ¬ M .od) (h_odBlob : ¬ M .odBlob) (h_odChange : ¬ M .odChange) (h_odStart : ¬ M .odStart) (h_pwr : ¬ M .pwr) (h_start : ¬ M .start) (h_sdg : ¬ M .sdg) (h_frz : ¬ M .frz) (h_leash : ¬ M .leash) (h_canopen : ¬ M .canopen) (h_lock : ¬ M .lock) (h_apps : ¬ M .apps) (h_sec : ¬ M .sec) (h_fuses : ¬ M .fuses) (h_knots : ¬ M .knots) (h_pack : ¬ M .pack) (h_kennel : ¬ M .kennel) (h_cams : ¬ M .cams) (h_gfx : ¬ M .gfx) (h_pipes : ¬ M .pipes) (h_net : ¬ M .net) (h_can : ¬ M .can) (h_tether : ¬ M .tether) (h_splice : ¬ M .splice) (h_wh : ¬ M .wh) (h_slots : ¬ M .slots) (h_safeSlots : ¬ M .safeSlots) (cold : Bool) (fromRestart : Bool) (env : StartEnv) (hz : Keep M z s) :
    Keep M z (startBegin cold fromRestart env s) := by
  unfold startBegin
  repeat' (first
    | with_reducible assumption
    | with_reducible exact Keep.refl _
    | intro _
    | ((fail_if_success (conv => arg 3; arg 1)); extract_lets +onlyGivenNames t; refine Keep.cut t ?_ ?_; subst t; rotate_left; clear_value t; intro ht; rotate_right)
    | ((fail_if_success (conv => arg 3; arg 1)); extract_lets +onlyGivenNames t; subst t)
    | with_reducible apply odPut_keep
    | with_reducible apply odCount_keep
    | with_reducible apply raiseAlarm_keep
    | with_reducible apply odStarted_keep
    | with_reducible apply slotsStarted_keep
    | with_reducible apply fusesStarted_keep
    | with_reducible apply startReset_keep
    | ((fail_if_success (fail_if_success (conv => arg 3; arg 39))); with_reducible apply Keep.upd_pwr_start_frz)
    | with_reducible apply Keep.ite
    | with_reducible apply KeepP.fst
    | split
    | dsimp -zeta only)

theorem startRest_keep {M : Part → Prop} {z s : State} (h_dev : ¬ M .dev) (h_now : ¬ M .now) (h_regs : ¬ M .regs) (h_hold : ¬ M .hold) (h_od : ¬ M .od) (h_mem : ¬ M .mem) (h_memCtl : ¬ M .memCtl) (h_pwr : ¬ M .pwr) (h_start : ¬ M .start) (h_sdg : ¬ M .sdg) (h_frz : ¬ M .frz) (h_leash : ¬ M .leash) (h_canopen : ¬ M .canopen) (h_lock : ¬ M .lock) (h_sec : ¬ M .sec) (h_pack : ¬ M .pack) (h_cim : ¬ M .cim) (h_kennel : ¬ M .kennel) (h_pipes : ¬ M .pipes) (h_net : ¬ M .net) (h_can : ¬ M .can) (h_splice : ¬ M .splice) (h_gtime : ¬ M .gtime) (cold : Bool) (copy : Option Stage1Copy) (env : StartEnv) (hz : Keep M z s) :
    Keep M z (startRest cold copy env s) := by
  unfold startRest
  repeat' (first
    | with_reducible assumption
    | with_reducible exact Keep.refl _
    | intro _
    | ((fail_if_success (conv => arg 3; arg 1)); extract_lets +onlyGivenNames t; refine Keep.cut t ?_ ?_; subst t; rotate_left; clear_value t; intro ht; rotate_right)
    | ((fail_if_success (conv => arg 3; arg 1)); extract_lets +onlyGivenNames t; subst t)
    | with_reducible apply advanceTo_keep
    | with_reducible apply odPut_keep
    | with_reducible apply raiseAll_keep
    | with_reducible apply startFailed_keep
    | with_reducible apply memStarted_keep
    | with_reducible apply cimStarted_keep
    | with_reducible apply stage1Copy_keep
    | with_reducible apply startTests_keep
    | with_reducible apply verifyScrub_keep
    | with_reducible apply startEnd_keep
    | split
    | dsimp -zeta only)

theorem runStart_keep {M : Part → Prop} {z s : State} (h_dev : ¬ M .dev) (h_now : ¬ M .now) (h_regs : ¬ M .regs) (h_hold : ¬ M .hold) (h_od : ¬ M .od) (h_odBlob : ¬ M .odBlob) (h_odChange : ¬ M .odChange) (h_odStart : ¬ M .odStart) (h_mem : ¬ M .mem) (h_memCtl : ¬ M .memCtl) (h_pwr : ¬ M .pwr) (h_start : ¬ M .start) (h_sdg : ¬ M .sdg) (h_frz : ¬ M .frz) (h_leash : ¬ M .leash) (h_canopen : ¬ M .canopen) (h_lock : ¬ M .lock) (h_apps : ¬ M .apps) (h_sec : ¬ M .sec) (h_fuses : ¬ M .fuses) (h_knots : ¬ M .knots) (h_pack : ¬ M .pack) (h_cim : ¬ M .cim) (h_kennel : ¬ M .kennel) (h_cams : ¬ M .cams) (h_gfx : ¬ M .gfx) (h_pipes : ¬ M .pipes) (h_net : ¬ M .net) (h_can : ¬ M .can) (h_tether : ¬ M .tether) (h_splice : ¬ M .splice) (h_wh : ¬ M .wh) (h_slots : ¬ M .slots) (h_safeSlots : ¬ M .safeSlots) (h_gtime : ¬ M .gtime) (cold : Bool) (fromRestart : Bool) (env : StartEnv) (hz : Keep M z s) :
    Keep M z (runStart cold fromRestart env s) := by
  unfold runStart
  repeat' (first
    | with_reducible assumption
    | with_reducible exact Keep.refl _
    | intro _
    | ((fail_if_success (conv => arg 3; arg 1)); extract_lets +onlyGivenNames t; refine Keep.cut t ?_ ?_; subst t; rotate_left; clear_value t; intro ht; rotate_right)
    | ((fail_if_success (conv => arg 3; arg 1)); extract_lets +onlyGivenNames t; subst t)
    | with_reducible apply enterFailed_keep
    | with_reducible apply failCount_keep
    | with_reducible apply startFailed_keep
    | with_reducible apply stage1Check_keep
    | with_reducible apply startBegin_keep
    | with_reducible apply startRest_keep
    | with_reducible apply Keep.ite
    | split
    | dsimp -zeta only)

theorem execRestartExit_keep {M : Part → Prop} {z s : State} (h_dev : ¬ M .dev) (h_now : ¬ M .now) (h_regs : ¬ M .regs) (h_hold : ¬ M .hold) (h_od : ¬ M .od) (h_odBlob : ¬ M .odBlob) (h_odChange : ¬ M .odChange) (h_odStart : ¬ M .odStart) (h_mem : ¬ M .mem) (h_memCtl : ¬ M .memCtl) (h_pwr : ¬ M .pwr) (h_start : ¬ M .start) (h_sdg : ¬ M .sdg) (h_frz : ¬ M .frz) (h_leash : ¬ M .leash) (h_canopen : ¬ M .canopen) (h_lock : ¬ M .lock) (h_apps : ¬ M .apps) (h_sec : ¬ M .sec) (h_fuses : ¬ M .fuses) (h_knots : ¬ M .knots) (h_pack : ¬ M .pack) (h_cim : ¬ M .cim) (h_kennel : ¬ M .kennel) (h_cams : ¬ M .cams) (h_gfx : ¬ M .gfx) (h_pipes : ¬ M .pipes) (h_net : ¬ M .net) (h_can : ¬ M .can) (h_tether : ¬ M .tether) (h_splice : ¬ M .splice) (h_wh : ¬ M .wh) (h_slots : ¬ M .slots) (h_safeSlots : ¬ M .safeSlots) (h_gtime : ¬ M .gtime) (env : StartEnv) (hz : Keep M z s) :
    KeepN M z (execRestartExit env s) := by
  unfold execRestartExit
  repeat' (first
    | with_reducible assumption
    | with_reducible exact Keep.refl _
    | intro _
    | with_reducible apply KeepN.next
    | ((fail_if_success (conv => arg 3; arg 1)); extract_lets +onlyGivenNames t; refine KeepN.cut t ?_ ?_; subst t; rotate_left; clear_value t; intro ht; rotate_right)
    | ((fail_if_success (conv => arg 3; arg 1)); extract_lets +onlyGivenNames t; refine Keep.cut t ?_ ?_; subst t; rotate_left; clear_value t; intro ht; rotate_right)
    | ((fail_if_success (conv => arg 3; arg 1)); extract_lets +onlyGivenNames t; subst t)
    | with_reducible apply odCount_keep
    | with_reducible apply runStart_keep
    | with_reducible apply Keep.ite
    | with_reducible apply KeepN.ite
    | split
    | dsimp -zeta only)

theorem PinsFor.off {t : Bool} : PinsFor .off t false false false := ⟨fun _ => ⟨rfl, rfl, rfl⟩, fun e => (nomatch e), rfl⟩

theorem powerOff_keep {M : Part → Prop} {z s : State} (h_dev : ¬ M .dev) (h_regs : ¬ M .regs) (h_hold : ¬ M .hold) (h_od : ¬ M .od) (h_odBlob : ¬ M .odBlob) (h_odChange : ¬ M .odChange) (h_odStart : ¬ M .odStart) (h_mem : ¬ M .mem) (h_memCtl : ¬ M .memCtl) (h_pwr : ¬ M .pwr) (h_start : ¬ M .start) (h_sdg : ¬ M .sdg) (h_frz : ¬ M .frz) (h_leash : ¬ M .leash) (h_canopen : ¬ M .canopen) (h_lock : ¬ M .lock) (h_apps : ¬ M .apps) (h_sec : ¬ M .sec) (h_knots : ¬ M .knots) (h_pack : ¬ M .pack) (h_cim : ¬ M .cim) (h_kennel : ¬ M .kennel) (h_cams : ¬ M .cams) (h_gfx : ¬ M .gfx) (h_pipes : ¬ M .pipes) (h_net : ¬ M .net) (h_can : ¬ M .can) (h_tether : ¬ M .tether) (h_splice : ¬ M .splice) (h_wh : ¬ M .wh) (h_slots : ¬ M .slots) (h_safeSlots : ¬ M .safeSlots) (h_gtime : ¬ M .gtime) (h_latch : ¬ M .latch) (hz : Keep M z s) :
    Keep M z (powerOff s) := by
  refine hz.trans ⟨rfl, Nat.le_refl _, Nat.le_refl _, List.suffix_refl _, FusesLe.refl _, fun _ => rfl, ?_⟩
  intro p hp
  cases p
  case params => rfl
  case fuses => rfl
  case now => rfl
  case free => rfl
  case pins => exact fun _ => PinsFor.off
  all_goals contradiction

theorem execVddAonRemoved_keep {M : Part → Prop} {z s : State} (h_dev : ¬ M .dev) (h_regs : ¬ M .regs) (h_hold : ¬ M .hold) (h_od : ¬ M .od) (h_odBlob : ¬ M .odBlob) (h_odChange : ¬ M .odChange) (h_odStart : ¬ M .odStart) (h_mem : ¬ M .mem) (h_memCtl : ¬ M .memCtl) (h_pwr : ¬ M .pwr) (h_start : ¬ M .start) (h_sdg : ¬ M .sdg) (h_frz : ¬ M .frz) (h_leash : ¬ M .leash) (h_canopen : ¬ M .canopen) (h_lock : ¬ M .lock) (h_apps : ¬ M .apps) (h_sec : ¬ M .sec) (h_knots : ¬ M .knots) (h_pack : ¬ M .pack) (h_cim : ¬ M .cim) (h_kennel : ¬ M .kennel) (h_cams : ¬ M .cams) (h_gfx : ¬ M .gfx) (h_pipes : ¬ M .pipes) (h_net : ¬ M .net) (h_can : ¬ M .can) (h_tether : ¬ M .tether) (h_splice : ¬ M .splice) (h_wh : ¬ M .wh) (h_slots : ¬ M .slots) (h_safeSlots : ¬ M .safeSlots) (h_gtime : ¬ M .gtime) (h_latch : ¬ M .latch) (hz : Keep M z s) :
    KeepN M z (execVddAonRemoved s) := by
  unfold execVddAonRemoved
  with_reducible apply KeepN.next
  with_reducible apply Keep.ite
  · refine Keep.promise .pins ?_ fun _ _ => PinsFor.off
    exact powerOff_keep (fun x => h_dev x.1) (fun x => h_regs x.1) (fun x => h_hold x.1) (fun x => h_od x.1) (fun x => h_odBlob x.1) (fun x => h_odChange x.1) (fun x => h_odStart x.1) (fun x => h_mem x.1) (fun x => h_memCtl x.1) (fun x => h_pwr x.1) (fun x => h_start x.1) (fun x => h_sdg x.1) (fun x => h_frz x.1) (fun x => h_leash x.1) (fun x => h_canopen x.1) (fun x => h_lock x.1) (fun x => h_apps x.1) (fun x => h_sec x.1) (fun x => h_knots x.1) (fun x => h_pack x.1) (fun x => h_cim x.1) (fun x => h_kennel x.1) (fun x => h_cams x.1) (fun x => h_gfx x.1) (fun x => h_pipes x.1) (fun x => h_net x.1) (fun x => h_can x.1) (fun x => h_tether x.1) (fun x => h_splice x.1) (fun x => h_wh x.1) (fun x => h_slots x.1) (fun x => h_safeSlots x.1) (fun x => h_gtime x.1) (fun x => h_latch x.1) (setPins_keep (fun x => h_sdg x.1) (fun x => x.2 rfl) _ _ _ (hz.mono fun _ x => x.1))
  · exact hz

theorem startFromOff_keep {M : Part → Prop} {z s : State} (h_dev : ¬ M .dev) (h_now : ¬ M .now) (h_regs : ¬ M .regs) (h_hold : ¬ M .hold) (h_od : ¬ M .od) (h_odBlob : ¬ M .odBlob) (h_odChange : ¬ M .odChange) (h_odStart : ¬ M .odStart) (h_mem : ¬ M .mem) (h_memCtl : ¬ M .memCtl) (h_pwr : ¬ M .pwr) (h_start : ¬ M .start) (h_sdg : ¬ M .sdg) (h_frz : ¬ M .frz) (h_leash : ¬ M .leash) (h_canopen : ¬ M .canopen) (h_lock : ¬ M .lock) (h_apps : ¬ M .apps) (h_sec : ¬ M .sec) (h_fuses : ¬ M .fuses) (h_knots : ¬ M .knots) (h_pack : ¬ M .pack) (h_cim : ¬ M .cim) (h_kennel : ¬ M .kennel) (h_cams : ¬ M .cams) (h_gfx : ¬ M .gfx) (h_pipes : ¬ M .pipes) (h_net : ¬ M .net) (h_can : ¬ M .can) (h_tether : ¬ M .tether) (h_splice : ¬ M .splice) (h_wh : ¬ M .wh) (h_slots : ¬ M .slots) (h_safeSlots : ¬ M .safeSlots) (h_gtime : ¬ M .gtime) (strap : Bool) (pcie : Bool) (env : StartEnv) (hz : Keep M z s) :
    Keep M z (startFromOff strap pcie env s) := by
  unfold startFromOff
  repeat' (first
    | with_reducible assumption
    | with_reducible exact Keep.refl _
    | intro _
    | ((fail_if_success (conv => arg 3; arg 1)); extract_lets +onlyGivenNames t; refine Keep.cut t ?_ ?_; subst t; rotate_left; clear_value t; intro ht; rotate_right)
    | ((fail_if_success (conv => arg 3; arg 1)); extract_lets +onlyGivenNames t; subst t)
    | with_reducible apply runStart_keep
    | ((fail_if_success (fail_if_success (conv => arg 3; arg 39))); with_reducible apply Keep.upd_start)
    | with_reducible apply Keep.ite
    | split
    | dsimp -zeta only)

theorem execVddAonPowerOn_keep {M : Part → Prop} {z s : State} (h_dev : ¬ M .dev) (h_now : ¬ M .now) (h_regs : ¬ M .regs) (h_hold : ¬ M .hold) (h_od : ¬ M .od) (h_odBlob : ¬ M .odBlob) (h_odChange : ¬ M .odChange) (h_odStart : ¬ M .odStart) (h_mem : ¬ M .mem) (h_memCtl : ¬ M .memCtl) (h_pwr : ¬ M .pwr) (h_start : ¬ M .start) (h_sdg : ¬ M .sdg) (h_frz : ¬ M .frz) (h_leash : ¬ M .leash) (h_canopen : ¬ M .canopen) (h_lock : ¬ M .lock) (h_apps : ¬ M .apps) (h_sec : ¬ M .sec) (h_fuses : ¬ M .fuses) (h_knots : ¬ M .knots) (h_pack : ¬ M .pack) (h_cim : ¬ M .cim) (h_kennel : ¬ M .kennel) (h_cams : ¬ M .cams) (h_gfx : ¬ M .gfx) (h_pipes : ¬ M .pipes) (h_net : ¬ M .net) (h_can : ¬ M .can) (h_tether : ¬ M .tether) (h_splice : ¬ M .splice) (h_wh : ¬ M .wh) (h_slots : ¬ M .slots) (h_safeSlots : ¬ M .safeSlots) (h_gtime : ¬ M .gtime) (h_latch : ¬ M .latch) (porstHigh : Bool) (splitStrap : Bool) (pcieMode : Bool) (env : StartEnv) (hz : Keep M z s) :
    KeepN M z (execVddAonPowerOn porstHigh splitStrap pcieMode env s) := by
  unfold execVddAonPowerOn
  repeat' (first
    | with_reducible assumption
    | with_reducible exact Keep.refl _
    | intro _
    | with_reducible apply KeepN.next
    | ((fail_if_success (conv => arg 3; arg 1)); extract_lets +onlyGivenNames t; refine KeepN.cut t ?_ ?_; subst t; rotate_left; clear_value t; intro ht; rotate_right)
    | ((fail_if_success (conv => arg 3; arg 1)); extract_lets +onlyGivenNames t; refine Keep.cut t ?_ ?_; subst t; rotate_left; clear_value t; intro ht; rotate_right)
    | ((fail_if_success (conv => arg 3; arg 1)); extract_lets +onlyGivenNames t; subst t)
    | with_reducible apply powerOff_keep
    | with_reducible apply startFromOff_keep
    | ((fail_if_success (fail_if_success (conv => arg 3; arg 39))); with_reducible apply Keep.upd_pwr)
    | with_reducible apply Keep.ite
    | with_reducible apply KeepN.ite
    | split
    | dsimp -zeta only)

theorem mgmtReset_keep {M : Part → Prop} {z s : State} (h_leash : ¬ M .leash) (h_canopen : ¬ M .canopen) (hz : Keep M z s) :
    Keep M z (mgmtReset s) := by
  unfold mgmtReset
  repeat' (first
    | with_reducible assumption
    | with_reducible exact Keep.refl _
    | intro _
    | ((fail_if_success (fail_if_success (conv => arg 3; arg 39))); with_reducible apply Keep.upd_leash_canopen)
    | split
    | dsimp -zeta only)

theorem porstFailed_keep {M : Part → Prop} {z s : State} (h_od : ¬ M .od) (h_pwr : ¬ M .pwr) (h_leash : ¬ M .leash) (h_canopen : ¬ M .canopen) (hz : Keep M z s) :
    Keep M z (porstFailed s) := by
  unfold porstFailed
  repeat' (first
    | with_reducible assumption
    | with_reducible exact Keep.refl _
    | intro _
    | ((fail_if_success (conv => arg 3; arg 1)); extract_lets +onlyGivenNames t; refine Keep.cut t ?_ ?_; subst t; rotate_left; clear_value t; intro ht; rotate_right)
    | ((fail_if_success (conv => arg 3; arg 1)); extract_lets +onlyGivenNames t; subst t)
    | with_reducible apply odCount_keep
    | with_reducible apply mgmtReset_keep
    | ((fail_if_success (fail_if_success (conv => arg 3; arg 39))); with_reducible apply Keep.upd_pwr)
    | split
    | dsimp -zeta only)

theorem porstOff_keep {M : Part → Prop} {z s : State} (h_dev : ¬ M .dev) (h_od : ¬ M .od) (h_pwr : ¬ M .pwr) (h_start : ¬ M .start) (h_sdg : ¬ M .sdg) (h_frz : ¬ M .frz) (h_leash : ¬ M .leash) (h_canopen : ¬ M .canopen) (h_latch : ¬ M .latch) (h_pins : ¬ M .pins) (hz : Keep M z s) :
    Keep M z (porstOff s) := by
  unfold porstOff
  repeat' (first
    | with_reducible assumption
    | with_reducible exact Keep.refl _
    | (intro _ hp; exact PinsOk.same hp rfl rfl rfl rfl rfl)
    | intro _
    | ((fail_if_success (conv => arg 3; arg 1)); extract_lets +onlyGivenNames t; refine Keep.cut t ?_ ?_; subst t; rotate_left; clear_value t; intro ht; rotate_right)
    | ((fail_if_success (conv => arg 3; arg 1)); extract_lets +onlyGivenNames t; subst t)
    | exact absurd ‹M .pins› h_pins
    | exact absurd ‹M .latch› h_latch
    | with_reducible apply setPins_keep
    | with_reducible apply endBrace_keep
    | with_reducible apply mgmtReset_keep
    | ((fail_if_success (fail_if_success (conv => arg 3; arg 39))); with_reducible apply Keep.upd_dev_pwr_start_sdg_frz)
    | with_reducible apply Keep.ite
    | split
    | dsimp -zeta only)

theorem porstOff_pins (s : State) : PinsOk (porstOff s) := PinsFor.off

theorem execPorstNAssert_keep {M : Part → Prop} {z s : State} (h_dev : ¬ M .dev) (h_od : ¬ M .od) (h_pwr : ¬ M .pwr) (h_start : ¬ M .start) (h_sdg : ¬ M .sdg) (h_frz : ¬ M .frz) (h_leash : ¬ M .leash) (h_canopen : ¬ M .canopen) (lowNs : Nat) (hz : Keep M z s) : KeepN M z (execPorstNAssert lowNs s) := by
  unfold execPorstNAssert
  with_reducible apply KeepN.next
  split
  · exact hz
  split
  · exact porstFailed_keep h_od h_pwr h_leash h_canopen hz
  · rename_i h
    refine Keep.promise .pins (Keep.promise .latch ?_ fun m e => absurd (hz.same .latch m.1 e) h) fun _ _ => porstOff_pins s
    exact porstOff_keep (fun x => h_dev x.1.1) (fun x => h_od x.1.1) (fun x => h_pwr x.1.1) (fun x => h_start x.1.1) (fun x => h_sdg x.1.1) (fun x => h_frz x.1.1) (fun x => h_leash x.1.1) (fun x => h_canopen x.1.1) (fun x => x.2 rfl) (fun x => x.1.2 rfl) (hz.mono fun _ x => x.1.1)

theorem execPorstNRelease_keep {M : Part → Prop} {z s : State} (h_dev : ¬ M .dev) (h_now : ¬ M .now) (h_regs : ¬ M .regs) (h_hold : ¬ M .hold) (h_od : ¬ M .od) (h_odBlob : ¬ M .odBlob) (h_odChange : ¬ M .odChange) (h_odStart : ¬ M .odStart) (h_mem : ¬ M .mem) (h_memCtl : ¬ M .memCtl) (h_pwr : ¬ M .pwr) (h_start : ¬ M .start) (h_sdg : ¬ M .sdg) (h_frz : ¬ M .frz) (h_leash : ¬ M .leash) (h_canopen : ¬ M .canopen) (h_lock : ¬ M .lock) (h_apps : ¬ M .apps) (h_sec : ¬ M .sec) (h_fuses : ¬ M .fuses) (h_knots : ¬ M .knots) (h_pack : ¬ M .pack) (h_cim : ¬ M .cim) (h_kennel : ¬ M .kennel) (h_cams : ¬ M .cams) (h_gfx : ¬ M .gfx) (h_pipes : ¬ M .pipes) (h_net : ¬ M .net) (h_can : ¬ M .can) (h_tether : ¬ M .tether) (h_splice : ¬ M .splice) (h_wh : ¬ M .wh) (h_slots : ¬ M .slots) (h_safeSlots : ¬ M .safeSlots) (h_gtime : ¬ M .gtime) (splitStrap : Bool) (pcieMode : Bool) (env : StartEnv) (hz : Keep M z s) :
    KeepN M z (execPorstNRelease splitStrap pcieMode env s) := by
  unfold execPorstNRelease
  repeat' (first
    | with_reducible assumption
    | with_reducible exact Keep.refl _
    | intro _
    | with_reducible apply KeepN.next
    | ((fail_if_success (conv => arg 3; arg 1)); extract_lets +onlyGivenNames t; refine KeepN.cut t ?_ ?_; subst t; rotate_left; clear_value t; intro ht; rotate_right)
    | ((fail_if_success (conv => arg 3; arg 1)); extract_lets +onlyGivenNames t; refine Keep.cut t ?_ ?_; subst t; rotate_left; clear_value t; intro ht; rotate_right)
    | ((fail_if_success (conv => arg 3; arg 1)); extract_lets +onlyGivenNames t; subst t)
    | with_reducible apply fusesStarted_keep
    | with_reducible apply startFromOff_keep
    | ((fail_if_success (fail_if_success (conv => arg 3; arg 39))); with_reducible apply Keep.upd_pwr)
    | ((fail_if_success (fail_if_success (conv => arg 3; arg 39))); with_reducible apply Keep.upd_start_leash)
    | with_reducible apply Keep.ite
    | with_reducible apply KeepN.ite
    | split
    | dsimp -zeta only)

theorem execRetentionRailExcursion_keep {M : Part → Prop} {z s : State} (h_od : ¬ M .od) (h_pwr : ¬ M .pwr) (_rail : Fin 5) (hz : Keep M z s) :
    KeepN M z (execRetentionRailExcursion _rail s) := by
  unfold execRetentionRailExcursion
  repeat' (first
    | with_reducible assumption
    | with_reducible exact Keep.refl _
    | intro _
    | with_reducible apply KeepN.next
    | with_reducible apply odCount_keep
    | ((fail_if_success (fail_if_success (conv => arg 3; arg 39))); with_reducible apply Keep.upd_pwr)
    | with_reducible apply Keep.ite
    | with_reducible apply KeepN.ite
    | split
    | dsimp -zeta only)

theorem abruptRestart_keep {M : Part → Prop} {z s : State} (h_dev : ¬ M .dev) (h_regs : ¬ M .regs) (h_od : ¬ M .od) (h_pwr : ¬ M .pwr) (h_start : ¬ M .start) (h_sdg : ¬ M .sdg) (h_frz : ¬ M .frz) (h_leash : ¬ M .leash) (h_canopen : ¬ M .canopen) (h_splice : ¬ M .splice) (hz : Keep M z s) :
    Keep M z (abruptRestart s) := by
  unfold abruptRestart
  repeat' (first
    | with_reducible assumption
    | with_reducible exact Keep.refl _
    | (intro _ hp; exact PinsOk.same hp rfl rfl rfl rfl rfl)
    | intro _
    | ((fail_if_success (conv => arg 3; arg 1)); extract_lets +onlyGivenNames t; refine Keep.cut t ?_ ?_; subst t; rotate_left; clear_value t; intro ht; rotate_right)
    | ((fail_if_success (conv => arg 3; arg 1)); extract_lets +onlyGivenNames t; subst t)
    | with_reducible apply setDev_keep
    | with_reducible apply endBrace_keep
    | with_reducible apply spliceRestart_keep
    | with_reducible apply mgmtReset_keep
    | ((fail_if_success (fail_if_success (conv => arg 3; arg 39))); with_reducible apply Keep.upd_pwr_start_sdg_frz)
    | split
    | dsimp -zeta only)

theorem execCoreRailUndervoltage_keep {M : Part → Prop} {z s : State} (h_dev : ¬ M .dev) (h_regs : ¬ M .regs) (h_od : ¬ M .od) (h_pwr : ¬ M .pwr) (h_start : ¬ M .start) (h_sdg : ¬ M .sdg) (h_frz : ¬ M .frz) (h_leash : ¬ M .leash) (h_canopen : ¬ M .canopen) (h_splice : ¬ M .splice) (rail : Fin 8) (hz : Keep M z s) :
    KeepN M z (execCoreRailUndervoltage rail s) := by
  unfold execCoreRailUndervoltage
  repeat' (first
    | with_reducible assumption
    | with_reducible exact Keep.refl _
    | intro _
    | with_reducible apply KeepN.next
    | ((fail_if_success (conv => arg 3; arg 1)); extract_lets +onlyGivenNames t; refine KeepN.cut t ?_ ?_; subst t; rotate_left; clear_value t; intro ht; rotate_right)
    | ((fail_if_success (conv => arg 3; arg 1)); extract_lets +onlyGivenNames t; refine Keep.cut t ?_ ?_; subst t; rotate_left; clear_value t; intro ht; rotate_right)
    | ((fail_if_success (conv => arg 3; arg 1)); extract_lets +onlyGivenNames t; subst t)
    | with_reducible apply odCount_keep
    | with_reducible apply mgmtReset_keep
    | with_reducible apply abruptRestart_keep
    | ((fail_if_success (fail_if_success (conv => arg 3; arg 39))); with_reducible apply Keep.upd_leash)
    | ((fail_if_success (fail_if_success (conv => arg 3; arg 39))); with_reducible apply Keep.upd_pwr)
    | with_reducible apply Keep.ite
    | with_reducible apply KeepN.ite
    | split
    | dsimp -zeta only)

theorem execRailWindow_keep {M : Part → Prop} {z s : State} (h_dev : ¬ M .dev) (h_regs : ¬ M .regs) (h_od : ¬ M .od) (h_pwr : ¬ M .pwr) (h_start : ¬ M .start) (h_sdg : ¬ M .sdg) (h_frz : ¬ M .frz) (h_pack : ¬ M .pack) (rail : Fin 8) (hz : Keep M z s) :
    KeepN M z (execRailWindow rail s) := by
  unfold execRailWindow
  repeat' (first
    | with_reducible assumption
    | with_reducible exact Keep.refl _
    | intro _
    | with_reducible apply KeepN.next
    | ((fail_if_success (conv => arg 3; arg 1)); extract_lets +onlyGivenNames t; refine KeepN.cut t ?_ ?_; subst t; rotate_left; clear_value t; intro ht; rotate_right)
    | ((fail_if_success (conv => arg 3; arg 1)); extract_lets +onlyGivenNames t; refine Keep.cut t ?_ ?_; subst t; rotate_left; clear_value t; intro ht; rotate_right)
    | ((fail_if_success (conv => arg 3; arg 1)); extract_lets +onlyGivenNames t; subst t)
    | with_reducible apply raiseAlarm_keep
    | ((fail_if_success (fail_if_success (conv => arg 3; arg 39))); with_reducible apply Keep.upd_pwr)
    | with_reducible apply Keep.ite
    | with_reducible apply KeepN.ite
    | split
    | dsimp -zeta only)

theorem enterBrace_keep {M : Part → Prop} {z s : State} (h_dev : ¬ M .dev) (h_regs : ¬ M .regs) (h_od : ¬ M .od) (h_memCtl : ¬ M .memCtl) (h_pwr : ¬ M .pwr) (h_start : ¬ M .start) (h_sdg : ¬ M .sdg) (h_frz : ¬ M .frz) (h_pack : ¬ M .pack) (hz : Keep M z s) :
    Keep M z (enterBrace s) := by
  unfold enterBrace
  repeat' (first
    | with_reducible assumption
    | with_reducible exact Keep.refl _
    | intro _
    | ((fail_if_success (conv => arg 3; arg 1)); extract_lets +onlyGivenNames t; refine Keep.cut t ?_ ?_; subst t; rotate_left; clear_value t; intro ht; rotate_right)
    | ((fail_if_success (conv => arg 3; arg 1)); extract_lets +onlyGivenNames t; subst t)
    | with_reducible apply safeMsg_keep
    | with_reducible apply sendMsg_keep
    | with_reducible apply setDev_keep
    | with_reducible apply packCheckpoint_keep
    | with_reducible apply frzTrigger_keep
    | with_reducible apply ssRequest_keep
    | with_reducible apply raiseAlarm_keep
    | ((fail_if_success (fail_if_success (conv => arg 3; arg 39))); with_reducible apply Keep.upd_memCtl_pwr)
    | split
    | dsimp -zeta only)

theorem declareBelow_keep {M : Part → Prop} {z s : State} (h_dev : ¬ M .dev) (h_regs : ¬ M .regs) (h_od : ¬ M .od) (h_memCtl : ¬ M .memCtl) (h_pwr : ¬ M .pwr) (h_start : ¬ M .start) (h_sdg : ¬ M .sdg) (h_frz : ¬ M .frz) (h_pack : ¬ M .pack) (hz : Keep M z s) :
    Keep M z (declareBelow s) := by
  unfold declareBelow
  repeat' (first
    | with_reducible assumption
    | with_reducible exact Keep.refl _
    | intro _
    | ((fail_if_success (conv => arg 3; arg 1)); extract_lets +onlyGivenNames t; refine Keep.cut t ?_ ?_; subst t; rotate_left; clear_value t; intro ht; rotate_right)
    | ((fail_if_success (conv => arg 3; arg 1)); extract_lets +onlyGivenNames t; subst t)
    | with_reducible apply odCount_keep
    | with_reducible apply frzTrigger_keep
    | with_reducible apply raiseAlarm_keep
    | with_reducible apply enterBrace_keep
    | ((fail_if_success (fail_if_success (conv => arg 3; arg 39))); with_reducible apply Keep.upd_pwr)
    | ((fail_if_success (fail_if_success (conv => arg 3; arg 39))); with_reducible apply Keep.upd_memCtl)
    | with_reducible apply Keep.ite
    | split
    | dsimp -zeta only)

theorem declareReset_keep {M : Part → Prop} {z s : State} (h_dev : ¬ M .dev) (h_regs : ¬ M .regs) (h_od : ¬ M .od) (h_pwr : ¬ M .pwr) (h_start : ¬ M .start) (h_sdg : ¬ M .sdg) (h_frz : ¬ M .frz) (h_leash : ¬ M .leash) (h_splice : ¬ M .splice) (hz : Keep M z s) :
    Keep M z (declareReset s) := by
  unfold declareReset
  repeat' (first
    | with_reducible assumption
    | with_reducible exact Keep.refl _
    | intro _
    | ((fail_if_success (conv => arg 3; arg 1)); extract_lets +onlyGivenNames t; refine Keep.cut t ?_ ?_; subst t; rotate_left; clear_value t; intro ht; rotate_right)
    | ((fail_if_success (conv => arg 3; arg 1)); extract_lets +onlyGivenNames t; subst t)
    | with_reducible apply enterRestart_keep
    | ((fail_if_success (fail_if_success (conv => arg 3; arg 39))); with_reducible apply Keep.upd_pwr)
    | ((fail_if_success (fail_if_success (conv => arg 3; arg 39))); with_reducible apply Keep.upd_start)
    | with_reducible apply Keep.ite
    | split
    | dsimp -zeta only)

theorem braceEnd_keep {M : Part → Prop} {z s : State} (h_dev : ¬ M .dev) (h_regs : ¬ M .regs) (h_od : ¬ M .od) (h_pwr : ¬ M .pwr) (h_sdg : ¬ M .sdg) (hz : Keep M z s) :
    Keep M z (braceEnd s) := by
  unfold braceEnd
  repeat' (first
    | with_reducible assumption
    | with_reducible exact Keep.refl _
    | intro _
    | with_reducible apply safeMsg_keep
    | with_reducible apply sendMsg_keep
    | with_reducible apply setDev_keep
    | with_reducible apply ssRequest_keep
    | with_reducible apply endBrace_keep
    | split
    | dsimp -zeta only)

theorem returned_keep {M : Part → Prop} {z s : State} (h_dev : ¬ M .dev) (h_regs : ¬ M .regs) (h_od : ¬ M .od) (h_memCtl : ¬ M .memCtl) (h_pwr : ¬ M .pwr) (h_start : ¬ M .start) (h_sdg : ¬ M .sdg) (h_pack : ¬ M .pack) (h_can : ¬ M .can) (h_splice : ¬ M .splice) (hz : Keep M z s) :
    Keep M z (returned s) := by
  unfold returned
  repeat' (first
    | with_reducible assumption
    | with_reducible exact Keep.refl _
    | intro _
    | ((fail_if_success (conv => arg 3; arg 1)); extract_lets +onlyGivenNames t; refine Keep.cut t ?_ ?_; subst t; rotate_left; clear_value t; intro ht; rotate_right)
    | ((fail_if_success (conv => arg 3; arg 1)); extract_lets +onlyGivenNames t; subst t)
    | with_reducible apply enterOperational_keep
    | with_reducible apply braceEnd_keep
    | ((fail_if_success (fail_if_success (conv => arg 3; arg 39))); with_reducible apply Keep.upd_memCtl_pwr)
    | with_reducible apply Keep.ite
    | split
    | dsimp -zeta only)

theorem vsenseJudge_keep {M : Part → Prop} {z s : State} (h_dev : ¬ M .dev) (h_regs : ¬ M .regs) (h_od : ¬ M .od) (h_memCtl : ¬ M .memCtl) (h_pwr : ¬ M .pwr) (h_start : ¬ M .start) (h_sdg : ¬ M .sdg) (h_frz : ¬ M .frz) (h_leash : ¬ M .leash) (h_pack : ¬ M .pack) (h_can : ¬ M .can) (h_splice : ¬ M .splice) (mv : Int) (hz : Keep M z s) :
    Keep M z (vsenseJudge mv s) := by
  unfold vsenseJudge
  repeat' (first
    | with_reducible assumption
    | with_reducible exact Keep.refl _
    | intro _
    | ((fail_if_success (conv => arg 3; arg 1)); extract_lets +onlyGivenNames t; refine Keep.cut t ?_ ?_; subst t; rotate_left; clear_value t; intro ht; rotate_right)
    | ((fail_if_success (conv => arg 3; arg 1)); extract_lets +onlyGivenNames t; subst t)
    | with_reducible apply declareBelow_keep
    | with_reducible apply declareReset_keep
    | with_reducible apply returned_keep
    | ((fail_if_success (fail_if_success (conv => arg 3; arg 39))); with_reducible apply Keep.upd_pwr)
    | with_reducible apply Keep.ite
    | split
    | dsimp -zeta only)

theorem vsenseShown_keep {M : Part → Prop} {z s : State} (h_free : ¬ M .free) (h_pwr : ¬ M .pwr) (mv : Int) (hz : Keep M z s) :
    Keep M z (vsenseShown mv s) := by
  unfold vsenseShown
  repeat' (first
    | with_reducible assumption
    | with_reducible exact Keep.refl _
    | intro _
    | ((fail_if_success (conv => arg 3; arg 1)); extract_lets +onlyGivenNames t; refine Keep.cut t ?_ ?_; subst t; rotate_left; clear_value t; intro ht; rotate_right)
    | ((fail_if_success (conv => arg 3; arg 1)); extract_lets +onlyGivenNames t; subst t)
    | with_reducible apply takeFree_keep
    | ((fail_if_success (fail_if_success (conv => arg 3; arg 39))); with_reducible apply Keep.upd_pwr)
    | with_reducible apply Keep.ite
    | split
    | dsimp -zeta only)

theorem execVsenseSample_keep {M : Part → Prop} {z s : State} (h_dev : ¬ M .dev) (h_now : ¬ M .now) (h_free : ¬ M .free) (h_regs : ¬ M .regs) (h_od : ¬ M .od) (h_memCtl : ¬ M .memCtl) (h_pwr : ¬ M .pwr) (h_start : ¬ M .start) (h_sdg : ¬ M .sdg) (h_frz : ¬ M .frz) (h_leash : ¬ M .leash) (h_pack : ¬ M .pack) (h_can : ¬ M .can) (h_splice : ¬ M .splice) (h_gtime : ¬ M .gtime) (tapUv : Int) (hz : Keep M z s) :
    KeepN M z (execVsenseSample tapUv s) := by
  unfold execVsenseSample
  repeat' (first
    | with_reducible assumption
    | with_reducible exact Keep.refl _
    | intro _
    | with_reducible apply KeepN.next
    | ((fail_if_success (conv => arg 3; arg 1)); extract_lets +onlyGivenNames t; refine KeepN.cut t ?_ ?_; subst t; rotate_left; clear_value t; intro ht; rotate_right)
    | ((fail_if_success (conv => arg 3; arg 1)); extract_lets +onlyGivenNames t; refine Keep.cut t ?_ ?_; subst t; rotate_left; clear_value t; intro ht; rotate_right)
    | ((fail_if_success (conv => arg 3; arg 1)); extract_lets +onlyGivenNames t; subst t)
    | with_reducible apply advanceTo_keep
    | with_reducible apply vsenseJudge_keep
    | with_reducible apply vsenseShown_keep
    | ((fail_if_success (fail_if_success (conv => arg 3; arg 39))); with_reducible apply Keep.upd_pwr)
    | with_reducible apply Keep.ite
    | with_reducible apply KeepN.ite
    | split
    | dsimp -zeta only)

theorem execBraceReturn_keep {M : Part → Prop} {z s : State} (h_dev : ¬ M .dev) (h_now : ¬ M .now) (h_free : ¬ M .free) (h_regs : ¬ M .regs) (h_od : ¬ M .od) (h_memCtl : ¬ M .memCtl) (h_pwr : ¬ M .pwr) (h_start : ¬ M .start) (h_sdg : ¬ M .sdg) (h_pack : ¬ M .pack) (h_can : ¬ M .can) (h_splice : ¬ M .splice) (h_gtime : ¬ M .gtime) (hz : Keep M z s) :
    KeepN M z (execBraceReturn s) := by
  unfold execBraceReturn
  repeat' (first
    | with_reducible assumption
    | with_reducible exact Keep.refl _
    | intro _
    | with_reducible apply KeepN.next
    | ((fail_if_success (conv => arg 3; arg 1)); extract_lets +onlyGivenNames t; refine KeepN.cut t ?_ ?_; subst t; rotate_left; clear_value t; intro ht; rotate_right)
    | ((fail_if_success (conv => arg 3; arg 1)); extract_lets +onlyGivenNames t; refine Keep.cut t ?_ ?_; subst t; rotate_left; clear_value t; intro ht; rotate_right)
    | ((fail_if_success (conv => arg 3; arg 1)); extract_lets +onlyGivenNames t; subst t)
    | with_reducible apply advanceTo_keep
    | with_reducible apply takeFree_keep
    | with_reducible apply returned_keep
    | ((fail_if_success (fail_if_success (conv => arg 3; arg 39))); with_reducible apply Keep.upd_pwr)
    | with_reducible apply Keep.ite
    | with_reducible apply KeepN.ite
    | split
    | dsimp -zeta only)

theorem execControlledResetDone_keep {M : Part → Prop} {z s : State} (h_now : ¬ M .now) (h_regs : ¬ M .regs) (h_od : ¬ M .od) (h_memCtl : ¬ M .memCtl) (h_pwr : ¬ M .pwr) (h_sdg : ¬ M .sdg) (h_frz : ¬ M .frz) (h_net : ¬ M .net) (h_gtime : ¬ M .gtime) (hz : Keep M z s) :
    KeepN M z (execControlledResetDone s) := by
  unfold execControlledResetDone
  repeat' (first
    | with_reducible assumption
    | with_reducible exact Keep.refl _
    | (intro _ hp; exact PinsOk.same hp rfl rfl rfl rfl rfl)
    | intro _
    | with_reducible apply KeepN.next
    | ((fail_if_success (conv => arg 3; arg 1)); extract_lets +onlyGivenNames t; refine KeepN.cut t ?_ ?_; subst t; rotate_left; clear_value t; intro ht; rotate_right)
    | ((fail_if_success (conv => arg 3; arg 1)); extract_lets +onlyGivenNames t; refine Keep.cut t ?_ ?_; subst t; rotate_left; clear_value t; intro ht; rotate_right)
    | ((fail_if_success (conv => arg 3; arg 1)); extract_lets +onlyGivenNames t; subst t)
    | with_reducible apply advanceTo_keep
    | with_reducible apply frzLatch_keep
    | with_reducible apply frzFill_keep
    | with_reducible apply writeRecord_keep
    | ((fail_if_success (fail_if_success (conv => arg 3; arg 39))); with_reducible apply Keep.upd_memCtl_pwr)
    | ((fail_if_success (fail_if_success (conv => arg 3; arg 39))); with_reducible apply Keep.upd_sdg)
    | with_reducible apply Keep.ite
    | with_reducible apply KeepN.ite
    | with_reducible apply Keep.iterate
    | split
    | dsimp -zeta only)

theorem requestRestart_keep {M : Part → Prop} {z s : State} (h_dev : ¬ M .dev) (h_regs : ¬ M .regs) (h_od : ¬ M .od) (h_pwr : ¬ M .pwr) (h_start : ¬ M .start) (h_sdg : ¬ M .sdg) (h_frz : ¬ M .frz) (h_leash : ¬ M .leash) (h_splice : ¬ M .splice) (cause : Nat) (warm : Bool) (hz : Keep M z s) :
    Keep M z (requestRestart cause warm s) := by
  unfold requestRestart
  repeat' (first
    | with_reducible assumption
    | with_reducible exact Keep.refl _
    | intro _
    | with_reducible apply odCount_keep
    | with_reducible apply enterRestart_keep
    | with_reducible apply startFailed_keep
    | ((fail_if_success (fail_if_success (conv => arg 3; arg 39))); with_reducible apply Keep.upd_start)
    | with_reducible apply Keep.ite
    | split
    | dsimp -zeta only)

theorem execWarmReqNFall_keep {M : Part → Prop} {z s : State} (h_dev : ¬ M .dev) (h_regs : ¬ M .regs) (h_od : ¬ M .od) (h_pwr : ¬ M .pwr) (h_start : ¬ M .start) (h_sdg : ¬ M .sdg) (h_frz : ¬ M .frz) (h_leash : ¬ M .leash) (h_splice : ¬ M .splice) (lowNs : Nat) (hz : Keep M z s) :
    KeepN M z (execWarmReqNFall lowNs s) := by
  unfold execWarmReqNFall
  repeat' (first
    | with_reducible assumption
    | with_reducible exact Keep.refl _
    | intro _
    | with_reducible apply KeepN.next
    | with_reducible apply requestRestart_keep
    | with_reducible apply Keep.ite
    | with_reducible apply KeepN.ite
    | split
    | dsimp -zeta only)

theorem execTempSensorUpdate_keep {M : Part → Prop} {z s : State} (h_dev : ¬ M .dev) (h_now : ¬ M .now) (h_regs : ¬ M .regs) (h_od : ¬ M .od) (h_pwr : ¬ M .pwr) (h_start : ¬ M .start) (h_sdg : ¬ M .sdg) (h_frz : ¬ M .frz) (h_pack : ¬ M .pack) (h_gtime : ¬ M .gtime) (temps : List Int) (hz : Keep M z s) :
    KeepN M z (execTempSensorUpdate temps s) := by
  unfold execTempSensorUpdate
  repeat' (first
    | with_reducible assumption
    | with_reducible exact Keep.refl _
    | intro _
    | with_reducible apply KeepN.next
    | ((fail_if_success (conv => arg 3; arg 1)); extract_lets +onlyGivenNames t; refine KeepN.cut t ?_ ?_; subst t; rotate_left; clear_value t; intro ht; rotate_right)
    | ((fail_if_success (conv => arg 3; arg 1)); extract_lets +onlyGivenNames t; refine Keep.cut t ?_ ?_; subst t; rotate_left; clear_value t; intro ht; rotate_right)
    | ((fail_if_success (conv => arg 3; arg 1)); extract_lets +onlyGivenNames t; subst t)
    | with_reducible apply advanceTo_keep
    | with_reducible apply odPut_keep
    | with_reducible apply raiseAlarm_keep
    | ((fail_if_success (fail_if_success (conv => arg 3; arg 39))); with_reducible apply Keep.upd_pwr)
    | with_reducible apply Keep.ite
    | with_reducible apply KeepN.ite
    | split
    | dsimp -zeta only)

theorem pmicWord_keep {M : Part → Prop} {z s : State} (h_dev : ¬ M .dev) (h_regs : ¬ M .regs) (h_od : ¬ M .od) (h_pwr : ¬ M .pwr) (h_start : ¬ M .start) (h_sdg : ¬ M .sdg) (h_frz : ¬ M .frz) (h_pack : ¬ M .pack) (p : Nat) (w : Option Nat) (hz : Keep M z s) :
    Keep M z (pmicWord p w s) := by
  unfold pmicWord
  repeat' (first
    | with_reducible assumption
    | with_reducible exact Keep.refl _
    | intro _
    | ((fail_if_success (conv => arg 3; arg 1)); extract_lets +onlyGivenNames t; refine Keep.cut t ?_ ?_; subst t; rotate_left; clear_value t; intro ht; rotate_right)
    | ((fail_if_success (conv => arg 3; arg 1)); extract_lets +onlyGivenNames t; subst t)
    | with_reducible apply emit_keep
    | with_reducible apply raiseAlarm_keep
    | ((fail_if_success (fail_if_success (conv => arg 3; arg 39))); with_reducible apply Keep.upd_pwr)
    | with_reducible apply Keep.ite
    | split
    | dsimp -zeta only)

theorem pmicPass_keep {M : Part → Prop} {z s : State} (h_dev : ¬ M .dev) (h_regs : ¬ M .regs) (h_od : ¬ M .od) (h_pwr : ¬ M .pwr) (h_start : ¬ M .start) (h_sdg : ¬ M .sdg) (h_frz : ¬ M .frz) (h_pack : ¬ M .pack) (words : List (Option Nat)) (hz : Keep M z s) :
    Keep M z (pmicPass words s) := by
  unfold pmicPass
  repeat' (first
    | with_reducible assumption
    | with_reducible exact Keep.refl _
    | intro _
    | with_reducible apply pmicWord_keep
    | ((fail_if_success (conv => arg 3; arg 3)); with_reducible apply KeepP.mk')
    | with_reducible apply KeepP.foldl
    | with_reducible apply Keep.foldl
    | with_reducible apply KeepP.fst
    | split
    | dsimp -zeta only)

theorem execPmicPoll_keep {M : Part → Prop} {z s : State} (h_dev : ¬ M .dev) (h_now : ¬ M .now) (h_regs : ¬ M .regs) (h_od : ¬ M .od) (h_pwr : ¬ M .pwr) (h_start : ¬ M .start) (h_sdg : ¬ M .sdg) (h_frz : ¬ M .frz) (h_pack : ¬ M .pack) (h_gtime : ¬ M .gtime) (words : List (Option Nat)) (hz : Keep M z s) :
    KeepN M z (execPmicPoll words s) := by
  unfold execPmicPoll
  repeat' (first
    | with_reducible assumption
    | with_reducible exact Keep.refl _
    | intro _
    | with_reducible apply KeepN.next
    | ((fail_if_success (conv => arg 3; arg 1)); extract_lets +onlyGivenNames t; refine KeepN.cut t ?_ ?_; subst t; rotate_left; clear_value t; intro ht; rotate_right)
    | ((fail_if_success (conv => arg 3; arg 1)); extract_lets +onlyGivenNames t; refine Keep.cut t ?_ ?_; subst t; rotate_left; clear_value t; intro ht; rotate_right)
    | ((fail_if_success (conv => arg 3; arg 1)); extract_lets +onlyGivenNames t; subst t)
    | with_reducible apply advanceTo_keep
    | with_reducible apply pmicPass_keep
    | ((fail_if_success (fail_if_success (conv => arg 3; arg 39))); with_reducible apply Keep.upd_pwr)
    | with_reducible apply Keep.ite
    | with_reducible apply KeepN.ite
    | split
    | dsimp -zeta only)

theorem execPmbAlert_keep {M : Part → Prop} {z s : State} (h_dev : ¬ M .dev) (h_regs : ¬ M .regs) (h_od : ¬ M .od) (h_pwr : ¬ M .pwr) (h_start : ¬ M .start) (h_sdg : ¬ M .sdg) (h_frz : ¬ M .frz) (h_pack : ¬ M .pack) (words : List (Option Nat)) (hz : Keep M z s) :
    KeepN M z (execPmbAlert words s) := by
  unfold execPmbAlert
  repeat' (first
    | with_reducible assumption
    | with_reducible exact Keep.refl _
    | intro _
    | with_reducible apply KeepN.next
    | with_reducible apply pmicPass_keep
    | with_reducible apply Keep.ite
    | with_reducible apply KeepN.ite
    | split
    | dsimp -zeta only)

end Sys2Proof.Machine
end

