-- ==== Sys2Proof/Laws/KeepSplice.lean ====
section
/-! SUPPORT. What the operations of Machine/Splice.lean keep: one lemma each. -/

namespace Sys2Proof.Machine

theorem spliceLatch_keep {M : Part → Prop} {z s : State} (h_regs : ¬ M .regs) (req : Nat) (status : Nat) (wr : Bool) (beats : Nat) (addr : Nat) (hz : Keep M z s) :
    Keep M z (spliceLatch req status wr beats addr s) := by
  unfold spliceLatch
  repeat' (first
    | with_reducible assumption
    | with_reducible exact Keep.refl _
    | intro _
    | ((fail_if_success (conv => arg 3; arg 1)); extract_lets +onlyGivenNames t; refine Keep.cut t ?_ ?_; subst t; rotate_left; clear_value t; intro ht; rotate_right)
    | ((fail_if_success (conv => arg 3; arg 1)); extract_lets +onlyGivenNames t; subst t)
    | with_reducible apply regPut_keep
    | with_reducible apply regCount_keep
    | with_reducible apply sendMsg_keep
    | with_reducible apply Keep.ite
    | split
    | dsimp -zeta only)

theorem spliceErr_keep {M : Part → Prop} {z s : State} (h_regs : ¬ M .regs) (h_od : ¬ M .od) (acc : Access) (wr : Bool) (status : Nat) (beats : Nat) (hz : Keep M z s) :
    Keep M z (spliceErr acc wr status beats s) := by
  unfold spliceErr
  repeat' (first
    | with_reducible assumption
    | with_reducible exact Keep.refl _
    | intro _
    | ((fail_if_success (conv => arg 3; arg 1)); extract_lets +onlyGivenNames t; refine Keep.cut t ?_ ?_; subst t; rotate_left; clear_value t; intro ht; rotate_right)
    | ((fail_if_success (conv => arg 3; arg 1)); extract_lets +onlyGivenNames t; subst t)
    | with_reducible apply odCount_keep
    | with_reducible apply accessRefused_keep
    | with_reducible apply spliceLatch_keep
    | with_reducible apply Keep.ite
    | split
    | dsimp -zeta only)

theorem spliceErrFree_keep {M : Part → Prop} {z s : State} (h_free : ¬ M .free) (h_regs : ¬ M .regs) (h_od : ¬ M .od) (acc : Access) (wr : Bool) (hz : Keep M z s) :
    Keep M z (spliceErrFree acc wr s) := by
  unfold spliceErrFree
  repeat' (first
    | with_reducible assumption
    | with_reducible exact Keep.refl _
    | intro _
    | with_reducible apply takeFree_keep
    | with_reducible apply spliceErr_keep
    | split
    | dsimp -zeta only)

theorem hwBeats_keep {M : Part → Prop}  (w : Nat) (off : Nat) (len : Nat) (all : Bool) (data : Option (List Byte)) (n_ : Nat) (i : Nat) (k : Nat) {z s : State} (hz : Keep M z s) :
    Keep M z (hwBeats w off len all data n_ i k s) := by
  induction n_ generalizing i k z s with
  | zero => exact hz
  | succ n ih =>
    unfold hwBeats
    repeat' (first
      | with_reducible assumption
      | with_reducible apply ih
      | with_reducible exact Keep.refl _
      | intro _
      | ((fail_if_success (conv => arg 3; arg 1)); extract_lets +onlyGivenNames t; refine Keep.cut t ?_ ?_; subst t; rotate_left; clear_value t; intro ht; rotate_right)
      | ((fail_if_success (conv => arg 3; arg 1)); extract_lets +onlyGivenNames t; subst t)
      | with_reducible apply emit_keep
      | with_reducible apply Keep.ite
      | split
      | dsimp -zeta only)

theorem hwRun_keep {M : Part → Prop} {z s : State} (w : Nat) (off : Nat) (len : Nat) (data : Option (List Byte)) (n : Nat) (hz : Keep M z s) :
    Keep M z (hwRun w off len data n s) := by
  unfold hwRun
  repeat' (first
    | with_reducible assumption
    | with_reducible exact Keep.refl _
    | intro _
    | ((fail_if_success (conv => arg 3; arg 1)); extract_lets +onlyGivenNames t; refine Keep.cut t ?_ ?_; subst t; rotate_left; clear_value t; intro ht; rotate_right)
    | ((fail_if_success (conv => arg 3; arg 1)); extract_lets +onlyGivenNames t; subst t)
    | with_reducible apply hwBeats_keep
    | split
    | dsimp -zeta only)

theorem hwSplit_keep {M : Part → Prop} {z s : State} (h_od : ¬ M .od) (w : Nat) (off : Nat) (len : Nat) (hz : Keep M z s) :
    Keep M z (hwSplit w off len s) := by
  unfold hwSplit
  repeat' (first
    | with_reducible assumption
    | with_reducible exact Keep.refl _
    | intro _
    | with_reducible apply odCount_keep
    | with_reducible apply Keep.ite
    | split
    | dsimp -zeta only)

theorem pfTouch_keep {M : Part → Prop} {z s : State} (h_splice : ¬ M .splice) (i : Nat) (hz : Keep M z s) :
    Keep M z (pfTouch i s) := by
  unfold pfTouch
  repeat' (first
    | with_reducible assumption
    | with_reducible exact Keep.refl _
    | intro _
    | ((fail_if_success (fail_if_success (conv => arg 3; arg 39))); with_reducible apply Keep.upd_splice)
    | split
    | dsimp -zeta only)

theorem pfPut_keep {M : Part → Prop} {z s : State} (h_splice : ¬ M .splice) (win : Nat) (addr : Nat) (data : List Byte) (hz : Keep M z s) :
    Keep M z (pfPut win addr data s) := by
  unfold pfPut
  repeat' (first
    | with_reducible assumption
    | with_reducible exact Keep.refl _
    | intro _
    | ((fail_if_success (conv => arg 3; arg 1)); extract_lets +onlyGivenNames t; refine Keep.cut t ?_ ?_; subst t; rotate_left; clear_value t; intro ht; rotate_right)
    | ((fail_if_success (conv => arg 3; arg 1)); extract_lets +onlyGivenNames t; subst t)
    | with_reducible apply pfTouch_keep
    | ((fail_if_success (fail_if_success (conv => arg 3; arg 39))); with_reducible apply Keep.upd_splice)
    | split
    | dsimp -zeta only)

theorem pfFill_keep {M : Part → Prop} {z s : State} (h_splice : ¬ M .splice) (win : Nat) (addr : Nat) (data : List Byte) (hz : Keep M z s) :
    Keep M z (pfFill win addr data s) := by
  unfold pfFill
  repeat' (first
    | with_reducible assumption
    | with_reducible exact Keep.refl _
    | intro _
    | with_reducible apply pfPut_keep
    | with_reducible apply Keep.iterate
    | split
    | dsimp -zeta only)

theorem pfDrop_keep {M : Part → Prop} {z s : State} (h_splice : ¬ M .splice) (win : Nat) (hz : Keep M z s) :
    Keep M z (pfDrop win s) := by
  unfold pfDrop
  repeat' (first
    | with_reducible assumption
    | with_reducible exact Keep.refl _
    | intro _
    | ((fail_if_success (fail_if_success (conv => arg 3; arg 39))); with_reducible apply Keep.upd_splice)
    | split
    | dsimp -zeta only)

theorem execPrefetchExpiry_keep {M : Part → Prop} {z s : State} (h_now : ¬ M .now) (h_splice : ¬ M .splice) (h_gtime : ¬ M .gtime) (line : Fin 8) (hz : Keep M z s) :
    KeepN M z (execPrefetchExpiry line s) := by
  unfold execPrefetchExpiry
  repeat' (first
    | with_reducible assumption
    | with_reducible exact Keep.refl _
    | intro _
    | with_reducible apply KeepN.next
    | ((fail_if_success (conv => arg 3; arg 1)); extract_lets +onlyGivenNames t; refine KeepN.cut t ?_ ?_; subst t; rotate_left; clear_value t; intro ht; rotate_right)
    | ((fail_if_success (conv => arg 3; arg 1)); extract_lets +onlyGivenNames t; refine Keep.cut t ?_ ?_; subst t; rotate_left; clear_value t; intro ht; rotate_right)
    | ((fail_if_success (conv => arg 3; arg 1)); extract_lets +onlyGivenNames t; subst t)
    | with_reducible apply advanceTo_keep
    | ((fail_if_success (fail_if_success (conv => arg 3; arg 39))); with_reducible apply Keep.upd_splice)
    | with_reducible apply Keep.ite
    | with_reducible apply KeepN.ite
    | split
    | dsimp -zeta only)

theorem spliceFrame_keep {M : Part → Prop} {z s : State} {f : Region → State → State} (h_f : ∀ a0 t, Keep M z t → Keep M z (f a0 t)) (h_dev : ¬ M .dev) (h_regs : ¬ M .regs) (h_od : ¬ M .od) (h_pwr : ¬ M .pwr) (h_start : ¬ M .start) (h_sdg : ¬ M .sdg) (h_frz : ¬ M .frz) (h_apps : ¬ M .apps) (h_pack : ¬ M .pack) (acc : Access) (wr : Bool) (len : Nat) (hz : Keep M z s) :
    Keep M z (spliceFrame acc wr len f s) := by
  unfold spliceFrame
  repeat' (first
    | with_reducible assumption
    | with_reducible exact Keep.refl _
    | intro _
    | (with_reducible apply h_f)
    | with_reducible apply badAccess_keep
    | with_reducible apply checkFailed_keep
    | with_reducible apply spliceErr_keep
    | with_reducible apply Keep.ite
    | split
    | dsimp -zeta only)

theorem hwFrame_keep {M : Part → Prop} {z s : State} {f : State → State} (h_f : ∀ t, Keep M z t → Keep M z (f t)) (h_now : ¬ M .now) (h_regs : ¬ M .regs) (h_od : ¬ M .od) (h_splice : ¬ M .splice) (h_gtime : ¬ M .gtime) (acc : Access) (wr : Bool) (hz : Keep M z s) :
    Keep M z (hwFrame acc wr f s) := by
  unfold hwFrame
  repeat' (first
    | with_reducible assumption
    | with_reducible exact Keep.refl _
    | intro _
    | ((fail_if_success (conv => arg 3; arg 1)); extract_lets +onlyGivenNames t; refine Keep.cut t ?_ ?_; subst t; rotate_left; clear_value t; intro ht; rotate_right)
    | ((fail_if_success (conv => arg 3; arg 1)); extract_lets +onlyGivenNames t; subst t)
    | (with_reducible apply h_f)
    | with_reducible apply advanceTo_keep
    | with_reducible apply lockWait_keep
    | with_reducible apply spliceErr_keep
    | with_reducible apply Keep.ite
    | split
    | dsimp -zeta only)

theorem hwWindow_keep {M : Part → Prop} {z s : State} {f : Nat → Nat → State → State} (h_f : ∀ a0 a1 t, Keep M z t → Keep M z (f a0 a1 t)) (h_now : ¬ M .now) (h_free : ¬ M .free) (h_regs : ¬ M .regs) (h_od : ¬ M .od) (h_splice : ¬ M .splice) (h_gtime : ¬ M .gtime) (acc : Access) (wr : Bool) (len : Nat) (hz : Keep M z s) :
    Keep M z (hwWindow acc wr len f s) := by
  unfold hwWindow
  repeat' (first
    | with_reducible assumption
    | with_reducible exact Keep.refl _
    | intro _
    | (with_reducible apply h_f)
    | with_reducible apply spliceErr_keep
    | with_reducible apply spliceErrFree_keep
    | with_reducible apply hwFrame_keep
    | with_reducible apply Keep.ite
    | split
    | dsimp -zeta only)

theorem hwRead_keep {M : Part → Prop} {z s : State} (h_regs : ¬ M .regs) (h_od : ¬ M .od) (acc : Access) (len : Nat) (w : Nat) (off : Nat) (far : FarAnswer) (hz : Keep M z s) :
    Keep M z (hwRead acc len w off far s) := by
  unfold hwRead
  repeat' (first
    | with_reducible assumption
    | with_reducible exact Keep.refl _
    | intro _
    | ((fail_if_success (conv => arg 3; arg 1)); extract_lets +onlyGivenNames t; refine Keep.cut t ?_ ?_; subst t; rotate_left; clear_value t; intro ht; rotate_right)
    | ((fail_if_success (conv => arg 3; arg 1)); extract_lets +onlyGivenNames t; subst t)
    | with_reducible apply emit_keep
    | with_reducible apply spliceErr_keep
    | with_reducible apply hwRun_keep
    | with_reducible apply hwSplit_keep
    | split
    | dsimp -zeta only)

theorem hwPrefetch_keep {M : Part → Prop} {z s : State} (h_regs : ¬ M .regs) (h_od : ¬ M .od) (h_splice : ¬ M .splice) (acc : Access) (len : Nat) (w : Nat) (off : Nat) (far : FarAnswer) (hz : Keep M z s) :
    Keep M z (hwPrefetch acc len w off far s) := by
  unfold hwPrefetch
  repeat' (first
    | with_reducible assumption
    | with_reducible exact Keep.refl _
    | intro _
    | ((fail_if_success (conv => arg 3; arg 1)); extract_lets +onlyGivenNames t; refine Keep.cut t ?_ ?_; subst t; rotate_left; clear_value t; intro ht; rotate_right)
    | ((fail_if_success (conv => arg 3; arg 1)); extract_lets +onlyGivenNames t; subst t)
    | with_reducible apply emit_keep
    | with_reducible apply spliceErr_keep
    | with_reducible apply hwRun_keep
    | with_reducible apply pfTouch_keep
    | with_reducible apply pfFill_keep
    | split
    | dsimp -zeta only)

theorem hwWrite_keep {M : Part → Prop} {z s : State} (h_regs : ¬ M .regs) (h_od : ¬ M .od) (h_splice : ¬ M .splice) (acc : Access) (data : List Byte) (w : Nat) (off : Nat) (far : FarAnswer) (hz : Keep M z s) :
    Keep M z (hwWrite acc data w off far s) := by
  unfold hwWrite
  repeat' (first
    | with_reducible assumption
    | with_reducible exact Keep.refl _
    | intro _
    | ((fail_if_success (conv => arg 3; arg 1)); extract_lets +onlyGivenNames t; refine Keep.cut t ?_ ?_; subst t; rotate_left; clear_value t; intro ht; rotate_right)
    | ((fail_if_success (conv => arg 3; arg 1)); extract_lets +onlyGivenNames t; subst t)
    | with_reducible apply emit_keep
    | with_reducible apply spliceErr_keep
    | with_reducible apply hwRun_keep
    | with_reducible apply hwSplit_keep
    | with_reducible apply pfDrop_keep
    | split
    | dsimp -zeta only)

theorem execHawserAccess_keep {M : Part → Prop} {z s : State} (h_dev : ¬ M .dev) (h_now : ¬ M .now) (h_free : ¬ M .free) (h_regs : ¬ M .regs) (h_od : ¬ M .od) (h_pwr : ¬ M .pwr) (h_start : ¬ M .start) (h_sdg : ¬ M .sdg) (h_frz : ¬ M .frz) (h_apps : ¬ M .apps) (h_pack : ¬ M .pack) (h_splice : ¬ M .splice) (h_gtime : ¬ M .gtime) (acc : Access) (len : Nat) (wr : Option (List Byte)) (far : FarAnswer) (hz : Keep M z s) :
    KeepN M z (execHawserAccess acc len wr far s) := by
  unfold execHawserAccess
  repeat' (first
    | with_reducible assumption
    | with_reducible exact Keep.refl _
    | intro _
    | with_reducible apply KeepN.next
    | ((fail_if_success (conv => arg 3; arg 1)); extract_lets +onlyGivenNames t; refine KeepN.cut t ?_ ?_; subst t; rotate_left; clear_value t; intro ht; rotate_right)
    | ((fail_if_success (conv => arg 3; arg 1)); extract_lets +onlyGivenNames t; refine Keep.cut t ?_ ?_; subst t; rotate_left; clear_value t; intro ht; rotate_right)
    | ((fail_if_success (conv => arg 3; arg 1)); extract_lets +onlyGivenNames t; subst t)
    | with_reducible apply ownDrop_keep
    | with_reducible apply spliceFrame_keep
    | with_reducible apply hwWindow_keep
    | with_reducible apply hwRead_keep
    | with_reducible apply hwPrefetch_keep
    | with_reducible apply hwWrite_keep
    | with_reducible apply Keep.ite
    | with_reducible apply KeepN.ite
    | split
    | dsimp -zeta only)

theorem execSpliceTimeout_keep {M : Part → Prop} {z s : State} (h_dev : ¬ M .dev) (h_now : ¬ M .now) (h_regs : ¬ M .regs) (h_od : ¬ M .od) (h_pwr : ¬ M .pwr) (h_start : ¬ M .start) (h_sdg : ¬ M .sdg) (h_frz : ¬ M .frz) (h_apps : ¬ M .apps) (h_pack : ¬ M .pack) (h_splice : ¬ M .splice) (h_gtime : ¬ M .gtime) (acc : Access) (isWrite : Bool) (beats : Nat) (hz : Keep M z s) :
    KeepN M z (execSpliceTimeout acc isWrite beats s) := by
  unfold execSpliceTimeout
  repeat' (first
    | with_reducible assumption
    | with_reducible exact Keep.refl _
    | intro _
    | with_reducible apply KeepN.next
    | with_reducible apply advanceTo_keep
    | with_reducible apply ownDrop_keep
    | with_reducible apply spliceErr_keep
    | with_reducible apply spliceFrame_keep
    | split
    | dsimp -zeta only)

theorem hwAtomic_keep {M : Part → Prop} {z s : State} {f : Nat → Nat → State → State} (h_f : ∀ a0 a1 t, Keep M z t → Keep M z (f a0 a1 t)) (h_dev : ¬ M .dev) (h_now : ¬ M .now) (h_free : ¬ M .free) (h_regs : ¬ M .regs) (h_od : ¬ M .od) (h_pwr : ¬ M .pwr) (h_start : ¬ M .start) (h_sdg : ¬ M .sdg) (h_frz : ¬ M .frz) (h_apps : ¬ M .apps) (h_pack : ¬ M .pack) (h_splice : ¬ M .splice) (h_gtime : ¬ M .gtime) (acc : Access) (wr : Bool) (hz : Keep M z s) :
    Keep M z (hwAtomic acc wr f s) := by
  unfold hwAtomic
  repeat' (first
    | with_reducible assumption
    | with_reducible exact Keep.refl _
    | intro _
    | (with_reducible apply h_f)
    | with_reducible apply ownDrop_keep
    | with_reducible apply spliceErr_keep
    | with_reducible apply spliceFrame_keep
    | with_reducible apply hwWindow_keep
    | with_reducible apply Keep.ite
    | split
    | dsimp -zeta only)

theorem execHawserAmo_keep {M : Part → Prop} {z s : State} (h_dev : ¬ M .dev) (h_now : ¬ M .now) (h_free : ¬ M .free) (h_regs : ¬ M .regs) (h_od : ¬ M .od) (h_pwr : ¬ M .pwr) (h_start : ¬ M .start) (h_sdg : ¬ M .sdg) (h_frz : ¬ M .frz) (h_apps : ¬ M .apps) (h_pack : ¬ M .pack) (h_splice : ¬ M .splice) (h_gtime : ¬ M .gtime) (acc : Access) (op : AmoOp) (operand : Word) (far : FarAnswer) (hz : Keep M z s) :
    KeepN M z (execHawserAmo acc op operand far s) := by
  unfold execHawserAmo
  repeat' (first
    | with_reducible assumption
    | with_reducible exact Keep.refl _
    | intro _
    | with_reducible apply KeepN.next
    | ((fail_if_success (conv => arg 3; arg 1)); extract_lets +onlyGivenNames t; refine KeepN.cut t ?_ ?_; subst t; rotate_left; clear_value t; intro ht; rotate_right)
    | ((fail_if_success (conv => arg 3; arg 1)); extract_lets +onlyGivenNames t; refine Keep.cut t ?_ ?_; subst t; rotate_left; clear_value t; intro ht; rotate_right)
    | ((fail_if_success (conv => arg 3; arg 1)); extract_lets +onlyGivenNames t; subst t)
    | with_reducible apply emit_keep
    | with_reducible apply takeFree_keep
    | with_reducible apply ownDrop_keep
    | with_reducible apply spliceErr_keep
    | with_reducible apply hwRun_keep
    | with_reducible apply hwSplit_keep
    | with_reducible apply pfDrop_keep
    | with_reducible apply hwAtomic_keep
    | with_reducible apply Keep.ite
    | with_reducible apply KeepN.ite
    | split
    | dsimp -zeta only)

theorem execHawserLr_keep {M : Part → Prop} {z s : State} (h_dev : ¬ M .dev) (h_now : ¬ M .now) (h_free : ¬ M .free) (h_regs : ¬ M .regs) (h_od : ¬ M .od) (h_pwr : ¬ M .pwr) (h_start : ¬ M .start) (h_sdg : ¬ M .sdg) (h_frz : ¬ M .frz) (h_apps : ¬ M .apps) (h_pack : ¬ M .pack) (h_splice : ¬ M .splice) (h_gtime : ¬ M .gtime) (acc : Access) (far : FarAnswer) (hz : Keep M z s) :
    KeepN M z (execHawserLr acc far s) := by
  unfold execHawserLr
  repeat' (first
    | with_reducible assumption
    | with_reducible exact Keep.refl _
    | intro _
    | with_reducible apply KeepN.next
    | ((fail_if_success (conv => arg 3; arg 1)); extract_lets +onlyGivenNames t; refine KeepN.cut t ?_ ?_; subst t; rotate_left; clear_value t; intro ht; rotate_right)
    | ((fail_if_success (conv => arg 3; arg 1)); extract_lets +onlyGivenNames t; refine Keep.cut t ?_ ?_; subst t; rotate_left; clear_value t; intro ht; rotate_right)
    | ((fail_if_success (conv => arg 3; arg 1)); extract_lets +onlyGivenNames t; subst t)
    | with_reducible apply emit_keep
    | with_reducible apply ownDrop_keep
    | with_reducible apply pfDrop_keep
    | with_reducible apply hwRead_keep
    | with_reducible apply hwAtomic_keep
    | ((fail_if_success (fail_if_success (conv => arg 3; arg 39))); with_reducible apply Keep.upd_splice)
    | split
    | dsimp -zeta only)

theorem execHawserSc_keep {M : Part → Prop} {z s : State} (h_dev : ¬ M .dev) (h_now : ¬ M .now) (h_free : ¬ M .free) (h_regs : ¬ M .regs) (h_od : ¬ M .od) (h_pwr : ¬ M .pwr) (h_start : ¬ M .start) (h_sdg : ¬ M .sdg) (h_frz : ¬ M .frz) (h_apps : ¬ M .apps) (h_pack : ¬ M .pack) (h_splice : ¬ M .splice) (h_gtime : ¬ M .gtime) (acc : Access) (value : Word) (far : FarAnswer) (hz : Keep M z s) :
    KeepN M z (execHawserSc acc value far s) := by
  unfold execHawserSc
  repeat' (first
    | with_reducible assumption
    | with_reducible exact Keep.refl _
    | intro _
    | with_reducible apply KeepN.next
    | ((fail_if_success (conv => arg 3; arg 1)); extract_lets +onlyGivenNames t; refine KeepN.cut t ?_ ?_; subst t; rotate_left; clear_value t; intro ht; rotate_right)
    | ((fail_if_success (conv => arg 3; arg 1)); extract_lets +onlyGivenNames t; refine Keep.cut t ?_ ?_; subst t; rotate_left; clear_value t; intro ht; rotate_right)
    | ((fail_if_success (conv => arg 3; arg 1)); extract_lets +onlyGivenNames t; subst t)
    | with_reducible apply emit_keep
    | with_reducible apply lockRelease_keep
    | with_reducible apply ownDrop_keep
    | with_reducible apply spliceErr_keep
    | with_reducible apply hwRun_keep
    | with_reducible apply hwSplit_keep
    | with_reducible apply pfDrop_keep
    | with_reducible apply spliceFrame_keep
    | with_reducible apply hwAtomic_keep
    | with_reducible apply Keep.ite
    | with_reducible apply KeepN.ite
    | split
    | dsimp -zeta only)

theorem execLockExpiry_keep {M : Part → Prop} {z s : State} (h_now : ¬ M .now) (h_regs : ¬ M .regs) (h_od : ¬ M .od) (h_splice : ¬ M .splice) (h_gtime : ¬ M .gtime) (hz : Keep M z s) :
    KeepN M z (execLockExpiry s) := by
  unfold execLockExpiry
  repeat' (first
    | with_reducible assumption
    | with_reducible exact Keep.refl _
    | intro _
    | with_reducible apply KeepN.next
    | with_reducible apply lockExpire_keep
    | with_reducible apply Keep.ite
    | with_reducible apply KeepN.ite
    | split
    | dsimp -zeta only)

theorem pcieRead_keep {M : Part → Prop} {z s : State} (h_regs : ¬ M .regs) (h_od : ¬ M .od) (acc : Access) (len : Nat) (far : FarAnswer) (hz : Keep M z s) :
    Keep M z (pcieRead acc len far s) := by
  unfold pcieRead
  repeat' (first
    | with_reducible assumption
    | with_reducible exact Keep.refl _
    | intro _
    | ((fail_if_success (conv => arg 3; arg 1)); extract_lets +onlyGivenNames t; refine Keep.cut t ?_ ?_; subst t; rotate_left; clear_value t; intro ht; rotate_right)
    | ((fail_if_success (conv => arg 3; arg 1)); extract_lets +onlyGivenNames t; subst t)
    | with_reducible apply emit_keep
    | with_reducible apply spliceErr_keep
    | with_reducible apply KeepP.fst
    | split
    | dsimp -zeta only)

theorem pciePrefetch_keep {M : Part → Prop} {z s : State} (h_regs : ¬ M .regs) (h_od : ¬ M .od) (h_splice : ¬ M .splice) (acc : Access) (len : Nat) (far : FarAnswer) (hz : Keep M z s) :
    Keep M z (pciePrefetch acc len far s) := by
  unfold pciePrefetch
  repeat' (first
    | with_reducible assumption
    | with_reducible exact Keep.refl _
    | intro _
    | ((fail_if_success (conv => arg 3; arg 1)); extract_lets +onlyGivenNames t; refine Keep.cut t ?_ ?_; subst t; rotate_left; clear_value t; intro ht; rotate_right)
    | ((fail_if_success (conv => arg 3; arg 1)); extract_lets +onlyGivenNames t; subst t)
    | with_reducible apply emit_keep
    | with_reducible apply spliceErr_keep
    | with_reducible apply pfTouch_keep
    | with_reducible apply pfFill_keep
    | with_reducible apply pcieRead_keep
    | with_reducible apply Keep.ite
    | with_reducible apply KeepP.fst
    | split
    | dsimp -zeta only)

theorem pcieWrite_keep {M : Part → Prop} {z s : State} (h_splice : ¬ M .splice) (acc : Access) (l : List Byte) (hz : Keep M z s) :
    Keep M z (pcieWrite acc l s) := by
  unfold pcieWrite
  repeat' (first
    | with_reducible assumption
    | with_reducible exact Keep.refl _
    | intro _
    | ((fail_if_success (conv => arg 3; arg 1)); extract_lets +onlyGivenNames t; refine Keep.cut t ?_ ?_; subst t; rotate_left; clear_value t; intro ht; rotate_right)
    | ((fail_if_success (conv => arg 3; arg 1)); extract_lets +onlyGivenNames t; subst t)
    | with_reducible apply emit_keep
    | with_reducible apply pfDrop_keep
    | with_reducible apply Keep.ite
    | with_reducible apply KeepP.fst
    | split
    | dsimp -zeta only)

theorem execPcieOutboundAccess_keep {M : Part → Prop} {z s : State} (h_dev : ¬ M .dev) (h_now : ¬ M .now) (h_free : ¬ M .free) (h_regs : ¬ M .regs) (h_od : ¬ M .od) (h_pwr : ¬ M .pwr) (h_start : ¬ M .start) (h_sdg : ¬ M .sdg) (h_frz : ¬ M .frz) (h_apps : ¬ M .apps) (h_pack : ¬ M .pack) (h_splice : ¬ M .splice) (h_gtime : ¬ M .gtime) (acc : Access) (len : Nat) (wr : Option (List Byte)) (far : FarAnswer) (hz : Keep M z s) :
    KeepN M z (execPcieOutboundAccess acc len wr far s) := by
  unfold execPcieOutboundAccess
  repeat' (first
    | with_reducible assumption
    | with_reducible exact Keep.refl _
    | intro _
    | with_reducible apply KeepN.next
    | ((fail_if_success (conv => arg 3; arg 1)); extract_lets +onlyGivenNames t; refine KeepN.cut t ?_ ?_; subst t; rotate_left; clear_value t; intro ht; rotate_right)
    | ((fail_if_success (conv => arg 3; arg 1)); extract_lets +onlyGivenNames t; refine Keep.cut t ?_ ?_; subst t; rotate_left; clear_value t; intro ht; rotate_right)
    | ((fail_if_success (conv => arg 3; arg 1)); extract_lets +onlyGivenNames t; subst t)
    | with_reducible apply ownDrop_keep
    | with_reducible apply semWait_keep
    | with_reducible apply spliceErrFree_keep
    | with_reducible apply spliceFrame_keep
    | with_reducible apply pcieRead_keep
    | with_reducible apply pciePrefetch_keep
    | with_reducible apply pcieWrite_keep
    | with_reducible apply Keep.ite
    | with_reducible apply KeepN.ite
    | split
    | dsimp -zeta only)

theorem execPcieIntx_keep {M : Part → Prop} {z s : State} (h_od : ¬ M .od) (hz : Keep M z s) :
    KeepN M z (execPcieIntx s) := by
  unfold execPcieIntx
  repeat' (first
    | with_reducible assumption
    | with_reducible exact Keep.refl _
    | intro _
    | with_reducible apply KeepN.next
    | with_reducible apply odCount_keep
    | with_reducible apply Keep.ite
    | with_reducible apply KeepN.ite
    | split
    | dsimp -zeta only)

theorem execAerError_keep {M : Part → Prop} {z s : State} (h_regs : ¬ M .regs) (hz : Keep M z s) :
    KeepN M z (execAerError s) := by
  unfold execAerError
  repeat' (first
    | with_reducible assumption
    | with_reducible exact Keep.refl _
    | intro _
    | with_reducible apply KeepN.next
    | with_reducible apply sendMsg_keep
    | with_reducible apply Keep.ite
    | with_reducible apply KeepN.ite
    | split
    | dsimp -zeta only)

theorem epMsiEff_keep {M : Part → Prop} {z s : State} (v : Nat) (hostEnabled : Bool) (hz : Keep M z s) :
    KeepW M z (epMsiEff v hostEnabled s) := by
  unfold epMsiEff
  repeat' (first
    | with_reducible assumption
    | with_reducible exact Keep.refl _
    | intro _
    | with_reducible apply emit_keep
    | with_reducible apply Keep.ite
    | with_reducible apply KeepW.ite
    | with_reducible apply KeepW.done
    | with_reducible apply KeepW.denied
    | split
    | dsimp -zeta only)

theorem execEpMsi_keep {M : Part → Prop} {z s : State} (h_dev : ¬ M .dev) (h_now : ¬ M .now) (h_regs : ¬ M .regs) (h_hold : ¬ M .hold) (h_od : ¬ M .od) (h_pwr : ¬ M .pwr) (h_start : ¬ M .start) (h_sdg : ¬ M .sdg) (h_frz : ¬ M .frz) (h_apps : ¬ M .apps) (h_pack : ¬ M .pack) (h_splice : ¬ M .splice) (h_gtime : ¬ M .gtime) (acc : Access) (value : Word) (hostEnabled : Bool) (hz : Keep M z s) :
    KeepN M z (execEpMsi acc value hostEnabled s) := by
  unfold execEpMsi
  repeat' (first
    | with_reducible assumption
    | with_reducible exact Keep.refl _
    | intro _
    | with_reducible apply KeepN.next
    | with_reducible apply regWriteWith_keep
    | with_reducible apply epMsiEff_keep
    | split
    | dsimp -zeta only)

theorem semRoom_keep {M : Part → Prop} {z s : State} (h_now : ¬ M .now) (h_regs : ¬ M .regs) (h_od : ¬ M .od) (h_splice : ¬ M .splice) (h_gtime : ¬ M .gtime) (hz : Keep M z s) :
    Keep M z (semRoom s) := by
  unfold semRoom
  repeat' (first
    | with_reducible assumption
    | with_reducible exact Keep.refl _
    | intro _
    | with_reducible apply semExpire_keep
    | with_reducible apply Keep.ite
    | ((fail_if_success (conv => arg 3; arg 3)); with_reducible apply KeepP.mk')
    | with_reducible apply KeepP.foldl
    | with_reducible apply Keep.foldl
    | with_reducible apply KeepP.fst
    | split
    | dsimp -zeta only)

theorem semFrame_keep {M : Part → Prop} {z s : State} {f : Region → State → State} (h_f : ∀ a0 t, Keep M z t → Keep M z (f a0 t)) (h_dev : ¬ M .dev) (h_now : ¬ M .now) (h_regs : ¬ M .regs) (h_od : ¬ M .od) (h_pwr : ¬ M .pwr) (h_start : ¬ M .start) (h_sdg : ¬ M .sdg) (h_frz : ¬ M .frz) (h_apps : ¬ M .apps) (h_pack : ¬ M .pack) (h_splice : ¬ M .splice) (h_gtime : ¬ M .gtime) (acc : Access) (wr : Bool) (hz : Keep M z s) :
    Keep M z (semFrame acc wr f s) := by
  unfold semFrame
  repeat' (first
    | with_reducible assumption
    | with_reducible exact Keep.refl _
    | intro _
    | (with_reducible apply h_f)
    | with_reducible apply ownDrop_keep
    | with_reducible apply semWait_keep
    | with_reducible apply spliceFrame_keep
    | with_reducible apply semRoom_keep
    | with_reducible apply Keep.ite
    | split
    | dsimp -zeta only)

/-- A register write that passed its checks answers: its newest output is its answer. -/
theorem commitWrite_out {eff : Nat → Nat → Access → State → WriteRes} (heff : ∀ a v c t, KeepW (fun _ => False) t (eff a v c t))
    (a v : Nat) (acc : Access) (s : State) : ∃ o u, (commitWrite eff a v acc s).out = o :: u ∧ s.out <:+ u := by
  unfold commitWrite
  have := heff a v acc s
  split
  · rename_i t e
    exact ⟨_, _, rfl, (regUpd_keep (M := fun _ => False) id _ _ (this.of_done t e)).out⟩
  · rename_i st t e
    exact ⟨_, _, rfl, (this.of_denied st t e).out⟩

theorem writeLoc_out {eff : Nat → Nat → Access → State → WriteRes} (heff : ∀ a v c t, KeepW (fun _ => False) t (eff a v c t))
    (acc : Access) (v : Nat) (l : Loc) (s : State) : ∃ o u, (writeLoc eff acc v l s).out = o :: u ∧ s.out <:+ u := by
  unfold writeLoc
  extract_lets a b
  clear_value a b
  have put : ∀ h t, Keep (fun _ => False) t (putHold b h t) := fun h t => putHold_keep (M := fun _ => False) id _ _ (Keep.refl t)
  have torn : ∀ t, Keep (fun _ => False) t (tornEvent b 1 t) := fun t => tornEvent_keep (M := fun _ => False) id id _ _ (Keep.refl t)
  have go : ∀ x c t, Keep (fun _ => False) s t → ∃ o u, (commitWrite eff a x c t).out = o :: u ∧ s.out <:+ u := fun x c t k =>
    let ⟨o, u, e, h⟩ := commitWrite_out heff a x c t
    ⟨o, u, e, k.out.trans h⟩
  split
  · exact go _ _ _ (Keep.refl s)
  split
  · exact go _ _ _ (Keep.refl s)
  split
  · exact ⟨_, _, rfl, (put _ s).out⟩
  split
  · split
    · exact go _ _ _ (put _ s)
    · exact go _ _ _ (torn s)
  · exact go _ _ _ (torn s)

/-- The answer of a register write, replaced by another. -/
theorem Keep.answer {M : Part → Prop} {z s t : State} {o x : Output} {rest : List Output} (hz : Keep M z s) (k : Keep M z t)
    (h : ∃ o u, t.out = o :: u ∧ s.out <:+ u) (e : t.out = o :: rest) : Keep M z (emit x { t with out := rest }) := by
  obtain ⟨o', u, e', h⟩ := h
  rw [e] at e'
  obtain ⟨rfl, rfl⟩ := List.cons.inj e'
  exact ⟨k.pending, k.now, k.free, (hz.out.trans h).trans (List.suffix_cons _ _), k.fuses, k.mem, fun p m => by
    have := k.same p m
    cases p <;> exact this⟩

theorem KeepW.weaken {M : Part → Prop} {eff : Nat → Nat → Access → State → WriteRes} (heff : ∀ a v c t, KeepW M t (eff a v c t))
    (a v : Nat) (c : Access) (t : State) : KeepW (fun _ => False) t (eff a v c t) :=
  ⟨fun u e => ((heff a v c t).of_done u e).weaken, fun n u e => ((heff a v c t).of_denied n u e).weaken⟩

theorem writeAnswered_keep {M : Part → Prop} {z s : State} {eff : Nat → Nat → Access → State → WriteRes}
    (heff : ∀ a v c t, KeepW M t (eff a v c t)) (h_regs : ¬ M .regs) (h_hold : ¬ M .hold) (h_od : ¬ M .od) (acc : Access) (v : Nat) (m : Loc) (x : Output) (hz : Keep M z s) :
    Keep M z (writeAnswered eff acc v m x s) := by
  unfold writeAnswered
  have ht := writeLoc_keep heff h_regs h_hold h_od acc v m hz
  have ho := writeLoc_out (KeepW.weaken heff) acc v m s
  generalize writeLoc eff acc v m s = t at ht ho
  extract_lets t'
  split
  · rename_i e
    with_reducible apply Keep.ite
    · exact hz.answer ht ho e
    · exact ht
  · exact ht

theorem atomicReg_keep {M : Part → Prop} {z s : State} {eff : Nat → Nat → Access → State → WriteRes} (heff : ∀ a v c t, KeepW M t (eff a v c t)) (h_dev : ¬ M .dev) (h_regs : ¬ M .regs) (h_hold : ¬ M .hold) (h_od : ¬ M .od) (h_pwr : ¬ M .pwr) (h_start : ¬ M .start) (h_sdg : ¬ M .sdg) (h_frz : ¬ M .frz) (h_apps : ¬ M .apps) (h_pack : ¬ M .pack) (acc : Access) (op : AmoOp) (operand : Nat) (hz : Keep M z s) :
    Keep M z (atomicReg eff acc op operand s) := by
  unfold atomicReg
  repeat' (first
    | with_reducible assumption
    | with_reducible exact Keep.refl _
    | intro _
    | ((fail_if_success (conv => arg 3; arg 1)); extract_lets +onlyGivenNames t; refine Keep.cut t ?_ ?_; subst t; rotate_left; clear_value t; intro ht; rotate_right)
    | ((fail_if_success (conv => arg 3; arg 1)); extract_lets +onlyGivenNames t; subst t)
    | exact heff
    | with_reducible apply checkFailed_keep
    | with_reducible apply writeAnswered_keep
    | split
    | dsimp -zeta only)

theorem semAmo_keep {M : Part → Prop} {z s : State} {eff : Nat → Nat → Access → State → WriteRes} (heff : ∀ a v c t, KeepW M t (eff a v c t)) (h_dev : ¬ M .dev) (h_now : ¬ M .now) (h_free : ¬ M .free) (h_regs : ¬ M .regs) (h_hold : ¬ M .hold) (h_od : ¬ M .od) (h_pwr : ¬ M .pwr) (h_start : ¬ M .start) (h_sdg : ¬ M .sdg) (h_frz : ¬ M .frz) (h_apps : ¬ M .apps) (h_pack : ¬ M .pack) (h_splice : ¬ M .splice) (h_gtime : ¬ M .gtime) (acc : Access) (op : AmoOp) (operand : Nat) (far : FarAnswer) (hz : Keep M z s) :
    Keep M z (semAmo eff acc op operand far s) := by
  unfold semAmo
  repeat' (first
    | with_reducible assumption
    | with_reducible exact Keep.refl _
    | intro _
    | ((fail_if_success (conv => arg 3; arg 1)); extract_lets +onlyGivenNames t; refine Keep.cut t ?_ ?_; subst t; rotate_left; clear_value t; intro ht; rotate_right)
    | ((fail_if_success (conv => arg 3; arg 1)); extract_lets +onlyGivenNames t; subst t)
    | exact heff
    | with_reducible apply emit_keep
    | with_reducible apply spliceErr_keep
    | with_reducible apply spliceErrFree_keep
    | with_reducible apply pfDrop_keep
    | with_reducible apply semFrame_keep
    | with_reducible apply atomicReg_keep
    | with_reducible apply Keep.ite
    | with_reducible apply KeepP.fst
    | split
    | dsimp -zeta only)

theorem execSemaphoreLr_keep {M : Part → Prop} {z s : State} (h_dev : ¬ M .dev) (h_now : ¬ M .now) (h_free : ¬ M .free) (h_regs : ¬ M .regs) (h_hold : ¬ M .hold) (h_od : ¬ M .od) (h_pwr : ¬ M .pwr) (h_start : ¬ M .start) (h_sdg : ¬ M .sdg) (h_frz : ¬ M .frz) (h_apps : ¬ M .apps) (h_pack : ¬ M .pack) (h_splice : ¬ M .splice) (h_gtime : ¬ M .gtime) (acc : Access) (far : FarAnswer) (hz : Keep M z s) :
    KeepN M z (execSemaphoreLr acc far s) := by
  unfold execSemaphoreLr
  repeat' (first
    | with_reducible assumption
    | with_reducible exact Keep.refl _
    | intro _
    | with_reducible apply KeepN.next
    | ((fail_if_success (conv => arg 3; arg 1)); extract_lets +onlyGivenNames t; refine KeepN.cut t ?_ ?_; subst t; rotate_left; clear_value t; intro ht; rotate_right)
    | ((fail_if_success (conv => arg 3; arg 1)); extract_lets +onlyGivenNames t; refine Keep.cut t ?_ ?_; subst t; rotate_left; clear_value t; intro ht; rotate_right)
    | ((fail_if_success (conv => arg 3; arg 1)); extract_lets +onlyGivenNames t; subst t)
    | with_reducible apply checkFailed_keep
    | with_reducible apply readLoc_keep
    | with_reducible apply spliceErrFree_keep
    | with_reducible apply pfDrop_keep
    | with_reducible apply pcieRead_keep
    | with_reducible apply semFrame_keep
    | ((fail_if_success (fail_if_success (conv => arg 3; arg 39))); with_reducible apply Keep.upd_splice)
    | with_reducible apply Keep.ite
    | with_reducible apply KeepN.ite
    | split
    | dsimp -zeta only)

theorem semSc_keep {M : Part → Prop} {z s : State} {eff : Nat → Nat → Access → State → WriteRes} (heff : ∀ a v c t, KeepW M t (eff a v c t)) (h_dev : ¬ M .dev) (h_free : ¬ M .free) (h_regs : ¬ M .regs) (h_hold : ¬ M .hold) (h_od : ¬ M .od) (h_pwr : ¬ M .pwr) (h_start : ¬ M .start) (h_sdg : ¬ M .sdg) (h_frz : ¬ M .frz) (h_apps : ¬ M .apps) (h_pack : ¬ M .pack) (h_splice : ¬ M .splice) (acc : Access) (v : Nat) (hz : Keep M z s) :
    Keep M z (semSc eff acc v s) := by
  unfold semSc
  repeat' (first
    | with_reducible assumption
    | with_reducible exact Keep.refl _
    | intro _
    | ((fail_if_success (conv => arg 3; arg 1)); extract_lets +onlyGivenNames t; refine Keep.cut t ?_ ?_; subst t; rotate_left; clear_value t; intro ht; rotate_right)
    | ((fail_if_success (conv => arg 3; arg 1)); extract_lets +onlyGivenNames t; subst t)
    | exact heff
    | with_reducible apply emit_keep
    | with_reducible apply ownDrop_keep
    | with_reducible apply checkFailed_keep
    | with_reducible apply spliceErrFree_keep
    | with_reducible apply pfDrop_keep
    | with_reducible apply spliceFrame_keep
    | with_reducible apply writeAnswered_keep
    | with_reducible apply Keep.ite
    | with_reducible apply KeepP.fst
    | split
    | dsimp -zeta only)

theorem execSemaphoreExpiry_keep {M : Part → Prop} {z s : State} (h_now : ¬ M .now) (h_regs : ¬ M .regs) (h_od : ¬ M .od) (h_splice : ¬ M .splice) (h_gtime : ¬ M .gtime) (granule : Nat) (hz : Keep M z s) :
    KeepN M z (execSemaphoreExpiry granule s) := by
  unfold execSemaphoreExpiry
  repeat' (first
    | with_reducible assumption
    | with_reducible exact Keep.refl _
    | intro _
    | with_reducible apply KeepN.next
    | with_reducible apply semExpire_keep
    | with_reducible apply Keep.ite
    | with_reducible apply KeepN.ite
    | split
    | dsimp -zeta only)

theorem farRead_keep {M : Part → Prop} {z s : State} (h_dev : ¬ M .dev) (h_free : ¬ M .free) (h_regs : ¬ M .regs) (h_od : ¬ M .od) (h_mem : ¬ M .mem) (h_memCtl : ¬ M .memCtl) (h_pwr : ¬ M .pwr) (h_start : ¬ M .start) (h_sdg : ¬ M .sdg) (h_frz : ¬ M .frz) (h_apps : ¬ M .apps) (h_sec : ¬ M .sec) (h_pack : ¬ M .pack) (req : Nat) (local' : Nat) (len : Nat) (hz : Keep M z s) :
    KeepP M z (farRead req local' len s) := by
  unfold farRead
  repeat' (first
    | with_reducible assumption
    | with_reducible exact Keep.refl _
    | intro _
    | with_reducible apply filterDenied_keep
    | with_reducible apply readRange_keep
    | ((with_reducible apply readRange_keep_of); with_reducible assumption)
    | with_reducible apply Keep.ite
    | with_reducible apply KeepP.ite
    | ((fail_if_success (conv => arg 3; arg 3)); with_reducible apply KeepP.mk')
    | with_reducible apply KeepP.fst
    | split
    | dsimp -zeta only)

theorem farRead_keep_of {M : Part → Prop} {req : Nat} {local' : Nat} {len : Nat} {z s u_ : State} {o_ : FarAnswer} (e_ : farRead req local' len s = (u_, o_)) (h_dev : ¬ M .dev) (h_free : ¬ M .free) (h_regs : ¬ M .regs) (h_od : ¬ M .od) (h_mem : ¬ M .mem) (h_memCtl : ¬ M .memCtl) (h_pwr : ¬ M .pwr) (h_start : ¬ M .start) (h_sdg : ¬ M .sdg) (h_frz : ¬ M .frz) (h_apps : ¬ M .apps) (h_sec : ¬ M .sec) (h_pack : ¬ M .pack)
    (hz : Keep M z s) : Keep M z u_ :=
  (farRead_keep h_dev h_free h_regs h_od h_mem h_memCtl h_pwr h_start h_sdg h_frz h_apps h_sec h_pack _ _ _ hz).of e_

theorem farWrite_keep {M : Part → Prop} {z s : State} {eff : Nat → Nat → Access → State → WriteRes} (heff : ∀ a v c t, KeepW M t (eff a v c t)) (h_dev : ¬ M .dev) (h_now : ¬ M .now) (h_regs : ¬ M .regs) (h_hold : ¬ M .hold) (h_od : ¬ M .od) (h_mem : ¬ M .mem) (h_memCtl : ¬ M .memCtl) (h_pwr : ¬ M .pwr) (h_start : ¬ M .start) (h_sdg : ¬ M .sdg) (h_frz : ¬ M .frz) (h_apps : ¬ M .apps) (h_sec : ¬ M .sec) (h_pack : ¬ M .pack) (h_splice : ¬ M .splice) (h_gtime : ¬ M .gtime) (req : Nat) (local' : Nat) (l : List (Option Byte)) (hz : Keep M z s) :
    Keep M z (farWrite eff req local' l s) := by
  unfold farWrite
  repeat' (first
    | with_reducible assumption
    | with_reducible exact Keep.refl _
    | intro _
    | ((fail_if_success (conv => arg 3; arg 1)); extract_lets +onlyGivenNames t; refine Keep.cut t ?_ ?_; subst t; rotate_left; clear_value t; intro ht; rotate_right)
    | ((fail_if_success (conv => arg 3; arg 1)); extract_lets +onlyGivenNames t; subst t)
    | exact heff
    | with_reducible apply filterDenied_keep
    | with_reducible apply regWriteWith_keep
    | with_reducible apply memoryWrite_keep
    | ((with_reducible apply memoryWrite_keep_of); with_reducible assumption)
    | with_reducible apply Keep.ite
    | with_reducible apply KeepP.fst
    | split
    | dsimp -zeta only)

theorem pcieInbound_keep {M : Part → Prop} {z s : State} {eff : Nat → Nat → Access → State → WriteRes} (heff : ∀ a v c t, KeepW M t (eff a v c t)) (h_dev : ¬ M .dev) (h_now : ¬ M .now) (h_free : ¬ M .free) (h_regs : ¬ M .regs) (h_hold : ¬ M .hold) (h_od : ¬ M .od) (h_mem : ¬ M .mem) (h_memCtl : ¬ M .memCtl) (h_pwr : ¬ M .pwr) (h_start : ¬ M .start) (h_sdg : ¬ M .sdg) (h_frz : ¬ M .frz) (h_apps : ¬ M .apps) (h_sec : ¬ M .sec) (h_pack : ¬ M .pack) (h_splice : ¬ M .splice) (h_gtime : ¬ M .gtime) (busAddr : Nat) (len : Nat) (wr : Option (List (Option Byte))) (hz : Keep M z s) :
    Keep M z (pcieInbound eff busAddr len wr s) := by
  unfold pcieInbound
  repeat' (first
    | with_reducible assumption
    | with_reducible exact Keep.refl _
    | intro _
    | exact heff
    | with_reducible apply emit_keep
    | with_reducible apply sendMsg_keep
    | with_reducible apply farRead_keep
    | ((with_reducible apply farRead_keep_of); with_reducible assumption)
    | with_reducible apply farWrite_keep
    | with_reducible apply Keep.ite
    | with_reducible apply KeepP.fst
    | split
    | dsimp -zeta only)

theorem execFarMasterRequest_keep {M : Part → Prop} {z s : State} (h_splice : ¬ M .splice) (hz : Keep M z s) :
    KeepN M z (execFarMasterRequest s) := by
  unfold execFarMasterRequest
  repeat' (first
    | with_reducible assumption
    | with_reducible exact Keep.refl _
    | intro _
    | with_reducible apply KeepN.next
    | with_reducible apply grantNow_keep
    | ((fail_if_success (fail_if_success (conv => arg 3; arg 39))); with_reducible apply Keep.upd_splice)
    | with_reducible apply Keep.ite
    | with_reducible apply KeepN.ite
    | split
    | dsimp -zeta only)

theorem execFarMasterRelease_keep {M : Part → Prop} {z s : State} (h_splice : ¬ M .splice) (hz : Keep M z s) :
    KeepN M z (execFarMasterRelease s) := by
  unfold execFarMasterRelease
  repeat' (first
    | with_reducible assumption
    | with_reducible exact Keep.refl _
    | intro _
    | with_reducible apply KeepN.next
    | ((fail_if_success (conv => arg 3; arg 1)); extract_lets +onlyGivenNames t; refine KeepN.cut t ?_ ?_; subst t; rotate_left; clear_value t; intro ht; rotate_right)
    | ((fail_if_success (conv => arg 3; arg 1)); extract_lets +onlyGivenNames t; refine Keep.cut t ?_ ?_; subst t; rotate_left; clear_value t; intro ht; rotate_right)
    | ((fail_if_success (conv => arg 3; arg 1)); extract_lets +onlyGivenNames t; subst t)
    | with_reducible apply emit_keep
    | ((fail_if_success (fail_if_success (conv => arg 3; arg 39))); with_reducible apply Keep.upd_splice)
    | with_reducible apply Keep.ite
    | with_reducible apply KeepN.ite
    | split
    | dsimp -zeta only)

theorem farCycle_keep {M : Part → Prop} {z s : State} {eff : Nat → Nat → Access → State → WriteRes} (heff : ∀ a v c t, KeepW M t (eff a v c t)) (h_dev : ¬ M .dev) (h_now : ¬ M .now) (h_free : ¬ M .free) (h_regs : ¬ M .regs) (h_hold : ¬ M .hold) (h_od : ¬ M .od) (h_mem : ¬ M .mem) (h_memCtl : ¬ M .memCtl) (h_pwr : ¬ M .pwr) (h_start : ¬ M .start) (h_sdg : ¬ M .sdg) (h_frz : ¬ M .frz) (h_apps : ¬ M .apps) (h_sec : ¬ M .sec) (h_pack : ¬ M .pack) (h_splice : ¬ M .splice) (h_gtime : ¬ M .gtime) (farAddr : Nat) (len : Nat) (wr : Option (List (Option Byte))) (hz : Keep M z s) :
    Keep M z (farCycle eff farAddr len wr s) := by
  unfold farCycle
  repeat' (first
    | with_reducible assumption
    | with_reducible exact Keep.refl _
    | intro _
    | exact heff
    | with_reducible apply emit_keep
    | with_reducible apply takeFree_keep
    | with_reducible apply regCount_keep
    | with_reducible apply spliceLatch_keep
    | with_reducible apply farRead_keep
    | ((with_reducible apply farRead_keep_of); with_reducible assumption)
    | with_reducible apply farWrite_keep
    | with_reducible apply Keep.ite
    | with_reducible apply KeepP.fst
    | split
    | dsimp -zeta only)

theorem putPoll_keep {M : Part → Prop} {z s : State} (h_splice : ¬ M .splice) (e : Nat) (p : Poll) (hz : Keep M z s) :
    Keep M z (putPoll e p s) := by
  unfold putPoll
  repeat' (first
    | with_reducible assumption
    | with_reducible exact Keep.refl _
    | intro _
    | ((fail_if_success (fail_if_success (conv => arg 3; arg 39))); with_reducible apply Keep.upd_splice)
    | split
    | dsimp -zeta only)

theorem pollFetch_keep {M : Part → Prop} {z s : State} (h_regs : ¬ M .regs) (h_od : ¬ M .od) (h_apps : ¬ M .apps) (addr : Nat) (far : FarAnswer) (hz : Keep M z s) :
    KeepP M z (pollFetch addr far s) := by
  unfold pollFetch
  repeat' (first
    | with_reducible assumption
    | with_reducible exact Keep.refl _
    | intro _
    | ((fail_if_success (conv => arg 3; arg 1)); extract_lets +onlyGivenNames t; refine KeepP.cut t ?_ ?_; subst t; rotate_left; clear_value t; intro ht; rotate_right)
    | ((fail_if_success (conv => arg 3; arg 1)); extract_lets +onlyGivenNames t; refine Keep.cut t ?_ ?_; subst t; rotate_left; clear_value t; intro ht; rotate_right)
    | ((fail_if_success (conv => arg 3; arg 1)); extract_lets +onlyGivenNames t; subst t)
    | with_reducible apply emit_keep
    | with_reducible apply filterDenied_keep
    | with_reducible apply hwRun_keep
    | with_reducible apply hwSplit_keep
    | with_reducible apply Keep.ite
    | with_reducible apply KeepP.ite
    | ((fail_if_success (conv => arg 3; arg 3)); with_reducible apply KeepP.mk')
    | with_reducible apply KeepP.fst
    | split
    | dsimp -zeta only)

theorem pollFetch_keep_of {M : Part → Prop} {addr : Nat} {far : FarAnswer} {z s u_ : State} {o_ : Option Nat} (e_ : pollFetch addr far s = (u_, o_)) (h_regs : ¬ M .regs) (h_od : ¬ M .od) (h_apps : ¬ M .apps)
    (hz : Keep M z s) : Keep M z u_ :=
  (pollFetch_keep h_regs h_od h_apps _ _ hz).of e_

theorem pollChange_keep {M : Part → Prop} {z s : State} (h_regs : ¬ M .regs) (h_knots : ¬ M .knots) (h_splice : ¬ M .splice) (h_slots : ¬ M .slots) (h_safeSlots : ¬ M .safeSlots) (e : Nat) (hit : Bool) (hz : Keep M z s) :
    Keep M z (pollChange e hit s) := by
  unfold pollChange
  repeat' (first
    | with_reducible assumption
    | with_reducible exact Keep.refl _
    | intro _
    | ((fail_if_success (conv => arg 3; arg 1)); extract_lets +onlyGivenNames t; refine Keep.cut t ?_ ?_; subst t; rotate_left; clear_value t; intro ht; rotate_right)
    | ((fail_if_success (conv => arg 3; arg 1)); extract_lets +onlyGivenNames t; subst t)
    | with_reducible apply sendMsg_keep
    | with_reducible apply knotRaise_keep
    | with_reducible apply putPoll_keep
    | ((fail_if_success (fail_if_success (conv => arg 3; arg 39))); with_reducible apply Keep.upd_gtime)
    | with_reducible apply Keep.ite
    | split
    | dsimp -zeta only)

theorem execPollRead_keep {M : Part → Prop} {z s : State} (h_now : ¬ M .now) (h_regs : ¬ M .regs) (h_od : ¬ M .od) (h_apps : ¬ M .apps) (h_knots : ¬ M .knots) (h_splice : ¬ M .splice) (h_slots : ¬ M .slots) (h_safeSlots : ¬ M .safeSlots) (h_gtime : ¬ M .gtime) (entry : Fin 64) (far : FarAnswer) (hz : Keep M z s) :
    KeepN M z (execPollRead entry far s) := by
  unfold execPollRead
  repeat' (first
    | with_reducible assumption
    | with_reducible exact Keep.refl _
    | intro _
    | with_reducible apply KeepN.next
    | ((fail_if_success (conv => arg 3; arg 1)); extract_lets +onlyGivenNames t; refine KeepN.cut t ?_ ?_; subst t; rotate_left; clear_value t; intro ht; rotate_right)
    | ((fail_if_success (conv => arg 3; arg 1)); extract_lets +onlyGivenNames t; refine Keep.cut t ?_ ?_; subst t; rotate_left; clear_value t; intro ht; rotate_right)
    | ((fail_if_success (conv => arg 3; arg 1)); extract_lets +onlyGivenNames t; subst t)
    | with_reducible apply advanceTo_keep
    | with_reducible apply sendMsg_keep
    | with_reducible apply lockWait_keep
    | with_reducible apply putPoll_keep
    | with_reducible apply pollFetch_keep
    | ((with_reducible apply pollFetch_keep_of); with_reducible assumption)
    | with_reducible apply pollChange_keep
    | with_reducible apply Keep.ite
    | with_reducible apply KeepN.ite
    | with_reducible apply KeepP.fst
    | split
    | dsimp -zeta only)

theorem spliceApply_keep {M : Part → Prop} {z s : State} (h_splice : ¬ M .splice) (k : Nat) (hz : Keep M z s) :
    Keep M z (spliceApply k s) := by
  unfold spliceApply
  repeat' (first
    | with_reducible assumption
    | with_reducible exact Keep.refl _
    | intro _
    | ((fail_if_success (fail_if_success (conv => arg 3; arg 39))); with_reducible apply Keep.upd_splice)
    | with_reducible apply Keep.ite
    | split
    | dsimp -zeta only)

end Sys2Proof.Machine
end

