-- ==== Sys2Proof/Laws/KeepRegisters.lean ====
section
/-! SUPPORT. What the operations of Machine/Registers.lean keep: one lemma each. -/

namespace Sys2Proof.Machine

theorem pageEff_keep {M : Part → Prop} {z s : State} (h_dev : ¬ M .dev) (h_free : ¬ M .free) (h_regs : ¬ M .regs) (h_hold : ¬ M .hold) (h_od : ¬ M .od) (h_mem : ¬ M .mem) (h_memCtl : ¬ M .memCtl) (h_pwr : ¬ M .pwr) (h_start : ¬ M .start) (h_sdg : ¬ M .sdg) (h_frz : ¬ M .frz) (h_sec : ¬ M .sec) (h_pack : ¬ M .pack) (h_cim : ¬ M .cim) (h_kennel : ¬ M .kennel) (n : Nat) (off : Nat) (v : Nat) (hz : Keep M z s) :
    KeepW M z (pageEff n off v s) := by
  unfold pageEff
  repeat' (first
    | with_reducible assumption
    | with_reducible exact Keep.refl _
    | intro _
    | ((fail_if_success (conv => arg 3; arg 1)); extract_lets +onlyGivenNames t; refine KeepW.cut t ?_ ?_; subst t; rotate_left; clear_value t; intro ht; rotate_right)
    | ((fail_if_success (conv => arg 3; arg 1)); extract_lets +onlyGivenNames t; refine Keep.cut t ?_ ?_; subst t; rotate_left; clear_value t; intro ht; rotate_right)
    | ((fail_if_success (conv => arg 3; arg 1)); extract_lets +onlyGivenNames t; subst t)
    | with_reducible apply genericWrite_keep
    | with_reducible apply kseqEff_keep
    | with_reducible apply swapCfgEff_keep
    | with_reducible apply doorbellEff_keep
    | with_reducible apply qCfgEff_keep
    | with_reducible apply queueCtlEff_keep
    | with_reducible apply instCtrlEff_keep
    | with_reducible apply Keep.ite
    | with_reducible apply KeepW.ite
    | with_reducible apply KeepW.done
    | with_reducible apply KeepW.denied
    | split
    | dsimp -zeta only)

theorem sysEff_keep {M : Part → Prop} {z s : State} (h_dev : ¬ M .dev) (h_regs : ¬ M .regs) (h_od : ¬ M .od) (h_pwr : ¬ M .pwr) (h_start : ¬ M .start) (h_sdg : ¬ M .sdg) (h_frz : ¬ M .frz) (h_lock : ¬ M .lock) (h_apps : ¬ M .apps) (h_pack : ¬ M .pack) (h_can : ¬ M .can) (h_splice : ¬ M .splice) (a : Nat) (v : Nat) (acc : Access) (hz : Keep M z s) :
    KeepW M z (sysEff a v acc s) := by
  unfold sysEff
  repeat' (first
    | with_reducible assumption
    | with_reducible exact Keep.refl _
    | intro _
    | with_reducible apply genericWrite_keep
    | with_reducible apply appReleaseEff_keep
    | with_reducible apply frzEff_keep
    | with_reducible apply wdgKickEff_keep
    | with_reducible apply swAlarmEff_keep
    | with_reducible apply coreReleaseEff_keep
    | with_reducible apply handoverEff_keep
    | with_reducible apply confirmEff_keep
    | with_reducible apply readyEff_keep
    | with_reducible apply Keep.ite
    | with_reducible apply KeepW.ite
    | with_reducible apply KeepW.done
    | with_reducible apply KeepW.denied
    | split
    | dsimp -zeta only)

theorem mediaEff_keep {M : Part → Prop} {z s : State} (h_dev : ¬ M .dev) (h_free : ¬ M .free) (h_regs : ¬ M .regs) (h_od : ¬ M .od) (h_mem : ¬ M .mem) (h_memCtl : ¬ M .memCtl) (h_pwr : ¬ M .pwr) (h_start : ¬ M .start) (h_sdg : ¬ M .sdg) (h_frz : ¬ M .frz) (h_sec : ¬ M .sec) (h_pack : ¬ M .pack) (h_gfx : ¬ M .gfx) (h_pipes : ¬ M .pipes) (a : Nat) (v : Nat) (hz : Keep M z s) :
    KeepW M z (mediaEff a v s) := by
  unfold mediaEff
  repeat' (first
    | with_reducible assumption
    | with_reducible exact Keep.refl _
    | intro _
    | with_reducible apply genericWrite_keep
    | with_reducible apply camEff_keep
    | with_reducible apply gfxEff_keep
    | with_reducible apply planeAddrEff_keep
    | with_reducible apply expCommitEff_keep
    | with_reducible apply Keep.ite
    | with_reducible apply KeepW.ite
    | with_reducible apply KeepW.done
    | with_reducible apply KeepW.denied
    | split
    | dsimp -zeta only)

theorem netEff_keep {M : Part → Prop} {z s : State} (h_dev : ¬ M .dev) (h_free : ¬ M .free) (h_regs : ¬ M .regs) (h_od : ¬ M .od) (h_mem : ¬ M .mem) (h_memCtl : ¬ M .memCtl) (h_pwr : ¬ M .pwr) (h_start : ¬ M .start) (h_sdg : ¬ M .sdg) (h_frz : ¬ M .frz) (h_sec : ¬ M .sec) (h_pack : ¬ M .pack) (h_net : ¬ M .net) (h_can : ¬ M .can) (h_tether : ¬ M .tether) (h_wh : ¬ M .wh) (a : Nat) (v : Nat) (acc : Access) (hz : Keep M z s) :
    KeepW M z (netEff a v acc s) := by
  unfold netEff
  repeat' (first
    | with_reducible assumption
    | with_reducible exact Keep.refl _
    | intro _
    | with_reducible apply takeFree_keep
    | with_reducible apply genericWrite_keep
    | with_reducible apply canRingEff_keep
    | with_reducible apply tpReleaseEff_keep
    | with_reducible apply portRingEff_keep
    | with_reducible apply tetherEff_keep
    | with_reducible apply whEff_keep
    | with_reducible apply epMsiEff_keep
    | with_reducible apply Keep.ite
    | with_reducible apply KeepW.ite
    | with_reducible apply KeepW.done
    | with_reducible apply KeepW.denied
    | split
    | dsimp -zeta only)

theorem cpuEff_keep {M : Part → Prop} {z s : State} (h_regs : ¬ M .regs) (h_od : ¬ M .od) (h_sec : ¬ M .sec) (h_knots : ¬ M .knots) (h_slots : ¬ M .slots) (h_safeSlots : ¬ M .safeSlots) (a : Nat) (v : Nat) (acc : Access) (hz : Keep M z s) :
    KeepW M z (cpuEff a v acc s) := by
  unfold cpuEff
  repeat' (first
    | with_reducible assumption
    | with_reducible exact Keep.refl _
    | intro _
    | with_reducible apply genericWrite_keep
    | with_reducible apply knotWriteEff_keep
    | with_reducible apply armEff_keep
    | with_reducible apply measGoEff_keep
    | with_reducible apply mboxDoorbellEff_keep
    | with_reducible apply mboxRespEff_keep
    | with_reducible apply twKickEff_keep
    | with_reducible apply msgRouteEff_keep
    | with_reducible apply safeRouteEff_keep
    | with_reducible apply Keep.ite
    | with_reducible apply KeepW.ite
    | with_reducible apply KeepW.done
    | with_reducible apply KeepW.denied
    | split
    | dsimp -zeta only)

theorem regEff_keep {M : Part → Prop} {z s : State} (h_dev : ¬ M .dev) (h_free : ¬ M .free) (h_regs : ¬ M .regs) (h_hold : ¬ M .hold) (h_od : ¬ M .od) (h_mem : ¬ M .mem) (h_memCtl : ¬ M .memCtl) (h_pwr : ¬ M .pwr) (h_start : ¬ M .start) (h_sdg : ¬ M .sdg) (h_frz : ¬ M .frz) (h_lock : ¬ M .lock) (h_apps : ¬ M .apps) (h_sec : ¬ M .sec) (h_knots : ¬ M .knots) (h_pack : ¬ M .pack) (h_cim : ¬ M .cim) (h_kennel : ¬ M .kennel) (h_gfx : ¬ M .gfx) (h_pipes : ¬ M .pipes) (h_net : ¬ M .net) (h_can : ¬ M .can) (h_tether : ¬ M .tether) (h_splice : ¬ M .splice) (h_wh : ¬ M .wh) (h_slots : ¬ M .slots) (h_safeSlots : ¬ M .safeSlots) (a : Nat) (v : Nat) (acc : Access) (hz : Keep M z s) :
    KeepW M z (regEff a v acc s) := by
  unfold regEff
  repeat' (first
    | with_reducible assumption
    | with_reducible exact Keep.refl _
    | intro _
    | with_reducible apply genericWrite_keep
    | with_reducible apply pageEff_keep
    | with_reducible apply sysEff_keep
    | with_reducible apply mediaEff_keep
    | with_reducible apply netEff_keep
    | with_reducible apply cpuEff_keep
    | with_reducible apply Keep.ite
    | with_reducible apply KeepW.ite
    | with_reducible apply KeepW.done
    | with_reducible apply KeepW.denied
    | split
    | dsimp -zeta only)

theorem accessWrite_keep {M : Part → Prop} {z s : State} (h_dev : ¬ M .dev) (h_now : ¬ M .now) (h_free : ¬ M .free) (h_regs : ¬ M .regs) (h_hold : ¬ M .hold) (h_od : ¬ M .od) (h_mem : ¬ M .mem) (h_memCtl : ¬ M .memCtl) (h_pwr : ¬ M .pwr) (h_start : ¬ M .start) (h_sdg : ¬ M .sdg) (h_frz : ¬ M .frz) (h_lock : ¬ M .lock) (h_apps : ¬ M .apps) (h_sec : ¬ M .sec) (h_knots : ¬ M .knots) (h_pack : ¬ M .pack) (h_cim : ¬ M .cim) (h_kennel : ¬ M .kennel) (h_gfx : ¬ M .gfx) (h_pipes : ¬ M .pipes) (h_net : ¬ M .net) (h_can : ¬ M .can) (h_tether : ¬ M .tether) (h_splice : ¬ M .splice) (h_wh : ¬ M .wh) (h_slots : ¬ M .slots) (h_safeSlots : ¬ M .safeSlots) (h_gtime : ¬ M .gtime) (acc : Access) (v : Nat) (hz : Keep M z s) :
    Keep M z (accessWrite acc v s) := by
  unfold accessWrite
  repeat' (first
    | with_reducible assumption
    | with_reducible exact Keep.refl _
    | intro _
    | with_reducible apply emit_keep
    | with_reducible apply accessRefused_keep
    | with_reducible apply regWriteWith_keep
    | with_reducible apply memoryWrite_keep
    | ((with_reducible apply memoryWrite_keep_of); with_reducible assumption)
    | with_reducible apply memoryAccess_keep
    | with_reducible apply regEff_keep
    | with_reducible apply KeepP.fst
    | split
    | dsimp -zeta only)

theorem accessRead_keep {M : Part → Prop} {z s : State} (h_dev : ¬ M .dev) (h_now : ¬ M .now) (h_free : ¬ M .free) (h_regs : ¬ M .regs) (h_hold : ¬ M .hold) (h_od : ¬ M .od) (h_mem : ¬ M .mem) (h_memCtl : ¬ M .memCtl) (h_pwr : ¬ M .pwr) (h_start : ¬ M .start) (h_sdg : ¬ M .sdg) (h_frz : ¬ M .frz) (h_apps : ¬ M .apps) (h_sec : ¬ M .sec) (h_pack : ¬ M .pack) (h_splice : ¬ M .splice) (h_gtime : ¬ M .gtime) (acc : Access) (hz : Keep M z s) :
    Keep M z (accessRead acc s) := by
  unfold accessRead
  repeat' (first
    | with_reducible assumption
    | with_reducible exact Keep.refl _
    | intro _
    | with_reducible apply regRead_keep
    | with_reducible apply readRange_keep
    | ((with_reducible apply readRange_keep_of); with_reducible assumption)
    | with_reducible apply answerRead_keep
    | with_reducible apply memoryAccess_keep
    | with_reducible apply KeepP.fst
    | split
    | dsimp -zeta only)

theorem execRegisterWrite_keep {M : Part → Prop} {z s : State} (h_dev : ¬ M .dev) (h_now : ¬ M .now) (h_free : ¬ M .free) (h_regs : ¬ M .regs) (h_hold : ¬ M .hold) (h_od : ¬ M .od) (h_mem : ¬ M .mem) (h_memCtl : ¬ M .memCtl) (h_pwr : ¬ M .pwr) (h_start : ¬ M .start) (h_sdg : ¬ M .sdg) (h_frz : ¬ M .frz) (h_lock : ¬ M .lock) (h_apps : ¬ M .apps) (h_sec : ¬ M .sec) (h_knots : ¬ M .knots) (h_pack : ¬ M .pack) (h_cim : ¬ M .cim) (h_kennel : ¬ M .kennel) (h_gfx : ¬ M .gfx) (h_pipes : ¬ M .pipes) (h_net : ¬ M .net) (h_can : ¬ M .can) (h_tether : ¬ M .tether) (h_splice : ¬ M .splice) (h_wh : ¬ M .wh) (h_slots : ¬ M .slots) (h_safeSlots : ¬ M .safeSlots) (h_gtime : ¬ M .gtime) (acc : Access) (value : Word) (hz : Keep M z s) :
    KeepN M z (execRegisterWrite acc value s) := by
  unfold execRegisterWrite
  repeat' (first
    | with_reducible assumption
    | with_reducible exact Keep.refl _
    | intro _
    | with_reducible apply KeepN.next
    | with_reducible apply accessWrite_keep
    | split
    | dsimp -zeta only)

theorem execLowHalfRead_keep {M : Part → Prop} {z s : State} (h_dev : ¬ M .dev) (h_now : ¬ M .now) (h_free : ¬ M .free) (h_regs : ¬ M .regs) (h_hold : ¬ M .hold) (h_od : ¬ M .od) (h_mem : ¬ M .mem) (h_memCtl : ¬ M .memCtl) (h_pwr : ¬ M .pwr) (h_start : ¬ M .start) (h_sdg : ¬ M .sdg) (h_frz : ¬ M .frz) (h_apps : ¬ M .apps) (h_sec : ¬ M .sec) (h_pack : ¬ M .pack) (h_splice : ¬ M .splice) (h_gtime : ¬ M .gtime) (acc : Access) (hz : Keep M z s) :
    KeepN M z (execLowHalfRead acc s) := by
  unfold execLowHalfRead
  repeat' (first
    | with_reducible assumption
    | with_reducible exact Keep.refl _
    | intro _
    | with_reducible apply KeepN.next
    | with_reducible apply accessRead_keep
    | split
    | dsimp -zeta only)

theorem execHighHalfRead_keep {M : Part → Prop} {z s : State} (h_dev : ¬ M .dev) (h_now : ¬ M .now) (h_free : ¬ M .free) (h_regs : ¬ M .regs) (h_hold : ¬ M .hold) (h_od : ¬ M .od) (h_mem : ¬ M .mem) (h_memCtl : ¬ M .memCtl) (h_pwr : ¬ M .pwr) (h_start : ¬ M .start) (h_sdg : ¬ M .sdg) (h_frz : ¬ M .frz) (h_apps : ¬ M .apps) (h_sec : ¬ M .sec) (h_pack : ¬ M .pack) (h_splice : ¬ M .splice) (h_gtime : ¬ M .gtime) (acc : Access) (hz : Keep M z s) :
    KeepN M z (execHighHalfRead acc s) := by
  unfold execHighHalfRead
  repeat' (first
    | with_reducible assumption
    | with_reducible exact Keep.refl _
    | intro _
    | with_reducible apply KeepN.next
    | with_reducible apply accessRead_keep
    | split
    | dsimp -zeta only)

theorem execLowHalfWrite_keep {M : Part → Prop} {z s : State} (h_dev : ¬ M .dev) (h_now : ¬ M .now) (h_free : ¬ M .free) (h_regs : ¬ M .regs) (h_hold : ¬ M .hold) (h_od : ¬ M .od) (h_mem : ¬ M .mem) (h_memCtl : ¬ M .memCtl) (h_pwr : ¬ M .pwr) (h_start : ¬ M .start) (h_sdg : ¬ M .sdg) (h_frz : ¬ M .frz) (h_lock : ¬ M .lock) (h_apps : ¬ M .apps) (h_sec : ¬ M .sec) (h_knots : ¬ M .knots) (h_pack : ¬ M .pack) (h_cim : ¬ M .cim) (h_kennel : ¬ M .kennel) (h_gfx : ¬ M .gfx) (h_pipes : ¬ M .pipes) (h_net : ¬ M .net) (h_can : ¬ M .can) (h_tether : ¬ M .tether) (h_splice : ¬ M .splice) (h_wh : ¬ M .wh) (h_slots : ¬ M .slots) (h_safeSlots : ¬ M .safeSlots) (h_gtime : ¬ M .gtime) (acc : Access) (value : Word) (hz : Keep M z s) :
    KeepN M z (execLowHalfWrite acc value s) := by
  unfold execLowHalfWrite
  repeat' (first
    | with_reducible assumption
    | with_reducible exact Keep.refl _
    | intro _
    | with_reducible apply KeepN.next
    | with_reducible apply accessWrite_keep
    | split
    | dsimp -zeta only)

theorem execHighHalfWrite_keep {M : Part → Prop} {z s : State} (h_dev : ¬ M .dev) (h_now : ¬ M .now) (h_free : ¬ M .free) (h_regs : ¬ M .regs) (h_hold : ¬ M .hold) (h_od : ¬ M .od) (h_mem : ¬ M .mem) (h_memCtl : ¬ M .memCtl) (h_pwr : ¬ M .pwr) (h_start : ¬ M .start) (h_sdg : ¬ M .sdg) (h_frz : ¬ M .frz) (h_lock : ¬ M .lock) (h_apps : ¬ M .apps) (h_sec : ¬ M .sec) (h_knots : ¬ M .knots) (h_pack : ¬ M .pack) (h_cim : ¬ M .cim) (h_kennel : ¬ M .kennel) (h_gfx : ¬ M .gfx) (h_pipes : ¬ M .pipes) (h_net : ¬ M .net) (h_can : ¬ M .can) (h_tether : ¬ M .tether) (h_splice : ¬ M .splice) (h_wh : ¬ M .wh) (h_slots : ¬ M .slots) (h_safeSlots : ¬ M .safeSlots) (h_gtime : ¬ M .gtime) (acc : Access) (value : Word) (hz : Keep M z s) :
    KeepN M z (execHighHalfWrite acc value s) := by
  unfold execHighHalfWrite
  repeat' (first
    | with_reducible assumption
    | with_reducible exact Keep.refl _
    | intro _
    | with_reducible apply KeepN.next
    | with_reducible apply accessWrite_keep
    | split
    | dsimp -zeta only)

theorem execSemaphoreAmo_keep {M : Part → Prop} {z s : State} (h_dev : ¬ M .dev) (h_now : ¬ M .now) (h_free : ¬ M .free) (h_regs : ¬ M .regs) (h_hold : ¬ M .hold) (h_od : ¬ M .od) (h_mem : ¬ M .mem) (h_memCtl : ¬ M .memCtl) (h_pwr : ¬ M .pwr) (h_start : ¬ M .start) (h_sdg : ¬ M .sdg) (h_frz : ¬ M .frz) (h_lock : ¬ M .lock) (h_apps : ¬ M .apps) (h_sec : ¬ M .sec) (h_knots : ¬ M .knots) (h_pack : ¬ M .pack) (h_cim : ¬ M .cim) (h_kennel : ¬ M .kennel) (h_gfx : ¬ M .gfx) (h_pipes : ¬ M .pipes) (h_net : ¬ M .net) (h_can : ¬ M .can) (h_tether : ¬ M .tether) (h_splice : ¬ M .splice) (h_wh : ¬ M .wh) (h_slots : ¬ M .slots) (h_safeSlots : ¬ M .safeSlots) (h_gtime : ¬ M .gtime) (acc : Access) (op : AmoOp) (operand : Word) (far : FarAnswer) (hz : Keep M z s) :
    KeepN M z (execSemaphoreAmo acc op operand far s) := by
  unfold execSemaphoreAmo
  repeat' (first
    | with_reducible assumption
    | with_reducible exact Keep.refl _
    | intro _
    | with_reducible apply KeepN.next
    | with_reducible apply semAmo_keep
    | with_reducible apply regEff_keep
    | split
    | dsimp -zeta only)

theorem execSemaphoreSc_keep {M : Part → Prop} {z s : State} (h_dev : ¬ M .dev) (h_free : ¬ M .free) (h_regs : ¬ M .regs) (h_hold : ¬ M .hold) (h_od : ¬ M .od) (h_mem : ¬ M .mem) (h_memCtl : ¬ M .memCtl) (h_pwr : ¬ M .pwr) (h_start : ¬ M .start) (h_sdg : ¬ M .sdg) (h_frz : ¬ M .frz) (h_lock : ¬ M .lock) (h_apps : ¬ M .apps) (h_sec : ¬ M .sec) (h_knots : ¬ M .knots) (h_pack : ¬ M .pack) (h_cim : ¬ M .cim) (h_kennel : ¬ M .kennel) (h_gfx : ¬ M .gfx) (h_pipes : ¬ M .pipes) (h_net : ¬ M .net) (h_can : ¬ M .can) (h_tether : ¬ M .tether) (h_splice : ¬ M .splice) (h_wh : ¬ M .wh) (h_slots : ¬ M .slots) (h_safeSlots : ¬ M .safeSlots) (acc : Access) (value : Word) (_far : FarAnswer) (hz : Keep M z s) :
    KeepN M z (execSemaphoreSc acc value _far s) := by
  unfold execSemaphoreSc
  repeat' (first
    | with_reducible assumption
    | with_reducible exact Keep.refl _
    | intro _
    | with_reducible apply KeepN.next
    | with_reducible apply semSc_keep
    | with_reducible apply regEff_keep
    | split
    | dsimp -zeta only)

theorem execPcieInboundRequest_keep {M : Part → Prop} {z s : State} (h_dev : ¬ M .dev) (h_now : ¬ M .now) (h_free : ¬ M .free) (h_regs : ¬ M .regs) (h_hold : ¬ M .hold) (h_od : ¬ M .od) (h_mem : ¬ M .mem) (h_memCtl : ¬ M .memCtl) (h_pwr : ¬ M .pwr) (h_start : ¬ M .start) (h_sdg : ¬ M .sdg) (h_frz : ¬ M .frz) (h_lock : ¬ M .lock) (h_apps : ¬ M .apps) (h_sec : ¬ M .sec) (h_knots : ¬ M .knots) (h_pack : ¬ M .pack) (h_cim : ¬ M .cim) (h_kennel : ¬ M .kennel) (h_gfx : ¬ M .gfx) (h_pipes : ¬ M .pipes) (h_net : ¬ M .net) (h_can : ¬ M .can) (h_tether : ¬ M .tether) (h_splice : ¬ M .splice) (h_wh : ¬ M .wh) (h_slots : ¬ M .slots) (h_safeSlots : ¬ M .safeSlots) (h_gtime : ¬ M .gtime) (busAddr : Nat) (len : Nat) (wr : Option (List (Option Byte))) (hz : Keep M z s) :
    KeepN M z (execPcieInboundRequest busAddr len wr s) := by
  unfold execPcieInboundRequest
  repeat' (first
    | with_reducible assumption
    | with_reducible exact Keep.refl _
    | intro _
    | with_reducible apply KeepN.next
    | with_reducible apply pcieInbound_keep
    | with_reducible apply regEff_keep
    | split
    | dsimp -zeta only)

theorem execFarMasterCycle_keep {M : Part → Prop} {z s : State} (h_dev : ¬ M .dev) (h_now : ¬ M .now) (h_free : ¬ M .free) (h_regs : ¬ M .regs) (h_hold : ¬ M .hold) (h_od : ¬ M .od) (h_mem : ¬ M .mem) (h_memCtl : ¬ M .memCtl) (h_pwr : ¬ M .pwr) (h_start : ¬ M .start) (h_sdg : ¬ M .sdg) (h_frz : ¬ M .frz) (h_lock : ¬ M .lock) (h_apps : ¬ M .apps) (h_sec : ¬ M .sec) (h_knots : ¬ M .knots) (h_pack : ¬ M .pack) (h_cim : ¬ M .cim) (h_kennel : ¬ M .kennel) (h_gfx : ¬ M .gfx) (h_pipes : ¬ M .pipes) (h_net : ¬ M .net) (h_can : ¬ M .can) (h_tether : ¬ M .tether) (h_splice : ¬ M .splice) (h_wh : ¬ M .wh) (h_slots : ¬ M .slots) (h_safeSlots : ¬ M .safeSlots) (h_gtime : ¬ M .gtime) (farAddr : Nat) (len : Nat) (wr : Option (List (Option Byte))) (hz : Keep M z s) :
    KeepN M z (execFarMasterCycle farAddr len wr s) := by
  unfold execFarMasterCycle
  repeat' (first
    | with_reducible assumption
    | with_reducible exact Keep.refl _
    | intro _
    | with_reducible apply KeepN.next
    | with_reducible apply farCycle_keep
    | with_reducible apply regEff_keep
    | split
    | dsimp -zeta only)

end Sys2Proof.Machine
end

