-- ==== Sys2Proof/Laws/KeepOd.lean ====
section
/-! SUPPORT. What the operations of Machine/Od.lean keep: one lemma each. -/

namespace Sys2Proof.Machine

theorem changeCounter_keep {M : Part → Prop} {z s : State} (h_free : ¬ M .free) (h_odChange : ¬ M .odChange) (h_leash : ¬ M .leash) (k : Nat) (hz : Keep M z s) :
    KeepP M z (changeCounter k s) := by
  unfold changeCounter
  repeat' (first
    | with_reducible assumption
    | with_reducible exact Keep.refl _
    | intro _
    | ((fail_if_success (conv => arg 3; arg 1)); extract_lets +onlyGivenNames t; refine KeepP.cut t ?_ ?_; subst t; rotate_left; clear_value t; intro ht; rotate_right)
    | ((fail_if_success (conv => arg 3; arg 1)); extract_lets +onlyGivenNames t; refine Keep.cut t ?_ ?_; subst t; rotate_left; clear_value t; intro ht; rotate_right)
    | ((fail_if_success (conv => arg 3; arg 1)); extract_lets +onlyGivenNames t; subst t)
    | with_reducible apply takeFree_keep
    | ((fail_if_success (fail_if_success (conv => arg 3; arg 39))); with_reducible apply Keep.upd_odChange_leash)
    | with_reducible apply Keep.ite
    | with_reducible apply KeepP.ite
    | ((fail_if_success (conv => arg 3; arg 3)); with_reducible apply KeepP.mk')
    | split
    | dsimp -zeta only)

theorem changeCounter_keep_of {M : Part → Prop} {k : Nat} {z s u_ : State} {o_ : Nat} (e_ : changeCounter k s = (u_, o_)) (h_free : ¬ M .free) (h_odChange : ¬ M .odChange) (h_leash : ¬ M .leash)
    (hz : Keep M z s) : Keep M z u_ :=
  (changeCounter_keep h_free h_odChange h_leash _ hz).of e_

theorem odTouch_keep {M : Part → Prop} {z s : State} (h_net : ¬ M .net) (k : Nat) (hz : Keep M z s) :
    Keep M z (odTouch k s) := by
  unfold odTouch
  repeat' (first
    | with_reducible assumption
    | with_reducible exact Keep.refl _
    | intro _
    | ((fail_if_success (fail_if_success (conv => arg 3; arg 39))); with_reducible apply Keep.upd_net)
    | with_reducible apply Keep.ite
    | split
    | dsimp -zeta only)

theorem storeBegin_keep {M : Part → Prop} {z s : State} (h_leash : ¬ M .leash) (h_params : ¬ M .params) (m : LeashMsg) (hz : Keep M z s) :
    Keep M z (storeBegin m s) := by
  unfold storeBegin
  repeat' (first
    | with_reducible assumption
    | with_reducible exact Keep.refl _
    | intro _
    | ((fail_if_success (conv => arg 3; arg 1)); extract_lets +onlyGivenNames t; refine Keep.cut t ?_ ?_; subst t; rotate_left; clear_value t; intro ht; rotate_right)
    | ((fail_if_success (conv => arg 3; arg 1)); extract_lets +onlyGivenNames t; subst t)
    | ((fail_if_success (fail_if_success (conv => arg 3; arg 39))); with_reducible apply Keep.upd_leash_params)
    | with_reducible apply Keep.ite
    | with_reducible apply KeepP.fst
    | split
    | dsimp -zeta only)

theorem storeWritten_keep {M : Part → Prop} {z s : State} (h_od : ¬ M .od) (h_params : ¬ M .params) (r : StoreRun) (hz : Keep M z s) :
    Keep M z (storeWritten r s) := by
  unfold storeWritten
  repeat' (first
    | with_reducible assumption
    | with_reducible exact Keep.refl _
    | intro _
    | ((fail_if_success (conv => arg 3; arg 1)); extract_lets +onlyGivenNames t; refine Keep.cut t ?_ ?_; subst t; rotate_left; clear_value t; intro ht; rotate_right)
    | ((fail_if_success (conv => arg 3; arg 1)); extract_lets +onlyGivenNames t; subst t)
    | with_reducible apply odPut_keep
    | ((fail_if_success (fail_if_success (conv => arg 3; arg 39))); with_reducible apply Keep.upd_params)
    | with_reducible apply Keep.ite
    | split
    | dsimp -zeta only)

theorem historyClear_keep {M : Part → Prop} {z s : State} (h_od : ¬ M .od) (hz : Keep M z s) :
    Keep M z (historyClear s) := by
  unfold historyClear
  repeat' (first
    | with_reducible assumption
    | with_reducible exact Keep.refl _
    | intro _
    | with_reducible apply odPut_keep
    | with_reducible apply Keep.foldl
    | split
    | dsimp -zeta only)

theorem putCred_keep {M : Part → Prop} {z s : State} (h_leash : ¬ M .leash) (r : Nat) (v : List Byte) (hz : Keep M z s) :
    Keep M z (putCred r v s) := by
  unfold putCred
  repeat' (first
    | with_reducible assumption
    | with_reducible exact Keep.refl _
    | intro _
    | ((fail_if_success (conv => arg 3; arg 1)); extract_lets +onlyGivenNames t; refine Keep.cut t ?_ ?_; subst t; rotate_left; clear_value t; intro ht; rotate_right)
    | ((fail_if_success (conv => arg 3; arg 1)); extract_lets +onlyGivenNames t; subst t)
    | ((fail_if_success (fail_if_success (conv => arg 3; arg 39))); with_reducible apply Keep.upd_leash)
    | with_reducible apply Keep.ite
    | split
    | dsimp -zeta only)

theorem odTake_keep {M : Part → Prop} {z s : State} (h_od : ¬ M .od) (h_odBlob : ¬ M .odBlob) (h_odChange : ¬ M .odChange) (k : Nat) (v : Nat) (blob : List Byte) (r : OdRow) (hz : Keep M z s) :
    Keep M z (odTake k v blob r s) := by
  unfold odTake
  repeat' (first
    | with_reducible assumption
    | with_reducible exact Keep.refl _
    | intro _
    | ((fail_if_success (conv => arg 3; arg 1)); extract_lets +onlyGivenNames t; refine Keep.cut t ?_ ?_; subst t; rotate_left; clear_value t; intro ht; rotate_right)
    | ((fail_if_success (conv => arg 3; arg 1)); extract_lets +onlyGivenNames t; subst t)
    | with_reducible apply odPut_keep
    | with_reducible apply blobPut_keep
    | with_reducible apply Keep.ite
    | split
    | dsimp -zeta only)

theorem sysApply_keep {M : Part → Prop} {z s : State} (h_dev : ¬ M .dev) (h_regs : ¬ M .regs) (h_od : ¬ M .od) (h_pwr : ¬ M .pwr) (h_start : ¬ M .start) (h_sdg : ¬ M .sdg) (h_frz : ¬ M .frz) (h_leash : ¬ M .leash) (h_params : ¬ M .params) (h_canopen : ¬ M .canopen) (h_splice : ¬ M .splice) (h_wh : ¬ M .wh) (k : Nat) (v : Nat) (blob : List Byte) (hz : Keep M z s) :
    Keep M z (sysApply k v blob s) := by
  unfold sysApply
  repeat' (first
    | with_reducible assumption
    | with_reducible exact Keep.refl _
    | intro _
    | with_reducible apply whKey_keep
    | with_reducible apply requestRestart_keep
    | with_reducible apply historyClear_keep
    | with_reducible apply putCred_keep
    | ((fail_if_success (fail_if_success (conv => arg 3; arg 39))); with_reducible apply Keep.upd_canopen)
    | ((fail_if_success (fail_if_success (conv => arg 3; arg 39))); with_reducible apply Keep.upd_params)
    | with_reducible apply Keep.ite
    | split
    | dsimp -zeta only)

theorem odApply_keep {M : Part → Prop} {z s : State} (h_dev : ¬ M .dev) (h_free : ¬ M .free) (h_regs : ¬ M .regs) (h_hold : ¬ M .hold) (h_od : ¬ M .od) (h_odBlob : ¬ M .odBlob) (h_odChange : ¬ M .odChange) (h_mem : ¬ M .mem) (h_memCtl : ¬ M .memCtl) (h_pwr : ¬ M .pwr) (h_start : ¬ M .start) (h_sdg : ¬ M .sdg) (h_frz : ¬ M .frz) (h_leash : ¬ M .leash) (h_params : ¬ M .params) (h_canopen : ¬ M .canopen) (h_sec : ¬ M .sec) (h_fuses : ¬ M .fuses) (h_knots : ¬ M .knots) (h_pack : ¬ M .pack) (h_cim : ¬ M .cim) (h_kennel : ¬ M .kennel) (h_cams : ¬ M .cams) (h_gfx : ¬ M .gfx) (h_pipes : ¬ M .pipes) (h_net : ¬ M .net) (h_can : ¬ M .can) (h_splice : ¬ M .splice) (h_wh : ¬ M .wh) (h_slots : ¬ M .slots) (h_safeSlots : ¬ M .safeSlots) (k : Nat) (v : Nat) (blob : List Byte) (r : OdRow) (hz : Keep M z s) :
    Keep M z (odApply k v blob r s) := by
  unfold odApply
  repeat' (first
    | with_reducible assumption
    | with_reducible exact Keep.refl _
    | intro _
    | ((fail_if_success (conv => arg 3; arg 1)); extract_lets +onlyGivenNames t; refine Keep.cut t ?_ ?_; subst t; rotate_left; clear_value t; intro ht; rotate_right)
    | ((fail_if_success (conv => arg 3; arg 1)); extract_lets +onlyGivenNames t; subst t)
    | with_reducible apply rosterApply_keep
    | with_reducible apply instApply_keep
    | with_reducible apply camApply_keep
    | with_reducible apply dispApply_keep
    | with_reducible apply knotApply_keep
    | with_reducible apply fuseApply_keep
    | with_reducible apply netApply_keep
    | with_reducible apply frzApply_keep
    | with_reducible apply spliceApply_keep
    | with_reducible apply odTake_keep
    | with_reducible apply sysApply_keep
    | split
    | dsimp -zeta only)

theorem odFinish_keep {M : Part → Prop} {z s : State} (h_dev : ¬ M .dev) (h_free : ¬ M .free) (h_regs : ¬ M .regs) (h_hold : ¬ M .hold) (h_od : ¬ M .od) (h_odBlob : ¬ M .odBlob) (h_odChange : ¬ M .odChange) (h_mem : ¬ M .mem) (h_memCtl : ¬ M .memCtl) (h_pwr : ¬ M .pwr) (h_start : ¬ M .start) (h_sdg : ¬ M .sdg) (h_frz : ¬ M .frz) (h_leash : ¬ M .leash) (h_params : ¬ M .params) (h_canopen : ¬ M .canopen) (h_sec : ¬ M .sec) (h_fuses : ¬ M .fuses) (h_knots : ¬ M .knots) (h_pack : ¬ M .pack) (h_cim : ¬ M .cim) (h_kennel : ¬ M .kennel) (h_cams : ¬ M .cams) (h_gfx : ¬ M .gfx) (h_pipes : ¬ M .pipes) (h_net : ¬ M .net) (h_can : ¬ M .can) (h_splice : ¬ M .splice) (h_wh : ¬ M .wh) (h_slots : ¬ M .slots) (h_safeSlots : ¬ M .safeSlots) (k : Nat) (r : OdRow) (val : List Byte) (commit : Bool) (m : LeashMsg) (hz : Keep M z s) :
    KeepP M z (odFinish k r val commit m s) := by
  unfold odFinish
  repeat' (first
    | with_reducible assumption
    | with_reducible exact Keep.refl _
    | intro _
    | ((fail_if_success (conv => arg 3; arg 1)); extract_lets +onlyGivenNames t; refine KeepP.cut t ?_ ?_; subst t; rotate_left; clear_value t; intro ht; rotate_right)
    | ((fail_if_success (conv => arg 3; arg 1)); extract_lets +onlyGivenNames t; refine Keep.cut t ?_ ?_; subst t; rotate_left; clear_value t; intro ht; rotate_right)
    | ((fail_if_success (conv => arg 3; arg 1)); extract_lets +onlyGivenNames t; subst t)
    | with_reducible apply storeBegin_keep
    | with_reducible apply odApply_keep
    | ((fail_if_success (fail_if_success (conv => arg 3; arg 39))); with_reducible apply Keep.upd_leash)
    | with_reducible apply Keep.ite
    | with_reducible apply KeepP.ite
    | ((fail_if_success (conv => arg 3; arg 3)); with_reducible apply KeepP.mk')
    | split
    | dsimp -zeta only)

theorem odFinish_keep_of {M : Part → Prop} {k : Nat} {r : OdRow} {val : List Byte} {commit : Bool} {m : LeashMsg} {z s u_ : State} {o_ : Option Nat} (e_ : odFinish k r val commit m s = (u_, o_)) (h_dev : ¬ M .dev) (h_free : ¬ M .free) (h_regs : ¬ M .regs) (h_hold : ¬ M .hold) (h_od : ¬ M .od) (h_odBlob : ¬ M .odBlob) (h_odChange : ¬ M .odChange) (h_mem : ¬ M .mem) (h_memCtl : ¬ M .memCtl) (h_pwr : ¬ M .pwr) (h_start : ¬ M .start) (h_sdg : ¬ M .sdg) (h_frz : ¬ M .frz) (h_leash : ¬ M .leash) (h_params : ¬ M .params) (h_canopen : ¬ M .canopen) (h_sec : ¬ M .sec) (h_fuses : ¬ M .fuses) (h_knots : ¬ M .knots) (h_pack : ¬ M .pack) (h_cim : ¬ M .cim) (h_kennel : ¬ M .kennel) (h_cams : ¬ M .cams) (h_gfx : ¬ M .gfx) (h_pipes : ¬ M .pipes) (h_net : ¬ M .net) (h_can : ¬ M .can) (h_splice : ¬ M .splice) (h_wh : ¬ M .wh) (h_slots : ¬ M .slots) (h_safeSlots : ¬ M .safeSlots)
    (hz : Keep M z s) : Keep M z u_ :=
  (odFinish_keep h_dev h_free h_regs h_hold h_od h_odBlob h_odChange h_mem h_memCtl h_pwr h_start h_sdg h_frz h_leash h_params h_canopen h_sec h_fuses h_knots h_pack h_cim h_kennel h_cams h_gfx h_pipes h_net h_can h_splice h_wh h_slots h_safeSlots _ _ _ _ _ hz).of e_

theorem odWrite_keep {M : Part → Prop} {z s : State} (h_dev : ¬ M .dev) (h_free : ¬ M .free) (h_regs : ¬ M .regs) (h_hold : ¬ M .hold) (h_od : ¬ M .od) (h_odBlob : ¬ M .odBlob) (h_odChange : ¬ M .odChange) (h_mem : ¬ M .mem) (h_memCtl : ¬ M .memCtl) (h_pwr : ¬ M .pwr) (h_start : ¬ M .start) (h_sdg : ¬ M .sdg) (h_frz : ¬ M .frz) (h_leash : ¬ M .leash) (h_params : ¬ M .params) (h_canopen : ¬ M .canopen) (h_sec : ¬ M .sec) (h_fuses : ¬ M .fuses) (h_knots : ¬ M .knots) (h_pack : ¬ M .pack) (h_cim : ¬ M .cim) (h_kennel : ¬ M .kennel) (h_cams : ¬ M .cams) (h_gfx : ¬ M .gfx) (h_pipes : ¬ M .pipes) (h_net : ¬ M .net) (h_can : ¬ M .can) (h_splice : ¬ M .splice) (h_wh : ¬ M .wh) (h_slots : ¬ M .slots) (h_safeSlots : ¬ M .safeSlots) (k : Nat) (role : Nat) (val : List Byte) (segmented : Bool) (commit : Bool) (m : LeashMsg) (hz : Keep M z s) :
    KeepP M z (odWrite k role val segmented commit m s) := by
  unfold odWrite
  repeat' (first
    | with_reducible assumption
    | with_reducible exact Keep.refl _
    | intro _
    | with_reducible apply odCount_keep
    | with_reducible apply odFinish_keep
    | ((with_reducible apply odFinish_keep_of); with_reducible assumption)
    | with_reducible apply Keep.ite
    | with_reducible apply KeepP.ite
    | ((fail_if_success (conv => arg 3; arg 3)); with_reducible apply KeepP.mk')
    | with_reducible apply KeepP.fst
    | split
    | dsimp -zeta only)

theorem odWrite_keep_of {M : Part → Prop} {k : Nat} {role : Nat} {val : List Byte} {segmented : Bool} {commit : Bool} {m : LeashMsg} {z s u_ : State} {o_ : Option Nat} (e_ : odWrite k role val segmented commit m s = (u_, o_)) (h_dev : ¬ M .dev) (h_free : ¬ M .free) (h_regs : ¬ M .regs) (h_hold : ¬ M .hold) (h_od : ¬ M .od) (h_odBlob : ¬ M .odBlob) (h_odChange : ¬ M .odChange) (h_mem : ¬ M .mem) (h_memCtl : ¬ M .memCtl) (h_pwr : ¬ M .pwr) (h_start : ¬ M .start) (h_sdg : ¬ M .sdg) (h_frz : ¬ M .frz) (h_leash : ¬ M .leash) (h_params : ¬ M .params) (h_canopen : ¬ M .canopen) (h_sec : ¬ M .sec) (h_fuses : ¬ M .fuses) (h_knots : ¬ M .knots) (h_pack : ¬ M .pack) (h_cim : ¬ M .cim) (h_kennel : ¬ M .kennel) (h_cams : ¬ M .cams) (h_gfx : ¬ M .gfx) (h_pipes : ¬ M .pipes) (h_net : ¬ M .net) (h_can : ¬ M .can) (h_splice : ¬ M .splice) (h_wh : ¬ M .wh) (h_slots : ¬ M .slots) (h_safeSlots : ¬ M .safeSlots)
    (hz : Keep M z s) : Keep M z u_ :=
  (odWrite_keep h_dev h_free h_regs h_hold h_od h_odBlob h_odChange h_mem h_memCtl h_pwr h_start h_sdg h_frz h_leash h_params h_canopen h_sec h_fuses h_knots h_pack h_cim h_kennel h_cams h_gfx h_pipes h_net h_can h_splice h_wh h_slots h_safeSlots _ _ _ _ _ _ hz).of e_

end Sys2Proof.Machine
end

