-- ==== Sys2Proof/Laws/KeepCanOpen.lean ====
section
/-! SUPPORT. What the operations of Machine/CanOpen.lean keep: one lemma each. -/

namespace Sys2Proof.Machine

theorem usdoAbort_keep {M : Part → Prop} {z s : State} (h_od : ¬ M .od) (k : Nat) (hz : Keep M z s) :
    Keep M z (usdoAbort k s) := by
  unfold usdoAbort
  repeat' (first
    | with_reducible assumption
    | with_reducible exact Keep.refl _
    | intro _
    | with_reducible apply emit_keep
    | with_reducible apply odCount_keep
    | split
    | dsimp -zeta only)

theorem execUsdoUpload_keep {M : Part → Prop} {z s : State} (h_od : ¬ M .od) (h_net : ¬ M .net) (index : Nat) (sub : Nat) (hz : Keep M z s) :
    KeepN M z (execUsdoUpload index sub s) := by
  unfold execUsdoUpload
  repeat' (first
    | with_reducible assumption
    | with_reducible exact Keep.refl _
    | intro _
    | with_reducible apply KeepN.next
    | ((fail_if_success (conv => arg 3; arg 1)); extract_lets +onlyGivenNames t; refine KeepN.cut t ?_ ?_; subst t; rotate_left; clear_value t; intro ht; rotate_right)
    | ((fail_if_success (conv => arg 3; arg 1)); extract_lets +onlyGivenNames t; refine Keep.cut t ?_ ?_; subst t; rotate_left; clear_value t; intro ht; rotate_right)
    | ((fail_if_success (conv => arg 3; arg 1)); extract_lets +onlyGivenNames t; subst t)
    | with_reducible apply emit_keep
    | with_reducible apply odTouch_keep
    | with_reducible apply usdoAbort_keep
    | with_reducible apply Keep.ite
    | with_reducible apply KeepN.ite
    | split
    | dsimp -zeta only)

theorem execUsdoDownload_keep {M : Part → Prop} {z s : State} (h_od : ¬ M .od) (index : Nat) (sub : Nat) (hz : Keep M z s) :
    KeepN M z (execUsdoDownload index sub s) := by
  unfold execUsdoDownload
  repeat' (first
    | with_reducible assumption
    | with_reducible exact Keep.refl _
    | intro _
    | with_reducible apply KeepN.next
    | with_reducible apply usdoAbort_keep
    | with_reducible apply Keep.ite
    | with_reducible apply KeepN.ite
    | split
    | dsimp -zeta only)

theorem execNmtCommand_keep {M : Part → Prop} {z s : State} (h_od : ¬ M .od) (_command : Nat) (_node : Nat) (hz : Keep M z s) :
    KeepN M z (execNmtCommand _command _node s) := by
  unfold execNmtCommand
  repeat' (first
    | with_reducible assumption
    | with_reducible exact Keep.refl _
    | intro _
    | with_reducible apply KeepN.next
    | with_reducible apply odCount_keep
    | with_reducible apply Keep.ite
    | with_reducible apply KeepN.ite
    | split
    | dsimp -zeta only)

theorem execHeartbeatProducer_keep {M : Part → Prop} {z s : State} (h_now : ¬ M .now) (h_canopen : ¬ M .canopen) (h_can : ¬ M .can) (h_gtime : ¬ M .gtime) (hz : Keep M z s) :
    KeepN M z (execHeartbeatProducer s) := by
  unfold execHeartbeatProducer
  repeat' (first
    | with_reducible assumption
    | with_reducible exact Keep.refl _
    | intro _
    | with_reducible apply KeepN.next
    | ((fail_if_success (conv => arg 3; arg 1)); extract_lets +onlyGivenNames t; refine KeepN.cut t ?_ ?_; subst t; rotate_left; clear_value t; intro ht; rotate_right)
    | ((fail_if_success (conv => arg 3; arg 1)); extract_lets +onlyGivenNames t; refine Keep.cut t ?_ ?_; subst t; rotate_left; clear_value t; intro ht; rotate_right)
    | ((fail_if_success (conv => arg 3; arg 1)); extract_lets +onlyGivenNames t; subst t)
    | with_reducible apply advanceTo_keep
    | with_reducible apply nodeSend_keep
    | ((fail_if_success (fail_if_success (conv => arg 3; arg 39))); with_reducible apply Keep.upd_canopen)
    | with_reducible apply Keep.ite
    | with_reducible apply KeepN.ite
    | split
    | dsimp -zeta only)

theorem execTpdoEventTimer_keep {M : Part → Prop} {z s : State} (h_now : ¬ M .now) (h_canopen : ¬ M .canopen) (h_can : ¬ M .can) (h_gtime : ¬ M .gtime) (n : Fin 16) (hz : Keep M z s) :
    KeepN M z (execTpdoEventTimer n s) := by
  unfold execTpdoEventTimer
  repeat' (first
    | with_reducible assumption
    | with_reducible exact Keep.refl _
    | intro _
    | with_reducible apply KeepN.next
    | ((fail_if_success (conv => arg 3; arg 1)); extract_lets +onlyGivenNames t; refine KeepN.cut t ?_ ?_; subst t; rotate_left; clear_value t; intro ht; rotate_right)
    | ((fail_if_success (conv => arg 3; arg 1)); extract_lets +onlyGivenNames t; refine Keep.cut t ?_ ?_; subst t; rotate_left; clear_value t; intro ht; rotate_right)
    | ((fail_if_success (conv => arg 3; arg 1)); extract_lets +onlyGivenNames t; subst t)
    | with_reducible apply advanceTo_keep
    | with_reducible apply nodeSend_keep
    | ((fail_if_success (fail_if_success (conv => arg 3; arg 39))); with_reducible apply Keep.upd_canopen)
    | with_reducible apply Keep.ite
    | with_reducible apply KeepN.ite
    | split
    | dsimp -zeta only)

end Sys2Proof.Machine
end

