-- ==== Sys2Proof/Laws/KeepLeash.lean ====
section
/-! SUPPORT. What the operations of Machine/Leash.lean keep: one lemma each. -/

namespace Sys2Proof.Machine

theorem tagDiscard_keep {M : Part → Prop} {z s : State} (h_od : ¬ M .od) (hz : Keep M z s) :
    Keep M z (tagDiscard s) := by
  unfold tagDiscard
  repeat' (first
    | with_reducible assumption
    | with_reducible exact Keep.refl _
    | intro _
    | with_reducible apply odCount_keep
    | split
    | dsimp -zeta only)

theorem putSession_keep {M : Part → Prop} {z s : State} (h_leash : ¬ M .leash) (i : Nat) (x : Option Session) (hz : Keep M z s) :
    Keep M z (putSession i x s) := by
  unfold putSession
  repeat' (first
    | with_reducible assumption
    | with_reducible exact Keep.refl _
    | intro _
    | ((fail_if_success (fail_if_success (conv => arg 3; arg 39))); with_reducible apply Keep.upd_leash)
    | split
    | dsimp -zeta only)

theorem closeSession_keep {M : Part → Prop} {z s : State} (h_leash : ¬ M .leash) (i : Nat) (hz : Keep M z s) :
    Keep M z (closeSession i s) := by
  unfold closeSession
  repeat' (first
    | with_reducible assumption
    | with_reducible exact Keep.refl _
    | intro _
    | ((fail_if_success (conv => arg 3; arg 1)); extract_lets +onlyGivenNames t; refine Keep.cut t ?_ ?_; subst t; rotate_left; clear_value t; intro ht; rotate_right)
    | ((fail_if_success (conv => arg 3; arg 1)); extract_lets +onlyGivenNames t; subst t)
    | with_reducible apply putSession_keep
    | ((fail_if_success (fail_if_success (conv => arg 3; arg 39))); with_reducible apply Keep.upd_leash)
    | with_reducible apply KeepP.fst
    | split
    | dsimp -zeta only)

theorem leashHelloEff_keep {M : Part → Prop} {z s : State} (h_free : ¬ M .free) (h_leash : ¬ M .leash) (m : LeashMsg) (hz : Keep M z s) :
    Keep M z (leashHelloEff m s) := by
  unfold leashHelloEff
  repeat' (first
    | with_reducible assumption
    | with_reducible exact Keep.refl _
    | intro _
    | ((fail_if_success (conv => arg 3; arg 1)); extract_lets +onlyGivenNames t; refine Keep.cut t ?_ ?_; subst t; rotate_left; clear_value t; intro ht; rotate_right)
    | ((fail_if_success (conv => arg 3; arg 1)); extract_lets +onlyGivenNames t; subst t)
    | with_reducible apply emit_keep
    | with_reducible apply takeFree_keep
    | with_reducible apply putSession_keep
    | with_reducible apply Keep.ite
    | with_reducible apply KeepP.fst
    | split
    | dsimp -zeta only)

theorem proveFailed_keep {M : Part → Prop} {z s : State} (h_od : ¬ M .od) (h_leash : ¬ M .leash) (i : Nat) (x : Session) (m : LeashMsg) (hz : Keep M z s) :
    Keep M z (proveFailed i x m s) := by
  unfold proveFailed
  repeat' (first
    | with_reducible assumption
    | with_reducible exact Keep.refl _
    | intro _
    | ((fail_if_success (conv => arg 3; arg 1)); extract_lets +onlyGivenNames t; refine Keep.cut t ?_ ?_; subst t; rotate_left; clear_value t; intro ht; rotate_right)
    | ((fail_if_success (conv => arg 3; arg 1)); extract_lets +onlyGivenNames t; subst t)
    | with_reducible apply emit_keep
    | with_reducible apply odCount_keep
    | with_reducible apply closeSession_keep
    | ((fail_if_success (fail_if_success (conv => arg 3; arg 39))); with_reducible apply Keep.upd_leash)
    | with_reducible apply Keep.ite
    | split
    | dsimp -zeta only)

theorem proveEff_keep {M : Part → Prop} {z s : State} (h_leash : ¬ M .leash) (i : Nat) (x : Session) (m : LeashMsg) (hz : Keep M z s) :
    Keep M z (proveEff i x m s) := by
  unfold proveEff
  repeat' (first
    | with_reducible assumption
    | with_reducible exact Keep.refl _
    | intro _
    | ((fail_if_success (conv => arg 3; arg 1)); extract_lets +onlyGivenNames t; refine Keep.cut t ?_ ?_; subst t; rotate_left; clear_value t; intro ht; rotate_right)
    | ((fail_if_success (conv => arg 3; arg 1)); extract_lets +onlyGivenNames t; subst t)
    | with_reducible apply emit_keep
    | with_reducible apply putSession_keep
    | ((fail_if_success (fail_if_success (conv => arg 3; arg 39))); with_reducible apply Keep.upd_leash)
    | with_reducible apply Keep.ite
    | split
    | dsimp -zeta only)

theorem leashAnswer_keep {M : Part → Prop} {z s : State} (h_leash : ¬ M .leash) (m : LeashMsg) (status : Nat) (payload : List Byte) (hz : Keep M z s) :
    Keep M z (leashAnswer m status payload s) := by
  unfold leashAnswer
  repeat' (first
    | with_reducible assumption
    | with_reducible exact Keep.refl _
    | intro _
    | ((fail_if_success (conv => arg 3; arg 1)); extract_lets +onlyGivenNames t; refine Keep.cut t ?_ ?_; subst t; rotate_left; clear_value t; intro ht; rotate_right)
    | ((fail_if_success (conv => arg 3; arg 1)); extract_lets +onlyGivenNames t; subst t)
    | with_reducible apply emit_keep
    | with_reducible apply putSession_keep
    | with_reducible apply closeSession_keep
    | with_reducible apply Keep.ite
    | split
    | dsimp -zeta only)

theorem closeRole_keep {M : Part → Prop} {z s : State} (h_leash : ¬ M .leash) (role : Nat) (hz : Keep M z s) :
    Keep M z (closeRole role s) := by
  unfold closeRole
  repeat' (first
    | with_reducible assumption
    | with_reducible exact Keep.refl _
    | intro _
    | with_reducible apply closeSession_keep
    | with_reducible apply Keep.ite
    | with_reducible apply Keep.foldl
    | split
    | dsimp -zeta only)

theorem reqRead_keep {M : Part → Prop} {z s : State} (h_leash : ¬ M .leash) (h_net : ¬ M .net) (x : Session) (m : LeashMsg) (hz : Keep M z s) :
    Keep M z (reqRead x m s) := by
  unfold reqRead
  repeat' (first
    | with_reducible assumption
    | with_reducible exact Keep.refl _
    | intro _
    | ((fail_if_success (conv => arg 3; arg 1)); extract_lets +onlyGivenNames t; refine Keep.cut t ?_ ?_; subst t; rotate_left; clear_value t; intro ht; rotate_right)
    | ((fail_if_success (conv => arg 3; arg 1)); extract_lets +onlyGivenNames t; subst t)
    | with_reducible apply odTouch_keep
    | with_reducible apply leashAnswer_keep
    | split
    | dsimp -zeta only)

theorem reqWrite_keep {M : Part → Prop} {z s : State} (h_dev : ¬ M .dev) (h_free : ¬ M .free) (h_regs : ¬ M .regs) (h_hold : ¬ M .hold) (h_od : ¬ M .od) (h_odBlob : ¬ M .odBlob) (h_odChange : ¬ M .odChange) (h_mem : ¬ M .mem) (h_memCtl : ¬ M .memCtl) (h_pwr : ¬ M .pwr) (h_start : ¬ M .start) (h_sdg : ¬ M .sdg) (h_frz : ¬ M .frz) (h_leash : ¬ M .leash) (h_params : ¬ M .params) (h_canopen : ¬ M .canopen) (h_sec : ¬ M .sec) (h_fuses : ¬ M .fuses) (h_knots : ¬ M .knots) (h_pack : ¬ M .pack) (h_cim : ¬ M .cim) (h_kennel : ¬ M .kennel) (h_cams : ¬ M .cams) (h_gfx : ¬ M .gfx) (h_pipes : ¬ M .pipes) (h_net : ¬ M .net) (h_can : ¬ M .can) (h_splice : ¬ M .splice) (h_wh : ¬ M .wh) (h_slots : ¬ M .slots) (h_safeSlots : ¬ M .safeSlots) (x : Session) (m : LeashMsg) (commit : Bool) (hz : Keep M z s) :
    Keep M z (reqWrite x m commit s) := by
  unfold reqWrite
  repeat' (first
    | with_reducible assumption
    | with_reducible exact Keep.refl _
    | intro _
    | ((fail_if_success (conv => arg 3; arg 1)); extract_lets +onlyGivenNames t; refine Keep.cut t ?_ ?_; subst t; rotate_left; clear_value t; intro ht; rotate_right)
    | ((fail_if_success (conv => arg 3; arg 1)); extract_lets +onlyGivenNames t; subst t)
    | with_reducible apply odWrite_keep
    | ((with_reducible apply odWrite_keep_of); with_reducible assumption)
    | with_reducible apply leashAnswer_keep
    | with_reducible apply closeRole_keep
    | with_reducible apply Keep.ite
    | with_reducible apply KeepP.fst
    | split
    | dsimp -zeta only)

theorem reqSegReadInit_keep {M : Part → Prop} {z s : State} (h_free : ¬ M .free) (h_odChange : ¬ M .odChange) (h_leash : ¬ M .leash) (i : Nat) (x : Session) (m : LeashMsg) (hz : Keep M z s) :
    Keep M z (reqSegReadInit i x m s) := by
  unfold reqSegReadInit
  repeat' (first
    | with_reducible assumption
    | with_reducible exact Keep.refl _
    | intro _
    | ((fail_if_success (conv => arg 3; arg 1)); extract_lets +onlyGivenNames t; refine Keep.cut t ?_ ?_; subst t; rotate_left; clear_value t; intro ht; rotate_right)
    | ((fail_if_success (conv => arg 3; arg 1)); extract_lets +onlyGivenNames t; subst t)
    | with_reducible apply changeCounter_keep
    | ((with_reducible apply changeCounter_keep_of); with_reducible assumption)
    | with_reducible apply putSession_keep
    | with_reducible apply leashAnswer_keep
    | with_reducible apply Keep.ite
    | with_reducible apply KeepP.fst
    | split
    | dsimp -zeta only)

theorem reqSegRead_keep {M : Part → Prop} {z s : State} (h_free : ¬ M .free) (h_odChange : ¬ M .odChange) (h_leash : ¬ M .leash) (i : Nat) (x : Session) (m : LeashMsg) (hz : Keep M z s) :
    Keep M z (reqSegRead i x m s) := by
  unfold reqSegRead
  repeat' (first
    | with_reducible assumption
    | with_reducible exact Keep.refl _
    | intro _
    | ((fail_if_success (conv => arg 3; arg 1)); extract_lets +onlyGivenNames t; refine Keep.cut t ?_ ?_; subst t; rotate_left; clear_value t; intro ht; rotate_right)
    | ((fail_if_success (conv => arg 3; arg 1)); extract_lets +onlyGivenNames t; subst t)
    | with_reducible apply changeCounter_keep
    | ((with_reducible apply changeCounter_keep_of); with_reducible assumption)
    | with_reducible apply putSession_keep
    | with_reducible apply leashAnswer_keep
    | with_reducible apply Keep.ite
    | with_reducible apply KeepW.done
    | with_reducible apply KeepW.denied
    | with_reducible apply KeepP.fst
    | split
    | dsimp -zeta only)

theorem reqSegWriteInit_keep {M : Part → Prop} {z s : State} (h_leash : ¬ M .leash) (i : Nat) (x : Session) (m : LeashMsg) (hz : Keep M z s) :
    Keep M z (reqSegWriteInit i x m s) := by
  unfold reqSegWriteInit
  repeat' (first
    | with_reducible assumption
    | with_reducible exact Keep.refl _
    | intro _
    | ((fail_if_success (conv => arg 3; arg 1)); extract_lets +onlyGivenNames t; refine Keep.cut t ?_ ?_; subst t; rotate_left; clear_value t; intro ht; rotate_right)
    | ((fail_if_success (conv => arg 3; arg 1)); extract_lets +onlyGivenNames t; subst t)
    | with_reducible apply leashAnswer_keep
    | ((fail_if_success (fail_if_success (conv => arg 3; arg 39))); with_reducible apply Keep.upd_leash)
    | with_reducible apply Keep.ite
    | split
    | dsimp -zeta only)

theorem reqSegWrite_keep {M : Part → Prop} {z s : State} (h_dev : ¬ M .dev) (h_free : ¬ M .free) (h_regs : ¬ M .regs) (h_hold : ¬ M .hold) (h_od : ¬ M .od) (h_odBlob : ¬ M .odBlob) (h_odChange : ¬ M .odChange) (h_mem : ¬ M .mem) (h_memCtl : ¬ M .memCtl) (h_pwr : ¬ M .pwr) (h_start : ¬ M .start) (h_sdg : ¬ M .sdg) (h_frz : ¬ M .frz) (h_leash : ¬ M .leash) (h_params : ¬ M .params) (h_canopen : ¬ M .canopen) (h_sec : ¬ M .sec) (h_fuses : ¬ M .fuses) (h_knots : ¬ M .knots) (h_pack : ¬ M .pack) (h_cim : ¬ M .cim) (h_kennel : ¬ M .kennel) (h_cams : ¬ M .cams) (h_gfx : ¬ M .gfx) (h_pipes : ¬ M .pipes) (h_net : ¬ M .net) (h_can : ¬ M .can) (h_splice : ¬ M .splice) (h_wh : ¬ M .wh) (h_slots : ¬ M .slots) (h_safeSlots : ¬ M .safeSlots) (i : Nat) (x : Session) (m : LeashMsg) (commit : Bool) (hz : Keep M z s) :
    Keep M z (reqSegWrite i x m commit s) := by
  unfold reqSegWrite
  repeat' (first
    | with_reducible assumption
    | with_reducible exact Keep.refl _
    | intro _
    | ((fail_if_success (conv => arg 3; arg 1)); extract_lets +onlyGivenNames t; refine Keep.cut t ?_ ?_; subst t; rotate_left; clear_value t; intro ht; rotate_right)
    | ((fail_if_success (conv => arg 3; arg 1)); extract_lets +onlyGivenNames t; subst t)
    | with_reducible apply odWrite_keep
    | ((with_reducible apply odWrite_keep_of); with_reducible assumption)
    | with_reducible apply leashAnswer_keep
    | ((fail_if_success (fail_if_success (conv => arg 3; arg 39))); with_reducible apply Keep.upd_leash)
    | with_reducible apply Keep.ite
    | with_reducible apply KeepW.done
    | with_reducible apply KeepW.denied
    | with_reducible apply KeepP.fst
    | split
    | dsimp -zeta only)

theorem execRequest_keep {M : Part → Prop} {z s : State} (h_dev : ¬ M .dev) (h_free : ¬ M .free) (h_regs : ¬ M .regs) (h_hold : ¬ M .hold) (h_od : ¬ M .od) (h_odBlob : ¬ M .odBlob) (h_odChange : ¬ M .odChange) (h_mem : ¬ M .mem) (h_memCtl : ¬ M .memCtl) (h_pwr : ¬ M .pwr) (h_start : ¬ M .start) (h_sdg : ¬ M .sdg) (h_frz : ¬ M .frz) (h_leash : ¬ M .leash) (h_params : ¬ M .params) (h_canopen : ¬ M .canopen) (h_sec : ¬ M .sec) (h_fuses : ¬ M .fuses) (h_knots : ¬ M .knots) (h_pack : ¬ M .pack) (h_cim : ¬ M .cim) (h_kennel : ¬ M .kennel) (h_cams : ¬ M .cams) (h_gfx : ¬ M .gfx) (h_pipes : ¬ M .pipes) (h_net : ¬ M .net) (h_can : ¬ M .can) (h_splice : ¬ M .splice) (h_wh : ¬ M .wh) (h_slots : ¬ M .slots) (h_safeSlots : ¬ M .safeSlots) (i : Nat) (x : Session) (m : LeashMsg) (commit : Bool) (hz : Keep M z s) :
    Keep M z (execRequest i x m commit s) := by
  unfold execRequest
  repeat' (first
    | with_reducible assumption
    | with_reducible exact Keep.refl _
    | intro _
    | with_reducible apply leashAnswer_keep
    | with_reducible apply reqRead_keep
    | with_reducible apply reqWrite_keep
    | with_reducible apply reqSegReadInit_keep
    | with_reducible apply reqSegRead_keep
    | with_reducible apply reqSegWriteInit_keep
    | with_reducible apply reqSegWrite_keep
    | with_reducible apply Keep.ite
    | split
    | dsimp -zeta only)

theorem openRequest_keep {M : Part → Prop} {z s : State} (h_dev : ¬ M .dev) (h_free : ¬ M .free) (h_regs : ¬ M .regs) (h_hold : ¬ M .hold) (h_od : ¬ M .od) (h_odBlob : ¬ M .odBlob) (h_odChange : ¬ M .odChange) (h_mem : ¬ M .mem) (h_memCtl : ¬ M .memCtl) (h_pwr : ¬ M .pwr) (h_start : ¬ M .start) (h_sdg : ¬ M .sdg) (h_frz : ¬ M .frz) (h_leash : ¬ M .leash) (h_params : ¬ M .params) (h_canopen : ¬ M .canopen) (h_sec : ¬ M .sec) (h_fuses : ¬ M .fuses) (h_knots : ¬ M .knots) (h_pack : ¬ M .pack) (h_cim : ¬ M .cim) (h_kennel : ¬ M .kennel) (h_cams : ¬ M .cams) (h_gfx : ¬ M .gfx) (h_pipes : ¬ M .pipes) (h_net : ¬ M .net) (h_can : ¬ M .can) (h_splice : ¬ M .splice) (h_wh : ¬ M .wh) (h_slots : ¬ M .slots) (h_safeSlots : ¬ M .safeSlots) (i : Nat) (x : Session) (m : LeashMsg) (commit : Bool) (hz : Keep M z s) :
    Keep M z (openRequest i x m commit s) := by
  unfold openRequest
  repeat' (first
    | with_reducible assumption
    | with_reducible exact Keep.refl _
    | intro _
    | ((fail_if_success (conv => arg 3; arg 1)); extract_lets +onlyGivenNames t; refine Keep.cut t ?_ ?_; subst t; rotate_left; clear_value t; intro ht; rotate_right)
    | ((fail_if_success (conv => arg 3; arg 1)); extract_lets +onlyGivenNames t; subst t)
    | with_reducible apply emit_keep
    | with_reducible apply odCount_keep
    | with_reducible apply putSession_keep
    | with_reducible apply execRequest_keep
    | with_reducible apply Keep.ite
    | split
    | dsimp -zeta only)

theorem leashReceive_keep {M : Part → Prop} {z s : State} (h_dev : ¬ M .dev) (h_free : ¬ M .free) (h_regs : ¬ M .regs) (h_hold : ¬ M .hold) (h_od : ¬ M .od) (h_odBlob : ¬ M .odBlob) (h_odChange : ¬ M .odChange) (h_mem : ¬ M .mem) (h_memCtl : ¬ M .memCtl) (h_pwr : ¬ M .pwr) (h_start : ¬ M .start) (h_sdg : ¬ M .sdg) (h_frz : ¬ M .frz) (h_leash : ¬ M .leash) (h_params : ¬ M .params) (h_canopen : ¬ M .canopen) (h_sec : ¬ M .sec) (h_fuses : ¬ M .fuses) (h_knots : ¬ M .knots) (h_pack : ¬ M .pack) (h_cim : ¬ M .cim) (h_kennel : ¬ M .kennel) (h_cams : ¬ M .cams) (h_gfx : ¬ M .gfx) (h_pipes : ¬ M .pipes) (h_net : ¬ M .net) (h_can : ¬ M .can) (h_splice : ¬ M .splice) (h_wh : ¬ M .wh) (h_slots : ¬ M .slots) (h_safeSlots : ¬ M .safeSlots) (m : LeashMsg) (commit : Bool) (hz : Keep M z s) :
    Keep M z (leashReceive m commit s) := by
  unfold leashReceive
  repeat' (first
    | with_reducible assumption
    | with_reducible exact Keep.refl _
    | intro _
    | with_reducible apply tagDiscard_keep
    | with_reducible apply leashHelloEff_keep
    | with_reducible apply proveFailed_keep
    | with_reducible apply proveEff_keep
    | with_reducible apply openRequest_keep
    | with_reducible apply Keep.ite
    | split
    | dsimp -zeta only)

theorem execLeashHello_keep {M : Part → Prop} {z s : State} (h_dev : ¬ M .dev) (h_free : ¬ M .free) (h_regs : ¬ M .regs) (h_hold : ¬ M .hold) (h_od : ¬ M .od) (h_odBlob : ¬ M .odBlob) (h_odChange : ¬ M .odChange) (h_mem : ¬ M .mem) (h_memCtl : ¬ M .memCtl) (h_pwr : ¬ M .pwr) (h_start : ¬ M .start) (h_sdg : ¬ M .sdg) (h_frz : ¬ M .frz) (h_leash : ¬ M .leash) (h_params : ¬ M .params) (h_canopen : ¬ M .canopen) (h_sec : ¬ M .sec) (h_fuses : ¬ M .fuses) (h_knots : ¬ M .knots) (h_pack : ¬ M .pack) (h_cim : ¬ M .cim) (h_kennel : ¬ M .kennel) (h_cams : ¬ M .cams) (h_gfx : ¬ M .gfx) (h_pipes : ¬ M .pipes) (h_net : ¬ M .net) (h_can : ¬ M .can) (h_splice : ¬ M .splice) (h_wh : ¬ M .wh) (h_slots : ¬ M .slots) (h_safeSlots : ¬ M .safeSlots) (m : LeashMsg) (hz : Keep M z s) :
    KeepN M z (execLeashHello m s) := by
  unfold execLeashHello
  repeat' (first
    | with_reducible assumption
    | with_reducible exact Keep.refl _
    | intro _
    | with_reducible apply KeepN.next
    | with_reducible apply leashReceive_keep
    | split
    | dsimp -zeta only)

theorem execLeashProve_keep {M : Part → Prop} {z s : State} (h_dev : ¬ M .dev) (h_free : ¬ M .free) (h_regs : ¬ M .regs) (h_hold : ¬ M .hold) (h_od : ¬ M .od) (h_odBlob : ¬ M .odBlob) (h_odChange : ¬ M .odChange) (h_mem : ¬ M .mem) (h_memCtl : ¬ M .memCtl) (h_pwr : ¬ M .pwr) (h_start : ¬ M .start) (h_sdg : ¬ M .sdg) (h_frz : ¬ M .frz) (h_leash : ¬ M .leash) (h_params : ¬ M .params) (h_canopen : ¬ M .canopen) (h_sec : ¬ M .sec) (h_fuses : ¬ M .fuses) (h_knots : ¬ M .knots) (h_pack : ¬ M .pack) (h_cim : ¬ M .cim) (h_kennel : ¬ M .kennel) (h_cams : ¬ M .cams) (h_gfx : ¬ M .gfx) (h_pipes : ¬ M .pipes) (h_net : ¬ M .net) (h_can : ¬ M .can) (h_splice : ¬ M .splice) (h_wh : ¬ M .wh) (h_slots : ¬ M .slots) (h_safeSlots : ¬ M .safeSlots) (m : LeashMsg) (hz : Keep M z s) :
    KeepN M z (execLeashProve m s) := by
  unfold execLeashProve
  repeat' (first
    | with_reducible assumption
    | with_reducible exact Keep.refl _
    | intro _
    | with_reducible apply KeepN.next
    | with_reducible apply leashReceive_keep
    | split
    | dsimp -zeta only)

theorem execLeashRead_keep {M : Part → Prop} {z s : State} (h_dev : ¬ M .dev) (h_free : ¬ M .free) (h_regs : ¬ M .regs) (h_hold : ¬ M .hold) (h_od : ¬ M .od) (h_odBlob : ¬ M .odBlob) (h_odChange : ¬ M .odChange) (h_mem : ¬ M .mem) (h_memCtl : ¬ M .memCtl) (h_pwr : ¬ M .pwr) (h_start : ¬ M .start) (h_sdg : ¬ M .sdg) (h_frz : ¬ M .frz) (h_leash : ¬ M .leash) (h_params : ¬ M .params) (h_canopen : ¬ M .canopen) (h_sec : ¬ M .sec) (h_fuses : ¬ M .fuses) (h_knots : ¬ M .knots) (h_pack : ¬ M .pack) (h_cim : ¬ M .cim) (h_kennel : ¬ M .kennel) (h_cams : ¬ M .cams) (h_gfx : ¬ M .gfx) (h_pipes : ¬ M .pipes) (h_net : ¬ M .net) (h_can : ¬ M .can) (h_splice : ¬ M .splice) (h_wh : ¬ M .wh) (h_slots : ¬ M .slots) (h_safeSlots : ¬ M .safeSlots) (m : LeashMsg) (hz : Keep M z s) :
    KeepN M z (execLeashRead m s) := by
  unfold execLeashRead
  repeat' (first
    | with_reducible assumption
    | with_reducible exact Keep.refl _
    | intro _
    | with_reducible apply KeepN.next
    | with_reducible apply leashReceive_keep
    | split
    | dsimp -zeta only)

theorem execLeashWrite_keep {M : Part → Prop} {z s : State} (h_dev : ¬ M .dev) (h_free : ¬ M .free) (h_regs : ¬ M .regs) (h_hold : ¬ M .hold) (h_od : ¬ M .od) (h_odBlob : ¬ M .odBlob) (h_odChange : ¬ M .odChange) (h_mem : ¬ M .mem) (h_memCtl : ¬ M .memCtl) (h_pwr : ¬ M .pwr) (h_start : ¬ M .start) (h_sdg : ¬ M .sdg) (h_frz : ¬ M .frz) (h_leash : ¬ M .leash) (h_params : ¬ M .params) (h_canopen : ¬ M .canopen) (h_sec : ¬ M .sec) (h_fuses : ¬ M .fuses) (h_knots : ¬ M .knots) (h_pack : ¬ M .pack) (h_cim : ¬ M .cim) (h_kennel : ¬ M .kennel) (h_cams : ¬ M .cams) (h_gfx : ¬ M .gfx) (h_pipes : ¬ M .pipes) (h_net : ¬ M .net) (h_can : ¬ M .can) (h_splice : ¬ M .splice) (h_wh : ¬ M .wh) (h_slots : ¬ M .slots) (h_safeSlots : ¬ M .safeSlots) (m : LeashMsg) (hz : Keep M z s) :
    KeepN M z (execLeashWrite m s) := by
  unfold execLeashWrite
  repeat' (first
    | with_reducible assumption
    | with_reducible exact Keep.refl _
    | intro _
    | with_reducible apply KeepN.next
    | with_reducible apply leashReceive_keep
    | split
    | dsimp -zeta only)

theorem execLeashSegReadInit_keep {M : Part → Prop} {z s : State} (h_dev : ¬ M .dev) (h_free : ¬ M .free) (h_regs : ¬ M .regs) (h_hold : ¬ M .hold) (h_od : ¬ M .od) (h_odBlob : ¬ M .odBlob) (h_odChange : ¬ M .odChange) (h_mem : ¬ M .mem) (h_memCtl : ¬ M .memCtl) (h_pwr : ¬ M .pwr) (h_start : ¬ M .start) (h_sdg : ¬ M .sdg) (h_frz : ¬ M .frz) (h_leash : ¬ M .leash) (h_params : ¬ M .params) (h_canopen : ¬ M .canopen) (h_sec : ¬ M .sec) (h_fuses : ¬ M .fuses) (h_knots : ¬ M .knots) (h_pack : ¬ M .pack) (h_cim : ¬ M .cim) (h_kennel : ¬ M .kennel) (h_cams : ¬ M .cams) (h_gfx : ¬ M .gfx) (h_pipes : ¬ M .pipes) (h_net : ¬ M .net) (h_can : ¬ M .can) (h_splice : ¬ M .splice) (h_wh : ¬ M .wh) (h_slots : ¬ M .slots) (h_safeSlots : ¬ M .safeSlots) (m : LeashMsg) (hz : Keep M z s) :
    KeepN M z (execLeashSegReadInit m s) := by
  unfold execLeashSegReadInit
  repeat' (first
    | with_reducible assumption
    | with_reducible exact Keep.refl _
    | intro _
    | with_reducible apply KeepN.next
    | with_reducible apply leashReceive_keep
    | split
    | dsimp -zeta only)

theorem execLeashSegRead_keep {M : Part → Prop} {z s : State} (h_dev : ¬ M .dev) (h_free : ¬ M .free) (h_regs : ¬ M .regs) (h_hold : ¬ M .hold) (h_od : ¬ M .od) (h_odBlob : ¬ M .odBlob) (h_odChange : ¬ M .odChange) (h_mem : ¬ M .mem) (h_memCtl : ¬ M .memCtl) (h_pwr : ¬ M .pwr) (h_start : ¬ M .start) (h_sdg : ¬ M .sdg) (h_frz : ¬ M .frz) (h_leash : ¬ M .leash) (h_params : ¬ M .params) (h_canopen : ¬ M .canopen) (h_sec : ¬ M .sec) (h_fuses : ¬ M .fuses) (h_knots : ¬ M .knots) (h_pack : ¬ M .pack) (h_cim : ¬ M .cim) (h_kennel : ¬ M .kennel) (h_cams : ¬ M .cams) (h_gfx : ¬ M .gfx) (h_pipes : ¬ M .pipes) (h_net : ¬ M .net) (h_can : ¬ M .can) (h_splice : ¬ M .splice) (h_wh : ¬ M .wh) (h_slots : ¬ M .slots) (h_safeSlots : ¬ M .safeSlots) (m : LeashMsg) (hz : Keep M z s) :
    KeepN M z (execLeashSegRead m s) := by
  unfold execLeashSegRead
  repeat' (first
    | with_reducible assumption
    | with_reducible exact Keep.refl _
    | intro _
    | with_reducible apply KeepN.next
    | with_reducible apply leashReceive_keep
    | split
    | dsimp -zeta only)

theorem execLeashSegWriteInit_keep {M : Part → Prop} {z s : State} (h_dev : ¬ M .dev) (h_free : ¬ M .free) (h_regs : ¬ M .regs) (h_hold : ¬ M .hold) (h_od : ¬ M .od) (h_odBlob : ¬ M .odBlob) (h_odChange : ¬ M .odChange) (h_mem : ¬ M .mem) (h_memCtl : ¬ M .memCtl) (h_pwr : ¬ M .pwr) (h_start : ¬ M .start) (h_sdg : ¬ M .sdg) (h_frz : ¬ M .frz) (h_leash : ¬ M .leash) (h_params : ¬ M .params) (h_canopen : ¬ M .canopen) (h_sec : ¬ M .sec) (h_fuses : ¬ M .fuses) (h_knots : ¬ M .knots) (h_pack : ¬ M .pack) (h_cim : ¬ M .cim) (h_kennel : ¬ M .kennel) (h_cams : ¬ M .cams) (h_gfx : ¬ M .gfx) (h_pipes : ¬ M .pipes) (h_net : ¬ M .net) (h_can : ¬ M .can) (h_splice : ¬ M .splice) (h_wh : ¬ M .wh) (h_slots : ¬ M .slots) (h_safeSlots : ¬ M .safeSlots) (m : LeashMsg) (hz : Keep M z s) :
    KeepN M z (execLeashSegWriteInit m s) := by
  unfold execLeashSegWriteInit
  repeat' (first
    | with_reducible assumption
    | with_reducible exact Keep.refl _
    | intro _
    | with_reducible apply KeepN.next
    | with_reducible apply leashReceive_keep
    | split
    | dsimp -zeta only)

theorem execLeashSegWrite_keep {M : Part → Prop} {z s : State} (h_dev : ¬ M .dev) (h_free : ¬ M .free) (h_regs : ¬ M .regs) (h_hold : ¬ M .hold) (h_od : ¬ M .od) (h_odBlob : ¬ M .odBlob) (h_odChange : ¬ M .odChange) (h_mem : ¬ M .mem) (h_memCtl : ¬ M .memCtl) (h_pwr : ¬ M .pwr) (h_start : ¬ M .start) (h_sdg : ¬ M .sdg) (h_frz : ¬ M .frz) (h_leash : ¬ M .leash) (h_params : ¬ M .params) (h_canopen : ¬ M .canopen) (h_sec : ¬ M .sec) (h_fuses : ¬ M .fuses) (h_knots : ¬ M .knots) (h_pack : ¬ M .pack) (h_cim : ¬ M .cim) (h_kennel : ¬ M .kennel) (h_cams : ¬ M .cams) (h_gfx : ¬ M .gfx) (h_pipes : ¬ M .pipes) (h_net : ¬ M .net) (h_can : ¬ M .can) (h_splice : ¬ M .splice) (h_wh : ¬ M .wh) (h_slots : ¬ M .slots) (h_safeSlots : ¬ M .safeSlots) (m : LeashMsg) (hz : Keep M z s) :
    KeepN M z (execLeashSegWrite m s) := by
  unfold execLeashSegWrite
  repeat' (first
    | with_reducible assumption
    | with_reducible exact Keep.refl _
    | intro _
    | with_reducible apply KeepN.next
    | with_reducible apply leashReceive_keep
    | split
    | dsimp -zeta only)

theorem execLeashClose_keep {M : Part → Prop} {z s : State} (h_dev : ¬ M .dev) (h_free : ¬ M .free) (h_regs : ¬ M .regs) (h_hold : ¬ M .hold) (h_od : ¬ M .od) (h_odBlob : ¬ M .odBlob) (h_odChange : ¬ M .odChange) (h_mem : ¬ M .mem) (h_memCtl : ¬ M .memCtl) (h_pwr : ¬ M .pwr) (h_start : ¬ M .start) (h_sdg : ¬ M .sdg) (h_frz : ¬ M .frz) (h_leash : ¬ M .leash) (h_params : ¬ M .params) (h_canopen : ¬ M .canopen) (h_sec : ¬ M .sec) (h_fuses : ¬ M .fuses) (h_knots : ¬ M .knots) (h_pack : ¬ M .pack) (h_cim : ¬ M .cim) (h_kennel : ¬ M .kennel) (h_cams : ¬ M .cams) (h_gfx : ¬ M .gfx) (h_pipes : ¬ M .pipes) (h_net : ¬ M .net) (h_can : ¬ M .can) (h_splice : ¬ M .splice) (h_wh : ¬ M .wh) (h_slots : ¬ M .slots) (h_safeSlots : ¬ M .safeSlots) (m : LeashMsg) (hz : Keep M z s) :
    KeepN M z (execLeashClose m s) := by
  unfold execLeashClose
  repeat' (first
    | with_reducible assumption
    | with_reducible exact Keep.refl _
    | intro _
    | with_reducible apply KeepN.next
    | with_reducible apply leashReceive_keep
    | split
    | dsimp -zeta only)

theorem execLeashNop_keep {M : Part → Prop} {z s : State} (h_dev : ¬ M .dev) (h_free : ¬ M .free) (h_regs : ¬ M .regs) (h_hold : ¬ M .hold) (h_od : ¬ M .od) (h_odBlob : ¬ M .odBlob) (h_odChange : ¬ M .odChange) (h_mem : ¬ M .mem) (h_memCtl : ¬ M .memCtl) (h_pwr : ¬ M .pwr) (h_start : ¬ M .start) (h_sdg : ¬ M .sdg) (h_frz : ¬ M .frz) (h_leash : ¬ M .leash) (h_params : ¬ M .params) (h_canopen : ¬ M .canopen) (h_sec : ¬ M .sec) (h_fuses : ¬ M .fuses) (h_knots : ¬ M .knots) (h_pack : ¬ M .pack) (h_cim : ¬ M .cim) (h_kennel : ¬ M .kennel) (h_cams : ¬ M .cams) (h_gfx : ¬ M .gfx) (h_pipes : ¬ M .pipes) (h_net : ¬ M .net) (h_can : ¬ M .can) (h_splice : ¬ M .splice) (h_wh : ¬ M .wh) (h_slots : ¬ M .slots) (h_safeSlots : ¬ M .safeSlots) (m : LeashMsg) (hz : Keep M z s) :
    KeepN M z (execLeashNop m s) := by
  unfold execLeashNop
  repeat' (first
    | with_reducible assumption
    | with_reducible exact Keep.refl _
    | intro _
    | with_reducible apply KeepN.next
    | with_reducible apply leashReceive_keep
    | split
    | dsimp -zeta only)

theorem execProveTimeout_keep {M : Part → Prop} {z s : State} (h_now : ¬ M .now) (h_leash : ¬ M .leash) (h_gtime : ¬ M .gtime) (slot : Fin 4) (hz : Keep M z s) :
    KeepN M z (execProveTimeout slot s) := by
  unfold execProveTimeout
  repeat' (first
    | with_reducible assumption
    | with_reducible exact Keep.refl _
    | intro _
    | with_reducible apply KeepN.next
    | with_reducible apply advanceTo_keep
    | with_reducible apply closeSession_keep
    | with_reducible apply Keep.ite
    | with_reducible apply KeepN.ite
    | split
    | dsimp -zeta only)

theorem execIdleTimeout_keep {M : Part → Prop} {z s : State} (h_now : ¬ M .now) (h_leash : ¬ M .leash) (h_gtime : ¬ M .gtime) (slot : Fin 4) (hz : Keep M z s) :
    KeepN M z (execIdleTimeout slot s) := by
  unfold execIdleTimeout
  repeat' (first
    | with_reducible assumption
    | with_reducible exact Keep.refl _
    | intro _
    | with_reducible apply KeepN.next
    | with_reducible apply advanceTo_keep
    | with_reducible apply closeSession_keep
    | with_reducible apply Keep.ite
    | with_reducible apply KeepN.ite
    | split
    | dsimp -zeta only)

theorem execLockoutExpiry_keep {M : Part → Prop} {z s : State} (h_now : ¬ M .now) (h_leash : ¬ M .leash) (h_gtime : ¬ M .gtime) (role : Fin 4) (hz : Keep M z s) :
    KeepN M z (execLockoutExpiry role s) := by
  unfold execLockoutExpiry
  repeat' (first
    | with_reducible assumption
    | with_reducible exact Keep.refl _
    | intro _
    | with_reducible apply KeepN.next
    | ((fail_if_success (conv => arg 3; arg 1)); extract_lets +onlyGivenNames t; refine KeepN.cut t ?_ ?_; subst t; rotate_left; clear_value t; intro ht; rotate_right)
    | ((fail_if_success (conv => arg 3; arg 1)); extract_lets +onlyGivenNames t; refine Keep.cut t ?_ ?_; subst t; rotate_left; clear_value t; intro ht; rotate_right)
    | ((fail_if_success (conv => arg 3; arg 1)); extract_lets +onlyGivenNames t; subst t)
    | with_reducible apply advanceTo_keep
    | ((fail_if_success (fail_if_success (conv => arg 3; arg 39))); with_reducible apply Keep.upd_leash)
    | split
    | dsimp -zeta only)

theorem execStoreAllParameters_keep {M : Part → Prop} {z s : State} (h_dev : ¬ M .dev) (h_free : ¬ M .free) (h_regs : ¬ M .regs) (h_hold : ¬ M .hold) (h_od : ¬ M .od) (h_odBlob : ¬ M .odBlob) (h_odChange : ¬ M .odChange) (h_mem : ¬ M .mem) (h_memCtl : ¬ M .memCtl) (h_pwr : ¬ M .pwr) (h_start : ¬ M .start) (h_sdg : ¬ M .sdg) (h_frz : ¬ M .frz) (h_leash : ¬ M .leash) (h_params : ¬ M .params) (h_canopen : ¬ M .canopen) (h_sec : ¬ M .sec) (h_fuses : ¬ M .fuses) (h_knots : ¬ M .knots) (h_pack : ¬ M .pack) (h_cim : ¬ M .cim) (h_kennel : ¬ M .kennel) (h_cams : ¬ M .cams) (h_gfx : ¬ M .gfx) (h_pipes : ¬ M .pipes) (h_net : ¬ M .net) (h_can : ¬ M .can) (h_splice : ¬ M .splice) (h_wh : ¬ M .wh) (h_slots : ¬ M .slots) (h_safeSlots : ¬ M .safeSlots) (m : LeashMsg) (hz : Keep M z s) :
    KeepN M z (execStoreAllParameters m s) := by
  unfold execStoreAllParameters
  repeat' (first
    | with_reducible assumption
    | with_reducible exact Keep.refl _
    | intro _
    | with_reducible apply KeepN.next
    | with_reducible apply leashReceive_keep
    | split
    | dsimp -zeta only)

theorem execStoreDone_keep {M : Part → Prop} {z s : State} (h_od : ¬ M .od) (h_leash : ¬ M .leash) (h_params : ¬ M .params) (tagOk : Bool) (hz : Keep M z s) :
    KeepN M z (execStoreDone tagOk s) := by
  unfold execStoreDone
  repeat' (first
    | with_reducible assumption
    | with_reducible exact Keep.refl _
    | intro _
    | with_reducible apply KeepN.next
    | ((fail_if_success (conv => arg 3; arg 1)); extract_lets +onlyGivenNames t; refine KeepN.cut t ?_ ?_; subst t; rotate_left; clear_value t; intro ht; rotate_right)
    | ((fail_if_success (conv => arg 3; arg 1)); extract_lets +onlyGivenNames t; refine Keep.cut t ?_ ?_; subst t; rotate_left; clear_value t; intro ht; rotate_right)
    | ((fail_if_success (conv => arg 3; arg 1)); extract_lets +onlyGivenNames t; subst t)
    | with_reducible apply odPut_keep
    | with_reducible apply storeWritten_keep
    | with_reducible apply leashAnswer_keep
    | ((fail_if_success (fail_if_success (conv => arg 3; arg 39))); with_reducible apply Keep.upd_leash)
    | ((fail_if_success (fail_if_success (conv => arg 3; arg 39))); with_reducible apply Keep.upd_params)
    | with_reducible apply Keep.ite
    | with_reducible apply KeepN.ite
    | split
    | dsimp -zeta only)

theorem execRestoreDefaultParameters_keep {M : Part → Prop} {z s : State} (h_dev : ¬ M .dev) (h_free : ¬ M .free) (h_regs : ¬ M .regs) (h_hold : ¬ M .hold) (h_od : ¬ M .od) (h_odBlob : ¬ M .odBlob) (h_odChange : ¬ M .odChange) (h_mem : ¬ M .mem) (h_memCtl : ¬ M .memCtl) (h_pwr : ¬ M .pwr) (h_start : ¬ M .start) (h_sdg : ¬ M .sdg) (h_frz : ¬ M .frz) (h_leash : ¬ M .leash) (h_params : ¬ M .params) (h_canopen : ¬ M .canopen) (h_sec : ¬ M .sec) (h_fuses : ¬ M .fuses) (h_knots : ¬ M .knots) (h_pack : ¬ M .pack) (h_cim : ¬ M .cim) (h_kennel : ¬ M .kennel) (h_cams : ¬ M .cams) (h_gfx : ¬ M .gfx) (h_pipes : ¬ M .pipes) (h_net : ¬ M .net) (h_can : ¬ M .can) (h_splice : ¬ M .splice) (h_wh : ¬ M .wh) (h_slots : ¬ M .slots) (h_safeSlots : ¬ M .safeSlots) (m : LeashMsg) (hz : Keep M z s) :
    KeepN M z (execRestoreDefaultParameters m s) := by
  unfold execRestoreDefaultParameters
  repeat' (first
    | with_reducible assumption
    | with_reducible exact Keep.refl _
    | intro _
    | with_reducible apply KeepN.next
    | with_reducible apply leashReceive_keep
    | split
    | dsimp -zeta only)

theorem execErrorHistoryClear_keep {M : Part → Prop} {z s : State} (h_dev : ¬ M .dev) (h_free : ¬ M .free) (h_regs : ¬ M .regs) (h_hold : ¬ M .hold) (h_od : ¬ M .od) (h_odBlob : ¬ M .odBlob) (h_odChange : ¬ M .odChange) (h_mem : ¬ M .mem) (h_memCtl : ¬ M .memCtl) (h_pwr : ¬ M .pwr) (h_start : ¬ M .start) (h_sdg : ¬ M .sdg) (h_frz : ¬ M .frz) (h_leash : ¬ M .leash) (h_params : ¬ M .params) (h_canopen : ¬ M .canopen) (h_sec : ¬ M .sec) (h_fuses : ¬ M .fuses) (h_knots : ¬ M .knots) (h_pack : ¬ M .pack) (h_cim : ¬ M .cim) (h_kennel : ¬ M .kennel) (h_cams : ¬ M .cams) (h_gfx : ¬ M .gfx) (h_pipes : ¬ M .pipes) (h_net : ¬ M .net) (h_can : ¬ M .can) (h_splice : ¬ M .splice) (h_wh : ¬ M .wh) (h_slots : ¬ M .slots) (h_safeSlots : ¬ M .safeSlots) (m : LeashMsg) (hz : Keep M z s) :
    KeepN M z (execErrorHistoryClear m s) := by
  unfold execErrorHistoryClear
  repeat' (first
    | with_reducible assumption
    | with_reducible exact Keep.refl _
    | intro _
    | with_reducible apply KeepN.next
    | with_reducible apply leashReceive_keep
    | split
    | dsimp -zeta only)

theorem execCredentialWrite_keep {M : Part → Prop} {z s : State} (h_dev : ¬ M .dev) (h_free : ¬ M .free) (h_regs : ¬ M .regs) (h_hold : ¬ M .hold) (h_od : ¬ M .od) (h_odBlob : ¬ M .odBlob) (h_odChange : ¬ M .odChange) (h_mem : ¬ M .mem) (h_memCtl : ¬ M .memCtl) (h_pwr : ¬ M .pwr) (h_start : ¬ M .start) (h_sdg : ¬ M .sdg) (h_frz : ¬ M .frz) (h_leash : ¬ M .leash) (h_params : ¬ M .params) (h_canopen : ¬ M .canopen) (h_sec : ¬ M .sec) (h_fuses : ¬ M .fuses) (h_knots : ¬ M .knots) (h_pack : ¬ M .pack) (h_cim : ¬ M .cim) (h_kennel : ¬ M .kennel) (h_cams : ¬ M .cams) (h_gfx : ¬ M .gfx) (h_pipes : ¬ M .pipes) (h_net : ¬ M .net) (h_can : ¬ M .can) (h_splice : ¬ M .splice) (h_wh : ¬ M .wh) (h_slots : ¬ M .slots) (h_safeSlots : ¬ M .safeSlots) (m : LeashMsg) (committed : Bool) (hz : Keep M z s) :
    KeepN M z (execCredentialWrite m committed s) := by
  unfold execCredentialWrite
  repeat' (first
    | with_reducible assumption
    | with_reducible exact Keep.refl _
    | intro _
    | with_reducible apply KeepN.next
    | with_reducible apply leashReceive_keep
    | split
    | dsimp -zeta only)

theorem execPendantKeyWrite_keep {M : Part → Prop} {z s : State} (h_dev : ¬ M .dev) (h_free : ¬ M .free) (h_regs : ¬ M .regs) (h_hold : ¬ M .hold) (h_od : ¬ M .od) (h_odBlob : ¬ M .odBlob) (h_odChange : ¬ M .odChange) (h_mem : ¬ M .mem) (h_memCtl : ¬ M .memCtl) (h_pwr : ¬ M .pwr) (h_start : ¬ M .start) (h_sdg : ¬ M .sdg) (h_frz : ¬ M .frz) (h_leash : ¬ M .leash) (h_params : ¬ M .params) (h_canopen : ¬ M .canopen) (h_sec : ¬ M .sec) (h_fuses : ¬ M .fuses) (h_knots : ¬ M .knots) (h_pack : ¬ M .pack) (h_cim : ¬ M .cim) (h_kennel : ¬ M .kennel) (h_cams : ¬ M .cams) (h_gfx : ¬ M .gfx) (h_pipes : ¬ M .pipes) (h_net : ¬ M .net) (h_can : ¬ M .can) (h_splice : ¬ M .splice) (h_wh : ¬ M .wh) (h_slots : ¬ M .slots) (h_safeSlots : ¬ M .safeSlots) (m : LeashMsg) (committed : Bool) (hz : Keep M z s) :
    KeepN M z (execPendantKeyWrite m committed s) := by
  unfold execPendantKeyWrite
  repeat' (first
    | with_reducible assumption
    | with_reducible exact Keep.refl _
    | intro _
    | with_reducible apply KeepN.next
    | with_reducible apply leashReceive_keep
    | split
    | dsimp -zeta only)

theorem execRestartRequest_keep {M : Part → Prop} {z s : State} (h_dev : ¬ M .dev) (h_free : ¬ M .free) (h_regs : ¬ M .regs) (h_hold : ¬ M .hold) (h_od : ¬ M .od) (h_odBlob : ¬ M .odBlob) (h_odChange : ¬ M .odChange) (h_mem : ¬ M .mem) (h_memCtl : ¬ M .memCtl) (h_pwr : ¬ M .pwr) (h_start : ¬ M .start) (h_sdg : ¬ M .sdg) (h_frz : ¬ M .frz) (h_leash : ¬ M .leash) (h_params : ¬ M .params) (h_canopen : ¬ M .canopen) (h_sec : ¬ M .sec) (h_fuses : ¬ M .fuses) (h_knots : ¬ M .knots) (h_pack : ¬ M .pack) (h_cim : ¬ M .cim) (h_kennel : ¬ M .kennel) (h_cams : ¬ M .cams) (h_gfx : ¬ M .gfx) (h_pipes : ¬ M .pipes) (h_net : ¬ M .net) (h_can : ¬ M .can) (h_splice : ¬ M .splice) (h_wh : ¬ M .wh) (h_slots : ¬ M .slots) (h_safeSlots : ¬ M .safeSlots) (m : LeashMsg) (hz : Keep M z s) :
    KeepN M z (execRestartRequest m s) := by
  unfold execRestartRequest
  repeat' (first
    | with_reducible assumption
    | with_reducible exact Keep.refl _
    | intro _
    | with_reducible apply KeepN.next
    | with_reducible apply leashReceive_keep
    | split
    | dsimp -zeta only)

theorem execEngineKindWrite_keep {M : Part → Prop} {z s : State} (h_dev : ¬ M .dev) (h_free : ¬ M .free) (h_regs : ¬ M .regs) (h_hold : ¬ M .hold) (h_od : ¬ M .od) (h_odBlob : ¬ M .odBlob) (h_odChange : ¬ M .odChange) (h_mem : ¬ M .mem) (h_memCtl : ¬ M .memCtl) (h_pwr : ¬ M .pwr) (h_start : ¬ M .start) (h_sdg : ¬ M .sdg) (h_frz : ¬ M .frz) (h_leash : ¬ M .leash) (h_params : ¬ M .params) (h_canopen : ¬ M .canopen) (h_sec : ¬ M .sec) (h_fuses : ¬ M .fuses) (h_knots : ¬ M .knots) (h_pack : ¬ M .pack) (h_cim : ¬ M .cim) (h_kennel : ¬ M .kennel) (h_cams : ¬ M .cams) (h_gfx : ¬ M .gfx) (h_pipes : ¬ M .pipes) (h_net : ¬ M .net) (h_can : ¬ M .can) (h_splice : ¬ M .splice) (h_wh : ¬ M .wh) (h_slots : ¬ M .slots) (h_safeSlots : ¬ M .safeSlots) (m : LeashMsg) (hz : Keep M z s) :
    KeepN M z (execEngineKindWrite m s) := by
  unfold execEngineKindWrite
  repeat' (first
    | with_reducible assumption
    | with_reducible exact Keep.refl _
    | intro _
    | with_reducible apply KeepN.next
    | with_reducible apply leashReceive_keep
    | split
    | dsimp -zeta only)

theorem execRosterTableWrite_keep {M : Part → Prop} {z s : State} (h_dev : ¬ M .dev) (h_free : ¬ M .free) (h_regs : ¬ M .regs) (h_hold : ¬ M .hold) (h_od : ¬ M .od) (h_odBlob : ¬ M .odBlob) (h_odChange : ¬ M .odChange) (h_mem : ¬ M .mem) (h_memCtl : ¬ M .memCtl) (h_pwr : ¬ M .pwr) (h_start : ¬ M .start) (h_sdg : ¬ M .sdg) (h_frz : ¬ M .frz) (h_leash : ¬ M .leash) (h_params : ¬ M .params) (h_canopen : ¬ M .canopen) (h_sec : ¬ M .sec) (h_fuses : ¬ M .fuses) (h_knots : ¬ M .knots) (h_pack : ¬ M .pack) (h_cim : ¬ M .cim) (h_kennel : ¬ M .kennel) (h_cams : ¬ M .cams) (h_gfx : ¬ M .gfx) (h_pipes : ¬ M .pipes) (h_net : ¬ M .net) (h_can : ¬ M .can) (h_splice : ¬ M .splice) (h_wh : ¬ M .wh) (h_slots : ¬ M .slots) (h_safeSlots : ¬ M .safeSlots) (m : LeashMsg) (hz : Keep M z s) :
    KeepN M z (execRosterTableWrite m s) := by
  unfold execRosterTableWrite
  repeat' (first
    | with_reducible assumption
    | with_reducible exact Keep.refl _
    | intro _
    | with_reducible apply KeepN.next
    | with_reducible apply leashReceive_keep
    | split
    | dsimp -zeta only)

theorem execRosterSelect_keep {M : Part → Prop} {z s : State} (h_dev : ¬ M .dev) (h_free : ¬ M .free) (h_regs : ¬ M .regs) (h_hold : ¬ M .hold) (h_od : ¬ M .od) (h_odBlob : ¬ M .odBlob) (h_odChange : ¬ M .odChange) (h_mem : ¬ M .mem) (h_memCtl : ¬ M .memCtl) (h_pwr : ¬ M .pwr) (h_start : ¬ M .start) (h_sdg : ¬ M .sdg) (h_frz : ¬ M .frz) (h_leash : ¬ M .leash) (h_params : ¬ M .params) (h_canopen : ¬ M .canopen) (h_sec : ¬ M .sec) (h_fuses : ¬ M .fuses) (h_knots : ¬ M .knots) (h_pack : ¬ M .pack) (h_cim : ¬ M .cim) (h_kennel : ¬ M .kennel) (h_cams : ¬ M .cams) (h_gfx : ¬ M .gfx) (h_pipes : ¬ M .pipes) (h_net : ¬ M .net) (h_can : ¬ M .can) (h_splice : ¬ M .splice) (h_wh : ¬ M .wh) (h_slots : ¬ M .slots) (h_safeSlots : ¬ M .safeSlots) (m : LeashMsg) (hz : Keep M z s) :
    KeepN M z (execRosterSelect m s) := by
  unfold execRosterSelect
  repeat' (first
    | with_reducible assumption
    | with_reducible exact Keep.refl _
    | intro _
    | with_reducible apply KeepN.next
    | with_reducible apply leashReceive_keep
    | split
    | dsimp -zeta only)

theorem execPackModeWrite_keep {M : Part → Prop} {z s : State} (h_dev : ¬ M .dev) (h_free : ¬ M .free) (h_regs : ¬ M .regs) (h_hold : ¬ M .hold) (h_od : ¬ M .od) (h_odBlob : ¬ M .odBlob) (h_odChange : ¬ M .odChange) (h_mem : ¬ M .mem) (h_memCtl : ¬ M .memCtl) (h_pwr : ¬ M .pwr) (h_start : ¬ M .start) (h_sdg : ¬ M .sdg) (h_frz : ¬ M .frz) (h_leash : ¬ M .leash) (h_params : ¬ M .params) (h_canopen : ¬ M .canopen) (h_sec : ¬ M .sec) (h_fuses : ¬ M .fuses) (h_knots : ¬ M .knots) (h_pack : ¬ M .pack) (h_cim : ¬ M .cim) (h_kennel : ¬ M .kennel) (h_cams : ¬ M .cams) (h_gfx : ¬ M .gfx) (h_pipes : ¬ M .pipes) (h_net : ¬ M .net) (h_can : ¬ M .can) (h_splice : ¬ M .splice) (h_wh : ¬ M .wh) (h_slots : ¬ M .slots) (h_safeSlots : ¬ M .safeSlots) (m : LeashMsg) (hz : Keep M z s) :
    KeepN M z (execPackModeWrite m s) := by
  unfold execPackModeWrite
  repeat' (first
    | with_reducible assumption
    | with_reducible exact Keep.refl _
    | intro _
    | with_reducible apply KeepN.next
    | with_reducible apply leashReceive_keep
    | split
    | dsimp -zeta only)

theorem execPackScrubDone_keep {M : Part → Prop} {z s : State} (h_now : ¬ M .now) (h_od : ¬ M .od) (h_mem : ¬ M .mem) (h_memCtl : ¬ M .memCtl) (h_leash : ¬ M .leash) (h_pack : ¬ M .pack) (h_cim : ¬ M .cim) (h_kennel : ¬ M .kennel) (h_gtime : ¬ M .gtime) (tookUs : Nat) (hz : Keep M z s) :
    KeepN M z (execPackScrubDone tookUs s) := by
  unfold execPackScrubDone
  repeat' (first
    | with_reducible assumption
    | with_reducible exact Keep.refl _
    | intro _
    | with_reducible apply KeepN.next
    | ((fail_if_success (conv => arg 3; arg 1)); extract_lets +onlyGivenNames t; refine KeepN.cut t ?_ ?_; subst t; rotate_left; clear_value t; intro ht; rotate_right)
    | ((fail_if_success (conv => arg 3; arg 1)); extract_lets +onlyGivenNames t; refine Keep.cut t ?_ ?_; subst t; rotate_left; clear_value t; intro ht; rotate_right)
    | ((fail_if_success (conv => arg 3; arg 1)); extract_lets +onlyGivenNames t; subst t)
    | with_reducible apply advanceTo_keep
    | with_reducible apply odMax_keep
    | with_reducible apply packScrub_keep
    | with_reducible apply leashAnswer_keep
    | ((fail_if_success (fail_if_success (conv => arg 3; arg 39))); with_reducible apply Keep.upd_leash)
    | ((fail_if_success (fail_if_success (conv => arg 3; arg 39))); with_reducible apply Keep.upd_pack)
    | split
    | dsimp -zeta only)

theorem execInstanceCreate_keep {M : Part → Prop} {z s : State} (h_dev : ¬ M .dev) (h_free : ¬ M .free) (h_regs : ¬ M .regs) (h_hold : ¬ M .hold) (h_od : ¬ M .od) (h_odBlob : ¬ M .odBlob) (h_odChange : ¬ M .odChange) (h_mem : ¬ M .mem) (h_memCtl : ¬ M .memCtl) (h_pwr : ¬ M .pwr) (h_start : ¬ M .start) (h_sdg : ¬ M .sdg) (h_frz : ¬ M .frz) (h_leash : ¬ M .leash) (h_params : ¬ M .params) (h_canopen : ¬ M .canopen) (h_sec : ¬ M .sec) (h_fuses : ¬ M .fuses) (h_knots : ¬ M .knots) (h_pack : ¬ M .pack) (h_cim : ¬ M .cim) (h_kennel : ¬ M .kennel) (h_cams : ¬ M .cams) (h_gfx : ¬ M .gfx) (h_pipes : ¬ M .pipes) (h_net : ¬ M .net) (h_can : ¬ M .can) (h_splice : ¬ M .splice) (h_wh : ¬ M .wh) (h_slots : ¬ M .slots) (h_safeSlots : ¬ M .safeSlots) (m : LeashMsg) (hz : Keep M z s) :
    KeepN M z (execInstanceCreate m s) := by
  unfold execInstanceCreate
  repeat' (first
    | with_reducible assumption
    | with_reducible exact Keep.refl _
    | intro _
    | with_reducible apply KeepN.next
    | with_reducible apply leashReceive_keep
    | split
    | dsimp -zeta only)

theorem execInstanceReset_keep {M : Part → Prop} {z s : State} (h_dev : ¬ M .dev) (h_now : ¬ M .now) (h_free : ¬ M .free) (h_regs : ¬ M .regs) (h_hold : ¬ M .hold) (h_od : ¬ M .od) (h_odBlob : ¬ M .odBlob) (h_odChange : ¬ M .odChange) (h_mem : ¬ M .mem) (h_memCtl : ¬ M .memCtl) (h_pwr : ¬ M .pwr) (h_start : ¬ M .start) (h_sdg : ¬ M .sdg) (h_frz : ¬ M .frz) (h_leash : ¬ M .leash) (h_params : ¬ M .params) (h_canopen : ¬ M .canopen) (h_apps : ¬ M .apps) (h_sec : ¬ M .sec) (h_fuses : ¬ M .fuses) (h_knots : ¬ M .knots) (h_pack : ¬ M .pack) (h_cim : ¬ M .cim) (h_kennel : ¬ M .kennel) (h_cams : ¬ M .cams) (h_gfx : ¬ M .gfx) (h_pipes : ¬ M .pipes) (h_net : ¬ M .net) (h_can : ¬ M .can) (h_splice : ¬ M .splice) (h_wh : ¬ M .wh) (h_slots : ¬ M .slots) (h_safeSlots : ¬ M .safeSlots) (h_gtime : ¬ M .gtime) (n : Fin 256) (acc : Access) (od : Option LeashMsg) (hz : Keep M z s) :
    KeepN M z (execInstanceReset n acc od s) := by
  unfold execInstanceReset
  repeat' (first
    | with_reducible assumption
    | with_reducible exact Keep.refl _
    | intro _
    | with_reducible apply KeepN.next
    | with_reducible apply regWriteWith_keep
    | with_reducible apply instCtrlEff_keep
    | with_reducible apply leashReceive_keep
    | split
    | dsimp -zeta only)

theorem execInstanceRemove_keep {M : Part → Prop} {z s : State} (h_dev : ¬ M .dev) (h_free : ¬ M .free) (h_regs : ¬ M .regs) (h_hold : ¬ M .hold) (h_od : ¬ M .od) (h_odBlob : ¬ M .odBlob) (h_odChange : ¬ M .odChange) (h_mem : ¬ M .mem) (h_memCtl : ¬ M .memCtl) (h_pwr : ¬ M .pwr) (h_start : ¬ M .start) (h_sdg : ¬ M .sdg) (h_frz : ¬ M .frz) (h_leash : ¬ M .leash) (h_params : ¬ M .params) (h_canopen : ¬ M .canopen) (h_sec : ¬ M .sec) (h_fuses : ¬ M .fuses) (h_knots : ¬ M .knots) (h_pack : ¬ M .pack) (h_cim : ¬ M .cim) (h_kennel : ¬ M .kennel) (h_cams : ¬ M .cams) (h_gfx : ¬ M .gfx) (h_pipes : ¬ M .pipes) (h_net : ¬ M .net) (h_can : ¬ M .can) (h_splice : ¬ M .splice) (h_wh : ¬ M .wh) (h_slots : ¬ M .slots) (h_safeSlots : ¬ M .safeSlots) (m : LeashMsg) (hz : Keep M z s) :
    KeepN M z (execInstanceRemove m s) := by
  unfold execInstanceRemove
  repeat' (first
    | with_reducible assumption
    | with_reducible exact Keep.refl _
    | intro _
    | with_reducible apply KeepN.next
    | with_reducible apply leashReceive_keep
    | split
    | dsimp -zeta only)

theorem execStreamEnable_keep {M : Part → Prop} {z s : State} (h_dev : ¬ M .dev) (h_free : ¬ M .free) (h_regs : ¬ M .regs) (h_hold : ¬ M .hold) (h_od : ¬ M .od) (h_odBlob : ¬ M .odBlob) (h_odChange : ¬ M .odChange) (h_mem : ¬ M .mem) (h_memCtl : ¬ M .memCtl) (h_pwr : ¬ M .pwr) (h_start : ¬ M .start) (h_sdg : ¬ M .sdg) (h_frz : ¬ M .frz) (h_leash : ¬ M .leash) (h_params : ¬ M .params) (h_canopen : ¬ M .canopen) (h_sec : ¬ M .sec) (h_fuses : ¬ M .fuses) (h_knots : ¬ M .knots) (h_pack : ¬ M .pack) (h_cim : ¬ M .cim) (h_kennel : ¬ M .kennel) (h_cams : ¬ M .cams) (h_gfx : ¬ M .gfx) (h_pipes : ¬ M .pipes) (h_net : ¬ M .net) (h_can : ¬ M .can) (h_splice : ¬ M .splice) (h_wh : ¬ M .wh) (h_slots : ¬ M .slots) (h_safeSlots : ¬ M .safeSlots) (m : LeashMsg) (hz : Keep M z s) :
    KeepN M z (execStreamEnable m s) := by
  unfold execStreamEnable
  repeat' (first
    | with_reducible assumption
    | with_reducible exact Keep.refl _
    | intro _
    | with_reducible apply KeepN.next
    | with_reducible apply leashReceive_keep
    | split
    | dsimp -zeta only)

theorem execStreamDisable_keep {M : Part → Prop} {z s : State} (h_dev : ¬ M .dev) (h_free : ¬ M .free) (h_regs : ¬ M .regs) (h_hold : ¬ M .hold) (h_od : ¬ M .od) (h_odBlob : ¬ M .odBlob) (h_odChange : ¬ M .odChange) (h_mem : ¬ M .mem) (h_memCtl : ¬ M .memCtl) (h_pwr : ¬ M .pwr) (h_start : ¬ M .start) (h_sdg : ¬ M .sdg) (h_frz : ¬ M .frz) (h_leash : ¬ M .leash) (h_params : ¬ M .params) (h_canopen : ¬ M .canopen) (h_sec : ¬ M .sec) (h_fuses : ¬ M .fuses) (h_knots : ¬ M .knots) (h_pack : ¬ M .pack) (h_cim : ¬ M .cim) (h_kennel : ¬ M .kennel) (h_cams : ¬ M .cams) (h_gfx : ¬ M .gfx) (h_pipes : ¬ M .pipes) (h_net : ¬ M .net) (h_can : ¬ M .can) (h_splice : ¬ M .splice) (h_wh : ¬ M .wh) (h_slots : ¬ M .slots) (h_safeSlots : ¬ M .safeSlots) (m : LeashMsg) (hz : Keep M z s) :
    KeepN M z (execStreamDisable m s) := by
  unfold execStreamDisable
  repeat' (first
    | with_reducible assumption
    | with_reducible exact Keep.refl _
    | intro _
    | with_reducible apply KeepN.next
    | with_reducible apply leashReceive_keep
    | split
    | dsimp -zeta only)

theorem execPipeEnable_keep {M : Part → Prop} {z s : State} (h_dev : ¬ M .dev) (h_free : ¬ M .free) (h_regs : ¬ M .regs) (h_hold : ¬ M .hold) (h_od : ¬ M .od) (h_odBlob : ¬ M .odBlob) (h_odChange : ¬ M .odChange) (h_mem : ¬ M .mem) (h_memCtl : ¬ M .memCtl) (h_pwr : ¬ M .pwr) (h_start : ¬ M .start) (h_sdg : ¬ M .sdg) (h_frz : ¬ M .frz) (h_leash : ¬ M .leash) (h_params : ¬ M .params) (h_canopen : ¬ M .canopen) (h_sec : ¬ M .sec) (h_fuses : ¬ M .fuses) (h_knots : ¬ M .knots) (h_pack : ¬ M .pack) (h_cim : ¬ M .cim) (h_kennel : ¬ M .kennel) (h_cams : ¬ M .cams) (h_gfx : ¬ M .gfx) (h_pipes : ¬ M .pipes) (h_net : ¬ M .net) (h_can : ¬ M .can) (h_splice : ¬ M .splice) (h_wh : ¬ M .wh) (h_slots : ¬ M .slots) (h_safeSlots : ¬ M .safeSlots) (m : LeashMsg) (hz : Keep M z s) :
    KeepN M z (execPipeEnable m s) := by
  unfold execPipeEnable
  repeat' (first
    | with_reducible assumption
    | with_reducible exact Keep.refl _
    | intro _
    | with_reducible apply KeepN.next
    | with_reducible apply leashReceive_keep
    | split
    | dsimp -zeta only)

theorem execLifecycleAdvance_keep {M : Part → Prop} {z s : State} (h_dev : ¬ M .dev) (h_free : ¬ M .free) (h_regs : ¬ M .regs) (h_hold : ¬ M .hold) (h_od : ¬ M .od) (h_odBlob : ¬ M .odBlob) (h_odChange : ¬ M .odChange) (h_mem : ¬ M .mem) (h_memCtl : ¬ M .memCtl) (h_pwr : ¬ M .pwr) (h_start : ¬ M .start) (h_sdg : ¬ M .sdg) (h_frz : ¬ M .frz) (h_leash : ¬ M .leash) (h_params : ¬ M .params) (h_canopen : ¬ M .canopen) (h_sec : ¬ M .sec) (h_fuses : ¬ M .fuses) (h_knots : ¬ M .knots) (h_pack : ¬ M .pack) (h_cim : ¬ M .cim) (h_kennel : ¬ M .kennel) (h_cams : ¬ M .cams) (h_gfx : ¬ M .gfx) (h_pipes : ¬ M .pipes) (h_net : ¬ M .net) (h_can : ¬ M .can) (h_splice : ¬ M .splice) (h_wh : ¬ M .wh) (h_slots : ¬ M .slots) (h_safeSlots : ¬ M .safeSlots) (m : LeashMsg) (hz : Keep M z s) :
    KeepN M z (execLifecycleAdvance m s) := by
  unfold execLifecycleAdvance
  repeat' (first
    | with_reducible assumption
    | with_reducible exact Keep.refl _
    | intro _
    | with_reducible apply KeepN.next
    | with_reducible apply leashReceive_keep
    | split
    | dsimp -zeta only)

theorem execRollbackRaise_keep {M : Part → Prop} {z s : State} (h_dev : ¬ M .dev) (h_free : ¬ M .free) (h_regs : ¬ M .regs) (h_hold : ¬ M .hold) (h_od : ¬ M .od) (h_odBlob : ¬ M .odBlob) (h_odChange : ¬ M .odChange) (h_mem : ¬ M .mem) (h_memCtl : ¬ M .memCtl) (h_pwr : ¬ M .pwr) (h_start : ¬ M .start) (h_sdg : ¬ M .sdg) (h_frz : ¬ M .frz) (h_leash : ¬ M .leash) (h_params : ¬ M .params) (h_canopen : ¬ M .canopen) (h_sec : ¬ M .sec) (h_fuses : ¬ M .fuses) (h_knots : ¬ M .knots) (h_pack : ¬ M .pack) (h_cim : ¬ M .cim) (h_kennel : ¬ M .kennel) (h_cams : ¬ M .cams) (h_gfx : ¬ M .gfx) (h_pipes : ¬ M .pipes) (h_net : ¬ M .net) (h_can : ¬ M .can) (h_splice : ¬ M .splice) (h_wh : ¬ M .wh) (h_slots : ¬ M .slots) (h_safeSlots : ¬ M .safeSlots) (m : LeashMsg) (hz : Keep M z s) :
    KeepN M z (execRollbackRaise m s) := by
  unfold execRollbackRaise
  repeat' (first
    | with_reducible assumption
    | with_reducible exact Keep.refl _
    | intro _
    | with_reducible apply KeepN.next
    | with_reducible apply leashReceive_keep
    | split
    | dsimp -zeta only)

theorem execSplitMaskProgram_keep {M : Part → Prop} {z s : State} (h_dev : ¬ M .dev) (h_free : ¬ M .free) (h_regs : ¬ M .regs) (h_hold : ¬ M .hold) (h_od : ¬ M .od) (h_odBlob : ¬ M .odBlob) (h_odChange : ¬ M .odChange) (h_mem : ¬ M .mem) (h_memCtl : ¬ M .memCtl) (h_pwr : ¬ M .pwr) (h_start : ¬ M .start) (h_sdg : ¬ M .sdg) (h_frz : ¬ M .frz) (h_leash : ¬ M .leash) (h_params : ¬ M .params) (h_canopen : ¬ M .canopen) (h_sec : ¬ M .sec) (h_fuses : ¬ M .fuses) (h_knots : ¬ M .knots) (h_pack : ¬ M .pack) (h_cim : ¬ M .cim) (h_kennel : ¬ M .kennel) (h_cams : ¬ M .cams) (h_gfx : ¬ M .gfx) (h_pipes : ¬ M .pipes) (h_net : ¬ M .net) (h_can : ¬ M .can) (h_splice : ¬ M .splice) (h_wh : ¬ M .wh) (h_slots : ¬ M .slots) (h_safeSlots : ¬ M .safeSlots) (m : LeashMsg) (hz : Keep M z s) :
    KeepN M z (execSplitMaskProgram m s) := by
  unfold execSplitMaskProgram
  repeat' (first
    | with_reducible assumption
    | with_reducible exact Keep.refl _
    | intro _
    | with_reducible apply KeepN.next
    | with_reducible apply leashReceive_keep
    | split
    | dsimp -zeta only)

theorem execKnotAssign_keep {M : Part → Prop} {z s : State} (h_dev : ¬ M .dev) (h_free : ¬ M .free) (h_regs : ¬ M .regs) (h_hold : ¬ M .hold) (h_od : ¬ M .od) (h_odBlob : ¬ M .odBlob) (h_odChange : ¬ M .odChange) (h_mem : ¬ M .mem) (h_memCtl : ¬ M .memCtl) (h_pwr : ¬ M .pwr) (h_start : ¬ M .start) (h_sdg : ¬ M .sdg) (h_frz : ¬ M .frz) (h_leash : ¬ M .leash) (h_params : ¬ M .params) (h_canopen : ¬ M .canopen) (h_sec : ¬ M .sec) (h_fuses : ¬ M .fuses) (h_knots : ¬ M .knots) (h_pack : ¬ M .pack) (h_cim : ¬ M .cim) (h_kennel : ¬ M .kennel) (h_cams : ¬ M .cams) (h_gfx : ¬ M .gfx) (h_pipes : ¬ M .pipes) (h_net : ¬ M .net) (h_can : ¬ M .can) (h_splice : ¬ M .splice) (h_wh : ¬ M .wh) (h_slots : ¬ M .slots) (h_safeSlots : ¬ M .safeSlots) (m : LeashMsg) (hz : Keep M z s) :
    KeepN M z (execKnotAssign m s) := by
  unfold execKnotAssign
  repeat' (first
    | with_reducible assumption
    | with_reducible exact Keep.refl _
    | intro _
    | with_reducible apply KeepN.next
    | with_reducible apply leashReceive_keep
    | split
    | dsimp -zeta only)

theorem execGateControlListWrite_keep {M : Part → Prop} {z s : State} (h_dev : ¬ M .dev) (h_free : ¬ M .free) (h_regs : ¬ M .regs) (h_hold : ¬ M .hold) (h_od : ¬ M .od) (h_odBlob : ¬ M .odBlob) (h_odChange : ¬ M .odChange) (h_mem : ¬ M .mem) (h_memCtl : ¬ M .memCtl) (h_pwr : ¬ M .pwr) (h_start : ¬ M .start) (h_sdg : ¬ M .sdg) (h_frz : ¬ M .frz) (h_leash : ¬ M .leash) (h_params : ¬ M .params) (h_canopen : ¬ M .canopen) (h_sec : ¬ M .sec) (h_fuses : ¬ M .fuses) (h_knots : ¬ M .knots) (h_pack : ¬ M .pack) (h_cim : ¬ M .cim) (h_kennel : ¬ M .kennel) (h_cams : ¬ M .cams) (h_gfx : ¬ M .gfx) (h_pipes : ¬ M .pipes) (h_net : ¬ M .net) (h_can : ¬ M .can) (h_splice : ¬ M .splice) (h_wh : ¬ M .wh) (h_slots : ¬ M .slots) (h_safeSlots : ¬ M .safeSlots) (m : LeashMsg) (hz : Keep M z s) :
    KeepN M z (execGateControlListWrite m s) := by
  unfold execGateControlListWrite
  repeat' (first
    | with_reducible assumption
    | with_reducible exact Keep.refl _
    | intro _
    | with_reducible apply KeepN.next
    | with_reducible apply leashReceive_keep
    | split
    | dsimp -zeta only)

theorem execCanRecover_keep {M : Part → Prop} {z s : State} (h_dev : ¬ M .dev) (h_free : ¬ M .free) (h_regs : ¬ M .regs) (h_hold : ¬ M .hold) (h_od : ¬ M .od) (h_odBlob : ¬ M .odBlob) (h_odChange : ¬ M .odChange) (h_mem : ¬ M .mem) (h_memCtl : ¬ M .memCtl) (h_pwr : ¬ M .pwr) (h_start : ¬ M .start) (h_sdg : ¬ M .sdg) (h_frz : ¬ M .frz) (h_leash : ¬ M .leash) (h_params : ¬ M .params) (h_canopen : ¬ M .canopen) (h_sec : ¬ M .sec) (h_fuses : ¬ M .fuses) (h_knots : ¬ M .knots) (h_pack : ¬ M .pack) (h_cim : ¬ M .cim) (h_kennel : ¬ M .kennel) (h_cams : ¬ M .cams) (h_gfx : ¬ M .gfx) (h_pipes : ¬ M .pipes) (h_net : ¬ M .net) (h_can : ¬ M .can) (h_splice : ¬ M .splice) (h_wh : ¬ M .wh) (h_slots : ¬ M .slots) (h_safeSlots : ¬ M .safeSlots) (m : LeashMsg) (hz : Keep M z s) :
    KeepN M z (execCanRecover m s) := by
  unfold execCanRecover
  repeat' (first
    | with_reducible assumption
    | with_reducible exact Keep.refl _
    | intro _
    | with_reducible apply KeepN.next
    | with_reducible apply leashReceive_keep
    | split
    | dsimp -zeta only)

theorem execRuleTableWrite_keep {M : Part → Prop} {z s : State} (h_dev : ¬ M .dev) (h_free : ¬ M .free) (h_regs : ¬ M .regs) (h_hold : ¬ M .hold) (h_od : ¬ M .od) (h_odBlob : ¬ M .odBlob) (h_odChange : ¬ M .odChange) (h_mem : ¬ M .mem) (h_memCtl : ¬ M .memCtl) (h_pwr : ¬ M .pwr) (h_start : ¬ M .start) (h_sdg : ¬ M .sdg) (h_frz : ¬ M .frz) (h_leash : ¬ M .leash) (h_params : ¬ M .params) (h_canopen : ¬ M .canopen) (h_sec : ¬ M .sec) (h_fuses : ¬ M .fuses) (h_knots : ¬ M .knots) (h_pack : ¬ M .pack) (h_cim : ¬ M .cim) (h_kennel : ¬ M .kennel) (h_cams : ¬ M .cams) (h_gfx : ¬ M .gfx) (h_pipes : ¬ M .pipes) (h_net : ¬ M .net) (h_can : ¬ M .can) (h_splice : ¬ M .splice) (h_wh : ¬ M .wh) (h_slots : ¬ M .slots) (h_safeSlots : ¬ M .safeSlots) (m : LeashMsg) (hz : Keep M z s) :
    KeepN M z (execRuleTableWrite m s) := by
  unfold execRuleTableWrite
  repeat' (first
    | with_reducible assumption
    | with_reducible exact Keep.refl _
    | intro _
    | with_reducible apply KeepN.next
    | with_reducible apply leashReceive_keep
    | split
    | dsimp -zeta only)

theorem execPollListWrite_keep {M : Part → Prop} {z s : State} (h_dev : ¬ M .dev) (h_free : ¬ M .free) (h_regs : ¬ M .regs) (h_hold : ¬ M .hold) (h_od : ¬ M .od) (h_odBlob : ¬ M .odBlob) (h_odChange : ¬ M .odChange) (h_mem : ¬ M .mem) (h_memCtl : ¬ M .memCtl) (h_pwr : ¬ M .pwr) (h_start : ¬ M .start) (h_sdg : ¬ M .sdg) (h_frz : ¬ M .frz) (h_leash : ¬ M .leash) (h_params : ¬ M .params) (h_canopen : ¬ M .canopen) (h_sec : ¬ M .sec) (h_fuses : ¬ M .fuses) (h_knots : ¬ M .knots) (h_pack : ¬ M .pack) (h_cim : ¬ M .cim) (h_kennel : ¬ M .kennel) (h_cams : ¬ M .cams) (h_gfx : ¬ M .gfx) (h_pipes : ¬ M .pipes) (h_net : ¬ M .net) (h_can : ¬ M .can) (h_splice : ¬ M .splice) (h_wh : ¬ M .wh) (h_slots : ¬ M .slots) (h_safeSlots : ¬ M .safeSlots) (m : LeashMsg) (hz : Keep M z s) :
    KeepN M z (execPollListWrite m s) := by
  unfold execPollListWrite
  repeat' (first
    | with_reducible assumption
    | with_reducible exact Keep.refl _
    | intro _
    | with_reducible apply KeepN.next
    | with_reducible apply leashReceive_keep
    | split
    | dsimp -zeta only)

theorem execPendantSlotEnable_keep {M : Part → Prop} {z s : State} (h_dev : ¬ M .dev) (h_free : ¬ M .free) (h_regs : ¬ M .regs) (h_hold : ¬ M .hold) (h_od : ¬ M .od) (h_odBlob : ¬ M .odBlob) (h_odChange : ¬ M .odChange) (h_mem : ¬ M .mem) (h_memCtl : ¬ M .memCtl) (h_pwr : ¬ M .pwr) (h_start : ¬ M .start) (h_sdg : ¬ M .sdg) (h_frz : ¬ M .frz) (h_leash : ¬ M .leash) (h_params : ¬ M .params) (h_canopen : ¬ M .canopen) (h_sec : ¬ M .sec) (h_fuses : ¬ M .fuses) (h_knots : ¬ M .knots) (h_pack : ¬ M .pack) (h_cim : ¬ M .cim) (h_kennel : ¬ M .kennel) (h_cams : ¬ M .cams) (h_gfx : ¬ M .gfx) (h_pipes : ¬ M .pipes) (h_net : ¬ M .net) (h_can : ¬ M .can) (h_splice : ¬ M .splice) (h_wh : ¬ M .wh) (h_slots : ¬ M .slots) (h_safeSlots : ¬ M .safeSlots) (m : LeashMsg) (hz : Keep M z s) :
    KeepN M z (execPendantSlotEnable m s) := by
  unfold execPendantSlotEnable
  repeat' (first
    | with_reducible assumption
    | with_reducible exact Keep.refl _
    | intro _
    | with_reducible apply KeepN.next
    | with_reducible apply leashReceive_keep
    | split
    | dsimp -zeta only)

theorem execFrzTriggerNow_keep {M : Part → Prop} {z s : State} (h_dev : ¬ M .dev) (h_free : ¬ M .free) (h_regs : ¬ M .regs) (h_hold : ¬ M .hold) (h_od : ¬ M .od) (h_odBlob : ¬ M .odBlob) (h_odChange : ¬ M .odChange) (h_mem : ¬ M .mem) (h_memCtl : ¬ M .memCtl) (h_pwr : ¬ M .pwr) (h_start : ¬ M .start) (h_sdg : ¬ M .sdg) (h_frz : ¬ M .frz) (h_leash : ¬ M .leash) (h_params : ¬ M .params) (h_canopen : ¬ M .canopen) (h_sec : ¬ M .sec) (h_fuses : ¬ M .fuses) (h_knots : ¬ M .knots) (h_pack : ¬ M .pack) (h_cim : ¬ M .cim) (h_kennel : ¬ M .kennel) (h_cams : ¬ M .cams) (h_gfx : ¬ M .gfx) (h_pipes : ¬ M .pipes) (h_net : ¬ M .net) (h_can : ¬ M .can) (h_splice : ¬ M .splice) (h_wh : ¬ M .wh) (h_slots : ¬ M .slots) (h_safeSlots : ¬ M .safeSlots) (m : LeashMsg) (hz : Keep M z s) :
    KeepN M z (execFrzTriggerNow m s) := by
  unfold execFrzTriggerNow
  repeat' (first
    | with_reducible assumption
    | with_reducible exact Keep.refl _
    | intro _
    | with_reducible apply KeepN.next
    | with_reducible apply leashReceive_keep
    | split
    | dsimp -zeta only)

theorem execFrzSchedule_keep {M : Part → Prop} {z s : State} (h_dev : ¬ M .dev) (h_free : ¬ M .free) (h_regs : ¬ M .regs) (h_hold : ¬ M .hold) (h_od : ¬ M .od) (h_odBlob : ¬ M .odBlob) (h_odChange : ¬ M .odChange) (h_mem : ¬ M .mem) (h_memCtl : ¬ M .memCtl) (h_pwr : ¬ M .pwr) (h_start : ¬ M .start) (h_sdg : ¬ M .sdg) (h_frz : ¬ M .frz) (h_leash : ¬ M .leash) (h_params : ¬ M .params) (h_canopen : ¬ M .canopen) (h_sec : ¬ M .sec) (h_fuses : ¬ M .fuses) (h_knots : ¬ M .knots) (h_pack : ¬ M .pack) (h_cim : ¬ M .cim) (h_kennel : ¬ M .kennel) (h_cams : ¬ M .cams) (h_gfx : ¬ M .gfx) (h_pipes : ¬ M .pipes) (h_net : ¬ M .net) (h_can : ¬ M .can) (h_splice : ¬ M .splice) (h_wh : ¬ M .wh) (h_slots : ¬ M .slots) (h_safeSlots : ¬ M .safeSlots) (m : LeashMsg) (hz : Keep M z s) :
    KeepN M z (execFrzSchedule m s) := by
  unfold execFrzSchedule
  repeat' (first
    | with_reducible assumption
    | with_reducible exact Keep.refl _
    | intro _
    | with_reducible apply KeepN.next
    | with_reducible apply leashReceive_keep
    | split
    | dsimp -zeta only)

theorem execFrzRelease_keep {M : Part → Prop} {z s : State} (h_dev : ¬ M .dev) (h_now : ¬ M .now) (h_free : ¬ M .free) (h_regs : ¬ M .regs) (h_hold : ¬ M .hold) (h_od : ¬ M .od) (h_odBlob : ¬ M .odBlob) (h_odChange : ¬ M .odChange) (h_mem : ¬ M .mem) (h_memCtl : ¬ M .memCtl) (h_pwr : ¬ M .pwr) (h_start : ¬ M .start) (h_sdg : ¬ M .sdg) (h_frz : ¬ M .frz) (h_leash : ¬ M .leash) (h_params : ¬ M .params) (h_canopen : ¬ M .canopen) (h_apps : ¬ M .apps) (h_sec : ¬ M .sec) (h_fuses : ¬ M .fuses) (h_knots : ¬ M .knots) (h_pack : ¬ M .pack) (h_cim : ¬ M .cim) (h_kennel : ¬ M .kennel) (h_cams : ¬ M .cams) (h_gfx : ¬ M .gfx) (h_pipes : ¬ M .pipes) (h_net : ¬ M .net) (h_can : ¬ M .can) (h_splice : ¬ M .splice) (h_wh : ¬ M .wh) (h_slots : ¬ M .slots) (h_safeSlots : ¬ M .safeSlots) (h_gtime : ¬ M .gtime) (acc : Access) (value : Word) (od : Option LeashMsg) (hz : Keep M z s) :
    KeepN M z (execFrzRelease acc value od s) := by
  unfold execFrzRelease
  repeat' (first
    | with_reducible assumption
    | with_reducible exact Keep.refl _
    | intro _
    | with_reducible apply KeepN.next
    | with_reducible apply regWriteWith_keep
    | with_reducible apply frzEff_keep
    | with_reducible apply leashReceive_keep
    | split
    | dsimp -zeta only)

theorem execFrzClearRecords_keep {M : Part → Prop} {z s : State} (h_dev : ¬ M .dev) (h_free : ¬ M .free) (h_regs : ¬ M .regs) (h_hold : ¬ M .hold) (h_od : ¬ M .od) (h_odBlob : ¬ M .odBlob) (h_odChange : ¬ M .odChange) (h_mem : ¬ M .mem) (h_memCtl : ¬ M .memCtl) (h_pwr : ¬ M .pwr) (h_start : ¬ M .start) (h_sdg : ¬ M .sdg) (h_frz : ¬ M .frz) (h_leash : ¬ M .leash) (h_params : ¬ M .params) (h_canopen : ¬ M .canopen) (h_sec : ¬ M .sec) (h_fuses : ¬ M .fuses) (h_knots : ¬ M .knots) (h_pack : ¬ M .pack) (h_cim : ¬ M .cim) (h_kennel : ¬ M .kennel) (h_cams : ¬ M .cams) (h_gfx : ¬ M .gfx) (h_pipes : ¬ M .pipes) (h_net : ¬ M .net) (h_can : ¬ M .can) (h_splice : ¬ M .splice) (h_wh : ¬ M .wh) (h_slots : ¬ M .slots) (h_safeSlots : ¬ M .safeSlots) (m : LeashMsg) (hz : Keep M z s) :
    KeepN M z (execFrzClearRecords m s) := by
  unfold execFrzClearRecords
  repeat' (first
    | with_reducible assumption
    | with_reducible exact Keep.refl _
    | intro _
    | with_reducible apply KeepN.next
    | with_reducible apply leashReceive_keep
    | split
    | dsimp -zeta only)

end Sys2Proof.Machine
end

