-- ==== Sys2Proof/Laws/Step.lean ====
section
/-! SUPPORT. What every command and every step keeps. -/

namespace Sys2Proof.Machine

/-- Every command leaves the queue alone, lets neither time nor the count of free values go back, only adds outputs, only burns fuses,
keeps the memory canonical and the safety pins as the device state asks. -/
theorem exec_keep (i : Instr) (s : State) : KeepN (fun p => p = .pins) s (exec i s) := by
  cases i with
  | vddAonPowerOn a0 a1 a2 a3 => exact execVddAonPowerOn_keep nofun nofun nofun nofun nofun nofun nofun nofun nofun nofun nofun nofun nofun nofun nofun nofun nofun nofun nofun nofun nofun nofun nofun nofun nofun nofun nofun nofun nofun nofun nofun nofun nofun nofun nofun nofun a0 a1 a2 a3 (Keep.refl s)
  | vddAonRemoved => exact execVddAonRemoved_keep nofun nofun nofun nofun nofun nofun nofun nofun nofun nofun nofun nofun nofun nofun nofun nofun nofun nofun nofun nofun nofun nofun nofun nofun nofun nofun nofun nofun nofun nofun nofun nofun nofun nofun (Keep.refl s)
  | porstNAssert a0 => exact execPorstNAssert_keep nofun nofun nofun nofun nofun nofun nofun nofun a0 (Keep.refl s)
  | porstNRelease a0 a1 a2 => exact execPorstNRelease_keep nofun nofun nofun nofun nofun nofun nofun nofun nofun nofun nofun nofun nofun nofun nofun nofun nofun nofun nofun nofun nofun nofun nofun nofun nofun nofun nofun nofun nofun nofun nofun nofun nofun nofun nofun a0 a1 a2 (Keep.refl s)
  | retentionRailExcursion a0 => exact execRetentionRailExcursion_keep nofun nofun a0 (Keep.refl s)
  | coreRailUndervoltage a0 => exact execCoreRailUndervoltage_keep nofun nofun nofun nofun nofun nofun nofun nofun nofun nofun a0 (Keep.refl s)
  | railWindow a0 => exact execRailWindow_keep nofun nofun nofun nofun nofun nofun nofun nofun a0 (Keep.refl s)
  | vsenseSample a0 => exact execVsenseSample_keep nofun nofun nofun nofun nofun nofun nofun nofun nofun nofun nofun nofun nofun nofun nofun a0 (Keep.refl s)
  | braceReturn => exact execBraceReturn_keep nofun nofun nofun nofun nofun nofun nofun nofun nofun nofun nofun nofun nofun (Keep.refl s)
  | controlledResetDone => exact execControlledResetDone_keep nofun nofun nofun nofun nofun nofun nofun nofun nofun (Keep.refl s)
  | restartExit a0 => exact execRestartExit_keep nofun nofun nofun nofun nofun nofun nofun nofun nofun nofun nofun nofun nofun nofun nofun nofun nofun nofun nofun nofun nofun nofun nofun nofun nofun nofun nofun nofun nofun nofun nofun nofun nofun nofun nofun a0 (Keep.refl s)
  | startReady a0 a1 => exact execStartReady_keep nofun nofun nofun nofun nofun nofun nofun nofun nofun nofun nofun nofun nofun nofun a0 a1 (Keep.refl s)
  | readyTimeout => exact execReadyTimeout_keep nofun nofun nofun nofun nofun nofun nofun nofun nofun nofun nofun (Keep.refl s)
  | warmReqNFall a0 => exact execWarmReqNFall_keep nofun nofun nofun nofun nofun nofun nofun nofun nofun a0 (Keep.refl s)
  | restartRequest a0 => exact execRestartRequest_keep nofun nofun nofun nofun nofun nofun nofun nofun nofun nofun nofun nofun nofun nofun nofun nofun nofun nofun nofun nofun nofun nofun nofun nofun nofun nofun nofun nofun nofun nofun nofun a0 (Keep.refl s)
  | tempSensorUpdate a0 => exact execTempSensorUpdate_keep nofun nofun nofun nofun nofun nofun nofun nofun nofun nofun a0 (Keep.refl s)
  | pmicPoll a0 => exact execPmicPoll_keep nofun nofun nofun nofun nofun nofun nofun nofun nofun nofun a0 (Keep.refl s)
  | pmbAlert a0 => exact execPmbAlert_keep nofun nofun nofun nofun nofun nofun nofun nofun a0 (Keep.refl s)
  | alarm a0 => exact execAlarm_keep nofun nofun nofun nofun nofun nofun nofun nofun a0 (Keep.refl s)
  | alarmLine a0 => exact execAlarmLine_keep nofun nofun nofun nofun nofun nofun nofun nofun a0 (Keep.refl s)
  | sdgSelf => exact execSdgSelf_keep nofun nofun nofun nofun nofun nofun nofun nofun (Keep.refl s)
  | safeAckNChange a0 => exact execSafeAckNChange_keep nofun a0 (Keep.refl s)
  | safeAckConfirmed => exact execSafeAckConfirmed_keep nofun nofun nofun nofun nofun nofun nofun nofun nofun nofun nofun (Keep.refl s)
  | safeAckMissing => exact execSafeAckMissing_keep nofun nofun nofun nofun nofun nofun nofun nofun nofun nofun (Keep.refl s)
  | restartFrameWaitEnd => exact execRestartFrameWaitEnd_keep nofun nofun nofun (Keep.refl s)
  | aliveToggle => exact execAliveToggle_keep nofun nofun nofun (Keep.refl s)
  | safetyStatusPeriodic => exact execSafetyStatusPeriodic_keep nofun nofun nofun (Keep.refl s)
  | safetyStatusTxDone => exact execSafetyStatusTxDone_keep nofun nofun (Keep.refl s)
  | safetyMsgFail => exact execSafetyMsgFail_keep nofun nofun nofun nofun nofun nofun nofun nofun nofun nofun (Keep.refl s)
  | wdgKick a0 a1 a2 => exact execWdgKick_keep nofun nofun nofun nofun nofun nofun nofun nofun nofun nofun nofun nofun nofun a0 a1 a2 (Keep.refl s)
  | wdgWindowOpen a0 => exact execWdgWindowOpen_keep nofun nofun nofun a0 (Keep.refl s)
  | wdgWindowClose a0 => exact execWdgWindowClose_keep nofun nofun nofun nofun nofun nofun nofun nofun nofun nofun a0 (Keep.refl s)
  | swAlarm a0 a1 => exact execSwAlarm_keep nofun nofun nofun nofun nofun nofun nofun nofun nofun nofun nofun nofun nofun a0 a1 (Keep.refl s)
  | clockMon a0 a1 => exact execClockMon_keep nofun nofun nofun nofun nofun nofun nofun nofun a0 a1 (Keep.refl s)
  | clkSdgMonitor a0 a1 => exact execClkSdgMonitor_keep nofun nofun nofun nofun nofun nofun nofun nofun a0 a1 (Keep.refl s)
  | latentTest a0 => exact execLatentTest_keep nofun nofun nofun nofun nofun nofun nofun nofun nofun nofun a0 (Keep.refl s)
  | fabricTimeout a0 => exact execFabricTimeout_keep nofun nofun nofun nofun nofun nofun nofun nofun a0 (Keep.refl s)
  | registerWrite a0 a1 => exact execRegisterWrite_keep nofun nofun nofun nofun nofun nofun nofun nofun nofun nofun nofun nofun nofun nofun nofun nofun nofun nofun nofun nofun nofun nofun nofun nofun nofun nofun nofun nofun nofun a0 a1 (Keep.refl s)
  | lowHalfRead a0 => exact execLowHalfRead_keep nofun nofun nofun nofun nofun nofun nofun nofun nofun nofun nofun nofun nofun nofun nofun nofun nofun a0 (Keep.refl s)
  | highHalfRead a0 => exact execHighHalfRead_keep nofun nofun nofun nofun nofun nofun nofun nofun nofun nofun nofun nofun nofun nofun nofun nofun nofun a0 (Keep.refl s)
  | lowHalfWrite a0 a1 => exact execLowHalfWrite_keep nofun nofun nofun nofun nofun nofun nofun nofun nofun nofun nofun nofun nofun nofun nofun nofun nofun nofun nofun nofun nofun nofun nofun nofun nofun nofun nofun nofun nofun a0 a1 (Keep.refl s)
  | highHalfWrite a0 a1 => exact execHighHalfWrite_keep nofun nofun nofun nofun nofun nofun nofun nofun nofun nofun nofun nofun nofun nofun nofun nofun nofun nofun nofun nofun nofun nofun nofun nofun nofun nofun nofun nofun nofun a0 a1 (Keep.refl s)
  | generationWaitEnd a0 => exact execGenerationWaitEnd_keep nofun nofun nofun a0 (Keep.refl s)
  | generationWaitTimeout a0 => exact execGenerationWaitTimeout_keep nofun nofun nofun nofun nofun nofun nofun nofun nofun nofun nofun a0 (Keep.refl s)
  | leashHello a0 => exact execLeashHello_keep nofun nofun nofun nofun nofun nofun nofun nofun nofun nofun nofun nofun nofun nofun nofun nofun nofun nofun nofun nofun nofun nofun nofun nofun nofun nofun nofun nofun nofun nofun nofun a0 (Keep.refl s)
  | leashProve a0 => exact execLeashProve_keep nofun nofun nofun nofun nofun nofun nofun nofun nofun nofun nofun nofun nofun nofun nofun nofun nofun nofun nofun nofun nofun nofun nofun nofun nofun nofun nofun nofun nofun nofun nofun a0 (Keep.refl s)
  | leashRead a0 => exact execLeashRead_keep nofun nofun nofun nofun nofun nofun nofun nofun nofun nofun nofun nofun nofun nofun nofun nofun nofun nofun nofun nofun nofun nofun nofun nofun nofun nofun nofun nofun nofun nofun nofun a0 (Keep.refl s)
  | leashWrite a0 => exact execLeashWrite_keep nofun nofun nofun nofun nofun nofun nofun nofun nofun nofun nofun nofun nofun nofun nofun nofun nofun nofun nofun nofun nofun nofun nofun nofun nofun nofun nofun nofun nofun nofun nofun a0 (Keep.refl s)
  | leashSegReadInit a0 => exact execLeashSegReadInit_keep nofun nofun nofun nofun nofun nofun nofun nofun nofun nofun nofun nofun nofun nofun nofun nofun nofun nofun nofun nofun nofun nofun nofun nofun nofun nofun nofun nofun nofun nofun nofun a0 (Keep.refl s)
  | leashSegRead a0 => exact execLeashSegRead_keep nofun nofun nofun nofun nofun nofun nofun nofun nofun nofun nofun nofun nofun nofun nofun nofun nofun nofun nofun nofun nofun nofun nofun nofun nofun nofun nofun nofun nofun nofun nofun a0 (Keep.refl s)
  | leashSegWriteInit a0 => exact execLeashSegWriteInit_keep nofun nofun nofun nofun nofun nofun nofun nofun nofun nofun nofun nofun nofun nofun nofun nofun nofun nofun nofun nofun nofun nofun nofun nofun nofun nofun nofun nofun nofun nofun nofun a0 (Keep.refl s)
  | leashSegWrite a0 => exact execLeashSegWrite_keep nofun nofun nofun nofun nofun nofun nofun nofun nofun nofun nofun nofun nofun nofun nofun nofun nofun nofun nofun nofun nofun nofun nofun nofun nofun nofun nofun nofun nofun nofun nofun a0 (Keep.refl s)
  | leashClose a0 => exact execLeashClose_keep nofun nofun nofun nofun nofun nofun nofun nofun nofun nofun nofun nofun nofun nofun nofun nofun nofun nofun nofun nofun nofun nofun nofun nofun nofun nofun nofun nofun nofun nofun nofun a0 (Keep.refl s)
  | leashNop a0 => exact execLeashNop_keep nofun nofun nofun nofun nofun nofun nofun nofun nofun nofun nofun nofun nofun nofun nofun nofun nofun nofun nofun nofun nofun nofun nofun nofun nofun nofun nofun nofun nofun nofun nofun a0 (Keep.refl s)
  | proveTimeout a0 => exact execProveTimeout_keep nofun nofun nofun a0 (Keep.refl s)
  | idleTimeout a0 => exact execIdleTimeout_keep nofun nofun nofun a0 (Keep.refl s)
  | lockoutExpiry a0 => exact execLockoutExpiry_keep nofun nofun nofun a0 (Keep.refl s)
  | storeAllParameters a0 => exact execStoreAllParameters_keep nofun nofun nofun nofun nofun nofun nofun nofun nofun nofun nofun nofun nofun nofun nofun nofun nofun nofun nofun nofun nofun nofun nofun nofun nofun nofun nofun nofun nofun nofun nofun a0 (Keep.refl s)
  | storeDone a0 => exact execStoreDone_keep nofun nofun nofun a0 (Keep.refl s)
  | restoreDefaultParameters a0 => exact execRestoreDefaultParameters_keep nofun nofun nofun nofun nofun nofun nofun nofun nofun nofun nofun nofun nofun nofun nofun nofun nofun nofun nofun nofun nofun nofun nofun nofun nofun nofun nofun nofun nofun nofun nofun a0 (Keep.refl s)
  | errorHistoryClear a0 => exact execErrorHistoryClear_keep nofun nofun nofun nofun nofun nofun nofun nofun nofun nofun nofun nofun nofun nofun nofun nofun nofun nofun nofun nofun nofun nofun nofun nofun nofun nofun nofun nofun nofun nofun nofun a0 (Keep.refl s)
  | credentialWrite a0 a1 => exact execCredentialWrite_keep nofun nofun nofun nofun nofun nofun nofun nofun nofun nofun nofun nofun nofun nofun nofun nofun nofun nofun nofun nofun nofun nofun nofun nofun nofun nofun nofun nofun nofun nofun nofun a0 a1 (Keep.refl s)
  | usdoUpload a0 a1 => exact execUsdoUpload_keep nofun nofun a0 a1 (Keep.refl s)
  | usdoDownload a0 a1 => exact execUsdoDownload_keep nofun a0 a1 (Keep.refl s)
  | nmtCommand a0 a1 => exact execNmtCommand_keep nofun a0 a1 (Keep.refl s)
  | heartbeatProducer => exact execHeartbeatProducer_keep nofun nofun nofun nofun (Keep.refl s)
  | tpdoEventTimer a0 => exact execTpdoEventTimer_keep nofun nofun nofun nofun a0 (Keep.refl s)
  | dramRead a0 a1 a2 a3 => exact execDramRead_keep nofun nofun nofun nofun nofun nofun nofun nofun nofun nofun nofun nofun nofun a0 a1 a2 a3 (Keep.refl s)
  | demandScrub a0 => exact execDemandScrub_keep nofun a0 (Keep.refl s)
  | sramRead a0 a1 a2 => exact execSramRead_keep nofun nofun nofun nofun nofun nofun nofun nofun nofun nofun nofun nofun nofun a0 a1 a2 (Keep.refl s)
  | codedWrite a0 a1 a2 => exact execCodedWrite_keep nofun nofun nofun nofun nofun nofun nofun nofun nofun nofun nofun nofun a0 a1 a2 (Keep.refl s)
  | patrolScrub a0 a1 a2 => exact execPatrolScrub_keep nofun nofun nofun nofun nofun nofun nofun nofun nofun nofun nofun nofun nofun nofun a0 a1 a2 (Keep.refl s)
  | patrolPassStart => exact execPatrolPassStart_keep nofun nofun nofun (Keep.refl s)
  | lockstepMismatch a0 => exact execLockstepMismatch_keep nofun nofun nofun nofun nofun nofun nofun nofun nofun nofun nofun a0 (Keep.refl s)
  | coreRelease a0 a1 => exact execCoreRelease_keep nofun nofun nofun nofun nofun nofun nofun nofun nofun nofun nofun nofun nofun nofun a0 a1 (Keep.refl s)
  | handoverSplit a0 a1 a2 => exact execHandoverSplit_keep nofun nofun nofun nofun nofun nofun nofun nofun nofun nofun nofun nofun nofun nofun a0 a1 a2 (Keep.refl s)
  | handoverRejoin a0 a1 a2 => exact execHandoverRejoin_keep nofun nofun nofun nofun nofun nofun nofun nofun nofun nofun nofun nofun nofun nofun a0 a1 a2 (Keep.refl s)
  | handoverConfirm a0 a1 => exact execHandoverConfirm_keep nofun nofun nofun nofun nofun nofun nofun nofun nofun nofun nofun nofun nofun nofun a0 a1 (Keep.refl s)
  | handoverConfirmTimeout => exact execHandoverConfirmTimeout_keep nofun nofun nofun nofun (Keep.refl s)
  | packDoorbell a0 a1 a2 a3 => exact execPackDoorbell_keep nofun nofun nofun nofun nofun nofun nofun nofun nofun nofun nofun nofun nofun a0 a1 a2 a3 (Keep.refl s)
  | queueConfigWrite a0 a1 a2 a3 => exact execQueueConfigWrite_keep nofun nofun nofun nofun nofun nofun nofun nofun nofun nofun nofun nofun nofun a0 a1 a2 a3 (Keep.refl s)
  | queueStop a0 a1 a2 => exact execQueueStop_keep nofun nofun nofun nofun nofun nofun nofun nofun nofun nofun nofun nofun nofun nofun nofun nofun nofun nofun a0 a1 a2 (Keep.refl s)
  | queueStart a0 a1 a2 => exact execQueueStart_keep nofun nofun nofun nofun nofun nofun nofun nofun nofun nofun nofun nofun nofun nofun nofun nofun nofun nofun a0 a1 a2 (Keep.refl s)
  | queueFlush a0 a1 a2 => exact execQueueFlush_keep nofun nofun nofun nofun nofun nofun nofun nofun nofun nofun nofun nofun nofun nofun nofun nofun nofun nofun a0 a1 a2 (Keep.refl s)
  | cqHeadWrite a0 a1 a2 a3 => exact execCqHeadWrite_keep nofun nofun nofun nofun nofun nofun nofun nofun nofun nofun nofun nofun nofun a0 a1 a2 a3 (Keep.refl s)
  | descriptorFetch a0 a1 => exact execDescriptorFetch_keep nofun nofun nofun nofun nofun nofun nofun nofun nofun nofun nofun nofun nofun nofun a0 a1 (Keep.refl s)
  | nop a0 a1 => exact execNop_keep nofun nofun nofun nofun nofun nofun nofun nofun nofun nofun nofun nofun nofun nofun nofun nofun nofun a0 a1 (Keep.refl s)
  | fence a0 a1 => exact execFence_keep nofun nofun nofun nofun nofun nofun nofun nofun nofun nofun nofun nofun nofun nofun nofun nofun nofun a0 a1 (Keep.refl s)
  | checkpoint a0 a1 => exact execCheckpoint_keep nofun nofun nofun nofun nofun nofun nofun nofun nofun nofun nofun nofun nofun nofun nofun nofun nofun a0 a1 (Keep.refl s)
  | knotWait a0 a1 => exact execKnotWait_keep nofun nofun nofun nofun nofun nofun nofun nofun nofun nofun nofun nofun nofun nofun nofun nofun nofun a0 a1 (Keep.refl s)
  | knotSignal a0 a1 => exact execKnotSignal_keep nofun nofun nofun nofun nofun nofun nofun nofun nofun nofun nofun nofun nofun nofun nofun nofun nofun a0 a1 (Keep.refl s)
  | copy a0 a1 => exact execCopy_keep nofun nofun nofun nofun nofun nofun nofun nofun nofun nofun nofun nofun nofun nofun nofun nofun nofun a0 a1 (Keep.refl s)
  | matmul a0 a1 => exact execMatmul_keep nofun nofun nofun nofun nofun nofun nofun nofun nofun nofun nofun nofun nofun nofun nofun nofun nofun a0 a1 (Keep.refl s)
  | conv2d a0 a1 => exact execConv2d_keep nofun nofun nofun nofun nofun nofun nofun nofun nofun nofun nofun nofun nofun nofun nofun nofun nofun a0 a1 (Keep.refl s)
  | vecAdd a0 a1 => exact execVecAdd_keep nofun nofun nofun nofun nofun nofun nofun nofun nofun nofun nofun nofun nofun nofun nofun nofun nofun a0 a1 (Keep.refl s)
  | vecMul a0 a1 => exact execVecMul_keep nofun nofun nofun nofun nofun nofun nofun nofun nofun nofun nofun nofun nofun nofun nofun nofun nofun a0 a1 (Keep.refl s)
  | vecMax a0 a1 => exact execVecMax_keep nofun nofun nofun nofun nofun nofun nofun nofun nofun nofun nofun nofun nofun nofun nofun nofun nofun a0 a1 (Keep.refl s)
  | vecMin a0 a1 => exact execVecMin_keep nofun nofun nofun nofun nofun nofun nofun nofun nofun nofun nofun nofun nofun nofun nofun nofun nofun a0 a1 (Keep.refl s)
  | vecAxpb a0 a1 => exact execVecAxpb_keep nofun nofun nofun nofun nofun nofun nofun nofun nofun nofun nofun nofun nofun nofun nofun nofun nofun a0 a1 (Keep.refl s)
  | vecRelu a0 a1 => exact execVecRelu_keep nofun nofun nofun nofun nofun nofun nofun nofun nofun nofun nofun nofun nofun nofun nofun nofun nofun a0 a1 (Keep.refl s)
  | vecClamp a0 a1 => exact execVecClamp_keep nofun nofun nofun nofun nofun nofun nofun nofun nofun nofun nofun nofun nofun nofun nofun nofun nofun a0 a1 (Keep.refl s)
  | vecGelu a0 a1 => exact execVecGelu_keep nofun nofun nofun nofun nofun nofun nofun nofun nofun nofun nofun nofun nofun nofun nofun nofun nofun a0 a1 (Keep.refl s)
  | vecSigmoid a0 a1 => exact execVecSigmoid_keep nofun nofun nofun nofun nofun nofun nofun nofun nofun nofun nofun nofun nofun nofun nofun nofun nofun a0 a1 (Keep.refl s)
  | vecTanh a0 a1 => exact execVecTanh_keep nofun nofun nofun nofun nofun nofun nofun nofun nofun nofun nofun nofun nofun nofun nofun nofun nofun a0 a1 (Keep.refl s)
  | vecExp a0 a1 => exact execVecExp_keep nofun nofun nofun nofun nofun nofun nofun nofun nofun nofun nofun nofun nofun nofun nofun nofun nofun a0 a1 (Keep.refl s)
  | vecRsqrt a0 a1 => exact execVecRsqrt_keep nofun nofun nofun nofun nofun nofun nofun nofun nofun nofun nofun nofun nofun nofun nofun nofun nofun a0 a1 (Keep.refl s)
  | vecSoftmax a0 a1 => exact execVecSoftmax_keep nofun nofun nofun nofun nofun nofun nofun nofun nofun nofun nofun nofun nofun nofun nofun nofun nofun a0 a1 (Keep.refl s)
  | vecLayernorm a0 a1 => exact execVecLayernorm_keep nofun nofun nofun nofun nofun nofun nofun nofun nofun nofun nofun nofun nofun nofun nofun nofun nofun a0 a1 (Keep.refl s)
  | vecRmsnorm a0 a1 => exact execVecRmsnorm_keep nofun nofun nofun nofun nofun nofun nofun nofun nofun nofun nofun nofun nofun nofun nofun nofun nofun a0 a1 (Keep.refl s)
  | vecRowSum a0 a1 => exact execVecRowSum_keep nofun nofun nofun nofun nofun nofun nofun nofun nofun nofun nofun nofun nofun nofun nofun nofun nofun a0 a1 (Keep.refl s)
  | vecRowMax a0 a1 => exact execVecRowMax_keep nofun nofun nofun nofun nofun nofun nofun nofun nofun nofun nofun nofun nofun nofun nofun nofun nofun a0 a1 (Keep.refl s)
  | vecConvert a0 a1 => exact execVecConvert_keep nofun nofun nofun nofun nofun nofun nofun nofun nofun nofun nofun nofun nofun nofun nofun nofun nofun a0 a1 (Keep.refl s)
  | cimRun a0 a1 => exact execCimRun_keep nofun nofun nofun nofun nofun nofun nofun nofun nofun nofun nofun nofun nofun nofun nofun nofun nofun a0 a1 (Keep.refl s)
  | cimLoad a0 a1 => exact execCimLoad_keep nofun nofun nofun nofun nofun nofun nofun nofun nofun nofun nofun nofun nofun nofun nofun nofun nofun a0 a1 (Keep.refl s)
  | attn a0 a1 => exact execAttn_keep nofun nofun nofun nofun nofun nofun nofun nofun nofun nofun nofun nofun nofun nofun nofun nofun nofun a0 a1 (Keep.refl s)
  | attnVerifyAttend a0 a1 => exact execAttnVerifyAttend_keep nofun nofun nofun nofun nofun nofun nofun nofun nofun nofun nofun nofun nofun nofun nofun nofun nofun a0 a1 (Keep.refl s)
  | attnVerifyAccept a0 a1 => exact execAttnVerifyAccept_keep nofun nofun nofun nofun nofun nofun nofun nofun nofun nofun nofun nofun nofun nofun nofun nofun nofun a0 a1 (Keep.refl s)
  | tileStart a0 a1 a2 => exact execTileStart_keep nofun nofun nofun nofun nofun nofun nofun nofun nofun nofun nofun nofun nofun nofun nofun nofun a0 a1 a2 (Keep.refl s)
  | tileCommit a0 a1 a2 a3 => exact execTileCommit_keep nofun nofun nofun nofun nofun nofun nofun nofun nofun nofun nofun nofun nofun a0 a1 a2 a3 (Keep.refl s)
  | tileHang a0 a1 => exact execTileHang_keep nofun nofun nofun nofun nofun nofun nofun nofun nofun nofun a0 a1 (Keep.refl s)
  | completionWrite a0 a1 => exact execCompletionWrite_keep nofun nofun nofun nofun nofun nofun nofun a0 a1 (Keep.refl s)
  | knotWaitRelease a0 a1 => exact execKnotWaitRelease_keep nofun nofun a0 a1 (Keep.refl s)
  | knotWaitTimeout a0 a1 => exact execKnotWaitTimeout_keep nofun nofun nofun nofun a0 a1 (Keep.refl s)
  | calDue a0 a1 a2 => exact execCalDue_keep nofun nofun nofun a0 a1 a2 (Keep.refl s)
  | calibrationStart a0 => exact execCalibrationStart_keep nofun a0 (Keep.refl s)
  | calibrationDone a0 a1 a2 => exact execCalibrationDone_keep nofun nofun nofun nofun nofun nofun nofun nofun nofun nofun nofun a0 a1 a2 (Keep.refl s)
  | calOverdue a0 a1 => exact execCalOverdue_keep nofun nofun nofun nofun nofun nofun nofun nofun nofun nofun nofun a0 a1 (Keep.refl s)
  | engineKindWrite a0 => exact execEngineKindWrite_keep nofun nofun nofun nofun nofun nofun nofun nofun nofun nofun nofun nofun nofun nofun nofun nofun nofun nofun nofun nofun nofun nofun nofun nofun nofun nofun nofun nofun nofun nofun nofun a0 (Keep.refl s)
  | rosterTableWrite a0 => exact execRosterTableWrite_keep nofun nofun nofun nofun nofun nofun nofun nofun nofun nofun nofun nofun nofun nofun nofun nofun nofun nofun nofun nofun nofun nofun nofun nofun nofun nofun nofun nofun nofun nofun nofun a0 (Keep.refl s)
  | rosterSelect a0 => exact execRosterSelect_keep nofun nofun nofun nofun nofun nofun nofun nofun nofun nofun nofun nofun nofun nofun nofun nofun nofun nofun nofun nofun nofun nofun nofun nofun nofun nofun nofun nofun nofun nofun nofun a0 (Keep.refl s)
  | rosterFrameStart => exact execRosterFrameStart_keep nofun nofun nofun nofun nofun (Keep.refl s)
  | slotStart a0 => exact execSlotStart_keep nofun nofun nofun nofun nofun a0 (Keep.refl s)
  | slotEnd a0 => exact execSlotEnd_keep nofun nofun nofun nofun nofun a0 (Keep.refl s)
  | slowdownWindow a0 a1 a2 => exact execSlowdownWindow_keep nofun nofun nofun nofun a0 a1 a2 (Keep.refl s)
  | packModeWrite a0 => exact execPackModeWrite_keep nofun nofun nofun nofun nofun nofun nofun nofun nofun nofun nofun nofun nofun nofun nofun nofun nofun nofun nofun nofun nofun nofun nofun nofun nofun nofun nofun nofun nofun nofun nofun a0 (Keep.refl s)
  | packScrubDone a0 => exact execPackScrubDone_keep nofun nofun nofun nofun nofun nofun nofun nofun nofun a0 (Keep.refl s)
  | kseqAlloc a0 a1 => exact execKseqAlloc_keep nofun nofun nofun nofun nofun nofun nofun nofun nofun nofun nofun nofun nofun nofun nofun nofun nofun nofun a0 a1 (Keep.refl s)
  | kseqFree a0 a1 a2 => exact execKseqFree_keep nofun nofun nofun nofun nofun nofun nofun nofun nofun nofun nofun nofun nofun nofun nofun nofun nofun nofun a0 a1 a2 (Keep.refl s)
  | kseqTrim a0 a1 a2 => exact execKseqTrim_keep nofun nofun nofun nofun nofun nofun nofun nofun nofun nofun nofun nofun nofun nofun nofun nofun nofun nofun a0 a1 a2 (Keep.refl s)
  | kseqResume a0 a1 a2 => exact execKseqResume_keep nofun nofun nofun nofun nofun nofun nofun nofun nofun nofun nofun nofun nofun nofun nofun nofun nofun nofun a0 a1 a2 (Keep.refl s)
  | kseqQuery a0 a1 a2 => exact execKseqQuery_keep nofun nofun nofun nofun nofun nofun nofun nofun nofun nofun nofun nofun nofun nofun nofun nofun nofun nofun a0 a1 a2 (Keep.refl s)
  | swapOutDone a0 => exact execSwapOutDone_keep nofun nofun nofun nofun nofun nofun nofun nofun nofun nofun nofun nofun nofun a0 (Keep.refl s)
  | swapInDone a0 => exact execSwapInDone_keep nofun nofun nofun nofun nofun nofun nofun nofun nofun nofun nofun nofun nofun a0 (Keep.refl s)
  | pageZeroed a0 => exact execPageZeroed_keep nofun nofun nofun a0 (Keep.refl s)
  | kennelAllocGrant a0 => exact execKennelAllocGrant_keep nofun nofun nofun nofun nofun nofun nofun nofun nofun nofun nofun nofun nofun nofun nofun nofun nofun a0 (Keep.refl s)
  | instanceCreate a0 => exact execInstanceCreate_keep nofun nofun nofun nofun nofun nofun nofun nofun nofun nofun nofun nofun nofun nofun nofun nofun nofun nofun nofun nofun nofun nofun nofun nofun nofun nofun nofun nofun nofun nofun nofun a0 (Keep.refl s)
  | instanceReset a0 a1 a2 => exact execInstanceReset_keep nofun nofun nofun nofun nofun nofun nofun nofun nofun nofun nofun nofun nofun nofun nofun nofun nofun nofun nofun nofun nofun nofun nofun nofun nofun nofun nofun nofun nofun nofun nofun nofun nofun nofun a0 a1 a2 (Keep.refl s)
  | instanceRemove a0 => exact execInstanceRemove_keep nofun nofun nofun nofun nofun nofun nofun nofun nofun nofun nofun nofun nofun nofun nofun nofun nofun nofun nofun nofun nofun nofun nofun nofun nofun nofun nofun nofun nofun nofun nofun a0 (Keep.refl s)
  | frameStartPacket a0 a1 => exact execFrameStartPacket_keep nofun nofun nofun nofun nofun nofun nofun nofun nofun nofun nofun nofun nofun nofun nofun nofun a0 a1 (Keep.refl s)
  | csiLongPacket a0 a1 a2 a3 a4 a5 => exact execCsiLongPacket_keep nofun nofun nofun nofun nofun nofun nofun nofun nofun nofun nofun nofun nofun a0 a1 a2 a3 a4 a5 (Keep.refl s)
  | embeddedDataPacket a0 a1 a2 => exact execEmbeddedDataPacket_keep nofun nofun a0 a1 a2 (Keep.refl s)
  | frameEndPacket a0 a1 => exact execFrameEndPacket_keep nofun nofun nofun nofun nofun nofun nofun nofun nofun nofun nofun nofun nofun nofun nofun nofun a0 a1 (Keep.refl s)
  | testLinesAtDma a0 a1 => exact execTestLinesAtDma_keep nofun nofun nofun nofun nofun nofun nofun nofun nofun nofun nofun nofun nofun nofun nofun nofun a0 a1 (Keep.refl s)
  | testLineTimeout a0 => exact execTestLineTimeout_keep nofun nofun nofun nofun nofun nofun nofun nofun nofun nofun nofun nofun nofun nofun nofun nofun nofun nofun a0 (Keep.refl s)
  | frameTimeout a0 => exact execFrameTimeout_keep nofun nofun nofun nofun nofun nofun nofun nofun nofun nofun nofun a0 (Keep.refl s)
  | releasedWrite a0 a1 a2 => exact execReleasedWrite_keep nofun nofun nofun nofun nofun nofun nofun nofun nofun nofun nofun nofun nofun a0 a1 a2 (Keep.refl s)
  | streamEnable a0 => exact execStreamEnable_keep nofun nofun nofun nofun nofun nofun nofun nofun nofun nofun nofun nofun nofun nofun nofun nofun nofun nofun nofun nofun nofun nofun nofun nofun nofun nofun nofun nofun nofun nofun nofun a0 (Keep.refl s)
  | streamDisable a0 => exact execStreamDisable_keep nofun nofun nofun nofun nofun nofun nofun nofun nofun nofun nofun nofun nofun nofun nofun nofun nofun nofun nofun nofun nofun nofun nofun nofun nofun nofun nofun nofun nofun nofun nofun a0 (Keep.refl s)
  | gfxDoorbell a0 a1 a2 => exact execGfxDoorbell_keep nofun nofun nofun nofun nofun nofun nofun nofun nofun nofun nofun nofun nofun nofun a0 a1 a2 (Keep.refl s)
  | gfxSubmissionFetch a0 => exact execGfxSubmissionFetch_keep nofun nofun nofun nofun nofun nofun nofun nofun nofun nofun nofun nofun nofun a0 (Keep.refl s)
  | gfxSubmissionStart a0 a1 a2 => exact execGfxSubmissionStart_keep nofun nofun nofun nofun nofun nofun a0 a1 a2 (Keep.refl s)
  | gfxPreemptionPoint a0 a1 => exact execGfxPreemptionPoint_keep nofun nofun nofun nofun nofun nofun nofun nofun nofun nofun nofun nofun nofun a0 a1 (Keep.refl s)
  | gfxSubmissionDone a0 a1 a2 a3 => exact execGfxSubmissionDone_keep nofun nofun nofun nofun nofun nofun nofun nofun nofun nofun nofun nofun nofun nofun nofun nofun a0 a1 a2 a3 (Keep.refl s)
  | timesliceExpiry => exact execTimesliceExpiry_keep nofun nofun nofun (Keep.refl s)
  | preemptTimeout a0 => exact execPreemptTimeout_keep nofun nofun nofun nofun nofun nofun nofun nofun a0 (Keep.refl s)
  | shaderFault a0 => exact execShaderFault_keep nofun nofun nofun nofun nofun nofun a0 (Keep.refl s)
  | gfxCoreStopTimeout => exact execGfxCoreStopTimeout_keep nofun nofun nofun nofun nofun nofun nofun nofun nofun nofun nofun (Keep.refl s)
  | gfxQueueStop a0 a1 => exact execGfxQueueStop_keep nofun nofun nofun nofun nofun nofun nofun nofun nofun nofun nofun nofun nofun nofun nofun nofun nofun nofun a0 a1 (Keep.refl s)
  | gfxQueueStart a0 a1 => exact execGfxQueueStart_keep nofun nofun nofun nofun nofun nofun nofun nofun nofun nofun nofun nofun nofun nofun nofun nofun nofun nofun a0 a1 (Keep.refl s)
  | gfxQueueFlush a0 a1 => exact execGfxQueueFlush_keep nofun nofun nofun nofun nofun nofun nofun nofun nofun nofun nofun nofun nofun nofun nofun nofun nofun nofun a0 a1 (Keep.refl s)
  | dispFrameStart a0 => exact execDispFrameStart_keep nofun nofun nofun nofun nofun nofun nofun nofun nofun nofun nofun nofun nofun nofun nofun a0 (Keep.refl s)
  | dispRegionCrc a0 a1 a2 => exact execDispRegionCrc_keep nofun nofun nofun nofun nofun nofun nofun nofun a0 a1 a2 (Keep.refl s)
  | scanoutUnderflow a0 => exact execScanoutUnderflow_keep nofun nofun a0 (Keep.refl s)
  | planeAddrWrite a0 a1 a2 a3 => exact execPlaneAddrWrite_keep nofun nofun nofun nofun nofun nofun nofun nofun nofun nofun nofun nofun nofun a0 a1 a2 a3 (Keep.refl s)
  | expCommit a0 a1 a2 => exact execExpCommit_keep nofun nofun nofun nofun nofun nofun nofun nofun nofun nofun nofun nofun nofun nofun a0 a1 a2 (Keep.refl s)
  | pipeEnable a0 => exact execPipeEnable_keep nofun nofun nofun nofun nofun nofun nofun nofun nofun nofun nofun nofun nofun nofun nofun nofun nofun nofun nofun nofun nofun nofun nofun nofun nofun nofun nofun nofun nofun nofun nofun a0 (Keep.refl s)
  | appRelease a0 a1 => exact execAppRelease_keep nofun nofun nofun nofun nofun nofun nofun nofun nofun nofun nofun nofun nofun a0 a1 (Keep.refl s)
  | mworldWrite a0 a1 a2 a3 a4 => exact execMworldWrite_keep nofun a0 a1 a2 a3 a4 (Keep.refl s)
  | filterLock a0 a1 => exact execFilterLock_keep nofun nofun nofun nofun nofun nofun nofun nofun nofun nofun nofun nofun nofun a0 a1 (Keep.refl s)
  | derivationRequest a0 a1 a2 a3 => exact execDerivationRequest_keep nofun a0 a1 a2 a3 (Keep.refl s)
  | attestationSign a0 a1 => exact execAttestationSign_keep a0 a1 (Keep.refl s)
  | measGo a0 a1 => exact execMeasGo_keep nofun nofun nofun nofun nofun nofun nofun nofun nofun nofun nofun nofun nofun nofun a0 a1 (Keep.refl s)
  | measurementDone => exact execMeasurementDone_keep nofun nofun nofun nofun nofun nofun nofun nofun nofun nofun nofun nofun nofun nofun (Keep.refl s)
  | mboxDoorbell a0 a1 a2 => exact execMboxDoorbell_keep nofun nofun nofun nofun nofun nofun nofun nofun nofun nofun nofun nofun nofun nofun a0 a1 a2 (Keep.refl s)
  | mboxResp a0 a1 a2 => exact execMboxResp_keep nofun nofun nofun nofun nofun nofun nofun nofun nofun nofun nofun nofun nofun nofun a0 a1 a2 (Keep.refl s)
  | twKick a0 a1 => exact execTwKick_keep nofun nofun nofun nofun nofun nofun nofun nofun nofun nofun nofun nofun nofun nofun a0 a1 (Keep.refl s)
  | trustedWdg => exact execTrustedWdg_keep nofun nofun nofun nofun nofun nofun nofun nofun nofun nofun nofun (Keep.refl s)
  | lifecycleAdvance a0 => exact execLifecycleAdvance_keep nofun nofun nofun nofun nofun nofun nofun nofun nofun nofun nofun nofun nofun nofun nofun nofun nofun nofun nofun nofun nofun nofun nofun nofun nofun nofun nofun nofun nofun nofun nofun a0 (Keep.refl s)
  | rollbackRaise a0 => exact execRollbackRaise_keep nofun nofun nofun nofun nofun nofun nofun nofun nofun nofun nofun nofun nofun nofun nofun nofun nofun nofun nofun nofun nofun nofun nofun nofun nofun nofun nofun nofun nofun nofun nofun a0 (Keep.refl s)
  | splitMaskProgram a0 => exact execSplitMaskProgram_keep nofun nofun nofun nofun nofun nofun nofun nofun nofun nofun nofun nofun nofun nofun nofun nofun nofun nofun nofun nofun nofun nofun nofun nofun nofun nofun nofun nofun nofun nofun nofun a0 (Keep.refl s)
  | msgRouteWrite a0 a1 a2 => exact execMsgRouteWrite_keep nofun nofun nofun nofun nofun nofun nofun nofun nofun nofun nofun nofun nofun a0 a1 a2 (Keep.refl s)
  | knotSignalWrite a0 a1 a2 => exact execKnotSignalWrite_keep nofun nofun nofun nofun nofun nofun nofun nofun nofun nofun nofun nofun nofun nofun nofun nofun a0 a1 a2 (Keep.refl s)
  | waitArm a0 a1 a2 a3 => exact execWaitArm_keep nofun nofun nofun nofun nofun nofun nofun nofun nofun nofun nofun nofun nofun nofun nofun a0 a1 a2 a3 (Keep.refl s)
  | waitSlotTimeout a0 a1 => exact execWaitSlotTimeout_keep nofun nofun nofun nofun nofun nofun a0 a1 (Keep.refl s)
  | knotAssign a0 => exact execKnotAssign_keep nofun nofun nofun nofun nofun nofun nofun nofun nofun nofun nofun nofun nofun nofun nofun nofun nofun nofun nofun nofun nofun nofun nofun nofun nofun nofun nofun nofun nofun nofun nofun a0 (Keep.refl s)
  | ethFrameRx a0 a1 => exact execEthFrameRx_keep nofun nofun nofun nofun nofun nofun nofun nofun nofun nofun nofun nofun nofun nofun nofun nofun nofun nofun a0 a1 (Keep.refl s)
  | egressTransmit a0 => exact execEgressTransmit_keep nofun nofun nofun nofun nofun nofun nofun nofun nofun nofun nofun nofun nofun nofun a0 (Keep.refl s)
  | cbRecoveryReset a0 => exact execCbRecoveryReset_keep nofun nofun nofun a0 (Keep.refl s)
  | gateControlListWrite a0 => exact execGateControlListWrite_keep nofun nofun nofun nofun nofun nofun nofun nofun nofun nofun nofun nofun nofun nofun nofun nofun nofun nofun nofun nofun nofun nofun nofun nofun nofun nofun nofun nofun nofun nofun nofun a0 (Keep.refl s)
  | gptpSync a0 a1 => exact execGptpSync_keep nofun nofun nofun nofun nofun a0 a1 (Keep.refl s)
  | syncLoss => exact execSyncLoss_keep nofun nofun nofun nofun nofun nofun nofun nofun nofun nofun nofun (Keep.refl s)
  | holdover100ms => exact execHoldover100ms_keep nofun nofun nofun (Keep.refl s)
  | portLinkDown a0 => exact execPortLinkDown_keep nofun nofun nofun nofun nofun nofun nofun nofun nofun nofun nofun nofun a0 (Keep.refl s)
  | portLinkUp a0 => exact execPortLinkUp_keep nofun nofun nofun nofun nofun a0 (Keep.refl s)
  | canFrameRx a0 a1 => exact execCanFrameRx_keep nofun nofun nofun nofun nofun nofun nofun a0 a1 (Keep.refl s)
  | canTxDoorbell a0 a1 a2 a3 => exact execCanTxDoorbell_keep nofun nofun nofun nofun nofun nofun nofun nofun nofun nofun nofun nofun nofun nofun nofun nofun nofun nofun nofun a0 a1 a2 a3 (Keep.refl s)
  | canTransmitStart a0 => exact execCanTransmitStart_keep nofun nofun nofun a0 (Keep.refl s)
  | canTxDone a0 => exact execCanTxDone_keep nofun nofun nofun nofun nofun nofun nofun nofun nofun nofun nofun nofun nofun nofun a0 (Keep.refl s)
  | busOff a0 => exact execBusOff_keep nofun nofun nofun nofun nofun nofun nofun nofun nofun nofun a0 (Keep.refl s)
  | canRecover a0 => exact execCanRecover_keep nofun nofun nofun nofun nofun nofun nofun nofun nofun nofun nofun nofun nofun nofun nofun nofun nofun nofun nofun nofun nofun nofun nofun nofun nofun nofun nofun nofun nofun nofun nofun a0 (Keep.refl s)
  | busOffRecovered a0 => exact execBusOffRecovered_keep nofun nofun nofun nofun nofun nofun nofun nofun nofun nofun nofun nofun nofun nofun a0 (Keep.refl s)
  | tpCmRts a0 a1 => exact execTpCmRts_keep nofun nofun nofun nofun nofun nofun nofun a0 a1 (Keep.refl s)
  | tpCmBam a0 a1 => exact execTpCmBam_keep nofun nofun nofun nofun nofun nofun nofun a0 a1 (Keep.refl s)
  | tpDt a0 a1 => exact execTpDt_keep nofun nofun nofun nofun nofun nofun nofun a0 a1 (Keep.refl s)
  | tpTimeout a0 a1 => exact execTpTimeout_keep nofun nofun nofun nofun nofun nofun nofun nofun nofun a0 a1 (Keep.refl s)
  | tpRelease a0 a1 a2 => exact execTpRelease_keep nofun nofun nofun nofun nofun nofun nofun nofun nofun nofun nofun nofun nofun nofun a0 a1 a2 (Keep.refl s)
  | ruleTableWrite a0 => exact execRuleTableWrite_keep nofun nofun nofun nofun nofun nofun nofun nofun nofun nofun nofun nofun nofun nofun nofun nofun nofun nofun nofun nofun nofun nofun nofun nofun nofun nofun nofun nofun nofun nofun nofun a0 (Keep.refl s)
  | internalTxDoorbell a0 a1 a2 a3 => exact execInternalTxDoorbell_keep nofun nofun nofun nofun nofun nofun nofun nofun nofun nofun nofun nofun nofun nofun nofun nofun nofun nofun nofun a0 a1 a2 a3 (Keep.refl s)
  | tetherSqWrite a0 => exact execTetherSqWrite_keep nofun nofun nofun nofun nofun nofun nofun nofun nofun nofun nofun nofun nofun nofun a0 (Keep.refl s)
  | tetherSqWriteImm a0 => exact execTetherSqWriteImm_keep nofun nofun nofun nofun nofun nofun nofun nofun nofun nofun nofun nofun nofun nofun a0 (Keep.refl s)
  | tetherSqRead a0 => exact execTetherSqRead_keep nofun nofun nofun nofun nofun nofun nofun nofun nofun nofun nofun nofun nofun nofun a0 (Keep.refl s)
  | tetherSqFlush a0 => exact execTetherSqFlush_keep nofun nofun nofun nofun nofun nofun nofun nofun nofun nofun nofun nofun nofun nofun a0 (Keep.refl s)
  | tetherSqDoorbell a0 a1 a2 => exact execTetherSqDoorbell_keep nofun nofun nofun nofun nofun nofun nofun nofun nofun nofun nofun nofun nofun nofun nofun nofun nofun nofun a0 a1 a2 (Keep.refl s)
  | tetherRxWrite a0 a1 => exact execTetherRxWrite_keep nofun nofun nofun nofun nofun nofun nofun nofun nofun nofun nofun nofun nofun nofun nofun nofun nofun a0 a1 (Keep.refl s)
  | tetherRxWriteImm a0 => exact execTetherRxWriteImm_keep nofun nofun nofun nofun nofun nofun nofun nofun nofun nofun nofun nofun nofun nofun nofun nofun nofun a0 (Keep.refl s)
  | tetherRxRead a0 => exact execTetherRxRead_keep nofun nofun nofun nofun nofun nofun nofun nofun nofun nofun nofun nofun nofun nofun nofun nofun nofun a0 (Keep.refl s)
  | tetherRxReadResp a0 => exact execTetherRxReadResp_keep nofun nofun nofun nofun nofun nofun nofun nofun nofun nofun nofun nofun nofun nofun nofun nofun nofun a0 (Keep.refl s)
  | tetherRxFlush a0 => exact execTetherRxFlush_keep nofun nofun nofun nofun nofun nofun nofun nofun nofun nofun nofun nofun nofun nofun nofun nofun nofun a0 (Keep.refl s)
  | flushAck a0 => exact execFlushAck_keep nofun nofun nofun nofun a0 (Keep.refl s)
  | tetherRxFlushAck a0 => exact execTetherRxFlushAck_keep nofun nofun nofun nofun nofun nofun nofun nofun nofun nofun nofun nofun nofun nofun nofun nofun nofun a0 (Keep.refl s)
  | tetherRxAck a0 => exact execTetherRxAck_keep nofun nofun nofun nofun nofun nofun nofun nofun nofun nofun nofun nofun nofun nofun nofun nofun nofun a0 (Keep.refl s)
  | tetherRxNak a0 => exact execTetherRxNak_keep nofun nofun nofun nofun nofun nofun nofun nofun nofun nofun nofun nofun nofun nofun nofun nofun nofun a0 (Keep.refl s)
  | goBackRound a0 => exact execGoBackRound_keep nofun nofun nofun nofun nofun nofun nofun nofun nofun nofun nofun nofun nofun nofun nofun nofun a0 (Keep.refl s)
  | connEnable a0 a1 => exact execConnEnable_keep nofun nofun nofun nofun nofun nofun nofun nofun nofun nofun nofun nofun nofun nofun nofun nofun nofun nofun a0 a1 (Keep.refl s)
  | connDisable a0 a1 => exact execConnDisable_keep nofun nofun nofun nofun nofun nofun nofun nofun nofun nofun nofun nofun nofun nofun nofun nofun nofun nofun a0 a1 (Keep.refl s)
  | connQuery a0 a1 => exact execConnQuery_keep nofun nofun nofun nofun nofun nofun nofun nofun nofun nofun nofun nofun nofun nofun nofun nofun nofun nofun a0 a1 (Keep.refl s)
  | register a0 a1 => exact execRegister_keep nofun nofun nofun nofun nofun nofun nofun nofun nofun nofun nofun nofun nofun nofun nofun nofun nofun nofun a0 a1 (Keep.refl s)
  | deregister a0 a1 => exact execDeregister_keep nofun nofun nofun nofun nofun nofun nofun nofun nofun nofun nofun nofun nofun nofun nofun nofun nofun nofun a0 a1 (Keep.refl s)
  | hawserAccess a0 a1 a2 a3 => exact execHawserAccess_keep nofun nofun nofun nofun nofun nofun nofun nofun nofun nofun nofun nofun nofun a0 a1 a2 a3 (Keep.refl s)
  | spliceTimeout a0 a1 a2 => exact execSpliceTimeout_keep nofun nofun nofun nofun nofun nofun nofun nofun nofun nofun nofun nofun a0 a1 a2 (Keep.refl s)
  | hawserAmo a0 a1 a2 a3 => exact execHawserAmo_keep nofun nofun nofun nofun nofun nofun nofun nofun nofun nofun nofun nofun nofun a0 a1 a2 a3 (Keep.refl s)
  | hawserLr a0 a1 => exact execHawserLr_keep nofun nofun nofun nofun nofun nofun nofun nofun nofun nofun nofun nofun nofun a0 a1 (Keep.refl s)
  | hawserSc a0 a1 a2 => exact execHawserSc_keep nofun nofun nofun nofun nofun nofun nofun nofun nofun nofun nofun nofun nofun a0 a1 a2 (Keep.refl s)
  | lockExpiry => exact execLockExpiry_keep nofun nofun nofun nofun nofun (Keep.refl s)
  | semaphoreAmo a0 a1 a2 a3 => exact execSemaphoreAmo_keep nofun nofun nofun nofun nofun nofun nofun nofun nofun nofun nofun nofun nofun nofun nofun nofun nofun nofun nofun nofun nofun nofun nofun nofun nofun nofun nofun nofun nofun a0 a1 a2 a3 (Keep.refl s)
  | semaphoreLr a0 a1 => exact execSemaphoreLr_keep nofun nofun nofun nofun nofun nofun nofun nofun nofun nofun nofun nofun nofun nofun a0 a1 (Keep.refl s)
  | semaphoreSc a0 a1 a2 => exact execSemaphoreSc_keep nofun nofun nofun nofun nofun nofun nofun nofun nofun nofun nofun nofun nofun nofun nofun nofun nofun nofun nofun nofun nofun nofun nofun nofun nofun nofun nofun a0 a1 a2 (Keep.refl s)
  | semaphoreExpiry a0 => exact execSemaphoreExpiry_keep nofun nofun nofun nofun nofun a0 (Keep.refl s)
  | pcieOutboundAccess a0 a1 a2 a3 => exact execPcieOutboundAccess_keep nofun nofun nofun nofun nofun nofun nofun nofun nofun nofun nofun nofun nofun a0 a1 a2 a3 (Keep.refl s)
  | pcieInboundRequest a0 a1 a2 => exact execPcieInboundRequest_keep nofun nofun nofun nofun nofun nofun nofun nofun nofun nofun nofun nofun nofun nofun nofun nofun nofun nofun nofun nofun nofun nofun nofun nofun nofun nofun nofun nofun nofun a0 a1 a2 (Keep.refl s)
  | pcieIntx => exact execPcieIntx_keep nofun (Keep.refl s)
  | epMsi a0 a1 a2 => exact execEpMsi_keep nofun nofun nofun nofun nofun nofun nofun nofun nofun nofun nofun nofun nofun a0 a1 a2 (Keep.refl s)
  | pollRead a0 a1 => exact execPollRead_keep nofun nofun nofun nofun nofun nofun nofun nofun nofun a0 a1 (Keep.refl s)
  | pollListWrite a0 => exact execPollListWrite_keep nofun nofun nofun nofun nofun nofun nofun nofun nofun nofun nofun nofun nofun nofun nofun nofun nofun nofun nofun nofun nofun nofun nofun nofun nofun nofun nofun nofun nofun nofun nofun a0 (Keep.refl s)
  | prefetchExpiry a0 => exact execPrefetchExpiry_keep nofun nofun nofun a0 (Keep.refl s)
  | farMasterRequest => exact execFarMasterRequest_keep nofun (Keep.refl s)
  | farMasterRelease => exact execFarMasterRelease_keep nofun (Keep.refl s)
  | farMasterCycle a0 a1 a2 => exact execFarMasterCycle_keep nofun nofun nofun nofun nofun nofun nofun nofun nofun nofun nofun nofun nofun nofun nofun nofun nofun nofun nofun nofun nofun nofun nofun nofun nofun nofun nofun nofun nofun a0 a1 a2 (Keep.refl s)
  | ambientSample a0 a1 => exact execAmbientSample_keep nofun nofun nofun nofun nofun nofun nofun nofun nofun a0 a1 (Keep.refl s)
  | carrierFlood a0 a1 => exact execCarrierFlood_keep nofun nofun nofun nofun nofun nofun nofun nofun nofun a0 a1 (Keep.refl s)
  | floodClear a0 => exact execFloodClear_keep nofun nofun nofun a0 (Keep.refl s)
  | whistleCodingError a0 => exact execWhistleCodingError_keep nofun a0 (Keep.refl s)
  | whistleStop a0 a1 => exact execWhistleStop_keep nofun nofun nofun nofun a0 a1 (Keep.refl s)
  | whistleHold a0 a1 => exact execWhistleHold_keep nofun nofun nofun nofun a0 a1 (Keep.refl s)
  | hitchUp a0 a1 => exact execHitchUp_keep nofun nofun nofun nofun a0 a1 (Keep.refl s)
  | hitchDown a0 a1 => exact execHitchDown_keep nofun nofun nofun nofun a0 a1 (Keep.refl s)
  | creepFwd a0 a1 => exact execCreepFwd_keep nofun nofun nofun nofun a0 a1 (Keep.refl s)
  | creepRev a0 a1 => exact execCreepRev_keep nofun nofun nofun nofun a0 a1 (Keep.refl s)
  | whistleHeartbeat a0 a1 => exact execWhistleHeartbeat_keep nofun nofun nofun nofun a0 a1 (Keep.refl s)
  | whistleArm a0 a1 => exact execWhistleArm_keep nofun nofun nofun nofun a0 a1 (Keep.refl s)
  | whistleDisarm a0 a1 => exact execWhistleDisarm_keep nofun nofun nofun nofun a0 a1 (Keep.refl s)
  | heartbeatLost a0 => exact execHeartbeatLost_keep nofun nofun nofun nofun nofun nofun nofun nofun nofun nofun nofun a0 (Keep.refl s)
  | disarmAll a0 a1 => exact execDisarmAll_keep nofun nofun nofun nofun nofun nofun nofun nofun nofun nofun nofun nofun nofun nofun a0 a1 (Keep.refl s)
  | recPop a0 a1 => exact execRecPop_keep nofun nofun nofun nofun nofun nofun nofun nofun nofun nofun nofun nofun nofun nofun a0 a1 (Keep.refl s)
  | pendantKeyWrite a0 a1 => exact execPendantKeyWrite_keep nofun nofun nofun nofun nofun nofun nofun nofun nofun nofun nofun nofun nofun nofun nofun nofun nofun nofun nofun nofun nofun nofun nofun nofun nofun nofun nofun nofun nofun nofun nofun a0 a1 (Keep.refl s)
  | pendantSlotEnable a0 => exact execPendantSlotEnable_keep nofun nofun nofun nofun nofun nofun nofun nofun nofun nofun nofun nofun nofun nofun nofun nofun nofun nofun nofun nofun nofun nofun nofun nofun nofun nofun nofun nofun nofun nofun nofun a0 (Keep.refl s)
  | frzTriggerNow a0 => exact execFrzTriggerNow_keep nofun nofun nofun nofun nofun nofun nofun nofun nofun nofun nofun nofun nofun nofun nofun nofun nofun nofun nofun nofun nofun nofun nofun nofun nofun nofun nofun nofun nofun nofun nofun a0 (Keep.refl s)
  | frzTrigPin a0 a1 => exact execFrzTrigPin_keep nofun nofun nofun a0 a1 (Keep.refl s)
  | frzSwTrig a0 a1 => exact execFrzSwTrig_keep nofun nofun nofun nofun nofun nofun nofun nofun nofun nofun nofun nofun nofun a0 a1 (Keep.refl s)
  | frzSchedule a0 => exact execFrzSchedule_keep nofun nofun nofun nofun nofun nofun nofun nofun nofun nofun nofun nofun nofun nofun nofun nofun nofun nofun nofun nofun nofun nofun nofun nofun nofun nofun nofun nofun nofun nofun nofun a0 (Keep.refl s)
  | frzScheduledAccept => exact execFrzScheduledAccept_keep nofun nofun nofun nofun nofun (Keep.refl s)
  | frzLatch => exact execFrzLatch_keep nofun nofun nofun (Keep.refl s)
  | frzBankFull a0 => exact execFrzBankFull_keep nofun nofun nofun nofun nofun a0 (Keep.refl s)
  | frzRecord => exact execFrzRecord_keep nofun nofun (Keep.refl s)
  | frzRelease a0 a1 a2 => exact execFrzRelease_keep nofun nofun nofun nofun nofun nofun nofun nofun nofun nofun nofun nofun nofun nofun nofun nofun nofun nofun nofun nofun nofun nofun nofun nofun nofun nofun nofun nofun nofun nofun nofun nofun nofun nofun a0 a1 a2 (Keep.refl s)
  | frzClearRecords a0 => exact execFrzClearRecords_keep nofun nofun nofun nofun nofun nofun nofun nofun nofun nofun nofun nofun nofun nofun nofun nofun nofun nofun nofun nofun nofun nofun nofun nofun nofun nofun nofun nofun nofun nofun nofun a0 (Keep.refl s)
  | rejectedFrame a0 a1 => exact execRejectedFrame_keep nofun nofun nofun nofun a0 a1 (Keep.refl s)
  | aerError => exact execAerError_keep nofun (Keep.refl s)
  | grandmasterSync => exact execGrandmasterSync_keep nofun nofun nofun (Keep.refl s)

/-- No command but the removal of VDD_AON and its return leaves FAILED (R20). -/
theorem exec_latch (i : Instr) (s : State) (h1 : i ≠ .vddAonRemoved) (h2 : ∀ a b c d, i ≠ .vddAonPowerOn a b c d) :
    KeepN (fun p => p = .latch) s (exec i s) := by
  cases i with
  | vddAonPowerOn a0 a1 a2 a3 => exact absurd rfl (h2 a0 a1 a2 a3)
  | vddAonRemoved => exact absurd rfl h1
  | porstNAssert a0 => exact execPorstNAssert_keep nofun nofun nofun nofun nofun nofun nofun nofun a0 (Keep.refl s)
  | porstNRelease a0 a1 a2 => exact execPorstNRelease_keep nofun nofun nofun nofun nofun nofun nofun nofun nofun nofun nofun nofun nofun nofun nofun nofun nofun nofun nofun nofun nofun nofun nofun nofun nofun nofun nofun nofun nofun nofun nofun nofun nofun nofun nofun a0 a1 a2 (Keep.refl s)
  | retentionRailExcursion a0 => exact execRetentionRailExcursion_keep nofun nofun a0 (Keep.refl s)
  | coreRailUndervoltage a0 => exact execCoreRailUndervoltage_keep nofun nofun nofun nofun nofun nofun nofun nofun nofun nofun a0 (Keep.refl s)
  | railWindow a0 => exact execRailWindow_keep nofun nofun nofun nofun nofun nofun nofun nofun a0 (Keep.refl s)
  | vsenseSample a0 => exact execVsenseSample_keep nofun nofun nofun nofun nofun nofun nofun nofun nofun nofun nofun nofun nofun nofun nofun a0 (Keep.refl s)
  | braceReturn => exact execBraceReturn_keep nofun nofun nofun nofun nofun nofun nofun nofun nofun nofun nofun nofun nofun (Keep.refl s)
  | controlledResetDone => exact execControlledResetDone_keep nofun nofun nofun nofun nofun nofun nofun nofun nofun (Keep.refl s)
  | restartExit a0 => exact execRestartExit_keep nofun nofun nofun nofun nofun nofun nofun nofun nofun nofun nofun nofun nofun nofun nofun nofun nofun nofun nofun nofun nofun nofun nofun nofun nofun nofun nofun nofun nofun nofun nofun nofun nofun nofun nofun a0 (Keep.refl s)
  | startReady a0 a1 => exact execStartReady_keep nofun nofun nofun nofun nofun nofun nofun nofun nofun nofun nofun nofun nofun nofun a0 a1 (Keep.refl s)
  | readyTimeout => exact execReadyTimeout_keep nofun nofun nofun nofun nofun nofun nofun nofun nofun nofun nofun (Keep.refl s)
  | warmReqNFall a0 => exact execWarmReqNFall_keep nofun nofun nofun nofun nofun nofun nofun nofun nofun a0 (Keep.refl s)
  | restartRequest a0 => exact execRestartRequest_keep nofun nofun nofun nofun nofun nofun nofun nofun nofun nofun nofun nofun nofun nofun nofun nofun nofun nofun nofun nofun nofun nofun nofun nofun nofun nofun nofun nofun nofun nofun nofun a0 (Keep.refl s)
  | tempSensorUpdate a0 => exact execTempSensorUpdate_keep nofun nofun nofun nofun nofun nofun nofun nofun nofun nofun a0 (Keep.refl s)
  | pmicPoll a0 => exact execPmicPoll_keep nofun nofun nofun nofun nofun nofun nofun nofun nofun nofun a0 (Keep.refl s)
  | pmbAlert a0 => exact execPmbAlert_keep nofun nofun nofun nofun nofun nofun nofun nofun a0 (Keep.refl s)
  | alarm a0 => exact execAlarm_keep nofun nofun nofun nofun nofun nofun nofun nofun a0 (Keep.refl s)
  | alarmLine a0 => exact execAlarmLine_keep nofun nofun nofun nofun nofun nofun nofun nofun a0 (Keep.refl s)
  | sdgSelf => exact execSdgSelf_keep nofun nofun nofun nofun nofun nofun nofun nofun (Keep.refl s)
  | safeAckNChange a0 => exact execSafeAckNChange_keep nofun a0 (Keep.refl s)
  | safeAckConfirmed => exact execSafeAckConfirmed_keep nofun nofun nofun nofun nofun nofun nofun nofun nofun nofun nofun (Keep.refl s)
  | safeAckMissing => exact execSafeAckMissing_keep nofun nofun nofun nofun nofun nofun nofun nofun nofun nofun (Keep.refl s)
  | restartFrameWaitEnd => exact execRestartFrameWaitEnd_keep nofun nofun nofun (Keep.refl s)
  | aliveToggle => exact execAliveToggle_keep nofun nofun nofun (Keep.refl s)
  | safetyStatusPeriodic => exact execSafetyStatusPeriodic_keep nofun nofun nofun (Keep.refl s)
  | safetyStatusTxDone => exact execSafetyStatusTxDone_keep nofun nofun (Keep.refl s)
  | safetyMsgFail => exact execSafetyMsgFail_keep nofun nofun nofun nofun nofun nofun nofun nofun nofun nofun (Keep.refl s)
  | wdgKick a0 a1 a2 => exact execWdgKick_keep nofun nofun nofun nofun nofun nofun nofun nofun nofun nofun nofun nofun nofun a0 a1 a2 (Keep.refl s)
  | wdgWindowOpen a0 => exact execWdgWindowOpen_keep nofun nofun nofun a0 (Keep.refl s)
  | wdgWindowClose a0 => exact execWdgWindowClose_keep nofun nofun nofun nofun nofun nofun nofun nofun nofun nofun a0 (Keep.refl s)
  | swAlarm a0 a1 => exact execSwAlarm_keep nofun nofun nofun nofun nofun nofun nofun nofun nofun nofun nofun nofun nofun a0 a1 (Keep.refl s)
  | clockMon a0 a1 => exact execClockMon_keep nofun nofun nofun nofun nofun nofun nofun nofun a0 a1 (Keep.refl s)
  | clkSdgMonitor a0 a1 => exact execClkSdgMonitor_keep nofun nofun nofun nofun nofun nofun nofun nofun a0 a1 (Keep.refl s)
  | latentTest a0 => exact execLatentTest_keep nofun nofun nofun nofun nofun nofun nofun nofun nofun nofun a0 (Keep.refl s)
  | fabricTimeout a0 => exact execFabricTimeout_keep nofun nofun nofun nofun nofun nofun nofun nofun a0 (Keep.refl s)
  | registerWrite a0 a1 => exact execRegisterWrite_keep nofun nofun nofun nofun nofun nofun nofun nofun nofun nofun nofun nofun nofun nofun nofun nofun nofun nofun nofun nofun nofun nofun nofun nofun nofun nofun nofun nofun nofun a0 a1 (Keep.refl s)
  | lowHalfRead a0 => exact execLowHalfRead_keep nofun nofun nofun nofun nofun nofun nofun nofun nofun nofun nofun nofun nofun nofun nofun nofun nofun a0 (Keep.refl s)
  | highHalfRead a0 => exact execHighHalfRead_keep nofun nofun nofun nofun nofun nofun nofun nofun nofun nofun nofun nofun nofun nofun nofun nofun nofun a0 (Keep.refl s)
  | lowHalfWrite a0 a1 => exact execLowHalfWrite_keep nofun nofun nofun nofun nofun nofun nofun nofun nofun nofun nofun nofun nofun nofun nofun nofun nofun nofun nofun nofun nofun nofun nofun nofun nofun nofun nofun nofun nofun a0 a1 (Keep.refl s)
  | highHalfWrite a0 a1 => exact execHighHalfWrite_keep nofun nofun nofun nofun nofun nofun nofun nofun nofun nofun nofun nofun nofun nofun nofun nofun nofun nofun nofun nofun nofun nofun nofun nofun nofun nofun nofun nofun nofun a0 a1 (Keep.refl s)
  | generationWaitEnd a0 => exact execGenerationWaitEnd_keep nofun nofun nofun a0 (Keep.refl s)
  | generationWaitTimeout a0 => exact execGenerationWaitTimeout_keep nofun nofun nofun nofun nofun nofun nofun nofun nofun nofun nofun a0 (Keep.refl s)
  | leashHello a0 => exact execLeashHello_keep nofun nofun nofun nofun nofun nofun nofun nofun nofun nofun nofun nofun nofun nofun nofun nofun nofun nofun nofun nofun nofun nofun nofun nofun nofun nofun nofun nofun nofun nofun nofun a0 (Keep.refl s)
  | leashProve a0 => exact execLeashProve_keep nofun nofun nofun nofun nofun nofun nofun nofun nofun nofun nofun nofun nofun nofun nofun nofun nofun nofun nofun nofun nofun nofun nofun nofun nofun nofun nofun nofun nofun nofun nofun a0 (Keep.refl s)
  | leashRead a0 => exact execLeashRead_keep nofun nofun nofun nofun nofun nofun nofun nofun nofun nofun nofun nofun nofun nofun nofun nofun nofun nofun nofun nofun nofun nofun nofun nofun nofun nofun nofun nofun nofun nofun nofun a0 (Keep.refl s)
  | leashWrite a0 => exact execLeashWrite_keep nofun nofun nofun nofun nofun nofun nofun nofun nofun nofun nofun nofun nofun nofun nofun nofun nofun nofun nofun nofun nofun nofun nofun nofun nofun nofun nofun nofun nofun nofun nofun a0 (Keep.refl s)
  | leashSegReadInit a0 => exact execLeashSegReadInit_keep nofun nofun nofun nofun nofun nofun nofun nofun nofun nofun nofun nofun nofun nofun nofun nofun nofun nofun nofun nofun nofun nofun nofun nofun nofun nofun nofun nofun nofun nofun nofun a0 (Keep.refl s)
  | leashSegRead a0 => exact execLeashSegRead_keep nofun nofun nofun nofun nofun nofun nofun nofun nofun nofun nofun nofun nofun nofun nofun nofun nofun nofun nofun nofun nofun nofun nofun nofun nofun nofun nofun nofun nofun nofun nofun a0 (Keep.refl s)
  | leashSegWriteInit a0 => exact execLeashSegWriteInit_keep nofun nofun nofun nofun nofun nofun nofun nofun nofun nofun nofun nofun nofun nofun nofun nofun nofun nofun nofun nofun nofun nofun nofun nofun nofun nofun nofun nofun nofun nofun nofun a0 (Keep.refl s)
  | leashSegWrite a0 => exact execLeashSegWrite_keep nofun nofun nofun nofun nofun nofun nofun nofun nofun nofun nofun nofun nofun nofun nofun nofun nofun nofun nofun nofun nofun nofun nofun nofun nofun nofun nofun nofun nofun nofun nofun a0 (Keep.refl s)
  | leashClose a0 => exact execLeashClose_keep nofun nofun nofun nofun nofun nofun nofun nofun nofun nofun nofun nofun nofun nofun nofun nofun nofun nofun nofun nofun nofun nofun nofun nofun nofun nofun nofun nofun nofun nofun nofun a0 (Keep.refl s)
  | leashNop a0 => exact execLeashNop_keep nofun nofun nofun nofun nofun nofun nofun nofun nofun nofun nofun nofun nofun nofun nofun nofun nofun nofun nofun nofun nofun nofun nofun nofun nofun nofun nofun nofun nofun nofun nofun a0 (Keep.refl s)
  | proveTimeout a0 => exact execProveTimeout_keep nofun nofun nofun a0 (Keep.refl s)
  | idleTimeout a0 => exact execIdleTimeout_keep nofun nofun nofun a0 (Keep.refl s)
  | lockoutExpiry a0 => exact execLockoutExpiry_keep nofun nofun nofun a0 (Keep.refl s)
  | storeAllParameters a0 => exact execStoreAllParameters_keep nofun nofun nofun nofun nofun nofun nofun nofun nofun nofun nofun nofun nofun nofun nofun nofun nofun nofun nofun nofun nofun nofun nofun nofun nofun nofun nofun nofun nofun nofun nofun a0 (Keep.refl s)
  | storeDone a0 => exact execStoreDone_keep nofun nofun nofun a0 (Keep.refl s)
  | restoreDefaultParameters a0 => exact execRestoreDefaultParameters_keep nofun nofun nofun nofun nofun nofun nofun nofun nofun nofun nofun nofun nofun nofun nofun nofun nofun nofun nofun nofun nofun nofun nofun nofun nofun nofun nofun nofun nofun nofun nofun a0 (Keep.refl s)
  | errorHistoryClear a0 => exact execErrorHistoryClear_keep nofun nofun nofun nofun nofun nofun nofun nofun nofun nofun nofun nofun nofun nofun nofun nofun nofun nofun nofun nofun nofun nofun nofun nofun nofun nofun nofun nofun nofun nofun nofun a0 (Keep.refl s)
  | credentialWrite a0 a1 => exact execCredentialWrite_keep nofun nofun nofun nofun nofun nofun nofun nofun nofun nofun nofun nofun nofun nofun nofun nofun nofun nofun nofun nofun nofun nofun nofun nofun nofun nofun nofun nofun nofun nofun nofun a0 a1 (Keep.refl s)
  | usdoUpload a0 a1 => exact execUsdoUpload_keep nofun nofun a0 a1 (Keep.refl s)
  | usdoDownload a0 a1 => exact execUsdoDownload_keep nofun a0 a1 (Keep.refl s)
  | nmtCommand a0 a1 => exact execNmtCommand_keep nofun a0 a1 (Keep.refl s)
  | heartbeatProducer => exact execHeartbeatProducer_keep nofun nofun nofun nofun (Keep.refl s)
  | tpdoEventTimer a0 => exact execTpdoEventTimer_keep nofun nofun nofun nofun a0 (Keep.refl s)
  | dramRead a0 a1 a2 a3 => exact execDramRead_keep nofun nofun nofun nofun nofun nofun nofun nofun nofun nofun nofun nofun nofun a0 a1 a2 a3 (Keep.refl s)
  | demandScrub a0 => exact execDemandScrub_keep nofun a0 (Keep.refl s)
  | sramRead a0 a1 a2 => exact execSramRead_keep nofun nofun nofun nofun nofun nofun nofun nofun nofun nofun nofun nofun nofun a0 a1 a2 (Keep.refl s)
  | codedWrite a0 a1 a2 => exact execCodedWrite_keep nofun nofun nofun nofun nofun nofun nofun nofun nofun nofun nofun nofun a0 a1 a2 (Keep.refl s)
  | patrolScrub a0 a1 a2 => exact execPatrolScrub_keep nofun nofun nofun nofun nofun nofun nofun nofun nofun nofun nofun nofun nofun nofun a0 a1 a2 (Keep.refl s)
  | patrolPassStart => exact execPatrolPassStart_keep nofun nofun nofun (Keep.refl s)
  | lockstepMismatch a0 => exact execLockstepMismatch_keep nofun nofun nofun nofun nofun nofun nofun nofun nofun nofun nofun a0 (Keep.refl s)
  | coreRelease a0 a1 => exact execCoreRelease_keep nofun nofun nofun nofun nofun nofun nofun nofun nofun nofun nofun nofun nofun nofun a0 a1 (Keep.refl s)
  | handoverSplit a0 a1 a2 => exact execHandoverSplit_keep nofun nofun nofun nofun nofun nofun nofun nofun nofun nofun nofun nofun nofun nofun a0 a1 a2 (Keep.refl s)
  | handoverRejoin a0 a1 a2 => exact execHandoverRejoin_keep nofun nofun nofun nofun nofun nofun nofun nofun nofun nofun nofun nofun nofun nofun a0 a1 a2 (Keep.refl s)
  | handoverConfirm a0 a1 => exact execHandoverConfirm_keep nofun nofun nofun nofun nofun nofun nofun nofun nofun nofun nofun nofun nofun nofun a0 a1 (Keep.refl s)
  | handoverConfirmTimeout => exact execHandoverConfirmTimeout_keep nofun nofun nofun nofun (Keep.refl s)
  | packDoorbell a0 a1 a2 a3 => exact execPackDoorbell_keep nofun nofun nofun nofun nofun nofun nofun nofun nofun nofun nofun nofun nofun a0 a1 a2 a3 (Keep.refl s)
  | queueConfigWrite a0 a1 a2 a3 => exact execQueueConfigWrite_keep nofun nofun nofun nofun nofun nofun nofun nofun nofun nofun nofun nofun nofun a0 a1 a2 a3 (Keep.refl s)
  | queueStop a0 a1 a2 => exact execQueueStop_keep nofun nofun nofun nofun nofun nofun nofun nofun nofun nofun nofun nofun nofun nofun nofun nofun nofun nofun a0 a1 a2 (Keep.refl s)
  | queueStart a0 a1 a2 => exact execQueueStart_keep nofun nofun nofun nofun nofun nofun nofun nofun nofun nofun nofun nofun nofun nofun nofun nofun nofun nofun a0 a1 a2 (Keep.refl s)
  | queueFlush a0 a1 a2 => exact execQueueFlush_keep nofun nofun nofun nofun nofun nofun nofun nofun nofun nofun nofun nofun nofun nofun nofun nofun nofun nofun a0 a1 a2 (Keep.refl s)
  | cqHeadWrite a0 a1 a2 a3 => exact execCqHeadWrite_keep nofun nofun nofun nofun nofun nofun nofun nofun nofun nofun nofun nofun nofun a0 a1 a2 a3 (Keep.refl s)
  | descriptorFetch a0 a1 => exact execDescriptorFetch_keep nofun nofun nofun nofun nofun nofun nofun nofun nofun nofun nofun nofun nofun nofun a0 a1 (Keep.refl s)
  | nop a0 a1 => exact execNop_keep nofun nofun nofun nofun nofun nofun nofun nofun nofun nofun nofun nofun nofun nofun nofun nofun nofun a0 a1 (Keep.refl s)
  | fence a0 a1 => exact execFence_keep nofun nofun nofun nofun nofun nofun nofun nofun nofun nofun nofun nofun nofun nofun nofun nofun nofun a0 a1 (Keep.refl s)
  | checkpoint a0 a1 => exact execCheckpoint_keep nofun nofun nofun nofun nofun nofun nofun nofun nofun nofun nofun nofun nofun nofun nofun nofun nofun a0 a1 (Keep.refl s)
  | knotWait a0 a1 => exact execKnotWait_keep nofun nofun nofun nofun nofun nofun nofun nofun nofun nofun nofun nofun nofun nofun nofun nofun nofun a0 a1 (Keep.refl s)
  | knotSignal a0 a1 => exact execKnotSignal_keep nofun nofun nofun nofun nofun nofun nofun nofun nofun nofun nofun nofun nofun nofun nofun nofun nofun a0 a1 (Keep.refl s)
  | copy a0 a1 => exact execCopy_keep nofun nofun nofun nofun nofun nofun nofun nofun nofun nofun nofun nofun nofun nofun nofun nofun nofun a0 a1 (Keep.refl s)
  | matmul a0 a1 => exact execMatmul_keep nofun nofun nofun nofun nofun nofun nofun nofun nofun nofun nofun nofun nofun nofun nofun nofun nofun a0 a1 (Keep.refl s)
  | conv2d a0 a1 => exact execConv2d_keep nofun nofun nofun nofun nofun nofun nofun nofun nofun nofun nofun nofun nofun nofun nofun nofun nofun a0 a1 (Keep.refl s)
  | vecAdd a0 a1 => exact execVecAdd_keep nofun nofun nofun nofun nofun nofun nofun nofun nofun nofun nofun nofun nofun nofun nofun nofun nofun a0 a1 (Keep.refl s)
  | vecMul a0 a1 => exact execVecMul_keep nofun nofun nofun nofun nofun nofun nofun nofun nofun nofun nofun nofun nofun nofun nofun nofun nofun a0 a1 (Keep.refl s)
  | vecMax a0 a1 => exact execVecMax_keep nofun nofun nofun nofun nofun nofun nofun nofun nofun nofun nofun nofun nofun nofun nofun nofun nofun a0 a1 (Keep.refl s)
  | vecMin a0 a1 => exact execVecMin_keep nofun nofun nofun nofun nofun nofun nofun nofun nofun nofun nofun nofun nofun nofun nofun nofun nofun a0 a1 (Keep.refl s)
  | vecAxpb a0 a1 => exact execVecAxpb_keep nofun nofun nofun nofun nofun nofun nofun nofun nofun nofun nofun nofun nofun nofun nofun nofun nofun a0 a1 (Keep.refl s)
  | vecRelu a0 a1 => exact execVecRelu_keep nofun nofun nofun nofun nofun nofun nofun nofun nofun nofun nofun nofun nofun nofun nofun nofun nofun a0 a1 (Keep.refl s)
  | vecClamp a0 a1 => exact execVecClamp_keep nofun nofun nofun nofun nofun nofun nofun nofun nofun nofun nofun nofun nofun nofun nofun nofun nofun a0 a1 (Keep.refl s)
  | vecGelu a0 a1 => exact execVecGelu_keep nofun nofun nofun nofun nofun nofun nofun nofun nofun nofun nofun nofun nofun nofun nofun nofun nofun a0 a1 (Keep.refl s)
  | vecSigmoid a0 a1 => exact execVecSigmoid_keep nofun nofun nofun nofun nofun nofun nofun nofun nofun nofun nofun nofun nofun nofun nofun nofun nofun a0 a1 (Keep.refl s)
  | vecTanh a0 a1 => exact execVecTanh_keep nofun nofun nofun nofun nofun nofun nofun nofun nofun nofun nofun nofun nofun nofun nofun nofun nofun a0 a1 (Keep.refl s)
  | vecExp a0 a1 => exact execVecExp_keep nofun nofun nofun nofun nofun nofun nofun nofun nofun nofun nofun nofun nofun nofun nofun nofun nofun a0 a1 (Keep.refl s)
  | vecRsqrt a0 a1 => exact execVecRsqrt_keep nofun nofun nofun nofun nofun nofun nofun nofun nofun nofun nofun nofun nofun nofun nofun nofun nofun a0 a1 (Keep.refl s)
  | vecSoftmax a0 a1 => exact execVecSoftmax_keep nofun nofun nofun nofun nofun nofun nofun nofun nofun nofun nofun nofun nofun nofun nofun nofun nofun a0 a1 (Keep.refl s)
  | vecLayernorm a0 a1 => exact execVecLayernorm_keep nofun nofun nofun nofun nofun nofun nofun nofun nofun nofun nofun nofun nofun nofun nofun nofun nofun a0 a1 (Keep.refl s)
  | vecRmsnorm a0 a1 => exact execVecRmsnorm_keep nofun nofun nofun nofun nofun nofun nofun nofun nofun nofun nofun nofun nofun nofun nofun nofun nofun a0 a1 (Keep.refl s)
  | vecRowSum a0 a1 => exact execVecRowSum_keep nofun nofun nofun nofun nofun nofun nofun nofun nofun nofun nofun nofun nofun nofun nofun nofun nofun a0 a1 (Keep.refl s)
  | vecRowMax a0 a1 => exact execVecRowMax_keep nofun nofun nofun nofun nofun nofun nofun nofun nofun nofun nofun nofun nofun nofun nofun nofun nofun a0 a1 (Keep.refl s)
  | vecConvert a0 a1 => exact execVecConvert_keep nofun nofun nofun nofun nofun nofun nofun nofun nofun nofun nofun nofun nofun nofun nofun nofun nofun a0 a1 (Keep.refl s)
  | cimRun a0 a1 => exact execCimRun_keep nofun nofun nofun nofun nofun nofun nofun nofun nofun nofun nofun nofun nofun nofun nofun nofun nofun a0 a1 (Keep.refl s)
  | cimLoad a0 a1 => exact execCimLoad_keep nofun nofun nofun nofun nofun nofun nofun nofun nofun nofun nofun nofun nofun nofun nofun nofun nofun a0 a1 (Keep.refl s)
  | attn a0 a1 => exact execAttn_keep nofun nofun nofun nofun nofun nofun nofun nofun nofun nofun nofun nofun nofun nofun nofun nofun nofun a0 a1 (Keep.refl s)
  | attnVerifyAttend a0 a1 => exact execAttnVerifyAttend_keep nofun nofun nofun nofun nofun nofun nofun nofun nofun nofun nofun nofun nofun nofun nofun nofun nofun a0 a1 (Keep.refl s)
  | attnVerifyAccept a0 a1 => exact execAttnVerifyAccept_keep nofun nofun nofun nofun nofun nofun nofun nofun nofun nofun nofun nofun nofun nofun nofun nofun nofun a0 a1 (Keep.refl s)
  | tileStart a0 a1 a2 => exact execTileStart_keep nofun nofun nofun nofun nofun nofun nofun nofun nofun nofun nofun nofun nofun nofun nofun nofun a0 a1 a2 (Keep.refl s)
  | tileCommit a0 a1 a2 a3 => exact execTileCommit_keep nofun nofun nofun nofun nofun nofun nofun nofun nofun nofun nofun nofun nofun a0 a1 a2 a3 (Keep.refl s)
  | tileHang a0 a1 => exact execTileHang_keep nofun nofun nofun nofun nofun nofun nofun nofun nofun nofun a0 a1 (Keep.refl s)
  | completionWrite a0 a1 => exact execCompletionWrite_keep nofun nofun nofun nofun nofun nofun nofun a0 a1 (Keep.refl s)
  | knotWaitRelease a0 a1 => exact execKnotWaitRelease_keep nofun nofun a0 a1 (Keep.refl s)
  | knotWaitTimeout a0 a1 => exact execKnotWaitTimeout_keep nofun nofun nofun nofun a0 a1 (Keep.refl s)
  | calDue a0 a1 a2 => exact execCalDue_keep nofun nofun nofun a0 a1 a2 (Keep.refl s)
  | calibrationStart a0 => exact execCalibrationStart_keep nofun a0 (Keep.refl s)
  | calibrationDone a0 a1 a2 => exact execCalibrationDone_keep nofun nofun nofun nofun nofun nofun nofun nofun nofun nofun nofun a0 a1 a2 (Keep.refl s)
  | calOverdue a0 a1 => exact execCalOverdue_keep nofun nofun nofun nofun nofun nofun nofun nofun nofun nofun nofun a0 a1 (Keep.refl s)
  | engineKindWrite a0 => exact execEngineKindWrite_keep nofun nofun nofun nofun nofun nofun nofun nofun nofun nofun nofun nofun nofun nofun nofun nofun nofun nofun nofun nofun nofun nofun nofun nofun nofun nofun nofun nofun nofun nofun nofun a0 (Keep.refl s)
  | rosterTableWrite a0 => exact execRosterTableWrite_keep nofun nofun nofun nofun nofun nofun nofun nofun nofun nofun nofun nofun nofun nofun nofun nofun nofun nofun nofun nofun nofun nofun nofun nofun nofun nofun nofun nofun nofun nofun nofun a0 (Keep.refl s)
  | rosterSelect a0 => exact execRosterSelect_keep nofun nofun nofun nofun nofun nofun nofun nofun nofun nofun nofun nofun nofun nofun nofun nofun nofun nofun nofun nofun nofun nofun nofun nofun nofun nofun nofun nofun nofun nofun nofun a0 (Keep.refl s)
  | rosterFrameStart => exact execRosterFrameStart_keep nofun nofun nofun nofun nofun (Keep.refl s)
  | slotStart a0 => exact execSlotStart_keep nofun nofun nofun nofun nofun a0 (Keep.refl s)
  | slotEnd a0 => exact execSlotEnd_keep nofun nofun nofun nofun nofun a0 (Keep.refl s)
  | slowdownWindow a0 a1 a2 => exact execSlowdownWindow_keep nofun nofun nofun nofun a0 a1 a2 (Keep.refl s)
  | packModeWrite a0 => exact execPackModeWrite_keep nofun nofun nofun nofun nofun nofun nofun nofun nofun nofun nofun nofun nofun nofun nofun nofun nofun nofun nofun nofun nofun nofun nofun nofun nofun nofun nofun nofun nofun nofun nofun a0 (Keep.refl s)
  | packScrubDone a0 => exact execPackScrubDone_keep nofun nofun nofun nofun nofun nofun nofun nofun nofun a0 (Keep.refl s)
  | kseqAlloc a0 a1 => exact execKseqAlloc_keep nofun nofun nofun nofun nofun nofun nofun nofun nofun nofun nofun nofun nofun nofun nofun nofun nofun nofun a0 a1 (Keep.refl s)
  | kseqFree a0 a1 a2 => exact execKseqFree_keep nofun nofun nofun nofun nofun nofun nofun nofun nofun nofun nofun nofun nofun nofun nofun nofun nofun nofun a0 a1 a2 (Keep.refl s)
  | kseqTrim a0 a1 a2 => exact execKseqTrim_keep nofun nofun nofun nofun nofun nofun nofun nofun nofun nofun nofun nofun nofun nofun nofun nofun nofun nofun a0 a1 a2 (Keep.refl s)
  | kseqResume a0 a1 a2 => exact execKseqResume_keep nofun nofun nofun nofun nofun nofun nofun nofun nofun nofun nofun nofun nofun nofun nofun nofun nofun nofun a0 a1 a2 (Keep.refl s)
  | kseqQuery a0 a1 a2 => exact execKseqQuery_keep nofun nofun nofun nofun nofun nofun nofun nofun nofun nofun nofun nofun nofun nofun nofun nofun nofun nofun a0 a1 a2 (Keep.refl s)
  | swapOutDone a0 => exact execSwapOutDone_keep nofun nofun nofun nofun nofun nofun nofun nofun nofun nofun nofun nofun nofun a0 (Keep.refl s)
  | swapInDone a0 => exact execSwapInDone_keep nofun nofun nofun nofun nofun nofun nofun nofun nofun nofun nofun nofun nofun a0 (Keep.refl s)
  | pageZeroed a0 => exact execPageZeroed_keep nofun nofun nofun a0 (Keep.refl s)
  | kennelAllocGrant a0 => exact execKennelAllocGrant_keep nofun nofun nofun nofun nofun nofun nofun nofun nofun nofun nofun nofun nofun nofun nofun nofun nofun a0 (Keep.refl s)
  | instanceCreate a0 => exact execInstanceCreate_keep nofun nofun nofun nofun nofun nofun nofun nofun nofun nofun nofun nofun nofun nofun nofun nofun nofun nofun nofun nofun nofun nofun nofun nofun nofun nofun nofun nofun nofun nofun nofun a0 (Keep.refl s)
  | instanceReset a0 a1 a2 => exact execInstanceReset_keep nofun nofun nofun nofun nofun nofun nofun nofun nofun nofun nofun nofun nofun nofun nofun nofun nofun nofun nofun nofun nofun nofun nofun nofun nofun nofun nofun nofun nofun nofun nofun nofun nofun nofun a0 a1 a2 (Keep.refl s)
  | instanceRemove a0 => exact execInstanceRemove_keep nofun nofun nofun nofun nofun nofun nofun nofun nofun nofun nofun nofun nofun nofun nofun nofun nofun nofun nofun nofun nofun nofun nofun nofun nofun nofun nofun nofun nofun nofun nofun a0 (Keep.refl s)
  | frameStartPacket a0 a1 => exact execFrameStartPacket_keep nofun nofun nofun nofun nofun nofun nofun nofun nofun nofun nofun nofun nofun nofun nofun nofun a0 a1 (Keep.refl s)
  | csiLongPacket a0 a1 a2 a3 a4 a5 => exact execCsiLongPacket_keep nofun nofun nofun nofun nofun nofun nofun nofun nofun nofun nofun nofun nofun a0 a1 a2 a3 a4 a5 (Keep.refl s)
  | embeddedDataPacket a0 a1 a2 => exact execEmbeddedDataPacket_keep nofun nofun a0 a1 a2 (Keep.refl s)
  | frameEndPacket a0 a1 => exact execFrameEndPacket_keep nofun nofun nofun nofun nofun nofun nofun nofun nofun nofun nofun nofun nofun nofun nofun nofun a0 a1 (Keep.refl s)
  | testLinesAtDma a0 a1 => exact execTestLinesAtDma_keep nofun nofun nofun nofun nofun nofun nofun nofun nofun nofun nofun nofun nofun nofun nofun nofun a0 a1 (Keep.refl s)
  | testLineTimeout a0 => exact execTestLineTimeout_keep nofun nofun nofun nofun nofun nofun nofun nofun nofun nofun nofun nofun nofun nofun nofun nofun nofun nofun a0 (Keep.refl s)
  | frameTimeout a0 => exact execFrameTimeout_keep nofun nofun nofun nofun nofun nofun nofun nofun nofun nofun nofun a0 (Keep.refl s)
  | releasedWrite a0 a1 a2 => exact execReleasedWrite_keep nofun nofun nofun nofun nofun nofun nofun nofun nofun nofun nofun nofun nofun a0 a1 a2 (Keep.refl s)
  | streamEnable a0 => exact execStreamEnable_keep nofun nofun nofun nofun nofun nofun nofun nofun nofun nofun nofun nofun nofun nofun nofun nofun nofun nofun nofun nofun nofun nofun nofun nofun nofun nofun nofun nofun nofun nofun nofun a0 (Keep.refl s)
  | streamDisable a0 => exact execStreamDisable_keep nofun nofun nofun nofun nofun nofun nofun nofun nofun nofun nofun nofun nofun nofun nofun nofun nofun nofun nofun nofun nofun nofun nofun nofun nofun nofun nofun nofun nofun nofun nofun a0 (Keep.refl s)
  | gfxDoorbell a0 a1 a2 => exact execGfxDoorbell_keep nofun nofun nofun nofun nofun nofun nofun nofun nofun nofun nofun nofun nofun nofun a0 a1 a2 (Keep.refl s)
  | gfxSubmissionFetch a0 => exact execGfxSubmissionFetch_keep nofun nofun nofun nofun nofun nofun nofun nofun nofun nofun nofun nofun nofun a0 (Keep.refl s)
  | gfxSubmissionStart a0 a1 a2 => exact execGfxSubmissionStart_keep nofun nofun nofun nofun nofun nofun a0 a1 a2 (Keep.refl s)
  | gfxPreemptionPoint a0 a1 => exact execGfxPreemptionPoint_keep nofun nofun nofun nofun nofun nofun nofun nofun nofun nofun nofun nofun nofun a0 a1 (Keep.refl s)
  | gfxSubmissionDone a0 a1 a2 a3 => exact execGfxSubmissionDone_keep nofun nofun nofun nofun nofun nofun nofun nofun nofun nofun nofun nofun nofun nofun nofun nofun a0 a1 a2 a3 (Keep.refl s)
  | timesliceExpiry => exact execTimesliceExpiry_keep nofun nofun nofun (Keep.refl s)
  | preemptTimeout a0 => exact execPreemptTimeout_keep nofun nofun nofun nofun nofun nofun nofun nofun a0 (Keep.refl s)
  | shaderFault a0 => exact execShaderFault_keep nofun nofun nofun nofun nofun nofun a0 (Keep.refl s)
  | gfxCoreStopTimeout => exact execGfxCoreStopTimeout_keep nofun nofun nofun nofun nofun nofun nofun nofun nofun nofun nofun (Keep.refl s)
  | gfxQueueStop a0 a1 => exact execGfxQueueStop_keep nofun nofun nofun nofun nofun nofun nofun nofun nofun nofun nofun nofun nofun nofun nofun nofun nofun nofun a0 a1 (Keep.refl s)
  | gfxQueueStart a0 a1 => exact execGfxQueueStart_keep nofun nofun nofun nofun nofun nofun nofun nofun nofun nofun nofun nofun nofun nofun nofun nofun nofun nofun a0 a1 (Keep.refl s)
  | gfxQueueFlush a0 a1 => exact execGfxQueueFlush_keep nofun nofun nofun nofun nofun nofun nofun nofun nofun nofun nofun nofun nofun nofun nofun nofun nofun nofun a0 a1 (Keep.refl s)
  | dispFrameStart a0 => exact execDispFrameStart_keep nofun nofun nofun nofun nofun nofun nofun nofun nofun nofun nofun nofun nofun nofun nofun a0 (Keep.refl s)
  | dispRegionCrc a0 a1 a2 => exact execDispRegionCrc_keep nofun nofun nofun nofun nofun nofun nofun nofun a0 a1 a2 (Keep.refl s)
  | scanoutUnderflow a0 => exact execScanoutUnderflow_keep nofun nofun a0 (Keep.refl s)
  | planeAddrWrite a0 a1 a2 a3 => exact execPlaneAddrWrite_keep nofun nofun nofun nofun nofun nofun nofun nofun nofun nofun nofun nofun nofun a0 a1 a2 a3 (Keep.refl s)
  | expCommit a0 a1 a2 => exact execExpCommit_keep nofun nofun nofun nofun nofun nofun nofun nofun nofun nofun nofun nofun nofun nofun a0 a1 a2 (Keep.refl s)
  | pipeEnable a0 => exact execPipeEnable_keep nofun nofun nofun nofun nofun nofun nofun nofun nofun nofun nofun nofun nofun nofun nofun nofun nofun nofun nofun nofun nofun nofun nofun nofun nofun nofun nofun nofun nofun nofun nofun a0 (Keep.refl s)
  | appRelease a0 a1 => exact execAppRelease_keep nofun nofun nofun nofun nofun nofun nofun nofun nofun nofun nofun nofun nofun a0 a1 (Keep.refl s)
  | mworldWrite a0 a1 a2 a3 a4 => exact execMworldWrite_keep nofun a0 a1 a2 a3 a4 (Keep.refl s)
  | filterLock a0 a1 => exact execFilterLock_keep nofun nofun nofun nofun nofun nofun nofun nofun nofun nofun nofun nofun nofun a0 a1 (Keep.refl s)
  | derivationRequest a0 a1 a2 a3 => exact execDerivationRequest_keep nofun a0 a1 a2 a3 (Keep.refl s)
  | attestationSign a0 a1 => exact execAttestationSign_keep a0 a1 (Keep.refl s)
  | measGo a0 a1 => exact execMeasGo_keep nofun nofun nofun nofun nofun nofun nofun nofun nofun nofun nofun nofun nofun nofun a0 a1 (Keep.refl s)
  | measurementDone => exact execMeasurementDone_keep nofun nofun nofun nofun nofun nofun nofun nofun nofun nofun nofun nofun nofun nofun (Keep.refl s)
  | mboxDoorbell a0 a1 a2 => exact execMboxDoorbell_keep nofun nofun nofun nofun nofun nofun nofun nofun nofun nofun nofun nofun nofun nofun a0 a1 a2 (Keep.refl s)
  | mboxResp a0 a1 a2 => exact execMboxResp_keep nofun nofun nofun nofun nofun nofun nofun nofun nofun nofun nofun nofun nofun nofun a0 a1 a2 (Keep.refl s)
  | twKick a0 a1 => exact execTwKick_keep nofun nofun nofun nofun nofun nofun nofun nofun nofun nofun nofun nofun nofun nofun a0 a1 (Keep.refl s)
  | trustedWdg => exact execTrustedWdg_keep nofun nofun nofun nofun nofun nofun nofun nofun nofun nofun nofun (Keep.refl s)
  | lifecycleAdvance a0 => exact execLifecycleAdvance_keep nofun nofun nofun nofun nofun nofun nofun nofun nofun nofun nofun nofun nofun nofun nofun nofun nofun nofun nofun nofun nofun nofun nofun nofun nofun nofun nofun nofun nofun nofun nofun a0 (Keep.refl s)
  | rollbackRaise a0 => exact execRollbackRaise_keep nofun nofun nofun nofun nofun nofun nofun nofun nofun nofun nofun nofun nofun nofun nofun nofun nofun nofun nofun nofun nofun nofun nofun nofun nofun nofun nofun nofun nofun nofun nofun a0 (Keep.refl s)
  | splitMaskProgram a0 => exact execSplitMaskProgram_keep nofun nofun nofun nofun nofun nofun nofun nofun nofun nofun nofun nofun nofun nofun nofun nofun nofun nofun nofun nofun nofun nofun nofun nofun nofun nofun nofun nofun nofun nofun nofun a0 (Keep.refl s)
  | msgRouteWrite a0 a1 a2 => exact execMsgRouteWrite_keep nofun nofun nofun nofun nofun nofun nofun nofun nofun nofun nofun nofun nofun a0 a1 a2 (Keep.refl s)
  | knotSignalWrite a0 a1 a2 => exact execKnotSignalWrite_keep nofun nofun nofun nofun nofun nofun nofun nofun nofun nofun nofun nofun nofun nofun nofun nofun a0 a1 a2 (Keep.refl s)
  | waitArm a0 a1 a2 a3 => exact execWaitArm_keep nofun nofun nofun nofun nofun nofun nofun nofun nofun nofun nofun nofun nofun nofun nofun a0 a1 a2 a3 (Keep.refl s)
  | waitSlotTimeout a0 a1 => exact execWaitSlotTimeout_keep nofun nofun nofun nofun nofun nofun a0 a1 (Keep.refl s)
  | knotAssign a0 => exact execKnotAssign_keep nofun nofun nofun nofun nofun nofun nofun nofun nofun nofun nofun nofun nofun nofun nofun nofun nofun nofun nofun nofun nofun nofun nofun nofun nofun nofun nofun nofun nofun nofun nofun a0 (Keep.refl s)
  | ethFrameRx a0 a1 => exact execEthFrameRx_keep nofun nofun nofun nofun nofun nofun nofun nofun nofun nofun nofun nofun nofun nofun nofun nofun nofun nofun a0 a1 (Keep.refl s)
  | egressTransmit a0 => exact execEgressTransmit_keep nofun nofun nofun nofun nofun nofun nofun nofun nofun nofun nofun nofun nofun nofun a0 (Keep.refl s)
  | cbRecoveryReset a0 => exact execCbRecoveryReset_keep nofun nofun nofun a0 (Keep.refl s)
  | gateControlListWrite a0 => exact execGateControlListWrite_keep nofun nofun nofun nofun nofun nofun nofun nofun nofun nofun nofun nofun nofun nofun nofun nofun nofun nofun nofun nofun nofun nofun nofun nofun nofun nofun nofun nofun nofun nofun nofun a0 (Keep.refl s)
  | gptpSync a0 a1 => exact execGptpSync_keep nofun nofun nofun nofun nofun a0 a1 (Keep.refl s)
  | syncLoss => exact execSyncLoss_keep nofun nofun nofun nofun nofun nofun nofun nofun nofun nofun nofun (Keep.refl s)
  | holdover100ms => exact execHoldover100ms_keep nofun nofun nofun (Keep.refl s)
  | portLinkDown a0 => exact execPortLinkDown_keep nofun nofun nofun nofun nofun nofun nofun nofun nofun nofun nofun nofun a0 (Keep.refl s)
  | portLinkUp a0 => exact execPortLinkUp_keep nofun nofun nofun nofun nofun a0 (Keep.refl s)
  | canFrameRx a0 a1 => exact execCanFrameRx_keep nofun nofun nofun nofun nofun nofun nofun a0 a1 (Keep.refl s)
  | canTxDoorbell a0 a1 a2 a3 => exact execCanTxDoorbell_keep nofun nofun nofun nofun nofun nofun nofun nofun nofun nofun nofun nofun nofun nofun nofun nofun nofun nofun nofun a0 a1 a2 a3 (Keep.refl s)
  | canTransmitStart a0 => exact execCanTransmitStart_keep nofun nofun nofun a0 (Keep.refl s)
  | canTxDone a0 => exact execCanTxDone_keep nofun nofun nofun nofun nofun nofun nofun nofun nofun nofun nofun nofun nofun nofun a0 (Keep.refl s)
  | busOff a0 => exact execBusOff_keep nofun nofun nofun nofun nofun nofun nofun nofun nofun nofun a0 (Keep.refl s)
  | canRecover a0 => exact execCanRecover_keep nofun nofun nofun nofun nofun nofun nofun nofun nofun nofun nofun nofun nofun nofun nofun nofun nofun nofun nofun nofun nofun nofun nofun nofun nofun nofun nofun nofun nofun nofun nofun a0 (Keep.refl s)
  | busOffRecovered a0 => exact execBusOffRecovered_keep nofun nofun nofun nofun nofun nofun nofun nofun nofun nofun nofun nofun nofun nofun a0 (Keep.refl s)
  | tpCmRts a0 a1 => exact execTpCmRts_keep nofun nofun nofun nofun nofun nofun nofun a0 a1 (Keep.refl s)
  | tpCmBam a0 a1 => exact execTpCmBam_keep nofun nofun nofun nofun nofun nofun nofun a0 a1 (Keep.refl s)
  | tpDt a0 a1 => exact execTpDt_keep nofun nofun nofun nofun nofun nofun nofun a0 a1 (Keep.refl s)
  | tpTimeout a0 a1 => exact execTpTimeout_keep nofun nofun nofun nofun nofun nofun nofun nofun nofun a0 a1 (Keep.refl s)
  | tpRelease a0 a1 a2 => exact execTpRelease_keep nofun nofun nofun nofun nofun nofun nofun nofun nofun nofun nofun nofun nofun nofun a0 a1 a2 (Keep.refl s)
  | ruleTableWrite a0 => exact execRuleTableWrite_keep nofun nofun nofun nofun nofun nofun nofun nofun nofun nofun nofun nofun nofun nofun nofun nofun nofun nofun nofun nofun nofun nofun nofun nofun nofun nofun nofun nofun nofun nofun nofun a0 (Keep.refl s)
  | internalTxDoorbell a0 a1 a2 a3 => exact execInternalTxDoorbell_keep nofun nofun nofun nofun nofun nofun nofun nofun nofun nofun nofun nofun nofun nofun nofun nofun nofun nofun nofun a0 a1 a2 a3 (Keep.refl s)
  | tetherSqWrite a0 => exact execTetherSqWrite_keep nofun nofun nofun nofun nofun nofun nofun nofun nofun nofun nofun nofun nofun nofun a0 (Keep.refl s)
  | tetherSqWriteImm a0 => exact execTetherSqWriteImm_keep nofun nofun nofun nofun nofun nofun nofun nofun nofun nofun nofun nofun nofun nofun a0 (Keep.refl s)
  | tetherSqRead a0 => exact execTetherSqRead_keep nofun nofun nofun nofun nofun nofun nofun nofun nofun nofun nofun nofun nofun nofun a0 (Keep.refl s)
  | tetherSqFlush a0 => exact execTetherSqFlush_keep nofun nofun nofun nofun nofun nofun nofun nofun nofun nofun nofun nofun nofun nofun a0 (Keep.refl s)
  | tetherSqDoorbell a0 a1 a2 => exact execTetherSqDoorbell_keep nofun nofun nofun nofun nofun nofun nofun nofun nofun nofun nofun nofun nofun nofun nofun nofun nofun nofun a0 a1 a2 (Keep.refl s)
  | tetherRxWrite a0 a1 => exact execTetherRxWrite_keep nofun nofun nofun nofun nofun nofun nofun nofun nofun nofun nofun nofun nofun nofun nofun nofun nofun a0 a1 (Keep.refl s)
  | tetherRxWriteImm a0 => exact execTetherRxWriteImm_keep nofun nofun nofun nofun nofun nofun nofun nofun nofun nofun nofun nofun nofun nofun nofun nofun nofun a0 (Keep.refl s)
  | tetherRxRead a0 => exact execTetherRxRead_keep nofun nofun nofun nofun nofun nofun nofun nofun nofun nofun nofun nofun nofun nofun nofun nofun nofun a0 (Keep.refl s)
  | tetherRxReadResp a0 => exact execTetherRxReadResp_keep nofun nofun nofun nofun nofun nofun nofun nofun nofun nofun nofun nofun nofun nofun nofun nofun nofun a0 (Keep.refl s)
  | tetherRxFlush a0 => exact execTetherRxFlush_keep nofun nofun nofun nofun nofun nofun nofun nofun nofun nofun nofun nofun nofun nofun nofun nofun nofun a0 (Keep.refl s)
  | flushAck a0 => exact execFlushAck_keep nofun nofun nofun nofun a0 (Keep.refl s)
  | tetherRxFlushAck a0 => exact execTetherRxFlushAck_keep nofun nofun nofun nofun nofun nofun nofun nofun nofun nofun nofun nofun nofun nofun nofun nofun nofun a0 (Keep.refl s)
  | tetherRxAck a0 => exact execTetherRxAck_keep nofun nofun nofun nofun nofun nofun nofun nofun nofun nofun nofun nofun nofun nofun nofun nofun nofun a0 (Keep.refl s)
  | tetherRxNak a0 => exact execTetherRxNak_keep nofun nofun nofun nofun nofun nofun nofun nofun nofun nofun nofun nofun nofun nofun nofun nofun nofun a0 (Keep.refl s)
  | goBackRound a0 => exact execGoBackRound_keep nofun nofun nofun nofun nofun nofun nofun nofun nofun nofun nofun nofun nofun nofun nofun nofun a0 (Keep.refl s)
  | connEnable a0 a1 => exact execConnEnable_keep nofun nofun nofun nofun nofun nofun nofun nofun nofun nofun nofun nofun nofun nofun nofun nofun nofun nofun a0 a1 (Keep.refl s)
  | connDisable a0 a1 => exact execConnDisable_keep nofun nofun nofun nofun nofun nofun nofun nofun nofun nofun nofun nofun nofun nofun nofun nofun nofun nofun a0 a1 (Keep.refl s)
  | connQuery a0 a1 => exact execConnQuery_keep nofun nofun nofun nofun nofun nofun nofun nofun nofun nofun nofun nofun nofun nofun nofun nofun nofun nofun a0 a1 (Keep.refl s)
  | register a0 a1 => exact execRegister_keep nofun nofun nofun nofun nofun nofun nofun nofun nofun nofun nofun nofun nofun nofun nofun nofun nofun nofun a0 a1 (Keep.refl s)
  | deregister a0 a1 => exact execDeregister_keep nofun nofun nofun nofun nofun nofun nofun nofun nofun nofun nofun nofun nofun nofun nofun nofun nofun nofun a0 a1 (Keep.refl s)
  | hawserAccess a0 a1 a2 a3 => exact execHawserAccess_keep nofun nofun nofun nofun nofun nofun nofun nofun nofun nofun nofun nofun nofun a0 a1 a2 a3 (Keep.refl s)
  | spliceTimeout a0 a1 a2 => exact execSpliceTimeout_keep nofun nofun nofun nofun nofun nofun nofun nofun nofun nofun nofun nofun a0 a1 a2 (Keep.refl s)
  | hawserAmo a0 a1 a2 a3 => exact execHawserAmo_keep nofun nofun nofun nofun nofun nofun nofun nofun nofun nofun nofun nofun nofun a0 a1 a2 a3 (Keep.refl s)
  | hawserLr a0 a1 => exact execHawserLr_keep nofun nofun nofun nofun nofun nofun nofun nofun nofun nofun nofun nofun nofun a0 a1 (Keep.refl s)
  | hawserSc a0 a1 a2 => exact execHawserSc_keep nofun nofun nofun nofun nofun nofun nofun nofun nofun nofun nofun nofun nofun a0 a1 a2 (Keep.refl s)
  | lockExpiry => exact execLockExpiry_keep nofun nofun nofun nofun nofun (Keep.refl s)
  | semaphoreAmo a0 a1 a2 a3 => exact execSemaphoreAmo_keep nofun nofun nofun nofun nofun nofun nofun nofun nofun nofun nofun nofun nofun nofun nofun nofun nofun nofun nofun nofun nofun nofun nofun nofun nofun nofun nofun nofun nofun a0 a1 a2 a3 (Keep.refl s)
  | semaphoreLr a0 a1 => exact execSemaphoreLr_keep nofun nofun nofun nofun nofun nofun nofun nofun nofun nofun nofun nofun nofun nofun a0 a1 (Keep.refl s)
  | semaphoreSc a0 a1 a2 => exact execSemaphoreSc_keep nofun nofun nofun nofun nofun nofun nofun nofun nofun nofun nofun nofun nofun nofun nofun nofun nofun nofun nofun nofun nofun nofun nofun nofun nofun nofun nofun a0 a1 a2 (Keep.refl s)
  | semaphoreExpiry a0 => exact execSemaphoreExpiry_keep nofun nofun nofun nofun nofun a0 (Keep.refl s)
  | pcieOutboundAccess a0 a1 a2 a3 => exact execPcieOutboundAccess_keep nofun nofun nofun nofun nofun nofun nofun nofun nofun nofun nofun nofun nofun a0 a1 a2 a3 (Keep.refl s)
  | pcieInboundRequest a0 a1 a2 => exact execPcieInboundRequest_keep nofun nofun nofun nofun nofun nofun nofun nofun nofun nofun nofun nofun nofun nofun nofun nofun nofun nofun nofun nofun nofun nofun nofun nofun nofun nofun nofun nofun nofun a0 a1 a2 (Keep.refl s)
  | pcieIntx => exact execPcieIntx_keep nofun (Keep.refl s)
  | epMsi a0 a1 a2 => exact execEpMsi_keep nofun nofun nofun nofun nofun nofun nofun nofun nofun nofun nofun nofun nofun a0 a1 a2 (Keep.refl s)
  | pollRead a0 a1 => exact execPollRead_keep nofun nofun nofun nofun nofun nofun nofun nofun nofun a0 a1 (Keep.refl s)
  | pollListWrite a0 => exact execPollListWrite_keep nofun nofun nofun nofun nofun nofun nofun nofun nofun nofun nofun nofun nofun nofun nofun nofun nofun nofun nofun nofun nofun nofun nofun nofun nofun nofun nofun nofun nofun nofun nofun a0 (Keep.refl s)
  | prefetchExpiry a0 => exact execPrefetchExpiry_keep nofun nofun nofun a0 (Keep.refl s)
  | farMasterRequest => exact execFarMasterRequest_keep nofun (Keep.refl s)
  | farMasterRelease => exact execFarMasterRelease_keep nofun (Keep.refl s)
  | farMasterCycle a0 a1 a2 => exact execFarMasterCycle_keep nofun nofun nofun nofun nofun nofun nofun nofun nofun nofun nofun nofun nofun nofun nofun nofun nofun nofun nofun nofun nofun nofun nofun nofun nofun nofun nofun nofun nofun a0 a1 a2 (Keep.refl s)
  | ambientSample a0 a1 => exact execAmbientSample_keep nofun nofun nofun nofun nofun nofun nofun nofun nofun a0 a1 (Keep.refl s)
  | carrierFlood a0 a1 => exact execCarrierFlood_keep nofun nofun nofun nofun nofun nofun nofun nofun nofun a0 a1 (Keep.refl s)
  | floodClear a0 => exact execFloodClear_keep nofun nofun nofun a0 (Keep.refl s)
  | whistleCodingError a0 => exact execWhistleCodingError_keep nofun a0 (Keep.refl s)
  | whistleStop a0 a1 => exact execWhistleStop_keep nofun nofun nofun nofun a0 a1 (Keep.refl s)
  | whistleHold a0 a1 => exact execWhistleHold_keep nofun nofun nofun nofun a0 a1 (Keep.refl s)
  | hitchUp a0 a1 => exact execHitchUp_keep nofun nofun nofun nofun a0 a1 (Keep.refl s)
  | hitchDown a0 a1 => exact execHitchDown_keep nofun nofun nofun nofun a0 a1 (Keep.refl s)
  | creepFwd a0 a1 => exact execCreepFwd_keep nofun nofun nofun nofun a0 a1 (Keep.refl s)
  | creepRev a0 a1 => exact execCreepRev_keep nofun nofun nofun nofun a0 a1 (Keep.refl s)
  | whistleHeartbeat a0 a1 => exact execWhistleHeartbeat_keep nofun nofun nofun nofun a0 a1 (Keep.refl s)
  | whistleArm a0 a1 => exact execWhistleArm_keep nofun nofun nofun nofun a0 a1 (Keep.refl s)
  | whistleDisarm a0 a1 => exact execWhistleDisarm_keep nofun nofun nofun nofun a0 a1 (Keep.refl s)
  | heartbeatLost a0 => exact execHeartbeatLost_keep nofun nofun nofun nofun nofun nofun nofun nofun nofun nofun nofun a0 (Keep.refl s)
  | disarmAll a0 a1 => exact execDisarmAll_keep nofun nofun nofun nofun nofun nofun nofun nofun nofun nofun nofun nofun nofun nofun a0 a1 (Keep.refl s)
  | recPop a0 a1 => exact execRecPop_keep nofun nofun nofun nofun nofun nofun nofun nofun nofun nofun nofun nofun nofun nofun a0 a1 (Keep.refl s)
  | pendantKeyWrite a0 a1 => exact execPendantKeyWrite_keep nofun nofun nofun nofun nofun nofun nofun nofun nofun nofun nofun nofun nofun nofun nofun nofun nofun nofun nofun nofun nofun nofun nofun nofun nofun nofun nofun nofun nofun nofun nofun a0 a1 (Keep.refl s)
  | pendantSlotEnable a0 => exact execPendantSlotEnable_keep nofun nofun nofun nofun nofun nofun nofun nofun nofun nofun nofun nofun nofun nofun nofun nofun nofun nofun nofun nofun nofun nofun nofun nofun nofun nofun nofun nofun nofun nofun nofun a0 (Keep.refl s)
  | frzTriggerNow a0 => exact execFrzTriggerNow_keep nofun nofun nofun nofun nofun nofun nofun nofun nofun nofun nofun nofun nofun nofun nofun nofun nofun nofun nofun nofun nofun nofun nofun nofun nofun nofun nofun nofun nofun nofun nofun a0 (Keep.refl s)
  | frzTrigPin a0 a1 => exact execFrzTrigPin_keep nofun nofun nofun a0 a1 (Keep.refl s)
  | frzSwTrig a0 a1 => exact execFrzSwTrig_keep nofun nofun nofun nofun nofun nofun nofun nofun nofun nofun nofun nofun nofun a0 a1 (Keep.refl s)
  | frzSchedule a0 => exact execFrzSchedule_keep nofun nofun nofun nofun nofun nofun nofun nofun nofun nofun nofun nofun nofun nofun nofun nofun nofun nofun nofun nofun nofun nofun nofun nofun nofun nofun nofun nofun nofun nofun nofun a0 (Keep.refl s)
  | frzScheduledAccept => exact execFrzScheduledAccept_keep nofun nofun nofun nofun nofun (Keep.refl s)
  | frzLatch => exact execFrzLatch_keep nofun nofun nofun (Keep.refl s)
  | frzBankFull a0 => exact execFrzBankFull_keep nofun nofun nofun nofun nofun a0 (Keep.refl s)
  | frzRecord => exact execFrzRecord_keep nofun nofun (Keep.refl s)
  | frzRelease a0 a1 a2 => exact execFrzRelease_keep nofun nofun nofun nofun nofun nofun nofun nofun nofun nofun nofun nofun nofun nofun nofun nofun nofun nofun nofun nofun nofun nofun nofun nofun nofun nofun nofun nofun nofun nofun nofun nofun nofun nofun a0 a1 a2 (Keep.refl s)
  | frzClearRecords a0 => exact execFrzClearRecords_keep nofun nofun nofun nofun nofun nofun nofun nofun nofun nofun nofun nofun nofun nofun nofun nofun nofun nofun nofun nofun nofun nofun nofun nofun nofun nofun nofun nofun nofun nofun nofun a0 (Keep.refl s)
  | rejectedFrame a0 a1 => exact execRejectedFrame_keep nofun nofun nofun nofun a0 a1 (Keep.refl s)
  | aerError => exact execAerError_keep nofun (Keep.refl s)
  | grandmasterSync => exact execGrandmasterSync_keep nofun nofun nofun (Keep.refl s)

/-- A step takes the command at the front of the queue, or none. -/
theorem step_pending {s t : State} (h : step s = .next t) : t.pending = s.pending.tail := by
  unfold step at h
  split at h
  · rename_i e; cases h; simp [e, tick]
  · rename_i c rest e
    have := ((exec_keep c { s with pending := rest }).of t h).pending
    simpa [e] using this

/-- Whatever a step does, time does not go back, outputs are only added, fuses only burn, the memory stays canonical and the pins stay as
the device state asks. -/
theorem step_keep {s t : State} (h : step s = .next t) :
    s.now ≤ t.now ∧ s.free ≤ t.free ∧ s.out <:+ t.out ∧ FusesLe s.fuses t.fuses ∧ (Memory.wf s.mem = true → Memory.wf t.mem = true) ∧
    (PinsOk s → PinsOk t) := by
  unfold step at h
  split at h
  · cases h
    exact ⟨Nat.le_succ _, Nat.le_refl _, List.suffix_refl _, FusesLe.refl _, id, id⟩
  · rename_i c rest e
    have := (exec_keep c { s with pending := rest }).of t h
    exact ⟨this.now, this.free, this.out, this.fuses, this.mem, this.same .pins rfl⟩

end Sys2Proof.Machine
end

