-- ==== Sys2Proof/Laws/Write.lean ====
section
/-! SUPPORT. What a register write that reaches its register does, said once for every register command. -/

namespace Sys2Proof.Machine

theorem atWide_eq {acc : Access} {a : Nat} (h : acc.addr ≠ a + 4) : atWide acc a = atReg acc a := by
  unfold atWide atReg
  rw [if_neg h]

/-- A write that reaches its register runs the register's effect on the value carried; an effect that takes it is answered and counted. -/
theorem regWriteWith_done {eff : Nat → Nat → Access → State → WriteRes} {acc : Access} {a : Nat} {v : Word} {s u : State}
    (h : Reaches acc a s) (e : eff a (carried acc v) (atReg acc a) s = .done u) :
    regWriteWith eff (atReg acc a) v.toNat s = emit (.writeOk acc.req a) (regPut (countReg a) ((regRaw u (countReg a) + 1) % 2 ^ 32) u) := by
  obtain ⟨l, hl, hb, hw⟩ := h.ok
  have hf : bridgeEnter (atReg acc a).req (atReg acc a).addr s = s := h.free
  have hv : v.toNat % 2 ^ 64 = v.toNat := Nat.mod_eq_of_lt v.isLt
  unfold regWriteWith
  rw [if_neg (by simp [h.on])]
  simp only [hf, hl]
  unfold writeLoc
  have hb' : locBase (atReg acc a).addr l = a := hb
  simp only [hb']
  unfold carried at e
  by_cases h64 : acc.bits = 64
  · rw [if_pos h64] at e
    have q : (atReg acc a).bits = 64 := h64
    simp only [q, if_true, hv]
    unfold commitWrite
    rw [e]
    rfl
  · rw [if_neg h64] at e
    have q : (atReg acc a).bits ≠ 64 := h64
    have w : locWide l = false := hw.resolve_left h64
    simp only [if_neg q, w, Bool.not_false, if_true]
    unfold commitWrite
    rw [e]
    rfl

/-- The taken write, as statements say it. -/
theorem writeTaken_of {acc : Access} {a : Nat} {s u : State} (h : regRaw u (countReg a) = regRaw s (countReg a)) :
    WriteTaken acc a s (emit (.writeOk acc.req a) (regPut (countReg a) ((regRaw u (countReg a) + 1) % 2 ^ 32) u)) := by
  refine ⟨rfl, ?_⟩
  rw [emit_regRaw, regRaw_regPut_self, h]
  exact Nat.mod_eq_of_lt (Nat.lt_trans (Nat.mod_lt _ (by decide)) (by decide))

end Sys2Proof.Machine
end

