-- ==== Sys2Proof/WellFormed.lean ====
section
/-! DEFINITION. Which commands an interface of the device can carry: widths of the fields, lengths, alignment. No meaning depends on it;
statements may. -/

namespace Sys2Proof

/-- An access fits the fabric: a requester ID of 8 bits, a width that a requester has, a 40-bit address. -/
def Access.wf (a : Access) : Bool :=
  decide (a.req < 256 ∧ a.addr < 2 ^ 40 ∧ (a.bits = 8 ∨ a.bits = 16 ∨ a.bits = 32 ∨ a.bits = 64))

/-- The fields of a Leash message fit their bytes (R113); a TAG is 16 bytes or absent. -/
def LeashMsg.wf (m : LeashMsg) : Bool :=
  decide (m.etherType < 65536 ∧ m.dst < 2 ^ 48 ∧ m.version < 256 ∧ m.typ < 256 ∧ m.status < 256 ∧ m.role < 256 ∧
    m.sessionId < 2 ^ 32 ∧ m.seq < 2 ^ 32 ∧ m.length < 65536 ∧ m.reserved < 65536 ∧ m.payload.length ≤ 1484 ∧
    (m.tag.length = 0 ∨ m.tag.length = 16))

/-- A CAN frame has a data length that its format has (R688), an identifier of 11 or 29 bits, and no remote FD frame. -/
def CanFrame.wf (f : CanFrame) : Bool :=
  (decide (f.data.length ≤ 8) || (f.fdf && [12, 16, 20, 24, 32, 48, 64].contains f.data.length)) &&
  decide (f.ident < (if f.ide then 2 ^ 29 else 2 ^ 11)) && !(f.rtr && f.fdf)

/-- An Ethernet frame has fields that fit and a payload that a port carries. -/
def EthFrame.wf (f : EthFrame) : Bool :=
  decide (f.dst < 2 ^ 48 ∧ f.src < 2 ^ 48 ∧ f.etype < 65536 ∧ f.payload.length ≤ 9600) &&
  f.tag.all (fun t => decide (t.1 < 8 ∧ t.2 < 4096)) && f.rtag.all (fun n => decide (n < 65536))

/-- A Tether frame has fields that fit its header (R722). -/
def TetherFrame.wf (f : TetherFrame) : Bool :=
  decide (f.port < 2 ∧ f.srcMac < 2 ^ 48 ∧ f.vlan < 4096 ∧ f.version < 256 ∧ f.opcode < 256 ∧ f.flags < 256 ∧ f.status < 256 ∧
    f.connId < 65536 ∧ f.psn < 2 ^ 24 ∧ f.ackPsn < 2 ^ 24 ∧ f.regionTag < 2 ^ 32 ∧ f.offset < 2 ^ 64 ∧ f.length < 2 ^ 32 ∧
    f.imm < 2 ^ 32 ∧ f.reserved < 2 ^ 32 ∧ f.payload.length ≤ 9600)

/-- A far answer has as many bytes as were asked for, or stops before the last beat. -/
def FarAnswer.wf (a : FarAnswer) (len : Nat) : Bool :=
  match a with
  | .data l => decide (l.length ≤ len)
  | .stall n => decide (n < len)
  | .poisoned => true
  | .refused => true

/-- A physical upset names a byte of a die and changes it (R267). -/
def DramUpset.wf (u : DramUpset) : Bool := decide (u.die < 10 ∧ u.byte < 8 ∧ u.xor ≠ 0)

/-- A physical upset names one of the 72 bits of a word (R287). -/
def SramUpset.wf (u : SramUpset) : Bool := decide (u.bit < 72)

/-- A line write covers one 64-byte line. -/
def LineWrite.wf (w : LineWrite) : Bool := decide (w.bytes.length = 64)

/-- What a start meets: headers of 8 KiB, known steps and macros. -/
def StartEnv.wf (e : StartEnv) : Bool :=
  decide (e.copyA.header.length = 8192 ∧ e.copyB.header.length = 8192) &&
  e.failStep.all (fun f => decide (1 ≤ f.1 ∧ f.1 ≤ 14)) && e.badMacros.all (fun p => decide (p.1 < 16 ∧ p.2 < 64)) &&
  e.badParams.all (fun n => decide (n < 2)) && e.badRecords.all (fun n => decide (n < 8))

/-- Bytes written by an access of `len` bytes. -/
def dataWf (len : Nat) (wr : Option (List Byte)) : Bool := decide (1 ≤ len) && wr.all (fun l => decide (l.length = len))

/-- Bytes written under byte enables by a request of `len` bytes. -/
def maskedWf (len : Nat) (wr : Option (List (Option Byte))) : Bool := wr.all (fun l => decide (l.length = len))

/-- At most one word per PMIC page, of 16 bits. -/
def wordsWf (l : List (Option Nat)) : Bool := decide (l.length ≤ 8) && l.all (fun w => w.all (fun v => decide (v < 65536)))

/-- A junction temperature in range. -/
def tempWf (t : Int) : Bool := decide (-400 ≤ t ∧ t ≤ 1500)

/-- A submission fails with the status of a fault of its accesses (R592). -/
def failureWf (f : Option (Nat × Nat)) : Bool := f.all (fun p => decide (p.1 = 0x03 ∨ p.1 = 0x11))

/-- Whether an interface of the device can carry a command. -/
def Instr.wf (i : Instr) : Bool :=
  match i with
  | .vddAonPowerOn _ _ _ env => env.wf
  | .porstNRelease _ _ env => env.wf
  | .vsenseSample tapUv => decide (-2000000 ≤ tapUv ∧ tapUv ≤ 6000000)
  | .restartExit env => env.wf
  | .startReady acc _ => acc.wf
  | .restartRequest m => m.wf
  | .tempSensorUpdate temps => decide (temps.length = 24) && temps.all (fun t => decide (-400 ≤ t ∧ t ≤ 1500))
  | .pmicPoll words => wordsWf words
  | .pmbAlert words => wordsWf words
  | .alarm numbers => decide (numbers ≠ []) && numbers.all (fun n => decide (n < 256))
  | .wdgKick _ acc _ => acc.wf
  | .swAlarm acc _ => acc.wf
  | .clockMon _ count => decide (count < 2 ^ 32)
  | .registerWrite acc _ => acc.wf
  | .lowHalfRead acc => acc.wf
  | .highHalfRead acc => acc.wf
  | .lowHalfWrite acc _ => acc.wf
  | .highHalfWrite acc _ => acc.wf
  | .leashHello m => m.wf
  | .leashProve m => m.wf
  | .leashRead m => m.wf
  | .leashWrite m => m.wf
  | .leashSegReadInit m => m.wf
  | .leashSegRead m => m.wf
  | .leashSegWriteInit m => m.wf
  | .leashSegWrite m => m.wf
  | .leashClose m => m.wf
  | .leashNop m => m.wf
  | .storeAllParameters m => m.wf
  | .restoreDefaultParameters m => m.wf
  | .errorHistoryClear m => m.wf
  | .credentialWrite m _ => m.wf
  | .usdoUpload index sub => decide (index < 65536 ∧ sub < 256)
  | .usdoDownload index sub => decide (index < 65536 ∧ sub < 256)
  | .nmtCommand command node => decide (command < 256 ∧ node < 128)
  | .dramRead acc len upsets _ => acc.wf && decide (1 ≤ len ∧ len ≤ 4096) && upsets.all DramUpset.wf
  | .demandScrub addr => decide (addr < 2 ^ 40)
  | .sramRead acc len upsets => acc.wf && decide (1 ≤ len ∧ len ≤ 4096) && upsets.all SramUpset.wf
  | .codedWrite acc _ bytes => acc.wf && decide (1 ≤ bytes.length ∧ bytes.length ≤ 4096)
  | .patrolScrub upsets sramUpsets _ => upsets.all DramUpset.wf && sramUpsets.all SramUpset.wf
  | .coreRelease acc _ => acc.wf
  | .handoverSplit acc _ _ => acc.wf
  | .handoverRejoin acc _ _ => acc.wf
  | .handoverConfirm acc _ => acc.wf
  | .packDoorbell _ _ acc _ => acc.wf
  | .queueConfigWrite _ _ acc _ => acc.wf
  | .queueStop _ _ acc => acc.wf
  | .queueStart _ _ acc => acc.wf
  | .queueFlush _ _ acc => acc.wf
  | .cqHeadWrite _ _ acc _ => acc.wf
  | .tileCommit _ _ _ referenceOff => referenceOff.all (fun r => decide (r.2.2 < 2064))
  | .calDue _ _ tempC10 => tempWf tempC10
  | .calibrationDone _ fit _ => decide (fit.length ≤ 2064)
  | .engineKindWrite m => m.wf
  | .rosterTableWrite m => m.wf
  | .rosterSelect m => m.wf
  | .packModeWrite m => m.wf
  | .kseqAlloc _ acc => acc.wf
  | .kseqFree _ acc _ => acc.wf
  | .kseqTrim _ acc _ => acc.wf
  | .kseqResume _ acc _ => acc.wf
  | .kseqQuery _ acc _ => acc.wf
  | .instanceCreate m => m.wf
  | .instanceReset _ acc od => acc.wf && od.all LeashMsg.wf
  | .instanceRemove m => m.wf
  | .csiLongPacket _ _ dataType _ _ payload => decide (dataType < 64 ∧ payload.length < 65536)
  | .embeddedDataPacket _ _ payload => decide (payload.length < 65536)
  | .releasedWrite _ acc _ => acc.wf
  | .streamEnable m => m.wf
  | .streamDisable m => m.wf
  | .gfxDoorbell _ acc _ => acc.wf
  | .gfxPreemptionPoint _ writes => writes.all LineWrite.wf
  | .gfxSubmissionDone _ _ writes failure => failureWf failure && writes.all LineWrite.wf
  | .gfxQueueStop _ acc => acc.wf
  | .gfxQueueStart _ acc => acc.wf
  | .gfxQueueFlush _ acc => acc.wf
  | .planeAddrWrite _ _ acc _ => acc.wf
  | .expCommit _ acc _ => acc.wf
  | .pipeEnable m => m.wf
  | .appRelease acc _ => acc.wf
  | .mworldWrite _ csr _ _ pc => decide (csr < 4096 ∧ pc < 2 ^ 64)
  | .filterLock acc _ => acc.wf
  | .derivationRequest acc salt info length => acc.wf && decide (salt.length < 65536 ∧ info.length < 65536 ∧ length < 65536)
  | .attestationSign acc digest => acc.wf && decide (digest.length = 48)
  | .measGo acc _ => acc.wf
  | .mboxDoorbell _ acc _ => acc.wf
  | .mboxResp _ acc _ => acc.wf
  | .twKick acc _ => acc.wf
  | .lifecycleAdvance m => m.wf
  | .rollbackRaise m => m.wf
  | .splitMaskProgram m => m.wf
  | .msgRouteWrite _ acc _ => acc.wf
  | .knotSignalWrite _ acc _ => acc.wf
  | .waitArm _ _ acc _ => acc.wf
  | .knotAssign m => m.wf
  | .ethFrameRx _ frame => frame.wf
  | .gateControlListWrite m => m.wf
  | .canFrameRx _ frame => frame.wf
  | .canTxDoorbell _ _ acc _ => acc.wf
  | .canRecover m => m.wf
  | .tpCmRts _ frame => frame.wf
  | .tpCmBam _ frame => frame.wf
  | .tpDt _ frame => frame.wf
  | .tpRelease _ acc _ => acc.wf
  | .ruleTableWrite m => m.wf
  | .internalTxDoorbell _ _ acc _ => acc.wf
  | .tetherSqDoorbell _ acc _ => acc.wf
  | .tetherRxWrite f _ => f.wf
  | .tetherRxWriteImm f => f.wf
  | .tetherRxRead f => f.wf
  | .tetherRxReadResp f => f.wf
  | .tetherRxFlush f => f.wf
  | .tetherRxFlushAck f => f.wf
  | .tetherRxAck f => f.wf
  | .tetherRxNak f => f.wf
  | .connEnable _ acc => acc.wf
  | .connDisable _ acc => acc.wf
  | .connQuery _ acc => acc.wf
  | .register _ acc => acc.wf
  | .deregister _ acc => acc.wf
  | .hawserAccess acc len wr far => acc.wf && dataWf len wr && far.wf len
  | .spliceTimeout acc _ _ => acc.wf
  | .hawserAmo acc _ _ far => acc.wf && decide (acc.addr % (acc.bits / 8) = 0) && far.wf 8
  | .hawserLr acc far => acc.wf && decide (acc.addr % (acc.bits / 8) = 0) && far.wf 8
  | .hawserSc acc _ far => acc.wf && decide (acc.addr % (acc.bits / 8) = 0) && far.wf 8
  | .semaphoreAmo acc _ _ far => acc.wf && decide (acc.addr % (acc.bits / 8) = 0) && far.wf 8
  | .semaphoreLr acc far => acc.wf && decide (acc.addr % (acc.bits / 8) = 0) && far.wf 8
  | .semaphoreSc acc _ far => acc.wf && decide (acc.addr % (acc.bits / 8) = 0) && far.wf 8
  | .pcieOutboundAccess acc len wr far => acc.wf && dataWf len wr && far.wf len
  | .pcieInboundRequest busAddr len wr => decide (busAddr < 2 ^ 64 ∧ 1 ≤ len ∧ len ≤ 4096) && maskedWf len wr
  | .epMsi acc _ _ => acc.wf
  | .pollRead _ far => far.wf 4
  | .pollListWrite m => m.wf
  | .farMasterCycle farAddr len wr => decide (farAddr < 2 ^ 32 ∧ 1 ≤ len ∧ len ≤ 64) && maskedWf len wr
  | .ambientSample _ code => decide (code < 4096)
  | .whistleStop _ body => decide (body.toNat / 2 ^ 40 % 256 = 0x01)
  | .whistleHold _ body => decide (body.toNat / 2 ^ 40 % 256 = 0x02)
  | .hitchUp _ body => decide (body.toNat / 2 ^ 40 % 256 = 0x10)
  | .hitchDown _ body => decide (body.toNat / 2 ^ 40 % 256 = 0x11)
  | .creepFwd _ body => decide (body.toNat / 2 ^ 40 % 256 = 0x20)
  | .creepRev _ body => decide (body.toNat / 2 ^ 40 % 256 = 0x21)
  | .whistleHeartbeat _ body => decide (body.toNat / 2 ^ 40 % 256 = 0x30)
  | .whistleArm _ body => decide (body.toNat / 2 ^ 40 % 256 = 0x40)
  | .whistleDisarm _ body => decide (body.toNat / 2 ^ 40 % 256 = 0x41)
  | .disarmAll acc _ => acc.wf
  | .recPop acc _ => acc.wf
  | .pendantKeyWrite m _ => m.wf
  | .pendantSlotEnable m => m.wf
  | .frzTriggerNow m => m.wf
  | .frzSwTrig acc _ => acc.wf
  | .frzSchedule m => m.wf
  | .frzBankFull unconfirmed => unconfirmed.all (fun b => decide (b < 2 ^ 40))
  | .frzRelease acc _ od => acc.wf && od.all LeashMsg.wf
  | .frzClearRecords m => m.wf
  | .vddAonRemoved => true
  | .porstNAssert _ => true
  | .retentionRailExcursion _ => true
  | .coreRailUndervoltage _ => true
  | .railWindow _ => true
  | .braceReturn => true
  | .controlledResetDone => true
  | .readyTimeout => true
  | .warmReqNFall _ => true
  | .alarmLine _ => true
  | .sdgSelf => true
  | .safeAckNChange _ => true
  | .safeAckConfirmed => true
  | .safeAckMissing => true
  | .restartFrameWaitEnd => true
  | .aliveToggle => true
  | .safetyStatusPeriodic => true
  | .safetyStatusTxDone => true
  | .safetyMsgFail => true
  | .wdgWindowOpen _ => true
  | .wdgWindowClose _ => true
  | .clkSdgMonitor _ _ => true
  | .latentTest _ => true
  | .fabricTimeout _ => true
  | .generationWaitEnd _ => true
  | .generationWaitTimeout _ => true
  | .proveTimeout _ => true
  | .idleTimeout _ => true
  | .lockoutExpiry _ => true
  | .storeDone _ => true
  | .heartbeatProducer => true
  | .tpdoEventTimer _ => true
  | .patrolPassStart => true
  | .lockstepMismatch _ => true
  | .handoverConfirmTimeout => true
  | .descriptorFetch _ _ => true
  | .nop _ _ => true
  | .fence _ _ => true
  | .checkpoint _ _ => true
  | .knotWait _ _ => true
  | .knotSignal _ _ => true
  | .copy _ _ => true
  | .matmul _ _ => true
  | .conv2d _ _ => true
  | .vecAdd _ _ => true
  | .vecMul _ _ => true
  | .vecMax _ _ => true
  | .vecMin _ _ => true
  | .vecAxpb _ _ => true
  | .vecRelu _ _ => true
  | .vecClamp _ _ => true
  | .vecGelu _ _ => true
  | .vecSigmoid _ _ => true
  | .vecTanh _ _ => true
  | .vecExp _ _ => true
  | .vecRsqrt _ _ => true
  | .vecSoftmax _ _ => true
  | .vecLayernorm _ _ => true
  | .vecRmsnorm _ _ => true
  | .vecRowSum _ _ => true
  | .vecRowMax _ _ => true
  | .vecConvert _ _ => true
  | .cimRun _ _ => true
  | .cimLoad _ _ => true
  | .attn _ _ => true
  | .attnVerifyAttend _ _ => true
  | .attnVerifyAccept _ _ => true
  | .tileStart _ _ _ => true
  | .tileHang _ _ => true
  | .completionWrite _ _ => true
  | .knotWaitRelease _ _ => true
  | .knotWaitTimeout _ _ => true
  | .calibrationStart _ => true
  | .calOverdue _ _ => true
  | .rosterFrameStart => true
  | .slotStart _ => true
  | .slotEnd _ => true
  | .slowdownWindow _ _ _ => true
  | .packScrubDone _ => true
  | .swapOutDone _ => true
  | .swapInDone _ => true
  | .pageZeroed _ => true
  | .kennelAllocGrant _ => true
  | .frameStartPacket _ _ => true
  | .frameEndPacket _ _ => true
  | .testLinesAtDma _ _ => true
  | .testLineTimeout _ => true
  | .frameTimeout _ => true
  | .gfxSubmissionFetch _ => true
  | .gfxSubmissionStart _ _ _ => true
  | .timesliceExpiry => true
  | .preemptTimeout _ => true
  | .shaderFault _ => true
  | .gfxCoreStopTimeout => true
  | .dispFrameStart _ => true
  | .dispRegionCrc _ _ _ => true
  | .scanoutUnderflow _ => true
  | .measurementDone => true
  | .trustedWdg => true
  | .waitSlotTimeout _ _ => true
  | .egressTransmit _ => true
  | .cbRecoveryReset _ => true
  | .gptpSync _ _ => true
  | .syncLoss => true
  | .holdover100ms => true
  | .portLinkDown _ => true
  | .portLinkUp _ => true
  | .canTransmitStart _ => true
  | .canTxDone _ => true
  | .busOff _ => true
  | .busOffRecovered _ => true
  | .tpTimeout _ _ => true
  | .tetherSqWrite _ => true
  | .tetherSqWriteImm _ => true
  | .tetherSqRead _ => true
  | .tetherSqFlush _ => true
  | .flushAck _ => true
  | .goBackRound _ => true
  | .lockExpiry => true
  | .semaphoreExpiry _ => true
  | .pcieIntx => true
  | .prefetchExpiry _ => true
  | .farMasterRequest => true
  | .farMasterRelease => true
  | .carrierFlood _ _ => true
  | .floodClear _ => true
  | .whistleCodingError _ => true
  | .heartbeatLost _ => true
  | .frzTrigPin _ _ => true
  | .frzScheduledAccept => true
  | .frzLatch => true
  | .frzRecord => true
  | .rejectedFrame _ _ => true
  | .aerError => true
  | .grandmasterSync => true

end Sys2Proof
end

