-- ==== Sys2Proof/Tests/Slice0.lean ====
section
/-! SUPPORT. Tests. For each statement and each of its clauses a state and operands that meet all its hypotheses together: the clause is
applied to them, so the theorem says which command it is then told to complete. Then a smoke test of `Instr.wf`. -/

namespace Sys2Proof.Tests
open Sys2Proof.Machine

-- One theorem at a time: each waiting thread would hold a stack of its own.
set_option Elab.async false

/-! ### Small helpers -/

theorem exists_some {α : Type} {o : Option α} {P : α → Prop} [DecidablePred P] (h : o.any (fun a => decide (P a)) = true) :
    ∃ a, o = some a ∧ P a := by
  cases o with
  | none => cases h
  | some a => exact ⟨a, rfl, of_decide_eq_true h⟩

theorem all_some {α : Type} {o : Option α} {P : α → Prop} [DecidablePred P] (h : o.all (fun a => decide (P a)) = true) :
    ∀ a, o = some a → P a := by
  rintro a rfl
  exact of_decide_eq_true h

theorem exists_some1 {α : Type} {o : Option α} (h : o.isSome = true) : ∃ a, o = some a := Option.isSome_iff_exists.mp h

theorem some_pair {α β : Type} {o : Option (α × β)} (h : o.isSome = true) : o = some ((o.get h).1, (o.get h).2) :=
  (Option.some_get h).symm

theorem some_triple {α β γ : Type} {o : Option (α × β × γ)} (h : o.isSome = true) :
    o = some ((o.get h).1, (o.get h).2.1, (o.get h).2.2) := (Option.some_get h).symm

theorem room_of {n : Nat} (h : n ≤ 9216) : n ≤ egressRoom := Nat.le_trans h (Nat.le_add_right _ _)

/-- The place of an access that passes its checks. -/
def placeOf : Check → Loc
  | .ok l => l
  | _ => .reg { base := 0 } 0

theorem exists_ok {c : Check} {P : Loc → Prop} [DecidablePred P] (h : decide (c = .ok (placeOf c) ∧ P (placeOf c)) = true) :
    ∃ l, c = .ok l ∧ P l := ⟨_, of_decide_eq_true h⟩

theorem eq_ok {c : Check} (h : decide (c = .ok (placeOf c)) = true) : c = .ok (placeOf c) := of_decide_eq_true h

theorem tagValid_signed {key : List Byte} {m : LeashMsg} (h : m.payload.length = m.length) : tagValid key (leashSigned key m) = true :=
  decide_eq_true ⟨h, rfl⟩

theorem pair_some {α β : Type} {x : α × Option β} (h : x.2.isSome = true) : x = (x.1, some (x.2.get h)) :=
  Prod.ext rfl (Option.some_get h).symm

/-- Whether a computation that may fail has this value. -/
def isOk {α : Type} [DecidableEq α] (x : Except Nat α) (v : α) : Bool :=
  match x with
  | .ok a => decide (a = v)
  | .error _ => false

/-- Whether it has failed so. -/
def isErr {α : Type} (x : Except Nat α) (n : Nat) : Bool :=
  match x with
  | .ok _ => false
  | .error m => decide (m = n)

theorem eq_of_isOk {α : Type} [DecidableEq α] {x : Except Nat α} {v : α} (h : isOk x v = true) : x = .ok v := by
  cases x with
  | ok a => rw [of_decide_eq_true h]
  | error _ => cases h

theorem eq_of_isErr {α : Type} {x : Except Nat α} {n : Nat} (h : isErr x n = true) : x = .error n := by
  cases x with
  | ok _ => cases h
  | error m => rw [of_decide_eq_true h]

theorem pair_isOk {α β : Type} [DecidableEq α] [DecidableEq β] {x : α × Except Nat β} {a : α} {v : β}
    (h : (decide (x.1 = a) && isOk x.2 v) = true) : x = (a, .ok v) :=
  Prod.ext (of_decide_eq_true (Bool.and_eq_true_iff.mp h).1) (eq_of_isOk (Bool.and_eq_true_iff.mp h).2)

/-! ### A device in OPERATIONAL, accesses, sessions, messages -/

def up : State := { State.reset with dev := .operational, now := 1000000, gtime := 2000000, sdg := { State.reset.sdg with faultN := true }, pwr := { State.reset.pwr with aonOn := true } }
def acc (a : Nat) : Access := { req := 0x40, world := true, bits := 32, addr := a }
def accr (r a : Nat) : Access := { req := r, world := true, bits := 32, addr := a }
def x0 : Session := { id := 7, role := 4, opened := true, keyUp := List.replicate 32 1, keyDown := List.replicate 32 2, lastSeq := 0, since := 5 }
def xr (r : Nat) : Session := { x0 with role := r }
def ses (r : Nat) (s : State) : State := { s with leash := { s.leash with up := true, sessions := [(0, some (xr r))] } }
def msgT (r typ k : Nat) (v : List Byte) : LeashMsg :=
  leashSigned (x0.keyUp)
    { etherType := odUse up (odKey 0x2002 2), dst := odGet up (odKey 0x2002 1), tagged := false, version := 1, typ := typ, status := 0,
      role := r, sessionId := 7, seq := 1, length := 4 + v.length, reserved := 0, payload := beBytes 2 (k / 256) ++ beBytes 1 (k % 256) ++ [0] ++ v, tag := [] }
def msg (r k : Nat) (v : List Byte) : LeashMsg := msgT r 0x11 k v
def setOd (k v : Nat) (s : State) : State := odPut k v s
def setReg (a v : Nat) (s : State) : State := regPut a v s
def setSt (k v : Nat) (s : State) : State := { s with odStart := tabSet odDflt s.odStart k v }
def setBlob (k : Nat) (l : List Byte) (s : State) : State := blobPut k l s

/-- The state that a command answers. -/
def nextOf (o : Host.Outcome State Fault Refusal) : State :=
  match o with
  | .next s => s
  | _ => State.reset


/-! ### The block as a whole -/

namespace A

def rowOf (a : Nat) : RegRow := ((regAt a).map Prod.fst).getD { base := 0 }

/-- A running device about to lose VDD_AON. -/
def running : State := { up with pending := [.vddAonRemoved] }

def failed : State := { up with dev := .failed, sdg := State.reset.sdg }

theorem running_pins : PinsOk running := ⟨by decide, fun _ _ => rfl, rfl⟩

theorem wit_IdleStepLetsTimePass (h : Obligations.IdleStepLetsTimePass) : ∃ t, step up = .next t := by
  obtain ⟨t, e, -⟩ := h up rfl
  exact ⟨t, e⟩

theorem wit_ResetState_register (h : Obligations.ResetState) : regRaw State.reset 0x10000000 = (rowOf 0x10000000).reset :=
  h.2.2.2.2.2.2.1 0x10000000 (rowOf 0x10000000) (by decide +kernel) (by decide +kernel)

theorem wit_ResetState_entry (h : Obligations.ResetState) : odGet State.reset (odKey 0x2100 3) = 9000 :=
  h.2.2.2.2.2.2.2.1 (odKey 0x2100 3) _ rfl rfl

theorem wit_StepKeepsInvariant (h : Obligations.StepKeepsInvariant) : PinsOk (nextOf (step running)) :=
  (h running _ (by decide) running_pins rfl).2

theorem wit_StepMovesForward (h : Obligations.StepMovesForward) : (nextOf (step running)).pending = [] :=
  (h running _ rfl).1

theorem wit_FailedIsLatched (h : Obligations.FailedIsLatched) : (nextOf (exec .aliveToggle failed)).dev = .failed :=
  h.1 .aliveToggle failed _ rfl rfl nofun rfl

theorem wit_FailedIsLatched_left (h : Obligations.FailedIsLatched) : ∃ t, exec .vddAonRemoved failed = .next t := by
  obtain ⟨t, e, -⟩ := h.2 failed rfl rfl
  exact ⟨t, e⟩

theorem wit_MemoryHoldsWhatIsWritten (h : Obligations.MemoryHoldsWhatIsWritten) :
    memByte (memPut 0x4000000000 [7, 8] up) 0x4000000001 = 8 ∧ memByte (memPut 0x4000000000 [7, 8] up) 2 = memByte up 2 :=
  ⟨(h up 0x4000000000 [7, 8] 1).1 (by decide), (h up 0x4000000000 [7, 8] 2).2 (by decide)⟩

end A

namespace B

def rowOf (a : Nat) : RegRow := ((regAt a).map Prod.fst).getD { base := 0 }
def hd (a v : Nat) (s : State) : State := { s with hold := [((blockOf a).getD 0, { rd := some (v, 0x40, a), wr := some (v, 0x40, a) })] }

set_option maxRecDepth 1000000 in
theorem wit_RegisterWriteStores (h : Obligations.RegisterWriteStores) : ∃ t, exec (Instr.registerWrite (acc 0x16400310) 5) up = .next t := by
  obtain ⟨t, e, -⟩ := h (acc 0x16400310) 5 up (rowOf 0x16400310) ⟨(by decide +kernel), (by decide +kernel), (exists_ok (by decide +kernel))⟩ (by decide +kernel) (by decide +kernel) (fun _ => fun _ => fun _ => rfl)
  exact ⟨t, e⟩

set_option maxRecDepth 1000000 in
theorem wit_HalvesAreHeldTogether (h : Obligations.HalvesAreHeldTogether) :
    (∃ t, exec (Instr.lowHalfRead (acc 0x16400300)) up = .next t) ∧
    (∃ t, exec (Instr.highHalfRead (acc 0x16400304)) (hd 0x16400300 9 up) = .next t) ∧
    (∃ t, exec (Instr.highHalfRead (acc 0x16400304)) up = .next t) ∧
    (∃ t, exec (Instr.lowHalfWrite (acc 0x16400300) 5) up = .next t) ∧
    (∃ t, exec (Instr.highHalfWrite (acc 0x16400304) 5) (hd 0x16400300 9 up) = .next t) ∧
    (∃ t, exec (Instr.highHalfWrite (acc 0x16400304) 5) up = .next t) := by
  refine ⟨?_, ?_, ?_, ?_, ?_, ?_⟩
  · obtain ⟨t, e, -⟩ := h.1 (acc 0x16400300) up _ (by decide +kernel) (by decide +kernel) (eq_ok (by decide +kernel)) (by decide +kernel) (by decide +kernel) (by decide +kernel)
    exact ⟨t, e⟩
  · obtain ⟨t, e, -⟩ := h.2.1 (acc 0x16400304) (hd 0x16400300 9 up) _ 0x16400300 _ (by decide +kernel) (by decide +kernel) (eq_ok (by decide +kernel)) (by decide +kernel) (by decide +kernel) (by decide +kernel) (by decide +kernel) (some_triple (by decide +kernel))
    exact ⟨t, e⟩
  · obtain ⟨t, e, -⟩ := h.2.2.1 (acc 0x16400304) up _ 0x16400300 (by decide +kernel) (by decide +kernel) (eq_ok (by decide +kernel)) (by decide +kernel) (by decide +kernel) (by decide +kernel) (by decide +kernel) (fun _ => nofun)
    exact ⟨t, e⟩
  · obtain ⟨t, e, -⟩ := h.2.2.2.1 (acc 0x16400300) 5 up _ (by decide +kernel) (by decide +kernel) (eq_ok (by decide +kernel)) (by decide +kernel) (by decide +kernel) (by decide +kernel)
    exact ⟨t, e⟩
  · obtain ⟨t, e, -⟩ := h.2.2.2.2.1 (acc 0x16400304) 5 (hd 0x16400300 9 up) (rowOf 0x16400300) 0x16400300 9 (by decide +kernel) (by decide +kernel) (by decide +kernel) (by decide +kernel) (by decide +kernel) (by decide +kernel) (by decide +kernel) (by decide +kernel) (fun _ => fun _ => fun _ => rfl) (by decide +kernel)
    exact ⟨t, e⟩
  · obtain ⟨t, e, -⟩ := h.2.2.2.2.2 (acc 0x16400304) 5 up (rowOf 0x16400300) 0x16400300 (by decide +kernel) (by decide +kernel) (by decide +kernel) (by decide +kernel) (by decide +kernel) (by decide +kernel) (by decide +kernel) (by decide +kernel) (by decide +kernel) (fun _ => fun _ => fun _ => rfl) (fun _ => nofun)
    exact ⟨t, e⟩

theorem wit_BadAccessIsLogged (h : Obligations.BadAccessIsLogged) : ∃ t, exec (if true = true then Instr.registerWrite (acc 0x16400FF0) 5 else Instr.lowHalfRead (acc 0x16400FF0)) up = .next t := by
  obtain ⟨t, e, -⟩ := h (acc 0x16400FF0) 5 up _ true (by decide +kernel) (by decide +kernel) rfl (by decide +kernel) (by decide +kernel) (by decide +kernel) (by decide +kernel)
  exact ⟨t, e⟩

end B

namespace C

def sh : State := { up with dev := .safeHold, sdg := { State.reset.sdg with restartPending := true, holdAt := some 900000 } }
def bit0 : Access := accr 0x10 0x10100060
def eo : State := { up with sdg := { up.sdg with enteredOp := true, latentNext := 5000000 } }
def ss : State := { up with can := [(ssCtrl up, { state := 1 })] }
def cf : CanFrame := { ident := 0x80, ide := false, fdf := false, brs := false, esi := false, rtr := false, data := List.replicate 8 5 }
def wd (x : Wdg) : State := setOd (odKey 0x2202 4) (10 * 65536 + 20) (setSt (odKey 0x2202 4) (10 * 65536 + 20) { up with now := 50000000, sdg := { up.sdg with wdg := [(3, x)] } })

theorem wit_DetectorsRaiseTheirAlarm (h : Obligations.DetectorsRaiseTheirAlarm) :
    (∃ t, exec (Instr.alarm [20]) up = .next t) ∧
    (∃ t, exec (Instr.alarmLine 1000) up = .next t) ∧
    (∃ t, exec (Instr.alarmLine 999) up = .next t) ∧
    (∃ t, exec Instr.sdgSelf up = .next t) ∧
    (∃ t, exec (Instr.clockMon 3 0) up = .next t) ∧
    (∃ t, exec (Instr.clockMon 3 (clockNominal 3).1) up = .next t) ∧
    (∃ t, exec (Instr.fabricTimeout 100000) up = .next t) ∧
    (∃ t, exec (Instr.latentTest [3]) eo = .next t) ∧
    (∃ t, exec (Instr.latentTest []) eo = .next t) ∧
    (∃ t, exec (Instr.alarm ([0x43, 0x14])) up = .next t) ∧
    (∃ t, exec (Instr.clkSdgMonitor 19499999 50000) up = .next t) ∧
    (∃ t, exec (Instr.swAlarm bit0 1) up = .next t) ∧
    (∃ t, exec (Instr.swAlarm bit0 2) up = .next t) := by
  refine ⟨?_, ?_, ?_, ?_, ?_, ?_, ?_, ?_, ?_, ?_, ?_, ?_, ?_⟩
  · obtain ⟨t, e, -⟩ := h.1 0x14 up (by decide +kernel) (by decide +kernel)
    exact ⟨t, e⟩
  · obtain ⟨t, e, -⟩ := h.2.1 1000 up (by decide +kernel) (by decide +kernel)
    exact ⟨t, e⟩
  · exact ⟨_, h.2.2.1 999 up (by decide +kernel)⟩
  · obtain ⟨t, e, -⟩ := h.2.2.2.1 up (by decide +kernel)
    exact ⟨t, e⟩
  · obtain ⟨t, e, -⟩ := h.2.2.2.2.1 3 0 up (by decide +kernel) (by decide +kernel)
    exact ⟨t, e⟩
  · exact ⟨_, h.2.2.2.2.2.1 3 (clockNominal 3).1 up (by decide +kernel) (by decide +kernel)⟩
  · obtain ⟨t, e, -⟩ := h.2.2.2.2.2.2.1 100000 up (by decide +kernel) (by decide +kernel) (by decide +kernel)
    exact ⟨t, e⟩
  · obtain ⟨t, e, -⟩ := h.2.2.2.2.2.2.2.1 [3] eo (by decide +kernel) (by decide +kernel) (by decide +kernel) (by decide +kernel)
    exact ⟨t, e⟩
  · obtain ⟨t, e, -⟩ := h.2.2.2.2.2.2.2.2.1 eo (by decide +kernel) (by decide +kernel)
    exact ⟨t, e⟩
  · obtain ⟨t, e, -⟩ := h.2.2.2.2.2.2.2.2.2.1 [0x43, 0x14] up (by decide +kernel) (by decide +kernel)
    exact ⟨t, e⟩
  · obtain ⟨t, e, -⟩ := h.2.2.2.2.2.2.2.2.2.2.1 19499999 50000 up (by decide +kernel) (by decide +kernel) (by decide +kernel)
    exact ⟨t, e⟩
  · obtain ⟨t, e, -⟩ := h.2.2.2.2.2.2.2.2.2.2.2.1 bit0 1 up ⟨(by decide +kernel), (by decide +kernel), (exists_ok (by decide +kernel))⟩ (by decide +kernel) (by decide +kernel)
    exact ⟨t, e⟩
  · obtain ⟨t, e, -⟩ := h.2.2.2.2.2.2.2.2.2.2.2.2 bit0 2 up ⟨(by decide +kernel), (by decide +kernel), (exists_ok (by decide +kernel))⟩ (by decide +kernel)
    exact ⟨t, e⟩

theorem wit_RestartWaitsForAcknowledgement (h : Obligations.RestartWaitsForAcknowledgement) :
    (∃ t, exec (Instr.safeAckNChange true) sh = .next t) ∧
    (∃ t, exec Instr.safeAckConfirmed ({ sh with sdg := { sh.sdg with ackFall := some 950000 } }) = .next t) ∧
    (∃ t, exec Instr.safeAckMissing sh = .next t) ∧
    (∃ t, exec Instr.restartFrameWaitEnd ({ up with dev := .restart, sdg := { State.reset.sdg with restartWait := some 1001000 } }) = .next t) := by
  refine ⟨?_, ?_, ?_, ?_⟩
  · obtain ⟨t, e, -⟩ := h.1 true sh (by decide +kernel)
    exact ⟨t, e⟩
  · obtain ⟨t, e, -⟩ := h.2.1 950000 900000 { sh with sdg := { sh.sdg with ackFall := some 950000 } } (by decide +kernel) (by decide +kernel) (by decide +kernel) (by decide +kernel) (by decide +kernel) (by decide +kernel)
    exact ⟨t, e⟩
  · obtain ⟨t, e, -⟩ := h.2.2.1 900000 sh (by decide +kernel) (by decide +kernel) (by decide +kernel) (by decide +kernel) (by decide +kernel) (all_some (by decide +kernel))
    exact ⟨t, e⟩
  · obtain ⟨t, e, -⟩ := h.2.2.2 1001000 { up with dev := .restart, sdg := { State.reset.sdg with restartWait := some 1001000 } } (by decide +kernel) (by decide +kernel)
    exact ⟨t, e⟩

theorem wit_SafetyStatusAndAlivePins (h : Obligations.SafetyStatusAndAlivePins) :
    (∃ t, exec Instr.safetyStatusPeriodic ss = .next t) ∧
    (∃ t, exec Instr.safetyStatusTxDone ({ ss with sdg := { ss.sdg with ssFlight := some cf, ssCounter := 15 } }) = .next t) ∧
    (∃ t, exec Instr.safetyMsgFail ({ ss with sdg := { ss.sdg with ssBound := some 1002000 } }) = .next t) ∧
    (∃ t, exec Instr.aliveToggle ss = .next t) := by
  refine ⟨?_, ?_, ?_, ?_⟩
  · obtain ⟨t, e, -⟩ := h.1 ss (by decide +kernel) (by decide +kernel) (by decide +kernel) (by decide +kernel) (by decide +kernel)
    exact ⟨t, e⟩
  · obtain ⟨t, e, -⟩ := h.2.1 cf { ss with sdg := { ss.sdg with ssFlight := some cf, ssCounter := 15 } } (by decide +kernel) (by decide +kernel)
    exact ⟨t, e⟩
  · obtain ⟨t, e, -⟩ := h.2.2.1 1002000 { ss with sdg := { ss.sdg with ssBound := some 1002000 } } (by decide +kernel) (by decide +kernel) (by decide +kernel)
    exact ⟨t, e⟩
  · obtain ⟨t, e, -⟩ := h.2.2.2 ss (by decide +kernel) (by decide +kernel)
    exact ⟨t, e⟩

theorem wit_WatchdogsWatchTheirWindow (h : Obligations.WatchdogsWatchTheirWindow) :
    (∃ t, exec (Instr.wdgKick 3 (accr 0x12 0x10100118) 6) (wd { running := true, seq := 5, from' := 40000000 }) = .next t) ∧
    (∃ t, exec (Instr.wdgKick 3 (accr 0x12 0x10100118) 6) (wd { running := true, seq := 5, from' := 49600000 }) = .next t) ∧
    (∃ t, exec (Instr.wdgKick 4 (accr 0x12 0x10100120) 1) (wd {}) = .next t) ∧
    (∃ t, exec (Instr.wdgWindowOpen 3) (wd { running := true, seq := 5, from' := 40000000 }) = .next t) ∧
    (∃ t, exec (Instr.wdgWindowClose 3) (wd { running := true, seq := 5, from' := 40000000 }) = .next t) := by
  refine ⟨?_, ?_, ?_, ?_, ?_⟩
  · obtain ⟨t, e, -⟩ := h.1 3 (accr 0x12 0x10100118) 6 (wd { running := true, seq := 5, from' := 40000000 }) ⟨(by decide +kernel), (by decide +kernel), (exists_ok (by decide +kernel))⟩ (by decide +kernel) (by decide +kernel)
    exact ⟨t, e⟩
  · obtain ⟨t, e, -⟩ := h.2.1 3 (accr 0x12 0x10100118) 6 (wd { running := true, seq := 5, from' := 49600000 }) ⟨(by decide +kernel), (by decide +kernel), (exists_ok (by decide +kernel))⟩ (by decide +kernel) (by decide +kernel) (by decide +kernel)
    exact ⟨t, e⟩
  · obtain ⟨t, e, -⟩ := h.2.2.1 4 (accr 0x12 0x10100120) 1 (wd {}) ⟨(by decide +kernel), (by decide +kernel), (exists_ok (by decide +kernel))⟩ (by decide +kernel)
    exact ⟨t, e⟩
  · obtain ⟨t, e, -⟩ := h.2.2.2.1 3 (wd { running := true, seq := 5, from' := 40000000 }) (by decide +kernel) (by decide +kernel) (by decide +kernel)
    exact ⟨t, e⟩
  · obtain ⟨t, e, -⟩ := h.2.2.2.2 3 (wd { running := true, seq := 5, from' := 40000000 }) (by decide +kernel) (by decide +kernel) (by decide +kernel) (by decide +kernel)
    exact ⟨t, e⟩

end C

namespace D

def cp : Stage1Copy := { header := zeros 64, image := zeros 16 }
def env : StartEnv := { copyA := cp, copyB := cp, aonGood := true, failStep := none, alarms := [], badMacros := [], badParams := [], badRecords := [], deviceUs := 5000, railsSteady := true }
def r0 : State := { State.reset with now := 100 }
def aon : State := { State.reset with now := 100, pwr := { State.reset.pwr with aonOn := true } }
def ns : State := { up with now := 5000000, gtime := 8000000, pwr := { up.pwr with lastSample := 4999000, lastTemp := 4500000, lastPoll := 4500000 } }
def nw (w r : Nat) (b : Bool) (s : State) : State := { s with pwr := { s.pwr with warnRun := w, resetRun := r, below := b } }
def rst : State := { ns with dev := .restart, pwr := { ns.pwr with returnOk := true, ctrlPending := true }, start := { ns.start with wantWarm := true } }
def rst1 : State := { rst with pwr := { rst.pwr with ctrlPending := false } }
def rst2 : State := { rst1 with pwr := { rst1.pwr with retention := true }, sec := { rst1.sec with slots := [(0, { filled := true })] }, mem := [(0x1000040, 3), (0x4010000000, 5)] }
def ws : State := { ns with dev := .warmStart, start := { ns.start with readyBy := some 6000000 } }
def cs : State := { ns with dev := .coldStart, start := { ns.start with readyBy := some 6000000 } }

theorem wit_SupplyAndPowerOnReset (h : Obligations.SupplyAndPowerOnReset) :
    (∃ t, exec Instr.vddAonRemoved up = .next t) ∧
    (∃ t, exec (Instr.vddAonPowerOn false true true env) r0 = .next t) ∧
    (∃ t, exec (Instr.vddAonPowerOn true true true env) r0 = .next t) ∧
    (∃ t, exec (Instr.porstNAssert 10000) (ses 4 up) = .next t) ∧
    (∃ t, exec (Instr.porstNAssert 10000) ({ (ses 4 up) with dev := .failed }) = .next t) ∧
    (∃ t, exec (Instr.porstNRelease true true env) aon = .next t) ∧
    (∃ t, exec (Instr.porstNRelease true true env) ({ aon with dev := .failed }) = .next t) := by
  refine ⟨?_, ?_, ?_, ?_, ?_, ?_, ?_⟩
  · obtain ⟨t, e, -⟩ := h.1 up (by decide +kernel)
    exact ⟨t, e⟩
  · obtain ⟨t, e, -⟩ := h.2.1 true true env r0 (by decide +kernel)
    exact ⟨t, e⟩
  · obtain ⟨t, e, -⟩ := h.2.2.1 true true env r0 (by decide +kernel) (by decide +kernel)
    exact ⟨t, e⟩
  · obtain ⟨t, e, -⟩ := h.2.2.2.1 10000 (ses 4 up) (by decide +kernel) (by decide +kernel) (by decide +kernel)
    exact ⟨t, e⟩
  · obtain ⟨t, e, -⟩ := h.2.2.2.2.1 10000 { (ses 4 up) with dev := .failed } (by decide +kernel) (by decide +kernel) (by decide +kernel)
    exact ⟨t, e⟩
  · obtain ⟨t, e, -⟩ := h.2.2.2.2.2.1 true true env aon (by decide +kernel) (by decide +kernel) (by decide +kernel) (by decide +kernel)
    exact ⟨t, e⟩
  · obtain ⟨t, e, -⟩ := h.2.2.2.2.2.2 true true env { aon with dev := .failed } (by decide +kernel) (by decide +kernel) (by decide +kernel)
    exact ⟨t, e⟩

theorem wit_RailsAndSupplyVoltageDecide (h : Obligations.RailsAndSupplyVoltageDecide) :
    (∃ t, exec (Instr.retentionRailExcursion 3) up = .next t) ∧
    (∃ t, exec (Instr.coreRailUndervoltage 3) (ses 4 up) = .next t) ∧
    (∃ t, exec (Instr.coreRailUndervoltage 3) ({ up with dev := .restart }) = .next t) ∧
    (∃ t, exec (Instr.railWindow 3) up = .next t) ∧
    (∃ t, exec (Instr.vsenseSample 460000) (nw 1 1 true ns) = .next t) ∧
    (∃ t, exec (Instr.vsenseSample 400000) (nw 1 0 false ns) = .next t) ∧
    (∃ t, exec (Instr.vsenseSample 300000) (nw 2 1 true { ns with dev := .brace }) = .next t) ∧
    (∃ t, exec Instr.braceReturn (nw 2 0 true { ns with dev := .brace }) = .next t) := by
  refine ⟨?_, ?_, ?_, ?_, ?_, ?_, ?_, ?_⟩
  · obtain ⟨t, e, -⟩ := h.1 3 up (by decide +kernel)
    exact ⟨t, e⟩
  · obtain ⟨t, e, -⟩ := h.2.1 3 (ses 4 up) (by decide +kernel) (by decide +kernel) (by decide +kernel) (by decide +kernel)
    exact ⟨t, e⟩
  · obtain ⟨t, e, -⟩ := h.2.2.1 3 { up with dev := .restart } (by decide +kernel) (by decide +kernel) (by decide +kernel)
    exact ⟨t, e⟩
  · obtain ⟨t, e, -⟩ := h.2.2.2.1 3 up (by decide +kernel) (by decide +kernel)
    exact ⟨t, e⟩
  · obtain ⟨t, e, -⟩ := h.2.2.2.2.1 460000 (nw 1 1 true ns) (by decide +kernel) (by decide +kernel) (by decide +kernel) (by decide +kernel) (by decide +kernel) (by decide +kernel)
    exact ⟨t, e⟩
  · obtain ⟨t, e, -⟩ := h.2.2.2.2.2.1 400000 (nw 1 0 false ns) (by decide +kernel) (by decide +kernel) (by decide +kernel) (by decide +kernel) (by decide +kernel) (by decide +kernel) (by decide +kernel) (by decide +kernel)
    exact ⟨t, e⟩
  · obtain ⟨t, e, -⟩ := h.2.2.2.2.2.2.1 300000 (nw 2 1 true { ns with dev := .brace }) (by decide +kernel) (by decide +kernel) (by decide +kernel) (by decide +kernel) (by decide +kernel) (by decide +kernel)
    exact ⟨t, e⟩
  · obtain ⟨t, e, -⟩ := h.2.2.2.2.2.2.2 (nw 2 0 true { ns with dev := .brace }) (by decide +kernel) (by decide +kernel)
    exact ⟨t, e⟩

theorem wit_RestartsAndStarts (h : Obligations.RestartsAndStarts) :
    (∃ t, exec Instr.controlledResetDone rst = .next t) ∧
    (∃ t, exec (Instr.restartExit env) ({ rst2 with params := { rst2.params with mark := true } }) = .next t) ∧
    (∃ t, exec (Instr.restartExit env) rst1 = .next t) ∧
    (∃ t, exec (Instr.startReady (accr 0x10 0x10300030) 1) ws = .next t) ∧
    (∃ t, exec (Instr.startReady (accr 0x10 0x10300030) 1) (nw 2 1 true cs) = .next t) ∧
    (∃ t, exec Instr.readyTimeout cs = .next t) ∧
    (∃ t, exec (Instr.warmReqNFall 10000) ns = .next t) ∧
    (∃ t, exec (Instr.warmReqNFall 10000) cs = .next t) := by
  refine ⟨?_, ?_, ?_, ?_, ?_, ?_, ?_, ?_⟩
  · obtain ⟨t, e, -⟩ := h.1 rst (by decide +kernel) (by decide +kernel)
    exact ⟨t, e⟩
  · obtain ⟨t, e, -⟩ := h.2.1 env { rst2 with params := { rst2.params with mark := true } } (by decide +kernel) (by decide +kernel) (by decide +kernel) (by decide +kernel) (by decide +kernel) (by decide +kernel) (by decide +kernel) (by decide +kernel) (by decide +kernel) (by decide +kernel) (by decide +kernel) (by decide +kernel) (by decide +kernel)
    exact ⟨t, e⟩
  · obtain ⟨t, e, -⟩ := h.2.2.1 env rst1 (by decide +kernel) (by decide +kernel) (by decide +kernel) (by decide +kernel) (by decide +kernel)
    exact ⟨t, e⟩
  · obtain ⟨t, e, -⟩ := h.2.2.2.1 (accr 0x10 0x10300030) 1 _ ws ⟨(by decide +kernel), (by decide +kernel), (exists_ok (by decide +kernel))⟩ (by decide +kernel) (by decide +kernel) (Option.some_get (by decide +kernel)).symm (by decide +kernel) (by decide +kernel)
    exact ⟨t, e⟩
  · obtain ⟨t, e, -⟩ := h.2.2.2.2.1 (accr 0x10 0x10300030) 1 _ (nw 2 1 true cs) ⟨(by decide +kernel), (by decide +kernel), (exists_ok (by decide +kernel))⟩ (by decide +kernel) (by decide +kernel) (Option.some_get (by decide +kernel)).symm (by decide +kernel)
    exact ⟨t, e⟩
  · obtain ⟨t, e, -⟩ := h.2.2.2.2.2.1 _ cs (by decide +kernel) (Option.some_get (by decide +kernel)).symm
    exact ⟨t, e⟩
  · obtain ⟨t, e, -⟩ := h.2.2.2.2.2.2.1 10000 ns (by decide +kernel) (by decide +kernel)
    exact ⟨t, e⟩
  · obtain ⟨t, e, -⟩ := h.2.2.2.2.2.2.2 10000 cs (by decide +kernel) (by decide +kernel)
    exact ⟨t, e⟩

theorem wit_TemperaturesAndPmic (h : Obligations.TemperaturesAndPmic) :
    (∃ t, exec (Instr.tempSensorUpdate ([300, 500, 200])) ns = .next t) ∧
    (∃ t, exec (Instr.tempSensorUpdate ([300, 1250, 200])) ns = .next t) ∧
    (∃ t, exec (Instr.pmicPoll (List.replicate 8 (some 0))) (setSt (odKey 0x2100 0xC) 5 ns) = .next t) ∧
    (∃ t, exec (Instr.pmbAlert (List.replicate 8 (some 0))) (setSt (odKey 0x2100 0xC) 5 ns) = .next t) ∧
    (∃ t, exec (Instr.pmbAlert [some 9]) (setSt (odKey 0x2100 0xC) 4 ns) = .next t) := by
  refine ⟨?_, ?_, ?_, ?_, ?_⟩
  · obtain ⟨t, e, -⟩ := h.1 [300, 500, 200] _ _ ns (by decide +kernel) (by decide +kernel) (some_pair (by decide +kernel)) (by decide +kernel)
    exact ⟨t, e⟩
  · obtain ⟨t, e, -⟩ := h.2.1 [300, 1250, 200] _ 1 _ ns (by decide +kernel) (by decide +kernel) (some_pair (by decide +kernel)) (by decide +kernel) (by decide +kernel) (by decide +kernel)
    exact ⟨t, e⟩
  · obtain ⟨t, e, -⟩ := h.2.2.1 _ (setSt (odKey 0x2100 0xC) 5 ns) (by decide +kernel) rfl
    exact ⟨t, e⟩
  · obtain ⟨t, e, -⟩ := h.2.2.2.1 _ (setSt (odKey 0x2100 0xC) 5 ns) (by decide +kernel) rfl
    exact ⟨t, e⟩
  · obtain ⟨t, e, -⟩ := h.2.2.2.2 2 9 (setSt (odKey 0x2100 0xC) 4 ns) (by decide +kernel) (by decide +kernel) (by decide +kernel) (by decide +kernel) (by decide +kernel)
    exact ⟨t, e⟩

end D

namespace E

def rq (r typ : Nat) (p : List Byte) : LeashMsg := leashSigned x0.keyUp { msgT r typ 0 [] with length := p.length, payload := p }
def rqd (typ : Nat) (idx sub : Nat) (v : List Byte) : LeashMsg := rq 4 typ (beBytes 2 idx ++ beBytes 1 sub ++ [0] ++ v)
def s4 : State := ses 4 up
def up1 : State := { up with leash := { up.leash with up := true, creds := [(4, some (List.replicate 32 7))] } }
def hello : LeashMsg := { msgT 4 1 0 [] with sessionId := 0, seq := 0, length := 16, payload := List.replicate 16 3 }
def hx : Session := { x0 with opened := false }
def sh : State := { up1 with leash := { up1.leash with sessions := [(2, some hx)] } }
def pr (b : Bool) : LeashMsg := leashSigned (if b then x0.keyUp else []) { msgT 4 2 0 [] with seq := 0, length := 0, payload := [] }
def old : LeashMsg := leashSigned x0.keyUp { (rq 4 0x11 [1,2,3,4]) with seq := 0 }
def sca : State := { s4 with leash := { s4.leash with sessions := [(0, some { xr 4 with cached := some hello })] } }
def rt : List Byte := List.replicate 2048 0
def sb : State := setBlob (odKey 0x2F10 1) (List.replicate 1500 5) s4
def sg : Seg := { key := odKey 0x2F10 1, total := 1500, counter := 1, data := [], done := 0 }
def xg (n : Nat) : Session := { xr 4 with seg := some { sg with done := n } }
def sgs (n : Nat) : State := { sb with leash := { sb.leash with sessions := [(0, some (xg n))] } }
def wg (n : Nat) : Seg := { key := odKey 0x2F10 1, total := 1088, counter := 0, data := List.replicate n 0, done := n }
def sw (n : Nat) : State := { s4 with leash := { s4.leash with segW := some (0, wg n) } }
def oneRule : List Byte := [0, 0x10, 1, 0] ++ zeros 32 ++ [0xFF, 0xFF] ++ zeros 26
def wq : Seg := { key := odKey 0x2F10 1, total := 64, counter := 0, data := [], done := 0 }

theorem wit_SessionsOpenAndClose (h : Obligations.SessionsOpenAndClose) :
    (∃ t, exec (Instr.leashHello hello) up1 = .next t) ∧
    (∃ t, exec (Instr.leashHello ({ hello with role := 3 })) up1 = .next t) ∧
    (∃ t, exec (Instr.leashProve (pr true)) sh = .next t) ∧
    (∃ t, exec (Instr.leashProve (pr false)) sh = .next t) ∧
    (∃ t, exec (Instr.leashClose (rq 4 0x16 [])) s4 = .next t) ∧
    (∃ t, exec (Instr.leashNop (rq 4 0x17 [])) s4 = .next t) := by
  refine ⟨?_, ?_, ?_, ?_, ?_, ?_⟩
  · obtain ⟨t, _, e, -⟩ := h.1 hello _ _ up1 ⟨(by decide +kernel), (by decide +kernel), rfl, (by decide +kernel)⟩ (by decide +kernel) (by decide +kernel) (Option.some_get (by decide +kernel)).symm (Option.some_get (by decide +kernel)).symm
    exact ⟨t, e⟩
  · obtain ⟨t, e, -⟩ := h.2.1 { hello with role := 3 } up1 ⟨(by decide +kernel), (by decide +kernel), rfl, (by decide +kernel)⟩ (by decide +kernel) (by decide +kernel)
    exact ⟨t, e⟩
  · obtain ⟨t, _, e, -⟩ := h.2.2.1 (pr true) 2 hx sh ⟨(by decide +kernel), (by decide +kernel), rfl, (by decide +kernel)⟩ (by decide +kernel) (by decide +kernel) (tagValid_signed (by decide +kernel)) (by decide +kernel) (by decide +kernel) (by decide +kernel) (by decide +kernel) (by decide +kernel) (by decide +kernel) (by decide +kernel)
    exact ⟨t, e⟩
  · obtain ⟨t, e, -⟩ := h.2.2.2.1 (pr false) 2 _ hx sh ⟨(by decide +kernel), (by decide +kernel), rfl, (by decide +kernel)⟩ (by decide +kernel) (by decide +kernel) (by decide +kernel) (by decide +kernel) rfl
    exact ⟨t, e⟩
  · obtain ⟨t, e, -⟩ := h.2.2.2.2.1 (rq 4 0x16 []) 0 (xr 4) s4 ⟨⟨(by decide +kernel), (by decide +kernel), rfl, (by decide +kernel)⟩, (by decide +kernel), (tagValid_signed (by decide +kernel)), (by decide +kernel), (by decide +kernel), (by decide +kernel), (by decide +kernel)⟩ (by decide +kernel)
    exact ⟨t, e⟩
  · obtain ⟨t, e, -⟩ := h.2.2.2.2.2 (rq 4 0x17 []) 0 (xr 4) s4 ⟨⟨(by decide +kernel), (by decide +kernel), rfl, (by decide +kernel)⟩, (by decide +kernel), (tagValid_signed (by decide +kernel)), (by decide +kernel), (by decide +kernel), (by decide +kernel), (by decide +kernel)⟩ (by decide +kernel)
    exact ⟨t, e⟩

theorem wit_RequestsInOrderAndTimeouts (h : Obligations.RequestsInOrderAndTimeouts) :
    (∃ t, exec (Instr.leashRead ({ (rq 4 0x10 [1]) with sessionId := 99 })) s4 = .next t) ∧
    (∃ t, exec (Instr.leashWrite old) sca = .next t) ∧
    (∃ t, exec (Instr.leashWrite (leashSigned x0.keyUp { (rq 4 0x11 [1,2,3,4]) with seq := 5 })) s4 = .next t) ∧
    (∃ t, exec (Instr.proveTimeout 2) sh = .next t) ∧
    (∃ t, exec (Instr.idleTimeout 0) ({ s4 with leash := { s4.leash with segW := some (0, { key := 1, total := 1, counter := 0, data := [], done := 0 }) } }) = .next t) ∧
    (∃ t, exec (Instr.lockoutExpiry 3) ({ s4 with leash := { s4.leash with lockout := [(4, some 1000999)] } }) = .next t) := by
  refine ⟨?_, ?_, ?_, ?_, ?_, ?_⟩
  · obtain ⟨t, e, -⟩ := h.1 { (rq 4 0x10 [1]) with sessionId := 99 } s4 ⟨(by decide +kernel), (by decide +kernel), rfl, (by decide +kernel)⟩ (by decide +kernel) (by decide +kernel)
    exact ⟨t, e⟩
  · obtain ⟨t, e, -⟩ := h.2.1 old _ 0 { xr 4 with cached := some hello } sca ⟨(by decide +kernel), (by decide +kernel), rfl, (by decide +kernel)⟩ (by decide +kernel) rfl (tagValid_signed (by decide +kernel)) (by decide +kernel) (by decide +kernel) (Option.some_get (by decide +kernel)).symm
    exact ⟨t, e⟩
  · obtain ⟨t, e, -⟩ := h.2.2.1 (leashSigned x0.keyUp { (rq 4 0x11 [1,2,3,4]) with seq := 5 }) 0 (xr 4) s4 ⟨(by decide +kernel), (by decide +kernel), rfl, (by decide +kernel)⟩ (by decide +kernel) (by decide +kernel) (tagValid_signed (by decide +kernel)) (by decide +kernel) (by decide +kernel) (by decide +kernel)
    exact ⟨t, e⟩
  · obtain ⟨t, e, -⟩ := h.2.2.2.1 2 hx sh (by decide +kernel) (by decide +kernel)
    exact ⟨t, e⟩
  · obtain ⟨t, e, -⟩ := h.2.2.2.2.1 0 (xr 4) { s4 with leash := { s4.leash with segW := some (0, { key := 1, total := 1, counter := 0, data := [], done := 0 }) } } (by decide +kernel) (by decide +kernel)
    exact ⟨t, e⟩
  · obtain ⟨t, e, -⟩ := h.2.2.2.2.2 3 _ { s4 with leash := { s4.leash with lockout := [(4, some 1000999)] } } (Option.some_get (by decide +kernel)).symm
    exact ⟨t, e⟩

theorem wit_LeashReadsAndWrites (h : Obligations.LeashReadsAndWrites) :
    (∃ t, exec (Instr.leashRead (rqd 0x10 0x2801 1 [])) s4 = .next t) ∧
    (∃ t, exec (Instr.leashRead (rqd 0x10 0x1FFF 1 [])) s4 = .next t) ∧
    (∃ t, exec (Instr.leashWrite (rqd 0x11 0x1017 0 [0, 50])) s4 = .next t) ∧
    (∃ t, exec (Instr.leashWrite (rqd 0x11 0x2100 1 [12])) s4 = .next t) ∧
    (∃ t, exec (Instr.leashWrite (rqd 0x11 0x2801 1 [0,0,0,0])) s4 = .next t) := by
  refine ⟨?_, ?_, ?_, ?_, ?_⟩
  · obtain ⟨t, e, -⟩ := h.1 (rqd 0x10 0x2801 1 []) 0 (xr 4) _ (beBytes 4 0) s4 ⟨⟨(by decide +kernel), (by decide +kernel), rfl, (by decide +kernel)⟩, (by decide +kernel), (tagValid_signed (by decide +kernel)), (by decide +kernel), (by decide +kernel), (by decide +kernel), (by decide +kernel)⟩ (by decide +kernel) (Option.some_get (by decide +kernel)).symm (by decide +kernel) (all_some (by decide +kernel)) (by decide +kernel)
    exact ⟨t, e⟩
  · obtain ⟨t, e, -⟩ := h.2.1 (rqd 0x10 0x1FFF 1 []) 0 _ (xr 4) s4 ⟨⟨(by decide +kernel), (by decide +kernel), rfl, (by decide +kernel)⟩, (by decide +kernel), (tagValid_signed (by decide +kernel)), (by decide +kernel), (by decide +kernel), (by decide +kernel), (by decide +kernel)⟩ (by decide +kernel) (Option.some_get (by decide +kernel)).symm
    exact ⟨t, e⟩
  · obtain ⟨t, e, -⟩ := h.2.2.1 (rqd 0x11 0x1017 0 [0, 50]) 0 (odKey 0x1017 0) 50 (xr 4) s4 ⟨⟨⟨(by decide +kernel), (by decide +kernel), rfl, (by decide +kernel)⟩, (by decide +kernel), (tagValid_signed (by decide +kernel)), (by decide +kernel), (by decide +kernel), (by decide +kernel), (by decide +kernel)⟩, (by decide +kernel), (by decide +kernel), (by decide +kernel), (by decide +kernel), (by decide +kernel), (exists_some (by decide +kernel))⟩ (by decide +kernel)
    exact ⟨t, e⟩
  · obtain ⟨t, e, -⟩ := h.2.2.2.1 (rqd 0x11 0x2100 1 [12]) 0 12 (xr 4) s4 ⟨⟨⟨(by decide +kernel), (by decide +kernel), rfl, (by decide +kernel)⟩, (by decide +kernel), (tagValid_signed (by decide +kernel)), (by decide +kernel), (by decide +kernel), (by decide +kernel), (by decide +kernel)⟩, (by decide +kernel), (by decide +kernel), (by decide +kernel), (by decide +kernel), (by decide +kernel), (exists_some (by decide +kernel))⟩
    exact ⟨t, e⟩
  · obtain ⟨t, e, -⟩ := h.2.2.2.2 (rqd 0x11 0x2801 1 [0,0,0,0]) 0 _ (xr 4) s4 ⟨⟨(by decide +kernel), (by decide +kernel), rfl, (by decide +kernel)⟩, (by decide +kernel), (tagValid_signed (by decide +kernel)), (by decide +kernel), (by decide +kernel), (by decide +kernel), (by decide +kernel)⟩ (by decide +kernel) (by decide +kernel) (Option.some_get (by decide +kernel)).symm (by decide +kernel)
    exact ⟨t, e⟩

theorem wit_SegmentedTransfers (h : Obligations.SegmentedTransfers) :
    (∃ t, exec (Instr.leashSegReadInit (rqd 0x12 0x2F10 1 [])) sb = .next t) ∧
    (∃ t, exec (Instr.leashSegRead (rq 4 0x13 (beBytes 4 0))) (sgs 0) = .next t) ∧
    (∃ t, exec (Instr.leashSegRead (rq 4 0x13 (beBytes 4 1023))) (sgs 1024) = .next t) ∧
    (∃ t, exec (Instr.leashSegWriteInit (rqd 0x14 0x2F10 1 (beBytes 4 1088))) s4 = .next t) ∧
    (∃ t, exec (Instr.leashSegWrite (rq 4 0x15 (beBytes 4 0 ++ List.replicate 1024 0))) (sw 0) = .next t) ∧
    (∃ t, exec (Instr.leashSegWrite (rq 4 0x15 (beBytes 4 0 ++ oneRule))) ({ s4 with leash := { s4.leash with segW := some (0, wq) } }) = .next t) := by
  refine ⟨?_, ?_, ?_, ?_, ?_, ?_⟩
  · obtain ⟨t, e, -⟩ := h.1 (rqd 0x12 0x2F10 1 []) 0 (xr 4) _ sb ⟨⟨(by decide +kernel), (by decide +kernel), rfl, (by decide +kernel)⟩, (by decide +kernel), (tagValid_signed (by decide +kernel)), (by decide +kernel), (by decide +kernel), (by decide +kernel), (by decide +kernel)⟩ (by decide +kernel) (by decide +kernel) (by decide +kernel) (by decide +kernel) (by decide +kernel) (by decide +kernel) rfl
    exact ⟨t, e⟩
  · obtain ⟨t, e, -⟩ := h.2.1 (rq 4 0x13 (beBytes 4 0)) 0 (xg 0) { sg with done := 0 } _ (sgs 0) ⟨⟨(by decide +kernel), (by decide +kernel), rfl, (by decide +kernel)⟩, (by decide +kernel), (tagValid_signed (by decide +kernel)), (by decide +kernel), (by decide +kernel), (by decide +kernel), (by decide +kernel)⟩ (by decide +kernel) (by decide +kernel) (by decide +kernel) (by decide +kernel) (by decide +kernel) (by decide +kernel) (by decide +kernel) rfl
    exact ⟨t, e⟩
  · obtain ⟨t, e, -⟩ := h.2.2.1 (rq 4 0x13 (beBytes 4 1023)) 0 (xg 1024) { sg with done := 1024 } (sgs 1024) ⟨⟨(by decide +kernel), (by decide +kernel), rfl, (by decide +kernel)⟩, (by decide +kernel), (tagValid_signed (by decide +kernel)), (by decide +kernel), (by decide +kernel), (by decide +kernel), (by decide +kernel)⟩ (by decide +kernel) (by decide +kernel) (by decide +kernel)
    exact ⟨t, e⟩
  · obtain ⟨t, e, -⟩ := h.2.2.2.1 (rqd 0x14 0x2F10 1 (beBytes 4 1088)) 0 (xr 4) s4 ⟨⟨(by decide +kernel), (by decide +kernel), rfl, (by decide +kernel)⟩, (by decide +kernel), (tagValid_signed (by decide +kernel)), (by decide +kernel), (by decide +kernel), (by decide +kernel), (by decide +kernel)⟩ (by decide +kernel) (by decide +kernel) (by decide +kernel) (by decide +kernel) (by decide +kernel)
    exact ⟨t, e⟩
  · obtain ⟨t, e, -⟩ := h.2.2.2.2.1 (rq 4 0x15 (beBytes 4 0 ++ List.replicate 1024 0)) 0 (xr 4) (wg 0) (sw 0) ⟨⟨(by decide +kernel), (by decide +kernel), rfl, (by decide +kernel)⟩, (by decide +kernel), (tagValid_signed (by decide +kernel)), (by decide +kernel), (by decide +kernel), (by decide +kernel), (by decide +kernel)⟩ (by decide +kernel) (by decide +kernel) (by decide +kernel) (by decide +kernel) (by decide +kernel)
    exact ⟨t, e⟩
  · obtain ⟨t, e, -⟩ := h.2.2.2.2.2 (rq 4 0x15 (beBytes 4 0 ++ oneRule)) 0 (xr 4) wq oneRule _ { s4 with leash := { s4.leash with segW := some (0, wq) } } _ ⟨⟨(by decide +kernel), (by decide +kernel), rfl, (by decide +kernel)⟩, (by decide +kernel), (tagValid_signed (by decide +kernel)), (by decide +kernel), (by decide +kernel), (by decide +kernel), (by decide +kernel)⟩ (by decide +kernel) (by decide +kernel) (by decide +kernel) (by decide +kernel) (by decide +kernel) (by decide +kernel) rfl (by decide +kernel) (Option.some_get (by decide +kernel)).symm (by decide +kernel) (by decide +kernel) (by decide +kernel)
    exact ⟨t, e⟩

end E

namespace F

def k32 : List Byte := List.replicate 32 9
def k16 : List Byte := List.replicate 16 9
def u (s : State) : State := { s with sec := { s.sec with twUp := true } }
def s4 : State := u (ses 4 up)
def wmsg (r k : Nat) (v : List Byte) : LeashMsg := msg r k (List.zipWith (fun a b => a ^^^ b) v (wrapPad (xr r) (msg r k v)))
def sm : State := { s4 with leash := { s4.leash with sessions := [(0, some (xr 4)), (2, some { xr 2 with id := 9 }), (3, some {xr 3 with id := 10})], creds := [(1, some k32), (2, some k32)] } }
def gl : List Byte := leBytes 8 3000000 ++ leBytes 4 1000 ++ leBytes 2 1 ++ leBytes 2 0 ++ leBytes 4 1000 ++ [3,0,0,0]
def gl2 : List Byte := leBytes 8 1000300 ++ leBytes 4 1000 ++ leBytes 2 1 ++ leBytes 2 0 ++ leBytes 4 1000 ++ [3,0,0,0]
def oneRule : List Byte := [0, 0x10, 1, 0] ++ zeros 32 ++ [0xFF, 0xFF] ++ zeros 26
def run (c : Nat) : StoreRun := { msg := msg 4 (odKey 0x1010 1) (beBytes 4 0x65766173), vals := [(3,4)], blobs := [(5,[1])], copy := c }
def sst (c : Nat) : State := { s4 with leash := { s4.leash with store := some (run c) } }
def s3 : State := ses 3 up
def th : List Byte := ascii "ROST" ++ leBytes 2 1 ++ leBytes 2 0 ++ leBytes 2 10 ++ zeros 50
def tb : List Byte := th ++ leBytes 4 (crc32c th)

theorem wit_ParametersSecretsAndFusesAreKept (h : Obligations.ParametersSecretsAndFusesAreKept) :
    (∃ t, exec (Instr.storeAllParameters (msg 4 (odKey 0x1010 1) (beBytes 4 0x65766173))) (setOd (odKey 0x2101 3) 5 s4) = .next t) ∧
    (∃ t, exec (Instr.storeDone true) (sst 0) = .next t) ∧
    (∃ t, exec (Instr.storeDone false) (sst 1) = .next t) ∧
    (∃ t, exec (Instr.restoreDefaultParameters (msg 4 (odKey 0x1011 1) (beBytes 4 0x64616F6C))) s4 = .next t) ∧
    (∃ t, exec (Instr.errorHistoryClear (msg 3 (odKey 0x1003 0) [0])) (setOd (odKey 0x1003 0) 2 (setOd (odKey 0x1003 1) 3 s3)) = .next t) ∧
    (∃ t, exec (Instr.credentialWrite (wmsg 4 (odKey 0x3401 2) k32) true) sm = .next t) ∧
    (∃ t, exec (Instr.credentialWrite (wmsg 4 (odKey 0x3401 2) k32) false) s4 = .next t) ∧
    (∃ t, exec (Instr.pendantKeyWrite (wmsg 4 (pendantOd 3 3) k16) true) (setOd (pendantOd 3 5) 17 s4) = .next t) ∧
    (∃ t, exec (Instr.pendantSlotEnable (msg 4 (pendantOd 3 1) [1])) ({ s4 with wh := { s4.wh with pendants := [(3, { key := some k16 })] } }) = .next t) ∧
    (∃ t, exec (Instr.lifecycleAdvance (msg 4 (odKey 0x3400 5) [2])) ({ s4 with fuses := { s4.fuses with lifecycle := 1 } }) = .next t) ∧
    (∃ t, exec (Instr.rollbackRaise (msg 4 (odKey 0x3400 6) [0,0,0,5])) s4 = .next t) ∧
    (∃ t, exec (Instr.splitMaskProgram (msg 4 (odKey 0x3400 7) [5])) s4 = .next t) := by
  refine ⟨?_, ?_, ?_, ?_, ?_, ?_, ?_, ?_, ?_, ?_, ?_, ?_⟩
  · obtain ⟨t, e, -⟩ := h.1 (msg 4 (odKey 0x1010 1) (beBytes 4 0x65766173)) 0 0x65766173 (xr 4) (setOd (odKey 0x2101 3) 5 s4) ⟨⟨⟨(by decide +kernel), (by decide +kernel), rfl, (by decide +kernel)⟩, (by decide +kernel), (tagValid_signed (by decide +kernel)), (by decide +kernel), (by decide +kernel), (by decide +kernel), (by decide +kernel)⟩, (by decide +kernel), (by decide +kernel), (by decide +kernel), (by decide +kernel), (by decide +kernel), (exists_some (by decide +kernel))⟩
    exact ⟨t, e⟩
  · obtain ⟨t, e, -⟩ := h.2.1 (run 0) 0 (xr 4) (sst 0) rfl (by decide +kernel) (by decide +kernel)
    exact ⟨t, e⟩
  · obtain ⟨t, e, -⟩ := h.2.2.1 (run 1) 0 (xr 4) (sst 1) rfl (by decide +kernel)
    exact ⟨t, e⟩
  · obtain ⟨t, e, -⟩ := h.2.2.2.1 (msg 4 (odKey 0x1011 1) (beBytes 4 0x64616F6C)) 0 0x64616F6C (xr 4) s4 ⟨⟨⟨(by decide +kernel), (by decide +kernel), rfl, (by decide +kernel)⟩, (by decide +kernel), (tagValid_signed (by decide +kernel)), (by decide +kernel), (by decide +kernel), (by decide +kernel), (by decide +kernel)⟩, (by decide +kernel), (by decide +kernel), (by decide +kernel), (by decide +kernel), (by decide +kernel), (exists_some (by decide +kernel))⟩
    exact ⟨t, e⟩
  · obtain ⟨t, e, -⟩ := h.2.2.2.2.1 (msg 3 (odKey 0x1003 0) [0]) 0 0 (xr 3) (setOd (odKey 0x1003 0) 2 (setOd (odKey 0x1003 1) 3 s3)) ⟨⟨⟨(by decide +kernel), (by decide +kernel), rfl, (by decide +kernel)⟩, (by decide +kernel), (tagValid_signed (by decide +kernel)), (by decide +kernel), (by decide +kernel), (by decide +kernel), (by decide +kernel)⟩, (by decide +kernel), (by decide +kernel), (by decide +kernel), (by decide +kernel), (by decide +kernel), (exists_some (by decide +kernel))⟩
    exact ⟨t, e⟩
  · obtain ⟨t, e, -⟩ := h.2.2.2.2.2.1 (wmsg 4 (odKey 0x3401 2) k32) 0 2 (xr 4) k32 sm (by decide +kernel) (by decide +kernel) ⟨⟨⟨(by decide +kernel), (by decide +kernel), rfl, (by decide +kernel)⟩, (by decide +kernel), (tagValid_signed (by decide +kernel)), (by decide +kernel), (by decide +kernel), (by decide +kernel), (by decide +kernel)⟩, (by decide +kernel), (by decide +kernel), (by decide +kernel), (by decide +kernel), (by decide +kernel), (exists_some (by decide +kernel))⟩
    exact ⟨t, e⟩
  · obtain ⟨t, e, -⟩ := h.2.2.2.2.2.2.1 (wmsg 4 (odKey 0x3401 2) k32) 0 2 (xr 4) k32 s4 (by decide +kernel) (by decide +kernel) ⟨⟨⟨(by decide +kernel), (by decide +kernel), rfl, (by decide +kernel)⟩, (by decide +kernel), (tagValid_signed (by decide +kernel)), (by decide +kernel), (by decide +kernel), (by decide +kernel), (by decide +kernel)⟩, (by decide +kernel), (by decide +kernel), (by decide +kernel), (by decide +kernel), (by decide +kernel), (exists_some (by decide +kernel))⟩
    exact ⟨t, e⟩
  · obtain ⟨t, e, -⟩ := h.2.2.2.2.2.2.2.1 (wmsg 4 (pendantOd 3 3) k16) 0 3 (xr 4) k16 (setOd (pendantOd 3 5) 17 s4) (by decide +kernel) ⟨⟨⟨(by decide +kernel), (by decide +kernel), rfl, (by decide +kernel)⟩, (by decide +kernel), (tagValid_signed (by decide +kernel)), (by decide +kernel), (by decide +kernel), (by decide +kernel), (by decide +kernel)⟩, (by decide +kernel), (by decide +kernel), (by decide +kernel), (by decide +kernel), (by decide +kernel), (exists_some (by decide +kernel))⟩
    exact ⟨t, e⟩
  · obtain ⟨t, e, -⟩ := h.2.2.2.2.2.2.2.2.1 (msg 4 (pendantOd 3 1) [1]) 0 3 1 (xr 4) { s4 with wh := { s4.wh with pendants := [(3, { key := some k16 })] } } (by decide +kernel) ⟨⟨⟨(by decide +kernel), (by decide +kernel), rfl, (by decide +kernel)⟩, (by decide +kernel), (tagValid_signed (by decide +kernel)), (by decide +kernel), (by decide +kernel), (by decide +kernel), (by decide +kernel)⟩, (by decide +kernel), (by decide +kernel), (by decide +kernel), (by decide +kernel), (by decide +kernel), (exists_some (by decide +kernel))⟩
    exact ⟨t, e⟩
  · obtain ⟨t, e, -⟩ := h.2.2.2.2.2.2.2.2.2.1 (msg 4 (odKey 0x3400 5) [2]) 0 2 (xr 4) { s4 with fuses := { s4.fuses with lifecycle := 1 } } ⟨⟨⟨(by decide +kernel), (by decide +kernel), rfl, (by decide +kernel)⟩, (by decide +kernel), (tagValid_signed (by decide +kernel)), (by decide +kernel), (by decide +kernel), (by decide +kernel), (by decide +kernel)⟩, (by decide +kernel), (by decide +kernel), (by decide +kernel), (by decide +kernel), (by decide +kernel), (exists_some (by decide +kernel))⟩
    exact ⟨t, e⟩
  · obtain ⟨t, e, -⟩ := h.2.2.2.2.2.2.2.2.2.2.1 (msg 4 (odKey 0x3400 6) [0,0,0,5]) 0 5 (xr 4) s4 ⟨⟨⟨(by decide +kernel), (by decide +kernel), rfl, (by decide +kernel)⟩, (by decide +kernel), (tagValid_signed (by decide +kernel)), (by decide +kernel), (by decide +kernel), (by decide +kernel), (by decide +kernel)⟩, (by decide +kernel), (by decide +kernel), (by decide +kernel), (by decide +kernel), (by decide +kernel), (exists_some (by decide +kernel))⟩
    exact ⟨t, e⟩
  · obtain ⟨t, e, -⟩ := h.2.2.2.2.2.2.2.2.2.2.2 (msg 4 (odKey 0x3400 7) [5]) 0 5 (xr 4) s4 ⟨⟨⟨(by decide +kernel), (by decide +kernel), rfl, (by decide +kernel)⟩, (by decide +kernel), (tagValid_signed (by decide +kernel)), (by decide +kernel), (by decide +kernel), (by decide +kernel), (by decide +kernel)⟩, (by decide +kernel), (by decide +kernel), (by decide +kernel), (by decide +kernel), (by decide +kernel), (exists_some (by decide +kernel))⟩
    exact ⟨t, e⟩

theorem wit_TablesAndRequestsAreTaken (h : Obligations.TablesAndRequestsAreTaken) :
    (∃ t, exec (Instr.rosterTableWrite (msg 4 (odKey 0x2900 1) tb)) s4 = .next t) ∧
    (∃ t, exec (Instr.rosterSelect (msg 4 (odKey 0x2900 3) [1])) (setBlob (odKey 0x2900 1) tb s4) = .next t) ∧
    (∃ t, exec (Instr.gateControlListWrite (msg 4 (odKey 0x2E04 3) gl)) s4 = .next t) ∧
    (∃ t, exec (Instr.ruleTableWrite (msg 4 (odKey 0x2F10 1) oneRule)) s4 = .next t) ∧
    (∃ t, exec (Instr.pollListWrite (msg 4 (odKey 0x3200 7) (zeros 64))) s4 = .next t) ∧
    (∃ t, exec (Instr.canRecover (msg 4 (canKey 5 8) [1])) ({ s4 with can := [(5, { state := 3 })] }) = .next t) ∧
    (∃ t, exec (Instr.knotAssign (msg 4 (odKey 0x3521 3) [0,2,0,3])) s4 = .next t) ∧
    (∃ t, exec (Instr.restartRequest (msg 4 (odKey 0x2500 1) [1])) s4 = .next t) ∧
    (∃ t, exec (Instr.restartRequest (msg 4 (odKey 0x2500 1) [2])) ({ s4 with dev := .failed }) = .next t) := by
  refine ⟨?_, ?_, ?_, ?_, ?_, ?_, ?_, ?_, ?_⟩
  · obtain ⟨t, e, -⟩ := h.1 (msg 4 (odKey 0x2900 1) tb) 0 (odKey 0x2900 1) (xr 4) tb s4 (by decide +kernel) ⟨⟨⟨(by decide +kernel), (by decide +kernel), rfl, (by decide +kernel)⟩, (by decide +kernel), (tagValid_signed (by decide +kernel)), (by decide +kernel), (by decide +kernel), (by decide +kernel), (by decide +kernel)⟩, (by decide +kernel), (by decide +kernel), (by decide +kernel), (by decide +kernel), (by decide +kernel), (exists_some (by decide +kernel))⟩
    exact ⟨t, e⟩
  · obtain ⟨t, e, -⟩ := h.2.1 (msg 4 (odKey 0x2900 3) [1]) 0 1 (xr 4) (setBlob (odKey 0x2900 1) tb s4) ⟨⟨⟨(by decide +kernel), (by decide +kernel), rfl, (by decide +kernel)⟩, (by decide +kernel), (tagValid_signed (by decide +kernel)), (by decide +kernel), (by decide +kernel), (by decide +kernel), (by decide +kernel)⟩, (by decide +kernel), (by decide +kernel), (by decide +kernel), (by decide +kernel), (by decide +kernel), (exists_some (by decide +kernel))⟩
    exact ⟨t, e⟩
  · obtain ⟨t, e, -⟩ := h.2.2.1 (msg 4 (odKey 0x2E04 3) gl) 0 3 (xr 4) gl s4 (by decide +kernel) (by decide +kernel) (by decide +kernel) ⟨⟨⟨(by decide +kernel), (by decide +kernel), rfl, (by decide +kernel)⟩, (by decide +kernel), (tagValid_signed (by decide +kernel)), (by decide +kernel), (by decide +kernel), (by decide +kernel), (by decide +kernel)⟩, (by decide +kernel), (by decide +kernel), (by decide +kernel), (by decide +kernel), (by decide +kernel), (exists_some (by decide +kernel))⟩
    exact ⟨t, e⟩
  · obtain ⟨t, e, -⟩ := h.2.2.2.1 (msg 4 (odKey 0x2F10 1) oneRule) 0 (xr 4) oneRule s4 ⟨⟨⟨(by decide +kernel), (by decide +kernel), rfl, (by decide +kernel)⟩, (by decide +kernel), (tagValid_signed (by decide +kernel)), (by decide +kernel), (by decide +kernel), (by decide +kernel), (by decide +kernel)⟩, (by decide +kernel), (by decide +kernel), (by decide +kernel), (by decide +kernel), (by decide +kernel), (exists_some (by decide +kernel))⟩
    exact ⟨t, e⟩
  · obtain ⟨t, e, -⟩ := h.2.2.2.2.1 (msg 4 (odKey 0x3200 7) (zeros 64)) 0 (xr 4) (zeros 64) s4 ⟨⟨⟨(by decide +kernel), (by decide +kernel), rfl, (by decide +kernel)⟩, (by decide +kernel), (tagValid_signed (by decide +kernel)), (by decide +kernel), (by decide +kernel), (by decide +kernel), (by decide +kernel)⟩, (by decide +kernel), (by decide +kernel), (by decide +kernel), (by decide +kernel), (by decide +kernel), (exists_some (by decide +kernel))⟩
    exact ⟨t, e⟩
  · obtain ⟨t, e, -⟩ := h.2.2.2.2.2.1 (msg 4 (canKey 5 8) [1]) 0 5 1 (xr 4) { s4 with can := [(5, { state := 3 })] } (by decide +kernel) (by decide +kernel) ⟨⟨⟨(by decide +kernel), (by decide +kernel), rfl, (by decide +kernel)⟩, (by decide +kernel), (tagValid_signed (by decide +kernel)), (by decide +kernel), (by decide +kernel), (by decide +kernel), (by decide +kernel)⟩, (by decide +kernel), (by decide +kernel), (by decide +kernel), (by decide +kernel), (by decide +kernel), (exists_some (by decide +kernel))⟩ (by decide +kernel)
    exact ⟨t, e⟩
  · obtain ⟨t, e, -⟩ := h.2.2.2.2.2.2.1 (msg 4 (odKey 0x3521 3) [0,2,0,3]) 0 130 (odKey 0x3521 3) 0x20003 (xr 4) s4 (by decide +kernel) (by decide +kernel) ⟨⟨⟨(by decide +kernel), (by decide +kernel), rfl, (by decide +kernel)⟩, (by decide +kernel), (tagValid_signed (by decide +kernel)), (by decide +kernel), (by decide +kernel), (by decide +kernel), (by decide +kernel)⟩, (by decide +kernel), (by decide +kernel), (by decide +kernel), (by decide +kernel), (by decide +kernel), (exists_some (by decide +kernel))⟩ (by decide +kernel) (by decide +kernel) (by decide +kernel)
    exact ⟨t, e⟩
  · obtain ⟨t, e, -⟩ := h.2.2.2.2.2.2.2.1 (msg 4 (odKey 0x2500 1) [1]) 0 1 (xr 4) s4 (by decide +kernel) ⟨⟨⟨(by decide +kernel), (by decide +kernel), rfl, (by decide +kernel)⟩, (by decide +kernel), (tagValid_signed (by decide +kernel)), (by decide +kernel), (by decide +kernel), (by decide +kernel), (by decide +kernel)⟩, (by decide +kernel), (by decide +kernel), (by decide +kernel), (by decide +kernel), (by decide +kernel), (exists_some (by decide +kernel))⟩
    exact ⟨t, e⟩
  · obtain ⟨t, e, -⟩ := h.2.2.2.2.2.2.2.2 (msg 4 (odKey 0x2500 1) [2]) 0 (xr 4) { s4 with dev := .failed } ⟨⟨(by decide +kernel), (by decide +kernel), rfl, (by decide +kernel)⟩, (by decide +kernel), (tagValid_signed (by decide +kernel)), (by decide +kernel), (by decide +kernel), (by decide +kernel), (by decide +kernel)⟩ (by decide +kernel) (by decide +kernel) (by decide +kernel) (by decide +kernel)
    exact ⟨t, e⟩

end F

namespace G

def nd : State := setOd (odKey 0x1017 0) 100 (setSt (odKey 0x2003 1) 4 { up with canopen := { active := true, lastBeat := 900000 }, can := [(4, { state := 1 })] })
def me : State := memPut 0x4010000000 (List.replicate 128 5) up
def pa (n : Nat) (b : Bool) : State := { me with memCtl := { me.memCtl with patrolOn := true, patrolPos := n, passDone := b } }
def lk (r sp : Nat) : State := { up with lock := { up.lock with running := r, split := sp } }
def ho (b : Bool) (c : Nat) : Handover := { pair := 2, split := b, step := 6, req := 0x12, deadline := 1001000, confirmed := c }

theorem wit_CanopenNodeAnswersAndSends (h : Obligations.CanopenNodeAnswersAndSends) :
    (∃ t, exec (Instr.usdoUpload 4096 0) nd = .next t) ∧
    (∃ t, exec (Instr.usdoUpload 14336 1) nd = .next t) ∧
    (∃ t, exec (Instr.usdoDownload 14336 1) nd = .next t) ∧
    (∃ t, exec (Instr.nmtCommand 2 1) nd = .next t) ∧
    (∃ t, exec Instr.heartbeatProducer nd = .next t) ∧
    (∃ t, exec (Instr.tpdoEventTimer 3) (setOd (pdoKey 3 1) 0x185 (setOd (pdoKey 3 2) 50 (setOd (pdoKey 3 4) 1 (setOd (pdoKey 3 5) (0x2801 * 65536 + 256 + 32) nd)))) = .next t) := by
  refine ⟨?_, ?_, ?_, ?_, ?_, ?_⟩
  · obtain ⟨t, e, -⟩ := h.1 0x1000 0 _ nd (by decide +kernel) (Option.some_get (by decide +kernel)).symm (by decide +kernel) (by decide +kernel)
    exact ⟨t, e⟩
  · obtain ⟨t, e, -⟩ := h.2.1 0x3800 1 nd (by decide +kernel) (all_some (by decide +kernel))
    exact ⟨t, e⟩
  · obtain ⟨t, e, -⟩ := h.2.2.1 0x3800 1 nd (by decide +kernel)
    exact ⟨t, e⟩
  · obtain ⟨t, e, -⟩ := h.2.2.2.1 2 1 nd (by decide +kernel)
    exact ⟨t, e⟩
  · obtain ⟨t, e, -⟩ := h.2.2.2.2.1 4 nd (by decide +kernel) (by decide +kernel) (by decide +kernel) (by decide +kernel)
    exact ⟨t, e⟩
  · obtain ⟨t, e, -⟩ := h.2.2.2.2.2 3 4 _ (setOd (pdoKey 3 1) 0x185 (setOd (pdoKey 3 2) 50 (setOd (pdoKey 3 4) 1 (setOd (pdoKey 3 5) (0x2801 * 65536 + 256 + 32) nd)))) _ (by decide +kernel) (by decide +kernel) rfl (by decide +kernel) (by decide +kernel) rfl
    exact ⟨t, e⟩

theorem wit_CodedMemoryIsRead (h : Obligations.CodedMemoryIsRead) :
    (∃ t, exec (Instr.dramRead (acc 0x4010000010) 100 [] none) me = .next t) ∧
    (∃ t, exec (Instr.dramRead (acc 0x4010000010) 20 [({ gran := 0x400000, die := 3, byte := 2, xor := 9 })] none) me = .next t) ∧
    (∃ t, exec (Instr.dramRead (acc 0x4010000010) 20 [] none) ({ me with memCtl := { me.memCtl with poison := [(0x400000, true)] } }) = .next t) ∧
    (∃ t, exec (Instr.sramRead (acc 0x1000010) 20 []) me = .next t) ∧
    (∃ t, exec (Instr.sramRead (acc 0x1000010) 4 [({ word := 2, bit := 71 })]) me = .next t) ∧
    (∃ t, exec (Instr.sramRead (acc 0x1000010) 8 [({ word := 2, bit := 1 }), ({ word := 2, bit := 64 })]) me = .next t) := by
  refine ⟨?_, ?_, ?_, ?_, ?_, ?_⟩
  · obtain ⟨t, e, -⟩ := h.1 (acc 0x4010000010) 100 me ⟨(by decide +kernel), ⟨(by decide +kernel), ⟨(by decide +kernel), (by decide +kernel)⟩⟩⟩ (by decide +kernel) (fun _ _ _ => ⟨rfl, fun _ _ _ _ => rfl⟩)
    exact ⟨t, e⟩
  · obtain ⟨t, e, -⟩ := h.2.1 (acc 0x4010000010) 20 { gran := 0x400000, die := 3, byte := 2, xor := 9 } me ⟨(by decide +kernel), ⟨(by decide +kernel), ⟨(by decide +kernel), (by decide +kernel)⟩⟩⟩ (by decide +kernel) (by decide +kernel) (by decide +kernel) (by decide +kernel) (by decide +kernel) (by decide +kernel) (by decide +kernel) (fun _ => fun _ => fun _ => fun _ => rfl) (by decide +kernel) (by decide +kernel)
    exact ⟨t, e⟩
  · obtain ⟨t, e, -⟩ := h.2.2.1 (acc 0x4010000010) 20 0x400000 { me with memCtl := { me.memCtl with poison := [(0x400000, true)] } } ⟨(by decide +kernel), ⟨(by decide +kernel), ⟨(by decide +kernel), (by decide +kernel)⟩⟩⟩ (by decide +kernel) (by decide +kernel) (by decide +kernel) (by decide +kernel) (fun _ => fun _ => fun _ => fun _ => rfl) (by decide +kernel)
    exact ⟨t, e⟩
  · obtain ⟨t, e, -⟩ := h.2.2.2.1 (acc 0x1000010) 20 me ⟨(by decide +kernel), ⟨(by decide +kernel), ⟨(by decide +kernel), (by decide +kernel)⟩⟩⟩ (by decide +kernel) (by decide +kernel)
    exact ⟨t, e⟩
  · obtain ⟨t, e, -⟩ := h.2.2.2.2.1 (acc 0x1000010) 4 { word := 2, bit := 71 } me ⟨(by decide +kernel), ⟨(by decide +kernel), ⟨(by decide +kernel), (by decide +kernel)⟩⟩⟩ (by decide +kernel) (by decide +kernel) (by decide +kernel) (by decide +kernel) (by decide +kernel)
    exact ⟨t, e⟩
  · obtain ⟨t, e, -⟩ := h.2.2.2.2.2 (acc 0x1000010) 8 { word := 2, bit := 1 } { word := 2, bit := 64 } me ⟨(by decide +kernel), ⟨(by decide +kernel), ⟨(by decide +kernel), (by decide +kernel)⟩⟩⟩ (by decide +kernel) (by decide +kernel) (by decide +kernel) (by decide +kernel) (by decide +kernel) (by decide +kernel) (by decide +kernel) (by decide +kernel) (by decide +kernel)
    exact ⟨t, e⟩

theorem wit_CodedMemoryIsWrittenAndScrubbed (h : Obligations.CodedMemoryIsWrittenAndScrubbed) :
    (∃ t, exec (Instr.codedWrite (acc 0x4010000040) false (List.map some (List.replicate 64 3))) ({ me with memCtl := { me.memCtl with poison := [(0x400001, true)], dramErr := [(0x400001*80+3, 4)] } }) = .next t) ∧
    (∃ t, exec (Instr.codedWrite (acc 0x4010000048) false (List.replicate 64 (some 3))) me = .next t) ∧
    (∃ t, exec (Instr.codedWrite (acc 0x4010000040) true (none :: List.replicate 63 (some 3))) me = .next t) ∧
    (∃ t, exec (Instr.demandScrub (granAddr 4194305)) ({ me with memCtl := { me.memCtl with scrubDue := [0x400001, 7], dramErr := [(0x400001*80+3, 4)] } }) = .next t) ∧
    (∃ t, exec (Instr.demandScrub (16777216 + 8 * 9)) ({ me with memCtl := { me.memCtl with sramDue := [9, 7], sramErr := [(9, 4)] } }) = .next t) ∧
    (∃ t, exec (Instr.patrolScrub [] [] 0) (pa 100 false) = .next t) ∧
    (∃ t, exec (Instr.patrolScrub [] [] 0) (pa (2^28-1) false) = .next t) ∧
    (∃ t, exec Instr.patrolPassStart (pa 0 true) = .next t) := by
  refine ⟨?_, ?_, ?_, ?_, ?_, ?_, ?_, ?_⟩
  · obtain ⟨t, e, -⟩ := h.1 (acc 0x4010000040) (List.replicate 64 3) { me with memCtl := { me.memCtl with poison := [(0x400001, true)], dramErr := [(0x400001*80+3, 4)] } } ⟨(by decide +kernel), ⟨(by decide +kernel), ⟨(by decide +kernel), (by decide +kernel)⟩⟩⟩ (by decide +kernel) (by decide +kernel) (by decide +kernel)
    exact ⟨t, e⟩
  · obtain ⟨t, e, -⟩ := h.2.1 (acc 0x4010000048) (List.replicate 64 (some 3)) me ⟨(by decide +kernel), ⟨(by decide +kernel), ⟨(by decide +kernel), (by decide +kernel)⟩⟩⟩ (by decide +kernel)
    exact ⟨t, e⟩
  · obtain ⟨t, e, -⟩ := h.2.2.1 (acc 0x4010000040) (none :: List.replicate 63 (some 3)) me ⟨(by decide +kernel), ⟨(by decide +kernel), ⟨(by decide +kernel), (by decide +kernel)⟩⟩⟩ (by decide +kernel)
    exact ⟨t, e⟩
  · obtain ⟨t, e, -⟩ := h.2.2.2.1 0x400001 { me with memCtl := { me.memCtl with scrubDue := [0x400001, 7], dramErr := [(0x400001*80+3, 4)] } } (by decide +kernel) (by decide +kernel)
    exact ⟨t, e⟩
  · obtain ⟨t, e, -⟩ := h.2.2.2.2.1 9 { me with memCtl := { me.memCtl with sramDue := [9, 7], sramErr := [(9, 4)] } } (by decide +kernel) (by decide +kernel) (by decide +kernel)
    exact ⟨t, e⟩
  · obtain ⟨t, e, -⟩ := h.2.2.2.2.2.1 (pa 100 false) (by decide +kernel) (by decide +kernel) (by decide +kernel) (by decide +kernel) (by decide +kernel)
    exact ⟨t, e⟩
  · obtain ⟨t, e, -⟩ := h.2.2.2.2.2.2.1 (pa (2^28-1) false) (by decide +kernel) (by decide +kernel) (by decide +kernel) (by decide +kernel) (by decide +kernel)
    exact ⟨t, e⟩
  · obtain ⟨t, e, -⟩ := h.2.2.2.2.2.2.2 (pa 0 true) (by decide +kernel) (by decide +kernel) (by decide +kernel)
    exact ⟨t, e⟩

theorem wit_LockstepPairsReactAndHandOver (h : Obligations.LockstepPairsReactAndHandOver) :
    (∃ t, exec (Instr.lockstepMismatch 1) (lk 0xFF 0) = .next t) ∧
    (∃ t, exec (Instr.lockstepMismatch 1) (setSt (odKey 0x3501 5) 2 (setSt (odKey 0x3501 9) 0x4010000000 (lk 0xFF 0))) = .next t) ∧
    (∃ t, exec (Instr.lockstepMismatch 1) ({ (lk 0xFF 0) with dev := .warmStart }) = .next t) ∧
    (∃ t, exec (Instr.coreRelease (accr 0x10 0x10000210) 16) (setSt (odKey 0x3501 0x10) 0x4010000000 (lk 0xF 0)) = .next t) ∧
    (∃ t, exec (Instr.handoverSplit (accr 0x12 0x10000204) 2 none) (lk 0xFF 0) = .next t) ∧
    (∃ t, exec (Instr.handoverRejoin (accr 0x12 0x10000204) 2 none) (lk 0xFF 4) = .next t) ∧
    (∃ t, exec (Instr.handoverSplit (accr 0x12 0x10000204) 1 none) (lk 0xFF 4) = .next t) ∧
    (∃ t, exec (Instr.handoverConfirm (accr 0x14 0x1000020C) 1) ({ (lk 0xFF 0) with lock := { (lk 0xFF 0).lock with handover := some (ho false 0) } }) = .next t) ∧
    (∃ t, exec Instr.handoverConfirmTimeout ({ (lk 0xFF 4) with lock := { (lk 0xFF 4).lock with handover := some (ho true 1) } }) = .next t) := by
  refine ⟨?_, ?_, ?_, ?_, ?_, ?_, ?_, ?_, ?_⟩
  · obtain ⟨t, e, -⟩ := h.1 1 (lk 0xFF 0) (by decide +kernel) (by decide +kernel) (by decide +kernel) (by decide +kernel) (by decide +kernel) (by decide +kernel)
    exact ⟨t, e⟩
  · obtain ⟨t, e, -⟩ := h.2.1 1 (setSt (odKey 0x3501 5) 2 (setSt (odKey 0x3501 9) 0x4010000000 (lk 0xFF 0))) (by decide +kernel) (by decide +kernel) (by decide +kernel) (by decide +kernel) (by decide +kernel) (by decide +kernel)
    exact ⟨t, e⟩
  · obtain ⟨t, e, -⟩ := h.2.2.1 1 { (lk 0xFF 0) with dev := .warmStart } (by decide +kernel) (by decide +kernel) (by decide +kernel) (by decide +kernel)
    exact ⟨t, e⟩
  · obtain ⟨t, e, -⟩ := h.2.2.2.1 (accr 0x10 0x10000210) 16 4 (setSt (odKey 0x3501 0x10) 0x4010000000 (lk 0xF 0)) ⟨(by decide +kernel), (by decide +kernel), (exists_ok (by decide +kernel))⟩ (by decide +kernel) (by decide +kernel)
    exact ⟨t, e⟩
  · obtain ⟨t, e, -⟩ := h.2.2.2.2.1 (accr 0x12 0x10000204) 2 (lk 0xFF 0) ⟨(by decide +kernel), (by decide +kernel), (exists_ok (by decide +kernel))⟩ (by decide +kernel)
    exact ⟨t, e⟩
  · obtain ⟨t, e, -⟩ := h.2.2.2.2.2.1 (accr 0x12 0x10000204) 2 (lk 0xFF 4) ⟨(by decide +kernel), (by decide +kernel), (exists_ok (by decide +kernel))⟩ (by decide +kernel)
    exact ⟨t, e⟩
  · obtain ⟨t, e, -⟩ := h.2.2.2.2.2.2.1 (accr 0x12 0x10000204) 1 none _ (lk 0xFF 4) ⟨(by decide +kernel), (by decide +kernel), (exists_ok (by decide +kernel))⟩ (Option.some_get (by decide +kernel)).symm
    exact ⟨t, e⟩
  · obtain ⟨t, e, -⟩ := h.2.2.2.2.2.2.2.1 (accr 0x14 0x1000020C) 1 _ { (lk 0xFF 0) with lock := { (lk 0xFF 0).lock with handover := some (ho false 0) } } ⟨(by decide +kernel), (by decide +kernel), (exists_ok (by decide +kernel))⟩ (by decide +kernel) (Option.some_get (by decide +kernel)).symm (by decide +kernel) (by decide +kernel)
    exact ⟨t, e⟩
  · obtain ⟨t, e, -⟩ := h.2.2.2.2.2.2.2.2 (ho true 1) { (lk 0xFF 4) with lock := { (lk 0xFF 4).lock with handover := some (ho true 1) } } (by decide +kernel) (by decide +kernel)
    exact ⟨t, e⟩

end G

namespace H

def win : Nat := 2^63 + 2^62 + 256 * 2^24 + 0x401000
def n7 : Nat := 7
def b0 : State := setOd (instKey 7 3) 8 (setOd (instKey 7 1) 1 (setOd (instKey 7 0x10) win (setOd (odKey 0x2802 1) 0x1107 (setOd (odKey 0x2803 1) 0x1107 (setOd (odKey 0x2804 1) 0x1107 (setReg (instPage 7 + 0x400) 1 (setReg (instPage 7 + 0x408) 1 (setReg (instPage 7 + 0x40C) 1 { up with pack := { up.pack with insts := [(7, { state := 1, gen := 5 })] } }))))))))
def qs (x : Queue) : State := setReg (qReg 7 2 0) 0x4010000000 (setReg (qReg 7 2 8) 0x4010010000 (setReg (qReg 7 2 0x10) (65536 + 6 + 6*256) { b0 with pack := { b0.pack with queues := [(7*256+2, x)] } }))
def q0 : State := setReg (qReg 7 2 0) 0x4010000000 (setReg (qReg 7 2 8) 0x4010010000 b0)
def ds (l : List Byte) : List Byte := l ++ zeros (64 - l.length)
def nopD : List Byte := ds [1, 0, 5, 0]
def cm (d : List Byte) : Cmd := { index := 9, desc := d, gen := 5 }
def qc (d : List Byte) : State := qs { state := 2, tail := 10, sqHead := 10, cmds := [cm d] }
def kw (t : Nat) (w : Nat) : List Byte := ds ([4, 0, 5, 0, 0, 0, 0, 0] ++ leBytes 2 5 ++ zeros 6 ++ leBytes 8 t ++ leBytes 4 w)
def ks (v : Nat) : List Byte := ds ([5, 0, 5, 0, 0, 0, 0, 0] ++ leBytes 2 5 ++ zeros 6 ++ leBytes 8 v)
def kk (s : State) : State := setOd (odKey 0x3520 6) (7 * 65536 + 7) { s with knots := [(5, 10)] }
def kwt : State := kk (qs { state := 2, tail := 10, sqHead := 10, cmds := [{ cm (kw 10 5) with started := true, begun := true, expires := some 1000500 }] })
def cpy : List Byte := ds ([8, 0, 5, 0, 0, 0, 0, 0] ++ leBytes 8 0x4010020000 ++ leBytes 8 0x4010030000 ++ leBytes 4 128 ++ leBytes 4 2 ++ leBytes 4 128 ++ leBytes 4 128)
def vec (v : Nat) : List Byte := ds ([0x18, 0, 5, 0, 0, 0, 0, 0] ++ leBytes 8 0x4010020000 ++ leBytes 8 (if vopBinary v || vopNorm v then 0x4010040000 else 0) ++ leBytes 8 0x4010030000 ++ leBytes 4 2 ++ leBytes 2 16 ++ [BitVec.ofNat 8 v, 0x11] ++ leBytes 4 64 ++ leBytes 4 64 ++ leBytes 4 64)
def lay : Layer := { model := 9, num := 3, first := 2, gr := 1, gc := 1, flags := 0, k := 64, n := 32 }
def crD : List Byte := ds ([0x20, 0, 5, 0, 0, 0, 0, 0] ++ leBytes 8 0x4010020000 ++ leBytes 8 0x4010030000 ++ leBytes 8 0 ++ leBytes 4 9 ++ leBytes 2 3 ++ leBytes 2 64 ++ leBytes 4 5 ++ leBytes 2 32 ++ [0, 8] ++ leBytes 4 64 ++ leBytes 4 128)
def qcim (d : List Byte) : State := { qc d with cim := { tiles := [(0, { layers := [(0, some lay)] })], macros := [(2, { ready := true })] } }
def tabB : List Byte := leBytes 2 3 ++ [2, 1, 1, 0] ++ leBytes 2 64 ++ leBytes 2 32 ++ zeros 54
def hd : List Byte := ascii "CIMW" ++ leBytes 2 1 ++ leBytes 2 1 ++ leBytes 2 1 ++ leBytes 2 0 ++ leBytes 4 9 ++ leBytes 4 131264 ++ zeros 40
def img : List Byte := hd ++ leBytes 4 (crc32c (hd ++ tabB)) ++ tabB ++ ([2, 0, 0, 0] ++ leBytes 4 1234 ++ zeros 56)
def clD : List Byte := ds ([0x21, 0, 5, 0, 0, 0, 0, 0] ++ leBytes 8 0x4010020000 ++ leBytes 4 131264 ++ [0])
def sq : Seq := { state := 1, inst := 7, gen := 5, layers := 1, heads := 1, dim := 16, typ := 3, length := 8, swapAddr := 0x4010050000, swapBytes := 65536 }
def atD (op fl : Nat) : List Byte := [BitVec.ofNat 8 op, 0, 5, 0, 0, 0, 0, 0] ++ leBytes 8 (if fl = 1 then 0 else 0x4010020000) ++ leBytes 8 0 ++ leBytes 8 (if fl = 1 then 0 else 0x4010030000) ++ leBytes 8 0 ++ zeros 4 ++ leBytes 4 4 ++ leBytes 2 4 ++ leBytes 2 5 ++ [0, (if fl = 1 then 0 else 1), (if fl = 1 then 0 else 0x33), BitVec.ofNat 8 fl] ++ (if op = 0x29 then leBytes 8 0x4010060000 else zeros 4 ++ leBytes 2 1 ++ leBytes 2 1)
def qat (d : List Byte) : State := setOd (instKey 7 0x28) 16 <| setOd (instKey 7 0x29) (4 * 65536 + 4) <| memPut 0x4010060000 [0xFF, 0, 1, 0xFF] { qc d with kennel := { base := 0x1000, size := 8, seqs := [(5, { sq with pages := [⟨0x4020000000, 3, 0, 8⟩] })] } }
def b1 : State := setReg (instPage 7 + 0x408) 1 b0
def go (d : List Byte) : Nat × Nat × Nat × Nat × List Nat := match (attnStart 7 (7*256+2) d (qat d)).2 with | .go a b c e p => (a, b, c, e, p) | _ => default

theorem wit_PackQueueRegistersAreTaken (h : Obligations.PackQueueRegistersAreTaken) :
    (∃ t, exec (Instr.packDoorbell 7 2 (acc (qReg 7 2 0x14)) 5) (qs { state := 1 }) = .next t) ∧
    (∃ t, exec (Instr.packDoorbell 7 2 (acc (qReg 7 2 0x14)) 65) (qs { state := 1 }) = .next t) ∧
    (∃ t, exec (Instr.queueConfigWrite 7 2 (acc (qReg 7 2 0x10)) (BitVec.ofNat 64 (65536 + 6 + 6*256))) q0 = .next t) ∧
    (∃ t, exec (Instr.queueConfigWrite 7 2 (acc (qReg 7 2 0x10)) 0) (qs { state := 4, last := 7 }) = .next t) ∧
    (∃ t, exec (Instr.queueConfigWrite 7 2 ({ acc (qReg 7 2 0x8) with bits := 64 }) 0) (qs { state := 4, last := 7 }) = .next t) ∧
    (∃ t, exec (Instr.queueConfigWrite 7 2 ({ acc (qReg 7 2 0x8) with bits := 64 }) 275146342400) q0 = .next t) ∧
    (∃ t, exec (Instr.cqHeadWrite 7 2 (acc (qReg 7 2 0x20)) 3) q0 = .next t) := by
  refine ⟨?_, ?_, ?_, ?_, ?_, ?_, ?_⟩
  · obtain ⟨t, e, -⟩ := h.1 7 2 (acc (qReg 7 2 0x14)) 5 _ (qs { state := 1 }) ⟨(by decide +kernel), (by decide +kernel), (exists_ok (by decide +kernel))⟩ (by decide +kernel) rfl (by decide +kernel) (by decide +kernel) (by decide +kernel)
    exact ⟨t, e⟩
  · obtain ⟨t, e, -⟩ := h.2.1 7 2 (acc (qReg 7 2 0x14)) 65 _ (qs { state := 1 }) ⟨(by decide +kernel), (by decide +kernel), (exists_ok (by decide +kernel))⟩ (by decide +kernel) rfl (by decide +kernel)
    exact ⟨t, e⟩
  · obtain ⟨t, e, -⟩ := h.2.2.1 7 2 (acc (qReg 7 2 0x10)) (BitVec.ofNat 64 (65536 + 6 + 6*256)) _ q0 (by decide +kernel) ⟨(by decide +kernel), (by decide +kernel), (exists_ok (by decide +kernel))⟩ (some_pair (by decide +kernel)) (by decide +kernel) (by decide +kernel) (by decide +kernel)
    exact ⟨t, e⟩
  · obtain ⟨t, e, -⟩ := h.2.2.2.1 7 2 (acc (qReg 7 2 0x10)) 0 (qs { state := 4, last := 7 }) (by decide +kernel) ⟨(by decide +kernel), (by decide +kernel), (exists_ok (by decide +kernel))⟩ (by decide +kernel) (by decide +kernel) (by decide +kernel)
    exact ⟨t, e⟩
  · obtain ⟨t, e, -⟩ := h.2.2.2.2.1 7 2 { acc (qReg 7 2 0x8) with bits := 64 } 0 (qs { state := 4, last := 7 }) (by decide +kernel) ⟨(by decide +kernel), (by decide +kernel), (exists_ok (by decide +kernel))⟩ (by decide +kernel)
    exact ⟨t, e⟩
  · obtain ⟨t, e, -⟩ := h.2.2.2.2.2.1 7 2 { acc (qReg 7 2 0x8) with bits := 64 } 0x4010000000 _ q0 (by decide +kernel) ⟨(by decide +kernel), (by decide +kernel), (exists_ok (by decide +kernel))⟩ (some_pair (by decide +kernel)) (by decide +kernel)
    exact ⟨t, e⟩
  · obtain ⟨t, e, -⟩ := h.2.2.2.2.2.2 7 2 (acc (qReg 7 2 0x20)) 3 _ q0 ⟨(by decide +kernel), (by decide +kernel), (exists_ok (by decide +kernel))⟩ (some_pair (by decide +kernel))
    exact ⟨t, e⟩

theorem wit_PackQueuesAreControlledAndFetched (h : Obligations.PackQueuesAreControlledAndFetched) :
    (∃ t, exec (Instr.queueStop 7 2 (acc (qReg 7 2 0x24))) (qs { state := 2, cmds := [cm nopD] }) = .next t) ∧
    (∃ t, exec (Instr.queueStop 7 2 (acc (qReg 7 2 0x24))) (qs { state := 2, cmds := [{ cm nopD with started := true, begun := true, tiles := 5, done := 3, disp := 3 }] }) = .next t) ∧
    (∃ t, exec (Instr.queueStart 7 2 (acc (qReg 7 2 0x24))) (qs { state := 4, cmds := [cm nopD] }) = .next t) ∧
    (∃ t, exec (Instr.queueFlush 7 2 (acc (qReg 7 2 0x24))) (qs { state := 4, tail := 9, sqHead := 9, cmds := [cm nopD, { cm nopD with begun := true, status := some 3 }] }) = .next t) ∧
    (∃ t, exec (Instr.queueFlush 7 2 (acc (qReg 7 2 0x24))) (qs { state := 2, cmds := [cm nopD] }) = .next t) ∧
    (∃ t, exec (Instr.descriptorFetch 7 2) (memPut 0x4010000000 nopD (qs { state := 2, tail := 1 })) = .next t) ∧
    (∃ t, exec (Instr.descriptorFetch 7 2) (memPut 0x4010000000 (ds [1, 0, 4]) (qs { state := 2, tail := 1 })) = .next t) := by
  refine ⟨?_, ?_, ?_, ?_, ?_, ?_, ?_⟩
  · obtain ⟨t, e, -⟩ := h.1 7 2 (acc (qReg 7 2 0x24)) (qs { state := 2, cmds := [cm nopD] }) ⟨(by decide +kernel), (by decide +kernel), (exists_ok (by decide +kernel))⟩ (by decide +kernel) (by decide +kernel) (by decide +kernel)
    exact ⟨t, e⟩
  · obtain ⟨t, _, e, -⟩ := h.2.1 7 2 (acc (qReg 7 2 0x24)) _ [] (qs { state := 2, cmds := [{ cm nopD with started := true, begun := true, tiles := 5, done := 3, disp := 3 }] }) ⟨(by decide +kernel), (by decide +kernel), (exists_ok (by decide +kernel))⟩ (by decide +kernel) (by decide +kernel) (List.cons_head_tail (by decide +kernel)).symm (by decide +kernel) (by decide +kernel)
    exact ⟨t, e⟩
  · obtain ⟨t, e, -⟩ := h.2.2.1 7 2 (acc (qReg 7 2 0x24)) (qs { state := 4, cmds := [cm nopD] }) ⟨(by decide +kernel), (by decide +kernel), (exists_ok (by decide +kernel))⟩ (by decide +kernel) (by decide +kernel)
    exact ⟨t, e⟩
  · obtain ⟨t, e, -⟩ := h.2.2.2.1 7 2 (acc (qReg 7 2 0x24)) (qs { state := 4, tail := 9, sqHead := 9, cmds := [cm nopD, { cm nopD with begun := true, status := some 3 }] }) ⟨(by decide +kernel), (by decide +kernel), (exists_ok (by decide +kernel))⟩ (by decide +kernel) (by decide +kernel) (by decide +kernel) (by decide +kernel)
    exact ⟨t, e⟩
  · obtain ⟨t, e, -⟩ := h.2.2.2.2.1 7 2 (acc (qReg 7 2 0x24)) (qs { state := 2, cmds := [cm nopD] }) ⟨(by decide +kernel), (by decide +kernel), (exists_ok (by decide +kernel))⟩ (by decide +kernel) (by decide +kernel) (by decide +kernel)
    exact ⟨t, e⟩
  · obtain ⟨t, e, -⟩ := h.2.2.2.2.2.1 7 2 _ (memPut 0x4010000000 nopD (qs { state := 2, tail := 1 })) (by decide +kernel) (by decide +kernel) (pair_some (by decide +kernel)) (by decide +kernel)
    exact ⟨t, e⟩
  · obtain ⟨t, e, -⟩ := h.2.2.2.2.2.2 7 2 _ (memPut 0x4010000000 (ds [1, 0, 4]) (qs { state := 2, tail := 1 })) (by decide +kernel) (by decide +kernel) (pair_some (by decide +kernel)) (by decide +kernel)
    exact ⟨t, e⟩

theorem wit_PackControlCommandsRun (h : Obligations.PackControlCommandsRun) :
    (∃ t, exec (Instr.nop 7 2) (qc nopD) = .next t) ∧
    (∃ t, exec (Instr.fence 7 2) (qc (ds [2, 0, 5, 0, 0, 0, 0, 0, 1])) = .next t) ∧
    (∃ t, exec (Instr.fence 7 2) (qs { state := 2, tail := 10, sqHead := 10, cmds := [{ cm cpy with begun := true, status := some 0 }, cm (ds [2, 0x40, 5, 0, 0, 0, 0, 0, 1])] }) = .next t) ∧
    (∃ t, exec (Instr.checkpoint 7 2) (qc (ds [3, 0, 5, 0])) = .next t) ∧
    (∃ t, exec (Instr.knotWait 7 2) (kk (qc (kw 10 5))) = .next t) ∧
    (∃ t, exec (Instr.knotWait 7 2) (kk (qc (kw 11 5))) = .next t) ∧
    (∃ t, exec (Instr.knotWait 7 2) (kk (qc (kw 11 0))) = .next t) ∧
    (∃ t, exec (Instr.knotSignal 7 2) (kk (qc (ks 11))) = .next t) ∧
    (∃ t, exec (Instr.knotSignal 7 2) ((qc (ks 11))) = .next t) ∧
    (∃ t, exec (Instr.knotWaitRelease 7 2) kwt = .next t) ∧
    (∃ t, exec (Instr.knotWaitTimeout 7 2) kwt = .next t) := by
  refine ⟨?_, ?_, ?_, ?_, ?_, ?_, ?_, ?_, ?_, ?_, ?_⟩
  · obtain ⟨t, e, -⟩ := h.1 7 2 0 (cm nopD) (qc nopD) ⟨(by decide +kernel), (by decide +kernel), (by decide +kernel), ⟨(by decide +kernel), ⟨(by decide +kernel), ⟨(by decide +kernel), ⟨(by decide +kernel), ⟨(by decide +kernel), ⟨(by decide +kernel), (by decide +kernel)⟩⟩⟩⟩⟩⟩⟩ (by decide +kernel)
    exact ⟨t, e⟩
  · obtain ⟨t, e, -⟩ := h.2.1 7 2 0 (cm (ds [2, 0, 5, 0, 0, 0, 0, 0, 1])) (qc (ds [2, 0, 5, 0, 0, 0, 0, 0, 1])) ⟨(by decide +kernel), (by decide +kernel), (by decide +kernel), ⟨(by decide +kernel), ⟨(by decide +kernel), ⟨(by decide +kernel), ⟨(by decide +kernel), ⟨(by decide +kernel), ⟨(by decide +kernel), (by decide +kernel)⟩⟩⟩⟩⟩⟩⟩ (by decide +kernel) (by decide +kernel)
    exact ⟨t, e⟩
  · exact ⟨_, h.2.2.1 7 2 1 (cm (ds [2, 0x40, 5, 0, 0, 0, 0, 0, 1])) (qs { state := 2, tail := 10, sqHead := 10, cmds := [{ cm cpy with begun := true, status := some 0 }, cm (ds [2, 0x40, 5, 0, 0, 0, 0, 0, 1])] }) ⟨(by decide +kernel), (by decide +kernel), (by decide +kernel), ⟨(by decide +kernel), ⟨(by decide +kernel), ⟨(by decide +kernel), ⟨(by decide +kernel), ⟨(by decide +kernel), ⟨(by decide +kernel), (by decide +kernel)⟩⟩⟩⟩⟩⟩⟩ (by decide +kernel) (by decide +kernel) (by decide +kernel)⟩
  · obtain ⟨t, e, -⟩ := h.2.2.2.1 7 2 0 (cm (ds [3, 0, 5, 0])) (qc (ds [3, 0, 5, 0])) ⟨(by decide +kernel), (by decide +kernel), (by decide +kernel), ⟨(by decide +kernel), ⟨(by decide +kernel), ⟨(by decide +kernel), ⟨(by decide +kernel), ⟨(by decide +kernel), ⟨(by decide +kernel), (by decide +kernel)⟩⟩⟩⟩⟩⟩⟩ (by decide +kernel)
    exact ⟨t, e⟩
  · obtain ⟨t, e, -⟩ := h.2.2.2.2.1 7 2 0 (cm (kw 10 5)) (kk (qc (kw 10 5))) ⟨(by decide +kernel), (by decide +kernel), (by decide +kernel), ⟨(by decide +kernel), ⟨(by decide +kernel), ⟨(by decide +kernel), ⟨(by decide +kernel), ⟨(by decide +kernel), ⟨(by decide +kernel), (by decide +kernel)⟩⟩⟩⟩⟩⟩⟩ (by decide +kernel) (by decide +kernel) (by decide +kernel)
    exact ⟨t, e⟩
  · obtain ⟨t, _, e, -⟩ := h.2.2.2.2.2.1 7 2 0 (cm (kw 11 5)) (kk (qc (kw 11 5))) ⟨(by decide +kernel), (by decide +kernel), (by decide +kernel), ⟨(by decide +kernel), ⟨(by decide +kernel), ⟨(by decide +kernel), ⟨(by decide +kernel), ⟨(by decide +kernel), ⟨(by decide +kernel), (by decide +kernel)⟩⟩⟩⟩⟩⟩⟩ (by decide +kernel) (by decide +kernel) (by decide +kernel) (by decide +kernel)
    exact ⟨t, e⟩
  · obtain ⟨t, e, -⟩ := h.2.2.2.2.2.2.1 7 2 0 (cm (kw 11 0)) (kk (qc (kw 11 0))) ⟨(by decide +kernel), (by decide +kernel), (by decide +kernel), ⟨(by decide +kernel), ⟨(by decide +kernel), ⟨(by decide +kernel), ⟨(by decide +kernel), ⟨(by decide +kernel), ⟨(by decide +kernel), (by decide +kernel)⟩⟩⟩⟩⟩⟩⟩ (by decide +kernel) (by decide +kernel) (by decide +kernel) (by decide +kernel)
    exact ⟨t, e⟩
  · obtain ⟨t, e, -⟩ := h.2.2.2.2.2.2.2.1 7 2 0 (cm (ks 11)) (kk (qc (ks 11))) ⟨(by decide +kernel), (by decide +kernel), (by decide +kernel), ⟨(by decide +kernel), ⟨(by decide +kernel), ⟨(by decide +kernel), ⟨(by decide +kernel), ⟨(by decide +kernel), ⟨(by decide +kernel), (by decide +kernel)⟩⟩⟩⟩⟩⟩⟩ (by decide +kernel) (by decide +kernel) (by decide +kernel)
    exact ⟨t, e⟩
  · obtain ⟨t, e, -⟩ := h.2.2.2.2.2.2.2.2.1 7 2 0 (cm (ks 11)) ((qc (ks 11))) ⟨(by decide +kernel), (by decide +kernel), (by decide +kernel), ⟨(by decide +kernel), ⟨(by decide +kernel), ⟨(by decide +kernel), ⟨(by decide +kernel), ⟨(by decide +kernel), ⟨(by decide +kernel), (by decide +kernel)⟩⟩⟩⟩⟩⟩⟩ (by decide +kernel) (by decide +kernel)
    exact ⟨t, e⟩
  · obtain ⟨t, e, -⟩ := h.2.2.2.2.2.2.2.2.2.1 7 2 _ _ kwt (by decide +kernel) (some_pair (by decide +kernel)) (by decide +kernel) (by decide +kernel) (by decide +kernel) (by decide +kernel)
    exact ⟨t, e⟩
  · obtain ⟨t, e, -⟩ := h.2.2.2.2.2.2.2.2.2.2 7 2 _ _ _ kwt (by decide +kernel) (some_pair (by decide +kernel)) (Option.some_get (by decide +kernel)).symm (by decide +kernel) (by decide +kernel) (by decide +kernel)
    exact ⟨t, e⟩

set_option maxRecDepth 1000000 in
theorem wit_PackEngineCommandsStart (h : Obligations.PackEngineCommandsStart) :
    (∃ t, exec (Instr.copy 7 2) (qc cpy) = .next t) ∧
    (∃ t, exec (Instr.vecAdd 7 2) (qc (vec 1)) = .next t) ∧
    (∃ t, exec (Instr.cimRun 7 2) (qcim crD) = .next t) ∧
    (∃ t, exec (Instr.cimLoad 7 2) (memPut 0x4010020000 img (qc clD)) = .next t) ∧
    (∃ t, exec (Instr.attn 7 2) (qat (atD 0x28 0)) = .next t) := by
  refine ⟨?_, ?_, ?_, ?_, ?_⟩
  · obtain ⟨t, e, -⟩ := h.1 Instr.copy 8 7 2 0 (cm cpy) (qc cpy) (by simp) ⟨(by decide +kernel), (by decide +kernel), (by decide +kernel), ⟨(by decide +kernel), ⟨(by decide +kernel), ⟨(by decide +kernel), ⟨(by decide +kernel), ⟨(by decide +kernel), ⟨(by decide +kernel), (by decide +kernel)⟩⟩⟩⟩⟩⟩⟩ (by decide +kernel) ⟨(by decide +kernel), (by decide +kernel), (by decide +kernel)⟩ (by decide +kernel)
    exact ⟨t, e⟩
  · obtain ⟨t, e, -⟩ := h.2.1 Instr.vecAdd 1 7 2 0 (cm (vec 1)) (qc (vec 1)) (by simp) ⟨(by decide +kernel), (by decide +kernel), (by decide +kernel), ⟨(by decide +kernel), ⟨(by decide +kernel), ⟨(by decide +kernel), ⟨(by decide +kernel), ⟨(by decide +kernel), ⟨(by decide +kernel), (by decide +kernel)⟩⟩⟩⟩⟩⟩⟩ (by decide +kernel) (by decide +kernel) ⟨(by decide +kernel), (by decide +kernel), (by decide +kernel)⟩ (by decide +kernel)
    exact ⟨t, e⟩
  · obtain ⟨t, e, -⟩ := h.2.2.1 7 2 0 lay 0 (cm crD) (qcim crD) ⟨(by decide +kernel), (by decide +kernel), (by decide +kernel), ⟨(by decide +kernel), ⟨(by decide +kernel), ⟨(by decide +kernel), ⟨(by decide +kernel), ⟨(by decide +kernel), ⟨(by decide +kernel), (by decide +kernel)⟩⟩⟩⟩⟩⟩⟩ (by decide +kernel) ⟨(by decide +kernel), (by decide +kernel), (by decide +kernel)⟩ (by decide +kernel) (by decide +kernel) (by decide +kernel) (by decide +kernel)
    exact ⟨t, e⟩
  · obtain ⟨t, e, -⟩ := h.2.2.2.1 7 2 0 [lay] [(2, 1234)] (cm clD) (memPut 0x4010020000 img (qc clD)) ⟨(by decide +kernel), (by decide +kernel), (by decide +kernel), ⟨(by decide +kernel), ⟨(by decide +kernel), ⟨(by decide +kernel), ⟨(by decide +kernel), ⟨(by decide +kernel), ⟨(by decide +kernel), (by decide +kernel)⟩⟩⟩⟩⟩⟩⟩ (by decide +kernel) ⟨(by decide +kernel), (by decide +kernel), (by decide +kernel)⟩ (pair_isOk (by decide +kernel)) (by decide +kernel)
    exact ⟨t, e⟩
  · obtain ⟨t, _, e, -⟩ := h.2.2.2.2 Instr.attn 7 2 0 (go (atD 0x28 0)).1 (go (atD 0x28 0)).2.1 (go (atD 0x28 0)).2.2.1 (go (atD 0x28 0)).2.2.2.1 (go (atD 0x28 0)).2.2.2.2 (cm (atD 0x28 0)) (qat (atD 0x28 0)) (attnStart 7 (7*256+2) (atD 0x28 0) (qat (atD 0x28 0))).1 (Or.inl ⟨rfl, by decide +kernel⟩) ⟨(by decide +kernel), (by decide +kernel), (by decide +kernel), ⟨(by decide +kernel), ⟨(by decide +kernel), ⟨(by decide +kernel), ⟨(by decide +kernel), ⟨(by decide +kernel), ⟨(by decide +kernel), (by decide +kernel)⟩⟩⟩⟩⟩⟩⟩ ⟨(by decide +kernel), (by decide +kernel), (by decide +kernel)⟩ (by decide +kernel) (by decide +kernel) (by decide +kernel) (by decide +kernel)
    exact ⟨t, e⟩

end H

namespace I

def win : Nat := 2^63 + 2^62 + 256 * 2^24 + 0x401000
def n7 : Nat := 7
def b0 : State := setOd (instKey 7 3) 8 (setOd (instKey 7 1) 1 (setOd (instKey 7 0x10) win (setOd (odKey 0x2802 1) 0x1107 (setOd (odKey 0x2803 1) 0x1107 (setOd (odKey 0x2804 1) 0x1107 (setReg (instPage 7 + 0x400) 1 (setReg (instPage 7 + 0x408) 1 (setReg (instPage 7 + 0x40C) 1 { up with pack := { up.pack with insts := [(7, { state := 1, gen := 5 })] } }))))))))
def qs (x : Queue) : State := setReg (qReg 7 2 0) 0x4010000000 (setReg (qReg 7 2 8) 0x4010010000 (setReg (qReg 7 2 0x10) (65536 + 6 + 6*256) { b0 with pack := { b0.pack with queues := [(7*256+2, x)] } }))
def q0 : State := setReg (qReg 7 2 0) 0x4010000000 (setReg (qReg 7 2 8) 0x4010010000 b0)
def ds (l : List Byte) : List Byte := l ++ zeros (64 - l.length)
def nopD : List Byte := ds [1, 0, 5, 0]
def cm (d : List Byte) : Cmd := { index := 9, desc := d, gen := 5 }
def qc (d : List Byte) : State := qs { state := 2, tail := 10, sqHead := 10, cmds := [cm d] }
def kw (t : Nat) (w : Nat) : List Byte := ds ([4, 0, 5, 0, 0, 0, 0, 0] ++ leBytes 2 5 ++ zeros 6 ++ leBytes 8 t ++ leBytes 4 w)
def ks (v : Nat) : List Byte := ds ([5, 0, 5, 0, 0, 0, 0, 0] ++ leBytes 2 5 ++ zeros 6 ++ leBytes 8 v)
def kk (s : State) : State := setOd (odKey 0x3520 6) (7 * 65536 + 7) { s with knots := [(5, 10)] }
def kwt : State := kk (qs { state := 2, tail := 10, sqHead := 10, cmds := [{ cm (kw 10 5) with started := true, begun := true, expires := some 1000500 }] })
def cpy : List Byte := ds ([8, 0, 5, 0, 0, 0, 0, 0] ++ leBytes 8 0x4010020000 ++ leBytes 8 0x4010030000 ++ leBytes 4 128 ++ leBytes 4 2 ++ leBytes 4 128 ++ leBytes 4 128)
def vec (v : Nat) : List Byte := ds ([0x18, 0, 5, 0, 0, 0, 0, 0] ++ leBytes 8 0x4010020000 ++ leBytes 8 (if vopBinary v || vopNorm v then 0x4010040000 else 0) ++ leBytes 8 0x4010030000 ++ leBytes 4 2 ++ leBytes 2 16 ++ [BitVec.ofNat 8 v, 0x11] ++ leBytes 4 64 ++ leBytes 4 64 ++ leBytes 4 64)
def cp1 (m : Nat) : List Byte := cpy.set 1 (BitVec.ofNat 8 m)
def cmR (m d b : Nat) : Cmd := { cm (cp1 m) with started := true, begun := true, gstart := 2000000, sets := { mcA := 1, ctA := 1, veA := 1, mcB := b, ctB := 0, veB := 0 }, tiles := 2, disp := d }
def til (l : List Nat) : Tile := { index := 0, engines := l, at' := 1000000, writes := [(0x4010030000, List.replicate 4 7)] }
def qr (c : Cmd) : State := qs { state := 2, tail := 10, sqHead := 10, cmds := [c] }
def sc : State := qr (cmR 0 0 0)
def c1 : Cmd := { cmR 0 1 0 with run := [til [0]] }
def c2 (m : Nat) : Cmd := { cmR m 1 2 with run := [til [0, 1]] }
def p1 (m : Nat) : State := setReg (instPage 7 + 0x404) 2 (setOd (odKey 0x2802 2) 0x1107 (qr (c2 m)))
def c5 : Cmd := { cmR 0 2 0 with started := false, done := 2, status := some 0 }
def s3 : State := qs { state := 2, tail := 10, sqHead := 10, cmds := [{ cm cpy with begun := true, status := some 3 }, cm nopD] }
def s4 : State := qs { state := 4, tail := 10, sqHead := 10, cmds := [{ cm cpy with begun := true, report := some 3 }, cm nopD] }
def sq : Seq := { state := 1, inst := 7, gen := 5, layers := 1, heads := 1, dim := 16, typ := 3, length := 8, swapAddr := 0x4010050000, swapBytes := 65536 }
def kb (q : Seq) : State := setOd (instKey 7 0x29) (4 * 65536 + 4) (setOd (instKey 7 0x28) 16 { b0 with kennel := { base := 0x1000, size := 8, seqs := [(5, q)] } })
def ka : State := setReg (instPage 7 + 0x610) (1 * 2^24 + 1 * 2^16 + 3 * 2^12 + 16) (setReg (instPage 7 + 0x600) 0x4010050000 (setReg (instPage 7 + 0x608) 65536 (kb sq)))
def kx : Seq := { state := 1, inst := 7, gen := 5, prio := 0, layers := 1, heads := 1, dim := 16, typ := 3, swapAddr := 0x4010050000, swapBytes := 65536 }
def ss (n : Nat) : State := kb { sq with state := n, image := seqDesc 5 sq }
def kq (st len : Nat) (pg : List Page) : Seq := { sq with state := st, length := len, pages := pg, image := seqDesc 5 { sq with state := 2, length := len } }
def kz (st len : Nat) (pg : List Page) : State := memPut 0x4010050000 (kq st len pg).image (kb (kq st len pg))
def ku : State := putSeq 5 { getSeq (kz 3 0 []) 5 with state := 4 } (kseqResult 7 0 5 (kz 3 0 []))
def kw0 : State := memPut 0x4202400000 [1,2] { (kb sq) with kennel := { (kb sq).kennel with zeroing := [(0x4202400000, 0)] } }
def ky : State := { (kz 4 8 [⟨0x4202400000, 0, 0, 32⟩]) with kennel := { (kz 4 8 [⟨0x4202400000, 0, 0, 32⟩]).kennel with waits := [(5, 0, 999)] } }

theorem wit_PackTilesCommitAndComplete (h : Obligations.PackTilesCommitAndComplete) :
    (∃ t, exec (Instr.tileStart 7 2 false) sc = .next t) ∧
    (∃ t, exec (Instr.tileCommit 7 2 false []) (qr c1) = .next t) ∧
    (∃ t, exec (Instr.tileCommit 7 2 true []) (p1 1) = .next t) ∧
    (∃ t, exec (Instr.tileCommit 7 2 true []) (p1 17) = .next t) ∧
    (∃ t, exec (Instr.tileHang 7 2) (qr c1) = .next t) ∧
    (∃ t, exec (Instr.completionWrite 7 2) (qr c5) = .next t) ∧
    (∃ t, exec (Instr.completionWrite 7 2) s4 = .next t) ∧
    (dotAcc true (ofInt 5) (List.map ofInt ([3, 4])) (List.map ofInt ([5, 6])) = Acc.int (5 + List.sum (List.zipWith (fun x1 x2 => x1 * x2) ([3, 4]) ([5, 6])))) := by
  refine ⟨?_, ?_, ?_, ?_, ?_, ?_, ?_, ?_⟩
  · obtain ⟨t, e, -⟩ := h.1 7 2 0 [0] [] _ (cmR 0 0 0) sc _ (by decide +kernel) (by decide +kernel) (by decide +kernel) (by decide +kernel) (by decide +kernel) (by decide +kernel) (by decide +kernel) (by decide +kernel) (by decide +kernel) (pair_some (by decide +kernel)) (by decide +kernel)
    exact ⟨t, e⟩
  · obtain ⟨t, _, e, -⟩ := h.2.1 7 2 0 c1 (til [0]) (qr c1) (by decide +kernel) (by decide +kernel) (by decide +kernel) (by decide +kernel) (by decide +kernel) (by decide +kernel) (by decide +kernel) (by decide +kernel)
    exact ⟨t, e⟩
  · obtain ⟨t, e, -⟩ := h.2.2.1 7 2 0 (c2 1) (til [0, 1]) (p1 1) (by decide +kernel) (by decide +kernel) (by decide +kernel) (by decide +kernel) (by decide +kernel) (by decide +kernel)
    exact ⟨t, e⟩
  · obtain ⟨t, e, -⟩ := h.2.2.2.1 7 2 0 (c2 17) (til [0, 1]) (p1 17) (by decide +kernel) (by decide +kernel) (by decide +kernel) (by decide +kernel) (by decide +kernel) (by decide +kernel) (by decide +kernel)
    exact ⟨t, e⟩
  · obtain ⟨t, e, -⟩ := h.2.2.2.2.1 7 2 0 c1 (til [0]) (qr c1) (by decide +kernel) (by decide +kernel) (by decide +kernel)
    exact ⟨t, e⟩
  · obtain ⟨t, e, -⟩ := h.2.2.2.2.2.1 7 2 c5 [] _ (qr c5) (by decide +kernel) (by decide +kernel) (by decide +kernel) (by decide +kernel) (by decide +kernel) (Option.some_get (by decide +kernel)).symm (by decide +kernel) (by decide +kernel)
    exact ⟨t, e⟩
  · obtain ⟨t, e, -⟩ := h.2.2.2.2.2.2.1 7 2 { cm cpy with begun := true, report := some 3 } [cm nopD] _ s4 (by decide +kernel) (by decide +kernel) (by decide +kernel) (by decide +kernel) (Option.some_get (by decide +kernel)).symm (by decide +kernel)
    exact ⟨t, e⟩
  · exact h.2.2.2.2.2.2.2.1 5 [3, 4] [5, 6] (by decide +kernel) (by decide +kernel)

theorem wit_KennelSequencesAreManaged (h : Obligations.KennelSequencesAreManaged) :
    (∃ t, exec (Instr.kseqAlloc 7 (acc (instPage 7 + 0x618))) ka = .next t) ∧
    (∃ t, exec (Instr.kseqFree 7 (acc (instPage 7 + 0x618)) 5) (kb { sq with pages := [⟨0x4020000000, 3, 0, 8⟩] }) = .next t) ∧
    (∃ t, exec (Instr.kseqTrim 7 (acc (instPage 7 + 0x618)) 5) (setReg (instPage 7 + 0x614) 6 (kb sq)) = .next t) ∧
    (∃ t, exec (Instr.kseqResume 7 (acc (instPage 7 + 0x618)) 5) (kb sq) = .next t) ∧
    (∃ t, exec (Instr.kseqResume 7 (acc (instPage 7 + 0x618)) 5) (kz 3 0 []) = .next t) ∧
    (∃ t, exec (Instr.kseqQuery 7 (acc (instPage 7 + 0x618)) 5) (kb sq) = .next t) ∧
    (∃ t, exec (Instr.kseqQuery 7 (acc (instPage 7 + 0x618)) 9) (kb sq) = .next t) := by
  refine ⟨?_, ?_, ?_, ?_, ?_, ?_, ?_⟩
  · obtain ⟨t, e, -⟩ := h.1 7 (acc (instPage 7 + 0x618)) 4 kx ka ⟨(by decide +kernel), (by decide +kernel), (exists_ok (by decide +kernel))⟩ (by decide +kernel) (by decide +kernel) (by decide +kernel) (by decide +kernel) (by decide +kernel) (by decide +kernel) (by decide +kernel) (by decide +kernel) (by decide +kernel) (by decide +kernel) (by decide +kernel) (by decide +kernel) (by decide +kernel) (by decide +kernel) (by decide +kernel) (by decide +kernel) (by decide +kernel) (by decide +kernel)
    exact ⟨t, e⟩
  · obtain ⟨t, e, -⟩ := h.2.1 7 (acc (instPage 7 + 0x618)) 5 (kb { sq with pages := [⟨0x4020000000, 3, 0, 8⟩] }) ⟨(by decide +kernel), (by decide +kernel), (exists_ok (by decide +kernel))⟩ (by decide +kernel) (by decide +kernel) (by decide +kernel) (by decide +kernel) (by decide +kernel) (by decide +kernel)
    exact ⟨t, e⟩
  · obtain ⟨t, e, -⟩ := h.2.2.1 7 (acc (instPage 7 + 0x618)) 5 (setReg (instPage 7 + 0x614) 6 (kb sq)) ⟨(by decide +kernel), (by decide +kernel), (exists_ok (by decide +kernel))⟩ (by decide +kernel) (by decide +kernel) (by decide +kernel) (by decide +kernel) (by decide +kernel)
    exact ⟨t, e⟩
  · obtain ⟨t, e, -⟩ := h.2.2.2.1 7 (acc (instPage 7 + 0x618)) 5 (kb sq) ⟨(by decide +kernel), (by decide +kernel), (exists_ok (by decide +kernel))⟩ (by decide +kernel) (by decide +kernel) (by decide +kernel) (by decide +kernel)
    exact ⟨t, e⟩
  · obtain ⟨t, e, -⟩ := h.2.2.2.2.1 7 (acc (instPage 7 + 0x618)) 5 (kz 3 0 []) ku (tryAlloc 5 0 ku).1 ⟨(by decide +kernel), (by decide +kernel), (exists_ok (by decide +kernel))⟩ (by decide +kernel) (by decide +kernel) (by decide +kernel) (by decide +kernel) (by decide +kernel) (by decide +kernel) (by decide +kernel)
    exact ⟨t, e⟩
  · obtain ⟨t, e, -⟩ := h.2.2.2.2.2.1 7 (acc (instPage 7 + 0x618)) 5 (kb sq) ⟨(by decide +kernel), (by decide +kernel), (exists_ok (by decide +kernel))⟩ (by decide +kernel) (by decide +kernel) (by decide +kernel)
    exact ⟨t, e⟩
  · obtain ⟨t, e, -⟩ := h.2.2.2.2.2.2 7 (acc (instPage 7 + 0x618)) 9 (kb sq) ⟨(by decide +kernel), (by decide +kernel), (exists_ok (by decide +kernel))⟩ (by decide +kernel) (by decide +kernel) (by decide +kernel)
    exact ⟨t, e⟩

theorem wit_KennelSwapsAndPages (h : Obligations.KennelSwapsAndPages) :
    (∃ t, exec (Instr.swapOutDone 5) (kb { sq with state := 2, pages := [⟨0x4202400000, 0, 0, 32⟩] }) = .next t) ∧
    (∃ t, exec (Instr.swapInDone 5) (kz 4 8 [⟨0x4202400000, 0, 0, 32⟩]) = .next t) ∧
    (∃ t, exec (Instr.pageZeroed 283505590272) kw0 = .next t) ∧
    (∃ t, exec (Instr.kennelAllocGrant 5) ky = .next t) := by
  refine ⟨?_, ?_, ?_, ?_⟩
  · obtain ⟨t, e, -⟩ := h.1 5 _ _ (kb { sq with state := 2, pages := [⟨0x4202400000, 0, 0, 32⟩] }) _ (by decide +kernel) (by decide +kernel) (by decide +kernel) rfl (by decide +kernel) (pair_some (by decide +kernel)) (by decide +kernel)
    exact ⟨t, e⟩
  · obtain ⟨t, e, -⟩ := h.2.1 5 _ _ (kz 4 8 [⟨0x4202400000, 0, 0, 32⟩]) _ (by decide +kernel) (by decide +kernel) rfl (by decide +kernel) (by decide +kernel) (by decide +kernel) (pair_some (by decide +kernel)) (by decide +kernel)
    exact ⟨t, e⟩
  · obtain ⟨t, e, -⟩ := h.2.2.1 0x4202400000 0 kw0 (by decide +kernel)
    exact ⟨t, e⟩
  · obtain ⟨t, e, -⟩ := h.2.2.2 5 999 ky (tryAlloc 5 8 ky).1 (by decide +kernel) (by decide +kernel) (by decide +kernel)
    exact ⟨t, e⟩

end I

namespace J

def mc : Macro := { ready := true, crc := 5, calAt := 900000, calTemp := 40 }
def cmS (ct : CimTile) (m : Macro) : State := { up with cim := { tiles := [(3, ct)], macros := [(3*64+9, m)], cells := [(5, [1,2])] } }
def md : Macro := { mc with due := some 950000 }
def slt (a n typ inst : Nat) : List Byte := leBytes 2 a ++ leBytes 2 n ++ [BitVec.ofNat 8 typ, BitVec.ofNat 8 inst, 0, 0] ++ leBytes 4 3 ++ leBytes 2 1 ++ [0, 0] ++ zeros 2 ++ leBytes 2 255 ++ zeros 12
def tbl : List Byte := zeros 6 ++ leBytes 2 2 ++ leBytes 2 20 ++ zeros 54 ++ slt 0 10 0 7 ++ slt 10 5 0 8
def rs (t : Nat) : State := setBlob (odKey 0x2900 1) tbl (setOd (odKey 0x2900 4) 500 { up with pack := { up.pack with table := t, frameAt := 1000500, insts := [(7, { state := 1 }), (8, { state := 1 })] } })
def scr : State := { (ses 4 { (cmS { cal := some (9, 1000100), temp := 77 } md) with pack := { up.pack with insts := [(7, {})], scrub := some 1000000 }, kennel := { base := 16, size := 8, seqs := [(3, {})], zeroing := [(5,3)], waits := [(1,2,3)] } }) with leash := { (ses 4 up).leash with scrubReply := some (msg 4 (odKey 0x2805 1) [1]) } }

theorem wit_CimMacrosAreCalibrated (h : Obligations.CimMacrosAreCalibrated) :
    (∃ t, exec (Instr.calDue 3 9 41) (cmS {} mc) = .next t) ∧
    (∃ t, exec (Instr.calibrationStart 3) (cmS {} md) = .next t) ∧
    (∃ t, exec (Instr.calibrationDone 3 ([(1, 2), (4095, 4095)]) true) (cmS { cal := some (9, 1000100), temp := 77 } md) = .next t) ∧
    (∃ t, exec (Instr.calibrationDone 3 ([(1, 2), (4095, 4095)]) false) (cmS { cal := some (9, 1000100), temp := 77 } md) = .next t) ∧
    (∃ t, exec (Instr.calOverdue 3 9) (cmS {} md) = .next t) := by
  refine ⟨?_, ?_, ?_, ?_, ?_⟩
  · obtain ⟨t, e, -⟩ := h.1 3 9 41 _ (cmS {} mc) (by decide +kernel) rfl (by decide +kernel) (by decide +kernel)
    exact ⟨t, e⟩
  · obtain ⟨t, e, -⟩ := h.2.1 3 9 (cmS {} md) (by decide +kernel) (by decide +kernel) (by decide +kernel) (by decide +kernel) (by decide +kernel) (by decide +kernel)
    exact ⟨t, e⟩
  · obtain ⟨t, e, -⟩ := h.2.2.1 3 9 _ [(1, 2), (4095, 4095)] (cmS { cal := some (9, 1000100), temp := 77 } md) (by decide +kernel) (some_pair (by decide +kernel)) (by decide +kernel)
    exact ⟨t, e⟩
  · obtain ⟨t, e, -⟩ := h.2.2.2.1 3 9 _ [(1, 2), (4095, 4095)] (cmS { cal := some (9, 1000100), temp := 77 } md) (by decide +kernel) (by decide +kernel) (some_pair (by decide +kernel))
    exact ⟨t, e⟩
  · obtain ⟨t, e, -⟩ := h.2.2.2.2 3 9 _ (cmS {} md) (by decide +kernel) (by decide +kernel) (Option.some_get (by decide +kernel)).symm (by decide +kernel) (all_some (by decide +kernel))
    exact ⟨t, e⟩

theorem wit_RosterAndEnginesAreScheduled (h : Obligations.RosterAndEnginesAreScheduled) :
    (∃ t, exec Instr.rosterFrameStart (rs 1) = .next t) ∧
    (∃ t, exec Instr.rosterFrameStart ({ rs 0 with pack := { (rs 0).pack with switch := some 1 } }) = .next t) ∧
    (∃ t, exec (Instr.slotStart 1) (rs 1) = .next t) ∧
    (∃ t, exec (Instr.slotEnd 1) ({ rs 1 with pack := { (rs 1).pack with active := [1], begun := [0, 1] } }) = .next t) ∧
    (∃ t, exec (Instr.slowdownWindow 7 300 100) (rs 1) = .next t) ∧
    (∃ t, exec (Instr.engineKindWrite (msg 4 (odKey 0x2802 4) [0x11, 7])) (ses 4 (rs 0)) = .next t) ∧
    (∃ t, exec (Instr.packModeWrite (msg 4 (odKey 0x2805 1) [1])) (ses 4 (rs 0)) = .next t) ∧
    (∃ t, exec (Instr.packModeWrite (msg 4 (odKey 0x2805 2) [9])) (ses 4 (rs 0)) = .next t) ∧
    (∃ t, exec (Instr.packScrubDone 55) scr = .next t) := by
  refine ⟨?_, ?_, ?_, ?_, ?_, ?_, ?_, ?_, ?_⟩
  · obtain ⟨t, e, -⟩ := h.1 _ (rs 1) (by decide +kernel) (by decide +kernel) (by decide +kernel) (by decide +kernel) rfl
    exact ⟨t, e⟩
  · obtain ⟨t, e, -⟩ := h.2.1 1 { rs 0 with pack := { (rs 0).pack with switch := some 1 } } (by decide +kernel) (by decide +kernel) (by decide +kernel) (by decide +kernel) (by decide +kernel)
    exact ⟨t, e⟩
  · obtain ⟨t, e, -⟩ := h.2.2.1 1 (rs 1) (by decide +kernel) (by decide +kernel) (by decide +kernel) (by decide +kernel)
    exact ⟨t, e⟩
  · obtain ⟨t, e, -⟩ := h.2.2.2.1 1 { rs 1 with pack := { (rs 1).pack with active := [1], begun := [0, 1] } } (by decide +kernel) (by decide +kernel)
    exact ⟨t, e⟩
  · obtain ⟨t, e, -⟩ := h.2.2.2.2.1 7 300 100 _ _ (rs 1) (by decide +kernel) (by decide +kernel) rfl rfl
    exact ⟨t, e⟩
  · obtain ⟨t, e, -⟩ := h.2.2.2.2.2.1 (msg 4 (odKey 0x2802 4) [0x11, 7]) 0 (odKey 0x2802 4) 0x1107 3 (xr 4) (ses 4 (rs 0)) (by decide +kernel) ⟨⟨⟨(by decide +kernel), (by decide +kernel), rfl, (by decide +kernel)⟩, (by decide +kernel), (tagValid_signed (by decide +kernel)), (by decide +kernel), (by decide +kernel), (by decide +kernel), (by decide +kernel)⟩, (by decide +kernel), (by decide +kernel), (by decide +kernel), (by decide +kernel), (by decide +kernel), (exists_some (by decide +kernel))⟩
    exact ⟨t, e⟩
  · obtain ⟨t, e, -⟩ := h.2.2.2.2.2.2.1 (msg 4 (odKey 0x2805 1) [1]) 0 (odKey 0x2805 1) 1 (xr 4) (ses 4 (rs 0)) (by decide +kernel) ⟨⟨⟨(by decide +kernel), (by decide +kernel), rfl, (by decide +kernel)⟩, (by decide +kernel), (tagValid_signed (by decide +kernel)), (by decide +kernel), (by decide +kernel), (by decide +kernel), (by decide +kernel)⟩, (by decide +kernel), (by decide +kernel), (by decide +kernel), (by decide +kernel), (by decide +kernel), (exists_some (by decide +kernel))⟩ (by decide +kernel) (by decide +kernel)
    exact ⟨t, e⟩
  · obtain ⟨t, e, -⟩ := h.2.2.2.2.2.2.2.1 (msg 4 (odKey 0x2805 2) [9]) 0 (odKey 0x2805 2) 9 (xr 4) (ses 4 (rs 0)) (by decide +kernel) ⟨⟨⟨(by decide +kernel), (by decide +kernel), rfl, (by decide +kernel)⟩, (by decide +kernel), (tagValid_signed (by decide +kernel)), (by decide +kernel), (by decide +kernel), (by decide +kernel), (by decide +kernel)⟩, (by decide +kernel), (by decide +kernel), (by decide +kernel), (by decide +kernel), (by decide +kernel), (exists_some (by decide +kernel))⟩ (by decide +kernel)
    exact ⟨t, e⟩
  · obtain ⟨t, e, -⟩ := h.2.2.2.2.2.2.2.2 55 _ scr (Option.some_get (by decide +kernel)).symm
    exact ⟨t, e⟩

end J

namespace K

def k0 : State := setOd (instKey 7 3) 4 (setOd (instKey 7 4) 100 up)
def k1 : State := setOd (instKey 7 1) 1 { k0 with pack := { k0.pack with insts := [(7, { state := 1, gen := 255, cfgGen := 65535 })] } }
def k2 : State := { k1 with pack := { k1.pack with insts := [(7, { state := 1, gen := 255, late := [(3, nextGen 255)] })] } }
def cv : CamStream := { on := true, mark := 999000, nextBuf := 3 }
def cs (v : CamStream) : State := setOd (camKey 9 2) 1 (setOd (camKey 9 3) 2 (setOd (camKey 9 4) 0x1E (setOd (camKey 9 5) 20 (setOd (camKey 9 6) 8 (setOd (camKey 9 0x0A) 16
  (setReg (camReg 9 0) 0x4010000000 (setReg (camReg 9 8) 0x4010100000 (setReg (camReg 9 0x18) 4 (setReg (camReg 9 0x1C) 512 (setReg (camReg 9 0x20) 4 (setOd (camKey 9 0x0B) 0xFFFF { up with cams := [(9, v)] })))))))))))
def cf : CamFrame := { gstart := 5, kept := true, buffer := 2, seq := 7, packets := 4, lines := 3 }
def ct : CamFrame := { cf with lines := 8, emb := 2, counter := some 89, endAt := 999900, gend := 444 }
def c3 (b : Bool) : State := setOd (camKey 9 0x0D) (b2n b) (cs { cv with tail := some ct, prev := some 88 })
def c4 (b : Bool) : State := setOd (camKey 9 0x0D) (b2n b) (cs { cv with tail := some ct })

theorem wit_InstancesComeAndGo (h : Obligations.InstancesComeAndGo) :
    (∃ t, exec (Instr.instanceCreate (msg 4 (instKey 7 1) [1])) (ses 4 k0) = .next t) ∧
    (∃ t, exec (Instr.instanceReset 7 (acc (instPage 7 + 0x2C)) none) k1 = .next t) ∧
    (Inst.state (getInst (ses 4 k1) ↑7) = 1 ∧ ∃ t, exec (Instr.instanceReset 7 (acc (instPage 7 + 0x2C)) (some (msg 4 (instKey 7 2) [1]))) (ses 4 k1) = Host.Outcome.next t ∧ AnsweredDone (msg 4 (instKey 7 2) [1]) 0 (xr 4) (ses 4 k1) t ∧ (∀ (q : Nat), q < 256 → getQ t (↑7) q = { }) ∧ Inst.cfgGen (getInst t ↑7) = Inst.cfgGen (getInst (ses 4 k1) ↑7) ∧ (Inst.state (getInst t ↑7) = 1 ∧ Inst.gen (getInst t ↑7) = nextGen (Inst.gen (getInst (ses 4 k1) ↑7)) ∧ Inst.waitBy (getInst t ↑7) = none ∨ Inst.state (getInst t ↑7) = 2 ∧ Inst.gen (getInst t ↑7) = Inst.gen (getInst (ses 4 k1) ↑7) ∧ Inst.waitBy (getInst t ↑7) = some (State.now (ses 4 k1) + ms 100) ∧ genCollides (getInst t ↑7) = true) ∧ Frame (Part.mem :: Part.memCtl :: Part.sec :: Part.cim :: Part.kennel :: Part.leash :: Part.hold :: alarmParts) (ses 4 k1) t) ∧
    (∃ t, exec (Instr.instanceRemove (msg 4 (instKey 7 1) [0])) (ses 4 k1) = .next t) ∧
    (∃ t, exec (Instr.generationWaitEnd 7) ({ k1 with pack := { k1.pack with insts := [(7, { state := 3, gen := 255, waitBy := some 5 })] } }) = .next t) ∧
    (∃ t, exec (Instr.generationWaitTimeout 7) ({ k1 with pack := { k1.pack with insts := [(7, { state := 2, gen := 255, late := [(3, nextGen 255)], waitBy := some 5, cfgDue := true })] } }) = .next t) := by
  refine ⟨?_, ?_, ?_, ?_, ?_, ?_⟩
  · obtain ⟨t, e, -⟩ := h.1 (msg 4 (instKey 7 1) [1]) 0 7 (xr 4) (ses 4 k0) ⟨⟨⟨(by decide +kernel), (by decide +kernel), rfl, (by decide +kernel)⟩, (by decide +kernel), (tagValid_signed (by decide +kernel)), (by decide +kernel), (by decide +kernel), (by decide +kernel), (by decide +kernel)⟩, (by decide +kernel), (by decide +kernel), (by decide +kernel), (by decide +kernel), (by decide +kernel), (exists_some (by decide +kernel))⟩ (by decide +kernel) (by decide +kernel)
    exact ⟨t, e⟩
  · obtain ⟨t, e, -⟩ := h.2.1 7 (acc (instPage 7 + 0x2C)) k1 ⟨(by decide +kernel), (by decide +kernel), (exists_ok (by decide +kernel))⟩ (by decide +kernel) (by decide +kernel) (by decide +kernel) (by decide +kernel)
    exact ⟨t, e⟩
  · exact h.2.2.1 7 (acc (instPage 7 + 0x2C)) (msg 4 (instKey 7 2) [1]) 0 1 (xr 4) (ses 4 k1) ⟨⟨⟨(by decide +kernel), (by decide +kernel), rfl, (by decide +kernel)⟩, (by decide +kernel), (tagValid_signed (by decide +kernel)), (by decide +kernel), (by decide +kernel), (by decide +kernel), (by decide +kernel)⟩, (by decide +kernel), (by decide +kernel), (by decide +kernel), (by decide +kernel), (by decide +kernel), (exists_some (by decide +kernel))⟩
  · obtain ⟨t, e, -⟩ := h.2.2.2.1 (msg 4 (instKey 7 1) [0]) 0 7 (xr 4) (ses 4 k1) ⟨⟨⟨(by decide +kernel), (by decide +kernel), rfl, (by decide +kernel)⟩, (by decide +kernel), (tagValid_signed (by decide +kernel)), (by decide +kernel), (by decide +kernel), (by decide +kernel), (by decide +kernel)⟩, (by decide +kernel), (by decide +kernel), (by decide +kernel), (by decide +kernel), (by decide +kernel), (exists_some (by decide +kernel))⟩ (by decide +kernel) (by decide +kernel) (by decide +kernel)
    exact ⟨t, e⟩
  · obtain ⟨t, e, -⟩ := h.2.2.2.2.1 7 { k1 with pack := { k1.pack with insts := [(7, { state := 3, gen := 255, waitBy := some 5 })] } } (by decide +kernel) (by decide +kernel) (by decide +kernel)
    exact ⟨t, e⟩
  · obtain ⟨t, e, -⟩ := h.2.2.2.2.2 7 _ { k1 with pack := { k1.pack with insts := [(7, { state := 2, gen := 255, late := [(3, nextGen 255)], waitBy := some 5, cfgDue := true })] } } (by decide +kernel) (by decide +kernel) (Option.some_get (by decide +kernel)).symm (by decide +kernel)
    exact ⟨t, e⟩

theorem wit_CameraFramesAreTaken (h : Obligations.CameraFramesAreTaken) :
    (∃ t, exec (Instr.frameStartPacket 1 2) (cs cv) = .next t) ∧
    (∃ t, exec (Instr.csiLongPacket 1 2 30 HeaderEcc.bad true []) (cs cv) = .next t) ∧
    (∃ t, exec (Instr.csiLongPacket 1 2 62 HeaderEcc.clean true []) (cs cv) = .next t) ∧
    (∃ t, exec (Instr.csiLongPacket 1 2 30 HeaderEcc.clean true (List.replicate 40 9)) (cs { cv with frame := some cf }) = .next t) ∧
    (∃ t, exec (Instr.embeddedDataPacket 1 2 (leBytes 4 88 ++ (patBytes 12 (patSeed 88)).2)) (cs { cv with frame := some { cf with packets := 0, lines := 0 } }) = .next t) ∧
    (∃ t, exec (Instr.frameEndPacket 1 2) (cs { cv with frame := some cf }) = .next t) := by
  refine ⟨?_, ?_, ?_, ?_, ?_, ?_⟩
  · obtain ⟨t, e, -⟩ := h.1 1 2 _ _ (cs cv) (by decide +kernel) (Option.some_get (by decide +kernel)).symm (by decide +kernel) (by decide +kernel) rfl
    exact ⟨t, e⟩
  · obtain ⟨t, e, -⟩ := h.2.1 1 2 0x1E true [] (cs cv) (by decide +kernel)
    exact ⟨t, e⟩
  · obtain ⟨t, e, -⟩ := h.2.2.1 1 2 0x3E .clean true [] (cs cv) (by decide +kernel) (by decide +kernel) (by decide +kernel)
    exact ⟨t, e⟩
  · obtain ⟨t, e, -⟩ := h.2.2.2.1 1 2 .clean (List.replicate 40 9) _ _ (cs { cv with frame := some cf }) (by decide +kernel) (by decide +kernel) (Option.some_get (by decide +kernel)).symm (by decide +kernel) (by decide +kernel) (by decide +kernel) (by decide +kernel) (Option.some_get (by decide +kernel)).symm (by decide +kernel) (by decide +kernel)
    exact ⟨t, e⟩
  · obtain ⟨t, e, -⟩ := h.2.2.2.2.1 1 2 (leBytes 4 88 ++ (patBytes 12 (patSeed 88)).2) _ 88 _ (cs { cv with frame := some { cf with packets := 0, lines := 0 } }) (by decide +kernel) (Option.some_get (by decide +kernel)).symm (by decide +kernel) (Option.some_get (by decide +kernel)).symm (by decide +kernel) (by decide +kernel) (by decide +kernel) (by decide +kernel) (by decide +kernel)
    exact ⟨t, e⟩
  · obtain ⟨t, e, -⟩ := h.2.2.2.2.2 1 2 _ _ (cs { cv with frame := some cf }) (by decide +kernel) (Option.some_get (by decide +kernel)).symm (by decide +kernel) (Option.some_get (by decide +kernel)).symm (by decide +kernel)
    exact ⟨t, e⟩

set_option maxRecDepth 1000000 in
theorem wit_CameraRecordsAndStreams (h : Obligations.CameraRecordsAndStreams) :
    (∃ t, exec (Instr.testLinesAtDma 9 (testLines (c3 true) 9 7)) (c3 true) = .next t) ∧
    (∃ t, exec (Instr.testLinesAtDma 9 [1]) (c4 true) = .next t) ∧
    (∃ t, exec (Instr.testLineTimeout 9) (c4 true) = .next t) ∧
    (∃ t, exec (Instr.frameTimeout 9) (setOd (camKey 9 0x0C) 20 (c4 true)) = .next t) ∧
    (∃ t, exec (Instr.releasedWrite 9 (acc (camReg 9 0x28)) 1) (setReg (camReg 9 0x24) 4 (cs cv)) = .next t) ∧
    (∃ t, exec (Instr.releasedWrite 9 (acc (camReg 9 0x28)) 5) (setReg (camReg 9 0x24) 4 (cs cv)) = .next t) ∧
    (∃ t, exec (Instr.streamEnable (msg 4 (camKey 9 1) [1])) (ses 4 (cs {})) = .next t) ∧
    (∃ t, exec (Instr.streamDisable (msg 4 (camKey 9 1) [0])) (ses 4 (setOd (camKey 9 1) 1 (c4 true))) = .next t) := by
  refine ⟨?_, ?_, ?_, ?_, ?_, ?_, ?_, ?_⟩
  · obtain ⟨t, e, -⟩ := h.1 9 (testLines (c3 true) 9 7) _ _ _ _ _ (c3 true) (by decide +kernel) (Option.some_get (by decide +kernel)).symm (by decide +kernel) (Option.some_get (by decide +kernel)).symm (by decide +kernel) (Option.some_get (by decide +kernel)).symm (by decide +kernel) (by decide +kernel) (by decide +kernel) (by decide +kernel) (by decide +kernel) (by decide +kernel) (by decide +kernel) (by decide +kernel) rfl rfl
    exact ⟨t, e⟩
  · obtain ⟨t, e, -⟩ := h.2.1 9 [1] _ (c4 true) (by decide +kernel) (by decide +kernel) (Option.some_get (by decide +kernel)).symm (by decide +kernel) (by decide +kernel)
    exact ⟨t, e⟩
  · obtain ⟨t, e, -⟩ := h.2.2.1 9 _ (c4 true) (by decide +kernel) (by decide +kernel) (Option.some_get (by decide +kernel)).symm (by decide +kernel)
    exact ⟨t, e⟩
  · obtain ⟨t, e, -⟩ := h.2.2.2.1 9 (setOd (camKey 9 0x0C) 20 (c4 true)) (by decide +kernel) (by decide +kernel) (by decide +kernel)
    exact ⟨t, e⟩
  · obtain ⟨t, e, -⟩ := h.2.2.2.2.1 9 (acc (camReg 9 0x28)) 1 _ _ (setReg (camReg 9 0x24) 4 (cs cv)) rfl ⟨(by decide +kernel), (by decide +kernel), (exists_ok (by decide +kernel))⟩ (some_pair (by decide +kernel)) (by decide +kernel)
    exact ⟨t, e⟩
  · obtain ⟨t, e, -⟩ := h.2.2.2.2.2.1 9 (acc (camReg 9 0x28)) 5 _ (setReg (camReg 9 0x24) 4 (cs cv)) rfl ⟨(by decide +kernel), (by decide +kernel), (exists_ok (by decide +kernel))⟩ (by decide +kernel)
    exact ⟨t, e⟩
  · obtain ⟨t, e, -⟩ := h.2.2.2.2.2.2.1 (msg 4 (camKey 9 1) [1]) 0 9 (xr 4) (ses 4 (cs {})) ⟨⟨⟨(by decide +kernel), (by decide +kernel), rfl, (by decide +kernel)⟩, (by decide +kernel), (tagValid_signed (by decide +kernel)), (by decide +kernel), (by decide +kernel), (by decide +kernel), (by decide +kernel)⟩, (by decide +kernel), (by decide +kernel), (by decide +kernel), (by decide +kernel), (by decide +kernel), (exists_some (by decide +kernel))⟩ (by decide +kernel)
    exact ⟨t, e⟩
  · obtain ⟨t, e, -⟩ := h.2.2.2.2.2.2.2 (msg 4 (camKey 9 1) [0]) 0 9 (xr 4) (ses 4 (setOd (camKey 9 1) 1 (c4 true))) ⟨⟨⟨(by decide +kernel), (by decide +kernel), rfl, (by decide +kernel)⟩, (by decide +kernel), (tagValid_signed (by decide +kernel)), (by decide +kernel), (by decide +kernel), (by decide +kernel), (by decide +kernel)⟩, (by decide +kernel), (by decide +kernel), (by decide +kernel), (by decide +kernel), (by decide +kernel), (exists_some (by decide +kernel))⟩ (by decide +kernel)
    exact ⟨t, e⟩

end K

namespace L

def win : Nat := 2^63 + 2^62 + 256 * 2^24 + 0x401000
def gq (x : GfxQueue) : State := setReg (gReg 3 0x18) (65536 + 4 + 4*256) (setReg (gReg 3 0) 0x4010000000 (setReg (gReg 3 8) 0x4010001000 (setOd (gKey 3 0x10) win { up with gfx := { up.gfx with queues := [(3, x)] } })))
def ge (a n : Nat) : List Byte := [1, 0, 0, 0, 7, 0, 0, 0] ++ leBytes 8 a ++ leBytes 4 n ++ leBytes 2 0xFFFF ++ leBytes 2 0xFFFF ++ zeros 40
def sb : GfxSub := { entry := ge 0x4010002000 64, begun := true }
def gm (a n : Nat) : State := memPut 0x4010000000 (ge a n) (gq { state := 2, tail := 3 })
def g1 : State := gq { state := 2, tail := 3, sqHead := 1, subs := [{ entry := ge 0x4010002000 64 }] }
def g17 : State := setReg (gReg 17 0x18) (65536 + 4 + 4*256) (setReg (gReg 17 0) 0x4010000000 (setReg (gReg 17 8) 0x4010001000 (setOd (gKey 17 0x10) win { up with gfx := { up.gfx with queues := [(17, { state := 2, tail := 3, sqHead := 1, subs := [{ entry := ge 0x4010002000 64 }] })] } })))
def gr : State := { gq { state := 2, tail := 3, sqHead := 1, subs := [{ sb with wins := [win] }] } with gfx := { queues := [(3, { state := 2, tail := 3, sqHead := 1, subs := [{ sb with wins := [win] }] })], run := some 3, ranAt := 999000 } }
def lw : List LineWrite := [{ line := 0x4010004000, bytes := [some 5] }, { line := 0x4010004040, bytes := List.replicate 64 (some 7) }]
def pp (v : Pipe) : State := { up with pipes := [(2, v)] }
def oset (f : Nat) : OvlSet := { frame := f, mask := 2, addr := 0x4010000000, regions := [[], [1, 1, 2, 2]], crcs := [0, crc32c (zeros 12)] }
def po : State := setSt (pKey 2 6) 1 (pp { on := true, frameAt := some 999000, inUse := some (oset 4) })
def tim : List Byte := leBytes 4 1000 ++ leBytes 2 100 ++ leBytes 2 10 ++ leBytes 2 10 ++ leBytes 2 10 ++ leBytes 2 100 ++ leBytes 2 1 ++ leBytes 2 1 ++ leBytes 2 1 ++ zeros 4
def pe : State := setBlob (pKey 2 5) tim (setReg (oReg 2 0x48) 0x00010001 (setReg (oReg 2 0x4C) 0x00020002 po))

theorem wit_RasterQueuesAreControlled (h : Obligations.RasterQueuesAreControlled) :
    (∃ t, exec (Instr.gfxDoorbell 3 (acc (gReg 3 0x1C)) 5) (gq { state := 1 }) = .next t) ∧
    (∃ t, exec (Instr.gfxDoorbell 3 (acc (gReg 3 0x1C)) 17) (gq { state := 1 }) = .next t) ∧
    (∃ t, exec (Instr.gfxQueueStop 3 (acc (gReg 3 0x2C))) (gq { state := 2, tail := 3 }) = .next t) ∧
    (∃ t, exec (Instr.gfxQueueStart 3 (acc (gReg 3 0x2C))) (gq { state := 4, tail := 3 }) = .next t) ∧
    (∃ t, exec (Instr.gfxQueueFlush 3 (acc (gReg 3 0x2C))) (gq { state := 4, tail := 3, subs := [sb] }) = .next t) ∧
    (∃ t, exec (Instr.gfxSubmissionFetch 3) (gm 0x4010002000 64) = .next t) ∧
    (∃ t, exec (Instr.gfxSubmissionFetch 3) (gm 0x4010002000 0) = .next t) := by
  refine ⟨?_, ?_, ?_, ?_, ?_, ?_, ?_⟩
  · obtain ⟨t, e, -⟩ := h.1 3 (acc (gReg 3 0x1C)) 5 (gq { state := 1 }) ⟨(by decide +kernel), (by decide +kernel), (exists_ok (by decide +kernel))⟩ (by decide +kernel) (by decide +kernel) (by decide +kernel) (by decide +kernel)
    exact ⟨t, e⟩
  · obtain ⟨t, e, -⟩ := h.2.1 3 (acc (gReg 3 0x1C)) 17 (gq { state := 1 }) ⟨(by decide +kernel), (by decide +kernel), (exists_ok (by decide +kernel))⟩ (by decide +kernel) (by decide +kernel)
    exact ⟨t, e⟩
  · obtain ⟨t, e, -⟩ := h.2.2.1 3 (acc (gReg 3 0x2C)) (gq { state := 2, tail := 3 }) ⟨(by decide +kernel), (by decide +kernel), (exists_ok (by decide +kernel))⟩ (by decide +kernel) (by decide +kernel)
    exact ⟨t, e⟩
  · obtain ⟨t, e, -⟩ := h.2.2.2.1 3 (acc (gReg 3 0x2C)) (gq { state := 4, tail := 3 }) ⟨(by decide +kernel), (by decide +kernel), (exists_ok (by decide +kernel))⟩ (by decide +kernel) (by decide +kernel)
    exact ⟨t, e⟩
  · obtain ⟨t, e, -⟩ := h.2.2.2.2.1 3 (acc (gReg 3 0x2C)) (gq { state := 4, tail := 3, subs := [sb] }) ⟨(by decide +kernel), (by decide +kernel), (exists_ok (by decide +kernel))⟩ (by decide +kernel) (by decide +kernel) (by decide +kernel)
    exact ⟨t, e⟩
  · obtain ⟨t, e, -⟩ := h.2.2.2.2.2.1 3 _ (gm 0x4010002000 64) _ (by decide +kernel) (by decide +kernel) (by decide +kernel) (by decide +kernel) (by decide +kernel) (by decide +kernel) (pair_some (by decide +kernel)) (by decide +kernel)
    exact ⟨t, e⟩
  · obtain ⟨t, e, -⟩ := h.2.2.2.2.2.2 3 (ge 0x4010002000 0) _ (gm 0x4010002000 0) (readRange 0x4010000000 64 (gm 0x4010002000 0)).1 (by decide +kernel) (by decide +kernel) (by decide +kernel) (by decide +kernel) (by decide +kernel) (by decide +kernel) (by decide +kernel) (by decide +kernel) (Option.some_get (by decide +kernel)).symm
    exact ⟨t, e⟩

theorem wit_RasterSubmissionsRun (h : Obligations.RasterSubmissionsRun) :
    (∃ t, exec (Instr.gfxSubmissionStart 3 true ([(3, 4)])) g1 = .next t) ∧
    (∃ t, exec (Instr.gfxSubmissionStart 17 true ([(3, 4)])) g17 = .next t) ∧
    (∃ t, exec (Instr.gfxPreemptionPoint 3 lw) gr = .next t) ∧
    (∃ t, exec (Instr.gfxSubmissionDone 3 2 lw none) gr = .next t) ∧
    (∃ t, exec (Instr.gfxSubmissionDone 3 2 [] (some (129, 85))) gr = .next t) ∧
    (∃ t, exec Instr.timesliceExpiry gr = .next t) ∧
    (∃ t, exec (Instr.preemptTimeout 3) ({ gr with gfx := { gr.gfx with yieldAt := some 999500 } }) = .next t) ∧
    (∃ t, exec (Instr.shaderFault 3) gr = .next t) ∧
    (∃ t, exec Instr.gfxCoreStopTimeout ({ gr with gfx := { gr.gfx with gmcStop := some 999500 } }) = .next t) := by
  refine ⟨?_, ?_, ?_, ?_, ?_, ?_, ?_, ?_, ?_⟩
  · obtain ⟨t, _, e, -⟩ := h.1 3 true [(3, 4)] _ g1 (by decide +kernel) (by decide +kernel) (by decide +kernel) (by decide +kernel) (Option.some_get (by decide +kernel)).symm (by decide +kernel)
    exact ⟨t, e⟩
  · obtain ⟨t, e, -⟩ := h.2.1 17 [(3, 4)] _ g17 (by decide +kernel) (by decide +kernel) (by decide +kernel) (by decide +kernel) (List.cons_head_tail (by decide +kernel)).symm (by decide +kernel)
    exact ⟨t, e⟩
  · obtain ⟨t, e, -⟩ := h.2.2.1 3 lw _ gr _ (by decide +kernel) (by decide +kernel) (Prod.eta _).symm (Option.some_get (by decide +kernel)).symm
    exact ⟨t, e⟩
  · obtain ⟨t, e, -⟩ := h.2.2.2.1 3 2 lw _ gr _ (by decide +kernel) (by decide +kernel) (Prod.eta _).symm (List.cons_head_tail (by decide +kernel)).symm (by decide +kernel) (by decide +kernel) (by decide +kernel)
    exact ⟨t, e⟩
  · obtain ⟨t, e, -⟩ := h.2.2.2.2.1 3 2 0x81 0x55 _ gr (by decide +kernel) (by decide +kernel) (List.cons_head_tail (by decide +kernel)).symm (by decide +kernel) (by decide +kernel) (by decide +kernel) (by decide +kernel)
    exact ⟨t, e⟩
  · obtain ⟨t, e, -⟩ := h.2.2.2.2.2.1 _ gr (by decide +kernel) (Option.some_get (by decide +kernel)).symm
    exact ⟨t, e⟩
  · obtain ⟨t, e, -⟩ := h.2.2.2.2.2.2.1 3 _ _ { gr with gfx := { gr.gfx with yieldAt := some 999500 } } (by decide +kernel) (by decide +kernel) (Option.some_get (by decide +kernel)).symm (List.cons_head_tail (by decide +kernel)).symm (by decide +kernel) (by decide +kernel)
    exact ⟨t, e⟩
  · obtain ⟨t, e, -⟩ := h.2.2.2.2.2.2.2.1 3 _ gr (by decide +kernel) (by decide +kernel) (List.cons_head_tail (by decide +kernel)).symm (by decide +kernel) (by decide +kernel)
    exact ⟨t, e⟩
  · obtain ⟨t, e, -⟩ := h.2.2.2.2.2.2.2.2 _ { gr with gfx := { gr.gfx with gmcStop := some 999500 } } (by decide +kernel) (by decide +kernel) (Option.some_get (by decide +kernel)).symm
    exact ⟨t, e⟩

theorem wit_DisplayPipesShowFrames (h : Obligations.DisplayPipesShowFrames) :
    (∃ t, exec (Instr.dispFrameStart 2) (pp { on := true, underflow := true }) = .next t) ∧
    (∃ t, exec (Instr.dispFrameStart 2) (setOd (pKey 2 7) 3 (setSt (pKey 2 6) 1 (pp { on := true, stale := 3, committed := some (oset 4) }))) = .next t) ∧
    (∃ t, exec (Instr.dispRegionCrc 2 1 []) po = .next t) ∧
    (∃ t, exec (Instr.scanoutUnderflow 2) po = .next t) ∧
    (∃ t, exec (Instr.planeAddrWrite 2 1 ({ acc (pReg 2 0x18) with bits := 64 }) 275146342464) po = .next t) ∧
    (∃ t, exec (Instr.planeAddrWrite 2 1 ({ acc (pReg 2 0x18) with bits := 64 }) 275146342465) po = .next t) ∧
    (∃ t, exec (Instr.expCommit 2 (accr 0x10 (oReg 2 0x100)) 131079) pe = .next t) ∧
    (∃ t, exec (Instr.expCommit 2 (accr 0x10 (oReg 2 0x100)) 262151) pe = .next t) ∧
    (∃ t, exec (Instr.pipeEnable (msg 4 (pKey 2 1) [1])) (ses 4 (pp { on := false })) = .next t) ∧
    (∃ t, exec (Instr.pipeEnable (msg 4 (pKey 2 1) [0])) (ses 4 (setOd (pKey 2 1) 1 po)) = .next t) := by
  refine ⟨?_, ?_, ?_, ?_, ?_, ?_, ?_, ?_, ?_, ?_⟩
  · obtain ⟨t, e, -⟩ := h.1 2 (pp { on := true, underflow := true }) (by decide +kernel) (by decide +kernel) (by decide +kernel) (by decide +kernel) (by decide +kernel)
    exact ⟨t, e⟩
  · obtain ⟨t, e, -⟩ := h.2.1 2 (setOd (pKey 2 7) 3 (setSt (pKey 2 6) 1 (pp { on := true, stale := 3, committed := some (oset 4) }))) (by decide +kernel) (by decide +kernel) (by decide +kernel) (by decide +kernel) (by decide +kernel) (by decide +kernel) (all_some (by decide +kernel))
    exact ⟨t, e⟩
  · obtain ⟨t, e, -⟩ := h.2.2.1 2 1 [] _ _ po (by decide +kernel) (by decide +kernel) (by decide +kernel) (by decide +kernel) (by decide +kernel) (Option.some_get (by decide +kernel)).symm (by decide +kernel) rfl
    exact ⟨t, e⟩
  · obtain ⟨t, e, -⟩ := h.2.2.2.1 2 po (by decide +kernel) (by decide +kernel) (by decide +kernel) (by decide +kernel)
    exact ⟨t, e⟩
  · obtain ⟨t, e, -⟩ := h.2.2.2.2.1 2 1 { acc (pReg 2 0x18) with bits := 64 } 0x4010000040 _ _ po rfl ⟨(by decide +kernel), (by decide +kernel), (exists_ok (by decide +kernel))⟩ (by decide +kernel) (some_pair (by decide +kernel)) (by decide +kernel) (by decide +kernel)
    exact ⟨t, e⟩
  · obtain ⟨t, e, -⟩ := h.2.2.2.2.2.1 2 1 { acc (pReg 2 0x18) with bits := 64 } 0x4010000041 _ po rfl ⟨(by decide +kernel), (by decide +kernel), (exists_ok (by decide +kernel))⟩ (by decide +kernel) (by decide +kernel)
    exact ⟨t, e⟩
  · obtain ⟨t, e, -⟩ := h.2.2.2.2.2.2.1 2 (accr 0x10 (oReg 2 0x100)) 0x00020007 _ pe rfl ⟨(by decide +kernel), (by decide +kernel), (exists_ok (by decide +kernel))⟩ (by decide +kernel)
    exact ⟨t, e⟩
  · obtain ⟨t, e, -⟩ := h.2.2.2.2.2.2.2.1 2 (accr 0x10 (oReg 2 0x100)) 0x00040007 _ 2 pe rfl ⟨(by decide +kernel), (by decide +kernel), (exists_ok (by decide +kernel))⟩ (by decide +kernel) (by decide +kernel) (by decide +kernel)
    exact ⟨t, e⟩
  · obtain ⟨t, e, -⟩ := h.2.2.2.2.2.2.2.2.1 (msg 4 (pKey 2 1) [1]) 0 2 _ (ses 4 (pp { on := false })) ⟨⟨⟨(by decide +kernel), (by decide +kernel), rfl, (by decide +kernel)⟩, (some_pair (by decide +kernel)), (tagValid_signed (by decide +kernel)), (by decide +kernel), (by decide +kernel), (by decide +kernel), (by decide +kernel)⟩, (by decide +kernel), (by decide +kernel), (by decide +kernel), (by decide +kernel), (by decide +kernel), (exists_some (by decide +kernel))⟩ (by decide +kernel) (by decide +kernel)
    exact ⟨t, e⟩
  · obtain ⟨t, e, -⟩ := h.2.2.2.2.2.2.2.2.2 (msg 4 (pKey 2 1) [0]) 0 2 _ (ses 4 (setOd (pKey 2 1) 1 po)) ⟨⟨⟨(by decide +kernel), (by decide +kernel), rfl, (by decide +kernel)⟩, (some_pair (by decide +kernel)), (tagValid_signed (by decide +kernel)), (by decide +kernel), (by decide +kernel), (by decide +kernel), (by decide +kernel)⟩, (by decide +kernel), (by decide +kernel), (by decide +kernel), (by decide +kernel), (by decide +kernel), (exists_some (by decide +kernel))⟩ (by decide +kernel) (by decide +kernel)
    exact ⟨t, e⟩

end L

namespace M

def acw (r a : Nat) : Access := { req := r, world := true, bits := 64, addr := a }
def ap (f : AppCore) : State := { up with apps := [(3, f)] }
def tw : State := { up with sec := { up.sec with twUp := true, twKick := 999000 } }
def a9 (a : Nat) := accr 3 a
def mg : State := setReg 0x19000080 2 (setReg 0x19000084 0x4010000000 (setReg 0x1900008C 128 tw))
def kn : State := setOd (odKey 0x3520 6) (0x104 * 65536 + 0xFFFE) { up with knots := [(5, 10)], apps := [(3, { released := true, world := false })], slots := [(4, { armed := true, knot := 5, thresh := 12 }), (7, { armed := true, knot := 5, thresh := 30, until' := some 1000500 })] }
def wa (k t l : Nat) : State := setReg 0x18440040 k (setReg 0x18440048 t (setReg 0x18440050 l kn))

theorem wit_CoresWorldsAndRoutes (h : Obligations.CoresWorldsAndRoutes) :
    (∃ t, exec (Instr.appRelease (accr 0x10 0x10000240) 15) (setOd (odKey 0x3500 2) 0x4000100000 up) = .next t) ∧
    (∃ t, exec (Instr.mworldWrite 3 1984 5 false 0) (ap { released := true }) = .next t) ∧
    (∃ t, exec (Instr.mworldWrite 3 1984 9223372036854775810 true 0) (ap { released := true }) = .next t) ∧
    (∃ t, exec (Instr.mworldWrite 3 1984 0 true 28672) (ap { released := true, lock := true, monBase := 4, monLast := 6 }) = .next t) ∧
    (∃ t, exec (Instr.mworldWrite 3 1985 32768 true 28672) (ap { released := true }) = .next t) ∧
    (∃ t, exec (Instr.filterLock (acc 0x19000040) 3) up = .next t) ∧
    (∃ t, exec (Instr.msgRouteWrite 100 (acw 3 (routeAddr 100)) 9223374235878031365) up = .next t) ∧
    (∃ t, exec (Instr.msgRouteWrite 100 (acw 3 (routeAddr 100)) 9223374235878031360) up = .next t) := by
  refine ⟨?_, ?_, ?_, ?_, ?_, ?_, ?_, ?_⟩
  · obtain ⟨t, e, -⟩ := h.1 (accr 0x10 0x10000240) 0x0F (setOd (odKey 0x3500 2) 0x4000100000 up) ⟨(by decide +kernel), (by decide +kernel), (exists_ok (by decide +kernel))⟩
    exact ⟨t, e⟩
  · obtain ⟨t, e, -⟩ := h.2.1 3 0x7C0 0 5 (ap { released := true }) (by decide +kernel) (by decide +kernel)
    exact ⟨t, e⟩
  · obtain ⟨t, e, -⟩ := h.2.2.1 3 0 0x8000000000000002 (ap { released := true }) (by decide +kernel) (by decide +kernel) (by decide +kernel)
    exact ⟨t, e⟩
  · obtain ⟨t, e, -⟩ := h.2.2.2.1 3 0x7000 0 (ap { released := true, lock := true, monBase := 4, monLast := 6 }) (by decide +kernel) (by decide +kernel) (by decide +kernel) (by decide +kernel)
    exact ⟨t, e⟩
  · obtain ⟨t, e, -⟩ := h.2.2.2.2.1 3 0x7C1 0x7000 0x8000 (ap { released := true }) (by decide +kernel) (by decide +kernel) (by decide +kernel)
    exact ⟨t, e⟩
  · obtain ⟨t, e, -⟩ := h.2.2.2.2.2.1 (acc 0x19000040) 3 _ up ⟨(by decide +kernel), (by decide +kernel), (exists_ok (by decide +kernel))⟩ (some_pair (by decide +kernel))
    exact ⟨t, e⟩
  · obtain ⟨t, e, -⟩ := h.2.2.2.2.2.2.1 100 (acw 3 (routeAddr 100)) 0x8000020000000005 _ _ up rfl ⟨(by decide +kernel), (by decide +kernel), (exists_ok (by decide +kernel))⟩ (by decide +kernel) rfl (by decide +kernel) (by decide +kernel) (by decide +kernel) (by decide +kernel)
    exact ⟨t, e⟩
  · obtain ⟨t, e, -⟩ := h.2.2.2.2.2.2.2 100 (acw 3 (routeAddr 100)) 0x8000020000000000 _ _ up rfl ⟨(by decide +kernel), (by decide +kernel), (exists_ok (by decide +kernel))⟩ (by decide +kernel) rfl (by decide +kernel)
    exact ⟨t, e⟩

theorem wit_TrustedServicesAnswer (h : Obligations.TrustedServicesAnswer) :
    (∃ t, exec (Instr.derivationRequest (a9 0x19000000) [1, 2] [3] 40) tw = .next t) ∧
    (∃ t, exec (Instr.derivationRequest (a9 0x19000000) [1, 2] (ascii "WRAPX") 40) tw = .next t) ∧
    ((∃ t, exec (Instr.derivationRequest (a9 0x19000000) [1, 2] (ascii "WRAPX") 40) up = Host.Outcome.next t ∧ Sends [Output.secAnswer (Access.req (a9 0x19000000)) 15 []] up t ∧ Frame [] up t) ∧ ∃ t, exec (Instr.attestationSign (a9 0x19000000) [3]) up = Host.Outcome.next t ∧ Sends [Output.secAnswer (Access.req (a9 0x19000000)) 15 []] up t ∧ Frame [] up t) ∧
    (∃ t, exec (Instr.attestationSign (a9 0x19000000) (List.replicate 48 3)) tw = .next t) ∧
    (∃ t, exec (Instr.measGo (a9 0x19000090) 1) mg = .next t) ∧
    (∃ t, exec (Instr.measGo (a9 0x19000090) 1) (setReg 0x1900008C 0 mg) = .next t) ∧
    (∃ t, exec Instr.measurementDone ({ mg with sec := { mg.sec with meas := some (2, 0x4010000000, 128, 1000000) } }) = .next t) ∧
    (∃ t, exec (Instr.mboxDoorbell 5 (a9 0x190002A8) 1) tw = .next t) ∧
    (∃ t, exec (Instr.mboxResp 5 (a9 0x190002AC) 119) ({ tw with sec := { tw.sec with mboxBusy := 0x61 } }) = .next t) ∧
    (∃ t, exec (Instr.twKick (a9 0x19000020) 1) up = .next t) ∧
    (∃ t, exec Instr.trustedWdg ({ (ap { released := true }) with sec := { tw.sec with mboxBusy := 0x61 } }) = .next t) := by
  refine ⟨?_, ?_, ?_, ?_, ?_, ?_, ?_, ?_, ?_, ?_, ?_⟩
  · obtain ⟨t, e, -⟩ := h.1 (a9 0x19000000) [1,2] [3] 40 tw (by decide +kernel) (by decide +kernel) (by decide +kernel) (by decide +kernel)
    exact ⟨t, e⟩
  · obtain ⟨t, e, -⟩ := h.2.1 (a9 0x19000000) [1,2] (ascii "WRAPX") 40 tw (by decide +kernel) (by decide +kernel) (by decide +kernel)
    exact ⟨t, e⟩
  · exact h.2.2.1 (a9 0x19000000) [1,2] (ascii "WRAPX") [3] 40 15 up (by decide +kernel) (by decide +kernel)
  · obtain ⟨t, _, e, -⟩ := h.2.2.2.1 (a9 0x19000000) (List.replicate 48 3) tw (by decide +kernel) (by decide +kernel)
    exact ⟨t, e⟩
  · obtain ⟨t, e, -⟩ := h.2.2.2.2.1 (a9 0x19000090) 1 mg ⟨(by decide +kernel), (by decide +kernel), (exists_ok (by decide +kernel))⟩ (by decide +kernel) (by decide +kernel) (by decide +kernel)
    exact ⟨t, e⟩
  · obtain ⟨t, e, -⟩ := h.2.2.2.2.2.1 (a9 0x19000090) 1 _ (setReg 0x1900008C 0 mg) ⟨(by decide +kernel), (by decide +kernel), (exists_ok (by decide +kernel))⟩ (by decide +kernel) (by decide +kernel) (Option.some_get (by decide +kernel)).symm
    exact ⟨t, e⟩
  · obtain ⟨t, e, -⟩ := h.2.2.2.2.2.2.1 2 0x4010000000 128 1000000 { mg with sec := { mg.sec with meas := some (2, 0x4010000000, 128, 1000000) } } (by decide +kernel) (by decide +kernel) (by decide +kernel) (by decide +kernel) (by decide +kernel) (by decide +kernel)
    exact ⟨t, e⟩
  · obtain ⟨t, e, -⟩ := h.2.2.2.2.2.2.2.1 5 (a9 0x190002A8) 1 _ tw rfl ⟨(by decide +kernel), (by decide +kernel), (exists_ok (by decide +kernel))⟩ (by decide +kernel) (by decide +kernel)
    exact ⟨t, e⟩
  · obtain ⟨t, e, -⟩ := h.2.2.2.2.2.2.2.2.1 5 (a9 0x190002AC) 0x77 _ { tw with sec := { tw.sec with mboxBusy := 0x61 } } rfl ⟨(by decide +kernel), (by decide +kernel), (exists_ok (by decide +kernel))⟩ (by decide +kernel)
    exact ⟨t, e⟩
  · obtain ⟨t, e, -⟩ := h.2.2.2.2.2.2.2.2.2.1 (a9 0x19000020) 1 up ⟨(by decide +kernel), (by decide +kernel), (exists_ok (by decide +kernel))⟩ (by decide +kernel) (by decide +kernel) (by decide +kernel) (by decide +kernel) (by decide +kernel)
    exact ⟨t, e⟩
  · obtain ⟨t, e, -⟩ := h.2.2.2.2.2.2.2.2.2.2 { (ap { released := true }) with sec := { tw.sec with mboxBusy := 0x61 } } (by decide +kernel) (by decide +kernel) (by decide +kernel)
    exact ⟨t, e⟩

theorem wit_KnotsSignalAndWait (h : Obligations.KnotsSignalAndWait) :
    (∃ t, exec (Instr.knotSignalWrite 5 (acw 3 0x18420028) 20) kn = .next t) ∧
    (∃ t, exec (Instr.knotSignalWrite 5 (acw 3 0x18420028) 10) kn = .next t) ∧
    (∃ t, exec (Instr.waitArm false 2 (accr 3 0x18440054) 1) (wa 5 10 4) = .next t) ∧
    (∃ t, exec (Instr.waitSlotTimeout false 7) kn = .next t) := by
  refine ⟨?_, ?_, ?_, ?_⟩
  · obtain ⟨t, e, -⟩ := h.1 5 (acw 3 0x18420028) 20 _ kn rfl ⟨(by decide +kernel), (by decide +kernel), (exists_ok (by decide +kernel))⟩ (by decide +kernel) (by decide +kernel)
    exact ⟨t, e⟩
  · obtain ⟨t, e, -⟩ := h.2.1 5 (acw 3 0x18420028) 10 _ kn rfl ⟨(by decide +kernel), (by decide +kernel), (exists_ok (by decide +kernel))⟩ (by decide +kernel) (by decide +kernel)
    exact ⟨t, e⟩
  · obtain ⟨t, e, -⟩ := h.2.2.1 false 2 (accr 3 0x18440054) 1 _ _ _ _ (wa 5 10 4) rfl ⟨(by decide +kernel), (by decide +kernel), (exists_ok (by decide +kernel))⟩ (by decide +kernel) (by decide +kernel) rfl rfl rfl
    exact ⟨t, e⟩
  · obtain ⟨t, e, -⟩ := h.2.2.2 false 7 _ _ kn (by decide +kernel) rfl (by decide +kernel) (Option.some_get (by decide +kernel)).symm
    exact ⟨t, e⟩

end M

namespace N

def pt : State := setOd (odKey 0x2E03 1) 1 (setOd (odKey 0x2E01 1) 1 { up with net := { up.net with link := 0x307 } })
def ef (n : Nat) : EthFrame := { dst := 0x1234, src := 0x77, tag := some (3, 5), rtag := none, etype := 0x88B5, payload := List.replicate n 9 }
def stTab (maxl rec : Nat) : List Byte := leBytes 6 0x1234 ++ leBytes 2 (32768 + 5) ++ leBytes 2 1 ++ leBytes 2 maxl ++ zeros 8 ++ leBytes 1 rec ++ zeros 1 ++ leBytes 2 7 ++ zeros 8
def ruleE (flags ing act egress : Nat) (m mask : Nat) : List Byte := leBytes 1 flags ++ leBytes 1 ing ++ leBytes 1 act ++ leBytes 1 0 ++ leBytes 4 m ++ leBytes 4 mask ++ leBytes 4 egress ++ zeros 20 ++ [0xFF, 0xFF] ++ zeros 26
def ru (l : List Byte) (s : State) : State := setBlob (odKey 0x2F10 3) [1] (setBlob (odKey 0x2F10 1) l s)
def pq : State := { (ru (ruleE 3 0 1 4 0x88B5 0xFFFF) pt) with net := { pt.net with queues := [(2 * 8 + 3, [{ frame := ef 90, ingress := 0, rule := 1, gtime := 1999000 }])] } }
def ringS (b : Nat) (s : State) : State := setReg (b+8) (65536+4) (setReg b 0x4010001000 s)
def tp (l : Nat) : State := setSt (odKey 0x2E00 1) 2 (setSt (odKey 0x2E00 3) 2 { pt with net := { pt.net with first := decide (l = 0), locked := true, ptp := 2 } })
def cf : CanFrame := { ident := 0x123, ide := false, fdf := true, brs := true, esi := false, rtr := false, data := List.replicate 12 5 }
def ca : State := setSt (canKey 6 1) 2 (setSt (canKey 5 1) 2 { up with can := [(5, { state := 1 }), (6, { state := 1 })] })
def rul : List Byte := ruleE 1 0x15 1 (64*65536) 0x123 0x7FF
def cent : List Byte := leBytes 1 0 ++ leBytes 1 6 ++ leBytes 1 12 ++ [0] ++ leBytes 4 0x456 ++ zeros 56 ++ List.replicate 12 3 ++ zeros 52
def cb : State := memPut 0x4010001000 cent (ringS (canRing 5 1) ca)
def cc : State := nextOf (execCanTxDoorbell 5 false (acc (canRing 5 1 + 0x0C)) 1 cb)
def cd : State := nextOf (execCanTransmitStart 5 cc)
def tf (pf da sa : Nat) (d : List Byte) : CanFrame := { ident := 0x18000000 + pf*65536+da*256+sa, ide := true, fdf := false, brs := false, esi := false, rtr := false, data := d }
def tps : State := setReg 0x168014C8 4 (setReg 0x168014C0 0x4010100000 (setOd (canKey 1 0x0C) 10 (setReg (0x168014A0) 0xFFFFFFFF (setReg (0x168014A0 + 28) 0xFFFFFFFF (setSt (canKey 1 0x0B) 1 (setSt (canKey 1 1) 1 { up with can := [(1, { state := 1 })] }))))))
def rts := tf 0xEC 5 9 ([16] ++ leBytes 2 20 ++ [3, 255] ++ leBytes 3 0xFECA)
def bam := tf 0xEC 255 9 ([32] ++ leBytes 2 10 ++ [2, 255] ++ leBytes 3 0xFECA)
def tq := nextOf (execTpCmBam 1 bam (ringS (canRing 1 3) tps))
def dt (n : Nat) := tf 0xEB 255 9 (BitVec.ofNat 8 n :: List.replicate 7 4)
def tq2 := nextOf (execTpDt 1 (dt 1) tq)
def tr := nextOf (execTpCmRts 1 rts tps)

theorem wit_SwitchForwardsFrames (h : Obligations.SwitchForwardsFrames) :
    (∃ t, exec (Instr.ethFrameRx 0 (ef 9300)) pt = .next t) ∧
    (∃ t, exec (Instr.ethFrameRx 0 (ef 90)) (setBlob (odKey 0x2E00 0x0A) (stTab 50 0) pt) = .next t) ∧
    (∃ t, exec (Instr.ethFrameRx 0 (ef 90)) pt = .next t) ∧
    (∃ t, exec (Instr.ethFrameRx 0 (ef 90)) (ru (ruleE 3 0 1 4 0x88B5 0xFFFF) pt) = .next t) ∧
    (∃ t, exec (Instr.egressTransmit 2) pq = .next t) ∧
    (∃ t, exec (Instr.internalTxDoorbell 0 1 (acc (portRing 8 1 + 0x0C)) 0) (ringS (portRing 8 1) pt) = .next t) ∧
    (∃ t, exec (Instr.internalTxDoorbell 0 1 (acc (portRing 8 1 + 0x0C)) 17) (ringS (portRing 8 1) pt) = .next t) ∧
    (∃ t, exec (Instr.cbRecoveryReset 4) ({ (setBlob (odKey 0x2E00 0x0A) (List.flatten (List.replicate 5 (stTab 50 1))) pt) with net := { pt.net with cbRec := [(4, { takeAny := false, seq := 5, last := 999990 })] } }) = .next t) := by
  refine ⟨?_, ?_, ?_, ?_, ?_, ?_, ?_, ?_⟩
  · obtain ⟨t, e, -⟩ := h.1 0 (ef 9300) pt (by decide +kernel) (by decide +kernel) (by decide +kernel)
    exact ⟨t, e⟩
  · obtain ⟨t, e, -⟩ := h.2.1 0 (ef 90) _ (setBlob (odKey 0x2E00 0x0A) (stTab 50 0) pt) (by decide +kernel) (by decide +kernel) (by decide +kernel) (Option.some_get (by decide +kernel)).symm (by decide +kernel) (by decide +kernel)
    exact ⟨t, e⟩
  · obtain ⟨t, e, -⟩ := h.2.2.1 0 (ef 90) pt (by decide +kernel) (by decide +kernel) (by decide +kernel) (by decide +kernel) (by decide +kernel) (by decide +kernel)
    exact ⟨t, e⟩
  · obtain ⟨t, e, -⟩ := h.2.2.2.1 0 (ef 90) _ 2 (ru (ruleE 3 0 1 4 0x88B5 0xFFFF) pt) (by decide +kernel) (by decide +kernel) (by decide +kernel) (by decide +kernel) (by decide +kernel) (Option.some_get (by decide +kernel)).symm (by decide +kernel) (by decide +kernel) (by decide +kernel) (by decide +kernel) (by decide +kernel) (by decide +kernel) (by decide +kernel) (room_of (by decide +kernel))
    exact ⟨t, e⟩
  · obtain ⟨t, e, -⟩ := h.2.2.2.2.1 2 _ _ _ pq _ (by decide +kernel) (by decide +kernel) (some_pair (by decide +kernel)) (by decide +kernel) (Prod.eta _).symm
    exact ⟨t, e⟩
  · obtain ⟨t, e, -⟩ := h.2.2.2.2.2.1 0 1 (acc (portRing 8 1 + 0x0C)) 0 _ (ringS (portRing 8 1) pt) rfl ⟨(by decide +kernel), (by decide +kernel), (exists_ok (by decide +kernel))⟩ (by decide +kernel) (by decide +kernel) (by decide +kernel)
    exact ⟨t, e⟩
  · obtain ⟨t, e, -⟩ := h.2.2.2.2.2.2.1 0 1 (acc (portRing 8 1 + 0x0C)) 17 _ (ringS (portRing 8 1) pt) rfl ⟨(by decide +kernel), (by decide +kernel), (exists_ok (by decide +kernel))⟩ (by decide +kernel) (by decide +kernel) (by decide +kernel)
    exact ⟨t, e⟩
  · obtain ⟨t, e, -⟩ := h.2.2.2.2.2.2.2 4 _ { (setBlob (odKey 0x2E00 0x0A) (List.flatten (List.replicate 5 (stTab 50 1))) pt) with net := { pt.net with cbRec := [(4, { takeAny := false, seq := 5, last := 999990 })] } } (by decide +kernel) rfl (by decide +kernel) (by decide +kernel)
    exact ⟨t, e⟩

theorem wit_TimeIsKeptAndLinksChange (h : Obligations.TimeIsKeptAndLinksChange) :
    (∃ t, exec (Instr.gptpSync 2 5000) (tp 0) = .next t) ∧
    (∃ t, exec Instr.syncLoss (tp 1) = .next t) ∧
    (∃ t, exec Instr.holdover100ms ({ (tp 1) with net := { (tp 1).net with ptp := 3, holdAt := 999990 } }) = .next t) ∧
    (∃ t, exec Instr.grandmasterSync (setSt (odKey 0x2E00 2) 5 (setSt (odKey 0x2E00 1) 1 pt)) = .next t) ∧
    (∃ t, exec (Instr.portLinkDown 2) (tp 1) = .next t) ∧
    (∃ t, exec (Instr.portLinkDown 2) (tp 1) = .next t) ∧
    (∃ t, exec (Instr.portLinkUp 5) (tp 1) = .next t) := by
  refine ⟨?_, ?_, ?_, ?_, ?_, ?_, ?_⟩
  · obtain ⟨t, e, -⟩ := h.1 2 5000 (tp 0) (by decide +kernel) (by decide +kernel) (by decide +kernel) (by decide +kernel)
    exact ⟨t, e⟩
  · obtain ⟨t, e, -⟩ := h.2.1 (tp 1) (by decide +kernel) (by decide +kernel) (by decide +kernel) (by decide +kernel) (by decide +kernel)
    exact ⟨t, e⟩
  · obtain ⟨t, e, -⟩ := h.2.2.1 { (tp 1) with net := { (tp 1).net with ptp := 3, holdAt := 999990 } } (by decide +kernel) (by decide +kernel)
    exact ⟨t, e⟩
  · obtain ⟨t, e, -⟩ := h.2.2.2.1 (setSt (odKey 0x2E00 2) 5 (setSt (odKey 0x2E00 1) 1 pt)) (by decide +kernel) (by decide +kernel)
    exact ⟨t, e⟩
  · obtain ⟨t, e, -⟩ := h.2.2.2.2.1 2 (tp 1) (by decide +kernel) (by decide +kernel)
    exact ⟨t, e⟩
  · obtain ⟨t, e, -⟩ := h.2.2.2.2.2.1 2 (tp 1) (by decide +kernel) (by decide +kernel) (by decide +kernel) (by decide +kernel) (by decide +kernel) (by decide +kernel) (by decide +kernel) (by decide +kernel)
    exact ⟨t, e⟩
  · obtain ⟨t, e, -⟩ := h.2.2.2.2.2.2 5 (tp 1) (by decide +kernel) (by decide +kernel)
    exact ⟨t, e⟩

theorem wit_CanControllersCarryFrames (h : Obligations.CanControllersCarryFrames) :
    (∃ t, exec (Instr.canFrameRx 5 cf) (ringS (canRing 5 0) ca) = .next t) ∧
    (∃ t, exec (Instr.canFrameRx 5 cf) ca = .next t) ∧
    (∃ t, exec (Instr.canFrameRx 5 cf) (ru rul ca) = .next t) ∧
    (∃ t, exec (Instr.canTxDoorbell 5 false (acc (canRing 5 1 + 0x0C)) 0) (ringS (canRing 5 1) ca) = .next t) ∧
    (∃ t, exec (Instr.canTxDoorbell 5 true (accr 0x10 (canRing 5 2 + 0x0C)) 17) (ringS (canRing 5 2) ca) = .next t) ∧
    (∃ t, exec (Instr.canTransmitStart 5) cc = .next t) ∧
    (∃ t, exec (Instr.canTxDone 5) ({ ca with can := [(5, { state := 1, flight := some (3, cf), gw := [{ frame := cf }] })] }) = .next t) ∧
    (∃ t, exec (Instr.canTxDone 5) cd = .next t) ∧
    (∃ t, exec (Instr.busOff 5) ca = .next t) ∧
    (∃ t, exec (Instr.busOffRecovered 5) ({ ca with can := [(5, { state := 4, tec := 256 })] }) = .next t) := by
  refine ⟨?_, ?_, ?_, ?_, ?_, ?_, ?_, ?_, ?_, ?_⟩
  · obtain ⟨t, e, -⟩ := h.1 5 cf _ _ (ringS (canRing 5 0) ca) (by decide +kernel) (by decide +kernel) (by decide +kernel) (by decide +kernel) (by decide +kernel) (by decide +kernel) rfl rfl (by decide +kernel) (by decide +kernel)
    exact ⟨t, e⟩
  · obtain ⟨t, e, -⟩ := h.2.1 5 cf ca (by decide +kernel) (by decide +kernel) (by decide +kernel) (by decide +kernel) (by decide +kernel) (by decide +kernel)
    exact ⟨t, e⟩
  · obtain ⟨t, e, -⟩ := h.2.2.1 5 cf _ _ 6 (ru rul ca) (by decide +kernel) (by decide +kernel) (by decide +kernel) (by decide +kernel) (by decide +kernel) rfl rfl (Option.some_get (by decide +kernel)).symm (by decide +kernel) (by decide +kernel) (by decide +kernel) (by decide +kernel) (by decide +kernel) (Option.some_get (by decide +kernel)).symm (by decide +kernel) (by decide +kernel)
    exact ⟨t, e⟩
  · obtain ⟨t, e, -⟩ := h.2.2.2.1 5 false (acc (canRing 5 1 + 0x0C)) 0 _ (ringS (canRing 5 1) ca) rfl ⟨(by decide +kernel), (by decide +kernel), (exists_ok (by decide +kernel))⟩ (by decide +kernel) (by decide +kernel)
    exact ⟨t, e⟩
  · obtain ⟨t, e, -⟩ := h.2.2.2.2.1 5 true (accr 0x10 (canRing 5 2 + 0x0C)) 17 _ (ringS (canRing 5 2) ca) rfl ⟨(by decide +kernel), (by decide +kernel), (exists_ok (by decide +kernel))⟩ (by decide +kernel) (by decide +kernel)
    exact ⟨t, e⟩
  · obtain ⟨t, e, -⟩ := h.2.2.2.2.2.1 5 _ _ _ cc _ (by decide +kernel) (by decide +kernel) (by decide +kernel) (some_pair (by decide +kernel)) (Prod.eta _).symm
    exact ⟨t, e⟩
  · obtain ⟨t, e, -⟩ := h.2.2.2.2.2.2.1 5 cf { ca with can := [(5, { state := 1, flight := some (3, cf), gw := [{ frame := cf }] })] } (by decide +kernel) (by decide +kernel) (by decide +kernel) (by decide +kernel)
    exact ⟨t, e⟩
  · obtain ⟨t, e, -⟩ := h.2.2.2.2.2.2.2.1 5 _ _ _ _ cd (by decide +kernel) (by decide +kernel) (some_pair (by decide +kernel)) (by decide +kernel) (Option.some_get (by decide +kernel)).symm (by decide +kernel) rfl (by decide +kernel) rfl (by decide +kernel)
    exact ⟨t, e⟩
  · obtain ⟨t, e, -⟩ := h.2.2.2.2.2.2.2.2.1 5 ca (by decide +kernel) (by decide +kernel) (by decide +kernel)
    exact ⟨t, e⟩
  · obtain ⟨t, e, -⟩ := h.2.2.2.2.2.2.2.2.2 5 { ca with can := [(5, { state := 4, tec := 256 })] } (by decide +kernel) (by decide +kernel)
    exact ⟨t, e⟩

theorem wit_TransportAssistReassembles (h : Obligations.TransportAssistReassembles) :
    (∃ t, exec (Instr.tpCmRts 1 rts) tps = .next t) ∧
    (∃ t, exec (Instr.tpCmBam 1 bam) tps = .next t) ∧
    (∃ t, exec (Instr.tpDt 1 (dt 1)) tq = .next t) ∧
    (∃ t, exec (Instr.tpDt 1 (dt 2)) tq2 = .next t) ∧
    (∃ t, exec (Instr.tpDt 1 (dt 3)) tq2 = .next t) ∧
    (∃ t, exec (Instr.tpTimeout 1 0) tq2 = .next t) ∧
    (∃ t, exec (Instr.tpRelease 1 (acc 0x168014CC) 2) tps = .next t) := by
  refine ⟨?_, ?_, ?_, ?_, ?_, ?_, ?_⟩
  · obtain ⟨t, e, -⟩ := h.1 1 rts _ _ _ _ _ tps (by decide +kernel) (by decide +kernel) (by decide +kernel) (by decide +kernel) (by decide +kernel) (by decide +kernel) (by decide +kernel) (by decide +kernel) (Option.some_get (by decide +kernel)).symm (Option.some_get (by decide +kernel)).symm (by decide +kernel) rfl rfl rfl
    exact ⟨t, e⟩
  · obtain ⟨t, e, -⟩ := h.2.1 1 bam _ _ tps (by decide +kernel) (by decide +kernel) (by decide +kernel) (by decide +kernel) (by decide +kernel) (by decide +kernel) (by decide +kernel) (by decide +kernel) (Option.some_get (by decide +kernel)).symm (Option.some_get (by decide +kernel)).symm
    exact ⟨t, e⟩
  · obtain ⟨t, e, -⟩ := h.2.2.1 1 (dt 1) _ _ tq (by decide +kernel) (by decide +kernel) (by decide +kernel) (by decide +kernel) (by decide +kernel) (by decide +kernel) (some_pair (by decide +kernel)) (by decide +kernel) (by decide +kernel) (by decide +kernel)
    exact ⟨t, e⟩
  · obtain ⟨t, e, -⟩ := h.2.2.2.1 1 (dt 2) _ _ _ _ _ tq2 (by decide +kernel) (by decide +kernel) (by decide +kernel) (by decide +kernel) (by decide +kernel) (by decide +kernel) (some_pair (by decide +kernel)) (by decide +kernel) (by decide +kernel) (by decide +kernel) rfl (by decide +kernel) rfl rfl (by decide +kernel) (by decide +kernel) (by decide +kernel)
    exact ⟨t, e⟩
  · obtain ⟨t, e, -⟩ := h.2.2.2.2.1 1 (dt 3) _ _ tq2 (by decide +kernel) (by decide +kernel) (by decide +kernel) (by decide +kernel) (by decide +kernel) (by decide +kernel) (some_pair (by decide +kernel)) (by decide +kernel)
    exact ⟨t, e⟩
  · obtain ⟨t, e, -⟩ := h.2.2.2.2.2.1 1 0 _ tq2 (by decide +kernel) (Option.some_get (by decide +kernel)).symm
    exact ⟨t, e⟩
  · obtain ⟨t, e, -⟩ := h.2.2.2.2.2.2 1 (acc 0x168014CC) 2 _ tps rfl ⟨(by decide +kernel), (by decide +kernel), (exists_ok (by decide +kernel))⟩ (by decide +kernel)
    exact ⟨t, e⟩

end N

namespace O

def te : State := setOd (odKey 0x2E01 1) 1 { up with odStart := [(odKey 0x3100 3, 1)], net := { up.net with link := 0x301 }, tether := { up.tether with conns := [(5, { state := 1, mac := 0xAA, remote := 9, epsn := 10, psn := 20, high := 20, oldest := 20, since := 900000 })], cache := [7, 5], regions := [(2, some { key := 3, base := 0x4010000000, size := 4096, world := false, rd := true, wr := true, conn := 5 })] } }
def fr (op : Nat) : TetherFrame := { port := 0, srcMac := 0xAA, vlan := 0, version := 1, opcode := op, flags := 3, status := 0, connId := 5, psn := 10, ackPsn := 19, regionTag := 3*4096+2, offset := 64, length := 64, imm := 0, reserved := 0, payload := List.replicate 64 7 }
def teq : State := setReg (rqReg 0 8) (65536+4) (setReg (rqReg 0 0) 0x4010001000 te)
def ent (op h len : Nat) (addr : Nat) : List Byte := leBytes 1 op ++ [1] ++ leBytes 2 h ++ leBytes 4 77 ++ leBytes 8 addr ++ leBytes 4 (if op = 5 then 0 else 3*4096+2) ++ leBytes 4 len ++ leBytes 8 128 ++ leBytes 4 0 ++ zeros 28
def sqs (e : List Byte) : State := memPut 0x4010002000 e (setReg (sqReg 3 0x10) (65536 + 4 + 4*256) (setReg (sqReg 3 8) 0x4010003000 (setReg (sqReg 3 0) 0x4010002000 { te with tether := { te.tether with sqs := [(3, { state := 2, tail := 1 })] } })))
def rdOp : TOp := { id := 4, sq := 3, entry := ent 3 5 4096 0x4010004000, first := 20, psns := 3, sent := 3, got := 1 }
def ter : State := { te with tether := { te.tether with conns := [(5, { state := 1, mac := 0xAA, remote := 9, epsn := 10, psn := 23, high := 23, oldest := 21, since := 900000, ops := [rdOp], rounds := 2 })] } }
def flOp : TOp := { id := 4, sq := 3, entry := ent 5 5 0 0, first := 20, psns := 1, sent := 1 }
def tef : State := { (sqs []) with tether := { te.tether with conns := [(5, { state := 1, mac := 0xAA, remote := 9, epsn := 10, psn := 21, high := 21, oldest := 20, since := 900000, ops := [flOp], rounds := 2 })], sqs := [(3, { state := 2, tail := 1, sqHead := 1, ops := [{ id := 4, entry := ent 5 5 0 0 }] })] } }
def wrOp : TOp := { id := 4, sq := 3, entry := ent 1 5 64 0, first := 20, psns := 1, sent := 1, decided := true }
def tew : State := { te with tether := { te.tether with conns := [(5, { state := 1, mac := 0xAA, remote := 9, epsn := 10, psn := 21, high := 21, oldest := 20, since := 900000, ops := [wrOp], rounds := 2 })] } }
def rg : State := setReg 0x16400310 (5*4096+3) (setReg 0x16400308 4096 (setReg 0x16400300 0x4010000000 te))

theorem wit_TetherServesRequests (h : Obligations.TetherServesRequests) :
    (∃ t, exec (.tetherRxWrite { fr 1 with version := 2 } false) te = .next t) ∧
    (∃ t, exec (.tetherRxWrite { fr 1 with connId := 8 } false) te = .next t) ∧
    (∃ t, exec (.tetherRxWrite { fr 1 with connId := 8 } false) ({ te with tether := { te.tether with invalid := [(8, some 999000)] } }) = .next t) ∧
    (∃ t, exec (Instr.tetherRxWrite (fr 1) false) te = .next t) ∧
    (∃ t, exec (Instr.tetherRxWrite ({ fr 1 with length := 0, payload := [], flags := 7 }) false) te = .next t) ∧
    (∃ t, exec (Instr.tetherRxWrite ({ fr 1 with regionTag := 4 }) false) te = .next t) ∧
    (∃ t, exec (Instr.tetherRxWrite ({ fr 1 with psn := 12 }) false) te = .next t) ∧
    (∃ t, exec (Instr.tetherRxWrite ({ fr 1 with psn := 9 }) false) te = .next t) ∧
    (∃ t, exec (Instr.tetherRxWrite ({ fr 1 with version := 9 }) true) te = .next t) ∧
    (∃ t, exec (Instr.tetherRxWriteImm ({ fr 2 with length := 0, payload := [] })) teq = .next t) ∧
    (∃ t, exec (Instr.tetherRxWriteImm ({ fr 2 with length := 0, payload := [] })) te = .next t) ∧
    (∃ t, exec (Instr.tetherRxRead ({ fr 3 with payload := [] })) te = .next t) ∧
    (∃ t, exec (Instr.tetherRxFlush ({ fr 5 with payload := [] })) te = .next t) ∧
    (∃ t, exec (Instr.flushAck 5) ({ te with tether := { te.tether with conns := [(5, { state := 1, mac := 0xAA, remote := 9, epsn := 10, psn := 20, high := 20, oldest := 20, since := 900000, flush := [4, 6] })] } }) = .next t) := by
  refine ⟨?_, ?_, ?_, ?_, ?_, ?_, ?_, ?_, ?_, ?_, ?_, ?_, ?_, ?_⟩
  · obtain ⟨t, e, -⟩ := h.1 { fr 1 with version := 2 } 1 (.tetherRxWrite { fr 1 with version := 2 } false) te (by simp) (by decide +kernel) (by decide +kernel) (by decide +kernel) (by decide +kernel)
    exact ⟨t, e⟩
  · obtain ⟨t, e, -⟩ := h.2.1 { fr 1 with connId := 8 } 1 (.tetherRxWrite { fr 1 with connId := 8 } false) _ te _ (by simp) (by decide +kernel) (by decide +kernel) (by decide +kernel) (by decide +kernel) (by decide +kernel) rfl (by decide +kernel) (all_some (by decide +kernel)) rfl ⟨(by decide +kernel), (room_of (by decide +kernel))⟩
    exact ⟨t, e⟩
  · exact ⟨_, h.2.2.1 { fr 1 with connId := 8 } 1 _ (.tetherRxWrite { fr 1 with connId := 8 } false) { te with tether := { te.tether with invalid := [(8, some 999000)] } } (by simp) (by decide +kernel) (by decide +kernel) (by decide +kernel) (by decide +kernel) (by decide +kernel) (by decide +kernel) (Option.some_get (by decide +kernel)).symm (by decide +kernel)⟩
  · obtain ⟨t, e, -⟩ := h.2.2.2.1 (fr 1) _ _ te _ ⟨(by decide +kernel), ⟨(by decide +kernel), (by decide +kernel)⟩, (by decide +kernel), (by decide +kernel), (by decide +kernel), (by decide +kernel), (by decide +kernel)⟩ (by decide +kernel) rfl (by decide +kernel) rfl (Option.some_get (by decide +kernel)).symm (by decide +kernel) (by decide +kernel)
    exact ⟨t, e⟩
  · obtain ⟨t, e, -⟩ := h.2.2.2.2.1 { fr 1 with length := 0, payload := [], flags := 7 } _ _ te _ ⟨(by decide +kernel), ⟨(by decide +kernel), (by decide +kernel)⟩, (by decide +kernel), (by decide +kernel), (by decide +kernel), (by decide +kernel), (by decide +kernel)⟩ (by decide +kernel) rfl (by decide +kernel) rfl (Option.some_get (by decide +kernel)).symm (by decide +kernel) (by decide +kernel) ⟨(by decide +kernel), (room_of (by decide +kernel))⟩
    exact ⟨t, e⟩
  · obtain ⟨t, e, -⟩ := h.2.2.2.2.2.1 { fr 1 with regionTag := 4 } _ _ te _ ⟨(by decide +kernel), ⟨(by decide +kernel), (by decide +kernel)⟩, (by decide +kernel), (by decide +kernel), (by decide +kernel), (by decide +kernel), (by decide +kernel)⟩ (by decide +kernel) rfl (by decide +kernel) rfl (by decide +kernel) rfl ⟨(by decide +kernel), (room_of (by decide +kernel))⟩
    exact ⟨t, e⟩
  · obtain ⟨t, e, -⟩ := h.2.2.2.2.2.2.1 { fr 1 with psn := 12 } _ _ te _ ⟨(by decide +kernel), ⟨(by decide +kernel), (by decide +kernel)⟩, (by decide +kernel), (by decide +kernel), (by decide +kernel), (by decide +kernel), (by decide +kernel)⟩ (by decide +kernel) rfl (by decide +kernel) (by decide +kernel) (by decide +kernel) rfl rfl ⟨(by decide +kernel), (room_of (by decide +kernel))⟩
    exact ⟨t, e⟩
  · obtain ⟨t, e, -⟩ := h.2.2.2.2.2.2.2.1 { fr 1 with psn := 9 } _ te _ ⟨(by decide +kernel), ⟨(by decide +kernel), (by decide +kernel)⟩, (by decide +kernel), (by decide +kernel), (by decide +kernel), (by decide +kernel), (by decide +kernel)⟩ (by decide +kernel) rfl (by decide +kernel) rfl ⟨(by decide +kernel), (room_of (by decide +kernel))⟩
    exact ⟨t, e⟩
  · obtain ⟨t, e, -⟩ := h.2.2.2.2.2.2.2.2.1 { fr 1 with version := 9 } _ te (by decide +kernel) (by decide +kernel) (by decide +kernel) rfl (by decide +kernel) (by decide +kernel) (by decide +kernel)
    exact ⟨t, e⟩
  · obtain ⟨t, e, -⟩ := h.2.2.2.2.2.2.2.2.2.1 { fr 2 with length := 0, payload := [] } _ _ _ teq _ ⟨(by decide +kernel), ⟨(by decide +kernel), (by decide +kernel)⟩, (by decide +kernel), (by decide +kernel), (by decide +kernel), (by decide +kernel), (by decide +kernel)⟩ (by decide +kernel) rfl (by decide +kernel) rfl (Option.some_get (by decide +kernel)).symm (by decide +kernel) (by decide +kernel) (by decide +kernel) (by decide +kernel) (by decide +kernel) (by decide +kernel) rfl
    exact ⟨t, e⟩
  · obtain ⟨t, e, -⟩ := h.2.2.2.2.2.2.2.2.2.2.1 { fr 2 with length := 0, payload := [] } _ _ te _ ⟨(by decide +kernel), ⟨(by decide +kernel), (by decide +kernel)⟩, (by decide +kernel), (by decide +kernel), (by decide +kernel), (by decide +kernel), (by decide +kernel)⟩ (by decide +kernel) rfl (by decide +kernel) rfl (by decide +kernel) (by decide +kernel) rfl ⟨(by decide +kernel), (room_of (by decide +kernel))⟩
    exact ⟨t, e⟩
  · obtain ⟨t, e, -⟩ := h.2.2.2.2.2.2.2.2.2.2.2.1 { fr 3 with payload := [] } _ _ _ _ te _ _ ⟨(by decide +kernel), ⟨(by decide +kernel), (by decide +kernel)⟩, (by decide +kernel), (by decide +kernel), (by decide +kernel), (by decide +kernel), (by decide +kernel)⟩ (by decide +kernel) rfl (by decide +kernel) (by decide +kernel) (by decide +kernel) (by decide +kernel) (Option.some_get (by decide +kernel)).symm rfl (pair_some (by decide +kernel)) rfl ⟨(by decide +kernel), (room_of (by decide +kernel))⟩
    exact ⟨t, e⟩
  · obtain ⟨t, e, -⟩ := h.2.2.2.2.2.2.2.2.2.2.2.2.1 { fr 5 with payload := [] } _ te _ ⟨(by decide +kernel), ⟨(by decide +kernel), (by decide +kernel)⟩, (by decide +kernel), (by decide +kernel), (by decide +kernel), (by decide +kernel), (by decide +kernel)⟩ (by decide +kernel) rfl (by decide +kernel) (by decide +kernel) (by decide +kernel) rfl
    exact ⟨t, e⟩
  · obtain ⟨t, e, -⟩ := h.2.2.2.2.2.2.2.2.2.2.2.2.2 5 _ _ _ { te with tether := { te.tether with conns := [(5, { state := 1, mac := 0xAA, remote := 9, epsn := 10, psn := 20, high := 20, oldest := 20, since := 900000, flush := [4, 6] })] } } (by decide +kernel) rfl (by decide +kernel) (List.cons_head_tail (by decide +kernel)).symm ⟨(by decide +kernel), (room_of (by decide +kernel))⟩
    exact ⟨t, e⟩

theorem wit_TetherRunsOperations (h : Obligations.TetherRunsOperations) :
    (∃ t, exec (.tetherSqWrite 3) (sqs (ent 1 6 64 0x4010004000)) = .next t) ∧
    (∃ t, exec (.tetherSqWrite 3) (sqs (ent 1 5 64 0x4010004000)) = .next t) ∧
    (∃ t, exec (.tetherSqRead 3) (sqs (ent 3 5 64 0x4010004000)) = .next t) ∧
    (∃ t, exec (Instr.tetherSqDoorbell 3 (acc (sqReg 3 0x14)) 1) ({ (sqs []) with tether := { te.tether with sqs := [(3, { state := 1 })] } }) = .next t) ∧
    (∃ t, exec (Instr.tetherSqDoorbell 3 (acc (sqReg 3 0x14)) 17) ({ (sqs []) with tether := { te.tether with sqs := [(3, { state := 1 })] } }) = .next t) ∧
    (∃ t, exec (Instr.tetherRxReadResp ({ fr 4 with psn := 21, ackPsn := 20, length := 1472, payload := List.replicate 1472 7 })) ter = .next t) ∧
    (∃ t, exec (Instr.tetherRxFlushAck ({ fr 6 with psn := 20, ackPsn := 19, length := 0, payload := [] })) tef = .next t) ∧
    (∃ t, exec (Instr.tetherRxAck ({ fr 7 with psn := 0, ackPsn := 20, length := 0, payload := [] })) tew = .next t) ∧
    (∃ t, exec (Instr.tetherRxNak ({ fr 8 with psn := 0, ackPsn := 19, length := 0, payload := [], status := 0xD0 })) tew = .next t) ∧
    (∃ t, exec (Instr.tetherRxNak ({ fr 8 with psn := 20, ackPsn := 19, length := 0, payload := [], status := 3 })) tef = .next t) ∧
    (∃ t, exec (Instr.goBackRound 5) tew = .next t) ∧
    (∃ t, exec (Instr.goBackRound 5) ({ tew with tether := { tew.tether with conns := [(5, { state := 1, mac := 0xAA, remote := 9, epsn := 10, psn := 21, high := 21, oldest := 20, since := 900000, ops := [wrOp], rounds := 7 })] } }) = .next t) ∧
    (pump 5 ({ tew with tether := { tew.tether with conns := [(5, { state := 1, psn := 2000, high := 2000, oldest := 20, ops := [wrOp], rounds := 7 })] } }) = ({ tew with tether := { tew.tether with conns := [(5, { state := 1, psn := 2000, high := 2000, oldest := 20, ops := [wrOp], rounds := 7 })] } })) := by
  refine ⟨?_, ?_, ?_, ?_, ?_, ?_, ?_, ?_, ?_, ?_, ?_, ?_, ?_⟩
  · obtain ⟨t, e, -⟩ := h.1 3 (ent 1 6 64 0x4010004000) 1 _ (.tetherSqWrite 3) (sqs (ent 1 6 64 0x4010004000)) (by simp) ⟨(by decide +kernel), (by decide +kernel), (by decide +kernel), ⟨(by decide +kernel), (by decide +kernel)⟩, (by decide +kernel), (by decide +kernel), (by decide +kernel)⟩ (by decide +kernel) (Option.some_get (by decide +kernel)).symm (by decide +kernel) (by decide +kernel)
    exact ⟨t, e⟩
  · obtain ⟨t, e, -⟩ := h.2.1 3 (ent 1 5 64 0x4010004000) _ 1 (.tetherSqWrite 3) _ _ (sqs (ent 1 5 64 0x4010004000)) _ _ (by simp) ⟨(by decide +kernel), (by decide +kernel), (by decide +kernel), ⟨(by decide +kernel), (by decide +kernel)⟩, (by decide +kernel), (by decide +kernel), (by decide +kernel)⟩ (by decide +kernel) (by decide +kernel) ⟨(by decide +kernel), (by decide +kernel), (by decide +kernel)⟩ rfl (by decide +kernel) rfl (pair_some (by decide +kernel)) rfl ⟨(by decide +kernel), (room_of (by decide +kernel))⟩
    exact ⟨t, e⟩
  · obtain ⟨t, e, -⟩ := h.2.2.1 3 (ent 3 5 64 0x4010004000) 3 (.tetherSqRead 3) _ _ (sqs (ent 3 5 64 0x4010004000)) _ (by simp) ⟨(by decide +kernel), (by decide +kernel), (by decide +kernel), ⟨(by decide +kernel), (by decide +kernel)⟩, (by decide +kernel), (by decide +kernel), (by decide +kernel)⟩ (by decide +kernel) (by decide +kernel) ⟨(by decide +kernel), (by decide +kernel), (by decide +kernel)⟩ rfl (by decide +kernel) rfl rfl ⟨(by decide +kernel), (room_of (by decide +kernel))⟩
    exact ⟨t, e⟩
  · obtain ⟨t, e, -⟩ := h.2.2.2.1 3 (acc (sqReg 3 0x14)) 1 _ { (sqs []) with tether := { te.tether with sqs := [(3, { state := 1 })] } } ⟨(by decide +kernel), (by decide +kernel), (exists_ok (by decide +kernel))⟩ (by decide +kernel) rfl (by decide +kernel) (by decide +kernel) (by decide +kernel)
    exact ⟨t, e⟩
  · obtain ⟨t, e, -⟩ := h.2.2.2.2.1 3 (acc (sqReg 3 0x14)) 17 { (sqs []) with tether := { te.tether with sqs := [(3, { state := 1 })] } } ⟨(by decide +kernel), (by decide +kernel), (exists_ok (by decide +kernel))⟩ (by decide +kernel) (by decide +kernel)
    exact ⟨t, e⟩
  · obtain ⟨t, e, -⟩ := h.2.2.2.2.2.1 { fr 4 with psn := 21, ackPsn := 20, length := 1472, payload := List.replicate 1472 7 } _ _ ter _ ⟨(by decide +kernel), ⟨(by decide +kernel), (by decide +kernel)⟩, (by decide +kernel), (by decide +kernel), (by decide +kernel), (by decide +kernel), (by decide +kernel)⟩ (by decide +kernel) rfl (List.cons_head_tail (by decide +kernel)).symm (by decide +kernel) (by decide +kernel) (by decide +kernel) (by decide +kernel) (by decide +kernel) (by decide +kernel) (by decide +kernel) (by decide +kernel) (by decide +kernel) (by decide +kernel) rfl
    exact ⟨t, e⟩
  · obtain ⟨t, e, -⟩ := h.2.2.2.2.2.2.1 { fr 6 with psn := 20, ackPsn := 19, length := 0, payload := [] } _ _ _ tef ⟨(by decide +kernel), ⟨(by decide +kernel), (by decide +kernel)⟩, (by decide +kernel), (by decide +kernel), (by decide +kernel), (by decide +kernel), (by decide +kernel)⟩ (by decide +kernel) rfl (Option.some_get (by decide +kernel)).symm (by decide +kernel) (by decide +kernel) (by decide +kernel) (by decide +kernel) (by decide +kernel) (by decide +kernel) (List.cons_head_tail (by decide +kernel)).symm (by decide +kernel) (by decide +kernel) (by decide +kernel) (by decide +kernel)
    exact ⟨t, e⟩
  · obtain ⟨t, e, -⟩ := h.2.2.2.2.2.2.2.1 { fr 7 with psn := 0, ackPsn := 20, length := 0, payload := [] } _ tew _ (by decide +kernel) (by decide +kernel) (by decide +kernel) (by decide +kernel) (by decide +kernel) (by decide +kernel) rfl (by decide +kernel) (by decide +kernel) rfl (by decide +kernel) (by decide +kernel) (by decide +kernel) (by decide +kernel) (by decide +kernel) (by decide +kernel)
    exact ⟨t, e⟩
  · obtain ⟨t, e, -⟩ := h.2.2.2.2.2.2.2.2.1 { fr 8 with psn := 0, ackPsn := 19, length := 0, payload := [], status := 0xD0 } _ tew _ ⟨(by decide +kernel), ⟨(by decide +kernel), (by decide +kernel)⟩, (by decide +kernel), (by decide +kernel), (by decide +kernel), (by decide +kernel), (by decide +kernel)⟩ (by decide +kernel) rfl (by decide +kernel) (by decide +kernel) (by decide +kernel) rfl
    exact ⟨t, e⟩
  · obtain ⟨t, e, -⟩ := h.2.2.2.2.2.2.2.2.2.1 { fr 8 with psn := 20, ackPsn := 19, length := 0, payload := [], status := 3 } tef _ ⟨(by decide +kernel), ⟨(by decide +kernel), (by decide +kernel)⟩, (by decide +kernel), (by decide +kernel), (by decide +kernel), (by decide +kernel), (by decide +kernel)⟩ (by decide +kernel) (by decide +kernel) (by decide +kernel) rfl
    exact ⟨t, e⟩
  · obtain ⟨t, e, -⟩ := h.2.2.2.2.2.2.2.2.2.2.1 5 _ tew _ (by decide +kernel) rfl (by decide +kernel) (by decide +kernel) (by decide +kernel) (by decide +kernel) rfl
    exact ⟨t, e⟩
  · obtain ⟨t, e, -⟩ := h.2.2.2.2.2.2.2.2.2.2.2.1 5 _ { tew with tether := { tew.tether with conns := [(5, { state := 1, mac := 0xAA, remote := 9, epsn := 10, psn := 21, high := 21, oldest := 20, since := 900000, ops := [wrOp], rounds := 7 })] } } (by decide +kernel) rfl (by decide +kernel) (by decide +kernel) (by decide +kernel) (by decide +kernel)
    exact ⟨t, e⟩
  · exact h.2.2.2.2.2.2.2.2.2.2.2.2 5 { tew with tether := { tew.tether with conns := [(5, { state := 1, psn := 2000, high := 2000, oldest := 20, ops := [wrOp], rounds := 7 })] } } (by decide +kernel)

theorem wit_TetherManagesConnections (h : Obligations.TetherManagesConnections) :
    (∃ t, exec (Instr.connEnable 6 (acc 0x16400240)) (setReg (0x16400208) (2^18) te) = .next t) ∧
    (∃ t, exec (Instr.connEnable 6 (acc 0x16400240)) te = .next t) ∧
    (∃ t, exec (.connQuery 6 (acc 0x16400240)) up = .next t) ∧
    (∃ t, exec (Instr.connDisable 5 (acc 0x16400240)) tew = .next t) ∧
    (∃ t, exec (Instr.connQuery 5 (acc 0x16400240)) tew = .next t) ∧
    (∃ t, exec (Instr.register 9 (acc 0x16400318)) rg = .next t) ∧
    (∃ t, exec (Instr.register 2 (acc 0x16400318)) rg = .next t) ∧
    (∃ t, exec (Instr.deregister 2 (acc 0x16400318)) rg = .next t) := by
  refine ⟨?_, ?_, ?_, ?_, ?_, ?_, ?_, ?_⟩
  · obtain ⟨t, e, -⟩ := h.1 6 (acc 0x16400240) (setReg (0x16400208) (2^18) te) ⟨(by decide +kernel), (by decide +kernel), (exists_ok (by decide +kernel))⟩ (by decide +kernel) (by decide +kernel) (by decide +kernel) (by decide +kernel) (by decide +kernel)
    exact ⟨t, e⟩
  · obtain ⟨t, e, -⟩ := h.2.1 6 (acc 0x16400240) te ⟨(by decide +kernel), (by decide +kernel), (exists_ok (by decide +kernel))⟩ (by decide +kernel) (by decide +kernel) (by decide +kernel) (by decide +kernel)
    exact ⟨t, e⟩
  · obtain ⟨t, e, -⟩ := h.2.2.1 6 (acc 0x16400240) (.connQuery 6 (acc 0x16400240)) up ⟨(by decide +kernel), (by decide +kernel), (exists_ok (by decide +kernel))⟩ (by decide +kernel) (by simp)
    exact ⟨t, e⟩
  · obtain ⟨t, e, -⟩ := h.2.2.2.1 5 (acc 0x16400240) tew ⟨(by decide +kernel), (by decide +kernel), (exists_ok (by decide +kernel))⟩ (by decide +kernel) (by decide +kernel)
    exact ⟨t, e⟩
  · obtain ⟨t, e, -⟩ := h.2.2.2.2.1 5 (acc 0x16400240) _ tew ⟨(by decide +kernel), (by decide +kernel), (exists_ok (by decide +kernel))⟩ (by decide +kernel) rfl
    exact ⟨t, e⟩
  · obtain ⟨t, e, -⟩ := h.2.2.2.2.2.1 9 (acc 0x16400318) _ _ _ rg ⟨(by decide +kernel), (by decide +kernel), (exists_ok (by decide +kernel))⟩ (by decide +kernel) rfl rfl rfl (by decide +kernel) (by decide +kernel) (by decide +kernel) (by decide +kernel) (by decide +kernel) (by decide +kernel) (by decide +kernel) (by decide +kernel) (by decide +kernel)
    exact ⟨t, e⟩
  · obtain ⟨t, e, -⟩ := h.2.2.2.2.2.2.1 2 (acc 0x16400318) rg ⟨(by decide +kernel), (by decide +kernel), (exists_ok (by decide +kernel))⟩ (by decide +kernel) (by decide +kernel)
    exact ⟨t, e⟩
  · obtain ⟨t, e, -⟩ := h.2.2.2.2.2.2.2 2 (acc 0x16400318) rg ⟨(by decide +kernel), (by decide +kernel), (exists_ok (by decide +kernel))⟩ (by decide +kernel)
    exact ⟨t, e⟩

end O

namespace P

def hw (at1 : Nat) (s : State) : State := setOd (hwKey 0 3) at1 (setOd (hwKey 0 1) (2 ^ 31 + 65536) s)
def A0 : Nat := 2^28 + 65536
def hs : State := hw A0 up
def hl : State := hw (A0 + 64) up
def hp : State := hw (A0 + 32) up
def hacc (a : Nat) : Access := accr 3 a
def inw : State := setOd (odKey 0x3220 1) (2^63 + 2^62 + 2^24 + 0x401000) { up with start := { up.start with pcieMode := true } }
def far : State := { up with odStart := [(odKey 0x3200 2, 1)] }
def farw : State := setOd (odKey 0x3200 5) (2^63 + 2^62 + 2^24 + 0x401000) { far with splice := { farReq := true, granted := true } }
def pl : State := { up with odBlob := [(odKey 0x3200 7, leBytes 8 0x30000010 ++ leBytes 4 0xFF ++ leBytes 4 7 ++ leBytes 2 10 ++ leBytes 2 0xFFFF ++ zeros 12)], splice := { polls := [(0, { base := false, last := some 995000, value := 3, count := 4 })] } }

theorem wit_SpliceCarriesHawserAccesses (h : Obligations.SpliceCarriesHawserAccesses) :
    (∃ t, exec (Instr.hawserAccess (hacc 0x20000004) 2 none (FarAnswer.data [1, 2])) hs = .next t) ∧
    (∃ t, exec (Instr.hawserAccess (hacc 0x20000004) 8 none (FarAnswer.data [1, 2, 3, 4, 5, 6, 7, 8])) hs = .next t) ∧
    (∃ t, exec (Instr.hawserAccess (hacc 0x20000005) 0 (some [9]) (FarAnswer.data [])) ({ hs with splice := { lines := [(2, some { addr := 0x20000000, win := 0, data := [], at' := 3 })] } }) = .next t) ∧
    (∃ t, exec (Instr.hawserAccess (hacc 0x20000004) 2 none (FarAnswer.stall 0)) hs = .next t) ∧
    (∃ t, exec (Instr.hawserAccess (hacc 0x20000004) 2 none (.data [])) ({ hp with splice := { lines := [(2, some { addr := 0x20000000, win := 0, data := List.replicate 64 5, at' := 999000 })], lru := [1,2] } }) = .next t) ∧
    (∃ t, exec (Instr.hawserAccess (hacc 0x20000004) 2 none (FarAnswer.data (List.replicate 64 5))) hp = .next t) ∧
    (∃ t, exec (Instr.prefetchExpiry 2) ({ hp with splice := { lines := [(2, some { addr := 0x20000000, win := 0, data := List.replicate 64 5, at' := 999000 })], lru := [1,2] } }) = .next t) ∧
    (∃ t, exec (Instr.spliceTimeout (hacc 0x20000004) true 0) hs = .next t) ∧
    (∃ t, exec (Instr.hawserAmo ({hacc 0x20000004 with bits := 16}) AmoOp.add 7 (FarAnswer.data [255, 255])) hl = .next t) ∧
    (∃ t, exec (Instr.hawserLr ({hacc 0x20000004 with bits := 16}) (FarAnswer.data [255, 255])) hl = .next t) ∧
    (∃ t, exec (Instr.hawserSc ({hacc 0x20000004 with bits := 16}) 77 (FarAnswer.data [])) ({ hl with splice := { lock := some { req := 3, addr := 0x20000004, at' := 999000 } } }) = .next t) ∧
    (∃ t, exec (Instr.hawserSc ({hacc 0x20000004 with bits := 16}) 77 (.data [])) hl = .next t) ∧
    (∃ t, exec Instr.lockExpiry ({ hl with splice := { lock := some { req := 3, addr := 0x20000004, at' := 999000 } } }) = .next t) := by
  refine ⟨?_, ?_, ?_, ?_, ?_, ?_, ?_, ?_, ?_, ?_, ?_, ?_, ?_⟩
  · obtain ⟨t, e, -⟩ := h.1 (hacc 0x20000004) 2 0 4 [1,2] hs ⟨⟨(by decide +kernel), (by decide +kernel), (by decide +kernel), (by decide +kernel)⟩, (by decide +kernel), ⟨(by decide +kernel), (by decide +kernel)⟩, (by decide +kernel)⟩ ⟨(by decide +kernel), (by decide +kernel)⟩ (by decide +kernel) (by decide +kernel)
    exact ⟨t, e⟩
  · obtain ⟨t, e, -⟩ := h.2.1 (hacc 0x20000004) 8 0 4 [1,2,3,4,5,6,7,8] hs ⟨⟨(by decide +kernel), (by decide +kernel), (by decide +kernel), (by decide +kernel)⟩, (by decide +kernel), ⟨(by decide +kernel), (by decide +kernel)⟩, (by decide +kernel)⟩ ⟨(by decide +kernel), (by decide +kernel)⟩ (by decide +kernel) (by decide +kernel)
    exact ⟨t, e⟩
  · obtain ⟨t, e, -⟩ := h.2.2.1 (hacc 0x20000005) 0 5 [9] [] 0 { hs with splice := { lines := [(2, some { addr := 0x20000000, win := 0, data := [], at' := 3 })] } } ⟨⟨(by decide +kernel), (by decide +kernel), (by decide +kernel), (by decide +kernel)⟩, (by decide +kernel), ⟨(by decide +kernel), (by decide +kernel)⟩, (by decide +kernel)⟩ ⟨(by decide +kernel), (by decide +kernel)⟩ (by decide +kernel)
    exact ⟨t, e⟩
  · obtain ⟨t, e, -⟩ := h.2.2.2.1 (hacc 0x20000004) 2 0 4 hs ⟨⟨(by decide +kernel), (by decide +kernel), (by decide +kernel), (by decide +kernel)⟩, (by decide +kernel), ⟨(by decide +kernel), (by decide +kernel)⟩, (by decide +kernel)⟩ ⟨(by decide +kernel), (by decide +kernel)⟩ (by decide +kernel) (by decide +kernel)
    exact ⟨t, e⟩
  · obtain ⟨t, e, -⟩ := h.2.2.2.2.1 (hacc 0x20000004) 2 0 4 _ _ (.data []) { hp with splice := { lines := [(2, some { addr := 0x20000000, win := 0, data := List.replicate 64 5, at' := 999000 })], lru := [1,2] } } ⟨⟨(by decide +kernel), (by decide +kernel), (by decide +kernel), (by decide +kernel)⟩, (by decide +kernel), ⟨(by decide +kernel), (by decide +kernel)⟩, (by decide +kernel)⟩ ⟨(by decide +kernel), (by decide +kernel)⟩ (by decide +kernel) (some_pair (by decide +kernel))
    exact ⟨t, e⟩
  · obtain ⟨t, e, -⟩ := h.2.2.2.2.2.1 (hacc 0x20000004) 2 0 4 _ _ (List.replicate 64 5) hp ⟨⟨(by decide +kernel), (by decide +kernel), (by decide +kernel), (by decide +kernel)⟩, (by decide +kernel), ⟨(by decide +kernel), (by decide +kernel)⟩, (by decide +kernel)⟩ ⟨(by decide +kernel), (by decide +kernel)⟩ (by decide +kernel) (by decide +kernel) (some_pair (by decide +kernel)) (by decide +kernel) (by decide +kernel)
    exact ⟨t, e⟩
  · obtain ⟨t, e, -⟩ := h.2.2.2.2.2.2.1 2 _ { hp with splice := { lines := [(2, some { addr := 0x20000000, win := 0, data := List.replicate 64 5, at' := 999000 })], lru := [1,2] } } (by decide +kernel) (Option.some_get (by decide +kernel)).symm
    exact ⟨t, e⟩
  · obtain ⟨t, e, -⟩ := h.2.2.2.2.2.2.2.1 (hacc 0x20000004) true 0 .hawser hs ⟨(by decide +kernel), (by decide +kernel), (by decide +kernel), (by decide +kernel)⟩ ⟨(by decide +kernel), (by decide +kernel)⟩
    exact ⟨t, e⟩
  · obtain ⟨t, e, -⟩ := h.2.2.2.2.2.2.2.2.1 ({hacc 0x20000004 with bits := 16}) .add 7 0 4 2 [0xff,0xff] hl (by decide +kernel) ⟨⟨(by decide +kernel), (by decide +kernel), (by decide +kernel), (by decide +kernel)⟩, (by decide +kernel), ⟨(by decide +kernel), (by decide +kernel)⟩, (by decide +kernel)⟩ ⟨(by decide +kernel), (by decide +kernel)⟩ (by decide +kernel) (by decide +kernel)
    exact ⟨t, e⟩
  · obtain ⟨t, e, -⟩ := h.2.2.2.2.2.2.2.2.2.1 ({hacc 0x20000004 with bits := 16}) 0 4 2 [0xff,0xff] hl (by decide +kernel) ⟨⟨(by decide +kernel), (by decide +kernel), (by decide +kernel), (by decide +kernel)⟩, (by decide +kernel), ⟨(by decide +kernel), (by decide +kernel)⟩, (by decide +kernel)⟩ ⟨(by decide +kernel), (by decide +kernel)⟩ (by decide +kernel) (by decide +kernel)
    exact ⟨t, e⟩
  · obtain ⟨t, e, -⟩ := h.2.2.2.2.2.2.2.2.2.2.1 ({hacc 0x20000004 with bits := 16}) 77 0 4 2 _ [] { hl with splice := { lock := some { req := 3, addr := 0x20000004, at' := 999000 } } } (by decide +kernel) ⟨⟨(by decide +kernel), (by decide +kernel), (by decide +kernel), (by decide +kernel)⟩, (by decide +kernel), ⟨(by decide +kernel), (by decide +kernel)⟩, (by decide +kernel)⟩ (by decide +kernel) (by decide +kernel) (Option.some_get (by decide +kernel)).symm (by decide +kernel) (by decide +kernel) (by decide +kernel) (by decide +kernel)
    exact ⟨t, e⟩
  · obtain ⟨t, e, -⟩ := h.2.2.2.2.2.2.2.2.2.2.2.1 ({hacc 0x20000004 with bits := 16}) 77 0 4 2 (.data []) hl (by decide +kernel) ⟨(by decide +kernel), (by decide +kernel), (by decide +kernel), (by decide +kernel)⟩ (by decide +kernel) ⟨(by decide +kernel), (by decide +kernel)⟩ (by decide +kernel)
    exact ⟨t, e⟩
  · obtain ⟨t, e, -⟩ := h.2.2.2.2.2.2.2.2.2.2.2.2 _ { hl with splice := { lock := some { req := 3, addr := 0x20000004, at' := 999000 } } } (by decide +kernel) (Option.some_get (by decide +kernel)).symm (by decide +kernel)
    exact ⟨t, e⟩

theorem wit_SpliceCarriesPcieAndFarSides (h : Obligations.SpliceCarriesPcieAndFarSides) :
    (∃ t, exec (Instr.pcieOutboundAccess (hacc 0x30000004) 4 none (FarAnswer.data [1, 2, 3, 4])) up = .next t) ∧
    (∃ t, exec (Instr.pcieOutboundAccess (hacc 0x1000000004) 4 (some [1, 2, 3, 4]) (.data [])) up = .next t) ∧
    (∃ t, exec (Instr.pcieOutboundAccess (hacc 0x30000004) 4 none FarAnswer.poisoned) up = .next t) ∧
    (∃ t, exec (Instr.semaphoreAmo (hacc 0x30000004) AmoOp.xor 255 (FarAnswer.data [1, 2, 3, 4])) up = .next t) ∧
    (∃ t, exec (Instr.semaphoreLr (hacc 0x30000004) (FarAnswer.data [1, 2, 3, 4])) up = .next t) ∧
    (∃ t, exec (Instr.semaphoreSc (hacc 0x30000004) 5 (.data [])) ({ up with splice := { sems := [(0x30000004/64, some { req := 3, addr := 0x30000004, at' := 999000 })] } }) = .next t) ∧
    (∃ t, exec (Instr.semaphoreSc (hacc 0x30000004) 5 (.data [])) up = .next t) ∧
    (∃ t, exec (Instr.semaphoreExpiry 5) ({ up with splice := { sems := [(5, some { req := 3, addr := 325, at' := 999000 }),(6, some { req := 3, addr := 325, at' := 999000 })] } }) = .next t) ∧
    (∃ t, exec (Instr.pcieInboundRequest 64 0 (some (List.map some (List.replicate 64 3)))) inw = .next t) ∧
    (∃ t, exec (Instr.pcieInboundRequest 64 64 none) inw = .next t) ∧
    (∃ t, exec (Instr.pcieInboundRequest (2 ^ 40) 64 none) inw = .next t) ∧
    (∃ t, exec (Instr.pcieInboundRequest (odUse up (odKey 12800 16)) 0 (some [some 6])) up = .next t) ∧
    (∃ t, exec Instr.pcieIntx up = .next t) ∧
    (∃ t, exec Instr.aerError up = .next t) ∧
    (∃ t, exec (Instr.epMsi (hacc 0x17000040) 5 true) inw = .next t) ∧
    (∃ t, exec Instr.farMasterRequest far = .next t) ∧
    (∃ t, exec Instr.farMasterRequest ({ far with splice := { lock := some { req := 3, addr := 0x20000004, at' := 999000 } } }) = .next t) ∧
    (∃ t, exec Instr.farMasterRelease ({ far with splice := { farReq := true, granted := true } }) = .next t) ∧
    (∃ t, exec (Instr.farMasterCycle 64 0 (some (List.map some (List.replicate 64 3)))) farw = .next t) ∧
    (∃ t, exec (Instr.farMasterCycle 64 64 none) farw = .next t) ∧
    (∃ t, exec (Instr.farMasterCycle (2 ^ 30) 64 none) farw = .next t) ∧
    (∃ t, exec (Instr.pollRead 0 (FarAnswer.data [7, 1, 1, 1])) pl = .next t) ∧
    (∃ t, exec (Instr.pollRead 0 FarAnswer.refused) pl = .next t) := by
  refine ⟨?_, ?_, ?_, ?_, ?_, ?_, ?_, ?_, ?_, ?_, ?_, ?_, ?_, ?_, ?_, ?_, ?_, ?_, ?_, ?_, ?_, ?_, ?_⟩
  · obtain ⟨t, e, -⟩ := h.1 (hacc 0x30000004) 4 [1,2,3,4] up ⟨(by decide +kernel), (by decide +kernel), (by decide +kernel), (by decide +kernel)⟩ ⟨(by decide +kernel), (by decide +kernel)⟩ (by decide +kernel) (by decide +kernel)
    exact ⟨t, e⟩
  · obtain ⟨t, e, -⟩ := h.2.1 (hacc 0x1000000004) 4 [1,2,3,4] (.data []) up ⟨(by decide +kernel), (by decide +kernel), (by decide +kernel), (by decide +kernel)⟩ ⟨(by decide +kernel), (by decide +kernel)⟩ (by decide +kernel) (by decide +kernel)
    exact ⟨t, e⟩
  · obtain ⟨t, e, -⟩ := h.2.2.1 (hacc 0x30000004) 4 .poisoned 9 up ⟨(by decide +kernel), (by decide +kernel), (by decide +kernel), (by decide +kernel)⟩ ⟨(by decide +kernel), (by decide +kernel)⟩ (by decide +kernel) (by decide +kernel) (by decide +kernel)
    exact ⟨t, e⟩
  · obtain ⟨t, e, -⟩ := h.2.2.2.1 (hacc 0x30000004) .xor 0xFF [1,2,3,4] 4 _ up (by decide +kernel) ⟨(by decide +kernel), (by decide +kernel), (by decide +kernel), (by decide +kernel)⟩ ⟨(by decide +kernel), (by decide +kernel)⟩ (by decide +kernel) rfl
    exact ⟨t, e⟩
  · obtain ⟨t, e, -⟩ := h.2.2.2.2.1 (hacc 0x30000004) [1,2,3,4] 4 _ up (by decide +kernel) ⟨(by decide +kernel), (by decide +kernel), (by decide +kernel), (by decide +kernel)⟩ ⟨(by decide +kernel), (by decide +kernel)⟩ (by decide +kernel) rfl
    exact ⟨t, e⟩
  · obtain ⟨t, e, -⟩ := h.2.2.2.2.2.1 (hacc 0x30000004) 5 _ (.data []) 4 _ { up with splice := { sems := [(0x30000004/64, some { req := 3, addr := 0x30000004, at' := 999000 })] } } (by decide +kernel) ⟨(by decide +kernel), (by decide +kernel), (by decide +kernel), (by decide +kernel)⟩ (by decide +kernel) (by decide +kernel) rfl (Option.some_get (by decide +kernel)).symm (by decide +kernel) (by decide +kernel) (by decide +kernel)
    exact ⟨t, e⟩
  · obtain ⟨t, e, -⟩ := h.2.2.2.2.2.2.1 (hacc 0x30000004) 5 (.data []) 4 up (by decide +kernel) ⟨(by decide +kernel), (by decide +kernel), (by decide +kernel), (by decide +kernel)⟩ ⟨(by decide +kernel), (by decide +kernel)⟩
    exact ⟨t, e⟩
  · obtain ⟨t, e, -⟩ := h.2.2.2.2.2.2.2.1 5 _ { up with splice := { sems := [(5, some { req := 3, addr := 325, at' := 999000 }),(6, some { req := 3, addr := 325, at' := 999000 })] } } (by decide +kernel) (Option.some_get (by decide +kernel)).symm
    exact ⟨t, e⟩
  · obtain ⟨t, e, -⟩ := h.2.2.2.2.2.2.2.2.1 64 0 _ (List.replicate 64 3) inw (by decide +kernel) (by decide +kernel) (Option.some_get (by decide +kernel)).symm (by decide +kernel) (by decide +kernel) (by decide +kernel)
    exact ⟨t, e⟩
  · obtain ⟨t, e, -⟩ := h.2.2.2.2.2.2.2.2.2.1 64 64 _ _ inw _ (by decide +kernel) (Option.some_get (by decide +kernel)).symm (by decide +kernel) (pair_some (by decide +kernel))
    exact ⟨t, e⟩
  · obtain ⟨t, e, -⟩ := h.2.2.2.2.2.2.2.2.2.2.1 (2^40) 64 inw (by decide +kernel) (by decide +kernel)
    exact ⟨t, e⟩
  · obtain ⟨t, e, -⟩ := h.2.2.2.2.2.2.2.2.2.2.2.1 _ 0 6 up (by decide +kernel) (by decide +kernel) rfl
    exact ⟨t, e⟩
  · obtain ⟨t, e, -⟩ := h.2.2.2.2.2.2.2.2.2.2.2.2.1 up (by decide +kernel)
    exact ⟨t, e⟩
  · obtain ⟨t, e, -⟩ := h.2.2.2.2.2.2.2.2.2.2.2.2.2.1 _ up (by decide +kernel) rfl
    exact ⟨t, e⟩
  · obtain ⟨t, e, -⟩ := h.2.2.2.2.2.2.2.2.2.2.2.2.2.2.1 (hacc 0x17000040) 5 inw ⟨(by decide +kernel), (by decide +kernel), (exists_ok (by decide +kernel))⟩ (by decide +kernel) (by decide +kernel)
    exact ⟨t, e⟩
  · obtain ⟨t, e, -⟩ := h.2.2.2.2.2.2.2.2.2.2.2.2.2.2.2.1 far (by decide +kernel) (by decide +kernel) (by decide +kernel) (by decide +kernel)
    exact ⟨t, e⟩
  · obtain ⟨t, e, -⟩ := h.2.2.2.2.2.2.2.2.2.2.2.2.2.2.2.2.1 _ { far with splice := { lock := some { req := 3, addr := 0x20000004, at' := 999000 } } } (by decide +kernel) (by decide +kernel) (by decide +kernel) (Option.some_get (by decide +kernel)).symm
    exact ⟨t, e⟩
  · obtain ⟨t, e, -⟩ := h.2.2.2.2.2.2.2.2.2.2.2.2.2.2.2.2.2.1 { far with splice := { farReq := true, granted := true } } (by decide +kernel) (by decide +kernel) (by decide +kernel)
    exact ⟨t, e⟩
  · obtain ⟨t, e, -⟩ := h.2.2.2.2.2.2.2.2.2.2.2.2.2.2.2.2.2.2.1 64 0 _ (List.replicate 64 3) farw (by decide +kernel) (by decide +kernel) (Option.some_get (by decide +kernel)).symm (by decide +kernel) (by decide +kernel) (by decide +kernel)
    exact ⟨t, e⟩
  · obtain ⟨t, e, -⟩ := h.2.2.2.2.2.2.2.2.2.2.2.2.2.2.2.2.2.2.2.1 64 64 _ _ farw _ (by decide +kernel) (by decide +kernel) (Option.some_get (by decide +kernel)).symm (by decide +kernel) (pair_some (by decide +kernel))
    exact ⟨t, e⟩
  · obtain ⟨t, e, -⟩ := h.2.2.2.2.2.2.2.2.2.2.2.2.2.2.2.2.2.2.2.2.1 (2^30) 64 farw (by decide +kernel) (by decide +kernel) (by decide +kernel)
    exact ⟨t, e⟩
  · obtain ⟨t, e, -⟩ := h.2.2.2.2.2.2.2.2.2.2.2.2.2.2.2.2.2.2.2.2.2.1 0 _ [7,1,1,1] _ _ _ _ _ _ pl (by decide +kernel) rfl (by decide +kernel) rfl (by decide +kernel) rfl (by decide +kernel) (by decide +kernel) rfl (Option.some_get (by decide +kernel)).symm rfl rfl (by decide +kernel) (by decide +kernel) (by decide +kernel)
    exact ⟨t, e⟩
  · obtain ⟨t, e, -⟩ := h.2.2.2.2.2.2.2.2.2.2.2.2.2.2.2.2.2.2.2.2.2.2 0 _ _ _ _ _ pl (by decide +kernel) rfl (by decide +kernel) rfl (by decide +kernel) rfl (by decide +kernel) (by decide +kernel) rfl (Option.some_get (by decide +kernel)).symm
    exact ⟨t, e⟩

end P

namespace Q

def key : List Byte := List.replicate 16 9
def w0 : State := (setOd (pendantOd 0 2) 5 (setOd (pendantOd 0 1) 1 (setOd (odKey 0x3300 1) 15 { up with od := [(odKey 0x1018 4, 77)], wh := { pendants := [(0, { h := 100, seen := 7, accepted := 3, committed := 90, key := some key, armed := true, timer := some 900 })], fifo := [{channel := 0, slot := 1, command := 2, body := 3, gtime := 4, counter := 5}], lost := 3 } })))
def body : Nat → Nat → Word
  | 1, 101 => 1408476093394018
  | 16, 101 => 1424968778528737
  | 33, 95 => 1443660377841112
  | 48, 130 => 1460153638207659
  | 64, 101 => 1477745335044967
  | 65, 100 => 1478844827771627
  | 65, 101 => 1478844838244720
  | 65, 60 => 1478844159774581
  | 85, 101 => 1500835082005157
  | _, _ => 0

theorem wit_WhistleFramesAreJudged (h : Obligations.WhistleFramesAreJudged) :
    (∃ t, exec (.hitchUp 0 (body 0x10 101)) w0 = .next t) ∧
    (whAdvance ({ h := 100, seen := 5 }) (↑(Pendant.h ({ h := 100, seen := 5 })) + 1) = { h := Pendant.h ({ h := 100, seen := 5 }) + 1, seen := (Pendant.seen ({ h := 100, seen := 5 }) * 2 + 1) % 2 ^ 32, accepted := Pendant.accepted ({ h := 100, seen := 5 }), committed := Pendant.committed ({ h := 100, seen := 5 }), key := Pendant.key ({ h := 100, seen := 5 }), armed := Pendant.armed ({ h := 100, seen := 5 }), timer := Pendant.timer ({ h := 100, seen := 5 }) }) ∧
    (↑100 - 32768 ≤ fullCounter 100 65530 ∧ fullCounter 100 65530 ≤ ↑100 + 32767 ∧ fullCounter 100 65530 % 65536 = ↑65530) ∧
    (replayCheck ({ h := 100, seen := 5 }) ↑(Pendant.h ({ h := 100, seen := 5 })) = 3 ∧ (∀ (c : Int), c < ↑(Pendant.h ({ h := 100, seen := 5 })) - 32 → replayCheck ({ h := 100, seen := 5 }) c = 4) ∧ (∀ (c : Int), ↑(Pendant.h ({ h := 100, seen := 5 })) < c → replayCheck ({ h := 100, seen := 5 }) c = 0) ∧ ∀ (n : Nat), n < 32 → bit (Pendant.seen ({ h := 100, seen := 5 })) n = true → replayCheck ({ h := 100, seen := 5 }) (↑(Pendant.h ({ h := 100, seen := 5 })) - 1 - ↑n) = 3) ∧
    (∃ t, exec (Instr.whistleStop 0 (body 0x01 101)) w0 = .next t) ∧
    (∃ t, exec (Instr.whistleArm 0 (body 0x40 101)) w0 = .next t) ∧
    (∃ t, exec (Instr.whistleDisarm 0 (body 0x41 101)) w0 = .next t) ∧
    (∃ t, exec (Instr.rejectedFrame 0 (body 0x41 100)) w0 = .next t) ∧
    (whCheck w0 0 = Except.error 1) ∧
    (whCheck w0 (body 16 101 + 1).toNat = Except.error 2) ∧
    (∃ t, exec (Instr.whistleCodingError 2) w0 = .next t) := by
  refine ⟨?_, ?_, ?_, ?_, ?_, ?_, ?_, ?_, ?_, ?_, ?_⟩
  · obtain ⟨t, e, -⟩ := h.1 0 (body 0x10 101) 0 0x10 101 (.hitchUp 0 (body 0x10 101)) _ _ w0 (by simp) (by decide +kernel) (by decide +kernel) (by decide +kernel) (eq_of_isOk (by decide +kernel)) (by decide +kernel) rfl rfl (by decide +kernel)
    exact ⟨t, e⟩
  · exact h.2.1 { h := 100, seen := 5 }
  · exact h.2.2.1 100 65530 (by decide +kernel)
  · exact h.2.2.2.1 { h := 100, seen := 5 }
  · obtain ⟨t, e, -⟩ := h.2.2.2.2.1 0 (body 0x01 101) 0 101 w0 (by decide +kernel) (by decide +kernel) (by decide +kernel) (eq_of_isOk (by decide +kernel))
    exact ⟨t, e⟩
  · obtain ⟨t, e, -⟩ := h.2.2.2.2.2.1 0 (body 0x40 101) 0 101 w0 (by decide +kernel) (by decide +kernel) (by decide +kernel) (eq_of_isOk (by decide +kernel))
    exact ⟨t, e⟩
  · obtain ⟨t, e, -⟩ := h.2.2.2.2.2.2.1 0 (body 0x41 101) 0 101 w0 (by decide +kernel) (by decide +kernel) (by decide +kernel) (eq_of_isOk (by decide +kernel))
    exact ⟨t, e⟩
  · obtain ⟨t, e, -⟩ := h.2.2.2.2.2.2.2.1 0 (body 0x41 100) 3 w0 (by decide +kernel) (by decide +kernel) (eq_of_isErr (by decide +kernel)) (all_some (by decide +kernel))
    exact ⟨t, e⟩
  · exact h.2.2.2.2.2.2.2.2.1 0 w0 (by decide +kernel)
  · exact h.2.2.2.2.2.2.2.2.2.1 (body 16 101 + 1).toNat 0 key w0 (by decide +kernel) (by decide +kernel) (by decide +kernel)
  · obtain ⟨t, e, -⟩ := h.2.2.2.2.2.2.2.2.2.2 2 w0 (by decide +kernel) (by decide +kernel)
    exact ⟨t, e⟩

theorem wit_WhistleWatchesItsChannels (h : Obligations.WhistleWatchesItsChannels) :
    (∃ t, exec (Instr.ambientSample 2 5) w0 = .next t) ∧
    (∃ t, exec (.ambientSample 2 5000) w0 = .next t) ∧
    (∃ t, exec (Instr.floodClear 2) ({ w0 with wh := { w0.wh with flooded := 6, noisyAt := [(2, 1000000)] } }) = .next t) ∧
    (∃ t, exec (Instr.heartbeatLost 0) w0 = .next t) ∧
    (∃ t, exec (Instr.disarmAll (accr 0x10 0x17800060) 1) w0 = .next t) ∧
    (∃ t, exec (Instr.recPop (accr 0x10 0x1780005C) 1) w0 = .next t) := by
  refine ⟨?_, ?_, ?_, ?_, ?_, ?_⟩
  · obtain ⟨t, e, -⟩ := h.1 2 5 w0 (by decide +kernel) (by decide +kernel)
    exact ⟨t, e⟩
  · obtain ⟨t, e, -⟩ := h.2.1 2 5000 2 (.ambientSample 2 5000) w0 (by decide +kernel) (by decide +kernel) (by decide +kernel) (by decide +kernel) (by decide +kernel)
    exact ⟨t, e⟩
  · obtain ⟨t, e, -⟩ := h.2.2.1 2 2 { w0 with wh := { w0.wh with flooded := 6, noisyAt := [(2, 1000000)] } } (by decide +kernel) (by decide +kernel) (by decide +kernel) (by decide +kernel)
    exact ⟨t, e⟩
  · obtain ⟨t, e, -⟩ := h.2.2.2.1 0 _ 900 w0 (by decide +kernel) (by decide +kernel) rfl (by decide +kernel) (by decide +kernel)
    exact ⟨t, e⟩
  · obtain ⟨t, e, -⟩ := h.2.2.2.2.1 (accr 0x10 0x17800060) 1 w0 ⟨(by decide +kernel), (by decide +kernel), (exists_ok (by decide +kernel))⟩ (by decide +kernel)
    exact ⟨t, e⟩
  · obtain ⟨t, e, -⟩ := h.2.2.2.2.2 (accr 0x10 0x1780005C) 1 w0 ⟨(by decide +kernel), (by decide +kernel), (exists_ok (by decide +kernel))⟩ (by decide +kernel)
    exact ⟨t, e⟩

end Q

namespace FZ

def f0 : State := { (setOd (odKey 0x2300 2) 0x23 up) with frz := { on := true } }
def pc : Capture := { target := 2002000, sources := 2, bank := 0 }
def fp (c : Capture) : State := { f0 with frz := { f0.frz with pending := some c } }
def fu (n : Nat) : State := { f0 with frz := { f0.frz with full := n } }
def fd (l : List Nat) : State := { f0 with frz := { f0.frz with recordDue := [(1, List.replicate 128 7)], records := l.map (fun i => (i, List.replicate 128 3)) } }

theorem wit_FreezeFramesAreTaken (h : Obligations.FreezeFramesAreTaken) :
    (∃ t, exec (Instr.frzTrigPin 1000 1000) f0 = .next t) ∧
    (∃ t, exec (Instr.frzTrigPin 1000 1000) (fp { pc with sources := 1 }) = .next t) ∧
    (∃ t, exec (Instr.frzTrigPin 1000 1000) (fu 3) = .next t) ∧
    (∃ t, exec (Instr.frzSwTrig (accr 0x10 0x10200080) 1) f0 = .next t) ∧
    (∃ t, exec (Instr.frzTriggerNow (msg 4 (odKey 0x2300 1) [1])) (ses 4 f0) = .next t) ∧
    (∃ t, exec (Instr.frzSchedule (msg 4 (odKey 0x2300 3) (beBytes 8 2002000))) (ses 4 f0) = .next t) ∧
    (∃ t, exec Instr.frzScheduledAccept ({ f0 with frz := { f0.frz with scheduled := some 9000000 } }) = .next t) ∧
    (∃ t, exec Instr.frzLatch (fp pc) = .next t) ∧
    (∃ t, exec (Instr.frzBankFull []) (fp { pc with latched := some 3 }) = .next t) ∧
    (∃ t, exec (Instr.frzBankFull [270532608]) (fp { pc with latched := some 3 }) = .next t) ∧
    (∃ t, exec Instr.frzRecord (fd [0, 1]) = .next t) ∧
    (∃ t, exec Instr.frzRecord (fd (List.range 8)) = .next t) ∧
    (∃ t, exec (Instr.frzRelease (accr 0x10 0x10200084) 2 none) (fu 3) = .next t) ∧
    (∃ t, exec (Instr.frzRelease (accr 0x10 0x10200084) 2 (some (msg 4 (odKey 0x2300 5) [2]))) (ses 4 (fu 3)) = .next t) ∧
    (∃ t, exec (Instr.frzClearRecords (msg 4 (odKey 0x2300 9) [1])) (ses 4 { f0 with frz := { f0.frz with records := [(0, List.replicate 128 3)] } }) = .next t) := by
  refine ⟨?_, ?_, ?_, ?_, ?_, ?_, ?_, ?_, ?_, ?_, ?_, ?_, ?_, ?_, ?_⟩
  · obtain ⟨t, e, -⟩ := h.1 1000 1000 0 f0 (by decide +kernel) (by decide +kernel) (by decide +kernel) (by decide +kernel) (by decide +kernel)
    exact ⟨t, e⟩
  · obtain ⟨t, e, -⟩ := h.2.1 1000 1000 { pc with sources := 1 } (fp { pc with sources := 1 }) (by decide +kernel) (by decide +kernel) (by decide +kernel) (by decide +kernel)
    exact ⟨t, e⟩
  · obtain ⟨t, e, -⟩ := h.2.2.1 1000 1000 (fu 3) (by decide +kernel) (by decide +kernel) (by decide +kernel) (by decide +kernel) (by decide +kernel)
    exact ⟨t, e⟩
  · obtain ⟨t, e, -⟩ := h.2.2.2.1 (accr 0x10 0x10200080) 1 0 f0 ⟨(by decide +kernel), (by decide +kernel), (exists_ok (by decide +kernel))⟩ (by decide +kernel) (by decide +kernel) (by decide +kernel) (by decide +kernel)
    exact ⟨t, e⟩
  · obtain ⟨t, e, -⟩ := h.2.2.2.2.1 (msg 4 (odKey 0x2300 1) [1]) 0 1 0 (xr 4) (ses 4 f0) ⟨⟨⟨(by decide +kernel), (by decide +kernel), rfl, (by decide +kernel)⟩, (by decide +kernel), (tagValid_signed (by decide +kernel)), (by decide +kernel), (by decide +kernel), (by decide +kernel), (by decide +kernel)⟩, (by decide +kernel), (by decide +kernel), (by decide +kernel), (by decide +kernel), (by decide +kernel), (exists_some (by decide +kernel))⟩ (by decide +kernel) (by decide +kernel) (by decide +kernel)
    exact ⟨t, e⟩
  · obtain ⟨t, e, -⟩ := h.2.2.2.2.2.1 (msg 4 (odKey 0x2300 3) (beBytes 8 2002000)) 0 2002000 (xr 4) (ses 4 f0) ⟨⟨⟨(by decide +kernel), (by decide +kernel), rfl, (by decide +kernel)⟩, (by decide +kernel), (tagValid_signed (by decide +kernel)), (by decide +kernel), (by decide +kernel), (by decide +kernel), (by decide +kernel)⟩, (by decide +kernel), (by decide +kernel), (by decide +kernel), (by decide +kernel), (by decide +kernel), (exists_some (by decide +kernel))⟩
    exact ⟨t, e⟩
  · obtain ⟨t, e, -⟩ := h.2.2.2.2.2.2.1 9000000 0 { f0 with frz := { f0.frz with scheduled := some 9000000 } } (by decide +kernel) (by decide +kernel) (by decide +kernel) (by decide +kernel)
    exact ⟨t, e⟩
  · obtain ⟨t, e, -⟩ := h.2.2.2.2.2.2.2.1 pc (fp pc) _ (by decide +kernel) (by decide +kernel) (by decide +kernel) rfl
    exact ⟨t, e⟩
  · obtain ⟨t, _, e, -⟩ := h.2.2.2.2.2.2.2.2.1 { pc with latched := some 3 } 3 (fp { pc with latched := some 3 }) (by decide +kernel) (by decide +kernel) (by decide +kernel) (by decide +kernel)
    exact ⟨t, e⟩
  · obtain ⟨t, e, -⟩ := h.2.2.2.2.2.2.2.2.2.1 { pc with latched := some 3 } 3 0x10200000 (fp { pc with latched := some 3 }) (by decide +kernel) (by decide +kernel) (by decide +kernel) (by decide +kernel)
    exact ⟨t, e⟩
  · obtain ⟨t, e, -⟩ := h.2.2.2.2.2.2.2.2.2.2.1 1 2 (List.replicate 128 7) [] (fd [0, 1]) (by decide +kernel) (by decide +kernel)
    exact ⟨t, e⟩
  · obtain ⟨t, e, -⟩ := h.2.2.2.2.2.2.2.2.2.2.2.1 1 (List.replicate 128 7) [] (fd (List.range 8)) (by decide +kernel) (by decide +kernel)
    exact ⟨t, e⟩
  · obtain ⟨t, e, -⟩ := h.2.2.2.2.2.2.2.2.2.2.2.2.1 (accr 0x10 0x10200084) 2 (fu 3) ⟨(by decide +kernel), (by decide +kernel), (exists_ok (by decide +kernel))⟩
    exact ⟨t, e⟩
  · obtain ⟨t, e, -⟩ := h.2.2.2.2.2.2.2.2.2.2.2.2.2.1 (accr 0x10 0x10200084) 2 (msg 4 (odKey 0x2300 5) [2]) 0 2 (xr 4) (ses 4 (fu 3)) ⟨⟨⟨(by decide +kernel), (by decide +kernel), rfl, (by decide +kernel)⟩, (by decide +kernel), (tagValid_signed (by decide +kernel)), (by decide +kernel), (by decide +kernel), (by decide +kernel), (by decide +kernel)⟩, (by decide +kernel), (by decide +kernel), (by decide +kernel), (by decide +kernel), (by decide +kernel), (exists_some (by decide +kernel))⟩
    exact ⟨t, e⟩
  · obtain ⟨t, e, -⟩ := h.2.2.2.2.2.2.2.2.2.2.2.2.2.2 (msg 4 (odKey 0x2300 9) [1]) 0 1 (xr 4) (ses 4 { f0 with frz := { f0.frz with records := [(0, List.replicate 128 3)] } }) ⟨⟨⟨(by decide +kernel), (by decide +kernel), rfl, (by decide +kernel)⟩, (by decide +kernel), (tagValid_signed (by decide +kernel)), (by decide +kernel), (by decide +kernel), (by decide +kernel), (by decide +kernel)⟩, (by decide +kernel), (by decide +kernel), (by decide +kernel), (by decide +kernel), (by decide +kernel), (exists_some (by decide +kernel))⟩
    exact ⟨t, e⟩

end FZ

/-! ### Ill-formed commands are refused by `Instr.wf`

Each term breaks one check; the well-formed term it is made from is accepted. -/

namespace Smoke

def a0 : Access := { req := 0x40, world := true, bits := 32, addr := 0x10000000 }
def m0 : LeashMsg := { etherType := 0x88B5, dst := 1, tagged := false, version := 1, typ := 0x10, status := 0, role := 1, sessionId := 2, seq := 3, length := 4, reserved := 0, payload := [0x20, 0, 0, 0], tag := List.replicate 16 0 }
def can0 : CanFrame := { ident := 0x80, ide := false, fdf := false, brs := false, esi := false, rtr := false, data := List.replicate 8 5 }
def eth0 : EthFrame := { dst := 0x1234, src := 0x77, tag := some (3, 5), rtag := none, etype := 0x88B5, payload := List.replicate 60 9 }
def te0 : TetherFrame := { port := 0, srcMac := 0xAA, vlan := 0, version := 1, opcode := 2, flags := 3, status := 0, connId := 5, psn := 10, ackPsn := 19, regionTag := 7, offset := 64, length := 64, imm := 0, reserved := 0, payload := List.replicate 64 7 }
def copy0 : Stage1Copy := { header := List.replicate 8192 0, image := [] }
def env0 : StartEnv := { copyA := copy0, copyB := copy0, aonGood := true, failStep := none, alarms := [], badMacros := [], badParams := [], badRecords := [], deviceUs := 5000, railsSteady := true }

theorem test_wf_accepts_access : (Instr.registerWrite a0 0).wf = true := by decide +kernel
theorem test_wf_requester : (Instr.registerWrite { a0 with req := 256 } 0).wf = false := by decide +kernel
theorem test_wf_address : (Instr.lowHalfRead { a0 with addr := 2 ^ 40 }).wf = false := by decide +kernel
theorem test_wf_width : (Instr.highHalfWrite { a0 with bits := 7 } 0).wf = false := by decide +kernel
theorem test_wf_accepts_leash : (Instr.leashHello m0).wf = true := by decide +kernel
theorem test_wf_leash_etherType : (Instr.leashHello { m0 with etherType := 65536 }).wf = false := by decide +kernel
theorem test_wf_leash_dst : (Instr.leashHello { m0 with dst := 2 ^ 48 }).wf = false := by decide +kernel
theorem test_wf_leash_version : (Instr.leashHello { m0 with version := 256 }).wf = false := by decide +kernel
theorem test_wf_leash_typ : (Instr.leashHello { m0 with typ := 256 }).wf = false := by decide +kernel
theorem test_wf_leash_status : (Instr.leashHello { m0 with status := 256 }).wf = false := by decide +kernel
theorem test_wf_leash_role : (Instr.leashHello { m0 with role := 256 }).wf = false := by decide +kernel
theorem test_wf_leash_sessionId : (Instr.leashHello { m0 with sessionId := 2 ^ 32 }).wf = false := by decide +kernel
theorem test_wf_leash_seq : (Instr.leashHello { m0 with seq := 2 ^ 32 }).wf = false := by decide +kernel
theorem test_wf_leash_length : (Instr.leashHello { m0 with length := 65536 }).wf = false := by decide +kernel
theorem test_wf_leash_reserved : (Instr.leashHello { m0 with reserved := 65536 }).wf = false := by decide +kernel
theorem test_wf_leash_payload : (Instr.leashHello { m0 with payload := List.replicate 1485 0 }).wf = false := by decide +kernel
theorem test_wf_leash_tag : (Instr.leashHello { m0 with tag := List.replicate 15 0 }).wf = false := by decide +kernel
theorem test_wf_accepts_can : (Instr.canFrameRx 0 can0).wf = true := by decide +kernel
theorem test_wf_can_length : (Instr.canFrameRx 0 { can0 with data := List.replicate 9 5 }).wf = false := by decide +kernel
theorem test_wf_can_fd_length : (Instr.canFrameRx 0 { can0 with fdf := true, data := List.replicate 13 5 }).wf = false := by decide +kernel
theorem test_wf_can_ident : (Instr.canFrameRx 0 { can0 with ident := 2 ^ 11 }).wf = false := by decide +kernel
theorem test_wf_can_ext_ident : (Instr.tpDt 0 { can0 with ide := true, ident := 2 ^ 29 }).wf = false := by decide +kernel
theorem test_wf_can_remote_fd : (Instr.canFrameRx 0 { can0 with rtr := true, fdf := true }).wf = false := by decide +kernel
theorem test_wf_accepts_eth : (Instr.ethFrameRx 0 eth0).wf = true := by decide +kernel
theorem test_wf_eth_dst : (Instr.ethFrameRx 0 { eth0 with dst := 2 ^ 48 }).wf = false := by decide +kernel
theorem test_wf_eth_src : (Instr.ethFrameRx 0 { eth0 with src := 2 ^ 48 }).wf = false := by decide +kernel
theorem test_wf_eth_etype : (Instr.ethFrameRx 0 { eth0 with etype := 65536 }).wf = false := by decide +kernel
theorem test_wf_eth_payload : (Instr.ethFrameRx 0 { eth0 with payload := List.replicate 9601 0 }).wf = false := by decide +kernel
theorem test_wf_eth_tag : (Instr.ethFrameRx 0 { eth0 with tag := some (8, 5) }).wf = false := by decide +kernel
theorem test_wf_eth_rtag : (Instr.ethFrameRx 0 { eth0 with rtag := some 65536 }).wf = false := by decide +kernel
theorem test_wf_eth_vid : (Instr.ethFrameRx 0 { eth0 with tag := some (3, 4096) }).wf = false := by decide +kernel
theorem test_wf_accepts_tether : (Instr.tetherRxFlush te0).wf = true := by decide +kernel
theorem test_wf_tether_port : (Instr.tetherRxFlush { te0 with port := 2 }).wf = false := by decide +kernel
theorem test_wf_tether_srcMac : (Instr.tetherRxFlush { te0 with srcMac := 2 ^ 48 }).wf = false := by decide +kernel
theorem test_wf_tether_vlan : (Instr.tetherRxFlush { te0 with vlan := 4096 }).wf = false := by decide +kernel
theorem test_wf_tether_version : (Instr.tetherRxFlush { te0 with version := 256 }).wf = false := by decide +kernel
theorem test_wf_tether_opcode : (Instr.tetherRxFlush { te0 with opcode := 256 }).wf = false := by decide +kernel
theorem test_wf_tether_flags : (Instr.tetherRxFlush { te0 with flags := 256 }).wf = false := by decide +kernel
theorem test_wf_tether_status : (Instr.tetherRxFlush { te0 with status := 256 }).wf = false := by decide +kernel
theorem test_wf_tether_connId : (Instr.tetherRxFlush { te0 with connId := 65536 }).wf = false := by decide +kernel
theorem test_wf_tether_psn : (Instr.tetherRxFlush { te0 with psn := 2 ^ 24 }).wf = false := by decide +kernel
theorem test_wf_tether_ackPsn : (Instr.tetherRxFlush { te0 with ackPsn := 2 ^ 24 }).wf = false := by decide +kernel
theorem test_wf_tether_regionTag : (Instr.tetherRxFlush { te0 with regionTag := 2 ^ 32 }).wf = false := by decide +kernel
theorem test_wf_tether_offset : (Instr.tetherRxFlush { te0 with offset := 2 ^ 64 }).wf = false := by decide +kernel
theorem test_wf_tether_length : (Instr.tetherRxFlush { te0 with length := 2 ^ 32 }).wf = false := by decide +kernel
theorem test_wf_tether_imm : (Instr.tetherRxFlush { te0 with imm := 2 ^ 32 }).wf = false := by decide +kernel
theorem test_wf_tether_reserved : (Instr.tetherRxFlush { te0 with reserved := 2 ^ 32 }).wf = false := by decide +kernel
theorem test_wf_tether_payload : (Instr.tetherRxFlush { te0 with payload := List.replicate 9601 0 }).wf = false := by decide +kernel
theorem test_wf_accepts_hawser : (Instr.hawserAccess a0 4 none (.data [1, 2, 3, 4])).wf = true := by decide +kernel
theorem test_wf_far_data : (Instr.hawserAccess a0 4 none (.data [1, 2, 3, 4, 5])).wf = false := by decide +kernel
theorem test_wf_far_stall : (Instr.hawserAccess a0 4 none (.stall 4)).wf = false := by decide +kernel
theorem test_wf_access_of_no_bytes : (Instr.hawserAccess a0 0 none .refused).wf = false := by decide +kernel
theorem test_wf_written_bytes : (Instr.pcieOutboundAccess a0 4 (some [1, 2]) .refused).wf = false := by decide +kernel
theorem test_wf_atomic_alignment : (Instr.hawserLr { a0 with addr := 0x10000002 } .refused).wf = false := by decide +kernel
theorem test_wf_dram_length : (Instr.dramRead a0 4097 [] none).wf = false := by decide +kernel
theorem test_wf_dram_upset_die : (Instr.dramRead a0 4 [{ gran := 0, die := 10, byte := 0, xor := 1 }] none).wf = false := by decide +kernel
theorem test_wf_dram_upset_byte : (Instr.dramRead a0 4 [{ gran := 0, die := 0, byte := 8, xor := 1 }] none).wf = false := by decide +kernel
theorem test_wf_dram_upset_same : (Instr.dramRead a0 4 [{ gran := 0, die := 0, byte := 0, xor := 0 }] none).wf = false := by decide +kernel
theorem test_wf_sram_upset_bit : (Instr.sramRead a0 4 [{ word := 0, bit := 72 }]).wf = false := by decide +kernel
theorem test_wf_coded_write_of_nothing : (Instr.codedWrite a0 false []).wf = false := by decide +kernel
theorem test_wf_patrol_upset : (Instr.patrolScrub [{ gran := 0, die := 10, byte := 0, xor := 1 }] [] 0).wf = false := by decide +kernel
theorem test_wf_scrub_address : (Instr.demandScrub (2 ^ 40)).wf = false := by decide +kernel
theorem test_wf_accepts_start : (Instr.restartExit env0).wf = true := by decide +kernel
theorem test_wf_start_header : (Instr.restartExit { env0 with copyA := { copy0 with header := [0] } }).wf = false := by decide +kernel
theorem test_wf_start_step : (Instr.restartExit { env0 with failStep := some (15, false) }).wf = false := by decide +kernel
theorem test_wf_start_macro : (Instr.vddAonPowerOn true false false { env0 with badMacros := [(16, 0)] }).wf = false := by decide +kernel
theorem test_wf_start_param : (Instr.porstNRelease false false { env0 with badParams := [2] }).wf = false := by decide +kernel
theorem test_wf_start_record : (Instr.restartExit { env0 with badRecords := [8] }).wf = false := by decide +kernel
theorem test_wf_sense_range : (Instr.vsenseSample 6000001).wf = false := by decide +kernel
theorem test_wf_temperature_count : (Instr.tempSensorUpdate []).wf = false := by decide +kernel
theorem test_wf_temperature_range : (Instr.tempSensorUpdate (List.replicate 24 1501)).wf = false := by decide +kernel
theorem test_wf_pmic_pages : (Instr.pmicPoll (List.replicate 9 none)).wf = false := by decide +kernel
theorem test_wf_pmic_word : (Instr.pmbAlert [some 65536]).wf = false := by decide +kernel
theorem test_wf_no_alarm : (Instr.alarm []).wf = false := by decide +kernel
theorem test_wf_alarm_number : (Instr.alarm [256]).wf = false := by decide +kernel
theorem test_wf_clock_count : (Instr.clockMon 0 (2 ^ 32)).wf = false := by decide +kernel
theorem test_wf_usdo_index : (Instr.usdoUpload 65536 0).wf = false := by decide +kernel
theorem test_wf_usdo_subindex : (Instr.usdoDownload 0x1000 256).wf = false := by decide +kernel
theorem test_wf_nmt_node : (Instr.nmtCommand 1 128).wf = false := by decide +kernel
theorem test_wf_reference_macro_row : (Instr.tileCommit 0 0 false [(0, 0, 2064)]).wf = false := by decide +kernel
theorem test_wf_calibration_temperature : (Instr.calDue 0 0 (-401)).wf = false := by decide +kernel
theorem test_wf_calibration_fit : (Instr.calibrationDone 0 (List.replicate 2065 (0, 0)) true).wf = false := by decide +kernel
theorem test_wf_camera_type : (Instr.csiLongPacket 0 0 64 .clean true []).wf = false := by decide +kernel
theorem test_wf_line_write : (Instr.gfxPreemptionPoint 0 [{ line := 0, bytes := [] }]).wf = false := by decide +kernel
theorem test_wf_raster_failure : (Instr.gfxSubmissionDone 0 0 [] (some (9, 0))).wf = false := by decide +kernel
theorem test_wf_csr_number : (Instr.mworldWrite 0 4096 0 true 0).wf = false := by decide +kernel
theorem test_wf_program_counter : (Instr.mworldWrite 0 0 0 true (2 ^ 64)).wf = false := by decide +kernel
theorem test_wf_salt_length : (Instr.derivationRequest a0 [] [] 65536).wf = false := by decide +kernel
theorem test_wf_digest_length : (Instr.attestationSign a0 [0]).wf = false := by decide +kernel
theorem test_wf_bus_address : (Instr.pcieInboundRequest (2 ^ 64) 4 none).wf = false := by decide +kernel
theorem test_wf_byte_enables : (Instr.pcieInboundRequest 0 4 (some [none])).wf = false := by decide +kernel
theorem test_wf_far_window : (Instr.farMasterCycle (2 ^ 32) 4 none).wf = false := by decide +kernel
theorem test_wf_far_burst : (Instr.farMasterCycle 0 65 none).wf = false := by decide +kernel
theorem test_wf_poll_bytes : (Instr.pollRead 0 (.data (List.replicate 5 0))).wf = false := by decide +kernel
theorem test_wf_ambient_code : (Instr.ambientSample 0 4096).wf = false := by decide +kernel
theorem test_wf_body_whistleStop : (Instr.whistleStop 0 0).wf = false := by decide +kernel
theorem test_wf_body_whistleHold : (Instr.whistleHold 0 0).wf = false := by decide +kernel
theorem test_wf_body_hitchUp : (Instr.hitchUp 0 0).wf = false := by decide +kernel
theorem test_wf_body_hitchDown : (Instr.hitchDown 0 0).wf = false := by decide +kernel
theorem test_wf_body_creepFwd : (Instr.creepFwd 0 0).wf = false := by decide +kernel
theorem test_wf_body_creepRev : (Instr.creepRev 0 0).wf = false := by decide +kernel
theorem test_wf_body_whistleHeartbeat : (Instr.whistleHeartbeat 0 0).wf = false := by decide +kernel
theorem test_wf_body_whistleArm : (Instr.whistleArm 0 0).wf = false := by decide +kernel
theorem test_wf_body_whistleDisarm : (Instr.whistleDisarm 0 0).wf = false := by decide +kernel
theorem test_wf_unconfirmed_register : (Instr.frzBankFull [2 ^ 40]).wf = false := by decide +kernel
theorem test_wf_instance_message : (Instr.instanceReset 0 a0 (some { m0 with typ := 256 })).wf = false := by decide +kernel
theorem test_wf_release_message : (Instr.frzRelease a0 0 (some { m0 with typ := 256 })).wf = false := by decide +kernel

end Smoke

end Sys2Proof.Tests
end

section
/-! PROOF. FAILED is latched (R20): while VDD_AON is present it ends only with the removal of that supply. -/

namespace Sys2Proof.Machine

/-- VDD_AON cannot be applied again while it is present: the command changes nothing (R229). -/
theorem exec_vddAonPowerOn_of_powered {porstHigh strap pcie : Bool} {env : StartEnv} {s : State} (h : s.pwr.aonOn = true) :
    exec (.vddAonPowerOn porstHigh strap pcie env) s = .next s :=
  congrArg Host.Outcome.next (if_pos h)

/-- The removal of a present VDD_AON drives the safety pins low and takes the power from everything else (R19, R862). -/
theorem exec_vddAonRemoved_of_powered {s : State} (h : s.pwr.aonOn = true) :
    exec .vddAonRemoved s = .next (powerOff (setPins false false false s)) :=
  congrArg Host.Outcome.next (if_pos h)

@[simp] theorem powerOff_dev (s : State) : (powerOff s).dev = .off := rfl

/-- A powered device in FAILED stays there under every command but the removal of VDD_AON. The power-on command, which `exec_latch` leaves
out because from an unpowered state it does leave FAILED, has no effect on a powered device. -/
theorem exec_stays_failed {i : Instr} {s t : State} (hdev : s.dev = .failed) (hon : s.pwr.aonOn = true) (hi : i ≠ .vddAonRemoved)
    (ht : exec i s = .next t) : t.dev = .failed := by
  by_cases hp : ∃ porstHigh strap pcie env, i = .vddAonPowerOn porstHigh strap pcie env
  · obtain ⟨porstHigh, strap, pcie, env, rfl⟩ := hp
    have hst : s = t := Host.Outcome.next.inj ((exec_vddAonPowerOn_of_powered hon).symm.trans ht)
    exact hst ▸ hdev
  · have hkeep : Keep (fun p => p = .latch) s t :=
      (exec_latch i s hi fun porstHigh strap pcie env e => hp ⟨porstHigh, strap, pcie, env, e⟩).of t ht
    exact hkeep.same .latch rfl hdev

/-- Settles O7: every command but the two of VDD_AON keeps the latch, a repeated power-on does nothing, the removal ends in OFF. -/
theorem failedIsLatched : Obligations.FailedIsLatched := by
  unfold Obligations.FailedIsLatched
  exact ⟨fun _ _ _ hdev hon hi ht => exec_stays_failed hdev hon hi ht,
    fun _ _ hon => ⟨_, exec_vddAonRemoved_of_powered hon, powerOff_dev _⟩⟩

end Sys2Proof.Machine
end

section
/-! PROOF. 64-bit registers by halves (R47 to R51): the accesses of one half that pass their checks, the held words, the torn accesses and
the committed write. -/

namespace Sys2Proof.Machine

/-! ### From a chain of `Keep` lemmas to the frame of a statement -/

theorem Keep.frame {l : List Part} {s t : State} (h : Keep (fun p => p ∉ l) s t) : Frame l s t := ⟨h.pending, h.same⟩

theorem Frame.trans_mono {l m n : List Part} {s t u : State} (h : Frame l s t) (k : Frame m t u) (hl : l ⊆ n) (hm : m ⊆ n) :
    Frame n s u :=
  ⟨k.pending.trans h.pending, fun p hp => Part.same_trans (h.same p fun x => hp (hl x)) (k.same p fun x => hp (hm x))⟩

theorem Frame.emit {l : List Part} {s t : State} (h : Frame l s t) (o : Output) : Frame l s (emit o t) :=
  h.trans_mono (emit_keep (M := fun p => p ∉ l) o (Keep.refl t)).frame (List.Subset.refl l) (List.Subset.refl l)

theorem getHold_of_hold_eq {s t : State} (h : t.hold = s.hold) (b : Nat) : getHold t b = getHold s b := by
  unfold getHold
  rw [h]

/-! ### An access that passes its checks -/

/-- Only an access to the register space passes the checks of a register. -/
theorem regionOf_of_checkAccess_ok {s : State} {acc : Access} {wr : Bool} {l : Loc} (h : checkAccess s acc wr = .ok l) :
    regionOf acc.addr (acc.bits / 8) = some .regs := by
  unfold checkAccess at h
  split at h
  · cases h
  · split at h
    · cases h
    · split at h <;> cases h
    · assumption
    · cases h

theorem accessRead_of_ok {acc : Access} {s : State} {l : Loc} (hon : blocksOn s = true) (hfree : bridgeEnter acc.req acc.addr s = s)
    (hok : checkAccess s acc false = .ok l) : accessRead acc s = readLoc acc l s := by
  simp only [accessRead, regionOf_of_checkAccess_ok hok, regRead, hon, hfree, hok, Bool.not_true, Bool.false_eq_true, if_false]

theorem accessWrite_of_ok {acc : Access} {v : Nat} {s : State} {l : Loc} (hon : blocksOn s = true)
    (hfree : bridgeEnter acc.req acc.addr s = s) (hok : checkAccess s acc true = .ok l) :
    accessWrite acc v s = writeLoc regEff acc v l s := by
  simp only [accessWrite, regionOf_of_checkAccess_ok hok, regWriteWith, hon, hfree, hok, Bool.not_true, Bool.false_eq_true, if_false]

theorem exec_lowHalfRead_of_ok {acc : Access} {s : State} {l : Loc} (hon : blocksOn s = true)
    (hfree : bridgeEnter acc.req acc.addr s = s) (hok : checkAccess s acc false = .ok l) :
    exec (.lowHalfRead acc) s = .next (readLoc acc l s) :=
  congrArg Host.Outcome.next (accessRead_of_ok hon hfree hok)

theorem exec_highHalfRead_of_ok {acc : Access} {s : State} {l : Loc} (hon : blocksOn s = true)
    (hfree : bridgeEnter acc.req acc.addr s = s) (hok : checkAccess s acc false = .ok l) :
    exec (.highHalfRead acc) s = .next (readLoc acc l s) :=
  congrArg Host.Outcome.next (accessRead_of_ok hon hfree hok)

theorem exec_lowHalfWrite_of_ok {acc : Access} {value : Word} {s : State} {l : Loc} (hon : blocksOn s = true)
    (hfree : bridgeEnter acc.req acc.addr s = s) (hok : checkAccess s acc true = .ok l) :
    exec (.lowHalfWrite acc value) s = .next (writeLoc regEff acc value.toNat l s) :=
  congrArg Host.Outcome.next (accessWrite_of_ok hon hfree hok)

theorem exec_highHalfWrite_of_ok {acc : Access} {value : Word} {s : State} {l : Loc} (hon : blocksOn s = true)
    (hfree : bridgeEnter acc.req acc.addr s = s) (hok : checkAccess s acc true = .ok l) :
    exec (.highHalfWrite acc value) s = .next (writeLoc regEff acc value.toNat l s) :=
  congrArg Host.Outcome.next (accessWrite_of_ok hon hfree hok)

/-! ### The holding registers of a block -/

/-- Set the read holding register of a block, or clear its tag. -/
def holdRead (b : Nat) (x : Option (Nat × Nat × Nat)) (s : State) : State := putHold b { getHold s b with rd := x } s

/-- Set the write holding register of a block, or clear its tag. -/
def holdWrite (b : Nat) (x : Option (Nat × Nat × Nat)) (s : State) : State := putHold b { getHold s b with wr := x } s

/-- The read holding register of block `b` is `x`; every write holding register, and every other block's, is as before. -/
structure ReadHeld (b : Nat) (x : Option (Nat × Nat × Nat)) (s t : State) : Prop where
  held   : (getHold t b).rd = x
  writes : ∀ c, (getHold t c).wr = (getHold s c).wr
  others : ∀ c, c ≠ b → getHold t c = getHold s c
  frame  : Frame [.hold] s t

/-- The write holding register of block `b` is `x`; every read holding register, and every other block's, is as before. -/
structure WriteHeld (b : Nat) (x : Option (Nat × Nat × Nat)) (s t : State) : Prop where
  held   : (getHold t b).wr = x
  reads  : ∀ c, (getHold t c).rd = (getHold s c).rd
  others : ∀ c, c ≠ b → getHold t c = getHold s c
  frame  : Frame [.hold] s t

theorem putHold_frame (b : Nat) (x : Hold) (s : State) : Frame [.hold] s (putHold b x s) :=
  (putHold_keep (by simp) b x (Keep.refl s)).frame

theorem holdRead_spec (b : Nat) (x : Option (Nat × Nat × Nat)) (s : State) :
    ReadHeld b x s (holdRead b x s) where
  held := by rw [holdRead, getHold_putHold_self]
  writes c := by
    by_cases hc : c = b
    · rw [hc, holdRead, getHold_putHold_self]
    · rw [holdRead, getHold_putHold_ne _ hc]
  others c hc := getHold_putHold_ne s hc _
  frame := putHold_frame b _ s

theorem holdWrite_spec (b : Nat) (x : Option (Nat × Nat × Nat)) (s : State) :
    WriteHeld b x s (holdWrite b x s) where
  held := by rw [holdWrite, getHold_putHold_self]
  reads c := by
    by_cases hc : c = b
    · rw [hc, holdWrite, getHold_putHold_self]
    · rw [holdWrite, getHold_putHold_ne _ hc]
  others c hc := getHold_putHold_ne s hc _
  frame := putHold_frame b _ s

/-! ### The branches of a read of one half (R47 to R49) -/

section Read
variable {acc : Access} {l : Loc} {s : State} {a h : Nat}

theorem readLoc_low (hbits : acc.bits = 32) (hwide : locWide l = true) (hbase : locBase acc.addr l = acc.addr) :
    readLoc acc l s = readAnswer acc 4 (locValue s l % 2 ^ 32) (holdRead ((blockOf acc.addr).getD 0)
      (some (locValue s l / 2 ^ 32, acc.req, acc.addr)) s) := by
  simp [readLoc, holdRead, hbits, hwide, hbase]

theorem readLoc_high_held (hbits : acc.bits = 32) (hwide : locWide l = true) (hbase : locBase acc.addr l = a) (haddr : acc.addr = a + 4)
    (hheld : (getHold s ((blockOf a).getD 0)).rd = some (h, acc.req, a)) :
    readLoc acc l s = readAnswer acc 4 h (holdRead ((blockOf a).getD 0) none s) := by
  have hne : acc.addr ≠ a := by omega
  simp [readLoc, holdRead, hbits, hwide, hbase, hne, hheld]

theorem readLoc_high_torn (hbits : acc.bits = 32) (hwide : locWide l = true) (hbase : locBase acc.addr l = a) (haddr : acc.addr = a + 4)
    (hfree : ∀ h, (getHold s ((blockOf a).getD 0)).rd ≠ some (h, acc.req, a)) :
    readLoc acc l s = readAnswer acc 4 (locValue s l / 2 ^ 32) (tornEvent ((blockOf a).getD 0) 0 s) := by
  have hne : acc.addr ≠ a := by omega
  simp only [readLoc, hbits, hwide, hbase, hne, Bool.not_true, Bool.false_eq_true, if_false, Nat.reduceEqDiff]
  split
  next h q x hrd =>
    have htag : ¬ (q = acc.req ∧ x = a) := by
      rintro ⟨rfl, rfl⟩
      exact hfree h hrd
    rw [if_neg htag]
  next => rfl

end Read

/-! ### The branches of a write of one half (R50, R51) -/

section Write
variable {eff : Nat → Nat → Access → State → WriteRes} {acc : Access} {l : Loc} {s : State} {a lo v : Nat}

theorem writeLoc_low (hbits : acc.bits = 32) (hwide : locWide l = true) (hbase : locBase acc.addr l = acc.addr) :
    writeLoc eff acc v l s = emit (.writeOk acc.req acc.addr) (holdWrite ((blockOf acc.addr).getD 0)
      (some (v % 2 ^ 32, acc.req, acc.addr)) s) := by
  simp [writeLoc, holdWrite, hbits, hwide, hbase]

theorem writeLoc_high_held (hbits : acc.bits = 32) (hwide : locWide l = true) (hbase : locBase acc.addr l = a) (haddr : acc.addr = a + 4)
    (hheld : (getHold s ((blockOf a).getD 0)).wr = some (lo, acc.req, a)) :
    writeLoc eff acc v l s = commitWrite eff a (lo + v % 2 ^ 32 * 2 ^ 32) acc
      (holdWrite ((blockOf a).getD 0) none s) := by
  have hne : acc.addr ≠ a := by omega
  simp [writeLoc, holdWrite, hbits, hwide, hbase, hne, hheld]

theorem writeLoc_high_torn (hbits : acc.bits = 32) (hwide : locWide l = true) (hbase : locBase acc.addr l = a) (haddr : acc.addr = a + 4)
    (hfree : ∀ lo, (getHold s ((blockOf a).getD 0)).wr ≠ some (lo, acc.req, a)) :
    writeLoc eff acc v l s = commitWrite eff a (regRaw s a % 2 ^ 32 + v % 2 ^ 32 * 2 ^ 32) acc
      (tornEvent ((blockOf a).getD 0) 1 s) := by
  have hne : acc.addr ≠ a := by omega
  simp only [writeLoc, hbits, hwide, hbase, hne, Bool.not_true, Bool.false_eq_true, if_false, Nat.reduceEqDiff]
  split
  next lo q x hwr =>
    have htag : ¬ (q = acc.req ∧ x = a) := by
      rintro ⟨rfl, rfl⟩
      exact hfree lo hwr
    rw [if_neg htag]
  next => rfl

end Write

/-! ### A torn access (R49, R51) -/

theorem tornEvent_regRaw_self (b bitNo : Nat) (s : State) :
    regRaw (tornEvent b bitNo s) (b + 4) = (regRaw s (b + 4) ||| 2 ^ bitNo) % 2 ^ 64 :=
  regRaw_regPut_self s (b + 4) _

theorem tornEvent_regsOnly (b bitNo : Nat) (s : State) : RegsOnly [b + 4] s (tornEvent b bitNo s) :=
  (RegsOnly.refl _ s).put (by simp)

theorem tornEvent_odOnly (b bitNo : Nat) (s : State) : OdOnly [odKey 0x2001 2] s (tornEvent b bitNo s) :=
  (OdOnly.of (t := regSetBits (b + 4) (2 ^ bitNo) s) rfl).put (by simp)

theorem tornEvent_frame (b bitNo : Nat) (s : State) : Frame [.regs, .od] s (tornEvent b bitNo s) :=
  (tornEvent_keep (by simp) (by simp) b bitNo (Keep.refl s)).frame

/-! ### The commit of a write to a register without an effect of its own (R50, R887) -/

/-- The value `v` has been committed to the register `r` at `a` by the access codes, answered, and counted once in WRITE_COUNT. -/
structure PlainCommit (r : RegRow) (a v : Nat) (acc : Access) (s t : State) : Prop where
  answer : Sends [.writeOk acc.req acc.addr] s t
  count  : regRaw t (countReg a) = (regRaw s (countReg a) + 1) % 2 ^ 32
  value  : regRaw t a = maskedWrite r (regRaw s a) v % 2 ^ 64
  regs   : RegsOnly [a, countReg a] s t
  frame  : Frame [.regs] s t

theorem genericWrite_of_regAt {r : RegRow} {a v : Nat} (hrow : regAt a = some (r, a)) (s : State) :
    genericWrite a v s = regPut a (maskedWrite r (regRaw s a) v) s := by
  simp only [genericWrite, hrow]

theorem commitWrite_plain {eff : Nat → Nat → Access → State → WriteRes} {r : RegRow} {a v : Nat} {acc : Access} {s : State}
    (heff : eff a v acc s = .done (genericWrite a v s)) (hrow : regAt a = some (r, a)) (hne : a ≠ countReg a) :
    PlainCommit r a v acc s (commitWrite eff a v acc s) := by
  have hcommit : commitWrite eff a v acc s = emit (.writeOk acc.req acc.addr)
      (regPut (countReg a) ((regRaw s (countReg a) + 1) % 2 ^ 32) (regPut a (maskedWrite r (regRaw s a) v) s)) := by
    unfold commitWrite
    rw [heff, genericWrite_of_regAt hrow, ← regRaw_regPut_ne s hne.symm (maskedWrite r (regRaw s a) v)]
    rfl
  rw [hcommit]
  have hsmall : (regRaw s (countReg a) + 1) % 2 ^ 32 < 2 ^ 64 := Nat.lt_trans (Nat.mod_lt _ (by decide)) (by decide)
  refine ⟨rfl, ?_, ?_, ((RegsOnly.refl _ s).put (by simp)).put (by simp), ?_⟩
  · rw [emit_regRaw, regRaw_regPut_self, Nat.mod_eq_of_lt hsmall]
  · rw [emit_regRaw, regRaw_regPut_ne _ hne, regRaw_regPut_self]
  · exact (emit_keep _ (regPut_keep (by simp) _ _ (regPut_keep (by simp) _ _ (Keep.refl s)))).frame

theorem PlainCommit.getHold_eq {r : RegRow} {a v : Nat} {acc : Access} {s t : State} (h : PlainCommit r a v acc s t) (b : Nat) :
    getHold t b = getHold s b :=
  getHold_of_hold_eq (h.frame.same .hold (by decide)) b

theorem countReg_ne_status (a : Nat) : countReg a ≠ (blockOf a).getD 0 + 4 := by
  unfold countReg
  omega

/-- Settles O11: each access takes the branch of `readLoc` or `writeLoc` that its half and its tag select, and each branch is a change of
one holding register, a torn event, a commit, or a torn event and a commit. -/
theorem halvesAreHeldTogether : Obligations.HalvesAreHeldTogether := by
  unfold Obligations.HalvesAreHeldTogether
  refine ⟨?lowRead, ?highRead, ?tornRead, ?lowWrite, ?highWrite, ?tornWrite⟩
  case lowRead =>
    intro acc s l hon hfree hok hbits hwide hbase
    rw [exec_lowHalfRead_of_ok hon hfree hok, readLoc_low hbits hwide hbase]
    obtain ⟨hheld, hwrites, hothers, hframe⟩ :=
      holdRead_spec ((blockOf acc.addr).getD 0) (some (locValue s l / 2 ^ 32, acc.req, acc.addr)) s
    exact ⟨_, rfl, rfl, hheld, hwrites, hothers, hframe.emit _⟩
  case highRead =>
    intro acc s l a h hon hfree hok hbits hwide hbase haddr hrd
    rw [exec_highHalfRead_of_ok hon hfree hok, readLoc_high_held hbits hwide hbase haddr hrd]
    obtain ⟨hheld, hwrites, hothers, hframe⟩ := holdRead_spec ((blockOf a).getD 0) none s
    exact ⟨_, rfl, rfl, hheld, hwrites, hothers, hframe.emit _⟩
  case tornRead =>
    intro acc s l a hon hfree hok hbits hwide hbase haddr hrd
    rw [exec_highHalfRead_of_ok hon hfree hok, readLoc_high_torn hbits hwide hbase haddr hrd]
    exact ⟨_, rfl, rfl, tornEvent_regRaw_self _ 0 s, tornEvent_regsOnly _ 0 s, tornEvent_odOnly _ 0 s, (tornEvent_frame _ 0 s).emit _⟩
  case lowWrite =>
    intro acc value s l hon hfree hok hbits hwide hbase
    rw [exec_lowHalfWrite_of_ok hon hfree hok, writeLoc_low hbits hwide hbase]
    obtain ⟨hheld, hreads, hothers, hframe⟩ :=
      holdWrite_spec ((blockOf acc.addr).getD 0) (some (value.toNat % 2 ^ 32, acc.req, acc.addr)) s
    exact ⟨_, rfl, rfl, hheld, hreads, hothers, hframe.emit _⟩
  case highWrite =>
    intro acc value s r a lo hon hfree hok hbits hwide haddr hrow hcount heff hwr
    rw [exec_highHalfWrite_of_ok hon hfree hok, writeLoc_high_held (l := .reg r a) hbits hwide rfl haddr hwr]
    obtain ⟨hheld, hreads, hothers, hframe⟩ := holdWrite_spec ((blockOf a).getD 0) none s
    have hcommit := commitWrite_plain (heff (lo + value.toNat % 2 ^ 32 * 2 ^ 32) acc (holdWrite ((blockOf a).getD 0) none s)) hrow hcount
    have hkept := hcommit.getHold_eq
    exact ⟨_, rfl, hcommit.answer, hcommit.count, hcommit.value, (congrArg Hold.wr (hkept _)).trans hheld,
      fun b => (congrArg Hold.rd (hkept b)).trans (hreads b), fun b hb => (hkept b).trans (hothers b hb), hcommit.regs,
      hframe.trans_mono hcommit.frame (by decide) (by decide)⟩
  case tornWrite =>
    intro acc value s r a hon hfree hok hbits hwide haddr hrow hcount hstatus heff hwr
    rw [exec_highHalfWrite_of_ok hon hfree hok, writeLoc_high_torn (l := .reg r a) hbits hwide rfl haddr hwr]
    have htorn := tornEvent_regsOnly ((blockOf a).getD 0) 1 s
    obtain ⟨hanswer, hbump, hvalue, hregs, hframe⟩ := commitWrite_plain
      (heff (regRaw s a % 2 ^ 32 + value.toNat % 2 ^ 32 * 2 ^ 32) acc (tornEvent ((blockOf a).getD 0) 1 s)) hrow hcount
    have hne := countReg_ne_status a
    rw [htorn _ (by simpa using hne)] at hbump
    rw [htorn _ (by simpa using hstatus)] at hvalue
    have hbit := (hregs ((blockOf a).getD 0 + 4) (by simp [hstatus.symm, hne.symm])).trans (tornEvent_regRaw_self _ 1 s)
    exact ⟨_, rfl, hanswer, hbump, hvalue, hbit, (htorn.mono (by simp)).trans (hregs.mono (by simp)),
      (tornEvent_odOnly _ 1 s).trans (OdOnly.of (hframe.same .od (by decide))),
      (tornEvent_frame _ 1 s).trans_mono hframe (by decide) (by decide)⟩

end Sys2Proof.Machine
end

section
/-! PROOF. What the statements about Sheepdog's alarms share: when alarms are raised (R22), what an alarm leaves alone, and a register
write whose effect is an alarm (R887). -/

namespace Sys2Proof.Machine

/-! ### When alarms are raised (R22, log entry 24) -/

theorem alarmed_of_blocksOn {s : State} (hon : blocksOn s = true) (hclk : s.sdg.clkStopped = false) : alarmed s = true := by
  cases hd : s.dev <;> simp_all [alarmed, blocksOn, isUp, isStarting]

theorem blocksOn_of_isRunning {s : State} (hrun : isRunning s = true) : blocksOn s = true := by
  cases hd : s.dev <;> simp_all [isRunning, blocksOn, isUp]

theorem alarmed_of_same {s u : State} (hdev : u.dev = s.dev) (hclk : u.sdg.clkStopped = s.sdg.clkStopped) (h : alarmed s = true) :
    alarmed u = true := by
  unfold alarmed
  rw [hdev, hclk]
  exact h

theorem raiseAll_of_not_alarmed {ns : List Nat} {s : State} (h : alarmed s = false) : raiseAll ns s = s := by
  unfold raiseAll
  exact if_pos (by simpa only [alarmed, Bool.not_eq_false'] using h)

/-! ### What an alarm leaves alone -/

theorem raiseAll_frame (ns : List Nat) (s : State) : Frame alarmParts s (raiseAll ns s) :=
  (raiseAll_keep (M := fun p => p ∉ alarmParts) (by simp [alarmParts]) (by simp [alarmParts]) (by simp [alarmParts]) (by simp [alarmParts])
    (by simp [alarmParts]) (by simp [alarmParts]) (by simp [alarmParts]) (by simp [alarmParts]) ns (Keep.refl s)).frame

theorem raiseAlarm_frame (n : Nat) (s : State) : Frame alarmParts s (raiseAlarm n s) := raiseAll_frame [n] s

theorem raiseAlarm_onlyAlarm {n : Nat} {s : State} (hn : n ∈ alarmNumbers) (h : alarmed s = true) : OnlyAlarm n s (raiseAlarm n s) :=
  ⟨raiseAlarm_taken hn h, (raiseAlarm_only n s).1, (raiseAlarm_only n s).2, raiseAlarm_frame n s⟩

/-- The fields that the detectors read, out of those that `raiseAlarm_rest` says are left alone. -/
theorem raiseAlarm_leaves {n : Nat} (hn : n ∈ alarmNumbers) (s : State) :
    (raiseAlarm n s).sdg.clkTripped = s.sdg.clkTripped ∧ (raiseAlarm n s).sdg.wdg = s.sdg.wdg ∧
    (raiseAlarm n s).sdg.latentNext = s.sdg.latentNext := by
  by_cases h : alarmed s = true
  · obtain ⟨hrest, -⟩ := raiseAlarm_rest hn h
    simp only [sdgRest, Prod.mk.injEq] at hrest
    obtain ⟨-, -, -, htrip, -, -, -, -, hwdg, -, hnext⟩ := hrest
    exact ⟨htrip, hwdg, hnext⟩
  · rw [show raiseAlarm n s = s from raiseAll_of_not_alarmed (by simpa using h)]
    exact ⟨rfl, rfl, rfl⟩

/-! ### A register write whose effect is taken (R887) -/

/-- The effect `u` of a write by `acc` to the register at `a`, answered without error and counted in WRITE_COUNT. -/
def countedWrite (acc : Access) (a : Nat) (u : State) : State :=
  emit (.writeOk acc.req a) (regPut (countReg a) ((regRaw u (countReg a) + 1) % 2 ^ 32) u)


theorem countedWrite_regsOnly (acc : Access) (a : Nat) (u : State) : RegsOnly [countReg a] u (countedWrite acc a u) :=
  (RegsOnly.refl _ u).put (by simp)

theorem countedWrite_frame (acc : Access) (a : Nat) (u : State) : Frame [.regs] u (countedWrite acc a u) :=
  (emit_keep (M := fun p => p ∉ [.regs]) _ (regPut_keep (by simp) _ _ (Keep.refl u))).frame

theorem AlarmTaken.countedWrite {n : Nat} {s u : State} (h : AlarmTaken n s u) (acc : Access) (a : Nat) :
    AlarmTaken n s (countedWrite acc a u) :=
  h.congr rfl rfl rfl rfl rfl rfl (fun _ => rfl) (fun _ _ => rfl) rfl rfl (fun _ _ => rfl)

/-- WRITE_COUNT of Sheepdog's block is none of the registers that an alarm changes. -/
theorem writeCount_not_mem_alarmRegs : 0x10100008 ∉ alarmRegs := by
  simp only [alarmRegs, msgRegs, routeAddr, safeRouteAddr, List.mem_cons, List.mem_map, List.mem_range, not_or, not_exists, not_and]
  exact ⟨by omega, by omega, fun e _ => by omega⟩

/-- A write to a register of Sheepdog whose effect is to raise one alarm. -/
structure AlarmWrite (n : Nat) (acc : Access) (a : Nat) (s t : State) : Prop where
  write : WriteTaken acc a s t
  taken : AlarmTaken n s t
  od    : OdOnly alarmKeys s t
  regs  : RegsOnly (countReg a :: alarmRegs) s t
  frame : Frame alarmParts s t

theorem alarmWrite_of_raiseAlarm {n a : Nat} {s : State} (acc : Access) (hn : n ∈ alarmNumbers) (h : alarmed s = true)
    (ha : countReg a = 0x10100008) : AlarmWrite n acc a s (countedWrite acc a (raiseAlarm n s)) where
  write := writeTaken_of ((raiseAlarm_only n s).2 _ (ha ▸ writeCount_not_mem_alarmRegs))
  taken := (raiseAlarm_taken hn h).countedWrite acc a
  od := (raiseAlarm_only n s).1.trans (OdOnly.of rfl)
  regs := ((raiseAlarm_only n s).2.mono fun _ => List.mem_cons_of_mem _).trans ((countedWrite_regsOnly acc a _).mono (by simp))
  frame := (raiseAlarm_frame n s).trans_mono (countedWrite_frame acc a _) (List.Subset.refl _) (by simp [alarmParts])

end Sys2Proof.Machine
end

section
/-! PROOF. Sheepdog's detectors (R160, R164, R183, R195, R196) and the alarms of one CLK_SDG cycle (R168, R173, R889). -/

namespace Sys2Proof.Machine

/-! ### The entries that an alarm's record leaves alone -/

theorem OdOnly.odUse {l : List Nat} {s t : State} {k : Nat} (h : OdOnly l s t) (hstart : t.odStart = s.odStart) (hk : k ∉ l) :
    odUse t k = odUse s k := by
  unfold Machine.odUse
  rw [h k hk, hstart]

theorem alarmClass_of_odOnly {n : Nat} {s t : State} (h : OdOnly alarmKeys s t) (hstart : t.odStart = s.odStart) (hn : n ∈ alarmNumbers) :
    alarmClass t n = alarmClass s n := by
  have hb := alarm_bounds n hn
  exact h.odUse hstart (by simp only [mem_alarmKeys, odKey]; omega)

theorem reactsHold_of_odOnly {n : Nat} {s t : State} (h : OdOnly alarmKeys s t) (hstart : t.odStart = s.odStart) (hn : n ∈ alarmNumbers)
    (h7 : alarmClass s n ≤ 7) : reactsHold t n = reactsHold s n := by
  unfold reactsHold
  rw [alarmClass_of_odOnly h hstart hn, h.odUse hstart (by simp only [mem_alarmKeys, odKey]; omega)]

theorem alarmRecord_odOnly (n : Nat) (s : State) : OdOnly alarmKeys s (alarmRecord n s) := by
  intro k hk
  simp only [mem_alarmKeys, odKey] at hk
  rw [alarmRecord_odGet, if_neg (by simp only [odKey]; omega), if_neg (by simp only [odKey]; omega), if_neg (by simp only [odKey]; omega),
    if_neg (by simp only [odKey]; omega)]

theorem alarmFirst_odOnly (n : Nat) (s : State) : OdOnly alarmKeys s (alarmFirst n s) := by
  obtain ⟨-, -, hod, -⟩ := alarmFirst_leaves n s
  intro k hk
  rw [mem_alarmKeys] at hk
  exact hod k (fun e => hk (by simp [e])) (fun e => hk (by simp [e]))

theorem frzTrigger_odOnly (src : Nat) (s : State) : OdOnly alarmKeys s (frzTrigger src s) := by
  obtain ⟨-, -, -, hod⟩ := frzTrigger_leaves src s
  intro k hk
  rw [mem_alarmKeys] at hk
  exact hod k (fun e => hk (by simp [e])) (fun e => hk (by simp [e]))

/-- A trigger changes no register but the count of dropped triggers (R837). -/
theorem frzTrigger_regsOnly (src : Nat) (s : State) : RegsOnly alarmRegs s (frzTrigger src s) := by
  unfold frzTrigger frzAccept
  split
  · split
    · exact RegsOnly.of rfl
    · split
      · exact RegsOnly.of rfl
      · exact ((RegsOnly.of rfl).put List.mem_cons_self).trans (RegsOnly.of rfl)
  · exact RegsOnly.refl _ _

/-! ### The record of a list of alarms (R99, R168, R201) -/

/-- The alarms of a list, recorded in its order. -/
def recordAlarms (l : List Nat) (s : State) : State := l.foldl (fun t n => alarmRecord n t) s

/-- ALARM_MAP with the bits of a list of alarms set. -/
def mapAlarms (l : List Nat) (m : Nat) : Nat := l.foldl (fun m n => m ||| 2 ^ n) m

theorem recordAlarms_cons (n : Nat) (l : List Nat) (s : State) : recordAlarms (n :: l) s = recordAlarms l (alarmRecord n s) :=
  List.foldl_cons ..

theorem bit_mapAlarms (l : List Nat) (m k : Nat) : bit (mapAlarms l m) k = (bit m k || l.contains k) := by
  induction l generalizing m with
  | nil => simp [mapAlarms]
  | cons n l ih =>
    have hcons : mapAlarms (n :: l) m = mapAlarms l (m ||| 2 ^ n) := rfl
    have hbit : bit (m ||| 2 ^ n) k = (bit m k || k == n) := by
      rw [bit, Nat.testBit_or, Nat.testBit_two_pow, ← Bool.beq_eq_decide_eq, BEq.comm]
      rfl
    rw [hcons, ih, hbit, List.contains_cons, Bool.or_assoc]

theorem recordAlarms_keep {M : Part → Prop} {z s : State} (h_od : ¬ M .od) (h_sdg : ¬ M .sdg) (l : List Nat) (hz : Keep M z s) :
    Keep M z (recordAlarms l s) :=
  hz.foldl (fun t n => alarmRecord_keep h_od h_sdg n (Keep.refl t)) l

theorem recordAlarms_odOnly (l : List Nat) (s : State) : OdOnly alarmKeys s (recordAlarms l s) := by
  induction l generalizing s with
  | nil => exact OdOnly.refl _ s
  | cons n l ih =>
    rw [recordAlarms_cons]
    exact (alarmRecord_odOnly n s).trans (ih _)

theorem recordAlarms_sdg (l : List Nat) (s : State) : (recordAlarms l s).sdg =
    { s.sdg with alarmMap := mapAlarms l s.sdg.alarmMap, lastAlarm := l.getLast?.getD s.sdg.lastAlarm } := by
  induction l generalizing s with
  | nil => rfl
  | cons n l ih =>
    obtain ⟨-, -, -, hsdg⟩ := alarmRecord_keeps n s
    rw [recordAlarms_cons, ih, hsdg, List.getLast?_cons]
    rfl

/-! ### The alarms of one cycle (R168, R173) -/

/-- The safety alarms among those of one cycle, ascending. -/
def safetyAlarms (s : State) (ns : List Nat) : List Nat := (alarmSort ns).filter (fun n => decide (alarmClass s n ≠ 0))

/-- The state from which the safety alarms of one cycle react: every alarm recorded, `n` offered as the mission's first, freeze-frame
triggered. -/
def readyToReact (ns : List Nat) (n : Nat) (s : State) : State := frzTrigger 2 (alarmFirst n (recordAlarms (alarmSort ns) s))

section Cycle
variable {ns l : List Nat} {n : Nat} {s : State}

theorem raiseAll_notes (h : alarmed s = true) (hsafe : safetyAlarms s ns = []) : raiseAll ns s = recordAlarms (alarmSort ns) s := by
  unfold raiseAll
  rw [if_neg (by simpa [alarmed] using h)]
  unfold safetyAlarms at hsafe
  simp only [hsafe]
  rfl

theorem raiseAll_safety (h : alarmed s = true) (hsafe : safetyAlarms s ns = n :: l) :
    raiseAll ns s = alarmReact (n :: l) (readyToReact ns n s) := by
  unfold raiseAll
  rw [if_neg (by simpa [alarmed] using h)]
  unfold safetyAlarms at hsafe
  simp only [hsafe]
  rfl

theorem readyToReact_odOnly (ns : List Nat) (n : Nat) (s : State) : OdOnly alarmKeys s (readyToReact ns n s) :=
  ((recordAlarms_odOnly _ s).trans (alarmFirst_odOnly n _)).trans (frzTrigger_odOnly 2 _)

theorem readyToReact_regsOnly (ns : List Nat) (n : Nat) (s : State) : RegsOnly alarmRegs s (readyToReact ns n s) := by
  have hkeep := alarmFirst_keep (M := fun p => p = .regs) (by simp) (by simp) n
    (recordAlarms_keep (by simp) (by simp) (alarmSort ns) (Keep.refl s))
  exact (RegsOnly.of (hkeep.same .regs rfl)).trans (frzTrigger_regsOnly 2 _)

theorem readyToReact_same (ns : List Nat) (n : Nat) (s : State) :
    (readyToReact ns n s).dev = s.dev ∧ (readyToReact ns n s).odStart = s.odStart := by
  have hkeep := frzTrigger_keep (M := fun p => p = .dev ∨ p = .odStart) (by simp) (by simp) (by simp) 2
    (alarmFirst_keep (by simp) (by simp) n (recordAlarms_keep (by simp) (by simp) (alarmSort ns) (Keep.refl s)))
  exact ⟨hkeep.same .dev (.inl rfl), hkeep.same .odStart (.inr rfl)⟩

theorem readyToReact_sdg (ns : List Nat) (n : Nat) (s : State) :
    (readyToReact ns n s).sdg.alarmMap = mapAlarms (alarmSort ns) s.sdg.alarmMap ∧
    (readyToReact ns n s).sdg.lastAlarm = (alarmSort ns).getLast?.getD s.sdg.lastAlarm ∧
    (readyToReact ns n s).sdg.firstAlarm = if s.sdg.firstAlarm ≠ 0 then s.sdg.firstAlarm else n := by
  obtain ⟨-, htrig, -, -⟩ := frzTrigger_leaves 2 (alarmFirst n (recordAlarms (alarmSort ns) s))
  obtain ⟨-, -, -, hfirst⟩ := alarmFirst_leaves n (recordAlarms (alarmSort ns) s)
  unfold readyToReact
  rw [htrig, hfirst, recordAlarms_sdg]
  split <;> exact ⟨rfl, rfl, rfl⟩

end Cycle

/-! ### The reaction (R170, R174) -/

/-- In a running device the reaction is the entry to SAFE_HOLD, with a restart unless one of the alarms asks for SAFE_HOLD. -/
theorem alarmReact_of_running {l : List Nat} {w : State} (hrun : isRunning w = true) : (alarmReact l w).dev = .safeHold ∧
    ∃ flight last bound, (alarmReact l w).sdg = { w.sdg with
      restartPending := !l.any (reactsHold w), holdAt := some w.now, ackFall := none, ackMissed := false,
      faultN := false, aliveA := false, aliveB := false, ssFlight := flight, ssLast := last, ssBound := bound } := by
  have hreact : alarmReact l w = enterSafeHold (!l.any (reactsHold w))
      { w with start := { w.start with cause := if l.any (reactsHold w) then w.start.cause else 5 } } := if_pos hrun
  rw [hreact]
  obtain ⟨hdev, hsdg, -⟩ := enterSafeHold_run (!l.any (reactsHold w))
    (s := { w with start := { w.start with cause := if l.any (reactsHold w) then w.start.cause else 5 } }) hrun
  exact ⟨hdev, hsdg⟩

/-- The reaction leaves the records of the alarms alone. -/
theorem alarmReact_records (l : List Nat) (w : State) : (alarmReact l w).sdg.alarmMap = w.sdg.alarmMap ∧
    (alarmReact l w).sdg.lastAlarm = w.sdg.lastAlarm ∧ (alarmReact l w).sdg.firstAlarm = w.sdg.firstAlarm := by
  by_cases hrun : isRunning w = true
  · obtain ⟨-, _, _, _, hsdg⟩ := alarmReact_of_running (l := l) hrun
    rw [hsdg]
    exact ⟨rfl, rfl, rfl⟩
  · unfold alarmReact
    simp only [if_neg hrun]
    split
    · obtain ⟨_, _, _, hsdg⟩ := ssRequest_sdg (ms 2)
        (if l.any (reactsHold w) = true then { w with sdg := { w.sdg with restartPending := false } } else w)
      rw [hsdg]
      split <;> exact ⟨rfl, rfl, rfl⟩
    · exact ⟨rfl, rfl, rfl⟩

/-! ### What the alarms of one cycle do together -/

section Together
variable {ns : List Nat} {s : State}

/-- Every alarm sets its bit, the highest is the latest, the lowest safety alarm becomes the first if there is none yet (R168, R173). -/
theorem raiseAll_records (ns : List Nat) (h : alarmed s = true) :
    (raiseAll ns s).sdg.alarmMap = mapAlarms (alarmSort ns) s.sdg.alarmMap ∧
    (raiseAll ns s).sdg.lastAlarm = (alarmSort ns).getLast?.getD s.sdg.lastAlarm ∧
    (raiseAll ns s).sdg.firstAlarm = if s.sdg.firstAlarm ≠ 0 then s.sdg.firstAlarm else (safetyAlarms s ns).head?.getD 0 := by
  cases hsafe : safetyAlarms s ns with
  | nil =>
    rw [raiseAll_notes h hsafe, recordAlarms_sdg]
    refine ⟨rfl, rfl, ?_⟩
    by_cases h0 : s.sdg.firstAlarm = 0 <;> simp [h0]
  | cons n l =>
    obtain ⟨hmap, hlast, hfirst⟩ := alarmReact_records (n :: l) (readyToReact ns n s)
    obtain ⟨hmap', hlast', hfirst'⟩ := readyToReact_sdg ns n s
    rw [raiseAll_safety h hsafe]
    exact ⟨hmap.trans hmap', hlast.trans hlast', hfirst.trans hfirst'⟩

/-- In a running device any safety alarm leads to SAFE_HOLD, and to no restart if one of them asks for SAFE_HOLD (R170, R173). -/
theorem raiseAll_hold (h : alarmed s = true) (h7 : ∀ n ∈ alarmNumbers, alarmClass s n ≤ 7) (hrun : isRunning s = true)
    (hsafe : safetyAlarms s ns ≠ []) :
    (raiseAll ns s).dev = .safeHold ∧ (raiseAll ns s).sdg.restartPending = !(safetyAlarms s ns).any (reactsHold s) := by
  obtain ⟨n, l, hcons⟩ := List.exists_cons_of_ne_nil hsafe
  obtain ⟨hdev, hstart⟩ := readyToReact_same ns n s
  have hrun' : isRunning (readyToReact ns n s) = true := by
    unfold isRunning at *
    rw [hdev]
    exact hrun
  have hmem : ∀ m ∈ n :: l, m ∈ alarmNumbers := fun m hm =>
    (List.mem_filter.1 (List.mem_filter.1 (hcons ▸ hm : m ∈ safetyAlarms s ns)).1).1
  have hany : (n :: l).any (reactsHold (readyToReact ns n s)) = (n :: l).any (reactsHold s) :=
    Bool.eq_iff_iff.2 <| by
      simp only [List.any_eq_true]
      exact exists_congr fun m => and_congr_right fun hm => by
        rw [reactsHold_of_odOnly (readyToReact_odOnly ns n s) hstart (hmem m hm) (h7 m (hmem m hm))]
  rw [raiseAll_safety h hcons, hcons, ← hany]
  obtain ⟨hhold, _, _, _, hsdg⟩ := alarmReact_of_running (l := n :: l) hrun'
  exact ⟨hhold, by rw [hsdg]⟩

theorem raiseAll_notes_dev (h : alarmed s = true) (hsafe : safetyAlarms s ns = []) : (raiseAll ns s).dev = s.dev := by
  rw [raiseAll_notes h hsafe]
  exact (recordAlarms_keep (M := fun p => p = .dev) (by simp) (by simp) _ (Keep.refl s)).same .dev rfl

theorem raiseAll_only (ns : List Nat) (h : alarmed s = true) :
    OdOnly alarmKeys s (raiseAll ns s) ∧ RegsOnly alarmRegs s (raiseAll ns s) := by
  cases hsafe : safetyAlarms s ns with
  | nil =>
    have hkeep := recordAlarms_keep (M := fun p => p = .regs) (by simp) (by simp) (alarmSort ns) (Keep.refl s)
    rw [raiseAll_notes h hsafe]
    exact ⟨recordAlarms_odOnly _ s, RegsOnly.of (hkeep.same .regs rfl)⟩
  | cons n l =>
    obtain ⟨hod, hregs⟩ := alarmReact_only (n :: l) (readyToReact ns n s)
    rw [raiseAll_safety h hsafe]
    exact ⟨(readyToReact_odOnly ns n s).trans hod, (readyToReact_regsOnly ns n s).trans hregs⟩

end Together

/-! ### The latent-fault tests (R196) -/

/-- A run of the latent-fault tests, when due, and the time of the next. -/
def latentRun (s : State) : State :=
  setLatentNext (s.sdg.latentNext + ms (odUse s (odKey 0x2200 0x0D))) (advanceTo s.sdg.latentNext s)

theorem latentRun_sdg (s : State) :
    (latentRun s).sdg = { s.sdg with latentNext := s.sdg.latentNext + ms (odUse s (odKey 0x2200 0x0D)) } := rfl

theorem exec_latentTest_of_running {failing : List (Fin 7)} {s : State} (hrun : isRunning s = true) (hop : s.sdg.enteredOp = true) :
    exec (.latentTest failing) s = .next (if failing = [] then latentRun s else raiseAlarm 0xA0 (latentRun s)) :=
  congrArg Host.Outcome.next (if_pos (by rw [hrun, hop]; rfl))

theorem latentRun_frame (s : State) : Frame [.sdg, .now, .gtime] s (latentRun s) :=
  (setLatentNext_keep (M := fun p => p ∉ [.sdg, .now, .gtime]) (by simp) _ (advanceTo_keep (by simp) (by simp) _ (Keep.refl s))).frame

theorem raiseAlarm_latentRun_taken {s : State} (hrun : isRunning s = true) (hclk : s.sdg.clkStopped = false) :
    AlarmTaken 0xA0 s (raiseAlarm 0xA0 (latentRun s)) := by
  have hsdg := latentRun_sdg s
  have halarmed : alarmed (latentRun s) = true :=
    alarmed_of_same (s := s) rfl (by rw [hsdg]) (alarmed_of_blocksOn (blocksOn_of_isRunning hrun) hclk)
  exact raiseAlarm_after (by decide) halarmed (by rw [hsdg]) (by rw [hsdg]) (by rw [hsdg]) (by rw [hsdg]) rfl rfl rfl

/-! ### The monitor of CLK_SDG (R183, R195) -/

theorem setPins_sdg (f a b : Bool) (s : State) : (setPins f a b s).sdg =
    { s.sdg with faultN := f && !s.sdg.clkTripped, aliveA := a && !s.sdg.clkTripped, aliveB := b && !s.sdg.clkTripped } := by
  unfold setPins
  extract_lets on
  split
  next h =>
    obtain ⟨hf, ha, hb⟩ := h
    rw [← hf, ← ha, ← hb]
  next => rfl

theorem clkTrip_sdg (freq : Nat) (s : State) : (clkTrip freq s).sdg =
    { s.sdg with clkTripped := true, clkStopped := decide (freq = 0), faultN := false, aliveA := false, aliveB := false } :=
  setPins_sdg false false false _

theorem clkTrip_frame (freq : Nat) (s : State) : Frame [.sdg] s (clkTrip freq s) :=
  (clkTrip_keep (M := fun p => p ∉ [.sdg]) (by simp) freq (Keep.refl s)).frame

theorem clkTrip_same (freq : Nat) (s : State) : (clkTrip freq s).dev = s.dev ∧ (clkTrip freq s).od = s.od ∧
    (clkTrip freq s).odStart = s.odStart ∧ (clkTrip freq s).regs = s.regs := by
  have hframe := clkTrip_frame freq s
  exact ⟨hframe.same .dev (by simp), hframe.same .od (by simp), hframe.same .odStart (by simp), hframe.same .regs (by simp)⟩

theorem clkTrip_pinsOk (freq : Nat) (s : State) : PinsOk (clkTrip freq s) := by
  unfold PinsOk
  rw [clkTrip_sdg]
  exact ⟨fun _ => ⟨rfl, rfl, rfl⟩, nofun, rfl⟩

/-- Once the monitor has tripped, the pins stay low whatever Sheepdog then does about it (R183). -/
theorem raiseAlarm_clkTrip_pins {n : Nat} (hn : n ∈ alarmNumbers) (freq : Nat) (s : State) :
    ((raiseAlarm n (clkTrip freq s)).sdg.faultN || (raiseAlarm n (clkTrip freq s)).sdg.aliveA ||
      (raiseAlarm n (clkTrip freq s)).sdg.aliveB) = false ∧ (raiseAlarm n (clkTrip freq s)).sdg.clkTripped = true := by
  obtain ⟨htrip, -, -⟩ := raiseAlarm_leaves hn (clkTrip freq s)
  rw [clkTrip_sdg] at htrip
  have hpins : PinsOk (raiseAlarm n (clkTrip freq s)) :=
    (raiseAlarm_frame n _).same .pins (by simp [alarmParts]) (clkTrip_pinsOk freq s)
  obtain ⟨hf, ha, hb⟩ := hpins.low (.inr htrip)
  exact ⟨by rw [hf, ha, hb]; rfl, htrip⟩

/-- A Sheepdog whose clock still runs records the alarm. -/
theorem raiseAlarm_clkTrip_taken {n freq : Nat} {s : State} (hn : n ∈ alarmNumbers) (hfreq : freq ≠ 0) (hoff : s.dev ≠ .off)
    (hfailed : s.dev ≠ .failed) : AlarmTaken n s (raiseAlarm n (clkTrip freq s)) := by
  have hsdg := clkTrip_sdg freq s
  obtain ⟨hdev, hod, hstart, -⟩ := clkTrip_same freq s
  have halarmed : alarmed (clkTrip freq s) = true := by simp [alarmed, hsdg, hdev, hoff, hfailed, hfreq]
  exact raiseAlarm_after hn halarmed (by rw [hsdg]) (by rw [hsdg]) (by rw [hsdg]) (by rw [hsdg]) hdev hod hstart

/-- A Sheepdog whose clock stands records nothing (log entry 24). -/
theorem raiseAlarm_clkTrip_of_stopped (n : Nat) (s : State) : raiseAlarm n (clkTrip 0 s) = clkTrip 0 s :=
  raiseAll_of_not_alarmed (by rw [alarmed, clkTrip_sdg]; simp)

/-! ### SW_ALARM (R166) -/

theorem exec_swAlarm_of_reaches {acc : Access} {value : Word} {s : State} (h : Reaches acc 0x10100060 s) :
    exec (.swAlarm acc value) s =
      .next (countedWrite acc 0x10100060 (if carried acc value % 2 = 1 then raiseAlarm 0x80 s else s)) :=
  congrArg Host.Outcome.next (regWriteWith_done h rfl)

theorem countReg_swAlarm : countReg 0x10100060 = 0x10100008 := by decide

/-- Settles O13: each detector's command is one alarm from a state that differs from `s` in nothing an alarm is about, and the alarms of
one cycle are recorded one by one before the one reaction. -/
theorem detectorsRaiseTheirAlarm : Obligations.DetectorsRaiseTheirAlarm := by
  unfold Obligations.DetectorsRaiseTheirAlarm
  refine ⟨?alarm, ?line, ?lineShort, ?self, ?clock, ?clockGood, ?fabric, ?latentFail, ?latentPass, ?cycle, ?monitor, ?swOne, ?swZero⟩
  case alarm => exact fun n s hn h => ⟨_, rfl, raiseAlarm_onlyAlarm hn h⟩
  case line => exact fun ns s hns h => ⟨_, congrArg Host.Outcome.next (if_pos hns), raiseAlarm_onlyAlarm (by decide) h⟩
  case lineShort => exact fun ns s hns => congrArg Host.Outcome.next (if_neg (Nat.not_le.2 hns))
  case self =>
    intro s h
    have honly := raiseAlarm_onlyAlarm (n := 0xA2) (by decide) h
    refine ⟨_, rfl, honly, fun hrun h1 h7 => ?_⟩
    obtain ⟨hdev, hpending, -⟩ := honly.taken.hold (by omega) h7 hrun
    exact ⟨hdev, hpending.trans (by simp [reactsHold])⟩
  case clock =>
    intro c count s h hbad
    exact ⟨_, congrArg Host.Outcome.next (if_neg (by omega)), raiseAlarm_onlyAlarm (by decide) h⟩
  case clockGood => exact fun c count s hlo hhi => congrArg Host.Outcome.next (if_pos ⟨hlo, hhi⟩)
  case fabric =>
    exact fun ns s hns hon hclk =>
      ⟨_, congrArg Host.Outcome.next (if_pos ⟨hns, hon⟩), raiseAlarm_onlyAlarm (by decide) (alarmed_of_blocksOn hon hclk)⟩
  case latentFail =>
    intro failing s hrun hop hclk hfail
    obtain ⟨-, -, hnext⟩ := raiseAlarm_leaves (n := 0xA0) (by decide) (latentRun s)
    obtain ⟨hod, hregs⟩ := raiseAlarm_only 0xA0 (latentRun s)
    exact ⟨_, (exec_latentTest_of_running hrun hop).trans (congrArg Host.Outcome.next (if_neg hfail)), raiseAlarm_now 0xA0 (latentRun s),
      raiseAlarm_latentRun_taken hrun hclk, by rw [hnext, latentRun_sdg], (OdOnly.of rfl).trans hod, (RegsOnly.of rfl).trans hregs,
      (latentRun_frame s).trans_mono (raiseAlarm_frame 0xA0 _) (by simp [alarmParts]) (by simp)⟩
  case latentPass =>
    exact fun s hrun hop => ⟨_, (exec_latentTest_of_running hrun hop).trans (congrArg Host.Outcome.next (if_pos rfl)), rfl, rfl, rfl,
      latentRun_frame s⟩
  case cycle =>
    intro numbers s h h7
    obtain ⟨hmap, hlast, hfirst⟩ := raiseAll_records numbers h
    obtain ⟨hod, hregs⟩ := raiseAll_only numbers h
    have hsome : (alarmSort numbers).any (fun n => decide (alarmClass s n ≠ 0)) = true → safetyAlarms s numbers ≠ [] := by
      simp [safetyAlarms, List.filter_eq_nil_iff]
    have hnone : (alarmSort numbers).any (fun n => decide (alarmClass s n ≠ 0)) = false → safetyAlarms s numbers = [] := by
      simp [safetyAlarms, List.filter_eq_nil_iff]
    refine ⟨_, rfl, fun n => by rw [hmap, bit_mapAlarms], hlast, fun h0 => ?_, fun h0 => by rw [hfirst, if_pos h0], fun hrun hany => ?_,
      fun hany => raiseAll_notes_dev h (hnone hany), hod, hregs, raiseAll_frame numbers s⟩
    · rw [hfirst, if_neg (by simpa using h0), safetyAlarms, List.head?_filter]
    · obtain ⟨hdev, hpending⟩ := raiseAll_hold h h7 hrun (hsome hany)
      exact ⟨hdev, by rw [hpending, safetyAlarms, List.any_filter]⟩
  case monitor =>
    intro freq ns s hns hfreq hoff
    obtain ⟨hdev, hod, -, hregs⟩ := clkTrip_same freq s
    obtain ⟨hpins, htrip⟩ := raiseAlarm_clkTrip_pins (n := 0x40) (by decide) freq s
    obtain ⟨halarmOd, halarmRegs⟩ := raiseAlarm_only 0x40 (clkTrip freq s)
    refine ⟨_, congrArg Host.Outcome.next (if_pos ⟨hns, hfreq, hoff⟩), hpins, htrip,
      fun hrun hfailed => raiseAlarm_clkTrip_taken (by decide) hrun hoff hfailed, fun hstop => ?_, (OdOnly.of hod).trans halarmOd,
      (RegsOnly.of hregs).trans halarmRegs,
      (clkTrip_frame freq s).trans_mono (raiseAlarm_frame 0x40 _) (by simp [alarmParts]) (List.Subset.refl _)⟩
    subst hstop
    rw [raiseAlarm_clkTrip_of_stopped]
    exact ⟨by rw [clkTrip_sdg], hdev⟩
  case swOne =>
    intro acc value s h hclk hone
    obtain ⟨hwrite, htaken, hod, hregs, hframe⟩ :=
      alarmWrite_of_raiseAlarm (n := 0x80) acc (by decide) (alarmed_of_blocksOn h.on hclk) countReg_swAlarm
    exact ⟨_, (exec_swAlarm_of_reaches h).trans (by rw [if_pos hone]), hwrite, htaken, hod, hregs, hframe⟩
  case swZero =>
    intro acc value s h hzero
    exact ⟨_, (exec_swAlarm_of_reaches h).trans (by rw [if_neg (by omega)]; rfl), writeTaken_of rfl, countedWrite_regsOnly _ _ s,
      countedWrite_frame _ _ s⟩

end Sys2Proof.Machine
end

section
/-! PROOF. The software watchdogs (R191 to R194). -/

namespace Sys2Proof.Machine

/-! ### The alarms and registers of the watchdogs -/

theorem wdgAlarm_mem (n : Fin 16) : 0x70 + n.val ∈ alarmNumbers := by
  revert n
  decide

theorem countReg_wdgKick (n : Fin 16) : countReg (0x10100100 + 8 * n.val) = 0x10100008 := by
  revert n
  decide

theorem raiseAlarm_getWdg {n : Nat} (hn : n ∈ alarmNumbers) (s : State) (m : Nat) : getWdg (raiseAlarm n s) m = getWdg s m := by
  obtain ⟨-, hwdg, -⟩ := raiseAlarm_leaves hn s
  unfold getWdg
  rw [hwdg]

theorem putWdg_frame (n : Nat) (w : Wdg) (s : State) : Frame [.sdg] s (putWdg n w s) :=
  (putWdg_keep (M := fun p => p ∉ [.sdg]) (by simp) n w (Keep.refl s)).frame

/-! ### The three answers to a kick (R191 to R194) -/

/-- A kick that a watchdog accepts: the next value, in the open window or after it has closed; or 1, as the first kick of a watchdog
other than watchdog 0. -/
def KickAccepted (n v : Nat) (s : State) : Prop :=
  ((getWdg s n).running = true ∧ v % 65536 = ((getWdg s n).seq + 1) % 65536 ∧
    ((getWdg s n).expired = true ∨ (getWdg s n).open' = true ∨ (getWdg s n).from' + wdgOpens s n ≤ s.now)) ∨
  ((getWdg s n).running = false ∧ n ≠ 0 ∧ v % 65536 = 1)

/-- A kick that raises the watchdog's alarm: a wrong value, or one before the window opens. -/
def KickAlarms (n v : Nat) (s : State) : Prop :=
  ((getWdg s n).running = true ∧ v % 65536 ≠ ((getWdg s n).seq + 1) % 65536) ∨
  ((getWdg s n).running = true ∧ (getWdg s n).expired = false ∧ (getWdg s n).open' = false ∧ s.now < (getWdg s n).from' + wdgOpens s n) ∨
  ((getWdg s n).running = false ∧ n ≠ 0 ∧ v % 65536 ≠ 1)

section Kick
variable {n v : Nat} {acc : Access} {s : State}

theorem wdgKickEff_accepted (hon : odUse s (odKey 0x2202 (n + 1)) ≠ 0) (h : KickAccepted n v s) :
    wdgKickEff n v acc s = .done (wdgAccept n acc s) := by
  unfold wdgKickEff
  rcases h with ⟨hrun, hval, hexp | hopen | hnow⟩ | ⟨hrun, hn, hval⟩
  · simp [hon, hrun, hval, hexp]
  · simp [hon, hrun, hval, hopen]
  · simp [hon, hrun, hval, hnow]
  · simp [hon, hrun, hval, hn]

theorem wdgKickEff_alarms (hon : odUse s (odKey 0x2202 (n + 1)) ≠ 0) (h : KickAlarms n v s) :
    wdgKickEff n v acc s = .done (raiseAlarm (0x70 + n) s) := by
  unfold wdgKickEff
  rcases h with ⟨hrun, hval⟩ | ⟨hrun, hexp, hopen, hnow⟩ | ⟨hrun, hn, hval⟩
  · simp [hon, hrun, hval]
  · simp [hon, hrun, hexp, hopen, Nat.not_le.2 hnow]
  · simp [hon, hrun, hval, hn]

theorem wdgKickEff_ignored (h : odUse s (odKey 0x2202 (n + 1)) = 0 ∨ (n = 0 ∧ (getWdg s 0).running = false)) :
    wdgKickEff n v acc s = .done s := by
  unfold wdgKickEff
  rcases h with hoff | ⟨rfl, hrun⟩
  · simp [hoff]
  · simp [hrun]

end Kick

theorem exec_wdgKick_of_reaches {n : Fin 16} {acc : Access} {value : Word} {s u : State} (h : Reaches acc (0x10100100 + 8 * n.val) s)
    (heff : wdgKickEff n.val (carried acc value) (atReg acc (0x10100100 + 8 * n.val)) s = .done u) :
    exec (.wdgKick n acc value) s = .next (countedWrite acc (0x10100100 + 8 * n.val) u) :=
  congrArg Host.Outcome.next (regWriteWith_done h heff)

/-! ### The window of a watchdog (R191, R192) -/

/-- The windows of running watchdogs open and close by themselves while the blocks work. -/
theorem exec_wdgWindowOpen_of_running {n : Fin 16} {s : State} (hon : blocksOn s = true) (hrun : (getWdg s n.val).running = true)
    (hexp : (getWdg s n.val).expired = false) : exec (.wdgWindowOpen n) s =
      .next (putWdg n.val { getWdg s n.val with open' := true } (advanceTo ((getWdg s n.val).from' + wdgOpens s n.val) s)) :=
  congrArg Host.Outcome.next (if_pos (by simp [hon, hrun, hexp]))

/-- Watchdog `n` after its window has closed without a kick. -/
def windowClosed (n : Nat) (s : State) : State :=
  putWdg n { getWdg s n with open' := false, expired := true } (advanceTo ((getWdg s n).from' + wdgCloses s n) s)

theorem exec_wdgWindowClose_of_running {n : Fin 16} {s : State} (hon : blocksOn s = true) (hrun : (getWdg s n.val).running = true)
    (hexp : (getWdg s n.val).expired = false) :
    exec (.wdgWindowClose n) s = .next (raiseAlarm (0x70 + n.val) (windowClosed n.val s)) :=
  congrArg Host.Outcome.next (if_pos (by simp [hon, hrun, hexp]))

theorem putWdg_advanceTo_frame (n t : Nat) (w : Wdg) (s : State) : Frame [.sdg, .now, .gtime] s (putWdg n w (advanceTo t s)) :=
  (putWdg_keep (M := fun p => p ∉ [.sdg, .now, .gtime]) (by simp) n w (advanceTo_keep (by simp) (by simp) t (Keep.refl s))).frame

/-- Settles O16: a kick has one of three answers, each a counted write; a window opens by one update of its watchdog, and closes by one
update and one alarm. -/
theorem watchdogsWatchTheirWindow : Obligations.WatchdogsWatchTheirWindow := by
  unfold Obligations.WatchdogsWatchTheirWindow
  refine ⟨?accepted, ?alarms, ?ignored, ?opens, ?closes⟩
  case accepted =>
    intro n acc value s h hon hkick
    have hcount := countReg_wdgKick n
    refine ⟨_, exec_wdgKick_of_reaches h (wdgKickEff_accepted hon hkick), writeTaken_of rfl, getWdg_putWdg_self _ _ _,
      fun m hm => getWdg_putWdg_ne _ hm _, rfl, ?_, (putWdg_frame _ _ s).trans_mono (countedWrite_frame _ _ _) (by simp) (by simp)⟩
    exact (RegsOnly.of rfl).trans ((countedWrite_regsOnly _ _ _).mono (by rw [hcount]; exact fun _ => id))
  case alarms =>
    intro n acc value s h hclk hon hkick
    obtain ⟨hwrite, htaken, hod, -, hframe⟩ :=
      alarmWrite_of_raiseAlarm acc (wdgAlarm_mem n) (alarmed_of_blocksOn h.on hclk) (countReg_wdgKick n)
    exact ⟨_, exec_wdgKick_of_reaches h (wdgKickEff_alarms hon hkick), hwrite, htaken, raiseAlarm_getWdg (wdgAlarm_mem n) s, hod, hframe⟩
  case ignored =>
    intro n acc value s h hoff
    have hcount := countReg_wdgKick n
    exact ⟨_, exec_wdgKick_of_reaches h (wdgKickEff_ignored hoff), writeTaken_of rfl,
      (countedWrite_regsOnly _ _ s).mono (by rw [hcount]; exact fun _ => id), countedWrite_frame _ _ s⟩
  case opens =>
    intro n s hon hrun hexp
    exact ⟨_, exec_wdgWindowOpen_of_running hon hrun hexp, rfl, getWdg_putWdg_self _ _ _, fun m hm => getWdg_putWdg_ne _ hm _, rfl, rfl,
      putWdg_advanceTo_frame _ _ _ s⟩
  case closes =>
    intro n s hon hclk hrun hexp
    have hget := raiseAlarm_getWdg (wdgAlarm_mem n) (windowClosed n.val s)
    have halarmed : alarmed (windowClosed n.val s) = true := alarmed_of_same (s := s) rfl rfl (alarmed_of_blocksOn hon hclk)
    obtain ⟨hod, hregs⟩ := raiseAlarm_only (0x70 + n.val) (windowClosed n.val s)
    exact ⟨_, exec_wdgWindowClose_of_running hon hrun hexp, raiseAlarm_now _ _, (hget _).trans (getWdg_putWdg_self _ _ _),
      fun m hm => (hget m).trans (getWdg_putWdg_ne _ hm _), raiseAlarm_after (wdgAlarm_mem n) halarmed rfl rfl rfl rfl rfl rfl rfl,
      (OdOnly.of rfl).trans hod, (RegsOnly.of rfl).trans hregs,
      (putWdg_advanceTo_frame _ _ _ s).trans_mono (raiseAlarm_frame _ _) (by simp [alarmParts]) (by simp)⟩

end Sys2Proof.Machine
end

section
/-! PROOF. Frames of pendants: the full counter and the checks (R814 to R816), an accepted frame's slot, counts and record (R816, R823),
what STOP, ARM and DISARM add (R824, R828), and rejections (R825). -/

namespace Sys2Proof.Machine

/-! ### The full counter and check 3 (R814, R816) -/

theorem fullCounter_bounds (h low : Nat) : (h : Int) - 32768 ≤ fullCounter h low ∧ fullCounter h low ≤ (h : Int) + 32767 := by
  simp only [fullCounter]
  omega

theorem fullCounter_emod {low : Nat} (h : Nat) (hlow : low < 65536) : fullCounter h low % 65536 = (low : Int) := by
  simp only [fullCounter]
  omega

section Replay
variable (p : Pendant)

theorem replayCheck_of_gt {c : Int} (h : (p.h : Int) < c) : replayCheck p c = 0 := if_pos h

theorem replayCheck_self : replayCheck p p.h = 3 := by simp [replayCheck]

theorem replayCheck_of_stale {c : Int} (h : c < (p.h : Int) - 32) : replayCheck p c = 4 := by
  rw [replayCheck, if_neg (by omega), if_neg (by omega), if_pos h]

/-- Bit `n` of the bitmap is that of the counter H - 1 - `n`. -/
theorem replayCheck_of_seen {n : Nat} (hn : n < 32) (hseen : bit p.seen n = true) : replayCheck p ((p.h : Int) - 1 - n) = 3 := by
  have hbit : ((p.h : Int) - 1 - ((p.h : Int) - 1 - n)).toNat = n := by omega
  rw [replayCheck, if_neg (by omega), if_neg (by omega), if_neg (by omega), hbit, if_pos hseen]

theorem replayCheck_le (c : Int) : replayCheck p c ≤ 4 := by
  unfold replayCheck
  repeat' split
  all_goals decide

/-- The counter next to H shifts the bitmap by one place, and the old H takes the place that comes free. -/
theorem whAdvance_succ : whAdvance p ((p.h : Int) + 1) = { p with h := p.h + 1, seen := (p.seen * 2 + 1) % 2 ^ 32 } := by
  have hstep : ((p.h : Int) + 1 - p.h).toNat = 1 := by omega
  have hnext : ((p.h : Int) + 1).toNat = p.h + 1 := by omega
  simp only [whAdvance, hstep, hnext]
  rw [if_pos (by omega)]
  simp

/-- An accepted counter moves only H and the bitmap. -/
theorem whAdvance_same (c : Int) : (whAdvance p c).accepted = p.accepted ∧ (whAdvance p c).committed = p.committed ∧
    (whAdvance p c).armed = p.armed := by
  unfold whAdvance
  dsimp only
  split <;> exact ⟨rfl, rfl, rfl⟩

end Replay

/-! ### The checks of a body (R816) -/

section Check
variable {s : State} {body : Nat}

theorem whCheck_of_unknown (h : pendantSlot s (bodyId body) = none) : whCheck s body = .error 1 := by
  unfold whCheck
  rw [h]

theorem whCheck_of_badMac {k : Nat} {key : List Byte} (hslot : pendantSlot s (bodyId body) = some k) (hkey : (getPendant s k).key = some key)
    (hmac : whMac s key body (fullCounter (getPendant s k).h (bodyCounter body)) ≠ bodyMac body) : whCheck s body = .error 2 := by
  simp only [whCheck, hslot, hkey, if_pos hmac]

/-- The reasons of the four checks are 0x01 to 0x05. -/
theorem whCheck_error_le {r : Nat} (h : whCheck s body = .error r) : r ≤ 5 := by
  unfold whCheck at h
  dsimp only at h
  split at h
  next => cases h; decide
  next k _ =>
    split at h
    next => cases h; decide
    next key _ =>
      have hreplay := replayCheck_le (getPendant s k) (fullCounter (getPendant s k).h (bodyCounter body))
      split at h
      next => cases h; decide
      next =>
        split at h
        next => cases h; omega
        next =>
          split at h
          next => cases h; decide
          next => cases h

end Check

/-! ### Counting, messages and records (R823, R825) -/

theorem regCount_regsOnly (a n : Nat) (s : State) : RegsOnly [a] s (regCount a n s) := (RegsOnly.refl _ s).put (by simp)

theorem regCount_regRaw_self (a n : Nat) (s : State) : regRaw (regCount a n s) a = satAdd (regRaw s a) n 0xFFFFFFFF % 2 ^ 64 :=
  regRaw_regPut_self s a _

theorem sendMsg_frame (src : Nat) (s : State) : Frame [.regs] s (sendMsg src s) :=
  (sendMsg_keep (M := fun p => p ∉ [.regs]) (by simp) src (Keep.refl s)).frame

@[simp] theorem sendMsg_wh (src : Nat) (s : State) : (sendMsg src s).wh = s.wh := (sendMsg_frame src s).same .wh (by simp)

/-- The counters of Whistle lie below the routes of messages. -/
theorem rejCount_lt_routeAddr {k : Nat} (hk : k < 8) (src : Nat) : rejCount k < routeAddr src := by
  unfold rejCount routeAddr
  omega

theorem rejCount_lt_safeRouteAddr {k : Nat} (hk : k < 8) (e : Nat) : rejCount k < safeRouteAddr e := by
  unfold rejCount safeRouteAddr
  omega

theorem rejCount_not_mem_msgRegs {k : Nat} (hk : k < 8) (src : Nat) : rejCount k ∉ msgRegs src := by
  simp only [msgRegs, List.mem_cons, List.mem_map, not_or, not_exists, not_and]
  exact ⟨Nat.ne_of_lt (rejCount_lt_routeAddr hk src), fun e _ => Nat.ne_of_gt (rejCount_lt_safeRouteAddr hk e)⟩

theorem sendMsg_rejCount {k : Nat} (hk : k < 8) (src : Nat) (s : State) : regRaw (sendMsg src s) (rejCount k) = regRaw s (rejCount k) :=
  sendMsg_regs src s _ (rejCount_not_mem_msgRegs hk src)

theorem safeMsg_rejCount {k : Nat} (hk : k < 8) (e : Nat) (s : State) : regRaw (safeMsg e s) (rejCount k) = regRaw s (rejCount k) :=
  safeMsg_regs e s _ (by simpa only [List.mem_singleton] using Nat.ne_of_lt (rejCount_lt_safeRouteAddr hk e))

section Record
variable {r : WhRec} {s : State}

theorem whRecord_of_room (h : s.wh.fifo.length < 16) :
    whRecord r s = sendMsg 1800 { s with wh := { s.wh with fifo := s.wh.fifo ++ [r] } } := if_pos h

theorem whRecord_of_full (h : 16 ≤ s.wh.fifo.length) : whRecord r s = regCount (rejCount 7) 1 s := if_neg (by omega)

/-- A record enters the FIFO or is dropped; nothing else of the receiver changes. -/
theorem whRecord_wh : (whRecord r s).wh = { s.wh with fifo := (whRecord r s).wh.fifo } := by
  by_cases h : s.wh.fifo.length < 16
  · rw [whRecord_of_room h, sendMsg_wh]
  · rw [whRecord_of_full (by omega)]
    rfl

theorem whRecord_getPendant (j : Nat) : getPendant (whRecord r s) j = getPendant s j := by
  unfold getPendant
  rw [whRecord_wh]

end Record

/-! ### An accepted frame: its slot, its counts and its record (R816, R818, R823, R829) -/

/-- The slot of an accepted frame with the full counter `c`, ended at `now`. -/
def acceptedPendant (body : Nat) (c : Int) (now : Nat) (p : Pendant) : Pendant :=
  { whAdvance p c with
    accepted := (whAdvance p c).accepted + 1
    committed := if bodyCommand body = 0x40 || ((whAdvance p c).accepted + 1) % 256 = 0 then (whAdvance p c).h else (whAdvance p c).committed
    timer := if (whAdvance p c).armed then some now else none }

/-- The state once an accepted frame has advanced its slot and is counted. -/
def whCounted (body k : Nat) (c : Int) (s : State) : State :=
  odCount (odKey 0x3300 5) 1 (regCount (rejCount 0) 1 (putPendant k (acceptedPendant body c s.now (getPendant s k)) s))

/-- The record of an accepted frame. -/
def acceptedRecord (n body k : Nat) (c : Int) (s : State) : WhRec :=
  { channel := n, slot := k, command := bodyCommand body, body := body, gtime := gnow s, counter := ofSigned 32 c }

/-- The state once an accepted frame is counted and recorded: what every command does. -/
def whRecorded (n body k : Nat) (c : Int) (s : State) : State := whRecord (acceptedRecord n body k c s) (whCounted body k c s)

section Accepted
variable (n : Nat) {body : Nat} (k : Nat) (c : Int) (s : State)

/-- A frame that is neither an ARM nor a 256th accepted one leaves the committed H (R818). -/
theorem acceptedPendant_of_not_commit (now : Nat) (p : Pendant) (hcmd : bodyCommand body ≠ 0x40) (h256 : (p.accepted + 1) % 256 ≠ 0) :
    acceptedPendant body c now p =
      { whAdvance p c with accepted := p.accepted + 1, timer := if p.armed then some now else none } := by
  obtain ⟨haccepted, -, harmed⟩ := whAdvance_same p c
  simp [acceptedPendant, haccepted, harmed, hcmd, h256]

theorem acceptedPendant_committed_of_arm (now : Nat) (p : Pendant) (hcmd : bodyCommand body = 0x40) :
    (acceptedPendant body c now p).committed = (acceptedPendant body c now p).h := by
  simp [acceptedPendant, hcmd]

theorem whCounted_regsOnly : RegsOnly [rejCount 0] s (whCounted body k c s) :=
  (RegsOnly.of (t := putPendant k _ s) rfl).trans ((regCount_regsOnly _ _ _).trans (RegsOnly.of rfl))

theorem whCounted_rejCount : regRaw (whCounted body k c s) (rejCount 0) = satAdd (regRaw s (rejCount 0)) 1 0xFFFFFFFF % 2 ^ 64 :=
  regCount_regRaw_self _ _ (putPendant k _ s)

theorem whCounted_odOnly : OdOnly [odKey 0x3300 5] s (whCounted body k c s) :=
  (OdOnly.of (t := regCount (rejCount 0) 1 (putPendant k _ s)) rfl).put (by simp)

theorem whCounted_accepted : odGet (whCounted body k c s) (odKey 0x3300 5) =
    satAdd (odGet s (odKey 0x3300 5)) 1 (odCap (odKey 0x3300 5)) := odGet_odPut_self _ _ _

theorem whRecorded_keep {M : Part → Prop} (h_regs : ¬ M .regs) (h_od : ¬ M .od) (h_wh : ¬ M .wh) : Keep M s (whRecorded n body k c s) :=
  whRecord_keep h_regs h_wh _ (odCount_keep h_od _ _ (regCount_keep h_regs _ _ (putPendant_keep h_wh _ _ (Keep.refl s))))

theorem whRecorded_frame : Frame [.regs, .od, .wh] s (whRecorded n body k c s) :=
  (whRecorded_keep (M := fun p => p ∉ [.regs, .od, .wh]) n k c s (by simp) (by simp) (by simp)).frame

theorem whRecorded_od : (whRecorded n body k c s).od = (whCounted body k c s).od :=
  (whRecord_keep (M := fun p => p = .od) (by simp) (by simp) _ (Keep.refl _)).same .od rfl

theorem whRecorded_odOnly : OdOnly [odKey 0x3300 5] s (whRecorded n body k c s) :=
  (whCounted_odOnly k c s).trans (OdOnly.of (whRecorded_od n k c s))

theorem whRecorded_accepted : odGet (whRecorded n body k c s) (odKey 0x3300 5) =
    satAdd (odGet s (odKey 0x3300 5)) 1 (odCap (odKey 0x3300 5)) :=
  (OdOnly.of (l := []) (whRecorded_od n k c s) _ (by simp)).trans (whCounted_accepted k c s)

theorem whRecorded_getPendant_self :
    getPendant (whRecorded n body k c s) k = acceptedPendant body c s.now (getPendant s k) :=
  (whRecord_getPendant k).trans (getPendant_putPendant_self s k _)

theorem whRecorded_getPendant_ne {j : Nat} (hj : j ≠ k) : getPendant (whRecorded n body k c s) j = getPendant s j :=
  (whRecord_getPendant j).trans (getPendant_putPendant_ne s hj _)

theorem whRecorded_lost : (whRecorded n body k c s).wh.lost = s.wh.lost := by
  unfold whRecorded
  rw [whRecord_wh]
  rfl

section Room
variable (h : s.wh.fifo.length < 16)
include h

theorem whRecorded_of_room : whRecorded n body k c s = sendMsg 1800
    { whCounted body k c s with wh :=
      { (whCounted body k c s).wh with fifo := s.wh.fifo ++ [acceptedRecord n body k c s] } } := whRecord_of_room h

theorem whRecorded_wh_of_room : (whRecorded n body k c s).wh =
    { s.wh with pendants := (whRecorded n body k c s).wh.pendants, fifo := s.wh.fifo ++ [acceptedRecord n body k c s] } := by
  rw [whRecorded_of_room n k c s h, sendMsg_wh]
  rfl

theorem whRecorded_regsOnly_of_room : RegsOnly (rejCount 0 :: msgRegs 1800) s (whRecorded n body k c s) := by
  rw [whRecorded_of_room n k c s h]
  exact (((whCounted_regsOnly k c s).trans (RegsOnly.of rfl)).mono (by simp)).trans
    ((sendMsg_regs 1800 _).mono fun _ => List.mem_cons_of_mem _)

theorem whRecorded_rejCount_of_room :
    regRaw (whRecorded n body k c s) (rejCount 0) = satAdd (regRaw s (rejCount 0)) 1 0xFFFFFFFF % 2 ^ 64 := by
  rw [whRecorded_of_room n k c s h, sendMsg_rejCount (by decide)]
  exact whCounted_rejCount k c s

end Room

section Full
variable (h : 16 ≤ s.wh.fifo.length)
include h

theorem whRecorded_of_full : whRecorded n body k c s = regCount (rejCount 7) 1 (whCounted body k c s) := whRecord_of_full h

/-- A dropped record is counted; the FIFO keeps what it holds. -/
theorem whRecorded_dropped : (whRecorded n body k c s).wh.fifo = s.wh.fifo ∧
    regRaw (whRecorded n body k c s) (rejCount 7) = satAdd (regRaw s (rejCount 7)) 1 0xFFFFFFFF % 2 ^ 64 := by
  rw [whRecorded_of_full n k c s h, regCount_regRaw_self, whCounted_regsOnly k c s (rejCount 7) (by simp [rejCount])]
  exact ⟨rfl, rfl⟩

end Full

/-! ### What a command adds to its record (R822, R824, R828) -/

/-- The state after a STOP: noted for SafetyStatus, announced to the safety router, its frame asked for. -/
def stopNoted (s : State) : State := ssRequest (ms 5) (safeMsg 1 { s with sdg := { s.sdg with stopAt := some s.now } })

/-- What the device itself does with a command, beyond its record. -/
def whCommand (command k : Nat) (s : State) : State :=
  match command with
  | 0x01 => stopNoted s
  | 0x40 => whArm k true s
  | 0x41 => whArm k false s
  | _ => s

theorem whCommand_of_plain {command : Nat} (h1 : command ≠ 0x01) (h40 : command ≠ 0x40) (h41 : command ≠ 0x41) :
    whCommand command k s = s := by
  unfold whCommand
  split
  next => exact absurd rfl h1
  next => exact absurd rfl h40
  next => exact absurd rfl h41
  next => rfl

theorem whAccept_eq : whAccept n body k c s = whCommand (bodyCommand body) k (whRecorded n body k c s) := rfl

end Accepted

theorem stopNoted_keep {M : Part → Prop} {z s : State} (h_regs : ¬ M .regs) (h_sdg : ¬ M .sdg) (hz : Keep M z s) : Keep M z (stopNoted s) :=
  ssRequest_keep h_sdg _ (safeMsg_keep h_regs _ (Keep.upd_sdg h_sdg (fun _ hp => PinsOk.same hp rfl rfl rfl rfl rfl) hz))

theorem stopNoted_frame (s : State) : Frame [.regs, .sdg] s (stopNoted s) :=
  (stopNoted_keep (M := fun p => p ∉ [.regs, .sdg]) (by simp) (by simp) (Keep.refl s)).frame

theorem stopNoted_stopAt (s : State) : (stopNoted s).sdg.stopAt = some s.now := by
  obtain ⟨flight, last, bound, hsdg⟩ := ssRequest_sdg (ms 5) (safeMsg 1 { s with sdg := { s.sdg with stopAt := some s.now } })
  unfold stopNoted
  rw [hsdg, (safeMsg_keep (M := fun p => p = .sdg) (by simp) 1 (Keep.refl _)).same .sdg rfl]

theorem stopNoted_rejCount {k : Nat} (hk : k < 8) (s : State) : regRaw (stopNoted s) (rejCount k) = regRaw s (rejCount k) := by
  have hregs : (stopNoted s).regs = _ := (ssRequest_keep (M := fun p => p = .regs) (by simp) _ (Keep.refl _)).same .regs rfl
  exact (RegsOnly.of (l := []) hregs _ (by simp)).trans (safeMsg_rejCount hk 1 _)

section Arm
variable (k : Nat) (on : Bool) (s : State)

theorem whArm_frame : Frame [.wh] s (whArm k on s) := (whArm_keep (M := fun p => p ∉ [.wh]) (by simp) k on (Keep.refl s)).frame

theorem whArm_getPendant_self :
    getPendant (whArm k on s) k = { getPendant s k with armed := on, timer := if on then some s.now else none } :=
  getPendant_putPendant_self s k _

theorem whArm_getPendant_ne {j : Nat} (hj : j ≠ k) : getPendant (whArm k on s) j = getPendant s j := getPendant_putPendant_ne s hj _

theorem whArm_lost : (whArm k on s).wh.lost = clearMask s.wh.lost (2 ^ k) := rfl

variable (n : Nat) {body : Nat} (c : Int)

theorem whArm_whRecorded_getPendant_self : getPendant (whArm k on (whRecorded n body k c s)) k =
    { acceptedPendant body c s.now (getPendant s k) with armed := on, timer := if on then some s.now else none } := by
  rw [whArm_getPendant_self, whRecorded_getPendant_self, (whRecorded_frame n k c s).same .now (by simp)]

/-- ARM and DISARM touch no other slot, and clear the flag of theirs (R828). -/
theorem whArm_whRecorded_rest : (∀ j, j ≠ k → getPendant (whArm k on (whRecorded n body k c s)) j = getPendant s j) ∧
    (whArm k on (whRecorded n body k c s)).wh.lost = clearMask s.wh.lost (2 ^ k) ∧
    OdOnly [odKey 0x3300 5] s (whArm k on (whRecorded n body k c s)) ∧
    Frame [.regs, .od, .wh] s (whArm k on (whRecorded n body k c s)) :=
  ⟨fun _ hj => (whArm_getPendant_ne k on _ hj).trans (whRecorded_getPendant_ne n k c s hj),
    by rw [whArm_lost, whRecorded_lost],
    (whRecorded_odOnly n k c s).trans (OdOnly.of rfl),
    (whRecorded_frame n k c s).trans_mono (whArm_frame k on _) (List.Subset.refl _) (by simp)⟩

end Arm

/-! ### A rejection (R825) -/

/-- A rejection with none announced in the last 100 ms: counted, and announced unless it is a DUPLICATE. -/
theorem whReject_of_quiet (r : Nat) {s : State} (h : ∀ a, s.wh.rejAt = some a → a + ms 100 ≤ s.now) :
    whReject r s = if r = 3 then regCount (rejCount r) 1 s
      else sendMsg 1803 { regCount (rejCount r) 1 s with wh := { s.wh with rejAt := some s.now } } := by
  unfold whReject
  cases hat : s.wh.rejAt with
  | none => simp [regCount_eq, hat]
  | some a => simp [regCount_eq, hat, Nat.not_lt.2 (h a hat)]

theorem whReject_frame (r : Nat) (s : State) : Frame [.regs, .wh] s (whReject r s) :=
  (whReject_keep (M := fun p => p ∉ [.regs, .wh]) (by simp) (by simp) r (Keep.refl s)).frame

/-- What such a rejection counts, notes and sends. -/
theorem whReject_effect {r : Nat} {s : State} (h : ∀ a, s.wh.rejAt = some a → a + ms 100 ≤ s.now) (hr : r < 8) :
    RegsOnly (rejCount r :: msgRegs 1803) s (whReject r s) ∧
    regRaw (whReject r s) (rejCount r) = satAdd (regRaw s (rejCount r)) 1 0xFFFFFFFF % 2 ^ 64 ∧
    (whReject r s).wh = if r = 3 then s.wh else { s.wh with rejAt := some s.now } := by
  have hcount : RegsOnly (rejCount r :: msgRegs 1803) s (regCount (rejCount r) 1 s) := (regCount_regsOnly _ _ s).mono (by simp)
  rw [whReject_of_quiet r h]
  split
  next => exact ⟨hcount, regCount_regRaw_self _ _ s, rfl⟩
  next =>
    exact ⟨(hcount.trans (RegsOnly.of rfl)).trans ((sendMsg_regs 1803 _).mono fun _ => List.mem_cons_of_mem _),
      (sendMsg_rejCount hr 1803 _).trans (regCount_regRaw_self _ _ s), sendMsg_wh _ _⟩

/-! ### A decoded frame on a channel that hunts (R813, R816) -/

section Hunting
variable {channel : Fin 4} {body : Word} {s : State} (hon : whChannelOn s channel.val = true) (hunts : bit s.wh.flooded channel.val = false)
include hon hunts

theorem whFrame_of_ok {k : Nat} {c : Int} (hok : whCheck s body.toNat = .ok (k, c)) :
    whFrame channel.val body s = whAccept channel.val body.toNat k c s := by
  simp [whFrame, hon, hunts, hok]

theorem whFrame_of_error {r : Nat} (herr : whCheck s body.toNat = .error r) : whFrame channel.val body s = whReject r s := by
  simp [whFrame, hon, hunts, herr]

theorem whFrameOf_of_ok {command k : Nat} {c : Int} (hcmd : bodyCommand body.toNat = command)
    (hok : whCheck s body.toNat = .ok (k, c)) : whFrameOf command channel.val body s =
      whCommand command k (whRecorded channel.val body.toNat k c s) := by
  rw [whFrameOf, if_pos hcmd, whFrame_of_ok hon hunts hok, whAccept_eq, hcmd]

theorem exec_whistleStop_of_ok {k : Nat} {c : Int} (hcmd : bodyCommand body.toNat = 0x01) (hok : whCheck s body.toNat = .ok (k, c)) :
    exec (.whistleStop channel body) s = .next (stopNoted (whRecorded channel.val body.toNat k c s)) :=
  congrArg Host.Outcome.next (whFrameOf_of_ok hon hunts hcmd hok)

theorem exec_whistleArm_of_ok {k : Nat} {c : Int} (hcmd : bodyCommand body.toNat = 0x40) (hok : whCheck s body.toNat = .ok (k, c)) :
    exec (.whistleArm channel body) s = .next (whArm k true (whRecorded channel.val body.toNat k c s)) :=
  congrArg Host.Outcome.next (whFrameOf_of_ok hon hunts hcmd hok)

theorem exec_whistleDisarm_of_ok {k : Nat} {c : Int} (hcmd : bodyCommand body.toNat = 0x41) (hok : whCheck s body.toNat = .ok (k, c)) :
    exec (.whistleDisarm channel body) s = .next (whArm k false (whRecorded channel.val body.toNat k c s)) :=
  congrArg Host.Outcome.next (whFrameOf_of_ok hon hunts hcmd hok)

theorem exec_rejectedFrame_of_error {r : Nat} (herr : whCheck s body.toNat = .error r) :
    exec (.rejectedFrame channel body) s = .next (whReject r s) := by
  rw [← whFrame_of_error hon hunts herr]
  simp only [exec, execRejectedFrame, herr]

theorem exec_whistleCodingError_of_hunting : exec (.whistleCodingError channel) s = .next (regCount (rejCount 6) 1 s) :=
  congrArg Host.Outcome.next (if_pos (by simp [hon, hunts]))

end Hunting

/-- A command that does nothing beyond its record, with its code (R822). -/
def PlainFrame (channel : Fin 4) (body : Word) (i : Instr) (command : Nat) : Prop :=
  (i, command) ∈ [(.whistleHold channel body, 0x02), (.hitchUp channel body, 0x10), (.hitchDown channel body, 0x11),
    (.creepFwd channel body, 0x20), (.creepRev channel body, 0x21), (.whistleHeartbeat channel body, 0x30)]

theorem plainFrame_iff {channel : Fin 4} {body : Word} {i : Instr} {command : Nat} : PlainFrame channel body i command ↔
    i = .whistleHold channel body ∧ command = 0x02 ∨ i = .hitchUp channel body ∧ command = 0x10 ∨
    i = .hitchDown channel body ∧ command = 0x11 ∨ i = .creepFwd channel body ∧ command = 0x20 ∨
    i = .creepRev channel body ∧ command = 0x21 ∨ i = .whistleHeartbeat channel body ∧ command = 0x30 := by
  simp only [PlainFrame, List.mem_cons, Prod.mk.injEq, List.not_mem_nil, or_false]

theorem exec_of_plainFrame {channel : Fin 4} {body : Word} {i : Instr} {command : Nat} (s : State)
    (hi : PlainFrame channel body i command) : exec i s = .next (whFrameOf command channel.val body s) := by
  rcases plainFrame_iff.1 hi with ⟨rfl, rfl⟩ | ⟨rfl, rfl⟩ | ⟨rfl, rfl⟩ | ⟨rfl, rfl⟩ | ⟨rfl, rfl⟩ | ⟨rfl, rfl⟩ <;> rfl

theorem command_of_plainFrame {channel : Fin 4} {body : Word} {i : Instr} {command : Nat}
    (hi : PlainFrame channel body i command) : command ≠ 0x01 ∧ command ≠ 0x40 ∧ command ≠ 0x41 := by
  rcases plainFrame_iff.1 hi with h | h | h | h | h | h <;> omega

/-- Settles O58: an accepted frame is counted and recorded, and STOP, ARM and DISARM each add one update to that; the checks and the full
counter are arithmetic on H and the bitmap. -/
theorem whistleFramesAreJudged : Obligations.WhistleFramesAreJudged := by
  unfold Obligations.WhistleFramesAreJudged
  refine ⟨?plain, whAdvance_succ, ?counter, ?replay, ?stop, ?arm, ?disarm, ?rejected, fun _ _ => whCheck_of_unknown,
    fun _ _ _ _ => whCheck_of_badMac, ?coding⟩
  case plain =>
    intro channel body k command c i p q s hi hon hunts hcmd hok hroom hp hq h256
    subst hp hq
    obtain ⟨h1, h40, h41⟩ := command_of_plainFrame hi
    have hrecorded := (whFrameOf_of_ok hon hunts hcmd hok).trans (whCommand_of_plain k _ h1 h40 h41)
    refine ⟨_, (exec_of_plainFrame s hi).trans (congrArg Host.Outcome.next hrecorded), ?_,
      fun j hj => whRecorded_getPendant_ne channel.val k c s hj, ?_, whRecorded_accepted channel.val k c s,
      whRecorded_rejCount_of_room channel.val k c s hroom, whRecorded_odOnly channel.val k c s,
      whRecorded_regsOnly_of_room channel.val k c s hroom, whRecorded_frame channel.val k c s⟩
    · rw [whRecorded_getPendant_self, acceptedPendant_of_not_commit c _ _ (hcmd ▸ h40) h256]
    · rw [← hcmd]
      exact whRecorded_wh_of_room channel.val k c s hroom
  case counter =>
    intro h low hlow
    obtain ⟨hlo, hhi⟩ := fullCounter_bounds h low
    exact ⟨hlo, hhi, fullCounter_emod h hlow⟩
  case replay =>
    exact fun p => ⟨replayCheck_self p, fun _ => replayCheck_of_stale p, fun _ => replayCheck_of_gt p, fun _ => replayCheck_of_seen p⟩
  case stop =>
    intro channel body k c s hon hunts hcmd hok
    have hframe := whRecorded_frame channel.val k c s (body := body.toNat)
    have hnoted := stopNoted_frame (whRecorded channel.val body.toNat k c s)
    have hwh : _ = (whRecorded channel.val body.toNat k c s).wh := hnoted.same .wh (by simp)
    refine ⟨_, exec_whistleStop_of_ok hon hunts hcmd hok, ?_, fun hroom => ?_, fun hfull => ?_,
      (whRecorded_odOnly channel.val k c s).trans (OdOnly.of (hnoted.same .od (by simp))), hframe.trans_mono hnoted (by simp) (by simp)⟩
    · rw [stopNoted_stopAt, hframe.same .now (by simp)]
    · rw [hwh, whRecorded_wh_of_room channel.val k c s hroom, ← hcmd]
      rfl
    · obtain ⟨hfifo, hcount⟩ := whRecorded_dropped channel.val k c s hfull (body := body.toNat)
      exact ⟨(congrArg Whistle.fifo hwh).trans hfifo, (stopNoted_rejCount (by decide) _).trans hcount⟩
  case arm =>
    intro channel body k c s hon hunts hcmd hok
    have hself := whArm_whRecorded_getPendant_self k true s channel.val c (body := body.toNat)
    refine ⟨_, exec_whistleArm_of_ok hon hunts hcmd hok, congrArg Pendant.armed hself, congrArg Pendant.timer hself, ?_,
      whArm_whRecorded_rest k true s channel.val c⟩
    rw [hself]
    exact acceptedPendant_committed_of_arm c s.now _ hcmd
  case disarm =>
    intro channel body k c s hon hunts hcmd hok
    have hself := whArm_whRecorded_getPendant_self k false s channel.val c (body := body.toNat)
    exact ⟨_, exec_whistleDisarm_of_ok hon hunts hcmd hok, congrArg Pendant.armed hself, congrArg Pendant.timer hself,
      whArm_whRecorded_rest k false s channel.val c⟩
  case rejected =>
    intro channel body r s hon hunts herr hquiet
    obtain ⟨hregs, hcount, hwh⟩ := whReject_effect hquiet (Nat.lt_of_le_of_lt (whCheck_error_le herr) (by decide))
    exact ⟨_, exec_rejectedFrame_of_error hon hunts herr, hcount, hwh, hregs, whReject_frame r s⟩
  case coding =>
    intro channel s hon hunts
    exact ⟨_, exec_whistleCodingError_of_hunting hon hunts, regCount_regRaw_self _ _ s, rfl, regCount_regsOnly _ _ s,
      (regCount_keep (M := fun p => p ∉ [.regs]) (by simp) _ _ (Keep.refl s)).frame⟩

end Sys2Proof.Machine
end

section
/-! PROOF. Freeze-frame at the end of the 64-bit range of GTIME (R834, R835). The model reduces the GTIME that elapses to 64 bits, but neither
the target of a trigger nor the GTIME at which that target is latched: a capture can leave GTIME at 2^64, and the next command that waits for
an earlier value reduces it to 0. -/

namespace Sys2Proof.Machine

/-! ### Waiting for a GTIME that has passed -/

theorem gtimeReach_gtime_of_le {g : Nat} {s : State} (h : g ≤ s.gtime) : (gtimeReach g s).gtime = s.gtime % 2 ^ 64 := by
  simp [gtimeReach, advanceTo, gtimeRun, Nat.sub_eq_zero_of_le h, Nat.not_lt.2 h]

theorem frzAccept_gtime (src target : Nat) (s : State) : (frzAccept src target s).gtime = s.gtime :=
  (frzAccept_keep (M := fun p => p = .gtime) (by simp) (by simp) (by simp) src target (Keep.refl s)).same .gtime rfl

/-- A scheduled trigger whose moment has passed is accepted at once (R835). -/
theorem exec_frzScheduledAccept_gtime_of_le {v : Nat} {s t : State} (hv : s.frz.scheduled = some v) (hpast : v - 2000 ≤ s.gtime)
    (ht : exec .frzScheduledAccept s = .next t) : t.gtime = s.gtime % 2 ^ 64 := by
  have hexec : exec .frzScheduledAccept s = execFrzScheduledAccept s := rfl
  rw [hexec, execFrzScheduledAccept, hv] at ht
  obtain rfl := Host.Outcome.next.inj ht
  refine Eq.trans ?_ (gtimeReach_gtime_of_le hpast)
  simp only [apply_ite State.gtime, frzAccept_gtime, ite_self]

/-! ### A run past the range -/

/-- FRZ accepts triggers, GTIME is 2,000 ns short of 2^64, and a trigger is scheduled for the largest GTIME that 0x2300:03 can hold. -/
def nearRangeEnd : State :=
  { dev := .operational, gtime := 2 ^ 64 - 2000, frz := { on := true, scheduled := some (2 ^ 64 - 1) } }

/-- The same after one capture, whose target is 2^64. -/
def pastRangeEnd : State := frzFill [] (frzLatch (frzTrigger 1 nearRangeEnd))

/-- One capture, from the FRZ_TRIG pin to the FULL bank, leads from the one to the other. -/
theorem nearRangeEnd_runs_to_pastRangeEnd : ∃ a b, exec (.frzTrigPin (us 1) (us 1)) nearRangeEnd = .next a ∧ exec .frzLatch a = .next b ∧
    exec (.frzBankFull []) b = .next pastRangeEnd :=
  ⟨_, _, rfl, rfl, rfl⟩

theorem pastRangeEnd_gtime : pastRangeEnd.gtime = 2 ^ 64 := by decide +kernel

/-- The schedule still stands, and bank 1 is free for it. -/
theorem pastRangeEnd_awaits_schedule : pastRangeEnd.frz.scheduled = some (2 ^ 64 - 1) ∧ frzOpen 0 pastRangeEnd = true ∧
    pastRangeEnd.frz.pending = none ∧ frzFreeBank pastRangeEnd = some 1 := by decide +kernel

/-- Refutes O60: its clause on the scheduled trigger asks for `v - 2000 ≤ t.gtime`, and its premises do not bound GTIME. In `pastRangeEnd`,
which `nearRangeEnd_runs_to_pastRangeEnd` reaches from a GTIME within 64 bits, GTIME is 2^64 and v is 2^64 - 1; the trigger is accepted with
GTIME reduced to 0. -/
theorem not_freezeFramesAreTaken : ¬ Obligations.FreezeFramesAreTaken := by
  unfold Obligations.FreezeFramesAreTaken
  rintro ⟨-, -, -, -, -, -, hscheduled, -⟩
  obtain ⟨hv, hopen, hpending, hbank⟩ := pastRangeEnd_awaits_schedule
  obtain ⟨t, ht, hreached, -⟩ := hscheduled _ _ pastRangeEnd hv hopen hpending hbank
  have hzero : t.gtime = 0 := by
    rw [exec_frzScheduledAccept_gtime_of_le hv (by rw [pastRangeEnd_gtime]; decide) ht, pastRangeEnd_gtime, Nat.mod_self]
  rw [hzero] at hreached
  exact absurd hreached (by decide)

end Sys2Proof.Machine
end
